-- ==== Sys2Proof/Word.lean ====
section
/-!
DEFINITION. Words, bytes and sparse tables: the plainest data of the model (00_scope R8, R12).
-/
namespace Sys2Proof

/-- A 64-bit word: a core register, a system register, a Corward payload word. -/
abbrev Word := BitVec 64

/-- One byte. -/
abbrev Byte := BitVec 8

/-- A sparse table from a number (a port, a lane, a core, a flow, …) to a value.
Its keys rise strictly; a number that is not listed has the default the reader names. -/
abbrev Tab (α : Type) := List (Nat × α)

end Sys2Proof
end

