-- ==== Sys2Proof/Syntax.lean ====
section
/-!
DEFINITION. The commands of the module: one constructor per row of the spec's table of operations and events,
with the row's operands. What the outside world does to the part (a received byte, an error pattern, a measured value,
a coder's output) is an operand of the command that reports it.
-/
namespace Sys2Proof

/-- Who makes a register access (R5): software of partition p, the MC, or the host of port h through its window. -/
inductive Agent where
  | part (p : Fin 4)
  | mc
  | host (h : Fin 4)
deriving DecidableEq, Repr

/-- A buffer that can raise panic (R270): a fronthaul egress buffer, a Nose input buffer, a backhaul receive buffer. -/
inductive PanicSrc where
  | fh (m : Fin 32)
  | ns (e : Fin 2)
  | bp (n : Fin 4)
deriving DecidableEq, Repr

/-- A scrubber (R276): the page scrubber of a controller, or SRAM scrubber s. -/
inductive Scrubber where
  | page (ch : Fin 16)
  | sram (s : Fin 27)
deriving DecidableEq, Repr

/-- How a core's self-test ends (R337): whole, fit only for narrow mode, or failed. -/
inductive CoreTest where
  | whole
  | narrow
  | bad
deriving DecidableEq, Repr

/-- What a jig copy finds in a code block (R196, R197): whether the CRC passes, the iterations it needed, the unsatisfied checks or the
path metric, the bytes it writes to OUT, and its running time. -/
structure JigFind where
  crcPass : Bool
  iter : BitVec 6
  metric : BitVec 16
  out : List Byte
  time : BitVec 32
deriving DecidableEq, Repr

/-- A packet as an agent hands it to its injecting port (R223 to R225): SUBSRC, command, address, length, page hint, atomic operation and
width, operand and compare value, data; `dest` is used where nothing else decides the port (a NOTIFY),
`part` where the agent serves several partitions (it is that of the unit's job). -/
structure NocReq where
  subsrc : BitVec 6
  cmd : BitVec 6
  addr : BitVec 48
  len : BitVec 13
  page : BitVec 2
  aop : BitVec 4
  aw : Bool
  opnd : Word
  cmp : Word
  dest : Fin 160
  part : Fin 4
  data : List Byte
deriving DecidableEq, Repr

/-- A unit that crosses a die link (R239, R240): its 512 bits and the fields of its link word as they were sent, and the bits of the 544,
the link word's above the unit's, that arrive wrong. -/
structure LinkUnit where
  bits : BitVec 512
  lseq : BitVec 6
  ack : BitVec 6
  nak : Bool
  ctl : Bool
  vld : Bool
  err : BitVec 544
deriving DecidableEq, Repr

/-- A reading of Patina monitor m (R371, R372): ring degradation in 0.001 %, and replica slack in ps, both signed. -/
structure MonRead where
  m : Fin 128
  ratio : BitVec 16
  slack : BitVec 16
deriving DecidableEq, Repr

/-- What the boot ROM finds of a slot (R331): whether the signature verifies, and, of an image as shipped, whose bytes are not given,
whether its other checks pass and its RBC. -/
structure ImgFact where
  sig : Bool
  whole : Bool
  rbc : BitVec 7
deriving DecidableEq, Repr

/-- How the two oscillators stand after stage 3 (R330). -/
inductive OscFind where
  | agree
  | onlyA
  | onlyB
  | disagree
  | neither
deriving DecidableEq, Repr

/-- What a start-up stage finds at its end (R330 to R339): for stage 5 the regulators, the sensors that fail, the lanes of each die-link direction
that fail (17 the clock lane) and the optical lane directions that do not calibrate (2n + 1 for receive); for stage 6 the clusters, dies and
channels whose checkers fail and the IOD's; for stage 7 the cores that are not whole, the clusters, jig bits and dies that fail and the IOD;
for stage 8 the channels that fail. -/
inductive StageFind where
  | power
  | rails (ok : Bool)
  | osc (r : OscFind)
  | boot (a b : ImgFact)
  | calib (regs : Bool) (sensors : List (Fin 96)) (links : List (Fin 80 × List (Fin 18))) (optics : List (Fin 160))
  | sram (clusters : List (Fin 24)) (dies : List (Fin 2)) (channels : List (Fin 16)) (iod : Bool)
  | tests (cores : List (Fin 112 × CoreTest)) (clusters : List (Fin 24)) (jigs : List (Fin 2 × Fin 17)) (dies : List (Fin 2)) (iod : Bool)
  | memory (bad : List (Fin 16))
  | ready
deriving DecidableEq, Repr

/-- The RC counters (R9): each is kept by counter and bank (a partition, lane, port, group, channel, …). -/
inductive Counter where
  -- tick sequencer, by partition (R34)
  | tickOvrDrop | tickOvrDeg | tickOvrEsc | tickInjFail | tickBudgetExc | tickWinRej
  -- lanes, by lane (R52); the first six are 48 bits wide
  | lnFecCw | lnFecCorr | lnFecUncorr | lnFecSym | lnPrbsBits | lnPrbsErr | lnGapErr | lnRateOor | lnSleepRej
  -- fronthaul ports, by port, and their lanes, by lane (R86)
  | fhLate | fhEarly | fhHcrcErr | fhUnk | fhDup | fhTxLate | fhTxFmt | fhSelSw | fhPktDrop | fhSrInv
  | fhPes | fhPses | fhPuas
  | fhLnBip | fhLnOhcrc | fhLnCandOvf | fhLnEs | fhLnSes | fhLnUas | fhLnRei
  -- gain groups and Nose engines (R106)
  | gcSteps | gcNoack | gcCapt | nsDet | nsEarlyFalse | nsTrunc | nsOvl | nsInLoss
  -- jigs (R204)
  | jgFault | jgDone | jgSubRej | jgCxlMiss | jgDescErr | jgCrcFail | jgRetry
  -- Dovetail, by 4 * die + p, the histogram by 16 * (4 * die + p) + b (R220)
  | dvEnqRej | dvCxlPre | dvCxlRun | dvTomb | dvRelBad | dvCxlMiss | dvFwdStall | dvFwdFail | dvCfgRej | dvWaitHist
  -- fabric, by die, port, 17 * direction + lane, or direction (R243)
  | nocHcrcErr | nocRteFail | nocGateOrph | nocGateRefuse | nocReqTmo | nocRspLate | nocLnkLaneErr | nocLnkRetry
  | nocLnkCrcErr | nocLnkDrop
  -- DMA, by channel (R259)
  | dmaLate | dmaRej
  -- memory, by controller, and SRAM scrubbers (R282)
  | memCorr | memUnc | memRdUnwr | memTagErr | memRmwRef | memCaAlert | memCaReplay | memRdp | memStgHit | memStgMiss
  | memTrkOvf | memRetire | memCfgRej | srCorr | srUnc | srRepair | srSpareOut | srTrkOvf
  -- backhaul, by port, and time (R304)
  | bhRxErr | bhRxCtl | bhRxNomatch | bhRxOvsz | bhRxNobuf | bhRxFifo | bhRxFrm | bhTxFrm
  | msRxOk | msRxLate | msRxInvalid | msRxNotvalid | msRxNosa | msRxUntagged | msTxProt | msTxPnExh
  | tmTcFwd | tmTcNomatch | tmPtpDrop | tmOscSw
  -- host ports (R326)
  | hwEvtLost
  -- power domains; the refusals by 8 * domain + refuser (R360)
  | pwrEntry | pwrWake | pwrAbort | pwrRef
  -- thermal zones and domains, the log (R381, R405)
  | thWarn | thThr | fltLogFail
deriving DecidableEq, Repr

/-- A unit with a block of register space (R12), as R222 and the register sections name them. -/
inductive RegUnit where
  | core (c : Fin 112)
  | dma (e : Fin 28)
  | jig (die : Fin 2)
  | dovetail (die : Fin 2)
  | fabric (die : Fin 3)
  | framer
  | lanes
  | gain
  | nose
  | mem (ch : Fin 16)
  | sram
  | panic
  | backhaul
  | time
  | mc
  | power
  | thermal
deriving DecidableEq, Repr

/-- The registers that software writes and that have no row of their own in the table (R9), by bank. Fields that have their own row are
not written here. -/
inductive Reg where
  -- tick sequencer (R34)
  | tickPlanCtl (p : Fin 4)
  | tickEscGrace (p : Fin 4)
  -- lanes (R52)
  | lnStat (n : Fin 80)
  -- framer (R62, R86): ports, lanes, and words 1 to 7 of the stream entries
  | fhPortCtl (m : Fin 32)
  | fhPortStat (m : Fin 32)
  | fhDefTime (m : Fin 32)
  | fhLnDefl (n : Fin 64)
  | streamWord (m : Fin 32) (a : Fin 1024) (i : Fin 7)
  -- gain controller and Nose (R106): words 1 to 15 of the context descriptors
  | gcCapCfg
  | gcAckWait
  | gcCxlMin
  | gcGrpCfg1 (g : Fin 256)
  | gcGrpFlow (g : Fin 256)
  | nsCtxWord (c : Fin 256) (i : Fin 15)
  -- jigs (R204)
  | jgDescErr (die : Fin 2) (p : Fin 4)
  -- Dovetail (R205, R220): words 1 to 3 of the flow contexts
  | dvMbox (c : Fin 112)
  | dvFlowWord (f : BitVec 18) (i : Fin 3)
  -- fabric (R228, R232, R243)
  | nocDrainLim (die : Fin 3)
  | nocEpochLim (die : Fin 3)
  | nocReqTmo (die : Fin 3)
  | nocLnkThr (die : Fin 3)
  | nocRegCfg (q : Fin 160) (cls : Fin 4)
  | nocChg (q : Fin 160) (k : Fin 5)
  | nocRoute (router : Fin 72) (dest : Fin 160)
  -- DMA (R259)
  | dmaChCfg (e : Fin 28) (c : Fin 16)
  | dmaChStat (e : Fin 28) (c : Fin 16)
  | dmaChErr (e : Fin 28) (c : Fin 16)
  -- memory (R282)
  | memCtl (ch : Fin 16)
  | memRgn (i : Fin 8)
  | memRgnDef
  | memScrubCfg (ch : Fin 16)
  | memLastUnc (ch : Fin 16)
  | memUrg (ch : Fin 16) (k : Fin 5)
  | memDly (ch : Fin 16) (j : Fin 7)
  | memInj (ch : Fin 16)
  | srScrubCfg (s : Fin 27)
  | srLastUnc (s : Fin 27)
  | memPncFh (m : Fin 32)
  | memPncNs (e : Fin 2)
  | memPncBp (n : Fin 4)
  -- backhaul and time (R304)
  | bhCtl (n : Fin 4)
  | bhTxBase (n : Fin 4)
  | msCtl (n : Fin 4)
  | msPnThr (n : Fin 4)
  | bhFrBase (r : Fin 8)
  | bhFrPi (r : Fin 8)
  | tmCtl
  | tmStat
  | tmSfnOfsS
  | tmSfnOfsNs
  | tmSlewMax
  | tmOscThr
  | tmPpsCfg
  | tmBhLat (n : Fin 4)
  | tmBhAsym (n : Fin 4)
  | tmTcMap (m : Fin 32)
  -- host window (R326) and the post registers (R320)
  | hwStat (h : Fin 4)
  | hwCtl (h : Fin 4)
  /-- The 64-bit word at an offset of the host's window (R307), and a dword of the port's configuration space (R305). -/
  | window (off : BitVec 20)
  | pciCfg (i : Fin 1024)
  | mcPostVal (p : Fin 4)
  -- power (R360)
  | pwrDomStat (d : Fin 24)
  | pwrRetLost (d : Fin 24)
  | pwrLast (d : Fin 24)
  -- thermal supervisor (R381)
  | thCfg0
  | thCfg1
  /-- A register without a writable field: a write to it is ignored (R9). -/
  | readOnly
deriving DecidableEq, Repr

/-- What boundary scan does with the single-ended contacts of CN-HOST (R422): reads IDCODE, samples the contacts, drives them, or passes by. -/
inductive JtagOp where
  | idcode
  | sample
  | extest (drive : Word)
  | bypass
deriving DecidableEq, Repr

/-- What a register read names (R9, R305, R307): an RC counter by its bank; `n` bytes from an offset of a unit's block; the 64-bit word at an offset
of the host's window; a dword of a host port's configuration space. -/
inductive RdReg where
  | ctr (c : Counter) (bank : Nat)
  | block (u : RegUnit) (off : BitVec 24) (n : Fin 9)
  | window (off : BitVec 20)
  | config (i : Fin 1024)
deriving DecidableEq, Repr

/-- The commands. Each constructor stands for the row of the table that its comment names. -/
inductive Instr where
  /-- TICK_START (R21): At each tick start the time unit advances SFN/TIDX, and each partition's sequencer recomputes capacity and reads its active plan index N mod L. -/
  | tickStart
  /-- TRIGGER_INJECT (R21): At tick start plus OFFSET, the sequencer injects a plan entry's trigger as a kind 1 item into its Dovetail flow. -/
  | triggerInject (p : Fin 4)
  /-- TICK_PLAN_SWITCH (R22): At the computed tick N, a pending plan start or switch makes the new slot active and TICK_PLAN_SWITCH is raised. -/
  | tickPlanSwitch (p : Fin 4)
  /-- TICK_OVR (R29): A MUST item is not released when its deadline window closes, so an overrun is raised and its policy applied. -/
  | tickOvr (p : Fin 4)
  /-- TICK_ESC_DROP (R30): An escalated item is still not released at the end of its grace, so it is dropped or aborted and TICK_ESC_DROP is raised. -/
  | tickEscDrop (p : Fin 4)
  /-- TICK_EVT_FLOW_WRITE (R34): A write to TICK_EVT_FLOW is accepted or refused depending on EN and the partition's flow range. -/
  | tickEvtFlowWrite (who : Agent) (p : Fin 4) (val : BitVec 32)
  /-- COUNTER_READ_CLEAR (R9): A read of an RC counter returns its value and clears it, subject to R11 when an event arrives in the same cycle. -/
  | counterReadClear (who : Agent) (r : RdReg) (same : Nat)
  /-- REG_WRITE (R9): A write to a register that has no row of its own stores its RW fields and acts on W1C and W1S bits. -/
  | regWrite (who : Agent) (r : Reg) (val : Word)
  /-- LN_TX_SLEEP_ENTER (R48): A write to LN_CTL.TX_SLEEP asks the transmitter to enter light or deep sleep at the end of a gap, or is refused. -/
  | lnTxSleepEnter (who : Agent) (n : Fin 80) (depth : Fin 3)
  /-- LN_TX_WAKE (R50): A write of 0 to LN_CTL.TX_SLEEP starts a transmitter wake. -/
  | lnTxWake (who : Agent) (n : Fin 80)
  /-- LN_RX_SLEEP_ENTER (R49): A write to LN_CTL.RX_SLEEP asks the receiver to sleep, after a forced switch if the lane is selected, or is refused. -/
  | lnRxSleepEnter (who : Agent) (n : Fin 80) (depth : Fin 3)
  /-- LN_RX_WAKE (R50): A write of 0 to LN_CTL.RX_SLEEP starts a receiver wake. -/
  | lnRxWake (who : Agent) (n : Fin 80)
  /-- LN_DEPTH_CHANGE (R51): A write that moves a sleeping direction between light and deep sleep changes its depth without waking it. -/
  | lnDepthChange (who : Agent) (n : Fin 80) (rx : Bool) (deep : Bool)
  /-- LN_SLEEP_DONE (R50): A lane direction completes its entry to sleep or its change of depth, and any held sleep-field write then takes effect. -/
  | lnSleepDone (n : Fin 80) (rx : Bool)
  /-- LN_WAKE_DONE (R50): A lane direction reaches the awake state within its wake bound. -/
  | lnWakeDone (n : Fin 80) (rx : Bool)
  /-- LN_WAKE_FAIL (R51): A wake does not complete within twice its bound, so the direction returns to deep sleep and LN_WAKE_FAIL is raised. -/
  | lnWakeFail (n : Fin 80) (rx : Bool)
  /-- LN_TX_MODE (R45): A write to LN_CTL.TX_MODE selects traffic or a PRBS pattern at the next frame start, or is refused under R47. -/
  | lnTxMode (who : Agent) (n : Fin 80) (mode : Fin 4)
  /-- LN_RX_CHK (R46): A write to LN_CTL.RX_CHK turns the PRBS checker off or selects its pattern. -/
  | lnRxChk (who : Agent) (n : Fin 80) (chk : Fin 4)
  /-- LN_ERR_INJ (R47): A write of 1 to LN_CTL.ERR_INJ inverts one bit of the next generated PRBS symbol. -/
  | lnErrInj (who : Agent) (n : Fin 80)
  /-- OPTICAL_SIGNAL_CHANGE (R39): Optical signal presence on a receive lane appears or is lost. -/
  | opticalSignalChange (n : Fin 80) (present : Bool)
  /-- OE_FAULT (R36): An optical engine faults: all its receive lanes report loss of signal and all its transmitters go dark. -/
  | oeFault (e : Fin 8)
  /-- FEC_CODEWORD_RX (R39): A received RS(544,514) codeword is decoded, counted, and drives the search for FEC lock or its loss. -/
  | fecCodewordRx (n : Fin 80) (levels : BitVec 5440) (am : Option Bool)
  /-- PRBS_SYMBOL_RX (R46): The PRBS checker takes one PAM4 symbol, updates its lock state and counts bits and errors. -/
  | prbsSymbolRx (n : Fin 80) (level : Fin 4)
  /-- FRAME_TX_START (R41): At a frame's scheduled start, the transmitter begins the frame and sizes the gap's filler count. -/
  | frameTxStart (m : Fin 32) (unitW unitP : Nat)
  /-- FH_SLOT_TX (R66): For each slot of a sent frame, the framer compares the head of the egress buffer with the slot's stamp and sends it, sends the slot empty, or discards a late head. -/
  | fhSlotTx (m : Fin 32)
  /-- GAP_HEADER_RX (R43): The receiver reads a gap header by vote and either fixes the next frame start or counts LN_GAP_ERR. -/
  | gapHeaderRx (n : Fin 64) (pos : Nat) (hdr : List Byte)
  /-- FAW_MATCH (R69): The aligner finds an exact FAW, which opens, confirms or drops a search candidate or confirms the in-frame position. -/
  | fawMatch (n : Fin 64) (pos : Nat) (hits : List Nat) (oh : List Byte)
  /-- LINE_FRAME_RX (R55): A lane's copy of a line frame is received, and its overhead, BIP8 and multiframe lock are checked. -/
  | lineFrameRx (n : Fin 64) (bytes : List Byte) (unc : Bool)
  /-- FH_FRAME_RELEASE (R79): Once each lane's copy is complete, overdue or absent, the selector picks a lane and the frame's sections, gain bytes, packet chunk and SR bytes are delivered. -/
  | fhFrameRelease (m : Fin 32) (nOver : Fin 4)
  /-- DEFECT_EVAL (R75): Each frame period, every lane's raw defect conditions are evaluated and integrated, and FH_DEF_EVT is raised on a set or a clear. -/
  | defectEval (m : Fin 32)
  /-- PERF_SECOND_COMMIT (R77): Ten seconds after a second ends, its ES, SES and UAS counts are committed. -/
  | perfSecondCommit (m : Fin 32)
  /-- FH_EGRESS_WRITE (R65): A 64-byte stream write to an egress aperture is checked and queued as a downlink section with its window fixed. -/
  | fhEgressWrite (who : Agent) (m : Fin 32) (bytes : List Byte)
  /-- STREAM_ENTRY_WRITE (R62): A write of bytes 3:0 of a stream-table entry makes the module read and check the entry and accept or refuse it. -/
  | streamEntryWrite (who : Agent) (m : Fin 32) (a : Fin 1024) (val : BitVec 32)
  /-- FH_TX_AIS (R59): A write of FH_PORT_CTL.TX_AIS starts or stops sending alarm indication at the next frame start. -/
  | fhTxAis (who : Agent) (m : Fin 32) (on : Bool)
  /-- FH_PROT_LOCKOUT (R81): A write of CMD = LO to FH_PROT_CMD activates lockout of protection. -/
  | fhProtLockout (who : Agent) (m : Fin 32) (lane : Fin 2)
  /-- FH_PROT_FORCED_SWITCH (R81): A write of CMD = FS to FH_PROT_CMD requests a forced switch, or is refused. -/
  | fhProtForcedSwitch (who : Agent) (m : Fin 32) (lane : Fin 2)
  /-- FH_PROT_MANUAL_SWITCH (R81): A write of CMD = MS to FH_PROT_CMD requests a manual switch, or is refused. -/
  | fhProtManualSwitch (who : Agent) (m : Fin 32) (lane : Fin 2)
  /-- FH_PROT_CLEAR (R81): A write of CMD = 0 to FH_PROT_CMD clears the active protection command. -/
  | fhProtClear (who : Agent) (m : Fin 32) (lane : Fin 2)
  /-- FH_DEG_THR_WRITE (R86): A write to FH_DEG_THR is accepted, or refused when a threshold is out of range or SF_THR is not above SD_THR. -/
  | fhDegThrWrite (who : Agent) (m : Fin 32) (val : BitVec 32)
  /-- FH_PKT_FLOW_WRITE (R86): A write to FH_PKT_FLOW is accepted, or refused when EN = 1 names a flow outside the partition. -/
  | fhPktFlowWrite (who : Agent) (m : Fin 32) (val : BitVec 32)
  /-- GC_MEASURE_COMPLETE (R90): When all member windows of a tick have closed, the group's filters update and the loop may decide on a gain step. -/
  | gcMeasureComplete (g : Fin 256) (tick : BitVec 21)
  /-- GC_ACK_CHECK (R96): At start(k) + GC_ACK_WAIT, the controller checks acknowledgements and on a miss raises GC_INCOH and issues a restore. -/
  | gcAckCheck (g : Fin 256)
  /-- NS_EARLY_SIGHTING (R102): A context's metric passes THR over the sighting span, so an early sighting is raised and the group is fixed or a capture test is made. -/
  | nsEarlySighting (ctx : Fin 256) (pre : Fin 64) (fo : Fin 8) (start : BitVec 21) (delay : BitVec 24) (pwr metric noise : BitVec 16)
  /-- GC_FIX_END (R97): At start(E + 1), or after an unconfirmed sighting, the group leaves FIXED and its filters restart. -/
  | gcFixEnd (g : Fin 256)
  /-- NS_REPORT (R104): A final detection decision writes a report record to the context's ring and raises a kind 6 item to FLOW. -/
  | nsReport (ctx : Fin 256) (pre : Fin 64) (fo : Fin 8) (start : BitVec 21) (delay : BitVec 24) (pwr metric noise : BitVec 16)
  /-- NS_CTX_WRITE (R100): A write of bytes 3:0 of a Nose context descriptor makes the MC check the descriptor and accept or refuse it. -/
  | nsCtxWrite (who : Agent) (ctx : Fin 256) (val : BitVec 32)
  /-- GC_GRP_CFG0_WRITE (R106): A write to GC_GRP_CFG0 enables or disables the group, and a write of EN = 0 clears FAULT. -/
  | gcGrpCfg0Write (who : Agent) (g : Fin 256) (val : BitVec 32)
  /-- INTEGER_ALU (R113): A major 0x01 instruction performs the integer ALU operation selected by funct. -/
  | integerAlu (c : Fin 112) (major : BitVec 6) (rd rs1 rs2 : BitVec 5) (funct : BitVec 11)
  /-- MULTIPLY_DIVIDE (R115): A major 0x02 instruction performs a multiply, or a saturating divide or remainder. -/
  | multiplyDivide (c : Fin 112) (rd rs1 rs2 : BitVec 5) (funct : BitVec 11)
  /-- IMMEDIATE_ALU (R112): ADDI, ANDI, ORI, XORI, CLTI, CLTIU, ADDI32 or a shift by immediate computes into rd. -/
  | immediateAlu (c : Fin 112) (op : Fin 8) (rd rs1 : BitVec 5) (imm : BitVec 16)
  /-- INSH (R112): INSH0 to INSH3 insert a 16-bit immediate into one quarter of rs1. -/
  | insh (c : Fin 112) (q : Fin 4) (rd rs1 : BitVec 5) (imm : BitVec 16)
  /-- CALLR (R112): CALLR jumps to a register target and links the return address. -/
  | callr (c : Fin 112) (rd rs1 : BitVec 5) (imm : BitVec 16)
  /-- PCREL (R112): PCREL writes pc plus a shifted immediate to rd. -/
  | pcrel (c : Fin 112) (rd rs1 : BitVec 5) (imm : BitVec 16)
  /-- LOAD (R116): A scalar load reads 1 to 8 bytes, sign- or zero-extended, into g[rt]. -/
  | load (c : Fin 112) (rt rb : BitVec 5) (fn : BitVec 4) (off : BitVec 12)
  /-- STORE (R116): A scalar store writes the low 1 to 8 bytes of g[rt]. -/
  | store (c : Fin 112) (rt rb : BitVec 5) (fn : BitVec 4) (off : BitVec 12)
  /-- ATOMIC (R117): An atomic memory operation reads and writes its target indivisibly and returns the old value. -/
  | atomic (c : Fin 112) (rd rs1 rs2 : BitVec 5) (funct : BitVec 11)
  /-- JMP (R112): JMP sets pc to a PC-relative target. -/
  | jmp (c : Fin 112) (rs : BitVec 5) (off : BitVec 21)
  /-- CALL (R112): CALL links pc + 4 into g[rs] and jumps to a PC-relative target. -/
  | call (c : Fin 112) (rs : BitVec 5) (off : BitVec 21)
  /-- BRANCH (R112): BZ, BNZ, BNEG, BNNEG, BNPOS or BPOS branches when g[rs] meets its condition. -/
  | branch (c : Fin 112) (cond : Fin 6) (rs : BitVec 5) (off : BitVec 21)
  /-- SYSCALL (R118): SYSCALL raises SYSCALL_U or SYSCALL_S with imm10 in HZ_TVAL. -/
  | syscall (c : Fin 112) (rd rs1 : BitVec 5) (imm : BitVec 10)
  /-- BPT (R118): BPT raises BREAK with imm10 in HZ_TVAL. -/
  | bpt (c : Fin 112) (rd rs1 : BitVec 5) (imm : BitVec 10)
  /-- ERET (R125): ERET returns from a trap, unless a held work-item abort is taken instead. -/
  | eret (c : Fin 112) (rd rs1 : BitVec 5) (imm : BitVec 10)
  /-- WAIT (R136): WAIT idles the core and, under HZ_WAITCFG.MODE, votes for its domain's sleep state. -/
  | wait (c : Fin 112) (rd rs1 : BitVec 5) (imm : BitVec 10)
  /-- WAIT_COMPLETE (R136): A waiting core is woken, or its vote is refused, aborted or followed by a wake, so WAIT completes with a RESULT. -/
  | waitComplete (c : Fin 112)
  /-- FENCE (R130): FENCE orders the earlier accesses of the BEFORE kinds before the later accesses of the AFTER kinds. -/
  | fence (c : Fin 112) (rd rs1 : BitVec 5) (imm : BitVec 10)
  /-- IFENCE (R118): IFENCE discards the instruction cache and any fetched instructions. -/
  | ifence (c : Fin 112) (rd rs1 : BitVec 5) (imm : BitVec 10)
  /-- GETSR (R122): GETSR reads a system register into rd. -/
  | getsr (c : Fin 112) (rd rs1 : BitVec 5) (imm : BitVec 10)
  /-- SETSR (R122): SETSR writes a system register and returns its old value. -/
  | setsr (c : Fin 112) (rd rs1 : BitVec 5) (imm : BitVec 10)
  /-- ORSR (R122): ORSR sets the bits of rs1 in a system register and returns its old value. -/
  | orsr (c : Fin 112) (rd rs1 : BitVec 5) (imm : BitVec 10)
  /-- ANDNSR (R122): ANDNSR clears the bits of rs1 in a system register and returns its old value. -/
  | andnsr (c : Fin 112) (rd rs1 : BitVec 5) (imm : BitVec 10)
  /-- CLEAN (R118): CLEAN writes back a dirty cache line on a Bench core. -/
  | clean (c : Fin 112) (rd rs1 : BitVec 5) (imm : BitVec 10)
  /-- INVAL (R118): INVAL discards a cache line without writing it back. -/
  | inval (c : Fin 112) (rd rs1 : BitVec 5) (imm : BitVec 10)
  /-- FLUSH (R118): FLUSH cleans a cache line, then discards it. -/
  | flush (c : Fin 112) (rd rs1 : BitVec 5) (imm : BitVec 10)
  /-- TLBINV (R118): TLBINV invalidates translations for a virtual address and an ASID. -/
  | tlbinv (c : Fin 112) (rd rs1 : BitVec 5) (imm : BitVec 10)
  /-- CORESIG (R118): CORESIG sets the SWI interrupt of the named core. -/
  | coresig (c : Fin 112) (rd rs1 : BitVec 5) (imm : BitVec 10)
  /-- INTERRUPT_TAKE (R127): A pending enabled interrupt is taken at an instruction boundary. -/
  | interruptTake (c : Fin 112)
  /-- WI_ABORT (R127): A work-item abort reaches a core and is taken at the next boundary, or is held in ABP at level S. -/
  | wiAbort (c : Fin 112)
  /-- TIMER_COMPARE (R123): The nanosecond counter passes HZ_TCMP.CMP with EN = 1, so HZ_IP.TMR becomes pending. -/
  | timerCompare (c : Fin 112)
  /-- STORE_ERROR_ASYNC (R128): A target error arrives for a store that has already left the core, which sets HZ_IP.FAB and HZ_FABERR. -/
  | storeErrorAsync (c : Fin 112)
  /-- VECTOR_INT_OP (R159): A major 0x20/0x28 vector instruction performs integer, logic or shift arithmetic on active elements. -/
  | vectorIntOp (c : Fin 112) (long : Bool) (vd vs1 vs2 : BitVec 5) (pg : BitVec 4) (funct : BitVec 7)
  /-- VECTOR_MULTIPLY (R160): A major 0x21/0x29 instruction multiplies, or widens into an accumulator. -/
  | vectorMultiply (c : Fin 112) (long : Bool) (vd vs1 vs2 : BitVec 5) (pg : BitVec 4) (funct : BitVec 7)
  /-- VVSETE (R148): VVSETE sets a granule's EA and zeroes its lanes. -/
  | vvsete (c : Fin 112) (long : Bool) (vd vs1 vs2 : BitVec 5) (pg : BitVec 4)
  /-- VENEER_MAC (R148): VVMUL, VVMAC, VVMACJ or VVMSUB aligns exact complex products to EA and writes or accumulates them. -/
  | veneerMac (c : Fin 112) (long : Bool) (k : Fin 4) (vd vs1 vs2 : BitVec 5) (pg : BitVec 4)
  /-- VVNORM (R149): VVNORM writes Veneer granules from an accumulator with freshly chosen exponents. -/
  | vvnorm (c : Fin 112) (long : Bool) (vd vs1 vs2 : BitVec 5) (pg : BitVec 4)
  /-- VECTOR_COMPARE (R162): VCMPEQ, VCMPNE, VCMPLT or VCMPLE writes a predicate. -/
  | vectorCompare (c : Fin 112) (long : Bool) (k : Fin 4) (vd vs1 vs2 : BitVec 5) (pg : BitVec 4)
  /-- VRANGE (R162): VRANGE makes the elements below g[gs1] active. -/
  | vrange (c : Fin 112) (long : Bool) (vd vs1 vs2 : BitVec 5) (pg : BitVec 4)
  /-- PREDICATE_LOGIC (R162): VPAND, VPOR, VPXOR or VPANDN combines predicates bitwise. -/
  | predicateLogic (c : Fin 112) (long : Bool) (k : Fin 4) (vd vs1 vs2 : BitVec 5) (pg : BitVec 4)
  /-- VFFMASK (R152): VFFMASK keeps the active elements of pg whose index lies below FFR. -/
  | vffmask (c : Fin 112) (long : Bool) (vd vs1 vs2 : BitVec 5) (pg : BitVec 4)
  /-- VFFSET (R162): VFFSET writes FFR. -/
  | vffset (c : Fin 112) (long : Bool) (vd vs1 vs2 : BitVec 5) (pg : BitVec 4)
  /-- VFFGET (R162): VFFGET reads FFR into a g register. -/
  | vffget (c : Fin 112) (long : Bool) (vd vs1 vs2 : BitVec 5) (pg : BitVec 4)
  /-- VFFARM (R152): VFFARM sets FFR to 512. -/
  | vffarm (c : Fin 112) (long : Bool) (vd vs1 vs2 : BitVec 5) (pg : BitVec 4)
  /-- VCNTP (R162): VCNTP counts the elements active in both ps1 and pg. -/
  | vcntp (c : Fin 112) (long : Bool) (vd vs1 vs2 : BitVec 5) (pg : BitVec 4)
  /-- VECTOR_REDUCE (R162): VREDADD, VREDMAX or VREDMIN reduces the active elements into a g register. -/
  | vectorReduce (c : Fin 112) (long : Bool) (k : Fin 3) (vd vs1 vs2 : BitVec 5) (pg : BitVec 4)
  /-- VPERM (R162): VPERM permutes the elements of vs1 by the indices in vs2. -/
  | vperm (c : Fin 112) (long : Bool) (vd vs1 vs2 : BitVec 5) (pg : BitVec 4)
  /-- VECTOR_LOAD (R153): VLD, VLDS, VLDX or VLDXS loads active elements and may stop resumably at a fault. -/
  | vectorLoad (c : Fin 112) (long : Bool) (form : Fin 4) (vd vs1 vs2 : BitVec 5) (pg : BitVec 4)
  /-- VECTOR_LOAD_FF (R152): VLDFF, VLDXFF or VLDXSFF loads up to its first faulting element and lowers FFR. -/
  | vectorLoadFf (c : Fin 112) (long : Bool) (form : Fin 3) (vd vs1 vs2 : BitVec 5) (pg : BitVec 4)
  /-- VLDPK (R150): VLDPK loads packed Veneer records into granules. -/
  | vldpk (c : Fin 112) (long : Bool) (vd vs1 vs2 : BitVec 5) (pg : BitVec 4)
  /-- VLDR (R164): VLDR loads a whole register without a predicate. -/
  | vldr (c : Fin 112) (long : Bool) (vd vs1 vs2 : BitVec 5) (pg : BitVec 4)
  /-- VLDPR (R164): VLDPR loads a whole predicate. -/
  | vldpr (c : Fin 112) (long : Bool) (vd vs1 vs2 : BitVec 5) (pg : BitVec 4)
  /-- VECTOR_STORE (R153): VST, VSTS, VSTX or VSTXS stores active elements, resumably. -/
  | vectorStore (c : Fin 112) (long : Bool) (form : Fin 4) (vd vs1 vs2 : BitVec 5) (pg : BitVec 4)
  /-- VSTPK (R150): VSTPK stores granules as packed Veneer records. -/
  | vstpk (c : Fin 112) (long : Bool) (vd vs1 vs2 : BitVec 5) (pg : BitVec 4)
  /-- VSTR (R164): VSTR stores a whole register. -/
  | vstr (c : Fin 112) (long : Bool) (vd vs1 vs2 : BitVec 5) (pg : BitVec 4)
  /-- VSTPR (R164): VSTPR stores a whole predicate. -/
  | vstpr (c : Fin 112) (long : Bool) (vd vs1 vs2 : BitVec 5) (pg : BitVec 4)
  /-- VECTOR_MOVE (R165): VDUP, VMOV, VSEL, VEXTR or VINS moves elements. -/
  | vectorMove (c : Fin 112) (long : Bool) (k : Fin 5) (vd vs1 vs2 : BitVec 5) (pg : BitVec 4)
  /-- VCNT (R165): VCNT returns COUNT. -/
  | vcnt (c : Fin 112) (long : Bool) (vd vs1 vs2 : BitVec 5) (pg : BitVec 4)
  /-- VECTOR_CONVERT (R165): VUNPKLO, VUNPKHI or VNARROW widens or narrows elements. -/
  | vectorConvert (c : Fin 112) (long : Bool) (k : Fin 3) (vd vs1 vs2 : BitVec 5) (pg : BitVec 4)
  /-- CBWB (R169): CBWB writes BASE of a circular buffer. -/
  | cbwb (c : Fin 112) (rd rs1 rs2 : BitVec 5) (pg : BitVec 4) (n : Fin 8)
  /-- CBWL (R169): CBWL writes LEN of a circular buffer. -/
  | cbwl (c : Fin 112) (rd rs1 rs2 : BitVec 5) (pg : BitVec 4) (n : Fin 8)
  /-- CBRB (R169): CBRB reads BASE of a circular buffer. -/
  | cbrb (c : Fin 112) (rd rs1 rs2 : BitVec 5) (pg : BitVec 4) (n : Fin 8)
  /-- CBRL (R169): CBRL reads LEN of a circular buffer. -/
  | cbrl (c : Fin 112) (rd rs1 rs2 : BitVec 5) (pg : BitVec 4) (n : Fin 8)
  /-- CBINC (R167): CBINC advances a pointer by g[rs2] and folds it into the buffer. -/
  | cbinc (c : Fin 112) (rd rs1 rs2 : BitVec 5) (pg : BitVec 4) (n : Fin 8)
  /-- CBINCI (R167): CBINCI advances a pointer by an immediate step and folds it into the buffer. -/
  | cbinci (c : Fin 112) (rd rs1 : BitVec 5) (n : Fin 8) (step : BitVec 13)
  /-- VLDC (R168): VLDCS or VLDCL loads a vector whose elements run through a circular buffer. -/
  | vldc (c : Fin 112) (long : Bool) (rd rs1 rs2 : BitVec 5) (pg : BitVec 4) (n : Fin 8)
  /-- VSTC (R168): VSTCS or VSTCL stores a vector whose elements run through a circular buffer. -/
  | vstc (c : Fin 112) (long : Bool) (rd rs1 rs2 : BitVec 5) (pg : BitVec 4) (n : Fin 8)
  /-- LOOP (R170): LOOP opens a block-repeat level with a count, or skips the body when the count is zero. -/
  | loop (c : Fin 112) (rd rs1 : BitVec 5) (imm : BitVec 10)
  /-- LPBRK (R170): LPBRK deactivates the innermost active level and continues after its END. -/
  | lpbrk (c : Fin 112) (rd rs1 : BitVec 5) (imm : BitVec 10)
  /-- LPRD (R173): LPRD reads START, END or CNT and ACT of a level. -/
  | lprd (c : Fin 112) (rd rs1 : BitVec 5) (imm : BitVec 10)
  /-- LPWR (R173): LPWR writes START, END or CNT and ACT of a level. -/
  | lpwr (c : Fin 112) (rd rs1 : BitVec 5) (imm : BitVec 10)
  /-- AZERO (R176): AZERO clears accumulator lanes. -/
  | azero (c : Fin 112) (long : Bool) (rd rs1 rs2 : BitVec 5) (pg : BitVec 4)
  /-- AMOV (R176): AMOV copies accumulator lanes. -/
  | amov (c : Fin 112) (long : Bool) (rd rs1 rs2 : BitVec 5) (pg : BitVec 4)
  /-- AADD (R176): AADD adds accumulator lanes with saturation. -/
  | aadd (c : Fin 112) (long : Bool) (rd rs1 rs2 : BitVec 5) (pg : BitVec 4)
  /-- ASHR (R176): ASHR shifts accumulator lanes right with rounding. -/
  | ashr (c : Fin 112) (long : Bool) (rd rs1 rs2 : BitVec 5) (pg : BitVec 4)
  /-- ARND (R176): ARND rounds accumulator lanes down into vector elements. -/
  | arnd (c : Fin 112) (long : Bool) (rd rs1 rs2 : BitVec 5) (pg : BitVec 4)
  /-- AQRD (R176): AQRD reads one quarter of an accumulator into a vector. -/
  | aqrd (c : Fin 112) (long : Bool) (rd rs1 rs2 : BitVec 5) (pg : BitVec 4)
  /-- AQWR (R176): AQWR writes one quarter of an accumulator from a vector. -/
  | aqwr (c : Fin 112) (long : Bool) (rd rs1 rs2 : BitVec 5) (pg : BitVec 4)
  /-- RLOCK (R177): RLOCK requests the cluster's Rasp lock and waits until it is granted. -/
  | rlock (c : Fin 112) (rd rs1 : BitVec 5) (imm : BitVec 10)
  /-- RASP_LOCK_GRANT (R177): The Rasp lock becomes free and is granted to the oldest waiting RLOCK. -/
  | raspLockGrant (cl : Fin 24)
  /-- RTRYLOCK (R177): RTRYLOCK takes the Rasp lock if it is free and reports whether it did. -/
  | rtrylock (c : Fin 112) (rd rs1 : BitVec 5) (imm : BitVec 10)
  /-- RUNLOCK (R177): RUNLOCK waits for the core's Rasp instructions to finish, then releases the lock. -/
  | runlock (c : Fin 112) (rd rs1 : BitVec 5) (imm : BitVec 10)
  /-- RSTAT (R181): RSTAT returns the Rasp scoreboard, tag and lock status. -/
  | rstat (c : Fin 112) (rd rs1 : BitVec 5) (imm : BitVec 10)
  /-- RERR (R180): RERR removes and returns the oldest Rasp late-error record. -/
  | rerr (c : Fin 112) (rd rs1 : BitVec 5) (imm : BitVec 10)
  /-- RMOVVK (R181): RMOVVKS or RMOVVKL moves a vector into a slice of a k register. -/
  | rmovvk (c : Fin 112) (long : Bool) (rd rs1 : BitVec 5) (imm : BitVec 10)
  /-- RMOVKV (R181): RMOVKVS or RMOVKVL moves a slice of a k register into a vector. -/
  | rmovkv (c : Fin 112) (long : Bool) (rd rs1 : BitVec 5) (imm : BitVec 10)
  /-- RMOVGK (R181): RMOVGK moves a g register into a word of a k register. -/
  | rmovgk (c : Fin 112) (rd rs1 : BitVec 5) (imm : BitVec 10)
  /-- RMOVKG (R181): RMOVKG moves a word of a k register into a g register. -/
  | rmovkg (c : Fin 112) (rd rs1 : BitVec 5) (imm : BitVec 10)
  /-- RCRC (R182): RCRC extends a CRC state over bits of a k register. -/
  | rcrc (c : Fin 112) (rd rs1 : BitVec 5) (imm : BitVec 10)
  /-- RGOLD (R182): RGOLD generates 2,048 bits of the Gold sequence. -/
  | rgold (c : Fin 112) (rd rs1 : BitVec 5) (imm : BitVec 10)
  /-- RMSEQ (R182): RMSEQ generates an m-sequence from taps and an initial state. -/
  | rmseq (c : Fin 112) (rd rs1 : BitVec 5) (imm : BitVec 10)
  /-- RILV (R182): RILV interleaves or de-interleaves bits. -/
  | rilv (c : Fin 112) (rd rs1 : BitVec 5) (imm : BitVec 10)
  /-- RRMIDX (R182): RRMIDX produces rate-matching circular-buffer indices. -/
  | rrmidx (c : Fin 112) (rd rs1 : BitVec 5) (imm : BitVec 10)
  /-- RSBI (R182): RSBI produces LTE sub-block interleaver indices. -/
  | rsbi (c : Fin 112) (rd rs1 : BitVec 5) (imm : BitVec 10)
  /-- RSEG (R182): RSEG computes code-block segmentation parameters. -/
  | rseg (c : Fin 112) (rd rs1 : BitVec 5) (imm : BitVec 10)
  /-- RXOR (R182): RXOR xors two k registers. -/
  | rxor (c : Fin 112) (rd rs1 : BitVec 5) (imm : BitVec 10)
  /-- RASP_OP_COMPLETE (R179): A Rasp instruction completes and, once committed, writes back kd or queues a late error. -/
  | raspOpComplete (cl : Fin 24) (late : Fin 4)
  /-- JG_SUBMIT (R187): A store to JG_SUBMITc makes the jig unit read, check and queue the descriptor, or complete it at once with a status. -/
  | jgSubmit (who : Agent) (die : Fin 2) (p : Fin 4) (cls : Fin 5) (addr : BitVec 48)
  /-- JG_DISPATCH (R194): A free in-service i-nstance takes the next job chosen by weighted round-robin. -/
  | jgDispatch (die : Fin 2) (cls : Fin 5)
  /-- JG_COMPLETE (R197): A job finishes, writes OUT, HOUT, AUX and STATUS in order and raises its completion event. -/
  | jgComplete (die : Fin 2) (cls : Fin 5) (inst : Fin 8) (f : JigFind)
  /-- JG_CANCEL (R199): A store to JG_CANCELc cancels the oldest matching job that has not yet written its STATUS. -/
  | jgCancel (who : Agent) (die : Fin 2) (p : Fin 4) (cls : Fin 5) (addr : BitVec 48)
  /-- JG_FAULT (R201): An i-nstance detects a fault, leaves service, and its job is retried or completes with JIG_FAULT. -/
  | jgFault (die : Fin 2) (cls : Fin 5) (inst : Fin 8)
  /-- DV_ENQ (R210): DV.ENQ has Dovetail read an item record and accept it or refuse it with a reason. -/
  | dvEnq (c : Fin 112) (rd rs1 : BitVec 5) (imm : BitVec 10)
  /-- DV_GET (R212): DV.GET takes the older staged item, writes its record to the mailbox and returns its handle. -/
  | dvGet (c : Fin 112) (rd rs1 : BitVec 5) (imm : BitVec 10)
  /-- DV_REL (R213): DV.REL releases a running item, as an ordinary item or as a tombstone, and ordered places leave in sequence. -/
  | dvRel (c : Fin 112) (rd rs1 : BitVec 5) (imm : BitVec 10)
  /-- DV_CXL (R216): DV.CXL cancels a queued, staged or running item. -/
  | dvCxl (c : Fin 112) (rd rs1 : BitVec 5) (imm : BitVec 10)
  /-- DV_ITEM_ARRIVE (R209): An item from an external source or from a successor forward reaches a flow and is accepted or refused. -/
  | dvItemArrive (p : Fin 4) (flow : BitVec 18) (kind : Fin 10) (prio : Option (Fin 16)) (tag arg0 arg1 : Word)
  /-- DV_STAGE (R211): Dovetail stages the best ready item onto a core with a free staging entry. -/
  | dvStage (die : Fin 2)
  /-- DV_FWD_RETRY (R215): A held leaving item is offered again to its successor once the successor has room. -/
  | dvFwdRetry (flow : BitVec 18)
  /-- DV_FLOW_CFG_WRITE (R206): A write of bytes 3:0 of a flow context reads and checks the configuration, and accepts or refuses it. -/
  | dvFlowCfgWrite (who : Agent) (flow : BitVec 18) (val : BitVec 32)
  /-- DV_CSET_WRITE (R214): A write to DV_CSETs sets a core set or is refused. -/
  | dvCsetWrite (who : Agent) (die : Fin 2) (p : Fin 4) (set : Fin 16) (val : Word)
  /-- NOC_INJECT (R231): A packet starts injection at its port once its class bucket holds enough tokens. -/
  | nocInject (src : Fin 160) (r : Option NocReq)
  /-- NOC_READ (R225): A READ request reaches its target, which answers with RDATA. -/
  | nocRead (src dest : Fin 160) (bad : Option (Fin 3 × BitVec 512))
  /-- NOC_WRITE (R225): A WRITE request reaches its target, which performs it and answers with WACK. -/
  | nocWrite (src dest : Fin 160) (bad : Option (Fin 3 × BitVec 512))
  /-- NOC_ATOMIC (R225): An ATOMIC request reaches its target, which performs it and answers with AACK. -/
  | nocAtomic (src dest : Fin 160) (bad : Option (Fin 3 × BitVec 512))
  /-- NOC_SWRITE (R225): An SWRITE stream write reaches its target, which performs it or answers SNAK. -/
  | nocSwrite (src dest : Fin 160) (bad : Option (Fin 3 × BitVec 512))
  /-- NOC_SWRITE_L (R225): An SWRITE_L stream write is performed and answered with LANDED, or with SNAK. -/
  | nocSwriteL (src dest : Fin 160) (bad : Option (Fin 3 × BitVec 512))
  /-- NOC_DVITEM (R225): A DVITEM packet carries an item record to Dovetail. -/
  | nocDvitem (src dest : Fin 160) (bad : Option (Fin 3 × BitVec 512))
  /-- NOC_DVANS (R225): A DVANS packet returns a DV.ENQ answer to a core. -/
  | nocDvans (src dest : Fin 160) (bad : Option (Fin 3 × BitVec 512))
  /-- NOC_NOTIFY (R225): A NOTIFY packet sets an HZ_IP bit at a core. -/
  | nocNotify (src dest : Fin 160) (bad : Option (Fin 3 × BitVec 512))
  /-- NOC_RDATA (R225): An RDATA answer reaches its requester, carrying data or an error STATUS. -/
  | nocRdata (src dest : Fin 160) (bad : Option (Fin 3 × BitVec 512))
  /-- NOC_WACK (R225): A WACK answer reaches its requester. -/
  | nocWack (src dest : Fin 160) (bad : Option (Fin 3 × BitVec 512))
  /-- NOC_AACK (R225): An AACK answer returns an atomic's old value. -/
  | nocAack (src dest : Fin 160) (bad : Option (Fin 3 × BitVec 512))
  /-- NOC_LANDED (R225): A LANDED answer reports that an SWRITE_L has been performed. -/
  | nocLanded (src dest : Fin 160) (bad : Option (Fin 3 × BitVec 512))
  /-- NOC_SNAK (R225): An SNAK reports a refused stream write to its source. -/
  | nocSnak (src dest : Fin 160) (bad : Option (Fin 3 × BitVec 512))
  /-- NOC_REQ_TIMEOUT (R237): No answer arrives within NOC_REQ_TMO, so the port answers its agent with STATUS 4. -/
  | nocReqTimeout (port : Fin 160) (cls : Fin 4) (seq : BitVec 12)
  /-- NOC_RTE_EPOCH_GO (R232): A write of NOC_RTE_EPOCH.GO switches every port to the standby epoch at its next packet boundary. -/
  | nocRteEpochGo (who : Agent) (die : Fin 3)
  /-- NOC_EPOCH_RETIRE (R232): The old epoch's unit counts reach zero everywhere, so CUR changes, BUSY clears and held classes resume. -/
  | nocEpochRetire
  /-- NOC_EPOCH_LATE (R233): The old epoch has not retired NOC_EPOCH_LIM after GO, so LATE is set and NOC_RTE_FAIL counted. -/
  | nocEpochLate
  /-- EPOCH_STUCK (R397): The old epoch has not retired 10 ms after GO, so FLT_EPOCH is raised and dies with old units are declared lost. -/
  | epochStuck
  /-- NOC_DRAIN_DONE (R235): A closing domain's fabric traffic finishes draining. -/
  | nocDrainDone (d : Fin 24)
  /-- NOC_DRAIN_TIMEOUT (R235): Drain is incomplete at NOC_DRAIN_LIM, so the gates reopen and sleep entry is aborted. -/
  | nocDrainTimeout (d : Fin 24)
  /-- LINK_UNIT_RX (R240): A die-link unit arrives and is checked by LCRC and LSEQ, then delivered or NAKed, with lane errors counted. -/
  | linkUnitRx (b : Fin 40) (dir : Fin 2) (u : LinkUnit) (crossed : List Nat)
  /-- LINK_NAK_RX (R240): A NAK arrives and the sender resends from ACK + 1 out of its replay buffer. -/
  | linkNakRx (b : Fin 40) (dir : Fin 2) (ack : BitVec 6)
  /-- LINK_REPAIR_RX (R241): A REPAIR control unit arrives, and the sender switches later units to in-band mode after sending SWITCH. -/
  | linkRepairRx (b : Fin 40) (dir : Fin 2) (lane : Fin 17)
  /-- LINK_SWITCH_RX (R241): A SWITCH control unit arrives, and the receiver samples later units in in-band mode. -/
  | linkSwitchRx (b : Fin 40) (dir : Fin 2) (lseq : BitVec 6)
  /-- LINK_BUNDLE_DOWN (R242): A bundle goes down in both directions, its packets are discarded or logged, and NOC_LNK_DOWN is raised. -/
  | linkBundleDown (b : Fin 40) (clk : Option (Fin 2)) (crossed : List Nat)
  /-- DMA_RUN (R257): A write of DMA_CH_CTL.RUN starts an idle or halted channel from DMA_CH_DESC. -/
  | dmaRun (who : Agent) (e : Fin 28) (c : Fin 16)
  /-- DMA_PAUSE (R256): A write of PAUSE = 1 stops the channel issuing reads so that it pauses. -/
  | dmaPause (who : Agent) (e : Fin 28) (c : Fin 16)
  /-- DMA_PAUSE_DONE (R256): A pausing channel has received and written all outstanding reads and enters PAUSED. -/
  | dmaPauseDone (e : Fin 28) (c : Fin 16) (units : BitVec 24)
  /-- DMA_RESUME (R256): A write of PAUSE = 0 continues a paused channel from its registers. -/
  | dmaResume (who : Agent) (e : Fin 28) (c : Fin 16)
  /-- DMA_STOP (R256): A write of DMA_CH_CTL.STOP pauses the channel and completes its descriptor with ABORTED. -/
  | dmaStop (who : Agent) (e : Fin 28) (c : Fin 16)
  /-- DMA_DOORBELL (R254): A write to DMA_CH_DOORBELL re-fetches a parked channel, or sets PEND_DB. -/
  | dmaDoorbell (who : Agent) (e : Fin 28) (c : Fin 16)
  /-- DMA_CH_DESC_WRITE (R257): A write to DMA_CH_DESC or DMA_CH_TICK is taken in IDLE, HALTED or PAUSED, and ignored and counted otherwise. -/
  | dmaChDescWrite (who : Agent) (e : Fin 28) (c : Fin 16) (tick : Bool) (v : BitVec 64)
  /-- DMA_DESC_FETCH (R246): A fetched descriptor is checked, parked on, or completed as BAD_DESC. -/
  | dmaDescFetch (e : Fin 28) (c : Fin 16)
  /-- DMA_TRIGGER (R251): A descriptor's due instant arrives, and it starts, starts late, or is skipped. -/
  | dmaTrigger (e : Fin 28) (c : Fin 16)
  /-- DMA_DESC_COMPLETE (R252): Once its data has left or landed, the descriptor's STATUS and OWN are written and completion is signalled. -/
  | dmaDescComplete (e : Fin 28) (c : Fin 16)
  /-- MEM_DIRTY_AGE_EXPIRE (R266): A dirty staging page reaches MEM_CTL.AGE and is encoded and written to its frame. -/
  | memDirtyAgeExpire (ch : Fin 16) (page : BitVec 22)
  /-- MEM_REFRESH (R269): A device refresh falls due and is issued or postponed. -/
  | memRefresh (ch : Fin 16) (how : Fin 3)
  /-- MEM_RDP_REFRESH (R271): A refresh of a neighbour row, drawn at an ACTIVATE, is issued. -/
  | memRdpRefresh (ch : Fin 16)
  /-- PANIC_RAISE (R270): A real-time buffer crosses its ON threshold, and every controller starts serving urgent ports first. -/
  | panicRaise (src : PanicSrc) (fill : Fin 65)
  /-- PANIC_LIFT (R270): A buffer crosses its OFF threshold, and panic is lifted once no source still raises it. -/
  | panicLift (src : PanicSrc) (fill : Fin 65)
  /-- MEM_CA_ALERT (R272): A device raises its parity alert, and the controller replays its retry buffer or the channel enters FAULT. -/
  | memCaAlert (ch : Fin 16) (cmds : Fin 33) (again : Bool)
  /-- MEM_SCRUB_READ (R276): The page scrubber reads one page in an idle cycle, corrects or reports it, and may retire it. -/
  | memScrubRead (ch : Fin 16) (upset : List Nat)
  /-- MEM_REMAP_SAVE (R279): The MC copies the remap table to module flash within 100 ms of a retirement. -/
  | memRemapSave (ch : Fin 16)
  /-- SR_SCRUB_READ (R276): An SRAM scrubber reads one word, corrects or reports it, and may repair its row. -/
  | srScrubRead (b : Fin 27) (bits : Fin 3)
  /-- MEM_SCRUB_SLOW (R276): A scrub lap is still incomplete LAPMAX minutes after it began. -/
  | memScrubSlow (src : Scrubber)
  /-- BH_FRAME_RX (R286): A backhaul frame is received, checked by MACsec, classified and written to a buffer with a kind 2 item. -/
  | bhFrameRx (n : Fin 4) (bytes : List Byte) (fifoFull : Bool)
  /-- BH_TX_TAIL_WRITE (R287): A write to BH_TX_TAIL hands new transmit descriptors to the port. -/
  | bhTxTailWrite (who : Agent) (n : Fin 4) (tail : BitVec 12)
  /-- BH_TX_FRAME (R287): A transmit descriptor is processed: the frame is protected and sent, or completed with an error status. -/
  | bhTxFrame (n : Fin 4)
  /-- BH_RULE_WRITE (R284): A write of a classification rule is accepted, or refused for a foreign flow. -/
  | bhRuleWrite (who : Agent) (n : Fin 4) (k : Fin 64) (val : Word)
  /-- BH_FLOW_WRITE (R304): A write to BH_DEF_FLOW or BH_TX_FLOW is accepted or refused by EN and the flow range. -/
  | bhFlowWrite (who : Agent) (n : Fin 4) (tx : Bool) (val : BitVec 32)
  /-- PTP_MSG_RX (R298): A PTP message reaches the time unit, which runs the protocol and servo. -/
  | ptpMsgRx
  /-- PTP_FOLLOWUP_RELEASE (R299): A held Follow_Up is corrected and forwarded once its Sync's egress stamp is known. -/
  | ptpFollowupRelease
  /-- TM_SNAP (R295): A write of TM_SNAP.GO latches a full time and the counter at one instant. -/
  | tmSnap (who : Agent)
  /-- OSC_CHECK (R300): Each second the oscillators are measured against each other and the reference, and one may be found failed. -/
  | oscCheck (refA refB : Int) (diff : Nat)
  /-- OSC_EDGE_LOSS (R300): An oscillator shows no edge for 1 µs, fails, and the active one switches within 2 µs. -/
  | oscEdgeLoss (osc : Fin 2)
  /-- REF_QUALIFY (R301): A reference qualifies, and the time unit moves to ACQUIRING. -/
  | refQualify (ext : Bool)
  /-- REF_LOST (R301): The locked reference is lost, and the state moves to ACQUIRING, HOLDOVER or FREERUN. -/
  | refLost (ext : Bool)
  /-- TM_LOCK (R301): The phase error stays below 100 ns for 60 s, so the state becomes LOCKED. -/
  | tmLock
  /-- HO_QUAL_SET (R301): After 15 minutes of continuous LOCKED, HO_QUAL is set. -/
  | hoQualSet
  /-- TM_HO_EVT (R301): Holdover passes 2 h, so HO_EXP is set and TM_HO_EVT is raised. -/
  | tmHoEvt
  /-- PPS_IN_EDGE (R302): A PPS_IN rising edge marks a second and counts towards qualification. -/
  | ppsInEdge
  /-- PPS_IN_LOST (R302): No PPS_IN edge arrives for 2 s, so the input is lost. -/
  | ppsInLost
  /-- FREQ_IN_CHANGE (R302): FREQ_IN enters or leaves ±5 ppm of 10 MHz. -/
  | freqInChange (inside : Bool)
  /-- PPS_OUT_SECOND (R303): At each second boundary PPS_OUT rises and pending output changes apply. -/
  | ppsOutSecond
  /-- HOST_CMD_PUSH (R308): A write TLP to the command aperture pushes its words into the command FIFO. -/
  | hostCmdPush (h : Fin 4) (words : List Word) (cut : Bool)
  /-- HOST_RPL_POP (R308): A read TLP of the reply aperture pops reply words. -/
  | hostRplPop (h : Fin 4) (n : Fin 65) (cut : Bool)
  /-- HOST_EVT_POP (R308): A read TLP of the event aperture pops event words. -/
  | hostEvtPop (h : Fin 4) (n : Fin 65) (cut : Bool)
  /-- HOST_DOORBELL (R309): A write to HW_DOORBELL commits the pushed words, or flushes them on a count mismatch. -/
  | hostDoorbell (h : Fin 4) (words : BitVec 15) (abortToo : Bool)
  /-- HOST_ABORT (R315): A write of HW_CTL.ABORT flushes every FIFO and ends the session. -/
  | hostAbort (h : Fin 4)
  /-- HOST_PERST (R306): HPn_PERST_N falls, so the port is reset, its FIFOs emptied and its session ended. -/
  | hostPerst (h : Fin 4)
  /-- HOST_PKT_TIMEOUT (R312): A committed header stays without the rest of its packet for 100 ms and counts as an HCRC failure. -/
  | hostPktTimeout (h : Fin 4)
  /-- CMD_TIMEOUT (R317): A command passes its execution bound, so the MC replies TIMEOUT and logs it. -/
  | cmdTimeout (h : Fin 4)
  /-- PART_MSG_POST (R320): A write of MC_POST_ADDRp posts a PART_MSG event to the partition's host. -/
  | partMsgPost (who : Agent) (p : Fin 4) (addr : Word)
  /-- HELLO (R313): HELLO begins a session, sets the expected SEQ and may take the manager right. -/
  | hello (h : Fin 4)
  /-- MOD_STATUS (R318): MOD_STATUS returns progress, readiness, partitions, power and temperature. -/
  | modStatus (h : Fin 4) (mw : BitVec 32)
  /-- EVT_MASK (R320): EVT_MASK sets which event groups are delivered to the host. -/
  | evtMask (h : Fin 4)
  /-- PART_CREATE (R323): PART_CREATE checks and grants a partition's resources. -/
  | partCreate (h : Fin 4)
  /-- PART_DESTROY (R324): PART_DESTROY stops, clears and releases a partition. -/
  | partDestroy (h : Fin 4)
  /-- PART_RELEASE_FILL (R324): After a PART_DESTROY reply, released LPDDR6 units are filled with zero pages in the background. -/
  | partReleaseFill (die : Fin 2)
  /-- PART_QUERY (R318): PART_QUERY returns the partition's granted resources. -/
  | partQuery (h : Fin 4)
  /-- PART_RESTART (R342): PART_RESTART stops, clears and self-tests the partition while keeping its grants. -/
  | partRestart (h : Fin 4) (tests : List (Fin 112 × CoreTest)) (clusters : List (Fin 24)) (jigs : List (Fin 2 × Fin 17))
  /-- CORE_START (R318): CORE_START releases the named cores at level S with ENTRY and ARG. -/
  | coreStart (h : Fin 4)
  /-- CORE_STOP (R318): CORE_STOP holds the named cores in reset and handles their items as on a core failure. -/
  | coreStop (h : Fin 4)
  /-- JIG_SHARE (R194): JIG_SHARE sets the partition's jig shares, completing queued jobs with NO_SHARE where a share falls to 0. -/
  | jigShare (h : Fin 4)
  /-- NOC_REGULATE (R231): NOC_REGULATE sets RATE and BURST of a port's class regulator. -/
  | nocRegulate (h : Fin 4)
  /-- GAIN_GROUP (R87): GAIN_GROUP checks and sets a gain group's member ranges. -/
  | gainGroup (h : Fin 4)
  /-- HOST_MSG (R318): HOST_MSG writes data into the partition and enqueues a kind 8 item. -/
  | hostMsg (h : Fin 4)
  /-- PWR_SET (R351): PWR_SET requests a level change, a sleep entry or a wake of a domain. -/
  | pwrSet (h : Fin 4)
  /-- PLAN_LOAD (R20): PLAN_LOAD checks a tick plan and loads it into a slot, or refuses it. -/
  | planLoad (h : Fin 4)
  /-- PLAN_START (R318): PLAN_START schedules the plan of a slot to start at a multiple of L. -/
  | planStart (h : Fin 4)
  /-- PLAN_SWITCH (R22): PLAN_SWITCH schedules a switch to the standby slot and returns N. -/
  | planSwitch (h : Fin 4)
  /-- PLAN_STOP (R318): PLAN_STOP stops injection or cancels a pending start. -/
  | planStop (h : Fin 4)
  /-- PLAN_CLEAR (R318): PLAN_CLEAR clears a plan slot. -/
  | planClear (h : Fin 4)
  /-- MEM_WRITE (R318): MEM_WRITE writes host data into partition memory. -/
  | memWrite (h : Fin 4)
  /-- MEM_READ (R318): MEM_READ returns partition memory to the host. -/
  | memRead (h : Fin 4)
  /-- MEM_FILL (R318): MEM_FILL fills whole pages with a pattern on the system DMA engines. -/
  | memFill (h : Fin 4)
  /-- MEM_REGION (R263): MEM_REGION sets a page-code region or the default T code. -/
  | memRegion (h : Fin 4)
  /-- MEM_INJECT (R281): MEM_INJECT arms MEM_INJ and writes a page with injected bit errors. -/
  | memInject (h : Fin 4)
  /-- FW_WRITE (R318): FW_WRITE writes image data into a flash slot. -/
  | fwWrite (h : Fin 4) (flashOk : Bool)
  /-- FW_COMMIT (R332): FW_COMMIT verifies the image in a slot. -/
  | fwCommit (h : Fin 4) (flashOk sigOk : Bool)
  /-- FW_SELECT (R332): FW_SELECT records a valid slot for the next start, and ends boot recovery. -/
  | fwSelect (h : Fin 4) (flashOk : Bool) (img : ImgFact)
  /-- LOG_READ (R388): LOG_READ returns event-log records. -/
  | logRead (h : Fin 4) (bad : Option (Fin 1024))
  /-- MS_SA_INSTALL (R289): MS_SA_INSTALL writes a MACsec SA into the key store. -/
  | msSaInstall (h : Fin 4)
  /-- MS_SA_ACTIVATE (R290): MS_SA_ACTIVATE sets the active transmit SA of a secure channel. -/
  | msSaActivate (h : Fin 4)
  /-- MS_SA_DELETE (R318): MS_SA_DELETE removes a MACsec SA. -/
  | msSaDelete (h : Fin 4)
  /-- TC_MAP (R299): TC_MAP ties a fronthaul port to a backhaul port for transparent-clock forwarding. -/
  | tcMap (h : Fin 4)
  /-- PTP_CFG (R298): PTP_CFG sets the PTP domain, ports, Delay_Req interval and local priorities. -/
  | ptpCfg (h : Fin 4)
  /-- TIME_SET (R302): TIME_SET sets the seconds of the time scale. -/
  | timeSet (h : Fin 4)
  /-- TIME_STEP (R293): TIME_STEP steps the time scale while nothing is enabled, and raises TM_STEP. -/
  | timeStep (h : Fin 4)
  /-- TIME_CFG (R318): TIME_CFG writes the time unit's configuration registers. -/
  | timeCfg (h : Fin 4)
  /-- THERM_CFG (R378): THERM_CFG sets thermal thresholds, hysteresis and throttle parameters from the next tick start. -/
  | thermCfg (h : Fin 4)
  /-- AGE_STATUS (R379): AGE_STATUS returns service hours, reserves, offsets and forecasts. -/
  | ageStatus (h : Fin 4)
  /-- MOD_RESET_ASSERT (R329): MOD_RESET_N held low holds every unit in reset and removes LPDDR6 power. -/
  | modResetAssert
  /-- MOD_RESET_RELEASE (R329): MOD_RESET_N rises and start-up begins at stage 1. -/
  | modResetRelease
  /-- VIN_OUT_OF_RANGE (R410): The input leaves its allowed range for too long, so all rails are removed and start-up returns to stage 1. -/
  | vinOutOfRange
  /-- STARTUP_STAGE_DONE (R327): A start-up stage completes its work and the next stage begins, or MOD_READY is raised after stage 9. -/
  | startupStageDone (ms : BitVec 12) (f : StageFind)
  /-- STARTUP_TIMEOUT (R327): A stage passes its bound, so start-up stops with TIMEOUT. -/
  | startupTimeout
  /-- BOOT_WATCHDOG (R332): The 300 ms boot watchdog expires, so the ROM falls back to the other slot or enters boot recovery. -/
  | bootWatchdog (a b : ImgFact)
  /-- PWR_WAKE_REQUEST (R354): A write of PWR_DOM_CTL.WAKE requests a domain's wake. -/
  | pwrWakeRequest (who : Agent) (d : Fin 24)
  /-- PWR_ENTRY_REQUEST (R353): A complete set of votes or a PWR_SET requests sleep entry, which is tested for refusers and, if accepted, starts its gate closing. -/
  | pwrEntryRequest (d : Fin 24)
  /-- PWR_ENTRY_DONE (R353): After drain, the domain completes entry to S1, S2 or S3, and PWR_STATE is raised. -/
  | pwrEntryDone (d : Fin 24)
  /-- PWR_WAKE_DONE (R355): A domain completes its wake table, checks retention, opens its gates and completes the WAITs. -/
  | pwrWakeDone (d : Fin 24) (lost : Word)
  /-- PWR_WAKE_TIMEOUT (R356): A wake step passes its timeout, and is retried or the domain is marked FAILED. -/
  | pwrWakeTimeout (d : Fin 24) (pll : Bool) (oscBad : Bool)
  /-- PWR_VOLT_SETTLED (R348): A rising level's voltage ramp settles, so the frequency change is due at the next tick start. -/
  | pwrVoltSettled (d : Fin 24)
  /-- TH_SAMPLE (R363): A thermal sensor is sampled or self-checked, updating warnings and possibly triggering a shut-down. -/
  | thSample (k : Fin 96) (reading : BitVec 16) (rise : BitVec 16)
  /-- AGE_REPLAN (R373): At each 6 service-hour mark, monitors are read and the MC raises offsets, delays and SerDes starting points. -/
  | ageReplan (mons : List MonRead) (moves : List (Fin 16 × List (Fin 5))) (adapted : List (Fin 160 × List Int)) (lats : List (Fin 4 × BitVec 32)) (flashOk : Bool)
  /-- CORE_FAULT (R391): A core faults and is held in reset, and its items, staging and Rasp lock are recovered. -/
  | coreFault (c : Fin 112) (cause : Fin 4)
  /-- CORE_SELFTEST_DONE (R391): A faulted core's self-test ends and its new weight and state are reported. -/
  | coreSelftestDone (c : Fin 112) (r : CoreTest)
  /-- DMA_ENGINE_FAULT (R393): A cluster DMA engine fails parity or its residue check and halts every channel. -/
  | dmaEngineFault (e : Fin 24)
  /-- DMA_ENGINE_TEST_DONE (R393): The MC's test of a faulted engine ends, and the engine returns to service or its cluster goes out. -/
  | dmaEngineTestDone (e : Fin 24) (ok : Bool)
  /-- TABLE_RELOAD (R394): The MC reloads an IOD table from its shadow after an uncorrectable error, and raises FLT_TABLE. -/
  | tableReload (port : Fin 160) (table : BitVec 24) (entries : BitVec 32) (part : Option (Fin 4)) (lost : List (Counter × Nat)) (trig : List (Fin 4))
  /-- MC_WATCHDOG (R395): The MC watchdog expires or MC memory fails, so the MC firmware restarts and sessions end. -/
  | mcWatchdog (cause : Fin 2)
  /-- MC_RESTART_DONE (R395): The MC firmware restart completes and FLT_MC_RESTART is raised. -/
  | mcRestartDone
  /-- MEM_CH_REINIT_DONE (R398): A faulted channel's reinitialisation ends, and the channel recovers or stays in FAULT. -/
  | memChReinitDone (ch : Fin 16) (ok : Bool)
  /-- DIE_LOST (R399): A compute die is lost in service, its domains are powered off and places reserved by its jig jobs are tombstoned. -/
  | dieLost (die : Fin 2) (cause : Fin 3)
  /-- MODULE_STOP (R400): An uncontainable fault stops the module with SEV 3. -/
  | moduleStop
  /-- LOG_WRITE (R385): The MC writes an event-log record to flash within 20 ms of the event. -/
  | logWrite (ok : Bool)
  /-- I2C_OFFSET_WRITE (R420): An I2C one-byte write sets the read offset. -/
  | i2cOffsetWrite (ofs : BitVec 8) (data : List Byte)
  /-- I2C_READ (R420): An I2C read returns bytes from the offset, latching a multi-byte field when its low byte is read. -/
  | i2cRead (n : Fin 257) (vin10 pin100 tbase : BitVec 16)
  /-- JTAG_SCAN (R422): A JTAG boundary-scan operation acts on the single-ended contacts of CN-HOST. -/
  | jtagScan (op : JtagOp)
  /-- FOLLOW_UP_NOMATCH (R299): A Follow_Up held for its Sync finds no matching Sync within 1 s, so it is forwarded unchanged and counted in TM_TC_NOMATCH. -/
  | followUpNomatch
  /-- PERST_RELEASE (R306): HPn_PERST_N rises, so port HPn's PCIe interface leaves reset and may train its link and open a new session. -/
  | perstRelease (h : Fin 4)
  /-- INPUT_POWER_APPLY (R410): Input power is applied or returns, the inrush limiter charges the bulk capacitance and start-up begins at stage 1. -/
  | inputPowerApply
  /-- DELAY_REQ_SEND (R298): At the commanded Delay_Req interval, the time unit sends a Delay_Req on its chosen backhaul port ahead of the transmit ring. -/
  | delayReqSend
  /-- SERVICE_HOUR (R372): Another whole hour with MOD_READY high passes, and the service-hour count in flash and AG_STAT.HOURS increments. -/
  | serviceHour (avg : BitVec 16)
  /-- VOLTAGE_RAMP_DOWN_DONE (R348): After a downward level change, the voltage finishes ramping down, the change completes and any held level request starts. -/
  | voltageRampDownDone (d : Fin 24)
deriving DecidableEq, Repr

end Sys2Proof
end

