-- ==== Sys2Proof/Decode.lean ====
section
/-!
DEFINITION. Commands as words: the table gives no row any bits, so no word spells a command. The instruction words of the cores (R110 to R112)
are taken apart here.
-/
namespace Sys2Proof

/-- The command that a word spells by the table's bits: none, since no row of the table has bits. [log 1: DESIGN CHOICE] -/
def decodeTableWord (_nbits _w : Nat) : Option Instr := none

/-! ### Instruction words of a core (R110 to R112) -/

/-- The register fields of a word (R110): bits 25:21, 20:16 and 15:11. -/
def wRd (w : BitVec 32) : BitVec 5 := w.extractLsb' 21 5
def wRs1 (w : BitVec 32) : BitVec 5 := w.extractLsb' 16 5
def wRs2 (w : BitVec 32) : BitVec 5 := w.extractLsb' 11 5

/-- The other fields: major, funct, imm16, off21, fn, off12, pg, funct7, sub, imm10. -/
def wMajor (w : BitVec 32) : BitVec 6 := w.extractLsb' 26 6
def wFunct (w : BitVec 32) : BitVec 11 := w.extractLsb' 0 11
def wImm16 (w : BitVec 32) : BitVec 16 := w.extractLsb' 0 16
def wOff21 (w : BitVec 32) : BitVec 21 := w.extractLsb' 0 21
def wFn (w : BitVec 32) : BitVec 4 := w.extractLsb' 12 4
def wOff12 (w : BitVec 32) : BitVec 12 := w.extractLsb' 0 12
def wPg (w : BitVec 32) : BitVec 4 := w.extractLsb' 7 4
def wFunct7 (w : BitVec 32) : BitVec 7 := w.extractLsb' 0 7
def wSub (w : BitVec 32) : BitVec 6 := w.extractLsb' 10 6
def wImm10 (w : BitVec 32) : BitVec 10 := w.extractLsb' 0 10

/-- The instruction of a vector word (R158 to R165): `j` is the major's low three bits, `l` tells the long class. -/
def decodeVector (c : Fin 112) (j : Nat) (l : Bool) (w : BitVec 32) : Option Instr :=
  let vd := wRd w
  let a := wRs1 w
  let b := wRs2 w
  let pg := wPg w
  let f := (wFunct7 w).toNat
  match j with
  | 0 => some (.vectorIntOp c l vd a b pg (wFunct7 w))
  | 1 => some (.vectorMultiply c l vd a b pg (wFunct7 w))
  | 2 => match f with
    | 0x00 => some (.vvsete c l vd a b pg)
    | 0x01 => some (.veneerMac c l 0 vd a b pg)
    | 0x02 => some (.veneerMac c l 1 vd a b pg)
    | 0x03 => some (.veneerMac c l 2 vd a b pg)
    | 0x04 => some (.veneerMac c l 3 vd a b pg)
    | 0x08 => some (.vvnorm c l vd a b pg)
    | _ => none
  | 3 => match f with
    | 0x00 => some (.vectorCompare c l 0 vd a b pg)
    | 0x01 => some (.vectorCompare c l 1 vd a b pg)
    | 0x02 => some (.vectorCompare c l 2 vd a b pg)
    | 0x03 => some (.vectorCompare c l 3 vd a b pg)
    | 0x08 => some (.vrange c l vd a b pg)
    | 0x09 => some (.predicateLogic c l 0 vd a b pg)
    | 0x0A => some (.predicateLogic c l 1 vd a b pg)
    | 0x0B => some (.predicateLogic c l 2 vd a b pg)
    | 0x0C => some (.predicateLogic c l 3 vd a b pg)
    | 0x10 => some (.vffmask c l vd a b pg)
    | 0x11 => some (.vffset c l vd a b pg)
    | 0x12 => some (.vffget c l vd a b pg)
    | 0x13 => some (.vffarm c l vd a b pg)
    | 0x14 => some (.vcntp c l vd a b pg)
    | 0x18 => some (.vectorReduce c l 0 vd a b pg)
    | 0x19 => some (.vectorReduce c l 1 vd a b pg)
    | 0x1A => some (.vectorReduce c l 2 vd a b pg)
    | 0x1C => some (.vperm c l vd a b pg)
    | _ => none
  | 4 => match f with
    | 0x00 => some (.vectorLoad c l 0 vd a b pg)
    | 0x01 => some (.vectorLoad c l 1 vd a b pg)
    | 0x02 => some (.vectorLoad c l 2 vd a b pg)
    | 0x03 => some (.vectorLoad c l 3 vd a b pg)
    | 0x04 => some (.vectorLoadFf c l 0 vd a b pg)
    | 0x05 => some (.vectorLoadFf c l 1 vd a b pg)
    | 0x06 => some (.vectorLoadFf c l 2 vd a b pg)
    | 0x08 => some (.vldpk c l vd a b pg)
    | 0x0C => some (.vldr c l vd a b pg)
    | 0x0D => some (.vldpr c l vd a b pg)
    | _ => none
  | 5 => match f with
    | 0x00 => some (.vectorStore c l 0 vd a b pg)
    | 0x01 => some (.vectorStore c l 1 vd a b pg)
    | 0x02 => some (.vectorStore c l 2 vd a b pg)
    | 0x03 => some (.vectorStore c l 3 vd a b pg)
    | 0x08 => some (.vstpk c l vd a b pg)
    | 0x0C => some (.vstr c l vd a b pg)
    | 0x0D => some (.vstpr c l vd a b pg)
    | _ => none
  | 6 => match f with
    | 0x00 => some (.vectorMove c l 0 vd a b pg)
    | 0x01 => some (.vectorMove c l 1 vd a b pg)
    | 0x02 => some (.vectorMove c l 2 vd a b pg)
    | 0x03 => some (.vectorMove c l 3 vd a b pg)
    | 0x04 => some (.vectorMove c l 4 vd a b pg)
    | 0x05 => some (.vcnt c l vd a b pg)
    | 0x08 => some (.vectorConvert c l 0 vd a b pg)
    | 0x09 => some (.vectorConvert c l 1 vd a b pg)
    | 0x0A => some (.vectorConvert c l 2 vd a b pg)
    | _ => none
  | _ => none

/-- The instruction of a word of majors 0x30 to 0x33 (R169, R173, R176). -/
def decodeDsp (c : Fin 112) (w : BitVec 32) : Option Instr :=
  let rd := wRd w
  let a := wRs1 w
  let b := wRs2 w
  let i := wImm10 w
  match (wMajor w).toNat with
  | 0x30 =>
    let n : Fin 8 := (w.extractLsb' 0 3).toFin
    let pg := w.extractLsb' 3 4
    match (w.extractLsb' 7 4).toNat with
    | 0x0 => some (.cbwb c rd a b pg n)
    | 0x1 => some (.cbwl c rd a b pg n)
    | 0x2 => some (.cbrb c rd a b pg n)
    | 0x3 => some (.cbrl c rd a b pg n)
    | 0x4 => some (.cbinc c rd a b pg n)
    | 0x8 => some (.vldc c false rd a b pg n)
    | 0x9 => some (.vldc c true rd a b pg n)
    | 0xA => some (.vstc c false rd a b pg n)
    | 0xB => some (.vstc c true rd a b pg n)
    | _ => none
  | 0x31 => some (.cbinci c rd a (w.extractLsb' 13 3).toFin (w.extractLsb' 0 13))
  | 0x32 => match (wSub w).toNat with
    | 0x00 => some (.loop c rd a i)
    | 0x01 => some (.lpbrk c rd a i)
    | 0x02 => some (.lprd c rd a i)
    | 0x03 => some (.lpwr c rd a i)
    | _ => none
  | _ =>
    let l := w.getLsbD 10
    let pg := w.extractLsb' 6 4
    match (w.extractLsb' 0 6).toNat with
    | 0x00 => some (.azero c l rd a b pg)
    | 0x01 => some (.amov c l rd a b pg)
    | 0x02 => some (.aadd c l rd a b pg)
    | 0x03 => some (.ashr c l rd a b pg)
    | 0x04 => some (.arnd c l rd a b pg)
    | 0x08 => some (.aqrd c l rd a b pg)
    | 0x09 => some (.aqwr c l rd a b pg)
    | _ => none

/-- The instruction of a word of majors 0x34 and 0x35 (R181, R182). -/
def decodeRasp (c : Fin 112) (w : BitVec 32) : Option Instr :=
  let rd := wRd w
  let a := wRs1 w
  let i := wImm10 w
  match (wMajor w).toNat, (wSub w).toNat with
  | 0x34, 0x00 => some (.rlock c rd a i)
  | 0x34, 0x01 => some (.rtrylock c rd a i)
  | 0x34, 0x02 => some (.runlock c rd a i)
  | 0x34, 0x03 => some (.rstat c rd a i)
  | 0x34, 0x04 => some (.rerr c rd a i)
  | 0x34, 0x08 => some (.rmovvk c false rd a i)
  | 0x34, 0x09 => some (.rmovvk c true rd a i)
  | 0x34, 0x0A => some (.rmovkv c false rd a i)
  | 0x34, 0x0B => some (.rmovkv c true rd a i)
  | 0x34, 0x0C => some (.rmovgk c rd a i)
  | 0x34, 0x0D => some (.rmovkg c rd a i)
  | 0x35, 0x00 => some (.rcrc c rd a i)
  | 0x35, 0x01 => some (.rgold c rd a i)
  | 0x35, 0x02 => some (.rmseq c rd a i)
  | 0x35, 0x03 => some (.rilv c rd a i)
  | 0x35, 0x04 => some (.rrmidx c rd a i)
  | 0x35, 0x05 => some (.rsbi c rd a i)
  | 0x35, 0x06 => some (.rseg c rd a i)
  | 0x35, 0x07 => some (.rxor c rd a i)
  | _, _ => none

/-- The instruction of a word of major 0x3E (R118, R205). -/
def decodeSystem (c : Fin 112) (w : BitVec 32) : Option Instr :=
  let rd := wRd w
  let a := wRs1 w
  let i := wImm10 w
  match (wSub w).toNat with
  | 0x00 => some (.syscall c rd a i)
  | 0x01 => some (.bpt c rd a i)
  | 0x02 => some (.eret c rd a i)
  | 0x03 => some (.wait c rd a i)
  | 0x04 => some (.fence c rd a i)
  | 0x05 => some (.ifence c rd a i)
  | 0x06 => some (.getsr c rd a i)
  | 0x07 => some (.setsr c rd a i)
  | 0x08 => some (.orsr c rd a i)
  | 0x09 => some (.andnsr c rd a i)
  | 0x0A => some (.clean c rd a i)
  | 0x0B => some (.inval c rd a i)
  | 0x0C => some (.flush c rd a i)
  | 0x0D => some (.tlbinv c rd a i)
  | 0x0E => some (.coresig c rd a i)
  | 0x10 => some (.dvEnq c rd a i)
  | 0x11 => some (.dvGet c rd a i)
  | 0x12 => some (.dvRel c rd a i)
  | 0x13 => some (.dvCxl c rd a i)
  | _ => none

/-- The instruction that core `c` reads from a word (R110 to R112); `none` for a major, funct or sub that no table lists, which is illegal. Where the
table of a major lists only some values of a funct, the instruction itself judges it. [log 10: DESIGN CHOICE] -/
def decodeWord (c : Fin 112) (w : BitVec 32) : Option Instr :=
  let rd := wRd w
  let a := wRs1 w
  let m := (wMajor w).toNat
  match m with
  | 0x01 => some (.integerAlu c 1 rd a (wRs2 w) (wFunct w))
  | 0x02 => some (.multiplyDivide c rd a (wRs2 w) (wFunct w))
  | 0x10 => some (.callr c rd a (wImm16 w))
  | 0x11 => some (.pcrel c rd a (wImm16 w))
  | 0x12 => some (.load c rd a (wFn w) (wOff12 w))
  | 0x13 => some (.store c rd a (wFn w) (wOff12 w))
  | 0x14 => some (.atomic c rd a (wRs2 w) (wFunct w))
  | 0x18 => some (.jmp c rd (wOff21 w))
  | 0x19 => some (.call c rd (wOff21 w))
  | 0x1A => some (.branch c 0 rd (wOff21 w))
  | 0x1B => some (.branch c 1 rd (wOff21 w))
  | 0x1C => some (.branch c 2 rd (wOff21 w))
  | 0x1D => some (.branch c 3 rd (wOff21 w))
  | 0x1E => some (.branch c 4 rd (wOff21 w))
  | 0x1F => some (.branch c 5 rd (wOff21 w))
  | 0x3E => decodeSystem c w
  | _ =>
    if 0x04 ≤ m ∧ m < 0x0C then some (.immediateAlu c (Fin.ofNat 8 (m - 4)) rd a (wImm16 w))
    else if 0x0C ≤ m ∧ m < 0x10 then some (.insh c (Fin.ofNat 4 (m - 12)) rd a (wImm16 w))
    else if 0x20 ≤ m ∧ m < 0x30 then decodeVector c (m % 8) (8 ≤ m % 16) w
    else if 0x30 ≤ m ∧ m < 0x34 then decodeDsp c w
    else if m = 0x34 ∨ m = 0x35 then decodeRasp c w
    else none

end Sys2Proof
end

