-- ==== Sys2Proof/Config.lean ====
section
/-!
DEFINITION. What an implementation fixes and the spec leaves open: values without a body, so that no proof can see them,
and the fixed figures of the module (00_scope R7, R12).
-/
namespace Sys2Proof.Config

/-- The free values (notes/assumptions/2.md): the n-th value the spec leaves open, cut to the width it is used at. [log 2: DESIGN CHOICE] -/
opaque free : Nat → Nat

/-- The direction in which the gain controller rounds the level of a power ratio, given as a fraction, to 1/16 dB (R88): the spec gives the quantity,
not the rounding of its logarithm. [log 36: DESIGN CHOICE] -/
opaque levelUp : Nat → Nat → Bool

/-- The level of power zero in 1/16 dB (R88): the spec states no logarithm of it. [log 36: DESIGN CHOICE] -/
opaque levelZero : Int

/-- HW_ID.FW: the version of the running MC firmware, by image slot (R326). [log 3: DESIGN CHOICE] -/
opaque fwVersion : Bool → BitVec 16

/-- The module's serial number (R420). [log 3: DESIGN CHOICE] -/
opaque serial : Nat → BitVec 8

/-- TM_BH_LATn: factory latency of backhaul port n (R304). [log 3: DESIGN CHOICE] -/
opaque bhLat : Nat → Nat

/-- Factory calibration: the initial Patina offset of a domain's level in 2.5 mV steps (R347, R360: "Calibrated"). [log 3: DESIGN CHOICE] -/
opaque calOfs : Nat → Nat → Nat

/-- The base graphs of TS 38.212 5.3.2: the shift V of an entry, by base graph (true: BG2), lifting set, row and column; `none` where the
entry is 0. The spec names the table (R185) and does not print it. [log 92: PRESUMED] -/
opaque ldpcShift : Bool → Nat → Nat → Nat → Option Nat

/-- f1 and f2 of the turbo interleaver of a size K (TS 36.212 table 5.1.3-3, R185). [log 92: PRESUMED] -/
opaque turboQpp : Nat → Nat × Nat

/-- The polar sequence of TS 38.212 table 5.3.1.2-1, the least reliable position first (R192). [log 92: PRESUMED] -/
opaque polarOrder : Nat → Nat

/-- The interleaver of TS 38.212 table 5.3.1.1-1 (R192). [log 92: PRESUMED] -/
opaque polarIlv : Nat → Nat

/-- The number of SRAM words that the scrubber of the IOD covers (R276): the spec gives no sizes of its buffers and tables. [log 59: DEDUCED] -/
opaque iodWords : Nat

/-- The unit whose registers stand in the n-th 16 MiB block of register space (R12), `none` for a block without a unit: the spec gives each unit a
block and lists no base. [log 45: DESIGN CHOICE] -/
opaque regBlock : Nat → Option RegUnit

/-- The generation of an item slot before its first use, by 65,536 * die + slot (R210): the spec gives none. [log 54: DESIGN CHOICE] -/
opaque firstGen : Nat → Nat

/-- The messages that the buffer of a PTP destination holds (R299): the spec gives no size. [log 63: DESIGN CHOICE] -/
opaque ptpDepth : Nat

/-- The MAC address of a backhaul port, which the spec does not give. [log 63: DESIGN CHOICE] -/
opaque bpMac : Nat → Nat

/-- The clock identity of the module. [log 63: DESIGN CHOICE] -/
opaque clockId : Nat

/-- How long an Announce counts, in ns, by the profile that R298 names. [log 63: DESIGN CHOICE] -/
opaque annWait : Nat

/-- Is a transmit channel (port, SC) set to integrity only (R288)? No register or command says so. [log 65: DEDUCED] -/
opaque integOnly : Nat → Nat → Bool

/-- The need in 0.1 mV that the factory sensitivity table gives for a monitor's slack at a level, counted from its slack at factory calibration (R373): the
spec gives neither. [log 80: DEDUCED] -/
opaque slackNeed : Nat → Nat → Int → Nat

/-- The cell of a contact in the boundary-scan register (R422), which the spec does not order: MOD_READY, MOD_FAULT_N, THERM_TRIP_N, MOD_RESET_N, then
HPn_PERST_N and HPn_ALERT_N. [log 98: PRESUMED] -/
opaque scanCell : Nat → Nat

/-- Factory delays MEM_DLY of a controller (R273). [log 3: DESIGN CHOICE] -/
opaque memDly : Nat → Nat → Nat

end Sys2Proof.Config
end

