-- ==== Sys2Proof/Machine/Bits.lean ====
section
/-!
DEFINITION. Bit fields, signed readings, byte order, sparse tables and checksums: the small helpers every unit uses.
-/
namespace Sys2Proof

/-- Bits `lo + w - 1 : lo` of `n` (00_scope R8: bit 0 is the least significant). -/
def fld (n lo w : Nat) : Nat := n / 2 ^ lo % 2 ^ w

/-- Bit `i` of `n`. -/
def bit (n i : Nat) : Bool := n / 2 ^ i % 2 == 1

/-- A bit as a number. -/
def b2n (b : Bool) : Nat := if b then 1 else 0

/-- `n` with bit `i` made `b`. -/
def setBit (n i : Nat) (b : Bool) : Nat :=
  if bit n i then (if b then n else n - 2 ^ i) else (if b then n + 2 ^ i else n)

/-- `n` with the bits that are 1 in `m` cleared. -/
def clrBits (n m : Nat) : Nat := n - (n &&& m)

/-- The number of bits that are 1 in the low `w` bits of `n`. -/
def popcount (n : Nat) : Nat → Nat
  | 0 => 0
  | w + 1 => popcount n w + b2n (bit n w)

/-- The value that the low `w` bits of `n` stand for in two's complement. -/
def sx (n w : Nat) : Int :=
  let m := n % 2 ^ w
  if m < 2 ^ (w - 1) then (m : Int) else (m : Int) - 2 ^ w

/-- The low `w` bits of an integer, as a number. -/
def ofInt (i : Int) (w : Nat) : Nat := (i % (2 ^ w : Int)).toNat

/-- The signed 32-bit difference `int32(a - b)` of R26. -/
def int32 (a b : Int) : Int := sx (ofInt (a - b) 32) 32

/-- `x` held within `lo` and `hi`. [log 32: DEDUCED] -/
def clampInt (x lo hi : Int) : Int := if x < lo then lo else if hi < x then hi else x

/-- The bytes of `n`, low byte first (R8), `k` of them. -/
def leBytes (n : Nat) : Nat → List Byte
  | 0 => []
  | k + 1 => BitVec.ofNat 8 n :: leBytes (n / 256) k

/-- The number whose little-endian bytes are `bs` (R8). -/
def ofLe : List Byte → Nat
  | [] => 0
  | b :: bs => b.toNat + 256 * ofLe bs

/-- `bs` cut into groups of `k` bytes (the last may be shorter); `fuel` bounds the groups. -/
def chunksOf (k : Nat) : Nat → List Byte → List (List Byte)
  | 0, _ => []
  | _, [] => []
  | f + 1, bs => bs.take k :: chunksOf k f (bs.drop k)

/-- The 64-bit words of a byte string, little-endian, the last one padded with zero (R311). -/
def wordsOfBytes (bs : List Byte) : List Word :=
  (chunksOf 8 bs.length bs).map fun c => BitVec.ofNat 64 (ofLe c)

/-- The bytes of a list of words, in ascending order (R311). -/
def bytesOfWords (ws : List Word) : List Byte := ws.flatMap fun w => leBytes w.toNat 8

/-! ### Sparse tables -/

/-- The value at `k`, or the default `d` where `k` is not listed. -/
def tget {α : Type} (t : Tab α) (d : α) (k : Nat) : α :=
  match t with
  | [] => d
  | (k', v) :: r => if k' = k then v else tget r d k

/-- Is `k` listed? -/
def thas {α : Type} (t : Tab α) (k : Nat) : Bool := t.any fun e => e.1 == k

/-- The table with `v` at `k`. -/
def tset {α : Type} (t : Tab α) (k : Nat) (v : α) : Tab α :=
  match t with
  | [] => [(k, v)]
  | (k', v') :: r =>
    if k' = k then (k, v) :: r
    else if k < k' then (k, v) :: (k', v') :: r
    else (k', v') :: tset r k v

/-- The table with `f` applied to the value at `k`. -/
def tupd {α : Type} (t : Tab α) (d : α) (k : Nat) (f : α → α) : Tab α := tset t k (f (tget t d k))

/-- The table without `k`. -/
def tdel {α : Type} (t : Tab α) (k : Nat) : Tab α := t.filter fun e => e.1 != k

/-- The numbers `a, …, a + n - 1`. -/
def upFrom (a : Nat) : Nat → List Nat
  | 0 => []
  | n + 1 => a :: upFrom (a + 1) n

/-- The list with the element at `i` replaced. -/
def lset {α : Type} (l : List α) (i : Nat) (v : α) : List α := l.set i v

/-- The element at `i`, or `d`. -/
def lget {α : Type} (l : List α) (d : α) (i : Nat) : α := l.getD i d

/-- The sum of a list of numbers. -/
def sumNat (l : List Nat) : Nat := l.foldl (· + ·) 0

/-- The greatest of a list of numbers, 0 for none. -/
def maxNat (l : List Nat) : Nat := l.foldl max 0

/-- Smallest `k`-step multiple search: the first `n ≥ a`, in steps of 1, with `p n`; `none` when `fuel` runs out. -/
def firstFrom (p : Nat → Bool) (a : Nat) : Nat → Option Nat
  | 0 => none
  | f + 1 => if p a then some a else firstFrom p (a + 1) f

/-! ### Checksums -/

/-- One step of a CRC register of width `w` fed with bit `b` at its high end (polynomial `poly`, without its top term). -/
def crcMsbBit (w poly : Nat) (r : Nat) (b : Bool) : Nat :=
  let top := bit r (w - 1)
  let r' := r * 2 % 2 ^ w
  if (top != b) then r' ^^^ poly else r'

/-- The CRC of a bit string, each bit entering at the high end. -/
def crcMsb (w poly init : Nat) (bs : List Bool) : Nat := bs.foldl (crcMsbBit w poly) init

/-- One step of a reflected CRC register fed with bit `b` at its low end (`poly` is the reflected polynomial). -/
def crcLsbBit (poly : Nat) (r : Nat) (b : Bool) : Nat :=
  if (bit r 0 != b) then (r / 2) ^^^ poly else r / 2

/-- The bits of a byte, most significant first. -/
def bitsMsb (b : Byte) : List Bool := (upFrom 0 8).map fun i => b.getLsbD (7 - i)

/-- The bits of a byte, least significant first. -/
def bitsLsb (b : Byte) : List Bool := (upFrom 0 8).map fun i => b.getLsbD i

/-- CRC-16 of R58: polynomial 0x1021, initial value 0xFFFF, most significant bit first. -/
def crc16 (bs : List Byte) : Nat := crcMsb 16 0x1021 0xFFFF (bs.flatMap bitsMsb)

/-- CRC-32 of R18: IEEE 802.3 polynomial, reflected, initial value and final XOR 0xFFFF_FFFF. [log 17: PRESUMED] -/
def crc32 (bs : List Byte) : Nat :=
  ((bs.flatMap bitsLsb).foldl (crcLsbBit 0xEDB88320) 0xFFFFFFFF) ^^^ 0xFFFFFFFF

/-! ### Square roots and logarithms the spec asks for -/

/-- ⌊log2 n⌋ for `n > 0`, 0 for 0. -/
def log2 (n : Nat) : Nat := Nat.log2 n

end Sys2Proof
end

