-- ==== Sys2Proof/Machine/State.lean ====
section
/-!
DEFINITION. State as plain data: every register, queue, buffer, mode and pin the spec gives the module,
and the queue of waiting commands. A default value of a field is its value after reset.
Where the spec states none, the value is a DESIGN CHOICE named in the assumption log (notes/assumptions/3.md).
-/
namespace Sys2Proof.Machine

/-- Reasons a step can stop the machine. The spec gives every row of the table an effect or leaves the part as it is,
so no meaning of this model raises a fault; the one constructor names the case of a model whose own tables were broken.
Nothing raises it. Safe: a fault only stops. -/
inductive Fault where
  /-- Raised by no meaning. Safe. -/
  | brokenModel
deriving DecidableEq, Repr

/-- Reasons a step gives no meaning to a command. -/
inductive Refusal where
  /-- Raised only by an arm of `exec` whose command has no meaning yet, under its mnemonic. Safe: a refusal only stops. -/
  | notModelled (mnemonic : String)
deriving DecidableEq, Repr

/-! ### The tick, tick plans and time windows (01_tick_and_windows) -/

/-- One entry of a tick plan (R19). -/
structure PlanEntry where
  tick : Nat
  prio : Nat
  policy : Nat
  must : Bool
  fb : Bool
  deadline : Nat
  offset : Nat
  flow : Nat
  budget : Nat
  tag : Word
  fallback : Nat
deriving DecidableEq, Repr

/-- An accepted tick plan (R18): its length L, its need (R23) and its entries in table order. -/
structure Plan where
  len : Nat
  need : Nat
  entries : List PlanEntry
deriving DecidableEq, Repr

/-- A deadline window that a MUST entry opened at its injection (R29), in its first phase or in the escalate grace (R30).
`closeAt` counts ticks on `TickUnit.count`. -/
structure DlWin where
  slot : Bool
  idx : Nat
  entry : PlanEntry
  trigN : Nat
  closeAt : Nat
  item : Nat
  grace : Bool
  /-- The fallback of a degrade entry: its index and the entry (R30). -/
  fb : Option (Nat × PlanEntry)
deriving DecidableEq, Repr

/-- A pending start (`start = true`) or switch of a plan: the tick count and the absolute tick at which it takes effect (R22). -/
structure PlanPend where
  slot : Bool
  start : Bool
  atCount : Nat
  n : Nat
deriving DecidableEq, Repr

/-- One partition's tick sequencer: the bank of R34, its two plan slots and its open deadline windows.
`active`, `pend.slot`: `false` is slot A, `true` slot B. -/
structure TickBank where
  active : Bool := false
  run : Bool := false
  auto : Bool := false
  slotA : Option Plan := none
  slotB : Option Plan := none
  pend : Option PlanPend := none
  /-- PLAN_STOP was accepted: injection stops at the next tick start. -/
  stopping : Bool := false
  capLow : Bool := false
  idx : Nat := 0
  capNow : Nat := 0
  grace : Nat := 1
  evtFlow : Nat := 0
  evtEn : Bool := false
  /-- The first entry of the active plan not yet considered in this tick (R21: table order). -/
  injNext : Nat := 0
  wins : List DlWin := []
deriving DecidableEq, Repr

/-- The time unit's tick grid (R13, R15, R16, R34). `half` is the whole nanosecond at which the current half-millisecond
began, `j` the tick's number within it, `count` the ticks since reset (the model's own measure of distance in ticks). -/
structure TickUnit where
  mu : Nat := 1
  sfn : Nat := 0
  tidx : Nat := 0
  long : Bool := false
  startNs : Nat := 0
  half : Nat := 0
  j : Nat := 0
  count : Nat := 0
deriving DecidableEq, Repr

/-! ### Fronthaul and backhaul lanes (02_fronthaul_lanes) -/

/-- One lane, n = 0 to 79 (R35, R52). `txGoal`, `rxGoal` are where a transition leads, `txFrom`, `rxFrom` where it began,
`txHeld`, `rxHeld` a sleep-field write held during it (R51). `txModeNow` is the mode in force (R45). -/
structure Lane where
  txSleep : Nat := 2
  rxSleep : Nat := 2
  txMode : Nat := 0
  rxChk : Nat := 0
  txModeNow : Nat := 0
  /-- Generated symbols of which one bit has been inverted so far (R47). -/
  errInj : Nat := 0
  txState : Nat := 2
  rxState : Nat := 2
  txGoal : Nat := 2
  rxGoal : Nat := 2
  txFrom : Nat := 2
  rxFrom : Nat := 2
  txHeld : Option Nat := none
  rxHeld : Option Nat := none
  /-- The receive sleep waits for the forced switch of R49. -/
  rxWait : Bool := false
  /-- The forced switch that this lane's receive sleep raised still stands (R85). -/
  rxFs : Bool := false
  /-- Light reaches the receiver. -/
  light : Bool := false
  fecLock : Bool := false
  /-- Consecutive correctable candidates while unlocked, or uncorrectable codewords while locked (R39). -/
  fecRun : Nat := 0
  prbsLock : Bool := false
  /-- Consecutive symbols without error while unlocked (R46). -/
  prbsGood : Nat := 0
  /-- The latest symbols since lock, newest first, at most 256: true for an errored one (R46). -/
  prbsWin : List Bool := []
  rej : Bool := false
  wakeFail : Bool := false
  /-- The generator of the test pattern: its latest 31 bits, and the level of the symbol into which an error was injected last (R45, R47). -/
  genReg : Nat := 1
  genSym : Nat := 0
  /-- The checker's latest 31 bits (R46). -/
  chkReg : Nat := 0
  /-- The register of the gap sequence x^23 + x^18 + 1, which runs on from gap to gap, and the latest gap sent (R40). -/
  gapReg : Nat := 0x7FFFFF
  gapOut : List Byte := []
  /-- Units of the lane's stream: the end of the frame in progress, and the start of the latest frame (R41). -/
  unitEnd : Option Nat := none
  unitStart : Nat := 0
  /-- An entry to sleep waits for the end of the gap after the frame in progress (R48). -/
  txEnding : Bool := false
  /-- Alignment markers found, or missed, in a row on a backhaul lane (R44). -/
  amRun : Nat := 0
  /-- n of the gap sent last (R40). -/
  gapN : Nat := 0
  /-- Payload bits that wait for a whole codeword, and the levels of the codewords that the latest frame period completed (R37, R38). -/
  txRest : List Bool := []
  txCws : List (List Nat) := []
  /-- The payload symbols of the latest codeword that the locked decoder handed on (R38). -/
  rxPay : List Nat := []
  /-- When the transition in progress of each direction began, on the module's own time (R50). -/
  txAt : Nat := 0
  rxAt : Nat := 0
deriving DecidableEq, Repr

/-- A candidate of the aligner's search (R69): its latest FAW position, its sightings, the position its gap dictates for the next FAW,
and the frame numbers of its good overheads (`none` for one that is not good). -/
structure Cand where
  pos : Nat
  sight : Nat
  expect : Option Nat
  nums : List (Option Nat)
deriving DecidableEq, Repr

/-- A second's performance record (R77). -/
structure PerfSec where
  sec : Nat := 0
  errs : Nat := 0
  raw : Bool := false
  setd : Bool := false
deriving DecidableEq, Repr

/-- The line-frame receiver of a fronthaul lane (R55 to R77, R86). Frame numbers are SFN × 640 + FRIX. -/
structure LnRx where
  /-- FH_LN_STAT.ALIGN: 0 DOWN, 1 SEARCH, 2 IF. -/
  align : Nat := 0
  mf : Bool := false
  cands : List Cand := []
  /-- Bit position of the FAW of the frame in progress. -/
  pos : Nat := 0
  /-- n of the gap that ends the frame in progress, once read; `none` where it is unreadable (R43, R70). -/
  gap : Option Nat := none
  lastGap : Nat := 0
  miss : Nat := 0
  /-- The FAW of the frame in progress was missed. -/
  missed : Bool := false
  /-- A frame is in progress, and it began in MF_LOCK. -/
  inProg : Bool := false
  began : Bool := false
  /-- The flywheel's number of the frame in progress (R71). -/
  fw : Nat := 0
  /-- The number expected by a run of consecutive good overheads, and its length (R71). -/
  runNext : Nat := 0
  runLen : Nat := 0
  mism : Nat := 0
  badRun : Nat := 0
  tFaw : Nat := 0
  aisRun : Nat := 0
  prevBip : Option Nat := none
  rei : Nat := 0
  rdi : Bool := false
  /-- The latest copy and whether it failed, until the next overhead's BIP8 has checked it (R73). -/
  pend : Option Bool := none
  errCnt : Nat := 0
  got : Bool := false
  intCnt : Nat := 0
  intLast : Nat := 0
  /-- Integrators and defects in the bit order of FH_LN_STAT.DEF. -/
  setRun : List Nat := [0, 0, 0, 0, 0, 0, 0]
  clrRun : List Nat := [0, 0, 0, 0, 0, 0, 0]
  defs : Nat := 0
  defl : Nat := 0
  lag : Nat := 0
  cur : PerfSec := {}
  secs : List PerfSec := []
  unavail : Bool := false
deriving DecidableEq, Repr

/-- The lanes, and the optical engines that have faulted (R36), one bit each. -/
structure Lanes where
  lanes : Tab Lane := []
  rx : Tab LnRx := []
  oeFault : Nat := 0
deriving DecidableEq, Repr

/-! ### The line frame (03_line_frame) -/

/-- A received copy of a frame in the deskew buffer (R73, R79): number, arrival of its first FAW bit, condition, overhead and payload. -/
structure Copy where
  num : Nat
  tFaw : Nat
  failed : Bool
  errored : Bool
  good : Bool
  oh : List Byte
  pay : List Byte
deriving DecidableEq, Repr

/-- A downlink section in the egress buffer (R65, R66): its 60 bytes and its window. -/
structure EgSec where
  bytes : List Byte
  open_ : Nat
  close : Nat
deriving DecidableEq, Repr

/-- A packet on its way to a line frame or ahead of a transmit ring (R67, R287, R299): its bytes without FCS, the extended stamp of its
arrival where the residence time is added to it, the asymmetry term of its arrival in 2^-16 ns, whether it is a Delay_Req, and the
identity of a two-step Sync whose Follow_Up takes the correction. -/
structure PktOut where
  bytes : List Byte
  tin : Nat := 0
  addR : Bool := false
  asym : Int := 0
  delayReq : Bool := false
  /-- The module's own Delay_Req, whose egress time its clock needs (R298). -/
  own : Bool := false
  sync : Option (List Byte) := none
deriving DecidableEq, Repr

/-- SR bytes as accepted (R80). -/
structure SrVal where
  req : Nat
  lane : Nat
  sel : Nat
  bidir : Bool
deriving DecidableEq, Repr

/-- A stream-table entry in force (R62). -/
structure StreamCfg where
  valid : Bool := false
  down : Bool := false
  v8 : Bool := false
  mu : Nat := 0
  nprb : Nat := 0
  tOpen : Int := 0
  tClose : Int := 0
  nOpen : Int := 0
  nClose : Int := 0
  base : Nat := 0
  stride : Nat := 0
  ring : Nat := 0
deriving DecidableEq, Repr

/-- A stream-table entry: its 32-bit words 1 to 7 as written, and the entry in force. -/
structure Stream where
  raw : Tab Nat := []
  cfg : StreamCfg := {}
deriving DecidableEq, Repr

/-- A record written for a stream within a window (R64): ACID, symbol, PRB and the window's close. -/
structure RecDone where
  acid : Nat
  sym : Nat
  prb : Nat
  close : Nat
deriving DecidableEq, Repr

/-- A fronthaul port (R86). `cmd`, `cmdLane`: FH_PROT_CMD. [log 100: DESIGN CHOICE] -/
structure FhPort where
  en : Bool := false
  bidir : Bool := true
  txAis : Bool := false
  /-- AIS in force since the latest frame start (R59). -/
  aisNow : Bool := false
  diffMax : Nat := 8
  sel : Nat := 0
  psf : Bool := false
  mismatch : Bool := false
  cmdRej : Bool := false
  cmdCxl : Bool := false
  cmd : Nat := 0
  cmdLane : Nat := 0
  defSet : Nat := 0xA0
  defClr : Nat := 0x280
  sdThr : Nat := 2
  sfThr : Nat := 0x13
  pktFlow : Nat := 0
  pktEn : Bool := false
  /-- Was the copy under the latest decision a failed copy, W and P (R78)? -/
  failW : Bool := false
  failP : Bool := false
  remote : Option SrVal := none
  srLast : Nat := 0
  srRun : Nat := 0
  copiesW : List Copy := []
  copiesP : List Copy := []
  /-- The frames that have begun on some lane and are not released: number, and arrival of the first FAW bit of the copy that came first (R63). -/
  starts : List (Nat × Nat) := []
  nextF : Option Nat := none
  /-- The latest release found no copy and no lane with multiframe lock, so the next copy may bear any number (R79). -/
  lost : Bool := false
  relNum : Option Nat := none
  relLane : Nat := 0
  relErr : Bool := false
  eg : List EgSec := []
  /-- Stream writes that fabric flow control holds while the buffer is full (R65). -/
  egWait : List (List Byte) := []
  written : List RecDone := []
  /-- The frame being sent: its number, its start on the counter, the next slot, and the sections sent by slot. -/
  txOn : Bool := false
  txNum : Nat := 0
  txStart : Nat := 0
  txSlot : Nat := 0
  txSecs : Tab (List Byte) := []
  /-- Overhead bytes of the frame being sent on W and P; empty where the lane sends none. -/
  txOhW : List Byte := []
  txOhP : List Byte := []
  pktTx : List PktOut := []
  /-- Bytes, FCS included, of the packet being sent that remain to be sent. -/
  pktTxCur : List Byte := []
  /-- The packet being received, with its stamp (R67, R68). -/
  pktRx : Option (List Byte × Nat) := none
  /-- Latest GAIN sequence number used on the port (R92). The spec names no first one: from 63 the first command carries 0. -/
  gcSeq : Nat := 63
  cur : PerfSec := {}
  secs : List PerfSec := []
  unavail : Bool := false
deriving DecidableEq, Repr

/-- The framer: ports by number, stream entries by `1024 * port + ACID`. -/
structure Fh where
  ports : Tab FhPort := []
  streams : Tab Stream := []
deriving DecidableEq, Repr

/-! ### Gain groups and the Nose (04_gain_and_nose) -/

/-- A member range (R87). -/
structure GcMemb where
  port : Nat
  lo : Nat
  hi : Nat
deriving DecidableEq, Repr

/-- A gain command (R90 to R96): old and new ATT, the effective tick as a number and on `TickUnit.count`, its SEQ by port,
the ports that returned ACCEPTED, whether it has taken effect, whether it is a restore, and whether a replacement cancelled it (R98). -/
structure GcCmd where
  old : Nat
  att : Nat
  k : Nat
  kAt : Nat
  seqs : Tab Nat
  acks : List Nat
  eff : Bool
  restore : Bool
  cxl : Bool := false
deriving DecidableEq, Repr

/-- What is measured of one symbol of one antenna-carrier (R88): the tick it belongs to, the member (1024 × port + ACID), the carrier
symbol, the sum of (I² + Q²) × 4^(E + 128), the elements, and the saturated ones. -/
structure GcAcc where
  tick : Nat
  memb : Nat
  sym : Nat
  sum : Nat
  n : Nat
  sat : Nat
deriving DecidableEq, Repr

/-- A burst as the Nose reports it (R104). `start` and `stop` are absolute tick numbers, `since` and `upto` the same ticks on `TickUnit.count`. -/
structure Burst where
  ctx : Nat
  pre : Nat
  fo : Nat
  start : Nat
  stop : Nat
  delay : Nat
  pwr : Int
  metric : Nat
  noise : Int
  att : Nat
  since : Nat := 0
  upto : Nat := 0
deriving DecidableEq, Repr

/-- A level as R90 computes it: the number num / 2^ex in 1/16 dB, exactly. [log 36: DESIGN CHOICE] -/
structure Frac where
  num : Int := 0
  ex : Nat := 0
deriving DecidableEq, Repr

/-- A fix (R97): REF, the fix end on `TickUnit.count`, and the sightings that hold it. -/
structure GcFix where
  ref : Frac
  stop : Nat
  by_ : List Burst
deriving DecidableEq, Repr

/-- A gain group (R106). -/
structure GcGrp where
  en : Bool := false
  target : Int := -36
  hyst : Nat := 6
  stepMax : Nat := 0x18
  lead : Nat := 8
  tail : Nat := 1
  efs : Int := 0
  avgSh : Nat := 2
  memb : Tab GcMemb := []
  flow : Nat := 0
  att : Nat := 0
  fault : Bool := false
  seq : Nat := 0
  lvl : Frac := {}
  ref : Frac := {}
  fix : Option GcFix := none
  /-- Commands whose acknowledgement has not been checked, oldest first. -/
  cmds : List GcCmd := []
  /-- ATT of the latest command (R96). -/
  lastAtt : Nat := 0
  /-- Consecutive restores that failed (R96). -/
  badRestores : Nat := 0
  /-- Filters by member, in 1/16 dBFS; a member without one starts afresh (R90). -/
  filt : Tab Frac := []
  /-- The first tick, on `TickUnit.count`, whose measurement moves the filters: that of the latest effective step or of the end of the latest fix. -/
  since : Nat := 0
  acc : List GcAcc := []
  lastMeas : Option Nat := none
  /-- Steps that went ahead although the group had been fixed (R98): their effective ticks on `TickUnit.count`. -/
  gstep : List Nat := []
deriving DecidableEq, Repr

/-- A Nose context descriptor in force (R100). -/
structure NsCfg where
  valid : Bool := false
  kind : Nat := 0
  restr : Nat := 0
  lseq : Nat := 0
  fmt : Nat := 0
  grp : Nat := 0
  nocc : Nat := 0
  prb0 : Nat := 0
  nfdm : Nat := 0
  npre : Nat := 0
  root : Nat := 0
  ncs : Nat := 0
  period : Nat := 0
  thr : Nat := 0
  ring : Nat := 0
  rsh : Nat := 0
  flow : Nat := 0
  occ : List (Nat × Nat) := []
deriving DecidableEq, Repr

/-- A search context: its 32-bit words 1 to 15 as written, the descriptor in force, the next SEQNO, the bursts whose search has stopped
(R105), and the starts, on `TickUnit.count`, of the occasions that lost sections (R103). -/
structure NsCtx where
  raw : Tab Nat := []
  cfg : NsCfg := {}
  seqno : Nat := 0
  /-- Bursts sighted and not yet decided, and those whose search has stopped. -/
  sighted : List Burst := []
  stopped : List Burst := []
  loss : List Nat := []
deriving DecidableEq, Repr

/-- The gain controller and the Nose engines (R106). -/
structure Gc where
  margin : Nat := 0x0C
  satThr : Nat := 0x0A
  atkThr : Nat := 0x14
  ackWait : Nat := 150000
  cxlMin : Nat := 100000
  grps : Tab GcGrp := []
  ctxs : Tab NsCtx := []
deriving DecidableEq, Repr

/-! ### The Dovetail scheduler (09_dovetail) -/

/-- Where an item stands in its flow (R29, R211, R215): queued, staged on a core, running on a core,
complete and awaiting its turn to leave an ordered flow, held back by a successor, or a place that a jig job reserved (R198). -/
inductive Place where
  | queued
  | staged (core ord : Nat)
  | running (core : Nat)
  | complete
  | held
  | reserved
deriving DecidableEq, Repr

/-- An item of a flow (R207): its record, its handle, its level, its arrival and where it stands.
`budget` is that of the plan entry which injected it, `none` for every other item (R429). [log 11: DESIGN CHOICE] -/
structure Item where
  id : Nat
  hdl : Word
  flow : Nat
  kind : Nat
  tomb : Bool
  level : Nat
  tag : Word
  seq : Nat
  arg0 : Word
  arg1 : Word
  arrNs : Nat
  readyNs : Nat
  getNs : Nat
  budget : Option Nat
  place : Place
deriving DecidableEq, Repr

/-- A flow context (R205): the configuration bytes as written, the configuration in force, and the status words.
QCOUNT and RUNNING are counted from the items. -/
structure Flow where
  raw0 : Nat := 0
  raw1 : Nat := 0
  raw2 : Nat := 0
  raw3 : Nat := 0
  valid : Bool := false
  kind : Nat := 0
  open_ : Bool := false
  tfwd : Bool := false
  whole : Bool := false
  replay : Bool := false
  dprio : Nat := 0
  cset : Nat := 0
  next : Nat := 0
  nextEn : Bool := false
  qmax : Nat := 0
  seqNext : Nat := 0
  seqOut : Nat := 0
  enqCnt : Nat := 0
  outCnt : Nat := 0
  tombCnt : Nat := 0
  rejCnt : Nat := 0
deriving DecidableEq, Repr

/-- Dovetail's registers of one core (R220) and the load of the current tick. -/
structure DvCore where
  mbox : Nat := 0
  busy : Nat := 0
  items : Nat := 0
  curBusy : Nat := 0
  curItems : Nat := 0
  busySince : Option Nat := none
deriving DecidableEq, Repr

/-- Both dies' Dovetail. Flow numbers carry the die in bit 17. `csets` is keyed by `64 * die + 16 * p + s`.
Items stand in acceptance order; `nextOrd` orders the staging queues. -/
structure Dv where
  flows : Tab Flow := []
  items : List Item := []
  nextId : Nat := 0
  csets : Tab Nat := []
  cores : Tab DvCore := []
  nextOrd : Nat := 0
  /-- How often each item slot has been used, by 65,536 * die + slot: the generation of R210 advances with each use. -/
  gens : Tab Nat := []
deriving DecidableEq, Repr

/-! ### Hosts, partitions and Corward (14_host_protocol) -/

/-- An event record (R320), before its ESEQ is given at delivery. -/
structure Evt where
  code : Nat
  part : Nat
  mod : Bool
  time : Nat
  w2 : Nat
  w3 : Nat
deriving DecidableEq, Repr

/-- A command packet that the MC has checked and begun (R312, R316), and whether its reply is to be discarded (R306, R315). -/
structure HostCmd where
  opc : Nat
  seq : Nat
  args : List Word
  drop : Bool := false
  /-- It runs on and is answered later (PWR_SET). -/
  running : Bool := false
  /-- When the MC took it (R317). -/
  took : Nat := 0
deriving DecidableEq, Repr

/-- One host port (R308 to R326): the FIFOs, the session and the window registers.
`cmd` holds the pushed words, its first `committed` of them committed; `asm` the words that the MC has taken of the packet it is putting
together (R312). `evtPop` words of the event queue's first record are already popped. [log 11: DESIGN CHOICE] -/
structure HostPort where
  cmd : List Word := []
  committed : Nat := 0
  asm : List Word := []
  rpl : List Word := []
  evts : List Evt := []
  evtPop : Nat := 0
  eseq : Nat := 0
  lostPend : Nat := 0
  session : Bool := false
  expSeq : Nat := 0
  /-- Bit g = deliver event group g (R320). -/
  mask : Nat := 2 ^ 64 - 1
  ovf : Bool := false
  unf : Bool := false
  dberr : Bool := false
  flush : Bool := false
  rplEn : Bool := true
  evtEn : Bool := true
  /-- HPn_PERST_N is low, as its pull-down leaves it until a host drives it (R306, R418). -/
  perst : Bool := true
  begun : Option HostCmd := none
  /-- A long command that runs on though its reply has been discarded (R315). -/
  still : Option HostCmd := none
  /-- The committed words that the MC has not parsed: how many came with each doorbell, and when (R312). -/
  marks : List (Nat × Nat) := []
  postVal : Word := 0
  postAddr : Word := 0
  /-- The words that the latest aperture read returned: the model's own record. -/
  read : List Word := []
  /-- The PCI command register and BAR0 of the port's function (R305), as the host's configuration writes leave them. -/
  pciCmd : Nat := 0
  bar0 : Nat := 0
  /-- The PCI Express device control register. -/
  pciDev : Nat := 0x2810
deriving DecidableEq, Repr

/-- A partition's state (R318, HELLO). -/
inductive PState where
  | none
  | defined
  | restarting
deriving DecidableEq, Repr

/-- One partition: its state, the 18 words it was granted (R322; the owner tables are read from them), and its tick sequencer. -/
structure Part where
  st : PState := .none
  desc : List Word := []
  tick : TickBank := {}
deriving DecidableEq, Repr

/-- The window of the latest access of a register, and what it answered: the model's own record, no register of the module. -/
structure Answer where
  status : Nat := 0
  data : Nat := 0
deriving DecidableEq, Repr

/-- The MC's own state of the host protocol: the manager right (R321), the host last served (R316), the PTP configuration (R298),
and the LPDDR6 units still being filled after a PART_DESTROY, in order (R324). -/
structure Mc where
  manager : Option Nat := none
  lastServed : Nat := 3
  filling : List Nat := []
deriving DecidableEq, Repr

/-! ### Memory (12_memory) -/

/-- What a page frame holds beside its data (R262): the page is written (MARK), the T code it was encoded under,
and the frame bits that differ from their encoded value. -/
structure PageMeta where
  written : Bool := false
  t : Nat := 4
  flips : List Nat := []
deriving DecidableEq, Repr

/-- A staged page (R266); `since` is when a dirty page last became dirty. -/
structure Staged where
  page : Nat
  dirty : Bool
  since : Nat := 0
deriving DecidableEq, Repr

/-- An entry of a repeat tracker (R277). -/
structure Trk where
  loc : Nat
  count : Nat
  lap : Nat
deriving DecidableEq, Repr

/-- A region register (R263). -/
structure Rgn where
  base : Nat := 0
  limit : Nat := 0
  valid : Bool := false
  t : Nat := 0
deriving DecidableEq, Repr

/-- One LPDDR6 controller (R260 to R282). `staged` is in order of use, the most recent first.
`remap` lists (spare frame, page); `remapFlash` and `badFlash` are the table's copy in module flash. `replayEnd`: a replay is in progress
until then (R272). `scrubAt`: the latest scrub read. -/
structure MemCh where
  scrubEn : Bool := true
  rdpEn : Bool := true
  rdpK : Nat := 0x0A
  rowIdle : Nat := 0x28
  age : Nat := 0x3E8
  state : Nat := 0
  debt : Nat := 0
  chkOk : Bool := false
  spareOut : Bool := false
  gap : Nat := 1000
  lapMax : Nat := 1440
  lapLast : Nat := 0
  lapNo : Nat := 0
  scrubPos : Nat := 0
  lapStart : Nat := 0
  slowRaised : Bool := false
  spareBad : List Nat := []
  remap : Tab Nat := []
  remapFlash : Tab Nat := []
  badFlash : List Nat := []
  remapUnsaved : Bool := false
  lastUnc : Nat := 0
  lastUncV : Bool := false
  urg : List Nat := [0, 0, 0, 0, 0xFFFF0000]
  dly : List Nat := [0, 0, 0, 0, 0, 0, 0]
  /-- The moves of MEM_DLY from its factory values, as flash holds them: MEM_DLY is written with them at start-up and at a wake (R273, R375). -/
  dlyFlash : List Int := [0, 0, 0, 0, 0, 0, 0]
  /-- A re-plan has stored moves that the next wake of the memory group writes into MEM_DLY (R375). -/
  dlyDue : Bool := false
  injPos : Nat := 0
  injCnt : Nat := 0
  injArm : Bool := false
  trk : List Trk := []
  staged : List Staged := []
  alertRun : Nat := 0
  replayEnd : Nat := 0
  scrubAt : Option Nat := none
deriving DecidableEq, Repr

/-- One SRAM scrubber (R276 to R282): s = 0 to 23 clusters, 24 and 25 the compute dies, 26 the IOD. -/
structure Sr where
  chkOk : Bool := false
  gap : Nat := 20
  lapMax : Nat := 1440
  lapLast : Nat := 0
  lapNo : Nat := 0
  scrubPos : Nat := 0
  lapStart : Nat := 0
  slowRaised : Bool := false
  lastUnc : Nat := 0
  lastUncV : Bool := false
  trk : List Trk := []
  /-- Spare rows in use, by bank macrocell. -/
  spares : Tab Nat := []
  /-- The latest scrub read. -/
  scrubAt : Option Nat := none
deriving DecidableEq, Repr

/-- A panic threshold pair (R282). -/
structure Pnc where
  on : Nat
  off : Nat
  en : Bool := true
deriving DecidableEq, Repr

/-- The memory system: the bytes of the global address space (R12), the page frames' condition by
`channel * 2^22 + page`, the controllers, the SRAM words with bit errors (1 or 2 bits, by address / 8, or above the address space by scrubber and
index), the scrubbers and panic. -/
structure Mem where
  bytes : List Host.Cell := []
  pages : Tab PageMeta := []
  chs : Tab MemCh := []
  rgn : Tab Rgn := []
  rgnDefT : Nat := 4
  sramErr : Tab Nat := []
  srs : Tab Sr := []
  pncFh : Tab Pnc := []
  pncNs : Tab Pnc := []
  pncBp : Tab Pnc := []
  panicFh : Nat := 0
  panicNs : Nat := 0
  panicBp : Nat := 0
deriving DecidableEq, Repr

/-! ### Power domains (16_power_states) -/

/-- PWR_DOM_STAT.STATE (R360). -/
inductive DomState where
  | awake
  | s1
  | s2
  | s3
  | entering
  | waking
  | failed
deriving DecidableEq, Repr

/-- How far a change of level has come (R348): the upward voltage ramp, waiting for the tick start, or the downward ramp. -/
inductive PlPhase where
  | rampUp
  | waitTick
  | rampDown
deriving DecidableEq, Repr

/-- One power domain (R345 to R360). `thr` is the throttle fraction in 1/64. -/
structure Dom where
  state : DomState := .awake
  pl : Nat := 0
  plTo : Option (Nat × PlPhase) := none
  /-- The host whose PWR_SET waits for the level change in progress. -/
  plHost : Option Nat := none
  /-- A level request held until the change in progress completes, with its host (R348). -/
  plHeld : Option (Nat × Option Nat) := none
  /-- A level recorded for the next wake (R348, R358). -/
  plRec : Option Nat := none
  retLost : Bool := false
  retBanks : Nat := 0
  thr : Nat := 64
  /-- The level that R23 counts: it follows `pl` at tick starts only (R24). -/
  plCap : Nat := 0
  /-- Patina offsets of the levels in 2.5 mV steps (R373). -/
  ofs : List Nat := [0, 0, 0, 0]
  /-- Entry requested and not yet tested: by a complete set of votes, or by the PWR_SET of a host for a target (R350, R351). -/
  reqVote : Bool := false
  reqSet : Option (Nat × Nat) := none
  /-- The sleep state being entered, or slept in (1 to 3). -/
  target : Nat := 0
  drained : Bool := false
  /-- The host whose PWR_SET the entry or the wake in progress answers. -/
  entryHost : Option Nat := none
  wakeHost : Option Nat := none
  /-- A wake condition arose after acceptance (R358). -/
  wakePend : Bool := false
  retry1 : Bool := false
  retry3 : Bool := false
  lastRef : Nat := 0
  lastAbort : Bool := false
  lastTarget : Nat := 0
  lastV : Bool := false
  lastN : Nat := 0
  /-- The time of the latest change of the throttle fraction (R367). -/
  thrAt : Option Nat := none
  /-- The offsets in force, which follow `ofs` at once, at wake step 2 or when a level change completes (R373). -/
  ofsNow : List Nat := [0, 0, 0, 0]
  /-- The needs of the levels at the latest re-plan, in 0.1 mV, and the exhausted levels, one bit each (R373, R374). -/
  need : List Nat := [0, 0, 0, 0]
  exh : Nat := 0
  /-- AGE_RESERVE_LOW has been raised (R376). -/
  lowSent : Bool := false
  /-- When the entry, the wake or the retried step of a wake in progress began (R235, R356). -/
  since : Nat := 0
deriving DecidableEq, Repr

/-! ### Cores (05_harzar_base, 06_vectors, 07_dsp_addressing_and_rasp) -/

/-- What a core is doing: held in reset, executing, in WAIT (R136), stopped by a double fault that its recovery has not yet taken up
(R125), or held in reset under the self-test that follows a core fault (R391). -/
inductive CoreRun where
  | held
  | running
  | waiting
  | stopped
  | testing
deriving DecidableEq, Repr

/-- A circular buffer register (R166). -/
structure Cb where
  base : Word := 0
  len : Nat := 0
deriving DecidableEq, Repr

/-- A block-repeat level (R170). -/
structure Lp where
  start : Word := 0
  stop : Word := 0
  cnt : Nat := 0
  act : Bool := false
deriving DecidableEq, Repr

/-- A cached translation (R134, R135): the virtual page, its size in bits, the ASID, and the entry. -/
structure Tlb where
  vpn : Nat
  size : Nat
  asid : Nat
  pte : Nat
deriving DecidableEq, Repr

/-- One core: CC0 to CC95 are cores 0 to 95, BC0 to BC15 cores 96 to 111 (HZ_CORE.GLOBAL). Registers that are not listed in a table are zero.
`ip` holds the stored bits of HZ_IP (SWI, RASP, FAB, PWR, EXT); TMR, DV and DMA are read from their sources (R123). -/
structure Core where
  run : CoreRun := .held
  narrow : Bool := true
  weight : Nat := 0
  weightPend : Option Nat := none
  g : Tab Word := []
  v : Tab (BitVec 2048) := []
  p : Tab (BitVec 256) := []
  a : Tab (BitVec 8192) := []
  cb : Tab Cb := []
  lp : Tab Lp := []
  pc : Word := 0
  pl : Nat := 2
  ie : Bool := false
  pie : Bool := false
  ppl : Nat := 0
  exl : Bool := false
  /-- TAGs of work-item aborts that have reached the core and await its next boundary (R127). -/
  abQ : List Word := []
  /-- TAGs of aborts held at S; HZ_STATUS.ABP reads 1 while there is one (R127). -/
  abHeld : List Word := []
  cause : Word := 0
  epc : Word := 0
  tval : Word := 0
  tvec : Word := 0
  scratch : Word := 0
  ieMask : Nat := 0
  ip : Nat := 0
  tcmp : Nat := 0
  tcmpEn : Bool := false
  waitMode : Nat := 0
  waitResult : Nat := 0
  waitRefuser : Nat := 0
  /-- A WAIT whose vote for its domain stands (R136). -/
  voting : Bool := false
  /-- The RESULT and REFUSER with which the WAIT is to complete (R136). -/
  waitDone : Option (Nat × Nat) := none
  compat : Bool := false
  /-- Addresses of stores that have left the core and whose target error is on its way (R128). -/
  fabQ : List Word := []
  faberr : Word := 0
  fabCnt : Nat := 0
  /-- Clock cycles since reset as far as a read of HZ_CYCLE has seen them (R122). -/
  cycle : Nat := 0
  instret : Word := 0
  prgn : Tab Word := []
  ptbr : Word := 0
  et : Nat := 0
  rm : Nat := 2
  sat : Bool := false
  nsh : Nat := 0
  vstart : Nat := 0
  ffr : Nat := 512
  tlb : List Tlb := []
deriving DecidableEq, Repr

/-- A line of a Bench core's private caches, coherent within its die (R107, R133); `core` is the core that holds it, `slot` its place in that core's
level-2 cache. -/
structure CLine where
  data : List Byte
  dirty : Bool
  core : Nat := 0
  slot : Nat := 0
deriving DecidableEq, Repr

/-- A Rasp instruction in flight (R179): who issued it, its tag and the k register it writes. `op` 0 to 7 is an operation of R182 with its
control word and sources; 8 is a move of `val` into the `k2` bits from bit `k1` of kd; 9 writes no k register. -/
structure RaspOp where
  core : Nat
  tag : Nat
  kd : Option Nat
  op : Nat
  cw : Word
  k1 : Nat
  k2 : Nat
  val : BitVec 2048
  /-- Its write-back is discarded and its late error suppressed (R178). -/
  discard : Bool
deriving DecidableEq, Repr

/-- A Rasp late-error record (R180). -/
structure RaspErr where
  tag : Nat
  code : Nat
deriving DecidableEq, Repr

/-- One cluster's Rasp (R177 to R181). `errs` and `eovf` are kept by core. -/
structure Rasp where
  k : Tab (BitVec 2048) := []
  holder : Option Nat := none
  queue : List Nat := []
  nextTag : Nat := 0
  /-- The latest tag issued and not killed (RSTAT.TAG, R181). -/
  lastTag : Nat := 63
  flight : List RaspOp := []
  errs : Tab (List RaspErr) := []
  eovf : Tab Bool := []
  /-- RUNLOCK waits for the holder's instructions to finish. -/
  unlocking : Option Nat := none
deriving DecidableEq, Repr

/-- A store to register space that left a core (R130, rule 6): the block bases are not in the spec, so the access is kept as it left. [log 11: DESIGN CHOICE] -/
structure DevAcc where
  core : Nat
  addr : Nat
  size : Nat
  data : Nat
deriving DecidableEq, Repr

/-! ### The Spline fabric and die links (10_spline_fabric) -/

/-- A packet in flight (R224). -/
structure Pkt where
  dest : Nat
  src : Nat
  subsrc : Nat
  cls : Nat
  cmd : Nat
  epoch : Bool
  addr : Nat
  len : Nat
  seq : Nat
  status : Nat
  part : Option Nat
  page : Nat
  aop : Nat
  aw : Bool
  opnd : Word
  cmp : Word
  data : List Byte
  /-- Its tail has crossed its die link (R242). -/
  crossed : Bool := false
  /-- Re-injected or re-routed at GO: it counts in the old epoch until it is delivered (R396). -/
  asOld : Bool := false
  /-- The power domain of the jig instance that sends it (R345): the instances of both jig domains share the jig ports. -/
  jigDom : Option Nat := none
deriving DecidableEq, Repr

/-- A request that awaits its answer at its injecting port (R237). -/
structure OutReq where
  seq : Nat
  cls : Nat
  cmd : Nat
  subsrc : Nat
  dest : Nat
  addr : Nat
  len : Nat
  /-- When it was injected (R237). -/
  at_ : Nat
  /-- The power domain of the jig instance that sent it. -/
  jigDom : Option Nat := none
deriving DecidableEq, Repr

/-- One injection port (R221 to R243). `tok`, `rate` and `burst` are kept by class (0 REQ, 2 STR, 3 EVT);
`tok` counts 1/1024 tokens. -/
structure NocPort where
  tok : Tab Nat := []
  tokAt : Nat := 0
  rate : Tab Nat := []
  burst : Tab Nat := []
  seq : Tab Nat := []
  out : List OutReq := []
  epoch : Bool := false
  heldCls : List Nat := []
  /-- Packets of the port's agents that wait to start injection, in the order in which they were formed (R231, R232). -/
  wait : List Pkt := []
  /-- SEQ of the stream writes that timed out (R237). -/
  lost : List Nat := []
  /-- SUBSRC of the DMA channel whose packet started last (R244: round-robin). -/
  turn : Nat := 31
  /-- The latest answer handed to the port's agents: the model's own record. -/
  ans : Option Pkt := none
  chg : List Nat := [0, 0, 0, 0, 0]
deriving DecidableEq, Repr

/-- One die's fabric segment (R243). -/
structure NocDie where
  cur : Bool := false
  busy : Bool := false
  late : Bool := false
  drainLim : Nat := 20000
  epochLim : Nat := 50000
  reqTmo : Nat := 100000
  lnkThr : Nat := 8
  /-- When the latest GO acted (R232). -/
  goAt : Nat := 0
deriving DecidableEq, Repr

/-- One direction of a die-link bundle (R239 to R243), as the receiving die sees it, with the sender's replay state. -/
structure Link where
  state : Nat := 0
  clk : Bool := false
  bad : Nat := 0x1F
  rxLast : Nat := 0
  /-- The LSEQ the receiver expects next. -/
  rxNext : Nat := 0
  /-- A failed unit is being resent: units up to the resent one are discarded. -/
  rxNak : Bool := false
  failRun : Nat := 0
  /-- The receiver's failed copies, by LSEQ: 544 bits, the link word above the unit (R241). -/
  failed : List (Nat × Nat) := []
  /-- Lane errors of the latest millisecond: time, lane, bits (R241). -/
  laneErrs : List (Nat × Nat × Nat) := []
  /-- From this LSEQ on, the direction uses in-band mode. -/
  rxInBand : Bool := false
  txInBand : Bool := false
  txBad : Nat := 0x1F
  /-- Sender: the next LSEQ to send and the oldest unacknowledged one. -/
  txNext : Nat := 0
  txAck : Nat := 0
  /-- The sender's replay buffer (R240): unacknowledged units by LSEQ, and whether each is a control unit. -/
  replay : List (Nat × Nat × Bool) := []
  /-- The LSEQ of SWITCH, the unit that goes next or waits for its receiver (R241). -/
  txSwitch : Option Nat := none
  /-- REPAIR sent for this lane, SWITCH not yet arrived. -/
  repairing : Option Nat := none
deriving DecidableEq, Repr

/-- The fabric. `routes` lists table entries that differ from the default tables of R228,
by `epoch * 2^20 + router * 2^10 + dest`. `links` and `dropLog` (R396) are kept by direction, `2 * bundle + dir`; `moving` are the
bundles that went down whose traffic the MC has yet to move, with the discards that FLT_LINK reports; `planned` are those whose new paths
stand in the standby tables. -/
structure Noc where
  dies : Tab NocDie := []
  ports : Tab NocPort := []
  pkts : List Pkt := []
  routes : Tab Nat := []
  links : Tab Link := []
  dropLog : Tab (List Pkt) := []
  moving : Tab Nat := []
  planned : List Nat := []
deriving DecidableEq, Repr

/-! ### Backhaul ports and the time unit (13_backhaul_and_time) -/

/-- A MACsec secure association in a port's key store (R289). `tx`: on transmit channel `sc`; else found by `sci`. For a transmit SA
`pn` is the next PN, for a receive SA the lowest acceptable PN. -/
structure Sa where
  tx : Bool
  sc : Nat
  sci : Nat
  an : Nat
  ssci : Nat
  key : Nat
  salt : Nat
  pn : Nat
  /-- MS_PN_EVT has been raised for it, or its last PN has been used (R290). -/
  evt : Bool := false
  exhausted : Bool := false
deriving DecidableEq, Repr

/-- A backhaul port (R304). `rules` holds the words of R284; `active` the active AN of a transmit channel. -/
structure BhPort where
  en : Bool := false
  link : Bool := false
  defFlow : Nat := 0
  defEn : Bool := false
  txFlow : Nat := 0
  txEn : Bool := false
  tsz : Nat := 0
  txAddr : Nat := 0
  tail : Nat := 0
  head : Nat := 0
  msEn : Bool := false
  validate : Nat := 2
  ptpClear : Bool := true
  confOfs : Nat := 0
  replay : Bool := true
  window : Nat := 0
  pnThr : Nat := 0xFFFFFFFF00000000
  rules : Tab Nat := []
  sas : List Sa := []
  active : Tab Nat := []
  ptpOut : List PktOut := []
  asym : Int := 0
  /-- TM_BH_LATn as loaded from flash or written; `none` holds the factory value (R296, R304). -/
  lat : Option Nat := none
  /-- The latest frame that the port sent, as it crossed the interface, FCS included (R287). -/
  txLast : List Byte := []
deriving DecidableEq, Repr

/-- A free ring (R285). `kept` is a buffer taken and not used, which the next frame takes (R286). -/
structure FreeRing where
  rsz : Nat := 0
  bsize : Bool := false
  addr : Nat := 0
  en : Bool := false
  pi : Nat := 0
  ci : Nat := 0
  kept : Option Nat := none
  /-- The time of the latest BH_NOBUF_EVT. -/
  evtAt : Option Nat := none
deriving DecidableEq, Repr

/-- The residence time of a two-step Sync (R299): its identity, its destination (fronthaul port m, or 32 + n), what its Follow_Up adds to
correctionField in 2^-16 ns, and when. -/
structure SyncRes where
  key : List Byte
  dest : Nat
  add : Int
  sent : Nat
deriving DecidableEq, Repr

/-- A Follow_Up held until its Sync's egress stamp is known (R299). -/
structure HeldFu where
  key : List Byte
  dest : Nat
  bytes : List Byte
  arrived : Nat
deriving DecidableEq, Repr

/-- The PTP configuration that Corward commands set (R298). -/
structure PtpCfg where
  domain : Nat := 24
  ports : Nat := 0
  interval : Nat := 0
  prios : Nat := 0
deriving DecidableEq, Repr

/-- The latest Announce of a port (R298): clockClass, clockAccuracy, offsetScaledLogVariance, priority2, the grandmaster's identity, stepsRemoved and
the sender's identity, and when it arrived. -/
structure PtpAnn where
  data : List Nat
  at_ : Nat
deriving DecidableEq, Repr

/-- The module's own clock (R298): the Sync whose time counts next, its arrival and corrections in 2^-16 ns, whether it waits for its Follow_Up; the
Delay_Req in flight and when it left; the latest offset and mean path delay in 2^-16 ns. -/
structure OwnClk where
  syncKey : List Byte := []
  t2 : Nat := 0
  corr : Int := 0
  await : Bool := false
  reqKey : List Byte := []
  t3 : Option Nat := none
  d21 : Option Int := none
  delay : Option Int := none
deriving DecidableEq, Repr

/-- The time unit's time registers and references (R304). `st`: 0 FREERUN, 1 ACQUIRING, 2 LOCKED, 3 HOLDOVER. -/
structure Tm where
  ptpPorts : Nat := 0
  extEn : Bool := false
  prefExt : Bool := false
  ppsFreerun : Bool := false
  st : Nat := 0
  src : Nat := 0
  osc : Nat := 0
  aOk : Bool := false
  bOk : Bool := false
  hoQual : Bool := false
  hoExp : Bool := false
  disagree : Bool := false
  snapS : Nat := 0
  snapNs : Nat := 0
  snapCnt : Nat := 0
  ofsS : Nat := 315964819
  ofsNs : Nat := 0
  slewMax : Nat := 1000
  /-- The phase error at `phaseAt`; what slewing has removed since follows from the time (R293). -/
  phaseErr : Int := 0
  phaseAt : Nat := 0
  /-- The latest phase error measured against PTP and against EXT (R301). -/
  ptpErr : Option Int := none
  extErr : Option Int := none
  oscThr : Nat := 200
  ppsIn : Nat := 0
  ppsOut : Nat := 0
  tcMap : Tab Nat := []
  /-- Consecutive PPS_IN edges 1 s ± 1 µs apart, the latest edge, and the qualification of the inputs (R302). -/
  ppsRun : Nat := 0
  ppsLast : Option Nat := none
  ppsOk : Bool := false
  freqOk : Bool := false
  ptpOk : Bool := false
  /-- The seconds have been set, by a command or from PTP (R302). -/
  secondsSet : Bool := false
  /-- PPS_OUT and FREQ_OUT are driven (R303). -/
  outOn : Bool := false
  /-- The latest rise of PPS_OUT (R303). -/
  ppsRise : Option Nat := none
  phaseFar : Bool := false
  cfg : PtpCfg := {}
  syncs : List SyncRes := []
  held : List HeldFu := []
  /-- The latest PTP message handed to the module's own clock: port, stamp and bytes (R298). -/
  ownRx : Option (Nat × Nat × List Byte) := none
  reqSeq : Nat := 0
  own : OwnClk := {}
  ann : Tab PtpAnn := []
  /-- When the state was entered, since when the phase error has been below 100 ns at its latest measurement (R301), and when the latest Delay_Req was
  sent (R298). -/
  stAt : Nat := 0
  lowAt : Nat := 0
  reqAt : Option Nat := none
deriving DecidableEq, Repr

structure Bh where
  ports : Tab BhPort := []
  rings : Tab FreeRing := []
deriving DecidableEq, Repr

/-! ### DMA engines (11_dma) -/

/-- DMA_CH_STAT.STATE (R259). -/
inductive DmaState where
  | idle
  | fetch
  | waitTrig
  | active
  | completing
  | parked
  | pausing
  | paused
  | halted
deriving DecidableEq, Repr

/-- One DMA channel (R245 to R259), by `16 * engine + channel`. `back` is where a pausing or paused channel goes on; `linkOnly`: the next
fetch re-reads only LINK (R254); `cur` is the descriptor as fetched; `late` and `trigN` its trigger as tested; `src0`, `dst0` its start
addresses; `wrErr` the first failed write, `rdErr` the failed read, `fstat` the first of both; `wrote` the addresses and `wroteO` the offsets it has written, for R248 and R247;
`seqs` the SEQ of its writes; `endCode` the CODE it completes with, where that is not its own outcome; `haltNext`: it halts at its next
completion (R253). `part` is DMA_CH_CFG.PART as the MC has written it, where it has. -/
structure DmaCh where
  core : Nat := 0
  irqEn : Bool := false
  hi : Bool := false
  wmax : Nat := 6
  part : Option Nat := none
  state : DmaState := .idle
  done : Bool := false
  aerr : Bool := false
  pendDb : Bool := false
  pause : Bool := false
  stop : Bool := false
  back : DmaState := .idle
  desc : Nat := 0
  linkOnly : Bool := false
  cur : List Byte := []
  late : Bool := false
  trigN : Nat := 0
  pos : Nat := 0
  tick : Nat := 0
  scur : Nat := 0
  dcur : Nat := 0
  src0 : Nat := 0
  dst0 : Nat := 0
  wrErr : Nat := 0
  rdErr : Nat := 0
  fstat : Nat := 0
  wrote : List (Nat × Nat) := []
  wroteO : List (Nat × Nat) := []
  seqs : List Nat := []
  endCode : Nat := 0
  haltNext : Bool := false
  errAddr : Nat := 0
  errStat : Nat := 0
  errKind : Nat := 0
  errV : Bool := false
  errDesc : Nat := 0
  /-- SEQ of stream writes whose descriptor has completed without awaiting them, with that descriptor's address (R253). -/
  gone : List (Nat × Nat) := []
  ccnt : Nat := 0
deriving DecidableEq, Repr

/-! ### Start-up (15_startup) and module flash -/

/-- An image slot of module flash (R331): the bytes written by FW_WRITE, by offset, and whether any have been written, so that the slot no
longer holds the image it was shipped with. -/
structure Slot where
  bytes : List Host.Cell := []
  written : Bool := false
deriving DecidableEq, Repr

/-- Start-up (R327 to R344). `hold`: MOD_RESET_N is low. `vin`: input power is present. `fail` is the code of a stop (R340). `wd` has a
bit for each slot whose image has run into the boot watchdog of this stage 4 (R332). `report` lists the degradations with their
units; `laneBad` has bit 2n + d set where direction d of lane n did not calibrate (R335). -/
structure Su where
  ready : Bool := false
  timeUp : Bool := false
  /-- The module has stopped with SEV 3 (R340, R368, R400). -/
  stopped : Bool := false
  hold : Bool := false
  vin : Bool := false
  stage : Nat := 0
  step : Nat := 0
  deg : Bool := false
  fail : Option Nat := none
  slot : Bool := false
  sel : Bool := false
  fallback : Bool := false
  recovery : Bool := false
  wd : Nat := 0
  dieGone : Nat := 0
  rbc : Nat := 0
  /-- RBC of the image that runs (R331). -/
  runRbc : Nat := 0
  fw : Nat := 0
  ms : Tab Nat := []
  began : Nat := 0
  report : List (Nat × Nat) := []
  laneBad : Nat := 0
  slots : Tab Slot := []
deriving DecidableEq, Repr

/-! ### The module's own contacts (19_module_electrical) -/

/-- A line that the console sends (R421): a change of the progress code, or a logged fault event's INDEX, CODE and SEV. [log 86: DEDUCED] -/
inductive UartLine where
  | progress (code : Nat)
  | fault (index code sev : Nat)
deriving DecidableEq, Repr

/-- The I2C target (R420): the byte offset last written, and the field latched by the read of its lowest byte. `vin10`, `pin100` and `tbase`
are the measured input voltage and power and the base-plate temperature. `scan` holds what boundary scan drives (R422). -/
structure Pins where
  ofs : Nat := 0
  latchAt : Nat := 0
  latch : List Byte := []
  vin10 : Nat := 0
  pin100 : Nat := 0
  tbase : Int := 0
  /-- Bytes that the latest I2C read returned: the model's own record. -/
  read : List Byte := []
  uart : List UartLine := []
  /-- EXTEST drives the outputs with what was shifted in (R422). -/
  extest : Bool := false
  scan : Nat := 0
  /-- What boundary scan shifted out last: the model's own record. -/
  tdo : Nat := 0
deriving DecidableEq, Repr

/-! ### FEC jigs (08_fec_jigs) -/

/-- A job (R187, R194): its die, partition, class and descriptor address, the copied descriptor bytes 0 to 111, its queue priority,
the reserved completion event, whether it runs again (R201), and its place in acceptance order among all jobs. [log 11: DESIGN CHOICE] -/
structure JgJob where
  die : Nat
  part : Nat
  cls : Nat
  addr : Nat
  desc : List Byte
  hi : Bool
  evt : Option Nat
  retry : Bool
  ord : Nat
deriving DecidableEq, Repr

/-- A job on a copy of its class. -/
structure JgRun where
  inst : Nat
  job : JgJob
deriving DecidableEq, Repr

/-- JG_DESC_ERR_ADDR (R204). -/
structure JgErr where
  addr : Nat := 0
  why : Nat := 0
  valid : Bool := false
deriving DecidableEq, Repr

/-- The jig units. -/
structure Jig where
  /-- JG_SHARE by `4 * die + p`: classes 1 to 5, four bits each. -/
  share : Tab Nat := []
  /-- JG_INST_STAT by die. -/
  inst : Tab Nat := []
  queue : List JgJob := []
  running : List JgRun := []
  /-- Credits by `64 * die + 8 * class + p` (R194). -/
  credit : Tab Int := []
  /-- JG_DESC_ERR_ADDR by `4 * die + p`. -/
  err : Tab JgErr := []
  nextOrd : Nat := 0
deriving DecidableEq, Repr

/-! ### Faults and the event log (18_faults_and_ordering) -/

/-- An event-log record (R386) with the data bytes of its continuation records. -/
structure LogRec where
  index : Nat
  code : Nat
  sev : Nat
  mod : Bool
  part : Nat
  time : Nat
  tick : Nat
  hours : Nat
  d0 : Nat
  d1 : Nat
  cont : List (List Byte)
deriving DecidableEq, Repr

/-- What a unit reports to the MC alone. -/
inductive McAlert where
  | memRetire (ch page : Nat)
  | memSpareOut (ch : Nat)
  | memScrubSlow (s : Nat)
  | srRepair (s macro_ : Nat)
  | srSpareOut (s macro_ : Nat)
  | nocHcrc (die : Nat)
  | nocGateOrph (port : Nat)
  | nocLinkRepaired (dir lane : Nat)
  | nocLnkDown (bundle req rsp str : Nat)
  | nocEpochLate (die : Nat)
  | cmdTimeout (h opc : Nat)
  | wakeFailed (d : Nat)
deriving DecidableEq, Repr

/-- An event that waits to enter a partition's event flow after a restart of the MC (R395). -/
structure HeldFlow where
  part : Nat
  code : Nat
  w2 : Nat
  w3 : Nat
deriving DecidableEq, Repr

/-- The fault registers (R405), the log in flash, the records decided but not yet written (R385), and the recoveries in progress. -/
structure Flt where
  sev : Nat := 0
  faultN : Bool := true
  dieLost : Nat := 0
  chOut : Nat := 0
  mcRst : Nat := 0
  log : List LogRec := []
  nextIndex : Nat := 0
  queue : List LogRec := []
  gap : Nat := 0
  restarts : Tab (List Nat) := []
  coreState : Tab Nat := []
  chFaults : Tab (List Nat) := []
  mcDown : Option Nat := none
  alerts : List McAlert := []
  /-- Events raised while the MC restarts, for hosts and for event flows (R395). -/
  held : List (Nat × Evt) := []
  heldFlow : List HeldFlow := []
  /-- DMA engines under test after a fault (R393). -/
  engTest : List Nat := []
  /-- Clusters out of service, one bit each (R336, R337, R393). -/
  clOut : Nat := 0
  /-- The cause of each core's latest fault (R390). -/
  coreCause : Tab Nat := []
  /-- Cores out of service until the next start-up after a fourth fault (R391), one bit each. -/
  coreOut : Nat := 0
deriving DecidableEq, Repr

/-! ### Thermal supervision and ageing (17_thermal_and_ageing) -/

/-- The thresholds and throttle parameters of R364, R366 and R378, in °C and µs. -/
structure ThCfg where
  warn : Nat := 100
  throttle : Nat := 110
  shut : Nat := 125
  warnHyst : Nat := 4
  thrHyst : Nat := 4
  shutHyst : Nat := 15
  step : Nat := 8
  min_ : Nat := 16
  hold : Nat := 1000
  mode : Nat := 0
deriving DecidableEq, Repr

/-- The thermal supervisor (R361 to R381). Readings are in 1/16 °C by sensor; `nOver`, `broken` and `fast` have a bit for each sensor;
`warnZ` has one for each zone: PD0 to PD23, then the always-on areas of CD0, CD1 and the IOD. `trip`: THERM_TRIP_N is low. -/
structure Th where
  cfg : ThCfg := {}
  pend : Option ThCfg := none
  temps : Tab Int := []
  /-- Conversions by sensor, modulo 256: at each wrap one is a self-check (R362). -/
  convs : Tab Nat := []
  nOver : Nat := 0
  broken : Nat := 0
  fast : Nat := 0
  warnZ : Nat := 0
  armed : Bool := false
  /-- ARMED before the latest shut-down, whose record may not have been written yet. -/
  armedWas : Bool := false
  trip : Bool := false
deriving DecidableEq, Repr

/-- A Patina monitor (R371, R372): ring degradation in 0.001 %, slack in ps. -/
structure Mon where
  ratio : Int := 0
  slack : Int := 0
  oos : Bool := false
deriving DecidableEq, Repr

/-- Service hours and the ageing plan (R372 to R379). `due` has a bit for each domain to be read now, `late` for each to be read after its next
wake; `busy`: a re-plan is due. `avg` is the average junction temperature in 1/16 °C. `points` are the SerDes starting points by lane direction. -/
structure Age where
  hours : Nat := 0
  replans : Nat := 0
  due : Nat := 0
  late : Nat := 0
  busy : Bool := false
  avg : Int := 0
  mons : Tab Mon := []
  points : Tab (List Int) := []
  /-- The lane directions that have been awake and adapted since the last re-plan, one bit each, and the point that each started from at its latest wake
  from deep sleep or calibration (R375). -/
  used : Nat := 0
  started : Tab (List Int) := []
  /-- TM_BH_LATn as the re-plan corrected it in flash (R296). -/
  lats : Tab Nat := []
  /-- When the service hour in progress began (R372). -/
  hourAt : Nat := 0
deriving DecidableEq, Repr

/-! ### The whole state -/

/-- The state of the module. [log 1: DESIGN CHOICE; log 2: DESIGN CHOICE; log 11: DESIGN CHOICE] -/
structure State where
  /-- Time on the TAI scale in nanoseconds; the free-running counter is its low 32 bits (R292). -/
  now : Nat := 0
  /-- The sum of the steps of TAI (R293): the model's own, so that durations are measured beside it. -/
  stepped : Int := 0
  /-- The model's own counter of free values: no register of the module. -/
  fresh : Nat := 0
  /-- The model's own record of the latest register access. -/
  answer : Answer := {}
  ctr : Tab Nat := []
  tu : TickUnit := {}
  parts : Tab Part := []
  dv : Dv := {}
  hosts : Tab HostPort := []
  mc : Mc := {}
  mem : Mem := {}
  doms : Tab Dom := []
  cores : Tab Core := []
  rasps : Tab Rasp := []
  benchCache : Tab CLine := []
  dev : Option DevAcc := none
  noc : Noc := {}
  dma : Tab DmaCh := []
  su : Su := {}
  jig : Jig := {}
  ln : Lanes := {}
  fh : Fh := {}
  gc : Gc := {}
  bh : Bh := {}
  tm : Tm := {}
  flt : Flt := {}
  age : Age := {}
  th : Th := {}
  pins : Pins := {}
  pending : List Instr := []
deriving DecidableEq, Repr

/-- The machine right after reset. [log 3: DESIGN CHOICE] -/
def State.reset : State := {}

end Sys2Proof.Machine
end

