-- ==== Sys2Proof/Machine/Ops.lean ====
section
/-!
DEFINITION. The named operations over the state: access to each unit, counters, free values, ownership, and the global address map.
-/
namespace Sys2Proof.Machine

/-- What a meaning answers. -/
abbrev Res := Host.Outcome State Fault Refusal

/-! ### Units -/

def getCore (s : State) (c : Nat) : Core := tget s.cores {} c
def setCore (s : State) (c : Nat) (x : Core) : State := { s with cores := tset s.cores c x }
def updCore (s : State) (c : Nat) (f : Core → Core) : State := setCore s c (f (getCore s c))

def getPart (s : State) (p : Nat) : Part := tget s.parts {} p
def setPart (s : State) (p : Nat) (x : Part) : State := { s with parts := tset s.parts p x }
def updPart (s : State) (p : Nat) (f : Part → Part) : State := setPart s p (f (getPart s p))

def getTick (s : State) (p : Nat) : TickBank := (getPart s p).tick
def setTick (s : State) (p : Nat) (b : TickBank) : State := updPart s p fun x => { x with tick := b }

def getHost (s : State) (h : Nat) : HostPort := tget s.hosts {} h
def setHost (s : State) (h : Nat) (x : HostPort) : State := { s with hosts := tset s.hosts h x }
def updHost (s : State) (h : Nat) (f : HostPort → HostPort) : State := setHost s h (f (getHost s h))

/-- Does port `h` carry accesses? Its link trains from stage 4 on (R328), and HPn_PERST_N (R306)
and a thermal shut-down (R368) take it down. [log 75: DEDUCED] -/
def portUp (s : State) (h : Nat) : Bool := !(getHost s h).perst && 4 ≤ s.su.stage && !s.th.trip

/-- The progress code. [log 86: DEDUCED] -/
def progress (x : Su) : Nat :=
  x.fail.getD x.step % 256 + x.stage % 16 * 2 ^ 8 + b2n x.deg * 2 ^ 12 + b2n x.fail.isSome * 2 ^ 15

/-- Changes the start-up state; the console has a line for each change of the progress code (R328, R421). [log 86: DEDUCED] -/
def updSu (s : State) (f : Su → Su) : State :=
  let x := f s.su
  let s' := { s with su := x }
  if progress x != progress s.su then { s' with pins := { s'.pins with uart := s'.pins.uart ++ [.progress (progress x)] } } else s'

/-- A unit has been taken out of service (R328: DEG). -/
def noteDeg (s : State) : State := updSu s fun x => { x with deg := true }

/-- The restarts of a core within the last 24 service hours (R391, R405). -/
def recentRestarts (s : State) (c : Nat) : List Nat := (tget s.flt.restarts [] c).filter fun h => s.age.hours < h + 24

def getDom (s : State) (d : Nat) : Dom := tget s.doms {} d
def setDom (s : State) (d : Nat) (x : Dom) : State := { s with doms := tset s.doms d x }
def updDom (s : State) (d : Nat) (f : Dom → Dom) : State := setDom s d (f (getDom s d))

def getCh (s : State) (c : Nat) : MemCh := tget s.mem.chs {} c
def setCh (s : State) (c : Nat) (x : MemCh) : State := { s with mem := { s.mem with chs := tset s.mem.chs c x } }
def updCh (s : State) (c : Nat) (f : MemCh → MemCh) : State := setCh s c (f (getCh s c))

/-- The reset values of an SRAM scrubber. -/
def getSr (s : State) (i : Nat) : Sr := tget s.mem.srs {} i
def setSr (s : State) (i : Nat) (x : Sr) : State := { s with mem := { s.mem with srs := tset s.mem.srs i x } }

def getFlow (s : State) (f : Nat) : Flow := tget s.dv.flows {} f
def setFlow (s : State) (f : Nat) (x : Flow) : State := { s with dv := { s.dv with flows := tset s.dv.flows f x } }
def updFlow (s : State) (f : Nat) (g : Flow → Flow) : State := setFlow s f (g (getFlow s f))

def getDvCore (s : State) (c : Nat) : DvCore := tget s.dv.cores {} c
def setDvCore (s : State) (c : Nat) (x : DvCore) : State := { s with dv := { s.dv with cores := tset s.dv.cores c x } }

def getRasp (s : State) (cl : Nat) : Rasp := tget s.rasps {} cl
def setRasp (s : State) (cl : Nat) (x : Rasp) : State := { s with rasps := tset s.rasps cl x }

def getPort (s : State) (q : Nat) : NocPort := tget s.noc.ports {} q
def setPort (s : State) (q : Nat) (x : NocPort) : State := { s with noc := { s.noc with ports := tset s.noc.ports q x } }

def getNocDie (s : State) (d : Nat) : NocDie := tget s.noc.dies {} d
def setNocDie (s : State) (d : Nat) (x : NocDie) : State := { s with noc := { s.noc with dies := tset s.noc.dies d x } }

def getLink (s : State) (b : Nat) : Link := tget s.noc.links {} b
def setLink (s : State) (b : Nat) (x : Link) : State := { s with noc := { s.noc with links := tset s.noc.links b x } }

/-! ### Free values and answers -/

/-- Takes the next free value, `w` bits wide (notes/assumptions/2.md). [log 2: DESIGN CHOICE] -/
def takeFree (s : State) (w : Nat) : Nat × State := (Config.free s.fresh % 2 ^ w, { s with fresh := s.fresh + 1 })

/-- Records what a register access answered. [log 9: DESIGN CHOICE] -/
def answer (s : State) (status data : Nat) : State := { s with answer := { status := status, data := data } }

/-! ### Counters (R9, R11) -/

/-- The widest value of a counter: 48 bits for the lane counters of R52, 32 bits for every other. -/
def Counter.top (c : Counter) : Nat :=
  match c with
  | .lnFecCw | .lnFecCorr | .lnFecUncorr | .lnFecSym | .lnPrbsBits | .lnPrbsErr => 2 ^ 48 - 1
  | _ => 2 ^ 32 - 1

/-- Where a counter of a bank is kept. -/
def ctrKey (c : Counter) (bank : Nat) : Nat := bank * 256 + c.ctorIdx

/-- A counter's value. -/
def ctrGet (s : State) (c : Counter) (bank : Nat) : Nat := tget s.ctr 0 (ctrKey c bank)

/-- A counter set to `n`. -/
def ctrSet (s : State) (c : Counter) (bank n : Nat) : State := { s with ctr := tset s.ctr (ctrKey c bank) n }

/-- Adds `n` events to a counter, which saturates at its widest value. -/
def bumpBy (s : State) (c : Counter) (bank n : Nat) : State :=
  ctrSet s c bank (min (Counter.top c) (ctrGet s c bank + n))

/-- Counts one event. [log 88: DESIGN CHOICE] -/
def bump (s : State) (c : Counter) (bank : Nat) : State := bumpBy s c bank 1

/-! ### Time (R15, R16, R292) -/

/-- Nanoseconds since reset: the module's time without the steps of TAI. Durations are measured on it. [log 14: DESIGN CHOICE] -/
def upNs (s : State) : Nat := ((s.now : Int) - s.stepped).toNat

/-- Time has reached `t` of the module's own time, if it had not. -/
def timeTo (s : State) (t : Nat) : State := { s with now := s.now + (t - upNs s) }

/-- The free-running 32-bit nanosecond counter. [log 8: DESIGN CHOICE] -/
def nsCounter (s : State) : Nat := s.now % 2 ^ 32

/-- Ticks of a radio frame at numerology µ (R14). -/
def ticksPerFrame (mu : Nat) : Nat := 140 * 2 ^ mu

/-- Ticks of a full SFN cycle (R15). -/
def ticksPerCycle (mu : Nat) : Nat := 143360 * 2 ^ mu

/-- Ticks of a half-millisecond (R14). -/
def ticksPerHalf (mu : Nat) : Nat := 7 * 2 ^ mu

/-- The absolute tick number N (R15). -/
def absTick (s : State) : Nat := s.tu.sfn * ticksPerFrame s.tu.mu + s.tu.tidx

/-- The normal tick length in Tc (R14). -/
def normTc (mu : Nat) : Nat := 140288 / 2 ^ mu

/-- Tc counts from the start of a half-millisecond to the start of its tick `j` (R14, R16). -/
def tickOffTc (mu j : Nat) : Nat := if j = 0 then 0 else j * normTc mu + 1024

/-- The truncated nanoseconds of a count of Tc: one Tc is 3,125/6,144 ns (R16). -/
def tcToNs (n : Nat) : Nat := n * 3125 / 6144

/-- The truncated start of the tick that lies `d` ticks from the current one, in nanoseconds on the time scale (R16, R28).
The half-millisecond boundaries fall on whole nanoseconds. [log 8: DESIGN CHOICE] -/
def tickStartAt (s : State) (d : Int) : Int :=
  let per : Int := ticksPerHalf s.tu.mu
  let k := (s.tu.j : Int) + d
  let q := k / per
  (s.tu.half : Int) + 500000 * q + (tcToNs (tickOffTc s.tu.mu (k % per).toNat) : Int)

/-! ### Identifiers and ownership (R12, R226, R322) -/

/-- The compute die of a core. -/
def coreDie (c : Nat) : Nat := if c < 96 then c / 48 else (c - 96) / 8

/-- Is the core a Chisel core? -/
def isChisel (c : Nat) : Bool := c < 96

/-- The cluster of a Chisel core. -/
def coreCluster (c : Nat) : Nat := c / 4

/-- The power domain of a cluster (R345). -/
def clusterDom (cl : Nat) : Nat := 9 * (cl / 12) + (cl % 12) / 2

/-- The power domain of a core; Bench cores lie in the always-on area (R345). -/
def coreDom (c : Nat) : Option Nat := if c < 96 then some (clusterDom (coreCluster c)) else none

/-- Is `d` a Chisel group (R345)? -/
def isGroup (d : Nat) : Bool := d < 18 && d % 9 < 6

/-- The cores of a Chisel group, in ascending order (R345). -/
def groupCores (d : Nat) : List Nat :=
  if isGroup d then upFrom (4 * (12 * (d / 9) + 2 * (d % 9))) 8 else []

/-- A word of what a partition was granted (R322); zero where the partition does not exist. -/
def descWord (s : State) (p i : Nat) : Nat :=
  let x := getPart s p
  if x.st = .none then 0 else (lget x.desc 0 i).toNat

def ownsCluster (s : State) (p cl : Nat) : Bool := bit (descWord s p 1) cl
def ownsBench (s : State) (p b : Nat) : Bool := bit (descWord s p 1) (24 + b)
def ownsFh (s : State) (p m : Nat) : Bool := bit (descWord s p 2) m
def ownsBp (s : State) (p n : Nat) : Bool := bit (descWord s p 2) (32 + n)
def ownsSysDma (s : State) (p i : Nat) : Bool := bit (descWord s p 3) i
def ownsGroupOf (s : State) (p g : Nat) : Bool :=
  let w := descWord s p 7
  fld w 0 8 ≤ g && g < fld w 0 8 + fld w 8 9
def ownsNose (s : State) (p x : Nat) : Bool :=
  let w := descWord s p 7
  fld w 17 8 ≤ x && x < fld w 17 8 + fld w 25 9

/-- Does partition `p` own core `c` (GLOBAL number)? -/
def ownsCore (s : State) (p c : Nat) : Bool :=
  if isChisel c then ownsCluster s p (coreCluster c) else ownsBench s p (c - 96)

/-- The first partition that meets a test. -/
def ownerBy (f : Nat → Bool) : Option Nat := (upFrom 0 4).find? f

def coreOwner (s : State) (c : Nat) : Option Nat := ownerBy fun p => ownsCore s p c
def fhOwner (s : State) (m : Nat) : Option Nat := ownerBy fun p => ownsFh s p m
def bpOwner (s : State) (n : Nat) : Option Nat := ownerBy fun p => ownsBp s p n
def gainOwner (s : State) (g : Nat) : Option Nat := ownerBy fun p => ownsGroupOf s p g
def noseOwner (s : State) (x : Nat) : Option Nat := ownerBy fun p => ownsNose s p x

/-- The partition whose software runs on a core, 4 for none. -/
def corePartN (s : State) (c : Nat) : Nat := (coreOwner s c).getD 4

/-- The partition on whose behalf a core accesses memory; a core of no partition owns nothing. -/
def corePart (s : State) (c : Nat) : Option Nat := some ((coreOwner s c).getD 4)

def getDma (s : State) (k : Nat) : DmaCh := tget s.dma {} k
def setDma (s : State) (k : Nat) (x : DmaCh) : State := { s with dma := tset s.dma k x }
def updDma (s : State) (k : Nat) (f : DmaCh → DmaCh) : State := setDma s k (f (getDma s k))

/-- The number of a DMA channel. -/
def dmaNo (e c : Nat) : Nat := 16 * e + c

/-- The partition that a channel acts for (R244): the owner of its cluster, or of a system-engine channel the one in DMA_CH_CFG.PART, which the
MC writes, and sets with the grant (R322); a channel that no partition owns acts for none that exists. -/
def dmaPart (s : State) (k : Nat) : Nat :=
  let e := k / 16
  if e < 24 then (ownerBy fun p => ownsCluster s p e).getD 4
  else ((getDma s k).part).getD ((ownerBy fun p => ownsSysDma s p (k - 384)).getD 4)

/-- The cores of a partition in ascending GLOBAL number. -/
def partCores (s : State) (p : Nat) : List Nat := (upFrom 0 112).filter fun c => ownsCore s p c

/-- DV_PART_RANGE of a partition on a die: first flow and count (R220); a count of 0 means no flows. -/
def flowRange (s : State) (p die : Nat) : Nat × Nat :=
  let w := descWord s p (4 + die)
  (fld w 0 17, fld w 17 18)

/-- DV_PART_QUOTA.QUOTA (R220). -/
def dvQuota (s : State) (p die : Nat) : Nat := fld (descWord s p (4 + die)) 35 17

/-- The die of a flow number: bit 17. -/
def flowDie (f : Nat) : Nat := fld f 17 1

/-- Does the flow lie in the partition's range on its die? -/
def ownsFlow (s : State) (p f : Nat) : Bool :=
  let r := flowRange s p (flowDie f)
  let i := fld f 0 17
  r.1 ≤ i && i < r.1 + r.2

def flowOwner (s : State) (f : Nat) : Option Nat := ownerBy fun p => ownsFlow s p f

/-- May the agent touch a resource of partition `p`? The MC may touch every one. -/
def mayTouch (who : Agent) (p : Option Nat) : Bool :=
  match who with
  | .mc => true
  | .part q => p == some q.val
  | .host _ => false

/-- Is the agent the MC? -/
def isMc (who : Agent) : Bool := who == Agent.mc

/-! ### The global address map (R12, R260, R261) -/

/-- Base addresses of tile, cluster and die-store memory (R12). -/
def tileBase (c : Nat) : Nat := 0x004000000000 + 0x100000 * c
def clusterBase (cl : Nat) : Nat := 0x004100000000 + 0x1000000 * cl
def storeBase (die : Nat) : Nat := 0x004200000000 + 0x10000000 * die

/-- What an address names. -/
inductive Target where
  | lpddr (ch page : Nat)
  | tile (core : Nat)
  | cluster (cl : Nat)
  | store (die port : Nat)
  | regs
  | nothing
deriving DecidableEq, Repr

/-- The target at an address (R12, R260, R261). -/
def targetOf (a : Nat) : Target :=
  if a < 0x002000000000 then
    if fld a 0 36 < 0xF7FE00000 then
      .lpddr (8 * fld a 36 1 + fld a 12 3) (2 * fld a 15 21 + fld a 11 1)
    else .nothing
  else if 0x004000000000 ≤ a ∧ a < 0x004100000000 then
    let o := a - 0x004000000000
    let c := o / 0x100000
    if c < 96 ∧ o % 0x100000 < 0x80000 then .tile c else .nothing
  else if 0x004100000000 ≤ a ∧ a < 0x004200000000 then
    let o := a - 0x004100000000
    let cl := o / 0x1000000
    if cl < 24 ∧ o % 0x1000000 < 0x400000 then .cluster cl else .nothing
  else if 0x004200000000 ≤ a ∧ a < 0x005000000000 then
    let o := a - 0x004200000000
    let d := o / 0x10000000
    if d < 2 ∧ o % 0x10000000 < 0x4000000 then .store d ((o % 0x10000000) / 4096 % 8) else .nothing
  else if 0x005000000000 ≤ a ∧ a < 2 ^ 48 then .regs
  else .nothing

/-! ### Ports (R221, R222) -/

/-- The die of a port: 0, 1, or 2 for the IOD. -/
def portDie (q : Nat) : Nat := if q < 72 then 0 else if q < 144 then 1 else 2

/-- The router of a port: its column and row. -/
def portXY (q : Nat) : Nat × Nat :=
  if q < 144 then let r := q % 72 / 3; (r % 8, r / 8) else ((q - 144) % 8, (q - 144) / 8)

/-- The core at a port, if one is there. -/
def portCore (q : Nat) : Option Nat :=
  if q < 144 then
    let d := q / 72
    let i := q % 72
    if 24 ≤ i then some (48 * d + i - 24) else if i % 3 = 0 then some (96 + 8 * d + i / 3) else none
  else none

/-- The port of a core. -/
def corePort (c : Nat) : Nat := if c < 96 then 72 * (c / 48) + 24 + c % 48 else 72 * ((c - 96) / 8) + 3 * ((c - 96) % 8)

/-- The port of a DMA channel: channel c of CLn's engine injects through the port of CC(4n + (c mod 4)), system engine s through port 154 + s (R221,
R244). -/
def dmaPort (k : Nat) : Nat := if k / 16 < 24 then corePort (4 * (k / 16) + k % 4) else 154 + (k / 16 - 24)

/-- SUBSRC of a DMA channel's packets (R224, R244). -/
def dmaSub (k : Nat) : Nat := 16 + k % 16

/-- The port of instance `i` of a class of jigs: jig port i mod 8 of its die (R221). -/
def jigPort (die i : Nat) : Nat := 72 * die + 3 * (i % 8) + 1

/-- The power domain of a class of jigs of a die (R203). -/
def jigDom (die cls : Nat) : Nat := 9 * die + (if cls = 1 then 6 else 7)

/-- Is a compute die lost, at start-up (R335, R336) or in service (R399)? [log 56: DEDUCED] -/
def dieOut (s : State) (d : Nat) : Bool := bit s.flt.dieLost d || bit s.su.dieGone d

/-- The port of a unit's registers (R222); framer and backhaul ports by the bank's port. A controller's registers, which stay in reach while it
sleeps, are taken as the die's fabric segment's, those of the SRAM supervision and of memory panic as the MC's. [log 45: DESIGN CHOICE] -/
def unitPort (u : RegUnit) (off : Nat) : Nat :=
  match u with
  | .core c => corePort c
  | .dma e => if e.val < 24 then corePort (4 * e) else 154 + (e.val - 24)
  | .jig d => 72 * d + 1
  | .dovetail d => 72 * d + 4
  | .fabric d => if d.val < 2 then 72 * d + 7 else 159
  | .framer => 144 + (if off < 0x8000 then off / 0x400 else if off < 0x200000 then off / 0x8000 else off / 0x10000) % 32 / 4
  | .gain | .nose => 158
  | .mem ch => 72 * (ch.val / 8) + 7
  | .backhaul => if off < 0x4000 then 152 + off / 0x2000 else 152
  | .lanes | .sram | .panic | .time | .mc | .power | .thermal => 159

/-- The unit and offset of an address of register space (R8, R12). -/
def regAddr (a : Nat) : Option (RegUnit × Nat) := (Config.regBlock (a / 2 ^ 24 - 0x5000)).map fun u => (u, a % 2 ^ 24)

/-- The destination port of an address (R222). -/
def destOf (a : Nat) : Option Nat :=
  match targetOf a with
  | .tile c => some (corePort c)
  | .cluster cl => some (corePort (4 * cl + fld a 6 2))
  | .lpddr ch _ => some (72 * (ch / 8) + 3 * (ch % 8) + 2)
  | .store d p => some (72 * d + 3 * p + 2)
  | .regs => (regAddr a).map fun e => unitPort e.1 e.2
  | .nothing => none

/-- The power domain that holds a target's memory (R345). -/
def targetDom (t : Target) : Option Nat :=
  match t with
  | .lpddr ch _ => some (9 * (ch / 8) + 8)
  | .tile c => some (clusterDom (coreCluster c))
  | .cluster cl => some (clusterDom cl)
  | .store d _ => some (9 * d + 8)
  | .regs => none
  | .nothing => none

/-- Does an LPDDR6 range word of R322 hold the address? -/
def rangeHolds (w a : Nat) : Bool :=
  bit w 63 && fld w 0 9 * 0x10000000 ≤ a && a < (fld w 0 9 + fld w 9 10) * 0x10000000

/-- Does partition `p` own the memory at address `a` (R322)? -/
def ownsMem (s : State) (p a : Nat) : Bool :=
  match targetOf a with
  | .lpddr _ _ => (upFrom 8 8).any fun i => rangeHolds (descWord s p i) a
  | .tile c => ownsCluster s p (coreCluster c)
  | .cluster cl => ownsCluster s p cl
  | .store d _ => bit (descWord s p (16 + d)) (fld a 20 6)
  | .regs => false
  | .nothing => false

/-- May an agent of partition `who` (none: the MC) touch the memory at `a` (R226)? -/
def memAllowed (s : State) (who : Option Nat) (a : Nat) : Bool :=
  match who with
  | none => true
  | some p => ownsMem s p a

/-! ### Bytes of memory in canonical form -/

/-- What a byte that no cell lists reads as: start-up writes every SRAM word with zero before first use (R336), and an LPDDR6 page
is read only once it has been written whole (R265). [log 7: DESIGN CHOICE] -/
def memDefault : Byte := 0

/-- The byte at an address. [log 7: DESIGN CHOICE] -/
def cellGet (m : List Host.Cell) (a : Nat) : Byte :=
  match m with
  | [] => memDefault
  | (k, v) :: r => if k = a then v else cellGet r a

/-- The list with a cell put in its place, for an address that is not listed. -/
def cellInsert (m : List Host.Cell) (a : Nat) (b : Byte) : List Host.Cell :=
  match m with
  | [] => [(a, b)]
  | (k, v) :: r => if a < k then (a, b) :: (k, v) :: r else (k, v) :: cellInsert r a b

/-- The memory with byte `b` at `a`; a byte equal to the default is not listed. -/
def cellSet (m : List Host.Cell) (a : Nat) (b : Byte) : List Host.Cell :=
  let m' := m.filter fun e => e.1 != a
  if b = memDefault then m' else cellInsert m' a b

/-- The bytes from `a` on, `n` of them. -/
def cellsRead (m : List Host.Cell) (a : Nat) : Nat → List Byte
  | 0 => []
  | n + 1 => cellGet m a :: cellsRead m (a + 1) n

/-- The memory with the bytes `bs` from `a` on. -/
def cellsWrite (m : List Host.Cell) (a : Nat) (bs : List Byte) : List Host.Cell :=
  match bs with
  | [] => m
  | b :: r => cellsWrite (cellSet m a b) (a + 1) r

/-- The memory with every byte of `[a, a + n)` equal to the default. -/
def cellsZero (m : List Host.Cell) (a n : Nat) : List Host.Cell := m.filter fun e => e.1 < a || a + n ≤ e.1

/-- The canonical form: addresses strictly rising, no cell equal to the default. [log 7: DESIGN CHOICE] -/
def Memory.wf (m : List Host.Cell) : Bool :=
  match m with
  | [] => true
  | [(_, v)] => v != memDefault
  | (k, v) :: (k', v') :: r => v != memDefault && k < k' && Memory.wf ((k', v') :: r)

/-- The bytes of memory of a state. -/
def readBytes (s : State) (a n : Nat) : List Byte := cellsRead s.mem.bytes a n

/-- The state with bytes stored. -/
def writeBytes (s : State) (a : Nat) (bs : List Byte) : State :=
  { s with mem := { s.mem with bytes := cellsWrite s.mem.bytes a bs } }

/-- The byte of memory at an address: the model's read of one byte. -/
def byteAt (s : State) (a : Nat) : Byte := cellGet s.mem.bytes a

end Sys2Proof.Machine
end

