-- ==== Sys2Proof/Machine/HostQ.lean ====
section
/-!
DEFINITION. The host ports' queues: event records (R320), reply packets (R311), flushes (R315), and the parsing of command packets (R309, R312 to R314).
-/
namespace Sys2Proof.Machine

/-! ### Events to a host (R320) -/

/-- Puts a record into a host's event queue. A masked group is neither queued nor counted; a record that meets a full queue is
discarded and counted, and the next record that fits is preceded by EVT_LOST. -/
def postHost (s : State) (h : Nat) (e : Evt) : State :=
  if s.flt.mcDown.isSome then { s with flt := { s.flt with held := s.flt.held ++ [(h, e)] } }
  else
  let x := getHost s h
  let g := e.code / 256
  if g != 0 && !bit x.mask g then s
  else if x.lostPend = 0 then
    if x.evts.length < 1024 then setHost s h { x with evts := x.evts ++ [e] }
    else bump (setHost s h { x with lostPend := 1 }) .hwEvtLost h
  else if x.evts.length + 1 < 1024 then
    let l : Evt := { code := 0, part := e.part, mod := false, time := s.now, w2 := x.lostPend, w3 := 0 }
    setHost s h { x with evts := x.evts ++ [l, e], lostPend := 0 }
  else bump (setHost s h { x with lostPend := x.lostPend + 1 }) .hwEvtLost h

/-- Posts a record to the owner of partition `p` only. -/
def postPart (s : State) (p code w2 w3 : Nat) : State :=
  postHost s p { code := code, part := p, mod := false, time := s.now, w2 := w2, w3 := w3 }

/-! ### Replies (R311, R316) -/

/-- The CRC-16 of a header's bytes 0 to 5 and 8 to 15 (R311). -/
def headCrc (w0 w1 : Nat) : Nat := crc16 (leBytes w0 6 ++ leBytes w1 8)

/-- The packet of a reply (R311). -/
def replyPacket (opc seq status : Nat) (pay : List Word) : List Word :=
  let w0 := 1 + status * 2 ^ 8 + opc * 2 ^ 16 + seq * 2 ^ 32
  let n := pay.length
  let pc := if n = 0 then 0 else crc32 (bytesOfWords pay)
  [BitVec.ofNat 64 (w0 + headCrc w0 n * 2 ^ 48), BitVec.ofNat 64 n] ++ pay ++ [BitVec.ofNat 64 (pc + seq * 2 ^ 32)]

/-- Writes a reply into the reply FIFO. -/
def pushReply (s : State) (h opc seq status : Nat) (pay : List Word) : State :=
  updHost s h fun x => { x with rpl := x.rpl ++ replyPacket opc seq status pay }

/-- A flush empties the command FIFO, the words taken of an unfinished packet among it, and sets HW_STAT.FLUSH (R315). [log 66: DEDUCED] -/
def flushCmd (x : HostPort) : HostPort := { x with cmd := [], committed := 0, asm := [], marks := [], flush := true }

/-! ### Opcodes (R318) -/

/-- Who may issue a command: any host, a host that owns a partition, or the manager. [log 67: DEDUCED] -/
inductive Right where
  | any
  | part
  | manager
deriving DecidableEq, Repr

/-- An opcode's right and the payload lengths it takes (R312, R318). -/
structure OpcRow where
  opc : Nat
  right : Right
  lo : Nat
  hi : Nat
deriving DecidableEq, Repr

/-- The opcodes of R318. PWR_SET and MEM_REGION check the manager's right themselves. -/
def opcodes : List OpcRow :=
  [⟨0x0001, .any, 1, 1⟩, ⟨0x0002, .any, 0, 0⟩, ⟨0x0003, .any, 1, 1⟩, ⟨0x0100, .any, 18, 18⟩, ⟨0x0101, .part, 0, 0⟩,
   ⟨0x0102, .part, 0, 0⟩, ⟨0x0103, .part, 0, 0⟩, ⟨0x0104, .part, 4, 4⟩, ⟨0x0105, .part, 2, 2⟩, ⟨0x0106, .part, 1, 1⟩,
   ⟨0x0107, .part, 1, 1⟩, ⟨0x0108, .part, 5, 5⟩, ⟨0x0109, .part, 3, 515⟩, ⟨0x010A, .any, 1, 1⟩, ⟨0x0200, .part, 9, 131071⟩,
   ⟨0x0201, .part, 1, 1⟩, ⟨0x0202, .part, 0, 0⟩, ⟨0x0203, .part, 0, 0⟩, ⟨0x0204, .part, 1, 1⟩, ⟨0x0300, .part, 2, 131071⟩] ++
  [⟨0x0301, .part, 2, 2⟩, ⟨0x0302, .part, 3, 3⟩, ⟨0x0303, .any, 3, 3⟩, ⟨0x0304, .part, 258, 258⟩,
   ⟨0x0400, .manager, 2, 131071⟩, ⟨0x0401, .manager, 2, 2⟩, ⟨0x0402, .manager, 1, 1⟩, ⟨0x0403, .any, 2, 2⟩, ⟨0x0500, .part, 9, 9⟩,
   ⟨0x0501, .part, 1, 1⟩, ⟨0x0502, .part, 1, 1⟩, ⟨0x0503, .part, 1, 1⟩, ⟨0x0504, .manager, 1, 1⟩, ⟨0x0505, .manager, 1, 1⟩,
   ⟨0x0506, .manager, 1, 1⟩, ⟨0x0507, .manager, 7, 7⟩, ⟨0x0600, .manager, 3, 3⟩, ⟨0x0601, .any, 0, 0⟩]

/-- The opcodes answered before MOD_READY: HELLO, MOD_STATUS, LOG_READ and the FW commands (R313). [log 67: DEDUCED] -/
def earlyOpc (opc : Nat) : Bool := [0x0001, 0x0002, 0x0403, 0x0400, 0x0401, 0x0402].contains opc

/-- The opcodes answered while the host's partition is restarting (R324). [log 67: DEDUCED] -/
def restartOpc (opc : Nat) : Bool := [0x0001, 0x0002, 0x0102, 0x0403].contains opc

/-- Takes a checked packet: the session and sequence checks of R313 and R314, and the checks every command shares (R318, R319).
A command that passes them is begun; every other is answered at once. -/
def takePacket (s : State) (h opc seq : Nat) (args : List Word) : State :=
  let x := getHost s h
  if opc != 1 && (!x.session || seq != x.expSeq) then
    pushReply s h opc seq 0x02 [BitVec.ofNat 64 x.expSeq]
  else
    let s := if opc = 1 then s else setHost s h { x with expSeq := (x.expSeq + 1) % 65536 }
    match opcodes.find? fun r => r.opc == opc with
    | none => pushReply s h opc seq 0x03 []
    | some r =>
      if args.length < r.lo ∨ r.hi < args.length then
        let (v, s) := takeFree s 8
        pushReply s h opc seq 0x04 [BitVec.ofNat 64 v]
      else if !s.su.ready && !earlyOpc opc then pushReply s h opc seq 0x0D []
      else if (getPart s h).st = .restarting && !restartOpc opc then pushReply s h opc seq 0x07 []
      else if r.right = .part && (getPart s h).st = .none then pushReply s h opc seq 0x06 []
      else if r.right = .manager && s.mc.manager != some h then pushReply s h opc seq 0x0F []
      else updHost s h fun x => { x with begun := some { opc := opc, seq := seq, args := args, took := upNs s } }

/-- Does the MC, or the boot ROM in its place, take commands: from stage 4 of start-up on, outside a restart of the MC, and before a thermal
shut-down (R313, R328, R368, R395)? -/
def mcUp (s : State) : Bool := 4 ≤ s.su.stage && s.flt.mcDown.isNone && !s.th.trip

/-- The committed words that the MC has not yet parsed: those it has taken, and those in the FIFO. [log 66: DEDUCED] -/
def stream (x : HostPort) : List Word := x.asm ++ x.cmd.take x.committed

/-- Takes the first `k` words away from the doorbells' marks. -/
def dropMarks : List (Nat × Nat) → Nat → List (Nat × Nat)
  | [], _ => []
  | (n, t) :: r, k => if k < n then (n - k, t) :: r else dropMarks r (k - n)

/-- When word `i` of the stream was committed. -/
def markAt : List (Nat × Nat) → Nat → Nat
  | [], _ => 0
  | (n, t) :: r, i => if i < n then t else markAt r (i - n)

/-- When the header at the head of the stream was committed whole (R312). -/
def headAt (x : HostPort) : Nat := markAt x.marks 1

/-- Takes the first `k` words of the stream away. [log 66: DEDUCED] -/
def eatWords (x : HostPort) (k : Nat) : HostPort :=
  { x with cmd := x.cmd.drop (k - x.asm.length), committed := x.committed - (k - x.asm.length), asm := [], marks := dropMarks x.marks k }

/-- One packet from the head of the stream (R311, R312); `none` where no whole packet is committed or a command is begun. [log 66: DEDUCED] -/
def parseOne (s : State) (h : Nat) : Option State :=
  let x := getHost s h
  let l := stream x
  if !mcUp s || x.begun.isSome || l.length < 2 then none
  else
    let w0 := (lget l 0 0).toNat
    let w1 := (lget l 0 1).toNat
    let opc := fld w0 16 16
    let seq := fld w0 32 16
    if fld w0 48 16 != headCrc w0 w1 || fld w0 0 8 != 1 || fld w0 8 8 != 0 || fld w1 17 47 != 0 then
      some (pushReply (setHost s h (flushCmd x)) h opc seq 0x01 [])
    else
      let n := fld w1 0 17
      if l.length < n + 3 then none
      else
        let args := (l.drop 2).take n
        let tr := (lget l 0 (n + 2)).toNat
        let s := setHost s h (eatWords x (n + 3))
        let pc := if n = 0 then 0 else crc32 (bytesOfWords args)
        if fld tr 48 16 != 0 then some (pushReply (updHost s h flushCmd) h opc seq 0x01 [])
        else if fld tr 0 32 != pc || fld tr 32 16 != seq then some (pushReply s h opc seq 0x01 [])
        else some (takePacket s h opc seq args)

/-- The MC takes the committed words of a packet that is not yet whole out of the FIFO (R312), unless it has begun a command. -/
def takeCommitted (s : State) (h : Nat) : State :=
  let x := getHost s h
  if mcUp s && x.begun.isNone then setHost s h { x with asm := stream x, cmd := x.cmd.drop x.committed, committed := 0 } else s

/-- Parses packets until a command is begun or the committed words run out. -/
def parse (s : State) (h : Nat) : Nat → State
  | 0 => s
  | f + 1 => match parseOne s h with
    | none => s
    | some s' => parse s' h f

/-- Parses what a host has committed. -/
def parseAll (s : State) (h : Nat) : State :=
  takeCommitted (parse s h ((getHost s h).cmd.length + (getHost s h).asm.length + 1)) h

/-! ### Executing a begun command (R316) -/

/-- What a command's own rule answers: a status and a payload now, or nothing yet. -/
inductive Reply where
  | now (status : Nat) (pay : List Word)
  | later
deriving DecidableEq, Repr

/-- The long commands (R316): they run on beside those of other hosts. -/
def longOpc (opc : Nat) : Bool := [0x0101, 0x0103, 0x0200, 0x0300, 0x0301, 0x0302, 0x0304, 0x0400, 0x0401, 0x0403].contains opc

/-- The short command that the MC has in hand (R316). -/
def shortRun (s : State) : Option HostCmd :=
  ((upFrom 0 4).filterMap fun h => (getHost s h).begun).find? fun c => c.running && !longOpc c.opc

/-- The host whose begun short command the MC takes next: round-robin from the host after the one last served, and none while a short command is
still running (R316). -/
def mcTurn (s : State) : Option Nat :=
  if !mcUp s ∨ (shortRun s).isSome then none
  else ((upFrom 1 4).map fun i => (s.mc.lastServed + i) % 4).find? fun h => ((getHost s h).begun.map fun c => !longOpc c.opc).getD false

/-- May the MC work on host `h`'s begun command `c` (R316)? A short one has its turn; a long one runs beside the others, unless the MC was busy with a
short command when it came. -/
def mayRun (s : State) (h : Nat) (c : HostCmd) : Bool :=
  if longOpc c.opc then mcUp s && ((shortRun s).map fun b => decide (c.took < b.took)).getD true else mcTurn s == some h

/-- Ends host `h`'s begun command with a reply, unless the reply is to be discarded (R306, R315), and parses on. [log 12: DESIGN CHOICE] -/
def finish (s : State) (h : Nat) (c : HostCmd) (status : Nat) (pay : List Word) : State :=
  let d := ((getHost s h).begun.map fun b => b.drop).getD c.drop
  let s := updHost s h fun x => { x with begun := none }
  let s := if d then s else pushReply s h c.opc c.seq status pay
  parseAll s h

/-- Executes host `h`'s begun command if it is opcode `opc` and its turn has come; otherwise nothing happens. [log 12: DESIGN CHOICE; log 67: DEDUCED] -/
def runCmd (s : State) (h opc : Nat) (body : State → HostCmd → Reply × State) : State :=
  match (getHost s h).begun with
  | none => s
  | some c =>
    if c.opc = opc ∧ mayRun s h c = true then
      let s := { s with mc := { s.mc with lastServed := h } }
      match body s c with
      | (.now st pay, s') => finish s' h c st pay
      | (.later, s') => updHost s' h fun x => { x with begun := x.begun.map fun b => { b with running := true, took := if b.running then b.took else upNs s' } }
    else s

/-- The same for a command that goes on over several rows; one whose reply is discarded ends without one (R315). [log 12: DESIGN CHOICE] -/
def runSteps (s : State) (h opc : Nat) (body : State → HostCmd → Reply × State) : State :=
  match (getHost s h).still with
  | some c =>
    if c.opc = opc ∧ mcUp s = true then
      match body s c with
      | (.now _ _, s') => updHost s' h fun x => { x with still := none }
      | (.later, s') => s'
    else runCmd s h opc body
  | none => runCmd s h opc body

/-- Answers the short command that host `h` has running (R348, R351). -/
def replyLater (s : State) (h status : Nat) (pay : List Word) : State :=
  match (getHost s h).begun with
  | some c => if c.running && !longOpc c.opc then finish s h c status pay else s
  | none => s

/-- Payload word `i` of a command. -/
def arg (c : HostCmd) (i : Nat) : Nat := (lget c.args 0 i).toNat

/-- A one-word payload. -/
def one (n : Nat) : List Word := [BitVec.ofNat 64 n]

/-- BAD_PARAM, NOT_OWNER, NO_RESOURCE or REFUSED with W0 (R319). -/
def refuse (s : State) (status w : Nat) : Reply × State := (.now status (one w), s)

/-- OK with no payload. -/
def okReply (s : State) : Reply × State := (.now 0 [], s)

end Sys2Proof.Machine
end

