-- ==== Sys2Proof/Machine/DvOps.lean ====
section
/-!
DEFINITION. Dovetail's operations: accepting and refusing an item (R209), leaving a flow (R213, R215), withdrawing and aborting (R216, R218).
-/
namespace Sys2Proof.Machine

/-! ### Reading flows -/

/-- The items of a flow, in acceptance order. -/
def flowItems (s : State) (f : Nat) : List Item := s.dv.items.filter fun it => it.flow == f

/-- QCOUNT: items held, reserved places included (R205, R198). -/
def qcount (s : State) (f : Nat) : Nat := (flowItems s f).length

/-- Is an item running? -/
def isRunning (it : Item) : Bool := match it.place with | .running _ => true | _ => false

/-- Is an item staged? -/
def isStaged (it : Item) : Bool := match it.place with | .staged _ _ => true | _ => false

/-- Is an item queued or staged (R29)? -/
def isWaiting (it : Item) : Bool := match it.place with | .queued => true | .staged _ _ => true | _ => false

/-- RUNNING of a flow (R205). -/
def runningCount (s : State) (f : Nat) : Nat := ((flowItems s f).filter isRunning).length

/-- DV_PART_QUOTA.USED: slots that a partition holds on a die. -/
def quotaUsed (s : State) (p die : Nat) : Nat :=
  (s.dv.items.filter fun it => flowDie it.flow == die && ownsFlow s p it.flow).length

/-- DV_LVL_DEPTHn: a partition's queued and staged items on a die at level `n` (R219, R220). -/
def lvlDepth (s : State) (p die n : Nat) : Nat :=
  (s.dv.items.filter fun it => flowDie it.flow == die && ownsFlow s p it.flow && it.level == n && isWaiting it).length

/-- DV_POOL.FREE of a die. -/
def poolFree (s : State) (die : Nat) : Nat := 65536 - (s.dv.items.filter fun it => flowDie it.flow == die).length

/-- Items running on a core, in acceptance order. -/
def runningOn (s : State) (c : Nat) : List Item := s.dv.items.filter fun it => it.place == .running c

/-- Items staged on a core. -/
def stagedOn (s : State) (c : Nat) : List Item :=
  s.dv.items.filter fun it => match it.place with | .staged c' _ => c' == c | _ => false

/-- The position of a staged item in its queue. -/
def stageOrd (it : Item) : Nat := match it.place with | .staged _ o => o | _ => 0

/-- The older item of a core's staging queue (R212). -/
def oldestStaged (s : State) (c : Nat) : Option Item :=
  (stagedOn s c).foldl (fun b it => match b with
    | none => some it
    | some x => if stageOrd it < stageOrd x then some it else some x) none

/-- The item with an identity. -/
def itemById (s : State) (i : Nat) : Option Item := s.dv.items.find? fun it => it.id == i

/-- The item that a handle names. -/
def itemByHdl (s : State) (h : Word) : Option Item := s.dv.items.find? fun it => it.hdl == h

/-- The head of a flow: its oldest item, without the places that jig jobs have reserved (R198). -/
def flowHead (s : State) (f : Nat) : Option Item := (flowItems s f).find? fun it => it.place != .reserved

/-- Is a queued item ready (R210 to R211): in an exclusive flow only at the head. [log 55: DEDUCED] -/
def isReady (s : State) (it : Item) : Bool :=
  it.place == .queued &&
    ((getFlow s it.flow).kind != 2 || ((flowHead s it.flow).map fun h => h.id) == some it.id)

/-! ### Changing items -/

def setItems (s : State) (l : List Item) : State := { s with dv := { s.dv with items := l } }

/-- Applies `f` to the item with an identity. -/
def updItem (s : State) (i : Nat) (f : Item → Item) : State :=
  setItems s (s.dv.items.map fun it => if it.id == i then f it else it)

/-- Removes an item, which frees its slot; where it was the head of an exclusive flow, the new head becomes ready now. -/
def dropItem (s : State) (it : Item) : State :=
  let l := s.dv.items.filter fun x => x.id != it.id
  let head := (flowHead s it.flow).map fun h => h.id
  let s := setItems s l
  if (getFlow s it.flow).kind = 2 ∧ head = some it.id then
    match flowHead s it.flow with
    | some h => if h.place == .queued then updItem s h.id fun x => { x with readyNs := upNs s } else s
    | none => s
  else s

/-- Closes the deadline windows of an item (R29, R31). -/
def dropWins (s : State) (i : Nat) : State :=
  { s with parts := s.parts.map fun e =>
      (e.1, { e.2 with tick := { e.2.tick with wins := e.2.tick.wins.filter fun w => w.item != i } }) }

/-! ### Accepting an item (R209) -/

/-- The bank of a partition's Dovetail counters on a die; an agent of no partition has none, and counts outside the eight banks. -/
def dvBank (p die : Nat) : Nat := if p < 4 then 4 * die + p else 8 + die

/-- The first reason, in the order of R209, for which a flow refuses an item of a source in partition `p`; 0 where it accepts.
`sameSlot`: the item keeps its slot on this die, so the quota is not asked. -/
def refusal (s : State) (p f : Nat) (sameSlot : Bool) : Nat :=
  let x := getFlow s f
  if !ownsFlow s p f then 5
  else if !x.valid then 4
  else if !x.open_ then 3
  else if qcount s f ≥ x.qmax then 1
  else if !sameSlot && quotaUsed s p (flowDie f) ≥ dvQuota s p (flowDie f) then 2
  else 0

/-- Counts a refused enqueue (R209): in the flow where it exists, and in DV_ENQ_REJ. [log 53: DEDUCED] -/
def countRefusal (s : State) (p f : Nat) : State :=
  let s := if (getFlow s f).valid then updFlow s f fun x => { x with rejCnt := (x.rejCnt + 1) % 2 ^ 64 } else s
  bump s .dvEnqRej (dvBank p (flowDie f))

/-- What a source hands to a flow (R207). -/
structure NewItem where
  flow : Nat
  kind : Nat
  tomb : Bool := false
  prio : Option Nat := none
  tag : Word
  arg0 : Word
  arg1 : Word
  budget : Option Nat := none
deriving DecidableEq, Repr

/-- The slot of an item: bits 15:0 of its handle (R210). -/
def itemSlot (it : Item) : Nat := it.hdl.toNat % 65536

/-- The first slot at or cyclically after `v` that is not in use; any free slot is reached by some `v`. -/
def freeSlot (used : List Nat) (v : Nat) : Nat → Nat
  | 0 => v
  | n + 1 => if used.contains v then freeSlot used ((v + 1) % 65536) n else v

/-- The slot that a new item of a die takes: a free one, which of them the spec does not say (R209). [log 54: DESIGN CHOICE] -/
def takeSlot (s : State) (die : Nat) : Nat × State :=
  let used := (s.dv.items.filter fun it => flowDie it.flow == die).map itemSlot
  let (v, s) := takeFree s 16
  (freeSlot used v used.length, s)

/-- Uses a slot: its generation advances (R210). Answers the handle. [log 54: DESIGN CHOICE] -/
def useSlot (s : State) (die slot : Nat) : Word × State :=
  let k := 65536 * die + slot
  let g := tget s.dv.gens 0 k + 1
  (BitVec.ofNat 64 (slot + (Config.firstGen k + g) % 2 ^ 45 * 2 ^ 16 + die * 2 ^ 61), { s with dv := { s.dv with gens := tset s.dv.gens k g } })

/-- Adds an accepted item to its flow, in the slot it brings or in a free one, with a new handle, its sequence number and its arrival
stamp (R209, R210). [log 54: DESIGN CHOICE] -/
def addItem (s : State) (n : NewItem) (slot : Option Nat) (place : Place) : State × Item :=
  let x := getFlow s n.flow
  let (k, s) := match slot with
    | some k => (k, s)
    | none => takeSlot s (flowDie n.flow)
  let (h, s) := useSlot s (flowDie n.flow) k
  let it : Item :=
    { id := s.dv.nextId, hdl := h, flow := n.flow, kind := n.kind, tomb := n.tomb,
      level := n.prio.getD x.dprio, tag := n.tag, seq := if x.kind = 1 then x.seqNext else 0, arg0 := n.arg0, arg1 := n.arg1,
      arrNs := upNs s, readyNs := upNs s, getNs := 0, budget := n.budget, place := place }
  let s := { s with dv := { s.dv with items := s.dv.items ++ [it], nextId := s.dv.nextId + 1 } }
  let s := setFlow s n.flow { x with
    seqNext := if x.kind = 1 then (x.seqNext + 1) % 2 ^ 32 else x.seqNext
    enqCnt := (x.enqCnt + 1) % 2 ^ 64 }
  (s, it)

/-- Offers an item to a flow: the R209 reason (0 where accepted), the state, and the item. A refusal is counted. [log 54: DESIGN CHOICE] -/
def enqueue (s : State) (p : Nat) (n : NewItem) : Nat × State × Option Item :=
  let r := refusal s p n.flow false
  if r = 0 then
    let (s, it) := addItem s n none .queued
    (0, s, some it)
  else (r, countRefusal s p n.flow, none)

/-- Raises DV_LOSS_EVT to the partition's host only, as R33 has it for a refused item of the event flow itself. -/
def lossHost (s : State) (p f kind reason : Nat) : State :=
  postPart s p 0x0700 (f + kind * 2 ^ 18 + reason * 2 ^ 24) 0

/-- Enqueues an event into partition `p`'s event flow as a kind 9 item (R33); a refusal raises DV_LOSS_EVT to the host only.
While the MC restarts, the event is held (R395). -/
def toEventFlow (s : State) (p code w2 w3 : Nat) : State :=
  let b := getTick s p
  if s.flt.mcDown.isSome then
    { s with flt := { s.flt with heldFlow := s.flt.heldFlow ++ [{ part := p, code := code, w2 := w2, w3 := w3 }] } }
  else if b.evtEn && (getPart s p).st != .none then
    match enqueue s p
      { flow := b.evtFlow, kind := 9, tag := BitVec.ofNat 64 w3, arg0 := BitVec.ofNat 64 code, arg1 := BitVec.ofNat 64 w2 } with
    | (0, s', _) => s'
    | (r, s', _) => lossHost s' p b.evtFlow 9 r
  else s

/-- Raises DV_LOSS_EVT of a refused item to the owning host and into the partition's event flow (R33, R209). -/
def lossEvt (s : State) (p f kind reason : Nat) : State :=
  toEventFlow (lossHost s p f kind reason) p 0x0700 (f + kind * 2 ^ 18 + reason * 2 ^ 24) 0

/-- The item that an enqueue record describes (R207): KIND, TOMB and SEQ are ignored. -/
def recordItem (bs : List Byte) : NewItem :=
  let fp := ofLe ((bs.drop 8).take 4)
  { flow := fld fp 0 18, kind := 0, prio := if bit fp 31 then some (fld fp 18 4) else none
    tag := BitVec.ofNat 64 (ofLe (bs.take 8))
    arg0 := BitVec.ofNat 64 (ofLe ((bs.drop 16).take 8)), arg1 := BitVec.ofNat 64 (ofLe ((bs.drop 24).take 8)) }

/-- What an accepting answer writes to rd: bit 63 and the handle (R210, R212). [log 53: DEDUCED; log 54: DESIGN CHOICE] -/
def handleWord (h : Word) : Word := h ||| BitVec.ofNat 64 (2 ^ 63)

/-- Offers an item of an external source: a refusal raises DV_LOSS_EVT as well (R209). -/
def enqueueExt (s : State) (p : Nat) (n : NewItem) : Nat × State × Option Item :=
  match enqueue s p n with
  | (0, s', it) => (0, s', it)
  | (r, s', _) => (r, lossEvt s' p n.flow n.kind r, none)

/-! ### Leaving a flow (R213, R215) -/

/-- An item with TOMB set and its failure code in ARG0 bits 7:0 (R207, R208). -/
def toTomb (it : Item) (code : Nat) : Item :=
  { it with tomb := true, arg0 := BitVec.ofNat 64 (it.arg0.toNat / 256 * 256 + code % 256) }

/-- Counts an item that leaves its flow. -/
def countOut (s : State) (it : Item) : State :=
  let s := updFlow s it.flow fun x =>
    { x with outCnt := (x.outCnt + 1) % 2 ^ 64, tombCnt := if it.tomb then (x.tombCnt + 1) % 2 ^ 64 else x.tombCnt }
  if it.tomb then
    match flowOwner s it.flow with
    | some p => bump s .dvTomb (dvBank p (flowDie it.flow))
    | none => s
  else s

/-- Lets an item leave its flow (R215). To a successor on its own die it keeps its slot (R209). Answers whether it left; an item that its successor refuses with FULL or QUOTA is held back; a hold
counts once, however often it is tried. -/
def leave (s : State) (it : Item) : Bool × State :=
  let x := getFlow s it.flow
  if !x.nextEn || (it.tomb && !x.tfwd) then (true, countOut (dropItem s it) it)
  else
    match flowOwner s it.flow with
    | none => (true, countOut (dropItem s it) it)
    | some p =>
      let r := refusal s p x.next (flowDie x.next == flowDie it.flow)
      if r = 0 then
        let s := countOut (dropItem s it) it
        let (s, _) := addItem s { flow := x.next, kind := it.kind, tomb := it.tomb, tag := it.tag, arg0 := it.arg0, arg1 := it.arg1 }
          (if flowDie x.next = flowDie it.flow then some (itemSlot it) else none) .queued
        (true, s)
      else
        let s := countRefusal s p x.next
        if r = 1 ∨ r = 2 then
          let s := if it.place == .held then s else bump s .dvFwdStall (dvBank p (flowDie it.flow))
          (false, updItem s it.id fun _ => { it with place := .held })
        else
          let s := bump (countOut (dropItem s it) it) .dvFwdFail (dvBank p (flowDie it.flow))
          (true, lossEvt s p x.next it.kind r)

/-- While the place SEQ_OUT of an ordered flow is complete, that item leaves and SEQ_OUT increments (R215). -/
def drainOrdered (s : State) (f : Nat) : Nat → State
  | 0 => s
  | n + 1 =>
    let x := getFlow s f
    match (flowItems s f).find? fun it => it.seq == x.seqOut && (it.place == .complete || it.place == .held) with
    | none => s
    | some it =>
      match leave s it with
      | (true, s') => drainOrdered (updFlow s' f fun y => { y with seqOut := (y.seqOut + 1) % 2 ^ 32 }) f n
      | (false, s') => s'

/-- Lets every complete place at the head of an ordered flow leave. -/
def drainFlow (s : State) (f : Nat) : State := drainOrdered s f (qcount s f)

/-- Releases an item, as it now stands in `it` (R215): from a parallel or exclusive flow it leaves at once,
in an ordered flow its place is complete. -/
def releaseItem (s : State) (it : Item) : State :=
  let s := dropWins s it.id
  if (getFlow s it.flow).kind = 1 then
    drainFlow (updItem s it.id fun _ => { it with place := .complete }) it.flow
  else (leave (updItem s it.id fun _ => it) it).2

/-- Withdraws an item that is cancelled or dropped (R216, R30): in an ordered flow its place becomes a tombstone with the code,
otherwise it is withdrawn and its slot freed. -/
def withdraw (s : State) (it : Item) (code : Nat) : State :=
  if (getFlow s it.flow).kind = 1 then releaseItem s (toTomb it code)
  else dropItem (dropWins s it.id) it

/-- Tries again to pass on what a flow holds back (R215). [log 53: DEDUCED] -/
def retryHeld (s : State) (f : Nat) : State :=
  if (getFlow s f).kind = 1 then drainFlow s f
  else
    match (flowItems s f).find? fun it => it.place == .held with
    | none => s
    | some it => (leave s it).2

/-! ### Work-item aborts, and cores that fail (R127, R218) -/

/-- Aims a work-item abort with a TAG at a core: it reaches the core at WI_ABORT (R127). -/
def sendAbort (s : State) (c : Nat) (tag : Word) : State := updCore s c fun x => { x with abQ := x.abQ ++ [tag] }

/-- Returns an item to the ready set with its arrival stamp (R218). [log 55: DEDUCED] -/
def requeue (s : State) (it : Item) : State := updItem s it.id fun x => { x with place := .queued }

/-- Ends the busy time of a core that runs no item any more (R219). -/
def noteIdle (s : State) (c : Nat) : State :=
  let d := getDvCore s c
  match d.busySince with
  | some t => if (runningOn s c).isEmpty then setDvCore s c { d with curBusy := d.curBusy + (upNs s - t), busySince := none } else s
  | none => s

/-- One running item of a failed core (R218): back to the ready set with REPLAY = 1, otherwise a tombstone with code 0x82. -/
def failRunning (s : State) (it : Item) : State :=
  if (getFlow s it.flow).replay then updItem (requeue s it) it.id fun x => { x with readyNs := upNs s } else releaseItem s (toTomb it 0x82)

/-- The items of a core that fails or stops: the staged ones go back to the ready set, the running ones as R218 states. -/
def failCoreItems (s : State) (c : Nat) : State :=
  let s := (stagedOn s c).foldl requeue s
  noteIdle ((runningOn s c).foldl failRunning s) c

/-! ### Core sets and weights (R211, R214) -/

/-- The number of a core within its die, as core sets count it (R220). -/
def dieCore (c : Nat) : Nat := if c < 96 then c % 48 else 48 + (c - 96) % 8

/-- The GLOBAL number of core `j` of a die. -/
def globalCore (die j : Nat) : Nat := if j < 48 then 48 * die + j else 96 + 8 * die + (j - 48)

/-- DV_CSETs of a partition on a die. -/
def csetOf (s : State) (die p k : Nat) : Nat := tget s.dv.csets 0 (64 * die + 16 * p + k)

/-- The eligible weight of a set's cores: whole ones only for flows with WHOLE = 1 (R205, R214). -/
def csetElig (s : State) (die p k : Nat) (whole : Bool) : Nat :=
  let m := csetOf s die p k
  sumNat (((upFrom 0 56).filter fun j => bit m j).map fun j =>
    let w := (getCore s (globalCore die j)).weight
    if whole && w != 16 then 0 else w)

/-- DV_CSET_CAPs.WSUM: the sum of the weights of a set's cores. -/
def csetCap (s : State) (die p k : Nat) : Nat := csetElig s die p k false

/-- Does the flow take the core: in its core set, and of a weight that it takes (R211)? [log 55: DEDUCED] -/
def admits (s : State) (x : Flow) (f p c : Nat) : Bool :=
  let w := (getCore s c).weight
  coreDie c == flowDie f && bit (csetOf s (flowDie f) p x.cset) (dieCore c) && (w == 16 || (1 ≤ w && !x.whole))

/-- Is there a ready item in a flow of partition `p` on the die that names core set `k`, with or without WHOLE? -/
def csetWaits (s : State) (die p k : Nat) (whole : Bool) : Bool :=
  s.dv.items.any fun it => flowDie it.flow == die && ownsFlow s p it.flow && (getFlow s it.flow).cset == k &&
    (getFlow s it.flow).whole == whole && isReady s it

end Sys2Proof.Machine
end

