-- ==== Sys2Proof/Machine/Events.lean ====
section
/-!
DEFINITION. Raising events: to hosts, into partitions' event flows (R33, R320), and into the event log (R384 to R389, R430).
-/
namespace Sys2Proof.Machine

/-! ### The event log -/

/-- The severity of a logged event (R389, R430). `w2` and `w3` are its detail words. -/
def severity (code w2 w3 : Nat) : Nat :=
  match code with
  | 0x0B00 => if fld w2 12 4 ≤ 1 then 0 else 1
  | 0x0B01 => if fld w2 12 4 ≤ 1 then 0 else 1
  | 0x0B04 => if w3 = 2 then 2 else 1
  | 0x0B05 => if fld w2 8 3 = 1 then 0 else 1
  | 0x0B06 => 2
  | 0x0B07 => 2
  | 0x0B08 => 3
  | 0x0B0B => 1
  | 0x0A12 => 3
  | 0x0A13 => 3
  | 0x0A21 => 1
  | 0x0A22 => 1
  | _ => 0

/-- Queues a log record, and raises FLT_STAT.SEV and MOD_FAULT_N with it (R384, R385). -/
def logRec (s : State) (code sev : Nat) (mod : Bool) (part d0 d1 : Nat) (cont : List (List Byte)) : State :=
  let r : LogRec :=
    { index := 0, code := code, sev := sev, mod := mod, part := part, time := if s.su.timeUp then s.now else 0, tick := absTick s,
      hours := s.age.hours, d0 := d0, d1 := d1, cont := cont }
  { s with flt := { s.flt with
      queue := s.flt.queue ++ [r]
      sev := max s.flt.sev sev
      faultN := s.flt.faultN && sev < 2 } }

/-- Is an event of this code logged when it is raised (R385)? -/
def isLogged (code : Nat) : Bool := code / 256 == 0x0A || code / 256 == 0x0B || code == 0x0601

/-- Reports to the MC alone. -/
def alertMc (s : State) (a : McAlert) : State := { s with flt := { s.flt with alerts := s.flt.alerts ++ [a] } }

/-! ### Raising events -/

/-- Delivers an event of partition `p` to its host and its event flow. -/
def deliver (s : State) (p code w2 w3 : Nat) : State := toEventFlow (postPart s p code w2 w3) p code w2 w3

/-- Raises an event that concerns partition `p`. -/
def raisePart (s : State) (p code w2 w3 : Nat) : State :=
  let s := deliver s p code w2 w3
  if isLogged code then logRec s code (severity code w2 w3) false p w2 w3 [] else s

/-- Raises an event of a resource to its owner; with no owner, only the log hears of it. -/
def raiseOwner (s : State) (p : Option Nat) (code w2 w3 : Nat) : State :=
  match p with
  | some q => raisePart s q code w2 w3
  | none => if isLogged code then logRec s code (severity code w2 w3) false 0 w2 w3 [] else s

/-- Delivers a module-wide event to every host and every event flow (R33, R320). -/
def tellAll (s : State) (code w2 w3 : Nat) : State :=
  (upFrom 0 4).foldl (fun s h =>
    toEventFlow (postHost s h { code := code, part := 0, mod := true, time := s.now, w2 := w2, w3 := w3 }) h code w2 w3) s

/-- Raises a module-wide event. -/
def raiseMod (s : State) (code w2 w3 : Nat) : State :=
  let s := tellAll s code w2 w3
  if isLogged code then logRec s code (severity code w2 w3) true 0 w2 w3 [] else s

/-- JG_SHARE of a class, 1 to 5, of a partition on a die (R204). -/
def jgShare (s : State) (die p cls : Nat) : Nat := fld (tget s.jig.share 0 (4 * die + p)) (4 * (cls - 1)) 4

/-- Does partition `p` hold LPDDR6 on a die? A 256 MiB unit below 256 lies on CD0 (R260, R322). -/
def holdsLpddr (s : State) (p die : Nat) : Bool :=
  (upFrom 8 8).any fun i =>
    let w := descWord s p i
    bit w 63 && (if die = 0 then fld w 0 9 < 256 else 256 < fld w 0 9 + fld w 9 10)

/-- Does partition `p` hold a resource in domain `d` (R401)? The Nose engines of PD21 serve every fronthaul port. [log 78: DEDUCED] -/
def holdsDom (s : State) (p d : Nat) : Bool :=
  if d < 18 then
    let die := d / 9
    let i := d % 9
    if i < 6 then ownsCluster s p (12 * die + 2 * i) || ownsCluster s p (12 * die + 2 * i + 1)
    else if i = 6 then jgShare s die p 1 != 0
    else if i = 7 then (upFrom 2 4).any fun k => jgShare s die p k != 0
    else descWord s p (16 + die) != 0 || holdsLpddr s p die
  else if d = 18 then fld (descWord s p 2) 0 16 != 0
  else if d = 19 then fld (descWord s p 2) 16 16 != 0
  else if d = 20 ∨ d = 23 then fld (descWord s p 2) 32 4 != 0
  else if d = 21 ∨ d = 22 then fld (descWord s p 2) 0 32 != 0
  else false

/-- The single owner of a domain, or none where it is shared (R346). -/
def domOwner (s : State) (d : Nat) : Option Nat :=
  if isGroup d then coreOwner s (4 * (12 * (d / 9) + 2 * (d % 9)))
  else ownerBy fun p =>
    let w := descWord s p 2
    (d == 18 && fld w 0 16 == 0xFFFF) || (d == 19 && fld w 16 16 == 0xFFFF) || (d == 22 && fld w 0 32 == 0xFFFFFFFF) ||
      ((d == 20 || d == 23) && fld w 32 4 == 0xF)

/-- Raises an event of a power domain (R359, R401): a copy to the host of every partition that holds a resource in it, and one to the
manager's host. -/
def raiseDom (s : State) (d code w2 w3 : Nat) (sev : Nat) : State :=
  let s := (upFrom 0 4).foldl (fun s p =>
    if holdsDom s p d then deliver s p code w2 w3
    else if s.mc.manager = some p then
      postHost s p { code := code, part := 0, mod := false, time := s.now, w2 := w2, w3 := w3 }
    else s) s
  logRec s code sev false ((domOwner s d).getD 0) w2 w3 []

/-- Raises an event to every partition that holds memory on a die or owns the address (R389). -/
def raiseHolders (s : State) (f : Nat → Bool) (code w2 w3 : Nat) : State :=
  let s := (upFrom 0 4).foldl (fun s p => if f p then deliver s p code w2 w3 else s) s
  logRec s code (severity code w2 w3) false ((ownerBy f).getD 0) w2 w3 []

/-! ### Answers to register accesses -/

/-- A foreign write: no effect, the access is answered with STATUS 5 (R226). -/
def foreign (s : State) : State := answer s 5 0

/-- A write that was performed or that its unit refused under its own rules, with the unit's answer of STATUS 0. -/
def done (s : State) : State := answer s 0 0

end Sys2Proof.Machine
end

