-- ==== Sys2Proof/Machine/LaneOps.lean ====
section
/-!
DEFINITION. Operations over lanes, fronthaul ports and gain groups: access to each, a lane's status, its owner and its signal fail (R35 to R52, R72, R78).
-/
namespace Sys2Proof.Machine

def getLane (s : State) (n : Nat) : Lane := tget s.ln.lanes {} n
def setLane (s : State) (n : Nat) (x : Lane) : State := { s with ln := { s.ln with lanes := tset s.ln.lanes n x } }
def updLane (s : State) (n : Nat) (f : Lane → Lane) : State := setLane s n (f (getLane s n))

def getRx (s : State) (n : Nat) : LnRx := tget s.ln.rx {} n
def setRx (s : State) (n : Nat) (x : LnRx) : State := { s with ln := { s.ln with rx := tset s.ln.rx n x } }
def updRx (s : State) (n : Nat) (f : LnRx → LnRx) : State := setRx s n (f (getRx s n))

def getFh (s : State) (m : Nat) : FhPort := tget s.fh.ports {} m
def setFh (s : State) (m : Nat) (x : FhPort) : State := { s with fh := { s.fh with ports := tset s.fh.ports m x } }
def updFh (s : State) (m : Nat) (f : FhPort → FhPort) : State := setFh s m (f (getFh s m))

def getGrp (s : State) (g : Nat) : GcGrp := tget s.gc.grps {} g
def setGrp (s : State) (g : Nat) (x : GcGrp) : State := { s with gc := { s.gc with grps := tset s.gc.grps g x } }
def updGrp (s : State) (g : Nat) (f : GcGrp → GcGrp) : State := setGrp s g (f (getGrp s g))

def getCtx (s : State) (c : Nat) : NsCtx := tget s.gc.ctxs {} c
def setCtx (s : State) (c : Nat) (x : NsCtx) : State := { s with gc := { s.gc with ctxs := tset s.gc.ctxs c x } }

def getBp (s : State) (n : Nat) : BhPort := tget s.bh.ports {} n
def setBp (s : State) (n : Nat) (x : BhPort) : State := { s with bh := { s.bh with ports := tset s.bh.ports n x } }
def updBp (s : State) (n : Nat) (f : BhPort → BhPort) : State := setBp s n (f (getBp s n))

def getRing (s : State) (r : Nat) : FreeRing := tget s.bh.rings {} r
def setRing (s : State) (r : Nat) (x : FreeRing) : State := { s with bh := { s.bh with rings := tset s.bh.rings r x } }

/-! ### Lanes (R35, R36, R52) -/

/-- The partition that owns a lane's port (R35). -/
def laneOwner (s : State) (n : Nat) : Option Nat := if n < 64 then fhOwner s (n / 2) else bpOwner s ((n - 64) / 4)

/-- The optical engine of a lane (R35). [log 30: DEDUCED] -/
def laneEngine (n : Nat) : Nat :=
  if n < 64 then 2 * (n / 32) + n % 2 else 4 + (n - 64) / 4

/-- The power domains of a lane's SerDes and optics (R345). -/
def laneDoms (n : Nat) : List Nat := if n < 32 then [18, 22] else if n < 64 then [19, 22] else [20, 23]

/-- Are a lane's power domains awake? -/
def lanePowered (s : State) (n : Nat) : Bool := (laneDoms n).all fun d => (getDom s d).state == .awake

/-- The other lane of a fronthaul port. -/
def otherLane (n : Nat) : Nat := if n % 2 = 0 then n + 1 else n - 1

/-- LN_STAT.SIG (R52): the received light, except in deep sleep and in a change to or from it. -/
def laneSig (x : Lane) : Bool :=
  x.light && x.rxState != 2 && !(x.rxState == 3 && (x.rxFrom == 2 || x.rxGoal == 2))

/-- Does the receiver take the stream: awake, with light? -/
def laneLive (x : Lane) : Bool := x.rxState == 0 && x.light

/-- Is a transmitter out of sleep: awake, waking, or on its way to the end of its last gap (R48, R425)? -/
def txLit (x : Lane) : Bool := x.txState == 0 || (x.txState == 3 && (x.txEnding || x.txGoal == 0))

/-- Does a lane's transmitter emit light: not asleep, on an engine without a fault (R36, R425)? -/
def laneTxLight (s : State) (n : Nat) : Bool := txLit (getLane s n) && !bit s.ln.oeFault (laneEngine n)

/-- Must a direction of a lane stay in deep sleep: not calibrated (R335), in a domain that sleeps (R349), or the transmitter of a module that has
stopped (R400)? -/
def laneHeld (s : State) (n : Nat) (rx : Bool) : Bool :=
  bit s.su.laneBad (2 * n + b2n rx) || !lanePowered s n || (!rx && s.su.stopped)

/-- A direction of a lane starts from its Patina point (R48, R334, R375). -/
def startPoint (s : State) (k : Nat) : State := { s with age := { s.age with started := tset s.age.started k (tget s.age.points [] k) } }

/-- A direction of a lane is awake and has adapted, from its starting point where it wakes from deep sleep (R375). [log 81: DESIGN CHOICE] -/
def dirAwake (s : State) (k : Nat) (deep : Bool) : State :=
  let s := if deep then startPoint s k else s
  { s with age := { s.age with used := setBit s.age.used k true } }

/-- Does a lane send frames: awake, in traffic mode, with light (R36, R45, R48)? -/
def laneSends (s : State) (n : Nat) : Bool :=
  (getLane s n).txState == 0 && (getLane s n).txModeNow == 0 && laneTxLight s n

/-- Is a transmitter asleep, on its way to sleep, or changing its depth? -/
def txAsleep (x : Lane) : Bool := x.txState == 1 || x.txState == 2 || (x.txState == 3 && x.txGoal != 0)

/-- Does the port of a fronthaul lane have an active transmit stream (R47, R48)? [log 25: DEDUCED] -/
def txActive (s : State) (n : Nat) : Bool := n < 64 && (getFh s (n / 2)).en

/-- Is the other lane of the port asleep, waking or in PRBS mode (R48)? [log 25: DEDUCED] -/
def otherNotSending (s : State) (n : Nat) : Bool :=
  let o := getLane s (otherLane n)
  o.txState != 0 || o.txMode != 0

/-- Is the other lane of the port asleep or in PRBS mode (R47)? One that only wakes is neither. -/
def otherSilent (s : State) (n : Nat) : Bool :=
  let o := getLane s (otherLane n)
  txAsleep o || o.txMode != 0

/-- A refused write of LN_CTL. -/
def lnRej (s : State) (n : Nat) : State := updLane s n fun x => { x with rej := true }

/-- A refused sleep: REJ is set and LN_SLEEP_REJ counted (R48, R49). [log 30: DEDUCED] -/
def lnSleepRej (s : State) (n : Nat) : State := bump (lnRej s n) .lnSleepRej n

/-! ### The aligner's state (R72) -/

/-- The aligner of a lane that is DOWN. -/
def alignDown (r : LnRx) : LnRx :=
  { r with align := 0, mf := false, cands := [], gap := none, miss := 0, missed := false, inProg := false, began := false
           runLen := 0, mism := 0, badRun := 0, aisRun := 0, prevBip := none }

/-- A lane goes DOWN without signal or FEC lock or with its receiver asleep, and from DOWN to SEARCH when it has all three (R72). -/
def alignUpdate (s : State) (n : Nat) : State :=
  if n < 64 then
    let x := getLane s n
    let r := getRx s n
    if !laneLive x || !x.fecLock then setRx s n (alignDown r)
    else if r.align = 0 then setRx s n { r with align := 1, cands := [] }
    else s
  else s

/-- A receiver without light, or out of the awake state, loses FEC lock and PRBS lock at once: R39 and R46 state loss by counting only,
and a receiver that takes no codeword and no symbol counts none. [log 100: DESIGN CHOICE] -/
def rxStop (s : State) (n : Nat) : State :=
  alignUpdate (updLane s n fun x => { x with
    fecLock := false, fecRun := 0, amRun := 0, prbsLock := false, prbsGood := 0, prbsWin := [] }) n

/-- A backhaul port's link is up while its four lanes are locked and its receivers and transmitters awake and lit (R44, R51, R304). [log 28: PRESUMED] -/
def linkUpdate (s : State) (n : Nat) : State :=
  if n < 64 then s
  else
    let b := (n - 64) / 4
    let up := (upFrom (64 + 4 * b) 4).all fun k =>
      let l := getLane s k
      l.fecLock && laneLive l && l.txState == 0 && laneTxLight s k
    updBp s b fun x => { x with link := up }

/-! ### Signal fail (R78) -/

/-- Is a lane's integrated defect `i` of FH_LN_STAT.DEF set: 0 LOS, 1 LOF, 2 LOM, 3 AIS, 4 RDI, 5 SD, 6 SF? -/
def hasDef (s : State) (n i : Nat) : Bool := bit (getRx s n).defs i

/-- Was lane `l` of port `m` (0 W, 1 P) in signal fail at the latest decision, or is its SF defect set (R78)?
A receiver that is asleep or waking is in signal fail (R49). -/
def laneFail (s : State) (m l : Nat) : Bool :=
  let n := 2 * m + l
  hasDef s n 6 || (getLane s n).rxState != 0 || (if l = 0 then (getFh s m).failW else (getFh s m).failP)

end Sys2Proof.Machine
end

