-- ==== Sys2Proof/Machine/MemOps.lean ====
section
/-!
DEFINITION. Access to memory: gates and owners (R226, R234), LPDDR6 pages, the page code and the staging cache (R260 to R266),
SECDED on SRAM (R275), and the repeat trackers (R277 to R279).
-/
namespace Sys2Proof.Machine

/-! ### Gates (R234, R356) -/

/-- The STATUS that a domain's gate answers: 0 open, 3 closed, 4 for a FAILED domain. Start-up opens the gates at the end of stage 6 (R336). -/
def gateStatus (s : State) (d : Option Nat) : Nat :=
  match d with
  | none => 0
  | some d =>
    if s.su.stage ≤ 6 then 3
    else match (getDom s d).state with
      | .awake => 0
      | .failed => 4
      | _ => 3

/-- The STATUS with which an access of partition `who` to `a` is refused before it touches its target; 0 where it reaches it.
An address without a target is answered at the injecting port, and one on a lost die by the IOD (R399); then the owner is checked, then the gate. -/
def reachStatus (s : State) (who : Option Nat) (a : Nat) : Nat :=
  match targetOf a with
  | .nothing => 4
  | .regs => 4
  | t =>
    if (destOf a).any fun q => dieOut s (portDie q) then 4
    else if !memAllowed s who a then 5
    else
      let g := gateStatus s (targetDom t)
      if g != 0 then g
      else match t with
        | .tile c => if (getCore s c).run = .testing then 4 else 0
        | .lpddr ch _ => if (getCh s ch).state = 4 ∨ (getCh s ch).state = 0 then 4 else 0
        | _ => 0

/-! ### Repeat trackers (R277) -/

/-- Frees the entries whose first lap is more than 7 laps old. -/
def trkAge (l : List Trk) (lap : Nat) : List Trk := l.filter fun e => (lap + 256 - e.lap % 256) % 256 ≤ 7

/-- Notes a correction: the new entries, whether the location is now classed as a hard fault, and whether an entry was replaced. -/
def trkNote (l : List Trk) (loc lap : Nat) : List Trk × Bool × Bool :=
  let l := trkAge l lap
  match l.find? fun e => e.loc == loc with
  | some e =>
    if e.count ≥ 2 then (l.filter fun x => x.loc != loc, true, false)
    else (l.map fun x => if x.loc == loc then { x with count := x.count + 1 } else x, false, false)
  | none =>
    let e : Trk := { loc := loc, count := 1, lap := lap % 256 }
    if l.length < 64 then (l ++ [e], false, false)
    else
      let age := fun (x : Trk) => (lap + 256 - x.lap) % 256
      let old := l.foldl (fun b x => if age x > age b then x else b) (l.headD e)
      (l.filter (fun x => x != old) ++ [e], false, true)

/-! ### Panic (R270) -/

/-- Is panic in force (R270)? [log 60: DEDUCED] -/
def panicOn (s : State) : Bool := s.mem.panicFh != 0 || s.mem.panicNs != 0 || s.mem.panicBp != 0

/-- The threshold pair of a fronthaul port, and that of a Nose engine or backhaul port (R282). -/
def pncFh (s : State) (m : Nat) : Pnc := tget s.mem.pncFh { on := 0x100, off := 0x400 } m
def pncNs (s : State) (e : Nat) : Pnc := tget s.mem.pncNs { on := 0x30, off := 0x20 } e
def pncBp (s : State) (n : Nat) : Pnc := tget s.mem.pncBp { on := 0x30, off := 0x20 } n

/-! ### LPDDR6 pages -/

/-- MEM_DLY written from flash: the factory delays with the moves of the latest re-plan (R273, R375). -/
def loadDly (ch : Nat) (x : MemCh) : MemCh :=
  { x with dlyDue := false, dly := (List.zip (upFrom 0 x.dlyFlash.length) x.dlyFlash).map fun e => ((Config.memDly ch e.1 : Int) + e.2).toNat }

/-- The counters of a controller (R282). -/
def memCtrs : List Counter :=
  [.memCorr, .memUnc, .memRdUnwr, .memTagErr, .memRmwRef, .memCaAlert, .memCaReplay, .memRdp, .memStgHit, .memStgMiss, .memTrkOvf, .memRetire,
    .memCfgRej]

/-- MEM_STAT.STATE (R272, R282): 3 while the controller replays. [log 95: DEDUCED] -/
def chState (s : State) (ch : Nat) : Nat :=
  let x := getCh s ch
  if x.state = 1 ∧ upNs s < x.replayEnd then 3 else x.state

/-- The address of a page (R260). -/
def pageAddr (ch page : Nat) : Nat := (ch / 8) * 2 ^ 36 + (page / 2) * 2 ^ 15 + (ch % 8) * 2 ^ 12 + (page % 2) * 2 ^ 11

/-- Where a page's condition is kept. -/
def pageKey (ch page : Nat) : Nat := ch * 2 ^ 22 + page

def getPage (s : State) (ch page : Nat) : PageMeta := tget s.mem.pages {} (pageKey ch page)
def setPage (s : State) (ch page : Nat) (m : PageMeta) : State :=
  { s with mem := { s.mem with pages := tset s.mem.pages (pageKey ch page) m } }

def getRgn (s : State) (i : Nat) : Rgn := tget s.mem.rgn {} i

/-- The T code in force at an address: that of the lowest-numbered valid region that holds it, else MEM_RGN_DEF.T (R263). -/
def tCodeAt (s : State) (a : Nat) : Nat :=
  let mib := a / 0x100000
  match (upFrom 0 8).find? fun i => (getRgn s i).valid && (getRgn s i).base ≤ mib && mib ≤ (getRgn s i).limit with
  | some i => (getRgn s i).t
  | none => s.mem.rgnDefT

/-- What reading a page frame finds (R264). -/
inductive PageRead where
  | clean
  | corrected
  | unwritten
  | uncorrectable (tag : Bool)
deriving DecidableEq, Repr

/-- Is a frame bit part of MARK (R262)? -/
def inMark (i : Nat) : Bool := 16832 ≤ i && i < 16864

/-- Is a frame bit part of TAG (R262)? [log 59: DEDUCED] -/
def inTag (i : Nat) : Bool := 16864 ≤ i && i < 16896

/-- Is a frame bit part of the code word of strength code `t`: data, parity or TAG (R262)? -/
def inCode (t i : Nat) : Bool := i < 16384 + 15 * (4 * t) || inTag i

/-- Reads a frame encoded under `m.t` with the T code `t` now in force (R264). A page of another T is uncorrectable;
whether its decoding also yields a wrong TAG is `tagToo`. [log 59: DEDUCED] -/
def readFrame (m : PageMeta) (t : Nat) (tagToo : Bool) : PageRead :=
  if !m.written || (m.flips.filter inMark).length > 6 then .unwritten
  else if t = 0 then
    if m.t != 0 || m.flips.any inTag then .uncorrectable true else .clean
  else if m.t != t then .uncorrectable tagToo
  else
    let n := (m.flips.filter (inCode t)).length
    if n = 0 then .clean else if n ≤ 4 * t then .corrected else .uncorrectable false

/-- Notes the address of the latest uncorrectable page. -/
def noteUnc (s : State) (ch a : Nat) : State := updCh s ch fun x => { x with lastUnc := a, lastUncV := true }

/-- Encodes a page into its frame (R262): written, under the T code in force, without errors. -/
def encodePage (s : State) (ch page : Nat) : State :=
  setPage s ch page { written := true, t := tCodeAt s (pageAddr ch page), flips := [] }

/-- Data bits flipped under T off reach the reader: they are flipped in memory (R264: with t off nothing is decoded). -/
def flipByte (m : List Host.Cell) (a : Nat) (i : Nat) : List Host.Cell :=
  cellSet m (a + i / 8) (cellGet m (a + i / 8) ^^^ BitVec.ofNat 8 (2 ^ (i % 8)))

/-- Under T off the flipped data bits of a frame show in its bytes, once no staged copy stands before it. -/
def showFlips (s : State) (ch page : Nat) : State :=
  let m := getPage s ch page
  if m.t = 0 then
    let s := setPage s ch page { m with flips := m.flips.filter fun i => 16384 ≤ i }
    { s with mem := { s.mem with bytes := (m.flips.filter fun i => i < 16384).foldl (fun b i => flipByte b (pageAddr ch page) i) s.mem.bytes } }
  else s

/-- Takes a page out of the staging cache; a dirty page is encoded and written to its frame first (R266). -/
def unstage (s : State) (ch : Nat) (e : Staged) : State :=
  let s := if e.dirty then encodePage s ch e.page else showFlips s ch e.page
  updCh s ch fun x => { x with staged := x.staged.filter fun y => y.page != e.page }

/-- The page the staging cache evicts: the least recently used clean one, else the least recently used (R266). -/
def evictee (l : List Staged) : Option Staged :=
  match l.reverse.find? fun e => !e.dirty with
  | some e => some e
  | none => l.reverse.head?

/-- Puts a page at the front of the staging cache, which keeps at most 64 (R266). -/
def stage (s : State) (ch page : Nat) (dirty : Bool) : State :=
  let l := (getCh s ch).staged
  let old := l.find? fun e => e.page == page && e.dirty
  let l' := l.filter fun e => e.page != page
  let s := if l'.length < 64 then updCh s ch fun x => { x with staged := l' }
    else match evictee l' with
      | some e => unstage (updCh s ch fun x => { x with staged := l' }) ch e
      | none => s
  updCh s ch fun x => { x with staged := (match old with
    | some e => e
    | none => { page := page, dirty := dirty, since := if dirty then upNs s else 0 }) :: x.staged }

/-- The lowest free spare frame: neither BAD nor holding a page (R279). -/
def freeSpare (x : MemCh) : Option Nat :=
  (upFrom 0 4096).find? fun j => !(thas x.remap j) && !(x.spareBad.contains j)

/-- Retires a page (R279): a spare frame takes it, corrected and encoded under the T in force; a spare frame that held it becomes BAD. -/
def retirePage (s : State) (ch page : Nat) : State :=
  let x := getCh s ch
  match freeSpare x with
  | none => alertMc (setCh s ch { x with spareOut := true }) (.memSpareOut ch)
  | some j =>
    let old := (x.remap.find? fun e => e.2 == page).map fun e => e.1
    let x := match old with
      | some o => { x with spareBad := x.spareBad ++ [o], remap := tdel x.remap o }
      | none => x
    let s := setCh s ch { x with
      remap := tset x.remap j page, remapUnsaved := true, staged := x.staged.filter fun e => e.page != page }
    let s := bump (encodePage s ch page) .memRetire ch
    alertMc s (.memRetire ch page)

/-- Notes a corrected page in the repeat tracker; a third correction retires the page (R277, R279). -/
def notePage (s : State) (ch page : Nat) : State :=
  let x := getCh s ch
  let (l, hard, ovf) := trkNote x.trk page x.lapNo
  let s := setCh s ch { x with trk := l }
  let s := if ovf then bump s .memTrkOvf ch else s
  if hard then retirePage s ch page else s

/-- An uncorrectable page is counted, recorded and reported to the address's owner (R264, R389). [log 20: PRESUMED] -/
def pageUnc (s : State) (ch page : Nat) (tag : Bool) : State :=
  let a := pageAddr ch page
  let s := bump s .memUnc ch
  let s := if tag then bump s .memTagErr ch else s
  raiseHolders (noteUnc s ch a) (fun p => ownsMem s p a) 0x0B03 a ch

/-- Brings a page within reach of a request: a staging hit, or a read of its frame (R264, R266). Answers STATUS 0 or 2.
`alloc`: the request covers part of the page, so the page is staged. [log 20: PRESUMED] -/
def fetchPage (s : State) (ch page : Nat) (alloc : Bool) : Nat × State :=
  let x := getCh s ch
  match x.staged.find? fun e => e.page == page with
  | some e => (0, stage (bump s .memStgHit ch) ch page e.dirty)
  | none =>
    let s := bump s .memStgMiss ch
    let (v, s) := takeFree s 1
    match readFrame (getPage s ch page) (tCodeAt s (pageAddr ch page)) (v == 1) with
    | .clean => (0, if alloc then stage s ch page false else s)
    | .corrected =>
      (0, notePage (stage (bump s .memCorr ch) ch page true) ch page)
    | .unwritten => (2, bump s .memRdUnwr ch)
    | .uncorrectable tag => (2, pageUnc s ch page tag)

/-- The frame bits that MEM_INJ flips in a whole-page write (R281). -/
def injBits (x : MemCh) : List Nat := if x.injArm then upFrom x.injPos x.injCnt else []

/-- Frame bits that were upset in a frame: the flips of R264. With T off the data bits themselves are wrong, but for a staged page's reader. -/
def upsetPage (s : State) (ch page : Nat) (bits : List Nat) (staged : Bool) : State :=
  let m := getPage s ch page
  let s := setPage s ch page { m with flips := (bits.filter fun i => i < 16896).foldl (fun l i => if l.contains i then l.erase i else l ++ [i]) m.flips }
  if staged then s else showFlips s ch page

/-- A whole-page write (R265): the page is encoded and valid from then on; a staged copy becomes clean. An armed injection applies, and the staged copy
goes, so that the next read sees the frame (R281). -/
def writeWholePage (s : State) (ch page : Nat) (bs : List Byte) : State :=
  let x := getCh s ch
  let s := writeBytes s (pageAddr ch page) bs
  let s := encodePage s ch page
  let s := upsetPage s ch page (injBits x) false
  setCh s ch { x with
    injArm := false
    staged :=
      let l := x.staged.filter fun e => e.page != page
      if !x.injArm && x.staged.any (fun e => e.page == page) then { page := page, dirty := false } :: l else l }

/-- A partial write of one page (R265): refused with STATUS 2 where the page reads as unwritten or uncorrectable. -/
def writePartPage (s : State) (ch page a : Nat) (bs : List Byte) : Nat × State :=
  match fetchPage s ch page true with
  | (0, s') => (0, stage (writeBytes s' a bs) ch page true)
  | (st, s') => (st, bump s' .memRmwRef ch)

/-! ### SRAM words (R275) -/

/-- The SRAM scrubber that covers a target. [log 59: DEDUCED] -/
def srOf (t : Target) : Nat :=
  match t with
  | .tile c => coreCluster c
  | .cluster cl => cl
  | .store d _ => 24 + d
  | _ => 26

/-- Words of SRAM are named by address / 8, and those outside the address space by `2^45 + 2^24 * scrubber + index`. A scrubber's words in order of
their index (R276, R282): a cluster's tile memories, cluster memory and Rasp k registers; a die's die store, flow store and Bench caches;
the IOD's buffers and tables. [log 59: DEDUCED] -/
def srWordAt (i pos : Nat) : Nat :=
  if i < 24 ∧ pos < 262144 then tileBase (4 * i + pos / 65536) / 8 + pos % 65536
  else if i < 24 ∧ pos < 786432 then clusterBase i / 8 + (pos - 262144)
  else if (i = 24 ∨ i = 25) ∧ pos < 8388608 then storeBase (i - 24) / 8 + pos
  else 2 ^ 45 + i * 2 ^ 24 + pos

/-- The number of words of a scrubber's memories: 512 words of k registers, 8 MiB of flow store, and eight Bench cores' caches of 1,152 KiB. [log 59: DEDUCED] -/
def srTotal (i : Nat) : Nat := if i < 24 then 786944 else if i < 26 then 10616832 else Config.iodWords

/-- The scrubber that covers a word. [log 59: DEDUCED] -/
def srOfWord (w : Nat) : Nat := if w < 2 ^ 45 then srOf (targetOf (8 * w)) else (w - 2 ^ 45) / 2 ^ 24

/-- LOC of a word: its index in its scrubber's memories (R282). -/
def srIndex (w : Nat) : Nat :=
  if 2 ^ 45 ≤ w then (w - 2 ^ 45) % 2 ^ 24
  else match targetOf (8 * w) with
    | .tile c => c % 4 * 65536 + (w - tileBase c / 8)
    | .cluster cl => 262144 + (w - clusterBase cl / 8)
    | .store d _ => w - storeBase d / 8
    | _ => 0

/-- The SRAM bank macrocell of a word: the retained bank that holds it (R357: 128 KiB of tile memory, 256 KiB of cluster memory, a die-store bank);
elsewhere 128 KiB are taken as one. [log 59: DEDUCED] -/
def macroOf (w : Nat) : Nat :=
  if 2 ^ 45 ≤ w then 400 + srIndex w / 16384
  else match targetOf (8 * w) with
    | .tile c => 100 + 4 * (c % 4) + fld (8 * w) 17 2
    | .cluster _ => 200 + fld (8 * w) 18 4
    | .store _ p => 300 + p
    | _ => 0

/-- A hard-faulted SRAM word's row goes to a spare row of its bank macrocell, if one of the two is free (R278). -/
def repairRow (s : State) (i w : Nat) : State :=
  let x := getSr s i
  let m := macroOf w
  let n := tget x.spares 0 m
  if n < 2 then alertMc (bump (setSr s i { x with spares := tset x.spares m (n + 1) }) .srRepair i) (.srRepair i m)
  else alertMc (bump s .srSpareOut i) (.srSpareOut i m)

/-- A corrected word is counted, written back, and noted in the tracker (R275, R277). [log 20: PRESUMED] -/
def correctWord (s : State) (w : Nat) : State :=
  let i := srOfWord w
  let s := { s with mem := { s.mem with sramErr := tdel s.mem.sramErr w } }
  let s := bump s .srCorr i
  let x := getSr s i
  let (l, hard, ovf) := trkNote x.trk (srIndex w) x.lapNo
  let s := setSr s i { x with trk := l }
  let s := if ovf then bump s .srTrkOvf i else s
  if hard then repairRow s i w else s

/-- Whose is an SRAM word, for the report of R389: the owner of its memory or cluster, or every partition with resources in the die's stores. [log 59: DEDUCED] -/
def wordHolder (s : State) (w p : Nat) : Bool :=
  if w < 2 ^ 45 then
    match targetOf (8 * w) with
    | .store d _ => descWord s p (16 + d) != 0
    | _ => ownsMem s p (8 * w)
  else if srOfWord w < 24 then ownsCluster s p (srOfWord w)
  else if srOfWord w < 26 then (flowRange s p (srOfWord w - 24)).2 != 0
  else false

/-- An uncorrectable word is counted, recorded and reported (R275, R389); `by_` names the reporting scrubber, 0xFF a demand read. A word outside the
address space has no address to record: a free value. [log 20: PRESUMED; log 59: DEDUCED] -/
def wordUnc (s : State) (w by_ : Nat) : State :=
  let i := srOfWord w
  let (v, s) := takeFree s 48
  let a := if w < 2 ^ 45 then 8 * w else v
  let s := bump s .srUnc i
  let s := setSr s i { getSr s i with lastUnc := a, lastUncV := true }
  raiseHolders s (wordHolder s w) 0x0B02 a by_

/-- The error count of an SRAM word. -/
def wordErr (s : State) (w : Nat) : Nat := tget s.mem.sramErr 0 w

/-- Reads the words of an SRAM access: single errors are corrected, a double error answers STATUS 1. [log 59: DEDUCED] -/
def readWords (s : State) : List Nat → Nat × State
  | [] => (0, s)
  | w :: r =>
    if wordErr s w = 0 then readWords s r
    else if wordErr s w = 1 then readWords (correctWord s w) r
    else (1, wordUnc s w 0xFF)

/-- The words that an access of `n` bytes at `a` covers. -/
def wordsOf (a n : Nat) : List Nat := if n = 0 then [] else upFrom (a / 8) ((a + n - 1) / 8 - a / 8 + 1)

/-- The words that it covers only in part: a write to one of them reads it first (R275). -/
def partWords (a n : Nat) : List Nat :=
  (wordsOf a n).filter fun w => !(a ≤ 8 * w && 8 * w + 8 ≤ a + n)

/-- A write to SRAM (R275): whole words are replaced with their check bits, a word written in part is read, corrected and merged. -/
def writeSram (s : State) (a : Nat) (bs : List Byte) : Nat × State :=
  match readWords s (partWords a bs.length) with
  | (0, s') =>
    let ws := wordsOf a bs.length
    let s' := { s' with mem := { s'.mem with sramErr := s'.mem.sramErr.filter fun e => !(ws.contains e.1) } }
    (0, writeBytes s' a bs)
  | (st, s') => (st, s')

/-! ### Accesses -/

/-- An access of `n` bytes at `a` cut at page boundaries of 2 KiB: (address, length) pieces. -/
def pieces (a n : Nat) : Nat → List (Nat × Nat)
  | 0 => []
  | f + 1 => if n = 0 then [] else
    let k := min n (2048 - a % 2048)
    (a, k) :: pieces (a + k) (n - k) f

/-- An access that the closed gate of a port refuses is counted there (R234). -/
def noteGate (s : State) (q st : Nat) : State := if st = 3 then bump s .nocGateRefuse q else s

/-- An access that a closed gate refuses is counted at its port (R234). [log 56: DEDUCED] -/
def noteRefused (s : State) (a st : Nat) : State :=
  match destOf a with
  | some q => noteGate s q st
  | none => s

/-- One piece of a read: STATUS and bytes. -/
def readPiece (s : State) (who : Option Nat) (a n : Nat) : Nat × List Byte × State :=
  let st := reachStatus s who a
  if st != 0 then (st, [], noteRefused s a st)
  else match targetOf a with
    | .lpddr ch page =>
      match fetchPage s ch page (n != 2048) with
      | (0, s') => (0, readBytes s' a n, s')
      | (e, s') => (e, [], s')
    | _ =>
      match readWords s (wordsOf a n) with
      | (0, s') => (0, readBytes s' a n, s')
      | (e, s') => (e, [], s')

/-- One piece of a write: its STATUS. -/
def writePiece (s : State) (who : Option Nat) (a : Nat) (bs : List Byte) : Nat × State :=
  let st := reachStatus s who a
  if st != 0 then (st, noteRefused s a st)
  else match targetOf a with
    | .lpddr ch page =>
      if bs.length = 2048 then (0, writeWholePage s ch page bs) else writePartPage s ch page a bs
    | _ => writeSram s a bs

/-- Reads pieces until one fails: STATUS, the bytes read before it, the state. -/
def readPieces (s : State) (who : Option Nat) : List (Nat × Nat) → Nat × List Byte × State
  | [] => (0, [], s)
  | (a, n) :: r =>
    match readPiece s who a n with
    | (0, bs, s') =>
      match readPieces s' who r with
      | (st, bs', s'') => (st, bs ++ bs', s'')
    | (st, _, s') => (st, [], s')

/-- Writes pieces until one fails: STATUS, the bytes completed, the state. -/
def writePieces (s : State) (who : Option Nat) (bs : List Byte) : List (Nat × Nat) → Nat × Nat × State
  | [] => (0, 0, s)
  | (a, n) :: r =>
    match writePiece s who a (bs.take n) with
    | (0, s') =>
      match writePieces s' who (bs.drop n) r with
      | (st, k, s'') => (st, n + k, s'')
    | (st, s') => (st, 0, s')

/-- Reads `n` bytes at `a` for an agent of partition `who` (none: the MC). -/
def memRead (s : State) (who : Option Nat) (a n : Nat) : Nat × List Byte × State := readPieces s who (pieces a n (n + 1))

/-- Writes bytes at `a` for an agent of partition `who`: STATUS, bytes completed, state. -/
def memWrite (s : State) (who : Option Nat) (a : Nat) (bs : List Byte) : Nat × Nat × State :=
  writePieces s who bs (pieces a bs.length (bs.length + 1))

/-- The value an atomic operation leaves in memory (R117): `op` is funct bits 3:0, on `w` bits; `cmp` is what CAS compares. -/
def atomicOp (op w old opnd cmp : Nat) : Nat :=
  match op with
  | 0 => opnd
  | 1 => (old + opnd) % 2 ^ w
  | 2 => old &&& opnd
  | 3 => old ||| opnd
  | 4 => old ^^^ opnd
  | 5 => if sx old w ≤ sx opnd w then old else opnd
  | 6 => if sx old w ≤ sx opnd w then opnd else old
  | 7 => min old opnd
  | 8 => max old opnd
  | _ => if old = cmp then opnd else old

/-- An atomic operation on `n` bytes at its target: STATUS, old value, state (R117). It is one access: the page or word is looked up once (R265, R266). -/
def memAtomic (s : State) (who : Option Nat) (a n op opnd cmp : Nat) : Nat × Nat × State :=
  let st := reachStatus s who a
  let m := 2 ^ (8 * n)
  let new := fun (s : State) => leBytes (atomicOp op (8 * n) (ofLe (readBytes s a n)) (opnd % m) (cmp % m)) n
  if st != 0 then (st, 0, noteRefused s a st)
  else match targetOf a with
    | .lpddr ch page =>
      match fetchPage s ch page true with
      | (0, s') => (0, ofLe (readBytes s' a n), stage (writeBytes s' a (new s')) ch page true)
      | (e, s') => (e, 0, bump s' .memRmwRef ch)
    | _ =>
      match readWords s (wordsOf a n) with
      | (0, s') => (0, ofLe (readBytes s' a n), writeBytes s' a (new s'))
      | (e, s') => (e, 0, s')

end Sys2Proof.Machine
end

