-- ==== Sys2Proof/Machine/BhOps.lean ====
section
/-!
DEFINITION. Ethernet frames, free rings (R285, R286) and the transparent clock (R298, R299).
-/
namespace Sys2Proof.Machine

/-! ### Ethernet -/

/-- The number whose big-endian bytes are `bs`. -/
def ofBe (bs : List Byte) : Nat := ofLe bs.reverse

/-- The bytes of `n`, high byte first, `k` of them. -/
def beBytes (n k : Nat) : List Byte := (leBytes n k).reverse

/-- The frame check sequence of IEEE 802.3, as four bytes in the order sent. [log 17: PRESUMED] -/
def fcsOf (bs : List Byte) : List Byte := leBytes (crc32 bs) 4

/-- Is a TPID one of those that are parsed (R283)? -/
def isTpid (t : Nat) : Bool := t == 0x8100 || t == 0x88A8

/-- A frame's EtherType after any tags, its outer tag, and where its payload begins (R283, R284). [log 17: PRESUMED] -/
def etherParse (bs : List Byte) : Nat × Option Nat × Nat :=
  let at_ := fun (o : Nat) => ofBe ((bs.drop o).take 2)
  if isTpid (at_ 12) then
    if isTpid (at_ 16) then (at_ 20, some (at_ 14), 22) else (at_ 16, some (at_ 14), 18)
  else (at_ 12, none, 14)

/-! ### Free rings (R285, R286) -/

/-- The partition that a free ring serves. -/
def ringOwner (s : State) (r : Nat) : Option Nat := if r < 4 then bpOwner s r else some (r - 4)

/-- Bytes of a ring's buffers. -/
def ringBytes (r : Nat) (x : FreeRing) : Nat := if x.bsize && r < 4 then 16384 else 2048

/-- Counts a loss on a port ring; the rings of the packet channels have no counters of their own. -/
def ringCount (s : State) (r : Nat) (c : Counter) : State := if r < 4 then bump s c r else s

/-- An empty ring discards the frame; BH_NOBUF_EVT is raised at most once per ms per ring. [log 61: DESIGN CHOICE] -/
def ringEmpty (s : State) (r p : Nat) : State :=
  let s := ringCount s r .bhRxNobuf
  let x := getRing s r
  match x.evtAt with
  | some t => if upNs s < t + 1000000 then s else raisePart (setRing s r { x with evtAt := some (upNs s) }) p 0x0800 r 0
  | none => raisePart (setRing s r { x with evtAt := some (upNs s) }) p 0x0800 r 0

/-- Takes a buffer of a ring: a kept one first, then the entry at CI; `none` where the ring is empty or out of use. [log 61: DESIGN CHOICE] -/
def takeBuffer (s : State) (r p : Nat) : Option Nat × State :=
  let x := getRing s r
  match x.kept with
  | some a => (some a, setRing s r { x with kept := none })
  | none =>
    if !x.en || x.pi == x.ci then (none, s)
    else
      match memRead s (some p) (x.addr + 8 * x.ci) 8 with
      | (0, bs, s') => (some (fld (ofLe bs) 0 48), setRing s' r { x with ci := (x.ci + 1) % 2 ^ x.rsz })
      | (_, _, s') => (none, s')

/-- Delivers a frame of ring `r` to partition `p` (R286): one buffer is taken and written, then the item is raised; the buffer is kept
where the frame is too long for it or the flow refuses the item. [log 62: DEDUCED] -/
def deliverFrame (s : State) (r p : Nat) (bs : List Byte) (item : Nat → NewItem) : State :=
  match takeBuffer s r p with
  | (none, s') => ringEmpty s' r p
  | (some a, s') =>
    if ringBytes r (getRing s' r) < bs.length then
      ringCount (setRing s' r { getRing s' r with kept := some a }) r .bhRxOvsz
    else
      match memWrite s' (some p) a bs with
      | (_, _, s'') =>
        match enqueueExt s'' p (item a) with
        | (0, s3, _) => s3
        | (_, s3, _) => setRing s3 r { getRing s3 r with kept := some a }

/-! ### Time (R292, R295, R296) -/

/-- The full time of a stamp of the counter (R295), with the current time as the reference pair. -/
def extendNs (s : State) (c : Nat) : Nat := ((s.now : Int) + int32 c (nsCounter s)).toNat

/-! ### PTP messages (R298, R299) -/

/-- The PTP header of a message: its payload after the EtherType. [log 17: PRESUMED] -/
def ptpHead (bs : List Byte) : List Byte := bs.drop (etherParse bs).2.2

/-- messageType of IEEE 1588-2019: 0 Sync, 1 Delay_Req, 2, 3 and 10 peer delay, 8 Follow_Up. [log 17: PRESUMED] -/
def ptpType (bs : List Byte) : Nat := fld (ofLe ((ptpHead bs).take 1)) 0 4

/-- Does a message go to one of the two addresses of the profile (R298)? -/
def ptpAddress (bs : List Byte) : Bool := ofBe (bs.take 6) == 0x011B19000000 || ofBe (bs.take 6) == 0x0180C200000E

/-- domainNumber. [log 17: PRESUMED; log 63: DESIGN CHOICE] -/
def ptpDomain (bs : List Byte) : Nat := ofLe (((ptpHead bs).drop 4).take 1)

/-- twoStepFlag. -/
def ptpTwoStep (bs : List Byte) : Bool := bit (ofLe (((ptpHead bs).drop 6).take 1)) 1

/-- sourcePortIdentity and sequenceId, which tie a Follow_Up to its Sync. [log 17: PRESUMED] -/
def ptpKey (bs : List Byte) : List Byte := ((ptpHead bs).drop 20).take 12

/-- The message with `d` × 2^-16 ns added to its correctionField. [log 17: PRESUMED] -/
def addCorr (bs : List Byte) (d : Int) : List Byte :=
  let o := (etherParse bs).2.2 + 8
  let v := sx (ofBe ((bs.drop o).take 8)) 64
  bs.take o ++ beBytes (ofInt (v + d) 64) 8 ++ bs.drop (o + 8)

/-- TM_TC_MAPm: enabled, and the backhaul port. -/
def tcEn (s : State) (m : Nat) : Bool := bit (tget s.tm.tcMap 0 m) 31
def tcBp (s : State) (m : Nat) : Nat := fld (tget s.tm.tcMap 0 m) 0 2

def tmDrop (s : State) : State := bump s .tmPtpDrop 0

/-- The messages that wait at a destination (fronthaul port `dest`, or backhaul port `dest - 32`). -/
def ptpQueue (s : State) (dest : Nat) : List PktOut := if dest < 32 then (getFh s dest).pktTx else (getBp s (dest - 32)).ptpOut

/-- Hands a message to its destination's queue; one whose port is not enabled, whose buffer is full, or that is longer than a packet of the packet
channel may be (R67), cannot be forwarded. [log 63: DESIGN CHOICE] -/
def sendPtp (s : State) (dest : Nat) (o : PktOut) : State :=
  if Config.ptpDepth ≤ (ptpQueue s dest).length then tmDrop s
  else if dest < 32 then
    if (getFh s dest).en && o.bytes.length ≤ 1532 then bump (updFh s dest fun x => { x with pktTx := x.pktTx ++ [o] }) .tmTcFwd 0 else tmDrop s
  else if (getBp s (dest - 32)).en then bump (updBp s (dest - 32) fun x => { x with ptpOut := x.ptpOut ++ [o] }) .tmTcFwd 0
  else tmDrop s

/-- The asymmetry of a backhaul port in 2^-16 ns (R297). -/
def asymOf (s : State) (from_ : Nat) : Int := if from_ < 32 then 0 else (getBp s (from_ - 32)).asym * 4096

/-- The recorded residence of the Sync that a Follow_Up belongs to. -/
def syncFor (s : State) (key : List Byte) (dest : Nat) : Option SyncRes :=
  s.tm.syncs.find? fun x => x.key == key && x.dest == dest

/-- Does a Sync wait at a destination for its egress (R299: a Follow_Up is never sent before it is known)? -/
def syncWaits (s : State) (key : List Byte) (dest : Nat) : Bool := (ptpQueue s dest).any fun o => o.sync == some key

/-- Forwards one message to one destination with the correction of R299. [log 63: DESIGN CHOICE] -/
def forwardPtp (s : State) (bs : List Byte) (from_ dest tin : Nat) : State :=
  match ptpType bs with
  | 0 =>
    if ptpTwoStep bs then sendPtp s dest { bytes := bs, tin := tin, asym := asymOf s from_, sync := some (ptpKey bs) }
    else sendPtp s dest { bytes := bs, tin := tin, addR := true, asym := asymOf s from_ }
  | 1 => sendPtp s dest { bytes := bs, tin := tin, addR := true, asym := - asymOf s dest, delayReq := true }
  | 8 =>
    match syncFor s (ptpKey bs) dest with
    | some x =>
      sendPtp { s with tm := { s.tm with syncs := s.tm.syncs.erase x } } dest { bytes := addCorr bs x.add }
    | none =>
      { s with tm := { s.tm with held := s.tm.held ++ [{ key := ptpKey bs, dest := dest, bytes := bs, arrived := upNs s }] } }
  | _ => sendPtp s dest { bytes := bs }

/-- A PTP message reaches the time unit from fronthaul port `from_` or backhaul port `from_ - 32`, with its extended stamp. The module's own
clock takes those of its domain (R298). [log 63: DESIGN CHOICE] -/
def ptpIn (s : State) (bs : List Byte) (from_ tin : Nat) : State :=
  let t := ptpType bs
  if t == 2 || t == 3 || t == 10 || !ptpAddress bs then tmDrop s
  else if from_ < 32 then
    if tcEn s from_ then forwardPtp s bs from_ (32 + tcBp s from_) tin else s
  else
    let n := from_ - 32
    let s := if bit s.tm.ptpPorts n && ptpDomain bs == s.tm.cfg.domain then { s with tm := { s.tm with ownRx := some (n, tin, bs) } } else s
    ((upFrom 0 32).filter fun m => tcEn s m && tcBp s m == n && (getFh s m).en).foldl (fun s m => forwardPtp s bs from_ m tin) s

/-- What leaves with egress time `tout`: the bytes with their correction; a two-step Sync leaves its residence for its Follow_Up. [log 63: DESIGN CHOICE] -/
def emitPtp (s : State) (o : PktOut) (dest tout : Nat) : List Byte × State :=
  let r : Int := ((tout : Int) - o.tin) * 65536
  let bs := if o.addR then addCorr o.bytes (r + o.asym) else o.bytes
  let s := if o.own then { s with tm := { s.tm with own := { s.tm.own with reqKey := ptpKey o.bytes, t3 := some tout } } } else s
  match o.sync with
  | none => (bs, s)
  | some k =>
    let l := s.tm.syncs.filter fun x => !(x.key == k && x.dest == dest)
    (bs, { s with tm := { s.tm with syncs := l ++ [{ key := k, dest := dest, add := r + o.asym, sent := upNs s }] } })

/-! ### Transmit secure associations (R290) -/

/-- The active SA of a transmit channel (R290). -/
def txSa (x : BhPort) (sc : Nat) : Option Sa :=
  match x.active.find? fun e => e.1 == sc with
  | some e => x.sas.find? fun a => a.tx && a.sc == sc && a.an == e.2
  | none => none

/-- MS_PN_EVT for a transmit SA whose PN has reached MS_PN_THR, once (R290). [log 65: DEDUCED] -/
def notePn (s : State) (n sc : Nat) (a : Sa) : State :=
  if a.pn ≥ (getBp s n).pnThr && !a.evt then
    let s := updBp s n fun x => { x with sas := x.sas.map fun y => if y == a then { a with evt := true } else y }
    raiseOwner s (bpOwner s n) 0x0801 (n + sc * 4 + a.an * 256) a.pn
  else s

/-! ### Stamps (R296, R304) -/

/-- TM_BH_LATn.RX and TX of a port. -/
def latWord (s : State) (n : Nat) : Nat := (getBp s n).lat.getD (Config.bhLat n)
def latRx (s : State) (n : Nat) : Nat := fld (latWord s n) 0 16
def latTx (s : State) (n : Nat) : Nat := fld (latWord s n) 16 16

end Sys2Proof.Machine
end

