-- ==== Sys2Proof/Machine/Gcm.lean ====
section
/-!
DEFINITION. The cipher that R288 names, GCM-AES-XPN-256: AES with a 256-bit key (FIPS 197) in Galois/Counter Mode (NIST SP 800-38D).
-/
namespace Sys2Proof.Machine

/-! ### AES-256 -/

/-- A byte times x in GF(2^8) with x^8 + x^4 + x^3 + x + 1. -/
def aesX (a : Nat) : Nat := if bit a 7 then (a * 2 % 256) ^^^ 0x1B else a * 2

/-- The product of two bytes; the last argument counts the bits of `b` still to be used. -/
def aesMulBits (a b : Nat) : Nat → Nat
  | 0 => 0
  | k + 1 => (if bit b 0 then a else 0) ^^^ aesMulBits (aesX a) (b / 2) k

def aesMul (a b : Nat) : Nat := aesMulBits a b 8

/-- `a ^ 2 * a ^ 4 * … * a ^ (2 ^ k)`; with `k = 7` the inverse of a nonzero byte, and 0 for 0. -/
def aesSquares (a : Nat) : Nat → Nat
  | 0 => 1
  | k + 1 => let b := aesMul a a; aesMul b (aesSquares b k)

/-- A byte rotated left. -/
def aesRotl (a k : Nat) : Nat := (a * 2 ^ k + a / 2 ^ (8 - k)) % 256

/-- The S-box. [log 96: PRESUMED] -/
def aesSub (a : Nat) : Nat :=
  let b := aesSquares a 7
  b ^^^ aesRotl b 1 ^^^ aesRotl b 2 ^^^ aesRotl b 3 ^^^ aesRotl b 4 ^^^ 0x63

def xorList (a b : List Nat) : List Nat := (List.zip a b).map fun e => e.1 ^^^ e.2

/-- One more word of the key schedule, its words in reverse order (the newest first); `i` is the new word's number. -/
def aesNextWord (l : List (List Nat)) (i : Nat) : List (List Nat) :=
  let t := lget l [] 0
  let t := if i % 8 = 0 then
      match t with
      | [a, b, c, d] => [aesSub b ^^^ 2 ^ (i / 8 - 1), aesSub c, aesSub d, aesSub a]
      | l => l
    else if i % 8 = 4 then t.map aesSub else t
  xorList (lget l [] 7) t :: l

/-- The 60 words of the key schedule of a 32-byte key. [log 96: PRESUMED] -/
def aesSchedule (key : List Nat) : List (List Nat) :=
  let first := ((upFrom 0 8).map fun i => (key.drop (4 * i)).take 4).reverse
  ((upFrom 8 52).foldl aesNextWord first).reverse

/-- Round key `r`: 16 bytes. -/
def aesRoundKey (ws : List (List Nat)) (r : Nat) : List Nat := ((ws.drop (4 * r)).take 4).flatten

def aesShiftRows (b : List Nat) : List Nat := (upFrom 0 16).map fun i => lget b 0 (i % 4 + 4 * ((i / 4 + i % 4) % 4))

def aesMixColumns (b : List Nat) : List Nat :=
  (upFrom 0 16).map fun i =>
    let c := fun r => lget b 0 (i / 4 * 4 + (i + r) % 4)
    aesMul 2 (c 0) ^^^ aesMul 3 (c 1) ^^^ c 2 ^^^ c 3

/-- The encryption of one block of 16 bytes. [log 96: PRESUMED] -/
def aesBlock (ws : List (List Nat)) (b : List Nat) : List Nat :=
  let b := xorList b (aesRoundKey ws 0)
  let b := (upFrom 1 13).foldl (fun b r => xorList (aesMixColumns (aesShiftRows (b.map aesSub))) (aesRoundKey ws r)) b
  xorList (aesShiftRows (b.map aesSub)) (aesRoundKey ws 14)

/-! ### GCM -/

/-- The `k` bytes of a number, high byte first. -/
def beNats (n : Nat) : Nat → List Nat
  | 0 => []
  | k + 1 => n / 2 ^ (8 * k) % 256 :: beNats n k

/-- The number whose bytes, high byte first, are `l`. -/
def ofBeNats (l : List Nat) : Nat := l.foldl (fun n b => n * 256 + b) 0

/-- The product in GF(2^128) in GCM's bit order; the last argument counts the bits of `x` still to be used. -/
def gcmMulBits (x v : Nat) : Nat → Nat
  | 0 => 0
  | k + 1 => (if bit x k then v else 0) ^^^ gcmMulBits x (if bit v 0 then v / 2 ^^^ 0xE1 * 2 ^ 120 else v / 2) k

/-- The blocks of 16 bytes of a string, the last one padded with zeros. -/
def gcmBlocks (l : List Nat) : Nat → List (List Nat)
  | 0 => []
  | k + 1 => if l.isEmpty then [] else
    let b := l.take 16
    (b ++ List.replicate (16 - b.length) 0) :: gcmBlocks (l.drop 16) k

/-- GHASH of the additional data and the text. [log 96: PRESUMED] -/
def gcmHash (h : Nat) (aad text : List Nat) : Nat :=
  let bl := gcmBlocks aad aad.length ++ gcmBlocks text text.length ++ [beNats (8 * aad.length) 8 ++ beNats (8 * text.length) 8]
  bl.foldl (fun y b => gcmMulBits (y ^^^ ofBeNats b) h 128) 0

/-- The key stream under the 12-byte IV, from counter block `i` on. -/
def gcmStream (ws : List (List Nat)) (iv i : Nat) : Nat → List Nat
  | 0 => []
  | k + 1 => aesBlock ws (beNats iv 12 ++ beNats i 4) ++ gcmStream ws iv (i + 1) k

/-- A text under the key stream: encryption and decryption alike. [log 96: PRESUMED] -/
def gcmCrypt (key : List Nat) (iv : Nat) (text : List Nat) : List Nat :=
  xorList text (gcmStream (aesSchedule key) iv 2 ((text.length + 15) / 16))

/-- The 16 bytes of the integrity check value over additional data and cipher text. [log 96: PRESUMED] -/
def gcmTag (key : List Nat) (iv : Nat) (aad cipher : List Nat) : List Nat :=
  let ws := aesSchedule key
  let h := ofBeNats (aesBlock ws (List.replicate 16 0))
  xorList (beNats (gcmHash h aad cipher) 16) (gcmStream ws iv 1 1)

end Sys2Proof.Machine
end

