-- ==== Sys2Proof/Machine/Backhaul.lean ====
section
/-!
DEFINITION. The backhaul ports (13_backhaul_and_time): received frames with MACsec and classification, transmit descriptors, rules.
-/
namespace Sys2Proof.Machine

/-- Does a port pass frames (R304, R349): enabled, with its MAC awake? -/
def bpLive (s : State) (n : Nat) : Bool := (getBp s n).en && (getDom s 20).state == .awake

/-! ### MACsec on receive (R288, R291) -/

/-- The key of an SA as bytes, and the IV of one of its frames (GCM-AES-XPN-256). [log 17: PRESUMED] -/
def saKey (a : Sa) : List Nat := (leBytes a.key 32).map fun b => b.toNat
def saIv (a : Sa) (pn : Nat) : Nat := a.salt ^^^ (a.ssci * 2 ^ 64 + pn)

/-- CONF_OFS of a port: the bytes of a confidential frame that stay readable (R288). -/
def confBytes (x : BhPort) : Nat := lget [0, 30, 50] 0 x.confOfs

/-- Bytes as numbers and back. -/
def nats (bs : List Byte) : List Nat := bs.map fun b => b.toNat
def ofNats (l : List Nat) : List Byte := l.map fun b => BitVec.ofNat 8 b

/-- A frame protected under an SA with packet number `pn` (R288): the addresses, the SecTAG with its SCI, the text and the ICV. [log 17: PRESUMED] -/
def protectFrame (x : BhPort) (a : Sa) (integ : Bool) (pn : Nat) (bs : List Byte) : List Byte :=
  let data := bs.drop 12
  let tci := 0x20 + (if integ then 0 else 0x0C) + a.an
  let sl := if data.length < 48 then data.length else 0
  let head := bs.take 12 ++ beBytes 0x88E5 2 ++ leBytes tci 1 ++ leBytes sl 1 ++ beBytes (pn % 2 ^ 32) 4 ++ beBytes a.sci 8
  let k := if integ then data.length else confBytes x
  let aad := head ++ data.take k
  let text := gcmCrypt (saKey a) (saIv a pn) (nats (data.drop k))
  aad ++ ofNats text ++ ofNats (gcmTag (saKey a) (saIv a pn) (nats aad) text)

/-- What a SecTAG says: E (confidential), AN, the low 32 bits of PN, and the SCI where it is sent. -/
structure SecTag where
  conf : Bool
  an : Nat
  pn : Nat
  sci : Option Nat
deriving DecidableEq, Repr

/-- The SecTAG of a frame that carries one: EtherType 0x88E5 after the addresses. [log 17: PRESUMED] -/
def secTag (bs : List Byte) : Option SecTag :=
  if ofBe ((bs.drop 12).take 2) = 0x88E5 then
    let t := ofLe ((bs.drop 14).take 1)
    some { conf := bit t 3, an := fld t 0 2, pn := ofBe ((bs.drop 16).take 4)
           sci := if bit t 5 then some (ofBe ((bs.drop 20).take 8)) else none }
  else none

/-- The receive SA of a SecTAG (R291). -/
def rxSa (x : BhPort) (t : SecTag) : Option Sa :=
  x.sas.find? fun a => !a.tx && a.an == t.an && t.sci == some a.sci

/-- The 64-bit PN that the 32 bits of a SecTAG stand for, near the lowest acceptable PN. [log 17: PRESUMED] -/
def fullPn (lowest pn : Nat) : Nat :=
  let h := lowest / 2 ^ 32
  if bit (lowest % 2 ^ 32) 31 && !bit pn 31 then ((h + 1) % 2 ^ 32) * 2 ^ 32 + pn else h * 2 ^ 32 + pn

/-- A received frame under its SA: does its ICV check, and the frame without SecTAG and ICV (R286, R291). [log 17: PRESUMED] -/
def openFrame (x : BhPort) (a : Sa) (t : SecTag) (bs : List Byte) : Bool × List Byte :=
  let pn := fullPn a.pn t.pn
  let h := if t.sci.isSome then 28 else 20
  let sl := fld (ofLe ((bs.drop 15).take 1)) 0 6
  let n := if sl = 0 then bs.length - h - 16 else sl
  let data := (bs.drop h).take n
  let k := if t.conf then confBytes x else n
  let aad := bs.take h ++ data.take k
  let text := nats (data.drop k)
  (ofNats (gcmTag (saKey a) (saIv a pn) (nats aad) text) == (bs.drop (h + n)).take 16,
    bs.take 12 ++ data.take k ++ ofNats (gcmCrypt (saKey a) (saIv a pn) text))

/-- May a frame without a SecTAG be in the clear (R288)? -/
def inClear (x : BhPort) (etype : Nat) : Bool := etype == 0x888E || (etype == 0x88F7 && x.ptpClear)

/-- MACsec's verdict on a frame (R291): the frame to deliver, or none. -/
def macsecRx (s : State) (n : Nat) (bs : List Byte) : Option (List Byte) × State :=
  let x := getBp s n
  if !x.msEn then (some bs, s)
  else
    let strict := x.validate == 2
    let off := x.validate == 0
    match secTag bs with
    | none =>
      if inClear x (etherParse bs).1 then (some bs, s)
      else (if strict then none else some bs, bump s .msRxUntagged n)
    | some t =>
      match rxSa x t with
      | none => (if strict then none else some bs, bump s .msRxNosa n)
      | some a =>
        let (icvOk, user) := openFrame x a t bs
        if !icvOk then
          if t.conf then (if off then some user else none, bump s .msRxInvalid n)
          else (if strict then none else some user, bump s .msRxNotvalid n)
        else
          let pn := fullPn a.pn t.pn
          if x.replay && pn < a.pn then (if off then some user else none, bump s .msRxLate n)
          else
            let b := { a with pn := max a.pn (pn + 1 - x.window) }
            (some user, bump (setBp s n { x with sas := x.sas.map fun y => if y == a then b else y }) .msRxOk n)

/-! ### Classification (R284) -/

/-- Does a rule match a frame's EtherType and outer tag (R284)? -/
def ruleHit (w : Nat) (etype : Nat) (tag : Option Nat) : Bool :=
  bit w 35 && (!bit w 32 || etype == fld w 0 16) &&
  (match tag with
   | some t => (!bit w 33 || fld t 0 12 == fld w 16 12) && (!bit w 34 || fld t 13 3 == fld w 28 3)
   | none => !bit w 33 && !bit w 34)

/-- Where a frame goes: the flow, and the level of a rule with PRIO_EN (R284). -/
def classify (x : BhPort) (etype : Nat) (tag : Option Nat) : Option (Nat × Option Nat) :=
  match x.rules.find? fun e => ruleHit e.2 etype tag with
  | some e => some (fld e.2 41 18, if bit e.2 40 then some (fld e.2 36 4) else none)
  | none => if x.defEn then some (x.defFlow, none) else none

/-- Delivers a frame that MACsec let through (R283, R284, R286). [log 62: DEDUCED] -/
def bhDeliver (s : State) (n : Nat) (bs : List Byte) (stamp : Nat) : State :=
  let (et, tag, _) := etherParse bs
  if et = 0x88F7 then ptpIn s bs (32 + n) (extendNs s stamp)
  else
    match classify (getBp s n) et tag with
    | none => bump s .bhRxNomatch n
    | some (f, prio) =>
      deliverFrame s n ((bpOwner s n).getD 4) bs fun a =>
        { flow := f, kind := 2, prio := prio, tag := 0, arg0 := BitVec.ofNat 64 a
          arg1 := BitVec.ofNat 64 (bs.length + n * 2 ^ 16 + stamp * 2 ^ 32) }

/-- R283 to R286, R291: a frame arrives, FCS included. `fifoFull`: the receive FIFO has no room for it. [log 62: DEDUCED] -/
def execBhFrameRx (n : Fin 4) (bytes : List Byte) (fifoFull : Bool) (s : State) : Res :=
  let k := bytes.length
  let body := bytes.take (k - 4)
  if !bpLive s n then .next s
  else if k < 64 ∨ 9216 < k ∨ bytes.drop (k - 4) ≠ fcsOf body then .next (bump s .bhRxErr n)
  else
    let s := bump s .bhRxFrm n
    if (etherParse body).1 = 0x8808 then .next (bump s .bhRxCtl n)
    else if fifoFull then .next (bump s .bhRxFifo n)
    else
      let stamp := (nsCounter s + 2 ^ 32 - latRx s n) % 2 ^ 32
      match macsecRx s n body with
      | (some b, s') => .next (bhDeliver s' n b stamp)
      | (none, s') => .next s'

/-! ### Transmit (R287, R290) -/

/-- R287: a write of BH_TX_TAIL hands descriptors to the port. -/
def execBhTxTailWrite (who : Agent) (n : Fin 4) (tail : BitVec 12) (s : State) : Res :=
  if !mayTouch who (bpOwner s n) then .next (foreign s)
  else .next (done (updBp s n fun x => { x with tail := tail.toNat }))

/-- Protects a frame under the active SA of channel `sc` (R290): its STATUS, 1 where it may be sent, and the frame. [log 61: DESIGN CHOICE] -/
def protect (s : State) (n sc : Nat) (bs : List Byte) : Nat × List Byte × State :=
  let x := getBp s n
  if !x.msEn then (0x23, [], s)
  else
    match txSa x sc with
    | none => (0x23, [], s)
    | some a =>
      if a.exhausted then (0x22, [], bump s .msTxPnExh n)
      else
        let e := a.evt || decide (x.pnThr ≤ a.pn)
        let s := notePn s n sc a
        let b := { a with pn := (a.pn + 1) % 2 ^ 64, exhausted := a.pn == 2 ^ 64 - 1, evt := e }
        (1, protectFrame x a (Config.integOnly n sc) a.pn bs,
          bump (updBp s n fun x => { x with sas := x.sas.map fun y => if y == { a with evt := e } then b else y }) .msTxProt n)

/-- A frame goes out with its FCS (R287). -/
def sendFrame (s : State) (n : Nat) (bs : List Byte) : State :=
  bump (updBp s n fun x => { x with txLast := bs ++ fcsOf bs }) .bhTxFrm n

/-- Processes a descriptor (R287): its STATUS and TSTAMP. [log 61: DESIGN CHOICE] -/
def txStatus (s : State) (n p : Nat) (d : List Byte) : Nat × Nat × State :=
  let w := fun i k => ofLe ((d.drop i).take k)
  let ctl := w 8 1
  let len := w 6 2
  if !bit ctl 0 || fld ctl 6 2 != 0 || w 9 7 != 0 || len < 60 || 9212 < len then (0x10, 0, s)
  else
    match memRead s (some p) (w 0 6) len with
    | (0, bs, s') =>
      let (st, out, s') :=
        if bit ctl 2 && !inClear (getBp s' n) (etherParse bs).1 then protect s' n (fld ctl 3 3) bs else (1, bs, s')
      if st = 1 then (1, (nsCounter s' + latTx s' n) % 2 ^ 32, sendFrame s' n out) else (st, 0, s')
    | (_, _, s') => (0x20, 0, s')

/-- Completes a descriptor: STATUS and TSTAMP, then OWN, then the item (R287). The code of BH_TX_DONE is not in the spec: a free value. [log 61: DESIGN CHOICE] -/
def txComplete (s : State) (n p a : Nat) (d : List Byte) (st ts : Nat) : State :=
  let ctl := ofLe ((d.drop 8).take 1)
  let s := (memWrite s (some p) (a + 24) (leBytes st 4 ++ leBytes ts 4)).2.2
  let s := (memWrite s (some p) (a + 8) (leBytes (setBit ctl 0 false) 1)).2.2
  let s := updBp s n fun x => { x with head := (x.head + 1) % 2 ^ x.tsz }
  if bit ctl 1 && (getBp s n).txEn then
    let (c, s) := takeFree s 16
    let (w2, s) := takeFree s 64
    (enqueueExt s p
      { flow := (getBp s n).txFlow, kind := 9, tag := BitVec.ofNat 64 (ofLe ((d.drop 16).take 8)), arg0 := BitVec.ofNat 64 c
        arg1 := BitVec.ofNat 64 w2 }).2.1
  else s

/-- The transmit channel of the time unit's messages: the lowest with an active SA. [log 63: DESIGN CHOICE] -/
def ptpSc (x : BhPort) : Nat := (firstFrom (fun sc => (txSa x sc).isSome) 0 8).getD 0

/-- The time unit's message leaves with its correction inserted after its stamp is known (R299): padded to 60 bytes, and protected where MACsec is in
use and does not let it pass in the clear. One that cannot be protected is dropped. [log 63: DESIGN CHOICE] -/
def sendPtpFrame (s : State) (n : Nat) (o : PktOut) : State :=
  let (bs, s') := emitPtp s o (32 + n) (s.now + latTx s n)
  let bs := bs ++ leBytes 0 (60 - bs.length)
  let x := getBp s n
  if x.msEn && !inClear x 0x88F7 then
    match protect s' n (ptpSc x) bs with
    | (1, out, s'') => sendFrame s'' n out
    | _ => tmDrop (protect s n (ptpSc x) bs).2.2
  else sendFrame s' n bs

/-- R287: the port sends its next frame: a PTP message of the time unit first, else the next descriptor of the ring. -/
def execBhTxFrame (n : Fin 4) (s : State) : Res :=
  let x := getBp s n
  if !bpLive s n then .next s
  else
    match x.ptpOut with
    | o :: r => .next (sendPtpFrame (setBp s n { x with ptpOut := r }) n o)
    | [] =>
      if x.head = x.tail % 2 ^ x.tsz then .next s
      else
        let p := (bpOwner s n).getD 4
        let a := x.txAddr + 32 * x.head
        match memRead s (some p) a 32 with
        | (0, d, s') =>
          let (st, ts, s') := txStatus s' n p d
          .next (txComplete s' n p a d st ts)
        | (_, _, s') => .next (txComplete s' n p a (leBytes 0 32) 0x20 0)

/-! ### Rules and flows (R284, R304) -/

/-- R284: a write of a classification rule, refused where its FLOW lies outside the partition's range; its rsvd bits stay zero (R10). -/
def execBhRuleWrite (who : Agent) (n : Fin 4) (i : Fin 64) (val : Word) (s : State) : Res :=
  let o := bpOwner s n
  if !mayTouch who o then .next (foreign s)
  else if ownsFlow s (o.getD 4) (fld val.toNat 41 18) then .next (done (updBp s n fun x => { x with rules := tset x.rules i (val.toNat &&& 0x7FFFFFF7FFFFFFF) }))
  else .next (done s)

/-- R304: a write of BH_DEF_FLOW or BH_TX_FLOW, refused where EN = 1 names a flow outside the partition's range. -/
def execBhFlowWrite (who : Agent) (n : Fin 4) (tx : Bool) (val : BitVec 32) (s : State) : Res :=
  let o := bpOwner s n
  let f := fld val.toNat 0 18
  let en := bit val.toNat 31
  if !mayTouch who o then .next (foreign s)
  else if en && !ownsFlow s (o.getD 4) f then .next (done s)
  else .next (done (updBp s n fun x => if tx then { x with txFlow := f, txEn := en } else { x with defFlow := f, defEn := en }))

end Sys2Proof.Machine
end

