-- ==== Sys2Proof/Machine/SymOps.lean ====
section
/-!
DEFINITION. Carrier symbols and the windows tied to the grid (R26 to R28, R62 to R66).
-/
namespace Sys2Proof.Machine

/-- Is a stamp early for, late for or inside a window (R26)? -/
def isEarly (t open_ : Int) : Bool := decide (int32 t open_ < 0)
def isLate (t close : Int) : Bool := decide (0 ≤ int32 t close)

/-- The carrier symbol, at numerology `mu`, that an offset of `o` ns into a half-millisecond lies in (R14, R16). -/
def symInHalf (mu o : Nat) : Nat :=
  let x := ((o + 1) * 6144 - 1) / 3125
  if x < normTc mu + 1024 then 0 else (x - 1024) / normTc mu

/-- The number of the carrier symbol current at time `t`, on the count that starts with SFN 0 (R15, R64). [log 35: DEDUCED] -/
def carrierSym (s : State) (mu : Nat) (t : Int) : Int :=
  let d := t - s.tu.half
  let h : Int := (absTick s / ticksPerHalf s.tu.mu : Nat)
  (h + d / 500000) * ticksPerHalf mu + symInHalf mu (d % 500000).toNat

/-- The symbol with `sym` as its number modulo 512 in [c - 256, c + 256) (R64, R66). -/
def nearSym (c : Int) (sym : Nat) : Int := c - 256 + ((sym : Int) - (c - 256)) % 512

/-- The tick on which a carrier symbol starts (R28, R62). -/
def symTick (s : State) (mu : Nat) (sym : Int) : Int :=
  if mu ≤ s.tu.mu then sym * 2 ^ (s.tu.mu - mu) else sym / 2 ^ (mu - s.tu.mu)

/-- The start of absolute tick `k` (R16), `k` counted like `absTick` and not wrapped. -/
def startOf (s : State) (k : Int) : Int := tickStartAt s (k - absTick s)

/-- The window of a stream's symbol (R28). -/
def streamWindow (s : State) (c : StreamCfg) (sym : Int) : Int × Int :=
  let k := symTick s c.mu sym
  (startOf s (k + c.tOpen) + c.nOpen, startOf s (k + c.tClose) + c.nClose)

/-- The start of tick `k` of a half-millisecond, in ns from that half-millisecond's start. -/
def startRel (mu : Nat) (k : Int) : Int :=
  let per : Int := ticksPerHalf mu
  500000 * (k / per) + tcToNs (tickOffTc mu (k % per).toNat)

/-- Is a window in grid form valid at every tick on which a symbol of the carrier starts (R27, R28)? -/
def windowOk (s : State) (mu : Nat) (tO tC nO nC : Int) : Bool :=
  let step := if mu < s.tu.mu then 2 ^ (s.tu.mu - mu) else 1
  ((upFrom 0 (ticksPerHalf s.tu.mu)).filter fun k => k % step == 0).all fun k =>
    decide (0 < int32 (startRel s.tu.mu (k + tC) + nC) (startRel s.tu.mu (k + tO) + nO))

/-! ### Tick numbers -/

/-- The signed distance in ticks from the current tick to tick number `n` of the SFN cycle. -/
def tickDist (s : State) (n : Nat) : Int :=
  let c := ticksPerCycle s.tu.mu
  let d := (n + c - absTick s) % c
  if d < c / 2 then d else (d : Int) - c

/-- A tick number on `TickUnit.count`. -/
def countOf (s : State) (n : Nat) : Nat := ((s.tu.count : Int) + tickDist s n).toNat

/-- The tick number at a value of `TickUnit.count`. -/
def tickNo (s : State) (k : Nat) : Nat :=
  let c : Int := ticksPerCycle s.tu.mu
  (((absTick s : Int) + k - s.tu.count) % c).toNat

/-! ### Streams and sections (R60 to R62) -/

/-- A stream-table entry of a port and ACID. -/
def getStream (s : State) (m a : Nat) : Stream := tget s.fh.streams {} (1024 * m + a)
def setStream (s : State) (m a : Nat) (x : Stream) : State :=
  { s with fh := { s.fh with streams := tset s.fh.streams (1024 * m + a) x } }

/-- A section header (R60). -/
structure SecHdr where
  typ : Nat
  acid : Nat
  sym : Nat
  prb : Nat
  nprb : Nat
  ok : Bool
deriving DecidableEq, Repr

/-- The header of a slot (R60): HCRC covers its bytes 0 to 5. -/
def secHdr (bs : List Byte) : SecHdr :=
  let w := ofLe (bs.take 8)
  { typ := fld w 0 2, acid := fld w 2 10, sym := fld w 12 9, prb := fld w 21 9, nprb := fld w 30 2
    ok := bs.length == 60 && fld w 48 16 == crc16 (bs.take 6) }

/-- Bytes of a PRB record (R61). -/
def recBytes (v8 : Bool) : Nat := if v8 then 25 else 13

/-- The record of PRB position `j` of a slot (R61). -/
def prbRec (v8 : Bool) (bs : List Byte) (j : Nat) : List Byte := (bs.drop (8 + recBytes v8 * j)).take (recBytes v8)

/-- The mantissas of a record, in order: I and Q of each resource element (R61). -/
def recMant (v8 : Bool) (r : List Byte) : List (Int × Int) :=
  (upFrom 0 12).map fun e =>
    if v8 then (sx (ofLe ((r.drop (1 + 2 * e)).take 1)) 8, sx (ofLe ((r.drop (2 + 2 * e)).take 1)) 8)
    else
      let b := ofLe ((r.drop (1 + e)).take 1)
      (sx (fld b 0 4) 4, sx (fld b 4 4) 4)

end Sys2Proof.Machine
end

