-- ==== Sys2Proof/Machine/GainOps.lean ====
section
/-!
DEFINITION. Operations of the gain controller and the Nose: measuring (R88), commands (R90 to R93), occasions and reports (R102 to R104).
-/
namespace Sys2Proof.Machine

/-! ### Members and measurement (R87, R88) -/

/-- The members of a group, in range order, with their range numbers. -/
def grpRanges (x : GcGrp) : List (Nat × GcMemb) := x.memb

/-- The group whose member ranges hold an antenna-carrier, if any. -/
def grpOf (s : State) (m a : Nat) : Option Nat :=
  (s.gc.grps.find? fun e => e.2.memb.any fun r => r.2.port == m && r.2.lo ≤ a && a ≤ r.2.hi).map fun e => e.1

/-- The numerology of a group's carrier: that of its first member's stream (R87). -/
def grpMu (s : State) (x : GcGrp) : Nat :=
  match x.memb.head? with
  | some r => (getStream s r.2.port r.2.lo).cfg.mu
  | none => s.tu.mu

/-- The elements of a record: power and saturation (R88). -/
def recPower (efs : Int) (v8 : Bool) (r : List Byte) : Nat × Nat :=
  let e := sx (ofLe (r.take 1)) 8
  if e = -128 then (0, 0)
  else
    let k := (e + 128).toNat
    let l := recMant v8 r
    (sumNat (l.map fun p => (p.1 * p.1 + p.2 * p.2).toNat * 4 ^ k),
     (l.filter fun p => 7 * 2 ^ (efs + 128).toNat ≤ max p.1.natAbs p.2.natAbs * 2 ^ k).length)

/-- Adds an accepted section to its group's measurement (R64 step 3, R88). [log 36: DESIGN CHOICE] -/
def gcMeasure (s : State) (m a : Nat) (sym : Int) (tick : Nat) (v8 : Bool) (recs : List (List Byte)) : State :=
  match grpOf s m a with
  | none => s
  | some g =>
    let x := getGrp s g
    let p := recs.map (recPower x.efs v8)
    let nw : GcAcc :=
      { tick := tick, memb := 1024 * m + a, sym := sym.toNat, sum := sumNat (p.map fun q => q.1), n := 12 * recs.length
        sat := sumNat (p.map fun q => q.2) }
    let eqv := fun (y : GcAcc) => y.tick == tick && y.memb == nw.memb && y.sym == nw.sym
    if x.acc.any eqv then
      let l := x.acc.map fun y =>
        if eqv y then { y with sum := y.sum + nw.sum, n := y.n + nw.n, sat := y.sat + nw.sat } else y
      setGrp s g { x with acc := l }
    else setGrp s g { x with acc := x.acc ++ [nw] }

/-- The members with accepted elements in a tick. [log 36: DESIGN CHOICE] -/
def measured (x : GcGrp) (tick : Nat) : List Nat :=
  ((x.acc.filter fun y => y.tick == tick && y.n != 0).map fun y => y.memb).eraseDups

/-- ⌊log10 n⌋ for `n > 0`; the first argument bounds the digits. -/
def log10 : Nat → Nat → Nat
  | 0, _ => 0
  | f + 1, n => if n < 10 then 0 else 1 + log10 f (n / 10)

/-- ⌊16 · 10 · log10 (a / b)⌋ for positive `a` and `b`: the level of a power ratio in 1/16 dB, rounded down. -/
def dbFloor (a b : Nat) : Int :=
  let p := a ^ 160
  let q := b ^ 160
  if q ≤ p then (log10 (Nat.log2 (p / q) + 1) (p / q) : Nat)
  else
    let r := (q + p - 1) / p
    Int.negSucc (log10 (Nat.log2 r + 1) (r - 1))

/-- Is a power ratio exactly `l` sixteenths of a dB? -/
def dbExact (a b : Nat) (l : Int) : Bool := a ^ 160 * 10 ^ (-l).toNat == b ^ 160 * 10 ^ l.toNat

/-- The level of a power ratio `a / b` in 1/16 dB (R88): exact where it is a whole number of them. [log 36: DESIGN CHOICE] -/
def levelOf (a b : Nat) : Int :=
  if a = 0 then Config.levelZero
  else
    let l := dbFloor a b
    if dbExact a b l then l else l + b2n (Config.levelUp a b)

/-- The mean of some fractions. -/
def meanFrac (l : List (Nat × Nat)) : Nat × Nat :=
  let t := l.foldl (fun a e => (a.1 * e.2 + e.1 * a.2, a.2 * e.2)) (0, 1)
  (t.1, t.2 * l.length)

/-- A member's level in a tick, in 1/16 dBFS (R88): the mean of its symbols' mean powers, in linear units, relative to full scale. [log 36: DESIGN CHOICE] -/
def membLevel (x : GcGrp) (tick memb : Nat) : Int :=
  let f := meanFrac ((x.acc.filter fun y => y.tick == tick && y.memb == memb && y.n != 0).map fun y =>
    (y.sum, y.n * 4 ^ (x.efs + 131).toNat))
  levelOf f.1 f.2

/-- The greatest of some levels. -/
def maxInts : List Int → Int
  | [] => -32768
  | [a] => a
  | a :: r => let b := maxInts r; if a < b then b else a

/-- The unfiltered maximum member level of a tick (R105). For a tick without a measurement, which R105 does not treat, it is the lowest level, so that
no capture follows. [log 101: DESIGN CHOICE] -/
def tickLevel (x : GcGrp) (tick : Nat) : Int := maxInts ((measured x tick).map (membLevel x tick))

/-- Saturated elements and elements of a tick (R90). -/
def tickSat (x : GcGrp) (tick : Nat) : Nat × Nat :=
  let l := x.acc.filter fun y => y.tick == tick
  (sumNat (l.map fun y => y.sat), sumNat (l.map fun y => y.n))

/-- The last symbol of a carrier that starts in tick number `n` (R88), on the count of `symTick`; where none does, the one that spans it. -/
def lastSym (s : State) (mu n : Nat) : Int :=
  let k : Int := absTick s + tickDist s n
  if mu ≤ s.tu.mu then k / 2 ^ (s.tu.mu - mu) else (k + 1) * 2 ^ (mu - s.tu.mu) - 1

/-- Have the windows of all members of a group for tick number `n` closed, so that its measurement is complete (R88)? -/
def measClosed (s : State) (x : GcGrp) (n : Nat) : Bool :=
  x.memb.all fun e => (upFrom e.2.lo (e.2.hi + 1 - e.2.lo)).all fun a =>
    let c := (getStream s e.2.port a).cfg
    isLate s.now (streamWindow s c (lastSym s c.mu n)).2

/-! ### Commands (R90 to R93) -/

/-- A whole number of 1/16 dB as a level. -/
def fracOf (x : Int) : Frac := { num := x }

/-- Is one level below another? -/
def fracLt (a b : Frac) : Bool := decide (a.num * 2 ^ b.ex < b.num * 2 ^ a.ex)

/-- The difference of two levels. -/
def fracSub (a b : Frac) : Frac := { num := a.num * 2 ^ b.ex - b.num * 2 ^ a.ex, ex := a.ex + b.ex }

/-- The greatest of some levels (R90). -/
def maxFracs : List Frac → Frac
  | [] => fracOf (-32768)
  | [a] => a
  | a :: r => let b := maxFracs r; if fracLt a b then b else a

/-- A member's filter moves to its new level (R90): f + (x - f) * 2^(-AVG_SH), exactly. [log 36: DESIGN CHOICE] -/
def filterStep (f : Frac) (x : Int) (sh : Nat) : Frac := { num := f.num * 2 ^ sh + (x * 2 ^ f.ex - f.num), ex := f.ex + sh }

/-- The change that R90 computes from a level, in 0.5 dB units, without the attack rule. -/
def stepFor (x : GcGrp) (lvl : Frac) : Int :=
  let e := fracSub lvl (fracOf (8 * x.target))
  let u : Int := 2 ^ e.ex
  if e.num.natAbs < 8 * x.hyst * 2 ^ e.ex then 0
  else
    let r : Int := if 0 ≤ e.num then (e.num + 4 * u) / (8 * u) else -((4 * u - e.num) / (8 * u))
    clampInt r (-(x.stepMax : Int)) x.stepMax

/-- The new ATT of a change (R90). -/
def newAtt (x : GcGrp) (d : Int) : Nat := (clampInt (x.att + d) 0 127).toNat

/-- The effective tick of a command decided now, on `TickUnit.count` (R90). -/
def effTick (s : State) (x : GcGrp) : Nat :=
  let mu := grpMu s x
  let st := if mu < s.tu.mu then 2 ^ (s.tu.mu - mu) else 1
  let n := absTick s + x.lead
  s.tu.count + x.lead + (st - n % st) % st

/-- Issues a command to every member range, each with the next SEQ of its port (R92, R93). GC_GRP_STAT.SEQ takes the first range's: R106 names one SEQ
where the ports' may differ. [log 101: DESIGN CHOICE] -/
def issueCmd (s : State) (g att kAt : Nat) (restore : Bool) : State :=
  let x := getGrp s g
  let (s, seqs) := x.memb.foldl (fun (a : State × Tab Nat) r =>
    let q := ((getFh a.1 r.2.port).gcSeq + 1) % 64
    (updFh a.1 r.2.port fun y => { y with gcSeq := q }, tset a.2 r.1 q)) (s, [])
  let c : GcCmd := { old := x.att, att := att, k := tickNo s kAt, kAt := kAt, seqs := seqs, acks := [], eff := false, restore := restore }
  updGrp s g fun y => { y with cmds := y.cmds ++ [c], lastAtt := att, seq := (seqs.head?.map fun e => e.2).getD y.seq }

/-- The group's pending commands: issued, not cancelled and not yet in effect. -/
def pendingCmds (x : GcGrp) : List GcCmd := x.cmds.filter fun c => !c.eff && !c.cxl

/-- Has the group a command pending? -/
def cmdPending (x : GcGrp) : Option GcCmd := (pendingCmds x).head?

/-- Commands whose effective tick has come take effect, and the filters start afresh (R90). [log 37: DEDUCED] -/
def gcTick (s : State) : State :=
  let l := s.gc.grps.map fun e =>
    let x := e.2
    match ((pendingCmds x).filter fun c => c.kAt ≤ s.tu.count).getLast? with
    | some c =>
      let cs := x.cmds.map fun d => if d.kAt ≤ s.tu.count then { d with eff := true } else d
      (e.1, { x with att := c.att, filt := [], since := s.tu.count, cmds := cs })
    | none => e
  { s with gc := { s.gc with grps := l } }

/-- A command waiting to be sent on a port: effective tick, group, range number, range, and the command. -/
def sendable (s : State) (m : Nat) : List (Nat × Nat × Nat × GcMemb × GcCmd) :=
  s.gc.grps.flatMap fun e => e.2.cmds.flatMap fun c =>
    if !c.cxl && (s.now : Int) < startOf s ((absTick s : Int) + c.kAt - s.tu.count) - s.gc.cxlMin then
      (e.2.memb.filter fun r => r.2.port == m && !c.acks.contains r.1).map fun r => (c.kAt, e.1, r.1, r.2, c)
    else []

/-- The GAIN bytes of a frame of port `m` (R92, R93): the sendable command of the earliest effective tick, else idle. Of two ranges of one group on the
port the lower goes first, until it is ACCEPTED. [log 38: DEDUCED] -/
def gainBytes (s : State) (m : Nat) : List Byte :=
  let best := (sendable s m).foldl (fun b c => match b with
    | none => some c
    | some d => if c.1 < d.1 then some c else some d) (none : Option (Nat × Nat × Nat × GcMemb × GcCmd))
  match best with
  | none => leBytes 0 16
  | some (_, g, i, r, c) =>
    let mu := grpMu s (getGrp s g)
    let n := c.k % ticksPerFrame s.tu.mu
    let sym := if mu ≤ s.tu.mu then n / 2 ^ (s.tu.mu - mu) else n * 2 ^ (mu - s.tu.mu)
    leBytes (1 + 4 * tget c.seqs 0 i) 1 ++ leBytes r.lo 2 ++ leBytes r.hi 2 ++ leBytes c.att 1 ++
      leBytes (c.k / ticksPerFrame s.tu.mu + 1024 * mu) 2 ++ leBytes sym 2 ++ leBytes 0 6

/-- A report of the radio unit on port `m` (R95, R96): ACCEPTED for a SEQ acknowledges that SEQ's range. [log 38: DEDUCED] -/
def gainReport (s : State) (m : Nat) (bs : List Byte) : State :=
  let b0 := ofLe (bs.take 1)
  let seq := fld b0 2 6
  if fld b0 0 2 = 1 ∧ ofLe ((bs.drop 6).take 1) = 1 then
    let l := s.gc.grps.map fun e =>
      let own := (e.2.memb.filter fun r => r.2.port == m).map fun r => r.1
      let cs := e.2.cmds.map fun c =>
        { c with acks := c.acks ++ own.filter fun i => tget c.seqs 64 i == seq && !c.acks.contains i }
      (e.1, { e.2 with cmds := cs })
    { s with gc := { s.gc with grps := l } }
  else s

/-! ### The Nose (R101 to R104) -/

/-- The sequence length of a context (R99, R101). -/
def nsSeqLen (c : NsCfg) : Nat :=
  match c.kind with
  | 0 => 839
  | 1 => if c.lseq = 0 then 139 else if c.lseq = 1 then 571 else 1151
  | 2 => if c.fmt < 4 then 839 else 139
  | _ => 48

/-- Members of a group: its antenna-carriers. -/
def grpMembers (x : GcGrp) : Nat := sumNat (x.memb.map fun r => r.2.hi - r.2.lo + 1)

/-- A context's load times 160 (R101). -/
def ctxLoad (s : State) (c : NsCfg) : Nat :=
  if c.valid && c.period != 0 then
    grpMembers (getGrp s c.grp) * c.npre * nsSeqLen c * c.nfdm * c.nocc * (160 / c.period)
  else 0

/-- The contexts of an engine. -/
def engCtxs (s : State) (e : Nat) : Tab NsCtx := s.gc.ctxs.filter fun x => x.1 / 128 == e

/-- The load of an engine times 160; NS_ENG_LOAD.LOAD is its whole part (R101). -/
def engLoad (s : State) (e : Nat) : Nat := sumNat ((engCtxs s e).map fun x => ctxLoad s x.2.cfg)

/-- The parts of a context's format (R99, R102): cyclic prefix, one sequence or repetition, how many of them, and guard period, in the sample
period of 15 kHz (64 Tc), as TS 38.211 and TS 36.211 give them; a NPRACH symbol group has its own prefix. [log 18: PRESUMED] -/
def fmtParts (c : NsCfg) : Nat × Nat × Nat × Nat :=
  match c.kind with
  | 0 => match c.fmt with
    | 0 => (3168, 24576, 1, 2976)
    | 1 => (21024, 24576, 2, 21904)
    | 2 => (4688, 24576, 4, 29264)
    | _ => (3168, 6144, 4, 2976)
  | 1 => match c.fmt with
    | 0x10 => (288, 2048, 2, 0)
    | 0x11 => (576, 2048, 4, 0)
    | 0x12 => (864, 2048, 6, 0)
    | 0x13 => (216, 2048, 2, 72)
    | 0x14 => (360, 2048, 4, 216)
    | 0x15 => (504, 2048, 6, 360)
    | 0x16 => (936, 2048, 12, 792)
    | 0x17 => (1240, 2048, 1, 1096)
    | _ => (2048, 2048, 4, 2912)
  | 2 => match c.fmt with
    | 0 => (3168, 24576, 1, 2976)
    | 1 => (21024, 24576, 1, 15840)
    | 2 => (6240, 24576, 2, 6048)
    | 3 => (21024, 24576, 2, 21984)
    | _ => (448, 4096, 1, 288)
  | _ => match c.fmt with
    | 0 => (0, 43008, 4, 0)
    | 1 => (0, 49152, 4, 0)
    | _ => (0, 98304, 6, 0)

/-- A time in sample periods of 15 kHz in Tc: NR short formats shrink with the carrier's numerology (R99). -/
def fmtTc (s : State) (c : NsCfg) (n : Nat) : Nat := if c.kind = 1 then n * 64 / 2 ^ grpMu s (getGrp s c.grp) else n * 64

/-- The format's duration in Tc, guard period included (R102). -/
def fmtDur (s : State) (c : NsCfg) : Nat :=
  let (cp, q, k, g) := fmtParts c
  fmtTc s c (cp + q * k + g)

/-- The sighting span in Tc (R102): the prefix and a quarter of the first sequence of a long format, else the first repetition or symbol group. -/
def fmtSpan (s : State) (c : NsCfg) : Nat :=
  let (cp, q, _, _) := fmtParts c
  fmtTc s c (cp + if nsSeqLen c = 839 then q / 4 else q)

/-- The number of the tick that contains the last Tc of a time of `tc` Tc that begins with tick number `n` (R14, R102). -/
def tickAfter (s : State) (n tc : Nat) : Nat :=
  let mu := s.tu.mu
  let j := n % ticksPerHalf mu
  let t := tickOffTc mu j + tc - 1
  let r := t % 983040
  let i := if r < normTc mu + 1024 then 0 else (r - 1024) / normTc mu
  (n - j + ticksPerHalf mu * (t / 983040) + i) % ticksPerCycle mu

/-- A burst's end tick (R102). -/
def endTick (s : State) (c : NsCfg) (start : Nat) : Nat := tickAfter s start (fmtDur s c)

/-- The tick at whose start an early sighting is raised (R102). -/
def sightTick (s : State) (c : NsCfg) (start : Nat) : Nat := (tickAfter s start (fmtSpan s c) + 1) % ticksPerCycle s.tu.mu

/-- Does an occasion of the context start with tick number `n` (R100)? The periods are counted from the start of SFN 0. [log 40: DESIGN CHOICE] -/
def isOccasion (s : State) (c : NsCfg) (n : Nat) : Bool :=
  let per := 2 * ticksPerHalf s.tu.mu
  decide (n < ticksPerCycle s.tu.mu) && c.occ.any fun o => n % (c.period * per) == o.1 * per + o.2

/-- The starts of the context's occasions whose bursts contain tick number `n` (R100, R103); the longest format lasts less than 20 ms. -/
def occsAt (s : State) (c : NsCfg) (n : Nat) : List Nat :=
  let cyc := ticksPerCycle s.tu.mu
  ((upFrom 0 (40 * ticksPerHalf s.tu.mu)).map fun d => (n + cyc - d) % cyc).filter fun o =>
    isOccasion s c o && decide ((n + cyc - o) % cyc ≤ (endTick s c o + cyc - o) % cyc)

/-- A context loses sections of an occasion (R103): the first loss of an occasion raises NS_IN_LOSS_EVT. Occasions that lie half a
cycle of SFN back are forgotten. -/
def loseOcc (s : State) (ctx o : Nat) : State :=
  let x := getCtx s ctx
  let l := x.loss.filter fun q => decide (s.tu.count < q + ticksPerCycle s.tu.mu / 2)
  if l.contains (countOf s o) then s
  else raiseOwner (setCtx s ctx { x with loss := l ++ [countOf s o] }) (noseOwner s ctx) 0x0500 ctx o

/-- A section of tick `tick` of an antenna-carrier goes unsearched on the engines whose buffer overflows (R103). -/
def nsLoss (s : State) (m a tick nOver : Nat) : State :=
  match grpOf s m a with
  | none => s
  | some g =>
    (upFrom 0 2).foldl (fun s e =>
      let l := (engCtxs s e).filter fun x => x.2.cfg.valid && x.2.cfg.grp == g
      if bit nOver e && !l.isEmpty then
        l.foldl (fun s x => (occsAt s x.2.cfg tick).foldl (fun s o => loseOcc s x.1 o) s) (bump s .nsInLoss e)
      else s) s

/-- The last tick of a burst's preamble, without the guard period (R99, R102). -/
def preTick (s : State) (c : NsCfg) (start : Nat) : Nat :=
  let (cp, q, k, _) := fmtParts c
  tickAfter s start (fmtTc s c (cp + q * k))

/-- Is the time of an occasion's final decision here (R102): the whole preamble has passed, and its burst's end tick lies at most 2 ticks back?
[log 39: DESIGN CHOICE] -/
def reportTime (s : State) (c : NsCfg) (start : Nat) : Bool :=
  decide (tickDist s (preTick s c start) < 0 ∧ -2 ≤ tickDist s (endTick s c start))

/-- Does a metric, in 8.8 fixed point, pass a threshold in 4.4 (R100, R102, R104)? [log 101: DESIGN CHOICE] -/
def passesThr (c : NsCfg) (metric : Nat) : Bool := decide (16 * c.thr ≤ metric)

/-- Writes a report record and raises its item (R104). `status` is STATUS of FLAGS. Where the write is refused or fails, SEQNO moves on and the item is
raised all the same. [log 39: DESIGN CHOICE] -/
def nsWrite (s : State) (b : Burst) (status : Nat) : State :=
  let x := getCtx s b.ctx
  let c := x.cfg
  let p := (noseOwner s b.ctx).getD 4
  let gs := (getGrp s c.grp).gstep.any fun k => decide (b.since ≤ k ∧ k ≤ b.upto)
  let fl := status % 4 + 4 * b2n gs + 8 * b2n (x.loss.contains b.since) + 16 * b.fo
  let rec_ := leBytes b.ctx 2 ++ leBytes b.pre 1 ++ leBytes fl 1 ++ leBytes b.start 4 ++ leBytes b.delay 4 ++
    leBytes (ofInt b.pwr 16) 2 ++ leBytes b.metric 2 ++ leBytes (ofInt b.noise 16) 2 ++ leBytes b.stop 4 ++
    leBytes b.att 1 ++ leBytes 0 1 ++ leBytes x.seqno 4 ++ leBytes 0 4
  let a := c.ring + 32 * (x.seqno % 2 ^ c.rsh)
  match memWrite s (some p) a rec_ with
  | (_, _, s') =>
    let s' := setCtx s' b.ctx { getCtx s' b.ctx with seqno := (x.seqno + 1) % 2 ^ 32 }
    (enqueueExt s' p
      { flow := c.flow, kind := 6, tag := BitVec.ofNat 64 (b.ctx + x.seqno * 2 ^ 32), arg0 := BitVec.ofNat 64 a, arg1 := 0 }).2.1

end Sys2Proof.Machine
end

