-- ==== Sys2Proof/Machine/FrameOps.lean ====
section
/-!
DEFINITION. Operations of the line frame: scrambling and parity (R56, R57), frame numbers (R53 to R55), overheads (R54, R59),
the egress buffer (R65, R66), local requests (R80), sections and packets (R64, R67, R68).
-/
namespace Sys2Proof.Machine

/-! ### Numbers -/

/-- Frame numbers SFN × 640 + FRIX wrap with the SFN (R71). -/
def nextNum (n : Nat) : Nat := (n + 1) % 655360

/-- The signed distance from frame `b` to frame `a`. -/
def numDist (a b : Nat) : Int :=
  let d := (a + 655360 - b) % 655360
  if d < 327680 then d else (d : Int) - 655360

/-- The frame number whose scheduled start the module's time base has reached (R53). [log 32: DEDUCED] -/
def frameNow (s : State) : Nat :=
  let rf := (s.tu.half : Int) - 500000 * (s.tu.tidx / ticksPerHalf s.tu.mu : Nat)
  (s.tu.sfn * 640 + ((s.now : Int) - rf).toNat / 15625) % 655360

/-! ### Scrambling and parity (R56, R57) -/

/-- The scrambler's state at byte 80 of a frame (R56). -/
def scrSeed (num : Nat) : Nat := 0x40000000 ||| (num / 640 * 1024) ||| (num % 640)

/-- One bit of the scrambler: the bit and the next state (R56). -/
def scrBit (s : Nat) : Bool × Nat :=
  let q := bit s 30 != bit s 27
  (q, (s * 2 + b2n q) % 2 ^ 31)

/-- The next `k` bits, bit 0 first, as a number. -/
def scrBits (s : Nat) : Nat → Nat × Nat
  | 0 => (0, s)
  | k + 1 =>
    let (q, s') := scrBit s
    let (v, s'') := scrBits s' k
    (b2n q + 2 * v, s'')

/-- A payload scrambled or descrambled (R56). -/
def scramble (s : Nat) : List Byte → List Byte
  | [] => []
  | b :: r =>
    let (k, s') := scrBits s 8
    (b ^^^ BitVec.ofNat 8 k) :: scramble s' r

/-- Bit-interleaved parity: the XOR of the bytes (R57). -/
def bip8 (bs : List Byte) : Nat := (bs.foldl (· ^^^ ·) 0).toNat

/-- An empty slot (R60). -/
def emptySlot : List Byte := leBytes 0 6 ++ leBytes (crc16 (leBytes 0 6)) 2 ++ leBytes 0 52

/-- The payload of a sent frame: its sections, and empty slots elsewhere (R53, R60). -/
def payloadOf (secs : Tab (List Byte)) : List Byte := (upFrom 0 3332).flatMap fun i => tget secs emptySlot i

/-- BIP8 of a frame as it went out on the line, scrambled under its numbers. -/
def sentBip (num : Nat) (secs : Tab (List Byte)) : Nat := bip8 (scramble (scrSeed num) (payloadOf secs))

/-! ### Overheads (R54, R55, R58, R59) -/

def fawBytes : List Byte := [0x3C, 0xB1, 0x5E, 0xC4]

/-- Byte `i` of an overhead. -/
def ohByte (oh : List Byte) (i : Nat) : Nat := (lget oh 0 i).toNat

/-- The frame number that an overhead states (R54, R55). -/
def ohNum (oh : List Byte) : Nat :=
  let mf := ohByte oh 5 + 256 * ohByte oh 6
  fld mf 4 10 * 640 + 64 * fld mf 0 4 + fld (ohByte oh 4) 0 6

/-- Is an overhead good (R55): its OHCRC checks and SUB is at most 9? -/
def ohGood (oh : List Byte) : Bool :=
  crc16 ((oh.drop 4).take 74) == ohByte oh 78 + 256 * ohByte oh 79 && fld (ohByte oh 5) 0 4 ≤ 9

/-- Does an overhead show AIS (R59, R73)? -/
def ohAis (oh : List Byte) : Bool := oh.length == 80 && (oh.drop 4).all fun b => b == 0xFF

/-- An overhead (R54). -/
def mkOverhead (num bip sr1 sr2 stat : Nat) (gain pkt : List Byte) : List Byte :=
  let frix := num % 640
  let b := leBytes (frix % 64) 1 ++ leBytes (frix / 64 + num / 640 * 16) 2 ++ leBytes bip 1 ++ leBytes sr1 1 ++ leBytes sr2 1 ++
    leBytes stat 1 ++ leBytes 0 5 ++ gain ++ pkt ++ leBytes 0 14
  fawBytes ++ b ++ leBytes (crc16 b) 2

/-- The overhead of an alarm indication (R59). -/
def aisOverhead : List Byte := fawBytes ++ leBytes (2 ^ 608 - 1) 76

/-! ### Gaps (R40 to R43) -/

/-- A gap header (R40). -/
def gapHeader (n : Nat) : List Byte :=
  leBytes 0xF0963C5A 4 ++ leBytes n 1 ++ leBytes (255 - n) 1 ++ leBytes n 1 ++ leBytes (255 - n) 1 ++ leBytes n 1 ++
    leBytes (255 - n) 1 ++ leBytes 0 6

/-- One vote of a gap header: the pair at byte `i` (R43). [log 27: DEDUCED] -/
def gapVote (h : List Byte) (i : Nat) : Option Nat :=
  let a := ohByte h i
  if a ≤ 2 ∧ ohByte h (i + 1) = 255 - a then some a else none

/-- n, where at least two valid votes agree (R43). [log 27: DEDUCED] -/
def gapRead (h : List Byte) : Option Nat :=
  let v := [gapVote h 4, gapVote h 6, gapVote h 8]
  [0, 1, 2].find? fun n => 2 ≤ (v.filter fun x => x == some n).length

/-! ### Requests (R78, R80, R83) -/

/-- The local request of a port: code and lane (R80, R85). [log 34: DEDUCED] -/
def localReq (s : State) (m : Nat) : Nat × Nat :=
  let p := getFh s m
  let w := laneFail s m 0
  let q := laneFail s m 1
  if p.cmd = 1 then (0xF, 0)
  else if (getLane s (2 * m)).rxFs then (0xD, 1)
  else if (getLane s (2 * m + 1)).rxFs then (0xD, 0)
  else if p.cmd = 2 then (0xD, p.cmdLane)
  else if w != q then (0xB, if w then 1 else 0)
  else if !w && !q && hasDef s (2 * m) 5 != hasDef s (2 * m + 1) 5 then (0x9, if hasDef s (2 * m) 5 then 1 else 0)
  else if p.cmd = 3 then (0x7, p.cmdLane)
  else (0, p.sel)

/-- A request that names a lane in signal fail counts as NR while the other lane is not, except under LO (R83). -/
def adjustReq (s : State) (m : Nat) (r : Nat × Nat) : Nat × Nat :=
  if r.1 ≠ 0xF ∧ laneFail s m r.2 ∧ laneFail s m (1 - r.2) = false then (0, (getFh s m).sel) else r

/-- The effective request (R82, R83): the remote one counts only where both ends work bidirectionally. [log 34: DEDUCED] -/
def effReq (s : State) (m : Nat) : Nat × Nat :=
  let p := getFh s m
  let l := adjustReq s m (localReq s m)
  match p.remote with
  | some r =>
    let q := adjustReq s m (r.req, r.lane)
    if p.bidir && r.bidir && l.1 < q.1 then q else l
  | none => l

/-- Raises FH_PROT_EVT (R82, R84). -/
def protEvt (s : State) (m num old new_ req : Nat) (mis : Bool) : State :=
  raiseOwner s (fhOwner s m) 0x0301 (m + num * 2 ^ 8 + old * 2 ^ 28 + new_ * 2 ^ 29 + req * 2 ^ 32 + b2n mis * 2 ^ 36) 0

/-- R82: where the accepted SR2.BIDIR differs from the local mode, MISMATCH is set and FH_PROT_EVT raised. The event carries frame `num`, the selection as
old and new lane, and the effective request. [log 34: DEDUCED] -/
def modeCheck (s : State) (m num : Nat) : State :=
  let p := getFh s m
  match p.remote with
  | some r =>
    if r.bidir == p.bidir then s
    else protEvt (setFh s m { p with mismatch := true }) m num p.sel p.sel (effReq s m).1 true
  | none => s

/-! ### The egress buffer (R65, R66) -/

/-- A section in the form in which the framer sends it: HCRC in bytes 6 and 7 (R65). -/
def withHcrc (bs : List Byte) : List Byte := bs.take 6 ++ leBytes (crc16 (bs.take 6)) 2 ++ (bs.drop 8).take 52

/-- Does a section's header fit its stream (R64, R65)? -/
def fitsStream (h : SecHdr) (c : StreamCfg) (down : Bool) : Bool :=
  c.valid && c.down == down && h.typ == (if c.v8 then 2 else 1) && h.nprb ≤ (if c.v8 then 1 else 3)

/-- Takes a write into the egress buffer, its window fixed now (R66), or refuses it (R65). [log 35: DEDUCED] -/
def egAccept (s : State) (m : Nat) (bs : List Byte) : State :=
  let h := secHdr (withHcrc bs)
  let c := (getStream s m h.acid).cfg
  if bs.length ≠ 64 ∨ fitsStream h c true = false then bump s .fhTxFmt m
  else
    let w := streamWindow s c (nearSym (carrierSym s c.mu s.now) h.sym)
    updFh s m fun p => { p with eg := p.eg ++ [{ bytes := withHcrc bs, open_ := ofInt w.1 32, close := ofInt w.2 32 }] }

/-- Writes that flow control held enter the buffer as it empties (R65). [log 35: DEDUCED] -/
def egRefill (s : State) (m : Nat) : Nat → State
  | 0 => s
  | f + 1 =>
    let p := getFh s m
    match p.egWait with
    | [] => s
    | b :: r => if p.eg.length < 4096 then egRefill (egAccept (setFh s m { p with egWait := r }) m b) m f else s

/-! ### Packets of the packet channel (R67, R68) -/

/-- Delivers a received packet (R68). -/
def pktDeliver (s : State) (m : Nat) (bs : List Byte) (stamp : Nat) : State :=
  let n := bs.length
  let body := bs.take (n - 4)
  let p := getFh s m
  if n < 64 ∨ 1536 < n ∨ bs.drop (n - 4) ≠ fcsOf body then bump s .fhPktDrop m
  else if (etherParse body).1 = 0x88F7 then ptpIn s body m (extendNs s stamp)
  else
    match fhOwner s m with
    | some q =>
      if p.pktEn then
        deliverFrame s (4 + q) q body fun a =>
          { flow := p.pktFlow, kind := 3, tag := 0, arg0 := BitVec.ofNat 64 a
            arg1 := BitVec.ofNat 64 (body.length + m * 2 ^ 16 + stamp * 2 ^ 32) }
      else bump s .fhPktDrop m
    | none => bump s .fhPktDrop m

/-- Takes the chunk of a good overhead (R67). A COUNT above 31, which no chunk may carry, is taken as 31, and a chunk is idle by its byte 32 alone:
the spec gives neither case. [log 100: DESIGN CHOICE] -/
def pktChunk (s : State) (m : Nat) (chunk : List Byte) (stamp : Nat) : State :=
  let p := getFh s m
  let c := ohByte chunk 0
  let body := (chunk.drop 1).take (min 31 (c % 64))
  let fin := fun (s : State) (bs : List Byte) (t : Nat) =>
    if bit c 6 then pktDeliver (updFh s m fun x => { x with pktRx := none }) m bs t
    else updFh s m fun x => { x with pktRx := some (bs, t) }
  if bit c 7 then
    let s := if p.pktRx.isSome then bump s .fhPktDrop m else s
    fin s body stamp
  else
    match p.pktRx with
    | some (bs, t) => fin s (bs ++ body) t
    | none => if c = 0 then s else bump s .fhPktDrop m

/-- A frame whose overhead is not good discards the packet in progress (R55). [log 35: DEDUCED] -/
def pktBreak (s : State) (m : Nat) : State :=
  let p := getFh s m
  if p.pktRx.isSome then bump (setFh s m { p with pktRx := none }) .fhPktDrop m else s

/-! ### Received sections (R63, R64) -/

/-- The stamp of slot `i` of a frame that started at `t` (R63). -/
def slotStamp (t i : Nat) : Nat := (t + (80 + 60 * i) * 80 / 1028) % 2 ^ 32

/-- Writes the records of an accepted section into its stream's ring (R64). [log 35: DEDUCED] -/
def writeRecs (s : State) (m : Nat) (h : SecHdr) (c : StreamCfg) (sym : Nat) (close : Nat) : List (Nat × List Byte) → State
  | [] => s
  | (j, r) :: l =>
    let prb := h.prb + j
    let e : RecDone := { acid := h.acid, sym := sym, prb := prb, close := close }
    let dup := (getFh s m).written.contains e
    let a := c.base + sym % c.ring * c.stride + prb * recBytes c.v8
    match memWrite s (some ((fhOwner s m).getD 4)) a r with
    | (_, _, s') =>
      let s' := if dup then bump s' .fhDup m else updFh s' m fun p => { p with written := p.written ++ [e] }
      writeRecs s' m h c sym close l

/-- Handles one slot of a released frame (R64); `over`: the Nose engines whose buffer overflows (R103). -/
def takeSection (s : State) (m lead i nOver : Nat) (bs : List Byte) : State :=
  let h := secHdr bs
  if !h.ok then bump s .fhHcrcErr m
  else if h.typ = 0 then s
  else
    let c := (getStream s m h.acid).cfg
    if !fitsStream h c false || h.prb + h.nprb + 1 > c.nprb then bump s .fhUnk m
    else
      let t := slotStamp lead i
      let sym := nearSym (carrierSym s c.mu (extendNs s t)) h.sym
      let w := streamWindow s c sym
      if isEarly t w.1 then bump s .fhEarly m
      else if isLate t w.2 then bump s .fhLate m
      else
        let recs := (upFrom 0 (h.nprb + 1)).map fun j => (j, prbRec c.v8 bs j)
        let tick := (symTick s c.mu sym % (ticksPerCycle s.tu.mu : Int)).toNat
        let s := writeRecs s m h c (sym % (ticksPerCycle c.mu : Int)).toNat (ofInt w.2 32) recs
        nsLoss (gcMeasure s m h.acid sym tick c.v8 (recs.map fun r => r.2)) m h.acid tick nOver

/-- The slots of a payload, in order. -/
def slotsOf (bs : List Byte) : List (List Byte) := chunksOf 60 3332 bs

/-- Handles the slots of a released frame in slot order. -/
def takeSections (s : State) (m lead nOver : Nat) : Nat → List (List Byte) → State
  | _, [] => s
  | i, b :: r => takeSections (takeSection s m lead i nOver b) m lead nOver (i + 1) r

end Sys2Proof.Machine
end

