-- ==== Sys2Proof/Machine/PwrOps.lean ====
section
/-!
DEFINITION. Interrupts pending at a core (R123), the wake conditions of R354, and requests to wake a domain (R353, R358).
-/
namespace Sys2Proof.Machine

/-! ### Sensors and domain states -/

/-- A sensor's reading in 1/16 °C. -/
def tempOf (s : State) (i : Nat) : Int := tget s.th.temps 0 i

/-- The hottest of some sensors, the lowest-numbered of equals. -/
def hottest (s : State) (l : List Nat) : Nat := l.foldl (fun b i => if tempOf s b < tempOf s i then i else b) (l.headD 0)

/-- TH_STAT.HOT and HOTS (R381). -/
def hotSensor (s : State) : Nat := hottest s (upFrom 0 96)

/-- PWR_DOM_STAT.STATE (R360). -/
def domCode (st : DomState) : Nat :=
  match st with
  | .awake => 0
  | .s1 => 1
  | .s2 => 2
  | .s3 => 3
  | .entering => 4
  | .waking => 5
  | .failed => 6

/-! ### HZ_IP (R123) -/

/-- TMR is pending while HZ_TCMP.EN = 1 and int32(HZ_NOWNS - CMP) ≥ 0. -/
def tmrPending (s : State) (x : Core) : Bool := x.tcmpEn && decide (0 ≤ int32 (nsCounter s) x.tcmp)

/-- Is a DMA channel's completion pending for core `c`: DONE or AERR set on a channel enabled for it (R123, R253)? -/
def dmaPending (s : State) (c : Nat) : Bool :=
  s.dma.any fun e => (e.2.done || e.2.aerr) && e.2.irqEn && e.2.core == c

/-- HZ_IP of core `c`: the stored bits, and TMR, DV and DMA read from their sources. -/
def ipOf (s : State) (c : Nat) : Nat :=
  let x := getCore s c
  x.ip + 2 * b2n (tmrPending s x) + 4 * b2n (!(stagedOn s c).isEmpty) + 8 * b2n (dmaPending s c)

/-- Is there a wake condition at core `c`: a bit set in both HZ_IE and HZ_IP, or a work-item abort (R136)? [log 78: DEDUCED] -/
def wakeCond (s : State) (c : Nat) : Bool :=
  let x := getCore s c
  (x.ieMask &&& ipOf s c) != 0 || !x.abQ.isEmpty || !x.abHeld.isEmpty

/-! ### Refusals and wakes of a domain -/

/-- Records a refusal or abort of an entry (R359). [log 77: DEDUCED] -/
def noteRefusal (s : State) (d code : Nat) (abort : Bool) (target : Nat) : State :=
  let s := bump s .pwrRef (8 * d + code)
  let s := if abort then bump s .pwrAbort d else s
  updDom s d fun x => { x with lastRef := code, lastAbort := abort, lastTarget := target, lastV := true, lastN := absTick s }

/-- Records a refusal of a PWR_SET that asks for no sleep state, or that no refuser counter counts (R356, R359, R374). The spec states no TARGET for
one without a sleep state: a free value. [log 77: DEDUCED] -/
def noteOther (s : State) (d code : Nat) (target : Option Nat) : State :=
  let (v, s) := takeFree s 2
  updDom s d fun x =>
    { x with lastRef := code, lastAbort := false, lastTarget := target.getD v, lastV := true, lastN := absTick s }

/-- A PWR_SET entry request is withdrawn by a wake condition before acceptance (R353): REFUSED with the code. -/
def withdrawSet (s : State) (d code : Nat) : State :=
  match (getDom s d).reqSet with
  | none => s
  | some (t, h) =>
    let s := updDom s d fun x => { x with reqSet := none }
    replyLater (noteRefusal s d code false t) h 0x09 (one code)

/-- A request to wake domain `d` (R354, R358). `deep`: it is one of the causes that wake a domain in S3 as well. `code`: the refuser
that a withdrawn PWR_SET request is answered with. -/
def wakeReq (s : State) (d : Nat) (deep : Bool) (code : Nat) : State :=
  let x := getDom s d
  if s.th.trip || s.su.fail.isSome then s
  else match x.state with
  | .s1 => setDom s d { x with state := .waking, since := upNs s }
  | .s2 => setDom s d { x with state := .waking, since := upNs s }
  | .s3 => if deep then setDom s d { x with state := .waking, since := upNs s } else s
  | .entering => if x.target = 3 ∧ deep = false then s else setDom s d { x with wakePend := true }
  | .awake => withdrawSet s d code
  | _ => s

/-- Acts on a wake condition that may have arisen at a core: it asks for the wake of the core's domain, or withdraws a request. -/
def signalCore (s : State) (c : Nat) : State :=
  if wakeCond s c then
    match coreDom c with
    | some d => wakeReq s d false 1
    | none => s
  else s

/-- Sets a stored bit of HZ_IP, and wakes the core's domain if it is enabled. -/
def setIp (s : State) (c i : Nat) : State := signalCore (updCore s c fun x => { x with ip := setBit x.ip i true }) c

/-- Aims a work-item abort at a core (R127, R354). [log 78: DEDUCED] -/
def abortCore (s : State) (c : Nat) (tag : Word) : State := signalCore (sendAbort s c tag) c

/-- Withdraws or aborts an item that is dropped at its deadline (R30) or cancelled (R216): a waiting item is withdrawn, a running one
is withdrawn from its core, which takes the work-item abort. -/
def abortItem (s : State) (it : Item) (code : Nat) : State :=
  match it.place with
  | .running c => noteIdle (withdraw (abortCore s c it.tag) it code) c
  | _ => withdraw s it code

end Sys2Proof.Machine
end

