-- ==== Sys2Proof/Machine/TickOps.lean ====
section
/-!
DEFINITION. Operations of the tick sequencer: capacity (R23), injection (R21, R32), overruns (R29 to R31) and run times (R429).
-/
namespace Sys2Proof.Machine

/-- The frequency of a performance level in tenths of 2.0 GHz (R23, R347). -/
def levelTenths (pl : Nat) : Nat := if pl = 0 then 10 else if pl = 1 then 8 else if pl = 2 then 6 else 4

/-- Weight × frequency × throttle of a core, in units of 1 / (16 × 10 × 64) of a whole core at 2.0 GHz (R23).
The level is that of the latest tick start (R24). R23 gives the clock and throttle of Chisel cores only; a Bench core, which lies in the always-on area,
is counted at 2.0 GHz and unthrottled. [log 99: DESIGN CHOICE] -/
def coreRate (s : State) (c : Nat) : Nat :=
  let w := (getCore s c).weight
  match coreDom c with
  | some d => w * levelTenths (getDom s d).plCap * (getDom s d).thr
  | none => w * 10 * 64

/-- A partition's capacity per tick in nominal cycles (R23). -/
def capacity (s : State) (p : Nat) : Nat :=
  sumNat (((upFrom 0 96).filter fun c => ownsCore s p c).map fun c => coreRate s c) * (2 * normTc s.tu.mu * 3125) / (10240 * 6144)

/-- The capacity at the configured performance levels with no throttling (R20, reason 16). The configured level is the one in force, also while a change
of level is in progress, held or recorded for a wake. [log 99: DESIGN CHOICE] -/
def fullCapacity (s : State) (p : Nat) : Nat :=
  sumNat (((upFrom 0 96).filter fun c => ownsCore s p c).map fun c =>
    (getCore s c).weight * (match coreDom c with | some d => levelTenths (getDom s d).pl | none => 10) * 64) *
    (2 * normTc s.tu.mu * 3125) / (10240 * 6144)

/-- A run of `t` ns on core `c` in nominal cycles (R429). -/
def runCycles (s : State) (c t : Nat) : Nat := t * 2 * coreRate s c / 10240

/-- A bank's slot. -/
def slotOf (b : TickBank) (slot : Bool) : Option Plan := if slot then b.slotB else b.slotA

/-- The active plan and the standby plan. -/
def activePlan (b : TickBank) : Option Plan := slotOf b b.active
def standbyPlan (b : TickBank) : Option Plan := slotOf b (!b.active)

/-- Word 2 of TICK_OVR, TICK_ESC_DROP and TICK_INJ_FAIL (R320). -/
def ovrWord (n : Nat) (slot : Bool) (idx st core policy : Nat) : Nat :=
  n % 2 ^ 21 + b2n slot * 2 ^ 21 + idx % 2 ^ 14 * 2 ^ 22 + st % 16 * 2 ^ 36 + core % 128 * 2 ^ 40 + policy % 4 * 2 ^ 48

/-- The counter of an overrun policy (R29, R34). -/
def policyCtr (policy : Nat) : Counter :=
  if policy = 0 then .tickOvrDrop else if policy = 1 then .tickOvrDeg else .tickOvrEsc

/-- What a trigger hands to Dovetail (R207, kind 1). -/
def triggerItem (n idx : Nat) (slot : Bool) (e : PlanEntry) : NewItem :=
  { flow := e.flow, kind := 1, prio := some e.prio, tag := e.tag
    arg0 := BitVec.ofNat 64 (n % 2 ^ 21 + idx % 2 ^ 14 * 2 ^ 32 + b2n slot * 2 ^ 48)
    arg1 := BitVec.ofNat 64 (e.budget % 2 ^ 24 + (if e.must then (n + e.deadline + 1) % 2 ^ 21 * 2 ^ 32 else 0))
    budget := some e.budget }

/-- Adds a deadline window to a partition's bank. -/
def addWin (s : State) (p : Nat) (w : DlWin) : State :=
  setTick s p { getTick s p with wins := (getTick s p).wins ++ [w] }

/-- Injects a plan entry (R21): an accepted MUST entry opens its deadline window; a refusal is TICK_INJ_FAIL, an immediate overrun of a
MUST entry under its policy (R32). `fuel` bounds the fallback of a refused degrade entry. -/
def inject (s : State) (p : Nat) (slot : Bool) (idx : Nat) (e : PlanEntry) (fb : Option (Nat × PlanEntry)) : Nat → State
  | 0 => s
  | fuel + 1 =>
    let n := absTick s
    match enqueue s p (triggerItem n idx slot e) with
    | (0, s', some it) =>
      if e.must then
        addWin s' p { slot := slot, idx := idx, entry := e, trigN := n, closeAt := s'.tu.count + e.deadline + 1, item := it.id,
                      grace := false, fb := if e.policy = 1 then fb else none }
      else s'
    | (r, s', _) =>
      let s' := bump s' .tickInjFail p
      let s' := raisePart s' p 0x0102 (ovrWord n slot idx r 0 e.policy) e.tag.toNat
      if e.must then
        let s' := bump s' (policyCtr e.policy) p
        if e.policy = 1 then
          match fb with
          | some (i, f) => inject s' p slot i f none fuel
          | none => s'
        else s'
      else s'

/-- The next entry of the current index that is not a fallback (R21), with its position. -/
def nextEntry (b : TickBank) : Option (Nat × PlanEntry) :=
  match activePlan b with
  | none => none
  | some pl =>
    (List.zip (upFrom 0 pl.entries.length) pl.entries).find? fun e => b.injNext ≤ e.1 && e.2.tick == b.idx && !e.2.fb

/-- The fallback that a degrade entry names in its plan (R19, R30). -/
def fallbackOf (pl : Plan) (e : PlanEntry) : Option (Nat × PlanEntry) :=
  if e.policy = 1 then (pl.entries[e.fallback]?).map fun f => (e.fallback, f) else none

/-- TICK_PLAN_NEED: the need of the active plan, 0 without one. -/
def needOf (b : TickBank) : Nat := ((activePlan b).map fun x => x.need).getD 0

/-- Recomputes a partition's capacity and raises TICK_CAP_LOW or TICK_CAP_OK on a crossing (R24). TICK_PLAN_IDX and CAP_LOW follow a load or clear of
the active slot at the next tick start. [log 99: DESIGN CHOICE] -/
def capCheck (s : State) (p : Nat) : State :=
  let b := getTick s p
  if (getPart s p).st = .none then setTick s p { b with capNow := 0, capLow := false }
  else
    let cap := capacity s p
    let low := decide (cap < needOf b)
    let s := setTick s p { b with capNow := cap, capLow := low }
    if low && !b.capLow then raisePart s p 0x0104 cap (needOf b)
    else if !low && b.capLow then raisePart s p 0x0105 cap (needOf b)
    else s

/-- The plan index of the current tick (R21). [log 99: DESIGN CHOICE] -/
def planIdx (s : State) (p : Nat) : State :=
  let b := getTick s p
  match activePlan b with
  | some pl => setTick s p { b with idx := absTick s % pl.len, injNext := 0 }
  | none => setTick s p { b with idx := 0, injNext := 0 }

/-- At the tick N of a pending start or switch the new slot becomes active, and TICK_PLAN_SWITCH names N (R22, R318). [log 23: DEDUCED] -/
def settleSwitch (s : State) (p : Nat) : State :=
  let b := getTick s p
  match b.pend with
  | none => s
  | some q =>
    if q.atCount ≤ s.tu.count then
      let s := setTick s p { b with active := q.slot, run := true, pend := none, stopping := false }
      let s := planIdx s p
      capCheck (raisePart s p 0x0103 (q.n + b2n q.slot * 2 ^ 21) 0) p
    else s

/-- The next trigger of a partition's plan is discarded, its entry being unusable: an injection failure under R32 (R394). The spec gives no R209
reason for it: a free value. [log 24: DESIGN CHOICE] -/
def loseTrigger (s : State) (p : Nat) : State :=
  let s := settleSwitch s p
  let b := getTick s p
  match b.run, activePlan b, nextEntry b with
  | true, some pl, some (i, e) =>
    let s := setTick s p { b with injNext := i + 1 }
    let (r, s) := takeFree s 4
    let s := bump s .tickInjFail p
    let s := raisePart s p 0x0102 (ovrWord (absTick s) b.active i r 0 e.policy) e.tag.toNat
    if e.must then
      let s := bump s (policyCtr e.policy) p
      match fallbackOf pl e with
      | some (j, f) => inject s p b.active j f none 1
      | none => s
    else s
  | _, _, _ => s

/-- The state and core that an overrun reports of an item: 0 queued or staged, 1 dispatched (R320). -/
def ovrState (it : Item) : Nat × Nat := match it.place with | .running c => (1, c) | _ => (0, 0)

/-- Removes a window from a partition's bank. -/
def removeWin (s : State) (p : Nat) (w : DlWin) : State :=
  setTick s p { getTick s p with wins := (getTick s p).wins.filter fun x => x != w }

/-- The overrun of an item whose deadline window has closed, under its policy (R29, R30). -/
def overrun (s : State) (p : Nat) (w : DlWin) : State :=
  match itemById s w.item with
  | none => removeWin s p w
  | some it =>
    let (st, c) := ovrState it
    let e := w.entry
    let s := removeWin s p w
    let s := raisePart s p 0x0100 (ovrWord w.trigN w.slot w.idx st c e.policy) e.tag.toNat
    let s := bump s (policyCtr e.policy) p
    if e.policy = 0 then abortItem s it 0x80
    else if e.policy = 1 then
      let s := abortItem s it 0x80
      match w.fb with
      | some (i, f) => inject s p w.slot i f none 1
      | none => s
    else addWin s p { w with grace := true, closeAt := w.closeAt + (getTick s p).grace }

/-- The drop of an escalated item at the end of its grace (R30). -/
def escDrop (s : State) (p : Nat) (w : DlWin) : State :=
  match itemById s w.item with
  | none => removeWin s p w
  | some it =>
    let (st, c) := ovrState it
    let s := removeWin s p w
    let s := raisePart s p 0x0101 (ovrWord w.trigN w.slot w.idx st c w.entry.policy) w.entry.tag.toNat
    abortItem s it 0x80

/-- The windows of a partition that have closed, in their deadline (`grace = false`) or their grace phase. -/
def closedWins (s : State) (p : Nat) (grace : Bool) : List DlWin :=
  (getTick s p).wins.filter fun w => w.grace == grace && w.closeAt ≤ s.tu.count

/-- The window that closed first, and of one tick start that of the lowest entry index (R31: its overruns are raised in plan entry order). -/
def firstWin (l : List DlWin) : Option DlWin :=
  l.foldl (fun b w => match b with
    | none => some w
    | some x => if w.closeAt < x.closeAt ∨ (w.closeAt = x.closeAt ∧ w.idx < x.idx) then some w else some x) none

/-- The overruns of the windows that have closed, in their order, and then the drops of the graces that have ended; `fuel` bounds them. -/
def settleWins (s : State) (p : Nat) : Nat → State
  | 0 => s
  | n + 1 =>
    match firstWin (closedWins s p false) with
    | some w => settleWins (overrun s p w) p n
    | none =>
      match firstWin (closedWins s p true) with
      | some w => settleWins (escDrop s p w) p n
      | none => s

/-- A deadline or grace of the item that has already closed acts before anything later happens to the item: the half-open rule
makes a release in the same cycle late (R29, R31). The other windows of the partition that have closed act with it, in their order. [log 55: DEDUCED] -/
def settleItem (s : State) (p : Nat) (it : Item) : State :=
  let l := (getTick s p).wins
  if l.any fun w => w.item == it.id && w.closeAt ≤ s.tu.count then settleWins s p l.length else s

end Sys2Proof.Machine
end

