-- ==== Sys2Proof/Machine/NocOps.lean ====
section
/-!
DEFINITION. Ports, routes and answers of the Spline fabric (10_spline_fabric R221 to R237, R242; 18_faults_and_ordering R396).
-/
namespace Sys2Proof.Machine

/-! ### Ports (R221, R222) -/

/-- The power domain of a port's agent; none in an always-on area (R345). -/
def portDom (q : Nat) : Option Nat :=
  if q < 144 then
    match portCore q with
    | some c => coreDom c
    | none => if q % 72 % 3 = 2 then some (9 * (q / 72) + 8) else none
  else if q < 148 then some 18
  else if q < 152 then some 19
  else if q < 154 then some 20
  else if q = 158 then some 21
  else none

/-- The DMA channel that SUBSRC `sub` names at a port (R221, R224, R244). -/
def portDma (q sub : Nat) : Option Nat :=
  if sub < 16 ∨ 32 ≤ sub then none
  else
    let k := match portCore q with
      | some c => 16 * (c / 4) + (sub - 16)
      | none => 16 * (24 + (q - 154)) + (sub - 16)
    if (154 ≤ q ∧ q < 158) ∨ (((portCore q).map isChisel) = some true ∧ dmaPort k = q) then some k else none

/-- Is SUBSRC `sub` an agent of the port (R221, R224): its core or unit, a DMA channel that injects there, or a jig instance? -/
def agentAt (q sub : Nat) : Bool :=
  if sub = 0 then !(154 ≤ q && q < 158)
  else if sub < 32 then (portDma q sub).isSome
  else q < 144 && q % 72 < 24 && q % 3 = 1 && (q % 72 / 3 == sub - 32)

/-- The jobs that run on the jig instance that SUBSRC `sub` names at a port (R221, R224), one class each. -/
def jigJobs (s : State) (q sub : Nat) : List JgRun :=
  if sub < 32 then [] else s.jig.running.filter fun r => r.job.die == q / 72 && r.inst == sub - 32

/-- Is `part` a partition on whose behalf an agent can send: of a framer, a backhaul pair or the Nose and gain pair one that owns some of it, of a jig
instance that of its running job? The PART of the other agents does not depend on it. [log 15: DESIGN CHOICE] -/
def servesPart (s : State) (q sub part : Nat) : Bool :=
  if 32 ≤ sub then (jigJobs s q sub).any fun r => r.job.part == part
  else if 144 ≤ q ∧ q < 152 then (upFrom (4 * (q - 144)) 4).any fun m => fhOwner s m == some part
  else if q = 152 ∨ q = 153 then (upFrom (2 * (q - 152)) 2).any fun n => bpOwner s n == some part
  else if q = 158 then (upFrom 0 256).any fun i => gainOwner s i == some part || noseOwner s i == some part
  else true

/-- The domain of the jig instance that sends for a partition (R203). -/
def senderDom (s : State) (q sub part : Nat) : Option Nat :=
  ((jigJobs s q sub).find? fun r => r.job.part == part).map fun r => jigDom r.job.die r.job.cls

/-- The partition stamped into a packet (R224): the owner of the core or DMA channel, `part` where the agent serves several partitions, none for
the MC. -/
def portPart (s : State) (q sub part : Nat) : Option Nat :=
  match portDma q sub with
  | some k => some (dmaPart s k)
  | none =>
    match portCore q with
    | some c => corePart s c
    | none => if q = 159 then none else some part

/-- Every resource of a lost compute die is out of service (R399, step 5): its channels, its clusters and its cores; what its Bench caches held is gone.
[log 84: DEDUCED] -/
def markLost (s : State) (d : Nat) : State :=
  let put := fun (m a n : Nat) => (upFrom a n).foldl (fun m i => setBit m i true) m
  { s with
    benchCache := s.benchCache.filter fun e => coreDie e.2.core != d
    flt := { s.flt with
      chOut := put s.flt.chOut (8 * d) 8, clOut := put s.flt.clOut (12 * d) 12
      coreState := ((upFrom 0 112).filter fun c => coreDie c == d).foldl (fun t c => tset t c 3) s.flt.coreState } }

/-- The STATUS that a closed gate or a lost die answers at a port; 0 where it is open. [log 56: DEDUCED] -/
def portGate (s : State) (q : Nat) : Nat :=
  if dieOut s (portDie q) then 4 else gateStatus s (portDom q)

/-- The gate that an agent's packet leaves by (R234): its port's, of a jig instance that of its domain. -/
def sendGate (s : State) (q : Nat) (p : Pkt) : Nat :=
  match p.jigDom with
  | some d => if dieOut s (portDie q) then 4 else gateStatus s (some d)
  | none => portGate s q

/-! ### Routes (R228): an entry is 0 to 2 a local port, 3 and 4 towards higher and lower x, 5 and 6 towards higher and lower y, 7 the column's
bundle by SRC mod 2 (or the peer bundle), 8 and 9 its bundles k = 0 and 1 -/

/-- The number of a router. -/
def routerNo (die x y : Nat) : Nat := 24 * die + 8 * y + x

/-- One step along x, then along y. -/
def stepXY (x y tx ty : Nat) : Nat := if x < tx then 3 else if tx < x then 4 else if y < ty then 5 else 6

/-- The default table entry of a router for a destination port. -/
def defaultRoute (die x y dest : Nat) : Nat :=
  let d' := portDie dest
  let (tx, ty) := portXY dest
  if die = d' then
    if x = tx ∧ y = ty then (if dest < 144 then dest % 72 % 3 else 0) else stepXY x y tx ty
  else
    let row := if die = 2 then d' else if d' = 2 then 0 else 2
    if x = tx ∧ y = row then 7 else stepXY x y tx row

/-- The entry in force under an epoch. -/
def routeOf (s : State) (epoch : Bool) (die x y dest : Nat) : Nat :=
  tget s.noc.routes (defaultRoute die x y dest) (b2n epoch * 2 ^ 20 + routerNo die x y * 2 ^ 10 + dest)

/-- The die crossing of a path: its bundle and direction (0 towards the IOD or CD1), walking the tables from a router. -/
def crossing (s : State) (epoch : Bool) (src dest die x y : Nat) : Nat → Option (Nat × Nat)
  | 0 => none
  | f + 1 =>
    match routeOf s epoch die x y dest with
    | 3 => crossing s epoch src dest die (x + 1) y f
    | 4 => crossing s epoch src dest die (x - 1) y f
    | 5 => crossing s epoch src dest die x (y + 1) f
    | 6 => crossing s epoch src dest die x (y - 1) f
    | e =>
      if e < 3 then none
      else
        let k := if e = 7 then src % 2 else e - 8
        if die = 2 then some (16 * y + 2 * x + k, 1)
        else if y = 2 then some (32 + x, die)
        else some (16 * die + 2 * x + k, 0)

/-- The crossing of a packet. -/
def pktCrossing (s : State) (p : Pkt) : Option (Nat × Nat) :=
  if portDie p.src = portDie p.dest then none
  else
    let (x, y) := portXY p.src
    crossing s p.epoch p.src p.dest (portDie p.src) x y 32

/-- Is the bundle up in both directions (R242)? -/
def bundleUp (s : State) (b : Nat) : Bool := 2 ≤ (getLink s (2 * b)).state && 2 ≤ (getLink s (2 * b + 1)).state

/-- Must a packet from one port to another cross a bundle that is down (R242)? -/
def pathDown (s : State) (src dest : Nat) : Bool :=
  portDie src != portDie dest &&
    match crossing s (getPort s src).epoch src dest (portDie src) (portXY src).1 (portXY src).2 32 with
    | some (b, _) => !bundleUp s b
    | none => false

/-- Does the packet still have to cross a bundle that is down? Then the direction it waits at. -/
def blockedAt (s : State) (p : Pkt) : Option Nat :=
  if p.crossed then none
  else match pktCrossing s p with
    | some (b, dir) => if bundleUp s b then none else some (2 * b + dir)
    | none => none

/-! ### Commands and classes (R225) -/

/-- The class of a command; 4 for a reserved one. -/
def cmdClass (cmd : Nat) : Nat :=
  if 1 ≤ cmd ∧ cmd ≤ 3 then 0 else if 0x10 ≤ cmd ∧ cmd ≤ 0x14 then 1 else if cmd = 0x20 ∨ cmd = 0x21 then 2
  else if 0x30 ≤ cmd ∧ cmd ≤ 0x32 then 3 else 4

/-- The units of a packet: its header and its data units (R223). -/
def pktUnits (cmd len status : Nat) : Nat :=
  1 + (if cmd = 2 ∨ cmd = 0x20 ∨ cmd = 0x21 ∨ (cmd = 0x10 ∧ status = 0) then (len + 63) / 64 else if cmd = 0x30 then 1 else 0)

/-- The answer due to a command (R225). -/
def dueAnswer (cmd : Nat) : Nat :=
  match cmd with
  | 1 => 0x10
  | 2 => 0x11
  | 3 => 0x12
  | _ => 0x13

/-- The header unit of a packet as a number, HCRC included (R224); a command's OPND stands in bits 255:128. [log 93: DESIGN CHOICE] -/
def headerWord (p : Pkt) : Nat :=
  let h := p.dest + p.src * 2 ^ 8 + p.subsrc * 2 ^ 16 + p.cls * 2 ^ 22 + p.cmd * 2 ^ 24 + b2n p.epoch * 2 ^ 30 + p.addr * 2 ^ 32 + p.len * 2 ^ 80 +
    p.seq * 2 ^ 96 + p.status * 2 ^ 108 + p.part.getD 0 % 4 * 2 ^ 112 + p.page * 2 ^ 114 + p.aop * 2 ^ 116 + b2n p.aw * 2 ^ 120 +
    p.opnd.toNat * 2 ^ 128 + p.cmp.toNat * 2 ^ 192
  h + crc16 (leBytes h 62) * 2 ^ 496

/-- Does a header unit's HCRC hold (R224, R237)? -/
def hcrcOk (h : Nat) : Bool := fld h 496 16 == crc16 (leBytes h 62)

def addPkt (s : State) (p : Pkt) : State := { s with noc := { s.noc with pkts := s.noc.pkts ++ [p] } }

/-- Takes a packet out of the fabric: the first one that is equal to it. -/
def dropPkt (s : State) (p : Pkt) : State := { s with noc := { s.noc with pkts := s.noc.pkts.erase p } }

/-- An answer to a request or a stream write: an RSP from its destination back to its source (R224, R225). A core's port stamps the core's partition, the
MC's none; a target that serves several partitions answers for the requester's. [log 56: DEDUCED] -/
def rspOf (s : State) (p : Pkt) (cmd status : Nat) (opnd : Word) (data : List Byte) : Pkt :=
  { p with
    dest := p.src, src := p.dest, cls := 1, cmd := cmd, epoch := (getPort s p.dest).epoch, status := status
    part := match portCore p.dest with
      | some c => corePart s c
      | none => if p.dest = 159 then none else p.part
    opnd := opnd, cmp := 0, data := data, crossed := false, asOld := false, jigDom := none }

/-! ### Injection (R231, R232) -/

/-- Whole fabric cycles of 0.625 ns up to a time. -/
def fabCycles (t : Nat) : Nat := t * 8 / 5

/-- RATE and BURST of a port's class. -/
def regRate (x : NocPort) (cls : Nat) : Nat := tget x.rate 0x400 cls
def regBurst (x : NocPort) (cls : Nat) : Nat := tget x.burst 0xFFF cls

/-- Gains the tokens of the cycles since they were last counted, up to BURST (R231). -/
def gainTokens (x : NocPort) (now : Nat) : NocPort :=
  let n := fabCycles now - fabCycles x.tokAt
  { x with
    tok := [0, 2, 3].foldl (fun t c => tset t c (min (regBurst x c * 1024) (tget t 0 c + n * regRate x c))) x.tok
    tokAt := now }

/-- A change of a class's RATE and BURST: the cycles before it count at the old rate (R231). -/
def setRate (x : NocPort) (now cls rate burst : Nat) : NocPort :=
  let x := gainTokens x now
  { x with rate := tset x.rate cls rate, burst := tset x.burst cls burst }

/-- Is a destination marked as changed in a port's CHG bitmap (R232)? -/
def chgBit (x : NocPort) (dest : Nat) : Bool := bit (lget x.chg 0 (dest / 32)) (dest % 32)

/-- The die whose epoch a port follows: CUR and BUSY of its die. -/
def portNoc (s : State) (q : Nat) : NocDie := getNocDie s (portDie q)

/-- The tokens that a packet takes, in 1/1024. -/
def pktCost (p : Pkt) : Nat := 1024 * pktUnits p.cmd p.len p.status

/-- Does a route change hold the packet's class at its port (R232 step 4)? -/
def chgHolds (s : State) (q : Nat) (p : Pkt) : Bool :=
  let x := getPort s q
  x.heldCls.contains p.cls || ((portNoc s q).busy && chgBit x p.dest)

/-- May a packet that waits at a port start injection: its class is not held, and unless it is an RSP its gate is open and its bucket
holds its units (R231, R232, R234)? -/
def mayStart (s : State) (q : Nat) (p : Pkt) : Bool :=
  !chgHolds s q p && (p.cls == 1 || (sendGate s q p == 0 && pktCost p ≤ tget (getPort s q).tok 0 p.cls))

/-- A waiting packet starts injection under the port's epoch: it takes its tokens, and a REQ or SWRITE_L is outstanding (R231, R237). -/
def launch (s : State) (q : Nat) (p : Pkt) : State :=
  let x := getPort s q
  addPkt (setPort s q { x with
    wait := x.wait.erase p
    turn := if (portDma q p.subsrc).isSome then p.subsrc else x.turn
    tok := if p.cls = 1 then x.tok else tset x.tok p.cls (tget x.tok 0 p.cls - pktCost p)
    out := if p.cls = 0 ∨ p.cmd = 0x21 then
        x.out ++ [
          { seq := p.seq, cls := p.cls, cmd := p.cmd, subsrc := p.subsrc, dest := p.dest, addr := p.addr, len := p.len, at_ := upNs s
            jigDom := p.jigDom }]
      else x.out }) { p with epoch := x.epoch }

/-- The packet of a class that a port starts next: the one formed first; where that is a DMA channel's, of the channels that wait those with HI = 1 go first,
and otherwise they take turns (R244). [log 15: DESIGN CHOICE] -/
def nextWait (s : State) (q cls : Nat) : Option Pkt :=
  let x := getPort s q
  let l := x.wait.filter fun p => p.cls == cls
  let dmas := l.filter fun p => (portDma q p.subsrc).isSome
  let his := dmas.filter fun p => ((portDma q p.subsrc).map fun k => (getDma s k).hi).getD false
  let turns := fun (c : List Pkt) => ((upFrom (x.turn + 1) 64).findSome? fun b => c.find? fun p => p.subsrc == b % 64)
  match l.head? with
  | none => none
  | some p => if (portDma q p.subsrc).isNone then some p else turns (if his.isEmpty then dmas else his)

/-- Starts the waiting packets of a class in their order, as far as they may start; the first one to a changed destination holds the class.
[log 15: DESIGN CHOICE] -/
def pumpCls (s : State) (q cls : Nat) : Nat → State
  | 0 => s
  | f + 1 =>
    match nextWait s q cls with
    | none => s
    | some p =>
      if mayStart s q p then pumpCls (launch s q p) q cls f
      else
        let x := getPort s q
        if chgHolds s q p && !x.heldCls.contains cls then setPort s q { x with heldCls := x.heldCls ++ [cls] } else s

/-- Starts what a port can start now. -/
def pump (s : State) (q : Nat) : State :=
  let s := setPort s q (gainTokens (getPort s q) (upNs s))
  [1, 3, 0, 2].foldl (fun s c => pumpCls s q c (getPort s q).wait.length) s

/-- A port forms a packet, which takes the next SEQ of its class unless it is an RSP (R224), and starts it as soon as it may. -/
def sendPkt (s : State) (q : Nat) (p : Pkt) : State :=
  let x := getPort s q
  if p.cls = 1 then pump (setPort s q { x with wait := x.wait ++ [p] }) q
  else
    let n := tget x.seq 0 p.cls
    pump (setPort s q { x with
      seq := tset x.seq p.cls ((n + 1) % 4096), lost := if p.cls = 2 then x.lost.filter fun i => i != n else x.lost
      wait := x.wait ++ [{ p with seq := n }] }) q

/-- The answer that a target, or the gate before it, sends to a packet. -/
def sendRsp (s : State) (p : Pkt) (cmd status : Nat) (opnd : Word) (data : List Byte) : State :=
  sendPkt s p.dest (rspOf s p cmd status opnd data)

/-- Answers a REQ or STR that its target does not take (R226, R234): the due RSP, or SNAK for a stream write. -/
def refusePkt (s : State) (p : Pkt) (status : Nat) : State :=
  sendRsp s p (if p.cls = 2 then 0x14 else dueAnswer p.cmd) status 0 []

/-- The answer of a sending station in place of a target beyond its link (R242): it crosses no link. [log 56: DEDUCED] -/
def stationAnswer (s : State) (p : Pkt) (status : Nat) : State :=
  addPkt s { rspOf s p (if p.cls = 2 then 0x14 else dueAnswer p.cmd) status 0 [] with crossed := true, epoch := p.epoch }

/-- Counts a packet of a class that is discarded or kept while the routes of a bundle that is down are still to be moved, for FLT_LINK (R389). -/
def countMove (s : State) (b cls : Nat) : State :=
  let w := tget s.noc.moving 0 b
  if (s.noc.moving.any fun e => e.1 == b) && fld w (8 * cls) 8 < 255 then
    { s with noc := { s.noc with moving := tset s.noc.moving b (w + 2 ^ (8 * cls)) } }
  else s

/-- Discards a packet at a bundle that is down, or keeps an EVT in the direction's drop log (R242, R396); an EVT that meets a full log waits. [log 56: DEDUCED] -/
def atDownBundle (s : State) (p : Pkt) (dir : Nat) : State :=
  if p.cls = 3 then
    let l := tget s.noc.dropLog [] dir
    if l.length < 256 then
      let s := dropPkt (countMove s (dir / 2) 3) p
      { s with noc := { s.noc with dropLog := tset s.noc.dropLog dir (l ++ [p]) } }
    else s
  else
    let s := countMove s (dir / 2) p.cls
    if p.cls = 1 then bump (dropPkt s p) .nocLnkDrop dir else stationAnswer (dropPkt s p) p 4

/-- Handles a packet at a closed gate (R234), or at a lost die's port. An EVT is taken by the always-on stub; whether it is then delivered is the
caller's. [log 56: DEDUCED] -/
def atClosedGate (s : State) (p : Pkt) (status : Nat) : State :=
  if p.cls = 1 then alertMc (bump (dropPkt s p) .nocGateOrph (portDie p.dest)) (.nocGateOrph p.dest)
  else refusePkt (if status = 3 then bump (dropPkt s p) .nocGateRefuse p.dest else dropPkt s p) p status

/-- The oldest packet of a class from one port to another (R230: they arrive in the order of their injection). [log 15: DESIGN CHOICE] -/
def oldestPkt (s : State) (src dest cls : Nat) : Option Pkt :=
  s.noc.pkts.find? fun p => p.src == src && p.dest == dest && p.cls == cls

/-- Does a packet name memory of another partition? Its target port answers that before the gate behind it acts (R226, R234). -/
def pktForeign (s : State) (p : Pkt) : Bool :=
  match targetOf p.addr with
  | .nothing | .regs => false
  | _ => !dieOut s (portDie p.dest) && !memAllowed s p.part p.addr

/-- A packet of a command arrives at its destination: it is blocked by a bundle that is down, refused at a closed gate, or taken. `bad` gives a
die and the bits of the header unit that arrive wrong there: where its HCRC then fails, the packet is discarded and counted, answered
by nothing, and the MC is alerted (R237); an error that HCRC does not see changes nothing here. [log 15: DESIGN CHOICE; log 93: DESIGN CHOICE] -/
def arrive (s : State) (src dest cmd : Nat) (bad : Option (Fin 3 × BitVec 512)) (take : State → Pkt → State) : State :=
  match oldestPkt s src dest (cmdClass cmd) with
  | none => s
  | some p =>
    if p.cmd != cmd then s
    else match bad.bind fun e => if hcrcOk (headerWord p ^^^ e.2.toNat) then none else some e.1 with
      | some d => alertMc (bump (dropPkt s p) .nocHcrcErr d) (.nocHcrc d)
      | none =>
        match blockedAt s p with
        | some dir => atDownBundle s p dir
        | none =>
          if p.cls != 3 && portGate s dest != 0 then
            if p.cls != 1 && pktForeign s p then refusePkt (dropPkt s p) p 5 else atClosedGate s p (portGate s dest)
          else take (dropPkt s p) p

/-- Records the first error of a DMA channel (R253): a later one only once VALID has been cleared. -/
def noteErr (x : DmaCh) (a st kind : Nat) : DmaCh :=
  if x.errV then x else { x with errAddr := a, errStat := st, errKind := kind, errV := true, errDesc := x.desc }

/-- A write of the channel's current descriptor fails (R253). -/
def writeErr (x : DmaCh) (a st : Nat) : DmaCh :=
  noteErr { x with wrErr := if x.wrErr = 0 then st else x.wrErr, fstat := if x.fstat = 0 then st else x.fstat } a st 2

/-- The core that a channel signals takes note of it (R253). -/
def signalDma (s : State) (k : Nat) : State :=
  let x := getDma s k
  if x.irqEn ∧ x.core < 112 then signalCore s x.core else s

/-- A refusal of a channel's stream write (R253): an error of its descriptor, or, once that has completed, AERR and a halt at the next completion. -/
def dmaRefused (s : State) (k : Nat) (p : Pkt) : State :=
  let x := getDma s k
  if x.seqs.contains p.seq then
    setDma s k (writeErr x p.addr p.status)
  else
    let d := ((x.gone.find? fun e => e.1 == p.seq).map fun e => e.2).getD x.desc
    signalDma (setDma s k { noteErr { x with aerr := true, haltNext := true, desc := d } p.addr p.status 2 with desc := x.desc }) k

/-- Hands an answer to the agent of a port. An answer to a core's own store or stream write with a non-zero STATUS is the target error of a
store that has left the core: STORE_ERROR_ASYNC records it (R226, R128). One to a DMA channel's stream write is the channel's (R253). -/
def answerAgent (s : State) (port : Nat) (p : Pkt) : State :=
  let s := setPort s port { getPort s port with ans := some p }
  match portDma port p.subsrc with
  | some k => if p.status ≠ 0 ∧ (p.cmd = 0x13 ∨ p.cmd = 0x14) then dmaRefused s k p else s
  | none =>
  match portCore port with
  | none => s
  | some c =>
    if p.subsrc = 0 ∧ p.status ≠ 0 ∧ (p.cmd = 0x11 ∨ p.cmd = 0x13 ∨ p.cmd = 0x14) then
      let x := getCore s c
      setCore s c { x with fabQ := x.fabQ ++ [BitVec.ofNat 64 p.addr] }
    else s

/-- An answer arrives: the request it answers is no longer outstanding; an answer that nothing awaits is discarded and counted, unless it
refuses a stream write that has not timed out (R225, R237). [log 56: DEDUCED] -/
def handAnswer (s : State) (p : Pkt) : State :=
  let x := getPort s p.dest
  let hit := x.out.find? fun o => o.seq == p.seq && (dueAnswer o.cmd == p.cmd || (o.cls == 2 && p.cmd == 0x14))
  match hit with
  | some o => answerAgent (setPort s p.dest { x with out := x.out.filter fun q => q != o }) p.dest p
  | none =>
    if p.cmd = 0x14 then
      if x.lost.contains p.seq then bump (setPort s p.dest { x with lost := x.lost.filter fun i => i != p.seq }) .nocRspLate p.dest
      else answerAgent s p.dest p
    else bump s .nocRspLate p.dest

/-- An agent of a port is reset: nothing awaits its answers, which are discarded and counted as late, those of its stream writes under way among them (R391),
and its packets that have not started are gone. -/
def dropAgent (s : State) (q sub : Nat) : State :=
  let x := getPort s q
  let mine := fun (p : Pkt) => p.src == q && p.subsrc == sub && p.cls == 2
  let back := fun (p : Pkt) => p.dest == q && p.subsrc == sub && p.cmd == 0x14
  let flying := s.noc.pkts.filter (fun p => mine p || back p) ++ (upFrom 0 160).flatMap fun r => (getPort s r).wait.filter back
  setPort s q { x with
    out := x.out.filter fun o => o.subsrc != sub, wait := x.wait.filter fun p => p.subsrc != sub || p.cls == 1
    lost := (x.lost ++ flying.map fun p => p.seq).eraseDups }

/-- The ports of a die. -/
def diePorts (d : Nat) : List Nat := if d < 2 then upFrom (72 * d) 72 else upFrom 144 16

/-- Does the station that sends in direction `k` lie on die `d` (R238)? [log 84: DEDUCED] -/
def atStation (d k : Nat) : Bool :=
  let b := k / 2
  if b < 32 then (if k % 2 = 0 then b / 16 == d else d == 2) else k % 2 == d

/-- Is a packet a unit of the old epoch (R232, R396)? -/
def isOld (s : State) (p : Pkt) : Bool := p.asOld || p.epoch == (getNocDie s 0).cur

/-! ### DMA channels -/

/-- The STATUS that the gate of the engine's domain answers to a register access. -/
def dmaGate (s : State) (k : Nat) : Nat := if k / 16 < 24 then portGate s (corePort (4 * (k / 16))) else 0

/-- Has the channel writes that have not left it, or SWRITE_L that await LANDED (R252, R258)? -/
def dmaAwaits (s : State) (k : Nat) : Bool :=
  let x := getPort s (dmaPort k)
  (x.wait.any fun p => p.subsrc == dmaSub k && p.cls == 2) || x.out.any fun o => o.subsrc == dmaSub k

/-- DMA_CH_STAT.PENDING (R258): FETCH, WAIT_TRIG, ACTIVE, COMPLETING or PAUSING, or a write that awaits its answer. -/
def dmaBusy (s : State) (k : Nat) : Bool :=
  (match (getDma s k).state with
  | .fetch | .waitTrig | .active | .completing | .pausing => true
  | _ => false) || dmaAwaits s k

/-! ### Die links -/

/-! The crossings of the tables (R242, R335) -/

/-- Where column `x`'s crossing towards the IOD, or from it, goes in the tables (R242): the column, and the entry there. -/
def iodCross (s : State) (d x : Nat) : Nat × Nat :=
  let at_ := fun (x : Nat) =>
    let u0 := bundleUp s (16 * d + 2 * x)
    let u1 := bundleUp s (16 * d + 2 * x + 1)
    if u0 && u1 then some 7 else if u0 then some 8 else if u1 then some 9 else none
  match at_ x with
  | some e => (x, e)
  | none =>
    let y := if x < 7 then x + 1 else 6
    (y, (at_ y).getD 7)

/-- Where column `x`'s crossing to the other compute die goes. -/
def peerCross (s : State) (x : Nat) : Nat × Nat := if bundleUp s (32 + x) then (x, 7) else (if x < 7 then x + 1 else 6, 7)

/-- Writes an epoch's entries of a die's routers for a destination whose crossing leaves the default column. -/
def steer (s : State) (ep : Bool) (die row dest : Nat) (cross : Nat × Nat) : State :=
  (upFrom 0 24).foldl (fun s r =>
    let x := r % 8
    let y := r / 8
    let e := if x = cross.1 ∧ y = row then cross.2 else stepXY x y cross.1 row
    { s with noc := { s.noc with routes := tset s.noc.routes (b2n ep * 2 ^ 20 + routerNo die x y * 2 ^ 10 + dest) e } }) s

/-- An epoch's tables as the MC writes them: the default ones, adjusted where bundles are down (R228, R242, R335). -/
def adjustRoutes (s : State) (ep : Bool) : State :=
  (upFrom 0 160).foldl (fun s dest =>
    let d' := portDie dest
    let x := (portXY dest).1
    (upFrom 0 3).foldl (fun s die =>
      if die = d' then s
      else
        let cross := if die = 2 then iodCross s d' x else if d' = 2 then iodCross s die x else peerCross s x
        let row := if die = 2 then d' else if d' = 2 then 0 else 2
        if cross = (x, 7) then s else steer s ep die row dest cross) s) s

/-- The path of a port's packets to a destination under an epoch: the routers and the ways taken there, a bundle k of a column as 8 + k. -/
def pathOf (s : State) (ep : Bool) (src dest die x y : Nat) : Nat → List (Nat × Nat)
  | 0 => []
  | f + 1 =>
    let e := routeOf s ep die x y dest
    (routerNo die x y, if e = 7 then 8 + src % 2 else e) :: (match e with
      | 3 => pathOf s ep src dest die (x + 1) y f
      | 4 => pathOf s ep src dest die (x - 1) y f
      | 5 => pathOf s ep src dest die x (y + 1) f
      | 6 => pathOf s ep src dest die x (y - 1) f
      | e =>
        if e < 3 then []
        else if die = 2 then pathOf s ep src dest y x 0 f
        else if y = 2 then pathOf s ep src dest (1 - die) x 2 f
        else pathOf s ep src dest 2 x die f)

/-- NOC_CHG of a port: the destinations whose path differs between the epochs (R232), in five words. -/
def chgOf (s : State) (q : Nat) : List Nat :=
  let (x, y) := portXY q
  let differs := fun d => pathOf s false q d (portDie q) x y 48 != pathOf s true q d (portDie q) x y 48
  (upFrom 0 5).map fun k => ((upFrom 0 32).map fun i => if differs (32 * k + i) then 2 ^ i else 0).foldl (· + ·) 0

/-- The MC prepares to move the traffic of bundles that are down (R242, R232 steps 1 and 2): unless a change is in progress it writes the standby
tables and every CHG. [log 93: DESIGN CHOICE] -/
def planMove (s : State) : State :=
  if (upFrom 0 3).any fun d => (getNocDie s d).busy then s
  else
    let ep := !(getNocDie s 0).cur
    let s := adjustRoutes { s with noc := { s.noc with
      routes := s.noc.routes.filter fun e => (2 ^ 20 ≤ e.1) != ep, planned := s.noc.moving.map fun e => e.1 } } ep
    (upFrom 0 160).foldl (fun s q => setPort s q { getPort s q with chg := chgOf s q }) s

/-- Notes what FLT_LINK reports of a bundle: kind 1, 2 or 3 (R396, R389). -/
def linkEvt (s : State) (b kind w3 : Nat) : State := raiseMod s 0x0B05 (b + kind * 2 ^ 8) w3

/-- A bundle goes down in both directions (R242, R396). `crossed` are the positions of the packets whose tail has arrived. -/
def bundleDown (s : State) (b : Nat) (crossed : List Nat) : State :=
  let pk := (List.zip (upFrom 0 s.noc.pkts.length) s.noc.pkts).map fun e =>
    match pktCrossing s e.2 with
    | some (b', _) => if b' = b ∧ crossed.contains e.1 then { e.2 with crossed := true } else e.2
    | none => e.2
  let s := { s with noc := { s.noc with pkts := pk } }
  let down := fun (s : State) (d : Nat) =>
    let l := getLink s d
    setLink s d { l with state := 0, rxLast := (l.rxNext + 63) % 64, repairing := none, failed := [], replay := [], txSwitch := none }
  let s := down (down s (2 * b)) (2 * b + 1)
  let hit := s.noc.pkts.filterMap fun p => (blockedAt s p).bind fun d => if d / 2 = b then some (p, d) else none
  let n := fun (c : Nat) => min 255 (hit.filter fun e => e.1.cls == c).length
  let s := hit.foldl (fun s e => atDownBundle s e.1 e.2) s
  let w3 := n 0 + n 1 * 2 ^ 8 + n 2 * 2 ^ 16 + n 3 * 2 ^ 24
  let s := alertMc s (.nocLnkDown b (n 0) (n 1) (n 2))
  planMove (linkEvt (noteDeg { s with noc := { s.noc with moving := tset s.noc.moving b w3 } }) b 2 w3)

/-! ### Route epochs (R232, R396) -/

/-- At GO each station of a die re-injects its logged EVT packets under the new epoch, and gives it to those that wait for a bundle that is
down (R396). A logged packet goes behind those that had crossed before it and before those that have yet to cross, so that the order of its class is
kept (R230). -/
def reinject (s : State) (d : Nat) (new : Bool) : State :=
  let mine := fun (k : Nat) => atStation d k
  let log := (s.noc.dropLog.filter fun e => mine e.1).flatMap fun e => e.2
  let move := fun (p : Pkt) => { p with epoch := new, asOld := true }
  let pk := s.noc.pkts.map fun p =>
    if p.cls = 3 ∧ portDie p.src = d ∧ (blockedAt s p).isSome then move p else p
  { s with noc := { s.noc with
      pkts := (pk.filter fun p => p.crossed) ++ log.map move ++ pk.filter fun p => !p.crossed
      dropLog := s.noc.dropLog.filter fun e => !mine e.1 } }

/-- GO on a die (R232): its ports switch to the standby epoch; it is ignored while BUSY = 1. -/
def epochGo (s : State) (die : Nat) : State :=
  let d := getNocDie s die
  if d.busy then s
  else
    let s := setNocDie s die { d with busy := true, goAt := upNs s }
    let s := (diePorts die).foldl (fun s q => setPort s q { getPort s q with epoch := !d.cur }) s
    reinject s die (!d.cur)

end Sys2Proof.Machine
end

