-- ==== Sys2Proof/Machine/FaultOps.lean ====
section
/-!
DEFINITION. Stopping the module (18_faults_and_ordering R400).
-/
namespace Sys2Proof.Machine

/-- The module stops with SEV 3 (R400): tick plans stop, optical transmitters stop and MOD_READY goes low. [log 76: DESIGN CHOICE; log 85: DEDUCED] -/
def moduleStop (s : State) : State :=
  let ps := s.parts.map fun e => (e.1, { e.2 with tick := { e.2.tick with run := false, pend := none, stopping := false } })
  let ls := (upFrom 0 80).map fun n => (n, { getLane s n with txState := 2 })
  { s with
    parts := ps
    ln := { s.ln with lanes := ls }
    su := { s.su with ready := false, stopped := true }
    flt := { s.flt with sev := 3, faultN := false } }

end Sys2Proof.Machine
end

