-- ==== Sys2Proof/Machine/TimeUnit.lean ====
section
/-!
DEFINITION. The time unit (13_backhaul_and_time R292 to R303): PTP, snapshots, oscillators, references and outputs.
-/
namespace Sys2Proof.Machine

def setTm (s : State) (x : Tm) : State := { s with tm := x }

/-! ### Phase (R293) -/

/-- Are steps barred: a tick plan runs, or a port is enabled (R293)? -/
def stepBarred (s : State) : Bool :=
  (s.parts.any fun e => e.2.tick.run) || (s.bh.ports.any fun e => e.2.en) || (s.fh.ports.any fun e => e.2.en)

/-- A phase error of which slewing has removed `d` ns (R293). [log 64: DEDUCED] -/
def slewed (e : Int) (d : Nat) : Int := if e < 0 then min 0 (e + d) else max 0 (e - d)

/-- TM_PHASE_ERR: the phase error now. While a reference is followed the rate changes by up to TM_SLEW_MAX to remove it (R293). [log 64: DEDUCED] -/
def phaseNow (s : State) : Int :=
  if s.tm.st = 1 ∨ s.tm.st = 2 then slewed s.tm.phaseErr ((upNs s - s.tm.phaseAt) * s.tm.slewMax / 1000000000) else s.tm.phaseErr

/-- Since when the phase error has been below 100 ns, or the later time at which slewing brings it there (R301); none where neither. [log 64: DEDUCED] -/
def lowSince (s : State) : Option Nat :=
  if s.tm.phaseErr.natAbs < 100 then some s.tm.lowAt
  else if (s.tm.st = 1 ∨ s.tm.st = 2) ∧ 0 < s.tm.slewMax then
    some (s.tm.phaseAt + ((s.tm.phaseErr.natAbs - 99) * 1000000000 + s.tm.slewMax - 1) / s.tm.slewMax)
  else none

/-- The time registers with a phase error that counts from now on: a run below 100 ns goes on (R301). [log 64: DEDUCED] -/
def rebase (s : State) (e : Int) : Tm :=
  { s.tm with phaseErr := e, phaseAt := upNs s, lowAt := min ((lowSince s).getD (upNs s)) (upNs s) }

/-- The measured phase error (R293): above 1 ms while steps are barred it raises TM_PHASE_FAR once. -/
def setPhase (s : State) (e : Int) : State :=
  let far := decide (1000000 < e.natAbs) && stepBarred s
  let s' := setTm s { rebase s e with phaseFar := far }
  if far && !s.tm.phaseFar then raiseMod s' 0x0901 (ofInt e 64) 0 else s'

/-- A phase error measured against a reference counts while that reference is followed (R301). [log 64: DEDUCED] -/
def phaseMeas (s : State) (ext : Bool) (e : Int) : State :=
  let s := setTm s (if ext then { s.tm with extErr := some e } else { s.tm with ptpErr := some e })
  if (s.tm.st = 1 ∨ s.tm.st = 2) ∧ s.tm.src = b2n ext then setPhase s e else s

/-! ### The module's own clock (R297, R298) -/

/-- Bytes `i` to `i + k - 1` of a PTP message, high byte first. -/
def ptpField (bs : List Byte) (i k : Nat) : Nat := ofBe (((ptpHead bs).drop i).take k)

/-- The time stamp at byte `i`: 48-bit seconds and nanoseconds. -/
def ptpTime (bs : List Byte) (i : Nat) : Nat := ptpField bs i 6 * 1000000000 + ptpField bs (i + 6) 4

/-- correctionField, in 2^-16 ns. -/
def ptpCorr (bs : List Byte) : Int := sx (ptpField bs 8 8) 64

/-- What an Announce says of its grandmaster and sender. [log 17: PRESUMED] -/
def annOf (bs : List Byte) : List Nat :=
  [ptpField bs 48 1, ptpField bs 49 1, ptpField bs 50 2, ptpField bs 52 1, ptpField bs 53 8, ptpField bs 61 2, ptpField bs 20 10]

/-- Does a list of numbers come before another one? -/
def listLt : List Nat → List Nat → Bool
  | a :: l, b :: r => a < b || (a == b && listLt l r)
  | _, _ => false

/-- What the alternate BMCA compares, in its order: class, accuracy, variance, priority2, localPriority, then above class 127 the grandmaster's identity,
then the steps removed, the sender and the port. [log 17: PRESUMED] -/
def bmcaKey (s : State) (n : Nat) (a : PtpAnn) : List Nat :=
  let d := fun i => lget a.data 0 i
  [d 0, d 1, d 2, d 3, fld s.tm.cfg.prios (8 * n) 8, if d 0 ≤ 127 then 0 else d 4, d 5, d 6, n]

/-- The Announce of a port that may serve the clock, while it counts. -/
def freshAnn (s : State) (n : Nat) : Option PtpAnn :=
  match s.tm.ann.find? fun e => e.1 == n with
  | some e =>
    if bit s.tm.ptpPorts n && (getBp s n).en && upNs s < e.2.at_ + Config.annWait && lget e.2.data 0 5 < 255 then some e.2 else none
  | none => none

/-- The chosen port (R298, R301). -/
def chosenPort (s : State) : Option Nat :=
  (upFrom 0 4).foldl (fun b n =>
    match freshAnn s n with
    | none => b
    | some a =>
      match b with
      | none => some n
      | some m =>
        match freshAnn s m with
        | none => some n
        | some c => if listLt (bmcaKey s n a) (bmcaKey s m c) then some n else b) none

def setOwn (s : State) (x : OwnClk) : State := setTm s { s.tm with own := x }

/-- The offset from the master, once both directions have been measured, is the phase error against PTP, and PTP has set the seconds (R302). -/
def ownPhase (s : State) : State :=
  match s.tm.own.d21, s.tm.own.delay with
  | some d, some p => phaseMeas (setTm s { s.tm with secondsSet := true }) false ((d - p) / 65536)
  | _, _ => s

/-- A master's time for the awaited Sync: the distance from its departure to its arrival less its corrections. -/
def ownSync (s : State) (t1 : Nat) (corr : Int) : State :=
  let x := s.tm.own
  ownPhase (setOwn s { x with d21 := some (((x.t2 : Int) - t1) * 65536 - corr), await := false })

/-- A message for the module's own clock: Announce from any port that may serve it; Sync, Follow_Up and Delay_Resp from the chosen port. The
asymmetry of the link counts with the correction of a Sync (R297). -/
def ownMsg (s : State) (n tin : Nat) (bs : List Byte) : State :=
  let x := s.tm.own
  if ptpType bs = 11 then setTm s { s.tm with ann := tset s.tm.ann n { data := annOf bs, at_ := upNs s } }
  else if chosenPort s ≠ some n then s
  else
    match ptpType bs with
    | 0 =>
      let x := { x with syncKey := ptpKey bs, t2 := tin, corr := ptpCorr bs + asymOf s (32 + n), await := true }
      if ptpTwoStep bs then setOwn s x else ownSync (setOwn s x) (ptpTime bs 34) x.corr
    | 8 => if x.await && ptpKey bs == x.syncKey then ownSync s (ptpTime bs 34) (x.corr + ptpCorr bs) else s
    | 9 =>
      match x.t3, x.d21 with
      | some t3, some d =>
        if ((ptpHead bs).drop 44).take 10 ++ ((ptpHead bs).drop 30).take 2 == x.reqKey then
          let d43 : Int := ((ptpTime bs 34 : Int) - t3) * 65536 - ptpCorr bs
          ownPhase (setOwn s { x with t3 := none, delay := some ((d + d43) / 2) })
        else s
      | _, _ => s
    | _ => s

/-! ### PTP (R298, R299) -/

/-- R298: the MC's protocol and servo take the message handed to the module's own clock. -/
def execPtpMsgRx (s : State) : Res :=
  match s.tm.ownRx with
  | none => .next s
  | some (n, tin, bs) => if s.flt.mcDown.isSome then .next s else .next (ownMsg (setTm s { s.tm with ownRx := none }) n tin bs)

/-- Takes one held Follow_Up out of the queue. -/
def dropHeld (s : State) (h : HeldFu) : State := setTm s { s.tm with held := s.tm.held.erase h }

/-- R299: a held Follow_Up whose Sync's egress stamp is known is corrected and forwarded. -/
def execPtpFollowupRelease (s : State) : Res :=
  match s.tm.held.find? fun h => (syncFor s h.key h.dest).isSome with
  | none => .next s
  | some h =>
    match syncFor s h.key h.dest with
    | none => .next s
    | some x =>
      let s := dropHeld s h
      .next (sendPtp (setTm s { s.tm with syncs := s.tm.syncs.erase x }) h.dest { bytes := addCorr h.bytes x.add })

/-- R299: a Follow_Up without a matching Sync within 1 s is forwarded unchanged and counted. One whose Sync still waits for its egress is held on. -/
def execFollowUpNomatch (s : State) : Res :=
  match s.tm.held.find? fun h => (syncFor s h.key h.dest).isNone && !syncWaits s h.key h.dest && h.arrived + 1000000000 ≤ upNs s with
  | none => .next s
  | some h => .next (bump (sendPtp (dropHeld s h) h.dest { bytes := h.bytes }) .tmTcNomatch 0)

/-- The Delay_Req of the module's clock (R298). [log 17: PRESUMED; log 63: DESIGN CHOICE] -/
def delayReq (s : State) (n : Nat) : List Byte :=
  beBytes 0x011B19000000 6 ++ beBytes (Config.bpMac n) 6 ++ beBytes 0x88F7 2 ++
    beBytes 0x0102002C 4 ++ leBytes s.tm.cfg.domain 1 ++ leBytes 0 3 ++ beBytes (ofInt (- asymOf s (32 + n)) 64) 8 ++ leBytes 0 4 ++
    beBytes Config.clockId 8 ++ beBytes (n + 1) 2 ++ beBytes s.tm.reqSeq 2 ++ beBytes 0x017F 2 ++ leBytes 0 10

/-- The commanded Delay_Req interval in ns: 2 to the power of its field less 8, in seconds (R298, R318). -/
def reqInterval (s : State) : Nat := 1000000000 * 2 ^ s.tm.cfg.interval / 256

/-- Has the interval passed since the latest Delay_Req? -/
def reqDue (s : State) : Bool := match s.tm.reqAt with
  | some t => t + reqInterval s ≤ upNs s
  | none => true

/-- R298: at the commanded interval a Delay_Req leaves on the chosen port, ahead of the ring. -/
def execDelayReqSend (s : State) : Res :=
  match if s.flt.mcDown.isSome || !reqDue s then none else chosenPort s with
  | some n =>
    .next (updBp (setTm s { s.tm with reqSeq := (s.tm.reqSeq + 1) % 65536, reqAt := some (upNs s) }) n fun x =>
      { x with ptpOut := x.ptpOut ++ [{ bytes := delayReq s n, own := true }] })
  | none => .next s

/-! ### Snapshots (R295) -/

/-- R295: GO latches the full time and the counter at one instant; every partition may write it. -/
def execTmSnap (who : Agent) (s : State) : Res :=
  match who with
  | .host _ => .next (foreign s)
  | _ =>
    .next (done (setTm s { s.tm with
      snapS := s.now / 1000000000 % 2 ^ 48, snapNs := s.now % 1000000000, snapCnt := nsCounter s }))

/-! ### Oscillators (R300) -/

/-- Is EXT qualified, through its inputs and the seconds (R301, R302)? -/
def extQual (x : Tm) : Bool := x.extEn && x.ppsOk && x.freqOk && x.secondsSet

/-- Is an oscillator in service: 0 OSC-A, 1 OSC-B? -/
def oscOk (x : Tm) (o : Nat) : Bool := if o = 0 then x.aOk else x.bOk

/-- An oscillator fails (R300): the other replaces it if it was the active one; if both have failed, the module stops (R400). [log 64: DEDUCED] -/
def failOsc (s : State) (o : Nat) : State :=
  if !oscOk s.tm o then s
  else
    let x := if o = 0 then { s.tm with aOk := false } else { s.tm with bOk := false }
    if oscOk x (1 - o) then
      let sw := x.osc == o
      let s := setTm (noteDeg s) { x with osc := if sw then 1 - o else x.osc }
      let s := if sw then bump s .tmOscSw 0 else s
      let s := raiseMod s 0x0902 o s.tm.osc
      logRec s 0x0902 0 true 0 o s.tm.osc []
    else
      let s := raiseMod (setTm s x) 0x0902 o x.osc
      moduleStop (raiseMod s 0x0B08 0 0)

/-- R300: each second the oscillators are measured against each other (`diff`, ppb) and, while one is qualified, against a reference (`refA`, `refB`,
ppb). [log 64: DEDUCED] -/
def execOscCheck (refA refB : Int) (diff : Nat) (s : State) : Res :=
  let t := s.tm.oscThr
  if s.tm.ptpOk || extQual s.tm then
    if t < refA.natAbs ∧ 2 * refB.natAbs < t then .next (failOsc s 0)
    else if t < refB.natAbs ∧ 2 * refA.natAbs < t then .next (failOsc s 1)
    else .next s
  else
    if t < diff && s.tm.aOk && s.tm.bOk then .next (raiseMod (setTm s { s.tm with disagree := true }) 0x0902 (1 - s.tm.osc) s.tm.osc) else .next s

/-- R300: an oscillator shows no edge for 1 µs. -/
def execOscEdgeLoss (osc : Fin 2) (s : State) : Res := .next (failOsc s osc)

/-! ### References (R301, R302) -/

/-- A change of TM_STAT.STATE (R301): HO_QUAL clears on leaving LOCKED, the phase error is that against the reference now followed, and every host
hears of it. [log 64: DEDUCED] -/
def tmState (s : State) (st src : Nat) : State :=
  let e := phaseNow s
  let m := if src = 1 then s.tm.extErr else s.tm.ptpErr
  let x := rebase s (if st = 1 then m.getD e else e)
  if x.st = st then setTm s { x with src := src, lowAt := if x.src = src then x.lowAt else upNs s }
  else
    raiseMod (setTm s { x with st := st, src := src, stAt := upNs s, lowAt := upNs s, hoQual := x.hoQual && st == 2, hoExp := x.hoExp && st == 3 }) 0x0904 x.st st

/-- R301: a reference qualifies, EXT by R302 and PTP on a chosen port, while the MC runs (R395). FREERUN and HOLDOVER move to ACQUIRING. -/
def execRefQualify (ext : Bool) (s : State) : Res :=
  if s.flt.mcDown.isSome || (ext && !extQual s.tm) || (!ext && (chosenPort s).isNone) then .next s
  else
    let s := if ext then s else setTm s { s.tm with ptpOk := true }
    let src := if extQual s.tm && (s.tm.prefExt || !s.tm.ptpOk) then 1 else 0
    if s.tm.st = 0 ∨ s.tm.st = 3 then .next (tmState s 1 src) else .next s

/-- The locked reference is lost (R301). [log 64: DEDUCED] -/
def refLost (s : State) (ext : Bool) : State :=
  let s := if ext then setTm s { s.tm with extErr := none } else setTm s { s.tm with ptpOk := false, ptpErr := none }
  if s.tm.st = 2 ∧ s.tm.src = b2n ext then
    if ext then (if s.tm.ptpOk then tmState s 1 0 else if s.tm.hoQual then tmState s 3 1 else tmState s 0 1)
    else (if extQual s.tm then tmState s 1 1 else if s.tm.hoQual then tmState s 3 0 else tmState s 0 0)
  else s

/-- R301: a reference is lost. [log 64: DEDUCED] -/
def execRefLost (ext : Bool) (s : State) : Res :=
  .next (refLost (if ext then setTm s { s.tm with ppsOk := false, ppsRun := 0 } else s) ext)

/-- R301: the phase error, measured against the reference that is followed, has stayed below 100 ns for 60 s. -/
def execTmLock (s : State) : Res :=
  let low := match lowSince s with
    | some t => decide (t + 60000000000 ≤ upNs s)
    | none => false
  if s.tm.st = 1 ∧ (if s.tm.src = 1 then s.tm.extErr else s.tm.ptpErr).isSome ∧ low = true then .next (tmState s 2 s.tm.src) else .next s

/-- R301: 15 minutes of continuous LOCKED. -/
def execHoQualSet (s : State) : Res :=
  if s.tm.st = 2 ∧ s.tm.stAt + 900000000000 ≤ upNs s then .next (setTm s { s.tm with hoQual := true }) else .next s

/-- R301: two hours of HOLDOVER. -/
def execTmHoEvt (s : State) : Res :=
  if s.tm.st = 3 ∧ s.tm.hoExp = false ∧ s.tm.stAt + 7200000000000 ≤ upNs s then .next (raiseMod (setTm s { s.tm with hoExp := true }) 0x0903 1 0) else .next s

/-- The distance of a time from the nearest second (R302). -/
def fromSecond (t : Int) : Int := (t + 500000000) % 1000000000 - 500000000

/-- R302: a rising edge of PPS_IN, which left its source IN_DLY earlier, marks a second: the distance of that time from a second of the time scale is
the phase error against EXT. Three edges in a row 1 s ± 1 µs apart qualify the input. [log 64: DEDUCED] -/
def execPpsInEdge (s : State) : Res :=
  let run := match s.tm.ppsLast with
    | some t => if 999999000 ≤ upNs s - t ∧ upNs s - t ≤ 1000001000 then s.tm.ppsRun + 1 else 1
    | none => 1
  .next (phaseMeas (setTm s { s.tm with ppsRun := run, ppsLast := some (upNs s), ppsOk := s.tm.ppsOk || run ≥ 3 }) true
    (fromSecond ((s.now : Int) - s.tm.ppsIn)))

/-- R302: no edge of PPS_IN for 2 s. [log 14: DESIGN CHOICE] -/
def execPpsInLost (s : State) : Res :=
  match s.tm.ppsLast with
  | none => .next s
  | some t =>
    if upNs s < t + 2000000000 then .next s
    else .next (refLost (setTm s { s.tm with ppsOk := false, ppsRun := 0, ppsLast := none }) true)

/-- R302: FREQ_IN enters or leaves ±5 ppm of 10 MHz. -/
def execFreqInChange (inside : Bool) (s : State) : Res :=
  let s := setTm s { s.tm with freqOk := inside }
  .next (if inside then s else refLost s true)

/-- R303: PPS_OUT rises at a second boundary advanced by OUT_ADV, and a change of the outputs applies: they are driven outside FREERUN, or under
PPS_FREERUN. It rises once at each boundary. -/
def execPpsOutSecond (s : State) : Res :=
  let r := (s.now + s.tm.ppsOut) / 1000000000 * 1000000000 - s.tm.ppsOut
  if s.tm.ppsRise = some r then .next s
  else .next (setTm s { s.tm with outOn := s.tm.st != 0 || s.tm.ppsFreerun, ppsRise := some r })

/-- PPS_OUT (R303): high for 1 ms from its rise, while the outputs are driven. -/
def ppsOut (s : State) : Bool :=
  match s.tm.ppsRise with
  | some t => s.tm.outOn && t ≤ s.now && s.now < t + 1000000
  | none => false

/-- Does FREQ_OUT rise now (R303): 10 MHz, with a rising edge on each edge of PPS_OUT? -/
def freqOutRises (s : State) : Bool :=
  match s.tm.ppsRise with
  | some t => s.tm.outOn && t ≤ s.now && (s.now - t) % 100 == 0
  | none => false

end Sys2Proof.Machine
end

