-- ==== Sys2Proof/Machine/RegRead.lean ====
section
/-!
DEFINITION. What a read of a register answers (00_scope R8 to R10; the register sections of every chapter): the value at each offset of each
unit's block.
-/
namespace Sys2Proof.Machine

/-- What stands at an offset of a block: no register, one of 32 or of 64 bits with its value, or an RC counter. -/
inductive Cell where
  | none
  | w32 (v : Nat)
  | w64 (v : Nat)
  | rc (c : Counter) (bank : Nat)

/-- The cell that a list gives an offset. -/
def pick (l : List (Nat × Cell)) (o : Nat) : Cell :=
  match l.find? fun e => e.1 == o with
  | some e => e.2
  | none => .none

/-- Counters of 32 bits that stand one after the other from `o0` on. -/
def ctrRow (o0 : Nat) (cs : List Counter) (bank : Nat) : List (Nat × Cell) :=
  (List.zip (upFrom 0 cs.length) cs).map fun e => (o0 + 4 * e.1, .rc e.2 bank)

/-- 32-bit registers that stand one after the other from `o0` on. -/
def wordRow (o0 : Nat) (vs : List Nat) : List (Nat × Cell) := (List.zip (upFrom 0 vs.length) vs).map fun e => (o0 + 4 * e.1, .w32 e.2)

/-- The bank of `size` bytes that holds an offset, counted from `base`, and the offset in it. -/
def inBank (base size off : Nat) : Nat × Nat := ((off - base) / size, (off - base) % size)

/-! ### The time unit (R34, R304) -/

/-- A partition's bank of the tick sequencer. -/
def tickCell (s : State) (p o : Nat) : Cell :=
  let b := getTick s p
  let len := fun (x : Option Plan) => (x.map fun y => y.len).getD 0
  pick ([(0x00, .w32 (b2n b.active + 2 * b2n b.run + 4 * b2n b.auto + 8 * b2n b.pend.isSome + 16 * b2n b.slotA.isSome + 32 * b2n b.slotB.isSome +
            64 * b2n b.capLow)),
         (0x04, .w32 (len (activePlan b) + len (standbyPlan b) * 2 ^ 16)), (0x08, .w32 b.idx), (0x0C, .w32 (needOf b)), (0x10, .w32 b.capNow),
         (0x14, .w32 b.grace), (0x18, .w32 (b.evtFlow + b2n b.evtEn * 2 ^ 31))] ++
    ctrRow 0x20 [.tickOvrDrop, .tickOvrDeg, .tickOvrEsc, .tickInjFail, .tickBudgetExc, .tickWinRej] p) o

/-- The module-wide registers of the time unit. -/
def tmCell (s : State) (o : Nat) : Cell :=
  let x := s.tm
  pick ([(0x0000, .w32 s.tu.mu), (0x0008, .w64 (s.tu.sfn + s.tu.tidx * 2 ^ 10 + b2n s.tu.long * 2 ^ 21)), (0x0010, .w32 s.tu.startNs),
         (0x2000, .w32 (x.ptpPorts + 16 * b2n x.extEn + 32 * b2n x.prefExt + 64 * b2n x.ppsFreerun)),
         (0x2004, .w32 (x.st + 8 * x.src + 16 * x.osc + 32 * b2n x.aOk + 64 * b2n x.bOk + 128 * b2n x.hoQual + 256 * b2n x.hoExp +
            512 * b2n x.disagree)),
         (0x2010, .w32 0), (0x2018, .w64 x.snapS), (0x2020, .w64 (x.snapNs + x.snapCnt * 2 ^ 32)),
         (0x2028, .w64 x.ofsS), (0x2030, .w32 x.ofsNs), (0x2034, .w32 x.slewMax), (0x2038, .w32 (ofInt (phaseNow s) 32)),
         (0x2040, .w32 (x.ppsIn + x.ppsOut * 2 ^ 16)), (0x2044, .w32 x.oscThr)] ++
    ctrRow 0x2300 [.tmTcFwd, .tmTcNomatch, .tmPtpDrop, .tmOscSw] 0) o

def timeCell (s : State) (o : Nat) : Cell :=
  if 0x1000 ≤ o ∧ o < 0x1400 then tickCell s (inBank 0x1000 0x100 o).1 (inBank 0x1000 0x100 o).2
  else if 0x2100 ≤ o ∧ o < 0x2140 then
    let b := inBank 0x2100 0x10 o
    pick [(0, .w32 (latWord s b.1)), (8, .w32 (ofInt (getBp s b.1).asym 32))] b.2
  else if 0x2200 ≤ o ∧ o < 0x2280 ∧ o % 4 = 0 then .w32 (tget s.tm.tcMap 0 ((o - 0x2200) / 4))
  else tmCell s o

/-! ### Lanes (R52) -/

/-- LN_STAT.SIG: the light at a receiver that is awake or in light sleep, and 0 in deep sleep and while it changes to or from it. -/
def lnSig (x : Lane) : Bool := x.light && (x.rxState < 2 || (x.rxState == 3 && x.rxFrom != 2 && x.rxGoal != 2))

def laneCell (s : State) (o : Nat) : Cell :=
  let n := (inBank 0x10000 0x100 o).1
  let x := getLane s n
  if o < 0x10000 ∨ 80 ≤ n then .none
  else pick ([(0x00, .w32 (x.txSleep + 4 * x.rxSleep + 16 * x.txMode + 64 * x.rxChk)),
              (0x04, .w32 (x.txState + 4 * x.rxState + 16 * b2n (lnSig x) + 32 * b2n x.fecLock + 64 * b2n x.prbsLock + 128 * b2n x.rej +
                256 * b2n x.wakeFail)),
              (0x10, .rc .lnFecCw n), (0x18, .rc .lnFecCorr n), (0x20, .rc .lnFecUncorr n), (0x28, .rc .lnFecSym n), (0x30, .rc .lnPrbsBits n),
              (0x38, .rc .lnPrbsErr n)] ++ ctrRow 0x40 [.lnGapErr, .lnRateOor, .lnSleepRej] n) (inBank 0x10000 0x100 o).2

/-! ### The framer (R62, R86) -/

/-- FH_LN_STAT, FH_LN_DEFL, FH_LN_DDLY and the counters of a lane. -/
def fhLnCell (s : State) (n o : Nat) : Cell :=
  let r := getRx s n
  let x := getLane s n
  let asleep := x.rxState == 1 || x.rxState == 2 || (x.rxState == 3 && x.rxFrom != 0)
  pick ([(0x00, .w32 (r.align + 4 * b2n r.mf + 8 * min 4 r.cands.length + 64 * b2n asleep + 256 * r.defs)), (0x04, .w32 r.defl), (0x08, .w32 r.lag)] ++
    ctrRow 0x10 [.fhLnBip, .fhLnOhcrc, .fhLnCandOvf, .fhLnEs, .fhLnSes, .fhLnUas, .fhLnRei] n) o

/-- A port's bank. -/
def fhCell (s : State) (m o : Nat) : Cell :=
  let x := getFh s m
  let req := localReq s m
  let rem := x.remote.getD { req := 0, lane := 0, sel := 0, bidir := false }
  if 0x100 ≤ o ∧ o < 0x300 then fhLnCell s (2 * m + (o - 0x100) / 0x100) (o % 0x100)
  else pick ([(0x00, .w32 (b2n x.en + 2 * b2n x.bidir + 4 * b2n x.txAis + 8 * x.diffMax)),
              (0x04, .w32 (x.sel + 2 * b2n x.psf + 16 * req.1 + 256 * req.2 + rem.req * 2 ^ 12 + rem.lane * 2 ^ 16 + rem.sel * 2 ^ 17 +
                b2n x.mismatch * 2 ^ 18 + b2n x.cmdRej * 2 ^ 19 + b2n x.cmdCxl * 2 ^ 20)),
              (0x08, .w32 (x.cmd + 4 * x.cmdLane)), (0x0C, .w32 (x.defSet + x.defClr * 2 ^ 16)), (0x10, .w32 (x.sdThr + 256 * x.sfThr)),
              (0x14, .w32 (x.pktFlow + b2n x.pktEn * 2 ^ 31))] ++
    ctrRow 0x1C [.fhLate, .fhEarly, .fhHcrcErr, .fhUnk, .fhDup, .fhTxLate, .fhTxFmt, .fhSelSw, .fhPktDrop, .fhSrInv, .fhPes, .fhPses, .fhPuas] m) o

/-- Word `i` of a stream entry (R62): word 0 of the entry in force, the others as written; rsvd bits read as zero. -/
def streamWordOf (x : Stream) (i : Nat) : Nat :=
  let c := x.cfg
  let w := tget x.raw 0 i
  if i = 0 then b2n c.valid + 2 * b2n c.down + 4 * b2n c.v8 + 8 * c.mu + c.nprb * 2 ^ 16
  else if i = 3 ∨ i = 5 ∨ i = 7 then w % 2 ^ 16 else if i = 6 then w % 2 ^ 24 else w

def framerCell (s : State) (o : Nat) : Cell :=
  if o < 0x8000 then fhCell s (o / 0x400) (o % 0x400)
  else if 0x100000 ≤ o ∧ o < 0x200000 ∧ o % 4 = 0 then
    let b := inBank 0x100000 0x8000 o
    .w32 (streamWordOf (getStream s b.1 (b.2 / 32)) (b.2 % 32 / 4))
  else .none

/-! ### The gain controller and the Nose (R100, R106) -/

/-- A level in whole sixteenths of a dB, rounded down, as 16 bits. [log 36: DESIGN CHOICE] -/
def fracWord (x : Frac) : Nat := ofInt (x.num / 2 ^ x.ex) 16

/-- GC_GRP_MEMBi. -/
def membWord (x : GcGrp) (i : Nat) : Nat :=
  match x.memb.find? fun e => e.1 == i with
  | some e => e.2.port + 128 + e.2.lo * 2 ^ 8 + e.2.hi * 2 ^ 18
  | none => 0

def gainCell (s : State) (o : Nat) : Cell :=
  let g := s.gc
  if o < 0x1000 then pick (wordRow 0 [g.margin + g.satThr * 2 ^ 8 + g.atkThr * 2 ^ 18, g.ackWait, g.cxlMin]) o
  else
    let i := (inBank 0x1000 0x40 o).1
    let x := getGrp s i
    if 256 ≤ i then .none
    else pick (wordRow 0 [b2n x.en + ofInt x.target 8 * 2 ^ 8 + x.hyst * 2 ^ 16 + x.stepMax * 2 ^ 20 + x.lead * 2 ^ 25 + x.tail * 2 ^ 30,
                          ofInt x.efs 8 + 256 * x.avgSh, membWord x 0, membWord x 1, membWord x 2, membWord x 3, x.flow,
                          x.att + 256 * b2n x.fix.isSome + 512 * b2n (cmdPending x).isSome + 1024 * b2n x.fault + x.seq * 2 ^ 16,
                          fracWord x.lvl + (if x.fix.isSome then fracWord x.ref else 0) * 2 ^ 16] ++
      ctrRow 0x24 [.gcSteps, .gcNoack, .gcCapt] i) (inBank 0x1000 0x40 o).2

/-- Word `i` of a context descriptor (R100): word 0 of the one in force, the others as written; rsvd bits read as zero. -/
def ctxWordOf (x : NsCtx) (i : Nat) : Nat :=
  let c := x.cfg
  let w := tget x.raw 0 i
  if i = 0 then b2n c.valid + 2 * c.kind + 8 * c.restr + 32 * c.lseq + c.fmt * 2 ^ 8 + c.grp * 2 ^ 16 + c.nocc * 2 ^ 24
  else if i = 3 then w % 2 ^ 16 else if i = 5 then w % 2 ^ 24 else if i = 6 then w % 2 ^ 18 else if i = 7 then 0
  else if 8 ≤ i then w &&& 0x7FFF7FFF else w

def noseCell (s : State) (o : Nat) : Cell :=
  if o < 0x200 then
    let e := o / 0x100
    pick ([(0x00, .w32 (engLoad s e / 160))] ++ ctrRow 0x04 [.nsDet, .nsEarlyFalse, .nsTrunc, .nsOvl, .nsInLoss] e) (o % 0x100)
  else if 0x100000 ≤ o ∧ o < 0x104000 ∧ o % 4 = 0 then .w32 (ctxWordOf (getCtx s ((o - 0x100000) / 64)) (o % 64 / 4))
  else .none

/-! ### Jigs (R204) -/

/-- JG_QDEPTH: queued and running jobs of a partition by class. -/
def jgDepth (s : State) (d p : Nat) : Nat :=
  sumNat ((upFrom 1 5).map fun c =>
    let mine := fun (j : JgJob) => j.die == d && j.part == p && j.cls == c
    ((s.jig.queue.filter mine).length + (s.jig.running.filter fun r => mine r.job).length) * 2 ^ (9 * c - 9))

def jigCell (s : State) (d o : Nat) : Cell :=
  if o < 0x1000 then pick [(0, .w32 (tget s.jig.inst 0 d)), (8, .rc .jgFault d)] o
  else
    let p := (inBank 0x1000 0x100 o).1
    let k := 4 * d + p
    let e := tget s.jig.err {} k
    if 4 ≤ p then .none
    else pick ((upFrom 0 10).map (fun i => ((if i < 5 then 8 * i else 0x18 + 8 * i), Cell.w64 0)) ++
      [(0x80, .w32 (tget s.jig.share 0 k)), (0x88, .w64 (jgDepth s d p)), (0xA8, .w64 (e.addr + e.why * 2 ^ 48 + b2n e.valid * 2 ^ 63))] ++
      ctrRow 0x90 [.jgDone, .jgSubRej, .jgCxlMiss, .jgDescErr, .jgCrcFail, .jgRetry] k) (inBank 0x1000 0x100 o).2

/-! ### Dovetail (R205, R220) -/

/-- DV_PART_RANGE. -/
def rangeWord (s : State) (p d : Nat) : Nat :=
  let r := flowRange s p d
  if r.2 = 0 then 1 else r.1 + (r.1 + r.2 - 1) * 2 ^ 32

/-- A partition's bank. -/
def dvPartCell (s : State) (d p o : Nat) : Cell :=
  pick ([(0x000, .w64 (rangeWord s p d)), (0x008, .w64 (dvQuota s p d + quotaUsed s p d * 2 ^ 32))] ++
    (upFrom 0 16).map (fun i => (0x010 + 8 * i, Cell.w64 (csetOf s d p i))) ++ wordRow 0x090 ((upFrom 0 16).map fun i => csetCap s d p i) ++
    wordRow 0x100 ((upFrom 0 16).map fun i => lvlDepth s p d i) ++
    (upFrom 0 16).map (fun b => (0x140 + 4 * b, Cell.rc .dvWaitHist (16 * dvBank p d + b))) ++
    ctrRow 0x180 [.dvEnqRej, .dvCxlPre, .dvCxlRun, .dvTomb, .dvRelBad, .dvCxlMiss, .dvFwdStall, .dvFwdFail, .dvCfgRej] (dvBank p d)) o

/-- DV_CORE_STAT: WEIGHT, STAGED, HELD and AWAKE (R219, R220). No core is awake before the rails are up. -/
def dvCoreStat (s : State) (c : Nat) : Nat :=
  (getCore s c).weight + 32 * min 2 (stagedOn s c).length + 128 * min 4 (runningOn s c).length +
    1024 * b2n (2 ≤ s.su.stage && (match coreDom c with | some d => (getDom s d).state == .awake | none => true))

/-- Word `i` of a flow context (R205): the configuration, its rsvd bits zero, and the status. -/
def flowWordOf (s : State) (f i : Nat) : Nat :=
  let x := getFlow s f
  let half := fun (v k : Nat) => if k % 2 = 0 then v % 2 ^ 32 else v / 2 ^ 32 % 2 ^ 32
  match i with
  | 0 => x.raw0 &&& 0x0F0F7F
  | 1 => x.raw1 &&& 0x8003FFFF
  | 2 => x.raw2 % 2 ^ 16
  | 3 => 0
  | 4 => qcount s f
  | 5 => x.seqNext
  | 6 => x.seqOut
  | 7 => runningCount s f
  | 8 | 9 => half x.enqCnt i
  | 10 | 11 => half x.outCnt i
  | 12 | 13 => half x.tombCnt i
  | _ => half x.rejCnt i

def dvCell (s : State) (d o : Nat) : Cell :=
  if o = 0 then .w32 (poolFree s d)
  else if 0x1000 ≤ o ∧ o < 0x2000 then dvPartCell s d (inBank 0x1000 0x400 o).1 (inBank 0x1000 0x400 o).2
  else if 0x3000 ≤ o ∧ o < 0x3E00 then
    let c := globalCore d (inBank 0x3000 0x40 o).1
    let x := getDvCore s c
    pick [(0x00, .w64 x.mbox), (0x08, .w32 (dvCoreStat s c)), (0x10, .w64 (x.busy + x.items * 2 ^ 32))] (inBank 0x3000 0x40 o).2
  else if 0x800000 ≤ o ∧ o % 4 = 0 then .w32 (flowWordOf s ((o - 0x800000) / 64 + d * 2 ^ 17) (o % 64 / 4))
  else .none

/-! ### The fabric (R243) -/

/-- The die a packet stands on. -/
def pktDie (p : Pkt) : Nat := if p.crossed then portDie p.dest else portDie p.src

/-- NOC_RTE_EPOCH.OLD_UNITS: the units of the old epoch on a die while a change is in progress (R232). -/
def oldUnits (s : State) (d : Nat) : Nat :=
  let units := fun (l : List Pkt) => sumNat (l.map fun p => pktUnits p.cmd p.len p.status)
  if !(getNocDie s d).busy then 0
  else min 0xFFFF (units (s.noc.pkts.filter fun p => isOld s p && pktDie p == d) + units ((s.noc.dropLog.filter fun e => atStation d e.1).flatMap fun e => e.2))

/-- NOC_GATE_STAT of a port: its gate is open once stage 6 has opened it (R336), unless its domain is closed; DRAIN while the domain drains (R235). -/
def gateStat (s : State) (q : Nat) : Nat :=
  let drain := match portDom q with
    | some d => (getDom s d).state == .entering && !(getDom s d).drained
    | none => false
  b2n (6 < s.su.stage && portGate s q == 0) + 2 * b2n drain + 256 * min 255 (getPort s q).out.length

/-- The direction of bundle `b` that die `d` receives (R238, R243). -/
def rxDir (d b : Nat) : Option Nat :=
  if b < 32 then (if d = 2 then some (2 * b) else if b / 16 = d then some (2 * b + 1) else none)
  else if b < 40 ∧ d < 2 then some (2 * b + 1 - d) else none

def lnkCell (s : State) (k o : Nat) : Cell :=
  let l := getLink s k
  pick ([(0x00, .w32 (l.state + 4 * b2n l.clk + 8 * l.bad + 256 * l.rxLast))] ++
    (upFrom 0 17).map (fun i => (0x08 + 4 * i, Cell.rc .nocLnkLaneErr (17 * k + i))) ++ ctrRow 0x50 [.nocLnkRetry, .nocLnkCrcErr, .nocLnkDrop] k) o

def fabricCell (s : State) (d o : Nat) : Cell :=
  let x := getNocDie s d
  if o < 0x1000 then
    pick ([(0x00, .w32 (b2n x.cur + 2 * b2n x.busy + 8 * b2n x.late + oldUnits s d * 2 ^ 16)), (0x08, .w32 x.drainLim), (0x0C, .w32 x.epochLim),
           (0x10, .w32 x.reqTmo), (0x14, .w32 x.lnkThr)] ++ ctrRow 0x20 [.nocHcrcErr, .nocRteFail, .nocGateOrph] d) o
  else if o < 0x10000 then
    let b := inBank 0x1000 0x40 o
    let q := 72 * d + b.1
    let y := getPort s q
    let reg := fun (c : Nat) => regRate y c + regBurst y c * 2 ^ 16
    if (if d < 2 then 72 else 16) ≤ b.1 then .none
    else pick (wordRow 0 [reg 0, 0, reg 2, reg 3, gateStat s q] ++ ctrRow 0x14 [.nocGateRefuse, .nocReqTmo, .nocRspLate] q ++
      wordRow 0x20 y.chg) b.2
  else
    let b := inBank 0x10000 0x100 o
    match rxDir d b.1 with
    | some k => lnkCell s k b.2
    | none => .none

/-! ### DMA engines (R259) -/

/-- DMA_CH_STAT.STATE. -/
def dmaCode (x : DmaState) : Nat :=
  match x with
  | .idle => 0
  | .fetch => 1
  | .waitTrig => 2
  | .active => 3
  | .completing => 4
  | .parked => 5
  | .pausing => 6
  | .paused => 7
  | .halted => 8

def dmaCell (s : State) (e o : Nat) : Cell :=
  let c := (inBank 0x1000 0x100 o).1
  let k := dmaNo e c
  let x := getDma s k
  if o < 0x1000 ∨ 16 ≤ c then .none
  else pick ([(0x00, .w32 (2 * b2n x.pause)), (0x04, .w32 0),
              (0x08, .w32 (x.core + 128 * b2n x.irqEn + 256 * b2n x.hi + 512 * x.wmax + (if e < 24 then 0 else dmaPart s k % 4) * 2 ^ 16)),
              (0x0C, .w32 (dmaCode x.state + 16 * b2n x.done + 32 * b2n x.aerr + 64 * b2n x.pendDb + 128 * b2n (dmaBusy s k))),
              (0x10, .w64 x.desc), (0x18, .w32 x.pos), (0x1C, .w32 x.tick), (0x30, .w64 x.scur), (0x38, .w64 x.dcur),
              (0x40, .w64 (x.errAddr + x.errStat * 2 ^ 48 + x.errKind * 2 ^ 52 + b2n x.errV * 2 ^ 63)), (0x48, .w64 x.errDesc), (0x50, .w32 x.ccnt)] ++
    ctrRow 0x54 [.dmaLate, .dmaRej] k) (inBank 0x1000 0x100 o).2

/-! ### Memory (R282) -/

/-- MEM_TRKe and SR_TRKe. -/
def trkWord (l : List Trk) (e : Nat) : Nat :=
  match l[e]? with
  | some x => x.loc % 2 ^ 32 + x.count * 2 ^ 32 + x.lap % 256 * 2 ^ 40 + 2 ^ 63
  | none => 0

/-- MEM_SCRUB_LAP and SR_SCRUB_LAP: the position in the lap is shown in 1/65,536. -/
def lapWord (last no pos total : Nat) : Nat := last + no * 2 ^ 32 + pos * 65536 / total % 2 ^ 16 * 2 ^ 48

/-- MEM_REMAPj. -/
def remapWord (x : MemCh) (j : Nat) : Nat := tget x.remap 0 j + b2n (x.spareBad.contains j) * 2 ^ 62 + b2n (thas x.remap j) * 2 ^ 63

/-- A region register. -/
def rgnWord (x : Rgn) : Nat := x.base + x.limit * 2 ^ 24 + b2n x.valid * 2 ^ 48 + x.t * 2 ^ 49

def memCell (s : State) (ch o : Nat) : Cell :=
  let x := getCh s ch
  if 0x10000 ≤ o ∧ o < 0x18000 ∧ o % 8 = 0 then .w64 (remapWord x ((o - 0x10000) / 8))
  else if 0x20000 ≤ o ∧ o < 0x20200 ∧ o % 8 = 0 then .w64 (trkWord x.trk ((o - 0x20000) / 8))
  else pick ([(0x000, .w32 (b2n x.scrubEn + 2 * b2n x.rdpEn + 4 * x.rdpK + 256 * x.rowIdle + x.age * 2 ^ 16)),
              (0x008, .w32 (chState s ch + 8 * b2n (panicOn s) + 256 * x.debt + b2n x.chkOk * 2 ^ 12 + b2n x.spareOut * 2 ^ 13)),
              (0x050, .w64 (2 ^ 48 + s.mem.rgnDefT * 2 ^ 49)), (0x058, .w32 (x.gap + x.lapMax * 2 ^ 16)),
              (0x060, .w64 (lapWord x.lapLast x.lapNo x.scrubPos 4063104)), (0x068, .w32 (x.remap.length + x.spareBad.length * 2 ^ 16)),
              (0x070, .w64 (x.lastUnc + b2n x.lastUncV * 2 ^ 63)), (0x120, .w32 (x.injPos + x.injCnt * 2 ^ 16 + b2n x.injArm * 2 ^ 20))] ++
    (upFrom 0 8).map (fun i => (0x010 + 8 * i, Cell.w64 (rgnWord (tget s.mem.rgn {} i)))) ++ wordRow 0x080 x.urg ++ wordRow 0x100 x.dly ++
    ctrRow 0x140 memCtrs ch) o

def sramCell (s : State) (o : Nat) : Cell :=
  let i := o / 0x400
  let x := getSr s i
  if 27 ≤ i then .none
  else if 0x200 ≤ o % 0x400 ∧ o % 8 = 0 then .w64 (trkWord x.trk ((o % 0x400 - 0x200) / 8))
  else pick ([(0x00, .w32 (x.gap + x.lapMax * 2 ^ 16)), (0x08, .w64 (lapWord x.lapLast x.lapNo x.scrubPos (srTotal i))),
              (0x10, .w32 (b2n x.chkOk + 256 * (x.spares.filter fun e => 2 ≤ e.2).length + sumNat (x.spares.map fun e => e.2) * 2 ^ 16)),
              (0x18, .w64 (x.lastUnc + b2n x.lastUncV * 2 ^ 63))] ++
    ctrRow 0x20 [.srCorr, .srUnc, .srRepair, .srSpareOut, .srTrkOvf] i) (o % 0x400)

/-- The memory-panic block. -/
def panicCell (s : State) (o : Nat) : Cell :=
  let fh := fun (x : Pnc) => x.on + x.off * 2 ^ 16 + b2n x.en * 2 ^ 31
  let lv := fun (x : Pnc) => x.on + x.off * 2 ^ 8 + b2n x.en * 2 ^ 31
  pick (wordRow 0x000 ((upFrom 0 32).map fun m => fh (pncFh s m)) ++ wordRow 0x080 ((upFrom 0 2).map fun e => lv (pncNs s e)) ++
    wordRow 0x090 ((upFrom 0 4).map fun n => lv (pncBp s n)) ++ [(0x0A0, .w64 (s.mem.panicFh + s.mem.panicNs * 2 ^ 32 + s.mem.panicBp * 2 ^ 34))]) o

/-! ### Backhaul (R284, R304) -/

def bhPortCell (s : State) (n o : Nat) : Cell :=
  let x := getBp s n
  if 0x400 ≤ o ∧ o < 0x600 ∧ o % 8 = 0 then .w64 (tget x.rules 0 ((o - 0x400) / 8))
  else pick ([(0x00, .w32 (b2n x.en + 2 * b2n x.link)), (0x08, .w32 (x.defFlow + b2n x.defEn * 2 ^ 31)), (0x0C, .w32 (x.txFlow + b2n x.txEn * 2 ^ 31)),
              (0x10, .w64 (x.tsz + x.txAddr)), (0x18, .w32 (x.tail + x.head * 2 ^ 16)),
              (0x20, .w64 (b2n x.msEn + 2 * x.validate + 8 * b2n x.ptpClear + 16 * x.confOfs + 64 * b2n x.replay + x.window * 2 ^ 32)),
              (0x28, .w64 x.pnThr)] ++
    ctrRow 0x40 [.bhRxErr, .bhRxCtl, .bhRxNomatch, .bhRxOvsz, .bhRxNobuf, .bhRxFifo, .bhRxFrm, .bhTxFrm, .msRxOk, .msRxLate, .msRxInvalid,
      .msRxNotvalid, .msRxNosa, .msRxUntagged, .msTxProt, .msTxPnExh] n) o

def bhCell (s : State) (o : Nat) : Cell :=
  if o < 0x4000 then bhPortCell s (o / 0x1000) (o % 0x1000)
  else if 0x8000 ≤ o ∧ o < 0x8100 then
    let x := getRing s (inBank 0x8000 0x20 o).1
    pick [(0x00, .w64 (x.rsz + 32 * b2n x.bsize + x.addr + b2n x.en * 2 ^ 63)), (0x08, .w32 x.pi), (0x0C, .w32 x.ci)] (inBank 0x8000 0x20 o).2
  else .none

/-! ### The MC (R320, R344, R405) -/

/-- SU_STAT.DIE_OK: the dies that are not lost, once the die links have been calibrated (R335). [log 75: DEDUCED] -/
def dieOkBits (s : State) : Nat := if s.su.stage < 6 then 0 else b2n (!dieOut s 0) + 2 * b2n (!dieOut s 1)

/-- FLT_LOG_HEAD: INDEX of the newest and of the oldest record; of an empty log the spec gives none. [log 68: DEDUCED] -/
def logHead (s : State) : Cell :=
  match s.flt.log.head? with
  | some r => .w64 (s.flt.nextIndex - 1 + max r.index (s.flt.nextIndex - 262144) * 2 ^ 32)
  | none => .none

def mcCell (s : State) (o : Nat) : Cell :=
  let u := s.su
  let f := s.flt
  if 0x20000 ≤ o ∧ o < 0x20040 then pick [(0x0, .w64 0), (0x8, .w64 0)] (o % 0x10)
  else if 0x40010 ≤ o ∧ o < 0x401D0 ∧ o % 4 = 0 then
    let c := (o - 0x40010) / 4
    .w32 (min 3 (recentRestarts s c).length + 4 * tget f.coreState 0 c)
  else pick ([(0x30000, .w64 (progress u + b2n u.slot * 2 ^ 16 + b2n u.sel * 2 ^ 17 + b2n u.fallback * 2 ^ 18 + dieOkBits s * 2 ^ 19 +
                b2n u.recovery * 2 ^ 21 + u.rbc * 2 ^ 32)),
              (0x40000, .w64 (f.sev + 4 * b2n (!f.faultN) + 8 * f.dieLost + 32 * f.chOut + min 255 f.mcRst * 2 ^ 21)), (0x40008, logHead s),
              (0x40200, .rc .fltLogFail 0)] ++ wordRow 0x3000C ((upFrom 1 9).map fun j => tget u.ms 0 j)) o

/-! ### The power sequencer (R347, R360) -/

/-- The level whose offset a domain uses: that in force in a Chisel group, PL0 in every other domain. -/
def voltLevel (s : State) (d : Nat) : Nat := if isGroup d then (getDom s d).pl else 0

/-- The initial voltage of a domain's level in 0.1 mV (R347). -/
def initVolt (d l : Nat) : Nat :=
  if isGroup d then (if l = 0 then 8000 else if l = 1 then 7200 else if l = 2 then 6500 else 5800) else if d = 22 ∨ d = 23 then 9000 else 7500

/-- PWR_VOLT: until start-up has loaded the offsets it shows the calibrated ones, its values at reset (R360). -/
def voltWord (s : State) (d : Nat) : Nat :=
  let l := voltLevel s d
  let o := if s.su.stage < 6 then max (lget (getDom s d).ofs 0 l) (min 24 (Config.calOfs d l)) else lget (getDom s d).ofsNow 0 l
  initVolt d (voltLevel s d) + 25 * o + o * 2 ^ 16

/-- PWR_SUMMARY: no domain is awake before the rails are up (R328). [log 97: DEDUCED] -/
def pwrSummary (s : State) : Nat :=
  sumNat ((upFrom 0 24).map fun d =>
    let st := (getDom s d).state
    b2n (2 ≤ s.su.stage && st == .awake) * 2 ^ d + b2n (st == .failed) * 2 ^ (32 + d))

/-- PWR_DOM_STAT. -/
def domStat (s : State) (d : Nat) : Nat :=
  let x := getDom s d
  domCode x.state + 8 * (if isGroup d then x.pl else 0) + 32 * b2n (x.plTo.isSome || x.plRec.isSome) + 64 * b2n x.retLost + 256 * x.thr +
    (domOwner s d).getD 0 * 2 ^ 16 + b2n (domOwner s d).isNone * 2 ^ 18

def powerCell (s : State) (o : Nat) : Cell :=
  let d := (inBank 0x1000 0x80 o).1
  let x := getDom s d
  if o = 0 then .w64 (pwrSummary s)
  else if o < 0x1000 ∨ 24 ≤ d then .none
  else pick ([(0x00, .w32 0), (0x08, .w32 (domStat s d)), (0x10, .w32 (voltWord s d)), (0x18, .w64 x.retBanks),
              (0x20, .w64 (x.lastRef + 16 * b2n x.lastAbort + 32 * x.lastTarget + 128 * b2n x.lastV + 256 * x.lastN))] ++
    ctrRow 0x28 [.pwrEntry, .pwrWake, .pwrAbort] d ++ (upFrom 1 7).map (fun r => (0x30 + 4 * r, Cell.rc .pwrRef (8 * d + r))))
    (inBank 0x1000 0x80 o).2

/-! ### Thermal supervision and ageing (R381) -/

/-- TH_SENSs. -/
def sensWord (s : State) (i : Nat) : Nat :=
  (if bit s.th.broken i then 0x0960 else ofInt (tempOf s i) 16) + b2n (bit s.th.fast i) * 2 ^ 16 + b2n (bit s.th.broken i) * 2 ^ 17

def thermCell (s : State) (o : Nat) : Cell :=
  let c := s.th.cfg
  let h := hotSensor s
  let mon := fun (m : Nat) =>
    let x := tget s.age.mons {} m
    ofInt x.ratio 16 + ofInt x.slack 16 * 2 ^ 16 + b2n x.oos * 2 ^ 32
  if 0x1100 ≤ o ∧ o < 0x1500 ∧ o % 8 = 0 then .w64 (mon ((o - 0x1100) / 8))
  else if 0x100 ≤ o ∧ o < 0x280 ∧ o % 4 = 0 then .w32 (sensWord s ((o - 0x100) / 4))
  else pick ([(0x0000, .w64 (c.warn + c.throttle * 2 ^ 8 + c.shut * 2 ^ 16 + c.warnHyst * 2 ^ 24 + c.thrHyst * 2 ^ 28 + c.shutHyst * 2 ^ 32)),
              (0x0008, .w64 (c.step + c.min_ * 2 ^ 6 + c.hold * 2 ^ 16 + c.mode * 2 ^ 32)),
              (0x0010, .w64 (ofInt (tempOf s h) 16 + h * 2 ^ 16 + b2n s.th.armed * 2 ^ 23 + s.th.warnZ * 2 ^ 24)),
              (0x0018, .w64 (fld s.th.broken 0 64)), (0x0020, .w64 (fld s.th.broken 64 32)),
              (0x1000, .w64 (s.age.hours + (6 - s.age.hours % 6) % 6 * 2 ^ 32 + b2n s.age.busy * 2 ^ 35))] ++
    ctrRow 0x300 [.thWarn, .thThr] 0) o

/-! ### Reading -/

/-- What stands at an offset of a unit's block. The spec gives the registers of a core no block contents. -/
def cellAt (s : State) (u : RegUnit) (o : Nat) : Cell :=
  match u with
  | .core _ => .none
  | .dma e => dmaCell s e o
  | .jig d => jigCell s d o
  | .dovetail d => dvCell s d o
  | .fabric d => fabricCell s d o
  | .framer => framerCell s o
  | .lanes => laneCell s o
  | .gain => gainCell s o
  | .nose => noseCell s o
  | .mem ch => memCell s ch o
  | .sram => sramCell s o
  | .panic => panicCell s o
  | .backhaul => bhCell s o
  | .time => timeCell s o
  | .mc => mcCell s o
  | .power => powerCell s o
  | .thermal => thermCell s o

/-- The 32-bit word at an aligned offset: a register, or the upper half of one of 64 bits; none where no register stands. -/
def blockWord (s : State) (u : RegUnit) (o : Nat) : Option Nat :=
  match cellAt s u o with
  | .w32 v | .w64 v => some (v % 2 ^ 32)
  | .rc c k => some (ctrGet s c k % 2 ^ 32)
  | .none =>
    if o % 8 ≠ 4 then none
    else match cellAt s u (o - 4) with
      | .w64 v => some (v / 2 ^ 32 % 2 ^ 32)
      | .rc c k => if Counter.top c = 2 ^ 48 - 1 then some (ctrGet s c k / 2 ^ 32) else none
      | _ => none

/-- A read clears an RC counter (R9). -/
def clearAt (s : State) (u : RegUnit) (o : Nat) : State :=
  match cellAt s u o with
  | .rc c k => ctrSet s c k 0
  | _ => s

/-- The owner that the MC set for the bank at an offset of a unit's block (R5, R226); none where the registers serve the whole module or a die, which
every partition may read. [log 9: DESIGN CHOICE] -/
def bankOwner (s : State) (u : RegUnit) (o : Nat) : Option (Option Nat) :=
  match u with
  | .time => if 0x1000 ≤ o ∧ o < 0x1400 then some (some ((o - 0x1000) / 0x100)) else none
  | .lanes => if 0x10000 ≤ o then some (laneOwner s ((o - 0x10000) / 0x100)) else none
  | .framer => some (fhOwner s (if o < 0x8000 then o / 0x400 else (o - 0x100000) / 0x8000))
  | .gain => if 0x1000 ≤ o then some (gainOwner s ((o - 0x1000) / 0x40)) else none
  | .nose => if 0x100000 ≤ o then some (noseOwner s ((o - 0x100000) / 64)) else none
  | .jig _ => if 0x1000 ≤ o then some (some ((o - 0x1000) / 0x100)) else none
  | .dovetail d =>
    if 0x1000 ≤ o ∧ o < 0x2000 then some (some ((o - 0x1000) / 0x400))
    else if 0x3000 ≤ o ∧ o < 0x3E00 then some (coreOwner s (globalCore d ((o - 0x3000) / 0x40)))
    else if 0x800000 ≤ o then some (flowOwner s ((o - 0x800000) / 64 + d * 2 ^ 17)) else none
  | .dma e => if 0x1000 ≤ o then some (some (dmaPart s (dmaNo e ((o - 0x1000) / 0x100)))) else none
  | .backhaul =>
    if o < 0x4000 then some (bpOwner s (o / 0x1000)) else if 0x8000 ≤ o ∧ o < 0x8100 then some (ringOwner s ((o - 0x8000) / 0x20)) else none
  | .core c => some (coreOwner s c)
  | .fabric _ | .mem _ | .sram | .panic | .mc | .power | .thermal => none

/-- May partition `who` (none: the MC) read a bank (R226)? [log 9: DESIGN CHOICE] -/
def readMay (s : State) (who : Option Nat) (u : RegUnit) (o : Nat) : Bool :=
  match who, bankOwner s u o with
  | some p, some w => w == some p
  | _, _ => true

/-- The words of a read, in ascending order: where no register stands the spec gives no value, and the word is free. -/
def readWordsOf (s : State) (u : RegUnit) : List Nat → List Nat × State
  | [] => ([], s)
  | o :: r =>
    let (v, s) : Nat × State := match blockWord s u o with
      | some v => (v, s)
      | none => takeFree s 32
    match readWordsOf s u r with
    | (vs, s) => (v :: vs, s)

/-- Is it the block of a core under test (R391)? -/
def underTest (s : State) (u : RegUnit) : Bool :=
  match u with
  | .core c => (getCore s c).run == .testing
  | _ => false

/-- The SRAM words of the flow store that a read of a unit's block touches (R205, R275, R276). -/
def flowWordsOf (u : RegUnit) (o n : Nat) : List Nat :=
  match u with
  | .dovetail d => if 0x800000 ≤ o then wordsOf (8 * (2 ^ 45 + (24 + d.val) * 2 ^ 24 + 8388608) + (o - 0x800000)) n else []
  | _ => []

/-- A read of `n` bytes at an offset of a unit's block (R9, R10): STATUS, bytes, state. The words that it touches are read, and the counters among them
cleared. A core under test answers STATUS 4 (R391), an uncorrectable word of the flow store STATUS 1 (R275). [log 45: DESIGN CHOICE] -/
def regRead (s : State) (who : Option Nat) (u : RegUnit) (o n : Nat) : Nat × List Byte × State :=
  if !readMay s who u o then (5, [], s)
  else if underTest s u then (4, [], s)
  else match readWords s (flowWordsOf u o n) with
  | (st + 1, s) => (st + 1, [], s)
  | (0, s) =>
    let ws := if n = 0 then [] else (upFrom (o / 4) ((o + n - 1) / 4 - o / 4 + 1)).map fun i => 4 * i
    match readWordsOf s u ws with
    | (vs, s') => (0, ((vs.flatMap fun v => leBytes v 4).drop (o % 4)).take n, ws.foldl (fun s o => clearAt s u o) s')

/-- A read at an address of register space: an address that maps to no unit is answered with STATUS 4, one behind a closed gate with what the gate
answers (R222, R226, R234). -/
def spaceRead (s : State) (who : Option Nat) (a n : Nat) : Nat × List Byte × State :=
  match regAddr a with
  | none => (4, [], s)
  | some (u, o) =>
    let g := portGate s (unitPort u o)
    if g != 0 then (g, [], noteRefused s a g) else regRead s who u o n

end Sys2Proof.Machine
end

