-- ==== Sys2Proof/Machine/DmaOps.lean ====
section
/-!
DEFINITION. Descriptors, wraps, marquetry modes, triggers and completions of the DMA engines (11_dma R245 to R258).
-/
namespace Sys2Proof.Machine

/-! ### Descriptor fields (R245) -/

def dd (d : List Byte) (i n : Nat) : Nat := ofLe ((d.drop i).take n)
def ddCtl (d : List Byte) : Nat := dd d 0 4
def ddMode (d : List Byte) : Nat := fld (ddCtl d) 0 4
def ddTrig (d : List Byte) : Nat := fld (ddCtl d) 4 3
def ddLen (d : List Byte) : Nat := fld (dd d 4 4) 0 24
def ddSwrap (d : List Byte) : Nat := fld (dd d 8 8) 48 6
def ddDwrap (d : List Byte) : Nat := fld (dd d 16 8) 48 6
def ddLink (d : List Byte) : Nat := dd d 24 8
def ddEnd (d : List Byte) : Bool := bit (ddLink d) 0
def ddNext (d : List Byte) : Nat := fld (ddLink d) 6 42 * 64
def ddFlow (d : List Byte) : Nat := fld (dd d 36 4) 0 18
def ddTval (d : List Byte) : Nat := dd d 48 8
def ddMpar (d : List Byte) : Nat := dd d 56 8
def ddOwn (d : List Byte) : Bool := bit (ddCtl d) 31
def ddLand (d : List Byte) : Bool := bit (ddCtl d) 10

/-- Record size of a Veneer mode (R249). -/
def ddRs (d : List Byte) : Nat := lget [13, 16, 25, 32] 13 (fld (ddMpar d) 24 2)
def ddRecs (d : List Byte) : Nat := ddLen d / ddRs d
def ddPlane (d : List Byte) : Nat := fld (ddMpar d) 0 24
/-- Mantissa bytes of a record: 12 or 24. -/
def ddM (d : List Byte) : Nat := if fld (ddMpar d) 24 2 < 2 then 12 else 24
def ddA (d : List Byte) : Nat := fld (ddMpar d) 0 11
def ddP (d : List Byte) : Nat := fld (ddMpar d) 16 16
def ddR (d : List Byte) : Nat := fld (ddMpar d) 32 7

/-- A wrap value (R245). -/
def wrapOk (w : Nat) : Bool := w == 0 || (6 ≤ w && w ≤ 32)

/-- The rsvd fields (R246). [log 89: DEDUCED] -/
def ddRsvdOk (d : List Byte) : Bool :=
  fld (ddCtl d) 13 18 == 0 && fld (dd d 4 4) 24 8 == 0 && fld (dd d 8 8) 54 10 == 0 && fld (dd d 16 8) 54 10 == 0 &&
  fld (ddLink d) 1 5 == 0 && fld (ddLink d) 48 16 == 0 && fld (dd d 36 4) 18 14 == 0

/-- MPAR and LEN of a mode (R249). `dst` is the destination start address. -/
def ddModeOk (d : List Byte) (dst : Nat) : Bool :=
  let m := ddMpar d
  match ddMode d with
  | 0 => m == 0
  | 1 | 2 =>
    fld m 11 5 == 0 && fld m 39 25 == 0 && 1 ≤ ddA d && ddA d ≤ 1024 && 1 ≤ ddP d && 1 ≤ ddR d && ddR d ≤ 64 &&
    ddLen d == ddA d * ddP d * ddR d
  | 3 | 4 => fld m 26 38 == 0 && fld m 24 2 < 2 && ddLen d % ddRs d == 0 && 6 * ddRecs d ≤ ddPlane d
  | 5 => fld m 26 38 == 0 && ddLen d % ddRs d == 0 && ddRecs d ≤ ddPlane d
  | 6 => dst % 64 == 0 && ddLen d % 64 == 0
  | _ => false

/-- TVAL of a trigger (R251, R246). -/
def ddTrigOk (s : State) (d : List Byte) : Bool :=
  let v := ddTval d
  match ddTrig d with
  | 0 => v == 0
  | 1 | 2 => fld v 21 11 == 0 && fld v 48 16 == 0 && fld v 32 16 * 6144 < normTc s.tu.mu * 3125
  | 3 => fld v 32 32 == 0
  | 4 => fld v 4 12 == 0 && fld v 32 32 == 0
  | _ => false

/-- The start addresses of a descriptor (R247). -/
def startSrc (x : DmaCh) : Nat := if bit (ddCtl x.cur) 11 then x.scur else fld (dd x.cur 8 8) 0 48
def startDst (x : DmaCh) : Nat := if bit (ddCtl x.cur) 12 then x.dcur else fld (dd x.cur 16 8) 0 48

/-- The checks of R246. -/
def ddOk (s : State) (k : Nat) (x : DmaCh) : Bool :=
  let d := x.cur
  ddRsvdOk d && ddLen d != 0 && wrapOk (ddSwrap d) && wrapOk (ddDwrap d) && ddModeOk d (startDst x) && ddTrigOk s d &&
  !(bit (ddCtl d) 8 && !ownsFlow s (dmaPart s k) (ddFlow d))

/-! ### Addresses (R247) -/

/-- The address of offset `o` from start `a` with wrap `w`. -/
def wrapAddr (a w o : Nat) : Nat := if w = 0 then (a + o) % 2 ^ 48 else a / 2 ^ w * 2 ^ w + (a % 2 ^ w + o) % 2 ^ w

/-- A range of offsets cut at wrap points and 4 KiB boundaries (R223, R250): addresses and lengths. -/
def wrapPieces (a w o n : Nat) : Nat → List (Nat × Nat)
  | 0 => []
  | f + 1 =>
    if n = 0 then []
    else
      let p := wrapAddr a w o
      let k := min (4096 - p % 4096) (if w = 0 then n else min n (2 ^ w - p % 2 ^ w))
      (p, k) :: wrapPieces a w (o + k) (n - k) f

/-- Source and destination extents (R249). -/
def extents (d : List Byte) : Nat × Nat :=
  let l := ddLen d
  match ddMode d with
  | 3 => (l, 2 * ddPlane d + ddRecs d)
  | 4 => (2 * ddPlane d + ddRecs d, l)
  | 5 => (l, ddPlane d + ddM d * ddRecs d)
  | 6 => (0, l)
  | _ => (l, l)

/-- The units of a descriptor (R250). -/
def unitsOf (d : List Byte) : Nat :=
  match ddMode d with
  | 1 | 2 => ddA d * ddP d
  | 3 | 4 | 5 => ddRecs d
  | _ => ddLen d

/-! ### What a unit reads and writes (R249) -/

/-- The source ranges of unit `u` of modes 1 to 5, as offsets and lengths. -/
def unitReads (d : List Byte) (u : Nat) : List (Nat × Nat) :=
  match ddMode d with
  | 1 | 2 => [(u * ddR d, ddR d)]
  | 4 => [(6 * u, 6), (ddPlane d + 6 * u, 6), (2 * ddPlane d + u, 1)]
  | _ => [(u * ddRs d, ddRs d)]

/-- A nibble of a byte. -/
def nib (b : Byte) (hi : Nat) : Nat := fld b.toNat (4 * hi) 4

/-- Pairs of nibbles as bytes, the first of a pair in the low half. -/
def nibBytes : List Nat → List Byte
  | a :: b :: r => BitVec.ofNat 8 (a + 16 * b) :: nibBytes r
  | [a] => [BitVec.ofNat 8 a]
  | [] => []

/-- The nibbles of bytes, the low half of each first. -/
def nibsOf (bs : List Byte) : List Nat := bs.flatMap fun b => [nib b 0, nib b 1]

/-- The destination ranges of unit `u` of modes 1 to 5 from the bytes it read: offsets and bytes. -/
def unitWrites (d : List Byte) (u : Nat) (bs : List Byte) : List (Nat × List Byte) :=
  match ddMode d with
  | 1 => [((u % ddP d * ddA d + u / ddP d) * ddR d, bs)]
  | 2 => [((u % ddA d * ddP d + u / ddA d) * ddR d, bs)]
  | 3 =>
    let el := (bs.drop 1).take 12
    [(6 * u, nibBytes (el.map fun b => nib b 0)), (ddPlane d + 6 * u, nibBytes (el.map fun b => nib b 1)),
     (2 * ddPlane d + u, bs.take 1)]
  | 4 =>
    let el := (List.zip (nibsOf (bs.take 6)) (nibsOf ((bs.drop 6).take 6))).map fun p => (BitVec.ofNat 8 (p.1 + 16 * p.2) : Byte)
    let r := (bs.drop 12).take 1 ++ el
    [(u * ddRs d, r ++ List.replicate (ddRs d - 13) 0)]
  | _ => [(u, bs.take 1), (ddPlane d + ddM d * u, (bs.drop 1).take (ddM d))]

/-- The pattern bytes of FILL. -/
def fillBytes (pat a n : Nat) : List Byte := (upFrom a n).map fun i => BitVec.ofNat 8 (fld pat (8 * (i % 8)) 8)

/-! ### Moving data -/

/-- A request of the channel takes its SEQ (R224). -/
def takeSeq (s : State) (q : Nat) : State :=
  setPort s q { getPort s q with seq := tset (getPort s q).seq 0 ((tget (getPort s q).seq 0 0 + 1) % 4096) }

/-- Does a bundle that is down lie on the way of the channel's READ or of its answer: STATUS 4 (R242, R253)? -/
def dmaCut (s : State) (k a : Nat) : Bool := match destOf a with
  | some d => pathDown s (dmaPort k) d || pathDown s d (dmaPort k)
  | none => false

/-- Reads source pieces in turn by READ requests: the bytes up to the first failure, its address and STATUS (0 for none). No further reads are issued
after it (R253). [log 45: DESIGN CHOICE; log 93: DESIGN CHOICE] -/
def dmaRead (s : State) (k : Nat) : List (Nat × Nat) → (List Byte × Nat × Nat) × State
  | [] => (([], 0, 0), s)
  | (a, n) :: r =>
    let p := some (dmaPart s k)
    let s := takeSeq s (dmaPort k)
    let (st, bs, s) := if dmaCut s k a then (4, [], s) else if targetOf a = .regs then spaceRead s p a n else memRead s p a n
    if st ≠ 0 then (([], a, st), s)
    else
      let ((l, e), s) := dmaRead s k r
      ((bs ++ l, e), s)

/-- The bytes read, those that `hit` (by index and address) replaced by free values: bytes that the descriptor may already have written (R248).
[log 58: DESIGN CHOICE] -/
def blur (s : State) (hit : Nat → Nat → Bool) (addrs : List Nat) (bs : List Byte) : List Byte × State :=
  ((List.zip (upFrom 0 bs.length) (List.zip addrs bs)).map fun e =>
    if hit e.1 e.2.1 then BitVec.ofNat 8 (Config.free (s.fresh + e.1)) else e.2.2, { s with fresh := s.fresh + bs.length })

/-- Reads from offsets of the source: the bytes up to the first failure, its address and STATUS. `hit` says which bytes of the packet itself may have been
written before they are read. [log 58: DESIGN CHOICE] -/
def dmaGet (s : State) (k : Nat) (hit : Nat → Nat → Bool) (rs : List (Nat × Nat)) : (List Byte × Nat × Nat) × State :=
  let x := getDma s k
  let ps := rs.flatMap fun r => wrapPieces x.src0 (ddSwrap x.cur) r.1 r.2 (r.2 + 1)
  let ((bs, e), s) := dmaRead s k ps
  let (bs, s) := blur s (fun i a => hit i a || x.wrote.any fun w => w.1 ≤ a && a < w.1 + w.2) (ps.flatMap fun r => upFrom r.1 r.2) bs
  ((bs, e), s)

/-- A stream write of a channel (R250): SWRITE, or SWRITE_L with LAND = 1, through its port; an address without a target fails at once (R222).
[log 93: DESIGN CHOICE] -/
def dmaSend (s : State) (k a : Nat) (bs : List Byte) : State :=
  let x := getDma s k
  let q := dmaPort k
  match destOf a with
  | none => setDma s k (writeErr x a 4)
  | some d =>
    let n := tget (getPort s q).seq 0 2
    let x := { x with seqs := x.seqs ++ [n], wrote := if targetOf a != .regs && reachStatus s (some (dmaPart s k)) a != 0 then x.wrote else x.wrote ++ [(a, bs.length)] }
    sendPkt (setDma s k x) q
      { dest := d, src := q, subsrc := dmaSub k, cls := 2, cmd := if ddLand x.cur then 0x21 else 0x20, epoch := (getPort s q).epoch, addr := a
        len := bs.length, seq := 0, status := 0, part := some (dmaPart s k), page := 0, aop := 0, aw := false, opnd := 0, cmp := 0, data := bs }

/-- Is a destination byte already written by a higher offset of a region that the descriptor passes more than once (R247)? That data remains. -/
def overwritten (x : DmaCh) (o : Nat) : Bool :=
  let w := 2 ^ ddDwrap x.cur
  ddDwrap x.cur != 0 && x.wroteO.any fun r =>
    (if r.1 ≤ o then o + w else o + (r.1 - o + w - 1) / w * w) < r.1 + r.2

/-- Sends the bytes of destination pieces, each in packets of at most `m` bytes; `fuel` bounds the packets. -/
def dmaPieces (s : State) (k m : Nat) (bs : List Byte) : List (Nat × Nat) → Nat → State
  | _, 0 => s
  | [], _ => s
  | (a, n) :: r, f + 1 =>
    if n ≤ m then dmaPieces (dmaSend s k a (bs.take n)) k m (bs.drop n) r f
    else dmaPieces (dmaSend s k a (bs.take m)) k m (bs.drop m) ((a + m, n - m) :: r) f

/-- Writes bytes from offset `o` of the destination on (R247, R250). -/
def dmaPut (s : State) (k : Nat) (o : Nat) (bs : List Byte) : State :=
  let x := getDma s k
  let w := ddDwrap x.cur
  let s :=
    if (upFrom o bs.length).any (overwritten x) then
      ((List.zip (upFrom o bs.length) bs).filter fun e => !overwritten x e.1).foldl (fun s e => dmaSend s k (wrapAddr x.dst0 w e.1) [e.2]) s
    else dmaPieces s k (64 * 2 ^ x.wmax) bs (wrapPieces x.dst0 w o bs.length (bs.length + 1)) (2 * bs.length + 1)
  updDma s k fun x => { x with wroteO := x.wroteO ++ [(o, bs.length)] }

/-- A read error (R253). -/
def readFailed (s : State) (k a st : Nat) : State :=
  updDma s k fun x => noteErr { x with rdErr := st, fstat := if x.fstat = 0 then st else x.fstat } a st 1

/-- Moves units from DMA_CH_POS up to `lim`, or to a failed read. Each turn moves one packet of a copy or fill (R250: cut at 64 × 2^WMAX bytes, 4 KiB
boundaries and wrap points) or one record; data read before a failure is written (R253). [log 58: DESIGN CHOICE] -/
def moveUnits (s : State) (k lim : Nat) : Nat → State
  | 0 => s
  | f + 1 =>
    let x := getDma s k
    let d := x.cur
    let o := x.pos
    if lim ≤ o then s
    else
      let mode := ddMode d
      if mode = 0 ∨ mode = 6 then
        let a := wrapAddr x.dst0 (ddDwrap d) o
        let w := ddDwrap d
        let n := min (min (lim - o) (4096 - a % 4096)) (min (64 * 2 ^ x.wmax) (if w = 0 then lim - o else 2 ^ w - a % 2 ^ w))
        let ((bs, fa, st), s) := if mode = 6 then ((fillBytes (ddMpar d) (x.dst0 + o) n, 0, 0), s)
          else dmaGet s k (fun i t => a ≤ t && t < a + i) [(o, n)]
        let s := updDma (if bs.isEmpty then s else dmaPut s k o bs) k fun x => { x with pos := o + bs.length }
        if st ≠ 0 then readFailed s k fa st else moveUnits s k lim f
      else
        let ((bs, fa, st), s) := dmaGet s k (fun _ _ => false) (unitReads d o)
        if st ≠ 0 then readFailed s k fa st
        else
          let s := (unitWrites d o bs).foldl (fun s e => dmaPut s k e.1 e.2) s
          moveUnits (updDma s k fun x => { x with pos := o + 1 }) k lim f

/-- DMA_CH_SCUR and DCUR while units remain: the addresses of the first unit not yet written (R256). [log 57: DEDUCED] -/
def curAddrs (x : DmaCh) : Nat × Nat :=
  let d := x.cur
  let so := match ddMode d with
    | 0 => x.pos
    | 6 => 0
    | _ => ((unitReads d x.pos).headD (0, 0)).1
  let do_ := match ddMode d with
    | 0 | 6 => x.pos
    | _ => ((unitWrites d x.pos []).headD (0, [])).1
  (wrapAddr x.src0 (ddSwrap d) so, wrapAddr x.dst0 (ddDwrap d) do_)

/-! ### Triggers (R251) -/

/-- N of a tick-triggered descriptor. -/
def trigTick (s : State) (x : DmaCh) : Nat :=
  let v := fld (ddTval x.cur) 0 21
  if ddTrig x.cur = 2 then (x.tick + v) % ticksPerCycle s.tu.mu else v % ticksPerCycle s.tu.mu

/-- (N − current tick) mod the cycle. -/
def tickAhead (s : State) (n : Nat) : Nat := (n + ticksPerCycle s.tu.mu - absTick s) % ticksPerCycle s.tu.mu

/-- The due instant within the current tick. -/
def dueNs (s : State) (x : DmaCh) : Int := tickStartAt s 0 + (fld (ddTval x.cur) 32 16 : Int)

/-- Is the descriptor late as the channel becomes ready for it? -/
def isLateNow (s : State) (x : DmaCh) (n : Nat) : Bool :=
  match ddTrig x.cur with
  | 1 | 2 => 71680 * 2 ^ s.tu.mu ≤ tickAhead s n || (tickAhead s n == 0 && dueNs s x < (s.now : Int))
  | 3 => 0 < int32 (nsCounter s) (fld (ddTval x.cur) 0 32)
  | _ => false

/-- Has the due instant of an on-time descriptor come? -/
def isDue (s : State) (k : Nat) (x : DmaCh) : Bool :=
  match ddTrig x.cur with
  | 1 | 2 => 71680 * 2 ^ s.tu.mu ≤ tickAhead s x.trigN || (tickAhead s x.trigN == 0 && dueNs s x ≤ (s.now : Int))
  | 3 => 0 ≤ int32 (nsCounter s) (fld (ddTval x.cur) 0 32)
  | 4 =>
    let j := fld (ddTval x.cur) 0 4
    0 ≤ sx (ofInt ((getDma s (k / 16 * 16 + j)).ccnt - (fld (ddTval x.cur) 16 16 : Int)) 16) 16
  | _ => true

/-- The channel is ready: its trigger is tested (R251). -/
def testTrigger (s : State) (k : Nat) : State :=
  let x := getDma s k
  let n := trigTick s x
  setDma s k { x with state := .waitTrig, late := isLateNow s x n, trigN := n }

/-! ### Parking and completion (R252 to R256) -/

/-- Where a channel goes when it has nothing left to run: parked, or re-fetching where a doorbell is pending (R254). `link`: it parks on the
END of the descriptor, not on its OWN. With PAUSE = 1 it pauses instead. -/
def park (s : State) (k : Nat) (link : Bool) : State :=
  let x := getDma s k
  let st : DmaState := if x.pendDb then .fetch else .parked
  let x := { x with pendDb := false, linkOnly := link }
  setDma s k (if x.pause then { x with state := .paused, back := st } else { x with state := st })

/-- Halts a channel: DONE is set whatever IRQ is (R253). -/
def haltDma (s : State) (k : Nat) : State :=
  signalDma (updDma s k fun x => { x with state := .halted, done := true, haltNext := false, stop := false }) k

/-- The STATUS word of a descriptor (R252). [log 57: DEDUCED] -/
def dmaStatus (code fstat : Nat) (late land : Bool) : Nat :=
  code + fstat % 16 * 2 ^ 8 + b2n late * 2 ^ 12 + b2n land * 2 ^ 13

/-- A completed descriptor's signals (R252 step 4). -/
def dmaSignals (s : State) (k : Nat) : State :=
  let x := getDma s k
  let d := x.cur
  let s := setDma s k { x with ccnt := (x.ccnt + 1) % 65536, done := x.done || bit (ddCtl d) 9 }
  let s := if bit (ddCtl d) 9 then signalDma s k else s
  if bit (ddCtl d) 8 then
    (enqueueExt s (dmaPart s k)
      { flow := ddFlow d, kind := 5, tag := BitVec.ofNat 64 (dd d 40 8), arg0 := BitVec.ofNat 64 (k / 16 + k % 16 * 2 ^ 8)
        arg1 := BitVec.ofNat 64 x.desc }).2.1
  else s

/-- A WRITE request of the channel for STATUS or CTL (R252): it takes its SEQ, and nothing is written where a bundle that is down lies before its target
(R242). [log 93: DESIGN CHOICE] -/
def dmaWrite (s : State) (k a : Nat) (bs : List Byte) : State :=
  let s := takeSeq s (dmaPort k)
  if (match destOf a with
    | some d => pathDown s (dmaPort k) d
    | none => false) then s
  else (memWrite s (some (dmaPart s k)) a bs).2.2

/-- Completes the current descriptor with a CODE (R252): STATUS, OWN = 0, signals; then the channel halts, goes idle after a STOP, parks at END,
pauses, or fetches the next descriptor (R253, R254, R257). `halt`: the CODE halts it. [log 57: DEDUCED] -/
def completeDesc (s : State) (k code fstat : Nat) (land halt : Bool) : State :=
  let x := getDma s k
  let d := x.cur
  let s := dmaWrite s k (x.desc + 32) (leBytes (dmaStatus code fstat (x.late && code != 2) land) 4)
  let s := dmaWrite s k x.desc (leBytes (ddCtl d % 2 ^ 31) 4)
  let s := dmaSignals s k
  let x := getDma s k
  let x := { x with seqs := [], endCode := 0, gone := (x.gone.filter fun e => !x.seqs.contains e.1) ++ x.seqs.map fun n => (n, x.desc) }
  let s := setDma s k x
  if halt || x.haltNext then haltDma s k
  else if x.stop then setDma s k { x with state := .idle, stop := false }
  else if ddEnd d then park s k true
  else
    let x := { x with desc := ddNext d, linkOnly := false }
    setDma s k (if x.pause then { x with state := .paused, back := .fetch, pos := 0 } else { x with state := .fetch })

/-- DMA_CH_SCUR and DCUR after a descriptor has completed, whatever its CODE (R247). [log 57: DEDUCED] -/
def setCurs (s : State) (k : Nat) : State :=
  updDma s k fun x =>
    let e := extents x.cur
    { x with scur := wrapAddr x.src0 (ddSwrap x.cur) e.1, dcur := wrapAddr x.dst0 (ddDwrap x.cur) e.2 }

/-- The end of a descriptor (R252, R253): once its data has left or landed it completes with its CODE; until then the channel is COMPLETING. A descriptor
with both a failed read and a failed write takes the read's CODE. [log 57: DEDUCED] -/
def finishDesc (s : State) (k : Nat) : State :=
  let s := pump s (dmaPort k)
  if dmaAwaits s k then updDma s k fun x => { x with state := .completing }
  else
    let s := setCurs s k
    let x := getDma s k
    let land := ddLand x.cur
    if x.endCode ≠ 0 then completeDesc s k x.endCode x.fstat land false
    else if x.rdErr ≠ 0 then completeDesc s k 0x20 x.fstat land true
    else if x.wrErr ≠ 0 then completeDesc s k 0x21 x.fstat land true
    else completeDesc s k 0x01 0 land false

end Sys2Proof.Machine
end

