-- ==== Sys2Proof/Machine/CoreOps.lean ====
section
/-!
DEFINITION. What every core instruction shares: registers (R109), traps (R125 to R127), address translation (R134, R135),
protection (R124), memory access (R116, R128), and the frame of one instruction.
-/
namespace Sys2Proof.Machine

/-! ### Registers (R109, R138, R139) -/

/-- g register `i`: g0 reads as zero. -/
def gRead (x : Core) (i : Nat) : Word := if i = 0 then 0 else tget x.g 0 i

/-- g register `i` written: writes to g0 are discarded. -/
def gWrite (x : Core) (i : Nat) (v : Word) : Core := if i = 0 then x else { x with g := tset x.g i v }

/-- v register `i`. -/
def vRead (x : Core) (i : Nat) : BitVec 2048 := tget x.v 0 i
def vWrite (x : Core) (i : Nat) (v : BitVec 2048) : Core := { x with v := tset x.v i v }

/-- Predicate `i`: p0 reads as all ones and discards writes. -/
def pRead (x : Core) (i : Nat) : BitVec 256 := if i = 0 then BitVec.allOnes 256 else tget x.p 0 i
def pWrite (x : Core) (i : Nat) (v : BitVec 256) : Core := if i = 0 then x else { x with p := tset x.p i v }

/-- Accumulator `i`. -/
def aRead (x : Core) (i : Nat) : BitVec 8192 := tget x.a 0 i
def aWrite (x : Core) (i : Nat) (v : BitVec 8192) : Core := { x with a := tset x.a i v }

/-- VLEN in bytes (R139). -/
def vlenB (x : Core) (c : Nat) : Nat := if isChisel c && !x.narrow then 256 else 16

/-! ### Instruction words (R110) -/

def wordA (op rd rs1 rs2 funct : Nat) : Nat := op * 2 ^ 26 + rd * 2 ^ 21 + rs1 * 2 ^ 16 + rs2 * 2 ^ 11 + funct
def wordB (op rd rs1 imm : Nat) : Nat := op * 2 ^ 26 + rd * 2 ^ 21 + rs1 * 2 ^ 16 + imm
def wordC (op rs off : Nat) : Nat := op * 2 ^ 26 + rs * 2 ^ 21 + off
def wordM (op rt rb fn off : Nat) : Nat := op * 2 ^ 26 + rt * 2 ^ 21 + rb * 2 ^ 16 + fn * 2 ^ 12 + off
def wordV (op vd vs1 vs2 pg funct : Nat) : Nat := op * 2 ^ 26 + vd * 2 ^ 21 + vs1 * 2 ^ 16 + vs2 * 2 ^ 11 + pg * 2 ^ 7 + funct
def wordX (op rd rs1 sub imm : Nat) : Nat := op * 2 ^ 26 + rd * 2 ^ 21 + rs1 * 2 ^ 16 + sub * 2 ^ 10 + imm

/-! ### The Rasp lock's release (R177, R178) -/

/-- The contents of k0 to k15 become undefined (R177): sixteen free values. [log 2: DESIGN CHOICE; log 49: DEDUCED] -/
def scrambleK (s : State) (cl : Nat) : State :=
  let r := getRasp s cl
  let k := (upFrom 0 16).map fun i => (i, BitVec.ofNat 2048 (Config.free (s.fresh + i)))
  { setRasp s cl { r with k := k } with fresh := s.fresh + 16 }

/-- Releases core `c`'s Rasp lock if it holds it. Instructions still in flight finish with their write-back discarded (R178). -/
def dropLock (s : State) (c : Nat) : State :=
  let cl := coreCluster c
  let r := getRasp s cl
  let r := { r with queue := r.queue.filter fun q => q != c }
  if r.holder = some c then
    scrambleK (setRasp s cl { r with
      holder := none, unlocking := none, flight := r.flight.map fun o => if o.core == c then { o with discard := true } else o }) cl
  else setRasp s cl r

/-- Withdraws core `c`'s waiting RLOCK (R177). -/
def withdrawRlock (s : State) (c : Nat) : State :=
  let cl := coreCluster c
  let r := getRasp s cl
  setRasp s cl { r with queue := r.queue.filter fun q => q != c, unlocking := if r.unlocking = some c then none else r.unlocking }

/-- Does the core stand in an RLOCK or RUNLOCK that has not completed? -/
def inRaspWait (s : State) (c : Nat) : Bool :=
  isChisel c && ((getRasp s (coreCluster c)).queue.contains c || (getRasp s (coreCluster c)).unlocking == some c)

/-! ### Traps (R125, R126) -/

/-- HZ_CAUSE of a trap. [log 10: DESIGN CHOICE] -/
def causeWord (code sub : Nat) (int : Bool) : Word := BitVec.ofNat 64 (code + sub * 256 + b2n int * 2 ^ 63)

/-- Taking a trap, as R125 states it: EPC, CAUSE and TVAL are set, IE and PL saved, the level becomes S, and the core goes on at HZ_TVEC. -/
def takeTrap (x : Core) (code sub : Nat) (int : Bool) (tval epc : Word) : Core :=
  { x with
    epc := epc, cause := causeWord code sub int, tval := tval
    pie := x.ie, ie := false, ppl := x.pl, pl := 1, exl := true
    pc := x.tvec }

/-- The Rasp instructions that core `c` has issued behind an instruction that does not complete are killed (R178, R179): their tags are used up, and
their registers and scoreboard bits are as before. How many have issued is the core's affair: a free number, within the 16 that may be in flight.
[log 49: DEDUCED] -/
def killYounger (s : State) (c : Nat) : State :=
  let cl := coreCluster c
  if isChisel c && (getRasp s cl).holder == some c then
    let (k, s) := takeFree s 5
    let r := getRasp s cl
    setRasp s cl { r with nextTag := (r.nextTag + min k (16 - r.flight.length)) % 64 }
  else s

/-- Core `c`'s Rasp lock is released (R178): what it has issued and not committed is killed, what runs finishes with its write-back discarded. -/
def releaseLock (s : State) (c : Nat) : State := if isChisel c then dropLock (killYounger s c) c else s

/-- A synchronous exception of the instruction at pc: a trap, or with EXL = 1 a double fault that stops the core (R125). -/
def takeException (s : State) (c code sub : Nat) (tval : Word) : State :=
  updCore (killYounger s c) c fun x => if x.exl then { x with run := .stopped } else takeTrap x code sub false tval x.pc

/-- The return from a trap (R125). [log 42: DEDUCED] -/
def trapReturn (x : Core) : Core := { x with pl := x.ppl, ie := x.pie, exl := false, pc := BitVec.ofNat 64 (x.epc.toNat / 4 * 4) }

/-! ### What an instruction does -/

/-- How an instruction ends: it completes and goes on at `pc + 4` or at a target; it raises an exception of a code, SUB and HZ_TVAL,
leaving what is in the state; or it does not complete yet. -/
inductive IRes where
  | ok (s : State)
  | jump (s : State) (target : Word)
  | trap (s : State) (code sub : Nat) (tval : Word)
  | stall (s : State)

/-- Does some valid protection region of a Chisel core grant the access (R124)? `right` is the bit of R, W or X. -/
def regionGrants (x : Core) (right a n : Nat) : Bool :=
  (upFrom 0 8).any fun i =>
    let w := (tget x.prgn 0 i).toNat
    let l := fld w 0 6
    let base := fld w 12 36 * 4096 / 2 ^ l * 2 ^ l
    bit w 9 && bit w right && 12 ≤ l && l ≤ 47 && base ≤ a && a + n ≤ base + 2 ^ l

/-- Is the access allowed by the protection regions? They are checked on a Harzar-S core at U only (R124). -/
def regionsAllow (x : Core) (c right a n : Nat) : Bool := !(isChisel c && x.pl == 0) || regionGrants x right a n

/-! ### Caches and translation on Bench cores (R133 to R135) -/

/-- Where a line of a die's coherent cache is kept. -/
def lineKey (die a : Nat) : Nat := die * 2 ^ 42 + a / 64

/-- Writes a dirty line back (R118, CLEAN); the line stays, clean. -/
def cleanLine (s : State) (c a : Nat) : State :=
  let k := lineKey (coreDie c) a
  match s.benchCache.find? fun e => e.1 == k with
  | some e =>
    if e.2.dirty then
      match memWrite s (corePart s c) (a / 64 * 64) e.2.data with
      | (_, _, s') => { s' with benchCache := tset s'.benchCache k { e.2 with dirty := false } }
    else s
  | none => s

/-- Discards a line without writing it back (R118, INVAL). -/
def discardLine (s : State) (c a : Nat) : State := { s with benchCache := tdel s.benchCache (lineKey (coreDie c) a) }

/-- Makes room for a line in core `c`'s level-2 cache of 1 MiB (R107): with 16,384 lines in it one goes, written back where it is dirty.
Which one is a free value. A line of level 1 counts as one of them. [log 13: DEDUCED] -/
def evictFor (s : State) (c : Nat) : State :=
  let l := s.benchCache.filter fun e => e.2.core == c
  if l.length < 16384 then s
  else
    let (i, s) := takeFree s 14
    match l[i % l.length]? with
    | some e => let a := e.1 % 2 ^ 42 * 64; discardLine (cleanLine s c a) c a
    | none => s

/-- The first SRAM word of a place in a Bench core's level-2 cache, which stands behind its two level-1 caches (R107, R275). -/
def slotWord (c i : Nat) : Nat := 2 ^ 45 + (24 + coreDie c) * 2 ^ 24 + 9437184 + c % 8 * 147456 + 16384 + 8 * i

/-- Forgets the errors of some SRAM words: they have been written whole (R275). -/
def clearWords (s : State) (ws : List Nat) : State :=
  { s with mem := { s.mem with sramErr := s.mem.sramErr.filter fun e => !(ws.contains e.1) } }

/-- The lowest free place in a Bench core's level-2 cache. -/
def freePlace (s : State) (c : Nat) : Nat :=
  (firstFrom (fun i => !(s.benchCache.any fun e => e.2.core == c && e.2.slot == i)) 0 16384).getD 0

/-- Core `c` takes a line into its cache (R107). -/
def holdLine (s : State) (c k : Nat) (l : CLine) : CLine × State :=
  let s := evictFor s c
  let l := { l with core := c, slot := freePlace s c }
  (l, { clearWords s (upFrom (slotWord c l.slot) 8) with benchCache := tset s.benchCache k l })

/-- Fetches a line that no cache of the die holds from memory: STATUS, line, state. -/
def fillLine (s : State) (c a : Nat) : Nat × CLine × State :=
  match memRead s (corePart s c) (a / 64 * 64) 64 with
  | (0, bs, s') =>
    let (l, s') := holdLine s' c (lineKey (coreDie c) a) { data := bs, dirty := false }
    (0, l, s')
  | (st, _, s') => (st, { data := [], dirty := false, core := c }, s')

/-- The line at an address, fetched from memory where no cache of the die holds it: STATUS, line, state. The core that uses a line holds it from
then on. The owner of the address is checked for a held line too (R124). The words that the access reads, those of `n` bytes, of which a store reads only
the ones it writes in part, are corrected; where one is uncorrectable, a clean line is discarded and fetched again, and a dirty one answers STATUS 1
(R275). [log 13: DEDUCED] -/
def cacheLine (s : State) (c a n : Nat) (store : Bool) : Nat × CLine × State :=
  let k := lineKey (coreDie c) a
  match s.benchCache.find? fun e => e.1 == k with
  | some e =>
    let b := 8 * slotWord e.2.core e.2.slot
    let ws := if e.2.core != c then wordsOf b 64 else if store then partWords (b + a % 64) n else wordsOf (b + a % 64) n
    if !memAllowed s (corePart s c) a then (5, e.2, s)
    else if e.2.dirty = false ∧ (ws.any fun w => wordErr s w == 2) then
      fillLine (bump (clearWords (discardLine s c a) (wordsOf b 64)) .srCorr (24 + coreDie c)) c a
    else match readWords s ws with
      | (0, s') =>
        if e.2.core = c then (0, e.2, s')
        else
          let (l, s') := holdLine s' c k e.2
          (0, l, s')
      | (st, s') => (st, e.2, s')
  | none => fillLine s c a

/-- The kinds of access a translation is asked for. -/
inductive Acc where
  | fetch
  | load
  | store
deriving DecidableEq, Repr

/-- Is a page-table entry well-formed (R135)? -/
def pteOk (e : Nat) : Bool :=
  bit e 0 && fld e 10 2 == 0 && fld e 48 16 == 0 && !(bit e 2 && !bit e 1)

/-- Does the leaf permit the access at level `pl` (R135)? -/
def pteAllows (e pl : Nat) (k : Acc) : Bool :=
  bit e 6 && fld e 8 2 != 3 &&
  (match k with
   | .fetch => bit e 3 && (if pl = 0 then bit e 4 else !bit e 4)
   | .load => bit e 1 && (pl != 0 || bit e 4)
   | .store => bit e 2 && bit e 7 && (pl != 0 || bit e 4))

/-- The walk of R134: `lvl` counts the levels left, four at the root. Answers a page fault (`none`), a target error, or the leaf and its size in bits.
[log 44: DEDUCED] -/
def walk (s : State) (c va table : Nat) : Nat → Except (Option Nat) (Nat × Nat) × State
  | 0 => (.error none, s)
  | lvl + 1 =>
    let a := table + 8 * fld va (12 + 9 * lvl) 9
    match cacheLine s c a 8 false with
    | (0, l, s') =>
      let e := ofLe ((l.data.drop (a % 64)).take 8)
      if !pteOk e then (.error none, s')
      else if bit e 1 || bit e 2 || bit e 3 then
        let size := 12 + 9 * lvl
        if lvl = 3 ∨ fld e 12 36 * 4096 % 2 ^ size ≠ 0 then (.error none, s') else (.ok (e, size), s')
      else walk s' c va (fld e 12 36 * 4096) lvl
    | (st, _, s') => (.error (some st), s')

/-- Is translation active for a core: a Bench core at U or S with HZ_PTBR.EN = 1 (R134)? -/
def translating (x : Core) (c : Nat) : Bool := !isChisel c && x.ptbr.toNat % 2 == 1 && x.pl != 2

/-- Translates an address (R134, R135): a page fault (`none`), a target error of the walk, or the physical address and ATTR.
Without translation the address is physical, and memory is uncacheable (ATTR 1). [log 44: DEDUCED] -/
def translate (s : State) (c va : Nat) (k : Acc) : Except (Option Nat) (Nat × Nat) × State :=
  let x := getCore s c
  if !translating x c then (.ok (va, 1), s)
  else if fld va 48 16 ≠ (if bit va 47 then 0xFFFF else 0) then (.error none, s)
  else
    let asid := fld x.ptbr.toNat 48 16
    let hit := x.tlb.find? fun t => t.vpn == fld va 0 48 / 2 ^ t.size && (t.asid == asid || bit t.pte 5)
    let r : Except (Option Nat) (Nat × Nat) × State := match hit with
      | some t => (.ok (t.pte, t.size), s)
      | none =>
        match walk s c va (fld x.ptbr.toNat 12 36 * 4096) 4 with
        | (.ok (e, sz), s') =>
          (.ok (e, sz), updCore s' c fun y =>
            { y with tlb := y.tlb ++ [{ vpn := fld va 0 48 / 2 ^ sz, size := sz, asid := asid, pte := e }] })
        | (.error e, s') => (.error e, s')
    match r with
    | (.error e, s') => (.error e, s')
    | (.ok (e, sz), s') =>
      if pteAllows e x.pl k then (.ok (fld e 12 36 * 4096 / 2 ^ sz * 2 ^ sz + va % 2 ^ sz, fld e 8 2), s') else (.error none, s')

/-! ### Loads and stores of a core -/

/-- Is a physical address in register space (R12)? [log 45: DESIGN CHOICE] -/
def inRegs (a : Nat) : Bool := targetOf a == .regs

/-- How an access ends: a fault with code, SUB and HZ_TVAL, or the bytes and the state. -/
inductive AccRes where
  | fault (code sub : Nat) (tval : Word) (s : State)
  | done (bs : List Byte) (s : State)

/-- A read of a physical address by a core: from its die's coherent cache where the page is cacheable, else from memory;
a read of register space reads its unit's registers. [log 45: DESIGN CHOICE] -/
def physRead (s : State) (c pa n attr : Nat) : Nat × List Byte × State :=
  if inRegs pa then spaceRead s (corePart s c) pa n
  else if attr = 0 then
    match cacheLine s c pa n false with
    | (0, l, s') => (0, (l.data.drop (pa % 64)).take n, s')
    | (st, _, s') => (st, [], s')
  else memRead s (corePart s c) pa n

/-- A scalar load of `n` bytes at a virtual address (R116): the checks in the order of R127. `al` is the alignment required.
[log 13: DEDUCED; log 45: DESIGN CHOICE] -/
def coreLoad (s : State) (c va n al : Nat) : AccRes :=
  let t := BitVec.ofNat 64 va
  if va % al ≠ 0 then .fault 0x04 0 t s
  else match translate s c va .load with
    | (.error none, s') => .fault 0x08 0 t s'
    | (.error (some st), s') => .fault 0x05 st t s'
    | (.ok (pa, attr), s') =>
      if !regionsAllow (getCore s c) c 6 va n then .fault 0x05 0 t s'
      else match physRead s' c pa n attr with
        | (0, bs, s'') => .done bs s''
        | (st, _, s'') => .fault 0x05 st t s''

/-- The checks of a store before it leaves the core (R128): a fault, or the physical address and ATTR. -/
def storeCheck (s : State) (c va n al : Nat) : Except (Nat × Nat) (Nat × Nat) × State :=
  if va % al ≠ 0 then (.error (0x04, 0), s)
  else match translate s c va .store with
    | (.error none, s') => (.error (0x09, 0), s')
    | (.error (some st), s') => (.error (0x06, st), s')
    | (.ok r, s') => if !regionsAllow (getCore s c) c 7 va n then (.error (0x06, 0), s') else (.ok r, s')

/-- A core's store to register space leaves through its port as a WRITE, whose WACK tells when it is performed (R130, R225); an address that maps to
no unit is an error at once (R222). [log 45: DESIGN CHOICE] -/
def devStore (s : State) (c pa : Nat) (bs : List Byte) : Bool × State :=
  let s := { s with dev := some { core := c, addr := pa, size := bs.length, data := ofLe bs } }
  match destOf pa with
  | none => (true, s)
  | some d =>
    (false, sendPkt s (corePort c)
      { dest := d, src := corePort c, subsrc := 0, cls := 0, cmd := 2, epoch := false, addr := pa, len := bs.length, seq := 0, status := 0
        part := corePart s c, page := 0, aop := 0, aw := false, opnd := 0, cmp := 0, data := bs })

/-- Does core `c` wait for a device access to be performed (R130, rule 6)? [log 13: DEDUCED] -/
def devWaits (s : State) (c : Nat) : Bool :=
  let x := getPort s (corePort c)
  (x.wait.any fun p => p.subsrc == 0 && p.cmd == 2 && inRegs p.addr) || x.out.any fun o => o.subsrc == 0 && o.cmd == 2 && inRegs o.addr

/-- The bytes of a store that has left the core: whether its target answers with an error; a cacheable line is written in the cache; a store to
register space leaves as a device access. [log 45: DESIGN CHOICE] -/
def physStore (s : State) (c pa attr : Nat) (bs : List Byte) : Bool × State :=
  if inRegs pa then devStore s c pa bs
  else if attr = 0 then
    match cacheLine s c pa bs.length true with
    | (0, l, s') =>
      let d := l.data.take (pa % 64) ++ bs ++ l.data.drop (pa % 64 + bs.length)
      (false, { clearWords s' (wordsOf (8 * slotWord c l.slot + pa % 64) bs.length) with
        benchCache := tset s'.benchCache (lineKey (coreDie c) pa) { l with data := d, dirty := true } })
    | (_, _, s') => (true, s')
  else
    match memWrite s (corePart s c) pa bs with
    | (st, _, s') => (st != 0, s')

/-- The target error of a store at `va` comes back later, one for each store (R128). -/
def noteStoreErr (s : State) (c va : Nat) (err : Bool) : State :=
  if err then updCore s c fun x => { x with fabQ := x.fabQ ++ [BitVec.ofNat 64 va] } else s

/-- A store that has left the core (R128). [log 45: DESIGN CHOICE] -/
def physWrite (s : State) (c va pa attr : Nat) (bs : List Byte) : State :=
  let r := physStore s c pa attr bs
  noteStoreErr r.2 c va r.1

/-- A scalar store at a virtual address (R116, R128). [log 13: DEDUCED; log 45: DESIGN CHOICE] -/
def coreStore (s : State) (c va al : Nat) (bs : List Byte) : AccRes :=
  match storeCheck s c va bs.length al with
  | (.error (code, sub), s') => .fault code sub (BitVec.ofNat 64 va) s'
  | (.ok (pa, attr), s') => .done [] (physWrite s' c va pa attr bs)

/-! ### The frame of an instruction -/

/-- Is an interrupt due at the boundary (R127)? -/
def intDue (s : State) (c : Nat) : Bool :=
  let x := getCore s c
  x.ie && (x.ieMask &&& ipOf s c) != 0

/-- May core `c` execute its next instruction: it runs, stands in no RLOCK or RUNLOCK, and no interrupt or work-item abort is taken
first at this boundary (R127)? A device access that is not yet performed holds every later instruction back (R130, rule 6). -/
def canStep (s : State) (c : Nat) : Bool :=
  let x := getCore s c
  x.run == .running && !inRaspWait s c && !devWaits s c && !intDue s c && !(x.pl == 0 && !x.abQ.isEmpty)

/-- The fetch of the instruction at pc (R124, R127, R128, R134): a fault's code and SUB, or success. The word is read, so that an error of its target
is met; its value comes with the command (R132). [log 10: DESIGN CHOICE] -/
def fetchCheck (s : State) (c : Nat) : Option (Nat × Nat) × State :=
  let x := getCore s c
  let pc := x.pc.toNat
  match translate s c pc .fetch with
  | (.error none, s') => (some (0x07, 0), s')
  | (.error (some st), s') => (some (0x01, st), s')
  | (.ok (pa, attr), s') =>
    if !regionsAllow x c 8 pc 4 then (some (0x01, 0), s')
    else
      let st := reachStatus s' (corePart s' c) pa
      if st != 0 then (some (0x01, st), s')
      else match physRead s' c pa 4 attr with
        | (0, _, s'') => (none, s'')
        | (st, _, s'') => (some (0x01, st), s'')

/-- The loop-end test of R170 at the completion of the instruction at `pc`: from the innermost active level outwards.
Answers the levels and where execution goes on, if not at the next instruction; bits 1:0 of a pc are zero (R109). -/
def loopEnd (l : Tab Lp) (pc : Word) : Nat → Tab Lp × Option Word
  | 0 => (l, none)
  | n + 1 =>
    let x := tget l {} n
    if !x.act then loopEnd l pc n
    else if x.stop != pc then (l, none)
    else if x.cnt > 1 then (tset l n { x with cnt := x.cnt - 1 }, some (x.start &&& ~~~3))
    else loopEnd (tset l n { x with act := false }) pc n

/-- The innermost active level (R170). [log 48: DEDUCED] -/
def innermost (l : Tab Lp) : Option Nat := [3, 2, 1, 0].find? fun n => (tget l {} n).act

/-- May the instruction at END of the innermost active level not be one of its kind (R171: branches, jumps, system instructions, LOOP, LPBRK)? [log 48: DEDUCED] -/
def atEnd (x : Core) : Bool :=
  !x.exl && match innermost x.lp with
    | some n => (tget x.lp {} n).stop == x.pc
    | none => false

/-- The completion of the instruction at `pc` that transfers control nowhere: INSTRET counts it, and execution goes on in order or, where it
stands at the END of an active hardware loop, at START again (R170). [log 41: DEDUCED] -/
def retire (s : State) (c : Nat) (pc : Word) : State :=
  updCore s c fun y =>
    let y := { y with instret := y.instret + 1 }
    if isChisel c && !y.exl then
      match loopEnd y.lp pc 4 with
      | (l, some t) => { y with lp := l, pc := t }
      | (l, none) => { y with lp := l, pc := pc + 4 }
    else { y with pc := pc + 4 }

/-- The completion of an instruction that goes on at `t`. -/
def goTo (s : State) (c : Nat) (t : Word) : State := updCore s c fun y => { y with pc := t, instret := y.instret + 1 }

/-- One instruction of core `c` (R119, R120, R127). `word` is its 32-bit word, `legal` says that its fields are (R108, R111),
`priv` that it may not run at U, `noEnd` that it may not stand at the END of an active loop (R171).
A precise exception leaves no other effect than what `body` leaves with it. [log 10: DESIGN CHOICE; log 41: DEDUCED] -/
def instr (s : State) (c word : Nat) (legal priv noEnd : Bool) (body : State → IRes) : State :=
  if !canStep s c then s
  else
    let w := BitVec.ofNat 64 word
    match fetchCheck s c with
    | (some (code, sub), s') => takeException s' c code sub (getCore s c).pc
    | (none, s') =>
      let x := getCore s' c
      if !legal then takeException s' c 0x02 0 w
      else if priv && x.pl == 0 then takeException s' c 0x03 0 w
      else if noEnd && isChisel c && atEnd x then
        let (v, s') := takeFree s' 64
        takeException s' c 0x11 0 (BitVec.ofNat 64 v)
      else match body s' with
        | .trap s'' code sub tval => takeException s'' c code sub tval
        | .stall s'' => s''
        | .jump s'' t => goTo s'' c t
        | .ok s'' => retire s'' c x.pc

end Sys2Proof.Machine
end

