-- ==== Sys2Proof/Machine/Flags.lean ====
section
/-!
DEFINITION. Rounding and saturation (R114, R145, R175): exact integers in, rounded and clamped integers out, with the flag that a clamp sets.
-/
namespace Sys2Proof.Machine

/-- `x / 2^s` rounded in mode `rm` (R114): 0 truncate, 1 round-half-up, 2 convergent. A shift by 0 returns `x`. -/
def roundShift (rm : Nat) (x : Int) (s : Nat) : Int :=
  if s = 0 then x
  else
    let q := x / 2 ^ s
    let r := x % 2 ^ s
    let half : Int := 2 ^ (s - 1)
    match rm with
    | 0 => q
    | 1 => if half ≤ r then q + 1 else q
    | _ => if half < r ∨ (r = half ∧ q % 2 = 1) then q + 1 else q

/-- The least and greatest value of `n` bits in two's complement. -/
def minInt (n : Nat) : Int := -(2 ^ (n - 1))
def maxInt (n : Nat) : Int := 2 ^ (n - 1) - 1

/-- `x` clamped to `n` bits (R145). -/
def satInt (n : Nat) (x : Int) : Int := clampInt x (minInt n) (maxInt n)

/-- Does the clamp change `x` (R145)? -/
def satHit (n : Nat) (x : Int) : Bool := satInt n x != x

end Sys2Proof.Machine
end

