-- ==== Sys2Proof/Machine/HarzarScalar.lean ====
section
/-!
DEFINITION. The scalar base of Harzar (05_harzar_base R112 to R117): integer, multiply and divide, immediates, jumps, loads, stores and atomics.
-/
namespace Sys2Proof.Machine

/-- A g register's value as a signed integer. -/
def gInt (x : Core) (i : Nat) : Int := (gRead x i).toInt

/-- An integer as a 64-bit word. -/
def w64 (i : Int) : Word := BitVec.ofInt 64 i

/-- The low 32 bits of a number, sign-extended to 64 bits. -/
def sext32 (n : Nat) : Word := w64 (sx n 32)

/-- A truth value as a register holds it. -/
def wBool (b : Bool) : Word := if b then 1 else 0

/-- Leading zeros of a word. -/
def clz (v : Word) : Nat := if v = 0 then 64 else 63 - log2 v.toNat

/-- Trailing zeros of a word. -/
def ctz (v : Word) : Nat := ((upFrom 0 64).find? fun i => v.getLsbD i).getD 64

/-- The operations of major 0x01 (R113) on rs1 and rs2; `none` for a funct the table does not list. -/
def aluOp (funct : Nat) (a b : Word) : Option Word :=
  let sa := b.toNat % 64
  let sa32 := b.toNat % 32
  let a32 := a.toNat % 2 ^ 32
  let b32 := b.toNat % 2 ^ 32
  match funct with
  | 0x000 => some (a + b)
  | 0x001 => some (a - b)
  | 0x002 => some (a &&& b)
  | 0x003 => some (a ||| b)
  | 0x004 => some (a ^^^ b)
  | 0x005 => some (a &&& ~~~b)
  | 0x006 => some (a <<< sa)
  | 0x007 => some (a >>> sa)
  | 0x008 => some (a.sshiftRight sa)
  | 0x009 => some (wBool (a == b))
  | 0x00A => some (wBool (a.slt b))
  | 0x00B => some (wBool (a.ult b))
  | 0x00C => some (if b.slt a then b else a)
  | 0x00D => some (if a.slt b then b else a)
  | 0x00E => some (if b.ult a then b else a)
  | 0x00F => some (if a.ult b then b else a)
  | 0x010 => some (sext32 (a32 + b32))
  | 0x011 => some (sext32 (a32 + 2 ^ 32 - b32))
  | 0x012 => some (sext32 (a32 * 2 ^ sa32))
  | 0x013 => some (sext32 (a32 / 2 ^ sa32))
  | 0x014 => some (w64 (sx a32 32 / 2 ^ sa32))
  | 0x018 => some (BitVec.ofNat 64 (clz a))
  | 0x019 => some (BitVec.ofNat 64 (ctz a))
  | 0x01A => some (BitVec.ofNat 64 (popcount a.toNat 64))
  | 0x01B => some (BitVec.ofNat 64 (ofLe (leBytes a.toNat 8).reverse))
  | 0x020 => some (w64 (satInt 64 (a.toInt + b.toInt)))
  | 0x021 => some (w64 (satInt 64 (a.toInt - b.toInt)))
  | 0x022 => some (w64 (satInt 32 (sx a32 32 + sx b32 32)))
  | 0x023 => some (w64 (satInt 32 (sx a32 32 - sx b32 32)))
  | 0x024 => some (w64 (roundShift 1 a.toInt sa))
  | 0x025 => some (w64 (roundShift 2 a.toInt sa))
  | 0x026 => some (w64 (satInt (if sa = 0 then 64 else sa) a.toInt))
  | _ => none

/-- The functs whose rs2 must be 0 (R113). -/
def aluUnary (funct : Nat) : Bool := 0x018 ≤ funct && funct ≤ 0x01B

/-- An instruction whose word no table lists (R108, R111, R112): the illegal-instruction exception. [log 10: DESIGN CHOICE] -/
def illegalWord (s : State) (c word : Nat) : State := instr s c word false false false fun s => .ok s

/-- R113: an integer operation of major 0x01 selected by funct. With another major the word is one of R112's: a major, funct or sub value that no table
lists is illegal, and a word that is another instruction's is that instruction's own command. -/
def execIntegerAlu (c : Fin 112) (major : BitVec 6) (rd rs1 rs2 : BitVec 5) (funct : BitVec 11) (s : State) : Res :=
  let f := funct.toNat
  let w := wordA major.toNat rd.toNat rs1.toNat rs2.toNat f
  if major = 1 then
    .next (instr s c w ((aluOp f 0 0).isSome && !(aluUnary f && rs2 != 0)) false false fun s =>
      let x := getCore s c
      .ok (setCore s c (gWrite x rd.toNat ((aluOp f (gRead x rs1.toNat) (gRead x rs2.toNat)).getD 0))))
  else if (decodeWord c (BitVec.ofNat 32 w)).isSome then .next s
  else .next (illegalWord s c w)

/-- Signed division rounded towards zero on `n` bits, saturating where the quotient cannot be represented (R115). -/
def quoS (n : Nat) (a b : Int) : Int :=
  if b = 0 then (if 0 ≤ a then maxInt n else minInt n) else satInt n (Int.tdiv a b)

/-- The signed remainder, with the sign of the dividend; the dividend where the divisor is zero (R115). -/
def remS (a b : Int) : Int := if b = 0 then a else Int.tmod a b

/-- The operations of major 0x02 (R115). -/
def mulOp (funct : Nat) (a b : Word) : Option Word :=
  let a32 := a.toNat % 2 ^ 32
  let b32 := b.toNat % 2 ^ 32
  match funct with
  | 0x000 => some (a * b)
  | 0x001 => some (w64 (a.toInt * b.toInt / 2 ^ 64))
  | 0x002 => some (BitVec.ofNat 64 (a.toNat * b.toNat / 2 ^ 64))
  | 0x003 => some (w64 (a.toInt * (b.toNat : Int) / 2 ^ 64))
  | 0x004 => some (sext32 (a.toNat * b.toNat))
  | 0x008 => some (w64 (quoS 64 a.toInt b.toInt))
  | 0x009 => some (if b = 0 then BitVec.allOnes 64 else BitVec.ofNat 64 (a.toNat / b.toNat))
  | 0x00A => some (w64 (remS a.toInt b.toInt))
  | 0x00B => some (if b = 0 then a else BitVec.ofNat 64 (a.toNat % b.toNat))
  | 0x00C => some (w64 (quoS 32 (sx a32 32) (sx b32 32)))
  | 0x00D => some (sext32 (if b32 = 0 then 2 ^ 32 - 1 else a32 / b32))
  | 0x00E => some (w64 (remS (sx a32 32) (sx b32 32)))
  | 0x00F => some (sext32 (if b32 = 0 then a32 else a32 % b32))
  | _ => none

/-- R115: a multiply, or a saturating divide or remainder. -/
def execMultiplyDivide (c : Fin 112) (rd rs1 rs2 : BitVec 5) (funct : BitVec 11) (s : State) : Res :=
  let f := funct.toNat
  .next (instr s c (wordA 0x02 rd.toNat rs1.toNat rs2.toNat f) (mulOp f 0 0).isSome false false fun s =>
    let x := getCore s c
    .ok (setCore s c (gWrite x rd.toNat ((mulOp f (gRead x rs1.toNat) (gRead x rs2.toNat)).getD 0))))

/-- The operations of majors 0x04 to 0x0B (R112, R116): `op` is the major less 4. -/
def immOp (op : Nat) (a : Word) (imm : Nat) : Option Word :=
  let si := w64 (sx imm 16)
  let zi := BitVec.ofNat 64 imm
  match op with
  | 0 => some (a + si)
  | 1 => some (a &&& zi)
  | 2 => some (a ||| zi)
  | 3 => some (a ^^^ zi)
  | 4 => some (wBool (a.slt si))
  | 5 => some (wBool (a.ult si))
  | 6 => some (sext32 ((a + si).toNat % 2 ^ 32))
  | _ =>
    if fld imm 8 8 ≠ 0 then none
    else
      let n := fld imm 0 6
      match fld imm 6 2 with
      | 0 => some (a <<< n)
      | 1 => some (a >>> n)
      | 2 => some (a.sshiftRight n)
      | _ => some (w64 (roundShift 2 a.toInt n))

/-- R112: an immediate or a shift by immediate. -/
def execImmediateAlu (c : Fin 112) (op : Fin 8) (rd rs1 : BitVec 5) (imm : BitVec 16) (s : State) : Res :=
  .next (instr s c (wordB (4 + op.val) rd.toNat rs1.toNat imm.toNat) (immOp op.val 0 imm.toNat).isSome false false fun s =>
    let x := getCore s c
    .ok (setCore s c (gWrite x rd.toNat ((immOp op.val (gRead x rs1.toNat) imm.toNat).getD 0))))

/-- R112: INSHq inserts a 16-bit immediate into quarter q of rs1. -/
def execInsh (c : Fin 112) (q : Fin 4) (rd rs1 : BitVec 5) (imm : BitVec 16) (s : State) : Res :=
  .next (instr s c (wordB (0x0C + q.val) rd.toNat rs1.toNat imm.toNat) true false false fun s =>
    let x := getCore s c
    let m : Word := BitVec.ofNat 64 (0xFFFF * 2 ^ (16 * q.val))
    .ok (setCore s c (gWrite x rd.toNat ((gRead x rs1.toNat &&& ~~~m) ||| BitVec.ofNat 64 (imm.toNat * 2 ^ (16 * q.val))))))

/-- R112: CALLR jumps to a register target and links the return address. -/
def execCallr (c : Fin 112) (rd rs1 : BitVec 5) (imm : BitVec 16) (s : State) : Res :=
  .next (instr s c (wordB 0x10 rd.toNat rs1.toNat imm.toNat) true false true fun s =>
    let x := getCore s c
    let t := (gRead x rs1.toNat + w64 (sx imm.toNat 16)) &&& ~~~(3 : Word)
    .jump (setCore s c (gWrite x rd.toNat (x.pc + 4))) t)

/-- R112: PCREL writes pc plus a shifted immediate; rs1 must be 0. -/
def execPcrel (c : Fin 112) (rd rs1 : BitVec 5) (imm : BitVec 16) (s : State) : Res :=
  .next (instr s c (wordB 0x11 rd.toNat rs1.toNat imm.toNat) (rs1 == 0) false false fun s =>
    let x := getCore s c
    .ok (setCore s c (gWrite x rd.toNat (x.pc + w64 (sx imm.toNat 16 * 65536)))))

/-- An M-format address: g[rb] + sext(off12) × access size (R111). -/
def mAddr (x : Core) (rb off n : Nat) : Nat := (gRead x rb + w64 (sx off 12 * n)).toNat

/-- R116: a scalar load, sign- or zero-extended, into g[rt]. -/
def execLoad (c : Fin 112) (rt rb : BitVec 5) (fn : BitVec 4) (off : BitVec 12) (s : State) : Res :=
  let f := fn.toNat
  let n := 2 ^ (f % 4)
  .next (instr s c (wordM 0x12 rt.toNat rb.toNat f off.toNat) (f ≤ 6) false false fun s =>
    match coreLoad s c (mAddr (getCore s c) rb.toNat off.toNat n) n n with
    | .fault code sub t s' => .trap s' code sub t
    | .done bs s' =>
      let v := ofLe bs
      .ok (setG' s' c rt.toNat (if f < 4 then w64 (sx v (8 * n)) else BitVec.ofNat 64 v)))
where
  setG' (s : State) (c i : Nat) (v : Word) : State := updCore s c fun x => gWrite x i v

/-- R116: a scalar store of the low bytes of g[rt]. -/
def execStore (c : Fin 112) (rt rb : BitVec 5) (fn : BitVec 4) (off : BitVec 12) (s : State) : Res :=
  let f := fn.toNat
  let n := 2 ^ (f % 4)
  .next (instr s c (wordM 0x13 rt.toNat rb.toNat f off.toNat) (f ≤ 3) false false fun s =>
    let x := getCore s c
    match coreStore s c (mAddr x rb.toNat off.toNat n) n (leBytes (gRead x rt.toNat).toNat n) with
    | .fault code sub t s' => .trap s' code sub t
    | .done _ s' => .ok s')

/-- The effect of an atomic operation of `n` bytes (R117): checks, then the target's indivisible read and write. A cacheable line is
written back and discarded first, since the operation is performed at its target. -/
def atomicBody (s : State) (c rd rs1 rs2 n op : Nat) : IRes :=
  let x := getCore s c
  let va := (gRead x rs1).toNat
  let t := gRead x rs1
  match storeCheck s c va n n with
  | (.error (code, sub), s') => .trap s' code sub t
  | (.ok (pa, attr), s') =>
    if inRegs pa then .trap s' 0x06 0 t
    else
      let s' := if attr = 0 then discardLine (cleanLine s' c pa) c pa else s'
      match memAtomic s' (corePart s' c) pa n op (gRead x rs2).toNat (gRead x rd).toNat with
      | (0, old, s'') => .ok (updCore s'' c fun y => gWrite y rd (w64 (sx old (8 * n))))
      | (st, _, s'') => .trap s'' 0x06 st t

/-- R117: an atomic memory operation. -/
def execAtomic (c : Fin 112) (rd rs1 rs2 : BitVec 5) (funct : BitVec 11) (s : State) : Res :=
  let f := funct.toNat
  .next (instr s c (wordA 0x14 rd.toNat rs1.toNat rs2.toNat f) (f < 128 && f % 16 ≤ 9) false false fun s =>
    atomicBody s c rd.toNat rs1.toNat rs2.toNat (if bit f 4 then 8 else 4) (f % 16))

/-- A C-format target: pc + 4 × sext(off21) (R111). -/
def cTarget (pc : Word) (off : Nat) : Word := pc + w64 (4 * sx off 21)

/-- R112: JMP sets pc to a PC-relative target; rs must be 0. -/
def execJmp (c : Fin 112) (rs : BitVec 5) (off : BitVec 21) (s : State) : Res :=
  .next (instr s c (wordC 0x18 rs.toNat off.toNat) (rs == 0) false true fun s =>
    .jump s (cTarget (getCore s c).pc off.toNat))

/-- R112: CALL links pc + 4 into g[rs] and jumps. -/
def execCall (c : Fin 112) (rs : BitVec 5) (off : BitVec 21) (s : State) : Res :=
  .next (instr s c (wordC 0x19 rs.toNat off.toNat) true false true fun s =>
    let x := getCore s c
    .jump (setCore s c (gWrite x rs.toNat (x.pc + 4))) (cTarget x.pc off.toNat))

/-- The conditions of majors 0x1A to 0x1F on a register (R112). -/
def branchTaken (cond : Nat) (v : Word) : Bool :=
  match cond with
  | 0 => v == 0
  | 1 => v != 0
  | 2 => decide (v.toInt < 0)
  | 3 => decide (0 ≤ v.toInt)
  | 4 => decide (v.toInt ≤ 0)
  | _ => decide (0 < v.toInt)

/-- R112: BZ, BNZ, BNEG, BNNEG, BNPOS or BPOS. -/
def execBranch (c : Fin 112) (cond : Fin 6) (rs : BitVec 5) (off : BitVec 21) (s : State) : Res :=
  .next (instr s c (wordC (0x1A + cond.val) rs.toNat off.toNat) true false true fun s =>
    let x := getCore s c
    if branchTaken cond (gRead x rs.toNat) then .jump s (cTarget x.pc off.toNat) else .ok s)

end Sys2Proof.Machine
end

