-- ==== Sys2Proof/Machine/HarzarSystem.lean ====
section
/-!
DEFINITION. The system instructions of Harzar and the events at a core's boundary (05_harzar_base R118 to R136).
-/
namespace Sys2Proof.Machine

/-- The word of a system instruction (R118). -/
def sysWord (rd rs1 : BitVec 5) (sub : Nat) (imm : BitVec 10) : Nat := wordX 0x3E rd.toNat rs1.toNat sub imm.toNat

/-- R118: SYSCALL raises SYSCALL_U or SYSCALL_S with imm10 in HZ_TVAL. -/
def execSyscall (c : Fin 112) (rd rs1 : BitVec 5) (imm : BitVec 10) (s : State) : Res :=
  .next (instr s c (sysWord rd rs1 0x00 imm) (rd == 0 && rs1 == 0) false true fun s =>
    .trap s (if (getCore s c).pl = 0 then 0x0A else 0x0B) 0 (BitVec.ofNat 64 imm.toNat))

/-- R118: BPT raises BREAK with imm10 in HZ_TVAL. -/
def execBpt (c : Fin 112) (rd rs1 : BitVec 5) (imm : BitVec 10) (s : State) : Res :=
  .next (instr s c (sysWord rd rs1 0x01 imm) (rd == 0 && rs1 == 0) false true fun s =>
    .trap s 0x0C 0 (BitVec.ofNat 64 imm.toNat))

/-- Trap entry for a work-item abort (R127, R178): the instructions not yet committed are killed, and the core's Rasp lock is released. [log 42: DEDUCED] -/
def takeAbort (s : State) (c : Nat) (tag epc : Word) : State :=
  let s := releaseLock s c
  updCore s c fun x => takeTrap x 0x0D 0 false tag epc

/-- R125, R127: ERET returns from a trap; a held abort is taken instead, with HZ_EPC unchanged. [log 42: DEDUCED] -/
def execEret (c : Fin 112) (rd rs1 : BitVec 5) (imm : BitVec 10) (s : State) : Res :=
  .next (instr s c (sysWord rd rs1 0x02 imm) (rd == 0 && rs1 == 0 && imm == 0) true true fun s =>
    let x := getCore s c
    match x.abHeld with
    | t :: r =>
      let s := takeAbort (setCore s c { x with abHeld := r }) c t x.epc
      .jump s (getCore s c).pc
    | [] => .jump (setCore s c (trapReturn x)) (trapReturn x).pc)

/-- Does core `c` hold its cluster's Rasp lock? -/
def holdsLock (s : State) (c : Nat) : Bool := isChisel c && (getRasp s (coreCluster c)).holder == some c

/-- Does the core count as voting: by its WAIT, or because it is held in reset or out of service (R350)? -/
def coreVotes (s : State) (c : Nat) : Bool :=
  let x := getCore s c
  match x.run with
  | .waiting => x.voting
  | .running => false
  | _ => true

/-- A WAIT that completes the set of votes makes the group request entry (R350). -/
def checkVotes (s : State) (c : Nat) : State :=
  match coreDom c with
  | none => s
  | some d =>
    if (groupCores d).all (coreVotes s) && (getDom s d).state == .awake then updDom s d fun x => { x with reqVote := true } else s

/-- Completes a WAIT with RESULT and REFUSER: execution goes on after it (R136). -/
def completeWait (s : State) (c result refuser : Nat) : State :=
  updCore s c fun x =>
    { x with run := .running, waitResult := result, waitRefuser := refuser, voting := false, waitDone := none
             pc := x.pc + 4, instret := x.instret + 1 }

/-- The effect of WAIT (R136). [log 41: DEDUCED] -/
def waitBody (s : State) (c : Nat) : IRes :=
  let x := getCore s c
  if wakeCond s c then .ok (setCore s c { x with waitResult := 1, waitRefuser := 0 })
  else if x.waitMode = 0 ∨ isChisel c = false then .stall (setCore s c { x with run := .waiting, voting := false, waitDone := none })
  else if holdsLock s c then .ok (setCore s c { x with waitResult := 3, waitRefuser := 5 })
  else .stall (checkVotes (setCore s c { x with run := .waiting, voting := true, waitDone := none }) c)

/-- R136: WAIT idles the core and, under HZ_WAITCFG.MODE, votes for its domain's sleep state. [log 41: DEDUCED] -/
def execWait (c : Fin 112) (rd rs1 : BitVec 5) (imm : BitVec 10) (s : State) : Res :=
  .next (instr s c (sysWord rd rs1 0x03 imm) (rd == 0 && rs1 == 0 && imm == 0) true true fun s => waitBody s c)

/-- R136: a waiting core's WAIT completes: with the outcome its domain gave it, or woken by a wake condition. [log 4: DESIGN CHOICE] -/
def execWaitComplete (c : Fin 112) (s : State) : Res :=
  let x := getCore s c
  if x.run = .waiting then
    match x.waitDone with
    | some (r, f) => .next (completeWait s c r f)
    | none =>
      let awake := match coreDom c with
        | none => true
        | some d => (getDom s d).state == .awake
      if wakeCond s c && awake then .next (completeWait s c 0 0) else .next s
  else .next s

/-- R118, R130: FENCE names kinds of earlier and later accesses; every access of this model is performed in program order. [log 13: DEDUCED] -/
def execFence (c : Fin 112) (rd rs1 : BitVec 5) (imm : BitVec 10) (s : State) : Res :=
  let m := imm.toNat
  .next (instr s c (sysWord rd rs1 0x04 imm) (rd == 0 && rs1 == 0 && fld m 0 2 != 0 && fld m 2 2 != 0 && m < 16) false true fun s => .ok s)

/-- R118, R132: IFENCE discards cached and fetched instructions; the words come with the commands, so only pc advances. -/
def execIfence (c : Fin 112) (rd rs1 : BitVec 5) (imm : BitVec 10) (s : State) : Res :=
  .next (instr s c (sysWord rd rs1 0x05 imm) (rd == 0 && rs1 == 0 && imm == 0) false true fun s => .ok s)

/-! ### System registers (R122, R123) -/

/-- HZ_CORE (R123). -/
def hzCore (s : State) (c : Nat) : Nat :=
  let x := getCore s c
  (if isChisel c then c else c - 96) + b2n (!isChisel c) * 2 ^ 7 + coreDie c * 2 ^ 8 +
    (if isChisel c then coreCluster c else 0) * 2 ^ 9 + b2n x.narrow * 2 ^ 14 + c * 2 ^ 15

/-- HZ_STATUS (R123). -/
def hzStatus (x : Core) : Nat :=
  x.pl + b2n x.ie * 4 + b2n x.pie * 8 + x.ppl * 16 + b2n x.exl * 64 + b2n (!x.abHeld.isEmpty) * 128

/-- VCFG (R143). -/
def hzVcfg (x : Core) (c : Nat) : Nat :=
  x.et + x.rm * 16 + b2n x.sat * 128 + x.nsh * 256 + vlenB x c * 2 ^ 32

/-- Is the number a register of the core's profile (R122)? -/
def srKnown (c n : Nat) : Bool :=
  n ≤ 0x00B || (0x010 ≤ n && n ≤ 0x013) || (0x020 ≤ n && n ≤ 0x027 && isChisel c) || (n == 0x030 && !isChisel c) || n == 0x040 || n == 0x041

/-- Is the register read-only at every level (R122)? -/
def srReadOnly (n : Nat) : Bool := 0x010 ≤ n && n ≤ 0x013

/-- May U read, or write, the register (R122)? -/
def srUserRead (n : Nat) : Bool := n == 0x00A || srReadOnly n || n == 0x040 || n == 0x041
def srUserWrite (n : Nat) : Bool := n == 0x040 || n == 0x041

/-- A system register's value. HZ_CYCLE counts clock cycles since reset: since its latest read a free number of them has passed, so that it never
falls. [log 44: DEDUCED] -/
def srRead (s : State) (c n : Nat) : Word × State :=
  let x := getCore s c
  match n with
  | 0x000 => (BitVec.ofNat 64 (hzStatus x), s)
  | 0x001 => (x.cause, s)
  | 0x002 => (x.epc, s)
  | 0x003 => (x.tval, s)
  | 0x004 => (x.tvec, s)
  | 0x005 => (x.scratch, s)
  | 0x006 => (BitVec.ofNat 64 x.ieMask, s)
  | 0x007 => (BitVec.ofNat 64 (ipOf s c), s)
  | 0x008 => (BitVec.ofNat 64 (x.tcmp + b2n x.tcmpEn * 2 ^ 32), s)
  | 0x009 => (BitVec.ofNat 64 (x.waitMode + x.waitResult * 16 + x.waitRefuser * 256), s)
  | 0x00A => (BitVec.ofNat 64 (b2n x.compat), s)
  | 0x00B => (x.faberr, s)
  | 0x010 => (BitVec.ofNat 64 (hzCore s c), s)
  | 0x011 =>
    let (v, s) := takeFree s 64
    (BitVec.ofNat 64 (x.cycle + v), updCore s c fun y => { y with cycle := x.cycle + v })
  | 0x012 => (x.instret, s)
  | 0x013 => (BitVec.ofNat 64 (nsCounter s), s)
  | 0x030 => (x.ptbr, s)
  | 0x040 => (BitVec.ofNat 64 (hzVcfg x c), s)
  | 0x041 => (BitVec.ofNat 64 x.vstart, s)
  | _ => (tget x.prgn 0 (n - 0x020), s)

/-- HZ_STATUS written (R123): a write of 2 to PPL stores 1; 3 is no level, and stores 1 as well. [log 43: DESIGN CHOICE] -/
def writeStatus (x : Core) (v : Nat) : Core :=
  { x with ie := bit v 2, pie := bit v 3, ppl := if fld v 4 2 ≥ 2 then 1 else fld v 4 2, exl := bit v 6 }

/-- A system register written (R122, R123): each field as its access code says. EXT is reserved on Chisel cores, RASP belongs to Harzar-S. [log 41: DEDUCED] -/
def srWrite (x : Core) (c n : Nat) (w : Word) : Core :=
  let v := w.toNat
  match n with
  | 0x000 => writeStatus x v
  | 0x001 => { x with cause := BitVec.ofNat 64 (fld v 0 6 + fld v 8 4 * 256 + fld v 63 1 * 2 ^ 63) }
  | 0x002 => { x with epc := w }
  | 0x003 => { x with tval := w }
  | 0x004 => { x with tvec := BitVec.ofNat 64 (v / 64 * 64) }
  | 0x005 => { x with scratch := w }
  | 0x006 => { x with ieMask := if isChisel c then v % 128 else clrBits (v % 256) 0x10 }
  | 0x007 => { x with ip := clrBits x.ip (v &&& 0x71) }
  | 0x008 => { x with tcmp := v % 2 ^ 32, tcmpEn := bit v 32 }
  | 0x009 => { x with waitMode := v % 4 }
  | 0x00A => { x with compat := bit v 0 }
  | 0x00B => { x with faberr := w }
  | 0x030 => { x with ptbr := BitVec.ofNat 64 (fld v 0 1 + fld v 12 52 * 4096) }
  | 0x040 => { x with et := fld v 0 4, rm := fld v 4 2, sat := bit v 7, nsh := fld v 8 5 }
  | 0x041 => { x with vstart := v % 1024 }
  | _ => { x with prgn := tset x.prgn (n - 0x020) (BitVec.ofNat 64 (fld v 0 10 + fld v 12 36 * 4096)) }

/-- A system-register instruction (R122): `sub` its number, `wr` whether it writes, `f` the value it writes from old and rs1. -/
def srInstr (s : State) (c : Nat) (rd rs1 : BitVec 5) (imm : BitVec 10) (sub : Nat) (fields wr : Bool) (f : Word → Word → Word) : State :=
  let n := imm.toNat
  instr s c (sysWord rd rs1 sub imm) (fields && srKnown c n && !(wr && srReadOnly n))
    (!(if wr then srUserWrite n else srUserRead n)) true fun s =>
      let (old, s) := srRead s c n
      let a := gRead (getCore s c) rs1.toNat
      let s := if wr then updCore s c fun x => srWrite x c n (f old a) else s
      .ok (updCore s c fun x => gWrite x rd.toNat old)

/-- R122: GETSR reads a system register into rd. -/
def execGetsr (c : Fin 112) (rd rs1 : BitVec 5) (imm : BitVec 10) (s : State) : Res :=
  .next (srInstr s c rd rs1 imm 0x06 (rs1 == 0) false fun o _ => o)

/-- R122: SETSR writes a system register and returns its old value. -/
def execSetsr (c : Fin 112) (rd rs1 : BitVec 5) (imm : BitVec 10) (s : State) : Res :=
  .next (srInstr s c rd rs1 imm 0x07 true true fun _ a => a)

/-- R122: ORSR sets the bits of rs1; with rs1 = g0 it writes nothing. -/
def execOrsr (c : Fin 112) (rd rs1 : BitVec 5) (imm : BitVec 10) (s : State) : Res :=
  .next (srInstr s c rd rs1 imm 0x08 true (rs1 != 0) fun o a => o ||| a)

/-- R122: ANDNSR clears the bits of rs1; with rs1 = g0 it writes nothing. -/
def execAndnsr (c : Fin 112) (rd rs1 : BitVec 5) (imm : BitVec 10) (s : State) : Res :=
  .next (srInstr s c rd rs1 imm 0x09 true (rs1 != 0) fun o a => o &&& ~~~a)

/-! ### Cache and translation maintenance on Bench cores (R118, R133, R135) -/

/-- The physical address of a cacheable line at g[rs1], if it is one. -/
def cacheable (s : State) (c : Nat) (a : Word) : Option Nat × State :=
  match translate s c a.toNat .load with
  | (.ok (pa, 0), s') => (some pa, s')
  | (_, s') => (none, s')

/-- A cache-line operation on the line at g[rs1]; without effect where the address is not cacheable (R118). -/
def lineOp (s : State) (c : Nat) (rs1 : BitVec 5) (f : State → Nat → State) : IRes :=
  match cacheable s c (gRead (getCore s c) rs1.toNat) with
  | (some pa, s') => .ok (f s' pa)
  | (none, s') => .ok s'

/-- R118: CLEAN writes back a dirty cache line on a Bench core. [log 13: DEDUCED] -/
def execClean (c : Fin 112) (rd rs1 : BitVec 5) (imm : BitVec 10) (s : State) : Res :=
  .next (instr s c (sysWord rd rs1 0x0A imm) (!isChisel c && rd == 0 && imm == 0) false true fun s =>
    lineOp s c rs1 fun s pa => cleanLine s c pa)

/-- R118: INVAL discards a cache line without writing it back. [log 13: DEDUCED] -/
def execInval (c : Fin 112) (rd rs1 : BitVec 5) (imm : BitVec 10) (s : State) : Res :=
  .next (instr s c (sysWord rd rs1 0x0B imm) (!isChisel c && rd == 0 && imm == 0) true true fun s =>
    lineOp s c rs1 fun s pa => discardLine s c pa)

/-- R118: FLUSH cleans a cache line, then discards it. [log 13: DEDUCED] -/
def execFlush (c : Fin 112) (rd rs1 : BitVec 5) (imm : BitVec 10) (s : State) : Res :=
  .next (instr s c (sysWord rd rs1 0x0C imm) (!isChisel c && rd == 0 && imm == 0) false true fun s =>
    lineOp s c rs1 fun s pa => discardLine (cleanLine s c pa) c pa)

/-- Does a TLBINV of a virtual address and ASID (none: all) remove the translation (R118, R135)? [log 44: DEDUCED] -/
def tlbHit (t : Tlb) (va : Option Nat) (asid : Option Nat) : Bool :=
  (match va with
   | none => true
   | some a => t.vpn == fld a 0 48 / 2 ^ t.size) &&
  (match asid with
   | none => true
   | some i => bit t.pte 5 || t.asid == i % 65536)

/-- R118: TLBINV invalidates translations for a virtual address and an ASID; g0 in either field means all. -/
def execTlbinv (c : Fin 112) (rd rs1 : BitVec 5) (imm : BitVec 10) (s : State) : Res :=
  .next (instr s c (sysWord rd rs1 0x0D imm) (!isChisel c && imm == 0) true true fun s =>
    let x := getCore s c
    let va := if rs1 = 0 then none else some (gRead x rs1.toNat).toNat
    let asid := if rd = 0 then none else some (gRead x rd.toNat).toNat
    .ok (setCore s c { x with tlb := x.tlb.filter fun t => !tlbHit t va asid }))

/-- R118: CORESIG sets the SWI interrupt of the core whose GLOBAL number is in rs1; a core of another partition is not touched (R226). -/
def execCoresig (c : Fin 112) (rd rs1 : BitVec 5) (imm : BitVec 10) (s : State) : Res :=
  .next (instr s c (sysWord rd rs1 0x0E imm) (rd == 0 && imm == 0) true true fun s =>
    let n := (gRead (getCore s c) rs1.toNat).toNat
    if n < 112 && (coreOwner s n).isSome && coreOwner s n == coreOwner s c then .ok (setIp s n 0) else .ok s)

/-! ### Events at a core's boundary (R123, R127, R128) -/

/-- HZ_TVAL of an interrupt (R126): the tag of the oldest late error for RASP, HZ_FABERR for FAB, 0 for every other. -/
def intTval (s : State) (c i : Nat) : Word :=
  if i = 4 then
    match tget (getRasp s (coreCluster c)).errs [] c with
    | e :: _ => BitVec.ofNat 64 e.tag
    | [] => 0
  else if i = 5 then (getCore s c).faberr else 0

/-- The lowest-numbered interrupt that is pending and enabled (R127). -/
def lowestInt (s : State) (c : Nat) : Nat :=
  ((upFrom 0 8).find? fun i => bit ((getCore s c).ieMask &&& ipOf s c) i).getD 0

/-- R127: a pending enabled interrupt is taken at an instruction boundary; a work-item abort at U goes first. A waiting RLOCK is withdrawn.
The source of EXT, a module message, counts as served once its interrupt is taken (R123 names no register that serves it). -/
def execInterruptTake (c : Fin 112) (s : State) : Res :=
  let x := getCore s c
  if x.run = .running ∧ intDue s c ∧ !(x.pl == 0 && !x.abQ.isEmpty) then
    let i := lowestInt s c
    let tv := intTval s c i
    let s := if isChisel c then withdrawRlock s c else s
    .next (updCore s c fun y => takeTrap { y with ip := if i = 7 then setBit y.ip 7 false else y.ip } i 0 true tv y.pc)
  else .next s

/-- R127: a work-item abort reaches a core: at U it is taken at the boundary, at S it is held in HZ_STATUS.ABP. -/
def execWiAbort (c : Fin 112) (s : State) : Res :=
  let x := getCore s c
  match x.abQ with
  | [] => .next s
  | t :: r =>
    let s := setCore s c { x with abQ := r }
    match x.run with
    | .running => if x.pl = 0 then .next (takeAbort s c t x.pc) else .next (updCore s c fun y => { y with abHeld := y.abHeld ++ [t] })
    | .waiting => .next (updCore s c fun y => { y with abHeld := y.abHeld ++ [t] })
    | _ => .next s

/-- R123: the counter passes HZ_TCMP.CMP with EN = 1, so TMR becomes pending; time moves up to the compare value. -/
def execTimerCompare (c : Fin 112) (s : State) : Res :=
  let x := getCore s c
  if x.tcmpEn then
    let d := int32 x.tcmp (nsCounter s)
    let s := if 0 < d then { s with now := s.now + d.toNat } else s
    .next (signalCore s c)
  else .next s

/-- R128: a target error arrives for a store that has left the core. [log 56: DEDUCED] -/
def execStoreErrorAsync (c : Fin 112) (s : State) : Res :=
  let x := getCore s c
  match x.fabQ with
  | [] => .next s
  | a :: r => .next (setIp (setCore s c { x with fabQ := r, faberr := a, fabCnt := x.fabCnt + 1 }) c 5)

end Sys2Proof.Machine
end

