-- ==== Sys2Proof/Machine/RaspOps.lean ====
section
/-!
DEFINITION. What the Rasp operations compute (07_dsp_addressing_and_rasp R182), after the standards that the rule names.
-/
namespace Sys2Proof.Machine

/-! ### CRCs -/

/-- Degree and polynomial (without its top term) of a POLY value (TS 38.212 5.1, TS 36.212 5.1.1); `none` for 7. [log 18: PRESUMED] -/
def crcPoly (p : Nat) : Option (Nat × Nat) :=
  match p with
  | 0 => some (24, 0x864CFB)
  | 1 => some (24, 0x800063)
  | 2 => some (24, 0xB2B117)
  | 3 => some (16, 0x1021)
  | 4 => some (11, 0x621)
  | 5 => some (6, 0x21)
  | 6 => some (8, 0x9B)
  | _ => none

/-- The low `n` bits of a number in the opposite order. -/
def revBits (v : Nat) (n : Nat) : Nat := packEls2 ((upFrom 0 n).map fun i => bit v (n - 1 - i))
where
  /-- Bits in a row, the first lowest. -/
  packEls2 (bs : List Bool) : Nat := bs.foldr (fun b acc => b2n b + 2 * acc) 0

/-- A bit list as a number, the first bit lowest. -/
def ofBits (bs : List Bool) : Nat := bs.foldr (fun b acc => b2n b + 2 * acc) 0

/-- RCRC: parity bit p_i in bit i. [log 18: PRESUMED] -/
def rcrc (cw k1 old : Nat) : Option Nat :=
  let len := fld cw 3 12
  match crcPoly (fld cw 0 3) with
  | none => none
  | some (l, poly) =>
    if len = 0 ∨ 2048 < len then none
    else
      let init := if bit cw 15 then 0 else revBits (fld old 0 l) l
      some (revBits (crcMsb l poly init ((upFrom 0 len).map (bit k1))) l)

/-! ### Linear recurrences over GF(2): x(n + d) is the sum of x(n + i) over the bits i of `t` -/

/-- A polynomial of degree below `d` multiplied by the variable, modulo the characteristic polynomial. -/
def gfMulX (t d a : Nat) : Nat := if bit (2 * a) d then (2 * a - 2 ^ d) ^^^ t else 2 * a

/-- The product of two polynomials modulo the characteristic polynomial, from the high bits of `b`. -/
def gfMul (t d a b : Nat) : Nat → Nat
  | 0 => 0
  | n + 1 => let r := gfMulX t d (gfMul t d a (b / 2) n); if bit b 0 then r ^^^ a else r

/-- The `n`-th power of the variable modulo the characteristic polynomial; `f` bits of `n` are read. -/
def gfPow (t d n : Nat) : Nat → Nat
  | 0 => 1
  | f + 1 =>
    let r := gfPow t d (n / 2) f
    let q := gfMul t d r r d
    if bit n 0 then gfMulX t d q else q

/-- Is the number of ones odd? -/
def parity (v w : Nat) : Bool := popcount v w % 2 == 1

/-- The recurrence run `n` steps from a state that holds x(0) to x(d - 1): the values it gives. -/
def lfsrRun (t d st : Nat) : Nat → List Bool
  | 0 => []
  | n + 1 => bit st 0 :: lfsrRun t d (st / 2 + b2n (parity (st &&& t) d) * 2 ^ (d - 1)) n

/-- The state after `n0` steps, each of its bits by the power of the variable that the recurrence gives for it. -/
def lfsrState (t d init n0 : Nat) : Nat :=
  let p := gfPow t d n0 40
  ofBits ((upFrom 0 d).map fun i => parity (gfMul t d p (2 ^ i) d &&& init) d)

/-- The values x(n0) to x(n0 + n - 1). -/
def lfsrSeq (t d init n0 n : Nat) : List Bool := lfsrRun t d (lfsrState t d init n0) n

/-- RGOLD: c(N0 + j) of TS 38.211 5.2.1. [log 18: PRESUMED] -/
def rgold (cw : Nat) : Nat :=
  let n0 := fld cw 32 32 + 1600
  ofBits ((List.zip (lfsrSeq 0x9 31 1 n0 2048) (lfsrSeq 0xF 31 (fld cw 0 31) n0 2048)).map fun p => p.1 != p.2)

/-- RMSEQ: x(N0 + j) of the recurrence in the control word. [log 18: PRESUMED] -/
def rmseq (cw k1 : Nat) : Nat :=
  let d := fld cw 32 5 + 1
  ofBits (lfsrSeq (fld cw 0 d) d (fld k1 0 d) (fld cw 37 27) 2048)

/-! ### Interleaving -/

/-- The side T of the triangle that holds `e` bits (TS 38.212 5.4.1.3). -/
def triSide (e : Nat) : Nat := (firstFrom (fun t => e ≤ t * (t + 1) / 2) 0 65).getD 0

/-- The reading order of the triangular interleaver: for each output position, the input position. -/
def triOrder (e : Nat) : List Nat :=
  let t := triSide e
  ((upFrom 0 t).flatMap fun j => (upFrom 0 (t - j)).map fun i => i * t - i * (i - 1) / 2 + j).filter fun k => k < e

/-- RILV: output positions in order, as input positions; `none` for a field out of range. [log 18: PRESUMED] -/
def rilvOrder (mode e rows : Nat) : Option (List Nat) :=
  if e = 0 ∨ 2048 < e then none
  else if mode < 2 then
    if rows = 0 ∨ e % rows ≠ 0 then none
    else
      let c := e / rows
      some ((upFrom 0 e).map fun n =>
        if mode = 0 then n % rows * c + n / rows else n / c + n % c * rows)
  else some (triOrder e)

/-- RILV: modes 0 to 2 read their input in the order above; mode 3 writes it in that order. [log 18: PRESUMED] -/
def rilv (cw k1 : Nat) : Option Nat :=
  let mode := fld cw 0 2
  match rilvOrder mode (fld cw 2 12) (fld cw 14 10) with
  | none => none
  | some o =>
    if mode = 3 then
      some ((List.zip (upFrom 0 o.length) o).foldl (fun acc p => setBit acc p.2 (bit k1 p.1)) 0)
    else some (ofBits (o.map (bit k1)))

/-- Sixteen-bit values in a row. -/
def pack16 (l : List Nat) : Nat := l.foldr (fun e acc => e % 65536 + 65536 * acc) 0

/-- The next positions of a circular buffer that skips its filler range. -/
def rmPositions (ncb fs fl p : Nat) : Nat → List Nat
  | 0 => []
  | n + 1 =>
    let q := if fs ≤ p ∧ p < fs + fl then (fs + fl) % ncb else p
    q :: rmPositions ncb fs fl ((q + 1) % ncb) n

/-- RRMIDX (TS 38.212 5.4.2.1). [log 18: PRESUMED] -/
def rrmidx (cw : Nat) : Option Nat :=
  let ncb := fld cw 0 16
  let pos := fld cw 16 16
  let fs := fld cw 32 16
  let fl := fld cw 48 16
  if ncb ≤ pos ∨ ncb < fs + fl ∨ ncb ≤ fl then none else some (pack16 (rmPositions ncb fs fl pos 128))

/-- The inter-column permutation of TS 36.212 table 5.1.4-1: the five bits of the column number reversed. -/
def colPerm (k : Nat) : Nat := revBits k 5

/-- RSBI (TS 36.212 5.1.4.1.1). [log 18: PRESUMED] -/
def rsbi (cw : Nat) : Option Nat :=
  let d := fld cw 0 16
  let str := fld cw 16 2
  let k0 := fld cw 32 16
  if d = 0 ∨ 6148 < d ∨ str = 3 then none
  else
    let r := (d + 31) / 32
    let nd := 32 * r - d
    let val := fun k =>
      let p := colPerm (k / r) + 32 * (k % r)
      let q := if str = 2 then (p + 1) % (32 * r) else p
      if 32 * r ≤ k ∨ q < nd then 0xFFFF else q - nd
    some (pack16 ((upFrom 0 128).map fun j => val (k0 + j)))

/-! ### Segmentation -/

/-- The lifting sizes of TS 38.212 table 5.3.2-1, with their set index. [log 18: PRESUMED] -/
def liftSizes : List (Nat × Nat) :=
  [(2, 8, 0), (3, 8, 1), (5, 7, 2), (7, 6, 3), (9, 6, 4), (11, 6, 5), (13, 5, 6), (15, 5, 7)].flatMap fun (a, n, i) =>
    (upFrom 0 n).map fun j => (a * 2 ^ j, i)

/-- The smallest of the numbers that satisfy `p`, with what goes with it. -/
def leastWith (p : Nat → Bool) (l : List (Nat × Nat)) : Nat × Nat :=
  l.foldl (fun m e => if p e.1 && (m.1 == 0 || e.1 < m.1) then e else m) (0, 0)

/-- The interleaver lengths K of TS 36.212 table 5.1.3-3. [log 18: PRESUMED] -/
def turboSizes : List Nat :=
  ((upFrom 0 60).map fun i => 40 + 8 * i) ++ ((upFrom 0 32).map fun i => 528 + 16 * i) ++
  ((upFrom 0 32).map fun i => 1056 + 32 * i) ++ ((upFrom 0 64).map fun i => 2112 + 64 * i)

/-- NR segmentation (TS 38.212 5.2.2). Where C does not divide B′ the standard's K′ is no integer and the spec states no rounding of it:
`up` is a free value that says which of the two neighbours it is (notes/assumptions/2.md). [log 18: PRESUMED] -/
def segNr (b : Nat) (bg2 up : Bool) : List Nat :=
  let kcb := if bg2 then 3840 else 8448
  let l := if b ≤ kcb then 0 else 24
  let c := if b ≤ kcb then 1 else (b + (kcb - 25)) / (kcb - 24)
  let b' := b + c * l
  let k' := b' / c + (if up && b' % c != 0 then 1 else 0)
  let kb := if !bg2 then 22 else if 640 < b then 10 else if 560 < b then 9 else if 192 < b then 8 else 6
  let z := leastWith (fun z => k' ≤ kb * z) liftSizes
  let k := (if bg2 then 10 else 22) * z.1
  [c, k', k, z.1, z.2, k - k', l, kb]

/-- LTE segmentation (TS 36.212 5.1.2). [log 18: PRESUMED] -/
def segLte (b : Nat) : List Nat :=
  let l := if b ≤ 6144 then 0 else 24
  let c := if b ≤ 6144 then 1 else (b + 6119) / 6120
  let b' := b + c * l
  let kp := (turboSizes.find? fun k => b' ≤ c * k).getD 0
  if c = 1 then [1, kp, 0, 1, 0, kp - b', l, 0]
  else
    let km := (turboSizes.filter fun k => k < kp).foldl max 0
    let cm := (c * kp - b') / (kp - km)
    let cp := c - cm
    [c, kp, km, cp, cm, cp * kp + cm * km - b', l, 0]

/-- RSEG: the results in 64-bit words 0 to 7. [log 18: PRESUMED] -/
def rseg (cw : Nat) (up : Bool) : Option Nat :=
  let b := fld cw 0 32
  if b = 0 ∨ 2 ^ 24 ≤ b then none
  else
    let ws := if bit cw 32 then segLte b else segNr b (bit cw 33) up
    some (ws.foldr (fun e acc => e + 2 ^ 64 * acc) 0)

/-! ### An instruction's result -/

/-- The value that an instruction in flight writes into kd, from the k registers as they stand in issue order (R179); `none` for
BAD_PARAM (R182). -/
def raspResult (k : Tab (BitVec 2048)) (o : RaspOp) (up : Bool) : Option (BitVec 2048) :=
  let cw := o.cw.toNat
  let k1 := (tget k 0 o.k1).toNat
  let k2 := (tget k 0 o.k2).toNat
  let old := (tget k 0 (o.kd.getD 0)).toNat
  let r : Option Nat := match o.op with
    | 0 => rcrc cw k1 old
    | 1 => some (rgold cw)
    | 2 => some (rmseq cw k1)
    | 3 => rilv cw k1
    | 4 => rrmidx cw
    | 5 => rsbi cw
    | 6 => rseg cw up
    | 7 => some (k1 ^^^ k2)
    | 8 => some (old - fld old o.k1 o.k2 * 2 ^ o.k1 + fld o.val.toNat 0 o.k2 * 2 ^ o.k1)
    | _ => some old
  r.map (BitVec.ofNat 2048)

end Sys2Proof.Machine
end

