-- ==== Sys2Proof/Machine/JigOps.lean ====
section
/-!
DEFINITION. Job descriptors, HARQ combining and the completion of jobs (08_fec_jigs R185 to R203). What a decoder finds in a code block
(its hard decisions, its iterations, the checks left unsatisfied) is an operand of JG_COMPLETE.
-/
namespace Sys2Proof.Machine

/-! ### Descriptors (R188 to R193) -/

/-- `n` bytes of a descriptor from byte `i`. -/
def dsc (d : List Byte) (i n : Nat) : Nat := ofLe ((d.drop i).take n)

/-- Is a range of bytes of a descriptor zero? -/
def dscZero (d : List Byte) (i n : Nat) : Bool := dsc d i n == 0

def jdIn (d : List Byte) : Nat := dsc d 16 6
def jdOut (d : List Byte) : Nat := dsc d 24 6
def jdHin (d : List Byte) : Nat := dsc d 32 6
def jdHout (d : List Byte) : Nat := dsc d 40 6
def jdCode (d : List Byte) : Nat := dsc d 48 1
def jdCrc (d : List Byte) : Nat := fld (jdCode d) 1 3
def jdEt (d : List Byte) : Nat := fld (jdCode d) 4 2
def jdMaxit (d : List Byte) : Nat := dsc d 49 1
/-- ZC of an LDPC job, K of a turbo or polar job. -/
def jdSize (d : List Byte) : Nat := dsc d 50 2
def jdKp (d : List Byte) : Nat := dsc d 52 2
def jdF (d : List Byte) : Nat := dsc d 54 2
/-- E: in a polar job at bytes 57:54. -/
def jdE (d : List Byte) (cls : Nat) : Nat := if cls = 5 then dsc d 54 4 else dsc d 56 4
def jdNcb (d : List Byte) : Nat := dsc d 60 2
def jdRv (d : List Byte) : Nat := fld (dsc d 62 1) 0 2
def jdQm (d : List Byte) : Nat := fld (dsc d 62 1) 2 4
def jdXprev (d : List Byte) : Nat := dsc d 64 2
def jdEvt (d : List Byte) : Bool := bit (dsc d 1 1) 0
def jdFlow (d : List Byte) : Nat := fld (dsc d 4 4) 0 18
def jdDir (d : List Byte) : Bool := bit (dsc d 0 1) 3

/-- Does a job decode? -/
def jdDecodes (d : List Byte) (cls : Nat) : Bool := cls == 1 || cls == 3 || (cls == 5 && !jdDir d)

/-- COMB and HST, which only LDPC and turbo decoders have. -/
def jdComb (d : List Byte) (cls : Nat) : Bool := (cls == 1 || cls == 3) && bit (jdCode d) 6
def jdHst (d : List Byte) (cls : Nat) : Bool := (cls == 1 || cls == 3) && bit (jdCode d) 7

/-- The columns of a base graph that carry information bits: 22 or 10 (R195: KC). -/
def jdKc (d : List Byte) : Nat := if bit (jdCode d) 0 then 10 else 22

/-- The columns of the circular buffer: 66 or 50 (R185). -/
def jdCols (d : List Byte) : Nat := if bit (jdCode d) 0 then 50 else 66

/-- The size of a HARQ buffer at an address (R195). -/
def hsize (a ncb : Nat) : Nat := if a < 2 ^ 37 then (ncb + 2047) / 2048 * 2048 else (ncb + 63) / 64 * 64

/-- The alignment that a HARQ buffer at an address needs (R195). -/
def halign (a : Nat) : Nat := if a < 2 ^ 37 then 2048 else 64

/-- Do two HARQ buffers overlap? -/
def harqOverlap (d : List Byte) : Bool :=
  jdHin d < jdHout d + hsize (jdHout d) (jdNcb d) && jdHout d < jdHin d + hsize (jdHin d) (jdNcb d)

/-- The HARQ buffers are aligned, and equal or apart (R193, R195). -/
def harqOk (d : List Byte) (cls : Nat) : Bool :=
  !(jdComb d cls && jdHin d % halign (jdHin d) != 0) && !(jdHst d cls && jdHout d % halign (jdHout d) != 0) &&
  !(jdComb d cls && jdHst d cls && jdHin d != jdHout d && harqOverlap d)

/-- The header's fields (R188, R193). -/
def jdHeadOk (d : List Byte) (cls : Nat) : Bool :=
  fld (dsc d 0 1) 0 3 == cls && (cls == 5 || !jdDir d) && fld (dsc d 0 1) 4 4 == 0 &&
  fld (dsc d 1 1) 2 6 == 0 && dscZero d 2 2 && fld (dsc d 4 4) 18 14 == 0

/-- The LDPC class area (R190, R193). -/
def jdLdpcOk (d : List Byte) (cls : Nat) : Bool :=
  let z := jdSize d
  let k := jdKc d * z
  dscZero d 22 2 && dscZero d 30 2 && dscZero d 63 1 && dscZero d 66 46 &&
  (liftSizes.any fun e => e.1 == z) && 1 ≤ jdKp d && jdKp d + jdF d == k &&
  1 ≤ jdE d cls && jdE d cls < 2 ^ 24 && k - 2 * z ≤ jdNcb d && jdNcb d ≤ jdCols d * z &&
  fld (dsc d 62 1) 6 2 == 0 && [1, 2, 4, 6, 8, 10].contains (jdQm d) &&
  (if cls = 1 then
    dscZero d 38 2 && dscZero d 46 2 && jdCrc d < 4 && jdEt d < 3 && !(jdEt d == 2 && jdCrc d == 0) &&
    1 ≤ jdMaxit d && jdMaxit d ≤ 32 && jdXprev d ≤ jdNcb d && (bit (jdCode d) 6 || jdXprev d == 0)
  else dscZero d 32 16 && jdCode d < 2 && dscZero d 49 1 && dscZero d 64 2)

/-- K_Π of the sub-block interleaver: a turbo stream has K + 4 bits (TS 36.212 5.1.4.1.1). -/
def turboKpi (k : Nat) : Nat := (k + 4 + 31) / 32 * 32

/-- The turbo class area (R191, R193). -/
def jdTurboOk (d : List Byte) (cls : Nat) : Bool :=
  let k := jdSize d
  dscZero d 22 2 && dscZero d 30 2 && dscZero d 52 2 && dscZero d 63 3 && dscZero d 66 46 &&
  turboSizes.contains k && jdF d < k && 1 ≤ jdE d cls && jdE d cls < 2 ^ 24 &&
  turboKpi k ≤ jdNcb d && jdNcb d ≤ 3 * turboKpi k &&
  fld (dsc d 62 1) 6 2 == 0 && [2, 4, 6, 8, 10].contains (jdQm d) &&
  (if cls = 3 then
    dscZero d 38 2 && dscZero d 46 2 && !bit (jdCode d) 0 && jdCrc d < 3 && jdEt d < 3 && !(jdEt d == 2 && jdCrc d == 0) &&
    1 ≤ jdMaxit d && jdMaxit d ≤ 16
  else dscZero d 32 16 && dscZero d 48 2)

/-- ⌈log2 n⌉. -/
def clog2 (n : Nat) : Nat := if n ≤ 1 then 0 else log2 (n - 1) + 1

/-- log2 N of a polar job (TS 38.212 5.3.1). -/
def polarLogN (d : List Byte) : Nat :=
  let k := jdSize d
  let e := jdE d 5
  let n1 := if 8 * e ≤ 9 * 2 ^ (clog2 e - 1) ∧ 16 * k < 9 * e then clog2 e - 1 else clog2 e
  max (min (min n1 (clog2 (8 * k))) (jdMaxit d)) 5

/-- The parity-check bits of a UCI block (TS 38.212 5.3.1.2): three for K from 18 to 25. -/
def polarPc (d : List Byte) : Nat := if !bit (jdCode d) 2 && 18 ≤ jdSize d && jdSize d ≤ 25 then 3 else 0

/-- The CRC length of a polar job. -/
def polarCrc (d : List Byte) : Nat := lget [6, 11, 24, 0] 0 (fld (jdCode d) 0 2)

/-- The polar class area (R192, R193); bytes 49 holds NMAX. [log 50: DEDUCED] -/
def jdPolarOk (d : List Byte) : Bool :=
  let k := jdSize d
  let c := jdCode d
  dscZero d 22 2 && dscZero d 30 18 && dscZero d 58 54 && fld c 0 2 != 3 && !(bit c 2 && fld c 0 2 != 2) && fld c 6 2 == 0 &&
  (jdMaxit d == 9 || jdMaxit d == 10) && 12 ≤ k && k ≤ 1023 && polarCrc d < k && k ≤ jdE d 5 && jdE d 5 ≤ 16384 &&
  k + polarPc d ≤ 2 ^ polarLogN d

/-- Does the descriptor pass the checks of R193 after that of its FLOW? [log 50: DEDUCED] -/
def jdOk (d : List Byte) (cls : Nat) : Bool :=
  jdHeadOk d cls && harqOk d cls &&
  (if cls ≤ 2 then jdLdpcOk d cls else if cls ≤ 4 then jdTurboOk d cls else jdPolarOk d)

/-! ### Sizes of the buffers -/

/-- The information bits of a job as they lie in memory. -/
def infoBits (d : List Byte) (cls : Nat) : Nat :=
  if cls ≤ 2 then jdKp d else if cls ≤ 4 then jdSize d - jdF d else jdSize d - polarCrc d

def bytesFor (bits : Nat) : Nat := (bits + 7) / 8

/-- Bytes of IN and of OUT. -/
def inBytes (d : List Byte) (cls : Nat) : Nat := if jdDecodes d cls then jdE d cls else bytesFor (infoBits d cls)
def outBytes (d : List Byte) (cls : Nat) : Nat := if jdDecodes d cls then bytesFor (infoBits d cls) else bytesFor (jdE d cls)

/-! ### Rate matching and the extent (R195) -/

/-- k0 of an LDPC job (TS 38.212 table 5.4.2.1-2). -/
def ldpcK0 (d : List Byte) : Nat :=
  let m := lget (if bit (jdCode d) 0 then [0, 13, 25, 43] else [0, 17, 33, 56]) 0 (jdRv d)
  m * jdNcb d / (jdCols d * jdSize d) * jdSize d

/-- The filler positions of an LDPC job in its circular buffer. -/
def ldpcFill (d : List Byte) : Nat × Nat := (jdKp d - 2 * jdSize d, jdKc d * jdSize d - 2 * jdSize d)

/-- The extent of an LDPC job's own reading (R195). -/
def ldpcReach (d : List Byte) (cls : Nat) : Nat :=
  let (f0, f1) := ldpcFill d
  let k0 := ldpcK0 d
  let p := if f0 ≤ k0 ∧ k0 < f1 then f1 else k0
  let x := if p < f0 ∧ f0 < p + jdE d cls then p + jdE d cls + (f1 - f0) else p + jdE d cls
  min x (jdNcb d)

/-- The extent X (R195). -/
def ldpcX (d : List Byte) (cls : Nat) : Nat :=
  if jdComb d cls then max (ldpcReach d cls) (jdXprev d) else ldpcReach d cls

/-- LACT (R195); 0 for classes other than LDPC. -/
def jobLact (d : List Byte) (cls : Nat) : Nat :=
  if cls ≤ 2 then
    let x := (ldpcX d cls + jdSize d - 1) / jdSize d + 2 - jdKc d
    min (max x 4) (if bit (jdCode d) 0 then 42 else 46)
  else 0

/-- XMAX of the STATUS word (R197). -/
def jobXmax (d : List Byte) (cls : Nat) : Nat :=
  if cls ≤ 2 then ldpcX d cls else if jdHst d cls then jdNcb d else 0

/-- Does a position of the circular buffer carry no bit: a filler, or a dummy bit of the turbo interleaver (TS 36.212 5.1.4.1)? -/
def isNullPos (d : List Byte) (cls i : Nat) : Bool :=
  if cls = 1 then (ldpcFill d).1 ≤ i && i < (ldpcFill d).2
  else
    let kpi := turboKpi (jdSize d)
    let r := kpi / 32
    let nd := kpi - (jdSize d + 4)
    let (str, k) := if i < kpi then (0, i) else (1 + (i - kpi) % 2, (i - kpi) / 2)
    let p := colPerm (k / r) + 32 * (k % r)
    let q := if str = 2 then (p + 1) % kpi else p
    q < nd || (str != 2 && q < nd + jdF d)

/-- k0 of a decode job. -/
def jobK0 (d : List Byte) (cls : Nat) : Nat :=
  if cls = 1 then ldpcK0 d
  else
    let r := turboKpi (jdSize d) / 32
    r * (2 * ((jdNcb d + 8 * r - 1) / (8 * r)) * jdRv d + 2)

/-! ### Combining (R189, R195) -/

/-- An LLR byte: −128 is read as −127. -/
def llr (b : Byte) : Int := max (-127) b.toInt

/-- A saturating sum of LLRs, and whether it was clamped. -/
def llrAdd (a b : Int) : Int × Bool := (clampInt (a + b) (-127) 127, clampInt (a + b) (-127) 127 != a + b)

/-- Adds a row of received LLRs to the LLRs at the positions they are read to. -/
def addRow : List Int → List Int → List Int × Bool
  | a :: l, b :: r =>
    let (x, c) := llrAdd a b
    let (y, c') := addRow l r
    (x :: y, c || c')
  | l, _ => (l, false)

/-- The received LLRs of an LDPC job after bit de-interleaving (TS 38.212 5.4.2.2): column by column of rows of Qm. -/
def deinterleave (qm : Nat) (bs : List Byte) : List Byte :=
  let rows := chunksOf qm bs.length bs
  (upFrom 0 qm).flatMap fun i => rows.map fun r => r.getD i 0

/-- Adds every row in turn. -/
def addRows (acc : List Int) (sat : Bool) : List (List Byte) → List Int × Bool
  | [] => (acc, sat)
  | r :: rs => let (a, c) := addRow acc (r.map llr); addRows a (sat || c) rs

/-- Spreads LLRs over the positions that carry a bit; the others hold 0. -/
def spread (null : Nat → Bool) : List Nat → List Int → List Int
  | [], _ => []
  | i :: is, l => if null i then 0 :: spread null is l else l.headD 0 :: spread null is l.tail

/-- The combined LLRs of positions 0 to NCB − 1 from the old ones and the received ones, and SAT (R195). -/
def combine (d : List Byte) (cls : Nat) (old : List Int) (rx : List Byte) : List Int × Bool :=
  let ncb := jdNcb d
  let k0 := jobK0 d cls % ncb
  let null := isNullPos d cls
  let e := if cls = 1 then deinterleave (jdQm d) rx else rx
  let at_ := List.zip (upFrom 0 ncb) old
  let hi := (at_.filter fun p => k0 ≤ p.1 && !null p.1).map fun p => p.2
  let lo := (at_.filter fun p => p.1 < k0 && !null p.1).map fun p => p.2
  let n := hi.length + lo.length
  let (l, sat) := addRows (hi ++ lo) false (chunksOf n e.length e)
  (spread null (upFrom 0 ncb) (l.drop hi.length ++ l.take hi.length), sat)

/-- A HARQ buffer's bytes (R195): the LLRs, and zero up to HSIZE. [log 19: DESIGN CHOICE] -/
def harqBytes (a ncb : Nat) (l : List Int) : List Byte :=
  (l.map fun x => BitVec.ofInt 8 x) ++ List.replicate (hsize a ncb - ncb) 0

/-- Reads HIN page by page: the bytes of a page that reads as unwritten or uncorrectable are zero and set HUNC; any other error is
INPUT_ERR (`none`). [log 19: DESIGN CHOICE] -/
def readHarq (s : State) (p : Nat) : List (Nat × Nat) → Option (List Byte) × Bool × State
  | [] => (some [], false, s)
  | (a, n) :: r =>
    match readPiece s (some p) a n with
    | (st, bs, s') =>
      if st = 0 ∨ (st = 2 ∧ a < 2 ^ 37) then
        match readHarq s' p r with
        | (some l, u, s'') => (some ((if st = 0 then bs else List.replicate n 0) ++ l), u || st = 2, s'')
        | (none, u, s'') => (none, u, s'')
      else (none, false, s')

/-! ### Units -/

/-- First bit and number of a class's instances in JG_INST_STAT (R184, R204). -/
def instBits (cls : Nat) : Nat × Nat := lget [(0, 0), (0, 8), (8, 4), (12, 2), (14, 1), (15, 2)] (0, 0) cls

/-- The instances of a class in service on a die, in ascending order. -/
def inService (s : State) (die cls : Nat) : List Nat :=
  (upFrom 0 (instBits cls).2).filter fun i => bit (tget s.jig.inst 0 die) ((instBits cls).1 + i)

/-- Queued and running jobs. -/
def jigQueued (s : State) (die cls : Nat) : List JgJob := s.jig.queue.filter fun j => j.die == die && j.cls == cls
def jigRunning (s : State) (die cls : Nat) : List JgRun := s.jig.running.filter fun r => r.job.die == die && r.job.cls == cls

/-- Queued and running jobs of a partition and class (JG_QDEPTH). -/
def jigDepth (s : State) (die p cls : Nat) : Nat :=
  ((jigQueued s die cls).filter fun j => j.part == p).length + ((jigRunning s die cls).filter fun r => r.job.part == p).length

/-- The bank of a partition's jig counters on a die. -/
def jgBank (die p : Nat) : Nat := 4 * die + p

/-! ### Completion (R197, R198) -/

/-- The AUX word (R197). -/
def auxWord (time metric logn : Nat) : Nat := time % 2 ^ 32 + metric % 2 ^ 16 * 2 ^ 32 + logn % 16 * 2 ^ 48

/-- The STATUS word (R197) of a job that ran; `flags` are bits 27:24. -/
def statusWord (code iter lact flags xmax inst : Nat) : Nat :=
  code + iter % 64 * 2 ^ 8 + lact % 64 * 2 ^ 16 + flags % 16 * 2 ^ 24 + xmax % 65536 * 2 ^ 32 + inst % 8 * 2 ^ 48 + 2 ^ 63

/-- What a completion event carries (R198, R207). -/
def jigArg0 (j : JgJob) (status : Nat) : Word := BitVec.ofNat 64 (status % 2 ^ 32 + j.cls * 2 ^ 32)

/-- Raises a reserved event (R198). In an ordered flow it fills its place, as an ordinary item or as a tombstone; in another flow it enters
now as a ready item. -/
def raiseReserved (s : State) (i : Nat) (tag arg0 arg1 : Word) (code : Nat) : State :=
  match itemById s i with
  | none => s
  | some it =>
    let it := { it with kind := 4, tag := tag, arg0 := arg0, arg1 := arg1, arrNs := upNs s, readyNs := upNs s }
    if (getFlow s it.flow).kind = 1 then releaseItem s (if code ≤ 3 then it else toTomb it code)
    else setItems s ((s.dv.items.filter fun x => x.id != i) ++ [{ it with place := .queued }])

/-- Ends a job (R197): AUX and then STATUS are written into its descriptor, the completion is counted, and the event is raised. -/
def endJob (s : State) (j : JgJob) (status aux : Nat) : State :=
  let (_, _, s) := memWrite s (some j.part) (j.addr + 112) (leBytes aux 8)
  let (_, _, s) := memWrite s (some j.part) (j.addr + 120) (leBytes status 8)
  let code := status % 256
  let s := bump s .jgDone (jgBank j.die j.part)
  let s := if code = 2 then bump s .jgCrcFail (jgBank j.die j.part) else s
  match j.evt with
  | some i => raiseReserved s i (BitVec.ofNat 64 (dsc j.desc 8 8)) (jigArg0 j status) (BitVec.ofNat 64 j.addr) code
  | none => s

/-- Ends a job that did not run. [log 51: DESIGN CHOICE] -/
def endUnrun (s : State) (j : JgJob) (code : Nat) : State := endJob s j (statusWord code 0 0 0 0 0) 0

/-- Takes jobs out of the units, without completing them. -/
def dropQueued (s : State) (f : JgJob → Bool) : State :=
  { s with jig := { s.jig with queue := s.jig.queue.filter fun j => !f j } }

/-- Takes running jobs out of their instances, without completing them. [log 52: DEDUCED] -/
def dropRunning (s : State) (f : JgRun → Bool) : State :=
  { s with jig := { s.jig with running := s.jig.running.filter fun r => !f r } }

/-- Jobs in the order of their queue (R194, R201): those that run again, then HI jobs, then the others, each group in acceptance order. -/
def queueOrder (l : List JgJob) : List JgJob :=
  (l.filter fun j => j.retry) ++ (l.filter fun j => !j.retry && j.hi) ++ l.filter fun j => !j.retry && !j.hi

/-- Ends every queued job that meets a test, in queue order. -/
def endQueued (s : State) (f : JgJob → Bool) (code : Nat) : State :=
  (queueOrder (s.jig.queue.filter f)).foldl (fun s j => endUnrun s j code) (dropQueued s f)

/-- `n` free bytes. [log 2: DESIGN CHOICE] -/
def freeBytes (s : State) (n : Nat) : List Byte × State :=
  ((upFrom s.fresh n).map fun i => BitVec.ofNat 8 (Config.free i), { s with fresh := s.fresh + n })

/-- Any subset of a buffer may have been written (R197): a free value says whether it was, and with what. [log 51: DESIGN CHOICE] -/
def maybeWritten (s : State) (p a n : Nat) : State :=
  let (w, s) := takeFree s 1
  let (bs, s) := freeBytes s n
  if w = 1 then (memWrite s (some p) a bs).2.2 else s

/-- The outputs of a job of which any subset may be written (R197). [log 2: DESIGN CHOICE; log 51: DESIGN CHOICE] -/
def maybeOutputs (s : State) (j : JgJob) : State :=
  let s := maybeWritten s j.part (jdOut j.desc) (outBytes j.desc j.cls)
  if jdHst j.desc j.cls then maybeWritten s j.part (jdHout j.desc) (hsize (jdHout j.desc) (jdNcb j.desc)) else s

/-- Ends a running job whose outputs may be partly written: CANCELLED or JIG_FAULT. What STATUS and AUX hold beside CODE, RETRY, INST and
DONE is not stated: free values. [log 2: DESIGN CHOICE; log 51: DESIGN CHOICE] -/
def endStopped (s : State) (r : JgRun) (code : Nat) : State :=
  let j := r.job
  let s := maybeOutputs s j
  let (t, s) := takeFree s 32
  let (it, s) := takeFree s 6
  let (fl, s) := takeFree s 3
  let (m, s) := takeFree s 16
  let iterates : Bool := j.cls == 1 || j.cls == 3
  endJob s j (statusWord code (if iterates then it else 0) (jobLact j.desc j.cls) ((if iterates then fl else 0) + 8 * b2n j.retry)
      (jobXmax j.desc j.cls) r.inst)
    (auxWord t (if j.cls = 1 ∨ (j.cls = 5 ∧ jdDecodes j.desc j.cls) then m else 0) (if j.cls = 5 then polarLogN j.desc else 0))

/-- Every queued and running job of a class on a die completes with JIG_FAULT (R201, R203). -/
def failClass (s : State) (die cls : Nat) : State :=
  let rs := jigRunning s die cls
  let s := dropRunning s fun r => r.job.die == die && r.job.cls == cls
  endQueued (rs.foldl (fun s r => endStopped s r 0x40) s) (fun j => j.die == die && j.cls == cls) 0x40

/-- A jig domain becomes FAILED (R203): its instances leave service and its jobs complete with JIG_FAULT. -/
def failJigDomain (s : State) (d : Nat) : State :=
  if d < 18 ∧ (d % 9 = 6 ∨ d % 9 = 7) then
    let die := d / 9
    ((upFrom 1 5).filter fun cls => jigDom die cls == d).foldl (fun s cls =>
      let (b, n) := instBits cls
      let m := tget s.jig.inst 0 die
      failClass { s with jig := { s.jig with inst := tset s.jig.inst die (clrBits m ((2 ^ n - 1) * 2 ^ b)) } } die cls) s
  else s

end Sys2Proof.Machine
end

