-- ==== Sys2Proof/Machine/Power.lean ====
section
/-!
DEFINITION. Entering and leaving sleep, and changes of performance level (16_power_states R345 to R360).
-/
namespace Sys2Proof.Machine

/-- The stable state of a sleep target. -/
def sleepState (t : Nat) : DomState := if t = 1 then .s1 else if t = 2 then .s2 else .s3

/-- Is the domain a memory group, or a jig domain (R345)? -/
def isMemGroup (d : Nat) : Bool := d < 18 && d % 9 == 8
def isJigDom (d : Nat) : Bool := d < 18 && (d % 9 == 6 || d % 9 == 7)

/-- Does the domain support a sleep state (R345)? -/
def supports (d t : Nat) : Bool := t == 1 || t == 3 || (t == 2 && (isGroup d || isMemGroup d))

/-- PWR_STATE on a change between stable states (R359). -/
def pwrState (s : State) (d old new : Nat) : State := raiseDom s d 0x0A00 (d + old * 2 ^ 8 + new * 2 ^ 12) 0 0

/-- Holds a core in reset: every register of it takes its value at reset, level F among them, while its mode and weight are kept (R121, R156). [log 90: DEDUCED] -/
def resetCore (s : State) (c : Nat) : State :=
  let x := getCore s c
  setCore s c { narrow := x.narrow, weight := x.weight, weightPend := x.weightPend, run := if x.run = .testing then .testing else .held }

/-- Gives a waiting core the outcome of its WAIT (R136). -/
def endWaits (s : State) (d result refuser : Nat) : State :=
  (groupCores d).foldl (fun s c =>
    let x := getCore s c
    if x.run = .waiting then setCore s c { x with waitDone := some (result, refuser), voting := false } else s) s

/-! ### Refusers (R350 to R352) -/

/-- The clusters of a Chisel group (R345). -/
def groupClusters (d : Nat) : List Nat := if isGroup d then upFrom (12 * (d / 9) + 2 * (d % 9)) 2 else []

/-- R351: does a core of the group stand in the way of a PWR_SET entry to `t`? -/
def busyCore (s : State) (t c : Nat) : Bool :=
  let x := getCore s c
  x.weight != 0 &&
    match x.run with
    | .running => true
    | .waiting => t == 3 && !(x.voting && x.waitMode == 3)
    | _ => false

/-- Is a lane's receiver or transmitter not in deep sleep? -/
def laneUsed (s : State) (n : Nat) : Bool := (getLane s n).txState != 2 || (getLane s n).rxState != 2

/-- R352, code 7. -/
def unitInUse (s : State) (d : Nat) : Bool :=
  if d = 18 ∨ d = 19 then
    (upFrom (16 * (d - 18)) 16).any fun m => (getFh s m).en || laneUsed s (2 * m) || laneUsed s (2 * m + 1)
  else if d = 20 then (upFrom 0 4).any fun n => (getBp s n).en
  else if d = 21 then s.gc.ctxs.any fun e => e.2.cfg.valid
  else if d = 22 then (upFrom 0 64).any fun n => laneUsed s n
  else if d = 23 then (upFrom 64 16).any fun n => laneUsed s n
  else isMemGroup d && (upFrom (8 * (d / 9)) 8).any fun ch => chState s ch == 3

/-- The first refuser that applies, in the order of R352; a change of throttle is in progress during the tick start at which it takes effect
(R367), and a thermal shut-down stops the module before it could be one. [log 78: DEDUCED] -/
def refuserOf (s : State) (d t : Nat) (set : Bool) : Option Nat :=
  if set && (groupCores d).any (busyCore s t) then some 1
  else if (groupCores d).any (holdsLock s) then some 5
  else if isJigDom d && ((s.jig.queue.any fun j => jigDom j.die j.cls == d) || s.jig.running.any fun r => jigDom r.job.die r.job.cls == d) then
    some 3
  else if (groupClusters d).any fun e => (upFrom 0 16).any fun c => dmaBusy s (dmaNo e c) then some 4
  else if (getDom s d).plTo.isSome || (getDom s d).thrAt == some (upNs s) then some 6
  else if unitInUse s d then some 7
  else none

/-- The votes of a Chisel group stand: every core votes, and no voting core has a wake condition (R350, R353). -/
def votesStand (s : State) (d : Nat) : Bool :=
  isGroup d && (groupCores d).all fun c => coreVotes s c && !((getCore s c).run == .waiting && wakeCond s c)

/-- The shallowest state voted for: a core that is held in reset or out of service votes for S3 (R350). -/
def votedState (s : State) (d : Nat) : Nat :=
  (groupCores d).foldl (fun t c => if (getCore s c).run = .waiting then min t (getCore s c).waitMode else t) 3

/-- Accepts an entry (R353): the gates close. -/
def acceptEntry (s : State) (d t : Nat) (h : Option Nat) : State :=
  updDom (bump s .pwrEntry d) d fun x =>
    { x with state := .entering, target := t, drained := false, wakePend := false, reqVote := false, reqSet := none, entryHost := h, since := upNs s }

/-- R353: an entry asked for by votes or by PWR_SET is tested for refusers, and refused or accepted. -/
def execPwrEntryRequest (d : Fin 24) (s : State) : Res :=
  let x := getDom s d
  if x.state ≠ .awake then .next s
  else match x.reqSet with
    | some (t, h) =>
      if (groupCores d).any fun c => (getCore s c).run == .waiting && wakeCond s c then .next (withdrawSet s d 1)
      else match refuserOf s d t true with
        | some code => .next (replyLater (noteRefusal (updDom s d fun x => { x with reqSet := none }) d code false t) h 0x09 (one code))
        | none => .next (acceptEntry s d t (some h))
    | none =>
      if x.reqVote && votesStand s d then
        let t := votedState s d
        match refuserOf s d t false with
        | some code => .next (endWaits (noteRefusal (updDom s d fun x => { x with reqVote := false }) d code false t) d 3 code)
        | none => .next (acceptEntry s d t none)
      else .next (updDom s d fun x => { x with reqVote := false })

/-! ### Drain and entry (R353, R235, R274) -/

/-- Has every REQ and SWRITE_L of a domain's agents its RSP (R235)? Packets pass the gates whole in this model. -/
def nocDrained (s : State) (d : Nat) : Bool :=
  (upFrom 0 160).all fun q => (portDom q != some d || (getPort s q).out.isEmpty) && (getPort s q).out.all fun o => o.jigDom != some d

/-- R235: the drain of a closing domain is complete. -/
def execNocDrainDone (d : Fin 24) (s : State) : Res :=
  let x := getDom s d
  if x.state = .entering ∧ nocDrained s d then .next (setDom s d { x with drained := true }) else .next s

/-- Starts a change of level: upwards the voltage ramps first, downwards the frequency waits for the next tick start. -/
def startLevel (s : State) (d l : Nat) (h : Option Nat) : State :=
  updDom s d fun x => { x with plTo := some (l, if l < x.pl then .rampUp else .waitTick), plHost := h }

/-- A domain that was not awake at the mark of a re-plan is read once it is (R372). -/
def ageAwake (s : State) (d : Nat) : State :=
  { s with age := { s.age with
    busy := s.age.busy || bit s.age.late d
    due := if bit s.age.late d then setBit s.age.due d true else s.age.due, late := setBit s.age.late d false } }

/-- R235, R353: the drain has not completed in time: the gates reopen and the entry is aborted. A level recorded during the entry (R348) is no longer one of
a sleeping group: its change starts; and the offsets of a re-plan apply (R373). [log 14: DESIGN CHOICE; log 78: DEDUCED] -/
def execNocDrainTimeout (d : Fin 24) (s : State) : Res :=
  let x := getDom s d
  if x.state = .entering && !x.drained && x.since + (getNocDie s (if d < 18 then d / 9 else 2)).drainLim ≤ upNs s then
    let s := ageAwake (setDom s d { x with state := .awake, wakePend := false, entryHost := none, wakeHost := none, plRec := none, ofsNow := x.ofs }) d
    let s := match x.plRec with
      | some l => if l = x.pl then s else startLevel s d l none
      | none => s
    let s := endWaits (noteRefusal s d 2 true x.target) d 4 2
    let s := match x.entryHost with
      | some h => replyLater s h 0x09 (one 18)
      | none => s
    match x.wakeHost with
    | some h => .next (replyLater s h 0x00 (one 0))
    | none => .next s
  else .next s

/-- A controller goes to self-refresh: its dirty staged pages are written back and its refresh debt is paid (R274). [log 95: DEDUCED] -/
def sleepChannel (s : State) (ch : Nat) : State :=
  if (getCh s ch).state = 1 then
    let s := ((getCh s ch).staged.foldl (fun s e => unstage s ch e) s)
    updCh s ch fun x => { x with debt := 0, state := 2, staged := [] }
  else s

/-- What S3 leaves of a Chisel group: its cores are held in reset, and their items go the way of a failed core's (R136, R218). -/
def dropGroup (s : State) (d : Nat) : State :=
  (groupCores d).foldl (fun s c => resetCore (failCoreItems s c) c) s

/-- Starts the wake table of a sleeping domain. -/
def startWake (s : State) (d : Nat) : State :=
  updDom s d fun x => { x with state := .waking, wakePend := false, retry1 := false, retry3 := false, since := upNs s }

/-- A lane loses its power: both directions are in deep sleep, the sleep fields with them, as after a failed wake (R51, R349). [log 97: DEDUCED] -/
def laneOff (s : State) (n : Nat) : State :=
  linkUpdate (rxStop (updLane s n fun x => { x with
    txState := 2, txSleep := 2, txHeld := none, txEnding := false, unitEnd := none, rxState := 2, rxSleep := 2, rxHeld := none, rxWait := false
    rxFs := false }) n) n

/-- The counters of a backhaul port (R304). -/
def bhCtrs : List Counter :=
  [.bhRxErr, .bhRxCtl, .bhRxNomatch, .bhRxOvsz, .bhRxNobuf, .bhRxFifo, .bhRxFrm, .bhTxFrm, .msRxOk, .msRxLate, .msRxInvalid, .msRxNotvalid,
    .msRxNosa, .msRxUntagged, .msTxProt, .msTxPnExh]

/-- The contents of an IOD domain are lost in S3 (R349): the lanes, the framers' egress buffers, and the backhaul MACs with the key stores (R289); the
time unit's TM_BH_LATn and TM_BH_ASYMn stay. [log 97: DEDUCED] -/
def dropIod (s : State) (d : Nat) : State :=
  let s := ((upFrom 0 80).filter fun n => (laneDoms n).contains d).foldl laneOff s
  let s := if d = 18 ∨ d = 19 then (upFrom (16 * (d - 18)) 16).foldl (fun s m => updFh s m fun x => { x with eg := [], egWait := [] }) s else s
  if d = 20 then
    (upFrom 0 4).foldl (fun s n =>
      let s := bhCtrs.foldl (fun s c => ctrSet s c n 0) s
      updBp s n fun b => { asym := b.asym, lat := b.lat }) s
  else s

/-- R353: the entry of a drained domain ends in S1, S2 or S3; a wake condition that arose since acceptance starts the wake at once (R358). -/
def execPwrEntryDone (d : Fin 24) (s : State) : Res :=
  let x := getDom s d
  if x.state = .entering && x.drained then
    let t := x.target
    let s := if isMemGroup d then (upFrom (8 * (d.val / 9)) 8).foldl sleepChannel s else s
    let s := if t = 3 then dropGroup s d else s
    let s := if t = 3 then dropIod s d else s
    let s := updDom s d fun x => { x with state := sleepState t, entryHost := none }
    let s := pwrState s d 0 t
    let s := match x.entryHost with
      | some h => replyLater s h 0x00 (one 0)
      | none => s
    .next (if (getDom s d).wakePend then startWake s d else s)
  else .next s

/-! ### Waking (R354 to R358) -/

/-- R354: a write of 1 to PWR_DOM_CTL.WAKE by a partition that holds a resource in the domain, or by the MC. -/
def execPwrWakeRequest (who : Agent) (d : Fin 24) (s : State) : Res :=
  let ok := match who with
    | .mc => true
    | .part p => holdsDom s p d
    | .host _ => false
  .next (if ok then done (wakeReq s d true 1) else foreign s)

/-- Writes zero with valid check bits to `n` bytes of SRAM (R336, R355). [log 90: DEDUCED] -/
def zeroSram (s : State) (a n : Nat) : State :=
  { s with mem := { s.mem with
      bytes := cellsZero s.mem.bytes a n
      sramErr := s.mem.sramErr.filter fun e => 8 * e.1 < a || a + n ≤ 8 * e.1 } }

/-- The contents of a bank that has lost retention are undefined, and its words may fail their check (R357): free values.
[log 2: DESIGN CHOICE; log 90: DEDUCED] -/
def loseBank (s : State) (a n : Nat) : State :=
  let (bs, s) := freeBytes s n
  let s := writeBytes s a bs
  let errs := (upFrom 0 (n / 8)).map fun i => (a / 8 + i, Config.free (s.fresh + i) % 3)
  let keep := s.mem.sramErr.filter fun e => 8 * e.1 < a || a + n ≤ 8 * e.1
  { s with
    fresh := s.fresh + n / 8
    mem := { s.mem with sramErr := (errs.filter fun e => e.2 != 0).foldl (fun t e => tset t e.1 e.2) keep } }

/-- Address and size of retained bank `b` of a domain (R357); a die-store bank holds every eighth 4 KiB block of its die store (R261). -/
def bankRanges (d b : Nat) : List (Nat × Nat) :=
  if isGroup d then
    let cl := 12 * (d / 9) + 2 * (d % 9) + b / 32
    if b % 32 < 16 then [(tileBase (4 * cl + b % 32 / 4) + 0x20000 * (b % 4), 0x20000)] else [(clusterBase cl + 0x40000 * (b % 32 - 16), 0x40000)]
  else (upFrom 0 2048).map fun i => (storeBase (d / 9) + 4096 * (8 * i + b), 4096)

/-- The banks a domain retains. [log 77: DEDUCED] -/
def bankCount (d : Nat) : Nat := if isGroup d then 64 else if isMemGroup d then 8 else 0

/-- What the sentinel check finds lost is lost. [log 77: DEDUCED] -/
def loseBanks (s : State) (d lost : Nat) : State :=
  ((upFrom 0 (bankCount d)).filter fun b => bit lost b).foldl (fun s b => (bankRanges d b).foldl (fun s r => loseBank s r.1 r.2) s) s

/-- What wake step 6 leaves of a domain after S3: memories of zero, DMA channels and Rasps at reset (R349, R355). -/
def wakeEmpty (s : State) (d : Nat) : State :=
  let s := (groupCores d).foldl (fun s c => zeroSram s (tileBase c) 0x80000) s
  let s := (groupClusters d).foldl (fun s cl =>
    let s := zeroSram s (clusterBase cl) 0x400000
    let s := (upFrom 0 16).foldl (fun s c => setDma s (dmaNo cl c) {}) s
    setRasp s cl {}) s
  if isMemGroup d then zeroSram s (storeBase (d / 9)) 0x4000000 else s

/-- A memory group's controllers come back (R274): MEM_DLY is applied, with the moves of a re-plan since the last wake (R375), and the devices leave self-refresh. After S3 the controller's state is lost: its
registers and counters are those of a reset, MEM_DLY and the remap table come from module flash, and tracker and scrub position start
afresh. The region registers, of which the other die's controllers hold copies, stay. [log 95: DEDUCED] -/
def wakeChannel (s : State) (ch : Nat) (t : Nat) : State :=
  let x := getCh s ch
  if x.state = 2 then
    if t = 3 then
      let s := memCtrs.foldl (fun s c => ctrSet s c ch 0) s
      setCh s ch (loadDly ch
        { state := 1, remap := x.remapFlash, spareBad := x.badFlash, remapFlash := x.remapFlash, badFlash := x.badFlash, dlyFlash := x.dlyFlash
          lapStart := upNs s })
    else setCh s ch ((if x.dlyDue then loadDly ch else id) { x with state := 1, staged := [] })
  else s

/-- Sets HZ_IP.PWR on every core of a group (R348, R367). -/
def sigPwr (s : State) (d : Nat) : State := (groupCores d).foldl (fun s c => setIp s c 6) s

/-- The level recorded for the wake takes effect with it (R348, R358), and the offsets of a re-plan (R373). [log 78: DEDUCED] -/
def wakeLevel (s : State) (d : Nat) : State :=
  let x := getDom s d
  let s := setDom s d { x with pl := x.plRec.getD x.pl, plRec := none, ofsNow := x.ofs }
  match x.plRec with
  | some l => if l = x.pl then s else sigPwr (raiseDom s d 0x0A03 d l 0) d
  | none => s

/-- The fixed delays of wake steps 2, 4, 5 and 7 in ns, which are always waited out in full (R355); a retry of step 3 follows step 2. [log 78: DEDUCED] -/
def wakeFixed (x : Dom) (d : Nat) : Nat :=
  (if x.target < 2 ∨ x.retry3 then 0 else 10000) + (if x.target = 2 then 5000 else 0) + if isMemGroup d then 2000 else 0

/-- R355: a domain's wake completes, not before its fixed delays have passed. `lost` names the retained banks that the sentinel check of S2 found lost (R357).
[log 14: DESIGN CHOICE] -/
def execPwrWakeDone (d : Fin 24) (lost : Word) (s : State) : Res :=
  let x := getDom s d
  if x.state = .waking ∧ x.since + wakeFixed x d ≤ upNs s then
    let t := x.target
    let m := if t = 2 then lost.toNat % 2 ^ bankCount d else 0
    let s := if t = 3 then wakeEmpty s d else s
    let s := if t = 2 then (groupClusters d).foldl (fun s cl => scrambleK s cl) s else s
    let s := loseBanks s d m
    let s := if isMemGroup d then (upFrom (8 * (d.val / 9)) 8).foldl (fun s ch => wakeChannel s ch t) s else s
    let s := updDom s d fun x =>
      { x with state := .awake, retLost := x.retLost || m != 0, retBanks := x.retBanks ||| m, retry1 := false, retry3 := false, wakeHost := none, wakePend := false }
    let s := ageAwake (wakeLevel s d) d
    let s := endWaits s d (if m = 0 then 2 else 5) 0
    let s := pwrState (bump s .pwrWake d) d t 0
    let s := if m = 0 then s else raiseDom s d 0x0A02 d m 0
    match x.wakeHost with
    | some h => .next (replyLater s h 0x00 (one 0))
    | none => .next s
  else .next s

/-- Had a cell depended on the domain (R401): does a partition that holds a resource in it run a plan, or has one a start pending? -/
def cellDepends (s : State) (d : Nat) : Bool :=
  (upFrom 0 4).any fun p => holdsDom s p d && ((getTick s p).run || (getTick s p).pend.isSome)

/-- A domain becomes FAILED (R356): its cores take weight 0 at the next tick start, their items are handled as a core failure, and the jobs of a
jig domain complete with JIG_FAULT. -/
def failDomain (s : State) (d : Nat) : State :=
  let s := updDom s d fun x =>
    { x with state := .failed, wakeHost := none, entryHost := none, wakePend := false, plRec := none, retry1 := false, retry3 := false }
  let s := (groupCores d).foldl (fun s c => updCore (resetCore (failCoreItems s c) c) c fun x => { x with weightPend := some 0 }) s
  failJigDomain s d

/-- R356: the timeout of wake step 1 (`pll = false`), 100 µs, or 3, 50 µs, passes: the step is retried once, after a test of the active oscillator for step 3
(`oscBad`: it has failed), and then the domain is FAILED. [log 14: DESIGN CHOICE] -/
def execPwrWakeTimeout (d : Fin 24) (pll : Bool) (oscBad : Bool) (s : State) : Res :=
  let x := getDom s d
  if x.state ≠ .waking ∨ x.target < 2 ∨ upNs s < x.since + (if pll then 50000 else 100000) then .next s
  else if !(if pll then x.retry3 else x.retry1) then
    let s := setDom s d (if pll then { x with retry3 := true, since := upNs s } else { x with retry1 := true, since := upNs s })
    .next (if pll && oscBad then failOsc s s.tm.osc else s)
  else
    let sev := if cellDepends s d then 2 else 1
    let s := failDomain s d
    let s := pwrState s d x.target 6
    let s := raiseDom s d 0x0A01 d 0 sev
    match x.wakeHost with
    | some h => .next (replyLater (noteOther s d 8 none) h 0x09 (one 8))
    | none => .next s

/-! ### Performance levels (R348) -/

/-- R348: a rising voltage has settled; the frequency changes at the next tick start. -/
def execPwrVoltSettled (d : Fin 24) (s : State) : Res :=
  match (getDom s d).plTo with
  | some (l, .rampUp) => .next (updDom s d fun x => { x with plTo := some (l, .waitTick) })
  | _ => .next s

/-- A change of level completes: PWR_PL is raised, held offsets apply (R373), and a held request starts. -/
def levelDone (s : State) (d : Nat) : State :=
  let x := getDom s d
  let s := setDom s d { x with plTo := none, plHeld := none, ofsNow := x.ofs }
  let s := raiseDom s d 0x0A03 d x.pl 0
  match x.plHeld with
  | none => s
  | some (l, h) =>
    if l = x.pl then
      match h with
      | some h => replyLater s h 0x00 (one 0)
      | none => s
    else startLevel s d l h

/-- R348: after a downward change the voltage has ramped down, and the change completes. -/
def execVoltageRampDownDone (d : Fin 24) (s : State) : Res :=
  match (getDom s d).plTo with
  | some (_, .rampDown) => .next (levelDone s d)
  | _ => .next s

/-- The frequency of a group changes at a tick start (R348): HZ_IP.PWR is set on its cores and PWR_SET is answered. An upward change is then
complete; a downward one ends with its voltage ramp. -/
def freqSwitch (s : State) (d : Nat) : State :=
  let x := getDom s d
  match x.plTo with
  | some (l, .waitTick) =>
    let up := decide (l < x.pl)
    let s := setDom s d { x with pl := l, plHost := none, plTo := if up then x.plTo else some (l, .rampDown) }
    let s := sigPwr s d
    let s := match x.plHost with
      | some h => replyLater s h 0x00 (one 0)
      | none => s
    if up then levelDone s d else s
  | _ => s

end Sys2Proof.Machine
end

