-- ==== Sys2Proof/Machine/Faults.lean ====
section
/-!
DEFINITION. Faults and their recoveries (18_faults_and_ordering R382 to R401).
-/
namespace Sys2Proof.Machine

/-! ### Cores (R390 to R392) -/

/-- FLT_CORE (R389). -/
def fltCore (s : State) (c cause st w3 : Nat) : State := raiseOwner s (coreOwner s c) 0x0B00 (c + cause * 2 ^ 8 + st * 2 ^ 12) w3

/-- Steps 1 to 3 of R391: the core is held in reset, its items go their way, and its Rasp lock is released. Answers to its outstanding requests
will find nothing that awaits them. -/
def stopCore (s : State) (c : Nat) : State :=
  let s := dropAgent s (corePort c) 0
  let s := failCoreItems s c
  let s := releaseLock s c
  resetCore s c

/-- Sets the core's state of FLT_CORE_RST (R405). -/
def setCoreState (s : State) (c st : Nat) : State := { s with flt := { s.flt with coreState := tset s.flt.coreState c st } }

/-- A core goes out of service with state 3 (R391, R393): its weight becomes 0 at the next tick start. -/
def outCore (s : State) (c cause w3 : Nat) : State :=
  let s := updCore (stopCore s c) c fun x => { x with run := .held, weightPend := some 0 }
  fltCore (setCoreState (noteDeg s) c 3) c cause 3 w3

/-- A deadline of a running item that has closed is decided before the core's fault (R392). -/
def settleRunning (s : State) (c : Nat) : State := (runningOn s c).foldl (fun s it => settleItem s (corePartN s c) it) s

/-- The items of a core that a fault of it replays and tombstones, as FLT_CORE names them (R389). -/
def itemsWord (s : State) (c : Nat) : Nat :=
  let n := ((runningOn s c).filter fun it => (getFlow s it.flow).replay).length
  n + ((runningOn s c).length - n) * 2 ^ 32

/-- R391: a core faults: stopped by its double fault, running or waiting, or held in reset with a retention chain that fails as it wakes (R390). A
deadline of a running item that has closed is decided first (R392); a fourth fault within 24 service hours takes the core out of service without a
test. -/
def execCoreFault (c : Fin 112) (cause : Fin 4) (s : State) : Res :=
  let x := getCore s c
  let live := match x.run with
    | .stopped => cause == 0
    | .running => cause != 0
    | .waiting => cause != 0
    | .held => cause == 2
    | .testing => false
  if !live then .next s
  else
    let s := settleRunning s c
    let w3 := itemsWord s c
    let recent := recentRestarts s c
    let s := { s with flt := { s.flt with
      restarts := tset s.flt.restarts c (recent ++ [s.age.hours]), coreCause := tset s.flt.coreCause c (cause.val + 1) } }
    if 3 ≤ recent.length then .next (outCore { s with flt := { s.flt with coreOut := setBit s.flt.coreOut c true } } c (cause.val + 1) w3)
    else
      let s := updCore (stopCore s c) c fun x => { x with run := .testing, weightPend := some 0 }
      .next (fltCore (setCoreState s c 0) c (cause.val + 1) 0 w3)

/-- The weight of a self-test's result (R337); a Bench core has no narrow mode. -/
def testWeight (c : Nat) (r : CoreTest) : Nat :=
  match r with
  | .whole => 16
  | .narrow => if isChisel c then 1 else 0
  | .bad => 0

/-- The state of a result in FLT_CORE (R389). -/
def testState (c : Nat) (r : CoreTest) : Nat := if testWeight c r = 16 then 1 else if testWeight c r = 1 then 2 else 3

/-- Stores a self-test's result (R337, R156): NARROW, and the weight that applies at the next tick start. -/
def setTest (s : State) (c : Nat) (r : CoreTest) : State :=
  updCore s c fun x => { x with weightPend := some (testWeight c r), narrow := isChisel c && r != .whole }

/-- Does a core stay out of service until the next start-up: after its fourth fault (R391), or in a FAILED domain (R356)? -/
def coreBarred (s : State) (c : Nat) : Bool :=
  bit s.flt.coreOut c || (match coreDom c with
    | some d => (getDom s d).state == .failed
    | none => false)

/-- What a self-test's result comes to. -/
def testResult (s : State) (c : Nat) (r : CoreTest) : CoreTest := if coreBarred s c then .bad else r

/-- R391: a faulted core's self-test ends; its tile memory is left zeroed and it stays held in reset. -/
def execCoreSelftestDone (c : Fin 112) (r : CoreTest) (s : State) : Res :=
  if (getCore s c).run = .testing then
    let r := testResult s c r
    let s := if testState c r = 3 then noteDeg s else s
    let s := if isChisel c then zeroSram s (tileBase c) 0x80000 else s
    let s := updCore (setTest s c r) c fun x => { x with run := .held }
    .next (fltCore (setCoreState s c (testState c r)) c (tget s.flt.coreCause 0 c) (testState c r) 0)
  else .next s

/-! ### DMA engines (R393) -/

/-- FLT_ENGINE (R389). -/
def fltEngine (s : State) (e st : Nat) : State :=
  raiseOwner s (ownerBy fun p => ownsCluster s p e) 0x0B01 (e + st * 2 ^ 12) 0

/-- R393: a cluster DMA engine fails: every channel halts with DONE set and writes no STATUS. -/
def execDmaEngineFault (e : Fin 24) (s : State) : Res :=
  if s.flt.engTest.contains e.val ∨ bit s.flt.clOut e then .next s
  else
    let s := (upFrom 0 16).foldl (fun s c =>
      let k := dmaNo e c
      haltDma (updDma s k fun x =>
        { x with errAddr := x.desc, errStat := 4, errKind := 3, errV := true, errDesc := x.desc, pause := false, pendDb := false }) k) s
    .next (fltEngine { s with flt := { s.flt with engTest := s.flt.engTest ++ [e.val] } } e 0)

/-- A cluster goes out of service with its four cores (R337, R393). The spec names no cause for their FLT_CORE: a free value. [log 84: DEDUCED] -/
def outCluster (s : State) (cl : Nat) : State :=
  let s := { s with flt := { s.flt with clOut := setBit s.flt.clOut cl true } }
  (upFrom (4 * cl) 4).foldl (fun s c =>
    let (v, s) := takeFree s 4
    let s := settleRunning s c
    outCore s c v (itemsWord s c)) s

/-- R393: the test of a faulted engine ends. -/
def execDmaEngineTestDone (e : Fin 24) (ok : Bool) (s : State) : Res :=
  if s.flt.engTest.contains e.val then
    let s := { s with flt := { s.flt with engTest := s.flt.engTest.filter fun i => i != e.val } }
    if ok then .next (fltEngine s e 1) else .next (outCluster (fltEngine s e 3) e)
  else .next s

/-! ### Tables and the MC (R394, R395) -/

/-- R394: the MC reloads a table of an IOD unit. `lost` are the counters, with their banks, of the units whose sections or packets needed the
entry before the reload, one entry for each; `trig` are the partitions whose next trigger needed it, one entry for each trigger.
[log 24: DESIGN CHOICE; log 59: DEDUCED] -/
def execTableReload (port : Fin 160) (table : BitVec 24) (entries : BitVec 32) (part : Option (Fin 4)) (lost : List (Counter × Nat))
    (trig : List (Fin 4)) (s : State) : Res :=
  let (v, s) := takeFree s 24
  let s := wordUnc s (2 ^ 45 + 26 * 2 ^ 24 + v % Config.iodWords) 26
  let s := lost.foldl (fun s e => bump s e.1 e.2) s
  let s := trig.foldl (fun s (p : Fin 4) => loseTrigger s p) s
  .next (raiseOwner s (part.map fun p => p.val) 0x0B0A (port.val + table.toNat * 2 ^ 8) entries.toNat)

/-- Ends a host's session (R313); the manager right passes on with it (R321). [log 82: DEDUCED] -/
def endSession (s : State) (h : Nat) : State :=
  let s := updHost s h fun x => { x with session := false }
  if s.mc.manager = some h then { s with mc := { s.mc with manager := none } } else s

/-- The time unit goes from ACQUIRING or LOCKED into HOLDOVER while the MC, whose servo follows the references, restarts (R395): PTP has to qualify anew.
[log 82: DEDUCED] -/
def holdTime (s : State) : State := tmState (setTm s { s.tm with ptpOk := false, ptpErr := none, extErr := none }) 3 s.tm.src

/-- R395: the MC restarts: every session ends, and no command that has not been answered will be, those that wait in the command FIFO among
them; a PART_RESTART in progress is given up. [log 12: DESIGN CHOICE; log 82: DEDUCED] -/
def execMcWatchdog (cause : Fin 2) (s : State) : Res :=
  if s.flt.mcDown.isSome ∨ s.su.stage < 5 then .next s
  else
    let s := (upFrom 0 4).foldl (fun s h => updHost (endSession s h) h fun x =>
      { x with begun := none, still := none, asm := [], marks := [], cmd := x.cmd.drop x.committed, committed := 0 }) s
    let doms := s.doms.map fun e =>
      (e.1, { e.2 with reqSet := none, entryHost := none, wakeHost := none, plHost := none, plHeld := e.2.plHeld.map fun q => (q.1, none) })
    let parts := s.parts.map fun e => (e.1, { e.2 with st := if e.2.st = .restarting then .defined else e.2.st })
    let s : State := { s with doms := doms, parts := parts, flt := { s.flt with mcDown := some (cause.val + 1) } }
    .next (if s.tm.st = 1 ∨ s.tm.st = 2 then holdTime s else s)

/-- The events raised during a restart of the MC are delivered (R395). [log 82: DEDUCED] -/
def giveHeld (s : State) : State :=
  let l := s.flt.held
  let f := s.flt.heldFlow
  let s := l.foldl (fun s e => postHost s e.1 e.2) { s with flt := { s.flt with held := [], heldFlow := [] } }
  f.foldl (fun s e => toEventFlow s e.part e.code e.w2 e.w3) s

/-- R395: the MC's restart completes: what was raised meanwhile is delivered, and it takes commands again. [log 82: DEDUCED] -/
def execMcRestartDone (s : State) : Res :=
  match s.flt.mcDown with
  | none => .next s
  | some cause =>
    let n := s.flt.mcRst + 1
    let s := { s with flt := { s.flt with mcDown := none, mcRst := n } }
    .next ((upFrom 0 4).foldl (fun s h => parseAll s h) (raiseMod (giveHeld s) 0x0B09 cause n))

/-! ### Lost dies (R397, R399) -/

/-- A reserved event of a job on the lost die leaves its flow of the other die as a tombstone (R399, step 4). -/
def tombReserved (s : State) (j : JgJob) (i : Nat) : State :=
  match itemById s i with
  | none => s
  | some it =>
    releaseItem s (toTomb { it with kind := 4, tag := BitVec.ofNat 64 (dsc j.desc 8 8), arg0 := jigArg0 j 0, arg1 := BitVec.ofNat 64 j.addr } 0x83)

/-- Step 2 of R399 for packets in flight: those from the die are discarded, those for it answered with STATUS 4; the drop logs of its stations go
with it. [log 84: DEDUCED] -/
def dropDiePkts (s : State) (d : Nat) : State :=
  let hit := s.noc.pkts.filter fun p => portDie p.src == d || portDie p.dest == d
  hit.foldl (fun s p =>
    if portDie p.src != d && (p.cls == 0 || p.cls == 2) then refusePkt (dropPkt s p) p 4 else dropPkt s p)
    { s with noc := { s.noc with dropLog := (s.noc.dropLog.filter fun e => !atStation d e.1).map fun e =>
        (e.1, e.2.filter fun p => portDie p.dest != d) } }

/-- Everything on a compute die ceases to exist (R399, steps 1 to 3), and its domains are FAILED. [log 84: DEDUCED] -/
def clearDie (s : State) (d : Nat) : State :=
  let jobs := (s.jig.queue ++ s.jig.running.map fun r => r.job).filter fun j => j.die == d
  let s := dropDiePkts s d
  let s := (diePorts d).foldl (fun s q => setPort s q { getPort s q with out := [], wait := [] }) s
  let s := (s.dv.items.filter fun it => flowDie it.flow == d).foldl (fun s it => dropWins s it.id) s
  let s := { s with
    dv := { s.dv with
      items := s.dv.items.filter fun it => flowDie it.flow != d
      flows := s.dv.flows.filter fun e => flowDie e.1 != d
      csets := s.dv.csets.filter fun e => e.1 / 64 != d }
    jig := { s.jig with
      queue := s.jig.queue.filter fun j => j.die != d
      running := s.jig.running.filter fun r => r.job.die != d
      inst := tset s.jig.inst d 0 }
    rasps := s.rasps.filter fun e => e.1 / 12 != d
    dma := s.dma.filter fun e => e.1 / 16 ≥ 24 || e.1 / 16 / 12 != d }
  let s := ((upFrom 0 112).filter fun c => coreDie c == d).foldl (fun s c =>
    setCore s c { weight := (getCore s c).weight, weightPend := some 0 }) s
  let s := (upFrom (9 * d) 9).foldl (fun s i => updDom s i fun x =>
    { x with state := .failed, plTo := none, plHeld := none, plRec := none, reqVote := false, reqSet := none, wakePend := false }) s
  jobs.foldl (fun s j => match j.evt with
    | some i => tombReserved s j i
    | none => s) s

/-- The stable state of a domain that has not failed, as PWR_STATE numbers it: a domain being entered is awake, one being woken asleep still (R359). -/
def stableCode (x : Dom) : Option Nat :=
  match x.state with
  | .failed => none
  | .entering => some 0
  | .waking => some x.target
  | st => some (domCode st)

/-- R399: a compute die is lost in service. PWR_SET commands that were running on its domains are answered as for a failed domain (R356). [log 84: DEDUCED] -/
def loseDie (s : State) (d cause : Nat) : State :=
  let hosts := (upFrom (9 * d) 9).flatMap fun i =>
    let x := getDom s i
    [x.entryHost, x.wakeHost, x.plHost, x.plHeld.bind fun q => q.2, x.reqSet.map fun q => q.2].filterMap id
  let old := (upFrom (9 * d) 9).filterMap fun i => (stableCode (getDom s i)).map fun c => (i, c)
  let s := clearDie s d
  let s := old.foldl (fun s e => pwrState s e.1 e.2 6) s
  let s := markLost (noteDeg { s with flt := { s.flt with dieLost := setBit s.flt.dieLost d true } }) d
  let s := (upFrom (9 * d) 9).foldl (fun s i => updDom s i fun x => { x with entryHost := none, wakeHost := none, plHost := none }) s
  let s := raiseMod s 0x0B07 d cause
  hosts.foldl (fun s h => replyLater s h 0x09 (one 9)) s

/-- R399: a compute die is lost: all its bundles to the IOD are down (cause 1), its Dovetail has failed its self-check (2), or its always-on supply
has failed (3). -/
def execDieLost (die : Fin 2) (cause : Fin 3) (s : State) : Res :=
  if dieOut s die ∨ (cause = 0 ∧ ((upFrom (16 * die.val) 16).any fun b => bundleUp s b)) then .next s
  else .next (loseDie s die (cause.val + 1))

/-- OLD_UNITS of a die, in packets: those of the old epoch that stand on it (R233). -/
def oldOn (s : State) (d : Nat) : Bool :=
  (s.noc.pkts.any fun p => isOld s p && (if p.crossed then portDie p.dest else portDie p.src) == d) ||
  s.noc.dropLog.any fun e => !e.2.isEmpty && atStation d e.1

/-- Nanoseconds since the earliest GO of the epoch change in progress; 0 while there is none. -/
def sinceGo (s : State) : Nat := maxNat (((upFrom 0 3).filter fun d => (getNocDie s d).busy).map fun d => upNs s - (getNocDie s d).goAt)

/-- R397: the old epoch has not retired 10 ms after GO. [log 14: DESIGN CHOICE] -/
def execEpochStuck (s : State) : Res :=
  let m := b2n (oldOn s 0) + 2 * b2n (oldOn s 1) + 4 * b2n (oldOn s 2)
  if 10000000 ≤ sinceGo s ∧ m ≠ 0 then
    let s := raiseMod s 0x0B06 m (sinceGo s / 1000)
    let s := (upFrom 0 2).foldl (fun s d => if bit m d && !dieOut s d then loseDie s d 4 else s) s
    .next (if bit m 2 then moduleStop s else s)
  else .next s

/-- R400: an uncontainable fault (the input power stage fails) stops the module with SEV 3. -/
def execModuleStop (s : State) : Res := .next (moduleStop s)

/-! ### The event log (R385, R386) -/

/-- The record of R386 as bytes. -/
def recordBytes (r : LogRec) : List Byte :=
  let bs := leBytes r.index 4 ++ leBytes r.code 2 ++ leBytes (r.sev + b2n r.mod * 4 + r.part * 8) 1 ++ leBytes r.cont.length 1 ++
    leBytes r.time 8 ++ leBytes r.tick 4 ++ leBytes r.hours 4 ++ leBytes r.d0 8 ++ leBytes r.d1 8 ++ leBytes 0 20
  bs ++ leBytes (crc32 bs) 4

/-- A continuation record (R386): 54 bytes of data between INDEX, CODE and CRC. -/
def contBytes (i : Nat) (d : List Byte) : List Byte :=
  let bs := leBytes i 4 ++ leBytes 0xFFFF 2 ++ (d ++ leBytes 0 54).take 54
  bs ++ leBytes (crc32 bs) 4

/-- A record and its continuations, in the order of their INDEX. The ring may hold only the last of them (`logRecords`). -/
def recordsOf (r : LogRec) : List (Nat × List Byte) :=
  (r.index, recordBytes r) :: (List.zip (upFrom (r.index + 1) r.cont.length) r.cont).map fun e => (e.1, contBytes e.1 e.2)

/-- Writes one record at the next index; the ring of 262,144 records forgets the oldest (R385). -/
def appendLog (s : State) (r : LogRec) : State :=
  let i := s.flt.nextIndex
  let n := i + 1 + r.cont.length
  { s with flt := { s.flt with
      log := (s.flt.log ++ [{ r with index := i }]).filter fun x => n ≤ x.index + x.cont.length + 262144
      nextIndex := n } }

/-- The console's line for a record that is written after MOD_READY and is one of a fault event (R421): the start-up report is none. A module that has
stopped since is after MOD_READY too (R400). -/
def faultLine (s : State) (r : LogRec) : State :=
  if (s.su.ready || (s.su.stopped && s.su.stage == 9 && s.su.fail.isNone)) && r.code / 256 == 0x0B && r.code != 0x0B10 then
    { s with pins := { s.pins with uart := s.pins.uart ++ [.fault r.index r.code r.sev] } }
  else s

/-- Writes a record, with its line on the console. -/
def writeRecord (s : State) (r : LogRec) : State := faultLine (appendLog s r) { r with index := s.flt.nextIndex }

/-- R385: the MC writes the next record, preceded by FLT_LOG_GAP after records that could not be written; `ok = false`: the write fails.
After MOD_READY the console has a line for each logged fault event (R421). -/
def execLogWrite (ok : Bool) (s : State) : Res :=
  match s.flt.queue with
  | [] => .next s
  | r :: rest =>
    if s.flt.mcDown.isSome then .next s
    else
      let s := { s with flt := { s.flt with queue := rest } }
      if ok then
        let g := s.flt.gap
        let s := if g = 0 then s
          else writeRecord { s with flt := { s.flt with gap := 0 } }
            { r with code := 0x0B0F, sev := 0, mod := true, part := 0, d0 := g, d1 := 0, cont := [] }
        .next (writeRecord s r)
      else
        let s := if r.code = 0x0A13 then { s with th := { s.th with armed := s.th.armedWas } } else s
        .next (bump { s with flt := { s.flt with gap := s.flt.gap + 1 } } .fltLogFail 0)

end Sys2Proof.Machine
end

