-- ==== Sys2Proof/Machine/Thermal.lean ====
section
/-!
DEFINITION. Thermal supervision and the Patina re-plan (17_thermal_and_ageing R361 to R381).
-/
namespace Sys2Proof.Machine

/-! ### Sensors and zones (R361) -/

/-- The zone of a sensor: a domain, or 24 to 26 for the always-on areas of CD0, CD1 and the IOD. -/
def zoneOf (i : Nat) : Nat :=
  if i < 80 then
    let d := i / 40
    let j := i % 40
    if j < 30 then 9 * d + j / 5 else if j < 32 then 9 * d + 6 else if j < 34 then 9 * d + 7 else if j < 37 then 9 * d + 8 else 24 + d
  else if i < 92 then 18 + (i - 80) / 2 else 26

/-- The sensors of a zone. -/
def zoneSensors (z : Nat) : List Nat := (upFrom 0 96).filter fun i => zoneOf i == z

/-- A zone's temperature (R361). -/
def zoneTemp (s : State) (z : Nat) : Int := tempOf s (hottest s (zoneSensors z))

/-- The shut-down threshold in force, in 1/16 °C: lower by the hysteresis while a shut-down record is armed (R369). -/
def shutAt (s : State) : Int := 16 * ((if s.th.armed then s.th.cfg.shut - s.th.cfg.shutHyst else s.th.cfg.shut) : Nat)

/-- A sensor is sampled every 50 µs at or above this reading (R363). [log 79: DEDUCED] -/
def fastAt (s : State) : Int := 16 * ((min s.th.cfg.throttle s.th.cfg.shut : Nat) : Int) - 96

/-- Are the rails up and the supervisor running: from stage 2 of start-up on, but for a stop or a shut-down that removed them? -/
def railsUp (s : State) : Bool :=
  2 ≤ s.su.stage && !(s.su.fail.isSome && s.su.stage ≤ 3) && !s.th.trip && !s.su.hold && s.su.vin

/-! ### Shut-down (R368, R387) -/

/-- The state of the record: a domain that was being entered or woken counts as S3 (R358). -/
def shutCode (st : DomState) : Nat := match st with
  | .entering => 3
  | .waking => 3
  | _ => domCode st

/-- The continuation records of a shut-down (R387). -/
def shutConts (s : State) : List (List Byte) :=
  [(upFrom 0 27).flatMap fun z => leBytes (ofInt (zoneTemp s z) 16) 2,
   (upFrom 0 24).flatMap fun d => leBytes (shutCode (getDom s d).state + (getDom s d).thr * 256) 2]

/-- Every rail but the standby supply is removed: nothing that a die holds outside flash and the MC's standby area is kept (R368, R410). No PWR_STATE
tells of the domains: the hosts' ports have no supply then, and events in flight are lost. [log 85: DEDUCED] -/
def railsOff (s : State) : State :=
  { s with
    cores := [], rasps := [], benchCache := [], dv := {}, noc := {}, dma := [], jig := {}, ln := {}, fh := {}, gc := {}, bh := {}
    parts := s.parts.map fun e => (e.1, { e.2 with tick := {} })
    mem := { s.mem with bytes := [], pages := [], sramErr := [], chs := s.mem.chs.map fun e => (e.1, { e.2 with state := 0, staged := [] }) }
    doms := (upFrom 0 24).map fun d => (d, { getDom s d with state := .s3, plTo := none, plHeld := none })
    su := { s.su with ready := false, stopped := true, timeUp := false }
    flt := { s.flt with sev := 3, faultN := false } }

/-- R368: a thermal shut-down by sensor `i`: it is announced to the hosts, recorded with every zone and domain, and removes the rails. [log 83: DEDUCED] -/
def thermalTrip (s : State) (i : Nat) : State :=
  let t := tempOf s i
  let d0 := i + b2n (bit s.th.broken i) * 128 + ofInt t 16 * 2 ^ 16
  let conts := shutConts s
  let s := tellAll s 0x0A13 i (ofInt t 64)
  let s := logRec s 0x0A13 3 true 0 d0 (ofInt t 64) conts
  let s := { s with th := { s.th with trip := true, armed := true, armedWas := s.th.armed } }
  railsOff s

/-! ### Warnings (R365) -/

/-- R365: the warning of a zone sets or clears. [log 79: DEDUCED] -/
def zoneWarn (s : State) (z : Nat) : State :=
  let t := zoneTemp s z
  let on := bit s.th.warnZ z
  let evt := fun (s : State) (b : Bool) =>
    raiseMod { s with th := { s.th with warnZ := setBit s.th.warnZ z b } } 0x0A10
      (hottest s (zoneSensors z) + (if z < 24 then z else 31) * 256 + b2n b * 2 ^ 16) (ofInt t 64)
  if !on ∧ 16 * (s.th.cfg.warn : Int) ≤ t then bump (evt s true) .thWarn 0
  else if on ∧ t < 16 * ((s.th.cfg.warn - s.th.cfg.warnHyst : Nat) : Int) then evt s false
  else s

/-- R362: a sensor is found broken: its reading is taken as 150.0 °C, the hosts hear of it, and its zone is in warning. [log 79: DEDUCED] -/
def markBroken (s : State) (i cause : Nat) : State :=
  if bit s.th.broken i then s
  else
    let last := tempOf s i
    let s := { s with th := { s.th with
      broken := setBit s.th.broken i true, fast := setBit s.th.fast i true, temps := tset s.th.temps i 2400 } }
    zoneWarn (raiseMod s 0x0A12 (i + cause * 256) (ofInt last 64)) (zoneOf i)

/-- A sensor that breaks in service: the shut-down follows at once (R368). [log 79: DEDUCED] -/
def breakSensor (s : State) (i cause : Nat) : State :=
  if bit s.th.broken i ∨ s.th.trip then s else thermalTrip (markBroken s i cause) i

/-! ### Samples (R362, R363, R368) -/

/-- R362, R363: a sensor is sampled. A reading out of range breaks it, and so does its every 256th conversion, the self-check, if `rise`, what the extra
bias current adds, is not 12.0 °C ± 1.0 °C; two consecutive samples at or above SHUTDOWN shut the module down. [log 79: DEDUCED] -/
def execThSample (i : Fin 96) (reading rise : BitVec 16) (s : State) : Res :=
  if !railsUp s || bit s.th.broken i then .next s
  else
    let t := reading.toInt
    let n := (tget s.th.convs 0 i + 1) % 256
    let bad := n == 0 && !(decide (176 ≤ rise.toInt) && decide (rise.toInt ≤ 208))
    let s := { s with th := { s.th with convs := tset s.th.convs i n } }
    if t < -640 ∨ 2400 < t then .next (breakSensor s i 0)
    else if bad then .next (breakSensor s i 1)
    else
      let hot := decide (shutAt s ≤ t)
      let twice := hot && bit s.th.nOver i
      let s := { s with th := { s.th with
        temps := tset s.th.temps i t, nOver := setBit s.th.nOver i hot, fast := setBit s.th.fast i (decide (fastAt s ≤ t)) } }
      let s := zoneWarn s (zoneOf i)
      .next (if twice then thermalTrip s i else s)

/-! ### Throttling (R366, R367) -/

/-- The bit of a throttle domain in TH_MODE (R378). -/
def modeBit (d : Nat) : Option Nat := if d < 8 then some d else if 9 ≤ d ∧ d < 17 then some (d - 1) else none

/-- Does the domain use clock division? -/
def divides (s : State) (d : Nat) : Bool := match modeBit d with
  | some i => bit s.th.cfg.mode i
  | none => false

/-- THR_MIN as it acts: rounded up to 16, 32 or 64 under clock division (R367). [log 79: DEDUCED] -/
def thrMin (s : State) (d : Nat) : Nat :=
  let m := s.th.cfg.min_
  if divides s d then (if m ≤ 16 then 16 else if m ≤ 32 then 32 else 64) else m

/-- A domain's new fraction takes effect: it is counted, signalled and reported (R367). -/
def setThr (s : State) (d n : Nat) : State :=
  let s := updDom s d fun x => { x with thr := n, thrAt := some (upNs s) }
  let s := bump s .thThr 0
  raiseHolders (sigPwr s d) (fun p => holdsDom s p d) 0x0A11 d n

/-- R367: the throttle fraction of a domain after this tick start's evaluation. -/
def thrNext (s : State) (d : Nat) : Nat :=
  let x := getDom s d
  let c := s.th.cfg
  let t := zoneTemp s d
  let held : Bool := match x.thrAt with
    | some u => decide (1000 * c.hold ≤ upNs s - u)
    | none => true
  if 16 * (c.throttle : Int) ≤ t ∧ held then (if divides s d then max (x.thr / 2) (thrMin s d) else max (x.thr - c.step) (thrMin s d))
  else if t < 16 * ((c.throttle - c.thrHyst : Nat) : Int) ∧ held ∧ x.thr < 64 then
    (if divides s d then min (x.thr * 2) 64 else min (x.thr + c.step) 64)
  else x.thr

/-- Evaluates one throttle domain. [log 79: DEDUCED] -/
def evalThr (s : State) (d : Nat) : State :=
  let n := thrNext s d
  if n = (getDom s d).thr then s else setThr s d n

/-- The throttle domains (R366). -/
def thrDoms : List Nat := upFrom 0 8 ++ upFrom 9 8

/-- A new threshold may make the latest reading of a sensor one of the fast ones (R363): it leaves that rate at a sample only. [log 79: DEDUCED] -/
def fastNow (s : State) : State :=
  let m := (upFrom 0 96).foldl (fun m i => if (s.th.temps.any fun e => e.1 == i && decide (fastAt s ≤ e.2)) = true then setBit m i true else m) s.th.fast
  { s with th := { s.th with fast := m } }

/-- R378, R366: a THERM_CFG takes effect at a tick start: every zone is judged by the new WARN (R365), and a domain that changes to clock division takes the largest of 64, 32 and 16 that is not
above its fraction and not below THR_MIN. [log 79: DEDUCED] -/
def applyThCfg (s : State) : State :=
  match s.th.pend with
  | none => s
  | some c =>
    let old := s.th.cfg
    let s := (upFrom 0 27).foldl zoneWarn (fastNow { s with th := { s.th with cfg := c, pend := none } })
    thrDoms.foldl (fun s d =>
      let was := match modeBit d with
        | some i => bit old.mode i
        | none => false
      if divides s d && !was then
        let x := (getDom s d).thr
        if x = 64 ∨ x = 32 ∨ x = 16 then s
        else setThr s d (max (thrMin s d) (if 32 ≤ x then 32 else 16))
      else s) s

/-! ### Ageing (R371 to R376) -/

/-- The domain of a monitor; none in an always-on area (R371). -/
def monDom (m : Nat) : Option Nat :=
  if m < 96 then
    let d := m / 48
    let j := m % 48
    if j < 36 then some (9 * d + j / 6) else if j < 38 then some (9 * d + 6) else if j < 40 then some (9 * d + 7)
    else if j < 44 then some (9 * d + 8) else none
  else if m < 120 then some (18 + (m - 96) / 4) else none

def getMon (s : State) (m : Nat) : Mon := tget s.age.mons {} m

/-- The monitors of a domain that are in service. -/
def monsOf (s : State) (d : Nat) : List Nat := (upFrom 0 128).filter fun m => monDom m == some d && !(getMon s m).oos

/-- Is the monitor out of line (R372): a speed-up of more than 0.5 %, or a slack that differs from the mean of its domain's other monitors by more
than 25 ps? -/
def monBad (s : State) (m : Nat) : Bool :=
  let x := getMon s m
  let others := (upFrom 0 128).filter fun o => o != m && monDom o == monDom m && (monDom m).isSome && !(getMon s o).oos
  let sum : Int := others.foldl (fun a o => a + (getMon s o).slack) 0
  let n : Int := others.length
  decide (x.ratio < -500) || (n != 0 && decide (25 * n < (x.slack * n - sum).natAbs))

/-- Levels of a domain: four for a Chisel group, else the one of the PL0 field (R347). -/
def levelsOf (d : Nat) : List Nat := if isGroup d then [0, 1, 2, 3] else [0]

/-- The class of a domain and its die (R345, R372). -/
def classOf (d : Nat) : Nat × Nat :=
  if d < 18 then (if isGroup d then 0 else if isJigDom d then 1 else 2, d / 9) else (3, 2)

/-- A domain's remaining life in 1/16 years of 8,766 h, from its need in 0.1 mV (R376, R379); 0xFFFF stands for all that is longer. -/
def lifeOf (hours n : Nat) : Nat :=
  if n = 0 then 0xFFFF
  else min 0xFFFF ((hours * 600 ^ 4 - hours * n ^ 4) * 16 / (n ^ 4 * 8766))

/-- The largest need of a domain's levels. -/
def topNeed (x : Dom) (d : Nat) : Nat := maxNat ((levelsOf d).map fun l => lget x.need 0 l)

/-- The reserve of a level in steps of 2.5 mV (R376). -/
def reserveOf (x : Dom) (l : Nat) : Nat := 24 - lget x.ofs 0 l

/-- Every domain with each of its levels. -/
def allLevels : List (Nat × Nat) := (upFrom 0 24).flatMap fun d => (levelsOf d).map fun l => (d, l)

/-- The lowest reserve over all domains and levels, with its domain and level (R379). -/
def lowestReserve (s : State) : Nat × Nat × Nat :=
  allLevels.foldl (fun b e =>
    let r := reserveOf (getDom s e.1) e.2
    if r < b.1 then (r, e.1, e.2) else b) (25, 0, 0)

/-- Raises AGE_RESERVE_OUT for a level whose need has passed 60 mV (R374). -/
def exhaust (s : State) (d l : Nat) : State :=
  let x := getDom s d
  if bit x.exh l ∨ lget x.need 0 l ≤ 600 then s
  else raiseMod (setDom s d { x with exh := setBit x.exh l true }) 0x0A22 (d + l * 256) (lget x.need 0 l)

/-- A group leaves an exhausted level for the fastest one that is not exhausted (R374, R348); a PWR_SET to it that was held is refused. [log 79: DEDUCED] -/
def leaveLevel (s : State) (d : Nat) : State :=
  let x := getDom s d
  if !isGroup d then s
  else
    let aim := match x.plHeld, x.plTo, x.plRec with
      | some (l, _), _, _ => l
      | none, some (l, _), _ => l
      | none, none, some l => l
      | none, none, none => x.pl
    if !bit x.exh aim then s
    else match (levelsOf d).find? fun l => !bit x.exh l with
      | none => s
      | some l =>
        if x.state != .awake then setDom s d { x with plRec := some l }
        else if x.plTo.isSome then
          let s := setDom s d { x with plHeld := some (l, none) }
          match x.plHeld with
          | some (_, some h) => replyLater (bump (noteOther s d 6 none) .pwrRef (8 * d + 6)) h 0x09 (one 6)
          | _ => s
        else startLevel s d l none

/-- A domain takes its needs, and its offsets rise to cover them (R373); awake and with no change of level under way they apply at once. -/
def takeNeeds (s : State) (d : Nat) (n : List Nat) : State :=
  updDom s d fun x =>
    let ofs := (upFrom 0 4).map fun l => if (levelsOf d).contains l then min 24 (max (lget x.ofs 0 l) ((lget n 0 l + 24) / 25)) else lget x.ofs 0 l
    { x with
      need := (upFrom 0 4).map fun l => if (levelsOf d).contains l then lget n 0 l else 0
      ofs := ofs
      ofsNow := if x.state == .awake && x.plTo.isNone then ofs else x.ofsNow }

/-- Is every level of a domain exhausted? -/
def allOut (s : State) (d : Nat) : Bool := (levelsOf d).all fun l => bit (getDom s d).exh l

/-- Levels whose need has passed 60 mV are exhausted (R374); a domain that has none left is reported (R401), any other leaves such a level. -/
def takeOut (s : State) (d : Nat) : State :=
  let s' := (levelsOf d).foldl (fun s l => exhaust s d l) s
  if allOut s' d && !allOut s d then raiseMod s' 0x0B0B d 0 else leaveLevel s' d

/-- Raises AGE_RESERVE_LOW once for a domain whose lowest reserve is at most 4 steps, or whose life is below five years (R376). -/
def reserveLow (s : State) (d : Nat) : State :=
  let x := getDom s d
  let life := lifeOf s.age.hours (topNeed x d)
  let low := (levelsOf d).foldl (fun b l => if reserveOf x l < reserveOf x b then l else b) 0
  if !x.lowSent && (reserveOf x low ≤ 4 || life < 80) then raiseMod (setDom s d { x with lowSent := true }) 0x0A21 (d + low * 256) life else s

/-- The re-plan of one domain with its needs in 0.1 mV (R373, R374, R376, R401). -/
def replanDom (s : State) (d : Nat) (n : List Nat) : State := reserveLow (takeOut (takeNeeds s d n) d) d

/-- The need of a domain that has been read, by level (R373): the largest of its monitors in service. [log 80: DEDUCED] -/
def monNeed (s : State) (d : Nat) : List Nat :=
  (upFrom 0 4).map fun l => maxNat ((monsOf s d).map fun m => Config.slackNeed m l (getMon s m).slack)

/-- The need that a domain with monitors in service has at a re-plan: of one that has not been read since, the one it took before. [log 80: DEDUCED] -/
def needNow (s : State) (d : Nat) : List Nat := if bit s.age.due d then monNeed s d else (getDom s d).need

/-- The need that a domain takes at a re-plan (R372): what its monitors show if it has been read; without a monitor in service that of the domain of its
class and die whose need is largest. [log 80: DEDUCED] -/
def needFor (s : State) (d : Nat) : Option (List Nat) :=
  if !(monsOf s d).isEmpty then (if bit s.age.due d then some (monNeed s d) else none)
  else ((upFrom 0 24).filter fun i => i != d && classOf i == classOf d && !(monsOf s i).isEmpty).foldl (fun b i =>
    match b with
    | none => some (needNow s i)
    | some m => if maxNat m < maxNat (needNow s i) then some (needNow s i) else some m) none

/-- Stores monitor readings and takes failing monitors out of service (R372). [log 80: DEDUCED] -/
def readMons (s : State) (l : List MonRead) : State :=
  let l := l.filter fun r => match monDom r.m with
    | some d => bit s.age.due d
    | none => true
  let s := l.foldl (fun s r =>
    { s with age := { s.age with mons := tset s.age.mons r.m.val { getMon s r.m with ratio := r.ratio.toInt, slack := r.slack.toInt } } }) s
  (l.filter fun r => !(getMon s r.m).oos && monBad s r.m).foldl (fun s r =>
    let m := r.m.val
    raiseMod { s with age := { s.age with mons := tset s.age.mons m { getMon s m with oos := true } } } 0x0A23 m 0) s

/-- A starting point moves a quarter of the way to the adapted setting, rounded towards zero, tap by tap (R375). -/
def movePoint (p a : List Int) : List Int := (List.zip (upFrom 0 a.length) a).map fun e =>
  let x := lget p 0 e.1
  x + Int.tdiv (e.2 - x) 4

/-- The lane directions that are awake: bit 2n of the transmitter of lane n, bit 2n + 1 of its receiver. [log 81: DESIGN CHOICE] -/
def dirsAwake (s : State) : Nat :=
  sumNat ((upFrom 0 80).map fun n => b2n ((getLane s n).txState == 0) * 2 ^ (2 * n) + b2n ((getLane s n).rxState == 0) * 2 ^ (2 * n + 1))

/-- R296, R375: the values that the re-plan stores in flash; only lane directions that have been awake and adapted since the last one move their point.
[log 81: DESIGN CHOICE] -/
def storePlan (s : State) (moves : List (Fin 16 × List (Fin 5))) (adapted : List (Fin 160 × List Int)) (lats : List (Fin 4 × BitVec 32)) : State :=
  let s := moves.foldl (fun s e => updCh s e.1 fun x =>
    { x with dlyDue := true, dlyFlash := (List.zip (upFrom 0 x.dlyFlash.length) x.dlyFlash).map fun v => v.2 + ((lget e.2 2 v.1).val : Int) - 2 }) s
  let used := adapted.filter fun e => bit s.age.used e.1
  { s with age := { s.age with
      points := used.foldl (fun t e => tset t e.1.val (movePoint (tget t [] e.1) e.2)) s.age.points
      lats := lats.foldl (fun t e => tset t e.1.val e.2.toNat) s.age.lats } }

/-- R372 to R376: the re-plan that follows a reading. `moves` are the moves of MEM_DLY plus 2, `adapted` the adapted settings of the lane directions, `lats`
the corrected TM_BH_LATn, which the next start-up loads. Where the flash write fails, the values in flash stay and the failure is logged. [log 80: DEDUCED] -/
def execAgeReplan (mons : List MonRead) (moves : List (Fin 16 × List (Fin 5))) (adapted : List (Fin 160 × List Int)) (lats : List (Fin 4 × BitVec 32))
    (flashOk : Bool) (s : State) : Res :=
  if !s.age.busy then .next s
  else
    let s := readMons s mons
    let s := (upFrom 0 24).foldl (fun s d => match needFor s d with
      | some n => replanDom s d n
      | none => s) s
    let s := { s with age := { s.age with due := 0, busy := false, replans := min 0xFFFF (s.age.replans + 1) } }
    let s := raiseMod s 0x0A20 s.age.hours (lowestReserve s).1
    let s := if flashOk then storePlan s moves adapted lats else logRec s 0x0A20 0 true 0 s.age.hours 0 []
    .next { s with age := { s.age with used := dirsAwake s } }

/-- R372: a whole hour with MOD_READY high. At each multiple of six the awake domains are read now and every other one after its next wake; `avg`
is the average junction temperature over all service hours so far, in 1/16 °C (R376). -/
def execServiceHour (avg : BitVec 16) (s : State) : Res :=
  if !s.su.ready || decide (upNs s < s.age.hourAt + 3600000000000) then .next s
  else
    let h := (s.age.hours + 1) % 2 ^ 32
    let a := { s.age with hours := h, avg := avg.toInt, hourAt := s.age.hourAt + 3600000000000 }
    if h % 6 = 0 then
      let up := (upFrom 0 24).filter fun d => (getDom s d).state == .awake
      let bits := fun (l : List Nat) => sumNat (l.map fun d => 2 ^ d)
      .next { s with age := { a with due := bits up, late := bits ((upFrom 0 24).filter fun d => !up.contains d), busy := true } }
    else .next { s with age := a }

end Sys2Proof.Machine
end

