-- ==== Sys2Proof/Machine/PlanOps.lean ====
section
/-!
DEFINITION. Tick plans as loaded and checked (01_tick_and_windows R18 to R25), and the tick grid on the time scale (R13 to R16, R294).
-/
namespace Sys2Proof.Machine

/-! ### The grid -/

/-- Places the tick grid on the time scale (R294): the radio frame, the half-millisecond and the tick in which the present time lies. [log 21: DEDUCED] -/
def placeGrid (s : State) (mu : Nat) : State :=
  let d : Int := (s.now : Int) - ((s.tm.ofsS * 1000000000 + s.tm.ofsNs : Nat) : Int)
  let o := (d % 500000).toNat
  let j := ((upFrom 0 (ticksPerHalf mu)).filter fun j => tcToNs (tickOffTc mu j) ≤ o).length - 1
  let half := s.now - o
  let sfn := (d / 10000000 % 1024).toNat
  let tidx := (d % 10000000).toNat / 500000 * ticksPerHalf mu + j
  { s with tu := { s.tu with
      mu := mu, sfn := sfn, tidx := tidx, long := j == 0, startNs := (half + tcToNs (tickOffTc mu j)) % 2 ^ 32, half := half, j := j } }

/-- The first absolute tick number at least 8 ticks ahead that is a multiple of `l`, as a distance from the current tick (R22). -/
def ticksTo (s : State) (l : Nat) : Nat := (absTick s + 8 + l - 1) / l * l - absTick s

/-! ### Loading a plan (R18 to R20) -/

/-- A plan entry read from its 32 bytes, as four 64-bit words (R19). -/
def entryOf (l : List Word) : PlanEntry :=
  let a := (lget l 0 0).toNat
  let b := (lget l 0 1).toNat
  let d := (lget l 0 3).toNat
  { tick := fld a 0 12, prio := fld a 12 4, policy := fld a 16 2, must := bit a 18, fb := bit a 19, deadline := fld a 20 4
    offset := fld a 32 16, flow := fld b 0 18, budget := fld b 32 24, tag := lget l 0 2, fallback := fld d 0 14 }

/-- Are the entry's rsvd fields zero (R20, reason 7)? [log 89: DEDUCED] -/
def entryRsvd (l : List Word) : Bool :=
  let a := (lget l 0 0).toNat
  let b := (lget l 0 1).toNat
  let d := (lget l 0 3).toNat
  fld a 24 8 == 0 && fld a 48 16 == 0 && fld b 18 14 == 0 && fld b 56 8 == 0 && fld d 14 50 == 0

/-- A list cut into groups of four words; `fuel` bounds the groups. -/
def quads : Nat → List Word → List (List Word)
  | 0, _ => []
  | _, [] => []
  | f + 1, l => l.take 4 :: quads f (l.drop 4)

/-- Where the check of the entries stands: the entry before, and the non-FB entries seen on its plan index. -/
structure PlanScan where
  tick : Nat := 0
  offset : Nat := 0
  count : Nat := 0
deriving DecidableEq, Repr

/-- The first of the conditions 7 to 15 that an entry meets (R20); 0 for none. -/
def entryReason (s : State) (p len : Nat) (all : List PlanEntry) (sc : PlanScan) (rsvd : Bool) (e : PlanEntry) : Nat :=
  let n := (if e.tick = sc.tick then sc.count else 0) + b2n (!e.fb)
  if !rsvd then 7
  else if len ≤ e.tick then 8
  else if tcToNs (normTc s.tu.mu) ≤ e.offset then 9
  else if e.tick < sc.tick ∨ (e.tick = sc.tick ∧ e.offset < sc.offset) then 10
  else if 256 < n ∧ e.fb = false then 11
  else if !ownsFlow s p e.flow then 12
  else if e.policy = 3 then 13
  else if e.policy = 1 ∧ ((all[e.fallback]?).map fun f => f.fb) ≠ some true then 14
  else if e.fb ∧ e.policy = 1 then 15
  else 0

/-- Checks the entries in ascending index order: the first reason with its entry. -/
def scanEntries (s : State) (p len : Nat) (all : List PlanEntry) (i : Nat) (sc : PlanScan) : List (List Word) → Option (Nat × Nat)
  | [] => none
  | l :: r =>
    let e := entryOf l
    match entryReason s p len all sc (entryRsvd l) e with
    | 0 => scanEntries s p len all (i + 1)
        { tick := e.tick, offset := e.offset, count := (if e.tick = sc.tick then sc.count else 0) + b2n (!e.fb) } r
    | w => some (w, i)

/-- The plan need (R23): the largest sum of BUDGET over the non-FB entries of any one plan index. -/
def planNeed (l : List PlanEntry) : Nat :=
  maxNat (l.map fun e => sumNat ((l.filter fun x => !x.fb && x.tick == e.tick).map fun x => x.budget))

/-- The first of the header's conditions 1 to 6 that holds (R20); 0 for none. -/
def headerReason (s : State) (ws : List Word) : Nat :=
  let h := fun i => (lget ws 0 i).toNat
  let nent := fld (h 1) 0 16
  let l := fld (h 0) 48 16
  if fld (h 0) 0 32 ≠ 0x54504C4E ∨ fld (h 0) 32 16 ≠ 1 then 1
  else if nent = 0 ∨ 16384 < nent ∨ ws.length ≠ 8 + 4 * nent then 2
  else if crc32 (bytesOfWords (ws.drop 8)) ≠ fld (h 2) 0 32 then 3
  else if fld (h 1) 24 40 ≠ 0 ∨ fld (h 2) 32 32 ≠ 0 ∨ h 3 ≠ 0 ∨ h 4 ≠ 0 ∨ h 5 ≠ 0 ∨ h 6 ≠ 0 ∨ h 7 ≠ 0 then 4
  else if fld (h 1) 16 8 ≠ s.tu.mu then 5
  else if l = 0 ∨ 2560 < l ∨ ticksPerCycle s.tu.mu % l ≠ 0 then 6
  else 0

/-- Checks the plan bytes, as words, that partition `p` loads (R20): the plan, or the reason and its entry. -/
def checkPlan (s : State) (p : Nat) (ws : List Word) : Except (Nat × Nat) Plan :=
  match headerReason s ws with
  | 0 =>
    let l := fld (lget ws 0 0).toNat 48 16
    let qs := quads 16384 (ws.drop 8)
    let es := qs.map entryOf
    match scanEntries s p l es 0 {} qs with
    | some e => .error e
    | none =>
      let need := planNeed es
      if fullCapacity s p < need then .error (16, 0) else .ok { len := l, need := need, entries := es }
  | w => .error (w, 0)

/-! ### Starts and switches (R22, R25) -/

/-- Is a slot active while RUN = 1, or about to become active (R318, PLAN_LOAD)? -/
def slotBusy (b : TickBank) (slot : Bool) : Bool :=
  (b.run && b.active == slot) || (b.pend.map fun q => q.slot) == some slot

/-- A slot with a plan, or none. -/
def putSlot (b : TickBank) (slot : Bool) (pl : Option Plan) : TickBank := if slot then { b with slotB := pl } else { b with slotA := pl }

/-- The tick number that a distance from the current tick leads to (R15). -/
def tickIn (s : State) (d : Nat) : Nat := (absTick s + d) % ticksPerCycle s.tu.mu

/-- Requests the switch to the standby slot (R22): the tick at which it takes effect; none where R318 does not allow it. -/
def requestSwitch (s : State) (p : Nat) : Option (Nat × State) :=
  let b := getTick s p
  match b.run, b.pend, activePlan b, standbyPlan b with
  | true, none, some a, some t =>
    let d := ticksTo s (Nat.lcm a.len t.len)
    some (tickIn s d, setTick s p { b with pend := some { slot := !b.active, start := false, atCount := s.tu.count + d, n := tickIn s d } })
  | _, _, _, _ => none

/-- R25: while AUTO is 1 the module requests the switch itself. -/
def autoSwitch (s : State) (p : Nat) : State :=
  let b := getTick s p
  let fits := ((standbyPlan b).map fun x => decide (x.need ≤ b.capNow)).getD false
  if b.auto && b.capLow && fits then
    match requestSwitch s p with
    | some (_, s') => s'
    | none => s
  else s

end Sys2Proof.Machine
end

