-- ==== Sys2Proof/Machine/Startup.lean ====
section
/-!
DEFINITION. Start-up, reset and input power (15_startup R327 to R341; 19_module_electrical R410, R419).
-/
namespace Sys2Proof.Machine

/-! ### The progress code (R328) -/

/-- A stage begins. -/
def beginStage (s : State) (n : Nat) : State := updSu s fun x => { x with stage := n, step := 0, began := upNs s }

/-- Notes a degradation with its unit (R340). -/
def degrade (s : State) (code unit : Nat) : State := updSu s fun x => { x with deg := true, report := x.report ++ [(code, unit)] }

/-- The continuation records of up to 54 degradations (R387). -/
def reportConts (l : List (Nat × Nat)) : List (List Byte) := chunksOf 54 3 (l.flatMap fun e => leBytes e.1 1 ++ leBytes e.2 2)

/-- Writes the start-up report (R339, R387): further records hold what is beyond 54 degradations. -/
def logReport (s : State) (sev : Nat) (l : List (Nat × Nat)) : Nat → State
  | 0 => s
  | f + 1 =>
    let s := logRec s 0x0B10 sev true 0 (progress s.su) s.su.report.length (reportConts (l.take 54))
    if l.length ≤ 54 then s else logReport s sev (l.drop 54) f

/-- The report with its severity (R430). -/
def report (s : State) : State :=
  logReport s (if s.su.fail.isSome then 3 else if s.su.report.isEmpty then 0 else 1) s.su.report (s.su.report.length + 1)

/-- Start-up stops with a code (R340): MOD_FAULT_N is driven low; before stage 4 only the standby
supply is left, and from stage 4 on the compute dies lose their power. TIMEOUT leaves running
what a failure of its stage leaves, so that of stage 4 is boot recovery. [log 76: DESIGN CHOICE] -/
def stopStartup (s : State) (code : Nat) : State :=
  let s := updSu s fun x => { x with fail := some code, stopped := true, recovery := code == 0x40 || code == 0x01 && x.stage == 4 }
  let s := { s with flt := { s.flt with sev := 3, faultN := false } }
  if s.su.stage < 4 then (upFrom 0 24).foldl (fun s d => updDom s d fun x => { x with state := .s3 }) s
  else
    let s := (upFrom 0 18).foldl (fun s d => updDom s d fun x => { x with state := .s3 }) s
    report s

/-! ### Images (R331, R332) -/

def getSlot (s : State) (b : Bool) : Slot := tget s.su.slots {} (b2n b)

/-- A header word of a slot (R331). -/
def hdrWord (s : State) (b : Bool) (i : Nat) : Nat := ofLe (cellsRead (getSlot s b).bytes (4 * i) 4)

/-- The CRC of a slot's body of `n` bytes. [log 73: DEDUCED] -/
def bodyCrc (s : State) (b : Bool) (n : Nat) : Nat := crc32 (cellsRead (getSlot s b).bytes 256 n)

/-- MAGIC, FORMAT and LENGTH are as R331 states. [log 73: DEDUCED] -/
def hdrOk (s : State) (b : Bool) : Bool :=
  hdrWord s b 0 == 0x4F474657 && hdrWord s b 1 == 1 && 4 ≤ hdrWord s b 2 && hdrWord s b 2 ≤ 134217472

/-- RBC of a slot's image. -/
def imgRbc (s : State) (b : Bool) (f : ImgFact) : Nat := if (getSlot s b).written then hdrWord s b 5 else f.rbc.toNat

/-- Is a slot's image valid (R331)? -/
def imgValid (s : State) (b : Bool) (f : ImgFact) : Bool :=
  f.sig && s.su.rbc ≤ imgRbc s b f &&
    (if (getSlot s b).written then hdrOk s b && bodyCrc s b (hdrWord s b 2) == hdrWord s b 3 else f.whole)

/-- The version of a slot's image. [log 73: DEDUCED] -/
def imgVersion (s : State) (b : Bool) : Nat := if (getSlot s b).written then hdrWord s b 4 % 65536 else (Config.fwVersion b).toNat

/-- The slot whose image the ROM starts next (R332): the selected one, else the other one; none where neither is valid and unfailed. [log 86: DEDUCED] -/
def nextSlot (s : State) (a b : ImgFact) : Option Bool :=
  let ok := fun (x : Bool) => imgValid s x (if x then b else a) && !bit s.su.wd (b2n x)
  if ok s.su.sel then some s.su.sel else if ok (!s.su.sel) then some (!s.su.sel) else none

/-! ### Link calibration and routes (R335, R242) -/

/-- The lanes of a direction that failed. -/
def badLanes (links : List (Fin 80 × List (Fin 18))) (d : Nat) : List Nat :=
  (links.filter fun e => e.1.val == d).flatMap fun e => e.2.map fun l => l.val

/-- Does a direction come up: at most one lane has failed, and it is not the clock lane? -/
def dirUp (l : List Nat) : Bool := l.eraseDups.length ≤ 1 && !l.contains 17

/-- Calibrates one bundle. [log 75: DEDUCED] -/
def calBundle (links : List (Fin 80 × List (Fin 18))) (s : State) (b : Nat) : State :=
  let l0 := badLanes links (2 * b)
  let l1 := badLanes links (2 * b + 1)
  if dirUp l0 && dirUp l1 then
    let up := fun (s : State) (d : Nat) (l : List Nat) =>
      match l with
      | [] => setLink s d { state := 2, clk := true }
      | i :: _ => degrade (setLink s d { state := 3, clk := true, bad := i, rxInBand := true, txInBand := true, txBad := i }) 0xA2 b
    up (up s (2 * b) l0) (2 * b + 1) l1
  else degrade (setLink (setLink s (2 * b) { state := 0 }) (2 * b + 1) { state := 0 }) 0xA3 b

/-- A compute die is lost at start-up: its domains are powered off (R335, R336). -/
def dieGone (s : State) (d : Nat) : State :=
  if dieOut s d then s
  else
    let s := degrade s 0xA4 d
    let s := markLost (updSu s fun x => { x with dieGone := setBit x.dieGone d true }) d
    (upFrom (9 * d) 9).foldl (fun s i => updDom s i fun x => { x with state := .failed }) s

/-! ### The stages (R327) -/

/-- Stage 3 (R330). -/
def oscStage (s : State) (r : OscFind) : State :=
  let set := fun (a b : Bool) (o : Nat) (dis : Bool) =>
    placeGrid { s with tm := { s.tm with aOk := a, bOk := b, osc := o, disagree := dis }, su := { s.su with timeUp := true } } s.tu.mu
  match r with
  | .agree => set true true 0 false
  | .disagree => set true true 0 true
  | .onlyA => degrade (set true false 0 false) 0xA0 1
  | .onlyB => degrade (set false true 1 false) 0xA0 0
  | .neither => stopStartup s 0x30

/-- The ROM goes on to the slot that is not selected (R332): a fallback is a degradation and is logged. -/
def fallBack (s : State) : State :=
  if s.su.fallback then s
  else updSu s fun y => { y with fallback := true, step := 1, deg := true, report := y.report ++ [(0xA1, b2n (!y.sel))] }

/-- Stage 4 (R332, R333): the ROM starts an image, or stops in boot recovery once both slots have failed. -/
def bootStage (s : State) (a b : ImgFact) : State :=
  match nextSlot s a b with
  | none => stopStartup (fallBack s) 0x40
  | some x =>
    let s := if x != s.su.sel then fallBack s else s
    updSu s fun y => { y with slot := x, fw := imgVersion s x, runRbc := imgRbc s x (if x then b else a) }

/-- A step of stage 5 begins (R334). -/
def calStep (s : State) (k : Nat) : State := updSu s fun x => { x with step := k }

/-- Stage 5 (R334, R335): its steps in order; a broken sensor ends it with the shut-down of R368, after every one that is broken has been
marked (R362). [log 75: DEDUCED] -/
def calStage (s : State) (regs : Bool) (sensors : List (Fin 96)) (links : List (Fin 80 × List (Fin 18))) (optics : List (Fin 160)) : State :=
  if !regs then stopStartup s 0x50
  else
    let s := sensors.foldl (fun s (i : Fin 96) => markBroken s i 2) (calStep s 1)
    match sensors.head? with
    | some i => thermalTrip s i
    | none =>
    let s := (upFrom 0 24).foldl (fun s d => updDom s d fun x =>
      let o := (upFrom 0 4).map fun l => if (levelsOf d).contains l then max (lget x.ofs 0 l) (min 24 (Config.calOfs d l)) else lget x.ofs 0 l
      { x with ofs := o, ofsNow := o }) (calStep s 2)
    let s := (upFrom 0 40).foldl (calBundle links) (calStep s 3)
    let s := if (upFrom 0 16).all fun b => !bundleUp s b then dieGone s 0 else s
    let s := if (upFrom 16 16).all fun b => !bundleUp s b then dieGone s 1 else s
    let s := if (upFrom 32 8).all fun b => !bundleUp s b then dieGone s 1 else s
    let s := adjustRoutes s false
    let s := (upFrom 0 18).foldl leaveLevel s
    let s := optics.foldl (fun s (k : Fin 160) => degrade (updSu s fun x => { x with laneBad := setBit x.laneBad k true }) 0xA5 (k.val / 2)) ((upFrom 0 160).foldl startPoint (calStep s 4))
    let s := (upFrom 0 16).foldl (fun s ch => updCh s ch (loadDly ch)) (calStep s 5)
    (upFrom 0 4).foldl (fun s n => updBp s n fun x => { x with lat := (s.age.lats.find? fun e => e.1 == n).map fun e => e.2 }) s

/-- A cluster goes out of service at start-up (R336, R337). -/
def clusterGone (s : State) (cl : Nat) : State :=
  if bit s.flt.clOut cl then s
  else degrade { s with flt := { s.flt with clOut := setBit s.flt.clOut cl true } } 0xA7 cl

/-- A channel enters FAULT at start-up (R336, R338). -/
def channelGone (s : State) (ch : Nat) : State :=
  if (getCh s ch).state = 4 then s
  else degrade { updCh s ch (fun x => { x with state := 4 }) with flt := { s.flt with chOut := setBit s.flt.chOut ch true } } 0xAC ch

/-- Stage 6 (R336): every word of on-chip SRAM is zero; LPDDR6 pages are unwritten; the checkers that pass show it. -/
def sramStage (s : State) (clusters : List (Fin 24)) (dies : List (Fin 2)) (channels : List (Fin 16)) (iod : Bool) : State :=
  if !iod then stopStartup s 0x60
  else
    let s := { s with mem := { s.mem with bytes := [], pages := [], sramErr := [] } }
    let s := (upFrom 0 27).foldl (fun s i => setSr s i { getSr s i with chkOk := true }) s
    let s := (upFrom 0 16).foldl (fun s ch => updCh s ch fun x => { x with chkOk := true }) s
    let s := clusters.foldl (fun s (c : Fin 24) => clusterGone (setSr s c { getSr s c with chkOk := false }) c) s
    let s := dies.foldl (fun s (d : Fin 2) => dieGone (setSr s (24 + d.val) { getSr s (24 + d.val) with chkOk := false }) d) s
    channels.foldl (fun s (c : Fin 16) => channelGone (updCh s c fun x => { x with chkOk := false }) c) s

/-- Weight and mode of one core after stage 7 (R337). -/
def coreStage (cores : List (Fin 112 × CoreTest)) (s : State) (c : Nat) : State :=
  if dieOut s (coreDie c) ∨ (isChisel c ∧ bit s.flt.clOut (coreCluster c)) then setCore s c {}
  else
    let r := ((cores.find? fun e => e.1.val == c).map fun e => e.2).getD .whole
    let s := setCore s c { weight := testWeight c r, narrow := isChisel c && r != .whole }
    match testState c r with
    | 1 => s
    | 2 => degrade s 0xA8 c
    | _ => degrade s (if isChisel c then 0xA9 else 0xAA) c

/-- Stage 7 (R337). -/
def testStage (s : State) (cores : List (Fin 112 × CoreTest)) (clusters : List (Fin 24)) (jigs : List (Fin 2 × Fin 17)) (dies : List (Fin 2))
    (iod : Bool) : State :=
  if !iod then stopStartup s 0x70
  else
    let s := clusters.foldl (fun s (c : Fin 24) => clusterGone s c) s
    let s := dies.foldl (fun s (d : Fin 2) => dieGone s d) s
    let s := (upFrom 0 112).foldl (coreStage cores) s
    (upFrom 0 2).foldl (fun s d =>
      if dieOut s d then s
      else
        let bad := (jigs.filter fun e => e.1.val == d).map fun e => e.2.val
        let s := bad.foldl (fun s i => degrade s 0xAB (17 * d + i)) s
        { s with jig := { s.jig with inst := tset s.jig.inst d (bad.foldl (fun m i => setBit m i false) (2 ^ 17 - 1)) } }) s

/-- Stage 8 (R338). -/
def memStage (s : State) (bad : List (Fin 16)) : State :=
  (upFrom 0 16).foldl (fun s ch =>
    if dieOut s (ch / 8) ∨ (getCh s ch).state = 4 then s
    else if bad.any fun b => b.val == ch then channelGone s ch
    else updCh s ch fun x => { x with
      state := 1, remap := x.remapFlash, spareBad := x.badFlash, trk := [], scrubPos := 0, scrubEn := true, lapStart := upNs s }) s

/-- Stage 9 (R339): MOD_READY rises, unless no compute die is left. The fuses follow the image that runs (R331), and a shut-down record is no
longer armed (R369). -/
def readyStage (s : State) : State :=
  if dieOut s 0 && dieOut s 1 then stopStartup s 0x90
  else
    let s := { s with age := { s.age with hourAt := upNs s } }
    let s := updSu s fun x =>
      { x with ready := true, rbc := max x.rbc x.runRbc }
    let s := { s with th := { s.th with armed := false } }
    report s

/-- The effect of a stage's end and what it found. A finding that is not the stage's changes nothing. -/
def stageBody (s : State) (f : StageFind) : Option State :=
  match s.su.stage, f with
  | 1, .power => some s
  | 2, .rails ok =>
    some (if ok then
      let s := (upFrom 0 24).foldl (fun s d => updDom s d fun x => { x with state := .awake }) s
      { s with cores := [] }
    else stopStartup s 0x20)
  | 3, .osc r => some (oscStage s r)
  | 4, .boot a b => some (bootStage s a b)
  | 5, .calib r se l o => some (calStage s r se l o)
  | 6, .sram c d ch i => some (sramStage s c d ch i)
  | 7, .tests c cl j d i => some (testStage s c cl j d i)
  | 8, .memory b => some (memStage s b)
  | 9, .ready => some (readyStage s)
  | _, _ => none

/-- The die links train in stage 5 (R334): NOC_LNK_STAT.STATE reads 1 (R243). -/
def trainLinks (s : State) : State := (upFrom 0 80).foldl (fun s d => setLink s d { state := 1 }) s

/-- The bound of each stage in milliseconds (R327). [log 74: DEDUCED] -/
def stageBound (n : Nat) : Nat := lget [20, 80, 500, 800, 2200, 400, 900, 1000, 100] 0 (n - 1)

/-- What stage `n` took in milliseconds when it ends: `ms`, or the time that has passed since it began if that is more. [log 74: DEDUCED] -/
def stageMs (s : State) (ms : Nat) : Nat := max ms ((upNs s - s.su.began + 999999) / 1000000)

/-- R327: the stage in progress ends with its findings after `ms` milliseconds, to which time moves on, and the next one begins, or MOD_READY rises. Stage 1
lasts 10 ms at least. A stage that would end after its bound has passed it; one that ends at its bound is on time (R341). [log 74: DEDUCED] -/
def execStartupStageDone (ms : BitVec 12) (f : StageFind) (s : State) : Res :=
  if s.su.ready ∨ s.su.fail.isSome ∨ s.su.hold ∨ s.su.vin = false ∨ s.th.trip ∨ s.su.stopped then .next s
  else
    let n := s.su.stage
    let k := stageMs s ms.toNat
    match stageBody (timeTo s (s.su.began + 1000000 * k)) f with
    | none => .next s
    | some s' =>
      if n = 1 ∧ k < 10 then .next s
      else if stageBound n < k then .next (stopStartup (timeTo s (s.su.began + 1000000 * stageBound n)) 0x01)
      else
      let s' := { s' with su := { s'.su with ms := tset s'.su.ms n k } }
      .next (if s'.su.fail.isSome || s'.su.ready || s'.th.trip then s'
        else if n = 4 then beginStage (trainLinks s') 5 else beginStage s' (n + 1))

/-- R327, R340: the stage in progress passes its bound, to which time moves on. [log 14: DESIGN CHOICE; log 74: DEDUCED] -/
def execStartupTimeout (s : State) : Res :=
  if s.su.ready ∨ s.su.fail.isSome ∨ s.su.hold ∨ s.su.stage = 0 ∨ s.th.trip ∨ s.su.stopped then .next s
  else .next (stopStartup (timeTo s (s.su.began + 1000000 * stageBound s.su.stage)) 0x01)

/-- R332: the image that the ROM has started does not reach stage 5 within 300 ms, so that time has moved on by that for each watchdog: the other slot is tried, or
boot recovery begins. [log 74: DEDUCED] -/
def execBootWatchdog (a b : ImgFact) (s : State) : Res :=
  if s.su.stage = 4 ∧ s.su.fail.isNone ∧ s.su.stopped = false then
    match nextSlot s a b with
    | none => .next s
    | some x =>
      let s := timeTo s (s.su.began + 300000000 * (1 + b2n (bit s.su.wd 0) + b2n (bit s.su.wd 1)))
      let s := fallBack (updSu s fun y => { y with wd := setBit y.wd (b2n x) true })
      .next (if (nextSlot s a b).isNone then stopStartup s 0x40 else s)
  else .next s

/-! ### Reset and input power (R329, R410) -/

/-- What flash, the fuses and the world outside keep through a reset; everything else takes its value at reset. [log 16: DESIGN CHOICE] -/
def resetModule (s : State) : State :=
  { fresh := s.fresh
    answer := s.answer
    pending := s.pending
    hosts := (upFrom 0 4).map fun h => (h, { perst := (getHost s h).perst })
    doms := (upFrom 0 24).map fun d =>
      let x := getDom s d
      (d, { ofs := x.ofs, ofsNow := x.ofsNow, need := x.need, exh := x.exh, lowSent := x.lowSent })
    mem := { chs := s.mem.chs.map fun e => (e.1, { badFlash := e.2.badFlash, remapFlash := e.2.remapFlash, dlyFlash := e.2.dlyFlash })
             srs := s.mem.srs.map fun e => (e.1, { spares := e.2.spares }) }
    flt := { log := s.flt.log, nextIndex := s.flt.nextIndex }
    th := { armed := s.th.armed }
    age := { hours := s.age.hours, replans := s.age.replans, avg := s.age.avg, points := s.age.points, lats := s.age.lats }
    su := { sel := s.su.sel, rbc := s.su.rbc, slots := s.su.slots, vin := s.su.vin, hold := s.su.hold } }

/-- The records decided up to and including a shut-down record are written (R370). [log 83: DEDUCED] -/
def writeShutRecord (s : State) : Nat → State
  | 0 => s
  | f + 1 =>
    match s.flt.queue with
    | [] => s
    | r :: rest =>
      if s.flt.queue.any fun x => x.code == 0x0A13 then writeShutRecord (appendLog { s with flt := { s.flt with queue := rest } } r) f else s

/-- R329: MOD_RESET_N is held low: every unit is in reset and LPDDR6 unpowered; a shut-down record in progress is completed first. [log 83: DEDUCED] -/
def execModResetAssert (s : State) : Res :=
  let s := writeShutRecord s s.flt.queue.length
  .next (resetModule { s with su := { s.su with hold := true } })

/-- R329: MOD_RESET_N rises, and start-up begins at stage 1. -/
def execModResetRelease (s : State) : Res :=
  if s.su.hold then
    let s := { s with su := { s.su with hold := false } }
    .next (if s.su.vin then beginStage s 1 else s)
  else .next s

/-- R329, R410, R419: the input leaves its range for too long: every rail is removed, the standby supply with it. A record that had not been
written is lost. [log 16: DESIGN CHOICE] -/
def execVinOutOfRange (s : State) : Res :=
  let lost := s.flt.queue.any fun x => x.code == 0x0A13
  let s := { s with th := { s.th with armed := if lost then s.th.armedWas else s.th.armed }, su := { s.su with vin := false } }
  .next (resetModule s)

/-- R410, R411: input power is applied or returns, and start-up begins at stage 1. [log 16: DESIGN CHOICE] -/
def execInputPowerApply (s : State) : Res :=
  if s.su.vin then .next s
  else
    let s := { s with su := { s.su with vin := true } }
    .next (if s.su.hold then s else beginStage s 1)

end Sys2Proof.Machine
end

