-- ==== Sys2Proof/Machine/HostWin.lean ====
section
/-!
DEFINITION. The host window (14_host_protocol R305 to R317, R326): apertures, doorbell, ABORT and PERST, and the time bounds of packets and commands.
-/
namespace Sys2Proof.Machine

/-! ### Reading the window (R326) -/

/-- HW_ID. -/
def hwId (s : State) (h : Nat) : Nat := 0x0960 + h % 4 * 2 ^ 16 + s.su.fw % 65536 * 2 ^ 32 + b2n s.su.slot * 2 ^ 48

/-- A partition's state as HELLO and HW_STAT number it. -/
def pstateCode (st : PState) : Nat :=
  match st with
  | .none => 0
  | .defined => 1
  | .restarting => 2

/-- HW_STAT. -/
def hwStat (s : State) (h : Nat) : Nat :=
  let x := getHost s h
  b2n s.su.ready + 2 * b2n x.session + 4 * b2n (s.mc.manager == some h) + 8 * pstateCode (getPart s h).st + 32 * b2n x.ovf + 64 * b2n x.unf +
    128 * b2n x.dberr + 256 * b2n x.flush + 65536 * progress s.su

/-- HW_CMD_SPACE (R308). -/
def cmdSpace (x : HostPort) : Nat := 16384 - x.cmd.length

/-- HW_RPL_LVL: the words of a long reply enter the reply FIFO as the host makes room (R308). [log 66: DEDUCED] -/
def rplLvl (x : HostPort) : Nat := min 16384 x.rpl.length

/-- HW_EVT_LVL (R308). -/
def evtLvl (x : HostPort) : Nat := x.evts.length

/-- Is HPn_ALERT_N driven low (R310)? -/
def alertLow (x : HostPort) : Bool :=
  (x.rplEn && 0 < rplLvl x) || (x.evtEn && 0 < evtLvl x) || x.ovf || x.unf || x.dberr || x.flush

/-- Interrupt Disable of the PCIe command register: bit 10. [log 98: PRESUMED] -/
def intDisable (x : HostPort) : Bool := bit x.pciCmd 10

/-- Does the port hold INTA asserted: has it sent Assert_INTA and not yet Deassert_INTA (R310)? -/
def intaHeld (x : HostPort) : Bool := alertLow x && !intDisable x

/-- The interrupt messages of a port. -/
inductive Inta where
  | assert_
  | deassert
deriving DecidableEq, Repr

/-- The message that a port sends when a command takes it from `x` to `y` (R310): Assert_INTA when the condition begins, Deassert_INTA when it ends. -/
def intaMsg (x y : HostPort) : Option Inta :=
  if !intaHeld x && intaHeld y then some .assert_ else if intaHeld x && !intaHeld y then some .deassert else none

/-- A dword of the function's configuration space (R305): the identity, the command and status registers, the class code, the 64-bit non-prefetchable
BAR0 of 1 MiB, and INTA as its pin; the PCI Express capability of an endpoint that supports payloads of 256 bytes on a link of ×4 at 32 GT/s which also
trains at the lower rates; and the Advanced Error Reporting capability. Of these capabilities the fields that R305 does not settle read as 0. [log 98: PRESUMED] -/
def pciConfig (x : HostPort) (i : Nat) : Nat :=
  match i with
  | 0 => 0x09601F3B
  | 1 => x.pciCmd + b2n (alertLow x) * 2 ^ 19 + 2 ^ 20
  | 2 => 0x11800000
  | 4 => x.bar0 % 2 ^ 32 + 4
  | 5 => x.bar0 / 2 ^ 32
  | 13 => 0x40
  | 15 => 0x100
  | 16 => 0x00020010
  | 17 => 0x00008001
  | 18 => x.pciDev
  | 19 => 0x00000045
  | 27 => 0x0000003E
  | 64 => 0x00020001
  | _ => 0

/-- A configuration write (R305): the command register keeps Memory Space, Bus Master, Parity Error Response, SERR and Interrupt Disable, of which only
the last acts here; BAR0 keeps the address bits above 1 MiB; the device control register keeps its maximum payload and read request sizes and its enables.
[log 98: PRESUMED] -/
def pciWrite (x : HostPort) (i v : Nat) : HostPort :=
  match i with
  | 1 => { x with pciCmd := v &&& 0x546 }
  | 4 => { x with bar0 := x.bar0 / 2 ^ 32 * 2 ^ 32 + v % 2 ^ 32 / 2 ^ 20 * 2 ^ 20 }
  | 5 => { x with bar0 := v % 2 ^ 32 * 2 ^ 32 + x.bar0 % 2 ^ 32 }
  | 18 => { x with pciDev := v &&& 0x78FF }
  | _ => x

/-! ### The apertures (R308) -/

/-- The word of a read that finds nothing. -/
def allOnes : Word := BitVec.allOnes 64

/-- R308: a write of whole words in the command aperture. Words that meet a full FIFO are discarded, and the FIFO is flushed; a partial-word
write (`cut`) is discarded whole. -/
def execHostCmdPush (h : Fin 4) (words : List Word) (cut : Bool) (s : State) : Res :=
  let x := getHost s h
  if !portUp s h then .next s
  else if cut then .next (setHost s h { x with unf := true })
  else if words.length ≤ cmdSpace x then .next (setHost s h { x with cmd := x.cmd ++ words })
  else .next (setHost s h (flushCmd { x with ovf := true }))

/-- What a read of `n` words finds of a FIFO. -/
def takeWords (l : List Word) (n : Nat) : List Word := l.take n ++ List.replicate (n - l.length) allOnes

/-- R308: a read of `n` words in the reply aperture. -/
def execHostRplPop (h : Fin 4) (n : Fin 65) (cut : Bool) (s : State) : Res :=
  let x := getHost s h
  if !portUp s h then .next s
  else if cut then .next (setHost s h { x with unf := true, read := List.replicate n allOnes })
  else .next (setHost s h { x with
    rpl := x.rpl.drop n, unf := x.unf || decide (x.rpl.length < n.val), read := takeWords x.rpl n })

/-- A record as the event queue holds it (R320). -/
def evtWords (e : Evt) (eseq : Nat) : List Word :=
  [BitVec.ofNat 64 (e.code + e.part * 2 ^ 16 + b2n e.mod * 2 ^ 18 + eseq % 2 ^ 32 * 2 ^ 32), BitVec.ofNat 64 e.time, BitVec.ofNat 64 e.w2,
   BitVec.ofNat 64 e.w3]

/-- The words of the event queue that have not been popped: records take their ESEQ in the order in which they are delivered. -/
def evtFifo (x : HostPort) : List Word :=
  ((List.zip (upFrom x.eseq x.evts.length) x.evts).flatMap fun e => evtWords e.2 e.1).drop x.evtPop

/-- R308, R320: a read of `n` words in the event aperture. -/
def execHostEvtPop (h : Fin 4) (n : Fin 65) (cut : Bool) (s : State) : Res :=
  let x := getHost s h
  if !portUp s h then .next s
  else if cut then .next (setHost s h { x with unf := true, read := List.replicate n allOnes })
  else
    let f := evtFifo x
    let k := x.evtPop + min n.val f.length
    .next (setHost s h { x with
      evts := x.evts.drop (k / 4), eseq := (x.eseq + k / 4) % 2 ^ 32, evtPop := k % 4
      unf := x.unf || decide (f.length < n.val), read := takeWords f n })

/-! ### Doorbell, ABORT and PERST (R306, R309, R315) -/

/-- The reply of a command that the MC has begun is to be discarded; the command still completes. -/
def dropReply (x : HostPort) : HostPort :=
  match x.begun with
  | some c => if c.running && longOpc c.opc then { x with begun := none, still := some c } else { x with begun := some { c with drop := true } }
  | none => x

/-- R315: ABORT. The events it discards are counted. [log 66: DEDUCED] -/
def abortHost (s : State) (h : Nat) : State :=
  let s := bumpBy s .hwEvtLost h (getHost s h).evts.length
  let s := updHost s h fun x => { dropReply (flushCmd x) with rpl := [], evts := [], evtPop := 0 }
  endSession s h

/-- R309: a doorbell commits the uncommitted words if it names their number, and drops them otherwise; an ABORT in the same cycle wins. -/
def execHostDoorbell (h : Fin 4) (words : BitVec 15) (abortToo : Bool) (s : State) : Res :=
  let x := getHost s h
  if !portUp s h then .next s
  else if abortToo then .next (abortHost s h)
  else if words.toNat = x.cmd.length - x.committed then
    .next (parseAll (setHost s h { x with committed := x.cmd.length, marks := x.marks ++ [(words.toNat, upNs s)] }) h)
  else .next (setHost s h { x with cmd := x.cmd.take x.committed, dberr := true })

/-- R315: a write of HW_CTL.ABORT = 1. -/
def execHostAbort (h : Fin 4) (s : State) : Res := if !portUp s h then .next s else .next (abortHost s h)

/-- R306: HPn_PERST_N goes low: the port's FIFOs are empty and its session ends. [log 72: DEDUCED] -/
def execHostPerst (h : Fin 4) (s : State) : Res :=
  let s := updHost s h fun x =>
    { dropReply x with
      cmd := [], committed := 0, asm := [], marks := [], rpl := [], evts := [], evtPop := 0, perst := true, pciCmd := 0, bar0 := 0, pciDev := 0x2810 }
  .next (endSession s h)

/-- R306: HPn_PERST_N is released. -/
def execPerstRelease (h : Fin 4) (s : State) : Res := .next (updHost s h fun x => { x with perst := false })

/-! ### Bounds (R312, R317) -/

/-- R312: the header of a packet has been committed for 100 ms while the rest of it has not, which counts as an HCRC failure; its reply keeps its place
behind that of a command that is begun (R316). [log 14: DESIGN CHOICE; log 66: DEDUCED] -/
def execHostPktTimeout (h : Fin 4) (s : State) : Res :=
  let x := getHost s h
  if mcUp s && x.begun.isNone && 2 ≤ (stream x).length && headAt x + 100000000 ≤ upNs s then
    let w0 := (lget (stream x) 0 0).toNat
    .next (pushReply (setHost s h (flushCmd x)) h (fld w0 16 16) (fld w0 32 16) 0x01 [])
  else .next s

/-- A domain no longer answers host `h`: its PWR_SET has been answered. [log 72: DEDUCED] -/
def forgetHost (h : Nat) (x : Dom) : Dom :=
  { x with
    reqSet := if x.reqSet.map (fun q => q.2) = some h then none else x.reqSet
    entryHost := if x.entryHost = some h then none else x.entryHost
    wakeHost := if x.wakeHost = some h then none else x.wakeHost
    plHost := if x.plHost = some h then none else x.plHost
    plHeld := x.plHeld.map fun q => if q.2 = some h then (q.1, none) else q }

/-- The execution bound of a command in ns (R318); per 2 MiB, 256 MiB or MiB it grows with the length. [log 14: DESIGN CHOICE] -/
def cmdBound (c : HostCmd) : Nat :=
  let ms := 1000000
  let n := (lget c.args 0 1).toNat
  let data := 8 * (c.args.length - 1)
  match c.opc with
  | 0x0100 => 100 * ms
  | 0x0101 => 1000 * ms
  | 0x0103 => 900 * ms
  | 0x0104 | 0x0105 => 10 * ms
  | 0x0109 | 0x0304 => 2 * ms
  | 0x010A => 5 * ms
  | 0x0200 | 0x0403 => 20 * ms
  | 0x0300 => ms + ms * data / 2097152
  | 0x0301 => ms + ms * n / 2097152
  | 0x0302 => 10 * ms + ms * n / 268435456
  | 0x0400 => ms + 10 * ms * data / 1048576
  | 0x0401 => 2000 * ms
  | 0x0402 => 50 * ms
  | _ => ms

/-- R320: software of partition p writes MC_POST_ADDRp, which posts a PART_MSG record to its host; without a session it is lost and counted. -/
def execPartMsgPost (who : Agent) (p : Fin 4) (addr : Word) (s : State) : Res :=
  if who = .part p then
    let s := updHost (done s) p fun x => { x with postAddr := addr }
    .next (if (getHost s p).session then deliver s p 0x0C00 (getHost s p).postVal.toNat addr.toNat else bump s .hwEvtLost p)
  else .next (foreign s)

end Sys2Proof.Machine
end

