-- ==== Sys2Proof/Machine/Corward.lean ====
section
/-!
DEFINITION. Corward commands on sessions, partitions, cores, shares, messages and domains (14_host_protocol R313 to R324; 15_startup R342; 16_power_states R359).
-/
namespace Sys2Proof.Machine

/-! ### Checks that commands share (R318, R319) -/

/-- The index of the first payload word with a bit outside its mask (R318: unused bits must be zero). [log 89: DEDUCED] -/
def unusedBits (c : HostCmd) : List (Nat × Nat) → Option Nat
  | [] => none
  | (i, m) :: r => if arg c i &&& m = arg c i then unusedBits c r else some i

/-- Runs a body if every unused bit is zero, and answers BAD_PARAM otherwise. [log 67: DEDUCED] -/
def checked (s : State) (c : HostCmd) (ms : List (Nat × Nat)) (body : Unit → Reply × State) : Reply × State :=
  match unusedBits c ms with
  | some i => refuse s 0x04 i
  | none => body ()

/-- Does partition `p` own all memory from `a` on, `n` bytes of it? Ownership changes at multiples of 2 KiB only (R322). -/
def ownsRange (s : State) (p a n : Nat) : Bool := (pieces a n (n + 1)).all fun e => ownsMem s p e.1

/-! ### Sessions (R313, R321) -/

/-- R313, R321: HELLO begins a session; with MGMT it takes the manager right if nobody holds it, after MOD_READY or in boot recovery (R333). -/
def execHello (h : Fin 4) (s : State) : Res :=
  .next (runCmd s h 0x0001 fun s c => checked s c [(0, 1)] fun _ =>
    let s := endSession s h
    let s := updHost s h fun x => { x with session := true, expSeq := (c.seq + 1) % 65536, eseq := 0 }
    let take := bit (arg c 0) 0 && s.mc.manager.isNone && (s.su.ready || s.su.recovery)
    let s := if take then { s with mc := { s.mc with manager := some h.val } } else s
    (.now 0 [BitVec.ofNat 64 (hwId s h), BitVec.ofNat 64 (pstateCode (getPart s h).st + 4 * b2n take)], s))

/-- The partitions in use, one bit each. [log 68: DEDUCED] -/
def partMap (s : State) : Nat := sumNat ((upFrom 0 4).map fun p => if (getPart s p).st = .none then 0 else 2 ^ p)

/-- R318: MOD_STATUS. `mw` is the measured input power; with no manager the port field is a free value. [log 68: DEDUCED] -/
def execModStatus (h : Fin 4) (mw : BitVec 32) (s : State) : Res :=
  .next (runCmd s h 0x0002 fun s _ =>
    let (m, s) : Nat × State := match s.mc.manager with
      | some p => (p, s)
      | none => takeFree s 4
    let w0 := progress s.su + b2n s.su.ready * 2 ^ 16 + partMap s * 2 ^ 20 + m * 2 ^ 24 + mw.toNat * 2 ^ 32
    (.now 0 [BitVec.ofNat 64 w0, BitVec.ofInt 64 (tempOf s (hotSensor s))], s))

/-- R318, R320: EVT_MASK. -/
def execEvtMask (h : Fin 4) (s : State) : Res :=
  .next (runCmd s h 0x0003 fun s c => okReply (updHost s h fun x => { x with mask := arg c 0 }))

/-! ### Creating a partition (R322, R323) -/

/-- The bits of each word of R322 that are not rsvd. -/
def createMask (i : Nat) : Nat :=
  if i = 0 then 3
  else if i = 1 then 2 ^ 40 - 1
  else if i = 2 then 2 ^ 36 - 1
  else if i = 4 ∨ i = 5 then 2 ^ 52 - 1
  else if i = 6 then 2 ^ 40 - 1
  else if i = 7 then 2 ^ 34 - 1
  else if 8 ≤ i ∧ i ≤ 15 then 2 ^ 63 + (2 ^ 19 - 1)
  else 2 ^ 64 - 1

/-- Does a partition exist (R13)? -/
def anyPart (s : State) : Bool := (upFrom 0 4).any fun p => (getPart s p).st != .none

/-- Does a word break a form rule (R323)? -/
def formBad (s : State) (i w : Nat) : Bool :=
  (w &&& createMask i) != w ||
    (if i = 0 then anyPart s && w != s.tu.mu
     else if i = 1 then (upFrom 0 12).any fun k => bit w (2 * k) != bit w (2 * k + 1)
     else if i = 4 ∨ i = 5 then 131072 < fld w 0 17 + fld w 17 18 || 65536 < fld w 35 17
     else if i = 7 then 256 < fld w 0 8 + fld w 8 9 || 256 < fld w 17 8 + fld w 25 9
     else if 8 ≤ i ∧ i ≤ 15 then bit w 63 && (fld w 9 10 == 0 || 512 < fld w 0 9 + fld w 9 10)
     else false)

/-- Do two ranges of a base and a count meet? -/
def rangesMeet (b1 n1 b2 n2 : Nat) : Bool := 0 < n1 && 0 < n2 && b1 < b2 + n2 && b2 < b1 + n1

/-- The partitions other than `h`. -/
def others (h : Nat) : List Nat := (upFrom 0 4).filter fun p => p != h

/-- The weight that a core has, or takes at the next tick start. -/
def weightSoon (s : State) (c : Nat) : Nat := (getCore s c).weightPend.getD (getCore s c).weight

/-- Is a domain FAILED, and what it holds out of service until a start-up (R356)? -/
def domOut (s : State) (d : Nat) : Bool := (getDom s d).state == .failed

/-- Is LPDDR6 of a die out of service: each of its ranges has blocks on every channel (R398)? -/
def lpddrOut (s : State) (die : Nat) : Bool := domOut s (9 * die + 8) || (upFrom (8 * die) 8).any fun ch => bit s.flt.chOut ch

/-- Does a word of jig shares ask for a class whose domain has failed? -/
def sharesOut (s : State) (w : Nat) : Bool :=
  (upFrom 0 2).any fun d => (upFrom 1 5).any fun k => fld w (20 * d + 4 * (k - 1)) 4 != 0 && domOut s (jigDom d k)

/-- Does a well-formed word ask for something unavailable (R323): granted to another partition, out of service, lost, or still being cleared? [log 67: DEDUCED] -/
def takenBad (s : State) (h i w : Nat) : Bool :=
  let oth := fun (f : Nat → Bool) => (others h).any f
  let o := fun p => descWord s p i
  if i = 1 then
    (oth fun p => (w &&& o p) != 0) || ((upFrom 0 24).any fun cl => bit w cl && (bit s.flt.clOut cl || dieOut s (cl / 12) || domOut s (9 * (cl / 12) + cl % 12 / 2))) ||
      (upFrom 0 16).any fun b => bit w (24 + b) && (weightSoon s (96 + b) == 0 || dieOut s (b / 8))
  else if i = 2 then
    (oth fun p => (w &&& o p) != 0) || (fld w 0 16 != 0 && (domOut s 18 || domOut s 22)) || (fld w 16 16 != 0 && (domOut s 19 || domOut s 22)) ||
      (fld w 32 4 != 0 && (domOut s 20 || domOut s 23))
  else if i = 3 then oth fun p => (w &&& o p) != 0
  else if i = 4 ∨ i = 5 then
    (oth fun p => rangesMeet (fld w 0 17) (fld w 17 18) (fld (o p) 0 17) (fld (o p) 17 18)) ||
      65536 < fld w 35 17 + sumNat ((others h).map fun p => fld (o p) 35 17) ||
      (dieOut s (i - 4) && (fld w 17 18 != 0 || fld w 35 17 != 0))
  else if i = 6 then (dieOut s 0 && fld w 0 20 != 0) || (dieOut s 1 && fld w 20 20 != 0) || sharesOut s w
  else if i = 7 then
    (oth fun p => rangesMeet (fld w 0 8) (fld w 8 9) (fld (o p) 0 8) (fld (o p) 8 9) ||
      rangesMeet (fld w 17 8) (fld w 25 9) (fld (o p) 17 8) (fld (o p) 25 9)) || (fld w 25 9 != 0 && domOut s 21)
  else if 8 ≤ i ∧ i ≤ 15 then
    bit w 63 &&
      ((oth fun p => (upFrom 8 8).any fun j =>
          let v := descWord s p j
          bit v 63 && rangesMeet (fld w 0 9) (fld w 9 10) (fld v 0 9) (fld v 9 10)) ||
        (s.mc.filling.any fun u => fld w 0 9 ≤ u && u < fld w 0 9 + fld w 9 10) ||
        ((dieOut s 0 || lpddrOut s 0) && fld w 0 9 < 256) || ((dieOut s 1 || lpddrOut s 1) && 256 < fld w 0 9 + fld w 9 10))
  else if i = 16 ∨ i = 17 then (oth fun p => (w &&& o p) != 0) || (w != 0 && (dieOut s (i - 16) || domOut s (9 * (i - 16) + 8)))
  else false

/-- The first word of a request that fails, in ascending order, the form rules before the resources: the status and the word. -/
def createFails (s : State) (h : Nat) : List (Nat × Nat) → Option (Nat × Nat)
  | [] => none
  | (i, w) :: r => if formBad s i w then some (0x04, i) else if takenBad s h i w then some (0x08, i) else createFails s h r

/-- Sets a partition's jig shares on both dies in the layout of word 6 of R322. -/
def setShares (s : State) (p w : Nat) : State :=
  { s with jig := { s.jig with share := tset (tset s.jig.share p (fld w 0 20)) (4 + p) (fld w 20 20) } }

/-- The DMA channels of a partition. -/
def partDmas (s : State) (p : Nat) : List Nat :=
  (upFrom 0 448).filter fun k => if k < 384 then ownsCluster s p (k / 16) else ownsSysDma s p (k - 384)

/-- R323: PART_CREATE. [log 21: DEDUCED; log 87: DESIGN CHOICE] -/
def execPartCreate (h : Fin 4) (s : State) : Res :=
  .next (runCmd s h 0x0100 fun s c =>
    if (getPart s h).st != .none then refuse s 0x07 0
    else match createFails s h ((upFrom 0 18).map fun i => (i, arg c i)) with
      | some (st, i) => refuse s st i
      | none =>
        let s := if anyPart s then s else placeGrid s (arg c 0)
        let s := updPart s h fun x => { x with st := .defined, desc := c.args }
        let s := setShares s h (arg c 6)
        let s := ((partDmas s h).filter fun k => 384 ≤ k).foldl (fun s k => updDma s k fun x => { x with part := none }) s
        let s := (partCores s h).foldl (fun s k => resetCore s k) s
        (.now 0 (one h), s))

/-! ### Quieting a partition (R324, R342) -/

/-- A tick bank with its plan stopped and both slots cleared. [log 71: DEDUCED] -/
def clearBank (b : TickBank) : TickBank :=
  { b with run := false, pend := none, stopping := false, slotA := none, slotB := none, wins := [], injNext := 0 }

/-- Step 2: the partition's ports are disabled. -/
def portsOff (s : State) (p : Nat) : State :=
  let s := ((upFrom 0 32).filter fun m => ownsFh s p m).foldl (fun s m => updFh s m fun x => { x with en := false }) s
  ((upFrom 0 4).filter fun n => ownsBp s p n).foldl (fun s n => updBp s n fun x => { x with en := false }) s

/-- Stops a DMA channel (R256): a descriptor in progress completes with ABORTED, and its writes that have not started are gone. -/
def stopDma (s : State) (k : Nat) : State :=
  let x := getDma s k
  let s := dropAgent s (dmaPort k) (dmaSub k)
  let inside := x.state == .active || x.state == .completing || ((x.state == .pausing || x.state == .paused) && x.back == .active)
  if inside then completeDesc (setCurs (setDma s k { x with stop := true }) k) k 0x30 x.fstat (ddLand x.cur) false
  else if x.state == .idle || x.state == .halted then s
  else setDma s k { x with state := .idle, stop := false }

/-- A running job of the partition ends without a completion event; any part of its outputs may have been written (R197). -/
def cancelJob (s : State) (r : JgRun) : State :=
  let j := r.job
  let s := maybeWritten s j.part (jdOut j.desc) (outBytes j.desc j.cls)
  if jdHst j.desc j.cls then maybeWritten s j.part (jdHout j.desc) (hsize (jdHout j.desc) (jdNcb j.desc)) else s

/-- Step 3: items are withdrawn, flows closed, cores held in reset, DMA channels stopped and jobs cancelled. -/
def holdPart (s : State) (p : Nat) : State :=
  let s := (partDmas s p).foldl stopDma s
  let s := (s.jig.running.filter fun r => r.job.part == p).foldl cancelJob s
  let s := dropQueued (dropRunning s fun r => r.job.part == p) fun j => j.part == p
  let s := setItems s (s.dv.items.filter fun it => !ownsFlow s p it.flow)
  let fl := s.dv.flows.map fun e => if ownsFlow s p e.1 then (e.1, { e.2 with valid := false }) else e
  let s := { s with dv := { s.dv with flows := fl } }
  (partCores s p).foldl (fun s c =>
    let s := dropAgent s (corePort c) 0
    let s := noteIdle s c
    resetCore (releaseLock s c) c) s

/-- The tile, cluster and die-store memory of a partition: addresses and sizes. -/
def partSram (s : State) (p : Nat) : List (Nat × Nat) :=
  (((upFrom 0 24).filter fun cl => ownsCluster s p cl).flatMap fun cl =>
      (clusterBase cl, 0x400000) :: (upFrom (4 * cl) 4).map fun c => (tileBase c, 0x80000)) ++
    (upFrom 0 2).flatMap fun d => ((upFrom 0 64).filter fun j => bit (descWord s p (16 + d)) j).map fun j => (storeBase d + 0x100000 * j, 0x100000)

/-- That memory is zeroed. -/
def zeroPart (s : State) (p : Nat) : State := (partSram s p).foldl (fun s e => zeroSram s e.1 e.2) s

/-- Steps 1 to 3 of R324 and R342. -/
def quietPart (s : State) (p : Nat) : State := holdPart (portsOff (setTick s p (clearBank (getTick s p))) p) p

/-! ### Destroying and restarting a partition -/

/-- The LPDDR6 units that a partition releases, in ascending order. -/
def partUnits (s : State) (p : Nat) : List Nat :=
  (upFrom 0 512).filter fun u => (upFrom 8 8).any fun i =>
    let w := descWord s p i
    bit w 63 && fld w 0 9 ≤ u && u < fld w 0 9 + fld w 9 10

/-- Step 1 of R324 and R342 before the next tick start: a start or switch that is pending is cancelled, and the plan stops then. -/
def stopSoon (s : State) (p : Nat) : State := setTick s p { getTick s p with stopping := true, pend := none }

/-- The steps of PART_DESTROY (R324): the first while the plan runs, the others once it has stopped. [log 12: DESIGN CHOICE] -/
def destroySteps (s : State) (p : Nat) : Reply × State :=
  let s := settleSwitch s p
  if (getTick s p).run then (.later, stopSoon s p)
  else
    let s := quietPart s p
    let s := ((upFrom 0 4).filter fun n => ownsBp s p n).foldl (fun s n => updBp s n fun x => { x with sas := [], active := [] }) s
    let s := { s with tm := { s.tm with tcMap := s.tm.tcMap.map fun e => (e.1, if ownsFh s p e.1 then setBit e.2 31 false else e.2) } }
    let s := zeroPart s p
    let s := { s with mc := { s.mc with filling := s.mc.filling ++ partUnits s p } }
    okReply (setShares (updPart s p fun x => { x with st := .none, desc := [] }) p 0)

/-- R324: PART_DESTROY. The row comes once when the MC begins it and, if a plan runs, once more after the tick start that stops it.
[log 12: DESIGN CHOICE; log 71: DEDUCED] -/
def execPartDestroy (h : Fin 4) (s : State) : Res := .next (runSteps s h 0x0101 fun s _ => destroySteps s h)

/-- R324: the background fill of the die's oldest released unit finishes: its pages are zero and written. The devices must be awake. -/
def execPartReleaseFill (die : Fin 2) (s : State) : Res :=
  match s.mc.filling.find? fun u => u / 256 == die.val with
  | none => .next s
  | some u =>
    if gateStatus s (some (9 * die.val + 8)) != 0 then .next s
    else
      let s := { s with mc := { s.mc with filling := s.mc.filling.erase u } }
      let a := u * 0x10000000
      .next ((pieces a 0x10000000 131073).foldl (fun s e =>
        match targetOf e.1 with
        | .lpddr ch page => if (getCh s ch).state = 1 then writeWholePage s ch page (List.replicate 2048 0) else s
        | _ => s) s)

/-- R318: PART_QUERY answers the words as granted. [log 68: DEDUCED] -/
def execPartQuery (h : Fin 4) (s : State) : Res :=
  .next (runCmd s h 0x0102 fun s _ => (.now 0 (getPart s h).desc, s))

/-- R342, R343: a core's self-test of step 5, and its report where it leaves the core narrow or out of service. A core that is under test after a fault
(R391) ends that test, and one that is out until the next start-up stays so. -/
def retestCore (tests : List (Fin 112 × CoreTest)) (clusters : List (Fin 24)) (s : State) (c : Nat) : State :=
  let r := ((tests.find? fun e => e.1.val == c).map fun e => e.2).getD .whole
  let r := if isChisel c && (bit s.flt.clOut (coreCluster c) || clusters.any fun e => e.val == coreCluster c) then .bad else r
  if (getCore s c).run = .testing then s
  else
    let r := testResult s c r
    let s := setCoreState (setTest s c r) c (testState c r)
    if testState c r = 1 then s else fltCore (if testState c r = 3 then noteDeg s else s) c 5 (testState c r) 0

/-- The steps of PART_RESTART (R342). The partition is restarting until the last. [log 12: DESIGN CHOICE] -/
def restartSteps (tests : List (Fin 112 × CoreTest)) (clusters : List (Fin 24)) (jigs : List (Fin 2 × Fin 17)) (s : State) (p : Nat) : Reply × State :=
  let s := settleSwitch s p
  if (getTick s p).run then (.later, stopSoon (updPart s p fun x => { x with st := .restarting }) p)
  else
    let s := zeroPart (quietPart s p) p
    let bad := clusters.filter fun (c : Fin 24) => ownsCluster s p c && !bit s.flt.clOut c
    let s := bad.foldl (fun s (c : Fin 24) => fltEngine { s with flt := { s.flt with clOut := setBit s.flt.clOut c true } } c 3) s
    let s := (partCores s p).foldl (retestCore tests bad) s
    let back := jigs.filter fun e => (upFrom 1 5).any fun k => jgShare s e.1 p k != 0
    let s := back.foldl (fun s (e : Fin 2 × Fin 17) =>
      if dieOut s e.1 ∨ (upFrom 1 5).any (fun k => (instBits k).1 ≤ e.2.val && e.2.val < (instBits k).1 + (instBits k).2 &&
          (getDom s (jigDom e.1 k)).state == .failed) then s
      else { s with jig := { s.jig with inst := tset s.jig.inst e.1 (setBit (tget s.jig.inst 0 e.1) e.2 true) } }) s
    okReply (raisePart (updPart s p fun x => { x with st := .defined }) p 0x0C01 2 1)

/-- R342: PART_RESTART. `tests` are the cores that do not pass whole, `clusters` those whose Rasp or DMA engine fails, and `jigs` the
instances out of service that pass and return (die and bit of JG_INST_STAT). The row comes once when the MC begins it and, if a plan runs, once more after
the tick start that stops it. [log 12: DESIGN CHOICE; log 71: DEDUCED] -/
def execPartRestart (h : Fin 4) (tests : List (Fin 112 × CoreTest)) (clusters : List (Fin 24)) (jigs : List (Fin 2 × Fin 17)) (s : State) : Res :=
  .next (runSteps s h 0x0103 fun s _ => restartSteps tests clusters jigs s h)

/-! ### Cores (R318) -/

/-- The cores that W0 and W1 name, with the word that names each. -/
def namedCores (c : HostCmd) : List (Nat × Nat) :=
  ((upFrom 0 64).filter fun i => bit (arg c 0) i).map (fun i => (i, 0)) ++
    ((upFrom 0 48).filter fun i => bit (arg c 1) i).map fun i => (64 + i, 1)

/-- The word of the first named core that the partition does not own. -/
def foreignCore (s : State) (p : Nat) (l : List (Nat × Nat)) : Option Nat := (l.find? fun e => !ownsCore s p e.1).map fun e => e.2

/-- Is the core held in reset in a domain whose S3, failure or transition does not keep it there? [log 69: DESIGN CHOICE] -/
def startable (s : State) (c : Nat) : Bool :=
  (getCore s c).run == .held && (match coreDom c with
    | some d => (getDom s d).state == .awake
    | none => true)

/-- A core starts at level S with pc = ENTRY and g1 = ARG (R121, R318). -/
def startCore (s : State) (entry arg : Word) (c : Nat) : State :=
  updCore s c fun x => { x with run := .running, pl := 1, ie := false, pc := entry &&& ~~~3, g := [(1, arg)] }

/-- R318: CORE_START. [log 69: DESIGN CHOICE] -/
def execCoreStart (h : Fin 4) (s : State) : Res :=
  .next (runCmd s h 0x0104 fun s c => checked s c [(1, 2 ^ 48 - 1)] fun _ =>
    let l := namedCores c
    match foreignCore s h l with
    | some i => refuse s 0x05 i
    | none =>
      match l.find? fun e => weightSoon s e.1 == 0 && (getCore s e.1).run == .held with
      | some e => refuse s 0x08 e.2
      | none =>
        if l.all fun e => startable s e.1 then
          okReply (l.foldl (fun s e => startCore s (lget c.args 0 2) (lget c.args 0 3) e.1) s)
        else (.now 0x07 [], s))

/-- R318: CORE_STOP: each named core is held in reset, its items go as a core failure's do, and its Rasp lock is released. A core under the
self-test of a core fault stays under it, and one that a double fault has stopped is left to the procedure of R391, which holds it in reset (R392). -/
def execCoreStop (h : Fin 4) (s : State) : Res :=
  .next (runCmd s h 0x0105 fun s c => checked s c [(1, 2 ^ 48 - 1)] fun _ =>
    let l := namedCores c
    match foreignCore s h l with
    | some i => refuse s 0x05 i
    | none => okReply (l.foldl (fun s e => if (getCore s e.1).run = .testing ∨ (getCore s e.1).run = .stopped then s else stopCore s e.1) s))

/-! ### Shares, rates and members (R318) -/

/-- R318, R200: JIG_SHARE. Jobs queued in a class whose share becomes 0 end without running. [log 68: DEDUCED] -/
def execJigShare (h : Fin 4) (s : State) : Res :=
  .next (runCmd s h 0x0106 fun s c => checked s c [(0, 2 ^ 40 - 1)] fun _ =>
    let w := arg c 0
    if takenBad s h 6 w then refuse s 0x08 0
    else
      let s := setShares s h w
      let s := updPart s h fun x => { x with desc := lset x.desc 6 (BitVec.ofNat 64 w) }
      okReply (endQueued s (fun j => j.part == h.val && jgShare s j.die h j.cls == 0) 0x11))

/-- R231, R318: NOC_REGULATE sets a class's rate and burst at a port of one of the partition's cores. [log 72: DEDUCED] -/
def execNocRegulate (h : Fin 4) (s : State) : Res :=
  .next (runCmd s h 0x0107 fun s c => checked s c [(0, 0x0FFF07FF03FF)] fun _ =>
    let w := arg c 0
    let q := fld w 0 8
    let k := fld w 8 2
    let r := fld w 16 11
    let b := fld w 32 12
    if 160 ≤ q ∨ k = 1 ∨ r = 0 ∨ 1024 < r ∨ b < 65 then refuse s 0x04 0
    else if ((portCore q).map fun e => ownsCore s h e) ≠ some true then refuse s 0x05 0
    else
      let x := getPort s q
      okReply (setPort s q (setRate x (upNs s) k r b)))

/-- A member range as a word of GAIN_GROUP gives it, in GC_GRP_MEMBi layout (R106). -/
def membOf (w : Nat) : GcMemb := { port := fld w 0 5, lo := fld w 8 10, hi := fld w 18 10 }

/-- Every ACID of a range has a VALID uplink stream entry, all of one µ (R87). -/
def membOk (s : State) (mu : Nat) (m : GcMemb) : Bool :=
  m.lo ≤ m.hi && (upFrom m.lo (m.hi + 1 - m.lo)).all fun a =>
    let x := (getStream s m.port a).cfg
    x.valid && !x.down && x.mu == mu

/-- Do two member ranges overlap? -/
def membMeet (a b : GcMemb) : Bool := a.port == b.port && a.lo ≤ b.hi && b.lo ≤ a.hi

/-- The first new member range that R87 refuses: its status and word. -/
def membFails (s : State) (h g mu : Nat) (seen : List GcMemb) : List (Nat × GcMemb) → Option (Nat × Nat)
  | [] => none
  | (i, m) :: r =>
    let taken := (seen.any fun x => membMeet x m) || s.gc.grps.any fun e => e.1 != g && e.2.memb.any fun x => membMeet x.2 m
    if !ownsFh s h m.port then some (0x05, i + 1)
    else if taken || !membOk s mu m then some (0x04, i + 1)
    else membFails s h g mu (seen ++ [m]) r

/-- R87, R318: GAIN_GROUP sets a group's member ranges. The engine limits of R101 are checked where a descriptor is written (R100), not here: R101 names no
check of a group that grows under VALID contexts. Commands pending on the old ranges stay, their SEQs by old range number. [log 101: DESIGN CHOICE] -/
def execGainGroup (h : Fin 4) (s : State) : Res :=
  let mk := 0x0FFFFF9F
  .next (runCmd s h 0x0108 fun s c => checked s c [(0, 255), (1, mk), (2, mk), (3, mk), (4, mk)] fun _ =>
    let g := arg c 0
    let l := ((upFrom 0 4).filter fun i => bit (arg c (i + 1)) 7).map fun i => (i, membOf (arg c (i + 1)))
    if !ownsGroupOf s h g then refuse s 0x05 0
    else
      let mu := match l with
        | (_, m) :: _ => (getStream s m.port m.lo).cfg.mu
        | [] => 0
      match membFails s h g mu [] l with
      | some (st, i) => refuse s st i
      | none => okReply (updGrp s g fun x => { x with memb := l, filt := [] }))

/-! ### Messages (R318) -/

/-- R318: HOST_MSG writes its data and enqueues a kind 8 item. -/
def execHostMsg (h : Fin 4) (s : State) : Res :=
  .next (runCmd s h 0x0109 fun s c => checked s c [(0, 2 ^ 23 - 1), (1, 2 ^ 48 - 1)] fun _ =>
    let f := fld (arg c 0) 0 18
    let bs := bytesOfWords (c.args.drop 3)
    if !ownsFlow s h f then refuse s 0x05 0
    else if !ownsRange s h (arg c 1) bs.length then refuse s 0x05 1
    else match memWrite s (some h) (arg c 1) bs with
      | (0, _, s) =>
        let n : NewItem :=
          { flow := f, kind := 8, prio := if bit (arg c 0) 22 then some (fld (arg c 0) 18 4) else none, tag := lget c.args 0 2
            arg0 := BitVec.ofNat 64 (arg c 1), arg1 := BitVec.ofNat 64 (bs.length % 65536 + c.seq * 65536) }
        let (r, s, _) := enqueueExt s h n
        (.now 0 (one r), s)
      | (st, k, s) => (.now 0x0A [BitVec.ofNat 64 k, BitVec.ofNat 64 st], s))

/-! ### Domains (R346, R348, R359) -/

/-- PWR_SET to a performance level (R348, R359). -/
def setLevel (s : State) (h d l : Nat) : Reply × State :=
  let x := getDom s d
  match x.state with
  | .failed => refuse (noteOther s d 9 none) 0x09 9
  | .awake =>
    if bit x.exh l then refuse (bump (noteOther s d 6 none) .pwrRef (8 * d + 6)) 0x09 6
    else if x.plTo.isSome then (.later, setDom s d { x with plHeld := some (l, some h) })
    else if l = x.pl then (.now 0 (one 0), s)
    else (.later, startLevel s d l (some h))
  | _ => if bit x.exh l then refuse (bump (noteOther s d 6 none) .pwrRef (8 * d + 6)) 0x09 6 else (.now 0 (one 0), setDom s d { x with plRec := some l })

/-- PWR_SET to a sleep state (R359). -/
def setSleep (s : State) (h d t : Nat) : Reply × State :=
  let x := getDom s d
  match x.state with
  | .awake => if x.reqSet.isSome then (.now 0x07 [], s) else (.later, setDom s d { x with reqSet := some (t, h) })
  | .failed => refuse (noteOther s d 9 (some t)) 0x09 9
  | st => if st = sleepState t then (.now 0 (one 0), s) else (.now 0x07 [], s)

/-- PWR_SET to awake (R354, R358, R359). -/
def setAwake (s : State) (h d : Nat) : Reply × State :=
  let x := getDom s d
  match x.state with
  | .awake => (.now 0 (one 0), wakeReq s d true 1)
  | .failed => refuse (noteOther s d 9 none) 0x09 9
  | _ => (.later, updDom (wakeReq s d true 1) d fun x => { x with wakeHost := some h })

/-- Does a domain take a target (R345)? Levels belong to the Chisel groups. -/
def targetOk (d t : Nat) : Bool := if t < 4 then isGroup d else if t < 7 then supports d (t - 3) else true

/-- R318, R346, R359: PWR_SET. -/
def execPwrSet (h : Fin 4) (s : State) : Res :=
  .next (runCmd s h 0x010A fun s c => checked s c [(0, 255)] fun _ =>
    let d := fld (arg c 0) 0 5
    let t := fld (arg c 0) 5 3
    if 24 ≤ d ∨ targetOk d t = false then refuse s 0x04 0
    else
      let mine := domOwner s d == some h.val
      if !mine && (domOwner s d).isSome then
        (if (getPart s h).st = .none then (.now 0x06 [], s) else refuse s 0x05 0)
      else if !mine && s.mc.manager != some h.val then (.now 0x0F [], s)
      else if t < 4 then setLevel s h d t
      else if t < 7 then setSleep s h d (t - 3)
      else setAwake s h d)

end Sys2Proof.Machine
end

