-- ==== Sys2Proof/Machine/Dma.lean ====
section
/-!
DEFINITION. The rows of the DMA engines (11_dma R246 to R259).
-/
namespace Sys2Proof.Machine

/-- A write to a register of a channel's bank (R259): only its partition and the MC may write it, and the gate of its domain must be open. -/
def dmaReg (s : State) (who : Agent) (k : Nat) (f : State → State) : State :=
  if k / 16 < 24 ∧ dieOut s (k / 192) then answer s 4 0
  else if !mayTouch who (some (dmaPart s k)) then foreign s
  else if dmaGate s k != 0 then answer (noteGate s (corePort (4 * (k / 16))) (dmaGate s k)) (dmaGate s k) 0
  else f (done s)

/-- R257: RUN starts an idle or halted channel from DMA_CH_DESC; with PAUSE = 1 it pauses before its first fetch (R256). [log 57: DEDUCED] -/
def execDmaRun (who : Agent) (e : Fin 28) (c : Fin 16) (s : State) : Res :=
  let k := dmaNo e c
  .next (dmaReg s who k fun s =>
    let x := getDma s k
    if x.state = .idle ∨ x.state = .halted then
      setDma s k { x with state := if x.pause then .paused else .fetch, back := .fetch, pos := 0, linkOnly := false, stop := false }
    else s)

/-- R256: PAUSE = 1. An active or fetching channel first receives its outstanding reads; one that waits pauses at once, before the first unit of the
descriptor that it has fetched. -/
def execDmaPause (who : Agent) (e : Fin 28) (c : Fin 16) (s : State) : Res :=
  let k := dmaNo e c
  .next (dmaReg s who k fun s =>
    let x : DmaCh := { getDma s k with pause := true }
    setDma s k (match x.state with
      | .active => { x with state := .pausing, back := .active }
      | .fetch => { x with state := .pausing, back := .fetch, pos := 0 }
      | .waitTrig => { x with state := .paused, back := .waitTrig, pos := 0, scur := startSrc x, dcur := startDst x }
      | .parked => { x with state := .paused, back := .parked }
      | _ => x))

/-- R256: the channel has received and written all outstanding reads. `units` is DMA_CH_POS as it then stands. A STOP completes its
descriptor now, with ABORTED. [log 58: DESIGN CHOICE] -/
def execDmaPauseDone (e : Fin 28) (c : Fin 16) (units : BitVec 24) (s : State) : Res :=
  let k := dmaNo e c
  let x := getDma s k
  if x.state != .pausing then .next s
  else if x.back = .active then
    let lim := min units.toNat (unitsOf x.cur)
    let s := moveUnits s k lim (lim + 1)
    let x := getDma s k
    if x.rdErr ≠ 0 then .next (finishDesc s k)
    else if x.stop then .next (finishDesc (setDma s k { x with endCode := 0x30 }) k)
    else
      let cur := curAddrs x
      .next (setDma s k { x with state := .paused, scur := cur.1, dcur := cur.2 })
  else if x.stop then .next (setDma s k { x with state := .idle, stop := false })
  else .next (setDma s k { x with state := .paused })

/-- R256: PAUSE = 0 continues a pausing or paused channel; one paused in WAIT_TRIG tests its trigger again. -/
def execDmaResume (who : Agent) (e : Fin 28) (c : Fin 16) (s : State) : Res :=
  let k := dmaNo e c
  .next (dmaReg s who k fun s =>
    let x : DmaCh := { getDma s k with pause := false }
    if x.state = .paused ∨ (x.state = .pausing ∧ !x.stop) then
      if x.back = .waitTrig then testTrigger (setDma s k x) k
      else if x.back = .parked then park (setDma s k x) k x.linkOnly
      else setDma s k { x with state := x.back }
    else setDma s k x)

/-- R256: STOP pauses the channel and completes its descriptor with ABORTED; in FETCH, WAIT_TRIG or PARKED it writes no status. -/
def execDmaStop (who : Agent) (e : Fin 28) (c : Fin 16) (s : State) : Res :=
  let k := dmaNo e c
  .next (dmaReg s who k fun s =>
    let x := getDma s k
    match x.state with
    | .active => setDma s k { x with state := .pausing, back := .active, stop := true }
    | .pausing | .completing => setDma s k { x with stop := true }
    | .paused =>
      if x.back = .active then finishDesc (setDma s k { x with stop := true, endCode := 0x30 }) k
      else setDma s k { x with state := .idle }
    | .fetch | .waitTrig | .parked => setDma s k { x with state := .idle }
    | _ => s)

/-- R254: a doorbell re-fetches a parked channel, and at any other time sets PEND_DB. -/
def execDmaDoorbell (who : Agent) (e : Fin 28) (c : Fin 16) (s : State) : Res :=
  let k := dmaNo e c
  .next (dmaReg s who k fun s =>
    let x := getDma s k
    if x.state = .parked then setDma s k { x with state := .fetch } else setDma s k { x with pendDb := true })

/-- R257: a write to DMA_CH_DESC (`tick = false`) or DMA_CH_TICK is taken in IDLE, HALTED and PAUSED, and otherwise counted. -/
def execDmaChDescWrite (who : Agent) (e : Fin 28) (c : Fin 16) (tick : Bool) (v : Word) (s : State) : Res :=
  let k := dmaNo e c
  .next (dmaReg s who k fun s =>
    let x := getDma s k
    if x.state = .idle ∨ x.state = .halted ∨ x.state = .paused then
      setDma s k (if tick then { x with tick := v.toNat % 2 ^ 21 } else { x with desc := fld v.toNat 6 42 * 64 })
    else bump s .dmaRej k)

/-- A fetch that fails (R246): no status is written, the channel halts, and DMA_CH_ERR has KIND 3. -/
def fetchFailed (s : State) (k a st : Nat) : State := haltDma (updDma s k fun x => noteErr x a st 3) k

/-- SCUR and DCUR of a descriptor that completes as BAD_DESC (R247); a reserved MODE has no extent, and leaves free values. [log 57: DEDUCED] -/
def badCurs (s : State) (k : Nat) : State :=
  let x := getDma s k
  if ddMode x.cur ≤ 6 then setCurs (setDma s k { x with src0 := startSrc x, dst0 := startDst x }) k
  else
    let (a, s) := takeFree s 48
    let (b, s) := takeFree s 48
    setDma s k { x with scur := a, dcur := b }

/-- R246, R254: the fetch of a descriptor, or of the LINK of the one it is parked on. -/
def execDmaDescFetch (e : Fin 28) (c : Fin 16) (s : State) : Res :=
  let k := dmaNo e c
  let x := getDma s k
  if x.state != .fetch || dmaGate s k != 0 then .next s
  else if dmaCut s k x.desc then .next (fetchFailed (takeSeq s (dmaPort k)) k (if x.linkOnly then x.desc + 24 else x.desc) 4)
  else if x.linkOnly then
    match memRead (takeSeq s (dmaPort k)) (some (dmaPart s k)) (x.desc + 24) 8 with
    | (0, bs, s) =>
      let l := ofLe bs
      if bit l 0 then .next (park s k true)
      else .next (setDma s k { x with desc := fld l 6 42 * 64, linkOnly := false })
    | (st, _, s) => .next (fetchFailed s k (x.desc + 24) st)
  else
    match memRead (takeSeq s (dmaPort k)) (some (dmaPart s k)) x.desc 64 with
    | (0, bs, s) =>
      let x := { x with
        cur := bs, late := false, pos := 0, wrErr := 0, rdErr := 0, fstat := 0, wrote := [], wroteO := [], seqs := [], endCode := 0 }
      let s := setDma s k x
      if !ddOwn bs then .next (park s k false)
      else if !ddOk s k x then .next (completeDesc (badCurs s k) k 0x10 0 (ddLand bs) true)
      else .next (testTrigger s k)
    | (st, _, s) => .next (fetchFailed s k x.desc st)

/-- R251: the due instant of a descriptor: it starts on time, starts late, or is skipped. -/
def execDmaTrigger (e : Fin 28) (c : Fin 16) (s : State) : Res :=
  let k := dmaNo e c
  let x := getDma s k
  if x.state != .waitTrig || !(x.late || isDue s k x) || dmaGate s k != 0 then .next s
  else
    let ticked := ddTrig x.cur = 1 ∨ ddTrig x.cur = 2
    let x := { x with tick := if ticked then x.trigN else x.tick }
    let s := if x.late then bump s .dmaLate k else s
    let a := startSrc x
    let b := startDst x
    if x.late && bit (ddCtl x.cur) 7 then
      .next (completeDesc (setCurs (setDma s k { x with src0 := a, dst0 := b }) k) k 0x02 0 (ddLand x.cur) false)
    else
      .next (setDma s k { x with state := .active, pos := 0, src0 := a, dst0 := b, scur := a, dcur := b })

/-- R252: the rest of the descriptor's data is moved, and the descriptor completes once that has left or, with LAND = 1, landed. [log 58: DESIGN CHOICE] -/
def execDmaDescComplete (e : Fin 28) (c : Fin 16) (s : State) : Res :=
  let k := dmaNo e c
  let x := getDma s k
  if dmaGate s k != 0 then .next s
  else if x.state = .active then .next (finishDesc (moveUnits s k (unitsOf x.cur) (unitsOf x.cur + 1)) k)
  else if x.state = .completing then .next (finishDesc s k)
  else .next s

end Sys2Proof.Machine
end

