-- ==== Sys2Proof/Machine/Dovetail.lean ====
section
/-!
DEFINITION. The Dovetail scheduler's rows (09_dovetail): DV.ENQ, DV.GET, DV.REL, DV.CXL, arrivals, staging, retries and configuration.
-/
namespace Sys2Proof.Machine

/-- The 32-byte record of an item (R207). -/
def itemRecord (it : Item) : List Byte :=
  leBytes it.tag.toNat 8 ++
  leBytes (it.flow + it.level % 16 * 2 ^ 18 + it.kind % 32 * 2 ^ 22 + b2n it.tomb * 2 ^ 27) 4 ++
  leBytes it.seq 4 ++ leBytes it.arg0.toNat 8 ++ leBytes it.arg1.toNat 8

/-- The item a register's handle names: bits 61:0 (R210). -/
def itemOfReg (s : State) (v : Word) : Option Item := itemByHdl s (BitVec.ofNat 64 (v.toNat % 2 ^ 62))

/-- The die that a register's handle names: bit 61 (R210). [log 53: DEDUCED] -/
def handleDie (v : Word) : Nat := fld v.toNat 61 1

/-- Writes a g register of a core in the state. -/
def setG (s : State) (c i : Nat) (v : Word) : State := updCore s c fun x => gWrite x i v

/-- The effect of DV.ENQ (R210). -/
def dvEnq (s : State) (c rd rs1 : Nat) : State :=
  let p := corePartN s c
  let a := (gRead (getCore s c) rs1).toNat
  let bad := fun (s : State) => setG (bump s .dvEnqRej (dvBank p (coreDie c))) c rd 6
  if a % 32 ≠ 0 then bad s
  else match memRead s (some p) a 32 with
    | (0, bs, s') =>
      match enqueue s' p (recordItem bs) with
      | (0, s'', some it) => setG s'' c rd (handleWord it.hdl)
      | (r, s'', _) => setG s'' c rd (BitVec.ofNat 64 r)
    | (_, _, s') => bad s'

/-- R210: DV.ENQ has Dovetail read the record and accept the item or refuse it with a reason. -/
def execDvEnq (c : Fin 112) (rd rs1 : BitVec 5) (imm : BitVec 10) (s : State) : Res :=
  .next (instr s c (wordX 0x3E rd.toNat rs1.toNat 0x10 imm.toNat) (imm == 0) false true fun s =>
    .ok (dvEnq s c rd.toNat rs1.toNat))

/-- The bin of a waiting time (R219). -/
def waitBin (w : Nat) : Nat := if w < 128 then 0 else if w < 2 ^ 21 then log2 w - 6 else 15

/-- Hands the oldest staged item of a core to it (R212, R219): it is running, its wait and the core's load are counted. -/
def dispatch (s : State) (c p : Nat) (it : Item) : State :=
  let s := updItem s it.id fun x => { x with place := .running c, getNs := upNs s }
  let s := bump s .dvWaitHist (16 * dvBank p (flowDie it.flow) + waitBin (upNs s - it.readyNs))
  let d := getDvCore s c
  setDvCore s c { d with curItems := d.curItems + 1, busySince := some (d.busySince.getD (upNs s)) }

/-- The effect of DV.GET (R212, R220). [log 55: DEDUCED] -/
def dvGet (s : State) (c rd : Nat) : State :=
  let p := corePartN s c
  let s := (stagedOn s c).foldl (fun s it => settleItem s p it) s
  match oldestStaged s c with
  | none => setG s c rd 0
  | some it =>
    if (runningOn s c).length ≥ 4 then setG s c rd (BitVec.ofNat 64 (2 ^ 62))
    else
      let a := (getDvCore s c).mbox
      match memWrite s (some p) a (itemRecord it) with
      | (0, _, s') => setG (dispatch s' c p it) c rd (handleWord it.hdl)
      | (_, _, s') =>
        setG (setIp (updCore s' c fun x => { x with faberr := BitVec.ofNat 64 a, fabCnt := x.fabCnt + 1 }) c 5) c rd 0

/-- R212: DV.GET takes the older staged item, writes its record to the mailbox and returns its handle. -/
def execDvGet (c : Fin 112) (rd rs1 : BitVec 5) (imm : BitVec 10) (s : State) : Res :=
  .next (instr s c (wordX 0x3E rd.toNat rs1.toNat 0x11 imm.toNat) (rs1 == 0 && imm == 0) false true fun s =>
    .ok (dvGet s c rd.toNat))

/-- Counts an item whose run exceeded its budget (R429). -/
def countBudget (s : State) (p c : Nat) (it : Item) : State :=
  match it.budget with
  | some b => if runCycles s c (upNs s - it.getNs) > b then bump s .tickBudgetExc p else s
  | none => s

/-- The running item of core `c` that a register's handle names. [log 53: DEDUCED] -/
def heldItem (s : State) (c : Nat) (v : Word) : Option Item :=
  match itemOfReg s v with
  | some it => if it.place = .running c then some it else none
  | none => none

/-- The effect of DV.REL (R213): a deadline that has closed acts first (R29). [log 53: DEDUCED] -/
def dvRel (s : State) (c gt rs1 code : Nat) : State :=
  let p := corePartN s c
  let v := gRead (getCore s c) rs1
  let s := match heldItem s c v with
    | some it => settleItem s p it
    | none => s
  match heldItem s c v with
  | none => bump s .dvRelBad (dvBank p (handleDie v))
  | some it =>
    let s := countBudget s p c it
    let it := if gt = 0 then it else { it with tag := gRead (getCore s c) gt }
    noteIdle (releaseItem s (if code = 0 then it else toTomb it code)) c

/-- R213: DV.REL releases a running item, as an ordinary item or as a tombstone. -/
def execDvRel (c : Fin 112) (rd rs1 : BitVec 5) (imm : BitVec 10) (s : State) : Res :=
  .next (instr s c (wordX 0x3E rd.toNat rs1.toNat 0x12 imm.toNat)
    (imm.toNat < 256 && (imm == 0 || 0xC0 ≤ imm.toNat)) false true fun s =>
    .ok (dvRel s c rd.toNat rs1.toNat imm.toNat))

/-- The effect of DV.CXL (R216, R217). [log 22: DEDUCED; log 53: DEDUCED] -/
def dvCxl (s : State) (c rd rs1 : Nat) : State :=
  let p := corePartN s c
  let miss := fun (s : State) => setG (bump s .dvCxlMiss (dvBank p (handleDie (gRead (getCore s c) rs1)))) c rd 0
  match itemOfReg s (gRead (getCore s c) rs1) with
  | none => miss s
  | some it =>
    if !ownsFlow s p it.flow then miss s
    else if isWaiting it then setG (bump (abortItem s it 0x81) .dvCxlPre (dvBank p (flowDie it.flow))) c rd 1
    else if isRunning it then setG (bump (abortItem s it 0x81) .dvCxlRun (dvBank p (flowDie it.flow))) c rd 2
    else miss s

/-- R216: DV.CXL cancels a queued, staged or running item. [log 22: DEDUCED] -/
def execDvCxl (c : Fin 112) (rd rs1 : BitVec 5) (imm : BitVec 10) (s : State) : Res :=
  .next (instr s c (wordX 0x3E rd.toNat rs1.toNat 0x13 imm.toNat) (imm == 0) false true fun s =>
    .ok (dvCxl s c rd.toNat rs1.toNat))

/-- R209: an item from an external source reaches a flow; a refusal is counted and raises DV_LOSS_EVT. -/
def execDvItemArrive (p : Fin 4) (flow : BitVec 18) (kind : Fin 10) (prio : Option (Fin 16)) (tag arg0 arg1 : Word) (s : State) : Res :=
  .next (enqueueExt s p
    { flow := flow.toNat, kind := kind, prio := prio.map fun x => x.val, tag := tag, arg0 := arg0, arg1 := arg1 }).2.1

/-! ### Staging (R211) -/

/-- Has the core a free staging entry: fewer than two items staged, not held in reset or stopped, its domain not in S3 or FAILED (R354)? -/
def hasEntry (s : State) (c : Nat) : Bool :=
  let r := (getCore s c).run
  (stagedOn s c).length < 2 && (r == .running || r == .waiting) &&
    match coreDom c with
    | none => true
    | some d =>
      match (getDom s d).state with
      | .s3 => false
      | .failed => false
      | _ => true

/-- Is the core's domain awake? -/
def coreAwake (s : State) (c : Nat) : Bool :=
  match coreDom c with
  | none => true
  | some d => (getDom s d).state == .awake

/-- The cores of the item's die that may take it, in ascending number. -/
def takers (s : State) (it : Item) : List Nat :=
  let p := (flowOwner s it.flow).getD 4
  let x := getFlow s it.flow
  ((upFrom 0 112).filter fun c => admits s x it.flow p c && hasEntry s c)

/-- Is core `a` chosen before core `b` (R211): awake, larger weight, fewer items, lower number? -/
def coreBefore (s : State) (a b : Nat) : Bool :=
  let key := fun c => (b2n (!coreAwake s c), 16 - (getCore s c).weight, (stagedOn s c).length + (runningOn s c).length, c)
  let (a1, a2, a3, a4) := key a
  let (b1, b2, b3, b4) := key b
  a1 < b1 || (a1 == b1 && (a2 < b2 || (a2 == b2 && (a3 < b3 || (a3 == b3 && a4 < b4)))))

/-- The core an item goes to. -/
def bestCore (s : State) (l : List Nat) : Option Nat :=
  l.foldl (fun b c => match b with
    | none => some c
    | some d => if coreBefore s c d then some c else some d) none

/-- The item staged next on a die: of the highest level, and within it the earliest arrival, among those some core can take. -/
def stageItem (s : State) (die : Nat) : Option Item :=
  (s.dv.items.filter fun it => flowDie it.flow == die && isReady s it && !(takers s it).isEmpty).foldl
    (fun b it => match b with
      | none => some it
      | some x => if it.level > x.level then some it else some x) none

/-- R211: Dovetail stages the best ready item onto a core with a free staging entry, and asks for the wake of a sleeping domain. -/
def execDvStage (die : Fin 2) (s : State) : Res :=
  match stageItem s die with
  | none => .next s
  | some it =>
    match bestCore s (takers s it) with
    | none => .next s
    | some c =>
      let o := s.dv.nextOrd
      let s := updItem s it.id fun x => { x with place := .staged c o }
      let s := { s with dv := { s.dv with nextOrd := o + 1 } }
      match coreDom c with
      | some d => .next (wakeReq s d false 1)
      | none => .next s

/-- R215: a held leaving item is offered again to its successor. -/
def execDvFwdRetry (flow : BitVec 18) (s : State) : Res := .next (retryHeld s flow.toNat)

/-! ### Configuration (R206, R214) -/

/-- The configuration that a write of bytes 3:0 would put in force (R205). -/
def flowConfig (x : Flow) (w : Nat) : Flow :=
  { x with
    raw0 := w, valid := bit w 0, kind := fld w 1 2, open_ := bit w 3, tfwd := bit w 4, whole := bit w 5, replay := bit w 6
    dprio := fld w 8 4, cset := fld w 16 4, next := fld x.raw1 0 18, nextEn := bit x.raw1 31, qmax := fld x.raw2 0 16 }

/-- Is the new configuration of flow `f` of partition `p` accepted (R206)? -/
def flowConfigOk (s : State) (p f : Nat) (o n : Flow) : Bool :=
  let q := qcount s f
  ownsFlow s p f && n.kind != 3 && n.qmax != 0 &&
  !(n.nextEn && (!ownsFlow s p n.next || n.next == f)) &&
  !(q > 0 && (n.kind != o.kind || n.cset != o.cset || n.next != o.next || n.nextEn != o.nextEn || n.whole != o.whole || (o.valid && !n.valid))) &&
  decide (q ≤ n.qmax)

/-- R206: a write of bytes 3:0 of a flow context reads and checks the configuration, and accepts or refuses it. -/
def execDvFlowCfgWrite (who : Agent) (flow : BitVec 18) (val : BitVec 32) (s : State) : Res :=
  let f := flow.toNat
  let go := fun (p : Nat) =>
    let o := getFlow s f
    let n := flowConfig o val.toNat
    if flowConfigOk s p f o n then
      let n := if !o.valid && n.valid then { n with seqNext := 0, seqOut := 0, enqCnt := 0, outCnt := 0, tombCnt := 0, rejCnt := 0 } else n
      done (setFlow s f n)
    else done (bump s .dvCfgRej (dvBank p (flowDie f)))
  if dieOut s (flowDie f) then .next (answer s 4 0)
  else match who with
  | .host _ => .next (foreign s)
  | .part p => .next (go p)
  | .mc => .next (go ((flowOwner s f).getD 4))

/-- Do all cores that a core-set value names belong to the partition (R214)? -/
def csetOk (s : State) (die p v : Nat) : Bool := (upFrom 0 56).all fun j => !bit v j || ownsCore s p (globalCore die j)

/-- Raises DV_CSET_EMPTY where the eligible weight of a set has fallen from `old` (for any core, for whole cores) to 0 while a flow
that names it holds ready items (R214). -/
def csetEmpty (s : State) (die p k : Nat) (old : Nat × Nat) : State :=
  if [(false, old.1), (true, old.2)].any fun e => e.2 != 0 && csetElig s die p k e.1 == 0 && csetWaits s die p k e.1 then
    raisePart s p 0x0701 k 0
  else s

/-- R214: a write to DV_CSETs sets a core set, or is refused where it names a core outside the partition. -/
def execDvCsetWrite (who : Agent) (die : Fin 2) (p : Fin 4) (set : Fin 16) (val : Word) (s : State) : Res :=
  if dieOut s die then .next (answer s 4 0)
  else if !mayTouch who (some p.val) then .next (foreign s)
  else
    let v := val.toNat % 2 ^ 56
    if csetOk s die p v then
      let old := (csetElig s die p set false, csetElig s die p set true)
      let s := { s with dv := { s.dv with csets := tset s.dv.csets (64 * die.val + 16 * p.val + set.val) v } }
      .next (done (csetEmpty s die p set old))
    else .next (done (bump s .dvCfgRej (dvBank p die)))

end Sys2Proof.Machine
end

