-- ==== Sys2Proof/Machine/Fec.lean ====
section
/-!
DEFINITION. The coding of a lane (R37, R38, R40, R45): the field GF(2^10), the RS(544,514) code and its decoder, the order of bits and
PAM4 levels, and the pseudo-random sequences of gaps and test patterns.
-/
namespace Sys2Proof.Machine

/-! ### GF(2^10) with x^10 + x^3 + 1 (R37) -/

/-- A field element times x. [log 91: PRESUMED] -/
def rsX (a : Nat) : Nat := if bit a 9 then (a * 2 % 1024) ^^^ 9 else a * 2

/-- The product of two field elements; the last argument counts the bits of `b` still to be used. -/
def rsMulBits (a b : Nat) : Nat → Nat
  | 0 => 0
  | k + 1 => (if bit b 0 then a else 0) ^^^ rsMulBits (rsX a) (b / 2) k

def rsMul (a b : Nat) : Nat := rsMulBits a b 10

/-- The powers `a ^ 2, a ^ 4, …, a ^ (2 ^ k)` multiplied together. -/
def rsSquares (a : Nat) : Nat → Nat
  | 0 => 1
  | k + 1 => let b := rsMul a a; rsMul b (rsSquares b k)

/-- The inverse `a ^ 1022` of a nonzero element. -/
def rsInv (a : Nat) : Nat := rsSquares a 9

/-- x to the power `k`, the code's primitive element. -/
def rsPow : Nat → Nat
  | 0 => 1
  | k + 1 => rsX (rsPow k)

/-- A polynomial, constant term first, at `x`. -/
def rsEval (p : List Nat) (x : Nat) : Nat := p.foldr (fun c v => c ^^^ rsMul v x) 0

/-! ### RS(544,514) (R37) -/

/-- The generator polynomial without its leading 1, constant term first: its roots are x^0 to x^(k-1). [log 91: PRESUMED] -/
def rsGen : Nat → List Nat
  | 0 => []
  | k + 1 =>
    let g := rsGen k ++ [1]
    let shifted := 0 :: g
    ((upFrom 0 (k + 1)).map fun i => lget shifted 0 i ^^^ rsMul (rsPow k) (lget g 0 i))

/-- One payload symbol enters the encoder's remainder (constant term first). -/
def rsShift (g rem : List Nat) (m : Nat) : List Nat :=
  let f := m ^^^ lget rem 0 29
  (upFrom 0 30).map fun i => (if i = 0 then 0 else lget rem 0 (i - 1)) ^^^ rsMul f (lget g 0 i)

/-- A codeword: the 514 payload symbols, then the 30 check symbols (R38). -/
def rsEncode (pay : List Nat) : List Nat :=
  let g := rsGen 30
  pay ++ (pay.foldl (rsShift g) (List.replicate 30 0)).reverse

/-- Syndrome `j` of a received word, whose first symbol has the highest power. -/
def rsSyndrome (w : List Nat) (j : Nat) : Nat :=
  let a := rsPow j
  w.foldl (fun v c => rsMul v a ^^^ c) 0

def rsSyndromes (w : List Nat) : List Nat := (upFrom 0 30).map (rsSyndrome w)

/-- Two polynomials added. -/
def rsAdd (a b : List Nat) : List Nat := (upFrom 0 (max a.length b.length)).map fun i => lget a 0 i ^^^ lget b 0 i

/-- The error locator in progress (Berlekamp and Massey): the locator, the one before its last change of length, its length, the steps since
that change and the discrepancy then. -/
structure RsLoc where
  c : List Nat := [1]
  b : List Nat := [1]
  len : Nat := 0
  m : Nat := 1
  disc : Nat := 1
deriving DecidableEq, Repr

/-- One step of the locator's search, with syndrome `n`. -/
def rsLocStep (syn : List Nat) (x : RsLoc) (n : Nat) : RsLoc :=
  let d := ((upFrom 0 (x.len + 1)).map fun i => rsMul (lget x.c 0 i) (lget syn 0 (n - i))).foldl (· ^^^ ·) 0
  if d = 0 then { x with m := x.m + 1 }
  else
    let k := rsMul d (rsInv x.disc)
    let c := rsAdd x.c (List.replicate x.m 0 ++ x.b.map (rsMul k))
    if 2 * x.len ≤ n then { c := c, b := x.c, len := n + 1 - x.len, m := 1, disc := d } else { x with c := c, m := x.m + 1 }

/-- The value of the error at locator `v` (Forney). -/
def rsErrVal (syn loc : List Nat) (v : Nat) : Nat :=
  let i := rsInv v
  let om := (upFrom 0 30).map fun k => ((upFrom 0 (k + 1)).map fun j => rsMul (lget loc 0 j) (lget syn 0 (k - j))).foldl (· ^^^ ·) 0
  let der := (upFrom 0 loc.length).map fun k => if k % 2 = 0 then lget loc 0 (k + 1) else 0
  rsMul v (rsMul (rsEval om i) (rsInv (rsEval der i)))

/-- The received word corrected, and how many symbols were; `none` where more than 15 are wrong (R37). -/
def rsDecode (w : List Nat) : Option (List Nat × Nat) :=
  let syn := rsSyndromes w
  if syn.all (· == 0) then some (w, 0)
  else
    let x := (upFrom 0 30).foldl (rsLocStep syn) {}
    let at_ := (upFrom 0 544).filter fun p => rsEval x.c (rsInv (rsPow (543 - p))) == 0
    let w' := at_.foldl (fun w p => lset w p (lget w 0 p ^^^ rsErrVal syn x.c (rsPow (543 - p)))) w
    if at_.length = x.len ∧ x.len ≤ 15 ∧ (rsSyndromes w').all (· == 0) then some (w', at_.length) else none

/-! ### Order of bits and PAM4 levels (R38) -/

/-- The level of a pair of bits A, B. -/
def pamLevel (a b : Bool) : Nat := 2 * b2n a + b2n (a != b)

/-- The bits A, B of a level. -/
def pamBits (l : Nat) : List Bool := [bit l 1, bit l 1 != bit l 0]

/-- The bits of a unit stream: bytes in ascending order, bit 0 first. -/
def streamBits (bs : List Byte) : List Bool := bs.flatMap bitsLsb

/-- The number whose bits are `l`, bit 0 first. -/
def bitsNat : List Bool → Nat
  | [] => 0
  | b :: r => b2n b + 2 * bitsNat r

/-- A list cut into groups of `k`. -/
def groupsOf {α : Type} (k : Nat) : Nat → List α → List (List α)
  | 0, _ => []
  | _, [] => []
  | f + 1, l => l.take k :: groupsOf k f (l.drop k)

/-- The 10-bit symbols of a bit string, bit 0 first. -/
def rsSymbols (b : List Bool) : List Nat := (groupsOf 10 b.length b).map bitsNat

/-- The bits of a symbol, bit 0 first. -/
def symBits (v : Nat) : List Bool := (upFrom 0 10).map (bit v)

/-- The levels that carry a bit string. -/
def pamLevels (b : List Bool) : List Nat := (groupsOf 2 b.length b).map fun p => pamLevel (lget p false 0) (lget p false 1)

/-- The levels that carry one codeword's payload of 5,140 bits. -/
def laneLevels (pay : List Bool) : List Nat := pamLevels ((rsEncode (rsSymbols pay)).flatMap symBits)

/-- Cuts whole payloads of 5,140 bits off a bit stream: the levels of their codewords, and the bits that remain (R37, R38). -/
def cutCodewords : Nat → List Bool → List (List Nat) × List Bool
  | 0, b => ([], b)
  | k + 1, b =>
    if b.length < 5140 then ([], b)
    else
      let (l, r) := cutCodewords k (b.drop 5140)
      (laneLevels (b.take 5140) :: l, r)

/-- The symbols that 2,720 received levels carry; level j stands in bits 2j+1:2j of the word. -/
def rxSymbols (w : BitVec 5440) : List Nat :=
  rsSymbols ((upFrom 0 2720).flatMap fun j => pamBits (fld w.toNat (2 * j) 2))

/-- What the decoder makes of the received levels of one codeword: the corrected word and the number of symbols corrected, or `none` where it is
uncorrectable (R37). -/
def fecWord (w : BitVec 5440) : Option (List Nat × Nat) := rsDecode (rxSymbols w)

/-- The number of symbols corrected in a codeword. -/
def fecDecode (w : BitVec 5440) : Option Nat := (fecWord w).map fun p => p.2

/-! ### Sequences (R40, R45) -/

/-- One bit of a sequence x^a + x^b + 1: the register's latest bit is bit 0. -/
def seqBit (a b r : Nat) : Bool × Nat :=
  let q := bit r (a - 1) != bit r (b - 1)
  (q, (r * 2 + b2n q) % 2 ^ a)

/-- The next byte of the gap sequence x^23 + x^18 + 1, bit 0 first (R40). -/
def gapSeqByte (r : Nat) : Nat → Nat × Nat
  | 0 => (0, r)
  | k + 1 =>
    let (q, r') := seqBit 23 18 r
    let (v, r'') := gapSeqByte r' k
    (b2n q + 2 * v, r'')

/-- `k` bytes of the gap sequence. -/
def gapSeq (r : Nat) : Nat → List Byte × Nat
  | 0 => ([], r)
  | k + 1 =>
    let (v, r') := gapSeqByte r 8
    let (l, r'') := gapSeq r' k
    (BitVec.ofNat 8 v :: l, r'')

/-- The next bit of a test pattern from the latest 31 bits (bit 0 the latest): pattern 1 is PRBS13, pattern 2 PRBS31, which is sent inverted (R45).
[log 91: PRESUMED] -/
def prbsBit (pat r : Nat) : Bool :=
  if pat = 1 then (bit r 0 != bit r 1) != (bit r 11 != bit r 12) else bit r 27 == bit r 30

/-- Is a register the one from which a pattern never moves: no one in PRBS13, no zero in PRBS31? -/
def prbsStuck (pat r : Nat) : Bool := if pat = 1 then r % 2 ^ 13 == 0 else r == 2 ^ 31 - 1

/-- The latest 31 bits after one more. -/
def prbsShift (r : Nat) (q : Bool) : Nat := (r * 2 + b2n q) % 2 ^ 31

/-- The next symbol's bits A, B, and the register after them. [log 29: DEDUCED] -/
def prbsNext (pat r : Nat) : Bool × Bool × Nat :=
  let a := prbsBit pat r
  let r' := prbsShift r a
  let b := prbsBit pat r'
  (a, b, prbsShift r' b)

end Sys2Proof.Machine
end

