-- ==== Sys2Proof/Machine/FrameTx.lean ====
section
/-!
DEFINITION. The sending side of the line frame and the port's commands (03_line_frame): frames, slots, the egress aperture, the stream table.
-/
namespace Sys2Proof.Machine

/-- A packet as it is sent on the packet channel: padded to 60 bytes, with its FCS; empty where it is longer than R67 allows. -/
def pktFrame (bs : List Byte) : List Byte :=
  let b := bs ++ leBytes 0 (60 - bs.length)
  if 1532 < b.length then [] else b ++ fcsOf b

/-- Takes the next chunk of the packet channel (R67); `tout` is the actual start of the frame (R68). [log 35: DEDUCED] -/
def nextChunk (s : State) (m tout : Nat) : List Byte × State :=
  let p := getFh s m
  let (cur, sop, s) : List Byte × Bool × State :=
    if p.pktTxCur.isEmpty then
      match p.pktTx with
      | o :: r =>
        let (bs, s') := emitPtp (setFh s m { p with pktTx := r }) o m tout
        (pktFrame bs, true, s')
      | [] => ([], false, s)
    else (p.pktTxCur, false, s)
  if cur.isEmpty then (leBytes 0 32, s)
  else
    let b := cur.take 31
    let r := cur.drop 31
    let h := b2n sop * 128 + b2n r.isEmpty * 64 + b.length
    (leBytes h 1 ++ b ++ leBytes 0 (31 - b.length), updFh s m fun x => { x with pktTxCur := r })

/-- The bytes of a gap with `k` filler units, from the sequence's register `r` (R40): the header, then units 1 to 47 and the fillers. [log 29: DEDUCED] -/
def gapBytes (k r : Nat) : List Byte × Nat :=
  let (l, r') := gapSeq r (16 * (47 + k))
  (gapHeader k ++ l, r')

/-- A frame as lane `l` has sent it (R53, R56, R59). -/
def sentFrame (p : FhPort) (l : Nat) : List Byte :=
  (if l = 0 then p.txOhW else p.txOhP) ++ scramble (scrSeed p.txNum) (payloadOf p.txSecs)

/-- Units enter the lane's stream of codewords (R37, R38). -/
def sendUnits (x : Lane) (bs : List Byte) : Lane :=
  let (l, r) := cutCodewords bs.length (x.txRest ++ streamBits bs)
  { x with txCws := l, txRest := r }

/-- The gap that ends the frame in progress on one lane, and the unit on which the next frame starts (R40 to R42); frame and gap make up the codewords
of the frame period. `u`: the first unit boundary at or after the scheduled start. Without a frame in progress there is no gap. -/
def sendGap (s : State) (n u : Nat) : Nat × State :=
  let x := getLane s n
  match x.unitEnd with
  | none => (u, s)
  | some e =>
    let g : Int := (u : Int) - e - 48
    let k := (clampInt g 0 2).toNat
    let start := e + 48 + k
    let (out, r) := gapBytes k x.gapReg
    let x := sendUnits x (sentFrame (getFh s (n / 2)) (n % 2) ++ out)
    let s := setLane s n { x with gapN := k, gapOut := out, gapReg := r, unitEnd := none, txEnding := false }
    if (k : Int) = g then (start, s)
    else
      let s := bump s .lnRateOor n
      (start, if ((start : Int) - u).natAbs > 8 then raiseOwner s (laneOwner s n) 0x0200 n 0 else s)

/-- One lane's part of a frame start on unit `start`: its overhead (R41, R48, R54, R57, R59, R76, R80). -/
def laneFrame (s : State) (m l start : Nat) (num bip sr1 sr2 : Nat) (gain pkt : List Byte) : List Byte × State :=
  let n := 2 * m + l
  if laneSends s n then
    let s := updLane s n fun x => { x with unitStart := start, unitEnd := some (start + 12500) }
    let r := getRx s n
    let stat := r.rei % 16 + 16 * b2n (fld r.defs 0 4 != 0)
    let oh := if (getFh s m).aisNow then aisOverhead else mkOverhead num bip sr1 sr2 stat gain pkt
    (oh, setRx s n { r with rei := 0 })
  else ([], s)

/-- The units by which the clamp moves a port's frame from its schedule: those of the lane that starts first, of the lanes that send (R42, R63).
[log 32: DEDUCED] -/
def frameMove (s : State) (m : Nat) (w q : Int) : Int :=
  if laneSends s (2 * m) && laneSends s (2 * m + 1) then min w q
  else if laneSends s (2 * m) then w else if laneSends s (2 * m + 1) then q else 0

/-- R41, R45, R48: the scheduled start of a port's next frame. The frame in progress and its gap end; a new TX_MODE and TX_AIS take effect, an entry to
sleep may begin, and each lane that sends starts its frame. `unitW` and `unitP` number the first unit boundary of W and P at or after the scheduled
start. [log 32: DEDUCED] -/
def execFrameTxStart (m : Fin 32) (unitW unitP : Nat) (s : State) : Res :=
  let mode := fun (s : State) (n : Nat) => updLane s n fun x => { x with txModeNow := x.txMode }
  let s := mode (mode s (2 * m.val)) (2 * m.val + 1)
  let p := getFh s m
  let (startW, s) := sendGap s (2 * m.val) unitW
  let (startP, s) := sendGap s (2 * m.val + 1) unitP
  if !p.en then
    .next (updFh s m fun p => { p with txOn := false, txOhW := [], txOhP := [], aisNow := p.txAis })
  else
    let num := frameNow s
    let bip := if p.txOn then sentBip p.txNum p.txSecs else 0
    let bipW := if p.txOhW.isEmpty then 0 else bip
    let bipP := if p.txOhP.isEmpty then 0 else bip
    let gain := gainBytes s m
    let s := setFh s m { p with aisNow := p.txAis }
    let at_ := ((s.now : Int) + frameMove s m ((startW : Int) - unitW) ((startP : Int) - unitP) * 1280 / 1028).toNat
    let (pkt, s) := if p.txAis then (leBytes 0 32, s) else nextChunk s m at_
    let r := localReq s m
    let sr1 := r.2 + r.1 * 16
    let sr2 := p.sel + 2 * b2n p.bidir
    let (ohW, s) := laneFrame s m 0 startW num bipW sr1 sr2 gain pkt
    let (ohP, s) := laneFrame s m 1 startP num bipP sr1 sr2 gain pkt
    .next (updFh s m fun x => { x with
      txOn := true, txNum := num, txStart := at_ % 2 ^ 32, txSlot := 0, txSecs := [], txOhW := ohW, txOhP := ohP })

/-- Discards late heads of the egress buffer for a slot stamped `t` (R66): what remains, and how many were late. -/
def dropLate (t : Nat) : List EgSec → List EgSec × Nat
  | [] => ([], 0)
  | e :: r =>
    if isLate t e.close then
      let (l, k) := dropLate t r
      (l, k + 1)
    else (e :: r, 0)

/-- R59, R66: the framer compares the head of the egress buffer with the next slot: an early head waits, one inside its window is sent
(under AIS it waits), a late one is discarded and the next head considered. -/
def execFhSlotTx (m : Fin 32) (s : State) : Res :=
  let p := getFh s m
  if !p.en || !p.txOn || 3332 ≤ p.txSlot then .next s
  else
    let t := slotStamp p.txStart p.txSlot
    let (l, k) := dropLate t p.eg
    let s := bumpBy s .fhTxLate m k
    let send := fun (l : List EgSec) (secs : Tab (List Byte)) =>
      egRefill (setFh s m { p with eg := l, txSlot := p.txSlot + 1, txSecs := secs }) m (p.egWait.length + 1)
    match l with
    | [] => .next (send [] p.txSecs)
    | e :: r =>
      if isEarly t e.open_ || p.aisNow then .next (send (e :: r) p.txSecs)
      else .next (send r (tset p.txSecs p.txSlot e.bytes))

/-- R65, R66: a stream write to a port's egress aperture is checked and queued, or held while the buffer is full. -/
def execFhEgressWrite (who : Agent) (m : Fin 32) (bytes : List Byte) (s : State) : Res :=
  if !mayTouch who (fhOwner s m) then .next (foreign s)
  else
    let p := getFh s m
    if 4096 ≤ p.eg.length ∨ p.egWait ≠ [] then .next (done (setFh s m { p with egWait := p.egWait ++ [bytes] }))
    else .next (done (egAccept s m bytes))

/-! ### The stream table (R62) -/

/-- The entry that words 1 to 7 and a new word 0 hold. -/
def streamCfg (raw : Tab Nat) (w0 : Nat) : StreamCfg :=
  let w := fun i => tget raw 0 i
  { valid := bit w0 0, down := bit w0 1, v8 := bit w0 2, mu := fld w0 3 2, nprb := fld w0 16 16
    tOpen := sx (fld (w 1) 0 8) 8, tClose := sx (fld (w 1) 8 8) 8
    nOpen := sx (fld (w 1) 16 16 + fld (w 2) 0 16 * 65536) 32, nClose := sx (fld (w 2) 16 16 + fld (w 3) 0 16 * 65536) 32
    base := w 4 + fld (w 5) 0 16 * 2 ^ 32, stride := fld (w 6) 0 24, ring := fld (w 7) 0 16 }

/-- Are the reserved bits and bytes of an entry zero? [log 89: DEDUCED] -/
def streamRsvd (raw : Tab Nat) (w0 : Nat) : Bool :=
  let w := fun i => tget raw 0 i
  fld w0 5 11 == 0 && fld (w 3) 16 16 == 0 && fld (w 5) 16 16 == 0 && fld (w 6) 24 8 == 0 && fld (w 7) 16 16 == 0

/-- Is a VALID entry accepted (R62)? A normal-CP numerology always nests (R17). [log 87: DESIGN CHOICE] -/
def streamOk (s : State) (raw : Tab Nat) (w0 : Nat) : Bool :=
  let c := streamCfg raw w0
  let near := fun (x lo hi : Int) => decide (lo ≤ x ∧ x ≤ hi)
  streamRsvd raw w0 && 1 ≤ c.nprb && c.nprb ≤ 275 && near c.tOpen (-8) 8 && near c.tClose (-8) 8 &&
  near c.nOpen (-65536) 65535 && near c.nClose (-65536) 65535 && (c.down || c.ring != 0) &&
  windowOk s c.mu c.tOpen c.tClose c.nOpen c.nClose

/-- R62: a write of bytes 3:0 of an entry has it read and checked; a refused one leaves the previous entry in force. [log 87: DESIGN CHOICE] -/
def execStreamEntryWrite (who : Agent) (m : Fin 32) (a : Fin 1024) (val : BitVec 32) (s : State) : Res :=
  let o := fhOwner s m
  if !mayTouch who o then .next (foreign s)
  else
    let x := getStream s m a
    let c := streamCfg x.raw val.toNat
    if !c.valid || streamOk s x.raw val.toNat then .next (done (setStream s m a { x with cfg := c }))
    else .next (done (bump s .tickWinRej (o.getD 4)))

/-! ### Port commands (R59, R81, R86) -/

/-- A write of a port register: a foreign one has no effect. -/
def fhWrite (s : State) (who : Agent) (m : Nat) (f : State → State) : Res :=
  if mayTouch who (fhOwner s m) then .next (done (f s)) else .next (foreign s)

/-- R59: TX_AIS takes effect at the next frame start. -/
def execFhTxAis (who : Agent) (m : Fin 32) (on : Bool) (s : State) : Res :=
  fhWrite s who m fun s => updFh s m fun p => { p with txAis := on }

/-- A refused command (R81). -/
def cmdRej (s : State) (m : Nat) : State := updFh s m fun p => { p with cmdRej := true }

/-- R81, R86: CMD = LO; LANE is stored and ignored. -/
def execFhProtLockout (who : Agent) (m : Fin 32) (lane : Fin 2) (s : State) : Res :=
  fhWrite s who m fun s => updFh s m fun p => { p with cmd := 1, cmdLane := lane }

/-- R81: CMD = FS, refused towards a lane in signal fail and under LO. LO is active here while the local command is LO: R81 does not say that an LO
accepted from the remote end refuses a local command. [log 100: DESIGN CHOICE] -/
def execFhProtForcedSwitch (who : Agent) (m : Fin 32) (lane : Fin 2) (s : State) : Res :=
  fhWrite s who m fun s =>
    if laneFail s m lane || (getFh s m).cmd == 1 then cmdRej s m
    else updFh s m fun p => { p with cmd := 2, cmdLane := lane }

/-- R81: CMD = MS, refused towards a lane in signal fail or with SD set, and under LO. [log 100: DESIGN CHOICE] -/
def execFhProtManualSwitch (who : Agent) (m : Fin 32) (lane : Fin 2) (s : State) : Res :=
  fhWrite s who m fun s =>
    if laneFail s m lane || hasDef s (2 * m.val + lane.val) 5 || (getFh s m).cmd == 1 then cmdRej s m
    else updFh s m fun p => { p with cmd := 3, cmdLane := lane }

/-- R81, R86: CMD = 0 clears the active command; LANE is stored. -/
def execFhProtClear (who : Agent) (m : Fin 32) (lane : Fin 2) (s : State) : Res :=
  fhWrite s who m fun s => updFh s m fun p => { p with cmd := 0, cmdLane := lane }

/-- R86: FH_DEG_THR, refused where a threshold is out of range or SF_THR is not above SD_THR. -/
def execFhDegThrWrite (who : Agent) (m : Fin 32) (val : BitVec 32) (s : State) : Res :=
  fhWrite s who m fun s =>
    let sd := fld val.toNat 0 7
    let sf := fld val.toNat 8 7
    if sd = 0 ∨ 64 < sd ∨ sf = 0 ∨ 64 < sf ∨ sf ≤ sd then s
    else updFh s m fun p => { p with sdThr := sd, sfThr := sf }

/-- R86: FH_PKT_FLOW, refused where EN = 1 names a flow outside the partition's range. -/
def execFhPktFlowWrite (who : Agent) (m : Fin 32) (val : BitVec 32) (s : State) : Res :=
  fhWrite s who m fun s =>
    let f := fld val.toNat 0 18
    let en := bit val.toNat 31
    if en && !ownsFlow s ((fhOwner s m).getD 4) f then s
    else updFh s m fun p => { p with pktFlow := f, pktEn := en }

end Sys2Proof.Machine
end

