-- ==== Sys2Proof/Machine/Gain.lean ====
section
/-!
DEFINITION. The gain controller's loop and the Nose's sightings and reports (04_gain_and_nose).
-/
namespace Sys2Proof.Machine

/-! ### The loop (R89 to R91, R96) -/

/-- The filters after a tick's measurement (R90): a member without one starts from its level. -/
def newFilters (x : GcGrp) (tick : Nat) : Tab Frac :=
  (measured x tick).foldl (fun t m =>
    let l := membLevel x tick m
    tset t m (if thas x.filt m then filterStep (tget x.filt {} m) l x.avgSh else fracOf l)) x.filt

/-- Drops the measurements of ticks that lie more than 16 ticks back. -/
def pruneAcc (s : State) (x : GcGrp) : GcGrp := { x with acc := x.acc.filter fun y => decide (-16 ≤ tickDist s y.tick) }

/-- The change that a decision makes (R90), in 0.5 dB units: the attack rule first. [log 36: DESIGN CHOICE] -/
def decideStep (s : State) (x : GcGrp) (tick : Nat) : Int :=
  let p := tickSat x tick
  if s.gc.atkThr * p.2 ≤ p.1 * 1024 then x.stepMax else stepFor x x.lvl

/-- R89, R90: a tick's measurement of a group is complete: its filters move, and the loop may command a step. While the group is FIXED, and for ticks
before the step or fix end from which the filters start afresh, nothing moves. Before the members' windows for the tick have closed (R88) no measurement
is complete, and nothing happens. [log 37: DEDUCED] -/
def execGcMeasureComplete (g : Fin 256) (tick : BitVec 21) (s : State) : Res :=
  let x := getGrp s g
  let k := tick.toNat
  if measClosed s x k = false then .next s
  else if x.lastMeas = some k ∨ (measured x k).isEmpty then .next (setGrp s g { pruneAcc s x with lastMeas := some k })
  else if x.fix.isSome ∨ countOf s k < x.since then .next (setGrp s g { pruneAcc s x with lastMeas := some k })
  else
    let f := newFilters x k
    let x := { x with filt := f, lvl := maxFracs ((measured x k).map fun m => tget f {} m), lastMeas := some k }
    let a := newAtt x (decideStep s x k)
    let s := setGrp s g (pruneAcc s x)
    if x.en && !x.fault && (cmdPending x).isNone && a != x.att then
      .next (bump (issueCmd s g a (effTick s x) false) .gcSteps g)
    else .next s

/-- Raises the GC_STEP item of a command (R91). [log 38: DEDUCED] -/
def gcStepItem (s : State) (g : Nat) (c : GcCmd) (coh : Bool) : State :=
  (enqueueExt s ((gainOwner s g).getD 4)
    { flow := (getGrp s g).flow, kind := 7, tag := 0
      arg0 := BitVec.ofNat 64 (g + c.old * 2 ^ 8 + c.att * 2 ^ 16 + b2n coh * 2 ^ 24), arg1 := BitVec.ofNat 64 c.k }).2.1

/-- The member ranges of a command that have not returned ACCEPTED, one bit each. [log 38: DEDUCED] -/
def missingAcks (c : GcCmd) : Nat :=
  sumNat ((c.seqs.filter fun e => !c.acks.contains e.1).map fun e => 2 ^ e.1)

/-- Has the time come to check a command's acknowledgements: start(k) + GC_ACK_WAIT (R96)? -/
def ackDue (s : State) (c : GcCmd) : Bool :=
  decide (startOf s ((absTick s : Int) + c.kAt - s.tu.count) + (s.gc.ackWait : Int) ≤ s.now)

/-- A command that not every member port has acknowledged (R96): GC_INCOH is raised, and a restore issued; three restores that fail in a row put
the group into FAULT. `r`: the other commands. A restore goes out also where EN has been cleared meanwhile. [log 38: DEDUCED] -/
def ackMissed (s : State) (g : Nat) (c : GcCmd) (r : List GcCmd) : State :=
  let x := getGrp s g
  let bad := if c.restore then x.badRestores + 1 else x.badRestores
  let s := setGrp s g { x with cmds := r, badRestores := bad }
  let s := raiseOwner (bump s .gcNoack g) (gainOwner s g) 0x0400 (g + missingAcks c * 256) c.k
  let s := gcStepItem s g c false
  if c.restore ∧ bad ≥ 3 then raiseOwner (updGrp s g fun y => { y with fault := true }) (gainOwner s g) 0x0401 (g + missingAcks c * 256) c.k
  else if x.fault then s
  else issueCmd s g x.lastAtt (effTick s x) true

/-- R91, R96: the acknowledgements of the oldest command whose time has come are checked. One that a replacement cancelled only raises its
GC_STEP: what is missing is the replacement's to find. [log 37: DEDUCED] -/
def execGcAckCheck (g : Fin 256) (s : State) : Res :=
  let x := getGrp s g
  match x.cmds.find? (ackDue s) with
  | none => .next s
  | some c =>
    let r := x.cmds.erase c
    if c.cxl then .next (gcStepItem (setGrp s g { x with cmds := r }) g c (missingAcks c == 0))
    else if missingAcks c = 0 then
      .next (gcStepItem (setGrp s g { x with cmds := r, badRestores := if c.restore then 0 else x.badRestores }) g c true)
    else .next (ackMissed s g c r)

/-- R106: a write of GC_GRP_CFG0. STEP_MAX 0 stores 1, LEAD below 2 stores 2; EN = 0 clears FAULT, and enabling starts the filters afresh. -/
def execGcGrpCfg0Write (who : Agent) (g : Fin 256) (val : BitVec 32) (s : State) : Res :=
  if !mayTouch who (gainOwner s g) then .next (foreign s)
  else
    let v := val.toNat
    let x := getGrp s g
    let en := bit v 0
    .next (done (setGrp s g { x with
      en := en, target := sx (fld v 8 8) 8, hyst := fld v 16 4, stepMax := max 1 (fld v 20 5), lead := max 2 (fld v 25 5)
      tail := fld v 30 2, fault := x.fault && en, badRestores := if en then x.badRestores else 0
      filt := if en && !x.en then [] else x.filt }))

/-! ### Fixing and capture (R97, R98, R102, R105) -/

/-- A fix whose end has come is over (R97). -/
def settleFix (s : State) (g : Nat) : State :=
  let x := getGrp s g
  match x.fix with
  | some f => if f.stop + 1 ≤ s.tu.count then setGrp s g { x with fix := none, ref := {}, filt := [], since := f.stop + 1 } else s
  | none => s

/-- R97: the group leaves FIXED at the start of the tick after its fix end. -/
def execGcFixEnd (g : Fin 256) (s : State) : Res := .next (settleFix s g)

/-- One pending command of a group that enters FIXED (R98): a replacement cancels it if there is time and the group is not in FAULT (R96), else it
goes ahead. -/
def fixCmd (s : State) (g : Nat) (c : GcCmd) : State :=
  let x := getGrp s g
  if s.tu.count < c.kAt then
    if (s.now : Int) + s.gc.cxlMin ≤ startOf s ((absTick s : Int) + c.kAt - s.tu.count) ∧ x.fault = false then
      issueCmd (setGrp s g { x with cmds := x.cmds.map fun d => if d = c then { d with cxl := true } else d }) g x.att c.kAt false
    else setGrp s g { x with gstep := x.gstep ++ [c.kAt] }
  else s

/-- The group enters FIXED for a burst (R97), and every pending command is cancelled or goes ahead (R98). [log 37: DEDUCED; log 39: DESIGN CHOICE] -/
def enterFix (s : State) (g : Nat) (b : Burst) : State :=
  let x := getGrp s g
  let f : GcFix := { ref := x.lvl, stop := b.upto + x.tail, by_ := [b] }
  let s := setGrp s g { x with
    fix := some f, ref := x.lvl, gstep := x.gstep.filter fun k => s.tu.count < k + ticksPerCycle s.tu.mu / 2 }
  (pendingCmds x).foldl (fun s c => fixCmd s g c) s

/-- The bursts of a list whose final decision is not yet overdue (R102). -/
def liveBursts (s : State) (l : List Burst) : List Burst := l.filter fun b => decide (s.tu.count ≤ b.upto + 2)

/-- Marks a burst's search as stopped. [log 39: DESIGN CHOICE] -/
def stopBurst (s : State) (b : Burst) : State :=
  let x := getCtx s b.ctx
  setCtx s b.ctx { x with sighted := (liveBursts s x.sighted).filter fun y => y != b, stopped := liveBursts s x.stopped ++ [b] }

/-- Capture (R105): the bursts that it overlaps, and that have no final report yet, are reported truncated, the new one takes it, and a step may follow,
unless the group's EN is 0. [log 39: DESIGN CHOICE] -/
def capture (s : State) (g : Nat) (f : GcFix) (b : Burst) (lvl : Int) : State :=
  let live := f.by_.filter fun w => decide (s.tu.count ≤ w.upto) && (getCtx s w.ctx).sighted.contains w
  let s := live.foldl (fun s w => bump (nsWrite (stopBurst s w) w 1) .nsTrunc (w.ctx / 128)) s
  let x := getGrp s g
  let d := b.upto
  let s := bump (setGrp s g { x with fix := some { ref := fracOf lvl, stop := d + x.tail, by_ := [b] }, ref := fracOf lvl }) .gcCapt g
  let a := newAtt x (stepFor x (fracOf lvl))
  let k := effTick s x
  if a != x.att && decide (k ≤ d) && !x.fault && x.en then bump (issueCmd s g a k false) .gcSteps g else s

/-- The burst that a row describes. -/
def mkBurst (s : State) (ctx pre fo start stop delay : Nat) (pwr metric noise : BitVec 16) (att : Nat) : Burst :=
  { ctx := ctx, pre := pre, fo := fo, start := start, stop := stop, delay := delay, pwr := pwr.toInt, metric := metric.toNat
    noise := noise.toInt, att := att, since := countOf s start, upto := countOf s stop }

/-- R97, R102, R105: a context has searched the sighting span of an occasion, and the tick after it starts. Where the metric passes THR, the group is fixed; a sighting of the same occasion shares
the fix; another that overlaps the fixed burst is tested for capture. [log 39: DESIGN CHOICE] -/
def execNsEarlySighting (ctx : Fin 256) (pre : Fin 64) (fo : Fin 8) (start : BitVec 21) (delay : BitVec 24)
    (pwr metric noise : BitVec 16) (s : State) : Res :=
  let x := getCtx s ctx
  let n := start.toNat
  if !(x.cfg.valid && isOccasion s x.cfg n && sightTick s x.cfg n == absTick s && pre.val < x.cfg.npre && fo.val < x.cfg.nfdm && passesThr x.cfg metric.toNat) then .next s
  else
    let g := x.cfg.grp
    let s := settleFix s g
    let y := getGrp s g
    let b := mkBurst s ctx pre fo n (endTick s x.cfg n) delay.toNat pwr metric noise y.att
    let s := setCtx s ctx { x with sighted := liveBursts s x.sighted ++ [b], stopped := liveBursts s x.stopped }
    match y.fix with
    | none => .next (enterFix s g b)
    | some f =>
      let e := max f.stop (b.upto + y.tail)
      let join := fun (s : State) => setGrp s g { y with fix := some { f with stop := e, by_ := f.by_ ++ [b] } }
      if f.by_.any fun w => w.ctx == b.ctx && w.since == b.since then .next (join s)
      else if f.by_.any fun w => decide (s.tu.count ≤ w.upto) then
        let k := tickNo s (s.tu.count - 1)
        let lvl := tickLevel y k
        let p := tickSat y k
        if fracLt (fracOf (8 * s.gc.margin)) (fracSub (fracOf lvl) f.ref) ∧ s.gc.satThr * p.2 ≤ p.1 * 1024 then .next (capture s g f b lvl)
        else .next (bump (nsWrite (stopBurst s b) b 2) .nsOvl (ctx.val / 128))
      else .next (join s)

/-- R97, R102, R104: the final decision on a burst. One whose metric passes THR is confirmed and reported as detected; a sighting that was not is reported so and
no longer holds the fix. A burst whose search stopped has had its report. [log 19: DESIGN CHOICE; log 39: DESIGN CHOICE] -/
def execNsReport (ctx : Fin 256) (pre : Fin 64) (fo : Fin 8) (start : BitVec 21) (delay : BitVec 24)
    (pwr metric noise : BitVec 16) (s : State) : Res :=
  let x := getCtx s ctx
  let same := fun (b : Burst) => b.pre == pre.val && b.fo == fo.val && b.since == countOf s start.toNat
  if !(x.cfg.valid && isOccasion s x.cfg start.toNat && pre.val < x.cfg.npre && fo.val < x.cfg.nfdm && reportTime s x.cfg start.toNat) then .next s
  else if x.stopped.any same then .next (setCtx s ctx { x with stopped := x.stopped.filter fun b => !same b })
  else
    let g := x.cfg.grp
    let y := getGrp s g
    let seen := x.sighted.find? same
    let att := (seen.map fun b => b.att).getD y.att
    let b := mkBurst s ctx pre fo start.toNat (endTick s x.cfg start.toNat) delay.toNat pwr metric noise att
    let s := setCtx s ctx { x with sighted := x.sighted.filter fun b => !same b }
    if passesThr x.cfg metric.toNat then .next (bump (nsWrite s b 0) .nsDet (ctx.val / 128))
    else if seen.isNone then .next s
    else
      let s := bump (nsWrite s b 3) .nsEarlyFalse (ctx.val / 128)
      match y.fix with
      | none => .next s
      | some f =>
        let l := f.by_.filter fun w => !(w.ctx == ctx.val && same w)
        if l.length = f.by_.length then .next s
        else .next (updGrp s g fun z => { z with fix := some { f with by_ := l, stop := if l.isEmpty then s.tu.count else f.stop } })

/-! ### Contexts (R99 to R101) -/

/-- The descriptor that the words 1 to 15 and a new word 0 hold (R100). -/
def ctxCfg (raw : Tab Nat) (w0 : Nat) : NsCfg :=
  let w := fun i => tget raw 0 i
  { valid := bit w0 0, kind := fld w0 1 2, restr := fld w0 3 2, lseq := fld w0 5 2, fmt := fld w0 8 8, grp := fld w0 16 8
    nocc := fld w0 24 8, prb0 := fld (w 1) 0 16, nfdm := fld (w 1) 16 8, npre := fld (w 1) 24 8, root := fld (w 2) 0 16
    ncs := fld (w 2) 16 16, period := fld (w 3) 0 8, thr := fld (w 3) 8 8, ring := w 4 + fld (w 5) 0 16 * 2 ^ 32
    rsh := fld (w 5) 16 8, flow := fld (w 6) 0 18
    occ := (upFrom 0 (fld w0 24 8)).map fun i =>
      let h := fld (w (8 + i / 2)) (16 * (i % 2)) 16
      (fld h 0 8, fld h 8 7) }

/-- Is the combination of kind, format, length and restricted set one that R99 lists? `mu`: the group's carrier. [log 40: DESIGN CHOICE] -/
def ctxCombo (c : NsCfg) (mu : Nat) : Bool :=
  (match c.kind with
   | 0 => c.fmt ≤ 3
   | 1 => 0x10 ≤ c.fmt && c.fmt ≤ 0x18 && (c.lseq == 0 || (c.lseq == 1 && mu == 1) || (c.lseq == 2 && mu == 0))
   | 2 => c.fmt ≤ 4
   | _ => c.fmt ≤ 2) &&
  (c.restr == 0 || (c.restr ≤ 2 && c.kind == 0))

/-- Do the fields lie in the ranges that R100 gives? [log 40: DESIGN CHOICE] -/
def ctxRange (c : NsCfg) : Bool :=
  1 ≤ c.nocc && c.nocc ≤ 16 && [1, 2, 4, 8].contains c.nfdm && [1, 2, 5, 10, 20, 40, 80, 160].contains c.period &&
  4 ≤ c.rsh && c.rsh ≤ 12 && c.ring % 32 == 0 &&
  (if c.kind = 3 then 12 ≤ c.npre && c.npre ≤ 48 else 1 ≤ c.npre && c.npre ≤ 64)

/-- Is a VALID descriptor of context `ctx` of partition `p` accepted (R100, R101)? [log 40: DESIGN CHOICE] -/
def ctxOk (s : State) (ctx p : Nat) (c : NsCfg) : Bool :=
  let g := getGrp s c.grp
  let mu := grpMu s g
  let st := if mu < s.tu.mu then 2 ^ (s.tu.mu - mu) else 1
  let e := ctx / 128
  let s' := setCtx s ctx { getCtx s ctx with cfg := c }
  let grps := ((engCtxs s' e).filter fun x => x.2.cfg.valid).map fun x => x.2.cfg.grp
  ctxCombo c mu && ctxRange c && gainOwner s c.grp == some p && !g.memb.isEmpty &&
  (c.occ.all fun o => o.1 < c.period && o.2 < 2 * ticksPerHalf s.tu.mu && o.2 % st == 0) &&
  ownsFlow s p c.flow && engLoad s' e ≤ 160 * 4000000 &&
  sumNat (grps.eraseDups.map fun i => grpMembers (getGrp s i)) ≤ 1024

/-- R100: a write of bytes 3:0 of a descriptor has it checked, and accepted or refused. [log 40: DESIGN CHOICE] -/
def execNsCtxWrite (who : Agent) (ctx : Fin 256) (val : BitVec 32) (s : State) : Res :=
  let o := noseOwner s ctx
  if !mayTouch who o then .next (foreign s)
  else
    let x := getCtx s ctx
    let c := ctxCfg x.raw val.toNat
    if !c.valid then .next (done (setCtx s ctx { x with cfg := c }))
    else if ctxOk s ctx (o.getD 4) c then
      .next (done (setCtx s ctx (if x.cfg.valid then { x with cfg := c } else { x with cfg := c, seqno := 0, sighted := [], stopped := [], loss := [] })))
    else .next (done s)

end Sys2Proof.Machine
end

