-- ==== Sys2Proof/Machine/JigCode.lean ====
section
/-!
DEFINITION. What the encoders of the jigs compute, and the CRC of decoded bits (08_fec_jigs R185, R189 to R192, R196). The procedures
are those of TS 38.212 and TS 36.212, which R185 names and does not print; the tables of the two standards stand in `Config`.
-/
namespace Sys2Proof.Machine

/-! ### Bits -/

/-- `n` packed bits of a byte string (R189, R38): bit i is bit i mod 8 of byte i / 8. -/
def unpackBits (n : Nat) (bs : List Byte) : List Bool :=
  ((bs.flatMap bitsLsb) ++ List.replicate n false).take n

/-- Bits packed into bytes (R189), the last byte filled with zeros; `fuel` bounds the bytes. -/
def packBits : Nat → List Bool → List Byte
  | 0, _ => []
  | f + 1, bs => BitVec.ofNat 8 (ofBits (bs.take 8)) :: packBits f (bs.drop 8)

/-- Bit by bit exclusive or. -/
def xorBits (a b : List Bool) : List Bool := List.zipWith (fun x y => x != y) a b

/-- The remainder of a bit string, its first bit highest, by a CRC of R115's POLY numbering. -/
def crcRem (poly : Nat) (bs : List Bool) : Nat :=
  match crcPoly poly with
  | some (l, g) => crcMsb l g 0 bs
  | none => 0

/-- The POLY number of the CRC that a decoder's CODE names (R190, R191). -/
def jobPoly (d : List Byte) : Nat := lget [7, 0, 1, 3] 7 (jdCrc d)

/-- R196: does the CRC named in CODE pass on the output bits, the CRC included? -/
def outCrcPass (d : List Byte) (cls : Nat) (out : List Byte) : Bool :=
  crcRem (jobPoly d) (unpackBits (infoBits d cls) out) == 0

/-! ### Circular buffers -/

/-- Reads `e` bits of a circular buffer from position `k0`, past the positions that carry no bit. -/
def readCircle (ncb k0 e : Nat) (null : Nat → Bool) (at_ : Nat → Bool) : List Bool :=
  let turn := ((upFrom k0 (ncb - k0)) ++ upFrom 0 k0).filter fun i => !null i
  (upFrom 0 e).map fun k => at_ (lget turn 0 (k % turn.length))

/-- The bit interleaving of TS 38.212 5.4.2.2: the bits as rows of E / Qm, read by columns. -/
def interleave (qm : Nat) (bs : List Bool) : List Bool :=
  let w := bs.length / qm
  (upFrom 0 bs.length).map fun k => lget bs false (k % qm * w + k / qm)

/-! ### LDPC (TS 38.212 5.3.2, 5.4.2) -/

/-- Block `j` of `z` bits. -/
def blockOf (z : Nat) (bs : List Bool) (j : Nat) : List Bool := (bs.drop (j * z)).take z

/-- A circulant's product with a block: bit i is bit (i + shift) mod z. -/
def rotBlock (z shift : Nat) (b : List Bool) : List Bool := b.drop (shift % z) ++ b.take (shift % z)

/-- The sum of a row of the base graph over the blocks that stand so far. [log 92: PRESUMED] -/
def rowSum (bg2 : Bool) (set z row : Nat) (bs : List Bool) : List Bool :=
  (upFrom 0 (bs.length / z)).foldl (fun acc j =>
    match Config.ldpcShift bg2 set row j with
    | some v => xorBits acc (rotBlock z v (blockOf z bs j))
    | none => acc) (List.replicate z false)

/-- The shift that the entries of the first parity column leave when the first four rows are added: it occurs an odd number of times. -/
def coreShift (bg2 : Bool) (set kc : Nat) : Nat :=
  let vs := (upFrom 0 4).filterMap fun r => Config.ldpcShift bg2 set r kc
  (vs.find? fun v => (vs.filter fun u => u == v).length % 2 == 1).getD 0

/-- The code word with its parity blocks (TS 38.212 5.3.2): the first from the sum of the first four rows, three from rows 0 to 2, and one from
each further row. [log 92: PRESUMED] -/
def ldpcWord (bg2 : Bool) (set z kc rows : Nat) (c : List Bool) : List Bool :=
  let sum := (upFrom 0 4).foldl (fun acc r => xorBits acc (rowSum bg2 set z r c)) (List.replicate z false)
  let s := coreShift bg2 set kc % z
  let w := c ++ rotBlock z ((z - s) % z) sum
  let w := (upFrom 0 3).foldl (fun w r => w ++ rowSum bg2 set z r w) w
  (upFrom 4 (rows - 4)).foldl (fun w r => w ++ rowSum bg2 set z r w) w

/-- The E bits of an LDPC encoder (R190): fillers are zeros of the code word and are not sent. -/
def ldpcEncode (d : List Byte) (bits : List Bool) : List Bool :=
  let z := jdSize d
  let kc := jdKc d
  let bg2 := bit (jdCode d) 0
  let set := ((liftSizes.find? fun e => e.1 == z).map fun e => e.2).getD 0
  let w := ldpcWord bg2 set z kc (jdCols d + 2 - kc) (bits ++ List.replicate (jdF d) false)
  let (f0, f1) := ldpcFill d
  let e := readCircle (jdNcb d) (ldpcK0 d % jdNcb d) (jdE d 2) (fun i => f0 ≤ i && i < f1) fun i => lget w false (i + 2 * z)
  interleave (jdQm d) e

/-! ### Turbo (TS 36.212 5.1.3.2, 5.1.4.1) -/

/-- A step of a constituent encoder with feedback 1 + D² + D³ and output 1 + D + D³: state, oldest bit last. -/
def rscStep (st : Bool × Bool × Bool) (x : Bool) : Bool × (Bool × Bool × Bool) :=
  let (a, b, c) := st
  let f := x ^^ b ^^ c
  (f ^^ a ^^ c, (f, a, b))

/-- A constituent encoder's parity bits, its three tail inputs and its three tail parity bits. -/
def rscRun : List Bool → (Bool × Bool × Bool) → List Bool × List Bool × List Bool
  | [], (a, b, c) =>
    ([], [b ^^ c, a ^^ b, a], [a ^^ c, b, a])
  | x :: r, st =>
    let (z, st) := rscStep st x
    let (zs, tx, tz) := rscRun r st
    (z :: zs, tx, tz)

/-- The three streams of a turbo encoder with their tails (TS 36.212 5.1.3.2). [log 92: PRESUMED] -/
def turboStreams (k : Nat) (c : List Bool) : List (List Bool) :=
  let (f1, f2) := Config.turboQpp k
  let c' := (upFrom 0 k).map fun i => lget c false ((f1 * i + f2 * i * i) % k)
  let (z, x, t) := rscRun c (false, false, false)
  let (z', x', t') := rscRun c' (false, false, false)
  let g := fun (l : List Bool) i => lget l false i
  [c ++ [g x 0, g t 1, g x' 0, g t' 1], z ++ [g t 0, g x 2, g t' 0, g x' 2], z' ++ [g x 1, g t 2, g x' 1, g t' 2]]

/-- The bit at position `i` of a turbo circular buffer. -/
def turboAt (k : Nat) (ds : List (List Bool)) (i : Nat) : Bool :=
  let kpi := turboKpi k
  let (str, j) := if i < kpi then (0, i) else (1 + (i - kpi) % 2, (i - kpi) / 2)
  let p := colPerm (j / (kpi / 32)) + 32 * (j % (kpi / 32))
  let q := if str = 2 then (p + 1) % kpi else p
  lget (lget ds [] str) false (q - (kpi - (k + 4)))

/-- The E bits of a turbo encoder (R191). -/
def turboEncode (d : List Byte) (bits : List Bool) : List Bool :=
  let k := jdSize d
  let ds := turboStreams k (List.replicate (jdF d) false ++ bits)
  readCircle (jdNcb d) (jobK0 d 4 % jdNcb d) (jdE d 4) (isNullPos d 4) (turboAt k ds)

/-! ### Polar (TS 38.212 5.1, 5.3.1, 5.4.1) -/

/-- The sub-block interleaver of TS 38.212 table 5.4.1.1-1. [log 92: PRESUMED] -/
def polarSub : List Nat :=
  [0, 1, 2, 4, 3, 5, 6, 7, 8, 16, 9, 17, 10, 18, 11, 19, 12, 20, 13, 21, 14, 22, 15, 23, 24, 25, 26, 28, 27, 29, 30, 31]

/-- J(n) of TS 38.212 5.4.1.1. -/
def polarJ (n i : Nat) : Nat := lget polarSub 0 (32 * i / n) * (n / 32) + i % (n / 32)

/-- The payload with its CRC: 24 leading ones for DCI, the RNTI on the last 16 CRC bits (R192). The spec does not say how an RNTI is laid on a
CRC of fewer than 16 bits: its low bits are. [log 92: PRESUMED] -/
def polarAttach (d : List Byte) (bits : List Bool) : List Bool :=
  let l := polarCrc d
  let poly := lget [5, 4, 2, 7] 7 (fld (jdCode d) 0 2)
  let r := crcRem poly ((if bit (jdCode d) 2 then List.replicate 24 true else []) ++ bits)
  bits ++ (upFrom 0 l).map fun i => bit (r ^^^ jdKp d) (l - 1 - i)

/-- The interleaving of DCI (TS 38.212 5.3.1.1): of at most 164 bits. -/
def polarIl (k : Nat) (c : List Bool) : List Bool :=
  (((upFrom 0 164).map Config.polarIlv).filter fun m => 164 - k ≤ m).map fun m => lget c false (m - (164 - k))

/-- The positions that rate matching freezes beforehand (TS 38.212 5.4.1.1). -/
def polarPre (n k e : Nat) : List Nat :=
  if n ≤ e then []
  else if 16 * k ≤ 7 * e then
    (upFrom 0 (n - e)).map (polarJ n) ++
      upFrom 0 (if 3 * n ≤ 4 * e then (3 * n - 2 * e + 3) / 4 else (9 * n - 4 * e + 15) / 16)
  else (upFrom e (n - e)).map (polarJ n)

/-- The information and parity-check positions, the least reliable first (TS 38.212 5.4.1.1, 5.3.1.2). -/
def polarInfo (n k npc e : Nat) : List Nat :=
  let pre := polarPre n k e
  let q := ((upFrom 0 1024).map Config.polarOrder).filter fun i => i < n && !pre.contains i
  q.drop (q.length - (k + npc))

/-- The parity-check positions: the least reliable ones, and for E − K + 3 > 192 one of least row weight among the K most reliable, the most
reliable of those (TS 38.212 5.3.1.2). -/
def polarPcPos (info : List Nat) (k npc e : Nat) : List Nat :=
  let wm := if npc ≠ 0 ∧ 192 < e + 3 - k then 1 else 0
  let rest := info.drop npc
  let low := rest.foldl (fun m i => min m (popcount i 10)) 10
  info.take (npc - wm) ++ if wm = 0 then [] else ((rest.filter fun i => popcount i 10 == low).reverse.take 1)

/-- The input of the polar transform (TS 38.212 5.3.1.2): five cyclic parity registers run along the positions. -/
def polarU (info pcs : List Nat) : List Nat → List Bool → List Bool → List Bool
  | [], _, _ => []
  | n :: r, y, c =>
    let y := y.drop 1 ++ y.take 1
    if pcs.contains n then y.headD false :: polarU info pcs r y c
    else if info.contains n then
      let b := c.headD false
      b :: polarU info pcs r ((y.headD false != b) :: y.drop 1) c.tail
    else false :: polarU info pcs r y c

/-- The polar transform: bit j is the sum of the input bits whose index has every bit of j. `m` halvings. -/
def polarX : Nat → List Bool → List Bool
  | 0, u => u
  | m + 1, u =>
    let h := u.length / 2
    polarX m (xorBits (u.take h) (u.drop h)) ++ polarX m (u.drop h)

/-- The UCI channel interleaver (TS 38.212 5.4.1.3): a triangle of T rows filled by rows, read by columns. -/
def triangle (bs : List Bool) : List Bool :=
  let e := bs.length
  let t := ((upFrom 0 (e + 1)).find? fun t => e ≤ t * (t + 1) / 2).getD 0
  (upFrom 0 t).flatMap fun j => (upFrom 0 (t - j)).filterMap fun i => bs[i * t - i * (i - 1) / 2 + j]?

/-- The E bits of a polar encoder (R192). [log 92: PRESUMED] -/
def polarEncode (d : List Byte) (bits : List Bool) : List Bool :=
  let k := jdSize d
  let e := jdE d 5
  let m := polarLogN d
  let n := 2 ^ m
  let c := polarAttach d bits
  let c := if bit (jdCode d) 2 then polarIl k c else c
  let info := polarInfo n k (polarPc d) e
  let u := polarU info (polarPcPos info k (polarPc d) e) (upFrom 0 n) (List.replicate 5 false) c
  let x := polarX m u
  let y := (upFrom 0 n).map fun i => lget x false (polarJ n i)
  let at_ := fun i => lget y false (if n ≤ e then i % n else if 16 * k ≤ 7 * e then i + (n - e) else i)
  let f := (upFrom 0 e).map at_
  if bit (jdCode d) 3 then triangle f else f

/-! ### OUT -/

/-- The bits of an encoder's OUT from its packed input. -/
def encodeBits (d : List Byte) (cls : Nat) (inp : List Byte) : List Bool :=
  let bits := unpackBits (infoBits d cls) inp
  if cls = 2 then ldpcEncode d bits else if cls = 4 then turboEncode d bits else polarEncode d bits

/-- Does the standard define the encoder's output: not a bit interleaver whose rows E does not fill, nor an interleaved DCI block of more than
164 bits? -/
def encodeStated (d : List Byte) (cls : Nat) : Bool :=
  if cls = 2 then jdE d cls % jdQm d == 0 else !(cls == 5 && bit (jdCode d) 2 && 164 < jdSize d)

end Sys2Proof.Machine
end

