-- ==== Sys2Proof/Machine/Jig.lean ====
section
/-!
DEFINITION. The rows of the channel-coding jigs (08_fec_jigs R187 to R204).
-/
namespace Sys2Proof.Machine

/-- A descriptor error (R193): counted, latched and reported; `why`: 1 misaligned, 2 read error, 3 another partition. [log 50: DEDUCED] -/
def descError (s : State) (die p a why : Nat) : State :=
  let s := bump s .jgDescErr (jgBank die p)
  let s := { s with jig := { s.jig with err := tset s.jig.err (jgBank die p) { addr := a, why := why, valid := true } } }
  raisePart s p 0x0600 (a + why * 2 ^ 48 + 2 ^ 63) die

/-- Is a buffer wholly the partition's (R200)? -/
def bufOwned (s : State) (p a n : Nat) : Bool := (pieces a n (n + 1)).all fun e => ownsMem s p e.1

/-- A partition's queue of a class becomes non-empty: its credit is 0 (R194). -/
def creditKey (die cls p : Nat) : Nat := 64 * die + 8 * cls + p

/-- Queues a job (R187 step 8), and asks for the wake of its domain (R203). -/
def queueJob (s : State) (j : JgJob) : State :=
  let empty := (jigQueued s j.die j.cls).all fun q => q.part != j.part || q.retry
  let jg := s.jig
  let s := { s with jig := { jg with
    queue := jg.queue ++ [{ j with ord := jg.nextOrd }]
    nextOrd := jg.nextOrd + 1
    credit := if empty then tset jg.credit (creditKey j.die j.cls j.part) 0 else jg.credit } }
  wakeReq s (jigDom j.die j.cls) true 3

/-- Steps 4 to 8 of R187. -/
def submitChecked (s : State) (j : JgJob) : State :=
  if !jdOk j.desc j.cls then endUnrun s j 0x10
  else if jgShare s j.die j.part j.cls = 0 then endUnrun s j 0x11
  else if (inService s j.die j.cls).isEmpty then endUnrun s j 0x40
  else if 256 ≤ jigDepth s j.die j.part j.cls then endUnrun (bump s .jgSubRej (jgBank j.die j.part)) j 0x12
  else queueJob s j

/-- The submission of a descriptor (R187). -/
def submitJob (s : State) (die p cls a : Nat) : State :=
  if a % 128 ≠ 0 then descError s die p a 1
  else if targetOf a == .nothing || targetOf a == .regs then descError s die p a 2
  else if !ownsMem s p a then descError s die p a 3
  else match memRead s (some p) a 128 with
    | (0, bs, s) =>
      let d := bs.take 112
      let j : JgJob := { die := die, part := p, cls := cls, addr := a, desc := d, hi := bit (dsc d 1 1) 1, evt := none, retry := false, ord := 0 }
      if jdEvt d then
        let f := jdFlow d
        if !ownsFlow s p f then endUnrun s j 0x10
        else
          let r := refusal s p f false
          if r ≠ 0 then
            let s := lossEvt (countRefusal s p f) p f 4 r
            endUnrun (bump s .jgSubRej (jgBank die p)) j 0x13
          else
            let (s, it) := addItem s { flow := f, kind := 4, tag := BitVec.ofNat 64 (dsc d 8 8), arg0 := 0, arg1 := 0 } none .reserved
            submitChecked s { j with evt := some it.id }
      else submitChecked s j
    | (_, _, s) => descError s die p a 2

/-- R187: a store to JG_SUBMITc of a partition's bank. -/
def execJgSubmit (who : Agent) (die : Fin 2) (p : Fin 4) (cls : Fin 5) (addr : BitVec 48) (s : State) : Res :=
  if dieOut s die then .next (answer s 4 0)
  else if !mayTouch who (some p.val) then .next (foreign s)
  else .next (submitJob (done s) die p (cls.val + 1) addr.toNat)

/-- The candidates of a pick: partitions with a queued job of the class, and their credits after the pick's additions (R194). [log 52: DEDUCED] -/
def pickCredits (s : State) (die cls : Nat) : List (Nat × Int) :=
  ((upFrom 0 4).filter fun p => (jigQueued s die cls).any fun j => j.part == p && !j.retry).map fun p =>
    (p, tget s.jig.credit 0 (creditKey die cls p) + (jgShare s die p cls : Int))

/-- The partition with the largest credit, the lower number in a tie. -/
def pickPart (l : List (Nat × Int)) : Option Nat :=
  (l.foldl (fun b e => match b with
    | none => some e
    | some x => if x.2 < e.2 then some e else some x) none).map fun e => e.1

/-- The next job of a class on a die (R194, R201): a job that runs again first, else by smooth weighted round-robin; HI jobs before others. -/
def nextJob (s : State) (die cls : Nat) : Option (JgJob × State) :=
  match (jigQueued s die cls).find? fun j => j.retry with
  | some j => some (j, s)
  | none =>
    let l := pickCredits s die cls
    match pickPart l with
    | none => none
    | some p =>
      let sum : Int := sumNat (l.map fun e => jgShare s die e.1 cls)
      let credit := l.foldl (fun t e => tset t (creditKey die cls e.1) (if e.1 = p then e.2 - sum else e.2)) s.jig.credit
      let q := (jigQueued s die cls).filter fun j => j.part == p
      match (q.find? fun j => j.hi) with
      | some j => some (j, { s with jig := { s.jig with credit := credit } })
      | none => q.head?.map fun j => (j, { s with jig := { s.jig with credit := credit } })

/-- The error of a buffer in another partition, checked before the job starts (R200); 0 for none. [log 51: DESIGN CHOICE] -/
def bufferError (s : State) (j : JgJob) : Nat :=
  let d := j.desc
  let p := j.part
  let c := j.cls
  if !bufOwned s p (jdIn d) (inBytes d c) then 0x20
  else if jdComb d c && !bufOwned s p (jdHin d) (hsize (jdHin d) (jdNcb d)) then 0x20
  else if !bufOwned s p (jdOut d) (outBytes d c) then 0x21
  else if jdHst d c && !bufOwned s p (jdHout d) (hsize (jdHout d) (jdNcb d)) then 0x21
  else 0

/-- R194: a free copy in service of an awake domain takes the next job of its class. -/
def execJgDispatch (die : Fin 2) (cls : Fin 5) (s : State) : Res :=
  let c := cls.val + 1
  let free := (inService s die c).find? fun i => !((jigRunning s die c).any fun r => r.inst == i)
  if (getDom s (jigDom die c)).state != .awake then .next s
  else match free, nextJob s die c with
    | some i, some (j, s) =>
      let s := dropQueued s fun q => q.ord == j.ord
      let e := bufferError s j
      if e ≠ 0 then .next (endUnrun s j e)
      else .next { s with jig := { s.jig with running := s.jig.running ++ [{ inst := i, job := j }] } }
    | _, _ => .next s

/-- Does a decoder's CRC pass: on the bits of OUT (R196), or on a path of a polar decoder's list? [log 19: DESIGN CHOICE] -/
def jobPass (d : List Byte) (cls : Nat) (r : JigFind) : Bool := if cls = 5 then r.crcPass else outCrcPass d cls r.out

/-- Parity checks unsatisfied at stop: at most those of the active layers (R196, R197). [log 19: DESIGN CHOICE] -/
def jobUnsat (d : List Byte) (cls : Nat) (r : JigFind) : Nat := min r.metric.toNat (jobLact d cls * jdSize d)

/-- The outcome of R196. -/
def jobOutcome (d : List Byte) (cls : Nat) (r : JigFind) : Nat :=
  if !jdDecodes d cls then 1
  else if cls = 5 ∨ jdCrc d ≠ 0 then (if jobPass d cls r then 1 else 2)
  else if cls = 1 ∧ jdEt d = 1 ∧ jobUnsat d cls r ≠ 0 then 3
  else 1

/-- Can the stop condition hold at the decoder's end (R196)? A turbo decoder's decisions repeat where its search found so: an operand. [log 19: DESIGN CHOICE] -/
def stopHolds (d : List Byte) (cls : Nat) (r : JigFind) : Bool :=
  if cls = 1 then jdEt d != 0 && jobUnsat d cls r == 0 && (jdEt d == 1 || jobPass d cls r)
  else jdEt d == 1 || (jdEt d == 2 && jobPass d cls r)

/-- Iterations run (R196): MAXIT where no stop condition held, else those of the operand, at least one (two where decisions must
repeat) and at most MAXIT. [log 19: DESIGN CHOICE] -/
def jobIter (d : List Byte) (cls : Nat) (r : JigFind) : Nat :=
  if cls = 1 ∨ cls = 3 then
    (if stopHolds d cls r then min (max (if cls = 3 ∧ jdEt d = 1 then 2 else 1) r.iter.toNat) (jdMaxit d) else jdMaxit d)
  else 0

/-- ⌈a / b⌉. -/
def cdiv (a b : Nat) : Nat := (a + b - 1) / b

/-- The running time in jig cycles (R202), its buffers in cluster memory or die stores. -/
def jobCycles (d : List Byte) (cls it : Nat) : Nat :=
  let e := jdE d cls
  let h := cdiv (jdNcb d) 256 * (b2n (jdComb d cls) + b2n (jdHst d cls))
  let k := jdSize d
  if cls = 1 then 29 + cdiv e 128 + it * (jobLact d cls + 6) + cdiv (jdKp d) 512 + h
  else if cls = 2 then 29 + cdiv (jdKp d) 256 + 2 * jobLact d cls + cdiv e 256
  else if cls = 3 then 31 + cdiv (max e (jdNcb d)) 128 + it * 2 * (cdiv k 40 + 2) + h
  else if cls = 4 then 55 + cdiv k 16 + cdiv e 256
  else
    let n := 2 ^ polarLogN d
    if jdDir d then 20 + n / 16 + cdiv e 128
    else 47 + cdiv e 128 + cdiv (3 * n) 4 + cdiv (k * 2 ^ fld (jdCode d) 4 2) 8 + cdiv k 512

/-- Does every buffer of a job lie in cluster memory or a die store (R202)? -/
def jobNear (d : List Byte) (cls : Nat) : Bool :=
  let near := fun a => match targetOf a with
    | .cluster _ | .store _ _ => true
    | _ => false
  near (jdIn d) && near (jdOut d) && (!jdComb d cls || near (jdHin d)) && (!jdHst d cls || near (jdHout d))

/-- TIME of the AUX word (R197, R202): other memory adds its latency, an operand. [log 19: DESIGN CHOICE] -/
def jobTime (d : List Byte) (cls : Nat) (r : JigFind) : Nat :=
  jobCycles d cls (jobIter d cls r) + if jobNear d cls then 0 else r.time.toNat

/-- The AUX word of a job that ran. -/
def jobAux (d : List Byte) (cls time : Nat) (r : JigFind) : Nat :=
  auxWord time (if cls = 1 then jobUnsat d cls r else if cls = 5 ∧ jdDecodes d cls then r.metric.toNat else 0) (if cls = 5 then polarLogN d else 0)

/-- OUT: an encoder's bits from its input (R190 to R192), a decoder's hard decisions, an operand. What a standard does not define is free. [log 92: PRESUMED] -/
def jobOut (s : State) (d : List Byte) (cls : Nat) (inp : List Byte) (r : JigFind) : List Byte × State :=
  let n := outBytes d cls
  if jdDecodes d cls then ((r.out ++ List.replicate n 0).take n, s)
  else if encodeStated d cls then (packBits n (encodeBits d cls inp), s)
  else freeBytes s n

/-- The LLRs a decoder writes to HOUT, and SAT (R195). Where Qm does not divide E the standard's bit interleaver is not defined: free values.
[log 19: DESIGN CHOICE] -/
def jobCombine (s : State) (d : List Byte) (cls : Nat) (old rx : List Byte) : List Byte × Bool × State :=
  let a := jdHout d
  let n := jdNcb d
  if cls = 1 ∧ jdE d cls % jdQm d ≠ 0 then
    let (bs, s) := freeBytes s n
    let (v, s) := takeFree s 1
    (bs ++ List.replicate (hsize a n - n) 0, v == 1, s)
  else
    let (l, sat) := combine d cls ((old ++ List.replicate n 0).take n |>.map llr) rx
    (harqBytes a n l, sat, s)

/-- A running job ends (R196, R197, R200): it reads IN and HIN, writes OUT and HOUT, and its AUX and STATUS words. -/
def completeJob (s : State) (r : JgRun) (f : JigFind) : State :=
  let j := r.job
  let d := j.desc
  let c := j.cls
  let retry := 8 * b2n j.retry
  let lact := jobLact d c
  let bad := fun (s : State) => endJob s j (statusWord 0x20 0 lact retry (jobXmax d c) r.inst) (jobAux d c f.time.toNat f)
  match memRead s (some j.part) (jdIn d) (inBytes d c) with
  | (0, rx, s) =>
    let hn := jdNcb d
    match (if jdComb d c then readHarq s j.part (pieces (jdHin d) hn (hn + 1)) else (some [], false, s)) with
    | (none, _, s) => bad s
    | (some old, hunc, s) =>
      let (hb, sat, s) := if jdComb d c || jdHst d c then jobCombine s d c old rx else ([], false, s)
      let it := jobIter d c f
      let stop := (c == 1 || c == 3) && it < jdMaxit d
      let fin := fun (s : State) (code time : Nat) =>
        endJob s j (statusWord code it lact (b2n hunc + 2 * b2n sat + 4 * b2n stop + retry) (jobXmax d c) r.inst) (jobAux d c time f)
      let (out, s) := jobOut s d c rx f
      match memWrite s (some j.part) (jdOut d) out with
      | (0, _, s) =>
        match (if jdHst d c then memWrite s (some j.part) (jdHout d) hb else (0, 0, s)) with
        | (0, _, s) => fin s (jobOutcome d c f) (jobTime d c f)
        | (_, _, s) => fin (maybeOutputs s j) 0x21 f.time.toNat
      | (_, _, s) => fin (maybeOutputs s j) 0x21 f.time.toNat
  | (_, _, s) => bad s

/-- R197: a copy completes its job. `f` is what a decoder found. [log 4: DESIGN CHOICE; log 19: DESIGN CHOICE] -/
def execJgComplete (die : Fin 2) (cls : Fin 5) (inst : Fin 8) (f : JigFind) (s : State) : Res :=
  match (jigRunning s die (cls.val + 1)).find? fun r => r.inst == inst.val with
  | none => .next s
  | some r => .next (completeJob (dropRunning s fun q => q == r) r f)

/-- R199: a store to JG_CANCELc cancels the oldest pending job with that descriptor address. [log 52: DEDUCED] -/
def execJgCancel (who : Agent) (die : Fin 2) (p : Fin 4) (cls : Fin 5) (addr : BitVec 48) (s : State) : Res :=
  if dieOut s die then .next (answer s 4 0)
  else if !mayTouch who (some p.val) then .next (foreign s)
  else
    let s := done s
    let hit := fun (j : JgJob) => j.part == p.val && j.addr == addr.toNat
    let run := (jigRunning s die (cls.val + 1)).filter fun r => hit r.job
    let que := (jigQueued s die (cls.val + 1)).filter hit
    let best := ((run.map fun r => r.job.ord) ++ que.map fun j => j.ord).foldl (fun b o => match b with
      | none => some o
      | some x => some (min x o)) (none : Option Nat)
    match best with
    | none => .next (bump s .jgCxlMiss (jgBank die p))
    | some o =>
      match (run.find? fun r => r.job.ord == o), (que.find? fun j => j.ord == o) with
      | some r, _ => .next (endStopped (dropRunning s fun q => q.job.ord == o) r 0x30)
      | none, some j => .next (endUnrun (dropQueued s fun q => q.ord == o) j 0x30)
      | none, none => .next s

/-- May the first attempt have altered what a retry would read (R201)? -/
def inPlace (j : JgJob) : Bool := jdHst j.desc j.cls && jdComb j.desc j.cls && harqOverlap j.desc

/-- Is JG_FAULT of severity 2: no copy of the class remains in service (R201, R430)? -/
def jgFaultSev (s : State) (die cls : Nat) : Nat := if (inService s die cls).isEmpty then 2 else 1

/-- R201: a copy fails its own checks. -/
def execJgFault (die : Fin 2) (cls : Fin 5) (inst : Fin 8) (s : State) : Res :=
  let c := cls.val + 1
  if !((inService s die c).contains inst.val) then .next s
  else
    let (b, _) := instBits c
    let s := noteDeg { s with jig := { s.jig with inst := tset s.jig.inst die (setBit (tget s.jig.inst 0 die) (b + inst.val) false) } }
    let s := bump s .jgFault die
    let w := die.val + c * 2 + inst.val * 16
    let s := (upFrom 0 4).foldl (fun s p => if jgShare s die p c ≠ 0 then deliver s p 0x0601 w 0 else s) s
    let s := logRec s 0x0601 (jgFaultSev s die c) false 0 w 0 []
    let left := !(inService s die c).isEmpty
    let s := match (jigRunning s die c).find? fun r => r.inst == inst.val with
      | none => s
      | some r =>
        let s := dropRunning s fun q => q == r
        if r.job.retry || inPlace r.job || !left then endStopped s r 0x40
        else
          let s := bump s .jgRetry (jgBank die r.job.part)
          { s with jig := { s.jig with queue := { r.job with retry := true } :: s.jig.queue } }
    .next (if left then s else endQueued s (fun j => j.die == die.val && j.cls == c) 0x40)

end Sys2Proof.Machine
end

