-- ==== Sys2Proof/Machine/Lane.lean ====
section
/-!
DEFINITION. The lanes (02_fronthaul_lanes): sleep and wake of each direction, test patterns, FEC lock, and optical signal.
-/
namespace Sys2Proof.Machine

/-! ### Sleep fields (R48 to R51) -/

/-- Starts a change of the transmit direction of one lane to `v`. A lane with a frame in progress completes it and the gap after it before it
enters sleep (R48); a backhaul port's link goes down with a lane (R51). -/
def txStart (s : State) (n v : Nat) : State :=
  linkUpdate (updLane s n fun x =>
    { x with txSleep := v, txState := 3, txFrom := x.txState, txGoal := v, txEnding := x.txState == 0 && x.unitEnd.isSome, txAt := upNs s }) n

/-- Starts a change of the receive direction of one lane to `v`. -/
def rxStart (s : State) (n v : Nat) : State :=
  linkUpdate (rxStop (updLane s n fun x => { x with rxSleep := v, rxState := 3, rxFrom := x.rxState, rxGoal := v, rxWait := false, rxAt := upNs s }) n) n

/-- A value of TX_SLEEP of a fronthaul lane takes effect (R48, R51): nothing where the state is already `v`. -/
def txApply (s : State) (n v : Nat) : State :=
  let x := getLane s n
  if x.txState = v then setLane s n { x with txSleep := v }
  else if x.txState = 0 && txActive s n && otherNotSending s n then lnSleepRej s n
  else txStart s n v

/-- A value of RX_SLEEP of a fronthaul lane takes effect (R49, R51, R85). The lane that the selector has chosen first asks for the
forced switch to the other one. -/
def rxApply (s : State) (n v : Nat) : State :=
  let x := getLane s n
  let m := n / 2
  if x.rxState = v then setLane s n { x with rxSleep := v }
  else if x.rxState = 0 && (getFh s m).sel == n % 2 then
    if laneFail s m (1 - n % 2) || (getFh s m).cmd == 1 then lnSleepRej s n
    else setLane s n { x with rxSleep := v, rxWait := true, rxFs := true }
  else rxStart s n v

/-- Both directions of a backhaul port's four lanes go to `v`, and its link goes down unless they are there already (R51); a direction in
transition completes that first. -/
def bpSleep (s : State) (b v : Nat) : State :=
  (upFrom (64 + 4 * b) 4).foldl (fun s n =>
    let x := getLane s n
    let s := if x.txState = 3 then setLane s n { x with txHeld := some v } else if x.txState = v then s else txStart s n v
    let y := getLane s n
    if y.rxState = 3 then setLane s n { y with rxHeld := some v } else if y.rxState = v then s else rxStart s n v) s

/-- A write of TX_SLEEP (R48 to R51): 3 is refused, a write during a transition is held, and of a backhaul port only lane 0 acts. [log 26: DEDUCED] -/
def txWrite (s : State) (n v : Nat) : State :=
  let x := getLane s n
  if 64 ≤ n ∧ (n - 64) % 4 ≠ 0 then s
  else if v = 3 then lnRej s n
  else if x.txState = 3 then setLane s n { x with txHeld := some v }
  else if n < 64 then txApply s n v
  else bpSleep (updLane s n fun x => { x with txSleep := v }) ((n - 64) / 4) v

/-- A write of RX_SLEEP (R49 to R51); those of backhaul lanes are ignored. [log 26: DEDUCED] -/
def rxWrite (s : State) (n v : Nat) : State :=
  let x := getLane s n
  if n ≥ 64 then s
  else if v = 3 then lnRej s n
  else if x.rxState = 3 ∨ x.rxWait then setLane s n { x with rxHeld := some v }
  else rxApply s n v

/-- The held value of a direction takes effect at the end of its transition (R51); on lanes 1 to 3 of a backhaul port it is lane 0's. [log 26: DEDUCED] -/
def heldApply (s : State) (n : Nat) (rx : Bool) : State :=
  let x := getLane s n
  if rx then
    match x.rxHeld with
    | some v =>
      let s := setLane s n { x with rxHeld := none }
      if n < 64 then rxWrite s n v else if x.rxState = v then s else rxStart s n v
    | none => s
  else
    match x.txHeld with
    | some v =>
      let s := setLane s n { x with txHeld := none }
      if 64 ≤ n ∧ (n - 64) % 4 ≠ 0 then (if x.txState = v then s else txStart s n v) else txWrite s n v
    | none => s

/-- A write of a lane register: a foreign one has no effect. [log 26: DEDUCED] -/
def lnWrite (s : State) (who : Agent) (n : Nat) (f : State → State) : Res :=
  if mayTouch who (laneOwner s n) then .next (done (f s)) else .next (foreign s)

/-- R48: a write of light (0), deep (1) or the reserved value (2) to TX_SLEEP. -/
def execLnTxSleepEnter (who : Agent) (n : Fin 80) (depth : Fin 3) (s : State) : Res :=
  lnWrite s who n fun s => txWrite s n (depth.val + 1)

/-- R50: a write of 0 to TX_SLEEP. -/
def execLnTxWake (who : Agent) (n : Fin 80) (s : State) : Res := lnWrite s who n fun s => txWrite s n 0

/-- R49: a write of light, deep or the reserved value to RX_SLEEP. [log 30: DEDUCED] -/
def execLnRxSleepEnter (who : Agent) (n : Fin 80) (depth : Fin 3) (s : State) : Res :=
  lnWrite s who n fun s => rxWrite s n (depth.val + 1)

/-- R50: a write of 0 to RX_SLEEP. -/
def execLnRxWake (who : Agent) (n : Fin 80) (s : State) : Res := lnWrite s who n fun s => rxWrite s n 0

/-- R51: a write that moves a sleeping direction to deep or to light sleep. -/
def execLnDepthChange (who : Agent) (n : Fin 80) (rx deep : Bool) (s : State) : Res :=
  lnWrite s who n fun s => if rx then rxWrite s n (if deep then 2 else 1) else txWrite s n (if deep then 2 else 1)

/-- R48, R50, R51: a direction completes its entry to sleep or its change of depth; a held write then takes effect. A transmitter that has not yet
reached the end of its gap completes nothing, and a change from deep to light sleep is a wake (R51), which a direction held in deep sleep does not complete. -/
def execLnSleepDone (n : Fin 80) (rx : Bool) (s : State) : Res :=
  let x := getLane s n
  if rx then
    if x.rxState = 3 ∧ x.rxGoal ≠ 0 ∧ (x.rxFrom = 2 → laneHeld s n true = false) then
      let s := if x.rxFrom = 2 then startPoint s (2 * n + 1) else s
      .next (heldApply (setLane s n { x with rxState := x.rxGoal }) n true)
    else .next s
  else if x.txState = 3 ∧ x.txGoal ≠ 0 ∧ x.txEnding = false ∧ (x.txFrom = 2 → laneHeld s n false = false) then
    let s := if x.txFrom = 2 then startPoint s (2 * n) else s
    .next (heldApply (setLane s n { x with txState := x.txGoal }) n false)
  else .next s

/-- R50: a direction is awake. A receiver's forced switch is withdrawn (R85), and after deep sleep the direction has started from its Patina point (R375). -/
def execLnWakeDone (n : Fin 80) (rx : Bool) (s : State) : Res :=
  let x := getLane s n
  if laneHeld s n rx then .next s
  else if rx then
    if x.rxState = 3 ∧ x.rxGoal = 0 then
      let s := dirAwake s (2 * n + 1) (x.rxFrom == 2)
      .next (heldApply (linkUpdate (setLane s n { x with rxState := 0, rxFs := false }) n) n true)
    else .next s
  else if x.txState = 3 ∧ x.txGoal = 0 then
    let s := dirAwake s (2 * n) (x.txFrom == 2)
    .next (heldApply (linkUpdate (setLane s n { x with txState := 0 }) n) n false)
  else .next s

/-- The bound of a wake from light (1) or deep sleep in ns, without the wait for the next scheduled frame (R50); from deep to light it is that from
deep (R51). [log 14: DESIGN CHOICE] -/
def wakeBound (rx : Bool) (asleep : Nat) : Nat := if asleep = 1 then (if rx then 5000 else 2000) else if rx then 250000 else 120000

/-- R51: a wake that passed twice its bound: the direction returns to deep sleep, its field with it. Before that it has not failed. [log 14: DESIGN CHOICE] -/
def execLnWakeFail (n : Fin 80) (rx : Bool) (s : State) : Res :=
  let x := getLane s n
  let evt := fun (s : State) => raiseOwner s (laneOwner s n) 0x0201 (n.val + b2n rx * 256) 0
  if rx then
    if x.rxState = 3 ∧ x.rxGoal < x.rxFrom ∧ x.rxAt + 2 * wakeBound true x.rxFrom ≤ upNs s then
      .next (heldApply (evt (setLane s n { x with rxState := 2, rxSleep := 2, wakeFail := true })) n true)
    else .next s
  else if x.txState = 3 ∧ x.txGoal < x.txFrom ∧ x.txAt + 2 * wakeBound false x.txFrom ≤ upNs s then
    .next (heldApply (evt (setLane s n { x with txState := 2, txSleep := 2, wakeFail := true })) n false)
  else .next s

/-! ### Test patterns (R45 to R47) -/

/-- R45, R47: a write of TX_MODE. A fronthaul lane changes at its next frame start, a backhaul lane at once. -/
def execLnTxMode (who : Agent) (n : Fin 80) (mode : Fin 4) (s : State) : Res :=
  lnWrite s who n fun s =>
    let x := getLane s n
    if mode.val = 3 then lnRej s n
    else if mode.val ≠ 0 ∧ (x.txState ≠ 0 ∨ (txActive s n && otherSilent s n)) then lnRej s n
    else setLane s n { x with txMode := mode, txModeNow := if n.val < 64 then x.txModeNow else mode.val }

/-- R46: a write of RX_CHK turns the checker off or starts it on a pattern, on the one it holds as well. [log 29: DEDUCED] -/
def execLnRxChk (who : Agent) (n : Fin 80) (chk : Fin 4) (s : State) : Res :=
  lnWrite s who n fun s =>
    if chk.val = 3 then lnRej s n
    else updLane s n fun x => { x with rxChk := chk, chkReg := 0, prbsLock := false, prbsGood := 0, prbsWin := [] }

/-- R47: a write of 1 to ERR_INJ inverts one bit of the next symbol that the lane generates; ignored while no pattern is generated. Which of the
two bits is a free value. [log 29: DEDUCED] -/
def execLnErrInj (who : Agent) (n : Fin 80) (s : State) : Res :=
  lnWrite s who n fun s =>
    let x := getLane s n
    if x.txModeNow = 0 ∨ x.txState ≠ 0 then s
    else
      let (f, s) := takeFree s 1
      let (a, b, r) := prbsNext x.txModeNow x.genReg
      let y := if f = 0 then pamLevel (!a) b else pamLevel a (!b)
      setLane s n { x with errInj := x.errInj + 1, genReg := r, genSym := y }

/-- R46: the checker takes one symbol. While unlocked it predicts each symbol from the bits received before it; once locked it runs on by itself.
It locks after 64 symbols without error, counts while locked, and loses lock after 64 errored symbols within 256. -/
def execPrbsSymbolRx (n : Fin 80) (level : Fin 4) (s : State) : Res :=
  let x := getLane s n
  if x.rxChk = 0 ∨ laneLive x = false then .next s
  else
    let (a, b, r) := prbsNext x.rxChk x.chkReg
    let got := pamBits level
    let ga := lget got false 0
    let gb := lget got false 1
    let wrong := b2n (a != ga) + b2n (b != gb)
    if x.prbsLock then
      let w := ((wrong != 0) :: x.prbsWin).take 256
      let s := bumpBy (bumpBy s .lnPrbsBits n 2) .lnPrbsErr n wrong
      if (w.filter id).length ≥ 64 then .next (setLane s n { x with prbsLock := false, prbsGood := 0, prbsWin := [], chkReg := r })
      else .next (setLane s n { x with prbsWin := w, chkReg := r })
    else
      let g := if wrong = 0 ∧ prbsStuck x.rxChk x.chkReg = false then x.prbsGood + 1 else 0
      .next (setLane s n { x with
        prbsGood := g, prbsLock := g ≥ 64, prbsWin := [], chkReg := prbsShift (prbsShift x.chkReg ga) gb })

/-! ### Signal and FEC (R36, R39) -/

/-- R39, R72: light appears at a receiver or is lost. A faulted engine reports none (R36). -/
def execOpticalSignalChange (n : Fin 80) (present : Bool) (s : State) : Res :=
  let p := present && !bit s.ln.oeFault (laneEngine n)
  let s := updLane s n fun x => { x with light := p }
  .next (linkUpdate (if p then alignUpdate s n else rxStop s n) n)

/-- The lanes of an optical engine (R35). -/
def engineLanes (e : Nat) : List Nat := (upFrom 0 80).filter fun n => laneEngine n == e

/-- R36: every receive lane of the engine loses its signal, and its transmitters go dark: a frame in progress on them ends. The fault lasts until the
module's reset, as no rule names its end. [log 16: DESIGN CHOICE; log 30: DEDUCED] -/
def execOeFault (e : Fin 8) (s : State) : Res :=
  let s := { s with ln := { s.ln with oeFault := setBit s.ln.oeFault e true } }
  .next ((engineLanes e).foldl (fun s n =>
    linkUpdate (rxStop (updLane s n fun x => { x with light := false, unitEnd := none, txEnding := false }) n) n) s)

/-- A lane gains or loses FEC lock. -/
def setFecLock (s : State) (n : Nat) (on : Bool) : State :=
  linkUpdate (alignUpdate (updLane s n fun x => { x with fecLock := on, fecRun := 0, amRun := 0 }) n) n

/-- Counts a codeword that a locked decoder has taken (R39). -/
def countCodeword (s : State) (n : Nat) (found : Option Nat) : State :=
  let s := bump s .lnFecCw n
  match found with
  | some k => if k = 0 then s else bumpBy (bump s .lnFecCorr n) .lnFecSym n k
  | none => bump s .lnFecUncorr n

/-- R39 on a fronthaul lane: four correctable candidates give lock, eight uncorrectable codewords end it. -/
def fecSearch (s : State) (n : Nat) (ok : Bool) : State :=
  let x := getLane s n
  if x.fecLock = ok then setLane s n { x with fecRun := 0 }
  else if x.fecRun + 1 ≥ (if x.fecLock then 8 else 4) then setFecLock s n ok
  else setLane s n { x with fecRun := x.fecRun + 1 }

/-- R44 on a backhaul lane, as the 400GBASE-R PCS does it: two alignment markers in a row where they are due give lock; five in a row missed, or
three uncorrectable codewords in a row, end it. `am`: whether a marker stands where one is due, `none` where none is due. [log 28: PRESUMED] -/
def pcsSearch (s : State) (n : Nat) (ok : Bool) (am : Option Bool) : State :=
  let x := getLane s n
  let bad := if x.fecLock && !ok then x.fecRun + 1 else 0
  let run := match am with
    | some b => if b = x.fecLock then 0 else x.amRun + 1
    | none => x.amRun
  if x.fecLock && (decide (bad ≥ 3) || decide (run ≥ 5)) then setFecLock s n false
  else if !x.fecLock && decide (run ≥ 2) then setFecLock s n true
  else setLane s n { x with fecRun := bad, amRun := run }

/-- R37 to R39, R44: the received levels of one codeword are decoded and counted, and drive the search for lock or its loss; a locked decoder hands
its payload symbols on. `am`: the alignment marker of a backhaul lane. [log 28: PRESUMED; log 30: DEDUCED] -/
def execFecCodewordRx (n : Fin 80) (levels : BitVec 5440) (am : Option Bool) (s : State) : Res :=
  let x := getLane s n
  if laneLive x = false then .next s
  else
    let word := fecWord levels
    let found := word.map fun p => p.2
    let pay := match word with
      | some p => p.1.take 514
      | none => (rxSymbols levels).take 514
    let s := if x.fecLock then countCodeword (setLane s n { x with rxPay := pay }) n found else s
    .next (if n.val < 64 then fecSearch s n found.isSome else pcsSearch s n found.isSome am)

end Sys2Proof.Machine
end

