-- ==== Sys2Proof/Machine/Panic.lean ====
section
/-!
DEFINITION. Panic (12_memory R270): a buffer crosses its threshold and raises it, or lifts it.
-/
namespace Sys2Proof.Machine

/-- The panic bit of a source made `b`. [log 60: DEDUCED] -/
def setPanic (s : State) (src : PanicSrc) (b : Bool) : State :=
  match src with
  | .fh m => { s with mem := { s.mem with panicFh := setBit s.mem.panicFh m b } }
  | .ns e => { s with mem := { s.mem with panicNs := setBit s.mem.panicNs e b } }
  | .bp n => { s with mem := { s.mem with panicBp := setBit s.mem.panicBp n b } }

/-- R270: an enabled source whose buffer has crossed its ON threshold raises panic; an egress buffer does so only while its port is enabled
and its level is at or below ON. The fill of the other buffers in 1/64 is what the command reports. [log 60: DEDUCED] -/
def execPanicRaise (src : PanicSrc) (fill : Fin 65) (s : State) : Res :=
  let ok := match src with
    | .fh m => (pncFh s m).en && (getFh s m).en && (getFh s m).eg.length ≤ (pncFh s m).on
    | .ns e => (pncNs s e).en && (pncNs s e).on ≤ fill.val
    | .bp n => (pncBp s n).en && (pncBp s n).on ≤ fill.val
  .next (if ok then setPanic s src true else s)

/-- R270: a buffer crosses its OFF threshold, and its panic is lifted; a disabled source raises none. [log 60: DEDUCED] -/
def execPanicLift (src : PanicSrc) (fill : Fin 65) (s : State) : Res :=
  let ok := match src with
    | .fh m => !(getFh s m).en || !(pncFh s m).en || (pncFh s m).off ≤ (getFh s m).eg.length
    | .ns e => !(pncNs s e).en || fill.val ≤ (pncNs s e).off
    | .bp n => !(pncBp s n).en || fill.val ≤ (pncBp s n).off
  .next (if ok then setPanic s src false else s)

end Sys2Proof.Machine
end

