-- ==== Sys2Proof/Machine/Tick.lean ====
section
/-!
DEFINITION. The tick and the tick sequencer's events (01_tick_and_windows R14 to R34).
-/
namespace Sys2Proof.Machine

/-! ### The tick start (R15, R16, R24) -/

/-- The next tick begins: SFN, TIDX and its truncated start (R15, R16). Time moves on to it. -/
def nextTick (s : State) : State :=
  let t := s.tu
  let wrap := t.j + 1 == ticksPerHalf t.mu
  let j := if wrap then 0 else t.j + 1
  let half := if wrap then t.half + 500000 else t.half
  let nOver := t.tidx + 1 == ticksPerFrame t.mu
  let start := half + tcToNs (tickOffTc t.mu j)
  { s with
    now := max s.now start
    tu := { t with
      sfn := if nOver then (t.sfn + 1) % 1024 else t.sfn, tidx := if nOver then 0 else t.tidx + 1, long := j == 0
      startNs := start % 2 ^ 32, half := half, j := j, count := t.count + 1 } }

/-- An item staged on a core that its flow no longer admits goes back to the ready set (R218). -/
def restage (s : State) (c : Nat) : State :=
  (stagedOn s c).foldl (fun s it => if admits s (getFlow s it.flow) it.flow ((flowOwner s it.flow).getD 4) c then s else requeue s it) s

/-- The weights of the core sets, before a change of weights: die, partition, set, and the sums for any core and for whole cores. -/
def csetCaps (s : State) : List (Nat × Nat × Nat × Nat × Nat) :=
  s.dv.csets.map fun e =>
    let w := csetElig s (e.1 / 64) (e.1 % 64 / 16) (e.1 % 16)
    (e.1 / 64, e.1 % 64 / 16, e.1 % 16, w false, w true)

/-- The weights that were set since the last tick start take effect (R24, R218), and sets left without weight are reported (R214). -/
def applyWeights (s : State) : State :=
  let cs := (s.cores.filter fun e => e.2.weightPend.isSome).map fun e => e.1
  if cs.isEmpty then s
  else
    let old := csetCaps s
    let s := cs.foldl (fun s c => updCore s c fun x => { x with weight := x.weightPend.getD x.weight, weightPend := none }) s
    let s := cs.foldl restage s
    old.foldl (fun s e => csetEmpty s e.1 e.2.1 e.2.2.1 e.2.2.2) s

/-- The load of the completed tick is shown and a new one is begun (R219). -/
def loadTick (s : State) : State :=
  let f := fun (d : DvCore) =>
    let b := d.curBusy + (match d.busySince with
      | some t => upNs s - t
      | none => 0)
    { d with busy := b % 2 ^ 32, items := d.curItems % 2 ^ 16, curBusy := 0, curItems := 0, busySince := d.busySince.map fun _ => upNs s }
  { s with dv := { s.dv with cores := s.dv.cores.map fun e => (e.1, f e.2) } }

/-- PLAN_STOP takes effect (R318). -/
def stopPlan (s : State) (p : Nat) : State :=
  let b := getTick s p
  if b.stopping then setTick s p { b with run := false, stopping := false, injNext := 0 } else s

/-- The thermal supervisor's part of a tick start (R366, R367, R378); it rests while the MC restarts (R395). -/
def thermTick (s : State) : State :=
  if s.flt.mcDown.isSome then s else thrDoms.foldl evalThr (applyThCfg s)

/-- The levels in force enter R23 (R24). -/
def capLevels (s : State) : State := (upFrom 0 24).foldl (fun s d => updDom s d fun x => { x with plCap := x.pl }) s

/-- R14 to R16, R24: the next tick starts. Weights, performance levels and throttle fractions change, capacities are recomputed, plans stop,
and gain commands take effect (R90). AUTO (R25) is tested here, before a start or switch that is pending for this tick takes effect.
[log 8: DESIGN CHOICE; log 99: DESIGN CHOICE] -/
def execTickStart (s : State) : Res :=
  if s.su.timeUp then
    let s := nextTick s
    let s := applyWeights s
    let s := (upFrom 0 24).foldl freqSwitch s
    let s := thermTick s
    let s := capLevels s
    let s := loadTick s
    let s := gcTick s
    let s := (upFrom 0 4).foldl (fun s p => autoSwitch (capCheck (planIdx (stopPlan s p) p) p) p) s
    .next s
  else .next s

/-! ### The sequencer (R21, R22, R29, R30, R33) -/

/-- R21: the next trigger of the running plan's current index falls, at its tick start + OFFSET, and is injected. All triggers of a switch's tick come from the new plan (R22). -/
def execTriggerInject (p : Fin 4) (s : State) : Res :=
  let s := settleSwitch s p
  let b := getTick s p
  match b.run, activePlan b, nextEntry b with
  | true, some pl, some (i, e) =>
    let s := setTick s p { b with injNext := i + 1 }
    let s := { s with now := max s.now (tickStartAt s 0 + (e.offset : Int)).toNat }
    .next (inject s p b.active i e (fallbackOf pl e) 2)
  | _, _, _ => .next s

/-- R22, R318: a pending start or switch takes effect at its tick. [log 23: DEDUCED] -/
def execTickPlanSwitch (p : Fin 4) (s : State) : Res := .next (settleSwitch s p)

/-- R29 to R31: the first overrun of the deadline windows that have closed. [log 22: DEDUCED] -/
def execTickOvr (p : Fin 4) (s : State) : Res :=
  match firstWin (closedWins s p false) with
  | some w => .next (overrun s p w)
  | none => .next s

/-- R30: the first drop of the graces that have ended. -/
def execTickEscDrop (p : Fin 4) (s : State) : Res :=
  match firstWin (closedWins s p true) with
  | some w => .next (escDrop s p w)
  | none => .next s

/-- R34: a write to TICK_EVT_FLOW; one with EN = 1 that names a flow outside the partition's range is refused. -/
def execTickEvtFlowWrite (who : Agent) (p : Fin 4) (val : BitVec 32) (s : State) : Res :=
  if !mayTouch who (some p.val) then .next (foreign s)
  else
    let f := fld val.toNat 0 18
    let en := bit val.toNat 31
    if en && !ownsFlow s p f then .next (done s)
    else .next (done (setTick s p { getTick s p with evtFlow := f, evtEn := en }))

end Sys2Proof.Machine
end

