-- ==== Sys2Proof/Machine/Regs.lean ====
section
/-!
DEFINITION. Register writes without a row of their own, and reads of counters (00_scope R5, R9 to R11; the register sections of every chapter).
-/
namespace Sys2Proof.Machine

/-! ### Who may write (R5) -/

/-- May the agent write the register? GC_CAP_CFG, GC_ACK_WAIT and GC_CXL_MIN serve every group and the spec names no writer of them: the MC alone
writes them here. [log 9: DESIGN CHOICE; log 101: DESIGN CHOICE] -/
def regMay (s : State) (who : Agent) (r : Reg) : Bool :=
  match r with
  | .tickPlanCtl p | .tickEscGrace p => mayTouch who (some p.val)
  | .lnStat n => mayTouch who (laneOwner s n)
  | .fhPortCtl m | .fhPortStat m | .fhDefTime m | .memPncFh m => mayTouch who (fhOwner s m)
  | .fhLnDefl n => mayTouch who (laneOwner s n)
  | .streamWord m _ _ => mayTouch who (fhOwner s m)
  | .gcGrpCfg1 g | .gcGrpFlow g => mayTouch who (gainOwner s g)
  | .nsCtxWord c _ => mayTouch who (noseOwner s c)
  | .jgDescErr _ p => mayTouch who (some p.val)
  | .dvMbox c => mayTouch who (coreOwner s c)
  | .dvFlowWord f _ => mayTouch who (flowOwner s f.toNat)
  | .dmaChCfg e c | .dmaChStat e c | .dmaChErr e c => mayTouch who (some (dmaPart s (dmaNo e c)))
  | .bhCtl n | .bhTxBase n | .msCtl n | .msPnThr n => mayTouch who (bpOwner s n)
  | .bhFrBase r | .bhFrPi r => mayTouch who (ringOwner s r)
  | .hwStat h | .hwCtl h => who == .host h
  | .window _ | .pciCfg _ => match who with
    | .host _ => true
    | _ => false
  | .mcPostVal p => who == .part p
  | .pwrDomStat d | .pwrRetLost d | .pwrLast d => mayTouch who (domOwner s d)
  | .readOnly => true
  | .gcCapCfg | .gcAckWait | .gcCxlMin | .nocDrainLim _ | .nocEpochLim _ | .nocReqTmo _ | .nocLnkThr _ | .nocRegCfg _ _ | .nocChg _ _
  | .nocRoute _ _ | .memCtl _ | .memRgn _ | .memRgnDef | .memScrubCfg _ | .memLastUnc _ | .memUrg _ _ | .memDly _ _ | .memInj _
  | .srScrubCfg _ | .srLastUnc _ | .memPncNs _ | .memPncBp _ | .tmCtl | .tmStat | .tmSfnOfsS | .tmSfnOfsNs | .tmSlewMax | .tmOscThr
  | .tmPpsCfg | .tmBhLat _ | .tmBhAsym _ | .tmTcMap _ | .thCfg0 | .thCfg1 => isMc who

/-! ### The writes, unit by unit -/

/-- A flag after a write of `b` to its W1C field (R9). [log 88: DESIGN CHOICE] -/
def w1c (old b : Bool) : Bool := old && !b

/-- FH_PORT_CTL (R86): DIFF_MAX takes 8 for 0 and for more than 8. EN = 0 drops the copies that wait in the deskew buffer. -/
def fhPortCtlW (x : FhPort) (v : Nat) : FhPort :=
  let d := fld v 3 4
  let x := { x with en := bit v 0, bidir := bit v 1, txAis := bit v 2, diffMax := if d = 0 ∨ 8 < d then 8 else d }
  if x.en then x else { x with copiesW := [], copiesP := [], nextF := none }

/-- A write of FH_PORT_CTL; a change of BIDIR is compared with the accepted remote mode (R82). -/
def fhPortCtlWrite (s : State) (m v : Nat) : State :=
  let old := (getFh s m).bidir
  let s := updFh s m fun x => fhPortCtlW x v
  if (getFh s m).bidir == old then s else modeCheck s m ((getFh s m).relNum.getD 0)

/-- MEM_CTL (R282): a K outside 8 to 16 is refused. -/
def memCtlW (x : MemCh) (v : Nat) : MemCh :=
  let k := fld v 2 5
  if k < 8 ∨ 16 < k then x
  else { x with scrubEn := bit v 0, rdpEn := bit v 1, rdpK := k, rowIdle := fld v 8 8, age := max 1 (fld v 16 12) }

/-- MEM_RGNi (R282): a T code 7 is refused. -/
def memRgnW (s : State) (i v : Nat) : State :=
  if fld v 49 3 = 7 then s
  else { s with mem := { s.mem with
    rgn := tset s.mem.rgn i { base := fld v 0 17, limit := fld v 24 17, valid := bit v 48, t := fld v 49 3 } } }

/-- MS_CTL (R304): a 3 in VALIDATE or CONF_OFS is refused. -/
def msCtlW (x : BhPort) (v : Nat) : BhPort :=
  if fld v 1 2 = 3 ∨ fld v 4 2 = 3 then x
  else { x with msEn := bit v 0, validate := fld v 1 2, ptpClear := bit v 3, confOfs := fld v 4 2, replay := bit v 6, window := fld v 32 32 }

/-- BH_TX_BASE (R304): TSZ, 4 to 12, is written only while EN = 0. [log 61: DESIGN CHOICE] -/
def bhTxBaseW (x : BhPort) (v : Nat) : BhPort :=
  { x with tsz := if x.en ∨ fld v 0 4 < 4 ∨ 12 < fld v 0 4 then x.tsz else fld v 0 4, txAddr := fld v 6 42 * 64 }

/-- BH_FR_BASE (R304): fields other than EN are written only while EN = 0; RSZ takes 4 to 16, and BSIZE is fixed 0 on rings 4 to 7. [log 61: DESIGN CHOICE] -/
def bhFrBaseW (r : Nat) (x : FreeRing) (v : Nat) : FreeRing :=
  if x.en then { x with en := bit v 63 }
  else { x with rsz := if fld v 0 5 < 4 ∨ 16 < fld v 0 5 then x.rsz else fld v 0 5, bsize := bit v 5 && r < 4, addr := fld v 6 42 * 64, en := bit v 63 }

/-- A NOC_REG_CFGc write (R231, R243); a rate or depth outside its range is refused, and REQ, STR and EVT have a register. -/
def nocRegCfgW (x : NocPort) (now cls v : Nat) : NocPort :=
  let r := fld v 0 11
  let b := fld v 16 12
  if cls = 1 ∨ r = 0 ∨ 1024 < r ∨ b < 65 then x else setRate x now cls r b

/-- A write to the standby epoch's route table (R232): refused while BUSY is 1. -/
def nocRouteW (s : State) (router dest v : Nat) : State :=
  let d := getNocDie s (router / 24)
  if d.busy then s
  else { s with noc := { s.noc with routes := tset s.noc.routes (b2n (!d.cur) * 2 ^ 20 + router * 2 ^ 10 + dest) (v % 16) } }

/-- DMA_CH_CFG (R259): WMAX 7 stores 6. PART follows the grant. -/
def dmaCfgW (x : DmaCh) (v : Nat) : DmaCh := { x with core := fld v 0 7, irqEn := bit v 7, hi := bit v 8, wmax := min 6 (fld v 9 3) }

/-- A panic threshold pair as a register word gives it (R282): `fh` pairs lift above the level that raises, the others below. -/
def pncW (fh : Bool) (old : Pnc) (v : Nat) : Pnc :=
  let on := if fh then fld v 0 12 else fld v 0 6
  let off := if fh then fld v 16 12 else fld v 8 6
  if (if fh then off ≤ on else on ≤ off) then old else { on := on, off := off, en := bit v 31 }

/-- Registers of the tick sequencer, lanes, framer, gain controller and Nose. -/
def radioW (s : State) (r : Reg) (v : Nat) : State :=
  match r with
  | .tickPlanCtl p => setTick s p { getTick s p with auto := bit v 2 }
  | .tickEscGrace p => setTick s p { getTick s p with grace := max 1 (fld v 0 4) }
  | .lnStat n => updLane s n fun x => { x with rej := w1c x.rej (bit v 7), wakeFail := w1c x.wakeFail (bit v 8) }
  | .fhPortCtl m => fhPortCtlWrite s m v
  | .fhPortStat m => updFh s m fun x =>
      { x with mismatch := w1c x.mismatch (bit v 18), cmdRej := w1c x.cmdRej (bit v 19), cmdCxl := w1c x.cmdCxl (bit v 20) }
  | .fhDefTime m => updFh s m fun x => { x with defSet := max 1 (fld v 0 12), defClr := max 1 (fld v 16 12) }
  | .fhLnDefl n => updRx s n fun x => { x with defl := clrBits x.defl (v % 128) }
  | .streamWord m a i => setStream s m a { getStream s m a with raw := tset (getStream s m a).raw (i.val + 1) (v % 2 ^ 32) }
  | .gcCapCfg => { s with gc := { s.gc with margin := fld v 0 8, satThr := fld v 8 10, atkThr := fld v 18 10 } }
  | .gcAckWait => { s with gc := { s.gc with ackWait := fld v 0 20 } }
  | .gcCxlMin => { s with gc := { s.gc with cxlMin := fld v 0 20 } }
  | .gcGrpCfg1 g => updGrp s g fun x => { x with efs := sx v 8, avgSh := fld v 8 3 }
  | .gcGrpFlow g => updGrp s g fun x => { x with flow := fld v 0 18 }
  | .nsCtxWord c i => setCtx s c { getCtx s c with raw := tset (getCtx s c).raw (i.val + 1) (v % 2 ^ 32) }
  | _ => s

/-- Registers of the jigs, Dovetail, the fabric and the DMA engines. -/
def moveW (s : State) (r : Reg) (v : Nat) : State :=
  match r with
  | .jgDescErr d p =>
    let k := 4 * d.val + p.val
    let x := tget s.jig.err {} k
    { s with jig := { s.jig with err := tset s.jig.err k { x with valid := w1c x.valid (bit v 63) } } }
  | .dvMbox c => setDvCore s c { getDvCore s c with mbox := fld v 5 43 * 32 }
  | .dvFlowWord f i => updFlow s f.toNat fun x =>
      let w := v % 2 ^ 32
      if i = 0 then { x with raw1 := w } else if i = 1 then { x with raw2 := w } else { x with raw3 := w }
  | .nocDrainLim d => setNocDie s d { getNocDie s d with drainLim := max 1000 (fld v 0 28) }
  | .nocEpochLim d => setNocDie s d { getNocDie s d with epochLim := max 1000 (fld v 0 28) }
  | .nocReqTmo d => setNocDie s d { getNocDie s d with reqTmo := max 10000 (fld v 0 28) }
  | .nocLnkThr d => setNocDie s d { getNocDie s d with lnkThr := max 1 (fld v 0 8) }
  | .nocRegCfg q c => setPort s q (nocRegCfgW (getPort s q) (upNs s) c v)
  | .nocChg q k => setPort s q { getPort s q with chg := lset (getPort s q).chg k (v % 2 ^ 32) }
  | .nocRoute t d => nocRouteW s t d v
  | .dmaChCfg e c => signalDma (updDma s (dmaNo e c) fun x => dmaCfgW x v) (dmaNo e c)
  | .dmaChStat e c => updDma s (dmaNo e c) fun x => { x with done := w1c x.done (bit v 4), aerr := w1c x.aerr (bit v 5) }
  | .dmaChErr e c => updDma s (dmaNo e c) fun x => { x with errV := w1c x.errV (bit v 63) }
  | _ => s

/-- Registers of the memory controllers, the SRAM scrubbers and panic. -/
def memW (s : State) (r : Reg) (v : Nat) : State :=
  match r with
  | .memCtl ch => updCh s ch fun x => memCtlW x v
  | .memRgn i => memRgnW s i v
  | .memRgnDef => if fld v 49 3 = 7 then s else { s with mem := { s.mem with rgnDefT := fld v 49 3 } }
  | .memScrubCfg ch => updCh s ch fun x => { x with gap := max 100 (fld v 0 16), lapMax := fld v 16 16 }
  | .memLastUnc ch => updCh s ch fun x => { x with lastUncV := w1c x.lastUncV (bit v 63) }
  | .memUrg ch k => updCh s ch fun x => { x with urg := lset x.urg k (v % 2 ^ 32) }
  | .memDly ch j =>
    if (getCh s ch).state = 0 ∨ (getCh s ch).state = 2 then updCh s ch fun x => { x with dly := lset x.dly j (fld v 0 10) }
    else bump s .memCfgRej ch
  | .memInj ch => updCh s ch fun x => { x with injPos := fld v 0 15, injCnt := fld v 16 4, injArm := x.injArm || bit v 20 }
  | .srScrubCfg i => setSr s i { getSr s i with gap := max 10 (fld v 0 16), lapMax := fld v 16 16 }
  | .srLastUnc i => setSr s i { getSr s i with lastUncV := w1c (getSr s i).lastUncV (bit v 63) }
  | .memPncFh m => { s with mem := { s.mem with pncFh := tset s.mem.pncFh m (pncW true (pncFh s m) v) } }
  | .memPncNs e => { s with mem := { s.mem with pncNs := tset s.mem.pncNs e (pncW false (pncNs s e) v) } }
  | .memPncBp n => { s with mem := { s.mem with pncBp := tset s.mem.pncBp n (pncW false (pncBp s n) v) } }
  | _ => s

/-- Registers of the backhaul ports and the time unit. The offset of R294 is written only while no partition exists. -/
def timeW (s : State) (r : Reg) (v : Nat) : State :=
  let free := (upFrom 0 4).all fun p => (getPart s p).st == .none
  match r with
  | .bhCtl n => updBp s n fun x => { x with en := bit v 0 }
  | .bhTxBase n => updBp s n fun x => bhTxBaseW x v
  | .msCtl n => updBp s n fun x => msCtlW x v
  | .msPnThr n => updBp s n fun x => { x with pnThr := v }
  | .bhFrBase r => setRing s r (bhFrBaseW r (getRing s r) v)
  | .bhFrPi r => setRing s r { getRing s r with pi := fld v 0 16 % 2 ^ (getRing s r).rsz }
  | .tmCtl => setTm s { s.tm with ptpPorts := fld v 0 4, extEn := bit v 4, prefExt := bit v 5, ppsFreerun := bit v 6 }
  | .tmStat => setTm s { s.tm with disagree := w1c s.tm.disagree (bit v 9) }
  | .tmSfnOfsS => if free then placeGrid (setTm s { s.tm with ofsS := fld v 0 48 }) s.tu.mu else s
  | .tmSfnOfsNs => if free then placeGrid (setTm s { s.tm with ofsNs := fld v 0 32 }) s.tu.mu else s
  | .tmSlewMax => if fld v 0 13 = 0 ∨ 5000 < fld v 0 13 then s else setTm s { rebase s (phaseNow s) with slewMax := fld v 0 13 }
  | .tmOscThr => if fld v 0 13 < 10 ∨ 5000 < fld v 0 13 then s else setTm s { s.tm with oscThr := fld v 0 13 }
  | .tmPpsCfg => setTm s { s.tm with ppsIn := fld v 0 16, ppsOut := fld v 16 16 }
  | .tmBhLat n => updBp s n fun x => { x with lat := some (v % 2 ^ 32) }
  | .tmBhAsym n => updBp s n fun x => { x with asym := sx v 32 }
  | .tmTcMap m =>
    if fhOwner s m == bpOwner s (fld v 0 2) then setTm s { s.tm with tcMap := tset s.tm.tcMap m (fld v 0 2 + b2n (bit v 31) * 2 ^ 31) } else s
  | _ => s

/-- HW_CTL (R326): the alert enables, and ABORT, which R315 states. -/
def hwCtlW (s : State) (h v : Nat) : State :=
  if !portUp s h then s
  else
    let s := updHost s h fun x => { x with rplEn := bit v 1, evtEn := bit v 2 }
    if bit v 0 then abortHost s h else s

/-- A write of TH_CFG0 or TH_CFG1 by the MC takes effect at the next tick start, as a THERM_CFG and a change of TH_MODE do (R366, R378). [log 79: DEDUCED] -/
def thCfgW (s : State) (f : ThCfg → ThCfg) : State := { s with th := { s.th with pend := some (f (s.th.pend.getD s.th.cfg)) } }

/-- Registers of the host window, the post registers, the power sequencer and the thermal supervisor. -/
def adminW (s : State) (r : Reg) (v : Nat) : State :=
  match r with
  | .hwStat h => updHost s h fun x =>
      { x with ovf := w1c x.ovf (bit v 5), unf := w1c x.unf (bit v 6), dberr := w1c x.dberr (bit v 7), flush := w1c x.flush (bit v 8) }
  | .hwCtl h => hwCtlW s h v
  | .mcPostVal p => updHost s p fun x => { x with postVal := BitVec.ofNat 64 v }
  | .pwrDomStat d => updDom s d fun x => { x with retLost := w1c x.retLost (bit v 6) }
  | .pwrRetLost d => updDom s d fun x => { x with retBanks := clrBits x.retBanks v }
  | .pwrLast d => updDom s d fun x => { x with lastV := w1c x.lastV (bit v 7) }
  | .thCfg0 => thCfgW s fun c => { c with
      warn := fld v 0 8, throttle := fld v 8 8, shut := fld v 16 8, warnHyst := fld v 24 4, thrHyst := fld v 28 4, shutHyst := fld v 32 4 }
  | .thCfg1 => thCfgW s fun c => { c with step := fld v 0 6, min_ := fld v 6 7, hold := fld v 16 16, mode := fld v 32 16 }
  | _ => s

/-- The effect of a write that its unit performs. Each register belongs to one of the groups; the others leave the state as it is.
[log 9: DESIGN CHOICE; log 89: DEDUCED] -/
def regW (s : State) (r : Reg) (v : Nat) : State := adminW (timeW (memW (moveW (radioW s r v) r v) r v) r v) r v

/-! ### The host window and configuration space (R305, R307) -/

/-- A write of the 64-bit word at an offset of host `h`'s window (R307): the registers that have no row are written, a word in the command aperture is
pushed; an offset that is not listed ignores writes, and so does a register at one that is not aligned. A word of the command aperture that is not
aligned is a partial-word access (R308). [log 45: DESIGN CHOICE] -/
def windowW (s : State) (h : Fin 4) (o v : Nat) : State :=
  let res := fun (r : Res) => match r with
    | .next t => t
    | _ => s
  if o = 0x08 then adminW s (.hwStat h) v
  else if o = 0x10 then hwCtlW s h v
  else if o = 0x18 then res (execHostDoorbell h (BitVec.ofNat 15 v) false s)
  else if 0x80000 ≤ o ∧ o < 0xC0000 then res (execHostCmdPush h [BitVec.ofNat 64 v] (o % 8 != 0) s)
  else s

/-- A read of the 64-bit word at an offset of host `h`'s window (R307, R326): its value and the state. HW_EVT_LOST is cleared, the event and reply apertures
pop a word, or all ones where the access cuts words (R308), and an offset that is not listed reads as zero; the spec gives no value for a read of the command
aperture or for one of a register that is not aligned. [log 45: DESIGN CHOICE] -/
def windowR (s : State) (h : Fin 4) (o : Nat) : Nat × State :=
  let x := getHost s h
  let pop := fun (r : Res) => match r with
    | .next t => ((lget (getHost t h).read 0 0).toNat, t)
    | _ => (0, s)
  if 0x1000 ≤ o ∧ o < 0x2000 then pop (execHostEvtPop h 1 (o % 8 != 0) s)
  else if 0xC0000 ≤ o then pop (execHostRplPop h 1 (o % 8 != 0) s)
  else if 0x80000 ≤ o ∨ (o < 0x40 ∧ o % 8 ≠ 0) then takeFree s 64
  else if 0x40 ≤ o then (0, s)
  else match o / 8 with
    | 0 => (hwId s h, s)
    | 1 => (hwStat s h, s)
    | 2 => (2 * b2n x.rplEn + 4 * b2n x.evtEn, s)
    | 4 => (cmdSpace x, s)
    | 5 => (rplLvl x, s)
    | 6 => (evtLvl x, s)
    | 7 => (ctrGet s .hwEvtLost h, ctrSet s .hwEvtLost h 0)
    | _ => (0, s)

/-- A write by host `h` through its own port: the window, or the configuration space. -/
def hostW (s : State) (h : Fin 4) (r : Reg) (v : Nat) : State :=
  match r with
  | .window o => windowW s h o.toNat v
  | .pciCfg i => updHost s h fun x => pciWrite x i v
  | _ => s

/-- DMA_CH_CFG.PART of a system-engine channel, which the MC alone writes (R244, R259). -/
def dmaPartW (s : State) (who : Agent) (r : Reg) (v : Nat) : State :=
  match who, r with
  | .mc, .dmaChCfg e c => if 24 ≤ e.val then updDma s (dmaNo e c) fun x => { x with part := some (fld v 16 2) } else s
  | _, _ => s

/-- The port at which a register on a compute die is reached (R222); none for one on the IOD. -/
def regPort (r : Reg) : Option Nat :=
  match r with
  | .dmaChCfg e _ | .dmaChStat e _ | .dmaChErr e _ => if e.val < 24 then some (unitPort (.dma e) 0) else none
  | .jgDescErr d _ => some (unitPort (.jig d) 0)
  | .dvMbox c => some (72 * coreDie c + 4)
  | .dvFlowWord f _ => some (72 * flowDie f.toNat + 4)
  | .nocDrainLim d | .nocEpochLim d | .nocReqTmo d | .nocLnkThr d => some (unitPort (.fabric d) 0)
  | .memCtl ch | .memScrubCfg ch | .memLastUnc ch | .memUrg ch _ | .memDly ch _ | .memInj ch => some (unitPort (.mem ch) 0)
  | _ => none

/-- Does the register stand on a die that is lost (R399)? -/
def regLost (s : State) (r : Reg) : Bool := (regPort r).any fun q => dieOut s (portDie q)

/-- The STATUS with which a closed domain answers a register access: the registers of cluster DMA engines lie in the groups. [log 9: DESIGN CHOICE] -/
def regGate (s : State) (r : Reg) : Nat :=
  match regPort r with
  | some q => portGate s q
  | none => 0

/-- Does a register belong to a host port that is in reset (R306)? Nothing reaches it then. -/
def portDown (s : State) (who : Agent) : Bool :=
  match who with
  | .host h => !portUp s h
  | _ => false

/-- R5, R9, R10: a write of a register. A foreign one has no effect; read-only and rsvd bits are ignored. [log 9: DESIGN CHOICE] -/
def execRegWrite (who : Agent) (r : Reg) (val : Word) (s : State) : Res :=
  if portDown s who then .next s
  else if regLost s r then .next (answer s 4 0)
  else if !regMay s who r then .next (foreign s)
  else if regGate s r != 0 then .next (answer (noteGate s ((regPort r).getD 0) (regGate s r)) (regGate s r) 0)
  else match who with
    | .host h => .next (done (hostW (regW s r val.toNat) h r val.toNat))
    | _ => .next (done (dmaPartW (regW s r val.toNat) who r val.toNat))

/-! ### Counters (R9, R11) -/

/-- The owner of a counter's bank (R5); none where the counter belongs to the module. [log 9: DESIGN CHOICE] -/
def ctrOwner (s : State) (c : Counter) (bank : Nat) : Option (Option Nat) :=
  match c with
  | .tickOvrDrop | .tickOvrDeg | .tickOvrEsc | .tickInjFail | .tickBudgetExc | .tickWinRej => some (some bank)
  | .lnFecCw | .lnFecCorr | .lnFecUncorr | .lnFecSym | .lnPrbsBits | .lnPrbsErr | .lnGapErr | .lnRateOor | .lnSleepRej
  | .fhLnBip | .fhLnOhcrc | .fhLnCandOvf | .fhLnEs | .fhLnSes | .fhLnUas | .fhLnRei => some (laneOwner s bank)
  | .fhLate | .fhEarly | .fhHcrcErr | .fhUnk | .fhDup | .fhTxLate | .fhTxFmt | .fhSelSw | .fhPktDrop | .fhSrInv | .fhPes | .fhPses | .fhPuas =>
    some (fhOwner s bank)
  | .gcSteps | .gcNoack | .gcCapt => some (gainOwner s bank)
  | .jgDone | .jgSubRej | .jgCxlMiss | .jgDescErr | .jgCrcFail | .jgRetry => some (some (bank % 4))
  | .dmaLate | .dmaRej => some (some (dmaPart s bank))
  | .bhRxErr | .bhRxCtl | .bhRxNomatch | .bhRxOvsz | .bhRxNobuf | .bhRxFifo | .bhRxFrm | .bhTxFrm | .msRxOk | .msRxLate | .msRxInvalid
  | .msRxNotvalid | .msRxNosa | .msRxUntagged | .msTxProt | .msTxPnExh => some (bpOwner s bank)
  | .dvEnqRej | .dvCxlPre | .dvCxlRun | .dvTomb | .dvRelBad | .dvCxlMiss | .dvFwdStall | .dvFwdFail | .dvCfgRej => some (some (bank % 4))
  | .dvWaitHist => some (some (bank / 16 % 4))
  | _ => none

/-- May the agent read a counter? Banks that have an owner are open to it and the MC only (R226), HW_EVT_LOST to its host; every partition may read the
others. [log 9: DESIGN CHOICE] -/
def ctrMay (s : State) (who : Agent) (c : Counter) (bank : Nat) : Bool :=
  match who with
  | .mc => true
  | .host h => c == .hwEvtLost && bank == h.val
  | .part p => c != .hwEvtLost && (match ctrOwner s c bank with
      | some o => o == some p.val
      | none => true)

/-- The partition that an agent's register read stands for; none for the MC. -/
def readerOf (who : Agent) : Option Nat :=
  match who with
  | .part p => some p
  | .host _ => some 4
  | .mc => none

/-- R9 to R11: a read of a register. An RC counter answers its value and is cleared; `same` events of the same cycle stay counted. A host reads its
window and its port's configuration space, software and the MC the units' blocks; a refused read answers its STATUS.
[log 9: DESIGN CHOICE; log 88: DESIGN CHOICE] -/
def execCounterReadClear (who : Agent) (r : RdReg) (same : Nat) (s : State) : Res :=
  if portDown s who then .next s
  else match r, who with
    | .ctr c bank, _ =>
      if !ctrMay s who c bank then .next (foreign s)
      else .next (answer (ctrSet s c bank (min (Counter.top c) same)) 0 (ctrGet s c bank))
    | .block _ _ _, .host _ => .next (foreign s)
    | .block u o n, _ =>
      let g := portGate s (unitPort u o.toNat)
      if g != 0 then .next (answer (noteGate s (unitPort u o.toNat) g) g 0)
      else match regRead s (readerOf who) u o.toNat n with
        | (0, bs, s') => .next (answer s' 0 (ofLe bs))
        | (st, _, s') => .next (answer s' st 0)
    | .window o, .host h =>
      let (v, s') := windowR s h o.toNat
      .next (answer s' 0 v)
    | .config i, .host h => .next (answer s 0 (pciConfig (getHost s h) i))
    | _, _ => .next (foreign s)

end Sys2Proof.Machine
end

