-- ==== Sys2Proof/Machine/DevWrite.lean ====
section
/-!
DEFINITION. Writes that reach a unit's block through the fabric (R12, R222, R225): each is the write of the register at its offset.
-/
namespace Sys2Proof.Machine

/-- The state that a meaning leads to. -/
def resState (r : Res) (s : State) : State :=
  match r with
  | .next t => t
  | _ => s

/-- The agent that a partition stamp stands for (R224): none for the MC, and no agent where no partition owns the sender. -/
def agentOf (p : Option Nat) : Option Agent :=
  match p with
  | none => some .mc
  | some p => if p < 4 then some (.part (Fin.ofNat 4 p)) else none

/-- The bytes of the register that begins at an offset; 0 where none does. -/
def cellSize (x : Cell) : Nat :=
  match x with
  | .none => 0
  | .w32 _ => 4
  | .w64 _ => 8
  | .rc c _ => if Counter.top c = 2 ^ 48 - 1 then 8 else 4

/-! ### Writes by unit -/

/-- LN_CTL (R52): the sleep fields are written each time, since of the values written during a transition the last one takes effect (R51); a change of
another field is its own command; ERR_INJ acts when written with 1. [log 45: DESIGN CHOICE] -/
def lnCtlW (s : State) (who : Agent) (n : Fin 80) (v : Nat) : State :=
  if !mayTouch who (laneOwner s n) then foreign s
  else
    let x := getLane s n
    let s := rxWrite (txWrite s n (fld v 0 2)) n (fld v 2 2)
    let s := if fld v 4 2 = x.txMode then s else resState (execLnTxMode who n (Fin.ofNat 4 (fld v 4 2)) s) s
    let s := if fld v 6 2 = x.rxChk then s else resState (execLnRxChk who n (Fin.ofNat 4 (fld v 6 2)) s) s
    done (if bit v 8 then resState (execLnErrInj who n s) s else s)

/-- FH_PROT_CMD (R81, R86). -/
def protW (s : State) (who : Agent) (m : Fin 32) (v : Nat) : State :=
  let l := Fin.ofNat 2 (fld v 2 1)
  match fld v 0 2 with
  | 0 => resState (execFhProtClear who m l s) s
  | 1 => resState (execFhProtLockout who m l s) s
  | 2 => resState (execFhProtForcedSwitch who m l s) s
  | _ => resState (execFhProtManualSwitch who m l s) s

/-- DMA_CH_CTL (R256, R257, R259): a change of PAUSE, then RUN, then STOP. [log 45: DESIGN CHOICE] -/
def dmaCtlW (s : State) (who : Agent) (e : Fin 28) (c : Fin 16) (v : Nat) : State :=
  let was := (getDma s (dmaNo e c)).pause
  let s := if bit v 1 && !was then resState (execDmaPause who e c s) s else if !bit v 1 && was then resState (execDmaResume who e c s) s else s
  let s := if bit v 0 then resState (execDmaRun who e c s) s else s
  if bit v 2 then resState (execDmaStop who e c s) s else s

/-- A write of a plain register. -/
def plainW (s : State) (who : Agent) (r : Reg) (v : Nat) : State := resState (execRegWrite who r (BitVec.ofNat 64 v) s) s

def timeStore (s : State) (who : Agent) (o v : Nat) : State :=
  let w := BitVec.ofNat 32 v
  let n : Fin 4 := Fin.ofNat 4 ((o - 0x2100) / 0x10)
  if 0x1000 ≤ o ∧ o < 0x1400 then
    let p : Fin 4 := Fin.ofNat 4 ((o - 0x1000) / 0x100)
    match o % 0x100 with
    | 0x00 => plainW s who (.tickPlanCtl p) v
    | 0x14 => plainW s who (.tickEscGrace p) v
    | 0x18 => resState (execTickEvtFlowWrite who p w s) s
    | _ => if mayTouch who (some p.val) then done s else foreign s
  else if 0x2100 ≤ o ∧ o < 0x2140 then plainW s who (if o % 0x10 = 0 then .tmBhLat n else .tmBhAsym n) v
  else if 0x2200 ≤ o ∧ o < 0x2280 then plainW s who (.tmTcMap (Fin.ofNat 32 ((o - 0x2200) / 4))) v
  else match o with
    | 0x2000 => plainW s who .tmCtl v
    | 0x2004 => plainW s who .tmStat v
    | 0x2010 => if bit v 0 then resState (execTmSnap who s) s else done s
    | 0x2028 => plainW s who .tmSfnOfsS v
    | 0x2030 => plainW s who .tmSfnOfsNs v
    | 0x2034 => plainW s who .tmSlewMax v
    | 0x2040 => plainW s who .tmPpsCfg v
    | 0x2044 => plainW s who .tmOscThr v
    | _ => done s

def laneStore (s : State) (who : Agent) (o v : Nat) : State :=
  let n : Fin 80 := Fin.ofNat 80 ((o - 0x10000) / 0x100)
  match o % 0x100 with
  | 0x00 => lnCtlW s who n v
  | 0x04 => plainW s who (.lnStat n) v
  | _ => done s

def framerStore (s : State) (who : Agent) (o v : Nat) : State :=
  let m : Fin 32 := Fin.ofNat 32 (o / 0x400)
  let w := BitVec.ofNat 32 v
  if 0x100000 ≤ o then
    let m : Fin 32 := Fin.ofNat 32 ((o - 0x100000) / 0x8000)
    let a : Fin 1024 := Fin.ofNat 1024 (o % 0x8000 / 32)
    let i := o % 32 / 4
    if i = 0 then resState (execStreamEntryWrite who m a w s) s else plainW s who (.streamWord m a (Fin.ofNat 7 (i - 1))) v
  else match o % 0x400 with
    | 0x000 => plainW s who (.fhPortCtl m) v
    | 0x004 => plainW s who (.fhPortStat m) v
    | 0x008 => protW s who m v
    | 0x00C => plainW s who (.fhDefTime m) v
    | 0x010 => resState (execFhDegThrWrite who m w s) s
    | 0x014 => resState (execFhPktFlowWrite who m w s) s
    | 0x104 => plainW s who (.fhLnDefl (Fin.ofNat 64 (2 * m.val))) v
    | 0x204 => plainW s who (.fhLnDefl (Fin.ofNat 64 (2 * m.val + 1))) v
    | _ => done s

def gainStore (s : State) (who : Agent) (o v : Nat) : State :=
  if o < 0x1000 then plainW s who (if o = 0 then .gcCapCfg else if o = 4 then .gcAckWait else .gcCxlMin) v
  else
    let g : Fin 256 := Fin.ofNat 256 ((o - 0x1000) / 0x40)
    match o % 0x40 with
    | 0x00 => resState (execGcGrpCfg0Write who g (BitVec.ofNat 32 v) s) s
    | 0x04 => plainW s who (.gcGrpCfg1 g) v
    | 0x18 => plainW s who (.gcGrpFlow g) v
    | _ => done s

def noseStore (s : State) (who : Agent) (o v : Nat) : State :=
  if o < 0x100000 then done s
  else
    let c : Fin 256 := Fin.ofNat 256 ((o - 0x100000) / 64)
    let i := o % 64 / 4
    if i = 0 then resState (execNsCtxWrite who c (BitVec.ofNat 32 v) s) s else plainW s who (.nsCtxWord c (Fin.ofNat 15 (i - 1))) v

def jigStore (s : State) (who : Agent) (d : Fin 2) (o v : Nat) : State :=
  let p : Fin 4 := Fin.ofNat 4 ((o - 0x1000) / 0x100)
  let b := o % 0x100
  if o < 0x1000 then done s
  else if b < 0x28 then resState (execJgSubmit who d p (Fin.ofNat 5 (b / 8)) (BitVec.ofNat 48 v) s) s
  else if 0x40 ≤ b ∧ b < 0x68 then resState (execJgCancel who d p (Fin.ofNat 5 ((b - 0x40) / 8)) (BitVec.ofNat 48 v) s) s
  else if b = 0xA8 then plainW s who (.jgDescErr d p) v
  else done s

def dvStore (s : State) (who : Agent) (d : Fin 2) (o v : Nat) : State :=
  if 0x800000 ≤ o then
    let f := BitVec.ofNat 18 ((o - 0x800000) / 64 + d.val * 2 ^ 17)
    let i := o % 64 / 4
    if i = 0 then resState (execDvFlowCfgWrite who f (BitVec.ofNat 32 v) s) s
    else if i < 4 then plainW s who (.dvFlowWord f (Fin.ofNat 3 (i - 1))) v
    else done s
  else if 0x3000 ≤ o then
    if o % 0x40 = 0 then plainW s who (.dvMbox (Fin.ofNat 112 (globalCore d ((o - 0x3000) / 0x40)))) v else done s
  else if 0x1000 ≤ o ∧ 0x10 ≤ o % 0x400 ∧ o % 0x400 < 0x90 then
    resState (execDvCsetWrite who d (Fin.ofNat 4 ((o - 0x1000) / 0x400)) (Fin.ofNat 16 ((o % 0x400 - 0x10) / 8)) (BitVec.ofNat 64 v) s) s
  else done s

def fabricStore (s : State) (who : Agent) (d : Fin 3) (o v : Nat) : State :=
  if !isMc who then foreign s
  else if o < 0x1000 then
    match o with
    | 0x00 => if bit v 2 then epochGo (done s) d else done s
    | 0x08 => plainW s who (.nocDrainLim d) v
    | 0x0C => plainW s who (.nocEpochLim d) v
    | 0x10 => plainW s who (.nocReqTmo d) v
    | 0x14 => plainW s who (.nocLnkThr d) v
    | _ => done s
  else if o < 0x10000 then
    let q : Fin 160 := Fin.ofNat 160 (72 * d.val + (o - 0x1000) / 0x40)
    let b := o % 0x40
    if b < 0x10 then plainW s who (.nocRegCfg q (Fin.ofNat 4 (b / 4))) v
    else if 0x20 ≤ b ∧ b < 0x34 then plainW s who (.nocChg q (Fin.ofNat 5 ((b - 0x20) / 4))) v
    else done s
  else done s

def dmaStore (s : State) (who : Agent) (e : Fin 28) (o v : Nat) : State :=
  let c : Fin 16 := Fin.ofNat 16 ((o - 0x1000) / 0x100)
  match o % 0x100 with
  | 0x00 => dmaCtlW s who e c v
  | 0x04 => resState (execDmaDoorbell who e c s) s
  | 0x08 => plainW s who (.dmaChCfg e c) v
  | 0x0C => plainW s who (.dmaChStat e c) v
  | 0x10 => resState (execDmaChDescWrite who e c false (BitVec.ofNat 64 v) s) s
  | 0x1C => resState (execDmaChDescWrite who e c true (BitVec.ofNat 64 v) s) s
  | 0x40 => plainW s who (.dmaChErr e c) v
  | _ => done s

def memStore (s : State) (who : Agent) (ch : Fin 16) (o v : Nat) : State :=
  if 0x10 ≤ o ∧ o < 0x50 then plainW s who (.memRgn (Fin.ofNat 8 ((o - 0x10) / 8))) v
  else if 0x80 ≤ o ∧ o < 0x94 then plainW s who (.memUrg ch (Fin.ofNat 5 ((o - 0x80) / 4))) v
  else if 0x100 ≤ o ∧ o < 0x11C then plainW s who (.memDly ch (Fin.ofNat 7 ((o - 0x100) / 4))) v
  else match o with
    | 0x000 => plainW s who (.memCtl ch) v
    | 0x050 => plainW s who .memRgnDef v
    | 0x058 => plainW s who (.memScrubCfg ch) v
    | 0x070 => plainW s who (.memLastUnc ch) v
    | 0x120 => plainW s who (.memInj ch) v
    | _ => done s

def sramStore (s : State) (who : Agent) (o v : Nat) : State :=
  let i : Fin 27 := Fin.ofNat 27 (o / 0x400)
  match o % 0x400 with
  | 0x00 => plainW s who (.srScrubCfg i) v
  | 0x18 => plainW s who (.srLastUnc i) v
  | _ => done s

def panicStore (s : State) (who : Agent) (o v : Nat) : State :=
  if o < 0x80 then plainW s who (.memPncFh (Fin.ofNat 32 (o / 4))) v
  else if o < 0x88 then plainW s who (.memPncNs (Fin.ofNat 2 ((o - 0x80) / 4))) v
  else if 0x90 ≤ o ∧ o < 0xA0 then plainW s who (.memPncBp (Fin.ofNat 4 ((o - 0x90) / 4))) v
  else done s

def bhStore (s : State) (who : Agent) (o v : Nat) : State :=
  let n : Fin 4 := Fin.ofNat 4 (o / 0x1000)
  let b := o % 0x1000
  let w := BitVec.ofNat 32 v
  if 0x8000 ≤ o then
    let r : Fin 8 := Fin.ofNat 8 ((o - 0x8000) / 0x20)
    match o % 0x20 with
    | 0x00 => plainW s who (.bhFrBase r) v
    | 0x08 => plainW s who (.bhFrPi r) v
    | _ => done s
  else if 0x400 ≤ b ∧ b < 0x600 then resState (execBhRuleWrite who n (Fin.ofNat 64 ((b - 0x400) / 8)) (BitVec.ofNat 64 v) s) s
  else match b with
    | 0x00 => plainW s who (.bhCtl n) v
    | 0x08 => resState (execBhFlowWrite who n false w s) s
    | 0x0C => resState (execBhFlowWrite who n true w s) s
    | 0x10 => plainW s who (.bhTxBase n) v
    | 0x18 => resState (execBhTxTailWrite who n (BitVec.ofNat 12 v) s) s
    | 0x20 => plainW s who (.msCtl n) v
    | 0x28 => plainW s who (.msPnThr n) v
    | _ => done s

def mcStore (s : State) (who : Agent) (o v : Nat) : State :=
  if 0x20000 ≤ o ∧ o < 0x20040 then
    let p : Fin 4 := Fin.ofNat 4 ((o - 0x20000) / 0x10)
    if o % 0x10 = 0 then plainW s who (.mcPostVal p) v else resState (execPartMsgPost who p (BitVec.ofNat 64 v) s) s
  else done s

def powerStore (s : State) (who : Agent) (o v : Nat) : State :=
  let d : Fin 24 := Fin.ofNat 24 ((o - 0x1000) / 0x80)
  if o < 0x1000 then done s
  else match o % 0x80 with
    | 0x00 => if bit v 0 then resState (execPwrWakeRequest who d s) s else done s
    | 0x08 => plainW s who (.pwrDomStat d) v
    | 0x18 => plainW s who (.pwrRetLost d) v
    | 0x20 => plainW s who (.pwrLast d) v
    | _ => done s

def thermStore (s : State) (who : Agent) (o v : Nat) : State :=
  match o with
  | 0x0000 => plainW s who .thCfg0 v
  | 0x0008 => plainW s who .thCfg1 v
  | _ => done s

/-! ### A write through the fabric -/

/-- A write of the register that begins at an offset. A register without a writable field ignores it (R9). -/
def regStore (s : State) (who : Agent) (u : RegUnit) (o v : Nat) : State :=
  match u with
  | .core _ => done s
  | .dma e => dmaStore s who e o v
  | .jig d => jigStore s who d o v
  | .dovetail d => dvStore s who d o v
  | .fabric d => fabricStore s who d o v
  | .framer => framerStore s who o v
  | .lanes => laneStore s who o v
  | .gain => gainStore s who o v
  | .nose => noseStore s who o v
  | .mem ch => memStore s who ch o v
  | .sram => sramStore s who o v
  | .panic => panicStore s who o v
  | .backhaul => bhStore s who o v
  | .time => timeStore s who o v
  | .mc => mcStore s who o v
  | .power => powerStore s who o v
  | .thermal => thermStore s who o v

/-- The writes that a packet of bytes from offset `o` on makes, the word at each offset of `os` in turn: a register that lies wholly in the packet is
written. Answers the first STATUS that is not 0. -/
def storeWords (s : State) (who : Agent) (u : RegUnit) (o : Nat) (bs : List Byte) : List Nat → Nat × State
  | [] => (0, s)
  | k :: r =>
    let n := cellSize (cellAt s u k)
    let s := if n ≠ 0 ∧ o ≤ k ∧ k + n ≤ o + bs.length then regStore (done s) who u k (ofLe ((bs.drop (k - o)).take n)) else done s
    let st := s.answer.status
    match storeWords s who u o bs r with
    | (st', s') => (if st = 0 then st' else st, s')

/-- A write of bytes at an offset of a unit's block by an agent of partition `who` (none: the MC): an egress aperture takes the packet as a section (R65);
elsewhere its registers are written from the highest offset down, so that a descriptor's bytes 3:0 come last (R62, R100, R206). [log 45: DESIGN CHOICE] -/
def devWrite (s : State) (who : Option Nat) (u : RegUnit) (o : Nat) (bs : List Byte) : Nat × State :=
  match agentOf who with
  | none => (5, s)
  | some a =>
    if u = .framer ∧ 0x200000 ≤ o ∧ o < 0x400000 then
      let t := resState (execFhEgressWrite a (Fin.ofNat 32 ((o - 0x200000) / 0x10000)) bs s) s
      (t.answer.status, t)
    else
      storeWords s a u o bs ((upFrom (o / 4) ((o + bs.length + 3) / 4 - o / 4)).map fun i => 4 * i).reverse

end Sys2Proof.Machine
end

