-- ==== Sys2Proof/Machine/Fabric.lean ====
section
/-!
DEFINITION. The rows of the Spline fabric (10_spline_fabric R223 to R237): injection, the delivery of each command, timeouts and route epochs.
-/
namespace Sys2Proof.Machine

/-! ### Injection (R231) -/

/-- The packet that a port makes of a request (R224); its SEQ and EPOCH follow as it is formed and starts. -/
def makePkt (s : State) (src dest : Nat) (r : NocReq) : Pkt :=
  let cmd := r.cmd.toNat
  let st := cmd = 2 ∨ cmd = 0x20 ∨ cmd = 0x21
  { jigDom := senderDom s src r.subsrc.toNat r.part.val
    dest := dest, src := src, subsrc := r.subsrc.toNat, cls := cmdClass cmd, cmd := cmd, epoch := (getPort s src).epoch, addr := r.addr.toNat
    len := r.len.toNat, seq := 0, status := 0, part := portPart s src r.subsrc.toNat r.part.val, page := r.page.toNat, aop := r.aop.toNat, aw := r.aw
    opnd := r.opnd, cmp := r.cmp
    data := if st then (r.data ++ List.replicate r.len.toNat 0).take r.len.toNat else if cmd = 0x30 then (r.data ++ List.replicate 32 0).take 32 else [] }

/-- Is a request a packet that an agent forms: of class REQ, STR or EVT, its length in range, within one 4 KiB block (R223, R225)? DVANS is
Dovetail's own. -/
def reqFits (r : NocReq) : Bool :=
  let a := r.addr.toNat
  let n := r.len.toNat
  let cmd := r.cmd.toNat
  if cmd = 3 then n == (if r.aw then 8 else 4) && a % n == 0
  else if cmdClass cmd = 3 then cmd != 0x31
  else cmdClass cmd < 3 && cmdClass cmd != 1 && n ≤ 4096 && (n == 0 || a / 4096 == (a + n - 1) / 4096)

/-- The port that a request goes to (R222): Dovetail of the flow's die for an item, else the address's; the port computes it, and an agent's own DEST counts
for nothing. -/
def reqDest (r : NocReq) : Option Nat :=
  if r.cmd = 0x30 then some (72 * flowDie (recordItem r.data).flow + 4)
  else destOf r.addr.toNat

/-- R231: an agent hands a packet to its port, and the port starts what it may start: packets wait in order while their gate is closed, their class
is held (R232) or their bucket is short. An address that maps to no target is answered at once with STATUS 4 (R222). With no new packet the
port starts what has waited. [log 15: DESIGN CHOICE] -/
def execNocInject (src : Fin 160) (r : Option NocReq) (s : State) : Res :=
  match r with
  | none => .next (pump s src)
  | some r =>
    if !reqFits r ∨ !agentAt src r.subsrc.toNat ∨ !servesPart s src r.subsrc.toNat r.part.val then .next s
    else match reqDest r with
      | none =>
        let p := { makePkt s src src r with seq := tget (getPort s src).seq 0 (cmdClass r.cmd.toNat) }
        .next (answerAgent s src (rspOf s p (if p.cls = 2 then 0x14 else dueAnswer p.cmd) 4 0 []))
      | some d => .next (sendPkt s src (makePkt s src d r))

/-! ### Requests and stream writes at their target (R225, R226); `bad` is the die where a header unit fails its HCRC, if one does (R237) -/

/-- The access of a packet to the memory or the registers at its target (R225, R226). [log 45: DESIGN CHOICE] -/
def pktRead (s : State) (p : Pkt) : Nat × List Byte × State :=
  match targetOf p.addr, regAddr p.addr with
  | .regs, some (u, o) => regRead s p.part u o p.len
  | _, _ => memRead s p.part p.addr p.len

/-- What a write packet does at its target: the status and what changed (R225, R226). [log 45: DESIGN CHOICE] -/
def pktWrite (s : State) (p : Pkt) : Nat × State :=
  match targetOf p.addr, regAddr p.addr with
  | .regs, some (u, o) => devWrite s p.part u o p.data
  | _, _ =>
    let (st, _, s) := memWrite s p.part p.addr p.data
    (st, s)

/-- R225: READ is answered with RDATA. -/
def execNocRead (src dest : Fin 160) (bad : Option (Fin 3 × BitVec 512)) (s : State) : Res :=
  .next (arrive s src dest 0x01 bad fun s p =>
    let (st, bs, s) := pktRead s p
    sendRsp s p 0x10 st 0 (if st = 0 then bs else []))

/-- R225: WRITE is performed and answered with WACK. -/
def execNocWrite (src dest : Fin 160) (bad : Option (Fin 3 × BitVec 512)) (s : State) : Res :=
  .next (arrive s src dest 0x02 bad fun s p =>
    let (st, s) := pktWrite s p
    sendRsp s p 0x11 st 0 [])

/-- R225: ATOMIC is performed and answered with AACK, which carries the old value. -/
def execNocAtomic (src dest : Fin 160) (bad : Option (Fin 3 × BitVec 512)) (s : State) : Res :=
  .next (arrive s src dest 0x03 bad fun s p =>
    let n := if p.aw then 8 else 4
    let (st, old, s) := memAtomic s p.part p.addr n p.aop p.opnd.toNat p.cmp.toNat
    sendRsp s p 0x12 st (BitVec.ofNat 64 old) [])

/-- R225: SWRITE is performed, and answered only on refusal. -/
def execNocSwrite (src dest : Fin 160) (bad : Option (Fin 3 × BitVec 512)) (s : State) : Res :=
  .next (arrive s src dest 0x20 bad fun s p =>
    let (st, s) := pktWrite s p
    if st = 0 then s else refusePkt s p st)

/-- R225: SWRITE_L is performed and answered with LANDED, or refused with SNAK. -/
def execNocSwriteL (src dest : Fin 160) (bad : Option (Fin 3 × BitVec 512)) (s : State) : Res :=
  .next (arrive s src dest 0x21 bad fun s p =>
    let (st, s) := pktWrite s p
    if st = 0 then sendRsp s p 0x13 0 0 [] else refusePkt s p st)

/-! ### Events (R225, R234) -/

/-- The item of a DVITEM packet: from a core it is KIND 0 (R207), from another unit as its record says. -/
def pktItem (p : Pkt) : NewItem :=
  let n := recordItem p.data
  if (portCore p.src).isSome then n
  else { n with kind := fld (ofLe ((p.data.drop 8).take 4)) 22 5 }

/-- R225: DVITEM carries an item to Dovetail, which answers a core's enqueue with DVANS. -/
def execNocDvitem (src dest : Fin 160) (bad : Option (Fin 3 × BitVec 512)) (s : State) : Res :=
  .next (arrive s src dest 0x30 bad fun s p =>
    let core := (portCore p.src).isSome && p.subsrc == 0
    let pt := p.part.getD 4
    let (r, s, it) := if core then enqueue s pt (pktItem p) else enqueueExt s pt (pktItem p)
    if core then
      let v := match it with
        | some i => handleWord i.hdl
        | none => BitVec.ofNat 64 r
      sendPkt s p.dest { rspOf s p 0x31 0 v [] with cls := 3, status := 0 }
    else s)

/-- R225: DVANS returns the answer of a DV.ENQ to its core; at a closed gate it is a wake request (R234). -/
def execNocDvans (src dest : Fin 160) (bad : Option (Fin 3 × BitVec 512)) (s : State) : Res :=
  .next (arrive s src dest 0x31 bad fun s p =>
    let s := answerAgent s dest p
    match portDom dest with
    | some d => if portGate s dest != 0 then wakeReq s d false 1 else s
    | none => s)

/-- R225: NOTIFY sets the HZ_IP bit it names at a core; at a closed gate it is a wake request as well (R234). Bits that are read from their
sources (TMR, DV, DMA) hold nothing to set, RASP stands on Chisel cores and EXT on Bench cores only (R123). One from another partition does not touch the core (R226). -/
def execNocNotify (src dest : Fin 160) (bad : Option (Fin 3 × BitVec 512)) (s : State) : Res :=
  .next (arrive s src dest 0x32 bad fun s p =>
    match portCore dest with
    | none => s
    | some c =>
      if p.part.isSome && p.part != corePart s c then s
      else
      let b := p.opnd.toNat % 256
      let s := if b = 0 ∨ b = 5 ∨ b = 6 ∨ b = (if isChisel c then 4 else 7) then setIp s c b else s
      match portDom dest with
      | some d => if portGate s dest != 0 then wakeReq s d false 1 else s
      | none => s)

/-! ### Answers (R225, R237) -/

/-- R225: RDATA reaches its requester. -/
def execNocRdata (src dest : Fin 160) (bad : Option (Fin 3 × BitVec 512)) (s : State) : Res := .next (arrive s src dest 0x10 bad handAnswer)

/-- R225: WACK reaches its requester. -/
def execNocWack (src dest : Fin 160) (bad : Option (Fin 3 × BitVec 512)) (s : State) : Res := .next (arrive s src dest 0x11 bad handAnswer)

/-- R225: AACK reaches its requester with the old value. -/
def execNocAack (src dest : Fin 160) (bad : Option (Fin 3 × BitVec 512)) (s : State) : Res := .next (arrive s src dest 0x12 bad handAnswer)

/-- R225: LANDED reaches the source of an SWRITE_L. -/
def execNocLanded (src dest : Fin 160) (bad : Option (Fin 3 × BitVec 512)) (s : State) : Res := .next (arrive s src dest 0x13 bad handAnswer)

/-- R225: SNAK reports a refused stream write to its source. -/
def execNocSnak (src dest : Fin 160) (bad : Option (Fin 3 × BitVec 512)) (s : State) : Res := .next (arrive s src dest 0x14 bad handAnswer)

/-- R237: no answer has come within NOC_REQ_TMO: the port answers its own agent with the RSP that was due and STATUS 4. [log 14: DESIGN CHOICE] -/
def execNocReqTimeout (port : Fin 160) (cls : Fin 4) (seq : BitVec 12) (s : State) : Res :=
  let x := getPort s port
  match x.out.find? fun o => o.seq == seq.toNat && o.cls == cls.val with
  | none => .next s
  | some o =>
    if upNs s < o.at_ + (portNoc s port).reqTmo then .next s
    else
    let a : Pkt :=
      { dest := port, src := o.dest, subsrc := o.subsrc, cls := 1, cmd := dueAnswer o.cmd, epoch := x.epoch, addr := o.addr, len := o.len,
        seq := o.seq, status := 4, part := none, page := 0, aop := 0, aw := false, opnd := 0, cmp := 0, data := [] }
    .next (bump (answerAgent (setPort s port { x with
      out := x.out.filter fun q => q != o, lost := if o.cls = 2 then x.lost ++ [o.seq] else x.lost }) port a) .nocReqTmo port)

/-! ### Route epochs (R232, R233, R396) -/

/-- R232: a write of NOC_RTE_EPOCH.GO by the MC switches every port of a die to the standby epoch; it is ignored while BUSY = 1. -/
def execNocRteEpochGo (who : Agent) (die : Fin 3) (s : State) : Res :=
  .next (if isMc who then epochGo (done s) die else foreign s)

/-- R232: every port has switched and every count of the old epoch is zero: CUR takes the new epoch, BUSY clears, held classes resume, and
the MC reports the bundles whose traffic has moved (R396) and turns to those that went down meanwhile. -/
def execNocEpochRetire (s : State) : Res :=
  if (upFrom 0 3).all (fun d => dieOut s d || (getNocDie s d).busy) && !(s.noc.pkts.any (isOld s)) && s.noc.dropLog.all (fun e => e.2.isEmpty) then
    let s := (upFrom 0 3).foldl (fun s d =>
      let x := getNocDie s d
      setNocDie s d { x with cur := !x.cur, busy := false, late := false }) s
    let s := (upFrom 0 160).foldl (fun s q => pump (setPort s q { getPort s q with heldCls := [] }) q) s
    let mv := s.noc.moving.filter fun e => s.noc.planned.contains e.1
    let s := { s with noc := { s.noc with moving := s.noc.moving.filter fun e => !s.noc.planned.contains e.1, planned := [] } }
    let s := mv.foldl (fun s e => linkEvt s e.1 3 e.2) s
    .next (if s.noc.moving.isEmpty then s else planMove s)
  else .next s

/-- R233: the old epoch has not retired NOC_EPOCH_LIM after GO: LATE is set and NOC_RTE_FAIL counted on each die that waits. [log 14: DESIGN CHOICE] -/
def execNocEpochLate (s : State) : Res :=
  .next ((upFrom 0 3).foldl (fun s d =>
    let x := getNocDie s d
    if x.busy && !x.late && x.goAt + x.epochLim ≤ upNs s then alertMc (bump (setNocDie s d { x with late := true }) .nocRteFail d) (.nocEpochLate d) else s) s)

end Sys2Proof.Machine
end

