-- ==== Sys2Proof/Machine/Flash.lean ====
section
/-!
DEFINITION. Corward commands on module flash: firmware images and the event log (14_host_protocol R318; 15_startup R331 to R333;
18_faults_and_ordering R388).
-/
namespace Sys2Proof.Machine

/-- The bytes of an image slot: the longest image with its header (R331). -/
def slotBytes : Nat := 134217728

/-- R318: FW_WRITE writes bytes into an image slot. -/
def execFwWrite (h : Fin 4) (flashOk : Bool) (s : State) : Res :=
  .next (runCmd s h 0x0400 fun s c => checked s c [(0, 0xFFFFFF01)] fun _ =>
    let o := fld (arg c 0) 8 24 * 4096
    let bs := bytesOfWords (c.args.drop 1)
    if slotBytes < o + bs.length then refuse s 0x04 0
    else if !flashOk then (.now 0x0B [], s)
    else
      let k := b2n (bit (arg c 0) 0)
      let x := tget s.su.slots {} k
      okReply { s with su := { s.su with slots := tset s.su.slots k { x with bytes := cellsWrite x.bytes o bs, written := true } } })

/-- Is the MC running from the slot? Nothing runs in boot recovery (R333). -/
def slotRuns (s : State) (b : Bool) : Bool := s.su.slot == b && !s.su.recovery

/-- R332, R318: FW_COMMIT verifies the image in a slot, `len` bytes with its header. [log 73: DEDUCED] -/
def execFwCommit (h : Fin 4) (flashOk sigOk : Bool) (s : State) : Res :=
  .next (runCmd s h 0x0401 fun s c => checked s c [(0, 0xFFFFFFFF00000001), (1, 0xFFFFFFFF)] fun _ =>
    let b := bit (arg c 0) 0
    let n := fld (arg c 0) 32 32 - 256
    if slotRuns s b then (.now 0x07 [], s)
    else if !flashOk then refuse s 0x0B 4
    else if bodyCrc s b n ≠ arg c 1 ∨ bodyCrc s b n ≠ hdrWord s b 3 then refuse s 0x0C 1
    else if !sigOk ∨ hdrOk s b = false ∨ hdrWord s b 2 ≠ n then refuse s 0x0C 2
    else if hdrWord s b 5 < s.su.rbc then refuse s 0x0C 3
    else (.now 0 (one 0), s))

/-- R332, R333: FW_SELECT records a slot that holds a valid image; in boot recovery every session ends and start-up goes back to stage 4. [log 73: DEDUCED] -/
def execFwSelect (h : Fin 4) (flashOk : Bool) (img : ImgFact) (s : State) : Res :=
  .next (
    let s' := runCmd s h 0x0402 fun s c => checked s c [(0, 1)] fun _ =>
      let b := bit (arg c 0) 0
      if !imgValid s b img then (.now 0x0C [], s)
      else if !flashOk then (.now 0x0B [], s)
      else
        let s := { s with su := { s.su with sel := b } }
        if s.su.recovery then
          let s := (upFrom 0 4).foldl endSession s
          let s := (upFrom 0 18).foldl (fun s d => if dieOut s (d / 9) then s else updDom s d fun x => { x with state := .awake }) s
          okReply (beginStage (updSu s fun x => { x with fail := none, stopped := false, recovery := false, wd := 0, fallback := false }) 4)
        else okReply s
    s')

/-- The log's records as stored, with the INDEX of each (R386): the last 262,144 (R385). -/
def logRecords (s : State) : List (Nat × List Byte) := (s.flt.log.flatMap recordsOf).filter fun e => s.flt.nextIndex ≤ e.1 + 262144

/-- R388: LOG_READ. `bad` is the number of records after which the reply meets a region that cannot be read. The oldest and newest INDEX of an
empty log are free values. [log 68: DEDUCED] -/
def execLogRead (h : Fin 4) (bad : Option (Fin 1024)) (s : State) : Res :=
  .next (runCmd s h 0x0403 fun s c =>
    if arg c 1 = 0 ∨ 1024 < arg c 1 then refuse s 0x04 1
    else
      let l := logRecords s
      let (i, s) : (Nat × Nat) × State := match l.head?, l.getLast? with
        | some a, some b => ((a.1, b.1), s)
        | _, _ =>
          let (x, s) := takeFree s 32
          let (y, s) := takeFree s 32
          ((x, y), s)
      let r := (l.filter fun e => arg c 0 ≤ e.1).take (arg c 1)
      let (st, r) : Nat × List (Nat × List Byte) := match bad with
        | some k => if k.val < r.length then (0x0B, r.take k.val) else (0, r)
        | none => (0, r)
      (.now st (BitVec.ofNat 64 i.1 :: BitVec.ofNat 64 i.2 :: r.flatMap fun e => wordsOfBytes e.2), s))

end Sys2Proof.Machine
end

