-- ==== Sys2Proof/Machine/FrameRx.lean ====
section
/-!
DEFINITION. The receiving side of the line frame (03_line_frame): gaps, alignment, frames, the selector's release, defects and performance.
-/
namespace Sys2Proof.Machine

/-! ### Gaps and alignment (R43, R69 to R72) -/

/-- R43, R69, R70: the gap header after the frame whose FAW is at `pos`. In SEARCH an unreadable one drops the candidate. [log 27: DEDUCED] -/
def execGapHeaderRx (n : Fin 64) (pos : Nat) (hdr : List Byte) (s : State) : Res :=
  let r := getRx s n
  let g := gapRead hdr
  if r.align = 1 ∧ (r.cands.any fun c => c.pos == pos) then
    match g with
    | some k =>
      let l := r.cands.map fun c => if c.pos == pos then { c with expect := some (pos + 1606144 + 128 * k) } else c
      .next (setRx s n { r with cands := l })
    | none => .next (bump (setRx s n { r with cands := r.cands.filter fun c => c.pos != pos }) .lnGapErr n)
  else if r.align = 2 ∧ r.pos = pos then
    match g with
    | some k => .next (setRx s n { r with gap := some k, lastGap := k })
    | none => .next (bump (setRx s n { r with gap := none }) .lnGapErr n)
  else .next s

/-- Are three good overheads numbered consecutively (R71)? -/
def consecutive (l : List (Option Nat)) : Bool :=
  match l with
  | [some a, some b, some c] => b == nextNum a && c == nextNum b
  | _ => false

/-- Notes that a lane's copy of frame `f` has begun now; the first copy to begin leads (R63). A port that is not enabled keeps the latest sixteen. -/
def noteStart (s : State) (n f : Nat) (began : Bool) : State :=
  updFh s (n / 2) fun p =>
    let l := if p.en then p.starts else p.starts.drop (p.starts.length - 15)
    if began && !(p.starts.any fun e => e.1 == f) then { p with starts := l ++ [(f, nsCounter s)] } else p

/-- A lane enters IF at a FAW (R69, R71). -/
def enterIf (s : State) (n : Nat) (r : LnRx) (c : Cand) (pos : Nat) (nums : List (Option Nat)) : State :=
  let mf := consecutive nums
  let f := (nums.getLast?.getD none).getD 0
  setRx (noteStart s n f mf) n { r with
    align := 2, mf := mf, cands := [], pos := pos, gap := none, lastGap := (pos - c.pos - 1606144) / 128, miss := 0, missed := false
    inProg := true, began := mf, fw := f, runLen := 0, mism := 0, badRun := 0, tFaw := nsCounter s
    aisRun := 0, prevBip := none }

/-- R69 in SEARCH: the position tested and whether the FAW is there. -/
def searchFaw (s : State) (n : Nat) (r : LnRx) (pos : Nat) (hit : Bool) (oh : List Byte) : State :=
  let num := if ohGood oh then some (ohNum oh) else none
  match r.cands.find? fun c => c.expect == some pos with
  | some c =>
    let rest := r.cands.filter fun d => d.expect != some pos
    if !hit then setRx s n { r with cands := rest }
    else
      let nums := c.nums ++ [num]
      if c.sight + 1 ≥ 3 then enterIf s n r c pos nums
      else setRx s n { r with cands := rest ++ [{ pos := pos, sight := c.sight + 1, expect := none, nums := nums }] }
  | none =>
    if !hit || r.cands.any fun c => c.pos == pos then s
    else if r.cands.length ≥ 4 then bump s .fhLnCandOvf n
    else setRx s n { r with cands := r.cands ++ [{ pos := pos, sight := 1, expect := none, nums := [num] }] }

/-- R70 in IF: the positions that the gap allows are tested; exactly one match is the FAW, else it is missed, and after four missed in a
row the lane returns to SEARCH. -/
def inFrameFaw (s : State) (n : Nat) (r : LnRx) (hits : List Nat) : State :=
  let b := r.pos + 1606144
  let tests := match r.gap with
    | some k => [b + 128 * k]
    | none => [b, b + 128, b + 256]
  match tests.filter fun p => hits.contains p with
  | [p] =>
    setRx (noteStart s n (nextNum r.fw) r.mf) n { r with
      pos := p, gap := none, miss := 0, missed := false, inProg := true, began := r.mf, fw := nextNum r.fw, tFaw := nsCounter s }
  | _ =>
    if r.miss + 1 ≥ 4 then setRx s n { alignDown r with align := 1 }
    else
      setRx (noteStart s n (nextNum r.fw) r.mf) n { r with
        pos := b + 128 * r.lastGap, gap := none, miss := r.miss + 1, missed := true, inProg := true, began := r.mf, fw := nextNum r.fw
        tFaw := nsCounter s }

/-- R69, R70: the aligner tests for the FAW: in SEARCH at `pos`, in IF at the positions that the gap dictates. `hits` are the bit
positions at which the FAW stands, `oh` the overhead that follows it. -/
def execFawMatch (n : Fin 64) (pos : Nat) (hits : List Nat) (oh : List Byte) (s : State) : Res :=
  let r := getRx s n
  if r.align = 1 then .next (searchFaw s n r pos (hits.contains pos) oh)
  else if r.align = 2 ∧ r.inProg = false then .next (inFrameFaw s n r hits)
  else .next s

/-! ### Frames (R55, R57, R71, R73) -/

/-- Multiframe lock after a frame's overhead (R71). -/
def mfUpdate (r : LnRx) (good : Bool) (num : Nat) : LnRx :=
  if r.mf then
    if good then
      if num = r.fw then { r with mism := 0, badRun := 0 }
      else if r.mism + 1 ≥ 3 then { r with mf := false, mism := 0, badRun := 0, runLen := 0 }
      else { r with mism := r.mism + 1, badRun := 0 }
    else if r.badRun + 1 ≥ 8 then { r with mf := false, mism := 0, badRun := 0, runLen := 0 }
    else { r with badRun := r.badRun + 1 }
  else if good then
    let l := if r.runLen > 0 ∧ num = r.runNext then r.runLen + 1 else 1
    if l ≥ 3 then { r with mf := true, fw := num, mism := 0, badRun := 0, runLen := 0 }
    else { r with runLen := l, runNext := nextNum num }
  else { r with runNext := nextNum r.runNext }

/-- The deskew buffer of a lane: 0 W, 1 P. -/
def copiesOf (p : FhPort) (l : Nat) : List Copy := if l = 0 then p.copiesW else p.copiesP
def setCopies (p : FhPort) (l : Nat) (c : List Copy) : FhPort := if l = 0 then { p with copiesW := c } else { p with copiesP := c }

/-- A BIP8 mismatch makes the previous copy of the lane an errored one, in the deskew buffer or in the port's count (R73, R77). [log 31: DEDUCED] -/
def markErrored (p : FhPort) (l num : Nat) : FhPort :=
  let c := (copiesOf p l).map fun x => if x.num == num then { x with errored := true } else x
  let p := setCopies p l c
  if p.relNum == some num && p.relLane == l && !p.relErr then { p with relErr := true, cur := { p.cur with errs := p.cur.errs + 1 } } else p

/-- R55 to R57, R71, R73: a lane's copy of a frame has been received: `bytes` as they stand on the line, `unc` where an uncorrectable codeword
overlaps it. [log 31: DEDUCED] -/
def execLineFrameRx (n : Fin 64) (bytes : List Byte) (unc : Bool) (s : State) : Res :=
  let r := getRx s n
  if r.align ≠ 2 ∨ r.inProg = false then .next s
  else
    let m := n.val / 2
    let l := n.val % 2
    let oh := bytes.take 80
    let pay := bytes.drop 80
    let good := ohGood oh
    let ais := ohAis oh
    let num := r.fw
    let p := getFh s m
    let r1 := mfUpdate r good (ohNum oh)
    let old := match p.nextF with
      | some f => !p.lost && decide (numDist num f < 0)
      | none => false
    let failed := !r.began || !r1.mf || r.missed || ais || unc || !laneLive (getLane s n) || old
    let diff := match r.prevBip with
      | some b => if good then popcount (b ^^^ ohByte oh 7) 8 else 0
      | none => 0
    let s := if good then bumpBy (bumpBy s .fhLnBip n diff) .fhLnRei n (ohByte oh 10 % 16) else bump s .fhLnOhcrc n
    let errs := match r.pend with
      | some f => b2n (f || diff != 0)
      | none => 0
    let s := setRx s n { r1 with
      inProg := false, prevBip := some (bip8 pay), rei := if good && r.prevBip.isSome then diff else r1.rei
      rdi := if good then bit (ohByte oh 10) 4 else r1.rdi, aisRun := if ais then r1.aisRun + 1 else 0
      pend := some failed, errCnt := r1.errCnt + errs, got := true }
    let p := if diff = 0 then p else markErrored p l ((num + 655359) % 655360)
    let c : Copy := { num := num, tFaw := r.tFaw, failed := failed, errored := failed, good := good, oh := oh
                      pay := scramble (scrSeed num) pay }
    .next (setFh s m (if r.began && !old && p.en then setCopies p l (copiesOf p l ++ [c]) else p))

/-! ### Release (R78 to R85) -/

/-- A lane's copy of frame `f`. -/
def copyOf (p : FhPort) (l f : Nat) : Option Copy := (copiesOf p l).find? fun c => c.num == f

/-- The frame to be released next: the one after the last, or, where no lane has or receives it, the first in the deskew buffer (R79). [log 31: DEDUCED] -/
def frameDue (s : State) (m : Nat) : Nat :=
  let p := getFh s m
  let first := match p.copiesW.head?, p.copiesP.head? with
    | some a, some b => some (if numDist a.num b.num ≤ 0 then a.num else b.num)
    | some a, none => some a.num
    | none, some b => some b.num
    | none, none => none
  let started := fun (l f : Nat) => let r := getRx s (2 * m + l); r.inProg && r.began && r.fw == f
  match p.nextF with
  | some f =>
    if (copyOf p 0 f).isSome || (copyOf p 1 f).isSome || started 0 f || started 1 f then f else first.getD f
  | none => first.getD 0

/-- Need the release not wait for lane `l`'s copy of frame `f` any longer (R79)? `lead`: when the leading copy started. -/
def laneReady (s : State) (m l f : Nat) (lead : Option Nat) : Bool :=
  let p := getFh s m
  let n := 2 * m + l
  let r := getRx s n
  let started := r.inProg && r.began && r.fw == f
  (copyOf p l f).isSome || r.align != 2 || !r.mf || (getLane s n).rxState != 0 ||
    (!started && match lead with
      | some t => decide ((p.diffMax : Int) * 15625 ≤ int32 (nsCounter s) t)
      | none => false)

/-- The arrival of the leading copy of a frame, on either lane, whether or not it was completed (R63). -/
def leadStamp (p : FhPort) (f : Nat) : Option Nat := (p.starts.find? fun e => e.1 == f).map fun e => e.2

/-- Is there a usable copy? [log 31: DEDUCED] -/
def usable (c : Option Copy) : Bool :=
  match c with
  | some x => !x.failed
  | none => false

/-- Cancels commands that no longer stand (R81): an FS once its lane is in signal fail and the other is not, in whichever order that came about.
[log 34: DEDUCED] -/
def cancelCmds (s : State) (m : Nat) : State :=
  let p := getFh s m
  let off := setFh s m { p with cmd := 0, cmdCxl := true }
  if p.cmd = 2 ∧ laneFail s m p.cmdLane ∧ laneFail s m (1 - p.cmdLane) = false then off
  else if p.cmd = 3 ∧ (7 < (localReq s m).1 ∨ 7 < (p.remote.map fun r => r.req).getD 0) then off
  else s

/-- Are SR bytes valid (R80)? -/
def srValid (sr1 : Nat) : Bool :=
  let r := fld sr1 4 4
  [0xF, 0xD, 0xB, 0x9, 0x7, 0x0].contains r && !(r == 0xF && bit sr1 0)

/-- R82: the persistence filter on the SR bytes of a released frame. [log 33: DEDUCED] -/
def srFilter (s : State) (m num sr1 sr2 : Nat) : State :=
  if !srValid sr1 then bump s .fhSrInv m
  else
    let p := getFh s m
    let v := sr1 + 256 * sr2
    let run := if p.srRun > 0 ∧ p.srLast = v then p.srRun + 1 else 1
    let p := { p with srLast := v, srRun := run }
    if run < 3 then setFh s m p
    else
      let x : SrVal := { req := fld sr1 4 4, lane := fld sr1 0 1, sel := fld sr2 0 1, bidir := bit sr2 1 }
      if p.remote = some x then setFh s m p
      else modeCheck (setFh s m { p with remote := some x }) m num

/-- What a usable copy delivers (R64, R68, R82, R93): SR bytes, gain report, packet chunk and sections. [log 33: DEDUCED] -/
def deliverCopy (s : State) (m : Nat) (c : Copy) (lead nOver : Nat) : State :=
  let s :=
    if c.good then
      let s := srFilter s m c.num (ohByte c.oh 8) (ohByte c.oh 9)
      let s := gainReport s m ((c.oh.drop 16).take 16)
      pktChunk s m ((c.oh.drop 32).take 32) lead
    else pktBreak s m
  takeSections s m lead nOver 0 (slotsOf c.pay)

/-- A receiver whose sleep waited for the forced switch sleeps once a frame has been released from the other lane (R49, R85). [log 34: DEDUCED] -/
def sleepSwitched (s : State) (m lane : Nat) : State :=
  let n := 2 * m + (1 - lane)
  let x := getLane s n
  if x.rxWait then rxStart s n x.rxSleep else s

/-- The lags of the two copies behind the leading one (R79, R86). -/
def setLags (s : State) (m f lead : Nat) : State :=
  let p := getFh s m
  (upFrom 0 2).foldl (fun s l => match copyOf p l f with
    | some c => updRx s (2 * m + l) fun r => { r with lag := (int32 c.tFaw lead).toNat }
    | none => s) s

/-- R79, R83, R84: each lane's copy of the frame is complete, overdue or absent, and the frame is released from the lane that the effective
request selects. `over`: the Nose engines whose input buffer overflows meanwhile (R103). [log 33: DEDUCED; log 34: DEDUCED] -/
def execFhFrameRelease (m : Fin 32) (nOver : Fin 4) (s : State) : Res :=
  let p := getFh s m
  let f := frameDue s m
  let lead := leadStamp p f
  if !p.en || !laneReady s m 0 f lead || !laneReady s m 1 f lead then .next s
  else
    let w := copyOf p 0 f
    let q := copyOf p 1 f
    let gone := w.isNone && q.isNone && (upFrom 0 2).all fun l => !(getRx s (2 * m.val + l)).mf
    let locked := (getRx s (2 * m.val)).mf || (getRx s (2 * m.val + 1)).mf
    let live := p.written.filter fun e => !isLate (lead.getD (nsCounter s)) e.close
    let s := setFh s m { p with
      failW := !usable w, failP := !usable q, psf := !usable w && !usable q, written := live, lost := gone
      remote := if locked then p.remote else none, srRun := if locked then p.srRun else 0 }
    let s := cancelCmds s m
    let e := effReq s m
    let s :=
      if e.2 = p.sel then s
      else protEvt (bump (updFh s m fun x => { x with sel := e.2 }) .fhSelSw m) m f p.sel e.2 e.1 false
    let c := if e.2 = 0 then w else q
    let bad := !usable c || (c.map fun x => x.errored).getD true
    let none_ := !usable w && !usable q
    let keep := fun (l : List Copy) => l.filter fun x => decide (0 < numDist x.num f)
    let ahead := fun (l : List (Nat × Nat)) => l.filter fun x => decide (0 < numDist x.1 f)
    let s := setLags s m f (lead.getD 0)
    let s := updFh s m fun x => { x with
      copiesW := keep x.copiesW, copiesP := keep x.copiesP, starts := ahead x.starts, nextF := some (nextNum f), relNum := some f, relLane := e.2, relErr := bad
      cur := { x.cur with errs := x.cur.errs + b2n bad, raw := x.cur.raw || none_, setd := x.cur.setd || none_ } }
    match c with
    | some x =>
      if x.failed then .next (if x.good then s else pktBreak s m) else .next (sleepSwitched (deliverCopy s m x (lead.getD 0) nOver) m e.2)
    | none => .next (pktBreak s m)

/-! ### Defects (R74, R75) -/

/-- The raw conditions of a lane in the bit order of FH_LN_STAT.DEF, each after its masks (R74). -/
def rawDefects (x : Lane) (r : LnRx) (p : FhPort) : List Bool :=
  let los := !laneSig x || !x.fecLock
  let lof := r.align != 2 && !los
  let ais := decide (r.aisRun ≥ 3) && !los && !lof
  let lom := r.align == 2 && !r.mf && !los && !lof && !ais
  let any := los || lof || lom || ais
  [los, lof, lom, ais, r.rdi && !any, decide (r.intLast ≥ p.sdThr) && !any, any || decide (r.intLast ≥ p.sfThr)]

/-- Integrates defect `i` of lane `n` (R75). -/
def integrate (s : State) (m n : Nat) (raw : Bool) (i : Nat) : State :=
  let p := getFh s m
  let r := getRx s n
  let set_ := if raw then lget r.setRun 0 i + 1 else 0
  let clr := if raw then 0 else lget r.clrRun 0 i + 1
  let r := { r with setRun := lset r.setRun i set_, clrRun := lset r.clrRun i clr }
  let on := bit r.defs i
  let evt := fun (s : State) (b : Bool) => raiseOwner s (fhOwner s m) 0x0300 (m + n % 2 * 2 ^ 8 + i * 2 ^ 12 + b2n b * 2 ^ 16) 0
  if !on && decide (set_ ≥ p.defSet) then
    evt (setRx s n { r with defs := setBit r.defs i true, defl := setBit r.defl i true }) true
  else if on && decide (clr ≥ p.defClr) then evt (setRx s n { r with defs := setBit r.defs i false }) false
  else setRx s n r

/-- Starts a new second where the time scale has passed into one (R77). -/
def rollSec (now : Nat) (cur : PerfSec) (l : List PerfSec) : PerfSec × List PerfSec :=
  if cur.sec = now / 1000000000 then (cur, l) else ({ sec := now / 1000000000 }, l ++ [cur])

/-- A lane's evaluation in one frame period (R73 to R75, R77). -/
def evalLane (s : State) (m n : Nat) : State :=
  let x := getLane s n
  let r := getRx s n
  let e := r.errCnt + (if r.got then 0 else 1 + (match r.pend with | some f => b2n f | none => 0))
  let first := frameNow s % 64 == 0
  let (cur, secs) := rollSec s.now r.cur r.secs
  let r := { r with
    errCnt := 0, got := false, pend := if r.got then r.pend else none
    intLast := if first then r.intCnt else r.intLast, intCnt := if first then e else r.intCnt + e }
  let raws := rawDefects x r (getFh s m)
  let s := setRx s n r
  let s :=
    if x.rxState != 0 then setRx s n { r with setRun := [0, 0, 0, 0, 0, 0, 0], clrRun := [0, 0, 0, 0, 0, 0, 0], defs := 0 }
    else (upFrom 0 7).foldl (fun s i => integrate s m n (lget raws false i) i) s
  let r := getRx s n
  let any := (raws.take 4).any id
  let set_ := fld r.defs 0 4 != 0
  setRx s n { r with cur := { cur with errs := cur.errs + e, raw := cur.raw || any, setd := cur.setd || set_ }, secs := secs }

/-- R74, R75: in a frame period the conditions of both lanes of a port are evaluated and integrated. -/
def execDefectEval (m : Fin 32) (s : State) : Res :=
  let s := evalLane (evalLane s m (2 * m.val)) m (2 * m.val + 1)
  let p := getFh s m
  let (cur, secs) := rollSec s.now p.cur p.secs
  .next (setFh s m { p with cur := cur, secs := secs })

/-! ### Performance seconds (R77) -/

def isSes (r : PerfSec) : Bool := decide (r.errs ≥ 19200) || r.setd
def isEs (r : PerfSec) : Bool := r.errs != 0 || r.raw

/-- Commits the oldest second that ended at least 10 s ago: what remains, whether time is unavailable, and the counts of ES, SES and UAS. [log 32: DEDUCED] -/
def commitSec (now : Nat) (l : List PerfSec) (un : Bool) : List PerfSec × Bool × Nat × Nat × Nat :=
  match l with
  | [] => (l, un, 0, 0, 0)
  | r :: rest =>
    if now < (r.sec + 11) * 1000000000 then (l, un, 0, 0, 0)
    else
      let ten := l.take 10
      let full := ten.length == 10
      let un' := if un then !(full && ten.all fun x => !isSes x) else full && ten.all isSes
      if un' then (rest, un', 0, 0, 1) else (rest, un', b2n (isEs r), b2n (isSes r), 0)

/-- R77: ten seconds after a second ended, its counts are committed for both lanes and for the port. -/
def execPerfSecondCommit (m : Fin 32) (s : State) : Res :=
  let lane := fun (s : State) (n : Nat) =>
    let r := getRx s n
    let (l, u, es, ses, uas) := commitSec s.now r.secs r.unavail
    bumpBy (bumpBy (bumpBy (setRx s n { r with secs := l, unavail := u }) .fhLnEs n es) .fhLnSes n ses) .fhLnUas n uas
  let s := lane (lane s (2 * m.val)) (2 * m.val + 1)
  let p := getFh s m
  let (l, u, es, ses, uas) := commitSec s.now p.secs p.unavail
  .next (bumpBy (bumpBy (bumpBy (setFh s m { p with secs := l, unavail := u }) .fhPes m es) .fhPses m ses) .fhPuas m uas)

end Sys2Proof.Machine
end

