-- ==== Sys2Proof/Machine/Operands.lean ====
section
/-!
DEFINITION. Operand forms of the vector instructions (06_vectors R138 to R158): classes, element types, predicates, elements, granules,
the faults of VCFG, and element accesses to memory.
-/
namespace Sys2Proof.Machine

/-! ### Classes and element types (R138 to R141) -/

/-- The register length of a class in bits (R139). -/
def clsBits (x : Core) (c : Nat) (long : Bool) : Nat := if long then 8 * vlenB x c else 128

/-- The element width in bits of an element type, a granule's for V4 and V8 (R140); 0 for a reserved one. -/
def etBits (et : Nat) : Nat := lget [4, 8, 16, 32, 8, 16, 32, 0, 128, 256] 0 et

/-- Is the element type complex (C4, C8, C16)? -/
def etCplx (et : Nat) : Bool := 4 ≤ et && et ≤ 6

/-- The type lists of R158. -/
def tI : List Nat := [0, 1, 2, 3]
def tIs : List Nat := [1, 2, 3]
def tC : List Nat := [4, 5, 6]
def tV : List Nat := [8, 9]
def tAny : List Nat := tI ++ tC ++ tV
/-- The types that have accumulator lanes for the widening instructions (R147). -/
def tWide : List Nat := [0, 1, 2] ++ tC

/-- COUNT (R139). -/
def vCount (x : Core) (c : Nat) (long : Bool) : Nat := clsBits x c long / etBits x.et

/-- The predicate bit that governs element `i` of width `w` bits (R141). -/
def govBit (w i : Nat) : Nat := if w < 8 then i / 2 else i * (w / 8)

/-- Is element `i` of width `w` active under predicate `pg`? -/
def active (x : Core) (pg w i : Nat) : Bool := (pRead x pg).getLsbD (govBit w i)

/-- Element `i` of width `w` of a register's bits. -/
def elem (v w i : Nat) : Nat := fld v (i * w) w

/-- Elements of width `w` in a row, the first lowest. -/
def packEls (w : Nat) (es : List Nat) : Nat := es.foldr (fun e acc => e % 2 ^ w + 2 ^ w * acc) 0

/-- A register's bits with elements 0 to n - 1 of width `w` replaced where `act`, and all else as it was (R138, R141). -/
def mapEls (old w n : Nat) (act : Nat → Bool) (f : Nat → Nat) : Nat :=
  old / 2 ^ (n * w) * 2 ^ (n * w) + packEls w ((upFrom 0 n).map fun i => if act i then f i else elem old w i)

/-- The parts of an element: itself, or I and Q (R140). -/
def partsOf (et v : Nat) : List Nat :=
  if etCplx et then let n := etBits et / 2; [fld v 0 n, fld v n n] else [v]

/-- The width of one part. -/
def partBits (et : Nat) : Nat := if etCplx et then etBits et / 2 else etBits et

/-! ### Wrapping and saturating (R145): a value of `n` bits, and whether a clamp changed it -/

def wrapTo (n : Nat) (y : Int) : Nat × Bool := (ofInt y n, false)
def satTo (n : Nat) (y : Int) : Nat × Bool := (ofInt (satInt n y) n, satHit n y)

/-- An operation on the parts of elements, put together again. -/
def onParts (et : Nat) (f : Nat → Nat → Nat × Bool) (a b : Nat) : Nat × Bool :=
  let rs := (List.zip (partsOf et a) (partsOf et b)).map fun p => f p.1 p.2
  (packEls (partBits et) (rs.map fun r => r.1), rs.any fun r => r.2)

/-! ### VCFG_FAULT (R144) -/

/-- How an instruction stands to VSTART: not resumable; resumable (R153); a first-fault, whole-register or predicate load or store. -/
inductive VKind where
  | plain
  | resumable
  | whole
deriving DecidableEq, Repr

/-- May the instruction run under VCFG and VSTART (R144)? `types` is its Types column, none where ET is not used. [log 46: DEDUCED] -/
def vcfgOk (x : Core) (c : Nat) (long : Bool) (types : Option (List Nat)) (rounds : Bool) (k : VKind) : Bool :=
  (match types with
   | none => true
   | some ts => ts.contains x.et && !(x.et == 9 && clsBits x c long == 128)) &&
  !(rounds && x.rm == 3) &&
  (match k with
   | .plain => x.vstart == 0
   | .whole => x.vstart == 0 || x.compat
   | .resumable => x.vstart < vCount x c long || x.compat)

/-- The frame of a vector instruction: R108 (no long class on a Bench core), R127 and R144, and VSTART is 0 when it completes (R153). -/
def vinstr (s : State) (c word : Nat) (long legal : Bool) (types : Option (List Nat)) (rounds : Bool) (k : VKind)
    (body : State → Core → IRes) : State :=
  instr s c word (legal && !(long && !isChisel c)) false false fun s =>
    let x := getCore s c
    if !vcfgOk x c long types rounds k then .trap s 0x10 0 (BitVec.ofNat 64 word)
    else match body s x with
      | .ok s' => .ok (updCore s' c fun y => { y with vstart := 0 })
      | r => r

/-- The word of a vector instruction: major 0x20 + j or 0x28 + j (R138). -/
def vWord (j : Nat) (long : Bool) (vd vs1 vs2 : BitVec 5) (pg : BitVec 4) (funct : Nat) : Nat :=
  wordV (0x20 + j + 8 * b2n long) vd.toNat vs1.toNat vs2.toNat pg.toNat funct

/-- Writes v register `i` as a number, and SAT where a clamp was met. -/
def putV (s : State) (c i v : Nat) (sat : Bool) : State :=
  updCore s c fun x => { vWrite x i (BitVec.ofNat 2048 v) with sat := x.sat || sat }

/-- Writes accumulator `i` likewise. -/
def putA (s : State) (c i v : Nat) (sat : Bool) : State :=
  updCore s c fun x => { aWrite x i (BitVec.ofNat 8192 v) with sat := x.sat || sat }

/-- Writes predicate `i`: its bits within the class, the bits above them unchanged (R138). -/
def putP (s : State) (c i : Nat) (n : Nat) (b : Nat → Bool) : State :=
  updCore s c fun x =>
    pWrite x i (BitVec.ofNat 256 (mapEls (pRead x i).toNat 1 n (fun _ => true) fun j => b2n (b j)))

/-- Writes g register `i`. -/
def putG (s : State) (c i : Nat) (v : Word) : State := updCore s c fun x => gWrite x i v

/-- A per-element result into v register `vd`: active elements take `f i`, and a clamp of an active one sets SAT. -/
def elemwise (s : State) (c vd : Nat) (x : Core) (pg w n : Nat) (f : Nat → Nat × Bool) : State :=
  putV s c vd (mapEls (vRead x vd).toNat w n (active x pg w) fun i => (f i).1)
    ((upFrom 0 n).any fun i => active x pg w i && (f i).2)

/-- The same into accumulator `ad`, whose lanes are four times as wide as the elements (R140). -/
def lanewise (s : State) (c ad : Nat) (x : Core) (pg w n : Nat) (f : Nat → Nat × Bool) : State :=
  putA s c ad (mapEls (aRead x ad).toNat (4 * w) n (active x pg w) fun i => (f i).1)
    ((upFrom 0 n).any fun i => active x pg w i && (f i).2)

/-! ### Element accesses (R150 to R155) -/

/-- A fault of an element: its index, code, SUB and address. -/
abbrev ElFault := Nat × Nat × Nat × Word

/-- A vector access must target normal memory (R150): the load of one element, or LOAD_FAULT with SUB 0 in register space. -/
def vecLoad (s : State) (c va n al : Nat) : AccRes :=
  if va % al ≠ 0 then coreLoad s c va n al
  else match translate s c va .load with
    | (.ok (pa, _), s') => if inRegs pa then .fault 0x05 0 (BitVec.ofNat 64 va) s' else coreLoad s' c va n al
    | _ => coreLoad s c va n al

/-- The checks of one element's store, as for `vecLoad` (R128, R150). -/
def vecStoreCheck (s : State) (c va n al : Nat) : Except (Nat × Nat) (Nat × Nat) × State :=
  match storeCheck s c va n al with
  | (.ok (pa, attr), s') => if inRegs pa then (.error (0x06, 0), s') else (.ok (pa, attr), s')
  | r => r

/-- The pieces of an access that lie in one 64-byte line each: offset and length. An aligned element of up to 32 bytes is one piece. -/
def linePieces (va n : Nat) : List (Nat × Nat) :=
  let k := 64 - va % 64
  if n ≤ k then [(0, n)] else [(0, k), (k, n - k)]

/-- Loads the pieces of one element in turn; a fault carries the element's address. -/
def loadLines (s : State) (c va al : Nat) (acc : List Byte) : List (Nat × Nat) → AccRes
  | [] => .done acc s
  | (o, n) :: r =>
    match vecLoad s c (va + o) n al with
    | .fault code sub _ s' => .fault code sub (BitVec.ofNat 64 va) s'
    | .done bs s' => loadLines s' c va al (acc ++ bs) r

/-- Does no protection region contain every byte of an element that spans two lines (R124)? `right` is the bit of R or W. [log 46: DEDUCED] -/
def spanFaults (s : State) (c right va n al : Nat) : Bool := va % al == 0 && !regionsAllow (getCore s c) c right va n

/-- The load of one element of `n` bytes. -/
def loadEl (s : State) (c va n al : Nat) : AccRes :=
  if spanFaults s c 6 va n al then .fault 0x05 0 (BitVec.ofNat 64 va) s else loadLines s c va al [] (linePieces va n)

/-- Checks the pieces of one element's store. -/
def checkLines (s : State) (c va al : Nat) : List (Nat × Nat) → Except (Nat × Nat) Unit × State
  | [] => (.ok (), s)
  | (o, n) :: r =>
    match vecStoreCheck s c (va + o) n al with
    | (.error e, s') => (.error e, s')
    | (.ok _, s') => checkLines s' c va al r

/-- The checks of one element's store of `n` bytes. [log 46: DEDUCED] -/
def checkEl (s : State) (c va n al : Nat) : Except (Nat × Nat) Unit × State :=
  if spanFaults s c 7 va n al then (.error (0x06, 0), s) else checkLines s c va al (linePieces va n)

/-- Performs the pieces of a store whose checks have passed: whether a target answers with an error. -/
def writeParts (s : State) (c va al : Nat) (bs : List Byte) : List (Nat × Nat) → Bool × State
  | [] => (false, s)
  | (o, n) :: r =>
    match storeCheck s c (va + o) n al with
    | (.error _, s') => writeParts s' c va al bs r
    | (.ok (pa, attr), s') =>
      let p := physStore s' c pa attr ((bs.drop o).take n)
      let q := writeParts p.2 c va al bs r
      (p.1 || q.1, q.2)

/-- Performs an element's store whose checks have passed: it is one access, with one target error at most (R128, R151). -/
def writeLines (s : State) (c va al : Nat) (bs : List Byte) (ps : List (Nat × Nat)) : State :=
  let r := writeParts s c va al bs ps
  noteStoreErr r.2 c va r.1

/-- An element's store: its index, address, bytes and alignment. -/
structure ElStore where
  i : Nat
  va : Nat
  bs : List Byte
  al : Nat

/-- Checks the stores of elements in ascending order: the lowest fault, if any. -/
def checkStores (s : State) (c : Nat) : List ElStore → Option ElFault × State
  | [] => (none, s)
  | e :: r =>
    match checkEl s c e.va e.bs.length e.al with
    | (.error (code, sub), s') => (some (e.i, code, sub, BitVec.ofNat 64 e.va), s')
    | (.ok _, s') => checkStores s' c r

/-- Performs elements' stores in ascending order, each after its own checks, up to the first fault (R151, R153). -/
def runStores (s : State) (c : Nat) : List ElStore → Option ElFault × State
  | [] => (none, s)
  | e :: r =>
    let ps := linePieces e.va e.bs.length
    match checkEl s c e.va e.bs.length e.al with
    | (.error (code, sub), s') => (some (e.i, code, sub, BitVec.ofNat 64 e.va), s')
    | (.ok _, s') => runStores (writeLines s' c e.va e.al e.bs ps) c r

/-- An element's load: its index, address, length and alignment. -/
structure ElLoad where
  i : Nat
  va : Nat
  n : Nat
  al : Nat

/-- Performs elements' loads in ascending order up to the first fault; `put` places an element's bytes in the destination. -/
def runLoads (s : State) (c : Nat) (put : Nat → Nat → List Byte → Nat) (dst : Nat) : List ElLoad → Nat × Option ElFault × State
  | [] => (dst, none, s)
  | e :: r =>
    match loadEl s c e.va e.n e.al with
    | .fault code sub t s' => (dst, some (e.i, code, sub, t), s')
    | .done bs s' => runLoads s' c put (put dst e.i bs) r

/-- The stores of an instruction that checks every element before it issues any (R155, R164, R168). -/
def storeAll (s : State) (c : Nat) (es : List ElStore) : Option ElFault × State :=
  match checkStores s c es with
  | (some f, s') => (some f, s')
  | (none, s') => runStores s' c es

/-- The end of a resumable instruction that met a fault (R153, R155): VSTART is the element, or 0 with COMPAT = 1. -/
def resumeAt (s : State) (c : Nat) (compat : Bool) (f : ElFault) : IRes :=
  .trap (updCore s c fun x => { x with vstart := if compat then 0 else f.1 }) f.2.1 f.2.2.1 f.2.2.2

/-- An address computed as a 64-bit sum. -/
def vaOf (i : Int) : Nat := ofInt i 64

/-- The bytes an element of width `w` occupies in memory: one for I4 (R150). -/
def esize (w : Nat) : Nat := if w < 8 then 1 else w / 8

/-- The address of element `i` (R150). `form`: 0 unit stride, 1 strided, 2 gather, 3 scaled gather. -/
def elAddr (x : Core) (w form vs1 vs2 i : Nat) : Nat :=
  let b : Int := (gRead x vs1).toNat
  match form with
  | 0 => vaOf (b + (if w < 8 then i / 2 else i * (w / 8) : Nat))
  | 1 => vaOf (b + (i : Int) * (gRead x vs2).toInt)
  | 2 => vaOf (b + sx (elem (vRead x vs2).toNat w i) w)
  | _ => vaOf (b + sx (elem (vRead x vs2).toNat w i) w * (w / 8 : Nat))

/-- Places loaded bytes as element `i`: for I4 the nibble of the byte that is the element's (R140). -/
def putElem (w n : Nat) (dst i : Nat) (bs : List Byte) : Nat :=
  let v := ofLe bs
  let e := if w < 8 then elem v w (i % 2) else v
  mapEls dst w n (fun j => j == i) fun _ => e

/-- The bytes of element `i` as stored: for I4 the byte that holds it. -/
def elBytes (v w i : Nat) : List Byte := if w < 8 then leBytes (fld v (i / 2 * 8) 8) 1 else leBytes (elem v w i) (w / 8)

/-- The active elements an instruction works on, from `start` on. -/
def actives (x : Core) (pg w n start : Nat) : List Nat := (upFrom start (n - start)).filter (active x pg w)

/-- The bytes of a granule's packed record: 13 or 25 (R142, R150). -/
def recSize (w : Nat) : Nat := if w = 128 then 13 else 25

end Sys2Proof.Machine
end

