-- ==== Sys2Proof/Machine/HarzarVector.lean ====
section
/-!
DEFINITION. The vector instructions of both classes (06_vectors R138 to R165).
-/
namespace Sys2Proof.Machine

/-! ### Majors 0x20 and 0x28 (R146, R159) -/

/-- A shift amount, held at 64: a longer shift gives what a shift by 64 gives (R146: every formula holds for any s). [log 46: DEDUCED] -/
def vShift (b : Nat) : Nat := min b 64

/-- An operation of R159 on one part of `n` bits; `none` for a funct the table does not list. -/
def vIntOp (rm n funct a b : Nat) : Option (Nat × Bool) :=
  let sa := sx a n
  let sb := sx b n
  match funct with
  | 0x00 => some (wrapTo n (sa + sb))
  | 0x01 => some (wrapTo n (sa - sb))
  | 0x02 => some (satTo n (sa + sb))
  | 0x03 => some (satTo n (sa - sb))
  | 0x04 => some (wrapTo n (-sa))
  | 0x05 => some (satTo n (-sa))
  | 0x06 => some (wrapTo n sa.natAbs)
  | 0x07 => some (satTo n sa.natAbs)
  | 0x08 => some (wrapTo n (min sa sb))
  | 0x09 => some (wrapTo n (max sa sb))
  | 0x0A => some (wrapTo n (roundShift rm (sa + sb) 1))
  | 0x10 => some (a &&& b, false)
  | 0x11 => some (a ||| b, false)
  | 0x12 => some (a ^^^ b, false)
  | 0x13 => some (clrBits a b, false)
  | 0x18 => some (wrapTo n (sa * 2 ^ vShift b))
  | 0x19 => some (satTo n (sa * 2 ^ vShift b))
  | 0x1A => some (wrapTo n (roundShift rm sa (vShift b)))
  | 0x1B => some (a / 2 ^ vShift b, false)
  | _ => none

/-- The Types column of R159. -/
def vIntTypes (funct : Nat) : List Nat :=
  if 0x06 ≤ funct ∧ funct ≤ 0x09 then tI else if 0x10 ≤ funct ∧ funct ≤ 0x13 then tAny else tI ++ tC

/-- R159: integer, logic and shift arithmetic. -/
def execVectorIntOp (c : Fin 112) (long : Bool) (vd vs1 vs2 : BitVec 5) (pg : BitVec 4) (funct : BitVec 7) (s : State) : Res :=
  let f := funct.toNat
  let unary := 0x04 ≤ f && f ≤ 0x07
  .next (vinstr s c (vWord 0 long vd vs1 vs2 pg f) long ((vIntOp 0 8 f 0 0).isSome && !(unary && vs2 != 0))
    (some (vIntTypes f)) (f == 0x0A || f == 0x1A) .plain fun s x =>
      let w := etBits x.et
      let a := (vRead x vs1.toNat).toNat
      let b := (vRead x vs2.toNat).toNat
      .ok (elemwise s c vd.toNat x pg.toNat w (vCount x c long) fun i =>
        onParts x.et (fun p q => (vIntOp x.rm (partBits x.et) f p q).getD (0, false)) (elem a w i) (elem b w i)))

/-! ### Majors 0x21 and 0x29 (R146, R147, R160) -/

/-- The exact product of two elements by parts (R147): a × b, the complex product, or with b conjugated. -/
def elProd (et : Nat) (conj : Bool) (a b : Nat) : List Int :=
  let n := partBits et
  if etCplx et then
    let ai := sx (fld a 0 n) n; let aq := sx (fld a n n) n
    let bi := sx (fld b 0 n) n; let bq := sx (fld b n n) n
    if conj then [ai * bi + aq * bq, aq * bi - ai * bq] else [ai * bi - aq * bq, ai * bq + aq * bi]
  else [sx a n * sx b n]

/-- Parts put together after a conversion to `n` bits each. -/
def joinParts (n : Nat) (f : Int → Nat × Bool) (ps : List Int) : Nat × Bool :=
  (packEls n (ps.map fun p => (f p).1), ps.any fun p => (f p).2)

/-- The Types column of R160; `none` for a funct the table does not list. -/
def vMulTypes (funct : Nat) : Option (List Nat) :=
  match funct with
  | 0x00 | 0x01 => some tI
  | 0x02 | 0x03 | 0x04 | 0x13 => some tC
  | 0x10 | 0x11 | 0x12 => some tWide
  | _ => none

/-- A multiply of R160 with a v destination on one element. -/
def vMulOp (rm et funct a b : Nat) : Nat × Bool :=
  let n := partBits et
  match funct with
  | 0x00 => joinParts n (wrapTo n) (elProd et false a b)
  | 0x04 => (fld a 0 n + 2 ^ n * (satTo n (-(sx (fld a n n) n))).1, (satTo n (-(sx (fld a n n) n))).2)
  | _ => joinParts n (fun p => satTo n (roundShift rm p (n - 1))) (elProd et (funct == 0x03) a b)

/-- The parts of an accumulator lane (R147): `4n` bits each. -/
def laneParts (et l : Nat) : List Int :=
  let m := 4 * partBits et
  if etCplx et then [sx (fld l 0 m) m, sx (fld l m m) m] else [sx l m]

/-- A widening multiply on one lane (R147). -/
def vWideOp (et funct lane a b : Nat) : Nat × Bool :=
  let p := elProd et (funct == 0x13) a b
  let m := 4 * partBits et
  match funct with
  | 0x10 => joinParts m (wrapTo m) p
  | 0x12 => joinParts m (satTo m) ((List.zip (laneParts et lane) p).map fun q => q.1 - q.2)
  | _ => joinParts m (satTo m) ((List.zip (laneParts et lane) p).map fun q => q.1 + q.2)

/-- R160: a multiply, or a widening one into an accumulator (Harzar-S only, R109). -/
def execVectorMultiply (c : Fin 112) (long : Bool) (vd vs1 vs2 : BitVec 5) (pg : BitVec 4) (funct : BitVec 7) (s : State) : Res :=
  let f := funct.toNat
  let acc := 0x10 ≤ f
  .next (vinstr s c (vWord 1 long vd vs1 vs2 pg f) long
    ((vMulTypes f).isSome && !(f == 0x04 && vs2 != 0) && !(acc && (8 ≤ vd.toNat || !isChisel c)))
    (some ((vMulTypes f).getD [])) (f == 0x01 || f == 0x02 || f == 0x03) .plain fun s x =>
      let w := etBits x.et
      let n := vCount x c long
      let a := (vRead x vs1.toNat).toNat
      let b := (vRead x vs2.toNat).toNat
      if acc then
        let l := (aRead x vd.toNat).toNat
        .ok (lanewise s c vd.toNat x pg.toNat w n fun i => vWideOp x.et f (elem l (4 * w) i) (elem a w i) (elem b w i))
      else .ok (elemwise s c vd.toNat x pg.toNat w n fun i => vMulOp x.rm x.et f (elem a w i) (elem b w i)))

/-! ### Majors 0x22 and 0x2A: Veneer (R142, R148, R149, R161, R174)

A granule has `w` bits, parts of `w / 32` bits; an accumulator granule has `4 w` bits, parts of `w / 8` bits, and EA above its lanes. -/

/-- The exponent of a granule. -/
def grE (g : Nat) : Int := sx g 8

/-- The parts I and Q of element `r` of a granule (R142). -/
def grEl (w g r : Nat) : Int × Int :=
  let n := w / 32
  (sx (fld g (8 + 2 * n * r) n) n, sx (fld g (8 + 2 * n * r + n) n) n)

/-- The parts of lane `r` of an accumulator granule, and its EA (R174). -/
def agLane (w l r : Nat) : Int × Int :=
  let m := w / 8
  (sx (fld l (2 * m * r) m) m, sx (fld l (2 * m * r + m) m) m)
def agEA (w l : Nat) : Int := sx (fld l (24 * (w / 8)) 8) 8

/-- An accumulator granule from its lanes' parts, each already `w / 8` bits, and EA. -/
def agMake (w : Nat) (lanes : List Nat) (ea : Nat) : Nat := packEls (w / 8) lanes + 2 ^ (24 * (w / 8)) * ea

/-- The legality of an accumulator's number in a register field, on a core that has accumulators (R109, R158). -/
def accOk (c : Nat) (f : BitVec 5) : Bool := f.toNat < 8 && isChisel c

/-- R148: VVSETE. -/
def execVvsete (c : Fin 112) (long : Bool) (vd vs1 vs2 : BitVec 5) (pg : BitVec 4) (s : State) : Res :=
  .next (vinstr s c (vWord 2 long vd vs1 vs2 pg 0x00) long (accOk c vd && vs2 == 0) (some tV) false .plain fun s x =>
    let w := etBits x.et
    let a := (vRead x vs1.toNat).toNat
    .ok (lanewise s c vd.toNat x pg.toNat w (vCount x c long) fun g => (agMake w [] (fld (elem a w g) 0 8), false)))

/-- p × 2^(E1 + E2 − EA), rounded where the power is negative (R148). -/
def alignTo (rm : Nat) (p e : Int) : Int := if 0 ≤ e then p * 2 ^ e.toNat else roundShift rm p (-e).toNat

/-- One granule of VVMUL, VVMAC, VVMACJ or VVMSUB (`k` = 0 to 3) (R148). -/
def veneerMac (rm w k l a b : Nat) : Nat × Bool :=
  let m := w / 8
  let blank := grE a = -128 ∨ grE b = -128
  let e := grE a + grE b - agEA w l
  let rs := (upFrom 0 12).flatMap fun r =>
    let x := grEl w a r
    let y := grEl w b r
    let z := agLane w l r
    let y2 := if k = 2 then -y.2 else y.2
    let q := fun (p : Int) => if blank then 0 else alignTo rm p e
    let qi := q (x.1 * y.1 - x.2 * y2)
    let qq := q (x.1 * y2 + x.2 * y.1)
    match k with
    | 0 => [satTo m qi, satTo m qq]
    | 3 => [satTo m (z.1 - qi), satTo m (z.2 - qq)]
    | _ => [satTo m (z.1 + qi), satTo m (z.2 + qq)]
  (agMake w (rs.map fun r => r.1) (fld l (24 * m) 8), rs.any fun r => r.2)

/-- R148: VVMUL, VVMAC, VVMACJ, VVMSUB. -/
def execVeneerMac (c : Fin 112) (long : Bool) (k : Fin 4) (vd vs1 vs2 : BitVec 5) (pg : BitVec 4) (s : State) : Res :=
  .next (vinstr s c (vWord 2 long vd vs1 vs2 pg (1 + k.val)) long (accOk c vd) (some tV) true .plain fun s x =>
    let w := etBits x.et
    let a := (vRead x vs1.toNat).toNat
    let b := (vRead x vs2.toNat).toNat
    let l := (aRead x vd.toNat).toNat
    .ok (lanewise s c vd.toNat x pg.toNat w (vCount x c long) fun g =>
      veneerMac x.rm w k.val (elem l (4 * w) g) (elem a w g) (elem b w g)))

/-- A granule of VVNORM (R149). -/
def veneerNorm (rm w l : Nat) : Nat × Bool :=
  let n := w / 32
  let ea := agEA w l
  let xs := (upFrom 0 12).flatMap fun r => [(agLane w l r).1, (agLane w l r).2]
  let make := fun (e : Int) (ms : List Int) => ofInt e 8 + 2 ^ 8 * packEls n (ms.map fun m => ofInt m n)
  if xs.all fun y => y == 0 then (make (-128) [], false)
  else
    let s0 := (max 0 (-127 - ea)).toNat
    let fits := fun s => xs.all fun y => !satHit n (roundShift rm y s)
    let sh := (firstFrom fits s0 64).getD 0
    if ea + sh ≤ 127 then (make (ea + sh) (xs.map fun y => roundShift rm y sh), false)
    else
      let k := (127 - ea).toNat
      (make 127 (xs.map fun y => satInt n (roundShift rm y k)), xs.any fun y => satHit n (roundShift rm y k))

/-- R149: VVNORM. -/
def execVvnorm (c : Fin 112) (long : Bool) (vd vs1 vs2 : BitVec 5) (pg : BitVec 4) (s : State) : Res :=
  .next (vinstr s c (vWord 2 long vd vs1 vs2 pg 0x08) long (accOk c vs1 && vs2 == 0) (some tV) true .plain fun s x =>
    let w := etBits x.et
    let l := (aRead x vs1.toNat).toNat
    .ok (elemwise s c vd.toNat x pg.toNat w (vCount x c long) fun g => veneerNorm x.rm w (elem l (4 * w) g)))

/-! ### Majors 0x23 and 0x2B: predicates, reductions, permutes (R141, R152, R162) -/

/-- A predicate's number in a register field: bit 4 zero (R158). -/
def prOk (f : BitVec 5) : Bool := f.toNat < 16

/-- A predicate destination: the governing bit of each active element takes `f`, every other bit of the class is 0 (R141). -/
def putPred (s : State) (c pd : Nat) (x : Core) (pg w n bits : Nat) (f : Nat → Bool) : State :=
  putP s c pd (bits / 8) fun j =>
    let i := j * 8 / w
    govBit w i == j && i < n && active x pg w i && f i

/-- R162: VCMPEQ, VCMPNE, VCMPLT, VCMPLE. -/
def execVectorCompare (c : Fin 112) (long : Bool) (k : Fin 4) (vd vs1 vs2 : BitVec 5) (pg : BitVec 4) (s : State) : Res :=
  .next (vinstr s c (vWord 3 long vd vs1 vs2 pg k.val) long (prOk vd) (some (if k.val < 2 then tIs ++ tC else tIs)) false .plain fun s x =>
    let w := etBits x.et
    let a := (vRead x vs1.toNat).toNat
    let b := (vRead x vs2.toNat).toNat
    .ok (putPred s c vd.toNat x pg.toNat w (vCount x c long) (clsBits x c long) fun i =>
      let p := elem a w i
      let q := elem b w i
      match k.val with
      | 0 => p == q
      | 1 => p != q
      | 2 => decide (sx p w < sx q w)
      | _ => decide (sx p w ≤ sx q w)))

/-- R162: VRANGE. -/
def execVrange (c : Fin 112) (long : Bool) (vd vs1 vs2 : BitVec 5) (pg : BitVec 4) (s : State) : Res :=
  .next (vinstr s c (vWord 3 long vd vs1 vs2 pg 0x08) long (prOk vd && vs2 == 0 && pg == 0) (some (tIs ++ tC ++ tV)) false .plain fun s x =>
    .ok (putPred s c vd.toNat x 0 (etBits x.et) (vCount x c long) (clsBits x c long) fun i => decide ((i : Int) < gInt x vs1.toNat)))

/-- R162: VPAND, VPOR, VPXOR, VPANDN, bitwise on the predicate's bits of the class. -/
def execPredicateLogic (c : Fin 112) (long : Bool) (k : Fin 4) (vd vs1 vs2 : BitVec 5) (pg : BitVec 4) (s : State) : Res :=
  .next (vinstr s c (vWord 3 long vd vs1 vs2 pg (0x09 + k.val)) long (prOk vd && prOk vs1 && prOk vs2) none false .plain fun s x =>
    .ok (putP s c vd.toNat (clsBits x c long / 8) fun j =>
      let a := (pRead x vs1.toNat).getLsbD j
      let b := (pRead x vs2.toNat).getLsbD j
      (match k.val with
       | 0 => a && b
       | 1 => a || b
       | 2 => a != b
       | _ => a && !b) && (pRead x pg.toNat).getLsbD j))

/-- R152, R162: VFFMASK. For I4 with FFR odd, the bit that governs element FFR − 1 and element FFR together is a free value. [log 47: DESIGN CHOICE] -/
def execVffmask (c : Fin 112) (long : Bool) (vd vs1 vs2 : BitVec 5) (pg : BitVec 4) (s : State) : Res :=
  .next (vinstr s c (vWord 3 long vd vs1 vs2 pg 0x10) long (prOk vd && vs1 == 0 && vs2 == 0) (some tAny) false .plain fun s x =>
    let (free, s) := if x.et = 0 ∧ x.ffr % 2 = 1 then takeFree s 1 else (0, s)
    .ok (putPred s c vd.toNat x pg.toNat (etBits x.et) (vCount x c long) (clsBits x c long) fun i =>
      if x.et = 0 ∧ i + 1 = x.ffr then free == 1 else i < x.ffr))

/-- R162: VFFSET. -/
def execVffset (c : Fin 112) (long : Bool) (vd vs1 vs2 : BitVec 5) (pg : BitVec 4) (s : State) : Res :=
  .next (vinstr s c (vWord 3 long vd vs1 vs2 pg 0x11) long (vd == 0 && vs2 == 0 && pg == 0) none false .plain fun s x =>
    .ok (setCore s c { x with ffr := min (gRead x vs1.toNat).toNat 512 }))

/-- R162: VFFGET. -/
def execVffget (c : Fin 112) (long : Bool) (vd vs1 vs2 : BitVec 5) (pg : BitVec 4) (s : State) : Res :=
  .next (vinstr s c (vWord 3 long vd vs1 vs2 pg 0x12) long (vs1 == 0 && vs2 == 0 && pg == 0) none false .plain fun s x =>
    .ok (putG s c vd.toNat (BitVec.ofNat 64 x.ffr)))

/-- R152, R162: VFFARM. -/
def execVffarm (c : Fin 112) (long : Bool) (vd vs1 vs2 : BitVec 5) (pg : BitVec 4) (s : State) : Res :=
  .next (vinstr s c (vWord 3 long vd vs1 vs2 pg 0x13) long (vd == 0 && vs1 == 0 && vs2 == 0 && pg == 0) none false .plain fun s x =>
    .ok (setCore s c { x with ffr := 512 }))

/-- R162: VCNTP. -/
def execVcntp (c : Fin 112) (long : Bool) (vd vs1 vs2 : BitVec 5) (pg : BitVec 4) (s : State) : Res :=
  .next (vinstr s c (vWord 3 long vd vs1 vs2 pg 0x14) long (prOk vs1 && vs2 == 0) (some (tIs ++ tC ++ tV)) false .plain fun s x =>
    let w := etBits x.et
    .ok (putG s c vd.toNat (BitVec.ofNat 64
      ((upFrom 0 (vCount x c long)).countP fun i => active x pg.toNat w i && active x vs1.toNat w i))))

/-- R162: VREDADD, VREDMAX, VREDMIN. -/
def execVectorReduce (c : Fin 112) (long : Bool) (k : Fin 3) (vd vs1 vs2 : BitVec 5) (pg : BitVec 4) (s : State) : Res :=
  .next (vinstr s c (vWord 3 long vd vs1 vs2 pg (0x18 + k.val)) long (vs2 == 0) (some tIs) false .plain fun s x =>
    let w := etBits x.et
    let a := (vRead x vs1.toNat).toNat
    let es := (actives x pg.toNat w (vCount x c long) 0).map fun i => sx (elem a w i) w
    .ok (putG s c vd.toNat (w64 (match k.val with
      | 0 => es.foldl (· + ·) 0
      | 1 => es.foldl max (minInt w)
      | _ => es.foldl min (maxInt w)))))

/-- R162: VPERM. -/
def execVperm (c : Fin 112) (long : Bool) (vd vs1 vs2 : BitVec 5) (pg : BitVec 4) (s : State) : Res :=
  .next (vinstr s c (vWord 3 long vd vs1 vs2 pg 0x1C) long true (some (tIs ++ tC)) false .plain fun s x =>
    let w := etBits x.et
    let n := vCount x c long
    let a := (vRead x vs1.toNat).toNat
    let b := (vRead x vs2.toNat).toNat
    .ok (elemwise s c vd.toNat x pg.toNat w n fun i => (if elem b w i < n then elem a w (elem b w i) else 0, false)))

/-! ### Majors 0x24 and 0x2C: loads (R150 to R155, R163) -/

/-- Where a resumable instruction starts (R153, R155). -/
def startEl (x : Core) : Nat := if x.compat then 0 else x.vstart

/-- The Types column of a form of R150. -/
def formTypes (form : Nat) : List Nat := if form = 0 then tAny else tIs ++ tC

/-- The loads of the active elements of a form. -/
def elLoads (x : Core) (w form vs1 vs2 : Nat) (is : List Nat) : List ElLoad :=
  is.map fun i => { i := i, va := elAddr x w form vs1 vs2 i, n := esize w, al := esize w }

/-- The effect of a resumable load (R153, R155): what it has loaded at a fault stands in native mode, and not with COMPAT = 1. -/
def loadBody (s : State) (c vd : Nat) (x : Core) (put : Nat → Nat → List Byte → Nat) (es : List ElLoad) : IRes :=
  match runLoads s c put (vRead x vd).toNat es with
  | (v, none, s') => .ok (putV s' c vd v false)
  | (v, some f, s') => resumeAt (if x.compat then s' else putV s' c vd v false) c x.compat f

/-- R153, R163: VLD, VLDS, VLDX, VLDXS. -/
def execVectorLoad (c : Fin 112) (long : Bool) (form : Fin 4) (vd vs1 vs2 : BitVec 5) (pg : BitVec 4) (s : State) : Res :=
  .next (vinstr s c (vWord 4 long vd vs1 vs2 pg form.val) long (form.val != 0 || vs2 == 0) (some (formTypes form.val)) false .resumable fun s x =>
    let w := etBits x.et
    let n := vCount x c long
    loadBody s c vd.toNat x (putElem w n)
      (elLoads x w form.val vs1.toNat vs2.toNat (actives x pg.toNat w n (startEl x))))

/-- R152, R163: VLDFF, VLDXFF, VLDXSFF (`form` = 0, 1, 2). -/
def execVectorLoadFf (c : Fin 112) (long : Bool) (form : Fin 3) (vd vs1 vs2 : BitVec 5) (pg : BitVec 4) (s : State) : Res :=
  let f := if form.val = 0 then 0 else form.val + 1
  .next (vinstr s c (vWord 4 long vd vs1 vs2 pg (4 + form.val)) long (f != 0 || vs2 == 0) (some (formTypes f)) false .whole fun s x =>
    let w := etBits x.et
    let n := vCount x c long
    let is := actives x pg.toNat w n 0
    match runLoads s c (putElem w n) (vRead x vd.toNat).toNat (elLoads x w f vs1.toNat vs2.toNat is) with
    | (v, none, s') => .ok (putV s' c vd.toNat v false)
    | (v, some (i, code, sub, t), s') =>
      if is.head? = some i then .trap (updCore s' c fun y => { y with vstart := 0 }) code sub t
      else .ok (updCore (putV s' c vd.toNat v false) c fun y => { y with ffr := min y.ffr i }))

/-- R150, R163: VLDPK. Pad bytes are loaded as zero (R142). -/
def execVldpk (c : Fin 112) (long : Bool) (vd vs1 vs2 : BitVec 5) (pg : BitVec 4) (s : State) : Res :=
  .next (vinstr s c (vWord 4 long vd vs1 vs2 pg 0x08) long (vs2 == 0) (some tV) false .resumable fun s x =>
    let w := etBits x.et
    let n := vCount x c long
    let k := recSize w
    loadBody s c vd.toNat x (putElem w n)
      ((actives x pg.toNat w n (startEl x)).map fun g =>
        { i := g, va := vaOf ((gRead x vs1.toNat).toNat + (k * g : Nat)), n := k, al := 1 }))

/-- The pieces of a whole register or predicate in memory: `n` pieces of `k` bytes, aligned to `k` (R150). -/
def wholeLoads (x : Core) (vs1 k n : Nat) : List ElLoad :=
  (upFrom 0 n).map fun j => { i := j, va := vaOf ((gRead x vs1).toNat + (k * j : Nat)), n := k, al := k }

/-- R164: VLDR. -/
def execVldr (c : Fin 112) (long : Bool) (vd vs1 vs2 : BitVec 5) (pg : BitVec 4) (s : State) : Res :=
  .next (vinstr s c (vWord 4 long vd vs1 vs2 pg 0x0C) long (vs2 == 0 && pg == 0) none false .whole fun s x =>
    let n := clsBits x c long / 128
    match runLoads s c (putElem 128 n) (vRead x vd.toNat).toNat (wholeLoads x vs1.toNat 16 n) with
    | (v, none, s') => .ok (putV s' c vd.toNat v false)
    | (_, some (_, code, sub, t), s') => .trap s' code sub t)

/-- R164: VLDPR. -/
def execVldpr (c : Fin 112) (long : Bool) (vd vs1 vs2 : BitVec 5) (pg : BitVec 4) (s : State) : Res :=
  .next (vinstr s c (vWord 4 long vd vs1 vs2 pg 0x0D) long (prOk vd && vs2 == 0 && pg == 0) none false .whole fun s x =>
    let n := clsBits x c long / 128
    match runLoads s c (putElem 16 n) (pRead x vd.toNat).toNat (wholeLoads x vs1.toNat 2 n) with
    | (v, none, s') => .ok (updCore s' c fun y => pWrite y vd.toNat (BitVec.ofNat 256 v))
    | (_, some (_, code, sub, t), s') => .trap s' code sub t)

/-! ### Majors 0x25 and 0x2D: stores (R150 to R155, R164) -/

/-- The effect of a resumable store (R153, R155): with COMPAT = 1 every element is checked before any is issued. -/
def storeBody (s : State) (c : Nat) (x : Core) (es : List ElStore) : IRes :=
  match (if x.compat then storeAll s c es else runStores s c es) with
  | (none, s') => .ok s'
  | (some f, s') => resumeAt s' c x.compat f

/-- R153, R164: VST, VSTS, VSTX, VSTXS. -/
def execVectorStore (c : Fin 112) (long : Bool) (form : Fin 4) (vd vs1 vs2 : BitVec 5) (pg : BitVec 4) (s : State) : Res :=
  .next (vinstr s c (vWord 5 long vd vs1 vs2 pg form.val) long (form.val != 0 || vs2 == 0) (some (formTypes form.val)) false .resumable fun s x =>
    let w := etBits x.et
    let v := (vRead x vd.toNat).toNat
    storeBody s c x ((actives x pg.toNat w (vCount x c long) (startEl x)).map fun i =>
      { i := i, va := elAddr x w form.val vs1.toNat vs2.toNat i, bs := elBytes v w i, al := esize w }))

/-- R150, R164: VSTPK. -/
def execVstpk (c : Fin 112) (long : Bool) (vd vs1 vs2 : BitVec 5) (pg : BitVec 4) (s : State) : Res :=
  .next (vinstr s c (vWord 5 long vd vs1 vs2 pg 0x08) long (vs2 == 0) (some tV) false .resumable fun s x =>
    let w := etBits x.et
    let v := (vRead x vd.toNat).toNat
    let k := recSize w
    storeBody s c x ((actives x pg.toNat w (vCount x c long) (startEl x)).map fun g =>
      { i := g, va := vaOf ((gRead x vs1.toNat).toNat + (k * g : Nat)), bs := leBytes (elem v w g) k, al := 1 }))

/-- The stores of a whole register or predicate. -/
def wholeStores (x : Core) (vs1 k n v : Nat) : List ElStore :=
  (upFrom 0 n).map fun j => { i := j, va := vaOf ((gRead x vs1).toNat + (k * j : Nat)), bs := leBytes (elem v (8 * k) j) k, al := k }

/-- The end of a store that performs all or none. -/
def storeWhole (s : State) (c : Nat) (es : List ElStore) : IRes :=
  match storeAll s c es with
  | (none, s') => .ok s'
  | (some (_, code, sub, t), s') => .trap s' code sub t

/-- R164: VSTR. -/
def execVstr (c : Fin 112) (long : Bool) (vd vs1 vs2 : BitVec 5) (pg : BitVec 4) (s : State) : Res :=
  .next (vinstr s c (vWord 5 long vd vs1 vs2 pg 0x0C) long (vs2 == 0 && pg == 0) none false .whole fun s x =>
    storeWhole s c (wholeStores x vs1.toNat 16 (clsBits x c long / 128) (vRead x vd.toNat).toNat))

/-- R164: VSTPR. -/
def execVstpr (c : Fin 112) (long : Bool) (vd vs1 vs2 : BitVec 5) (pg : BitVec 4) (s : State) : Res :=
  .next (vinstr s c (vWord 5 long vd vs1 vs2 pg 0x0D) long (prOk vd && vs2 == 0 && pg == 0) none false .whole fun s x =>
    storeWhole s c (wholeStores x vs1.toNat 2 (clsBits x c long / 128) (pRead x vd.toNat).toNat))

/-! ### Majors 0x26 and 0x2E: moves and conversion (R165) -/

/-- The effect of VDUP, VMOV, VSEL, VEXTR, VINS (`k` = 0 to 4). -/
def moveBody (s : State) (c k vd vs1 vs2 pg : Nat) (x : Core) (n : Nat) : State :=
  let w := etBits x.et
  let a := (vRead x vs1).toNat
  let b := (vRead x vs2).toNat
  let i := (gRead x vs2).toNat
  match k with
  | 0 => elemwise s c vd x pg w n fun _ => ((gRead x vs1).toNat, false)
  | 1 => elemwise s c vd x pg w n fun i => (elem a w i, false)
  | 2 => elemwise s c vd x 0 w n fun i => (if active x pg w i then elem a w i else elem b w i, false)
  | 3 => putG s c vd (if i < n then (if etCplx x.et then BitVec.ofNat 64 (elem a w i) else w64 (sx (elem a w i) w)) else 0)
  | _ => putV s c vd (mapEls (vRead x vd).toNat w n (fun j => j == i) fun _ => (gRead x vs1).toNat) false

/-- R165: VDUP, VMOV, VSEL, VEXTR, VINS. -/
def execVectorMove (c : Fin 112) (long : Bool) (k : Fin 5) (vd vs1 vs2 : BitVec 5) (pg : BitVec 4) (s : State) : Res :=
  .next (vinstr s c (vWord 6 long vd vs1 vs2 pg k.val) long ((1 < k.val || vs2 == 0) && (k.val < 3 || pg == 0))
    (some (lget [tI ++ tC, tAny, tAny, tIs ++ tC, tIs ++ tC] [] k.val)) false .plain fun s x =>
      .ok (moveBody s c k.val vd.toNat vs1.toNat vs2.toNat pg.toNat x (vCount x c long)))

/-- R165: VCNT. -/
def execVcnt (c : Fin 112) (long : Bool) (vd vs1 vs2 : BitVec 5) (pg : BitVec 4) (s : State) : Res :=
  .next (vinstr s c (vWord 6 long vd vs1 vs2 pg 0x05) long (vs1 == 0 && vs2 == 0 && pg == 0) (some tAny) false .plain fun s x =>
    .ok (putG s c vd.toNat (BitVec.ofNat 64 (vCount x c long))))

/-- Each part of an element sign-extended to double width (R165). -/
def widenEl (et a : Nat) : Nat :=
  let n := partBits et
  packEls (2 * n) ((partsOf et a).map fun p => ofInt (sx p n) (2 * n))

/-- Each part of an element shifted by NSH, rounded and saturated to half its width (R146). -/
def narrowEl (rm nsh et a : Nat) : Nat × Bool :=
  let n := partBits et
  joinParts (n / 2) (fun p => satTo (n / 2) (roundShift rm p nsh)) ((partsOf et a).map fun p => sx p n)

/-- R165: VUNPKLO, VUNPKHI, VNARROW (`k` = 0, 1, 2). ET names the source type; the predicate governs the result elements. -/
def execVectorConvert (c : Fin 112) (long : Bool) (k : Fin 3) (vd vs1 vs2 : BitVec 5) (pg : BitVec 4) (s : State) : Res :=
  .next (vinstr s c (vWord 6 long vd vs1 vs2 pg (0x08 + k.val)) long (k.val == 2 || vs2 == 0)
    (some (if k.val = 2 then [1, 2, 3, 5, 6] else [0, 1, 2, 4, 5])) (k.val == 2) .plain fun s x =>
      let w := etBits x.et
      let n := vCount x c long
      let a := (vRead x vs1.toNat).toNat
      let b := (vRead x vs2.toNat).toNat
      if k.val = 2 then
        .ok (elemwise s c vd.toNat x pg.toNat (w / 2) (2 * n) fun i =>
          narrowEl x.rm x.nsh x.et (if i < n then elem a w i else elem b w (i - n)))
      else
        .ok (elemwise s c vd.toNat x pg.toNat (2 * w) (n / 2) fun i =>
          (widenEl x.et (elem a w (if k.val = 1 then n / 2 + i else i)), false)))

end Sys2Proof.Machine
end

