-- ==== Sys2Proof/Machine/HarzarDsp.lean ====
section
/-!
DEFINITION. Circular buffers, block repeats and accumulator instructions of Harzar-S (07_dsp_addressing_and_rasp R166 to R176).
-/
namespace Sys2Proof.Machine

/-! ### Circular buffers (R166 to R169) -/

/-- The word of major 0x30: funct is OP, pg and n (R169). -/
def cbWord (op : Nat) (rd rs1 rs2 : BitVec 5) (pg : BitVec 4) (n : Fin 8) : Nat :=
  wordA 0x30 rd.toNat rs1.toNat rs2.toNat (op * 128 + pg.toNat * 8 + n.val)

def getCb (x : Core) (n : Nat) : Cb := tget x.cb {} n
def setCb (x : Core) (n : Nat) (b : Cb) : Core := { x with cb := tset x.cb n b }

/-- The fold of R167: a pointer and a step, brought into [BASE, BASE + LEN); a LEN of zero gives the plain sum. -/
def cbFold (b : Cb) (p step : Word) : Word :=
  if b.len = 0 then p + step
  else b.base + BitVec.ofInt 64 ((p - b.base + step).toInt % (b.len : Int))

/-- R169: CBWB. -/
def execCbwb (c : Fin 112) (rd rs1 rs2 : BitVec 5) (pg : BitVec 4) (n : Fin 8) (s : State) : Res :=
  .next (instr s c (cbWord 0x0 rd rs1 rs2 pg n) (isChisel c && rd == 0 && rs2 == 0 && pg == 0) false false fun s =>
    let x := getCore s c
    .ok (setCore s c (setCb x n.val { getCb x n.val with base := gRead x rs1.toNat })))

/-- R169: CBWL. -/
def execCbwl (c : Fin 112) (rd rs1 rs2 : BitVec 5) (pg : BitVec 4) (n : Fin 8) (s : State) : Res :=
  .next (instr s c (cbWord 0x1 rd rs1 rs2 pg n) (isChisel c && rd == 0 && rs2 == 0 && pg == 0) false false fun s =>
    let x := getCore s c
    .ok (setCore s c (setCb x n.val { getCb x n.val with len := (gRead x rs1.toNat).toNat % 2 ^ 32 })))

/-- R169: CBRB. -/
def execCbrb (c : Fin 112) (rd rs1 rs2 : BitVec 5) (pg : BitVec 4) (n : Fin 8) (s : State) : Res :=
  .next (instr s c (cbWord 0x2 rd rs1 rs2 pg n) (isChisel c && rs1 == 0 && rs2 == 0 && pg == 0) false false fun s =>
    .ok (putG s c rd.toNat (getCb (getCore s c) n.val).base))

/-- R169: CBRL. -/
def execCbrl (c : Fin 112) (rd rs1 rs2 : BitVec 5) (pg : BitVec 4) (n : Fin 8) (s : State) : Res :=
  .next (instr s c (cbWord 0x3 rd rs1 rs2 pg n) (isChisel c && rs1 == 0 && rs2 == 0 && pg == 0) false false fun s =>
    .ok (putG s c rd.toNat (BitVec.ofNat 64 (getCb (getCore s c) n.val).len)))

/-- R167: CBINC, with the step in g[rs2]. -/
def execCbinc (c : Fin 112) (rd rs1 rs2 : BitVec 5) (pg : BitVec 4) (n : Fin 8) (s : State) : Res :=
  .next (instr s c (cbWord 0x4 rd rs1 rs2 pg n) (isChisel c && pg == 0) false false fun s =>
    let x := getCore s c
    .ok (putG s c rd.toNat (cbFold (getCb x n.val) (gRead x rs1.toNat) (gRead x rs2.toNat))))

/-- R167: CBINCI, with the signed 13-bit step of the immediate (R169). -/
def execCbinci (c : Fin 112) (rd rs1 : BitVec 5) (n : Fin 8) (step : BitVec 13) (s : State) : Res :=
  .next (instr s c (wordB 0x31 rd.toNat rs1.toNat (n.val * 8192 + step.toNat)) (isChisel c) false false fun s =>
    let x := getCore s c
    .ok (putG s c rd.toNat (cbFold (getCb x n.val) (gRead x rs1.toNat) (w64 step.toInt))))

/-- The address of element `i` of a circular access (R168). -/
def cbAddr (x : Core) (b : Cb) (rs1 i : Nat) : Nat :=
  (cbFold b (gRead x rs1) (BitVec.ofNat 64 (i * esize (etBits x.et)))).toNat

/-- R168: VLDCS and VLDCL. A precise exception leaves vd unchanged. -/
def execVldc (c : Fin 112) (long : Bool) (rd rs1 rs2 : BitVec 5) (pg : BitVec 4) (n : Fin 8) (s : State) : Res :=
  .next (vinstr s c (cbWord (0x8 + b2n long) rd rs1 rs2 pg n) long (isChisel c && rs2 == 0) (some (tIs ++ tC)) false .plain fun s x =>
    let w := etBits x.et
    let m := vCount x c long
    let b := getCb x n.val
    match runLoads s c (putElem w m) (vRead x rd.toNat).toNat ((actives x pg.toNat w m 0).map fun i =>
        { i := i, va := cbAddr x b rs1.toNat i, n := esize w, al := esize w }) with
    | (v, none, s') => .ok (putV s' c rd.toNat v false)
    | (_, some (_, code, sub, t), s') => .trap s' code sub t)

/-- R168: VSTCS and VSTCL, which check every active element before they issue any. -/
def execVstc (c : Fin 112) (long : Bool) (rd rs1 rs2 : BitVec 5) (pg : BitVec 4) (n : Fin 8) (s : State) : Res :=
  .next (vinstr s c (cbWord (0xA + b2n long) rd rs1 rs2 pg n) long (isChisel c && rs2 == 0) (some (tIs ++ tC)) false .plain fun s x =>
    let w := etBits x.et
    let v := (vRead x rd.toNat).toNat
    let b := getCb x n.val
    storeWhole s c ((actives x pg.toNat w (vCount x c long) 0).map fun i =>
      { i := i, va := cbAddr x b rs1.toNat i, bs := elBytes v w i, al := esize w }))

/-! ### Block repeats (R170 to R173) -/

/-- The word of major 0x32 (R173). -/
def lpWord (sub : Nat) (rd rs1 : BitVec 5) (imm : BitVec 10) : Nat := wordX 0x32 rd.toNat rs1.toNat sub imm.toNat

/-- The effect of LOOP on level `n`, or `none` for LOOP_FAULT (R170, R171): the levels and where execution continues. [log 48: DEDUCED] -/
def loopBody (x : Core) (n len : Nat) (cnt : Word) : Option (Tab Lp × Word) :=
  let start := x.pc + 4
  let stop := x.pc + BitVec.ofNat 64 (4 * len)
  let act := (upFrom 0 4).filter fun i => (tget x.lp {} i).act
  let inner : Bool := match innermost x.lp with
    | some i => decide (stop.toNat ≤ (tget x.lp {} i).stop.toNat)
    | none => true
  if act != upFrom 0 n || len == 0 || !inner || 2 ^ 32 ≤ cnt.toNat || x.exl then none
  else if cnt = 0 then some (tset x.lp n { tget x.lp {} n with start := start, stop := stop, act := false }, stop + 4)
  else some (tset x.lp n { start := start, stop := stop, cnt := cnt.toNat, act := true }, start)

/-- LOOP_FAULT, whose HZ_TVAL the spec does not state: a free value. [log 48: DEDUCED] -/
def loopFault (s : State) : IRes :=
  let (v, s) := takeFree s 64
  .trap s 0x11 0 (BitVec.ofNat 64 v)

/-- R170: LOOP. [log 48: DEDUCED] -/
def execLoop (c : Fin 112) (rd rs1 : BitVec 5) (imm : BitVec 10) (s : State) : Res :=
  .next (instr s c (lpWord 0x00 rd rs1 imm) (isChisel c && rd.toNat < 4) false true fun s =>
    let x := getCore s c
    match loopBody x rd.toNat imm.toNat (gRead x rs1.toNat) with
    | none => loopFault s
    | some (l, t) => .jump (setCore s c { x with lp := l }) t)

/-- R170: LPBRK deactivates the innermost active level and continues after its END. -/
def execLpbrk (c : Fin 112) (rd rs1 : BitVec 5) (imm : BitVec 10) (s : State) : Res :=
  .next (instr s c (lpWord 0x01 rd rs1 imm) (isChisel c && rd == 0 && rs1 == 0 && imm == 0) false true fun s =>
    let x := getCore s c
    match (if x.exl then none else innermost x.lp) with
    | none => loopFault s
    | some n =>
      let l := tget x.lp {} n
      .jump (setCore s c { x with lp := tset x.lp n { l with act := false } }) ((l.stop + 4) &&& ~~~3))

/-- R173: LPRD; the g register is in the rs1 field. -/
def execLprd (c : Fin 112) (rd rs1 : BitVec 5) (imm : BitVec 10) (s : State) : Res :=
  .next (instr s c (lpWord 0x02 rd rs1 imm) (isChisel c && rd.toNat < 4 && imm.toNat < 3) false false fun s =>
    let l := tget (getCore s c).lp {} rd.toNat
    .ok (putG s c rs1.toNat (match imm.toNat with
      | 0 => l.start
      | 1 => l.stop
      | _ => BitVec.ofNat 64 (l.cnt + b2n l.act * 2 ^ 63))))

/-- A field of a level written (R173). -/
def lpWrite (l : Lp) (f : Nat) (v : Word) : Lp :=
  match f with
  | 0 => { l with start := v }
  | 1 => { l with stop := v }
  | _ => { l with cnt := v.toNat % 2 ^ 32, act := v.getLsbD 63 }

/-- R172, R173: LPWR, whose write takes effect for the next instruction: its own loop-end test comes first. [log 48: DEDUCED] -/
def execLpwr (c : Fin 112) (rd rs1 : BitVec 5) (imm : BitVec 10) (s : State) : Res :=
  .next (instr s c (lpWord 0x03 rd rs1 imm) (isChisel c && rd.toNat < 4 && imm.toNat < 3) false false fun s =>
    let x := getCore s c
    let (l, t) := if x.exl then (x.lp, none) else loopEnd x.lp x.pc 4
    .jump (setCore s c { x with lp := tset l rd.toNat (lpWrite (tget l {} rd.toNat) imm.toNat (gRead x rs1.toNat)) })
      (t.getD (x.pc + 4)))

/-! ### Accumulators (R174 to R176) -/

/-- The word of major 0x33: funct is L, pg and OP (R176). -/
def accWord (op : Nat) (long : Bool) (rd rs1 rs2 : BitVec 5) (pg : BitVec 4) : Nat :=
  wordA 0x33 rd.toNat rs1.toNat rs2.toNat (b2n long * 1024 + pg.toNat * 64 + op)

/-- R176: AZERO. -/
def execAzero (c : Fin 112) (long : Bool) (rd rs1 rs2 : BitVec 5) (pg : BitVec 4) (s : State) : Res :=
  .next (vinstr s c (accWord 0x00 long rd rs1 rs2 pg) long (accOk c rd && rs1 == 0 && rs2 == 0) (some (tWide ++ tV)) false .plain fun s x =>
    .ok (lanewise s c rd.toNat x pg.toNat (etBits x.et) (vCount x c long) fun _ => (0, false)))

/-- R176: AMOV, EA included. -/
def execAmov (c : Fin 112) (long : Bool) (rd rs1 rs2 : BitVec 5) (pg : BitVec 4) (s : State) : Res :=
  .next (vinstr s c (accWord 0x01 long rd rs1 rs2 pg) long (accOk c rd && accOk c rs1 && rs2 == 0) (some (tWide ++ tV)) false .plain fun s x =>
    let w := etBits x.et
    let a := (aRead x rs1.toNat).toNat
    .ok (lanewise s c rd.toNat x pg.toNat w (vCount x c long) fun i => (elem a (4 * w) i, false)))

/-- R176: AADD. -/
def execAadd (c : Fin 112) (long : Bool) (rd rs1 rs2 : BitVec 5) (pg : BitVec 4) (s : State) : Res :=
  .next (vinstr s c (accWord 0x02 long rd rs1 rs2 pg) long (accOk c rd && accOk c rs1 && accOk c rs2) (some tWide) false .plain fun s x =>
    let w := etBits x.et
    let m := 4 * partBits x.et
    let a := (aRead x rs1.toNat).toNat
    let b := (aRead x rs2.toNat).toNat
    .ok (lanewise s c rd.toNat x pg.toNat w (vCount x c long) fun i =>
      joinParts m (satTo m) ((List.zip (laneParts x.et (elem a (4 * w) i)) (laneParts x.et (elem b (4 * w) i))).map fun q => q.1 + q.2)))

/-- R176: ASHR. -/
def execAshr (c : Fin 112) (long : Bool) (rd rs1 rs2 : BitVec 5) (pg : BitVec 4) (s : State) : Res :=
  .next (vinstr s c (accWord 0x03 long rd rs1 rs2 pg) long (accOk c rd && accOk c rs1) (some tWide) true .plain fun s x =>
    let w := etBits x.et
    let m := 4 * partBits x.et
    let sh := (gRead x rs2.toNat).toNat % 64
    let a := (aRead x rs1.toNat).toNat
    .ok (lanewise s c rd.toNat x pg.toNat w (vCount x c long) fun i =>
      joinParts m (fun p => wrapTo m (roundShift x.rm p sh)) (laneParts x.et (elem a (4 * w) i))))

/-- R176: ARND. -/
def execArnd (c : Fin 112) (long : Bool) (rd rs1 rs2 : BitVec 5) (pg : BitVec 4) (s : State) : Res :=
  .next (vinstr s c (accWord 0x04 long rd rs1 rs2 pg) long (accOk c rs1) (some tWide) true .plain fun s x =>
    let w := etBits x.et
    let n := partBits x.et
    let sh := (gRead x rs2.toNat).toNat % 64
    let a := (aRead x rs1.toNat).toNat
    .ok (elemwise s c rd.toNat x pg.toNat w (vCount x c long) fun i =>
      joinParts n (fun p => satTo n (roundShift x.rm p sh)) (laneParts x.et (elem a (4 * w) i))))

/-- R176: AQRD reads quarter q of an accumulator. -/
def execAqrd (c : Fin 112) (long : Bool) (rd rs1 rs2 : BitVec 5) (pg : BitVec 4) (s : State) : Res :=
  .next (vinstr s c (accWord 0x08 long rd rs1 rs2 pg) long (accOk c rs1 && rs2.toNat < 4 && pg == 0) none false .plain fun s x =>
    let len := clsBits x c long
    .ok (putV s c rd.toNat (mapEls (vRead x rd.toNat).toNat len 1 (fun _ => true) fun _ =>
      elem (aRead x rs1.toNat).toNat len rs2.toNat) false))

/-- R176: AQWR writes quarter q of an accumulator. -/
def execAqwr (c : Fin 112) (long : Bool) (rd rs1 rs2 : BitVec 5) (pg : BitVec 4) (s : State) : Res :=
  .next (vinstr s c (accWord 0x09 long rd rs1 rs2 pg) long (accOk c rd && rs2.toNat < 4 && pg == 0) none false .plain fun s x =>
    let len := clsBits x c long
    .ok (putA s c rd.toNat (mapEls (aRead x rd.toNat).toNat len 4 (fun q => q == rs2.toNat) fun _ =>
      elem (vRead x rs1.toNat).toNat len 0) false))

end Sys2Proof.Machine
end

