-- ==== Sys2Proof/Machine/HostMem.lean ====
section
/-!
DEFINITION. Corward commands on memory (14_host_protocol R318; 12_memory R263 to R265, R281).
-/
namespace Sys2Proof.Machine

/-- The mask of a 48-bit address. -/
def addrMask : Nat := 2 ^ 48 - 1

/-- TARGET_ERR with the bytes completed and the fabric STATUS (R318). -/
def targetErr (s : State) (k st : Nat) : Reply × State := (.now 0x0A [BitVec.ofNat 64 k, BitVec.ofNat 64 st], s)

/-- R318: MEM_WRITE. -/
def execMemWrite (h : Fin 4) (s : State) : Res :=
  .next (runCmd s h 0x0300 fun s c => checked s c [(0, addrMask)] fun _ =>
    let bs := bytesOfWords (c.args.drop 1)
    if !ownsRange s h (arg c 0) bs.length then refuse s 0x05 0
    else match memWrite s (some h) (arg c 0) bs with
      | (0, _, s) => okReply s
      | (st, k, s) => targetErr s k st)

/-- R318: MEM_READ. -/
def execMemRead (h : Fin 4) (s : State) : Res :=
  .next (runCmd s h 0x0301 fun s c => checked s c [(0, addrMask)] fun _ =>
    let n := arg c 1
    if n = 0 ∨ 524288 < n then refuse s 0x04 1
    else if !ownsRange s h (arg c 0) n then refuse s 0x05 0
    else match memRead s (some h) (arg c 0) n with
      | (0, bs, s) => (.now 0 (wordsOfBytes bs), s)
      | (st, bs, s) => targetErr s bs.length st)

/-- Fills pages until one fails: STATUS, the bytes filled, the state (R249: FILL mode). -/
def fillPages (s : State) (h pat a : Nat) : Nat → Nat × Nat × State
  | 0 => (0, 0, s)
  | n + 1 =>
    match writePiece s (some h) a (fillBytes pat a 2048) with
    | (0, s') =>
      match fillPages s' h pat (a + 2048) n with
      | (st, k, s'') => (st, 2048 + k, s'')
    | (st, s') => (st, 0, s')

/-- R318: MEM_FILL, on the system DMA engines in FILL mode. -/
def execMemFill (h : Fin 4) (s : State) : Res :=
  .next (runCmd s h 0x0302 fun s c => checked s c [(0, addrMask)] fun _ =>
    let a := arg c 0
    let n := arg c 1
    if a % 2048 ≠ 0 then refuse s 0x04 0
    else if n % 2048 ≠ 0 then refuse s 0x04 1
    else if !ownsRange s h a n then refuse s 0x05 0
    else match fillPages s h (arg c 2) a (n / 2048) with
      | (0, k, s) => (.now 0 (one k), s)
      | (st, k, s) => targetErr s k st)

/-- The owner of a region that is in use (R263): that of its first MiB. -/
def rgnOwner (s : State) (r : Rgn) : Option Nat := ownerBy fun p => ownsMem s p (r.base * 0x100000)

/-- R263, R264, R318: MEM_REGION. [log 69: DESIGN CHOICE] -/
def execMemRegion (h : Fin 4) (s : State) : Res :=
  .next (runCmd s h 0x0303 fun s c => checked s c [(0, 2 ^ 9 - 1), (1, 2 ^ 17 - 1), (2, 2 ^ 17 - 1)] fun _ =>
    let w := arg c 0
    let t := fld w 4 3
    let i := fld w 0 3
    let b := arg c 1
    let l := arg c 2
    let r := getRgn s i
    if bit w 3 then
      if s.mc.manager != some h.val then (.now 0x0F [], s)
      else if t = 7 then refuse s 0x04 0
      else okReply { s with mem := { s.mem with rgnDefT := t } }
    else if (getPart s h).st = .none then (.now 0x06 [], s)
    else if t = 7 then refuse s 0x04 0
    else if bit w 7 && l < b then refuse s 0x04 2
    else if r.valid && (match rgnOwner s r with
        | some p => p != h.val
        | none => false) then refuse s 0x05 0
    else if bit w 7 && !((upFrom b (l + 1 - b)).all fun m => ownsMem s h (m * 0x100000)) then refuse s 0x05 1
    else if r.valid && r.t != t && !bit w 8 then refuse s 0x04 0
    else okReply { s with mem := { s.mem with rgn := tset s.mem.rgn i { base := b, limit := l, valid := bit w 7, t := t } } })

/-- R281, R318: MEM_INJECT arms the injection of the page's channel and writes the page whole. -/
def execMemInject (h : Fin 4) (s : State) : Res :=
  .next (runCmd s h 0x0304 fun s c => checked s c [(0, addrMask), (1, 0xF7FFF)] fun _ =>
    let a := arg c 0
    match targetOf a with
    | .lpddr ch _ =>
      if a % 2048 ≠ 0 then refuse s 0x04 0
      else if 16895 < fld (arg c 1) 0 15 then refuse s 0x04 1
      else if !ownsMem s h a then refuse s 0x05 0
      else
        let s := updCh s ch fun x => { x with injPos := fld (arg c 1) 0 15, injCnt := fld (arg c 1) 16 4, injArm := true }
        match writePiece s (some h) a (bytesOfWords (c.args.drop 2)) with
        | (0, s) => okReply s
        | (st, s) => targetErr (updCh s ch fun x => { x with injArm := false }) 0 st
    | _ => refuse s 0x04 0)

/-- The command's own rule for partial completion (R317): of a MEM_WRITE or MEM_FILL that may run, a free number of its bytes or pages has been
written (R318); the other commands have had no effect. [log 12: DESIGN CHOICE] -/
def partDone (s : State) (h : Nat) (c : HostCmd) : State :=
  let a := arg c 0
  let bs := bytesOfWords (c.args.drop 1)
  let n := arg c 1
  if c.opc = 0x0300 ∧ a ≤ addrMask ∧ ownsRange s h a bs.length = true then
    let (k, s) := takeFree s 20
    (memWrite s (some h) a (bs.take k)).2.2
  else if c.opc = 0x0302 ∧ a ≤ addrMask ∧ a % 2048 = 0 ∧ n % 2048 = 0 ∧ ownsRange s h a n = true then
    let (k, s) := takeFree s 48
    (fillPages s h (arg c 2) a (min k (n / 2048))).2.2
  else s

/-- R317: the MC cannot finish a begun command within its bound: TIMEOUT after what it has done, and the event is logged. The spec names no code for it: a
free value. [log 12: DESIGN CHOICE; log 14: DESIGN CHOICE; log 70: DESIGN CHOICE] -/
def execCmdTimeout (h : Fin 4) (s : State) : Res :=
  match (getHost s h).begun with
  | none => .next s
  | some c =>
    if upNs s ≤ c.took + cmdBound c then .next s
    else
      let s := partDone s h c
      let s := { s with doms := s.doms.map fun e => (e.1, forgetHost h e.2) }
      let (v, s) := takeFree s 16
      let s := logRec (alertMc s (.cmdTimeout h c.opc)) v 0 false h c.opc c.seq []
      .next (finish s h c 0x0E [])

end Sys2Proof.Machine
end

