-- ==== Sys2Proof/Machine/Links.lean ====
section
/-!
DEFINITION. The rows of the die links (10_spline_fabric R238 to R242). A direction is `2 * bundle + dir`.
-/
namespace Sys2Proof.Machine

/-! ### The link word and the lanes (R239) -/

/-- The link word that goes with a unit: LCRC over the unit's 64 bytes and bytes 2 and 3 of the word, LSEQ, ACK, NAK, CTL and VLD. -/
def linkWord (u : LinkUnit) : Nat :=
  let hi := u.lseq.toNat + u.ack.toNat * 2 ^ 6 + b2n u.nak * 2 ^ 12 + b2n u.ctl * 2 ^ 13 + b2n u.vld * 2 ^ 14
  crc16 (leBytes u.bits.toNat 64 ++ leBytes hi 2) + hi * 2 ^ 16

/-- The 544 bits of a unit as sent: the link word above the unit. -/
def sentBits (u : LinkUnit) : Nat := u.bits.toNat + linkWord u * 2 ^ 512

/-- Does LCRC hold in 544 received bits? -/
def lcrcOk (w : Nat) : Bool := fld w 512 16 == crc16 (leBytes (fld w 0 512) 64 ++ leBytes (fld w 528 16) 2)

/-- The lane that carries bit `i` of the 544: in normal mode lane i mod 16, and the spare lane for the link word; in in-band mode the working
lane of role i mod 16, the lanes from the repaired one on having taken the roles below them (R239, R241). -/
def bitLane (inBand : Bool) (bad i : Nat) : Nat :=
  if inBand then (if bad ≤ i % 16 then i % 16 + 1 else i % 16) else if i < 512 then i % 16 else 16

/-- The UI in which bit `i` of the 544 is carried (R239). -/
def bitUi (inBand : Bool) (i : Nat) : Nat := if i < 512 then i / 16 else if inBand then 32 + (i - 512) / 16 else i - 512

/-- The lane that a differing bit counts against: the one that carried it, and lane 16 for the link word in either mode (R241). -/
def errLane (inBand : Bool) (bad i : Nat) : Nat := if 512 ≤ i then 16 else bitLane inBand bad i

/-- The bits in which a failed copy differs from the good one, by lane (R241). -/
def laneDiff (inBand : Bool) (bad a b : Nat) : List (Nat × Nat) :=
  (upFrom 0 17).filterMap fun l =>
    let n := ((upFrom 0 544).filter fun i => errLane inBand bad i == l && bit a i != bit b i).length
    if n = 0 then none else some (l, n)

/-! ### Lane errors (R241) -/

/-- Adds a lane's errors to its counter and to those of the latest millisecond (R241). -/
def laneError (s : State) (d : Nat) (lane n : Nat) : State :=
  let s := bumpBy s .nocLnkLaneErr (17 * d + lane) n
  let l := getLink s d
  setLink s d { l with laneErrs := (l.laneErrs.filter fun e => upNs s < e.1 + 1000000) ++ [(upNs s, lane, n)] }

/-- Lane errors of the latest millisecond. -/
def laneSum (l : Link) (now lane : Nat) : Nat := sumNat ((l.laneErrs.filter fun e => e.2.1 == lane && now < e.1 + 1000000).map fun e => e.2.2)

/-- The receiving die of a direction. -/
def rxDie (d : Nat) : Nat := if d / 2 < 32 then (if d % 2 = 0 then 2 else d / 2 / 16) else 1 - d % 2

/-- The other direction of a bundle. -/
def revDir (d : Nat) : Nat := if d % 2 = 0 then d + 1 else d - 1

/-- Acts on a lane that has reached NOC_LNK_THR (R241, R242): repair in normal mode, the bundle down in in-band mode. -/
def checkLanes (s : State) (d : Nat) (crossed : List Nat) : State :=
  let l := getLink s d
  let thr := (getNocDie s (rxDie d)).lnkThr
  match (upFrom 0 17).find? fun i => thr ≤ laneSum l (upNs s) i && some i != (if l.state = 3 then some l.bad else none) with
  | none => s
  | some i =>
    if l.state = 3 then bundleDown s (d / 2) crossed
    else if l.repairing.isNone then setLink s d { l with repairing := some i }
    else s

/-! ### The sender (R240) -/

/-- Is the unit one that the sender of a direction can have sent now: an idle unit; the resent unit of its replay buffer; or a new one, SWITCH
where that goes next, with at most 48 unacknowledged? [log 94: DEDUCED] -/
def canSend (l : Link) (u : LinkUnit) : Bool :=
  !u.vld || (u.lseq.toNat == l.txNext && (match l.replay.find? fun e => e.1 == u.lseq.toNat with
    | some e => e.2 == (u.bits.toNat, u.ctl)
    | none => l.replay.length < 48 && (l.txSwitch == some u.lseq.toNat) == u.ctl))

/-- Are ACK and NAK of a unit those that its station forms: the latest LSEQ that it has received in order, `r` being the direction that it receives, and
NAK only while a unit of that direction is to be resent (R239, R240)? [log 94: DEDUCED] -/
def ackFormed (r : Link) (u : LinkUnit) : Bool := u.ack.toNat == (r.rxNext + 63) % 64 && (!u.nak || r.rxNak)

/-- The sender sends a unit: a new one enters its replay buffer, which the 48 units in flight leave room in. [log 94: DEDUCED] -/
def noteSent (l : Link) (u : LinkUnit) : Link :=
  if !u.vld then l
  else { l with
    txNext := (l.txNext + 1) % 64
    replay := if l.replay.any fun e => e.1 == u.lseq.toNat then l.replay else l.replay ++ [(u.lseq.toNat, u.bits.toNat, u.ctl)] }

/-- Takes an acknowledgement that came in direction `d`, of the units sent in the other direction: they leave its replay buffer. -/
def linkAck (s : State) (d ack : Nat) : State :=
  let r := revDir d
  let l := getLink s r
  let n := (ack + 64 - l.txAck) % 64
  if n < 48 then
    setLink s r { l with txAck := (ack + 1) % 64, replay := l.replay.filter fun e => n < (e.1 + 64 - l.txAck) % 64 }
  else s

/-- A NAK for the units of direction `r`: its sender resends from ACK + 1 (R240). -/
def linkNak (s : State) (r ack : Nat) : State :=
  let s := linkAck s (revDir r) ack
  setLink s r { getLink s r with txNext := (ack + 1) % 64 }

/-- The acknowledgement, and the NAK if there is one, that a good unit of direction `d` brings. -/
def takeAck (s : State) (d : Nat) (u : LinkUnit) : State :=
  if u.nak then linkNak s (revDir d) u.ack.toNat else linkAck s d u.ack.toNat

/-! ### The receiver (R240, R241) -/

/-- A unit that fails LCRC is discarded and counted, its copy kept, and NAKed; sixteen consecutive failures of the awaited LSEQ take the bundle
down. An arrival of the awaited unit after a failure is a retry. [log 94: DEDUCED] -/
def linkFail (s : State) (d : Nat) (u : LinkUnit) (copy : Nat) (crossed : List Nat) : State :=
  let l := getLink s d
  let due := u.vld && u.lseq.toNat == l.rxNext
  let s := bump s .nocLnkCrcErr d
  let s := if due && l.rxNak then bump s .nocLnkRetry d else s
  let run := if due then l.failRun + 1 else l.failRun
  let s := setLink s d { l with
    rxNak := true, failRun := run, failed := if u.vld then l.failed ++ [(u.lseq.toNat, copy)] else l.failed }
  if 16 ≤ run then bundleDown s (d / 2) crossed else s

/-- The awaited unit arrives good: delivered; each failed copy of it is compared, and the differing bits are counted on their lanes (R241). -/
def linkGood (s : State) (d good : Nat) (crossed : List Nat) : State :=
  let l := getLink s d
  let s := if l.rxNak then bump s .nocLnkRetry d else s
  let diffs := (l.failed.filter fun e => e.1 == l.rxNext).flatMap fun e => laneDiff (l.state == 3) l.bad e.2 good
  let s := setLink s d { l with
    rxNext := (l.rxNext + 1) % 64, rxNak := false, failRun := 0, failed := l.failed.filter fun e => e.1 != l.rxNext }
  if diffs.isEmpty then s else checkLanes (diffs.foldl (fun s e => laneError s d e.1 e.2) s) d crossed

/-- A control unit of a direction arrives good and in order, its bits not given by the spec: it takes an LSEQ on both sides. -/
def linkControl (s : State) (d : Nat) (crossed : List Nat) : State :=
  let l := getLink s d
  let good := ((l.failed.filter fun e => e.1 == l.rxNext).getLast?.map fun e => e.2).getD 0
  let good := match l.replay.find? fun e => e.1 == l.rxNext with
    | some e => fld good 512 32 * 2 ^ 512 + e.2.1
    | none => good
  linkGood (setLink s d { l with txNext := (l.txNext + 1) % 64 }) d good crossed

/-- R240, R241: a unit that the sender can have sent arrives; it is delivered in order, discarded, or NAKed, and the errors of its failed copies are
counted on their lanes. `crossed`: should the bundle go down now, the packets whose tails have arrived. [log 94: DEDUCED] -/
def execLinkUnitRx (b : Fin 40) (dir : Fin 2) (u : LinkUnit) (crossed : List Nat) (s : State) : Res :=
  let d := 2 * b.val + dir.val
  let l := getLink s d
  if l.state < 2 ∨ !canSend l u ∨ !ackFormed (getLink s (revDir d)) u then .next s
  else
    let s := setLink s d (noteSent l u)
    let got := sentBits u ^^^ u.err.toNat
    if !lcrcOk got then .next (linkFail s d u got crossed)
    else if !u.vld then .next (takeAck s d u)
    else if u.lseq.toNat != l.rxNext then .next (setLink s d { getLink s d with rxNak := true })
    else if u.ctl then .next s
    else .next (linkGood (takeAck s d u) d got crossed)

/-- R240: a NAK for a direction reaches its sender, which resends from ACK + 1. It is one that the direction's receiver sends: a unit has failed, and ACK is
the last good LSEQ. [log 94: DEDUCED] -/
def execLinkNakRx (b : Fin 40) (dir : Fin 2) (ack : BitVec 6) (s : State) : Res :=
  let d := 2 * b.val + dir.val
  let l := getLink s d
  if l.state < 2 ∨ !l.rxNak ∨ ack.toNat ≠ (l.rxNext + 63) % 64 then .next s else .next (linkNak s d ack.toNat)

/-- Where a repair takes a bundle down, how many of the oldest packets have their tail across is not given: a free value. [log 94: DEDUCED] -/
def freeCrossed (s : State) : List Nat × State :=
  let (v, s) := takeFree s 16
  (upFrom 0 (v % (s.noc.pkts.length + 1)), s)

/-- R241: REPAIR, a control unit of the other direction, reaches the sender of a direction, whose next unit is SWITCH and whose later units use
in-band mode; a resent unit keeps the mode of its LSEQ. -/
def execLinkRepairRx (b : Fin 40) (dir : Fin 2) (lane : Fin 17) (s : State) : Res :=
  let d := 2 * b.val + dir.val
  let l := getLink s d
  let r := getLink s (revDir d)
  if l.state != 2 || l.repairing != some lane.val || l.txInBand || r.txNext != r.rxNext then .next s
  else
    let n := if l.replay.any fun e => e.1 == l.txNext then ((l.replay.getLast?.map fun e => e.1 + 1).getD l.txNext) % 64 else l.txNext
    .next (let (cr, s) := freeCrossed s
      linkControl (setLink s d { l with txInBand := true, txBad := lane.val, txSwitch := some n }) (revDir d) cr)

/-- R241: SWITCH reaches the receiver, which samples later units in in-band mode; the repair is complete and the MC logs it. -/
def execLinkSwitchRx (b : Fin 40) (dir : Fin 2) (lseq : BitVec 6) (s : State) : Res :=
  let d := 2 * b.val + dir.val
  let l := getLink s d
  match l.repairing with
  | none => .next s
  | some i =>
    if l.state != 2 || l.txSwitch != some lseq.toNat || lseq.toNat != l.rxNext || lseq.toNat != l.txNext then .next s
    else
      let (cr, s) := freeCrossed s
      let s := linkControl s d cr
      let l := getLink s d
      let s := setLink s d { l with state := 3, bad := i, rxInBand := true, repairing := none, txSwitch := none, laneErrs := [] }
      .next (linkEvt (alertMc s (.nocLinkRepaired d i)) b 1 0)

/-- R242: a bundle goes down in both directions; `clk` is the direction whose forwarded clock has stopped, where that is the cause. -/
def execLinkBundleDown (b : Fin 40) (clk : Option (Fin 2)) (crossed : List Nat) (s : State) : Res :=
  if bundleUp s b then
    let s := match clk with
      | some i => setLink s (2 * b.val + i.val) { getLink s (2 * b.val + i.val) with clk := false }
      | none => s
    .next (bundleDown s b crossed)
  else .next s

end Sys2Proof.Machine
end

