-- ==== Sys2Proof/Machine/Manage.lean ====
section
/-!
DEFINITION. Corward commands on keys, time, thermal supervision and ageing (14_host_protocol R318, R325; 13_backhaul_and_time R289 to R304;
17_thermal_and_ageing R364, R378, R379).
-/
namespace Sys2Proof.Machine

/-! ### MACsec keys (R289, R325) -/

/-- The fields of W0 in R325: port, direction (transmit), SC and AN. -/
def saPort (w : Nat) : Nat := fld w 0 2
def saTx (w : Nat) : Bool := !bit w 2
def saSc (w : Nat) : Nat := fld w 3 5
def saAn (w : Nat) : Nat := fld w 8 2

/-- Is an SA the one that W0 names? -/
def saNamed (w : Nat) (x : Sa) : Bool := x.tx == saTx w && x.sc == saSc w && x.an == saAn w

/-- R325: MS_SA_INSTALL. -/
def execMsSaInstall (h : Fin 4) (s : State) : Res :=
  .next (runCmd s h 0x0500 fun s c => checked s c [(0, 0xFFFFFFFF000003FF), (4, 0xFFFFFFFF)] fun _ =>
    let w := arg c 0
    if saTx w && 7 < saSc w then refuse s 0x04 0
    else if !ownsBp s h (saPort w) then refuse s 0x05 0
    else
      let x : Sa :=
        { tx := saTx w, sc := saSc w, sci := arg c 1, an := saAn w, ssci := fld w 32 32, pn := arg c 2
          salt := arg c 3 + arg c 4 * 2 ^ 64, key := ofLe (bytesOfWords (c.args.drop 5)) }
      okReply (updBp s (saPort w) fun b => { b with sas := (b.sas.filter fun y => !saNamed w y) ++ [x] }))

/-- R290, R318: MS_SA_ACTIVATE. An SA whose PN has reached MS_PN_THR already raises MS_PN_EVT as it becomes active. [log 65: DEDUCED] -/
def execMsSaActivate (h : Fin 4) (s : State) : Res :=
  .next (runCmd s h 0x0501 fun s c => checked s c [(0, 0x31F)] fun _ =>
    let w := arg c 0
    if !ownsBp s h (fld w 0 2) then refuse s 0x05 0
    else
      let s := updBp s (fld w 0 2) fun b => { b with active := tset b.active (fld w 2 3) (fld w 8 2) }
      okReply (match txSa (getBp s (fld w 0 2)) (fld w 2 3) with
        | some a => notePn s (fld w 0 2) (fld w 2 3) a
        | none => s))

/-- R318, R325: MS_SA_DELETE. -/
def execMsSaDelete (h : Fin 4) (s : State) : Res :=
  .next (runCmd s h 0x0502 fun s c => checked s c [(0, 0xFFFFFFFF000003FF)] fun _ =>
    let w := arg c 0
    if saTx w && 7 < saSc w then refuse s 0x04 0
    else if !ownsBp s h (saPort w) then refuse s 0x05 0
    else okReply (updBp s (saPort w) fun b => { b with sas := b.sas.filter fun y => !saNamed w y }))

/-! ### Time (R293, R294, R298, R299, R302) -/

/-- R299, R318: TC_MAP ties a fronthaul port to a backhaul port of the same owner. -/
def execTcMap (h : Fin 4) (s : State) : Res :=
  .next (runCmd s h 0x0503 fun s c => checked s c [(0, 0x8000031F)] fun _ =>
    let w := arg c 0
    if !ownsFh s h (fld w 0 5) ∨ ownsBp s h (fld w 8 2) = false then refuse s 0x05 0
    else okReply (setTm s { s.tm with tcMap := tset s.tm.tcMap (fld w 0 5) (fld w 8 2 + b2n (bit w 31) * 2 ^ 31) }))

/-- R298, R318: PTP_CFG. -/
def execPtpCfg (h : Fin 4) (s : State) : Res :=
  .next (runCmd s h 0x0504 fun s c => checked s c [(0, 2 ^ 48 - 1)] fun _ =>
    let w := arg c 0
    if fld w 0 8 < 24 ∨ 43 < fld w 0 8 then refuse s 0x04 0
    else okReply (setTm s { s.tm with
      ptpPorts := fld w 8 4, cfg := { domain := fld w 0 8, ports := fld w 8 4, interval := fld w 12 4, prios := fld w 16 32 } }))

/-- The time unit takes a step (R293): the tick grid follows it (R294), and TM_STEP tells every host. [log 21: DEDUCED] -/
def stepTime (s : State) (t : Nat) : State :=
  let old := s.now
  let e := phaseNow s + ((t : Int) - old)
  let s := setTm { s with now := t, stepped := s.stepped + ((t : Int) - old) } { rebase s e with secondsSet := true, ptpErr := none, extErr := none }
  raiseMod (placeGrid s s.tu.mu) 0x0900 old t

/-- R302, R318: TIME_SET sets the seconds, as a step. -/
def execTimeSet (h : Fin 4) (s : State) : Res :=
  .next (runCmd s h 0x0505 fun s c => checked s c [(0, 2 ^ 48 - 1)] fun _ =>
    if stepBarred s then (.now 0x07 [], s) else okReply (stepTime s (arg c 0 * 1000000000 + s.now % 1000000000)))

/-- R293, R318: TIME_STEP. [log 69: DESIGN CHOICE] -/
def execTimeStep (h : Fin 4) (s : State) : Res :=
  .next (runCmd s h 0x0506 fun s c => if stepBarred s then (.now 0x07 [], s) else okReply (stepTime s (arg c 0)))

/-- R304, R318: TIME_CFG writes the time unit's configuration registers; the offset of R294 only while no partition exists. [log 69: DESIGN CHOICE] -/
def execTimeCfg (h : Fin 4) (s : State) : Res :=
  .next (runCmd s h 0x0507 fun s c =>
    checked s c [(0, 0x7F), (1, 0x1FFF), (2, 0xFFFFFFFF), (3, 0x1FFF), (4, 2 ^ 48 - 1), (5, 0xFFFFFFFF), (6, 1)] fun _ =>
    let w := arg c 0
    if arg c 1 = 0 ∨ 5000 < arg c 1 then refuse s 0x04 1
    else if arg c 3 < 10 ∨ 5000 < arg c 3 then refuse s 0x04 3
    else if bit (arg c 6) 0 && anyPart s then (.now 0x07 [], s)
    else
      let s := setTm s { rebase s (phaseNow s) with
        ptpPorts := fld w 0 4, extEn := bit w 4, prefExt := bit w 5, ppsFreerun := bit w 6, slewMax := arg c 1
        ppsIn := fld (arg c 2) 0 16, ppsOut := fld (arg c 2) 16 16, oscThr := arg c 3 }
      okReply (if bit (arg c 6) 0 then placeGrid (setTm s { s.tm with ofsS := arg c 4, ofsNs := arg c 5 }) s.tu.mu else s))

/-! ### Thermal supervision and ageing (R364, R378, R379) -/

/-- The configuration that THERM_CFG carries (R378). -/
def thCfgOf (c : HostCmd) : ThCfg :=
  let a := arg c 0
  let b := arg c 1
  { warn := fld a 0 8, throttle := fld a 8 8, shut := fld a 16 8, warnHyst := fld a 24 4, thrHyst := fld a 28 4, shutHyst := fld a 32 4
    step := fld b 0 6, min_ := fld b 6 7, hold := fld b 16 16, mode := arg c 2 }

/-- The first word with a field outside its range (R364, R378). -/
def thCfgBad (x : ThCfg) : Option Nat :=
  if x.warn < 80 ∨ 115 < x.warn ∨ x.throttle < 90 ∨ 120 < x.throttle ∨ x.shut < 105 ∨ 125 < x.shut ∨ x.warnHyst = 0 ∨ x.thrHyst = 0 ∨
      x.shutHyst = 0 ∨ x.throttle ≤ x.warn ∨ x.shut ≤ x.throttle then some 0
  else if x.step = 0 ∨ 32 < x.step ∨ x.min_ < 8 ∨ 64 < x.min_ ∨ x.hold < 100 ∨ 10000 < x.hold then some 1
  else none

/-- R378: THERM_CFG takes effect at the next tick start. -/
def execThermCfg (h : Fin 4) (s : State) : Res :=
  .next (runCmd s h 0x0600 fun s c => checked s c [(0, 2 ^ 36 - 1), (1, 0xFFFF1FFF), (2, 0xFFFF)] fun _ =>
    match thCfgBad (thCfgOf c) with
    | some i => refuse s 0x04 i
    | none => okReply { s with th := { s.th with pend := some (thCfgOf c) } })

/-- The remaining life of a domain (R376, R379). -/
def domLife (s : State) (d : Nat) : Nat := lifeOf s.age.hours (topNeed (getDom s d) d)

/-- The word of AGE_STATUS for a domain. -/
def ageWord (s : State) (d : Nat) : Nat :=
  let x := getDom s d
  lget x.ofs 0 0 % 32 + lget x.ofs 0 1 % 32 * 2 ^ 8 + lget x.ofs 0 2 % 32 * 2 ^ 16 + lget x.ofs 0 3 % 32 * 2 ^ 24 + x.exh % 16 * 2 ^ 32 +
    domLife s d * 2 ^ 48

/-- R379: AGE_STATUS. All 128 monitors in service are more than the field of 7 bits can hold: a free value then. [log 80: DEDUCED] -/
def execAgeStatus (h : Fin 4) (s : State) : Res :=
  .next (runCmd s h 0x0601 fun s _ =>
    let (r, d, l) := lowestReserve s
    let w0 := s.age.hours % 2 ^ 32 + min 65535 s.age.replans * 2 ^ 32 + r % 32 * 2 ^ 48 + d % 32 * 2 ^ 56 + l % 4 * 2 ^ 62
    let life := ((upFrom 0 24).map fun d => domLife s d).foldl min 0xFFFF
    let mons := ((upFrom 0 128).filter fun m => !(getMon s m).oos).length
    let (v, s) := if mons = 128 then takeFree s 7 else (mons, s)
    let w1 := life + ofInt s.age.avg 16 * 2 ^ 16 + v * 2 ^ 32
    (.now 0 (BitVec.ofNat 64 w0 :: BitVec.ofNat 64 w1 :: (upFrom 0 24).map fun d => BitVec.ofNat 64 (ageWord s d)), s))

end Sys2Proof.Machine
end

