-- ==== Sys2Proof/Machine/MemCtl.lean ====
section
/-!
DEFINITION. The memory controllers' own events: ageing of dirty pages, refresh, parity alerts, scrubbing and retirement
(12_memory R266 to R281), and the reinitialisation of a faulted channel (R398).
-/
namespace Sys2Proof.Machine

/-- Is a channel active: brought up, and neither in self-refresh nor in FAULT? A replay holds its requests back, and ends by itself. -/
def chActive (s : State) (ch : Nat) : Bool := (getCh s ch).state == 1

/-- R266: a dirty page that reaches MEM_CTL.AGE is encoded and written to its frame; it stays staged, clean. -/
def execMemDirtyAgeExpire (ch : Fin 16) (page : BitVec 22) (s : State) : Res :=
  let x := getCh s ch
  if chActive s ch && x.staged.any (fun e => e.page == page.toNat && e.dirty && e.since + x.age ≤ upNs s) then
    let s := encodePage s ch page.toNat
    .next (updCh s ch fun x => { x with staged := x.staged.map fun e => if e.page == page.toNat then { e with dirty := false } else e })
  else .next s

/-- R269, R270: a refresh that falls due is issued (`how` 0), postponed (1; at most eight, and none under panic), or issued together
with one that was owed (2; under panic the debt is kept). -/
def execMemRefresh (ch : Fin 16) (how : Fin 3) (s : State) : Res :=
  if chActive s ch then
    .next (updCh s ch fun x => { x with debt :=
      if how = 1 then (if x.debt < 8 && !panicOn s then x.debt + 1 else x.debt)
      else if how = 2 then (if panicOn s then x.debt else x.debt - 1)
      else x.debt })
  else .next s

/-- R271: a neighbour refresh drawn at an ACTIVATE is issued and counted while RDP_EN = 1. -/
def execMemRdpRefresh (ch : Fin 16) (s : State) : Res :=
  if chActive s ch && (getCh s ch).rdpEn then .next (bump s .memRdp ch) else .next s

/-- Raises FLT_CHANNEL to every partition with memory on the channel's die (R389, R398). -/
def fltChannel (s : State) (ch cause st : Nat) : State :=
  raiseHolders s (fun p => holdsLpddr s p (ch / 8)) 0x0B04 (ch + cause * 256) st

/-- A channel enters FAULT (R272, R398): a second FAULT within 24 service hours keeps it there until the next start-up. -/
def faultChannel (s : State) (ch : Nat) : State :=
  let s := updCh s ch fun x => { x with state := 4, alertRun := 0 }
  let recent := (tget s.flt.chFaults [] ch).filter fun h => s.age.hours < h + 24
  let s := { s with flt := { s.flt with chFaults := tset s.flt.chFaults ch (recent ++ [s.age.hours]) } }
  if recent.isEmpty then fltChannel s ch 1 0
  else fltChannel (noteDeg { s with flt := { s.flt with chOut := setBit s.flt.chOut ch true } }) ch 1 2

/-- R272: a parity alert. The `cmds` commands of the 32-entry retry buffer are reissued, which takes a free time of at most 400 ns; `again` says that
the same command caused the previous alert too. [log 95: DEDUCED] -/
def execMemCaAlert (ch : Fin 16) (cmds : Fin 33) (again : Bool) (s : State) : Res :=
  if chActive s ch then
    let run := if again then (getCh s ch).alertRun + 1 else 1
    let s := bump s .memCaAlert ch
    if run ≥ 3 then .next (faultChannel s ch)
    else
      let s := bumpBy s .memCaReplay ch cmds
      let (v, s) := takeFree s 9
      .next (updCh s ch fun x => { x with alertRun := run, replayEnd := upNs s + min v 400 })
  else .next s

/-- May a scrubber read again: at most one read in GAP ns (R276)? -/
def gapOver (s : State) (last : Option Nat) (gap : Nat) : Bool :=
  match last with
  | some t => t + gap ≤ upNs s
  | none => true

/-- The scrubber's next page: at the end of a lap its duration in ms is stored, the lap number incremented and old tracker entries freed
(R276, R277). -/
def scrubNext (s : State) (ch : Nat) : State :=
  updCh s ch fun x =>
    if x.scrubPos + 1 < 4063104 then { x with scrubPos := x.scrubPos + 1, scrubAt := some (upNs s) }
    else { x with
      scrubPos := 0, scrubAt := some (upNs s), lapNo := (x.lapNo + 1) % 65536, lapLast := (upNs s - x.lapStart) / 1000000 % 2 ^ 32
      lapStart := upNs s, slowRaised := false, trk := trkAge x.trk (x.lapNo + 1) }

/-- R276, R277: the page scrubber reads the page at its position; `upset` names frame bits that have failed since the frame was written.
An unwritten page and a page staged dirty, whose write-back encodes its frame anew, are skipped; a corrected page is written back and noted; an uncorrectable one is reported. -/
def execMemScrubRead (ch : Fin 16) (upset : List Nat) (s : State) : Res :=
  let x := getCh s ch
  if chActive s ch && chState s ch != 3 && x.scrubEn && !panicOn s && gapOver s x.scrubAt x.gap then
    let page := x.scrubPos
    let s :=
      if x.staged.any (fun e => e.page == page && e.dirty) then s
      else
        let s := upsetPage s ch page upset (x.staged.any fun e => e.page == page)
        let (v, s) := takeFree s 1
        match readFrame (getPage s ch page) (tCodeAt s (pageAddr ch page)) (v == 1) with
        | .clean => s
        | .unwritten => s
        | .corrected => notePage (encodePage (bump s .memCorr ch) ch page) ch page
        | .uncorrectable tag => pageUnc s ch page tag
    .next (scrubNext s ch)
  else .next s

/-- R279: the MC copies the remap table to module flash. -/
def execMemRemapSave (ch : Fin 16) (s : State) : Res :=
  let x := getCh s ch
  if x.remapUnsaved then .next (setCh s ch { x with remapFlash := x.remap, badFlash := x.spareBad, remapUnsaved := false }) else .next s

/-- The cache line in the `n`-th place of a Bench core's level-2 cache, if there is one. [log 59: DEDUCED] -/
def benchLine (s : State) (c n : Nat) : Option (Nat × CLine) := s.benchCache.find? fun e => e.2.core == c && e.2.slot == n

/-- A double error in a Bench cache (R275): a clean line is discarded, to be fetched again, and counted only in SR_CORR. The words of level 1, and those
of a place that holds no line, are clean. -/
def cacheUnc (s : State) (w by_ : Nat) : State :=
  let i := srOfWord w
  let k := srIndex w - 9437184
  if 24 ≤ i ∧ i < 26 ∧ 9437184 ≤ srIndex w then
    let e := if k % 147456 < 16384 then none else benchLine s (96 + 8 * (i - 24) + k / 147456) ((k % 147456 - 16384) / 8)
    if e.any fun e => e.2.dirty then wordUnc s w by_
    else
      let l := s.benchCache.filter fun x => e.all fun e => e.1 != x.1
      bump { s with benchCache := l, mem := { s.mem with sramErr := tdel s.mem.sramErr w } } .srCorr i
  else wordUnc s w by_

/-- An SRAM scrubber's next word, with the end of its lap (R276, R277). -/
def srNext (s : State) (i : Nat) : State :=
  let x := getSr s i
  setSr s i (
    if x.scrubPos + 1 < srTotal i then { x with scrubPos := x.scrubPos + 1, scrubAt := some (upNs s) }
    else { x with
      scrubPos := 0, scrubAt := some (upNs s), lapNo := (x.lapNo + 1) % 65536, lapLast := (upNs s - x.lapStart) / 1000000 % 2 ^ 32
      lapStart := upNs s, slowRaised := false, trk := trkAge x.trk (x.lapNo + 1) })

/-- The power domain that holds an SRAM word; k registers lie in their cluster, flow stores, caches and the IOD's tables in no domain. -/
def wordDom (w : Nat) : Option Nat :=
  if w < 2 ^ 45 then targetDom (targetOf (8 * w)) else if srOfWord w < 24 then some (clusterDom (srOfWord w)) else none

/-- R276: an SRAM scrubber reads the word at its position, in which `bits` further bits have failed. A corrected word is written back, counted and
noted, an uncorrectable one reported; a hard fault repairs the row (R278). A word in a domain that is not awake is passed over, and a die
store is not read under panic (R270). [log 59: DEDUCED] -/
def execSrScrubRead (i : Fin 27) (bits : Fin 3) (s : State) : Res :=
  let x := getSr s i
  let w := srWordAt i x.scrubPos
  let store := 24 ≤ i.val && i.val < 26 && w < 2 ^ 45
  if (store && panicOn s) || !gapOver s x.scrubAt x.gap then .next s
  else if gateStatus s (wordDom w) ≠ 0 then .next (srNext s i)
  else
    let n := min 2 (wordErr s w + bits)
    let s := if n = 0 then s else { s with mem := { s.mem with sramErr := tset s.mem.sramErr w n } }
    .next (srNext (if n = 1 then correctWord s w else if n = 2 then cacheUnc s w i else s) i)

/-- R276: a lap is still incomplete LAPMAX minutes after it began, which the scrubber reports to the MC once a lap; 0 means no alarm. -/
def execMemScrubSlow (src : Scrubber) (s : State) : Res :=
  match src with
  | .page ch =>
    let x := getCh s ch
    if x.lapMax != 0 && !x.slowRaised && x.lapStart + 60000000000 * x.lapMax ≤ upNs s then .next (alertMc (setCh s ch { x with slowRaised := true }) (.memScrubSlow ch)) else .next s
  | .sram i =>
    let x := getSr s i
    if x.lapMax != 0 && !x.slowRaised && x.lapStart + 60000000000 * x.lapMax ≤ upNs s then .next (alertMc (setSr s i { x with slowRaised := true }) (.memScrubSlow (16 + i))) else .next s

/-- Forgets every page of a channel: the devices have lost their contents (R398). [log 90: DEDUCED] -/
def losePages (s : State) (ch : Nat) : State :=
  let s := { s with mem := { s.mem with pages := s.mem.pages.filter fun e => e.1 / 2 ^ 22 != ch } }
  updCh s ch fun x => { x with staged := [] }

/-- R398: the reinitialisation of a channel in FAULT ends (R338, steps 1 to 5); it recovers with every page unwritten, the remap table of the flash, an empty
repeat tracker and its scrubber enabled, or stays in FAULT, out of service. -/
def execMemChReinitDone (ch : Fin 16) (ok : Bool) (s : State) : Res :=
  let x := getCh s ch
  if x.state = 4 ∧ bit s.flt.chOut ch = false then
    let s := losePages s ch
    let s := updCh s ch fun x => { x with remap := x.remapFlash, spareBad := x.badFlash, remapUnsaved := false }
    if ok then .next (fltChannel (updCh s ch fun x => { x with state := 1, trk := [], scrubPos := 0, scrubEn := true, lapStart := upNs s }) ch 1 1)
    else .next (fltChannel (noteDeg { s with flt := { s.flt with chOut := setBit s.flt.chOut ch true } }) ch 1 2)
  else .next s

end Sys2Proof.Machine
end

