-- ==== Sys2Proof/Machine/Module.lean ====
section
/-!
DEFINITION. The module's own contacts: the contacts of CN-HOST and the fibres of CN-OPT, the output signals, I2C, the console and JTAG
(19_module_electrical R416, R418 to R422, R424).
-/
namespace Sys2Proof.Machine

/-! ### Connectors (R35, R416, R424) -/

/-- What a contact of CN-HOST carries. -/
inductive Contact where
  | gnd
  | reserved
  | tx (port lane : Nat) (neg : Bool)
  | rx (port lane : Nat) (neg : Bool)
  | refclk (port : Nat) (neg : Bool)
  | perstN (port : Nat)
  | alertN (port : Nat)
  | resetN
  | ready
  | faultN
  | tripN
  | i2cScl
  | i2cSda
  | uartTxd
  | uartRxd
  | jtagTck
  | jtagTms
  | jtagTdi
  | jtagTdo
  | jtagTrstN
deriving DecidableEq, Repr

/-- The contact in row `row` (A to F are 0 to 5) and column `col`, 1 to 40 (R416). -/
def contact (row : Fin 6) (col : Nat) : Contact :=
  let n := (col - 1) / 8
  let k := (col - 1) % 8
  match row.val with
  | 0 => if col ≤ 32 then .tx n (k / 2) (k % 2 == 1) else .gnd
  | 2 => if col ≤ 32 then .rx n (k / 2) (k % 2 == 1) else .gnd
  | 4 =>
    if col ≤ 32 then lget [.refclk n false, .refclk n true, .gnd, .perstN n, .alertN n] .gnd k
    else lget [.resetN, .ready, .faultN, .tripN, .i2cScl, .i2cSda, .uartTxd, .uartRxd] .gnd k
  | 5 => if col ≤ 32 then .gnd else lget [.jtagTck, .jtagTms, .jtagTdi, .jtagTdo, .jtagTrstN] .reserved k
  | _ => .gnd

/-- The connector CN-OPTk of a lane and its position there (R35). -/
def lanePos (n : Nat) : Nat × Nat :=
  if n < 64 then (n / 2 / 4, 2 * (n / 2 % 4) + n % 2) else (8 + (n - 64) / 8, (n - 64) % 8)

/-- The fibres on which a lane sends and receives (R424). -/
def txFibre (n : Nat) : Nat := (lanePos n).2 + 1
def rxFibre (n : Nat) : Nat := 16 - (lanePos n).2

/-! ### Output signals (R310, R384, R418, R419) -/

/-- What contact `i` of the boundary-scan register carries: its own value, or under EXTEST the bit shifted in for it (R422). [log 98: PRESUMED] -/
def pinOut (s : State) (i : Nat) (own : Bool) : Bool := if s.pins.extest then bit s.pins.scan (Config.scanCell i) else own

/-- MOD_READY: high only in the READY state; without input power it reads low through its pull-down. -/
def readyPin (s : State) : Bool := pinOut s 0 s.su.ready && s.su.vin

/-- The open-drain outputs read high without input power. -/
def faultPin (s : State) : Bool := pinOut s 1 s.flt.faultN || !s.su.vin
def tripPin (s : State) : Bool := pinOut s 2 (!s.th.trip) || !s.su.vin
def alertPin (s : State) (h : Nat) : Bool := pinOut s (8 + h) (!alertLow (getHost s h)) || !s.su.vin

/-! ### The console (R421) -/

/-- The ASCII code of an upper-case hexadecimal digit. -/
def hexChar (d : Nat) : Byte := BitVec.ofNat 8 (if d < 10 then 48 + d else 55 + d)

/-- The last `k` hexadecimal digits of a number, highest first. -/
def hexText (n k : Nat) : List Byte := (upFrom 0 k).map fun i => hexChar (n / 16 ^ (k - 1 - i) % 16)

/-- The characters of a console line: "PC 0x" with four digits, or a fault's INDEX, CODE and SEV, which R421 gives no text around: eight, four and one
digits after "0x", parted by spaces; then CR and LF. [log 86: DEDUCED] -/
def uartText (l : UartLine) : List Byte :=
  (match l with
  | .progress c => [0x50, 0x43, 0x20, 0x30, 0x78] ++ hexText c 4
  | .fault i c v => [0x30, 0x78] ++ hexText i 8 ++ [0x20, 0x30, 0x78] ++ hexText c 4 ++ [0x20, 0x30, 0x78] ++ hexText v 1) ++ [0x0D, 0x0A]

/-! ### I2C (R420) -/

/-- Does the I2C target answer: from stage 2 of start-up on, with input power, outside reset? -/
def i2cUp (s : State) : Bool := 2 ≤ s.su.stage && s.su.vin && !s.su.hold

/-- FLAGS. -/
def i2cFlags (s : State) : Nat :=
  b2n s.su.ready + 2 * b2n (!s.flt.faultN) + 4 * b2n s.th.trip + 8 * b2n s.th.armed + 16 * b2n s.su.slot

/-- The byte map of R420 as it stands. -/
def i2cMap (s : State) : List Byte :=
  [0x4F, 0x47, 0x4D, 0x39, 0x36, 0x2D, 0x41] ++ List.replicate 9 0 ++ (upFrom 0 16).map Config.serial ++ leBytes (progress s.su) 2 ++
    leBytes (i2cFlags s) 1 ++ [0] ++ leBytes s.pins.vin10 2 ++ leBytes s.pins.pin100 2 ++ leBytes (ofInt (tempOf s (hotSensor s)) 16) 2 ++
    leBytes (ofInt s.pins.tbase 16) 2 ++ leBytes s.age.hours 4

/-- The multi-byte fields: offset and size. -/
def i2cFields : List (Nat × Nat) := [(0x20, 2), (0x24, 2), (0x26, 2), (0x28, 2), (0x2A, 2), (0x2C, 4)]

/-- R420: the one-byte offset write; data bytes after it are ignored. -/
def execI2cOffsetWrite (ofs : BitVec 8) (_data : List Byte) (s : State) : Res :=
  if i2cUp s then .next { s with pins := { s.pins with ofs := ofs.toNat } } else .next s

/-- R420: a read of `n` bytes from the offset last written. Input voltage, input power and base-plate temperature are as last measured. A field
whose lowest byte is read is latched with it; bytes beyond 0x3F read as zero. -/
def execI2cRead (n : Fin 257) (vin10 pin100 tbase : BitVec 16) (s : State) : Res :=
  if i2cUp s then
    let s := { s with pins := { s.pins with vin10 := vin10.toNat, pin100 := pin100.toNat, tbase := tbase.toInt } }
    let m := i2cMap s
    let o := s.pins.ofs
    let bs := (upFrom o n).map fun i => lget m 0 i
    let pins := { s.pins with read := bs }
    match (i2cFields.filter fun e => o ≤ e.1 && e.1 < o + n.val).getLast? with
    | some (a, k) => .next { s with pins := { pins with latchAt := a, latch := (m.drop a).take k } }
    | none => .next { s with pins := pins }
  else .next s

/-! ### JTAG (R422) -/

/-- The levels of the contacts that the module's state settles, with their places in the boundary-scan register. -/
def scanPins (s : State) : List (Nat × Bool) :=
  [(0, readyPin s), (1, faultPin s), (2, tripPin s), (3, !s.su.hold)] ++
    ((upFrom 0 4).map fun h => (4 + h, !(getHost s h).perst)) ++ (upFrom 0 4).map fun h => (8 + h, alertPin s h)

/-- What a capture of the contacts shifts out: the bits of all other contacts are those of the free value `v`. [log 98: PRESUMED] -/
def scanOut (s : State) (v : Nat) : Nat := (scanPins s).foldl (fun w e => setBit w (Config.scanCell e.1) e.2) v

/-- R422: boundary scan of the contacts; nothing else is reached. EXTEST drives the outputs until another instruction. [log 98: PRESUMED] -/
def execJtagScan (op : JtagOp) (s : State) : Res :=
  match op with
  | .idcode => .next { s with pins := { s.pins with tdo := 0x0960A1F3, extest := false } }
  | .sample =>
    let (v, s) := takeFree s 64
    .next { s with pins := { s.pins with tdo := scanOut s v, extest := false } }
  | .extest d =>
    let (v, s) := takeFree s 64
    .next { s with pins := { s.pins with tdo := scanOut s v, scan := d.toNat, extest := true } }
  | .bypass => .next { s with pins := { s.pins with tdo := 0, extest := false } }

end Sys2Proof.Machine
end

