-- ==== Sys2Proof/Machine/Plans.lean ====
section
/-!
DEFINITION. Corward commands on tick plans (14_host_protocol R318; 01_tick_and_windows R18 to R22).
-/
namespace Sys2Proof.Machine

/-! A start or switch whose tick has begun has taken effect for each of these commands (R22), whether or not its row has come. -/

/-- The slot that W0 names. -/
def argSlot (c : HostCmd) : Bool := bit (arg c 0) 0

/-- R20, R318: PLAN_LOAD. [log 23: DEDUCED] -/
def execPlanLoad (h : Fin 4) (s : State) : Res :=
  .next (runCmd s h 0x0200 fun s c => checked s c [(0, 1)] fun _ =>
    let s := settleSwitch s h
    let b := getTick s h
    if slotBusy b (argSlot c) then (.now 0x07 [], s)
    else match checkPlan s h (c.args.drop 1) with
      | .error (r, i) => (.now 0x09 [BitVec.ofNat 64 r, BitVec.ofNat 64 i], s)
      | .ok pl => (.now 0 (one pl.need), setTick s h (putSlot b (argSlot c) (some pl))))

/-- R318: PLAN_START. [log 23: DEDUCED] -/
def execPlanStart (h : Fin 4) (s : State) : Res :=
  .next (runCmd s h 0x0201 fun s c => checked s c [(0, 1)] fun _ =>
    let s := settleSwitch s h
    let b := getTick s h
    match b.run, b.pend, slotOf b (argSlot c) with
    | false, none, some pl =>
      let d := ticksTo s pl.len
      (.now 0 (one (tickIn s d)),
        setTick s h { b with pend := some { slot := argSlot c, start := true, atCount := s.tu.count + d, n := tickIn s d } })
    | _, _, _ => (.now 0x07 [], s))

/-- R22, R318: PLAN_SWITCH. -/
def execPlanSwitch (h : Fin 4) (s : State) : Res :=
  .next (runCmd s h 0x0202 fun s _ =>
    let s := settleSwitch s h
    match requestSwitch s h with
    | some (n, s') => (.now 0 (one n), s')
    | none => (.now 0x07 [], s))

/-- R318: PLAN_STOP. [log 23: DEDUCED] -/
def execPlanStop (h : Fin 4) (s : State) : Res :=
  .next (runCmd s h 0x0203 fun s _ =>
    let s := settleSwitch s h
    let b := getTick s h
    if b.run then (.now 0 (one (absTick s)), setTick s h { b with stopping := true, pend := none })
    else if b.pend.isSome then (.now 0 (one (2 ^ 21)), setTick s h { b with pend := none })
    else (.now 0x07 [], s))

/-- R318: PLAN_CLEAR. [log 23: DEDUCED] -/
def execPlanClear (h : Fin 4) (s : State) : Res :=
  .next (runCmd s h 0x0204 fun s c => checked s c [(0, 1)] fun _ =>
    let s := settleSwitch s h
    let b := getTick s h
    if slotBusy b (argSlot c) then (.now 0x07 [], s) else okReply (setTick s h (putSlot b (argSlot c) none)))

end Sys2Proof.Machine
end

