-- ==== Sys2Proof/Machine/Rasp.lean ====
section
/-!
DEFINITION. The Rasp coprocessor: lock, tags, scoreboard, moves, operations and late errors (07_dsp_addressing_and_rasp R177 to R183).
-/
namespace Sys2Proof.Machine

/-- The word of major 0x34 or 0x35 (R181, R182). -/
def raspWord (op sub : Nat) (rd rs1 : BitVec 5) (imm : BitVec 10) : Nat := wordX op rd.toNat rs1.toNat sub imm.toNat

/-- A k register's number in a register field: bit 4 zero (R181). -/
def kOk (f : BitVec 5) : Bool := f.toNat < 16

/-- The scoreboard bit of k register `i` (R179). -/
def scoreBit (r : Rasp) (i : Nat) : Bool := r.flight.any fun o => o.kd == some i

/-- Can the lock be taken: no holder, nobody waiting, and the previous holder's instructions finished (R177, R178)? -/
def lockFree (r : Rasp) : Bool := r.holder.isNone && r.queue.isEmpty && r.flight.isEmpty

/-- Has core `c` instructions in flight? [log 49: DEDUCED] -/
def hasFlight (r : Rasp) (c : Nat) : Bool := r.flight.any fun o => o.core == c

/-- Releases the lock of its holder after RUNLOCK: the contents of k0 to k15 become undefined (R177). [log 49: DEDUCED] -/
def unlock (s : State) (cl : Nat) : State :=
  scrambleK (setRasp s cl { getRasp s cl with holder := none, unlocking := none }) cl

/-- R177: RLOCK takes a free lock, completes at once for its holder, and otherwise waits in order of request. [log 49: DEDUCED] -/
def execRlock (c : Fin 112) (rd rs1 : BitVec 5) (imm : BitVec 10) (s : State) : Res :=
  .next (instr s c (raspWord 0x34 0x00 rd rs1 imm) (isChisel c && rd == 0 && rs1 == 0 && imm == 0) false false fun s =>
    let r := getRasp s (coreCluster c)
    if r.holder = some c.val then .ok s
    else if lockFree r then .ok (setRasp s (coreCluster c) { r with holder := some c.val })
    else .stall (setRasp s (coreCluster c) { r with queue := r.queue ++ [c.val] }))

/-- An instruction that has waited in the Rasp completes: execution goes on after it, with the loop-end test of R170. -/
def finishWaiter (s : State) (c : Nat) : State :=
  updCore s c fun y =>
    let z := { y with instret := y.instret + 1 }
    if z.exl then { z with pc := z.pc + 4 }
    else match loopEnd z.lp z.pc 4 with
      | (l, some t) => { z with lp := l, pc := t }
      | (l, none) => { z with lp := l, pc := z.pc + 4 }

/-- R177: the free lock goes to the core that has waited longest, once the previous holder's instructions have finished (R178). -/
def execRaspLockGrant (cl : Fin 24) (s : State) : Res :=
  let r := getRasp s cl
  match r.queue with
  | [] => .next s
  | c :: q =>
    if r.holder.isNone && r.flight.isEmpty then
      .next (finishWaiter (setRasp s cl { r with holder := some c, queue := q }) c)
    else .next s

/-- R177: RTRYLOCK. [log 49: DEDUCED] -/
def execRtrylock (c : Fin 112) (rd rs1 : BitVec 5) (imm : BitVec 10) (s : State) : Res :=
  .next (instr s c (raspWord 0x34 0x01 rd rs1 imm) (isChisel c && rs1 == 0 && imm == 0) false false fun s =>
    let r := getRasp s (coreCluster c)
    if r.holder = some c.val then .ok (putG' s c rd.toNat 1)
    else if lockFree r then .ok (putG' (setRasp s (coreCluster c) { r with holder := some c.val }) c rd.toNat 1)
    else .ok (putG' s c rd.toNat 0))
where
  /-- Writes g register `i`. -/
  putG' (s : State) (c i : Nat) (v : Word) : State := updCore s c fun x => gWrite x i v

/-- R177: RUNLOCK completes when every instruction the core has issued has finished, and then releases the lock. -/
def execRunlock (c : Fin 112) (rd rs1 : BitVec 5) (imm : BitVec 10) (s : State) : Res :=
  .next (instr s c (raspWord 0x34 0x02 rd rs1 imm) (isChisel c && rd == 0 && rs1 == 0 && imm == 0) false false fun s =>
    let r := getRasp s (coreCluster c)
    if r.holder != some c.val then .ok s
    else if hasFlight r c then .stall (setRasp s (coreCluster c) { r with unlocking := some c.val })
    else .ok (unlock s (coreCluster c)))

/-- The value of RSTAT (R181). [log 49: DEDUCED] -/
def rstatWord (r : Rasp) (c : Nat) : Nat :=
  ofBits ((upFrom 0 16).map (scoreBit r)) + r.lastTag * 2 ^ 16 + b2n (tget r.eovf false c) * 2 ^ 22 +
  b2n (r.holder == some c) * 2 ^ 23 + b2n r.holder.isSome * 2 ^ 24 + (r.holder.getD 0) % 4 * 2 ^ 25

/-- R181: RSTAT. -/
def execRstat (c : Fin 112) (rd rs1 : BitVec 5) (imm : BitVec 10) (s : State) : Res :=
  .next (instr s c (raspWord 0x34 0x03 rd rs1 imm) (isChisel c && rs1 == 0 && imm == 0) false false fun s =>
    .ok (updCore s c fun x => gWrite x rd.toNat (BitVec.ofNat 64 (rstatWord (getRasp s (coreCluster c)) c))))

/-- R180, R181: RERR removes and returns the oldest late-error record; emptying the queue clears EOVF. -/
def execRerr (c : Fin 112) (rd rs1 : BitVec 5) (imm : BitVec 10) (s : State) : Res :=
  .next (instr s c (raspWord 0x34 0x04 rd rs1 imm) (isChisel c && rs1 == 0 && imm == 0) false false fun s =>
    let r := getRasp s (coreCluster c)
    match tget r.errs [] c with
    | [] => .ok (updCore s c fun x => gWrite x rd.toNat 0)
    | e :: es =>
      let s := setRasp s (coreCluster c) { r with
        errs := tset r.errs c es, eovf := if es.isEmpty then tset r.eovf c false else r.eovf }
      .ok (updCore s c fun x => gWrite x rd.toNat (BitVec.ofNat 64 (e.tag + e.code * 256 + 32768))))

/-- The issue of a tagged instruction (R177, R179): RASP_NOLOCK without the lock; it stalls with 16 in flight or while `busy`;
else it receives the next tag and goes in flight. -/
def raspIssue (s : State) (c word : Nat) (busy : Rasp → Bool) (op : Rasp → RaspOp) : IRes :=
  let r := getRasp s (coreCluster c)
  if r.holder != some c then .trap s 0x12 0 (BitVec.ofNat 64 word)
  else if 16 ≤ r.flight.length || busy r then .stall s
  else .ok (setRasp s (coreCluster c) { r with
    nextTag := (r.nextTag + 1) % 64, lastTag := r.nextTag, flight := r.flight ++ [op r] })

/-- An instruction in flight. -/
def mkOp (r : Rasp) (c op : Nat) (kd : Option Nat) (cw : Word) (k1 k2 : Nat) (val : BitVec 2048) : RaspOp :=
  { core := c, tag := r.nextTag, kd := kd, op := op, cw := cw, k1 := k1, k2 := k2, val := val, discard := false }

/-- The slice length of a class in bits (R181). -/
def sliceBits (s : State) (c : Nat) (long : Bool) : Nat := if long then 8 * vlenB (getCore s c) c else 128

/-- R181: RMOVVKS, RMOVVKL. -/
def execRmovvk (c : Fin 112) (long : Bool) (rd rs1 : BitVec 5) (imm : BitVec 10) (s : State) : Res :=
  let w := raspWord 0x34 (0x08 + b2n long) rd rs1 imm
  let n := sliceBits s c long
  .next (instr s c w (isChisel c && kOk rd && imm.toNat < 2048 / n) false false fun s =>
    raspIssue s c w (fun r => scoreBit r rd.toNat) fun r =>
      mkOp r c 8 (some rd.toNat) 0 (n * imm.toNat) n (vRead (getCore s c) rs1.toNat))

/-- R181: RMOVKVS, RMOVKVL: the slice of a k register whose scoreboard bit is clear. -/
def execRmovkv (c : Fin 112) (long : Bool) (rd rs1 : BitVec 5) (imm : BitVec 10) (s : State) : Res :=
  let w := raspWord 0x34 (0x0A + b2n long) rd rs1 imm
  let n := sliceBits s c long
  .next (instr s c w (isChisel c && kOk rs1 && imm.toNat < 2048 / n) false false fun s =>
    let v := fld (tget (getRasp s (coreCluster c)).k 0 rs1.toNat).toNat (n * imm.toNat) n
    match raspIssue s c w (fun r => scoreBit r rs1.toNat) fun r => mkOp r c 9 none 0 rs1.toNat 0 0 with
    | .ok s' => .ok (updCore s' c fun x =>
        let old := (vRead x rd.toNat).toNat
        vWrite x rd.toNat (BitVec.ofNat 2048 (old - fld old 0 n + v)))
    | r => r)

/-- R181: RMOVGK. -/
def execRmovgk (c : Fin 112) (rd rs1 : BitVec 5) (imm : BitVec 10) (s : State) : Res :=
  let w := raspWord 0x34 0x0C rd rs1 imm
  .next (instr s c w (isChisel c && kOk rd && imm.toNat < 32) false false fun s =>
    raspIssue s c w (fun r => scoreBit r rd.toNat) fun r =>
      mkOp r c 8 (some rd.toNat) 0 (64 * imm.toNat) 64 ((gRead (getCore s c) rs1.toNat).setWidth 2048))

/-- R181: RMOVKG. -/
def execRmovkg (c : Fin 112) (rd rs1 : BitVec 5) (imm : BitVec 10) (s : State) : Res :=
  let w := raspWord 0x34 0x0D rd rs1 imm
  .next (instr s c w (isChisel c && kOk rs1 && imm.toNat < 32) false false fun s =>
    let v := fld (tget (getRasp s (coreCluster c)).k 0 rs1.toNat).toNat (64 * imm.toNat) 64
    match raspIssue s c w (fun r => scoreBit r rs1.toNat) fun r => mkOp r c 9 none 0 rs1.toNat 0 0 with
    | .ok s' => .ok (updCore s' c fun x => gWrite x rd.toNat (BitVec.ofNat 64 v))
    | r => r)

/-- An operation of major 0x35 (R182): kd in rd, the control word in g[rs1], the sources in imm10. -/
def raspOperation (s : State) (c op : Nat) (rd rs1 : BitVec 5) (imm : BitVec 10) (fields : Bool) : State :=
  let w := raspWord 0x35 op rd rs1 imm
  instr s c w (isChisel c && kOk rd && fields) false false fun s =>
    raspIssue s c w (fun _ => false) fun r =>
      mkOp r c op (some rd.toNat) (gRead (getCore s c) rs1.toNat) (imm.toNat % 16) (imm.toNat / 16 % 16) 0

/-- R182: RCRC. -/
def execRcrc (c : Fin 112) (rd rs1 : BitVec 5) (imm : BitVec 10) (s : State) : Res :=
  .next (raspOperation s c 0 rd rs1 imm (imm.toNat < 16))

/-- R182: RGOLD. -/
def execRgold (c : Fin 112) (rd rs1 : BitVec 5) (imm : BitVec 10) (s : State) : Res :=
  .next (raspOperation s c 1 rd rs1 imm (imm == 0))

/-- R182: RMSEQ. -/
def execRmseq (c : Fin 112) (rd rs1 : BitVec 5) (imm : BitVec 10) (s : State) : Res :=
  .next (raspOperation s c 2 rd rs1 imm (imm.toNat < 16))

/-- R182: RILV. -/
def execRilv (c : Fin 112) (rd rs1 : BitVec 5) (imm : BitVec 10) (s : State) : Res :=
  .next (raspOperation s c 3 rd rs1 imm (imm.toNat < 16))

/-- R182: RRMIDX. -/
def execRrmidx (c : Fin 112) (rd rs1 : BitVec 5) (imm : BitVec 10) (s : State) : Res :=
  .next (raspOperation s c 4 rd rs1 imm (imm == 0))

/-- R182: RSBI. -/
def execRsbi (c : Fin 112) (rd rs1 : BitVec 5) (imm : BitVec 10) (s : State) : Res :=
  .next (raspOperation s c 5 rd rs1 imm (imm == 0))

/-- R182: RSEG. -/
def execRseg (c : Fin 112) (rd rs1 : BitVec 5) (imm : BitVec 10) (s : State) : Res :=
  .next (raspOperation s c 6 rd rs1 imm (imm == 0))

/-- R182: RXOR. -/
def execRxor (c : Fin 112) (rd rs1 : BitVec 5) (imm : BitVec 10) (s : State) : Res :=
  .next (raspOperation s c 7 rd rs1 imm (imm.toNat < 256 && rs1 == 0))

/-- A late-error record for core `c` (R180). [log 49: DEDUCED] -/
def lateError (s : State) (cl c tag code : Nat) : State :=
  let r := getRasp s cl
  let q := tget r.errs [] c
  if q.length < 4 then
    updCore (setRasp s cl { r with errs := tset r.errs c (q ++ [{ tag := tag, code := code }]) }) c fun x =>
      { x with ip := setBit x.ip 4 true }
  else setRasp s cl { r with eovf := tset r.eovf c true }

/-- The 32 words of a k register have been written whole (R275). -/
def clearK (s : State) (cl i : Nat) : State := clearWords s (upFrom (2 ^ 45 + cl * 2 ^ 24 + 786432 + 32 * i) 32)

/-- The write-back of an instruction (R179, R180). `late` is what the Rasp found: 0 nothing, 1 KREG_ECC, 2 INTERNAL. -/
def raspWriteBack (s : State) (cl : Nat) (o : RaspOp) (late : Nat) : State :=
  let (up, s) := if o.op = 6 then takeFree s 1 else (0, s)
  let r := getRasp s cl
  let res := raspResult r.k o (up == 1)
  if o.discard then s
  else
    let code := if res.isNone then 1 else if late = 0 then 0 else late + 1
    if code = 0 then
      match o.kd, res with
      | some i, some v => clearK (setRasp s cl { r with k := tset r.k i v }) cl i
      | _, _ => s
    else
      let s := match o.kd with
        | some i =>
          let (f, s) := takeFree s 2048
          clearK (setRasp s cl { getRasp s cl with k := tset r.k i (BitVec.ofNat 2048 f) }) cl i
        | none => s
      lateError s cl o.core o.tag code

/-- A word of cluster `cl`'s k registers (512 words of 64 bits), as the SRAM scrubber names it; which one is a free value. [log 59: DEDUCED] -/
def kWord (s : State) (cl : Nat) : Nat × State :=
  let (v, s) := takeFree s 9
  (2 ^ 45 + cl * 2 ^ 24 + 786432 + v, s)

/-- An error of a k word that an operation read: 3 a single-bit error, corrected; 1 uncorrectable (R180, R275). -/
def kError (s : State) (cl late : Nat) : State :=
  if late = 1 ∨ late = 3 then
    let (w, s) := kWord s cl
    if late = 3 then correctWord s w else wordUnc s w 0xFF
  else s

/-- R179, R180: the oldest instruction in flight finishes; a RUNLOCK that waits for it may complete. `late` is what the Rasp found: 0 nothing,
1 KREG_ECC, 2 INTERNAL, 3 a single-bit error in a k word, which is corrected and counted, as an uncorrectable one is logged, also where the lock has gone and the late error
is suppressed (R178). [log 4: DESIGN CHOICE] -/
def execRaspOpComplete (cl : Fin 24) (late : Fin 4) (s : State) : Res :=
  match (getRasp s cl).flight with
  | [] => .next s
  | o :: fl =>
    let s := kError s cl late.val
    let late := late.val % 3
    let s := raspWriteBack s cl o late
    let s := setRasp s cl { getRasp s cl with flight := fl }
    let r := getRasp s cl
    match r.unlocking with
    | some c => if hasFlight r c then .next s else .next (finishWaiter (unlock s cl) c)
    | none => .next s

end Sys2Proof.Machine
end

