-- ==== Sys2Proof/Machine/Dispatch.lean ====
section
/-!
DEFINITION. One arm per command: each arm is one direct call of that command's meaning.
-/
namespace Sys2Proof.Machine

/-- The effect of a command on everything but the queue. -/
def exec (i : Instr) (s : State) : Host.Outcome State Fault Refusal :=
  match i with
  | .tickStart => Sys2Proof.Machine.execTickStart s
  | .triggerInject p => Sys2Proof.Machine.execTriggerInject p s
  | .tickPlanSwitch p => Sys2Proof.Machine.execTickPlanSwitch p s
  | .tickOvr p => Sys2Proof.Machine.execTickOvr p s
  | .tickEscDrop p => Sys2Proof.Machine.execTickEscDrop p s
  | .tickEvtFlowWrite who p val => Sys2Proof.Machine.execTickEvtFlowWrite who p val s
  | .counterReadClear who r same => Sys2Proof.Machine.execCounterReadClear who r same s
  | .regWrite who r val => Sys2Proof.Machine.execRegWrite who r val s
  | .lnTxSleepEnter who n depth => Sys2Proof.Machine.execLnTxSleepEnter who n depth s
  | .lnTxWake who n => Sys2Proof.Machine.execLnTxWake who n s
  | .lnRxSleepEnter who n depth => Sys2Proof.Machine.execLnRxSleepEnter who n depth s
  | .lnRxWake who n => Sys2Proof.Machine.execLnRxWake who n s
  | .lnDepthChange who n rx deep => Sys2Proof.Machine.execLnDepthChange who n rx deep s
  | .lnSleepDone n rx => Sys2Proof.Machine.execLnSleepDone n rx s
  | .lnWakeDone n rx => Sys2Proof.Machine.execLnWakeDone n rx s
  | .lnWakeFail n rx => Sys2Proof.Machine.execLnWakeFail n rx s
  | .lnTxMode who n mode => Sys2Proof.Machine.execLnTxMode who n mode s
  | .lnRxChk who n chk => Sys2Proof.Machine.execLnRxChk who n chk s
  | .lnErrInj who n => Sys2Proof.Machine.execLnErrInj who n s
  | .opticalSignalChange n present => Sys2Proof.Machine.execOpticalSignalChange n present s
  | .oeFault e => Sys2Proof.Machine.execOeFault e s
  | .fecCodewordRx n levels am => Sys2Proof.Machine.execFecCodewordRx n levels am s
  | .prbsSymbolRx n level => Sys2Proof.Machine.execPrbsSymbolRx n level s
  | .frameTxStart m unitW unitP => Sys2Proof.Machine.execFrameTxStart m unitW unitP s
  | .fhSlotTx m => Sys2Proof.Machine.execFhSlotTx m s
  | .gapHeaderRx n pos hdr => Sys2Proof.Machine.execGapHeaderRx n pos hdr s
  | .fawMatch n pos hits oh => Sys2Proof.Machine.execFawMatch n pos hits oh s
  | .lineFrameRx n bytes unc => Sys2Proof.Machine.execLineFrameRx n bytes unc s
  | .fhFrameRelease m nOver => Sys2Proof.Machine.execFhFrameRelease m nOver s
  | .defectEval m => Sys2Proof.Machine.execDefectEval m s
  | .perfSecondCommit m => Sys2Proof.Machine.execPerfSecondCommit m s
  | .fhEgressWrite who m bytes => Sys2Proof.Machine.execFhEgressWrite who m bytes s
  | .streamEntryWrite who m a val => Sys2Proof.Machine.execStreamEntryWrite who m a val s
  | .fhTxAis who m on => Sys2Proof.Machine.execFhTxAis who m on s
  | .fhProtLockout who m lane => Sys2Proof.Machine.execFhProtLockout who m lane s
  | .fhProtForcedSwitch who m lane => Sys2Proof.Machine.execFhProtForcedSwitch who m lane s
  | .fhProtManualSwitch who m lane => Sys2Proof.Machine.execFhProtManualSwitch who m lane s
  | .fhProtClear who m lane => Sys2Proof.Machine.execFhProtClear who m lane s
  | .fhDegThrWrite who m val => Sys2Proof.Machine.execFhDegThrWrite who m val s
  | .fhPktFlowWrite who m val => Sys2Proof.Machine.execFhPktFlowWrite who m val s
  | .gcMeasureComplete g tick => Sys2Proof.Machine.execGcMeasureComplete g tick s
  | .gcAckCheck g => Sys2Proof.Machine.execGcAckCheck g s
  | .nsEarlySighting ctx pre fo start delay pwr metric noise => Sys2Proof.Machine.execNsEarlySighting ctx pre fo start delay pwr metric noise s
  | .gcFixEnd g => Sys2Proof.Machine.execGcFixEnd g s
  | .nsReport ctx pre fo start delay pwr metric noise => Sys2Proof.Machine.execNsReport ctx pre fo start delay pwr metric noise s
  | .nsCtxWrite who ctx val => Sys2Proof.Machine.execNsCtxWrite who ctx val s
  | .gcGrpCfg0Write who g val => Sys2Proof.Machine.execGcGrpCfg0Write who g val s
  | .integerAlu c major rd rs1 rs2 funct => Sys2Proof.Machine.execIntegerAlu c major rd rs1 rs2 funct s
  | .multiplyDivide c rd rs1 rs2 funct => Sys2Proof.Machine.execMultiplyDivide c rd rs1 rs2 funct s
  | .immediateAlu c op rd rs1 imm => Sys2Proof.Machine.execImmediateAlu c op rd rs1 imm s
  | .insh c q rd rs1 imm => Sys2Proof.Machine.execInsh c q rd rs1 imm s
  | .callr c rd rs1 imm => Sys2Proof.Machine.execCallr c rd rs1 imm s
  | .pcrel c rd rs1 imm => Sys2Proof.Machine.execPcrel c rd rs1 imm s
  | .load c rt rb fn off => Sys2Proof.Machine.execLoad c rt rb fn off s
  | .store c rt rb fn off => Sys2Proof.Machine.execStore c rt rb fn off s
  | .atomic c rd rs1 rs2 funct => Sys2Proof.Machine.execAtomic c rd rs1 rs2 funct s
  | .jmp c rs off => Sys2Proof.Machine.execJmp c rs off s
  | .call c rs off => Sys2Proof.Machine.execCall c rs off s
  | .branch c cond rs off => Sys2Proof.Machine.execBranch c cond rs off s
  | .syscall c rd rs1 imm => Sys2Proof.Machine.execSyscall c rd rs1 imm s
  | .bpt c rd rs1 imm => Sys2Proof.Machine.execBpt c rd rs1 imm s
  | .eret c rd rs1 imm => Sys2Proof.Machine.execEret c rd rs1 imm s
  | .wait c rd rs1 imm => Sys2Proof.Machine.execWait c rd rs1 imm s
  | .waitComplete c => Sys2Proof.Machine.execWaitComplete c s
  | .fence c rd rs1 imm => Sys2Proof.Machine.execFence c rd rs1 imm s
  | .ifence c rd rs1 imm => Sys2Proof.Machine.execIfence c rd rs1 imm s
  | .getsr c rd rs1 imm => Sys2Proof.Machine.execGetsr c rd rs1 imm s
  | .setsr c rd rs1 imm => Sys2Proof.Machine.execSetsr c rd rs1 imm s
  | .orsr c rd rs1 imm => Sys2Proof.Machine.execOrsr c rd rs1 imm s
  | .andnsr c rd rs1 imm => Sys2Proof.Machine.execAndnsr c rd rs1 imm s
  | .clean c rd rs1 imm => Sys2Proof.Machine.execClean c rd rs1 imm s
  | .inval c rd rs1 imm => Sys2Proof.Machine.execInval c rd rs1 imm s
  | .flush c rd rs1 imm => Sys2Proof.Machine.execFlush c rd rs1 imm s
  | .tlbinv c rd rs1 imm => Sys2Proof.Machine.execTlbinv c rd rs1 imm s
  | .coresig c rd rs1 imm => Sys2Proof.Machine.execCoresig c rd rs1 imm s
  | .interruptTake c => Sys2Proof.Machine.execInterruptTake c s
  | .wiAbort c => Sys2Proof.Machine.execWiAbort c s
  | .timerCompare c => Sys2Proof.Machine.execTimerCompare c s
  | .storeErrorAsync c => Sys2Proof.Machine.execStoreErrorAsync c s
  | .vectorIntOp c long vd vs1 vs2 pg funct => Sys2Proof.Machine.execVectorIntOp c long vd vs1 vs2 pg funct s
  | .vectorMultiply c long vd vs1 vs2 pg funct => Sys2Proof.Machine.execVectorMultiply c long vd vs1 vs2 pg funct s
  | .vvsete c long vd vs1 vs2 pg => Sys2Proof.Machine.execVvsete c long vd vs1 vs2 pg s
  | .veneerMac c long k vd vs1 vs2 pg => Sys2Proof.Machine.execVeneerMac c long k vd vs1 vs2 pg s
  | .vvnorm c long vd vs1 vs2 pg => Sys2Proof.Machine.execVvnorm c long vd vs1 vs2 pg s
  | .vectorCompare c long k vd vs1 vs2 pg => Sys2Proof.Machine.execVectorCompare c long k vd vs1 vs2 pg s
  | .vrange c long vd vs1 vs2 pg => Sys2Proof.Machine.execVrange c long vd vs1 vs2 pg s
  | .predicateLogic c long k vd vs1 vs2 pg => Sys2Proof.Machine.execPredicateLogic c long k vd vs1 vs2 pg s
  | .vffmask c long vd vs1 vs2 pg => Sys2Proof.Machine.execVffmask c long vd vs1 vs2 pg s
  | .vffset c long vd vs1 vs2 pg => Sys2Proof.Machine.execVffset c long vd vs1 vs2 pg s
  | .vffget c long vd vs1 vs2 pg => Sys2Proof.Machine.execVffget c long vd vs1 vs2 pg s
  | .vffarm c long vd vs1 vs2 pg => Sys2Proof.Machine.execVffarm c long vd vs1 vs2 pg s
  | .vcntp c long vd vs1 vs2 pg => Sys2Proof.Machine.execVcntp c long vd vs1 vs2 pg s
  | .vectorReduce c long k vd vs1 vs2 pg => Sys2Proof.Machine.execVectorReduce c long k vd vs1 vs2 pg s
  | .vperm c long vd vs1 vs2 pg => Sys2Proof.Machine.execVperm c long vd vs1 vs2 pg s
  | .vectorLoad c long form vd vs1 vs2 pg => Sys2Proof.Machine.execVectorLoad c long form vd vs1 vs2 pg s
  | .vectorLoadFf c long form vd vs1 vs2 pg => Sys2Proof.Machine.execVectorLoadFf c long form vd vs1 vs2 pg s
  | .vldpk c long vd vs1 vs2 pg => Sys2Proof.Machine.execVldpk c long vd vs1 vs2 pg s
  | .vldr c long vd vs1 vs2 pg => Sys2Proof.Machine.execVldr c long vd vs1 vs2 pg s
  | .vldpr c long vd vs1 vs2 pg => Sys2Proof.Machine.execVldpr c long vd vs1 vs2 pg s
  | .vectorStore c long form vd vs1 vs2 pg => Sys2Proof.Machine.execVectorStore c long form vd vs1 vs2 pg s
  | .vstpk c long vd vs1 vs2 pg => Sys2Proof.Machine.execVstpk c long vd vs1 vs2 pg s
  | .vstr c long vd vs1 vs2 pg => Sys2Proof.Machine.execVstr c long vd vs1 vs2 pg s
  | .vstpr c long vd vs1 vs2 pg => Sys2Proof.Machine.execVstpr c long vd vs1 vs2 pg s
  | .vectorMove c long k vd vs1 vs2 pg => Sys2Proof.Machine.execVectorMove c long k vd vs1 vs2 pg s
  | .vcnt c long vd vs1 vs2 pg => Sys2Proof.Machine.execVcnt c long vd vs1 vs2 pg s
  | .vectorConvert c long k vd vs1 vs2 pg => Sys2Proof.Machine.execVectorConvert c long k vd vs1 vs2 pg s
  | .cbwb c rd rs1 rs2 pg n => Sys2Proof.Machine.execCbwb c rd rs1 rs2 pg n s
  | .cbwl c rd rs1 rs2 pg n => Sys2Proof.Machine.execCbwl c rd rs1 rs2 pg n s
  | .cbrb c rd rs1 rs2 pg n => Sys2Proof.Machine.execCbrb c rd rs1 rs2 pg n s
  | .cbrl c rd rs1 rs2 pg n => Sys2Proof.Machine.execCbrl c rd rs1 rs2 pg n s
  | .cbinc c rd rs1 rs2 pg n => Sys2Proof.Machine.execCbinc c rd rs1 rs2 pg n s
  | .cbinci c rd rs1 n step => Sys2Proof.Machine.execCbinci c rd rs1 n step s
  | .vldc c long rd rs1 rs2 pg n => Sys2Proof.Machine.execVldc c long rd rs1 rs2 pg n s
  | .vstc c long rd rs1 rs2 pg n => Sys2Proof.Machine.execVstc c long rd rs1 rs2 pg n s
  | .loop c rd rs1 imm => Sys2Proof.Machine.execLoop c rd rs1 imm s
  | .lpbrk c rd rs1 imm => Sys2Proof.Machine.execLpbrk c rd rs1 imm s
  | .lprd c rd rs1 imm => Sys2Proof.Machine.execLprd c rd rs1 imm s
  | .lpwr c rd rs1 imm => Sys2Proof.Machine.execLpwr c rd rs1 imm s
  | .azero c long rd rs1 rs2 pg => Sys2Proof.Machine.execAzero c long rd rs1 rs2 pg s
  | .amov c long rd rs1 rs2 pg => Sys2Proof.Machine.execAmov c long rd rs1 rs2 pg s
  | .aadd c long rd rs1 rs2 pg => Sys2Proof.Machine.execAadd c long rd rs1 rs2 pg s
  | .ashr c long rd rs1 rs2 pg => Sys2Proof.Machine.execAshr c long rd rs1 rs2 pg s
  | .arnd c long rd rs1 rs2 pg => Sys2Proof.Machine.execArnd c long rd rs1 rs2 pg s
  | .aqrd c long rd rs1 rs2 pg => Sys2Proof.Machine.execAqrd c long rd rs1 rs2 pg s
  | .aqwr c long rd rs1 rs2 pg => Sys2Proof.Machine.execAqwr c long rd rs1 rs2 pg s
  | .rlock c rd rs1 imm => Sys2Proof.Machine.execRlock c rd rs1 imm s
  | .raspLockGrant cl => Sys2Proof.Machine.execRaspLockGrant cl s
  | .rtrylock c rd rs1 imm => Sys2Proof.Machine.execRtrylock c rd rs1 imm s
  | .runlock c rd rs1 imm => Sys2Proof.Machine.execRunlock c rd rs1 imm s
  | .rstat c rd rs1 imm => Sys2Proof.Machine.execRstat c rd rs1 imm s
  | .rerr c rd rs1 imm => Sys2Proof.Machine.execRerr c rd rs1 imm s
  | .rmovvk c long rd rs1 imm => Sys2Proof.Machine.execRmovvk c long rd rs1 imm s
  | .rmovkv c long rd rs1 imm => Sys2Proof.Machine.execRmovkv c long rd rs1 imm s
  | .rmovgk c rd rs1 imm => Sys2Proof.Machine.execRmovgk c rd rs1 imm s
  | .rmovkg c rd rs1 imm => Sys2Proof.Machine.execRmovkg c rd rs1 imm s
  | .rcrc c rd rs1 imm => Sys2Proof.Machine.execRcrc c rd rs1 imm s
  | .rgold c rd rs1 imm => Sys2Proof.Machine.execRgold c rd rs1 imm s
  | .rmseq c rd rs1 imm => Sys2Proof.Machine.execRmseq c rd rs1 imm s
  | .rilv c rd rs1 imm => Sys2Proof.Machine.execRilv c rd rs1 imm s
  | .rrmidx c rd rs1 imm => Sys2Proof.Machine.execRrmidx c rd rs1 imm s
  | .rsbi c rd rs1 imm => Sys2Proof.Machine.execRsbi c rd rs1 imm s
  | .rseg c rd rs1 imm => Sys2Proof.Machine.execRseg c rd rs1 imm s
  | .rxor c rd rs1 imm => Sys2Proof.Machine.execRxor c rd rs1 imm s
  | .raspOpComplete cl late => Sys2Proof.Machine.execRaspOpComplete cl late s
  | .jgSubmit who die p cls addr => Sys2Proof.Machine.execJgSubmit who die p cls addr s
  | .jgDispatch die cls => Sys2Proof.Machine.execJgDispatch die cls s
  | .jgComplete die cls inst f => Sys2Proof.Machine.execJgComplete die cls inst f s
  | .jgCancel who die p cls addr => Sys2Proof.Machine.execJgCancel who die p cls addr s
  | .jgFault die cls inst => Sys2Proof.Machine.execJgFault die cls inst s
  | .dvEnq c rd rs1 imm => Sys2Proof.Machine.execDvEnq c rd rs1 imm s
  | .dvGet c rd rs1 imm => Sys2Proof.Machine.execDvGet c rd rs1 imm s
  | .dvRel c rd rs1 imm => Sys2Proof.Machine.execDvRel c rd rs1 imm s
  | .dvCxl c rd rs1 imm => Sys2Proof.Machine.execDvCxl c rd rs1 imm s
  | .dvItemArrive p flow kind prio tag arg0 arg1 => Sys2Proof.Machine.execDvItemArrive p flow kind prio tag arg0 arg1 s
  | .dvStage die => Sys2Proof.Machine.execDvStage die s
  | .dvFwdRetry flow => Sys2Proof.Machine.execDvFwdRetry flow s
  | .dvFlowCfgWrite who flow val => Sys2Proof.Machine.execDvFlowCfgWrite who flow val s
  | .dvCsetWrite who die p set val => Sys2Proof.Machine.execDvCsetWrite who die p set val s
  | .nocInject src r => Sys2Proof.Machine.execNocInject src r s
  | .nocRead src dest bad => Sys2Proof.Machine.execNocRead src dest bad s
  | .nocWrite src dest bad => Sys2Proof.Machine.execNocWrite src dest bad s
  | .nocAtomic src dest bad => Sys2Proof.Machine.execNocAtomic src dest bad s
  | .nocSwrite src dest bad => Sys2Proof.Machine.execNocSwrite src dest bad s
  | .nocSwriteL src dest bad => Sys2Proof.Machine.execNocSwriteL src dest bad s
  | .nocDvitem src dest bad => Sys2Proof.Machine.execNocDvitem src dest bad s
  | .nocDvans src dest bad => Sys2Proof.Machine.execNocDvans src dest bad s
  | .nocNotify src dest bad => Sys2Proof.Machine.execNocNotify src dest bad s
  | .nocRdata src dest bad => Sys2Proof.Machine.execNocRdata src dest bad s
  | .nocWack src dest bad => Sys2Proof.Machine.execNocWack src dest bad s
  | .nocAack src dest bad => Sys2Proof.Machine.execNocAack src dest bad s
  | .nocLanded src dest bad => Sys2Proof.Machine.execNocLanded src dest bad s
  | .nocSnak src dest bad => Sys2Proof.Machine.execNocSnak src dest bad s
  | .nocReqTimeout port cls seq => Sys2Proof.Machine.execNocReqTimeout port cls seq s
  | .nocRteEpochGo who die => Sys2Proof.Machine.execNocRteEpochGo who die s
  | .nocEpochRetire => Sys2Proof.Machine.execNocEpochRetire s
  | .nocEpochLate => Sys2Proof.Machine.execNocEpochLate s
  | .epochStuck => Sys2Proof.Machine.execEpochStuck s
  | .nocDrainDone d => Sys2Proof.Machine.execNocDrainDone d s
  | .nocDrainTimeout d => Sys2Proof.Machine.execNocDrainTimeout d s
  | .linkUnitRx b dir u crossed => Sys2Proof.Machine.execLinkUnitRx b dir u crossed s
  | .linkNakRx b dir ack => Sys2Proof.Machine.execLinkNakRx b dir ack s
  | .linkRepairRx b dir lane => Sys2Proof.Machine.execLinkRepairRx b dir lane s
  | .linkSwitchRx b dir lseq => Sys2Proof.Machine.execLinkSwitchRx b dir lseq s
  | .linkBundleDown b clk crossed => Sys2Proof.Machine.execLinkBundleDown b clk crossed s
  | .dmaRun who e c => Sys2Proof.Machine.execDmaRun who e c s
  | .dmaPause who e c => Sys2Proof.Machine.execDmaPause who e c s
  | .dmaPauseDone e c units => Sys2Proof.Machine.execDmaPauseDone e c units s
  | .dmaResume who e c => Sys2Proof.Machine.execDmaResume who e c s
  | .dmaStop who e c => Sys2Proof.Machine.execDmaStop who e c s
  | .dmaDoorbell who e c => Sys2Proof.Machine.execDmaDoorbell who e c s
  | .dmaChDescWrite who e c tick v => Sys2Proof.Machine.execDmaChDescWrite who e c tick v s
  | .dmaDescFetch e c => Sys2Proof.Machine.execDmaDescFetch e c s
  | .dmaTrigger e c => Sys2Proof.Machine.execDmaTrigger e c s
  | .dmaDescComplete e c => Sys2Proof.Machine.execDmaDescComplete e c s
  | .memDirtyAgeExpire ch page => Sys2Proof.Machine.execMemDirtyAgeExpire ch page s
  | .memRefresh ch how => Sys2Proof.Machine.execMemRefresh ch how s
  | .memRdpRefresh ch => Sys2Proof.Machine.execMemRdpRefresh ch s
  | .panicRaise src fill => Sys2Proof.Machine.execPanicRaise src fill s
  | .panicLift src fill => Sys2Proof.Machine.execPanicLift src fill s
  | .memCaAlert ch cmds again => Sys2Proof.Machine.execMemCaAlert ch cmds again s
  | .memScrubRead ch upset => Sys2Proof.Machine.execMemScrubRead ch upset s
  | .memRemapSave ch => Sys2Proof.Machine.execMemRemapSave ch s
  | .srScrubRead b bits => Sys2Proof.Machine.execSrScrubRead b bits s
  | .memScrubSlow src => Sys2Proof.Machine.execMemScrubSlow src s
  | .bhFrameRx n bytes fifoFull => Sys2Proof.Machine.execBhFrameRx n bytes fifoFull s
  | .bhTxTailWrite who n tail => Sys2Proof.Machine.execBhTxTailWrite who n tail s
  | .bhTxFrame n => Sys2Proof.Machine.execBhTxFrame n s
  | .bhRuleWrite who n k val => Sys2Proof.Machine.execBhRuleWrite who n k val s
  | .bhFlowWrite who n tx val => Sys2Proof.Machine.execBhFlowWrite who n tx val s
  | .ptpMsgRx => Sys2Proof.Machine.execPtpMsgRx s
  | .ptpFollowupRelease => Sys2Proof.Machine.execPtpFollowupRelease s
  | .tmSnap who => Sys2Proof.Machine.execTmSnap who s
  | .oscCheck refA refB diff => Sys2Proof.Machine.execOscCheck refA refB diff s
  | .oscEdgeLoss osc => Sys2Proof.Machine.execOscEdgeLoss osc s
  | .refQualify ext => Sys2Proof.Machine.execRefQualify ext s
  | .refLost ext => Sys2Proof.Machine.execRefLost ext s
  | .tmLock => Sys2Proof.Machine.execTmLock s
  | .hoQualSet => Sys2Proof.Machine.execHoQualSet s
  | .tmHoEvt => Sys2Proof.Machine.execTmHoEvt s
  | .ppsInEdge => Sys2Proof.Machine.execPpsInEdge s
  | .ppsInLost => Sys2Proof.Machine.execPpsInLost s
  | .freqInChange inside => Sys2Proof.Machine.execFreqInChange inside s
  | .ppsOutSecond => Sys2Proof.Machine.execPpsOutSecond s
  | .hostCmdPush h words cut => Sys2Proof.Machine.execHostCmdPush h words cut s
  | .hostRplPop h n cut => Sys2Proof.Machine.execHostRplPop h n cut s
  | .hostEvtPop h n cut => Sys2Proof.Machine.execHostEvtPop h n cut s
  | .hostDoorbell h words abortToo => Sys2Proof.Machine.execHostDoorbell h words abortToo s
  | .hostAbort h => Sys2Proof.Machine.execHostAbort h s
  | .hostPerst h => Sys2Proof.Machine.execHostPerst h s
  | .hostPktTimeout h => Sys2Proof.Machine.execHostPktTimeout h s
  | .cmdTimeout h => Sys2Proof.Machine.execCmdTimeout h s
  | .partMsgPost who p addr => Sys2Proof.Machine.execPartMsgPost who p addr s
  | .hello h => Sys2Proof.Machine.execHello h s
  | .modStatus h mw => Sys2Proof.Machine.execModStatus h mw s
  | .evtMask h => Sys2Proof.Machine.execEvtMask h s
  | .partCreate h => Sys2Proof.Machine.execPartCreate h s
  | .partDestroy h => Sys2Proof.Machine.execPartDestroy h s
  | .partReleaseFill die => Sys2Proof.Machine.execPartReleaseFill die s
  | .partQuery h => Sys2Proof.Machine.execPartQuery h s
  | .partRestart h tests clusters jigs => Sys2Proof.Machine.execPartRestart h tests clusters jigs s
  | .coreStart h => Sys2Proof.Machine.execCoreStart h s
  | .coreStop h => Sys2Proof.Machine.execCoreStop h s
  | .jigShare h => Sys2Proof.Machine.execJigShare h s
  | .nocRegulate h => Sys2Proof.Machine.execNocRegulate h s
  | .gainGroup h => Sys2Proof.Machine.execGainGroup h s
  | .hostMsg h => Sys2Proof.Machine.execHostMsg h s
  | .pwrSet h => Sys2Proof.Machine.execPwrSet h s
  | .planLoad h => Sys2Proof.Machine.execPlanLoad h s
  | .planStart h => Sys2Proof.Machine.execPlanStart h s
  | .planSwitch h => Sys2Proof.Machine.execPlanSwitch h s
  | .planStop h => Sys2Proof.Machine.execPlanStop h s
  | .planClear h => Sys2Proof.Machine.execPlanClear h s
  | .memWrite h => Sys2Proof.Machine.execMemWrite h s
  | .memRead h => Sys2Proof.Machine.execMemRead h s
  | .memFill h => Sys2Proof.Machine.execMemFill h s
  | .memRegion h => Sys2Proof.Machine.execMemRegion h s
  | .memInject h => Sys2Proof.Machine.execMemInject h s
  | .fwWrite h flashOk => Sys2Proof.Machine.execFwWrite h flashOk s
  | .fwCommit h flashOk sigOk => Sys2Proof.Machine.execFwCommit h flashOk sigOk s
  | .fwSelect h flashOk img => Sys2Proof.Machine.execFwSelect h flashOk img s
  | .logRead h bad => Sys2Proof.Machine.execLogRead h bad s
  | .msSaInstall h => Sys2Proof.Machine.execMsSaInstall h s
  | .msSaActivate h => Sys2Proof.Machine.execMsSaActivate h s
  | .msSaDelete h => Sys2Proof.Machine.execMsSaDelete h s
  | .tcMap h => Sys2Proof.Machine.execTcMap h s
  | .ptpCfg h => Sys2Proof.Machine.execPtpCfg h s
  | .timeSet h => Sys2Proof.Machine.execTimeSet h s
  | .timeStep h => Sys2Proof.Machine.execTimeStep h s
  | .timeCfg h => Sys2Proof.Machine.execTimeCfg h s
  | .thermCfg h => Sys2Proof.Machine.execThermCfg h s
  | .ageStatus h => Sys2Proof.Machine.execAgeStatus h s
  | .modResetAssert => Sys2Proof.Machine.execModResetAssert s
  | .modResetRelease => Sys2Proof.Machine.execModResetRelease s
  | .vinOutOfRange => Sys2Proof.Machine.execVinOutOfRange s
  | .startupStageDone ms f => Sys2Proof.Machine.execStartupStageDone ms f s
  | .startupTimeout => Sys2Proof.Machine.execStartupTimeout s
  | .bootWatchdog a b => Sys2Proof.Machine.execBootWatchdog a b s
  | .pwrWakeRequest who d => Sys2Proof.Machine.execPwrWakeRequest who d s
  | .pwrEntryRequest d => Sys2Proof.Machine.execPwrEntryRequest d s
  | .pwrEntryDone d => Sys2Proof.Machine.execPwrEntryDone d s
  | .pwrWakeDone d lost => Sys2Proof.Machine.execPwrWakeDone d lost s
  | .pwrWakeTimeout d pll oscBad => Sys2Proof.Machine.execPwrWakeTimeout d pll oscBad s
  | .pwrVoltSettled d => Sys2Proof.Machine.execPwrVoltSettled d s
  | .thSample k reading rise => Sys2Proof.Machine.execThSample k reading rise s
  | .ageReplan mons moves adapted lats flashOk => Sys2Proof.Machine.execAgeReplan mons moves adapted lats flashOk s
  | .coreFault c cause => Sys2Proof.Machine.execCoreFault c cause s
  | .coreSelftestDone c r => Sys2Proof.Machine.execCoreSelftestDone c r s
  | .dmaEngineFault e => Sys2Proof.Machine.execDmaEngineFault e s
  | .dmaEngineTestDone e ok => Sys2Proof.Machine.execDmaEngineTestDone e ok s
  | .tableReload port table entries part lost trig => Sys2Proof.Machine.execTableReload port table entries part lost trig s
  | .mcWatchdog cause => Sys2Proof.Machine.execMcWatchdog cause s
  | .mcRestartDone => Sys2Proof.Machine.execMcRestartDone s
  | .memChReinitDone ch ok => Sys2Proof.Machine.execMemChReinitDone ch ok s
  | .dieLost die cause => Sys2Proof.Machine.execDieLost die cause s
  | .moduleStop => Sys2Proof.Machine.execModuleStop s
  | .logWrite ok => Sys2Proof.Machine.execLogWrite ok s
  | .i2cOffsetWrite ofs data => Sys2Proof.Machine.execI2cOffsetWrite ofs data s
  | .i2cRead n vin10 pin100 tbase => Sys2Proof.Machine.execI2cRead n vin10 pin100 tbase s
  | .jtagScan op => Sys2Proof.Machine.execJtagScan op s
  | .followUpNomatch => Sys2Proof.Machine.execFollowUpNomatch s
  | .perstRelease h => Sys2Proof.Machine.execPerstRelease h s
  | .inputPowerApply => Sys2Proof.Machine.execInputPowerApply s
  | .delayReqSend => Sys2Proof.Machine.execDelayReqSend s
  | .serviceHour avg => Sys2Proof.Machine.execServiceHour avg s
  | .voltageRampDownDone d => Sys2Proof.Machine.execVoltageRampDownDone d s

end Sys2Proof.Machine
end

