-- ==== Sys2Proof/Machine/Step.lean ====
section
/-!
DEFINITION. One step: the command at the front of the queue is executed; with no command waiting, a nanosecond passes.
-/
namespace Sys2Proof.Machine

/-- With no command waiting, the block idles and its time moves on by 1 ns (DESIGN CHOICE, notes/assumptions/5.md).
[log 5: DESIGN CHOICE; log 14: DESIGN CHOICE] -/
def idle (s : State) : State := { s with now := s.now + 1 }

/-- One step. [log 1: DESIGN CHOICE; log 5: DESIGN CHOICE] -/
def step (s : State) : Host.Outcome State Fault Refusal :=
  match s.pending with
  | [] => .next (idle s)
  | c :: rest => exec c { s with pending := rest }

/-- The state with the command that a word spells at the front of its queue; unchanged where the word spells none. [log 1: DESIGN CHOICE] -/
def State.withFetchWord (s : State) (nbits w : Nat) : State :=
  match decodeTableWord nbits w with
  | some c => { s with pending := c :: s.pending }
  | none => s

end Sys2Proof.Machine
end

