-- ==== Sys2Proof/WellFormed.lean ====
section
/-!
DEFINITION. Well-formed commands: the bounds the spec sets on operands that their types do not hold.
-/
namespace Sys2Proof

/-- How many banks a counter has (the register sections of each chapter). -/
def Counter.banks (c : Counter) : Nat :=
  match c with
  | .tickOvrDrop | .tickOvrDeg | .tickOvrEsc | .tickInjFail | .tickBudgetExc | .tickWinRej => 4
  | .lnFecCw | .lnFecCorr | .lnFecUncorr | .lnFecSym | .lnPrbsBits | .lnPrbsErr | .lnGapErr | .lnRateOor | .lnSleepRej => 80
  | .fhLate | .fhEarly | .fhHcrcErr | .fhUnk | .fhDup | .fhTxLate | .fhTxFmt | .fhSelSw | .fhPktDrop | .fhSrInv | .fhPes | .fhPses | .fhPuas => 32
  | .fhLnBip | .fhLnOhcrc | .fhLnCandOvf | .fhLnEs | .fhLnSes | .fhLnUas | .fhLnRei => 64
  | .gcSteps | .gcNoack | .gcCapt => 256
  | .nsDet | .nsEarlyFalse | .nsTrunc | .nsOvl | .nsInLoss => 2
  | .jgFault | .jgDone | .jgSubRej | .jgCxlMiss | .jgDescErr | .jgCrcFail | .jgRetry => 1024
  | .dvEnqRej | .dvCxlPre | .dvCxlRun | .dvTomb | .dvRelBad | .dvCxlMiss | .dvFwdStall | .dvFwdFail | .dvCfgRej => 8
  | .dvWaitHist => 128
  | .nocHcrcErr | .nocRteFail | .nocGateOrph => 3
  | .nocGateRefuse | .nocReqTmo | .nocRspLate => 160
  | .nocLnkLaneErr => 1360
  | .nocLnkRetry | .nocLnkCrcErr | .nocLnkDrop => 80
  | .dmaLate | .dmaRej => 448
  | .memCorr | .memUnc | .memRdUnwr | .memTagErr | .memRmwRef | .memCaAlert | .memCaReplay | .memRdp | .memStgHit | .memStgMiss | .memTrkOvf
  | .memRetire | .memCfgRej => 16
  | .srCorr | .srUnc | .srRepair | .srSpareOut | .srTrkOvf => 27
  | .bhRxErr | .bhRxCtl | .bhRxNomatch | .bhRxOvsz | .bhRxNobuf | .bhRxFifo | .bhRxFrm | .bhTxFrm
  | .msRxOk | .msRxLate | .msRxInvalid | .msRxNotvalid | .msRxNosa | .msRxUntagged | .msTxProt | .msTxPnExh => 4
  | .tmTcFwd | .tmTcNomatch | .tmPtpDrop | .tmOscSw => 1
  | .hwEvtLost => 4
  | .pwrEntry | .pwrWake | .pwrAbort => 24
  | .pwrRef => 192
  | .thWarn | .thThr | .fltLogFail => 1

/-- Is a command one that can be given? A write of the command aperture carries 1 to 32 words, a read of the other apertures 1 to 64 (R308);
a counter's bank exists; a frame bit lies in the frame (R262); an I2C read asks for at least one byte (R420). -/
def Instr.wf (i : Instr) : Bool :=
  match i with
  | .hostCmdPush _ ws _ => 1 ≤ ws.length && ws.length ≤ 32
  | .hostRplPop _ n _ => 1 ≤ n.val
  | .hostEvtPop _ n _ => 1 ≤ n.val
  | .counterReadClear _ (.ctr c bank) _ => bank < c.banks
  | .memScrubRead _ upset => upset.all fun b => b < 16896
  | .i2cRead n _ _ _ => 1 ≤ n.val
  | _ => true

end Sys2Proof
end

