-- ==== Sys2Proof/Safety.lean ====
section
/-!
DEFINITION. What the statements call a sound state, and the words they use for the outcome of a command.
-/
namespace Sys2Proof.Machine

/-- The command answers a next state that has property `P`. -/
def Runs (c : Instr) (s : State) (P : State → Prop) : Prop := ∃ t, exec c s = .next t ∧ P t

/-- The command leaves every part of the state as it is. -/
def Ignored (c : Instr) (s : State) : Prop := exec c s = .next s

/-- The bytes of memory have their canonical form (R12): addresses rise strictly and no listed byte is the default. -/
def MemSound (s : State) : Prop := Memory.wf s.mem.bytes = true

/-- No counter stands above its widest value (R9: RC counters saturate). -/
def CountersBounded (s : State) : Prop := ∀ (k : Counter) (bank : Nat), ctrGet s k bank ≤ Counter.top k

/-- The command answers exactly this state. -/
def Gives (c : Instr) (s t : State) : Prop := exec c s = .next t

/-- Core `c` comes to execute its next instruction: it runs, nothing is taken first, and the fetch raises nothing and leaves `u`
(its translations and cache lines may have grown). -/
def Fetches (s : State) (c : Nat) (u : State) : Prop := canStep s c = true ∧ fetchCheck s c = (none, u)

/-- The same for an instruction of a kind that may not stand at the END of an active hardware loop (R171): it does not stand there. -/
def FetchesOffEnd (s : State) (c : Nat) (u : State) : Prop := Fetches s c u ∧ (isChisel c && atEnd (getCore u c)) = false

/-- The same for a vector instruction: its class exists on the core, and R144 lets it run under VCFG and VSTART. -/
def VFetches (s : State) (c : Nat) (u : State) (long : Bool) (types : Option (List Nat)) (rounds : Bool) (k : VKind) : Prop :=
  Fetches s c u ∧ (long && !isChisel c) = false ∧ vcfgOk (getCore u c) c long types rounds k = true

/-- The completion of a vector instruction: VSTART is 0 (R153), and it retires. -/
def vRetire (s : State) (c : Nat) (pc : Word) : State := retire (updCore s c fun y => { y with vstart := 0 }) c pc

/-- The oldest packet of the command's class between two ports is `p` of that command; no bundle that is down lies before it and its
destination takes it. -/
def Arrives (s : State) (src dest cmd : Nat) (p : Pkt) : Prop :=
  oldestPkt s src dest (cmdClass cmd) = some p ∧ p.cmd = cmd ∧ blockedAt s p = none ∧ (p.cls = 3 ∨ portGate s dest = 0)

/-- Host `h`'s command `c` of opcode `opc` has begun and the MC may work on it (R316). -/
def Turn (s : State) (h opc : Nat) (c : HostCmd) : Prop := (getHost s h).begun = some c ∧ c.opc = opc ∧ mayRun s h c = true

/-- The MC has taken up a command of host `h`. -/
def served (s : State) (h : Nat) : State := { s with mc := { s.mc with lastServed := h } }

/-- Start-up may go on: MOD_READY is low, no stage has failed, MOD_RESET_N is high, the input is in range and no shut-down has happened. [log 76: DESIGN CHOICE] -/
def Starting (s : State) : Prop := s.su.ready = false ∧ s.su.fail = none ∧ s.su.hold = false ∧ s.su.vin = true ∧ s.th.trip = false ∧ s.su.stopped = false

/-- What makes a fault of a core one that can happen: a double fault of a stopped core, any other cause at a running or waiting one, a retention
chain that fails at one held in reset (R390). -/
def CanFault (s : State) (c : Nat) (cause : Nat) : Prop :=
  (getCore s c).run = .stopped ∧ cause = 0 ∨ ((getCore s c).run = .running ∨ (getCore s c).run = .waiting) ∧ cause ≠ 0 ∨
    (getCore s c).run = .held ∧ cause = 2

end Sys2Proof.Machine
end

