-- ==== Sys2Proof/Certificates/Slice0/Obligations.lean ====
section
/-!
DEFINITION. The statements for the provers, from the numbered rules of the spec.
-/
open Sys2Proof Sys2Proof.Machine

/-! ### The machine as a whole -/

/-- The command at the front of the queue is executed on the state with the rest of the queue. -/
def Obligations.StepExecutesTheFrontCommand : Prop :=
  ∀ (c : Instr) (rest : List Instr) (s : State), step { s with pending := c :: rest } = exec c { s with pending := rest }

/-- On an empty queue one nanosecond passes and nothing else happens (the model's choice: notes/assumptions/5.md). -/
def Parts.IdleStepPassesOneNanosecond : Prop :=
  ∀ s : State, s.pending = [] → step s = .next { s with now := s.now + 1 }

/-- Every command of the table completes from every state: no fault and no refusal ends a run. -/
def Obligations.EveryCommandCompletes : Prop := ∀ (c : Instr) (s : State), ∃ t, exec c s = .next t

/-- No command adds to the queue of waiting commands or takes from it, and no free value is given out twice. -/
def Parts.NoCommandTouchesTheQueue : Prop :=
  ∀ (c : Instr) (s t : State), exec c s = .next t → t.pending = s.pending ∧ s.fresh ≤ t.fresh

/-- Every step keeps the canonical form of memory: listed addresses rise strictly and no listed byte is the default. -/
def Obligations.EveryStepKeepsMemoryCanonical : Prop :=
  ∀ s t : State, MemSound s → step s = .next t → MemSound t

/-- Every step keeps every counter within its width: counters saturate (R9, R52). -/
def Obligations.EveryStepKeepsCountersBounded : Prop :=
  ∀ s t : State, CountersBounded s → step s = .next t → CountersBounded t

/-- The state after reset meets both invariants, and no command waits. -/
def Obligations.ResetMeetsTheInvariants : Prop :=
  MemSound State.reset ∧ CountersBounded State.reset ∧ State.reset.pending = []

/-! ### The tick and the tick sequencer (01_tick_and_windows) -/

/-- A tick start (R14 to R16): SFN and TIDX count on, the half-millisecond and the tick's number in it follow, the start is truncated to a
whole nanosecond, and time has reached it. The numerology stays, the clock does not run backwards. -/
def Obligations.TickStartAdvancesTheGrid : Prop :=
  ∀ s : State, s.su.timeUp = true → Runs .tickStart s fun t =>
    t.tu.sfn = (if s.tu.tidx + 1 = 140 * 2 ^ s.tu.mu then (s.tu.sfn + 1) % 1024 else s.tu.sfn) ∧
    t.tu.tidx = (if s.tu.tidx + 1 = 140 * 2 ^ s.tu.mu then 0 else s.tu.tidx + 1) ∧
    t.tu.j = (if s.tu.j + 1 = 7 * 2 ^ s.tu.mu then 0 else s.tu.j + 1) ∧
    t.tu.half = (if s.tu.j + 1 = 7 * 2 ^ s.tu.mu then s.tu.half + 500000 else s.tu.half) ∧
    t.tu.long = (t.tu.j == 0) ∧
    t.tu.startNs = (t.tu.half + tcToNs (tickOffTc s.tu.mu t.tu.j)) % 2 ^ 32 ∧
    t.tu.mu = s.tu.mu ∧ t.tu.count = s.tu.count + 1 ∧
    t.now = max s.now (t.tu.half + tcToNs (tickOffTc s.tu.mu t.tu.j))

/-- A trigger (R21), after a start or switch that is due (R22): the next non-FB entry of the current index is offered to its flow. Where the flow takes it, one item stands behind all
others, of kind 1 with the entry's flow, priority, TAG and budget, and a MUST entry opens a deadline window that closes DEADLINE + 1 tick starts
on. Memory, the grid and the other partitions are as they were. -/
def Parts.TriggerInjectQueuesTheEntry : Prop :=
  ∀ (s : State) (p : Fin 4) (pl : Plan) (i : Nat) (e : PlanEntry),
    let r := settleSwitch s p
    (getTick r p).run = true → activePlan (getTick r p) = some pl → nextEntry (getTick r p) = some (i, e) →
    refusal r p e.flow false = 0 → Runs (.triggerInject p) s fun t => ∃ it : Item,
      t.dv.items = r.dv.items ++ [it] ∧ it.flow = e.flow ∧ it.kind = 1 ∧ it.tomb = false ∧ it.level = e.prio ∧ it.tag = e.tag ∧
      it.budget = some e.budget ∧ it.place = .queued ∧
      (getTick t p).injNext = i + 1 ∧
      (getTick t p).wins = (if e.must then (getTick r p).wins ++
        [{ slot := (getTick r p).active, idx := i, entry := e, trigN := absTick r, closeAt := r.tu.count + e.deadline + 1, item := it.id,
           grace := false, fb := if e.policy = 1 then fallbackOf pl e else none }] else (getTick r p).wins) ∧
      t.now = max r.now (tickStartAt r 0 + (e.offset : Int)).toNat ∧
      t.mem = r.mem ∧ t.tu = r.tu ∧ ∀ q : Nat, q ≠ p.val → getPart t q = getPart r q

/-- A trigger that its flow refuses (R32): TICK_INJ_FAIL is raised with the refusal's reason in place of the item's state and counted; of a MUST entry
it is an immediate overrun, which its policy's counter counts; and a degrade entry's fallback is injected in its place. -/
def Parts.RefusedTriggersFail : Prop :=
  ∀ (s : State) (p : Fin 4) (pl : Plan) (i : Nat) (e : PlanEntry),
    let r := settleSwitch s p
    let a := { setTick r p { getTick r p with injNext := i + 1 } with now := max r.now (tickStartAt r 0 + (e.offset : Int)).toNat }
    let why := refusal a p e.flow false
    let f := raisePart (bump (countRefusal a p e.flow) .tickInjFail p) p 0x0102
      (ovrWord (absTick a) (getTick r p).active i why 0 e.policy) e.tag.toNat
    (getTick r p).run = true → activePlan (getTick r p) = some pl → nextEntry (getTick r p) = some (i, e) → why ≠ 0 →
    (e.must = false → Gives (.triggerInject p) s f) ∧
    (e.must = true → e.policy ≠ 1 ∨ fallbackOf pl e = none → Gives (.triggerInject p) s (bump f (policyCtr e.policy) p)) ∧
    (∀ j g, e.must = true → e.policy = 1 → fallbackOf pl e = some (j, g) →
      Gives (.triggerInject p) s (inject (bump f .tickOvrDeg p) p (getTick r p).active j g none 1))

/-- A plan switch takes effect at its tick (R22, R318): the pending slot becomes active and runs, the current index is N mod L of the new plan,
and TICK_PLAN_SWITCH names N and the slot; then the capacity is compared with the new need (the model's reading: notes/assumptions/23.md). One that is
not due waits. -/
def Parts.PlanSwitchTakesEffectAtItsTick : Prop :=
  ∀ (s : State) (p : Fin 4) (q : PlanPend), (getTick s p).pend = some q →
    (s.tu.count < q.atCount → Ignored (.tickPlanSwitch p) s) ∧ (q.atCount ≤ s.tu.count → Gives (.tickPlanSwitch p) s
      (capCheck (raisePart (planIdx (setTick s p { getTick s p with active := q.slot, run := true, pend := none, stopping := false }) p) p
        0x0103 (q.n + b2n q.slot * 2 ^ 21) 0) p))

/-- An overrun (R29, R30): the deadline window goes, TICK_OVR carries the trigger's tick, slot, entry, the item's state and core, the policy and
the TAG, the policy's counter counts it, and the policy acts: drop aborts or withdraws the item with code 0x80, degrade does so and injects the
fallback, escalate leaves the item for the grace. A window whose item has left goes alone. -/
def Parts.OverrunFollowsThePolicy : Prop :=
  (∀ (s : State) (p : Fin 4) (w : DlWin), firstWin (closedWins s p false) = some w → itemById s w.item = none →
    Gives (.tickOvr p) s (removeWin s p w)) ∧
  ∀ (s : State) (p : Fin 4) (w : DlWin) (it : Item),
    firstWin (closedWins s p false) = some w → itemById s w.item = some it →
    let u := bump (raisePart (removeWin s p w) p 0x0100
      (ovrWord w.trigN w.slot w.idx (ovrState it).1 (ovrState it).2 w.entry.policy) w.entry.tag.toNat)
      (if w.entry.policy = 0 then .tickOvrDrop else if w.entry.policy = 1 then .tickOvrDeg else .tickOvrEsc) p
    (w.entry.policy = 0 → Gives (.tickOvr p) s (abortItem u it 0x80)) ∧
    (w.entry.policy = 1 → w.fb = none → Gives (.tickOvr p) s (abortItem u it 0x80)) ∧
    (∀ i f, w.entry.policy = 1 → w.fb = some (i, f) → Gives (.tickOvr p) s (inject (abortItem u it 0x80) p w.slot i f none 1)) ∧
    (2 ≤ w.entry.policy → Gives (.tickOvr p) s (addWin u p { w with grace := true, closeAt := w.closeAt + (getTick u p).grace }))

/-- The end of an escalate grace (R30): TICK_ESC_DROP in the layout of TICK_OVR, and the item is dropped with code 0x80; a window whose item has
left goes alone. -/
def Parts.EscalateGraceEndsInADrop : Prop :=
  (∀ (s : State) (p : Fin 4) (w : DlWin) (it : Item), firstWin (closedWins s p true) = some w → itemById s w.item = some it →
    Gives (.tickEscDrop p) s (abortItem (raisePart (removeWin s p w) p 0x0101
      (ovrWord w.trigN w.slot w.idx (ovrState it).1 (ovrState it).2 w.entry.policy) w.entry.tag.toNat) it 0x80)) ∧
  (∀ (s : State) (p : Fin 4) (w : DlWin), firstWin (closedWins s p true) = some w → itemById s w.item = none →
    Gives (.tickEscDrop p) s (removeWin s p w))

/-- Register accesses (R9, R11, R34): the owner's write of TICK_EVT_FLOW takes FLOW and EN; a read of an RC counter answers its value and leaves
the events of the same cycle, any other read in a unit's block or a host window answers what stands there, or the STATUS of a gate that is closed; TICK_ESC_GRACE takes its field; a foreign access changes nothing but the answer, STATUS 5. -/
def Obligations.RegistersAnswerTheirOwner : Prop :=
  (∀ (s : State) (p : Fin 4) (val : BitVec 32), bit val.toNat 31 = false ∨ ownsFlow s p (fld val.toNat 0 18) = true →
    Gives (.tickEvtFlowWrite (.part p) p val) s
      { setTick s p { getTick s p with evtFlow := fld val.toNat 0 18, evtEn := bit val.toNat 31 } with answer := { status := 0, data := 0 } }) ∧
  (∀ (s : State) (c : Counter) (bank same : Nat), same ≤ Counter.top c → Runs (.counterReadClear .mc (.ctr c bank) same) s fun t =>
    t.answer = { status := 0, data := ctrGet s c bank } ∧ ctrGet t c bank = same ∧
    (∀ c' bank', ctrKey c' bank' ≠ ctrKey c bank → ctrGet t c' bank' = ctrGet s c' bank') ∧ { t with ctr := s.ctr, answer := s.answer } = s) ∧
  (∀ (s u : State) (p : Fin 4) (b : RegUnit) (o : BitVec 24) (n : Fin 9) (same st : Nat) (bs : List Byte), portGate s (unitPort b o.toNat) = 0 →
    regRead s (some p.val) b o.toNat n = (st, bs, u) →
    Gives (.counterReadClear (.part p) (.block b o n) same) s (answer u st (if st = 0 then ofLe bs else 0))) ∧
  (∀ (s : State) (p : Fin 4) (b : RegUnit) (o : BitVec 24) (n : Fin 9) (same : Nat),
    let g := portGate s (unitPort b o.toNat)
    g ≠ 0 → Gives (.counterReadClear (.part p) (.block b o n) same) s (answer (noteGate s (unitPort b o.toNat) g) g 0)) ∧
  (∀ (s : State) (h : Fin 4) (o : BitVec 20) (same : Nat), portUp s h = true →
    Gives (.counterReadClear (.host h) (.window o) same) s (answer (windowR s h o.toNat).2 0 (windowR s h o.toNat).1)) ∧
  (∀ (s : State) (p : Fin 4) (val : BitVec 64), Runs (.regWrite (.part p) (.tickEscGrace p) val) s fun t =>
    (getTick t p).grace = max 1 (fld val.toNat 0 4) ∧ t.answer.status = 0 ∧ { t with parts := s.parts, answer := s.answer } = s) ∧
  (∀ (s : State) (p q : Fin 4) (val : BitVec 32), p ≠ q →
    Gives (.tickEvtFlowWrite (.part q) p val) s { s with answer := { status := 5, data := 0 } }) ∧
  (∀ (s : State) (p q : Fin 4) (val : BitVec 64), p ≠ q →
    Gives (.regWrite (.part q) (.tickEscGrace p) val) s { s with answer := { status := 5, data := 0 } })

/-! ### The lanes (02_fronthaul_lanes) -/

/-- Writes of the sleep fields of a fronthaul lane's transmitter (R47 to R51): an awake transmitter goes to the depth written unless it carries the
active stream while the other lane does not send, which is refused and counted; a frame in progress and its gap come first; the value 3 is refused; a
sleeping one wakes or changes depth; a write during a transition is held and replaces the one held before. -/
def Parts.TransmitSleepWritesStartAChange : Prop :=
  ∀ (who : Agent) (n : Fin 80) (s : State), mayTouch who (laneOwner s n) = true → n.val < 64 →
    let x := getLane s n
    (∀ d : Fin 3, d.val < 2 → x.txState = 0 → (txActive s n && otherNotSending s n) = false →
      Gives (.lnTxSleepEnter who n d) s
        (done (setLane s n { x with txSleep := d.val + 1, txState := 3, txFrom := 0, txGoal := d.val + 1, txEnding := x.unitEnd.isSome, txAt := upNs s }))) ∧
    (∀ d : Fin 3, d.val < 2 → x.txState = 0 → (txActive s n && otherNotSending s n) = true →
      Gives (.lnTxSleepEnter who n d) s (done (bump (setLane s n { x with rej := true }) .lnSleepRej n))) ∧
    Gives (.lnTxSleepEnter who n 2) s (done (setLane s n { x with rej := true })) ∧
    (x.txState = 1 ∨ x.txState = 2 → Gives (.lnTxWake who n) s
      (done (setLane s n { x with txSleep := 0, txState := 3, txFrom := x.txState, txGoal := 0, txEnding := false, txAt := upNs s }))) ∧
    (∀ deep : Bool, x.txState = (if deep then 1 else 2) → Gives (.lnDepthChange who n false deep) s
      (done (setLane s n { x with
        txSleep := if deep then 2 else 1, txState := 3, txFrom := x.txState, txGoal := if deep then 2 else 1, txEnding := false, txAt := upNs s }))) ∧
    (x.txState = 3 → Gives (.lnTxWake who n) s (done (setLane s n { x with txHeld := some 0 })))

/-- Writes of the sleep fields of a fronthaul lane's receiver (R49 to R51, R85): a lane that the selector has not chosen goes to the depth written
and loses its locks; the chosen lane asks for the forced switch first, and is refused where the other lane is in signal fail or a lockout
stands (that only the local command is one is the model's choice: notes/assumptions/100.md); a sleeping receiver wakes or changes depth. -/
def Parts.ReceiveSleepWritesStartAChange : Prop :=
  ∀ (who : Agent) (n : Fin 80) (s : State), mayTouch who (laneOwner s n) = true → n.val < 64 →
    let x := getLane s n
    let m := n.val / 2
    let go := fun v => done (setRx (setLane s n
      { x with rxSleep := v, rxState := 3, rxFrom := x.rxState, rxGoal := v, rxWait := false, rxAt := upNs s,
               fecLock := false, fecRun := 0, amRun := 0, prbsLock := false, prbsGood := 0, prbsWin := [] }) n (alignDown (getRx s n)))
    (∀ d : Fin 3, d.val < 2 → x.rxState = 0 → x.rxWait = false → ((getFh s m).sel == n.val % 2) = false →
      Gives (.lnRxSleepEnter who n d) s (go (d.val + 1))) ∧
    (∀ d : Fin 3, d.val < 2 → x.rxState = 0 → x.rxWait = false → ((getFh s m).sel == n.val % 2) = true →
      (laneFail s m (1 - n.val % 2) || (getFh s m).cmd == 1) = false →
      Gives (.lnRxSleepEnter who n d) s (done (setLane s n { x with rxSleep := d.val + 1, rxWait := true, rxFs := true }))) ∧
    (∀ d : Fin 3, d.val < 2 → x.rxState = 0 → x.rxWait = false → ((getFh s m).sel == n.val % 2) = true →
      (laneFail s m (1 - n.val % 2) || (getFh s m).cmd == 1) = true →
      Gives (.lnRxSleepEnter who n d) s (done (bump (setLane s n { x with rej := true }) .lnSleepRej n))) ∧
    (x.rxState = 1 ∨ x.rxState = 2 → x.rxWait = false → Gives (.lnRxWake who n) s (go 0)) ∧
    (∀ deep : Bool, x.rxState = (if deep then 1 else 2) → x.rxWait = false →
      Gives (.lnDepthChange who n true deep) s (go (if deep then 2 else 1)))

/-- The ends of lane transitions (R48, R50, R51) where no write is held: the direction stands in the state it was going to, a transmitter not before the end of
its gap; an awake receiver's forced switch is withdrawn (R85); a backhaul port's link follows; a direction
that starts from deep sleep starts from its Patina point (R375), one that ends awake has adapted from it, and neither ends while the direction must stay in deep sleep;
and a wake that has
taken twice its bound of R50 returns to deep sleep with LN_WAKE_FAIL, and not before (of a transmit bound the wait for the next frame is left out: log 14). -/
def Parts.LaneTransitionsEnd : Prop :=
  ∀ (n : Fin 80) (s : State),
    let x := getLane s n
    (x.txState = 3 → x.txHeld = none → x.txGoal ≠ 0 → x.txEnding = false → (x.txFrom = 2 → laneHeld s n false = false) →
      Gives (.lnSleepDone n false) s (setLane (if x.txFrom = 2 then startPoint s (2 * n) else s) n { x with txState := x.txGoal })) ∧
    (x.rxState = 3 → x.rxHeld = none → x.rxGoal ≠ 0 → (x.rxFrom = 2 → laneHeld s n true = false) →
      Gives (.lnSleepDone n true) s (setLane (if x.rxFrom = 2 then startPoint s (2 * n + 1) else s) n { x with rxState := x.rxGoal })) ∧
    (x.txState = 3 → x.txHeld = none → x.txGoal = 0 → laneHeld s n false = false →
      Gives (.lnWakeDone n false) s (linkUpdate (setLane (dirAwake s (2 * n) (x.txFrom == 2)) n { x with txState := 0 }) n)) ∧
    (x.rxState = 3 → x.rxHeld = none → x.rxGoal = 0 → laneHeld s n true = false →
      Gives (.lnWakeDone n true) s (linkUpdate (setLane (dirAwake s (2 * n + 1) (x.rxFrom == 2)) n { x with rxState := 0, rxFs := false }) n)) ∧
    (∀ rx : Bool, laneHeld s n rx = true → Ignored (.lnWakeDone n rx) s ∧
      ((if rx then x.rxFrom else x.txFrom) = 2 → Ignored (.lnSleepDone n rx) s)) ∧
    (x.txState = 3 → x.txHeld = none → x.txGoal < x.txFrom → x.txAt + 2 * wakeBound false x.txFrom ≤ upNs s → Gives (.lnWakeFail n false) s
      (raiseOwner (setLane s n { x with txState := 2, txSleep := 2, wakeFail := true }) (laneOwner s n) 0x0201 n.val 0)) ∧
    (x.rxState = 3 → x.rxHeld = none → x.rxGoal < x.rxFrom → x.rxAt + 2 * wakeBound true x.rxFrom ≤ upNs s → Gives (.lnWakeFail n true) s
      (raiseOwner (setLane s n { x with rxState := 2, rxSleep := 2, wakeFail := true }) (laneOwner s n) 0x0201 (n.val + 256) 0)) ∧
    (upNs s < x.txAt + 2 * wakeBound false x.txFrom → Ignored (.lnWakeFail n false) s) ∧ (upNs s < x.rxAt + 2 * wakeBound true x.rxFrom → Ignored (.lnWakeFail n true) s) ∧
    (wakeBound false 1 = 2000 ∧ wakeBound false 2 = 120000 ∧ wakeBound true 1 = 5000 ∧ wakeBound true 2 = 250000)

/-- Test patterns (R45 to R47): TX_MODE waits for the next frame start on a fronthaul lane and is refused where the other lane is silent; RX_CHK restarts
the checker; ERR_INJ inverts one bit of the next symbol while a pattern is generated, which generates that symbol (the model's choice: notes/assumptions/29.md; so is the polarity of PRBS31: 91.md); the checker compares both bits of each level with the pattern,
counts while locked, and locks after 64 symbols without error. -/
def Parts.TestPatternsAreSentAndChecked : Prop :=
  ∀ (n : Fin 80) (s : State),
    let x := getLane s n
    (∀ (who : Agent) (mode : Fin 4), mayTouch who (laneOwner s n) = true → mode.val ≠ 3 →
      mode.val = 0 ∨ (x.txState = 0 ∧ (txActive s n && otherSilent s n) = false) →
      Gives (.lnTxMode who n mode) s (done (setLane s n { x with txMode := mode, txModeNow := if n.val < 64 then x.txModeNow else mode.val }))) ∧
    (∀ (who : Agent) (chk : Fin 4), mayTouch who (laneOwner s n) = true → chk.val ≠ 3 →
      Gives (.lnRxChk who n chk) s (done (setLane s n { x with rxChk := chk, chkReg := 0, prbsLock := false, prbsGood := 0, prbsWin := [] }))) ∧
    (∀ who : Agent, mayTouch who (laneOwner s n) = true → x.txModeNow ≠ 0 → x.txState = 0 →
      let p := prbsNext x.txModeNow x.genReg
      Runs (.lnErrInj who n) s fun t => ∃ y, (y = pamLevel (!p.1) p.2.1 ∨ y = pamLevel p.1 (!p.2.1)) ∧
        t = done (setLane (takeFree s 1).2 n { x with errInj := x.errInj + 1, genReg := p.2.2, genSym := y })) ∧
    (∀ level : Fin 4, x.rxChk ≠ 0 → laneLive x = true →
      let p := prbsNext x.rxChk x.chkReg
      let a := lget (pamBits level) false 0
      let b := lget (pamBits level) false 1
      let wrong := b2n (p.1 != a) + b2n (p.2.1 != b)
      let w := ((wrong != 0) :: x.prbsWin).take 256
      let u := bumpBy (bumpBy s .lnPrbsBits n 2) .lnPrbsErr n wrong
      let g := if wrong = 0 ∧ prbsStuck x.rxChk x.chkReg = false then x.prbsGood + 1 else 0
      (x.prbsLock = true → Gives (.prbsSymbolRx n level) s
        (setLane u n (if (w.filter id).length ≥ 64 then { x with prbsLock := false, prbsGood := 0, prbsWin := [], chkReg := p.2.2 }
                      else { x with prbsWin := w, chkReg := p.2.2 }))) ∧
      (x.prbsLock = false → Gives (.prbsSymbolRx n level) s
        (setLane s n { x with prbsGood := g, prbsLock := g ≥ 64, prbsWin := [], chkReg := prbsShift (prbsShift x.chkReg a) b })))

/-- FEC lock (R37, R39, R44): the levels of a codeword are decoded; while locked every codeword is counted, a corrected one with its symbols, and its 514 payload symbols are handed on. On a fronthaul
lane eight uncorrectable ones in a row end the lock, and four correctable candidates in a row give it. On a backhaul lane three uncorrectable
ones or five missed alignment markers end it, and two markers in their place give it (the model's choice: notes/assumptions/28.md). -/
def Parts.CodewordsAreCountedWhileLocked : Prop :=
  ∀ (n : Fin 80) (s : State) (l : BitVec 5440) (am : Option Bool),
    let x := getLane s n
    let u := bump s .lnFecCw n
    laneLive x = true →
    (n.val < 64 →
      (∀ (w : List Nat) (k : Nat), fecWord l = some (w, k) → x.fecLock = true → Gives (.fecCodewordRx n l am) s
        (setLane (if k = 0 then u else bumpBy (bump u .lnFecCorr n) .lnFecSym n k) n { x with fecRun := 0, rxPay := w.take 514 })) ∧
      (fecDecode l = none → x.fecLock = true → x.fecRun + 1 < 8 → Gives (.fecCodewordRx n l am) s
        (setLane (bump u .lnFecUncorr n) n { x with fecRun := x.fecRun + 1, rxPay := (rxSymbols l).take 514 })) ∧
      (fecDecode l = none → x.fecLock = true → 8 ≤ x.fecRun + 1 → Runs (.fecCodewordRx n l am) s fun t =>
        (getLane t n).fecLock = false ∧ (getLane t n).fecRun = 0 ∧ (getRx t n).align = 0 ∧ (getRx t n).mf = false) ∧
      (∀ k : Nat, fecDecode l = some k → x.fecLock = false → x.fecRun + 1 < 4 →
        Gives (.fecCodewordRx n l am) s (setLane s n { x with fecRun := x.fecRun + 1 })) ∧
      (∀ k : Nat, fecDecode l = some k → x.fecLock = false → 4 ≤ x.fecRun + 1 → Runs (.fecCodewordRx n l am) s fun t =>
        (getLane t n).fecLock = true ∧ (getRx t n).align = if (getRx s n).align = 0 then 1 else (getRx s n).align) ∧
      (fecDecode l = none → x.fecLock = false → Gives (.fecCodewordRx n l am) s (setLane s n { x with fecRun := 0 }))) ∧
    (64 ≤ n.val →
      (x.fecLock = true → (fecDecode l = none ∧ 3 ≤ x.fecRun + 1) ∨ (am = some false ∧ 5 ≤ x.amRun + 1) →
        Runs (.fecCodewordRx n l am) s fun t => (getLane t n).fecLock = false ∧ ctrGet t .lnFecCw n = min (Counter.top .lnFecCw) (ctrGet s .lnFecCw n + 1)) ∧
      (x.fecLock = true → ¬ (fecDecode l = none ∧ 3 ≤ x.fecRun + 1) → ¬ (am = some false ∧ 5 ≤ x.amRun + 1) → x.amRun < 5 →
        Runs (.fecCodewordRx n l am) s fun t => (getLane t n).fecLock = true ∧ ctrGet t .lnFecCw n = min (Counter.top .lnFecCw) (ctrGet s .lnFecCw n + 1)) ∧
      (x.fecLock = false → am = some true → 2 ≤ x.amRun + 1 → Runs (.fecCodewordRx n l am) s fun t => (getLane t n).fecLock = true) ∧
      (x.fecLock = false → ¬ (am = some true ∧ 2 ≤ x.amRun + 1) → x.amRun < 2 → Runs (.fecCodewordRx n l am) s fun t => (getLane t n).fecLock = false))

/-- Light at a receiver (R36, R52, R72): an optical engine that has faulted shows no signal on any of its receive lanes, and light that goes takes
FEC lock, PRBS lock and alignment with it, at once (the model's choice: notes/assumptions/100.md). No register outside the lanes and the links of backhaul ports changes. -/
def Obligations.LossOfLightEndsEveryLock : Prop :=
  (∀ (n : Fin 80) (s : State) (present : Bool), Runs (.opticalSignalChange n present) s fun t =>
    (getLane t n).light = (present && !bit s.ln.oeFault (laneEngine n)) ∧
    ((getLane t n).light = false → (getLane t n).fecLock = false ∧ (getLane t n).prbsLock = false ∧ (n.val < 64 → (getRx t n).align = 0)) ∧
    (∀ k : Nat, k ≠ n.val → getLane t k = getLane s k ∧ getRx t k = getRx s k) ∧
    { t with ln := s.ln, bh := s.bh } = s) ∧
  (∀ (e : Fin 8) (s : State), Runs (.oeFault e) s fun t =>
    bit t.ln.oeFault e = true ∧
    (∀ k : Nat, k < 80 → laneEngine k = e.val → (getLane t k).light = false ∧ (getLane t k).fecLock = false ∧ (getLane t k).prbsLock = false ∧
      (k < 64 → (getRx t k).align = 0)) ∧
    (∀ k : Nat, k < 80 → laneEngine k ≠ e.val → getLane t k = getLane s k ∧ getRx t k = getRx s k) ∧
    { t with ln := s.ln, bh := s.bh } = s)

/-! ### The line frame (03_line_frame) -/

/-- Commands of a fronthaul port by its owner (R59, R81, R86): TX_AIS is taken; LO, FS and MS are recorded, FS and MS only where no lockout stands
and the lane named is not in signal fail (and, for MS, has no SD), else CMD_REJ (that only the local command is a lockout here is the model's choice: notes/assumptions/100.md); CMD = 0 clears; LANE is stored with every command; the thresholds and the packet flow are taken
where they are allowed and otherwise stay. -/
def Parts.PortCommandsOfTheOwner : Prop :=
  ∀ (who : Agent) (m : Fin 32) (s : State), mayTouch who (fhOwner s m) = true →
    let p := getFh s m
    (∀ on : Bool, Gives (.fhTxAis who m on) s (done (setFh s m { p with txAis := on }))) ∧
    (∀ l : Fin 2, Gives (.fhProtLockout who m l) s (done (setFh s m { p with cmd := 1, cmdLane := l }))) ∧
    (∀ l : Fin 2, Gives (.fhProtForcedSwitch who m l) s
      (done (setFh s m (if (laneFail s m l || p.cmd == 1) = true then { p with cmdRej := true } else { p with cmd := 2, cmdLane := l })))) ∧
    (∀ l : Fin 2, Gives (.fhProtManualSwitch who m l) s
      (done (setFh s m (if (laneFail s m l || hasDef s (2 * m.val + l.val) 5 || p.cmd == 1) = true then { p with cmdRej := true }
                        else { p with cmd := 3, cmdLane := l })))) ∧
    (∀ l : Fin 2, Gives (.fhProtClear who m l) s (done (setFh s m { p with cmd := 0, cmdLane := l }))) ∧
    (∀ val : BitVec 32,
      let sd := fld val.toNat 0 7
      let sf := fld val.toNat 8 7
      (0 < sd ∧ sd < sf ∧ sf ≤ 64 → Gives (.fhDegThrWrite who m val) s (done (setFh s m { p with sdThr := sd, sfThr := sf }))) ∧
      (sd = 0 ∨ sf ≤ sd ∨ 64 < sf → Gives (.fhDegThrWrite who m val) s (done s))) ∧
    (∀ val : BitVec 32,
      let ok := !bit val.toNat 31 || ownsFlow s ((fhOwner s m).getD 4) (fld val.toNat 0 18)
      (ok = true → Gives (.fhPktFlowWrite who m val) s
        (done (setFh s m { p with pktFlow := fld val.toNat 0 18, pktEn := bit val.toNat 31 }))) ∧
      (ok = false → Gives (.fhPktFlowWrite who m val) s (done s)))

/-- The framer and its slots (R66): the head of the egress buffer inside its window is sent in the next slot; an early one waits; a late one is
discarded and counted. Stated where no write is held. -/
def Parts.SlotsSendSectionsInsideTheirWindows : Prop :=
  ∀ (m : Fin 32) (s : State),
    let p := getFh s m
    let t := slotStamp p.txStart p.txSlot
    p.en = true → p.txOn = true → p.txSlot < 3332 → p.egWait = [] →
    (∀ e r, p.eg = e :: r → isLate t e.close = false → isEarly t e.open_ = false → p.aisNow = false → Runs (.fhSlotTx m) s fun u =>
      getFh u m = { p with eg := r, txSlot := p.txSlot + 1, txSecs := tset p.txSecs p.txSlot e.bytes } ∧ { u with fh := s.fh, ctr := s.ctr } = s ∧
      ∀ k bank, ctrGet s k bank ≤ Counter.top k → ctrGet u k bank = ctrGet s k bank) ∧
    (∀ e r, p.eg = e :: r → isLate t e.close = false → isEarly t e.open_ = true → Runs (.fhSlotTx m) s fun u =>
      getFh u m = { p with txSlot := p.txSlot + 1 } ∧ { u with fh := s.fh, ctr := s.ctr } = s ∧
      ∀ k bank, ctrGet s k bank ≤ Counter.top k → ctrGet u k bank = ctrGet s k bank) ∧
    (∀ e, p.eg = [e] → isLate t e.close = true → Runs (.fhSlotTx m) s fun u =>
      getFh u m = { p with eg := [], txSlot := p.txSlot + 1 } ∧
      ctrGet u .fhTxLate m = min (2 ^ 32 - 1) (ctrGet s .fhTxLate m + 1) ∧ { u with fh := s.fh, ctr := s.ctr } = s)

/-- What a frame start does to one lane of port `m` (R40 to R42, R57, R59): the gap that ends a frame in progress has n from the first unit boundary `u` at or
after the schedule, clamped to 0 to 2 and counted where it was clamped, and the next frame starts right after it; frame and gap leave as codewords of 514
payload symbols, and what fills none waits for the next (R37, R38); a lane that sends in traffic mode
starts its frame, with the alarm indication under TX_AIS; a lane that sleeps, wakes, is in PRBS mode or has no light sends none. -/
def Parts.LaneStartsItsFrame (m : Fin 32) (l : Fin 2) (u : Nat) (s t : State) : Prop :=
  let n := 2 * m.val + l.val
  let x := getLane s n
  let y := getLane t n
  let sends := x.txState = 0 ∧ x.txMode = 0 ∧ laneTxLight s n = true
  let oh := if l.val = 0 then (getFh t m).txOhW else (getFh t m).txOhP
  let on := (getFh s m).en
  y.txModeNow = x.txMode ∧ (getFh t m).aisNow = (getFh s m).txAis ∧
  (∀ e, x.unitEnd = some e →
    let k := (clampInt ((u : Int) - e - 48) 0 2).toNat
    let bs := sentFrame (getFh s m) l ++ y.gapOut
    y.gapN = k ∧ y.gapOut = (gapBytes k x.gapReg).1 ∧ y.gapReg = (gapBytes k x.gapReg).2 ∧
    (y.txCws, y.txRest) = cutCodewords bs.length (x.txRest ++ streamBits bs) ∧
    ctrGet t .lnRateOor n = min (2 ^ 32 - 1) (ctrGet s .lnRateOor n + b2n (e + 48 + k != u)) ∧
    (on = true → sends → y.unitStart = e + 48 + k)) ∧
  (x.unitEnd = none → y.gapN = x.gapN ∧ y.gapOut = x.gapOut ∧ y.gapReg = x.gapReg ∧ (on = true → sends → y.unitStart = u)) ∧
  (on = true → sends → y.unitEnd = some (y.unitStart + 12500) ∧ (getRx t n).rei = 0 ∧ ((getFh s m).txAis = true → oh = aisOverhead)) ∧
  (¬ (on = true ∧ sends) → y.unitEnd = none ∧ oh = [])

/-- Does a lane of port `m` start its frame: awake, in traffic mode, with light? -/
def Parts.LaneSendsNext (s : State) (m : Fin 32) (l : Nat) : Prop :=
  (getLane s (2 * m.val + l)).txState = 0 ∧ (getLane s (2 * m.val + l)).txMode = 0 ∧ laneTxLight s (2 * m.val + l) = true

/-- A frame start (R41, R42, R53, R57, R59): each lane ends its frame and starts the next; a port that is on numbers the frame by the time base and starts it
now, moved by the units of the lane that starts first where the clamp moved it (R63; the model's choice: notes/assumptions/32.md), at slot 0 with no
section; one that is off sends no frame. The time base does not move. -/
def Parts.FrameStartNumbersTheFrame : Prop :=
  ∀ (m : Fin 32) (unitW unitP : Nat) (s : State), CountersBounded s → Runs (.frameTxStart m unitW unitP) s fun t =>
    Parts.LaneStartsItsFrame m 0 unitW s t ∧ Parts.LaneStartsItsFrame m 1 unitP s t ∧ t.tu = s.tu ∧ t.now = s.now ∧
    ((getFh s m).en = false → (getFh t m).txOn = false) ∧
    ((getFh s m).en = true → (getFh t m).txOn = true ∧ (getFh t m).txNum = frameNow s ∧ (getFh t m).txSlot = 0 ∧ (getFh t m).txSecs = [] ∧
      let w : Int := (getLane t (2 * m.val)).unitStart - unitW
      let q : Int := (getLane t (2 * m.val + 1)).unitStart - unitP
      let at_ := fun d : Int => ((s.now : Int) + d * 1280 / 1028).toNat % 2 ^ 32
      let W := Parts.LaneSendsNext s m 0
      let Q := Parts.LaneSendsNext s m 1
      (W ∧ Q → (getFh t m).txStart = at_ (min w q)) ∧ (W ∧ ¬ Q → (getFh t m).txStart = at_ w) ∧ (¬ W ∧ Q → (getFh t m).txStart = at_ q) ∧
      (¬ W ∧ ¬ Q → (getFh t m).txStart = nsCounter s))

/-- Windows (R27, R28): a write of a stream entry whose window has int32(close - open) at 0 or below at some tick on which a symbol of its carrier starts is refused: it is counted in TICK_WIN_REJ and the window in force stays. -/
def Obligations.InvalidWindowsAreRefused : Prop :=
  ∀ (who : Agent) (m : Fin 32) (a : Fin 1024) (val : BitVec 32) (s : State), mayTouch who (fhOwner s m) = true → bit val.toNat 0 = true →
    let c := streamCfg (getStream s m a).raw val.toNat
    (∃ k, k < ticksPerHalf s.tu.mu ∧ k % (if c.mu < s.tu.mu then 2 ^ (s.tu.mu - c.mu) else 1) = 0 ∧
      int32 (startRel s.tu.mu ((k : Int) + c.tClose) + c.nClose) (startRel s.tu.mu ((k : Int) + c.tOpen) + c.nOpen) ≤ 0) →
    Runs (.streamEntryWrite who m a val) s fun t => t = done (bump s .tickWinRej ((fhOwner s m).getD 4)) ∧ getStream t m a = getStream s m a

/-- Downlink software accesses (R62, R65): a stream entry is taken when it is not VALID or passes its checks, and otherwise stays with a count of
TICK_WIN_REJ; a stream write to the egress aperture waits while the buffer is full, and else is checked and queued. -/
def Parts.StreamTableAndEgressWrites : Prop :=
  ∀ (who : Agent) (m : Fin 32) (s : State), mayTouch who (fhOwner s m) = true →
    (∀ (a : Fin 1024) (val : BitVec 32),
      let x := getStream s m a
      ((bit val.toNat 0 = false ∨ streamOk s x.raw val.toNat = true) →
        Gives (.streamEntryWrite who m a val) s (done (setStream s m a { x with cfg := streamCfg x.raw val.toNat }))) ∧
      (bit val.toNat 0 = true → streamOk s x.raw val.toNat = false →
        Gives (.streamEntryWrite who m a val) s (done (bump s .tickWinRej ((fhOwner s m).getD 4))))) ∧
    (∀ bytes : List Byte, 4096 ≤ (getFh s m).eg.length → Gives (.fhEgressWrite who m bytes) s
      (done (setFh s m { getFh s m with egWait := (getFh s m).egWait ++ [bytes] }))) ∧
    (∀ bytes : List Byte, (getFh s m).eg.length < 4096 → (getFh s m).egWait = [] →
      let h := secHdr (withHcrc bytes)
      let c := (getStream s m h.acid).cfg
      let w := streamWindow s c (nearSym (carrierSym s c.mu s.now) h.sym)
      (bytes.length = 64 → fitsStream h c true = true → Gives (.fhEgressWrite who m bytes) s (done (setFh s m { getFh s m with
        eg := (getFh s m).eg ++ [{ bytes := withHcrc bytes, open_ := ofInt w.1 32, close := ofInt w.2 32 }] }))) ∧
      (bytes.length ≠ 64 ∨ fitsStream h c true = false → Gives (.fhEgressWrite who m bytes) s (done (bump s .fhTxFmt m))))

/-- The aligner (R43, R69, R70). In SEARCH a readable gap after a candidate dictates where its next FAW must stand, an unreadable one drops it; a FAW at an
untried position opens a candidate while fewer than four are held. In IF a readable gap is kept; a FAW at the one position that the gap
dictates begins the next frame, whose start the port notes if it is the first copy to begin (R63); after a fourth miss in a row the lane is back in SEARCH. -/
def Parts.AlignerSearchesAndKeepsFrames : Prop :=
  ∀ (n : Fin 64) (pos : Nat) (s : State),
    let r := getRx s n
    (∀ hdr k, r.align = 1 → (r.cands.any fun c => c.pos == pos) = true → gapRead hdr = some k → Gives (.gapHeaderRx n pos hdr) s
      (setRx s n { r with cands := r.cands.map fun c => if c.pos == pos then { c with expect := some (pos + 1606144 + 128 * k) } else c })) ∧
    (∀ hdr, r.align = 1 → (r.cands.any fun c => c.pos == pos) = true → gapRead hdr = none → Gives (.gapHeaderRx n pos hdr) s
      (bump (setRx s n { r with cands := r.cands.filter fun c => c.pos != pos }) .lnGapErr n)) ∧
    (∀ hdr k, r.align = 2 → r.pos = pos → gapRead hdr = some k → Gives (.gapHeaderRx n pos hdr) s
      (setRx s n { r with gap := some k, lastGap := k })) ∧
    (∀ hits oh, r.align = 1 → (r.cands.find? fun c => c.expect == some pos) = none → pos ∈ hits → (∀ c ∈ r.cands, c.pos ≠ pos) →
      r.cands.length < 4 → Gives (.fawMatch n pos hits oh) s
      (setRx s n { r with cands := r.cands ++
        [{ pos := pos, sight := 1, expect := none, nums := [if ohGood oh = true then some (ohNum oh) else none] }] })) ∧
    (∀ hits oh k, r.align = 2 → r.inProg = false → r.gap = some k → r.pos + 1606144 + 128 * k ∈ hits → Gives (.fawMatch n pos hits oh) s
      (setRx (noteStart s n (nextNum r.fw) r.mf) n { r with
        pos := r.pos + 1606144 + 128 * k, gap := none, miss := 0, missed := false, inProg := true, began := r.mf
        fw := nextNum r.fw, tFaw := nsCounter s })) ∧
    (∀ hits oh k, r.align = 2 → r.inProg = false → r.gap = some k → r.pos + 1606144 + 128 * k ∉ hits → 3 ≤ r.miss →
      Gives (.fawMatch n pos hits oh) s (setRx s n { alignDown r with align := 1 }))

/-- A received copy (R55 to R57, R71, R73): the frame in progress ends, its parity is kept for the next overhead, the flywheel follows R71, and where
the frame began in MF_LOCK, the port is on (R86) and the frame is not older than the next release (unless every lane was lost at the last one), a copy descrambled under the flywheel's number stands in the lane's deskew
buffer, failed for any ground of R73. Only the lane, the port and counters change. -/
def Parts.ReceivedCopyEntersTheDeskewBuffer : Prop :=
  ∀ (n : Fin 64) (bytes : List Byte) (unc : Bool) (s : State),
    let r := getRx s n
    let oh := bytes.take 80
    let p := getFh s (n.val / 2)
    r.align = 2 → r.inProg = true → (∀ f, p.nextF = some f → p.lost = false → 0 ≤ numDist r.fw f) →
    Runs (.lineFrameRx n bytes unc) s fun t =>
      let r' := getRx t n
      let failed := !r.began || !r'.mf || r.missed || ohAis oh || unc || !laneLive (getLane s n)
      r'.inProg = false ∧ r'.prevBip = some (bip8 (bytes.drop 80)) ∧ r'.mf = (mfUpdate r (ohGood oh) (ohNum oh)).mf ∧
      r'.aisRun = (if ohAis oh = true then (mfUpdate r (ohGood oh) (ohNum oh)).aisRun + 1 else 0) ∧ r'.pend = some failed ∧
      (r.began = true → p.en = true → (copiesOf (getFh t (n.val / 2)) (n.val % 2)).getLast? = some
        { num := r.fw, tFaw := r.tFaw, failed := failed, errored := failed, good := ohGood oh, oh := oh,
          pay := scramble (scrSeed r.fw) (bytes.drop 80) }) ∧
      (ohGood oh = false → t.ctr = (bump s .fhLnOhcrc n).ctr) ∧ { t with ln := s.ln, fh := s.fh, ctr := s.ctr } = s

/-- A release (R78, R79, R83, R84): the frame due is released from the lane of the effective request, a change of lane is counted, the copies up to that
frame leave both deskew buffers, and the next frame is one on. -/
def Parts.ReleaseFollowsTheEffectiveRequest : Prop :=
  ∀ (m : Fin 32) (nOver : Fin 4) (s : State),
    let p := getFh s m
    let f := frameDue s m
    let w := copyOf p 0 f
    let q := copyOf p 1 f
    let lead := leadStamp p f
    let locked := (getRx s (2 * m.val)).mf || (getRx s (2 * m.val + 1)).mf
    let u := cancelCmds (setFh s m { p with
      failW := !usable w, failP := !usable q, psf := !usable w && !usable q
      written := p.written.filter fun e => !isLate (lead.getD (nsCounter s)) e.close
      lost := w.isNone && q.isNone && (upFrom 0 2).all fun l => !(getRx s (2 * m.val + l)).mf
      remote := if locked then p.remote else none, srRun := if locked then p.srRun else 0 }) m
    p.en = true → laneReady s m 0 f lead = true → laneReady s m 1 f lead = true →
    Runs (.fhFrameRelease m nOver) s fun t =>
      (getFh t m).sel = (effReq u m).2 ∧ (getFh t m).nextF = some (nextNum f) ∧ (getFh t m).relNum = some f ∧
      (getFh t m).failW = !usable w ∧ (getFh t m).failP = !usable q ∧ (getFh t m).psf = (!usable w && !usable q) ∧
      (∀ c ∈ (getFh t m).copiesW ++ (getFh t m).copiesP, 0 < numDist c.num f) ∧
      (∀ e ∈ (getFh t m).starts, 0 < numDist e.1 f) ∧ t.tu = s.tu ∧ t.now = s.now

/-- A frame period's evaluation (R74, R75): the error count of the period is taken, and where the receiver is not awake the seven defects and their integrators are clear;
the performance seconds of a port stay where the oldest ended less than ten seconds ago (R77). -/
def Parts.DefectsAndPerformanceSeconds : Prop :=
  (∀ (m : Fin 32) (s : State), Runs (.defectEval m) s fun t =>
    (∀ l : Nat, l < 2 → (getRx t (2 * m.val + l)).errCnt = 0 ∧ (getRx t (2 * m.val + l)).got = false) ∧
    (∀ l : Nat, l < 2 → (getLane s (2 * m.val + l)).rxState ≠ 0 → (getRx t (2 * m.val + l)).defs = 0 ∧
      (getRx t (2 * m.val + l)).setRun = [0, 0, 0, 0, 0, 0, 0] ∧ (getRx t (2 * m.val + l)).clrRun = [0, 0, 0, 0, 0, 0, 0]) ∧
    (getFh t m).sel = (getFh s m).sel ∧ t.tu = s.tu ∧ t.now = s.now ∧ t.mem = s.mem) ∧
  (∀ (m : Fin 32) (s : State) (r : PerfSec) (rest : List PerfSec), (getFh s m).secs = r :: rest → (r.sec + 11) * 1000000000 ≤ s.now →
    (getFh s m).unavail = false → rest.length < 9 → Runs (.perfSecondCommit m) s fun t =>
      (getFh t m).secs = rest ∧ (getFh t m).unavail = false ∧
      ctrGet t .fhPes m = min (2 ^ 32 - 1) (ctrGet s .fhPes m + b2n (r.errs != 0 || r.raw)) ∧
      ctrGet t .fhPses m = min (2 ^ 32 - 1) (ctrGet s .fhPses m + b2n (decide (19200 ≤ r.errs) || r.setd)) ∧
      { t with ln := s.ln, fh := s.fh, ctr := s.ctr } = s)

/-! ### Gain groups and the Nose (04_gain_and_nose) -/

/-- A tick's measurement of a group (R88 to R90, R97): before the windows of its members for the tick have closed nothing happens. Then a group that is fixed,
or without elements in the tick, or in a tick before its latest step took effect or its latest fix ended (the model's choice: notes/assumptions/37.md),
keeps its level; else the filters and the level move, and an enabled, fault-free group with no command pending whose new ATT differs issues one
command, at LEAD or more ticks on. ATT itself changes only at the effective tick. -/
def Obligations.GainLoopCommandsAStep : Prop :=
  ∀ (g : Fin 256) (tick : BitVec 21) (s : State),
    let x := getGrp s g
    let k := tick.toNat
    let y := { x with filt := newFilters x k, lvl := maxFracs ((measured x k).map fun m => tget (newFilters x k) {} m), lastMeas := some k }
    let a := newAtt y (decideStep s y k)
    (measClosed s x k = false → Ignored (.gcMeasureComplete g tick) s) ∧
    (measClosed s x k = true → x.lastMeas = some k ∨ x.fix.isSome = true ∨ countOf s k < x.since ∨ (measured x k).isEmpty = true →
      Gives (.gcMeasureComplete g tick) s (setGrp s g { pruneAcc s x with lastMeas := some k })) ∧
    (measClosed s x k = true → x.lastMeas ≠ some k → (measured x k).isEmpty = false → x.fix = none → x.since ≤ countOf s k →
      (x.en && !x.fault && (cmdPending x).isNone && a != x.att) = false → Gives (.gcMeasureComplete g tick) s (setGrp s g (pruneAcc s y))) ∧
    (measClosed s x k = true → x.lastMeas ≠ some k → (measured x k).isEmpty = false → x.fix = none → x.since ≤ countOf s k →
      (x.en && !x.fault && (cmdPending x).isNone && a != x.att) = true → Runs (.gcMeasureComplete g tick) s fun t => ∃ c : GcCmd,
        (getGrp t g).cmds = x.cmds ++ [c] ∧ c.att = a ∧ c.old = x.att ∧ c.kAt = effTick s x ∧ c.acks = [] ∧ c.eff = false ∧ c.restore = false ∧ c.cxl = false ∧
        (getGrp t g).att = x.att ∧ (getGrp t g).lvl = y.lvl ∧ ctrGet t .gcSteps g = min (2 ^ 32 - 1) (ctrGet s .gcSteps g + 1) ∧
        (∀ h : Nat, h ≠ g.val → getGrp t h = getGrp s h) ∧ { t with gc := s.gc, fh := s.fh, ctr := s.ctr } = s)

/-- The check of acknowledgements (R91, R96): while no command has reached start(k) + GC_ACK_WAIT nothing is checked. Then the oldest one that has
leaves. One that a replacement cancelled raises its GC_STEP (the model's choice: notes/assumptions/37.md), with COH = 1 only where every range had
answered. Else, with every range's ACCEPTED, GC_STEP goes to the group's flow with COH; a miss counts, raises GC_INCOH and GC_STEP without COH, and,
unless a third restore in a row failed or the group is in FAULT (which leaves issued commands: 37.md), a restore of the latest ATT. -/
def Parts.AcknowledgementsAreChecked : Prop :=
  ∀ (g : Fin 256) (s : State),
    let x := getGrp s g
    let due := fun c : GcCmd => decide (startOf s ((absTick s : Int) + c.kAt - s.tu.count) + (s.gc.ackWait : Int) ≤ s.now)
    (x.cmds.find? due = none → Ignored (.gcAckCheck g) s) ∧
    ∀ c : GcCmd, x.cmds.find? due = some c →
    let r := x.cmds.erase c
    let bad := if c.restore then x.badRestores + 1 else x.badRestores
    (c.cxl = true → Gives (.gcAckCheck g) s (gcStepItem (setGrp s g { x with cmds := r }) g c (missingAcks c == 0))) ∧
    (c.cxl = false → missingAcks c = 0 → Gives (.gcAckCheck g) s
      (gcStepItem (setGrp s g { x with cmds := r, badRestores := if c.restore then 0 else x.badRestores }) g c true)) ∧
    (c.cxl = false → missingAcks c ≠ 0 →
      let u := gcStepItem (raiseOwner (bump (setGrp s g { x with cmds := r, badRestores := bad }) .gcNoack g)
        (gainOwner s g) 0x0400 (g.val + missingAcks c * 256) c.k) g c false
      (c.restore = true → 3 ≤ bad → Runs (.gcAckCheck g) s fun t => (getGrp t g).fault = true ∧ (getGrp t g).cmds = r) ∧
      (¬(c.restore = true ∧ 3 ≤ bad) → x.fault = true → Gives (.gcAckCheck g) s u) ∧
      (¬(c.restore = true ∧ 3 ≤ bad) → x.fault = false → Gives (.gcAckCheck g) s (issueCmd u g x.lastAtt (effTick u x) true)))

/-- GC_GRP_CFG0 and the end of a fix (R97, R106): the fields are taken, STEP_MAX at least 1 and LEAD at least 2, EN = 0 clears FAULT; at the start of the
tick after its fix end a group leaves FIXED and its filters start afresh, and not before. -/
def Parts.GroupRegisterAndFixEnd : Prop :=
  ∀ (g : Fin 256) (s : State),
    let x := getGrp s g
    (∀ (who : Agent) (val : BitVec 32), mayTouch who (gainOwner s g) = true → Runs (.gcGrpCfg0Write who g val) s fun t =>
      let y := getGrp t g
      y.en = bit val.toNat 0 ∧ y.target = sx (fld val.toNat 8 8) 8 ∧ y.hyst = fld val.toNat 16 4 ∧ y.stepMax = max 1 (fld val.toNat 20 5) ∧
      y.lead = max 2 (fld val.toNat 25 5) ∧ y.tail = fld val.toNat 30 2 ∧ (y.en = false → y.fault = false) ∧ y.att = x.att ∧ y.cmds = x.cmds ∧
      y.fix = x.fix ∧ { t with gc := s.gc, answer := s.answer } = s) ∧
    (∀ f, x.fix = some f → f.stop < s.tu.count → Gives (.gcFixEnd g) s (setGrp s g { x with fix := none, ref := {}, filt := [], since := f.stop + 1 })) ∧
    (∀ f, x.fix = some f → s.tu.count ≤ f.stop → Gives (.gcFixEnd g) s s) ∧
    (x.fix = none → Gives (.gcFixEnd g) s s)

/-- Sightings (R97, R98, R102, R105). At the tick after the sighting span of an occasion of a valid context, a metric at or above THR (the model's choice:
notes/assumptions/101.md), of a preamble and frequency index that the context searches, fixes the group, free
of another fix, at its present level until the burst's end plus TAIL; a pending command that starts too soon to cancel, or in a group in FAULT, goes
ahead and marks GSTEP, another is replaced by one for the ATT in force. A sighting of an occasion that already holds the fix, or of a fix in its
tail, shares it; one that overlaps a burst of the fix captures it where the level and saturation pass, and is reported as overlapped elsewhere (of bursts
of one occasion and of a tail the model chooses: 39.md). Anything else is no sighting. -/
def Parts.SightingsFixTheGroup : Prop :=
  ∀ (ctx : Fin 256) (pre : Fin 64) (fo : Fin 8) (start : BitVec 21) (delay : BitVec 24) (pwr metric noise : BitVec 16) (s : State),
    let x := getCtx s ctx
    let n := start.toNat
    let g := x.cfg.grp
    let u := settleFix s g
    let y := getGrp u g
    let b := mkBurst u ctx pre fo n (endTick u x.cfg n) delay.toNat pwr metric noise y.att
    let sees := x.cfg.valid && isOccasion s x.cfg n && sightTick s x.cfg n == absTick s && pre.val < x.cfg.npre && fo.val < x.cfg.nfdm &&
      passesThr x.cfg metric.toNat
    let v := setCtx u ctx { x with sighted := liveBursts u x.sighted ++ [b], stopped := liveBursts u x.stopped }
    let fixed := { y with
      fix := some { ref := y.lvl, stop := b.upto + y.tail, by_ := [b] }, ref := y.lvl
      gstep := y.gstep.filter fun k => s.tu.count < k + ticksPerCycle s.tu.mu / 2 }
    let late := fun c : GcCmd => startOf s ((absTick s : Int) + c.kAt - s.tu.count) < (s.now : Int) + s.gc.cxlMin ∨ y.fault = true
    let mine := fun f : GcFix => f.by_.any fun w => w.ctx == ctx.val && w.since == b.since
    let outlived := fun f : GcFix => f.by_.any fun w => decide (s.tu.count ≤ w.upto)
    let k := tickNo u (u.tu.count - 1)
    let takes := fun f : GcFix => fracLt (fracOf (8 * u.gc.margin)) (fracSub (fracOf (tickLevel y k)) f.ref) = true ∧
      u.gc.satThr * (tickSat y k).2 ≤ (tickSat y k).1 * 1024
    let row := Instr.nsEarlySighting ctx pre fo start delay pwr metric noise
    (sees = false → Ignored row s) ∧
    (sees = true → y.fix = none → pendingCmds y = [] → Gives row s (setGrp v g fixed)) ∧
    (∀ c, sees = true → y.fix = none → pendingCmds y = [c] → s.tu.count < c.kAt → late c →
      Gives row s (setGrp v g { fixed with gstep := fixed.gstep ++ [c.kAt] })) ∧
    (∀ c, sees = true → y.fix = none → pendingCmds y = [c] → s.tu.count < c.kAt → ¬ late c →
      Gives row s (issueCmd (setGrp v g { fixed with cmds := y.cmds.map fun d => if d = c then { d with cxl := true } else d }) g y.att c.kAt false)) ∧
    (∀ f, sees = true → y.fix = some f → mine f = true ∨ outlived f = false → Gives row s
      (setGrp v g { y with fix := some { f with stop := max f.stop (b.upto + y.tail), by_ := f.by_ ++ [b] } })) ∧
    (∀ f, sees = true → y.fix = some f → mine f = false → outlived f = true → takes f → Gives row s (capture v g f b (tickLevel y k))) ∧
    (∀ f, sees = true → y.fix = some f → mine f = false → outlived f = true → ¬ takes f →
      Gives row s (bump (nsWrite (stopBurst v b) b 2) .nsOvl (ctx.val / 128)))

/-- Reports (R102, R104, R105). The final decision on a burst of an occasion of a valid context, in its time (the model's choice: notes/assumptions/39.md): a metric at or above THR (the model's choice:
notes/assumptions/101.md) is written as detected, with the
ATT noted at the sighting, and counted; one that was sighted and fails is written as not confirmed and counted, and no longer holds the fix, which
ends with the current tick where it alone held it; a burst whose search stopped has had its report and only leaves the list; nothing else is written. -/
def Parts.ReportsFollowTheDecision : Prop :=
  ∀ (ctx : Fin 256) (pre : Fin 64) (fo : Fin 8) (start : BitVec 21) (delay : BitVec 24) (pwr metric noise : BitVec 16) (s : State),
    let x := getCtx s ctx
    let y := getGrp s x.cfg.grp
    let same := fun (w : Burst) => w.pre == pre.val && w.fo == fo.val && w.since == countOf s start.toNat
    let at_ := x.cfg.valid && isOccasion s x.cfg start.toNat && pre.val < x.cfg.npre && fo.val < x.cfg.nfdm && reportTime s x.cfg start.toNat
    let seen := x.sighted.find? same
    let b := mkBurst s ctx pre fo start.toNat (endTick s x.cfg start.toNat) delay.toNat pwr metric noise ((seen.map fun w => w.att).getD y.att)
    let u := setCtx s ctx { x with sighted := x.sighted.filter fun w => !same w }
    let row := Instr.nsReport ctx pre fo start delay pwr metric noise
    (at_ = false → Ignored row s) ∧
    (at_ = true → x.stopped.any same = true → Gives row s (setCtx s ctx { x with stopped := x.stopped.filter fun w => !same w })) ∧
    (at_ = true → x.stopped.any same = false → passesThr x.cfg metric.toNat = true → Gives row s (bump (nsWrite u b 0) .nsDet (ctx.val / 128))) ∧
    (at_ = true → x.stopped.any same = false → passesThr x.cfg metric.toNat = false → seen = none → Gives row s u) ∧
    (at_ = true → x.stopped.any same = false → passesThr x.cfg metric.toNat = false → seen ≠ none →
      let v := bump (nsWrite u b 3) .nsEarlyFalse (ctx.val / 128)
      let z := getGrp v x.cfg.grp
      (y.fix = none → Gives row s v) ∧
      (∀ f, y.fix = some f → (f.by_.any fun w => w.ctx == ctx.val && same w) = false → Gives row s v) ∧
      (∀ f, y.fix = some f → (f.by_.any fun w => w.ctx == ctx.val && same w) = true →
        let l := f.by_.filter fun w => !(w.ctx == ctx.val && same w)
        Gives row s (setGrp v x.cfg.grp { z with fix := some { f with by_ := l, stop := if l.isEmpty then v.tu.count else f.stop } })))

/-- A Nose context's descriptor (R100): one that is not VALID is taken as it is (the model's choice: notes/assumptions/40.md); a VALID one is taken if it is acceptable, from SEQNO 0 where the context
was not valid, and refused otherwise. -/
def Parts.ContextDescriptorsAreCheckedWhole : Prop :=
  ∀ (who : Agent) (ctx : Fin 256) (val : BitVec 32) (s : State), mayTouch who (noseOwner s ctx) = true →
    let x := getCtx s ctx
    let c := ctxCfg x.raw val.toNat
    (bit val.toNat 0 = false → Gives (.nsCtxWrite who ctx val) s (done (setCtx s ctx { x with cfg := c }))) ∧
    (bit val.toNat 0 = true → ctxOk s ctx ((noseOwner s ctx).getD 4) c = true → x.cfg.valid = true →
      Gives (.nsCtxWrite who ctx val) s (done (setCtx s ctx { x with cfg := c }))) ∧
    (bit val.toNat 0 = true → ctxOk s ctx ((noseOwner s ctx).getD 4) c = true → x.cfg.valid = false →
      Gives (.nsCtxWrite who ctx val) s (done (setCtx s ctx { x with cfg := c, seqno := 0, sighted := [], stopped := [], loss := [] }))) ∧
    (bit val.toNat 0 = true → ctxOk s ctx ((noseOwner s ctx).getD 4) c = false → Gives (.nsCtxWrite who ctx val) s (done s))

/-! ### The scalar base of the cores (05_harzar_base) -/

/-- Scalar instructions that compute into one register (R112 to R115): with an operation that its table lists, the result reaches rd (which discards it
if it is g0), and the instruction retires: nothing else changes but pc, INSTRET and the loop state of R170. -/
def Parts.ScalarResultsReachTheirRegister : Prop :=
  ∀ (c : Fin 112) (rd rs1 rs2 : BitVec 5) (s u : State), Fetches s c u →
    let x := getCore u c
    let a := gRead x rs1.toNat
    let b := gRead x rs2.toNat
    let put := fun v => retire (setCore u c (gWrite x rd.toNat v)) c x.pc
    (∀ (f : BitVec 11) (v : Word), aluOp f.toNat a b = some v → aluUnary f.toNat = false ∨ rs2 = 0 → Gives (.integerAlu c 1 rd rs1 rs2 f) s (put v)) ∧
    (∀ (f : BitVec 11) (v : Word), mulOp f.toNat a b = some v → Gives (.multiplyDivide c rd rs1 rs2 f) s (put v)) ∧
    (∀ (op : Fin 8) (imm : BitVec 16) (v : Word), immOp op.val a imm.toNat = some v → Gives (.immediateAlu c op rd rs1 imm) s (put v)) ∧
    (∀ (q : Fin 4) (imm : BitVec 16), Gives (.insh c q rd rs1 imm) s
      (put ((a &&& ~~~(BitVec.ofNat 64 (0xFFFF * 2 ^ (16 * q.val)))) ||| BitVec.ofNat 64 (imm.toNat * 2 ^ (16 * q.val))))) ∧
    (∀ imm : BitVec 16, rs1 = 0 → Gives (.pcrel c rd rs1 imm) s (put (x.pc + w64 (sx imm.toNat 16 * 65536))))

/-- What some results are (R112 to R115): sums and differences wrap, the saturating ones clamp, CLZ of 0 is 64, a quotient by 0 saturates towards the sign of
the dividend, a remainder by 0 is the dividend, and the one quotient that overflows saturates. -/
def Parts.ArithmeticCorners : Prop :=
  ∀ a b : Word,
    aluOp 0x000 a b = some (a + b) ∧ aluOp 0x001 a b = some (a - b) ∧ aluOp 0x006 a b = some (a <<< (b.toNat % 64)) ∧
    aluOp 0x018 0 b = some 64 ∧ aluOp 0x019 0 b = some 64 ∧ (a.toInt < b.toInt → aluOp 0x00A a b = some 1) ∧ (b.toInt ≤ a.toInt → aluOp 0x00A a b = some 0) ∧
    (2 ^ 63 ≤ a.toInt + b.toInt → aluOp 0x020 a b = some 0x7FFFFFFFFFFFFFFF) ∧ (a.toInt + b.toInt < -(2 ^ 63) → aluOp 0x020 a b = some 0x8000000000000000) ∧
    (-(2 ^ 63) ≤ a.toInt + b.toInt ∧ a.toInt + b.toInt < 2 ^ 63 → aluOp 0x020 a b = some (a + b)) ∧
    (0 ≤ a.toInt → mulOp 0x008 a 0 = some 0x7FFFFFFFFFFFFFFF) ∧ (a.toInt < 0 → mulOp 0x008 a 0 = some 0x8000000000000000) ∧
    mulOp 0x009 a 0 = some 0xFFFFFFFFFFFFFFFF ∧ mulOp 0x00A a 0 = some a ∧ mulOp 0x00B a 0 = some a ∧
    mulOp 0x008 0x8000000000000000 0xFFFFFFFFFFFFFFFF = some 0x7FFFFFFFFFFFFFFF ∧ mulOp 0x00A 0x8000000000000000 0xFFFFFFFFFFFFFFFF = some 0

/-- Jumps, calls and branches (R112): pc goes to the target, CALL and CALLR link pc + 4, and a branch whose condition fails goes on in order. -/
def Parts.JumpsCallsAndBranches : Prop :=
  ∀ (c : Fin 112) (rs : BitVec 5) (off : BitVec 21) (s u : State), FetchesOffEnd s c u →
    let x := getCore u c
    let target := x.pc + w64 (4 * sx off.toNat 21)
    (rs = 0 → Gives (.jmp c rs off) s (setCore u c { x with pc := target, instret := x.instret + 1 })) ∧
    Gives (.call c rs off) s (setCore u c { gWrite x rs.toNat (x.pc + 4) with pc := target, instret := x.instret + 1 }) ∧
    (∀ (rd : BitVec 5) (imm : BitVec 16), Gives (.callr c rd rs imm) s (setCore u c { gWrite x rd.toNat (x.pc + 4) with
      pc := (gRead x rs.toNat + w64 (sx imm.toNat 16)) &&& ~~~(3 : Word), instret := x.instret + 1 })) ∧
    (∀ cond : Fin 6, branchTaken cond.val (gRead x rs.toNat) = true →
      Gives (.branch c cond rs off) s (setCore u c { x with pc := target, instret := x.instret + 1 })) ∧
    (∀ cond : Fin 6, branchTaken cond.val (gRead x rs.toNat) = false → Gives (.branch c cond rs off) s (retire u c x.pc))

/-- Loads, stores and atomics (R116, R117): where the access itself succeeds, a load brings the bytes, sign- or zero-extended, to rt; a store leaves registers
alone; an atomic brings the old value, sign-extended, to rd. The address is g[rb] + sext(off12) × size, or g[rs1]. -/
def Parts.LoadsStoresAndAtomics : Prop :=
  ∀ (c : Fin 112) (s u v : State), Fetches s c u →
    let x := getCore u c
    (∀ (rt rb : BitVec 5) (fn : BitVec 4) (off : BitVec 12) (bs : List Byte), fn.toNat ≤ 6 →
      let n := 2 ^ (fn.toNat % 4)
      coreLoad u c (mAddr x rb.toNat off.toNat n) n n = .done bs v →
      Gives (.load c rt rb fn off) s (retire (setCore v c (gWrite (getCore v c) rt.toNat
        (if fn.toNat < 4 then w64 (sx (ofLe bs) (8 * n)) else BitVec.ofNat 64 (ofLe bs)))) c x.pc)) ∧
    (∀ (rt rb : BitVec 5) (fn : BitVec 4) (off : BitVec 12) (bs : List Byte), fn.toNat ≤ 3 →
      let n := 2 ^ (fn.toNat % 4)
      coreStore u c (mAddr x rb.toNat off.toNat n) n (leBytes (gRead x rt.toNat).toNat n) = .done bs v →
      Gives (.store c rt rb fn off) s (retire v c x.pc)) ∧
    (∀ (rd rs1 rs2 : BitVec 5) (f : BitVec 11) (w : State) (pa attr old : Nat), f.toNat < 128 → f.toNat % 16 ≤ 9 →
      let n := if bit f.toNat 4 then 8 else 4
      storeCheck u c (gRead x rs1.toNat).toNat n n = (.ok (pa, attr), v) → inRegs pa = false →
      let v' := if attr = 0 then discardLine (cleanLine v c pa) c pa else v
      memAtomic v' (corePart v' c) pa n (f.toNat % 16) (gRead x rs2.toNat).toNat (gRead x rd.toNat).toNat = (0, old, w) →
      Gives (.atomic c rd rs1 rs2 f) s (retire (setCore w c (gWrite (getCore w c) rd.toNat (w64 (sx old (8 * n))))) c x.pc))

/-- Does no upset of a page that is kept without protection lie under a staged copy (R264, R276)? One that does shows when the copy leaves. -/
def Parts.NoHiddenUpset (s : State) : Prop := ∀ ch page i : Nat, (getPage s ch page).t = 0 → i ∈ (getPage s ch page).flips → 16384 ≤ i

/-- A scalar store of a Chisel core writes exactly its bytes (R116, R128): with an aligned address in memory that it may write and that takes the write, the
bytes from the address on are the low bytes of rt, every other byte of memory is as before (no upset of an unprotected page lies hidden under a staged
copy), and so are the core's registers. -/
def Parts.StoreWritesExactlyItsBytes : Prop :=
  ∀ (c : Fin 112) (rt rb : BitVec 5) (fn : BitVec 4) (off : BitVec 12) (s u : State), Fetches s c u → isChisel c = true → fn.toNat ≤ 3 →
    let x := getCore u c
    let n := 2 ^ (fn.toNat % 4)
    let a := mAddr x rb.toNat off.toNat n
    let bs := leBytes (gRead x rt.toNat).toNat n
    Parts.NoHiddenUpset s → a % n = 0 → inRegs a = false → regionsAllow x c 7 a n = true → (memWrite u (corePart u c) a bs).1 = 0 →
    Runs (.store c rt rb fn off) s fun t =>
      (∀ i, i < n → byteAt t (a + i) = BitVec.ofNat 8 ((gRead x rt.toNat).toNat / 256 ^ i)) ∧
      (∀ b, b < a ∨ a + n ≤ b → byteAt t b = byteAt s b) ∧
      (∀ i, gRead (getCore t c) i = gRead x i) ∧ (getCore t c).pl = x.pl ∧ (getCore t c).instret = x.instret + 1

/-- Traps of instructions (R118, R125, R126): SYSCALL, BPT, an illegal word and a misaligned load at EXL = 0 save the instruction's address, set cause and value, save IE
and PL, and go on at HZ_TVEC at level S; at EXL = 1 the core stops. A word whose major, funct or sub no table lists is illegal. The Rasp instructions issued behind it are killed (R179). -/
def Parts.InstructionTraps : Prop :=
  ∀ (c : Fin 112) (s u : State), FetchesOffEnd s c u →
    let x := getCore u c
    let enter := fun (code : Nat) (tval : Word) => setCore (killYounger u c) c { x with
      epc := x.pc, cause := BitVec.ofNat 64 code, tval := tval, pie := x.ie, ie := false, ppl := x.pl, pl := 1, exl := true, pc := x.tvec }
    (∀ imm : BitVec 10, x.exl = false → Gives (.syscall c 0 0 imm) s (enter (if x.pl = 0 then 0x0A else 0x0B) (BitVec.ofNat 64 imm.toNat))) ∧
    (∀ imm : BitVec 10, x.exl = false → Gives (.bpt c 0 0 imm) s (enter 0x0C (BitVec.ofNat 64 imm.toNat))) ∧
    (∀ (rd rs1 rs2 : BitVec 5) (f : BitVec 11), x.exl = false → aluOp f.toNat 0 0 = none → Gives (.integerAlu c 1 rd rs1 rs2 f) s
      (enter 0x02 (BitVec.ofNat 64 (wordA 0x01 rd.toNat rs1.toNat rs2.toNat f.toNat)))) ∧
    (∀ (major : BitVec 6) (rd rs1 rs2 : BitVec 5) (f : BitVec 11), x.exl = false → major ≠ 1 →
      let w := wordA major.toNat rd.toNat rs1.toNat rs2.toNat f.toNat
      (decodeWord c (BitVec.ofNat 32 w)).isSome = false → Gives (.integerAlu c major rd rs1 rs2 f) s (enter 0x02 (BitVec.ofNat 64 w))) ∧
    (∀ (rt rb : BitVec 5) (fn : BitVec 4) (off : BitVec 12), x.exl = false → fn.toNat ≤ 6 →
      let n := 2 ^ (fn.toNat % 4)
      mAddr x rb.toNat off.toNat n % n ≠ 0 → Gives (.load c rt rb fn off) s (enter 0x04 (BitVec.ofNat 64 (mAddr x rb.toNat off.toNat n)))) ∧
    (∀ imm : BitVec 10, x.exl = true → Gives (.syscall c 0 0 imm) s (setCore (killYounger u c) c { x with run := .stopped }))

/-- Events at a core's boundary (R123, R125, R127, R128): ERET restores IE, PL and pc; the lowest pending enabled interrupt is taken with the next instruction's address
and bit 63 of HZ_CAUSE; an abort is taken at U and held at S; a late store error is recorded; a compare match makes time reach it. -/
def Parts.BoundaryEvents : Prop :=
  ∀ (c : Fin 112) (s : State),
    let x := getCore s c
    (∀ u : State, FetchesOffEnd s c u → (getCore u c).pl ≠ 0 → (getCore u c).abHeld = [] →
      let y := getCore u c
      Gives (.eret c 0 0 0) s (setCore u c { y with
        pl := y.ppl, ie := y.pie, exl := false, pc := BitVec.ofNat 64 (y.epc.toNat / 4 * 4), instret := y.instret + 1 })) ∧
    (x.run = .running → intDue s c = true → x.pl ≠ 0 ∨ x.abQ = [] → Gives (.interruptTake c) s
      (setCore (if isChisel c then withdrawRlock s c else s) c { x with
        epc := x.pc, cause := BitVec.ofNat 64 (lowestInt s c + 2 ^ 63), tval := intTval s c (lowestInt s c)
        pie := x.ie, ie := false, ppl := x.pl, pl := 1, exl := true, pc := x.tvec
        ip := if lowestInt s c = 7 then setBit x.ip 7 false else x.ip })) ∧
    (∀ t r, x.abQ = t :: r → x.run = .running → x.pl = 0 → Gives (.wiAbort c) s (takeAbort (setCore s c { x with abQ := r }) c t x.pc)) ∧
    (∀ t r, x.abQ = t :: r → x.run = .waiting ∨ (x.run = .running ∧ x.pl ≠ 0) →
      Gives (.wiAbort c) s (setCore s c { x with abQ := r, abHeld := x.abHeld ++ [t] })) ∧
    (∀ a r, x.fabQ = a :: r → Gives (.storeErrorAsync c) s
      (setIp (setCore s c { x with fabQ := r, faberr := a, fabCnt := x.fabCnt + 1 }) c 5)) ∧
    (x.tcmpEn = true → 0 < int32 x.tcmp (nsCounter s) → Gives (.timerCompare c) s
      (signalCore { s with now := s.now + (int32 x.tcmp (nsCounter s)).toNat } c))

/-- System-register instructions (R122): the old value reaches rd; SETSR writes rs1, ORSR sets and ANDNSR clears its bits, and with rs1 = g0 these two write nothing. At U only
the registers that R122 opens to U are reached. HZ_CYCLE (0x011) has the value of its latest read and the cycles since, whose number is free (notes/assumptions/44.md). -/
def Parts.SystemRegisterInstructions : Prop :=
  ∀ (c : Fin 112) (rd rs1 : BitVec 5) (imm : BitVec 10) (s u : State), FetchesOffEnd s c u →
    let x := getCore u c
    let n := imm.toNat
    let old := (srRead u c n).1
    let a := gRead x rs1.toNat
    let v := (srRead u c n).2
    srKnown c n = true →
    (n = 0x011 → (∀ row ∈ [Instr.getsr c rd 0 imm, Instr.orsr c rd 0 imm, Instr.andnsr c rd 0 imm],
        Gives row s (retire (setCore v c (gWrite (getCore v c) rd.toNat old)) c x.pc)) ∧
      ∃ k, old = BitVec.ofNat 64 (x.cycle + k) ∧ getCore v c = { x with cycle := x.cycle + k }) ∧
    (n ≠ 0x011 →
      (x.pl ≠ 0 ∨ srUserRead n = true → Gives (.getsr c rd 0 imm) s (retire (setCore u c (gWrite x rd.toNat old)) c x.pc)) ∧
      (x.pl ≠ 0 ∨ srUserWrite n = true → srReadOnly n = false →
        Gives (.setsr c rd rs1 imm) s (retire (setCore u c (gWrite (srWrite x c n a) rd.toNat old)) c x.pc) ∧
        (rs1 ≠ 0 → Gives (.orsr c rd rs1 imm) s (retire (setCore u c (gWrite (srWrite x c n (old ||| a)) rd.toNat old)) c x.pc)) ∧
        (rs1 ≠ 0 → Gives (.andnsr c rd rs1 imm) s (retire (setCore u c (gWrite (srWrite x c n (old &&& ~~~a)) rd.toNat old)) c x.pc))) ∧
      (x.pl ≠ 0 ∨ srUserRead n = true →
        Gives (.orsr c rd 0 imm) s (retire (setCore u c (gWrite x rd.toNat old)) c x.pc) ∧
        Gives (.andnsr c rd 0 imm) s (retire (setCore u c (gWrite x rd.toNat old)) c x.pc)))

/-- Barriers, cache and translation maintenance, CORESIG (R118, R130, R133, R135): a legal FENCE and IFENCE only retire (the model's reading: notes/assumptions/13.md, of IFENCE 10.md too); on a Bench core CLEAN, INVAL and FLUSH act on the cacheable
line at g[rs1] and TLBINV removes the translations it names; CORESIG sets SWI of a core of the same partition. -/
def Parts.BarriersAndMaintenance : Prop :=
  ∀ (c : Fin 112) (rd rs1 : BitVec 5) (s u : State), FetchesOffEnd s c u →
    let x := getCore u c
    (∀ m : BitVec 10, m.toNat < 16 → fld m.toNat 0 2 ≠ 0 → fld m.toNat 2 2 ≠ 0 → Gives (.fence c 0 0 m) s (retire u c x.pc)) ∧
    Gives (.ifence c 0 0 0) s (retire u c x.pc) ∧
    (isChisel c = false → ∀ (pa : Nat) (v : State), cacheable u c (gRead x rs1.toNat) = (some pa, v) →
      Gives (.clean c 0 rs1 0) s (retire (cleanLine v c pa) c x.pc) ∧
      (x.pl ≠ 0 → Gives (.inval c 0 rs1 0) s (retire (discardLine v c pa) c x.pc)) ∧
      Gives (.flush c 0 rs1 0) s (retire (discardLine (cleanLine v c pa) c pa) c x.pc)) ∧
    (isChisel c = false → x.pl ≠ 0 → Gives (.tlbinv c rd rs1 0) s (retire (setCore u c { x with
      tlb := x.tlb.filter fun e => !tlbHit e (if rs1 = 0 then none else some (gRead x rs1.toNat).toNat)
        (if rd = 0 then none else some (gRead x rd.toNat).toNat) }) c x.pc)) ∧
    (∀ n : Fin 112, x.pl ≠ 0 → (gRead x rs1.toNat).toNat = n.val → (coreOwner u n).isSome = true → coreOwner u n = coreOwner u c →
      Gives (.coresig c 0 rs1 0) s (retire (setIp u n 0) c x.pc))

/-- WAIT (R136): with a wake condition it completes at once with RESULT 1; at MODE 0 the core waits without voting; with a vote asked for, a core that holds the Rasp lock completes with
RESULT 3 and REFUSER 5, and another waits and votes. A waiting core completes with the outcome its domain gave, or with RESULT 0 on a wake condition. -/
def Parts.WaitWaitsVotesAndCompletes : Prop :=
  ∀ (c : Fin 112) (s : State),
    (∀ u : State, FetchesOffEnd s c u → (getCore u c).pl ≠ 0 →
      let x := getCore u c
      (wakeCond u c = true → Gives (.wait c 0 0 0) s (retire (setCore u c { x with waitResult := 1, waitRefuser := 0 }) c x.pc)) ∧
      (wakeCond u c = false → x.waitMode = 0 ∨ isChisel c = false →
        Gives (.wait c 0 0 0) s (setCore u c { x with run := .waiting, voting := false, waitDone := none })) ∧
      (wakeCond u c = false → x.waitMode ≠ 0 → isChisel c = true → holdsLock u c = true →
        Gives (.wait c 0 0 0) s (retire (setCore u c { x with waitResult := 3, waitRefuser := 5 }) c x.pc)) ∧
      (wakeCond u c = false → x.waitMode ≠ 0 → isChisel c = true → holdsLock u c = false →
        Gives (.wait c 0 0 0) s (checkVotes (setCore u c { x with run := .waiting, voting := true, waitDone := none }) c))) ∧
    (let x := getCore s c
     let fin := fun r f => setCore s c { x with
       run := .running, waitResult := r, waitRefuser := f, voting := false, waitDone := none, pc := x.pc + 4, instret := x.instret + 1 }
     x.run = .waiting →
     (∀ r f, x.waitDone = some (r, f) → Gives (.waitComplete c) s (fin r f)) ∧
     (x.waitDone = none → wakeCond s c = true → (∀ d, coreDom c = some d → (getDom s d).state = .awake) → Gives (.waitComplete c) s (fin 0 0)))

/-- Privilege (R121, R126): at U, each privileged instruction with legal fields takes PRIV with its word in HZ_TVAL and has no other effect but that it kills the Rasp instructions issued behind it (R179). -/
def Parts.PrivilegedInstructionsTrapAtU : Prop :=
  ∀ (c : Fin 112) (s u : State), Fetches s c u → (getCore u c).pl = 0 → (getCore u c).exl = false →
    let x := getCore u c
    let priv := fun (word : Nat) => setCore (killYounger u c) c { x with
      epc := x.pc, cause := 3, tval := BitVec.ofNat 64 word, pie := x.ie, ie := false, ppl := 0, pl := 1, exl := true, pc := x.tvec }
    Gives (.eret c 0 0 0) s (priv (wordX 0x3E 0 0 0x02 0)) ∧ Gives (.wait c 0 0 0) s (priv (wordX 0x3E 0 0 0x03 0)) ∧
    (∀ rs1 : BitVec 5, Gives (.coresig c 0 rs1 0) s (priv (wordX 0x3E 0 rs1.toNat 0x0E 0))) ∧
    (isChisel c = false → ∀ rd rs1 : BitVec 5, Gives (.inval c 0 rs1 0) s (priv (wordX 0x3E 0 rs1.toNat 0x0B 0)) ∧
      Gives (.tlbinv c rd rs1 0) s (priv (wordX 0x3E rd.toNat rs1.toNat 0x0D 0))) ∧
    (∀ (rd rs1 : BitVec 5) (imm : BitVec 10), srKnown c imm.toNat = true → srUserWrite imm.toNat = false → srReadOnly imm.toNat = false →
      Gives (.setsr c rd rs1 imm) s (priv (wordX 0x3E rd.toNat rs1.toNat 0x07 imm.toNat)))

/-- The hard-wired registers (R109, R138): g0 reads as zero and p0 as all ones whatever is written to them, and a write of any register leaves every other one. -/
def Parts.HardwiredRegistersKeepTheirValue : Prop :=
  ∀ (x : Core) (i j : Nat) (v : Word) (p : BitVec 256),
    gRead (gWrite x i v) 0 = 0 ∧ pRead (pWrite x i p) 0 = BitVec.allOnes 256 ∧ gWrite x 0 v = x ∧ pWrite x 0 p = x ∧
    (j ≠ i → gRead (gWrite x i v) j = gRead x j ∧ pRead (pWrite x i p) j = pRead x j) ∧
    (i ≠ 0 → gRead (gWrite x i v) i = v ∧ pRead (pWrite x i p) i = p)

/-! ### The vector instructions (06_vectors) -/

/-- Instructions that write elements of a v register (R145 to R149, R159 to R162, R165): each active element takes its operation's result, saturation sets SAT, VSTART is 0, and the
instruction retires. -/
def Parts.ElementwiseInstructions : Prop :=
  ∀ (c : Fin 112) (long : Bool) (vd vs1 vs2 : BitVec 5) (pg : BitVec 4) (s u : State),
    let x := getCore u c
    let w := etBits x.et
    let n := vCount x c long
    let a := (vRead x vs1.toNat).toNat
    let b := (vRead x vs2.toNat).toNat
    let put := fun (w n : Nat) (f : Nat → Nat × Bool) => vRetire (elemwise u c vd.toNat x pg.toNat w n f) c x.pc
    (∀ f : BitVec 7, (vIntOp 0 8 f.toNat 0 0).isSome = true → (f.toNat < 4 ∨ 7 < f.toNat) ∨ vs2 = 0 →
      VFetches s c u long (some (vIntTypes f.toNat)) (f.toNat == 0x0A || f.toNat == 0x1A) .plain →
      Gives (.vectorIntOp c long vd vs1 vs2 pg f) s (put w n fun i =>
        onParts x.et (fun p q => (vIntOp x.rm (partBits x.et) f.toNat p q).getD (0, false)) (elem a w i) (elem b w i))) ∧
    (∀ f : BitVec 7, (vMulTypes f.toNat).isSome = true → f.toNat ≠ 4 ∨ vs2 = 0 → f.toNat < 0x10 →
      VFetches s c u long (some ((vMulTypes f.toNat).getD [])) (f.toNat == 0x01 || f.toNat == 0x02 || f.toNat == 0x03) .plain →
      Gives (.vectorMultiply c long vd vs1 vs2 pg f) s (put w n fun i => vMulOp x.rm x.et f.toNat (elem a w i) (elem b w i))) ∧
    (accOk c vs1 = true → vs2 = 0 → VFetches s c u long (some tV) true .plain →
      Gives (.vvnorm c long vd vs1 vs2 pg) s (put w n fun g => veneerNorm x.rm w (elem (aRead x vs1.toNat).toNat (4 * w) g))) ∧
    (VFetches s c u long (some (tIs ++ tC)) false .plain →
      Gives (.vperm c long vd vs1 vs2 pg) s (put w n fun i => (if elem b w i < n then elem a w (elem b w i) else 0, false))) ∧
    (VFetches s c u long (some tAny) false .plain → vs2 = 0 →
      Gives (.vectorMove c long 1 vd vs1 vs2 pg) s (put w n fun i => (elem a w i, false))) ∧
    (VFetches s c u long (some [0, 1, 2, 4, 5]) false .plain → vs2 = 0 →
      Gives (.vectorConvert c long 0 vd vs1 vs2 pg) s (put (2 * w) (n / 2) fun i => (widenEl x.et (elem a w i), false)) ∧
      Gives (.vectorConvert c long 1 vd vs1 vs2 pg) s (put (2 * w) (n / 2) fun i => (widenEl x.et (elem a w (n / 2 + i)), false))) ∧
    (VFetches s c u long (some [1, 2, 3, 5, 6]) true .plain →
      Gives (.vectorConvert c long 2 vd vs1 vs2 pg) s
        (put (w / 2) (2 * n) fun i => narrowEl x.rm x.nsh x.et (if i < n then elem a w i else elem b w (i - n))))

/-- What an element-wise result is (R138, R141, R145): element i of the destination is its operation's result where the predicate makes it active and as before elsewhere; the register's
bits above the class stay; SAT is set by a clamp of an active element and never cleared; and nothing else of the state changes. -/
def Parts.ElementwiseWritesActiveElementsOnly : Prop :=
  ∀ (s : State) (c vd pg w n : Nat) (f : Nat → Nat × Bool), 0 < w → n * w ≤ 2048 →
    let x := getCore s c
    let t := elemwise s c vd x pg w n f
    let r := (vRead (getCore t c) vd).toNat
    let old := (vRead x vd).toNat
    (∀ i, i < n → elem r w i = if active x pg w i = true then (f i).1 % 2 ^ w else elem old w i) ∧
    r / 2 ^ (n * w) = old / 2 ^ (n * w) ∧
    ((getCore t c).sat = true ↔ x.sat = true ∨ ∃ i, i < n ∧ active x pg w i = true ∧ (f i).2 = true) ∧
    (∀ k, k ≠ vd → vRead (getCore t c) k = vRead x k) ∧ (∀ k, gRead (getCore t c) k = gRead x k ∧ pRead (getCore t c) k = pRead x k) ∧
    (∀ k : Nat, k ≠ c → getCore t k = getCore s k) ∧ { t with cores := s.cores } = s

/-- Accumulator instructions (R147, R148): VVSETE, the Veneer multiply-accumulates and the widening multiplies write the lanes of active elements of an accumulator a0 to a7 of a core that has
accumulators. -/
def Parts.AccumulatorInstructions : Prop :=
  ∀ (c : Fin 112) (long : Bool) (vd vs1 vs2 : BitVec 5) (pg : BitVec 4) (s u : State), accOk c vd = true →
    let x := getCore u c
    let w := etBits x.et
    let n := vCount x c long
    let a := (vRead x vs1.toNat).toNat
    let b := (vRead x vs2.toNat).toNat
    let l := (aRead x vd.toNat).toNat
    let put := fun (f : Nat → Nat × Bool) => vRetire (lanewise u c vd.toNat x pg.toNat w n f) c x.pc
    (vs2 = 0 → VFetches s c u long (some tV) false .plain →
      Gives (.vvsete c long vd vs1 vs2 pg) s (put fun g => (agMake w [] (fld (elem a w g) 0 8), false))) ∧
    (∀ k : Fin 4, VFetches s c u long (some tV) true .plain → Gives (.veneerMac c long k vd vs1 vs2 pg) s
      (put fun g => veneerMac x.rm w k.val (elem l (4 * w) g) (elem a w g) (elem b w g))) ∧
    (∀ f : BitVec 7, (vMulTypes f.toNat).isSome = true → 0x10 ≤ f.toNat → VFetches s c u long (some ((vMulTypes f.toNat).getD [])) false .plain →
      Gives (.vectorMultiply c long vd vs1 vs2 pg f) s (put fun i => vWideOp x.et f.toNat (elem l (4 * w) i) (elem a w i) (elem b w i)))

/-- Predicates, counts and reductions (R141, R152, R162, R165): a compare and VRANGE set the governing bits of active elements that pass and clear every other bit of the class; the logic is
bitwise under pg; counts and reductions run over active elements into a g register; FFR is set, read and armed. -/
def Parts.PredicatesCountsAndReductions : Prop :=
  ∀ (c : Fin 112) (long : Bool) (vd vs1 vs2 : BitVec 5) (pg : BitVec 4) (s u : State),
    let x := getCore u c
    let w := etBits x.et
    let n := vCount x c long
    let bits := clsBits x c long
    let a := (vRead x vs1.toNat).toNat
    let b := (vRead x vs2.toNat).toNat
    let fin := fun t => vRetire t c x.pc
    (∀ k : Fin 4, prOk vd = true → VFetches s c u long (some (if k.val < 2 then tIs ++ tC else tIs)) false .plain →
      Gives (.vectorCompare c long k vd vs1 vs2 pg) s (fin (putPred u c vd.toNat x pg.toNat w n bits fun i =>
        if k.val = 0 then elem a w i == elem b w i else if k.val = 1 then elem a w i != elem b w i
        else if k.val = 2 then decide (sx (elem a w i) w < sx (elem b w i) w) else decide (sx (elem a w i) w ≤ sx (elem b w i) w)))) ∧
    (prOk vd = true → VFetches s c u long (some (tIs ++ tC ++ tV)) false .plain → Gives (.vrange c long vd vs1 0 0) s
      (fin (putPred u c vd.toNat x 0 w n bits fun i => decide ((i : Int) < (gRead x vs1.toNat).toInt)))) ∧
    (∀ k : Fin 4, prOk vd = true → prOk vs1 = true → prOk vs2 = true → VFetches s c u long none false .plain →
      Gives (.predicateLogic c long k vd vs1 vs2 pg) s (fin (putP u c vd.toNat (bits / 8) fun j =>
        let p := (pRead x vs1.toNat).getLsbD j
        let q := (pRead x vs2.toNat).getLsbD j
        (if k.val = 0 then p && q else if k.val = 1 then p || q else if k.val = 2 then p != q else p && !q) && (pRead x pg.toNat).getLsbD j))) ∧
    (prOk vd = true → x.et ≠ 0 ∨ x.ffr % 2 = 0 → VFetches s c u long (some tAny) false .plain →
      Gives (.vffmask c long vd 0 0 pg) s (fin (putPred u c vd.toNat x pg.toNat w n bits fun i => if x.et = 0 ∧ i + 1 = x.ffr then false else i < x.ffr))) ∧
    (VFetches s c u long none false .plain →
      Gives (.vffset c long 0 vs1 0 0) s (fin (setCore u c { x with ffr := min (gRead x vs1.toNat).toNat 512 })) ∧
      Gives (.vffget c long vd 0 0 0) s (fin (setCore u c (gWrite x vd.toNat (BitVec.ofNat 64 x.ffr)))) ∧
      Gives (.vffarm c long 0 0 0 0) s (fin (setCore u c { x with ffr := 512 }))) ∧
    (prOk vs1 = true → VFetches s c u long (some (tIs ++ tC ++ tV)) false .plain → Gives (.vcntp c long vd vs1 0 pg) s
      (fin (setCore u c (gWrite x vd.toNat (BitVec.ofNat 64
        ((upFrom 0 n).countP fun i => active x pg.toNat w i && active x vs1.toNat w i)))))) ∧
    (∀ k : Fin 3, VFetches s c u long (some tIs) false .plain →
      let es := (actives x pg.toNat w n 0).map fun i => sx (elem a w i) w
      Gives (.vectorReduce c long k vd vs1 0 pg) s (fin (setCore u c (gWrite x vd.toNat (BitVec.ofInt 64
        (if k.val = 0 then es.foldl (· + ·) 0 else if k.val = 1 then es.foldl max (minInt w) else es.foldl min (maxInt w))))))) ∧
    (VFetches s c u long (some tAny) false .plain →
      Gives (.vcnt c long vd 0 0 0) s (fin (setCore u c (gWrite x vd.toNat (BitVec.ofNat 64 n)))))

/-- Vector loads whose elements all load (R150 to R155, R163, R164): the active elements, packed granules or whole register take their bytes, and a first-fault load that met a fault past its first
active element ends with FFR at it. -/
def Parts.VectorLoads : Prop :=
  ∀ (c : Fin 112) (long : Bool) (vd vs1 vs2 : BitVec 5) (pg : BitVec 4) (s u v : State) (r : Nat),
    let x := getCore u c
    let w := etBits x.et
    let n := vCount x c long
    let old := (vRead x vd.toNat).toNat
    let fin := fun t => vRetire t c x.pc
    (∀ form : Fin 4, form.val ≠ 0 ∨ vs2 = 0 → VFetches s c u long (some (formTypes form.val)) false .resumable →
      runLoads u c (putElem w n) old (elLoads x w form.val vs1.toNat vs2.toNat (actives x pg.toNat w n (startEl x))) = (r, none, v) →
      Gives (.vectorLoad c long form vd vs1 vs2 pg) s (fin (putV v c vd.toNat r false))) ∧
    (∀ form : Fin 3, form.val ≠ 0 ∨ vs2 = 0 →
      let f := if form.val = 0 then 0 else form.val + 1
      VFetches s c u long (some (formTypes f)) false .whole →
      (runLoads u c (putElem w n) old (elLoads x w f vs1.toNat vs2.toNat (actives x pg.toNat w n 0)) = (r, none, v) →
        Gives (.vectorLoadFf c long form vd vs1 vs2 pg) s (fin (putV v c vd.toNat r false))) ∧
      (∀ i code sub t, runLoads u c (putElem w n) old (elLoads x w f vs1.toNat vs2.toNat (actives x pg.toNat w n 0)) = (r, some (i, code, sub, t), v) →
        (actives x pg.toNat w n 0).head? ≠ some i →
        Gives (.vectorLoadFf c long form vd vs1 vs2 pg) s (fin (updCore (putV v c vd.toNat r false) c fun y => { y with ffr := min y.ffr i })))) ∧
    (VFetches s c u long (some tV) false .resumable →
      runLoads u c (putElem w n) old ((actives x pg.toNat w n (startEl x)).map fun g =>
        { i := g, va := vaOf ((gRead x vs1.toNat).toNat + (recSize w * g : Nat)), n := recSize w, al := 1 }) = (r, none, v) →
      Gives (.vldpk c long vd vs1 0 pg) s (fin (putV v c vd.toNat r false))) ∧
    (VFetches s c u long none false .whole →
      (runLoads u c (putElem 128 (clsBits x c long / 128)) old (wholeLoads x vs1.toNat 16 (clsBits x c long / 128)) = (r, none, v) →
        Gives (.vldr c long vd vs1 0 0) s (fin (putV v c vd.toNat r false))) ∧
      (prOk vd = true →
        runLoads u c (putElem 16 (clsBits x c long / 128)) (pRead x vd.toNat).toNat (wholeLoads x vs1.toNat 2 (clsBits x c long / 128)) = (r, none, v) →
        Gives (.vldpr c long vd vs1 0 0) s (fin (updCore v c fun y => pWrite y vd.toNat (BitVec.ofNat 256 r)))))

/-- Vector stores whose elements all pass (R150 to R155, R164): the active elements, packed granules or whole register are stored in ascending order; with COMPAT = 1 and for whole registers every element is
checked before any is stored. A fault of an element in native mode leaves VSTART at it, the stores before it done. -/
def Parts.VectorStores : Prop :=
  ∀ (c : Fin 112) (long : Bool) (vd vs1 vs2 : BitVec 5) (pg : BitVec 4) (s u v : State),
    let x := getCore u c
    let w := etBits x.et
    let n := vCount x c long
    let d := (vRead x vd.toNat).toNat
    let els := fun (form : Nat) => (actives x pg.toNat w n (startEl x)).map fun i =>
      ({ i := i, va := elAddr x w form vs1.toNat vs2.toNat i, bs := elBytes d w i, al := esize w } : ElStore)
    (∀ form : Fin 4, form.val ≠ 0 ∨ vs2 = 0 → VFetches s c u long (some (formTypes form.val)) false .resumable →
      ((if x.compat then storeAll u c (els form.val) else runStores u c (els form.val)) = (none, v) →
        Gives (.vectorStore c long form vd vs1 vs2 pg) s (vRetire v c x.pc)) ∧
      (∀ i code sub t, x.compat = false → runStores u c (els form.val) = (some (i, code, sub, t), v) →
        Gives (.vectorStore c long form vd vs1 vs2 pg) s (takeException (updCore v c fun y => { y with vstart := i }) c code sub t))) ∧
    (VFetches s c u long (some tV) false .resumable →
      (let es := (actives x pg.toNat w n (startEl x)).map fun g =>
        ({ i := g, va := vaOf ((gRead x vs1.toNat).toNat + (recSize w * g : Nat)), bs := leBytes (elem d w g) (recSize w), al := 1 } : ElStore)
       if x.compat then storeAll u c es else runStores u c es) = (none, v) →
      Gives (.vstpk c long vd vs1 0 pg) s (vRetire v c x.pc)) ∧
    (VFetches s c u long none false .whole →
      (storeAll u c (wholeStores x vs1.toNat 16 (clsBits x c long / 128) d) = (none, v) → Gives (.vstr c long vd vs1 0 0) s (vRetire v c x.pc)) ∧
      (prOk vd = true → storeAll u c (wholeStores x vs1.toNat 2 (clsBits x c long / 128) (pRead x vd.toNat).toNat) = (none, v) →
        Gives (.vstpr c long vd vs1 0 0) s (vRetire v c x.pc)))

/-- VCFG_FAULT (R144): a vector instruction that VCFG and VSTART do not let run takes code 0x10 with its word, and nothing else changes but the tags of the Rasp
instructions killed behind it (R179). Stated for VADD and VFFGET. -/
def Parts.VcfgFaults : Prop :=
  ∀ (c : Fin 112) (long : Bool) (vd vs1 vs2 : BitVec 5) (pg : BitVec 4) (s u : State), Fetches s c u → (long && !isChisel c) = false →
    (getCore u c).exl = false →
    let x := getCore u c
    let fault := fun (word : Nat) => setCore (killYounger u c) c { x with
      epc := x.pc, cause := 0x10, tval := BitVec.ofNat 64 word, pie := x.ie, ie := false, ppl := x.pl, pl := 1, exl := true, pc := x.tvec }
    (¬ x.et ∈ tI ++ tC ∨ x.vstart ≠ 0 → Gives (.vectorIntOp c long vd vs1 vs2 pg 0) s (fault (vWord 0 long vd vs1 vs2 pg 0))) ∧
    (x.vstart ≠ 0 → Gives (.vffget c long vd 0 0 0) s (fault (vWord 3 long vd 0 0 0 0x12)))

/-! ### Circular buffers, block repeats, accumulators and the Rasp (07_dsp_addressing_and_rasp) -/

/-- Circular buffers of a Chisel core (R166 to R169): BASE and LEN are written and read, CBINC and CBINCI fold a pointer into the buffer, and the circular vector accesses use the folded
address of each element. -/
def Obligations.CircularBuffers : Prop :=
  ∀ (c : Fin 112) (rd rs1 rs2 : BitVec 5) (n : Fin 8) (s u : State), Fetches s c u → isChisel c = true →
    let x := getCore u c
    let b := getCb x n.val
    let p := gRead x rs1.toNat
    let put := fun v => retire (setCore u c (gWrite x rd.toNat v)) c x.pc
    Gives (.cbwb c 0 rs1 0 0 n) s (retire (setCore u c { x with cb := tset x.cb n.val { b with base := p } }) c x.pc) ∧
    Gives (.cbwl c 0 rs1 0 0 n) s (retire (setCore u c { x with cb := tset x.cb n.val { b with len := p.toNat % 2 ^ 32 } }) c x.pc) ∧
    Gives (.cbrb c rd 0 0 0 n) s (put b.base) ∧ Gives (.cbrl c rd 0 0 0 n) s (put (BitVec.ofNat 64 b.len)) ∧
    (b.len ≠ 0 → Gives (.cbinc c rd rs1 rs2 0 n) s
      (put (b.base + BitVec.ofInt 64 ((p - b.base + gRead x rs2.toNat).toInt % (b.len : Int))))) ∧
    (b.len = 0 → Gives (.cbinc c rd rs1 rs2 0 n) s (put (p + gRead x rs2.toNat))) ∧
    (∀ step : BitVec 13, Gives (.cbinci c rd rs1 n step) s (put (cbFold b p (BitVec.ofInt 64 step.toInt)))) ∧
    (∀ (long : Bool) (pg : BitVec 4) (r : Nat) (v : State), VFetches s c u long (some (tIs ++ tC)) false .plain →
      runLoads u c (putElem (etBits x.et) (vCount x c long)) (vRead x rd.toNat).toNat
        ((actives x pg.toNat (etBits x.et) (vCount x c long) 0).map fun i =>
          { i := i, va := cbAddr x b rs1.toNat i, n := esize (etBits x.et), al := esize (etBits x.et) }) = (r, none, v) →
      Gives (.vldc c long rd rs1 0 pg n) s (vRetire (putV v c rd.toNat r false) c x.pc)) ∧
    (∀ (long : Bool) (pg : BitVec 4) (v : State), VFetches s c u long (some (tIs ++ tC)) false .plain →
      storeAll u c ((actives x pg.toNat (etBits x.et) (vCount x c long) 0).map fun i =>
        { i := i, va := cbAddr x b rs1.toNat i, bs := elBytes (vRead x rd.toNat).toNat (etBits x.et) i, al := esize (etBits x.et) }) = (none, v) →
      Gives (.vstc c long rd rs1 0 pg n) s (vRetire v c x.pc))

/-- Block repeats (R170 to R173). LOOP at level n, with the levels below n active and no other, END no later than that of level n - 1, a length other than 0 and
a count below 2^32, at EXL = 0, starts the level and goes on at START, or with a count of 0 writes START and END, leaves it inactive and goes on after END (the model's reading, as is that an active level with count 0
falls through: notes/assumptions/48.md); LPBRK ends the innermost active level and
goes on after its END (pc takes a multiple of 4); LPRD reads a level's fields, and LPWR writes them for the next instruction, after its own loop-end test. That test goes back to
START while the count is above 1, and otherwise ends the level and tests the next outer one. -/
def Obligations.BlockRepeats : Prop :=
  (∀ (c : Fin 112) (rd rs1 : BitVec 5) (imm : BitVec 10) (s u : State), FetchesOffEnd s c u → isChisel c = true → (getCore u c).exl = false →
    let x := getCore u c
    let n := rd.toNat
    let k := (gRead x rs1.toNat).toNat
    let start := x.pc + 4
    let stop := x.pc + BitVec.ofNat 64 (4 * imm.toNat)
    let go := fun l t => setCore u c { x with lp := l, pc := t, instret := x.instret + 1 }
    (n < 4 → imm ≠ 0 → k < 2 ^ 32 → (∀ i, i < 4 → (tget x.lp {} i).act = decide (i < n)) →
      (n ≠ 0 → stop.toNat ≤ (tget x.lp {} (n - 1)).stop.toNat) →
      (k ≠ 0 → Gives (.loop c rd rs1 imm) s (go (tset x.lp n { start := start, stop := stop, cnt := k, act := true }) start)) ∧
      (k = 0 → Gives (.loop c rd rs1 imm) s (go (tset x.lp n { tget x.lp {} n with start := start, stop := stop, act := false }) (stop + 4)))) ∧
    (∀ i, i < 4 → (tget x.lp {} i).act = true → (∀ j, j < 4 → i < j → (tget x.lp {} j).act = false) →
      Gives (.lpbrk c 0 0 0) s (go (tset x.lp i { tget x.lp {} i with act := false }) (((tget x.lp {} i).stop + 4) &&& ~~~3)))) ∧
  (∀ (c : Fin 112) (rd rs1 : BitVec 5) (s u : State), Fetches s c u → isChisel c = true → rd.toNat < 4 →
    let x := getCore u c
    let l := tget x.lp {} rd.toNat
    let v := gRead x rs1.toNat
    let put := fun w => retire (setCore u c (gWrite x rs1.toNat w)) c x.pc
    let e := if x.exl then (x.lp, none) else loopEnd x.lp x.pc 4
    let old := tget e.1 {} rd.toNat
    let set := fun y => setCore u c { x with lp := tset e.1 rd.toNat y, pc := e.2.getD (x.pc + 4), instret := x.instret + 1 }
    Gives (.lprd c rd rs1 0) s (put l.start) ∧ Gives (.lprd c rd rs1 1) s (put l.stop) ∧
    Gives (.lprd c rd rs1 2) s (put (BitVec.ofNat 64 (l.cnt + b2n l.act * 2 ^ 63))) ∧
    Gives (.lpwr c rd rs1 0) s (set { old with start := v }) ∧ Gives (.lpwr c rd rs1 1) s (set { old with stop := v }) ∧
    Gives (.lpwr c rd rs1 2) s (set { old with cnt := v.toNat % 2 ^ 32, act := v.getLsbD 63 })) ∧
  (∀ (l : Tab Lp) (pc : Word) (n : Nat),
    loopEnd l pc 0 = (l, none) ∧
    ((tget l {} n).act = false → loopEnd l pc (n + 1) = loopEnd l pc n) ∧
    ((tget l {} n).act = true → (tget l {} n).stop = pc → 1 < (tget l {} n).cnt →
      loopEnd l pc (n + 1) = (tset l n { tget l {} n with cnt := (tget l {} n).cnt - 1 }, some ((tget l {} n).start &&& ~~~3))) ∧
    ((tget l {} n).act = true → (tget l {} n).stop = pc → (tget l {} n).cnt ≤ 1 →
      loopEnd l pc (n + 1) = loopEnd (tset l n { tget l {} n with act := false }) pc n) ∧
    ((tget l {} n).act = true → (tget l {} n).stop ≠ pc → loopEnd l pc (n + 1) = (l, none)))

/-- Accumulator moves (R174 to R176) on a core with accumulators: AZERO, AMOV, AADD and ASHR write the lanes of active elements, ARND rounds and saturates lanes into a v register, AQRD and AQWR move one quarter. -/
def Obligations.AccumulatorMoves : Prop :=
  ∀ (c : Fin 112) (long : Bool) (rd rs1 rs2 : BitVec 5) (pg : BitVec 4) (s u : State), isChisel c = true →
    let x := getCore u c
    let w := etBits x.et
    let n := vCount x c long
    let m := 4 * partBits x.et
    let len := clsBits x c long
    let a := (aRead x rs1.toNat).toNat
    let sh := (gRead x rs2.toNat).toNat % 64
    let lanes := fun f => vRetire (lanewise u c rd.toNat x pg.toNat w n f) c x.pc
    (rd.toNat < 8 → VFetches s c u long (some (tWide ++ tV)) false .plain → Gives (.azero c long rd 0 0 pg) s (lanes fun _ => (0, false))) ∧
    (rd.toNat < 8 → rs1.toNat < 8 → VFetches s c u long (some (tWide ++ tV)) false .plain →
      Gives (.amov c long rd rs1 0 pg) s (lanes fun i => (elem a (4 * w) i, false))) ∧
    (rd.toNat < 8 → rs1.toNat < 8 → rs2.toNat < 8 → VFetches s c u long (some tWide) false .plain →
      Gives (.aadd c long rd rs1 rs2 pg) s (lanes fun i => joinParts m (satTo m)
        ((List.zip (laneParts x.et (elem a (4 * w) i)) (laneParts x.et (elem (aRead x rs2.toNat).toNat (4 * w) i))).map fun q => q.1 + q.2))) ∧
    (rd.toNat < 8 → rs1.toNat < 8 → VFetches s c u long (some tWide) true .plain →
      Gives (.ashr c long rd rs1 rs2 pg) s (lanes fun i => joinParts m (fun p => wrapTo m (roundShift x.rm p sh)) (laneParts x.et (elem a (4 * w) i)))) ∧
    (rs1.toNat < 8 → VFetches s c u long (some tWide) true .plain →
      Gives (.arnd c long rd rs1 rs2 pg) s (vRetire (elemwise u c rd.toNat x pg.toNat w n fun i =>
        joinParts (partBits x.et) (fun p => satTo (partBits x.et) (roundShift x.rm p sh)) (laneParts x.et (elem a (4 * w) i))) c x.pc)) ∧
    (rs1.toNat < 8 → rs2.toNat < 4 → VFetches s c u long none false .plain → Gives (.aqrd c long rd rs1 rs2 0) s
      (vRetire (putV u c rd.toNat (mapEls (vRead x rd.toNat).toNat len 1 (fun _ => true) fun _ => elem a len rs2.toNat) false) c x.pc)) ∧
    (rd.toNat < 8 → rs2.toNat < 4 → VFetches s c u long none false .plain → Gives (.aqwr c long rd rs1 rs2 0) s
      (vRetire (putA u c rd.toNat (mapEls (aRead x rd.toNat).toNat len 4 (fun q => q == rs2.toNat) fun _ => elem (vRead x rs1.toNat).toNat len 0) false) c x.pc))

/-- The Rasp's lock (R177, R178, R180, R181): RLOCK and RTRYLOCK take a free lock; RLOCK behind a holder waits in order, RTRYLOCK answers 0; a released lock goes to the core that waited longest; RUNLOCK with
nothing in flight releases it and leaves k0 to k15 undefined; RSTAT reads the status; RERR takes the oldest late-error record. -/
def Parts.RaspLockAndStatus : Prop :=
  (∀ (c : Fin 112) (rd : BitVec 5) (s u : State), Fetches s c u → isChisel c = true →
    let x := getCore u c
    let r := getRasp u (coreCluster c)
    let put := fun t v => retire (updCore t c fun y => gWrite y rd.toNat v) c x.pc
    (r.holder = none → r.queue = [] → r.flight = [] →
      Gives (.rlock c 0 0 0) s (retire (setRasp u (coreCluster c) { r with holder := some c.val }) c x.pc) ∧
      Gives (.rtrylock c rd 0 0) s (put (setRasp u (coreCluster c) { r with holder := some c.val }) 1)) ∧
    (∀ h, r.holder = some h → h ≠ c.val →
      Gives (.rlock c 0 0 0) s (setRasp u (coreCluster c) { r with queue := r.queue ++ [c.val] }) ∧ Gives (.rtrylock c rd 0 0) s (put u 0)) ∧
    (r.holder = some c.val → r.flight = [] → Runs (.runlock c 0 0 0) s fun t =>
      (getRasp t (coreCluster c)).holder = none ∧ (∀ i, i < 16 → ∃ j, tget (getRasp t (coreCluster c)).k 0 i = BitVec.ofNat 2048 (Config.free j)) ∧
      (getCore t c).instret = x.instret + 1) ∧
    Gives (.rstat c rd 0 0) s (put u (BitVec.ofNat 64 (rstatWord r c))) ∧
    (tget r.errs [] c = [] → Gives (.rerr c rd 0 0) s (put u 0)) ∧
    (∀ e es, tget r.errs [] c = e :: es → Gives (.rerr c rd 0 0) s (put (setRasp u (coreCluster c) { r with
      errs := tset r.errs c es, eovf := if es.isEmpty then tset r.eovf c false else r.eovf }) (BitVec.ofNat 64 (e.tag + e.code * 256 + 32768))))) ∧
  (∀ (cl : Fin 24) (s : State) (c : Nat) (q : List Nat), (getRasp s cl).queue = c :: q → (getRasp s cl).holder = none → (getRasp s cl).flight = [] →
    Runs (.raspLockGrant cl) s fun t => (getRasp t cl).holder = some c ∧ (getRasp t cl).queue = q ∧ (getCore t c).instret = (getCore s c).instret + 1)

/-- Issue to the Rasp (R177, R179, R181, R182): by the lock's holder with fewer than 16 instructions in flight, a move (whose k register has its scoreboard bit clear) or an operation receives the next tag and goes in
flight behind the others; RMOVKV and RMOVKG bring the slice at once. Without the lock they take RASP_NOLOCK. -/
def Parts.RaspIssue : Prop :=
  ∀ (c : Fin 112) (long : Bool) (rd rs1 : BitVec 5) (imm : BitVec 10) (s u : State), Fetches s c u → isChisel c = true →
    let x := getCore u c
    let r := getRasp u (coreCluster c)
    let n := sliceBits u c long
    let a := gRead x rs1.toNat
    let issued := fun o => setRasp u (coreCluster c) { r with nextTag := (r.nextTag + 1) % 64, lastTag := r.nextTag, flight := r.flight ++ [o] }
    let go := fun o => retire (issued o) c x.pc
    let opr := fun op k1 k2 => mkOp r c op (some rd.toNat) a k1 k2 0
    (r.holder = some c.val → r.flight.length < 16 → rd.toNat < 16 →
      (scoreBit r rd.toNat = false → imm.toNat < 2048 / n →
        Gives (.rmovvk c long rd rs1 imm) s (go (mkOp r c 8 (some rd.toNat) 0 (n * imm.toNat) n (vRead x rs1.toNat)))) ∧
      (scoreBit r rd.toNat = false → imm.toNat < 32 →
        Gives (.rmovgk c rd rs1 imm) s (go (mkOp r c 8 (some rd.toNat) 0 (64 * imm.toNat) 64 (a.setWidth 2048)))) ∧
      (imm.toNat < 16 → Gives (.rcrc c rd rs1 imm) s (go (opr 0 imm.toNat 0)) ∧ Gives (.rmseq c rd rs1 imm) s (go (opr 2 imm.toNat 0)) ∧
        Gives (.rilv c rd rs1 imm) s (go (opr 3 imm.toNat 0))) ∧
      Gives (.rgold c rd rs1 0) s (go (opr 1 0 0)) ∧ Gives (.rrmidx c rd rs1 0) s (go (opr 4 0 0)) ∧ Gives (.rsbi c rd rs1 0) s (go (opr 5 0 0)) ∧
      Gives (.rseg c rd rs1 0) s (go (opr 6 0 0)) ∧
      (imm.toNat < 256 → Gives (.rxor c rd 0 imm) s (go (mkOp r c 7 (some rd.toNat) 0 (imm.toNat % 16) (imm.toNat / 16) 0)))) ∧
    (r.holder = some c.val → r.flight.length < 16 → rs1.toNat < 16 → scoreBit r rs1.toNat = false →
      (imm.toNat < 32 → Gives (.rmovkg c rd rs1 imm) s (retire (updCore (issued (mkOp r c 9 none 0 rs1.toNat 0 0)) c fun y =>
        gWrite y rd.toNat (BitVec.ofNat 64 (fld (tget r.k 0 rs1.toNat).toNat (64 * imm.toNat) 64))) c x.pc)) ∧
      (imm.toNat < 2048 / n → Gives (.rmovkv c long rd rs1 imm) s (retire (updCore (issued (mkOp r c 9 none 0 rs1.toNat 0 0)) c fun y =>
        vWrite y rd.toNat (BitVec.ofNat 2048 ((vRead y rd.toNat).toNat - fld (vRead y rd.toNat).toNat 0 n +
          fld (tget r.k 0 rs1.toNat).toNat (n * imm.toNat) n))) c x.pc))) ∧
    (r.holder ≠ some c.val → rd.toNat < 16 → imm.toNat < 16 →
      Gives (.rcrc c rd rs1 imm) s (takeException u c 0x12 0 (BitVec.ofNat 64 (raspWord 0x35 0 rd rs1 imm))))

/-- The end of a Rasp instruction (R179, R180, R275): the oldest in flight leaves; a result goes to its k register, whose words hold no error then, also where a single-bit error of a k
word was corrected and counted; a bad parameter or a late fault leaves a record for its core, up to four, and makes the k register undefined; a
discarded one writes nothing, but an error that it met is corrected and counted. Stated while no RUNLOCK waits. -/
def Parts.RaspCompletes : Prop :=
  ∀ (cl : Fin 24) (s : State) (o : RaspOp) (fl : List RaspOp),
    let r := getRasp s cl
    r.flight = o :: fl → r.unlocking = none → o.op ≠ 6 →
    (∀ i v, o.discard = false → o.kd = some i → raspResult r.k o false = some v →
      Gives (.raspOpComplete cl 0) s (clearK (setRasp s cl { r with k := tset r.k i v, flight := fl }) cl i) ∧
      Runs (.raspOpComplete cl 3) s fun t => getRasp t cl = { r with k := tset r.k i v, flight := fl } ∧
        (CountersBounded s → ctrGet t .srCorr cl = min (2 ^ 32 - 1) (ctrGet s .srCorr cl + 1))) ∧
    (o.discard = true → (∀ late, late ≠ 1 → late ≠ 3 → Gives (.raspOpComplete cl late) s (setRasp s cl { r with flight := fl })) ∧
      (∀ late, Runs (.raspOpComplete cl late) s fun t => getRasp t cl = { r with flight := fl } ∧
        (late = 3 → CountersBounded s → ctrGet t .srCorr cl = min (2 ^ 32 - 1) (ctrGet s .srCorr cl + 1)))) ∧
    (∀ (i : Nat) (late : Fin 4), o.discard = false → o.kd = some i → raspResult r.k o false = none ∨ late = 1 ∨ late = 2 → (tget r.errs [] o.core).length < 4 →
      Runs (.raspOpComplete cl late) s fun t =>
        (getRasp t cl).flight = fl ∧ (∃ j, tget (getRasp t cl).k 0 i = BitVec.ofNat 2048 (Config.free j % 2 ^ 2048)) ∧
        tget (getRasp t cl).errs [] o.core = tget r.errs [] o.core ++
          [{ tag := o.tag, code := if (raspResult r.k o false).isNone = true then 1 else late.val + 1 }] ∧
        bit (getCore t o.core).ip 4 = true)

/-! ### The channel-coding jigs (08_fec_jigs) -/

/-- A store to JG_SUBMITc (R187, R193, R194): an aligned descriptor of the partition is read; without EVT and with fields that pass, a share and a copy in service, and fewer
than 256 jobs, the job is queued behind the others with the next order number; otherwise it ends unrun with the code of its first failed check, or the descriptor address is
recorded and counted. A foreign sender is answered 5, and anyone 4 of a lost die. -/
def Parts.JobsAreSubmitted : Prop :=
  ∀ (who : Agent) (die : Fin 2) (p : Fin 4) (cls : Fin 5) (addr : BitVec 48) (s : State),
    let a := addr.toNat
    let c := cls.val + 1
    (dieOut s die = true → Gives (.jgSubmit who die p cls addr) s (answer s 4 0)) ∧
    (dieOut s die = false →
    (mayTouch who (some p.val) = false → Gives (.jgSubmit who die p cls addr) s (foreign s)) ∧
    (mayTouch who (some p.val) = true → a % 128 ≠ 0 → Gives (.jgSubmit who die p cls addr) s (descError (done s) die p a 1)) ∧
    (mayTouch who (some p.val) = true → a % 128 = 0 → targetOf a ≠ .nothing → targetOf a ≠ .regs → ownsMem (done s) p a = false → Gives (.jgSubmit who die p cls addr) s (descError (done s) die p a 3)) ∧
    (∀ why, (tget (descError s die p a why).jig.err {} (jgBank die p)) = { addr := a, why := why, valid := true } ∧
      ctrGet (descError s die p a why) .jgDescErr (jgBank die p) = min (2 ^ 32 - 1) (ctrGet s .jgDescErr (jgBank die p) + 1)) ∧
    (∀ (bs : List Byte) (u : State), mayTouch who (some p.val) = true → a % 128 = 0 → targetOf a ≠ .nothing → targetOf a ≠ .regs → ownsMem (done s) p a = true →
      memRead (done s) (some p.val) a 128 = (0, bs, u) → jdEvt (bs.take 112) = false →
      let j : JgJob := { die := die.val, part := p.val, cls := c, addr := a, desc := bs.take 112, hi := bit (dsc (bs.take 112) 1 1) 1, evt := none, retry := false, ord := 0 }
      (jdOk (bs.take 112) c = false → Gives (.jgSubmit who die p cls addr) s (endUnrun u j 0x10)) ∧
      (jdOk (bs.take 112) c = true → jgShare u die p c = 0 → Gives (.jgSubmit who die p cls addr) s (endUnrun u j 0x11)) ∧
      (jdOk (bs.take 112) c = true → jgShare u die p c ≠ 0 → (inService u die c).isEmpty = true → Gives (.jgSubmit who die p cls addr) s (endUnrun u j 0x40)) ∧
      (jdOk (bs.take 112) c = true → jgShare u die p c ≠ 0 → (inService u die c).isEmpty = false → 256 ≤ jigDepth u die p c →
        Gives (.jgSubmit who die p cls addr) s (endUnrun (bump u .jgSubRej (jgBank die p)) j 0x12)) ∧
      (jdOk (bs.take 112) c = true → jgShare u die p c ≠ 0 → (inService u die c).isEmpty = false → jigDepth u die p c < 256 →
        Runs (.jgSubmit who die p cls addr) s fun t =>
          t.jig.queue = u.jig.queue ++ [{ j with ord := u.jig.nextOrd }] ∧ t.jig.nextOrd = u.jig.nextOrd + 1 ∧ t.jig.running = u.jig.running ∧ t.mem = u.mem ∧
          (((jigQueued u die c).any fun q => q.part == p.val) = false → tget t.jig.credit 0 (creditKey die c p) = 0) ∧
          { t with jig := u.jig, doms := u.doms, hosts := u.hosts, ctr := u.ctr, fresh := u.fresh } = u)))

/-- A free copy of an awake domain takes the next job (R194, R200): a job that runs again goes first, else the partition with the largest credit, its HI jobs before others; a job with
a buffer outside the partition ends unrun instead. Without a free copy, without a job, or asleep, nothing happens. -/
def Obligations.JobsStartInTurn : Prop :=
  ∀ (die : Fin 2) (cls : Fin 5) (s : State),
    let c := cls.val + 1
    let free := (inService s die c).find? fun i => !((jigRunning s die c).any fun r => r.inst == i)
    ((getDom s (jigDom die c)).state ≠ .awake ∨ free = none ∨ jigQueued s die c = [] → Ignored (.jgDispatch die cls) s) ∧
    (∀ i, (getDom s (jigDom die c)).state = .awake → free = some i → jigQueued s die c ≠ [] → (∀ q ∈ jigQueued s die c, q.part < 4) →
      ∃ j u, nextJob s die c = some (j, u) ∧ j ∈ jigQueued s die c ∧
        (∀ q, (jigQueued s die c).find? (fun q => q.retry) = some q → j = q ∧ u = s) ∧
        ((jigQueued s die c).find? (fun q => q.retry) = none →
          pickPart (pickCredits s die c) = some j.part ∧
          (∀ e ∈ pickCredits s die c, ∃ v, (j.part, v) ∈ pickCredits s die c ∧ e.2 ≤ v) ∧
          (j.hi = false → ∀ q ∈ jigQueued s die c, q.part = j.part → q.hi = false)) ∧
        { u with jig := s.jig } = s ∧
        (bufferError s j = 0 → Gives (.jgDispatch die cls) s { u with jig := { u.jig with
          queue := s.jig.queue.filter (fun q => !(q.ord == j.ord)), running := s.jig.running ++ [{ inst := i, job := j }] } }) ∧
        (bufferError s j ≠ 0 → Gives (.jgDispatch die cls) s (endUnrun (dropQueued u fun q => q.ord == j.ord) j (bufferError s j))))

/-- The end of a job (R196, R197, R199 to R201): a copy that completes writes OUT, and STATUS with the outcome, iterations and LACT; a cancel ends the oldest pending job with that
address, or counts a miss; a failed copy leaves service, and its job runs again on another copy where the retry reads what the first attempt read. -/
def Parts.JobsEnd : Prop :=
  (∀ (die : Fin 2) (cls : Fin 5) (inst : Fin 8) (f : JigFind) (s : State),
    let c := cls.val + 1
    ((jigRunning s die c).find? (fun r => r.inst == inst.val) = none → Ignored (.jgComplete die cls inst f) s) ∧
    (∀ (r : JgRun) (rx out : List Byte) (n : Nat) (u u' v : State), (jigRunning s die c).find? (fun r => r.inst == inst.val) = some r → r.job.cls = c →
      let d := r.job.desc
      let s' := { s with jig := { s.jig with running := s.jig.running.filter fun q => !(q == r) } }
      jdComb d c = false → jdHst d c = false → memRead s' (some r.job.part) (jdIn d) (inBytes d c) = (0, rx, u) →
      jobOut u d c rx f = (out, u') → memWrite u' (some r.job.part) (jdOut d) out = (0, n, v) →
      Gives (.jgComplete die cls inst f) s (endJob v r.job (statusWord (jobOutcome d c f) (jobIter d c f) (jobLact d c)
        (4 * b2n ((c == 1 || c == 3) && jobIter d c f < jdMaxit d) + 8 * b2n r.job.retry) (jobXmax d c) r.inst) (jobAux d c (jobTime d c f) f))) ∧
    (∀ (r : JgRun) (e : Nat) (bs : List Byte) (u : State), (jigRunning s die c).find? (fun r => r.inst == inst.val) = some r → r.job.cls = c → e ≠ 0 →
      let d := r.job.desc
      memRead { s with jig := { s.jig with running := s.jig.running.filter fun q => !(q == r) } } (some r.job.part) (jdIn d) (inBytes d c) = (e, bs, u) →
      Gives (.jgComplete die cls inst f) s (endJob u r.job (statusWord 0x20 0 (jobLact d c) (8 * b2n r.job.retry) (jobXmax d c) r.inst) (jobAux d c f.time.toNat f)))) ∧
  (∀ (die : Fin 2) (p : Fin 4) (cls : Fin 5) (addr : BitVec 48) (who : Agent) (s : State), dieOut s die = false → mayTouch who (some p.val) = true →
    let c := cls.val + 1
    let hit := fun (j : JgJob) => j.part == p.val && j.addr == addr.toNat
    ((jigRunning s die c).filter (fun r => hit r.job) = [] → (jigQueued s die c).filter hit = [] →
      Gives (.jgCancel who die p cls addr) s (bump (done s) .jgCxlMiss (jgBank die p))) ∧
    (∀ j, (jigRunning s die c).filter (fun r => hit r.job) = [] → (jigQueued s die c).filter hit = [j] →
      Gives (.jgCancel who die p cls addr) s (endUnrun (dropQueued (done s) fun q => q.ord == j.ord) j 0x30)) ∧
    (∀ r, (jigRunning s die c).filter (fun r => hit r.job) = [r] → (jigQueued s die c).filter hit = [] →
      Gives (.jgCancel who die p cls addr) s (endStopped (dropRunning (done s) fun q => q.job.ord == r.job.ord) r 0x30))) ∧
  (∀ (die : Fin 2) (cls : Fin 5) (inst : Fin 8) (s : State),
    let c := cls.val + 1
    ((inService s die c).contains inst.val = false → Ignored (.jgFault die cls inst) s) ∧
    ((inService s die c).contains inst.val = true → (jigRunning s die c).find? (fun r => r.inst == inst.val) = none →
      Runs (.jgFault die cls inst) s fun t => (inService t die c).contains inst.val = false ∧
        ctrGet t .jgFault die = min (2 ^ 32 - 1) (ctrGet s .jgFault die + 1)) ∧
    (∀ r, (inService s die c).contains inst.val = true → (jigRunning s die c).find? (fun r => r.inst == inst.val) = some r → r.job.retry = false →
      inPlace r.job = false → (∃ i, i ≠ inst.val ∧ (inService s die c).contains i = true) →
      Runs (.jgFault die cls inst) s fun t => (inService t die c).contains inst.val = false ∧
        t.jig.queue = { r.job with retry := true } :: s.jig.queue ∧ t.jig.running = s.jig.running.filter (fun q => !(q == r)) ∧
        ctrGet t .jgRetry (jgBank die r.job.part) = min (2 ^ 32 - 1) (ctrGet s .jgRetry (jgBank die r.job.part) + 1)))

/-- What OUT and the running time of a job are (R190 to R192, R196, R202): an encoder that its standard defines for the descriptor sends the coded bits of IN; a decoder's
outcome without a CRC is success unless its stop condition, where one is asked for, does not hold; iterations never pass MAXIT; and with every buffer in cluster memory or a die
store TIME is the number of cycles of the formula of R202. -/
def Parts.JobResults : Prop :=
  ∀ (d : List Byte) (cls : Nat) (inp : List Byte) (f : JigFind) (s : State),
    (jdDecodes d cls = false → encodeStated d cls = true → jobOut s d cls inp f = (packBits (outBytes d cls) (encodeBits d cls inp), s)) ∧
    (jdDecodes d cls = true → (jobOut s d cls inp f).2 = s ∧ (jobOut s d cls inp f).1.length = outBytes d cls) ∧
    (jdDecodes d cls = false → jobOutcome d cls f = 1) ∧
    (cls = 1 → jdCrc d = 0 → jdEt d = 1 → jobUnsat d cls f ≠ 0 → jdDecodes d cls = true → jobOutcome d cls f = 3 ∧ jobIter d cls f = jdMaxit d) ∧
    (cls = 1 ∨ cls = 3 → jdCrc d ≠ 0 → jdEt d = 2 → jobOutcome d cls f = 2 → jobIter d cls f = jdMaxit d) ∧
    jobIter d cls f ≤ jdMaxit d ∧
    (jobNear d cls = true → jobTime d cls f = jobCycles d cls (jobIter d cls f))

/-! ### Dovetail (09_dovetail) -/

/-- Accepting an item (R207, R209, R210): a flow refuses with the first reason of R209 that holds, and the refusal is counted; else the item is queued behind all others with a handle, in an
ordered flow with the next sequence number. DV.ENQ answers the handle or the reason, 6 for a record that is misaligned or cannot be read; an arrival that is refused raises DV_LOSS_EVT to the host
and into the event flow (R33). The handle names the slot, its generation, which moves on at each use, and the die. -/
def Obligations.ItemsEnterFlows : Prop :=
  (∀ (s : State) (p f : Nat),
    let x := getFlow s f
    (ownsFlow s p f = false → refusal s p f false = 5) ∧
    (ownsFlow s p f = true → x.valid = false → refusal s p f false = 4) ∧
    (ownsFlow s p f = true → x.valid = true → x.open_ = false → refusal s p f false = 3) ∧
    (ownsFlow s p f = true → x.valid = true → x.open_ = true → x.qmax ≤ qcount s f → refusal s p f false = 1) ∧
    (ownsFlow s p f = true → x.valid = true → x.open_ = true → qcount s f < x.qmax → dvQuota s p (flowDie f) ≤ quotaUsed s p (flowDie f) →
      refusal s p f false = 2) ∧
    (ownsFlow s p f = true → x.valid = true → x.open_ = true → qcount s f < x.qmax → quotaUsed s p (flowDie f) < dvQuota s p (flowDie f) →
      refusal s p f false = 0)) ∧
  (∀ (s : State) (p : Nat) (n : NewItem), refusal s p n.flow false = 0 →
    ∃ (t : State) (it : Item), enqueue s p n = (0, t, some it) ∧ t.dv.items = s.dv.items ++ [it] ∧ it.flow = n.flow ∧ it.kind = n.kind ∧ it.tag = n.tag ∧
      it.arg0 = n.arg0 ∧ it.arg1 = n.arg1 ∧ it.level = n.prio.getD (getFlow s n.flow).dprio ∧ it.place = .queued ∧ it.arrNs = upNs s ∧
      (it.hdl.getLsbD 61 = decide (flowDie n.flow = 1)) ∧
      (let k := 65536 * flowDie n.flow + itemSlot it
       let g := tget s.dv.gens 0 k + 1
       it.hdl.toNat = itemSlot it + (Config.firstGen k + g) % 2 ^ 45 * 2 ^ 16 + flowDie n.flow * 2 ^ 61 ∧ tget t.dv.gens 0 k = g ∧
       ∀ j, j ≠ k → tget t.dv.gens 0 j = tget s.dv.gens 0 j) ∧
      ((getFlow s n.flow).kind = 1 → it.seq = (getFlow s n.flow).seqNext ∧ (getFlow t n.flow).seqNext = ((getFlow s n.flow).seqNext + 1) % 2 ^ 32) ∧
      ((getFlow s n.flow).kind ≠ 1 → it.seq = 0 ∧ (getFlow t n.flow).seqNext = (getFlow s n.flow).seqNext) ∧
      (getFlow t n.flow).enqCnt = ((getFlow s n.flow).enqCnt + 1) % 2 ^ 64 ∧
      (∀ g : Nat, g ≠ n.flow → getFlow t g = getFlow s g) ∧ { t with dv := s.dv, fresh := s.fresh } = s) ∧
  (∀ (c : Fin 112) (rd rs1 : BitVec 5) (s u : State), FetchesOffEnd s c u →
    let x := getCore u c
    let p := corePartN u c
    let a := (gRead x rs1.toNat).toNat
    (a % 32 ≠ 0 → Gives (.dvEnq c rd rs1 0) s (retire (setG (bump u .dvEnqRej (dvBank p (coreDie c))) c rd.toNat 6) c x.pc)) ∧
    (∀ (bs : List Byte) (v : State), a % 32 = 0 → memRead u (some p) a 32 = (0, bs, v) →
      (∀ w it, enqueue v p (recordItem bs) = (0, w, some it) →
        Gives (.dvEnq c rd rs1 0) s (retire (setG w c rd.toNat (it.hdl ||| BitVec.ofNat 64 (2 ^ 63))) c x.pc)) ∧
      (∀ r w, r ≠ 0 → enqueue v p (recordItem bs) = (r, w, none) → Gives (.dvEnq c rd rs1 0) s (retire (setG w c rd.toNat (BitVec.ofNat 64 r)) c x.pc)))) ∧
  (∀ (p : Fin 4) (flow : BitVec 18) (kind : Fin 10) (prio : Option (Fin 16)) (tag arg0 arg1 : Word) (s : State),
    let n : NewItem := { flow := flow.toNat, kind := kind.val, prio := prio.map fun x => x.val, tag := tag, arg0 := arg0, arg1 := arg1 }
    (∀ t it, enqueue s p n = (0, t, some it) → Gives (.dvItemArrive p flow kind prio tag arg0 arg1) s t) ∧
    (∀ r, r ≠ 0 → refusal s p flow.toNat false = r →
      let word := flow.toNat + kind.val * 2 ^ 18 + r * 2 ^ 24
      Gives (.dvItemArrive p flow kind prio tag arg0 arg1) s (toEventFlow (postPart (countRefusal s p flow.toNat) p 0x0700 word 0) p 0x0700 word 0)))

/-- Staging and DV.GET (R211, R212): the ready item of the highest level, the earliest among equals, is staged on the best core that takes it; DV.GET writes the older staged item's
record to the mailbox, hands it over as running and answers its handle, answers 0 with none staged, and bit 62 with four running. -/
def Obligations.ItemsAreStagedAndRun : Prop :=
  (∀ (die : Fin 2) (s : State), (∀ it, it ∈ s.dv.items → flowDie it.flow = die.val → isReady s it = true → takers s it = []) → Ignored (.dvStage die) s) ∧
  (∀ (die : Fin 2) (s : State) (it : Item) (c : Nat), stageItem s die = some it → bestCore s (takers s it) = some c → Runs (.dvStage die) s fun t =>
    it ∈ s.dv.items ∧ isReady s it = true ∧ flowDie it.flow = die.val ∧ c ∈ takers s it ∧
    (∀ x ∈ s.dv.items, flowDie x.flow = die.val → isReady s x = true → takers s x ≠ [] → x.level ≤ it.level) ∧
    t.dv = { s.dv with nextOrd := s.dv.nextOrd + 1, items := s.dv.items.map fun x => if x.id == it.id then { x with place := .staged c s.dv.nextOrd } else x } ∧
    t.mem = s.mem ∧ t.cores = s.cores ∧ t.parts = s.parts) ∧
  (∀ (c : Fin 112) (rd : BitVec 5) (s u : State), FetchesOffEnd s c u →
    let x := getCore u c
    let p := corePartN u c
    (oldestStaged u c = none → Gives (.dvGet c rd 0 0) s (retire (setG u c rd.toNat 0) c x.pc)) ∧
    (∀ it, oldestStaged u c = some it →
      (∀ y ∈ stagedOn u c, (getTick u p).wins.find? (fun w => w.item == y.id && decide (w.closeAt ≤ u.tu.count)) = none) →
      (4 ≤ (runningOn u c).length → Gives (.dvGet c rd 0 0) s (retire (setG u c rd.toNat (BitVec.ofNat 64 (2 ^ 62))) c x.pc)) ∧
      (∀ n v, (runningOn u c).length < 4 → memWrite u (some p) (getDvCore u c).mbox (itemRecord it) = (0, n, v) →
        Runs (.dvGet c rd 0 0) s fun t =>
          t.dv.items = v.dv.items.map (fun y => if y.id == it.id then { y with place := .running c.val, getNs := upNs v } else y) ∧
          getCore t c = getCore (retire (setG v c rd.toNat (it.hdl ||| BitVec.ofNat 64 (2 ^ 63))) c x.pc) c ∧ t.mem = v.mem)))

/-- DV.REL, DV.CXL and forwarding (R213, R215, R216): an item that its core holds is released, as a tombstone if the code is not 0; a handle it does not hold counts DV_REL_BAD. A waiting
item is withdrawn and answers 1; a running one gets a work-item abort and answers 2; any other handle answers 0. A flow without a successor lets a released item leave at once; to a successor
on its own die an item keeps its slot (R209). -/
def Parts.ItemsLeaveFlows : Prop :=
  (∀ (c : Fin 112) (gt rs1 : BitVec 5) (code : BitVec 10) (s u : State), FetchesOffEnd s c u → code.toNat < 256 → (code = 0 ∨ 0xC0 ≤ code.toNat) →
    let x := getCore u c
    let p := corePartN u c
    let v := gRead x rs1.toNat
    (heldItem u c v = none → Gives (.dvRel c gt rs1 code) s (retire (bump u .dvRelBad (dvBank p (handleDie v))) c x.pc)) ∧
    (∀ it, heldItem u c v = some it → (getTick u p).wins.find? (fun w => w.item == it.id && decide (w.closeAt ≤ u.tu.count)) = none →
      let it' := if gt.toNat = 0 then it else { it with tag := gRead x gt.toNat }
      Gives (.dvRel c gt rs1 code) s (retire (noteIdle (releaseItem (countBudget u p c it) (if code.toNat = 0 then it' else toTomb it' code.toNat)) c) c x.pc))) ∧
  (∀ (c : Fin 112) (rd rs1 : BitVec 5) (s u : State), FetchesOffEnd s c u →
    let x := getCore u c
    let p := corePartN u c
    let v := gRead x rs1.toNat
    let answers := fun (t : State) (n : Nat) => retire (setG t c rd.toNat (BitVec.ofNat 64 n)) c x.pc
    (itemOfReg u v = none → Gives (.dvCxl c rd rs1 0) s (answers (bump u .dvCxlMiss (dvBank p (handleDie v))) 0)) ∧
    (∀ it, itemOfReg u v = some it →
      (ownsFlow u p it.flow = false → Gives (.dvCxl c rd rs1 0) s (answers (bump u .dvCxlMiss (dvBank p (handleDie v))) 0)) ∧
      (ownsFlow u p it.flow = true → isWaiting it = true →
        Gives (.dvCxl c rd rs1 0) s (answers (bump (abortItem u it 0x81) .dvCxlPre (dvBank p (flowDie it.flow))) 1)) ∧
      (ownsFlow u p it.flow = true → isRunning it = true →
        Gives (.dvCxl c rd rs1 0) s (answers (bump (abortItem u it 0x81) .dvCxlRun (dvBank p (flowDie it.flow))) 2)))) ∧
  (∀ (s : State) (it : Item), (getFlow s it.flow).kind = 0 → (getFlow s it.flow).nextEn = false →
    let t := releaseItem s it
    t.dv.items = s.dv.items.filter (fun x => x.id != it.id) ∧ (getFlow t it.flow).outCnt = ((getFlow s it.flow).outCnt + 1) % 2 ^ 64 ∧
    ((getFlow t it.flow).tombCnt = if it.tomb then ((getFlow s it.flow).tombCnt + 1) % 2 ^ 64 else (getFlow s it.flow).tombCnt)) ∧
  (∀ (flow : BitVec 18) (s : State), (getFlow s flow.toNat).kind ≠ 1 →
    ((flowItems s flow.toNat).find? (fun it => it.place == .held) = none → Ignored (.dvFwdRetry flow) s) ∧
    (∀ (it : Item) (p : Nat), (flowItems s flow.toNat).find? (fun it => it.place == .held) = some it →
      let x := getFlow s it.flow
      x.nextEn = true → (it.tomb = false ∨ x.tfwd = true) → flowOwner s it.flow = some p → refusal s p x.next (flowDie x.next == flowDie it.flow) = 0 →
      Gives (.dvFwdRetry flow) s
        (addItem (countOut (dropItem s it) it) { flow := x.next, kind := it.kind, tomb := it.tomb, tag := it.tag, arg0 := it.arg0, arg1 := it.arg1 }
          (if flowDie x.next = flowDie it.flow then some (itemSlot it) else none) .queued).1))

/-- Flow contexts and core sets (R206, R214): a configuration that passes is put in force, from SEQ 0 and cleared counts where the flow becomes valid; one that does not is counted in
DV_CFG_REJ and changes nothing else. A core set of the partition's cores is taken; one that names another core is refused and counted. On a die that is lost (R399) neither is taken: STATUS 4. -/
def Parts.FlowsAndCoreSetsAreConfigured : Prop :=
  (∀ (p : Fin 4) (flow : BitVec 18) (val : BitVec 32) (s : State),
    let o := getFlow s flow.toNat
    let n := flowConfig o val.toNat
    (dieOut s (flowDie flow.toNat) = true → ∀ who, Gives (.dvFlowCfgWrite who flow val) s (answer s 4 0)) ∧
    (dieOut s (flowDie flow.toNat) = false →
    (flowConfigOk s p flow.toNat o n = false → Gives (.dvFlowCfgWrite (.part p) flow val) s (done (bump s .dvCfgRej (dvBank p (flowDie flow.toNat))))) ∧
    (flowConfigOk s p flow.toNat o n = true → (o.valid = true ∨ n.valid = false) → Gives (.dvFlowCfgWrite (.part p) flow val) s (done (setFlow s flow.toNat n))) ∧
    (flowConfigOk s p flow.toNat o n = true → o.valid = false → n.valid = true → Gives (.dvFlowCfgWrite (.part p) flow val) s
      (done (setFlow s flow.toNat { n with seqNext := 0, seqOut := 0, enqCnt := 0, outCnt := 0, tombCnt := 0, rejCnt := 0 }))) ∧
    (flowConfigOk s p flow.toNat o n = true → n.kind ≠ 3 ∧ n.qmax ≠ 0 ∧ ownsFlow s p flow.toNat = true ∧ qcount s flow.toNat ≤ n.qmax ∧
      (0 < qcount s flow.toNat → n.kind = o.kind ∧ n.cset = o.cset ∧ n.next = o.next ∧ n.nextEn = o.nextEn)) ∧
    Gives (.dvFlowCfgWrite (.host 0) flow val) s (foreign s))) ∧
  (∀ (who : Agent) (die : Fin 2) (p : Fin 4) (set : Fin 16) (val : Word) (s : State),
    let v := val.toNat % 2 ^ 56
    (dieOut s die = true → Gives (.dvCsetWrite who die p set val) s (answer s 4 0)) ∧
    (dieOut s die = false → mayTouch who (some p.val) = true →
    (csetOk s die p v = false → Gives (.dvCsetWrite who die p set val) s (done (bump s .dvCfgRej (dvBank p die)))) ∧
    (csetOk s die p v = true → Runs (.dvCsetWrite who die p set val) s fun t =>
      csetOf t die p set = v ∧ (∀ k, k < 16 → k ≠ set.val → csetOf t die p k = csetOf s die p k) ∧
      (∀ j : Nat, j < 56 → bit v j = true → ownsCore s p (globalCore die j) = true) ∧
      { t with dv := s.dv, hosts := s.hosts, ctr := s.ctr, fresh := s.fresh, flt := s.flt, answer := s.answer } = s)))

/-! ### The Spline fabric and the die links (10_spline_fabric) -/

/-- Injection (R222 to R224, R231, R232, R234). A request that fits, of an agent of the port and a partition that it serves, at a port where nothing waits: an address without a target is answered
with STATUS 4; else its packet takes the next SEQ, and starts at once under the port's epoch where its class is not held, its route not changing, its gate, or that of the jig instance that sends, open and
the bucket holds its cost, which it takes; otherwise it waits, and a changing route holds its class. Any other request does nothing [log 15]. -/
def Obligations.PacketsAreInjected : Prop :=
  ∀ (src : Fin 160) (r : NocReq) (s : State),
    let cls := cmdClass r.cmd.toNat
    let x := getPort s src
    let tok := tget (gainTokens x (upNs s)).tok 0 cls
    let cost := 1024 * pktUnits r.cmd.toNat r.len.toNat 0
    let row := Instr.nocInject src (some r)
    (reqFits r = false ∨ agentAt src r.subsrc.toNat = false ∨ servesPart s src r.subsrc.toNat r.part.val = false → Ignored row s) ∧
    (reqFits r = true → agentAt src r.subsrc.toNat = true → servesPart s src r.subsrc.toNat r.part.val = true →
      (reqDest r = none → Runs row s fun t => t.noc.pkts = s.noc.pkts ∧ ∃ p, (getPort t src).ans = some p ∧
        p.status = 4 ∧ p.cls = 1 ∧ p.dest = src.val ∧ p.subsrc = r.subsrc.toNat ∧ p.cmd = if cls = 2 then 0x14 else dueAnswer r.cmd.toNat) ∧
      (∀ d, reqDest r = some d → x.wait = [] →
        let p := { makePkt s src d r with seq := tget x.seq 0 cls }
        let held := x.heldCls.contains cls || ((portNoc s src).busy && chgBit x d)
        (p.src = src.val ∧ p.dest = d ∧ p.cls = cls ∧ p.addr = r.addr.toNat ∧ p.len = r.len.toNat ∧ p.part = portPart s src r.subsrc.toNat r.part.val ∧
          p.epoch = x.epoch) ∧
        (held = false → sendGate s src p = 0 → cost ≤ tok → Runs row s fun t =>
          t.noc.pkts = s.noc.pkts ++ [p] ∧ (getPort t src).wait = [] ∧ tget (getPort t src).tok 0 cls = tok - cost ∧
          tget (getPort t src).seq 0 cls = (tget x.seq 0 cls + 1) % 4096 ∧ (∀ q : Nat, q ≠ src.val → getPort t q = getPort s q) ∧
          { t with noc := s.noc } = s) ∧
        (held = true ∨ sendGate s src p ≠ 0 ∨ tok < cost → Runs row s fun t =>
          t.noc.pkts = s.noc.pkts ∧ (getPort t src).wait = [p] ∧ tget (getPort t src).tok 0 cls = tok ∧
          tget (getPort t src).seq 0 cls = (tget x.seq 0 cls + 1) % 4096 ∧ (held = true → (getPort t src).heldCls.contains cls = true) ∧
          (∀ q : Nat, q ≠ src.val → getPort t q = getPort s q) ∧ { t with noc := s.noc } = s)))

/-- A request, a stream write or an event reaches its destination (R225, R226): it is performed on the memory or the registers at its address for the partition
stamped into it, and answered as R225 says; a NOTIFY sets the bit it names, where that core has it and no unit's state stands in it (R123), at a core of its partition, or of any where the MC sent it. -/
def Parts.PacketsArePerformed : Prop :=
  ∀ (src dest : Fin 160) (s : State) (p : Pkt),
    let u := dropPkt s p
    (∀ st bs v, Arrives s src dest 0x01 p →
      (targetOf p.addr ≠ .regs ∧ memRead u p.part p.addr p.len = (st, bs, v)) ∨
        (∃ w o, targetOf p.addr = .regs ∧ regAddr p.addr = some (w, o) ∧ regRead u p.part w o p.len = (st, bs, v)) →
      Gives (.nocRead src dest none) s (sendRsp v p 0x10 st 0 (if st = 0 then bs else []))) ∧
    (∀ st n v, (targetOf p.addr ≠ .regs ∧ memWrite u p.part p.addr p.data = (st, n, v)) ∨
        (∃ w o, targetOf p.addr = .regs ∧ regAddr p.addr = some (w, o) ∧ devWrite u p.part w o p.data = (st, v)) →
      (Arrives s src dest 0x02 p → Gives (.nocWrite src dest none) s (sendRsp v p 0x11 st 0 [])) ∧
      (Arrives s src dest 0x20 p → st = 0 → Gives (.nocSwrite src dest none) s v) ∧
      (Arrives s src dest 0x20 p → st ≠ 0 → Gives (.nocSwrite src dest none) s (refusePkt v p st)) ∧
      (Arrives s src dest 0x21 p → st = 0 → Gives (.nocSwriteL src dest none) s (sendRsp v p 0x13 0 0 [])) ∧
      (Arrives s src dest 0x21 p → st ≠ 0 → Gives (.nocSwriteL src dest none) s (refusePkt v p st))) ∧
    (∀ st old v, Arrives s src dest 0x03 p → memAtomic u p.part p.addr (if p.aw then 8 else 4) p.aop p.opnd.toNat p.cmp.toNat = (st, old, v) →
      Gives (.nocAtomic src dest none) s (sendRsp v p 0x12 st (BitVec.ofNat 64 old) [])) ∧
    (Arrives s src dest 0x30 p → (portCore p.src).isSome = true → p.subsrc = 0 →
      (∀ v it, enqueue u (p.part.getD 4) (pktItem p) = (0, v, some it) →
        Gives (.nocDvitem src dest none) s (sendPkt v p.dest { rspOf v p 0x31 0 (it.hdl ||| BitVec.ofNat 64 (2 ^ 63)) [] with cls := 3, status := 0 })) ∧
      (∀ r v, enqueue u (p.part.getD 4) (pktItem p) = (r, v, none) →
        Gives (.nocDvitem src dest none) s (sendPkt v p.dest { rspOf v p 0x31 0 (BitVec.ofNat 64 r) [] with cls := 3, status := 0 }))) ∧
    (Arrives s src dest 0x30 p → portCore p.src = none → Gives (.nocDvitem src dest none) s (enqueueExt u (p.part.getD 4) (pktItem p)).2.1) ∧
    (Arrives s src dest 0x31 p → portGate s dest = 0 → Gives (.nocDvans src dest none) s (answerAgent u dest p)) ∧
    (∀ c, Arrives s src dest 0x32 p → portGate s dest = 0 → portCore dest = some c →
      (p.part = none ∨ p.part = corePart s c →
        (let b := p.opnd.toNat % 256
        let held := b = 0 ∨ b = 5 ∨ b = 6 ∨ b = if isChisel c then 4 else 7
        (held → Gives (.nocNotify src dest none) s (setIp u c b)) ∧ (¬held → Gives (.nocNotify src dest none) s u))) ∧
      (p.part.isSome = true → p.part ≠ corePart s c → Gives (.nocNotify src dest none) s u))

/-- Answers, refusals and timeouts (R225, R226, R234, R237): an answer ends the request of its SEQ and reaches the agent, one that nothing awaits is counted and dropped, SNAK reaches
it unless its stream write had timed out, and an error answer to a core's own store waits as its store error (R128); a closed gate answers requests and drops answers; a packet whose header fails HCRC is dropped and counted;
a request without answer is answered with STATUS 4. That the owner is checked before the gate, and that a lost die's refusals are not counted, is log 56's reading. -/
def Parts.AnswersReachTheirRequester : Prop :=
  (∀ (src dest : Fin 160) (s : State) (p : Pkt),
    let x := getPort s dest
    let rows : List (Nat × Instr) := [(0x10, .nocRdata src dest none), (0x11, .nocWack src dest none), (0x12, .nocAack src dest none), (0x13, .nocLanded src dest none), (0x14, .nocSnak src dest none)]
    ∀ e ∈ rows, Arrives s src dest e.1 p → p.dest = dest.val →
      (∀ o, x.out.find? (fun o => o.seq == p.seq && (dueAnswer o.cmd == p.cmd || (o.cls == 2 && p.cmd == 0x14))) = some o →
        Gives e.2 s (answerAgent (setPort (dropPkt s p) dest { x with out := x.out.filter fun q => q != o }) dest p)) ∧
      (x.out.find? (fun o => o.seq == p.seq && (dueAnswer o.cmd == p.cmd || (o.cls == 2 && p.cmd == 0x14))) = none →
        (e.1 ≠ 0x14 → Gives e.2 s (bump (dropPkt s p) .nocRspLate dest)) ∧
        (e.1 = 0x14 → x.lost.contains p.seq = false → Gives e.2 s (answerAgent (dropPkt s p) dest p)) ∧
        (e.1 = 0x14 → x.lost.contains p.seq = true → Gives e.2 s
          (bump (setPort (dropPkt s p) dest { x with lost := x.lost.filter fun i => i != p.seq }) .nocRspLate dest)))) ∧
  (∀ (src dest : Fin 160) (s : State) (p : Pkt), oldestPkt s src dest 0 = some p → p.cmd = 0x01 → p.cls = 0 → blockedAt s p = none → portGate s dest ≠ 0 → p.dest = dest.val →
    (pktForeign s p = true → Gives (.nocRead src dest none) s (refusePkt (dropPkt s p) p 5)) ∧ (pktForeign s p = false →
    Gives (.nocRead src dest none) s (refusePkt (if portGate s dest = 3 then bump (dropPkt s p) .nocGateRefuse dest else dropPkt s p) p (portGate s dest)))) ∧
  (∀ (src dest : Fin 160) (s : State) (p : Pkt), oldestPkt s src dest 1 = some p → p.cmd = 0x10 → p.cls = 1 → blockedAt s p = none → portGate s dest ≠ 0 → p.dest = dest.val →
    Gives (.nocRdata src dest none) s (alertMc (bump (dropPkt s p) .nocGateOrph (portDie dest)) (.nocGateOrph dest))) ∧
  (∀ (src dest : Fin 160) (d : Fin 3) (bits : BitVec 512) (s : State) (p : Pkt), oldestPkt s src dest 0 = some p → p.cmd = 0x02 →
    (hcrcOk (headerWord p ^^^ bits.toNat) = false →
      Gives (.nocWrite src dest (some (d, bits))) s (alertMc (bump (dropPkt s p) .nocHcrcErr d) (.nocHcrc d))) ∧
    (hcrcOk (headerWord p ^^^ bits.toNat) = true → ∀ t, Gives (.nocWrite src dest none) s t → Gives (.nocWrite src dest (some (d, bits))) s t)) ∧
  (∀ (port c : Nat) (s : State) (p : Pkt), (getPort (answerAgent s port p) port).ans = some p ∧
    (portCore port = some c → p.subsrc = 0 → p.status ≠ 0 → p.cmd = 0x11 → (getCore (answerAgent s port p) c).fabQ = (getCore s c).fabQ ++ [BitVec.ofNat 64 p.addr]) ∧
    (p.status = 0 ∨ (portCore port = none ∧ portDma port p.subsrc = none) → ∀ c' : Nat, getCore (answerAgent s port p) c' = getCore s c')) ∧
  (∀ (src dest : Fin 160) (s : State), oldestPkt s src dest 0 = none → Ignored (.nocRead src dest none) s) ∧
  (∀ (port : Fin 160) (cls : Fin 4) (seq : BitVec 12) (s : State),
    let x := getPort s port
    let due := x.out.find? fun o => o.seq == seq.toNat && o.cls == cls.val
    (due = none → Ignored (.nocReqTimeout port cls seq) s) ∧
    (∀ o, due = some o → upNs s < o.at_ + (portNoc s port).reqTmo → Ignored (.nocReqTimeout port cls seq) s) ∧
    (∀ o, due = some o → o.at_ + (portNoc s port).reqTmo ≤ upNs s → Runs (.nocReqTimeout port cls seq) s fun t =>
      (∃ a, (getPort t port).ans = some a ∧ a.status = 4 ∧ a.cmd = dueAnswer o.cmd ∧ a.seq = o.seq ∧ a.subsrc = o.subsrc) ∧
      (getPort t port).out = x.out.filter (fun q => q != o) ∧ (o.cls = 2 → (getPort t port).lost = x.lost ++ [o.seq]) ∧ ctrGet t .nocReqTmo port = min (2 ^ 32 - 1) (ctrGet s .nocReqTmo port + 1)))

/-- Route epochs (R232, R233): GO by the MC, while not BUSY, sets BUSY and switches every port of the die to the standby epoch; only the MC may write it; once every die has switched and
nothing of the old epoch is left, CUR turns over, BUSY clears on each die, held classes resume, and the bundles whose traffic
this change has moved are no longer being moved; past the limit LATE is set and counted once. -/
def Obligations.RouteEpochsTurnOver : Prop :=
  (∀ (die : Fin 3) (s : State),
    (∀ p, Gives (.nocRteEpochGo (.part p) die) s (foreign s)) ∧
    ((getNocDie s die).busy = true → Gives (.nocRteEpochGo .mc die) s (done s)) ∧
    ((getNocDie s die).busy = false → Runs (.nocRteEpochGo .mc die) s fun t =>
      (getNocDie t die).busy = true ∧ (getNocDie t die).goAt = upNs s ∧ (getNocDie t die).cur = (getNocDie s die).cur ∧
      (∀ q : Nat, q < 160 → portDie q = die.val → (getPort t q).epoch = !(getNocDie s die).cur) ∧
      (∀ q : Nat, q < 160 → portDie q ≠ die.val → getPort t q = getPort s q) ∧ { t with noc := s.noc, answer := s.answer } = s)) ∧
  (∀ s : State,
    let ready := (upFrom 0 3).all (fun d => dieOut s d || (getNocDie s d).busy) && !(s.noc.pkts.any (isOld s)) && s.noc.dropLog.all (fun e => e.2.isEmpty)
    (ready = false → Ignored .nocEpochRetire s) ∧
    (ready = true → Runs .nocEpochRetire s fun t =>
      (∀ d : Nat, d < 3 → (getNocDie t d).cur = !(getNocDie s d).cur ∧ (getNocDie t d).busy = false ∧ (getNocDie t d).late = false) ∧
      (∀ q : Nat, q < 160 → (getPort t q).heldCls = []) ∧ t.noc.moving = s.noc.moving.filter fun e => !s.noc.planned.contains e.1)) ∧
  (∀ s : State, Runs .nocEpochLate s fun t => ∀ d : Nat, d < 3 →
    let late := (getNocDie s d).goAt + (getNocDie s d).epochLim ≤ upNs s
    ((getNocDie s d).busy = true → late → (getNocDie t d).late = true) ∧
    ((getNocDie s d).busy = true → (getNocDie s d).late = false → late → ctrGet t .nocRteFail d = min (2 ^ 32 - 1) (ctrGet s .nocRteFail d + 1)) ∧
    ((getNocDie s d).busy = false ∨ (getNocDie s d).late = true ∨ ¬late → ctrGet t .nocRteFail d = ctrGet s .nocRteFail d ∧ getNocDie t d = getNocDie s d))

/-- Die links (R239 to R242). A unit that the sender can have sent, with the ACK and NAK that its station forms [log 94], arrives with its link word, as sent but for the bits in error. The unit expected next is
delivered and acknowledges; one that fails LCRC is counted, kept as a failed copy and NAKed, and the sixteenth failure of the awaited unit takes the bundle down; a
good one out of order is NAKed; an idle one only acknowledges. A NAK that the receiver forms winds the sender back to ACK + 1; REPAIR puts the sender in in-band mode from a SWITCH on, SWITCH the receiver;
a bundle that goes down is down in both directions. What a sender can have sent, and which arrival counts as a retry, is log 94's reading. -/
def Parts.LinksDeliverInOrder : Prop :=
  ∀ (b : Fin 40) (dir : Fin 2) (s : State),
    let d := 2 * b.val + dir.val
    let l := getLink s d
    (∀ (u : LinkUnit) (crossed : List Nat),
      let row := Instr.linkUnitRx b dir u crossed
      let got := sentBits u ^^^ u.err.toNat
      let v := setLink s d (noteSent l u)
      let awaited := u.vld && u.lseq.toNat == l.rxNext
      (l.state < 2 ∨ canSend l u = false ∨ ackFormed (getLink s (revDir d)) u = false → Ignored row s) ∧
      (2 ≤ l.state → canSend l u = true → ackFormed (getLink s (revDir d)) u = true →
        (lcrcOk got = true → awaited = true → u.ctl = false → (∀ e ∈ l.failed, e.1 ≠ l.rxNext) →
          let w := takeAck v d u
          Gives row s (setLink (if l.rxNak then bump w .nocLnkRetry d else w) d
            { noteSent l u with rxNext := (l.rxNext + 1) % 64, rxNak := false, failRun := 0 })) ∧
        (lcrcOk got = false →
          let w := bump v .nocLnkCrcErr d
          let run := if awaited then l.failRun + 1 else l.failRun
          let w := setLink (if awaited && l.rxNak then bump w .nocLnkRetry d else w) d { noteSent l u with
            rxNak := true, failRun := run, failed := if u.vld then l.failed ++ [(u.lseq.toNat, got)] else l.failed }
          (run < 16 → Gives row s w) ∧ (16 ≤ run → Gives row s (bundleDown w b crossed))) ∧
        (lcrcOk got = true → u.vld = true → u.lseq.toNat ≠ l.rxNext → Gives row s (setLink s d { noteSent l u with rxNak := true })) ∧
        (lcrcOk got = true → u.vld = false → Gives row s (takeAck v d u)))) ∧
    (∀ ack : BitVec 6, l.state < 2 ∨ l.rxNak = false ∨ ack.toNat ≠ (l.rxNext + 63) % 64 → Ignored (.linkNakRx b dir ack) s) ∧
    (∀ ack : BitVec 6, 2 ≤ l.state → l.rxNak = true → ack.toNat = (l.rxNext + 63) % 64 → Runs (.linkNakRx b dir ack) s fun t =>
      (getLink t d).txNext = (ack.toNat + 1) % 64 ∧ ((ack.toNat + 64 - l.txAck) % 64 < 48 → (getLink t d).txAck = (ack.toNat + 1) % 64) ∧
      (∀ e : Nat, e ≠ d → getLink t e = getLink s e) ∧ { t with noc := s.noc } = s) ∧
    (∀ lane : Fin 17, l.state = 2 → l.repairing = some lane.val → l.txInBand = false →
      (getLink s (revDir d)).txNext = (getLink s (revDir d)).rxNext → (getLink s (revDir d)).failed = [] → Runs (.linkRepairRx b dir lane) s fun t =>
      (getLink t d).txInBand = true ∧ (getLink t d).txBad = lane.val ∧ (getLink t d).txSwitch.isSome = true ∧ (getLink t d).state = 2 ∧
      (getLink t (revDir d)).rxNext = ((getLink s (revDir d)).rxNext + 1) % 64) ∧
    (∀ (lseq : BitVec 6) (i : Nat), l.state = 2 → l.repairing = some i → l.txSwitch = some lseq.toNat → lseq.toNat = l.rxNext → lseq.toNat = l.txNext →
      l.failed = [] → Runs (.linkSwitchRx b dir lseq) s fun t =>
      (getLink t d).state = 3 ∧ (getLink t d).bad = i ∧ (getLink t d).rxInBand = true ∧ (getLink t d).repairing = none ∧
      (getLink t d).rxNext = (l.rxNext + 1) % 64 ∧ (∀ e : Nat, e ≠ d → getLink t e = getLink s e)) ∧
    (∀ (clk : Option (Fin 2)) (crossed : List Nat), bundleUp s b = true → Runs (.linkBundleDown b clk crossed) s fun t =>
      (getLink t (2 * b.val)).state = 0 ∧ (getLink t (2 * b.val + 1)).state = 0 ∧ bundleUp t b = false ∧
      (∀ i : Fin 2, clk = some i → (getLink t (2 * b.val + i.val)).clk = false) ∧
      (∀ e : Nat, e / 2 ≠ b.val → getLink t e = getLink s e)) ∧
    (∀ clk crossed, bundleUp s b = false → Ignored (.linkBundleDown b clk crossed) s)

/-! ### The DMA engines (11_dma) -/

/-- Commands to a channel by its partition at an open gate (R254, R256, R257): RUN starts an idle or halted channel; PAUSE drains or pauses it and RESUME lets it go on; STOP ends it; a doorbell re-fetches
a parked channel or stays pending; DMA_CH_DESC and DMA_CH_TICK are written only while the channel is at rest. Another partition is answered 5, a closed gate its STATUS, and a lost die 4.
A channel paused in WAIT_TRIG stands before the first unit of the descriptor that it has fetched (R256). -/
def Parts.ChannelCommands : Prop :=
  ∀ (who : Agent) (e : Fin 28) (c : Fin 16) (s : State),
    let k := dmaNo e c
    let x := getDma s k
    let put := fun (y : DmaCh) => setDma (done s) k y
    let out := k / 16 < 24 ∧ dieOut s (k / 192) = true
    (out → Gives (.dmaRun who e c) s (answer s 4 0)) ∧
    (¬out → mayTouch who (some (dmaPart s k)) = false → Gives (.dmaRun who e c) s (foreign s)) ∧
    (¬out → mayTouch who (some (dmaPart s k)) = true → dmaGate s k ≠ 0 →
      Gives (.dmaRun who e c) s (answer (noteGate s (corePort (4 * (k / 16))) (dmaGate s k)) (dmaGate s k) 0)) ∧
    (mayTouch who (some (dmaPart s k)) = true → dmaGate s k = 0 →
      (x.state = .idle ∨ x.state = .halted → Gives (.dmaRun who e c) s (put { x with state := if x.pause then .paused else .fetch, back := .fetch, pos := 0, linkOnly := false, stop := false })) ∧
      (x.state ≠ .idle → x.state ≠ .halted → Gives (.dmaRun who e c) s (done s)) ∧
      (x.state = .active → Gives (.dmaPause who e c) s (put { x with pause := true, state := .pausing, back := .active })) ∧
      (x.state = .waitTrig → Gives (.dmaPause who e c) s (put { x with
        pause := true, state := .paused, back := .waitTrig, pos := 0, scur := startSrc x, dcur := startDst x })) ∧
      (x.state = .fetch → Gives (.dmaPause who e c) s (put { x with pause := true, state := .pausing, back := .fetch, pos := 0 })) ∧
      (x.state = .idle → Gives (.dmaPause who e c) s (put { x with pause := true })) ∧
      (x.state = .paused → x.back = .active → Gives (.dmaResume who e c) s (put { x with pause := false, state := .active })) ∧
      (x.state = .paused → x.back = .waitTrig → Gives (.dmaResume who e c) s (testTrigger (put { x with pause := false }) k)) ∧
      (x.state = .active → Gives (.dmaStop who e c) s (put { x with state := .pausing, back := .active, stop := true })) ∧
      (x.state = .fetch ∨ x.state = .waitTrig ∨ x.state = .parked → Gives (.dmaStop who e c) s (put { x with state := .idle })) ∧
      (x.state = .parked → Gives (.dmaDoorbell who e c) s (put { x with state := .fetch })) ∧
      (x.state ≠ .parked → Gives (.dmaDoorbell who e c) s (put { x with pendDb := true })) ∧
      (∀ v : Word, x.state = .idle ∨ x.state = .halted ∨ x.state = .paused →
        Gives (.dmaChDescWrite who e c false v) s (put { x with desc := v.toNat / 64 % 2 ^ 42 * 64 }) ∧
        Gives (.dmaChDescWrite who e c true v) s (put { x with tick := v.toNat % 2 ^ 21 })) ∧
      (∀ (v : Word) (t : Bool), x.state = .active ∨ x.state = .fetch ∨ x.state = .waitTrig ∨ x.state = .parked ∨ x.state = .pausing →
        Gives (.dmaChDescWrite who e c t v) s (bump (done s) .dmaRej k)))

/-- Fetch and trigger (R246, R251): a descriptor that is not owned parks the channel, a bad one completes with CODE 0x10 and halts it, a good one has its trigger tested; a fetch, a READ request that takes the next SEQ [log 93], that fails or meets a bundle that is down (R242) halts the
channel with KIND 3. A descriptor starts when due, is counted when late, and completes with CODE 2 where it asks to be skipped. -/
def Parts.DescriptorsAreFetchedAndTriggered : Prop :=
  ∀ (e : Fin 28) (c : Fin 16) (s : State),
    let k := dmaNo e c
    let x := getDma s k
    (x.state ≠ .fetch → Ignored (.dmaDescFetch e c) s) ∧
    (x.state = .fetch → dmaGate s k = 0 → x.linkOnly = false → dmaCut s k x.desc = false → ∀ st bs u, memRead (takeSeq s (dmaPort k)) (some (dmaPart s k)) x.desc 64 = (st, bs, u) →
      let y := { x with cur := bs, late := false, pos := 0, wrErr := 0, rdErr := 0, fstat := 0, wrote := [], wroteO := [], seqs := [], endCode := 0 }
      let v := setDma u k y
      (st = 0 → ddOwn bs = false → Gives (.dmaDescFetch e c) s (park v k false)) ∧
      (st = 0 → ddOwn bs = true → ddOk v k y = false → Gives (.dmaDescFetch e c) s (completeDesc (badCurs v k) k 0x10 0 (ddLand bs) true)) ∧
      (st = 0 → ddOwn bs = true → ddOk v k y = true → Gives (.dmaDescFetch e c) s (testTrigger v k)) ∧
      (st ≠ 0 → Runs (.dmaDescFetch e c) s fun t => (getDma t k).state = .halted ∧ (getDma t k).done = true ∧
        ((getDma u k).errV = false → (getDma t k).errKind = 3 ∧ (getDma t k).errStat = st ∧ (getDma t k).errAddr = x.desc ∧ (getDma t k).errV = true))) ∧
    (x.state = .fetch → dmaGate s k = 0 → x.linkOnly = false → dmaCut s k x.desc = true → Runs (.dmaDescFetch e c) s fun t =>
      (getDma t k).state = .halted ∧ (getDma t k).done = true ∧ tget (getPort t (dmaPort k)).seq 0 0 = (tget (getPort s (dmaPort k)).seq 0 0 + 1) % 4096 ∧
      (x.errV = false → (getDma t k).errKind = 3 ∧ (getDma t k).errStat = 4 ∧ (getDma t k).errAddr = x.desc)) ∧
    (∀ u : State, (testTrigger u k).dma = tset u.dma k (getDma (testTrigger u k) k) ∧ (getDma (testTrigger u k) k).state = .waitTrig ∧
      (getDma (testTrigger u k) k).trigN = trigTick u (getDma u k) ∧ (getDma (testTrigger u k) k).late = isLateNow u (getDma u k) (trigTick u (getDma u k))) ∧
    (x.state = .waitTrig → dmaGate s k = 0 → ddTrig x.cur = 0 ∨ ddTrig x.cur = 3 →
      (x.late = false → isDue s k x = true → Gives (.dmaTrigger e c) s
        (setDma s k { x with state := .active, pos := 0, src0 := startSrc x, dst0 := startDst x, scur := startSrc x, dcur := startDst x })) ∧
      (x.late = false → isDue s k x = false → Ignored (.dmaTrigger e c) s) ∧
      (x.late = true → bit (ddCtl x.cur) 7 = true → Gives (.dmaTrigger e c) s (completeDesc (setCurs (setDma (bump s .dmaLate k) k { x with src0 := startSrc x, dst0 := startDst x }) k) k 0x02 0 (ddLand x.cur) false)) ∧
      (x.late = true → bit (ddCtl x.cur) 7 = false → Gives (.dmaTrigger e c) s
        (setDma (bump s .dmaLate k) k { x with state := .active, pos := 0, src0 := startSrc x, dst0 := startDst x, scur := startSrc x, dcur := startDst x })))

/-- How a descriptor whose data has been moved, in state `u`, ends (R252, R253): the channel waits in COMPLETING while answers are due; then a STOP ends it with its own CODE, a failed read with 0x20, a failed
write with 0x21, and a clean one with CODE 1, at the addresses past its extents. -/
def Parts.DescriptorEnds (i : Instr) (s u : State) (k : Nat) : Prop :=
  let v := pump u (dmaPort k)
  let w := setCurs v k
  let x := getDma w k
  (dmaAwaits v k = true → Gives i s (setDma v k { getDma v k with state := .completing })) ∧
  (dmaAwaits v k = false →
    (x.endCode ≠ 0 → Gives i s (completeDesc w k x.endCode x.fstat (ddLand x.cur) false)) ∧
    (x.endCode = 0 → x.rdErr ≠ 0 → Gives i s (completeDesc w k 0x20 x.fstat (ddLand x.cur) true)) ∧
    (x.endCode = 0 → x.rdErr = 0 → x.wrErr ≠ 0 → Gives i s (completeDesc w k 0x21 x.fstat (ddLand x.cur) true)) ∧
    (x.endCode = 0 → x.rdErr = 0 → x.wrErr = 0 → Gives i s (completeDesc w k 0x01 0 (ddLand x.cur) false)))

/-- Moving and completing (R249, R250, R252, R253): an active channel moves its remaining units and ends its descriptor, and a COMPLETING one ends it once no answer is due;
a copy within one packet reads its source and sends those bytes to its destination; Marquetry places records as R249 says; a completed descriptor leads to the next, to END, or halts the channel;
a drained PAUSE leaves the channel paused at the first unit that is not written. -/
def Obligations.DescriptorsMoveAndComplete : Prop :=
  (∀ (e : Fin 28) (c : Fin 16) (s : State),
    let k := dmaNo e c
    let x := getDma s k
    (dmaGate s k ≠ 0 ∨ (x.state ≠ .active ∧ x.state ≠ .completing) → Ignored (.dmaDescComplete e c) s) ∧
    (x.state = .active → dmaGate s k = 0 → Parts.DescriptorEnds (.dmaDescComplete e c) s (moveUnits s k (unitsOf x.cur) (unitsOf x.cur + 1)) k) ∧
    (x.state = .completing → dmaGate s k = 0 → Parts.DescriptorEnds (.dmaDescComplete e c) s s k)) ∧
  (∀ (s : State) (k n a b : Nat) (bs : List Byte) (u : State),
    let x := getDma s k
    let d := x.cur
    ddMode d = 0 → ddSwrap d = 0 → ddDwrap d = 0 → x.pos = 0 → x.wrote = [] → a = x.src0 % 2 ^ 48 → b = x.dst0 % 2 ^ 48 → 0 < n →
    n ≤ 4096 - a % 4096 → n ≤ 4096 - b % 4096 → n ≤ 64 * 2 ^ x.wmax → (a < b → a + n ≤ b) → targetOf a ≠ .regs →
    dmaCut s k a = false → memRead (takeSeq s (dmaPort k)) (some (dmaPart s k)) a n = (0, bs, u) → bs.length = n →
    moveUnits s k n (n + 1) =
      updDma (updDma (dmaSend { u with fresh := u.fresh + n } k b bs) k fun y => { y with wroteO := y.wroteO ++ [(0, n)] }) k fun y => { y with pos := n }) ∧
  (∀ (s : State) (k a : Nat) (bs : List Byte), destOf a = none → dmaSend s k a bs = setDma s k (writeErr (getDma s k) a 4)) ∧
  (∀ (d : List Byte) (u : Nat) (bs : List Byte),
    (ddMode d = 1 → unitWrites d u bs = [((u % ddP d * ddA d + u / ddP d) * ddR d, bs)]) ∧
    (ddMode d = 2 → unitWrites d u bs = [((u % ddA d * ddP d + u / ddA d) * ddR d, bs)]) ∧
    (ddMode d = 5 → unitWrites d u bs = [(u, bs.take 1), (ddPlane d + ddM d * u, (bs.drop 1).take (ddM d))])) ∧
  (∀ (s : State) (k code fstat : Nat) (land : Bool), (getDma s k).haltNext = false → (getDma s k).stop = false → (getDma s k).pause = false →
    let x := getDma s k
    let t := completeDesc s k code fstat land false
    (ddEnd x.cur = false → (getDma t k).state = .fetch ∧ (getDma t k).desc = ddNext x.cur) ∧
    (ddEnd x.cur = true → x.pendDb = false → (getDma t k).state = .parked ∧ (getDma t k).desc = x.desc) ∧
    ((getDma t k).ccnt = (x.ccnt + 1) % 65536) ∧ ((getDma t k).done = (x.done || bit (ddCtl x.cur) 9))) ∧
  (∀ (e : Fin 28) (c : Fin 16) (units : BitVec 24) (s : State),
    let k := dmaNo e c
    let x := getDma s k
    (x.state ≠ .pausing → Ignored (.dmaPauseDone e c units) s) ∧
    (x.state = .pausing → x.back = .fetch → x.stop = false → Gives (.dmaPauseDone e c units) s (setDma s k { x with state := .paused })) ∧
    (x.state = .pausing → x.back = .active → ∀ u, moveUnits s k (min units.toNat (unitsOf x.cur)) (min units.toNat (unitsOf x.cur) + 1) = u →
      (getDma u k).rdErr = 0 → (getDma u k).stop = false → Gives (.dmaPauseDone e c units) s
        (setDma u k { getDma u k with state := .paused, scur := (curAddrs (getDma u k)).1, dcur := (curAddrs (getDma u k)).2 })) ∧
    (x.state = .pausing → x.back = .fetch → x.stop = true → Gives (.dmaPauseDone e c units) s (setDma s k { x with state := .idle, stop := false })))

/-! ### Memory (12_memory) -/

/-- What an access does to memory (R226, R234, R260, R264 to R266, R275): an access that its target refuses changes nothing but the counter of its gate and answers 4, 5 or the gate's STATUS, on a lost die 4 (R399); a whole page is written and valid;
a page that was never written answers 2; an SRAM access that succeeds stores exactly its bytes and reads what is stored; a double error answers 1. -/
def Obligations.AccessesReachTheirBytes : Prop :=
  (∀ (s : State) (who : Option Nat) (a n : Nat) (bs : List Byte),
    (targetOf a = .nothing → reachStatus s who a = 4) ∧
    (∀ q, destOf a = some q → targetOf a ≠ .regs → (dieOut s (portDie q) = true → reachStatus s who a = 4) ∧
      (dieOut s (portDie q) = false → memAllowed s who a = false → reachStatus s who a = 5)) ∧
    (∀ ch pg, targetOf a = .lpddr ch pg → memAllowed s who a = true → gateStatus s (targetDom (targetOf a)) = 0 → (getCh s ch).state = 4 → reachStatus s who a = 4) ∧
    (reachStatus s who a ≠ 0 → readPiece s who a n = (reachStatus s who a, [], noteRefused s a (reachStatus s who a)) ∧ writePiece s who a bs = (reachStatus s who a, noteRefused s a (reachStatus s who a)) ∧
      ({ noteRefused s a (reachStatus s who a) with ctr := s.ctr } : State) = s)) ∧
  (∀ (s : State) (who : Option Nat) (ch pg : Nat) (bs : List Byte), targetOf (pageAddr ch pg) = .lpddr ch pg → reachStatus s who (pageAddr ch pg) = 0 → bs.length = 2048 →
    (getCh s ch).injArm = false → tCodeAt s (pageAddr ch pg) ≠ 0 →
    ∃ t, writePiece s who (pageAddr ch pg) bs = (0, t) ∧ (getPage t ch pg).written = true ∧ (getPage t ch pg).flips = [] ∧ (getPage t ch pg).t = tCodeAt s (pageAddr ch pg) ∧
      (∀ i, i < 2048 → byteAt t (pageAddr ch pg + i) = bs.getD i 0) ∧ (∀ b, b < pageAddr ch pg ∨ pageAddr ch pg + 2048 ≤ b → byteAt t b = byteAt s b) ∧
      { t with mem := s.mem } = s) ∧
  (∀ (s : State) (who : Option Nat) (a n ch pg : Nat), targetOf a = .lpddr ch pg → reachStatus s who a = 0 → (getCh s ch).staged.find? (fun e => e.page == pg) = none →
    (getPage s ch pg).written = false → ∃ t, readPiece s who a n = (2, [], t) ∧ ctrGet t .memRdUnwr ch = min (2 ^ 32 - 1) (ctrGet s .memRdUnwr ch + 1) ∧ t.mem = s.mem) ∧
  (∀ (s : State) (who : Option Nat) (a : Nat) (bs : List Byte) (c : Nat), targetOf a = .tile c → reachStatus s who a = 0 → s.mem.sramErr = [] →
    ∃ t, writePiece s who a bs = (0, t) ∧ (∀ i, i < bs.length → byteAt t (a + i) = bs.getD i 0) ∧ (∀ b, b < a ∨ a + bs.length ≤ b → byteAt t b = byteAt s b) ∧
      { t with mem := s.mem } = s ∧ readPiece t who a bs.length = (0, bs, t)) ∧
  (∀ (s : State) (who : Option Nat) (a c : Nat), targetOf a = .tile c → a % 8 = 0 → reachStatus s who a = 0 → wordErr s (a / 8) = 2 →
    ∃ t, readPiece s who a 8 = (1, [], t) ∧ t.mem.bytes = s.mem.bytes ∧ (getSr t (coreCluster c)).lastUnc = a ∧ (getSr t (coreCluster c)).lastUncV = true)

/-- What a memory controller does by itself (R266, R269 to R272, R276 to R279, R398): an aged dirty page is encoded and stays staged clean; refreshes are issued, postponed up to eight and repaid; a
neighbour refresh is counted; parity alerts replay commands, and the third in a row puts the channel into FAULT; the remap table is saved; a lap that is too long alarms once; a channel recovers
with every page unwritten. -/
def Parts.MemoryControllersKeepTheirPages : Prop :=
  ∀ (ch : Fin 16) (s : State), chActive s ch = true →
    let x := getCh s ch
    (∀ page : BitVec 22, x.staged.any (fun e => e.page == page.toNat && e.dirty && e.since + x.age ≤ upNs s) = true → Runs (.memDirtyAgeExpire ch page) s fun t =>
      getPage t ch page.toNat = { written := true, t := tCodeAt s (pageAddr ch page.toNat), flips := [] } ∧
      (getCh t ch).staged = x.staged.map (fun e => if e.page == page.toNat then { e with dirty := false } else e) ∧ t.mem.bytes = s.mem.bytes) ∧
    (∀ page : BitVec 22, x.staged.any (fun e => e.page == page.toNat && e.dirty && e.since + x.age ≤ upNs s) = false → Ignored (.memDirtyAgeExpire ch page) s) ∧
    Gives (.memRefresh ch 0) s (setCh s ch x) ∧
    (panicOn s = false → Gives (.memRefresh ch 1) s (setCh s ch { x with debt := if x.debt < 8 then x.debt + 1 else x.debt }) ∧
      Gives (.memRefresh ch 2) s (setCh s ch { x with debt := x.debt - 1 })) ∧
    (panicOn s = true → Gives (.memRefresh ch 1) s (setCh s ch x) ∧ Gives (.memRefresh ch 2) s (setCh s ch x)) ∧
    (x.rdpEn = true → Gives (.memRdpRefresh ch) s (bump s .memRdp ch)) ∧ (x.rdpEn = false → Ignored (.memRdpRefresh ch) s) ∧
    (∀ (n : Fin 33) (again : Bool), (if again then x.alertRun + 1 else 1) < 3 → Runs (.memCaAlert ch n again) s fun t =>
      ctrGet t .memCaAlert ch = min (2 ^ 32 - 1) (ctrGet s .memCaAlert ch + 1) ∧ ctrGet t .memCaReplay ch = min (2 ^ 32 - 1) (ctrGet s .memCaReplay ch + n.val) ∧
      ∃ v, v ≤ 400 ∧ getCh t ch = { x with alertRun := if again then x.alertRun + 1 else 1, replayEnd := upNs s + v }) ∧
    (∀ n : Fin 33, 2 ≤ x.alertRun → Runs (.memCaAlert ch n true) s fun t =>
      (getCh t ch).state = 4 ∧ ctrGet t .memCaReplay ch = ctrGet s .memCaReplay ch ∧ t.mem.bytes = s.mem.bytes) ∧
    (x.remapUnsaved = true → Gives (.memRemapSave ch) s (setCh s ch { x with remapFlash := x.remap, badFlash := x.spareBad, remapUnsaved := false })) ∧
    (x.lapMax ≠ 0 → x.slowRaised = false → x.lapStart + 60000000000 * x.lapMax ≤ upNs s →
      Gives (.memScrubSlow (.page ch)) s (alertMc (setCh s ch { x with slowRaised := true }) (.memScrubSlow ch))) ∧
    (x.lapMax = 0 ∨ x.slowRaised = true ∨ upNs s < x.lapStart + 60000000000 * x.lapMax → Ignored (.memScrubSlow (.page ch)) s)

/-- Scrubbing and reinitialisation (R264, R275 to R278, R398): the page scrubber corrects a page that the code can correct, reports one it cannot, skips what is unwritten, and goes round; an SRAM scrubber's
position names each word of its memories once, a word with one error is corrected in place and counted, one with two is reported, and a clean line of a Bench cache is fetched again [log 59]; a page staged dirty is left alone; a channel in FAULT recovers with no page valid, an empty tracker
and its scrubber enabled, or stays out. -/
def Parts.ScrubbersCorrectAndChannelsRecover : Prop :=
  (∀ (ch : Fin 16) (s : State), chActive s ch = true → (getCh s ch).scrubEn = true → panicOn s = false → chState s ch ≠ 3 → gapOver s (getCh s ch).scrubAt (getCh s ch).gap = true →
    let x := getCh s ch
    let m := getPage s ch x.scrubPos
    (x.staged.any (fun e => e.page == x.scrubPos && e.dirty) = false → m.written = false → m.t ≠ 0 → m.flips = [] → x.scrubPos + 1 < 4063104 →
      Runs (.memScrubRead ch []) s fun t => (getCh t ch).scrubPos = x.scrubPos + 1 ∧ getPage t ch x.scrubPos = m ∧ t.mem.bytes = s.mem.bytes) ∧
    (x.staged.any (fun e => e.page == x.scrubPos && e.dirty) = false → m.written = true → m.t = 4 → m.flips = [] → tCodeAt s (pageAddr ch x.scrubPos) = 4 →
      (trkNote x.trk x.scrubPos x.lapNo).2.1 = false → Runs (.memScrubRead ch [0]) s fun t =>
        getPage t ch x.scrubPos = { written := true, t := 4, flips := [] } ∧ ctrGet t .memCorr ch = min (2 ^ 32 - 1) (ctrGet s .memCorr ch + 1) ∧ t.mem.bytes = s.mem.bytes) ∧
    (x.staged.any (fun e => e.page == x.scrubPos && e.dirty) = true → ∀ upset, Runs (.memScrubRead ch upset) s fun t =>
      getPage t ch x.scrubPos = m ∧ t.mem.bytes = s.mem.bytes ∧ t.ctr = s.ctr) ∧
    (x.scrubPos + 1 = 4063104 → x.staged.any (fun e => e.page == x.scrubPos && e.dirty) = true → Runs (.memScrubRead ch []) s fun t =>
      (getCh t ch).scrubPos = 0 ∧ (getCh t ch).lapNo = (x.lapNo + 1) % 65536 ∧ (getCh t ch).lapStart = upNs s)) ∧
  (∀ (ch : Fin 16) (upset : List Nat) (s : State), chActive s ch = false ∨ (getCh s ch).scrubEn = false ∨ panicOn s = true ∨ chState s ch = 3 ∨
    gapOver s (getCh s ch).scrubAt (getCh s ch).gap = false → Ignored (.memScrubRead ch upset) s) ∧
  (∀ i pos : Nat, i < 26 → pos < srTotal i → srOfWord (srWordAt i pos) = i ∧ srIndex (srWordAt i pos) = pos) ∧
  (∀ (i : Fin 27) (bits : Fin 3) (s : State),
    let x := getSr s i
    let w := srWordAt i x.scrubPos
    (gapOver s x.scrubAt x.gap = false → Ignored (.srScrubRead i bits) s) ∧
    (24 ≤ i.val → i.val < 26 → w < 2 ^ 45 → panicOn s = true → Ignored (.srScrubRead i bits) s) ∧
    (gapOver s x.scrubAt x.gap = true → (24 ≤ i.val → i.val < 26 → w < 2 ^ 45 → panicOn s = false) →
      (gateStatus s (wordDom w) ≠ 0 → Gives (.srScrubRead i bits) s (srNext s i)) ∧
      (gateStatus s (wordDom w) = 0 → wordErr s w = 0 → srOfWord w = i.val →
        (bits = 0 → Gives (.srScrubRead i bits) s (srNext s i)) ∧
        (bits = 1 → (trkNote x.trk (srIndex w) x.lapNo).2.1 = false → Runs (.srScrubRead i bits) s fun t =>
          wordErr t w = 0 ∧ ctrGet t .srCorr i = min (2 ^ 32 - 1) (ctrGet s .srCorr i + 1) ∧ t.mem.bytes = s.mem.bytes) ∧
        (bits = 2 → w < 2 ^ 45 → (24 ≤ i.val → srIndex w < 9437184) → Runs (.srScrubRead i bits) s fun t =>
          wordErr t w = 2 ∧ ctrGet t .srUnc i = min (2 ^ 32 - 1) (ctrGet s .srUnc i + 1) ∧ (getSr t i).lastUnc = 8 * w ∧ (getSr t i).lastUncV = true) ∧
        (bits = 2 → 24 ≤ i.val → i.val < 26 → 9437184 ≤ srIndex w →
          let k := (srIndex w - 9437184) % 147456
          let held := if k < 16384 then none else benchLine s (96 + 8 * (i.val - 24) + (srIndex w - 9437184) / 147456) ((k - 16384) / 8)
          let kept := Runs (.srScrubRead i bits) s fun t => wordErr t w = 0 ∧ ctrGet t .srCorr i = min (2 ^ 32 - 1) (ctrGet s .srCorr i + 1) ∧
            ctrGet t .srUnc i = ctrGet s .srUnc i ∧ t.benchCache = s.benchCache.filter (fun e => held.all fun h => e.1 != h.1)
          (held = none → kept) ∧ (∀ a l, held = some (a, l) → l.dirty = false → kept))))) ∧
  (∀ (i : Nat) (s : State),
    let x := getSr s i
    (x.scrubPos + 1 < srTotal i → srNext s i = setSr s i { x with scrubPos := x.scrubPos + 1, scrubAt := some (upNs s) }) ∧
    (srTotal i ≤ x.scrubPos + 1 → (getSr (srNext s i) i).scrubPos = 0 ∧ (getSr (srNext s i) i).lapNo = (x.lapNo + 1) % 65536 ∧ (getSr (srNext s i) i).lapStart = upNs s)) ∧
  (∀ (ch : Fin 16) (s : State), (getCh s ch).state = 4 → bit s.flt.chOut ch = false →
    (Runs (.memChReinitDone ch true) s fun t => (getCh t ch).state = 1 ∧ (getCh t ch).staged = [] ∧ (getCh t ch).remap = (getCh s ch).remapFlash ∧ (getCh t ch).spareBad = (getCh s ch).badFlash ∧
      (getCh t ch).trk = [] ∧ (getCh t ch).scrubPos = 0 ∧ (getCh t ch).scrubEn = true ∧ (∀ pg : Nat, pg < 2 ^ 22 → getPage t ch pg = {})) ∧
    (Runs (.memChReinitDone ch false) s fun t => (getCh t ch).state = 4 ∧ bit t.flt.chOut ch = true))

/-! ### Backhaul ports and the time unit (13_backhaul_and_time) -/

/-- Received frames (R283, R284, R286, R288, R291): a frame at a port out of use is not there; one with a bad length or FCS is counted and dropped, a control frame counted; any other goes through MACsec and,
unless it is PTP, to the flow of the lowest rule that matches, else to the default flow, else it is counted. MACsec drops what fails under strict validation. -/
def Obligations.FramesAreReceived : Prop :=
  (∀ (n : Fin 4) (bytes : List Byte) (fifoFull : Bool) (s : State),
    let k := bytes.length
    let body := bytes.take (k - 4)
    let c : Instr := .bhFrameRx n bytes fifoFull
    let r := bump s .bhRxFrm n
    (bpLive s n = false → Ignored c s) ∧
    (bpLive s n = true → k < 64 ∨ 9216 < k ∨ bytes.drop (k - 4) ≠ fcsOf body → Gives c s (bump s .bhRxErr n)) ∧
    (bpLive s n = true → 64 ≤ k → k ≤ 9216 → bytes.drop (k - 4) = fcsOf body →
      ((etherParse body).1 = 0x8808 → Gives c s (bump r .bhRxCtl n)) ∧
      ((etherParse body).1 ≠ 0x8808 → fifoFull = true → Gives c s (bump r .bhRxFifo n)) ∧
      ((etherParse body).1 ≠ 0x8808 → fifoFull = false →
        (∀ b u, macsecRx r n body = (some b, u) → Gives c s (bhDeliver u n b ((nsCounter s + 2 ^ 32 - latRx s n) % 2 ^ 32))) ∧
        (∀ u, macsecRx r n body = (none, u) → Gives c s u)))) ∧
  (∀ (s : State) (n : Nat) (bs : List Byte),
    let x := getBp s n
    (x.msEn = false → macsecRx s n bs = (some bs, s)) ∧
    (x.msEn = true → x.validate = 2 → secTag bs = none → inClear x (etherParse bs).1 = false → macsecRx s n bs = (none, bump s .msRxUntagged n)) ∧
    (∀ t, x.msEn = true → secTag bs = some t → x.validate = 2 → rxSa x t = none → macsecRx s n bs = (none, bump s .msRxNosa n)) ∧
    (∀ t a, x.msEn = true → secTag bs = some t → rxSa x t = some a →
      (x.validate = 2 → (openFrame x a t bs).1 = false → (macsecRx s n bs).1 = none) ∧
      ((openFrame x a t bs).1 = true → x.replay = true → fullPn a.pn t.pn < a.pn → x.validate ≠ 0 → macsecRx s n bs = (none, bump s .msRxLate n)) ∧
      ((openFrame x a t bs).1 = true → a.pn ≤ fullPn a.pn t.pn → (macsecRx s n bs).1 = some (openFrame x a t bs).2 ∧
        ctrGet (macsecRx s n bs).2 .msRxOk n = min (2 ^ 32 - 1) (ctrGet s .msRxOk n + 1)))) ∧
  (∀ (x : BhPort) (etype : Nat) (tag : Option Nat),
    (∀ e, x.rules.find? (fun e => ruleHit e.2 etype tag) = some e → classify x etype tag = some (e.2 / 2 ^ 41 % 2 ^ 18, if bit e.2 40 then some (e.2 / 2 ^ 36 % 2 ^ 4) else none)) ∧
    (x.rules.find? (fun e => ruleHit e.2 etype tag) = none → x.defEn = true → classify x etype tag = some (x.defFlow, none)) ∧
    (x.rules.find? (fun e => ruleHit e.2 etype tag) = none → x.defEn = false → classify x etype tag = none))

/-- Transmission and a port's registers (R284, R287, R290, R304): a live port sends PTP messages first, then its ring's descriptors, each frame with its FCS and each descriptor ending with a STATUS; a frame to be protected is not sent without an active SA
or after the last PN; TAIL, rules, whose rsvd bits read 0 (R10), and flows are the owner's, who cannot name a flow outside its range. -/
def Parts.FramesAreSent : Prop :=
  (∀ (n : Fin 4) (s : State),
    let x := getBp s n
    let p := (bpOwner s n).getD 4
    (bpLive s n = false → Ignored (.bhTxFrame n) s) ∧
    (bpLive s n = true → x.ptpOut = [] → x.head = x.tail % 2 ^ x.tsz → Ignored (.bhTxFrame n) s) ∧
    (∀ o r, bpLive s n = true → x.ptpOut = o :: r → Gives (.bhTxFrame n) s (sendPtpFrame (setBp s n { x with ptpOut := r }) n o)) ∧
    (∀ d u st ts v, bpLive s n = true → x.ptpOut = [] → x.head ≠ x.tail % 2 ^ x.tsz → memRead s (some p) (x.txAddr + 32 * x.head) 32 = (0, d, u) →
      txStatus u n p d = (st, ts, v) → Gives (.bhTxFrame n) s (txComplete v n p (x.txAddr + 32 * x.head) d st ts))) ∧
  (∀ (s : State) (n p : Nat) (d : List Byte),
    let len := ofLe ((d.drop 6).take 2)
    let ctl := ofLe ((d.drop 8).take 1)
    (len < 60 ∨ 9212 < len ∨ bit ctl 0 = false → (txStatus s n p d).1 = 0x10 ∧ (txStatus s n p d).2.2 = s) ∧
    (∀ bs u, bit ctl 0 = true → fld ctl 6 2 = 0 → ofLe ((d.drop 9).take 7) = 0 → 60 ≤ len → len ≤ 9212 → bit ctl 2 = false →
      memRead s (some p) (ofLe ((d.drop 0).take 6)) len = (0, bs, u) → txStatus s n p d = (1, (nsCounter u + latTx u n) % 2 ^ 32, sendFrame u n bs))) ∧
  (∀ (s : State) (n : Nat) (o : PktOut) (bs : List Byte), (getBp (sendFrame s n bs) n).txLast = bs ++ fcsOf bs ∧
    (∀ w u, emitPtp s o (32 + n) (s.now + latTx s n) = (w, u) → (getBp s n).msEn = false ∨ (getBp s n).ptpClear = true → 60 ≤ w.length → sendPtpFrame s n o = sendFrame u n w)) ∧
  (∀ (s : State) (n sc : Nat) (bs : List Byte),
    let x := getBp s n
    (x.msEn = false ∨ txSa x sc = none → protect s n sc bs = (0x23, [], s)) ∧
    (∀ a, x.msEn = true → txSa x sc = some a → a.exhausted = true → protect s n sc bs = (0x22, [], bump s .msTxPnExh n)) ∧
    (∀ a, x.msEn = true → txSa x sc = some a → a.exhausted = false → (protect s n sc bs).1 = 1 ∧ (protect s n sc bs).2.1 = protectFrame x a (Config.integOnly n sc) a.pn bs ∧
      ((a.pn < x.pnThr ∨ a.evt = true) → (getBp (protect s n sc bs).2.2 n).sas = x.sas.map fun y => if y == a then
        { a with pn := (a.pn + 1) % 2 ^ 64, exhausted := a.pn == 2 ^ 64 - 1 } else y))) ∧
  (∀ (n : Fin 4) (s : State) (p : Fin 4), bpOwner s n = some p.val →
    let x := getBp s n
    (∀ tail : BitVec 12, Gives (.bhTxTailWrite (.part p) n tail) s (done (setBp s n { x with tail := tail.toNat }))) ∧
    (∀ (i : Fin 64) (v : Word), (ownsFlow s p (v.toNat / 2 ^ 41 % 2 ^ 18) = true → Gives (.bhRuleWrite (.part p) n i v) s (done (setBp s n { x with rules := tset x.rules i (v.toNat &&& 0x7FFFFFF7FFFFFFF) }))) ∧
      (ownsFlow s p (v.toNat / 2 ^ 41 % 2 ^ 18) = false → Gives (.bhRuleWrite (.part p) n i v) s (done s))) ∧
    (∀ v : BitVec 32, let f := v.toNat % 2 ^ 18
      (bit v.toNat 31 = true → ownsFlow s p f = false → ∀ tx, Gives (.bhFlowWrite (.part p) n tx v) s (done s)) ∧
      (bit v.toNat 31 = false ∨ ownsFlow s p f = true →
        Gives (.bhFlowWrite (.part p) n true v) s (done (setBp s n { x with txFlow := f, txEn := bit v.toNat 31 })) ∧
        Gives (.bhFlowWrite (.part p) n false v) s (done (setBp s n { x with defFlow := f, defEn := bit v.toNat 31 })))))

/-- PTP and snapshots (R292, R295, R297 to R299): while the MC runs, the clock takes its own message; an Announce is remembered for its port, a one-step Sync of the chosen port gives the offset from the
master less the path delay, link asymmetry included, and any other port's Sync is not used; a held Follow_Up goes on with its Sync's residence, or unchanged and counted after 1 s without one; a Delay_Req is
queued on the chosen port at the commanded interval; a snapshot latches seconds, nanoseconds and the counter of one instant. -/
def Parts.PtpAndSnapshots : Prop :=
  ∀ s : State,
    (s.tm.ownRx = none ∨ s.flt.mcDown.isSome = true → Ignored .ptpMsgRx s) ∧
    (∀ n tin bs, s.tm.ownRx = some (n, tin, bs) → s.flt.mcDown = none → Gives .ptpMsgRx s (ownMsg { s with tm := { s.tm with ownRx := none } } n tin bs)) ∧
    (∀ (n tin : Nat) (bs : List Byte),
      (ptpType bs = 11 → ownMsg s n tin bs = { s with tm := { s.tm with ann := tset s.tm.ann n { data := annOf bs, at_ := upNs s } } }) ∧
      (ptpType bs ≠ 11 → chosenPort s ≠ some n → ownMsg s n tin bs = s) ∧
      (∀ p : Int, ptpType bs = 0 → ptpTwoStep bs = false → chosenPort s = some n → s.tm.own.delay = some p → s.tm.st = 1 ∨ s.tm.st = 2 → s.tm.src = 0 →
        (ownMsg s n tin bs).tm.secondsSet = true ∧
        (ownMsg s n tin bs).tm.phaseErr = (((tin : Int) - ptpTime bs 34) * 65536 - (ptpCorr bs + asymOf s (32 + n)) - p) / 65536)) ∧
    (∀ h x, s.tm.held.find? (fun h => (syncFor s h.key h.dest).isSome) = some h → syncFor s h.key h.dest = some x → Gives .ptpFollowupRelease s
      (sendPtp { s with tm := { s.tm with held := s.tm.held.erase h, syncs := s.tm.syncs.erase x } } h.dest { bytes := addCorr h.bytes x.add })) ∧
    (s.tm.held.find? (fun h => (syncFor s h.key h.dest).isSome) = none → Ignored .ptpFollowupRelease s) ∧
    (∀ h, s.tm.held.find? (fun h => (syncFor s h.key h.dest).isNone && !syncWaits s h.key h.dest && h.arrived + 1000000000 ≤ upNs s) = some h → Gives .followUpNomatch s
      (bump (sendPtp { s with tm := { s.tm with held := s.tm.held.erase h } } h.dest { bytes := h.bytes }) .tmTcNomatch 0)) ∧
    (s.tm.held.find? (fun h => (syncFor s h.key h.dest).isNone && !syncWaits s h.key h.dest && h.arrived + 1000000000 ≤ upNs s) = none → Ignored .followUpNomatch s) ∧
    (∀ n, chosenPort s = some n → s.flt.mcDown = none → reqDue s = true → Runs .delayReqSend s fun t =>
      (getBp t n).ptpOut = (getBp s n).ptpOut ++ [{ bytes := delayReq s n, own := true }] ∧ t.tm.reqSeq = (s.tm.reqSeq + 1) % 65536 ∧ t.tm.reqAt = some (upNs s)) ∧
    (chosenPort s = none ∨ s.flt.mcDown.isSome = true ∨ reqDue s = false → Ignored .delayReqSend s) ∧
    (∀ t, s.tm.reqAt = some t → (reqDue s = true ↔ t + 1000000000 * 2 ^ s.tm.cfg.interval / 256 ≤ upNs s)) ∧
    (∀ p, Gives (.tmSnap (.part p)) s { s with
      tm := { s.tm with snapS := s.now / 1000000000 % 2 ^ 48, snapNs := s.now % 1000000000, snapCnt := s.now % 2 ^ 32 }, answer := { status := 0, data := 0 } })

/-- Oscillators, references and outputs (R300 to R303): an oscillator that drifts from a qualified reference or stops is replaced by the other, and two that disagree without one are reported; a qualified reference
leads to ACQUIRING, a measured phase below 100 ns for 60 s to LOCKED, and 15 minutes of that to HO_QUAL; HOLDOVER expires after 2 h, PPS_IN is lost after 2 s without an edge; and the loss of the locked reference to the other one, to HOLDOVER where it is qualified, else to FREERUN; three edges a second apart qualify PPS_IN,
whose edge marks a second; PPS_OUT is high for 1 ms from its rise. -/
def Parts.ReferencesAndOscillators : Prop :=
  ∀ s : State,
    let ref := s.tm.ptpOk || extQual s.tm
    (∀ (a b : Int) (d : Nat), ref = true → a.natAbs ≤ s.tm.oscThr → b.natAbs ≤ s.tm.oscThr → Ignored (.oscCheck a b d) s) ∧
    (∀ (a b : Int) (d : Nat), ref = false → d ≤ s.tm.oscThr ∨ s.tm.aOk = false ∨ s.tm.bOk = false → Ignored (.oscCheck a b d) s) ∧
    (∀ (a b : Int) (d : Nat), ref = false → s.tm.oscThr < d → s.tm.aOk = true → s.tm.bOk = true → Runs (.oscCheck a b d) s fun t => t.tm = { s.tm with disagree := true }) ∧
    (s.tm.aOk = true → s.tm.bOk = true → s.tm.osc = 0 →
      (∀ (a b : Int) (d : Nat), ref = true → s.tm.oscThr < a.natAbs → 2 * b.natAbs < s.tm.oscThr → Runs (.oscCheck a b d) s fun t => t.tm.aOk = false ∧ t.tm.osc = 1) ∧
      Runs (.oscEdgeLoss 0) s (fun t => t.tm = { s.tm with aOk := false, osc := 1 } ∧ ctrGet t .tmOscSw 0 = min (2 ^ 32 - 1) (ctrGet s .tmOscSw 0 + 1)) ∧
      Runs (.oscEdgeLoss 1) s (fun t => t.tm = { s.tm with bOk := false } ∧ ctrGet t .tmOscSw 0 = ctrGet s .tmOscSw 0)) ∧
    (s.flt.mcDown.isSome = true → ∀ ext, Ignored (.refQualify ext) s) ∧ (chosenPort s = none → Ignored (.refQualify false) s) ∧ (extQual s.tm = false → Ignored (.refQualify true) s) ∧
    (s.flt.mcDown = none → (chosenPort s).isSome = true →
      (s.tm.st = 0 ∨ s.tm.st = 3 → Runs (.refQualify false) s fun t => t.tm.st = 1 ∧ t.tm.ptpOk = true ∧ t.tm.src = if extQual s.tm && s.tm.prefExt then 1 else 0) ∧
      (s.tm.st = 1 ∨ s.tm.st = 2 → Gives (.refQualify false) s { s with tm := { s.tm with ptpOk := true } })) ∧
    (s.flt.mcDown = none → extQual s.tm = true → s.tm.st = 0 ∨ s.tm.st = 3 → Runs (.refQualify true) s fun t => t.tm.st = 1 ∧ t.tm.src = if s.tm.prefExt || !s.tm.ptpOk then 1 else 0) ∧
    (s.tm.st = 1 → (if s.tm.src = 1 then s.tm.extErr else s.tm.ptpErr).isSome = true → (∃ t, lowSince s = some t ∧ t + 60000000000 ≤ upNs s) →
      Runs .tmLock s fun t => t.tm = { s.tm with st := 2, hoExp := false, phaseErr := phaseNow s, phaseAt := upNs s, stAt := upNs s, lowAt := upNs s }) ∧
    (s.tm.st ≠ 1 ∨ (if s.tm.src = 1 then s.tm.extErr else s.tm.ptpErr) = none ∨ lowSince s = none ∨ (∃ t, lowSince s = some t ∧ upNs s < t + 60000000000) → Ignored .tmLock s) ∧
    (∀ t, lowSince s = some t → t ≤ upNs s → (phaseNow s).natAbs < 100) ∧
    (s.tm.st = 2 → s.tm.stAt + 900000000000 ≤ upNs s → Gives .hoQualSet s { s with tm := { s.tm with hoQual := true } }) ∧
    (s.tm.st ≠ 2 ∨ upNs s < s.tm.stAt + 900000000000 → Ignored .hoQualSet s) ∧
    (s.tm.st = 2 → s.tm.src = 0 → extQual s.tm = false → s.tm.hoQual = true → Runs (.refLost false) s fun t => t.tm.st = 3 ∧ t.tm.ptpOk = false ∧ t.tm.hoQual = false) ∧
    (s.tm.st = 2 → s.tm.src = 0 → extQual s.tm = false → s.tm.hoQual = false → Runs (.refLost false) s fun t => t.tm.st = 0) ∧
    (s.tm.st = 2 → s.tm.src = 0 → extQual s.tm = true → Runs (.refLost false) s fun t => t.tm.st = 1 ∧ t.tm.src = 1) ∧
    (∀ t0, s.tm.st = 2 → s.tm.src = 1 → s.tm.ptpOk = true → s.tm.ppsLast = some t0 → t0 + 2000000000 ≤ upNs s → Runs .ppsInLost s fun t => t.tm.st = 1 ∧ t.tm.src = 0 ∧ t.tm.ppsOk = false) ∧
    (s.tm.st = 2 → s.tm.src = 1 → s.tm.ptpOk = true → Runs (.freqInChange false) s fun t => t.tm.st = 1 ∧ t.tm.src = 0 ∧ t.tm.freqOk = false) ∧
    Gives (.freqInChange true) s { s with tm := { s.tm with freqOk := true } } ∧
    (∀ t0, s.tm.ppsLast = some t0 → upNs s < t0 + 2000000000 → Ignored .ppsInLost s) ∧
    (s.tm.st = 3 → s.tm.hoExp = false → s.tm.stAt + 7200000000000 ≤ upNs s → Runs .tmHoEvt s fun t => t.tm = { s.tm with hoExp := true }) ∧
    (s.tm.st ≠ 3 ∨ upNs s < s.tm.stAt + 7200000000000 → Ignored .tmHoEvt s) ∧
    (let e := fromSecond ((s.now : Int) - s.tm.ppsIn)
     (∀ t0, s.tm.ppsLast = some t0 → 999999000 ≤ upNs s - t0 → upNs s - t0 ≤ 1000001000 → s.tm.ppsRun = 2 →
       Gives .ppsInEdge s (phaseMeas { s with tm := { s.tm with ppsRun := 3, ppsLast := some (upNs s), ppsOk := true } } true e)) ∧
     (s.tm.ppsLast = none → Gives .ppsInEdge s (phaseMeas { s with tm := { s.tm with ppsRun := 1, ppsLast := some (upNs s) } } true e))) ∧
    (∀ e : Int, (s.tm.st = 1 ∨ s.tm.st = 2) → s.tm.src = 1 → e.natAbs ≤ 1000000 →
      phaseMeas s true e = { s with tm := { s.tm with extErr := some e, phaseErr := e, phaseAt := upNs s, lowAt := min ((lowSince s).getD (upNs s)) (upNs s), phaseFar := false } }) ∧
    (∀ e : Int, s.tm.src ≠ 1 → phaseMeas s true e = { s with tm := { s.tm with extErr := some e } }) ∧
    (let r := (s.now + s.tm.ppsOut) / 1000000000 * 1000000000 - s.tm.ppsOut
     (s.tm.ppsRise ≠ some r → Gives .ppsOutSecond s { s with tm := { s.tm with outOn := s.tm.st != 0 || s.tm.ppsFreerun, ppsRise := some r } }) ∧
     (s.tm.ppsRise = some r → Ignored .ppsOutSecond s) ∧ r ≤ s.now ∧
     (1000000000 ≤ s.now + s.tm.ppsOut → (r + s.tm.ppsOut) % 1000000000 = 0 ∧ s.now < r + 1000000000)) ∧
    (∀ r : Nat, s.tm.ppsRise = some r → s.tm.outOn = true → (ppsOut s = true ↔ r ≤ s.now ∧ s.now < r + 1000000))

/-! ### The host protocol (14_host_protocol) -/

/-- The host window (R306, R308, R309, R312, R315, R317, R320): pushed words join the command FIFO, and ones that do not fit flush it; reads pop replies and event records, all ones beyond the end; a doorbell of the right number
commits, another drops the uncommitted words; ABORT and PERST empty the port and end its session; a partial-word access only sets UNF; a port in PERST, or whose link does not train yet, takes nothing.
A command past its bound is answered 0x0E after the part of it that is done: of a MEM_WRITE a prefix of its bytes (R317), of how many being free [log 12]. -/
def Obligations.WindowAccesses : Prop :=
  ∀ (h : Fin 4) (s : State),
    let x := getHost s h
    (portUp s h = false → ∀ ws b n, Ignored (.hostCmdPush h ws b) s ∧ Ignored (.hostRplPop h n b) s ∧ Ignored (.hostEvtPop h n b) s ∧ Ignored (.hostAbort h) s ∧
      ∀ k, Ignored (.hostDoorbell h k b) s) ∧
    (portUp s h = true →
      (∀ ws : List Word, x.cmd.length + ws.length ≤ 16384 → Gives (.hostCmdPush h ws false) s (setHost s h { x with cmd := x.cmd ++ ws })) ∧
      (∀ ws : List Word, 16384 < x.cmd.length + ws.length → x.cmd.length ≤ 16384 →
        Gives (.hostCmdPush h ws false) s (setHost s h { x with ovf := true, cmd := [], committed := 0, asm := [], marks := [], flush := true })) ∧
      (∀ ws : List Word, Gives (.hostCmdPush h ws true) s (setHost s h { x with unf := true })) ∧
      (∀ n : Fin 65, n.val ≤ x.rpl.length → Gives (.hostRplPop h n false) s (setHost s h { x with rpl := x.rpl.drop n, unf := x.unf, read := x.rpl.take n })) ∧
      (∀ n : Fin 65, x.rpl.length < n.val → Runs (.hostRplPop h n false) s fun t => (getHost t h).rpl = [] ∧ (getHost t h).unf = true ∧
        (getHost t h).read = x.rpl ++ List.replicate (n.val - x.rpl.length) (BitVec.allOnes 64)) ∧
      (∀ n, Gives (.hostRplPop h n true) s (setHost s h { x with unf := true, read := List.replicate n.val (BitVec.allOnes 64) })) ∧
      (∀ e r, x.evts = e :: r → x.evtPop = 0 → Gives (.hostEvtPop h 4 false) s (setHost s h { x with
        evts := r, eseq := (x.eseq + 1) % 2 ^ 32, evtPop := 0, unf := x.unf, read := evtWords e x.eseq })) ∧
      (∀ k : BitVec 15, k.toNat = x.cmd.length - x.committed →
        Gives (.hostDoorbell h k false) s (parseAll (setHost s h { x with committed := x.cmd.length, marks := x.marks ++ [(k.toNat, upNs s)] }) h)) ∧
      (∀ k : BitVec 15, k.toNat ≠ x.cmd.length - x.committed →
        Gives (.hostDoorbell h k false) s (setHost s h { x with cmd := x.cmd.take x.committed, dberr := true })) ∧
      Runs (.hostAbort h) s (fun t => (getHost t h).cmd = [] ∧ (getHost t h).rpl = [] ∧ (getHost t h).evts = [] ∧ (getHost t h).session = false ∧
        (getHost t h).flush = true ∧ t.mc.manager ≠ some h.val ∧ ctrGet t .hwEvtLost h = min (2 ^ 32 - 1) (ctrGet s .hwEvtLost h + x.evts.length) ∧
        (∀ k : Nat, k ≠ h.val → getHost t k = getHost s k))) ∧
    Runs (.hostPerst h) s (fun t => (getHost t h).perst = true ∧ (getHost t h).pciCmd = 0 ∧ (getHost t h).bar0 = 0 ∧ (getHost t h).cmd = [] ∧ (getHost t h).rpl = [] ∧ (getHost t h).evts = [] ∧ (getHost t h).session = false ∧
      t.mc.manager ≠ some h.val) ∧
    Gives (.perstRelease h) s (setHost s h { x with perst := false }) ∧
    (mcUp s = true → x.begun = none → 2 ≤ (stream x).length → headAt x + 100000000 ≤ upNs s → Runs (.hostPktTimeout h) s fun t => (getHost t h).cmd = [] ∧ (getHost t h).flush = true ∧
      (getHost t h).rpl = x.rpl ++ replyPacket (((stream x).getD 0 0).toNat / 2 ^ 16 % 2 ^ 16) (((stream x).getD 0 0).toNat / 2 ^ 32 % 2 ^ 16) 0x01 []) ∧
    (upNs s < headAt x + 100000000 → Ignored (.hostPktTimeout h) s) ∧ (∀ c, x.begun = some c → upNs s ≤ c.took + cmdBound c → Ignored (.cmdTimeout h) s) ∧
    (∀ c, x.begun = some c → c.drop = false → (stream x).length < 2 → c.took + cmdBound c < upNs s → Runs (.cmdTimeout h) s fun t => (getHost t h).begun = none ∧
      (getHost t h).rpl = x.rpl ++ replyPacket c.opc c.seq 0x0E [] ∧ (c.opc ≠ 0x0300 → c.opc ≠ 0x0302 → t.mem = s.mem) ∧
      (c.opc = 0x0300 → arg c 0 < 2 ^ 48 → ownsRange s h (arg c 0) (bytesOfWords (c.args.drop 1)).length = true →
        ∃ k, t.mem = (memWrite { s with fresh := s.fresh + 1 } (some h) (arg c 0) ((bytesOfWords (c.args.drop 1)).take k)).2.2.mem)) ∧
    (∀ a : Word, x.session = false → Gives (.partMsgPost (.part h) h a) s
      (bump (setHost (done s) h { x with postAddr := a }) .hwEvtLost h)) ∧
    (∀ a : Word, x.session = true → Gives (.partMsgPost (.part h) h a) s
      (deliver (setHost (done s) h { x with postAddr := a }) h 0x0C00 x.postVal.toNat a.toNat)) ∧
    (∀ a : Word, Gives (.partMsgPost .mc h a) s (foreign s))

/-- Packets (R311 to R314, R318, R319): a reply carries its CRCs; a packet with a bad CRC is answered 1, one without a session or with a wrong SEQ 2 with the SEQ expected, an unknown opcode 3; before
MOD_READY, while restarting, without a partition or without the manager right it is answered 0x0D, 7, 6 and 0x0F; and one that passes is begun. A bad header, or a nonzero rsvd field of the trailer, flushes the port as well [log 66].
The MC takes begun short commands in turn, one at a time, and runs long ones beside them (R316). -/
def Obligations.PacketsAreChecked : Prop :=
  (∀ (s : State) (h opc seq : Nat) (args : List Word),
    let x := getHost s h
    let u := if opc = 1 then s else setHost s h { x with expSeq := (x.expSeq + 1) % 65536 }
    let t := takePacket s h opc seq args
    (opc ≠ 1 → x.session = false ∨ seq ≠ x.expSeq → t = pushReply s h opc seq 0x02 [BitVec.ofNat 64 x.expSeq]) ∧
    ((opc = 1 ∨ (x.session = true ∧ seq = x.expSeq)) →
      (opcodes.find? (fun r => r.opc == opc) = none → t = pushReply u h opc seq 0x03 []) ∧
      (∀ r, opcodes.find? (fun r => r.opc == opc) = some r →
        (args.length < r.lo ∨ r.hi < args.length → ∃ v, t = pushReply { u with fresh := u.fresh + 1 } h opc seq 0x04 [v]) ∧
        (r.lo ≤ args.length → args.length ≤ r.hi →
          (s.su.ready = false → earlyOpc opc = false → t = pushReply u h opc seq 0x0D []) ∧
          (s.su.ready = true → (getPart s h).st = .restarting → restartOpc opc = false → t = pushReply u h opc seq 0x07 []) ∧
          (s.su.ready = true → (getPart s h).st = .none → r.right = .part → t = pushReply u h opc seq 0x06 []) ∧
          (s.su.ready = true → (getPart s h).st = .none → r.right = .manager → s.mc.manager ≠ some h → t = pushReply u h opc seq 0x0F []) ∧
          (s.su.ready = true → (getPart s h).st = .defined → r.right ≠ .manager → t = setHost u h { getHost u h with begun := some { opc := opc, seq := seq, args := args, took := upNs s } }))))) ∧
  (∀ (opc seq status : Nat) (pay : List Word), opc < 65536 → seq < 65536 → status < 256 → pay.length < 2 ^ 17 →
    let w := replyPacket opc seq status pay
    w.length = pay.length + 3 ∧ (w.drop 2).take pay.length = pay ∧ (w.getD 0 0).toNat / 2 ^ 16 % 2 ^ 16 = opc ∧ (w.getD 0 0).toNat / 2 ^ 32 % 2 ^ 16 = seq ∧
    (w.getD 0 0).toNat / 2 ^ 8 % 2 ^ 8 = status ∧ (w.getD 1 0).toNat = pay.length ∧
    (w.getD 0 0).toNat / 2 ^ 48 = crc16 (leBytes (w.getD 0 0).toNat 6 ++ leBytes (w.getD 1 0).toNat 8) ∧
    (w.getD (pay.length + 2) 0).toNat = (if pay = [] then 0 else crc32 (bytesOfWords pay)) + seq * 2 ^ 32) ∧
  (∀ (s : State) (h : Nat),
    let x := getHost s h
    let l := stream x
    let w0 := (l.getD 0 0).toNat
    let w1 := (l.getD 1 0).toNat
    let n := w1 % 2 ^ 17
    let tr := (l.getD (n + 2) 0).toNat
    let opc := w0 / 2 ^ 16 % 2 ^ 16
    let seq := w0 / 2 ^ 32 % 2 ^ 16
    let good := w0 / 2 ^ 48 = crc16 (leBytes w0 6 ++ leBytes w1 8) ∧ w0 % 2 ^ 16 = 1 ∧ w1 < 2 ^ 17
    let whole := eatWords x (n + 3)
    let pc := if n = 0 then 0 else crc32 (bytesOfWords ((l.drop 2).take n))
    mcUp s = true → x.begun = none → 2 ≤ l.length →
      (¬good → parseOne s h = some (pushReply (setHost s h (flushCmd x)) h opc seq 0x01 [])) ∧
      (good → l.length < n + 3 → parseOne s h = none) ∧
      (good → n + 3 ≤ l.length →
        (tr / 2 ^ 48 ≠ 0 → parseOne s h = some (pushReply (setHost s h (flushCmd whole)) h opc seq 0x01 [])) ∧
        (tr / 2 ^ 48 = 0 → tr % 2 ^ 32 ≠ pc ∨ tr / 2 ^ 32 ≠ seq → parseOne s h = some (pushReply (setHost s h whole) h opc seq 0x01 [])) ∧
        (tr = pc + seq * 2 ^ 32 → parseOne s h = some (takePacket (setHost s h whole) h opc seq ((l.drop 2).take n))))) ∧
  (∀ (s : State) (i : Nat), mcTurn s = some i → mcUp s = true ∧ i < 4 ∧ (∃ c, (getHost s i).begun = some c ∧ longOpc c.opc = false) ∧
    ∀ k c, k < 4 → (getHost s k).begun = some c → longOpc c.opc = false → c.running = false) ∧
  (∀ (s : State) (h : Nat) (c : HostCmd), longOpc c.opc = true → mcUp s = true →
    (∀ k b, k < 4 → (getHost s k).begun = some b → longOpc b.opc = false → b.running = false) → mayRun s h c = true)

/-- Sessions and partitions (R313, R318, R320 to R324, R342): HELLO begins a session at the sequence number after its own and may take the manager right; PART_CREATE refuses the first word that fails and else grants all;
PART_QUERY reads the grant; PART_DESTROY and PART_RESTART stop a running plan at the next tick start [log 12], and then quiet the partition and zero its SRAM; a restart tests
its cores again and takes back the jig instances that pass, and until it is over the partition is restarting; a released unit is filled with zeros. -/
def Parts.SessionsAndPartitions : Prop :=
  ∀ (h : Fin 4) (s : State) (c : HostCmd),
    let u := served s h
    (Turn s h 0x0001 c → arg c 0 ≤ 1 → Runs (.hello h) s fun t =>
      ∃ v, t = finish v h c 0 [BitVec.ofNat 64 (hwId v h), BitVec.ofNat 64 (pstateCode (getPart s h).st + 4 * b2n (bit (arg c 0) 0 && (s.mc.manager.isNone || s.mc.manager == some h.val) && (s.su.ready || s.su.recovery)))] ∧
        (getHost v h).session = true ∧ (getHost v h).expSeq = (c.seq + 1) % 65536 ∧ (getHost v h).eseq = 0 ∧
        (bit (arg c 0) 0 = true → s.mc.manager = none → s.su.ready = true → v.mc.manager = some h.val)) ∧
    (∀ mw p, Turn s h 0x0002 c → s.mc.manager = some p → Gives (.modStatus h mw) s
      (finish u h c 0 [BitVec.ofNat 64 (progress s.su + b2n s.su.ready * 2 ^ 16 + partMap s * 2 ^ 20 + p * 2 ^ 24 + mw.toNat * 2 ^ 32), BitVec.ofInt 64 (tempOf s (hotSensor s))])) ∧
    (Turn s h 0x0003 c → Gives (.evtMask h) s (finish (updHost u h fun x => { x with mask := arg c 0 }) h c 0 [])) ∧
    (Turn s h 0x0100 c → (getPart s h).st ≠ .none → Gives (.partCreate h) s (finish u h c 0x07 [0])) ∧
    (∀ st i, Turn s h 0x0100 c → (getPart s h).st = .none → createFails u h ((upFrom 0 18).map fun i => (i, arg c i)) = some (st, i) →
      Gives (.partCreate h) s (finish u h c st [BitVec.ofNat 64 i])) ∧
    (Turn s h 0x0100 c → (getPart s h).st = .none → createFails u h ((upFrom 0 18).map fun i => (i, arg c i)) = none → Runs (.partCreate h) s fun t =>
      ∃ v, t = finish v h c 0 [BitVec.ofNat 64 h.val] ∧ getPart v h = { getPart s h with st := .defined, desc := c.args } ∧
        tget v.jig.share 0 h = arg c 6 % 2 ^ 20 ∧ tget v.jig.share 0 (4 + h.val) = arg c 6 / 2 ^ 20 % 2 ^ 20) ∧
    (Turn s h 0x0102 c → Gives (.partQuery h) s (finish u h c 0 (getPart s h).desc)) ∧
    (let run := (getTick (settleSwitch u h) h).run
     let stops := fun (t : State) => (getTick t h).stopping = true ∧ (getTick t h).run = true ∧ (getTick t h).pend = none ∧ (getHost t h).rpl = (getHost s h).rpl ∧
       (getHost t h).begun = some { c with running := true, took := if c.running then c.took else upNs s }
     let gone := fun (v : State) => (getPart v h).st = .none ∧ (getPart v h).desc = [] ∧ tget v.jig.share 0 h = 0 ∧ tget v.jig.share 0 (4 + h.val) = 0
     let empty := fun (v : State) => (getTick v h).run = false ∧ (getTick v h).slotA = none ∧ (getTick v h).slotB = none
     (Turn s h 0x0101 c → (getHost s h).still = none →
       (run = true → Runs (.partDestroy h) s fun t => stops t ∧ getPart t h = getPart s h) ∧
       (run = false → Runs (.partDestroy h) s fun t => ∃ v, t = finish v h c 0 [] ∧ gone v ∧ empty v)) ∧
     (∀ b, (getHost s h).still = some b → b.opc = 0x0101 → mcUp s = true → (getTick (settleSwitch s h) h).run = false →
       Runs (.partDestroy h) s fun t => (getHost t h).still = none ∧ gone t ∧ empty t) ∧
     (∀ (tests : List (Fin 112 × CoreTest)) (clusters : List (Fin 24)) (jigs : List (Fin 2 × Fin 17)), Turn s h 0x0103 c → (getHost s h).still = none →
       (run = true → Runs (.partRestart h tests clusters jigs) s fun t => stops t ∧ getPart t h = { getPart s h with st := .restarting }) ∧
       (run = false → Runs (.partRestart h tests clusters jigs) s fun t => ∃ v, t = finish v h c 0 [] ∧ getPart v h = { getPart s h with st := .defined } ∧ empty v ∧
         (∀ cl ∈ clusters, ownsCluster s h cl = true → bit v.flt.clOut cl = true) ∧
         (∀ k r, k < 112 → ownsCore s h k = true → (getCore s k).run ≠ .testing → coreBarred s k = false →
           (isChisel k = true → bit s.flt.clOut (coreCluster k) = false ∧ ∀ cl ∈ clusters, cl.val ≠ coreCluster k) →
           r = ((tests.find? fun e => e.1.val == k).map fun e => e.2).getD .whole →
           tget v.flt.coreState 0 k = testState k r ∧ (getCore v k).weightPend = some (testWeight k r) ∧ (getCore v k).run = .held) ∧
         (∀ e ∈ jigs, (∃ k, 1 ≤ k ∧ k ≤ 5 ∧ jgShare s e.1 h k ≠ 0) → dieOut s e.1 = false → (∀ k, 1 ≤ k → k ≤ 5 → (getDom s (jigDom e.1 k)).state ≠ .failed) →
           bit (tget v.jig.inst 0 e.1) e.2 = true)))) ∧
    (∀ die : Fin 2, s.mc.filling.find? (fun x => x / 256 == die.val) = none → Ignored (.partReleaseFill die) s) ∧
    (∀ (die : Fin 2) (a : Nat), s.mc.filling.find? (fun x => x / 256 == die.val) = some a → gateStatus s (some (9 * die.val + 8)) = 0 →
      Runs (.partReleaseFill die) s fun t => t.mc.filling = s.mc.filling.erase a)

/-- Commands on cores, shares, rates, groups, messages and domains (R87, R121, R231, R318, R346, R348, R359): named cores start at level S with their entry and argument, or are held in reset; shares, rates, members are set; a message is stored and
raised; a domain changes level, sleeps or wakes; a group's members are its owner's uplink ranges of one µ that meet no other range (R87). Another partition's core, port or group is
refused with 5 and the word. -/
def Parts.CoreAndResourceCommands : Prop :=
  ∀ (h : Fin 4) (s : State) (c : HostCmd),
    let u := served s h
    (∀ i, Turn s h 0x0104 c ∨ Turn s h 0x0105 c → arg c 1 < 2 ^ 48 → foreignCore u h (namedCores c) = some i →
      (Turn s h 0x0104 c → Gives (.coreStart h) s (finish u h c 0x05 [BitVec.ofNat 64 i])) ∧ (Turn s h 0x0105 c → Gives (.coreStop h) s (finish u h c 0x05 [BitVec.ofNat 64 i]))) ∧
    (Turn s h 0x0104 c → arg c 1 < 2 ^ 48 → foreignCore u h (namedCores c) = none →
      let out := (namedCores c).find? fun e => weightSoon s e.1 == 0 && (getCore s e.1).run == .held
      (∀ e, out = some e → Gives (.coreStart h) s (finish u h c 0x08 [BitVec.ofNat 64 e.2])) ∧
      (∀ e ∈ namedCores c, out = none → startable s e.1 = false → Gives (.coreStart h) s (finish u h c 0x07 [])) ∧
      (out = none → (∀ e ∈ namedCores c, startable s e.1 = true) → Runs (.coreStart h) s fun t => ∃ v, t = finish v h c 0 [] ∧
        (∀ e ∈ namedCores c, getCore v e.1 = { getCore s e.1 with run := .running, pl := 1, ie := false, pc := c.args.getD 2 0 &&& ~~~3, g := [(1, c.args.getD 3 0)] }) ∧
        ∀ k : Nat, (∀ e ∈ namedCores c, e.1 ≠ k) → getCore v k = getCore s k)) ∧
    (Turn s h 0x0105 c → arg c 1 < 2 ^ 48 → foreignCore u h (namedCores c) = none → Runs (.coreStop h) s fun t => ∃ v, t = finish v h c 0 [] ∧
      (∀ k : Nat, (getCore v k).run = if (∃ e ∈ namedCores c, e.1 = k) ∧ (getCore s k).run ≠ .testing ∧ (getCore s k).run ≠ .stopped then .held else (getCore s k).run) ∧
      (∀ k w, namedCores c = [(k, w)] → (getCore s k).run ≠ .testing → (getCore s k).run ≠ .stopped → v = stopCore u k)) ∧
    (Turn s h 0x0106 c → arg c 0 < 2 ^ 40 → takenBad u h 6 (arg c 0) = true → Gives (.jigShare h) s (finish u h c 0x08 [0])) ∧
    (Turn s h 0x0106 c → arg c 0 < 2 ^ 40 → takenBad u h 6 (arg c 0) = false →
      let v := updPart (setShares u h (arg c 0)) h fun x => { x with desc := lset x.desc 6 (BitVec.ofNat 64 (arg c 0)) }
      let ends := fun (j : JgJob) => j.part == h.val && jgShare v j.die h j.cls == 0
      Gives (.jigShare h) s (finish (endQueued v ends 0x11) h c 0 []) ∧ (endQueued v ends 0x11).jig.queue = s.jig.queue.filter (fun j => !ends j)) ∧
    (∀ k, Turn s h 0x0107 c → arg c 0 &&& 0x0FFF07FF03FF = arg c 0 → arg c 0 % 256 < 160 → portCore (arg c 0 % 256) = some k → ownsCore s h k = true →
      arg c 0 / 2 ^ 8 % 4 ≠ 1 → 1 ≤ arg c 0 / 2 ^ 16 % 2 ^ 11 → arg c 0 / 2 ^ 16 % 2 ^ 11 ≤ 1024 → 65 ≤ arg c 0 / 2 ^ 32 % 2 ^ 12 →
      let q := arg c 0 % 256
      let k := arg c 0 / 2 ^ 8 % 4
      Runs (.nocRegulate h) s fun t => ∃ x, t = finish (setPort u q x) h c 0 [] ∧ x = setRate (getPort s q) (upNs s) k (arg c 0 / 2 ^ 16 % 2 ^ 11) (arg c 0 / 2 ^ 32 % 2 ^ 12) ∧
        x.rate = tset (getPort s q).rate k (arg c 0 / 2 ^ 16 % 2 ^ 11) ∧ x.burst = tset (getPort s q).burst k (arg c 0 / 2 ^ 32 % 2 ^ 12)) ∧
    (Turn s h 0x0108 c → arg c 0 < 256 → (∀ i, 1 ≤ i → i ≤ 4 → arg c i &&& 0x0FFFFF9F = arg c i) →
      let g := arg c 0
      let l := ((upFrom 0 4).filter fun i => bit (arg c (i + 1)) 7).map fun i => (i, membOf (arg c (i + 1)))
      let mu := ((l.head?).map fun e => (getStream s e.2.port e.2.lo).cfg.mu).getD 0
      let good := (∀ e ∈ l, ownsFh s h e.2.port = true ∧ membOk s mu e.2 = true ∧ ∀ y ∈ s.gc.grps, y.1 ≠ g → ∀ z ∈ y.2.memb, membMeet z.2 e.2 = false) ∧
        l.Pairwise fun a b => membMeet a.2 b.2 = false
      (ownsGroupOf s h g = false → Gives (.gainGroup h) s (finish u h c 0x05 [0])) ∧
      (ownsGroupOf s h g = true → good → Gives (.gainGroup h) s (finish (updGrp u g fun x => { x with memb := l, filt := [] }) h c 0 [])) ∧
      (ownsGroupOf s h g = true → ¬good → ∃ e ∈ l, Gives (.gainGroup h) s (finish u h c (if ownsFh s h e.2.port then 0x04 else 0x05) [BitVec.ofNat 64 (e.1 + 1)]))) ∧
    (∀ n v w r o, Turn s h 0x0109 c → arg c 0 < 2 ^ 22 → arg c 1 < 2 ^ 48 → ownsFlow s h (arg c 0 % 2 ^ 18) = true →
      ownsRange s h (arg c 1) (bytesOfWords (c.args.drop 3)).length = true → memWrite u (some h) (arg c 1) (bytesOfWords (c.args.drop 3)) = (0, n, v) →
      enqueueExt v h { flow := arg c 0 % 2 ^ 18, kind := 8, prio := none, tag := c.args.getD 2 0, arg0 := BitVec.ofNat 64 (arg c 1), arg1 := BitVec.ofNat 64 ((bytesOfWords (c.args.drop 3)).length % 65536 + c.seq * 65536) } = (r, w, o) →
      Gives (.hostMsg h) s (finish w h c 0 [BitVec.ofNat 64 r])) ∧
    (Turn s h 0x010A c → arg c 0 < 256 → arg c 0 % 32 < 24 → domOwner s (arg c 0 % 32) = some h.val →
      let d := arg c 0 % 32
      let x := getDom s d
      let t := arg c 0 / 2 ^ 5 % 8
      (∀ l, t = l → l < 4 → isGroup d = true → x.state = .awake → bit x.exh l = false → x.plTo = none → l = x.pl → Gives (.pwrSet h) s (finish u h c 0 [0])) ∧
      let noted := fun (v : State) (n : Nat) => (getDom v d).lastRef = n ∧ (getDom v d).lastAbort = false ∧ (getDom v d).lastV = true ∧ (getDom v d).lastN = absTick s
      (∀ l, t = l → l < 4 → isGroup d = true → x.state = .awake → bit x.exh l = true → Runs (.pwrSet h) s fun r => ∃ v, r = finish v h c 0x09 [6] ∧ noted v 6 ∧
        ctrGet v .pwrRef (8 * d + 6) = min (2 ^ 32 - 1) (ctrGet s .pwrRef (8 * d + 6) + 1)) ∧
      (∀ k, t = k + 3 → 1 ≤ k → k ≤ 3 → supports d k = true → x.state = .awake → x.reqSet = none →
        Gives (.pwrSet h) s (updHost (setDom u d { x with reqSet := some (k, h.val) }) h fun y => { y with begun := some { c with running := true, took := upNs s } })) ∧
      (t = 7 → x.state = .awake → x.reqSet = none → Gives (.pwrSet h) s (finish u h c 0 [0])) ∧
      (t = 7 → x.state = .failed → Runs (.pwrSet h) s fun r => ∃ v, r = finish v h c 0x09 [9] ∧ noted v 9))

/-- Commands on memory (R249, R263, R281, R318): within the host's partition MEM_WRITE stores, MEM_READ reads, MEM_FILL fills whole pages and answers the bytes filled, MEM_REGION sets a region and its protection, MEM_INJECT arms the
channel and writes the page; outside it they are refused with 5. -/
def Parts.MemoryCommands : Prop :=
  ∀ (h : Fin 4) (s : State) (c : HostCmd), arg c 0 < 2 ^ 48 →
    let u := served s h
    let a := arg c 0
    (Turn s h 0x0300 c →
      let bs := bytesOfWords (c.args.drop 1)
      (ownsRange u h a bs.length = false → Gives (.memWrite h) s (finish u h c 0x05 [0])) ∧
      (∀ n v, ownsRange u h a bs.length = true → memWrite u (some h) a bs = (0, n, v) → Gives (.memWrite h) s (finish v h c 0 [])) ∧
      (∀ st n v, st ≠ 0 → ownsRange u h a bs.length = true → memWrite u (some h) a bs = (st, n, v) →
        Gives (.memWrite h) s (finish v h c 0x0A [BitVec.ofNat 64 n, BitVec.ofNat 64 st]))) ∧
    (Turn s h 0x0301 c →
      (arg c 1 = 0 ∨ 524288 < arg c 1 → Gives (.memRead h) s (finish u h c 0x04 [1])) ∧
      (∀ bs v, 1 ≤ arg c 1 → arg c 1 ≤ 524288 → ownsRange u h a (arg c 1) = true → memRead u (some h) a (arg c 1) = (0, bs, v) →
        Gives (.memRead h) s (finish v h c 0 (wordsOfBytes bs)))) ∧
    (Turn s h 0x0302 c →
      (a % 2048 ≠ 0 → Gives (.memFill h) s (finish u h c 0x04 [0])) ∧ (a % 2048 = 0 → arg c 1 % 2048 ≠ 0 → Gives (.memFill h) s (finish u h c 0x04 [1])) ∧
      (∀ k v, a % 2048 = 0 → arg c 1 % 2048 = 0 → ownsRange u h a (arg c 1) = true → fillPages u h (arg c 2) a (arg c 1 / 2048) = (0, k, v) →
        Gives (.memFill h) s (finish v h c 0 [BitVec.ofNat 64 k]))) ∧
    (Turn s h 0x0303 c → a < 512 → arg c 1 < 2 ^ 17 → arg c 2 < 2 ^ 17 →
      (bit a 3 = true → s.mc.manager ≠ some h.val → Gives (.memRegion h) s (finish u h c 0x0F [])) ∧
      (bit a 3 = true → s.mc.manager = some h.val → a / 16 % 8 ≠ 7 → Gives (.memRegion h) s (finish { u with mem := { s.mem with rgnDefT := a / 16 % 8 } } h c 0 [])) ∧
      (bit a 3 = false → (getPart s h).st ≠ .none → a / 16 % 8 ≠ 7 → bit a 7 = true → (getRgn s (a % 8)).valid = false → arg c 1 ≤ arg c 2 →
        ((upFrom (arg c 1) (arg c 2 + 1 - arg c 1)).all fun m => ownsMem u h (m * 0x100000)) = true →
        Gives (.memRegion h) s (finish { u with mem := { s.mem with rgn := tset s.mem.rgn (a % 8) { base := arg c 1, limit := arg c 2, valid := true, t := a / 16 % 8 } } } h c 0 []))) ∧
    (∀ ch pg v, Turn s h 0x0304 c → arg c 1 &&& 0xF7FFF = arg c 1 → targetOf a = .lpddr ch pg → a % 2048 = 0 → arg c 1 % 2 ^ 15 ≤ 16895 → ownsMem s h a = true →
      writePiece (updCh u ch fun x => { x with injPos := arg c 1 % 2 ^ 15, injCnt := arg c 1 / 2 ^ 16 % 16, injArm := true }) (some h) a (bytesOfWords (c.args.drop 2)) = (0, v) →
      Gives (.memInject h) s (finish v h c 0 []))

/-- Commands on plans (R18 to R22, R318): a plan that passes is loaded into a slot that is not in use, one that fails is answered with its reason and entry; START and SWITCH name the first tick at least eight ahead that the lengths divide; STOP ends at
the present tick or withdraws what is pending; CLEAR empties a slot that is not in use. A start or switch whose tick has begun has taken effect before each of them (R22). -/
def Obligations.PlanCommands : Prop :=
  ∀ (h : Fin 4) (s : State) (c : HostCmd),
    let u := settleSwitch (served s h) h
    let b := getTick u h
    let slot := bit (arg c 0) 0
    (Turn s h 0x0200 c → arg c 0 ≤ 1 →
      (slotBusy b slot = true → Gives (.planLoad h) s (finish u h c 0x07 [])) ∧
      (∀ r i, slotBusy b slot = false → checkPlan u h (c.args.drop 1) = .error (r, i) → Gives (.planLoad h) s (finish u h c 0x09 [BitVec.ofNat 64 r, BitVec.ofNat 64 i])) ∧
      (∀ pl, slotBusy b slot = false → checkPlan u h (c.args.drop 1) = .ok pl → Gives (.planLoad h) s (finish (setTick u h (putSlot b slot (some pl))) h c 0 [BitVec.ofNat 64 pl.need]))) ∧
    (∀ pl, Turn s h 0x0201 c → arg c 0 ≤ 1 → b.run = false → b.pend = none → slotOf b slot = some pl → Gives (.planStart h) s
      (finish (setTick u h { b with pend := some { slot := slot, start := true, atCount := s.tu.count + ticksTo s pl.len, n := tickIn s (ticksTo s pl.len) } }) h c 0 [BitVec.ofNat 64 (tickIn s (ticksTo s pl.len))])) ∧
    (∀ pa pb, Turn s h 0x0202 c → b.run = true → b.pend = none → activePlan b = some pa → standbyPlan b = some pb →
      let d := ticksTo s (Nat.lcm pa.len pb.len)
      Gives (.planSwitch h) s (finish (setTick u h { b with pend := some { slot := !b.active, start := false, atCount := s.tu.count + d, n := tickIn s d } }) h c 0 [BitVec.ofNat 64 (tickIn s d)])) ∧
    (Turn s h 0x0202 c → b.run = false → Gives (.planSwitch h) s (finish u h c 0x07 [])) ∧
    (Turn s h 0x0203 c → b.run = true → Gives (.planStop h) s (finish (setTick u h { b with stopping := true, pend := none }) h c 0 [BitVec.ofNat 64 (absTick s)])) ∧
    (Turn s h 0x0203 c → b.run = false → b.pend = none → Gives (.planStop h) s (finish u h c 0x07 [])) ∧
    (Turn s h 0x0204 c → arg c 0 ≤ 1 → slotBusy b slot = false → Gives (.planClear h) s (finish (setTick u h (putSlot b slot none)) h c 0 [])) ∧
    (∀ l, 0 < l → (absTick s + ticksTo s l) % l = 0 ∧ 8 ≤ ticksTo s l ∧ ticksTo s l < 8 + l) ∧
    (∀ p ws pl, checkPlan s p ws = .ok pl → headerReason s ws = 0 ∧ pl.need = planNeed pl.entries ∧ pl.need ≤ fullCapacity s p ∧ 1 ≤ pl.len ∧ pl.len ≤ 2560)

/-- Commands on keys, time, thermal supervision and ageing (R289, R290, R293, R294, R298, R299, R304, R325, R364, R378, R379): SAs of the host's ports are installed, activated and deleted; the time unit is configured, and stepped while no plan runs and no port is
enabled; thermal limits that pass wait for the next tick; AGE_STATUS reports every domain. -/
def Parts.ManagementCommands : Prop :=
  ∀ (h : Fin 4) (s : State) (c : HostCmd),
    let u := served s h
    let w := arg c 0
    let port := w % 4
    (Turn s h 0x0500 c → w &&& 0xFFFFFFFF000003FF = w → arg c 4 < 2 ^ 32 →
      (saTx w = true → 7 < saSc w → Gives (.msSaInstall h) s (finish u h c 0x04 [0])) ∧
      ((saTx w = false ∨ saSc w ≤ 7) → ownsBp s h port = false → Gives (.msSaInstall h) s (finish u h c 0x05 [0])) ∧
      ((saTx w = false ∨ saSc w ≤ 7) → ownsBp s h port = true → Gives (.msSaInstall h) s (finish (setBp u port { getBp s port with
        sas := ((getBp s port).sas.filter fun y => !saNamed w y) ++ [{ tx := saTx w, sc := saSc w, sci := arg c 1, an := saAn w, ssci := w / 2 ^ 32 % 2 ^ 32, pn := arg c 2, salt := arg c 3 + arg c 4 * 2 ^ 64, key := ofLe (bytesOfWords (c.args.drop 5)) }] }) h c 0 []))) ∧
    (Turn s h 0x0501 c → w &&& 0x31F = w → ownsBp s h port = true →
      let v := setBp u port { getBp s port with active := tset (getBp s port).active (w / 4 % 8) (w / 256 % 4) }
      (txSa (getBp v port) (w / 4 % 8) = none → Gives (.msSaActivate h) s (finish v h c 0 [])) ∧
      (∀ a, txSa (getBp v port) (w / 4 % 8) = some a → Gives (.msSaActivate h) s (finish (notePn v port (w / 4 % 8) a) h c 0 []))) ∧
    (Turn s h 0x0502 c → w &&& 0xFFFFFFFF000003FF = w → (saTx w = false ∨ saSc w ≤ 7) → ownsBp s h port = true →
      Gives (.msSaDelete h) s (finish (setBp u port { getBp s port with sas := (getBp s port).sas.filter fun y => !saNamed w y }) h c 0 [])) ∧
    (Turn s h 0x0503 c → w &&& 0x8000031F = w → ownsFh s h (w % 32) = true → ownsBp s h (w / 256 % 4) = true →
      Gives (.tcMap h) s (finish { u with tm := { s.tm with tcMap := tset s.tm.tcMap (w % 32) (w / 256 % 4 + b2n (bit w 31) * 2 ^ 31) } } h c 0 [])) ∧
    (Turn s h 0x0504 c → w < 2 ^ 48 → 24 ≤ w % 256 → w % 256 ≤ 43 → Gives (.ptpCfg h) s (finish { u with tm := { s.tm with
      ptpPorts := w / 2 ^ 8 % 16, cfg := { domain := w % 256, ports := w / 2 ^ 8 % 16, interval := w / 2 ^ 12 % 16, prios := w / 2 ^ 16 % 2 ^ 32 } } } h c 0 [])) ∧
    (Turn s h 0x0504 c → w < 2 ^ 48 → w % 256 < 24 ∨ 43 < w % 256 → Gives (.ptpCfg h) s (finish u h c 0x04 [0])) ∧
    (stepBarred s = true → (Turn s h 0x0505 c → w < 2 ^ 48 → Gives (.timeSet h) s (finish u h c 0x07 [])) ∧ (Turn s h 0x0506 c → Gives (.timeStep h) s (finish u h c 0x07 []))) ∧
    (stepBarred s = false → (Turn s h 0x0505 c → w < 2 ^ 48 → Gives (.timeSet h) s (finish (stepTime u (w * 1000000000 + s.now % 1000000000)) h c 0 [])) ∧
      (Turn s h 0x0506 c → Gives (.timeStep h) s (finish (stepTime u w) h c 0 []))) ∧
    (∀ t, (stepTime s t).now = t ∧ (stepTime s t).tm.secondsSet = true) ∧
    (Turn s h 0x0507 c → w < 128 → 1 ≤ arg c 1 → arg c 1 ≤ 5000 → arg c 2 < 2 ^ 32 → 10 ≤ arg c 3 → arg c 3 ≤ 5000 → arg c 4 < 2 ^ 48 → arg c 5 < 2 ^ 32 → arg c 6 = 0 →
      Gives (.timeCfg h) s (finish { u with tm := { rebase s (phaseNow s) with
        ptpPorts := w % 16, extEn := bit w 4, prefExt := bit w 5, ppsFreerun := bit w 6, slewMax := arg c 1, ppsIn := arg c 2 % 2 ^ 16, ppsOut := arg c 2 / 2 ^ 16 % 2 ^ 16, oscThr := arg c 3 } } h c 0 [])) ∧
    (Turn s h 0x0600 c → w < 2 ^ 36 → arg c 1 &&& 0xFFFF1FFF = arg c 1 → arg c 2 < 2 ^ 16 →
      (∀ i, thCfgBad (thCfgOf c) = some i → Gives (.thermCfg h) s (finish u h c 0x04 [BitVec.ofNat 64 i])) ∧
      (thCfgBad (thCfgOf c) = none → Gives (.thermCfg h) s (finish { u with th := { s.th with pend := some (thCfgOf c) } } h c 0 []))) ∧
    (Turn s h 0x0601 c → Runs (.ageStatus h) s fun t => ∃ v pay, t = finish v h c 0 pay ∧ ({ v with fresh := s.fresh } : State) = u ∧ pay.length = 26 ∧
      ∀ d, d < 24 → pay.getD (2 + d) 0 = BitVec.ofNat 64 (ageWord s d))

/-! ### Start-up, flash -/

/-- The stages of start-up (R327 to R340): a stage that ends with its findings records its milliseconds, to which time moves on, and begins the next one; a failed stage stops start-up with its code (0x20 for a rail, 0x30 for both oscillators, 0x40
for no valid image, 0x50, 0x60, 0x70 for the IOD's own tests, 0x90 for no compute die); stage 9 raises MOD_READY; stage 1 lasts 10 ms at least; a stage past its bound stops with 0x01, one that ends at its bound is on time; the watchdog of an image tries the other slot and then stops with 0x40;
wherever the selected slot is given up, FALLBACK and DEG are set and the report holds 0xA1 (R332, R344). -/
def Obligations.StartupRunsInStages : Prop :=
  ∀ (s : State) (ms : BitVec 12) (f : StageFind), Starting s →
    let k := stageMs s ms.toNat
    let e := timeTo s (s.su.began + 1000000 * k)
    (ms.toNat ≤ k ∧ upNs s ≤ s.su.began + 1000000 * k ∧ ∀ a, (timeTo s a).stepped = s.stepped ∧ (s.stepped ≤ s.now → s.now ≤ (timeTo s a).now ∧ upNs (timeTo s a) = max a (upNs s))) ∧
    (s.su.stage = 1 → k < 10 → Ignored (.startupStageDone ms f) s) ∧
    (∀ u, stageBody e f = some u → k ≤ stageBound s.su.stage → (s.su.stage = 1 → 10 ≤ k) → u.su.fail = none → u.su.ready = false → u.th.trip = false → Runs (.startupStageDone ms f) s fun t =>
      t.su.stage = s.su.stage + 1 ∧ t.su.step = 0 ∧ t.su.began = upNs u ∧ tget t.su.ms 0 s.su.stage = k ∧ t.pending = u.pending ∧ t.mem = u.mem ∧ t.cores = u.cores) ∧
    (∀ u, stageBody e f = some u → stageBound s.su.stage < k → (s.su.stage = 1 → 10 ≤ k) → Gives (.startupStageDone ms f) s (stopStartup (timeTo s (s.su.began + 1000000 * stageBound s.su.stage)) 0x01)) ∧
    (∀ u c, stageBody e f = some u → k ≤ stageBound s.su.stage → (s.su.stage = 1 → 10 ≤ k) → u.su.fail = some c → Gives (.startupStageDone ms f) s { u with su := { u.su with ms := tset u.su.ms s.su.stage k } }) ∧
    (∀ u, stageBody e f = some u → k ≤ stageBound s.su.stage → (s.su.stage = 1 → 10 ≤ k) → u.su.ready = true → Gives (.startupStageDone ms f) s { u with su := { u.su with ms := tset u.su.ms s.su.stage k } }) ∧
    (stageBody e f = none → Ignored (.startupStageDone ms f) s) ∧
    (s.su.stage = 2 → f = .rails false → stageBody s f = some (stopStartup s 0x20)) ∧
    (s.su.stage = 3 → f = .osc .neither → stageBody s f = some (stopStartup s 0x30)) ∧
    (∀ a b, s.su.stage = 4 → f = .boot a b → nextSlot s a b = none → stageBody s f = some (stopStartup (fallBack s) 0x40)) ∧
    (∀ a b x, s.su.stage = 4 → f = .boot a b → nextSlot s a b = some x →
      ∃ u, stageBody s f = some u ∧ u.su.slot = x ∧ u.su.fallback = (s.su.fallback || x != s.su.sel) ∧ u.su.fw = imgVersion s x ∧ (x = s.su.sel → u.su.deg = s.su.deg ∧ u.su.report = s.su.report) ∧
        (x ≠ s.su.sel → u.su = { (fallBack s).su with slot := x, fw := imgVersion s x, runRbc := u.su.runRbc })) ∧
    (s.su.fallback = false → (fallBack s).su.fallback = true ∧ (fallBack s).su.deg = true ∧ (fallBack s).su.step = 1 ∧ (fallBack s).su.report = s.su.report ++ [(0xA1, b2n (!s.su.sel))]) ∧
    (s.su.fallback = true → fallBack s = s) ∧
    (∀ se l o, s.su.stage = 5 → f = .calib false se l o → stageBody s f = some (stopStartup s 0x50)) ∧
    (∀ c d ch, s.su.stage = 6 → f = .sram c d ch false → stageBody s f = some (stopStartup s 0x60)) ∧
    (∀ c d ch u, s.su.stage = 6 → f = .sram c d ch true → stageBody s f = some u → u.mem.bytes = []) ∧
    (∀ c cl j d, s.su.stage = 7 → f = .tests c cl j d false → stageBody s f = some (stopStartup s 0x70)) ∧
    (s.su.stage = 9 → f = .ready → dieOut s 0 = true → dieOut s 1 = true → stageBody s f = some (stopStartup s 0x90)) ∧
    (s.su.stage = 9 → f = .ready → dieOut s 0 = false ∨ dieOut s 1 = false → ∃ u, stageBody s f = some u ∧ u.su.ready = true ∧ s.su.rbc ≤ u.su.rbc ∧ u.th.armed = false) ∧
    (∀ d, d < 80 → (getLink (trainLinks s) d).state = 1) ∧
    (s.su.stage ≠ 0 → Gives .startupTimeout s (stopStartup (timeTo s (s.su.began + 1000000 * stageBound s.su.stage)) 0x01)) ∧ (s.su.stage = 0 → Ignored .startupTimeout s) ∧
    (∀ a b, s.su.stage = 4 → nextSlot s a b = none → Ignored (.bootWatchdog a b) s) ∧
    (∀ a b x, s.su.stage = 4 → nextSlot s a b = some x → Runs (.bootWatchdog a b) s fun t => bit t.su.wd (b2n x) = true ∧ t.su.fallback = true ∧
      (s.su.fallback = false → t.su.deg = true ∧ t.su.report = s.su.report ++ [(0xA1, b2n (!s.su.sel))]) ∧
      (t.su.fail = some 0x40 ∧ t.su.recovery = true ∧ nextSlot t a b = none ∨ t.su.fail = none ∧ (nextSlot t a b).isSome = true)) ∧
    (∀ a b, s.su.stage ≠ 4 → Ignored (.bootWatchdog a b) s) ∧
    (∀ c, (stopStartup s c).su.fail = some c ∧ (stopStartup s c).su.stopped = true ∧ (stopStartup s c).flt.faultN = false ∧ (stopStartup s c).flt.sev = 3 ∧ (stopStartup s c).su.recovery = (c == 0x40 || c == 0x01 && s.su.stage == 4))

/-- Reset and input power (R329, R410, R411, R419): MOD_RESET_N low, and an input out of range, take every unit to its value at reset; what flash and the fuses hold stays (the selected slot, the image slots, RBC, the log, service hours, the calibrated
offsets), and so do the commands that wait; start-up begins at stage 1 when MOD_RESET_N rises with the input in range, and when the input returns. -/
def Parts.ResetAndInputPower : Prop :=
  ∀ (s : State),
    (Runs .modResetAssert s fun t => t.su.hold = true ∧ t.su.stage = 0 ∧ t.su.ready = false ∧ t.cores = [] ∧ t.mem.bytes = [] ∧ t.parts = [] ∧ t.dv = {} ∧ t.noc = {} ∧ t.jig = {} ∧ t.bh = {} ∧ t.pending = s.pending ∧
      t.su.slots = s.su.slots ∧ t.su.sel = s.su.sel ∧ t.su.rbc = s.su.rbc ∧ t.su.vin = s.su.vin ∧ t.age.hours = s.age.hours ∧ (s.flt.queue = [] → t.flt.log = s.flt.log ∧ t.flt.nextIndex = s.flt.nextIndex) ∧ s.flt.nextIndex ≤ t.flt.nextIndex) ∧
    (Runs .vinOutOfRange s fun t => t.su.vin = false ∧ t.su.stage = 0 ∧ t.su.ready = false ∧ t.cores = [] ∧ t.mem.bytes = [] ∧ t.flt.log = s.flt.log ∧ t.su.slots = s.su.slots ∧ t.su.rbc = s.su.rbc ∧ t.age.hours = s.age.hours ∧ t.pending = s.pending) ∧
    (s.su.hold = true → s.su.vin = true → Gives .modResetRelease s (beginStage { s with su := { s.su with hold := false } } 1)) ∧
    (s.su.hold = true → s.su.vin = false → Gives .modResetRelease s { s with su := { s.su with hold := false } }) ∧ (s.su.hold = false → Ignored .modResetRelease s) ∧
    (s.su.vin = false → s.su.hold = false → Gives .inputPowerApply s (beginStage { s with su := { s.su with vin := true } } 1)) ∧
    (s.su.vin = false → s.su.hold = true → Gives .inputPowerApply s { s with su := { s.su with vin := true } }) ∧ (s.su.vin = true → Ignored .inputPowerApply s) ∧
    ((beginStage s 1).su.stage = 1 ∧ (beginStage s 1).su.began = upNs s)

/-- Commands on flash (R318, R331 to R333, R388): FW_WRITE writes within a slot's 134,217,728 bytes; FW_COMMIT refuses the slot that runs and names the first check that fails; FW_SELECT records a slot with a valid image, and in boot recovery
start-up goes back to stage 4; LOG_READ checks its count and answers records in the order of their INDEX. -/
def Parts.FlashCommands : Prop :=
  ∀ (h : Fin 4) (s : State) (c : HostCmd),
    let u := served s h
    let w := arg c 0
    let b := bit w 0
    let n := w / 2 ^ 32 % 2 ^ 32 - 256
    (∀ ok, Turn s h 0x0400 c → w &&& 0xFFFFFF01 = w →
      let o := w / 2 ^ 8 % 2 ^ 24 * 4096
      let bs := bytesOfWords (c.args.drop 1)
      (134217728 < o + bs.length → Gives (.fwWrite h ok) s (finish u h c 0x04 [0])) ∧
      (o + bs.length ≤ 134217728 → ok = false → Gives (.fwWrite h ok) s (finish u h c 0x0B [])) ∧
      (o + bs.length ≤ 134217728 → ok = true → Gives (.fwWrite h ok) s (finish { u with su := { s.su with
        slots := tset s.su.slots (b2n b) { getSlot s b with bytes := cellsWrite (getSlot s b).bytes o bs, written := true } } } h c 0 []))) ∧
    (∀ ok sig, Turn s h 0x0401 c → w &&& 0xFFFFFFFF00000001 = w → arg c 1 < 2 ^ 32 →
      (slotRuns s b = true → Gives (.fwCommit h ok sig) s (finish u h c 0x07 [])) ∧
      (slotRuns s b = false → ok = false → Gives (.fwCommit h ok sig) s (finish u h c 0x0B [4])) ∧
      (slotRuns s b = false → ok = true → bodyCrc s b n ≠ arg c 1 → Gives (.fwCommit h ok sig) s (finish u h c 0x0C [1])) ∧
      (slotRuns s b = false → ok = true → bodyCrc s b n = arg c 1 → bodyCrc s b n = hdrWord s b 3 → hdrOk s b = true → hdrWord s b 2 = n →
        (sig = false → Gives (.fwCommit h ok sig) s (finish u h c 0x0C [2])) ∧
        (sig = true → hdrWord s b 5 < s.su.rbc → Gives (.fwCommit h ok sig) s (finish u h c 0x0C [3])) ∧
        (sig = true → s.su.rbc ≤ hdrWord s b 5 → Gives (.fwCommit h ok sig) s (finish u h c 0 [0])))) ∧
    (∀ ok img, Turn s h 0x0402 c → w ≤ 1 →
      (imgValid s b img = false → Gives (.fwSelect h ok img) s (finish u h c 0x0C [])) ∧
      (imgValid s b img = true → ok = false → Gives (.fwSelect h ok img) s (finish u h c 0x0B [])) ∧
      (imgValid s b img = true → ok = true → s.su.recovery = false → Gives (.fwSelect h ok img) s (finish { u with su := { s.su with sel := b } } h c 0 [])) ∧
      (imgValid s b img = true → ok = true → s.su.recovery = true → Runs (.fwSelect h ok img) s fun t =>
        t.su.sel = b ∧ t.su.stage = 4 ∧ t.su.fail = none ∧ t.su.recovery = false ∧ ∀ k, k < 4 → (getHost t k).session = false)) ∧
    (∀ bad, Turn s h 0x0403 c →
      (arg c 1 = 0 ∨ 1024 < arg c 1 → Gives (.logRead h bad) s (finish u h c 0x04 [1])) ∧
      (∀ x y, 1 ≤ arg c 1 → arg c 1 ≤ 1024 → (logRecords s).head? = some x → (logRecords s).getLast? = some y →
        let r := ((logRecords s).filter fun e => w ≤ e.1).take (arg c 1)
        (bad = none → Gives (.logRead h bad) s (finish u h c 0 (BitVec.ofNat 64 x.1 :: BitVec.ofNat 64 y.1 :: r.flatMap fun e => wordsOfBytes e.2))) ∧
        (∀ k, bad = some k → k.val < r.length → Gives (.logRead h bad) s (finish u h c 0x0B (BitVec.ofNat 64 x.1 :: BitVec.ofNat 64 y.1 :: (r.take k.val).flatMap fun e => wordsOfBytes e.2)))))

/-! ### Power states -/

/-- Entering sleep (R350 to R353, R235, R274): an awake domain's request, by PWR_SET or by the votes of all its cores, is withdrawn by a wake condition, refused by the first refuser that applies, or accepted, and then the domain is entering
its target; the drain is done when no request of the domain's agents awaits its answer; the entry is aborted when it times out at NOC_DRAIN_LIM, the offsets of a re-plan then applying (R373) and a monitor read that waited for the domain becoming due (R372), and a drained entry ends in its target with PWR_STATE raised, or goes on to wake when a wake condition has arisen. -/
def Obligations.DomainsFallAsleep : Prop :=
  ∀ (d : Fin 24) (s : State),
    let x := getDom s d
    let wakes := (groupCores d).any fun c => (getCore s c).run == .waiting && wakeCond s c
    (x.state ≠ .awake → Ignored (.pwrEntryRequest d) s) ∧
    (∀ t h, x.state = .awake → x.reqSet = some (t, h) →
      (wakes = true → Gives (.pwrEntryRequest d) s (withdrawSet s d 1)) ∧
      (wakes = false → refuserOf s d t true = none → Gives (.pwrEntryRequest d) s (acceptEntry s d t (some h))) ∧
      (∀ k, wakes = false → refuserOf s d t true = some k →
        Gives (.pwrEntryRequest d) s (replyLater (noteRefusal (updDom s d fun x => { x with reqSet := none }) d k false t) h 0x09 [BitVec.ofNat 64 k]))) ∧
    (x.state = .awake → x.reqSet = none → x.reqVote = true → votesStand s d = true →
      (refuserOf s d (votedState s d) false = none → Gives (.pwrEntryRequest d) s (acceptEntry s d (votedState s d) none)) ∧
      (∀ k, refuserOf s d (votedState s d) false = some k →
        Gives (.pwrEntryRequest d) s (endWaits (noteRefusal (updDom s d fun x => { x with reqVote := false }) d k false (votedState s d)) d 3 k))) ∧
    (x.state = .awake → x.reqSet = none → x.reqVote = false ∨ votesStand s d = false → Gives (.pwrEntryRequest d) s (updDom s d fun x => { x with reqVote := false })) ∧
    (∀ t set, (refuserOf s d t set = some 1 ↔ set = true ∧ (groupCores d).any (busyCore s t) = true) ∧
      (refuserOf s d t set = some 5 ↔ (set && (groupCores d).any (busyCore s t)) = false ∧ (groupCores d).any (holdsLock s) = true) ∧
      (∀ k, refuserOf s d t set = some k → k = 1 ∨ 3 ≤ k ∧ k ≤ 7) ∧ (x.plTo ≠ none → refuserOf s d t set ≠ none) ∧ (unitInUse s d = true → refuserOf s d t set ≠ none)) ∧
    (votedState s d ≤ 3 ∧ ∀ c, c ∈ groupCores d → (getCore s c).run = .waiting → votedState s d ≤ (getCore s c).waitMode) ∧
    (∀ t h, (getDom (acceptEntry s d t h) d).state = .entering ∧ (getDom (acceptEntry s d t h) d).target = t ∧ (getDom (acceptEntry s d t h) d).drained = false ∧
      ∀ e, e ≠ d.val → getDom (acceptEntry s d t h) e = getDom s e) ∧
    (x.state = .entering → nocDrained s d = true → Gives (.nocDrainDone d) s (setDom s d { x with drained := true })) ∧ (x.state ≠ .entering ∨ nocDrained s d = false → Ignored (.nocDrainDone d) s) ∧
    (nocDrained s d = false ↔ ∃ q, q < 160 ∧ (portDom q = some d.val ∧ (getPort s q).out ≠ [] ∨ ∃ o ∈ (getPort s q).out, o.jigDom = some d.val)) ∧
    (let b := ageAwake (setDom s d { x with state := .awake, wakePend := false, entryHost := none, wakeHost := none, plRec := none, ofsNow := x.ofs }) d
     let u := endWaits (noteRefusal (match x.plRec with
       | some l => if l = x.pl then b else startLevel b d l none
       | none => b) d 2 true x.target) d 4 2
     x.state = .entering → x.drained = false → x.wakeHost = none → x.since + (getNocDie s (if d.val < 18 then d.val / 9 else 2)).drainLim ≤ upNs s →
      (x.entryHost = none → Gives (.nocDrainTimeout d) s u) ∧ (∀ h, x.entryHost = some h → Gives (.nocDrainTimeout d) s (replyLater u h 0x09 [18]))) ∧
    (∀ u : State, (ageAwake u d).age = { u.age with busy := u.age.busy || bit u.age.late d, due := if bit u.age.late d then setBit u.age.due d true else u.age.due, late := setBit u.age.late d false } ∧
      { ageAwake u d with age := u.age } = u) ∧
    (x.state ≠ .entering ∨ x.drained = true ∨ upNs s < x.since + (getNocDie s (if d.val < 18 then d.val / 9 else 2)).drainLim → Ignored (.nocDrainTimeout d) s) ∧
    (x.state ≠ .entering ∨ x.drained = false → Ignored (.pwrEntryDone d) s) ∧
    (let u := pwrState (updDom s d fun y => { y with state := sleepState x.target, entryHost := none }) d 0 x.target
     x.state = .entering → x.drained = true → isMemGroup d = false → x.target ≠ 3 → x.entryHost = none →
      ((getDom u d).wakePend = false → Gives (.pwrEntryDone d) s u) ∧ ((getDom u d).wakePend = true → Gives (.pwrEntryDone d) s (startWake u d))) ∧
    (x.state = .entering → x.drained = true → x.target = 3 → Runs (.pwrEntryDone d) s fun t => (getDom t d).state = sleepState x.target ∨ (getDom t d).state = .waking) ∧
    (x.state = .entering → x.drained = true → isMemGroup d = true → Runs (.pwrEntryDone d) s fun t => (getDom t d).state = sleepState x.target ∨ (getDom t d).state = .waking) ∧
    (∀ ch, (getCh s ch).state = 1 → (getCh (sleepChannel s ch) ch).state = 2 ∧ (getCh (sleepChannel s ch) ch).staged = [] ∧ (getCh (sleepChannel s ch) ch).debt = 0)

/-- Waking (R354 to R358): a write of 1 to WAKE by the MC or by a partition that holds a resource in the domain wakes it from any sleep state or marks the entry for a wake; no domain wakes after a thermal shut-down or a failed start-up (R340, R369);
the fixed delays of a wake are waited out; its steps 1 and 3 are retried once at their timeouts and then the domain is FAILED
with PWR_FAULT; a wake from S1 keeps everything, one from S3 finds zeroed memory, and only the banks that the sentinel check found lost lose their contents. -/
def Parts.DomainsWake : Prop :=
  ∀ (d : Fin 24) (s : State),
    let x := getDom s d
    Gives (.pwrWakeRequest .mc d) s (done (wakeReq s d true 1)) ∧
    (∀ p : Fin 4, holdsDom s p d = true → Gives (.pwrWakeRequest (.part p) d) s (done (wakeReq s d true 1))) ∧ (∀ p : Fin 4, holdsDom s p d = false → Gives (.pwrWakeRequest (.part p) d) s (foreign s)) ∧
    (∀ deep k, s.th.trip = true ∨ s.su.fail.isSome = true → wakeReq s d deep k = s) ∧
    (s.th.trip = false → s.su.fail = none → ∀ k, (x.state = .s1 ∨ x.state = .s2 ∨ x.state = .s3 → wakeReq s d true k = setDom s d { x with state := .waking, since := upNs s }) ∧ (x.state = .s3 → wakeReq s d false k = s) ∧
      (x.state = .entering → wakeReq s d true k = setDom s d { x with wakePend := true }) ∧ (∀ deep, x.state = .waking ∨ x.state = .failed → wakeReq s d deep k = s)) ∧
    (∀ pll osc, x.state ≠ .waking ∨ x.target < 2 ∨ upNs s < x.since + (if pll then 50000 else 100000) → Ignored (.pwrWakeTimeout d pll osc) s) ∧
    (∀ osc, x.state = .waking → 2 ≤ x.target → x.since + 100000 ≤ upNs s →
      (x.retry1 = false → Gives (.pwrWakeTimeout d false osc) s (setDom s d { x with retry1 := true, since := upNs s })) ∧
      (x.retry3 = false → osc = false → Gives (.pwrWakeTimeout d true osc) s (setDom s d { x with retry3 := true, since := upNs s })) ∧
      (x.retry3 = false → osc = true → Gives (.pwrWakeTimeout d true osc) s (failOsc (setDom s d { x with retry3 := true, since := upNs s }) s.tm.osc)) ∧
      (∀ pll, (if pll then x.retry3 else x.retry1) = true →
        let u := raiseDom (pwrState (failDomain s d) d x.target 6) d 0x0A01 d 0 (if cellDepends s d then 2 else 1)
        (x.wakeHost = none → Gives (.pwrWakeTimeout d pll osc) s u) ∧ (∀ h, x.wakeHost = some h → Gives (.pwrWakeTimeout d pll osc) s (replyLater (noteOther u d 8 none) h 0x09 [8])))) ∧
    (∀ lost, x.state ≠ .waking ∨ upNs s < x.since + wakeFixed x d → Ignored (.pwrWakeDone d lost) s) ∧ (x.target = 1 → isMemGroup d = false → wakeFixed x d = 0) ∧
    (x.target = 2 → x.retry3 = false → wakeFixed x d = if isMemGroup d then 17000 else 15000) ∧
    (∀ lost, x.state = .waking → x.target = 1 → isMemGroup d = false → x.since ≤ upNs s → Runs (.pwrWakeDone d lost) s fun t => t.mem.sramErr = s.mem.sramErr ∧ t.dma = s.dma ∧ t.rasps = s.rasps) ∧
    (∀ lost, x.state = .waking → x.since + wakeFixed x d ≤ upNs s → Runs (.pwrWakeDone d lost) s fun t => (getDom t d).state = .awake) ∧
    (∀ lost, x.state = .waking → x.target = 3 → x.since + wakeFixed x d ≤ upNs s → Runs (.pwrWakeDone d lost) s fun t => ∀ cl, cl ∈ groupClusters d → getRasp t cl = {}) ∧
    (∀ c, c ∈ groupCores d → ∀ a, tileBase c ≤ a → a < tileBase c + 0x80000 → cellsRead (wakeEmpty s d).mem.bytes a 1 = [0]) ∧
    (∀ cl, cl ∈ groupClusters d → getRasp (wakeEmpty s d) cl = {} ∧ ∀ c, c < 16 → getDma (wakeEmpty s d) (dmaNo cl c) = {}) ∧
    (∀ m a, (∀ b r, b < bankCount d → bit m b = true → r ∈ bankRanges d b → a < r.1 ∨ r.1 + r.2 ≤ a) → cellsRead (loseBanks s d m).mem.bytes a 1 = cellsRead s.mem.bytes a 1)

/-- Changes of performance level (R348): upwards the voltage ramps first, and the frequency changes at the next tick start; downwards the frequency changes at a tick start, and the voltage ramps after; HZ_IP.PWR is set with the change of
frequency; a request held meanwhile starts when the change completes. -/
def Parts.LevelsChange : Prop :=
  ∀ (d : Fin 24) (s : State),
    let x := getDom s d
    (∀ l, x.plTo = some (l, .rampUp) → Gives (.pwrVoltSettled d) s (setDom s d { x with plTo := some (l, .waitTick) })) ∧ ((∀ l, x.plTo ≠ some (l, .rampUp)) → Ignored (.pwrVoltSettled d) s) ∧
    (∀ l, x.plTo = some (l, .rampDown) → Gives (.voltageRampDownDone d) s (levelDone s d)) ∧ ((∀ l, x.plTo ≠ some (l, .rampDown)) → Ignored (.voltageRampDownDone d) s) ∧
    (∀ l h, getDom (startLevel s d l h) d = { x with plTo := some (l, if l < x.pl then .rampUp else .waitTick), plHost := h }) ∧
    (let u := raiseDom (setDom s d { x with plTo := none, plHeld := none, ofsNow := x.ofs }) d 0x0A03 d x.pl 0
     (x.plHeld = none → levelDone s d = u) ∧ (∀ h, x.plHeld = some (x.pl, some h) → levelDone s d = replyLater u h 0 [0]) ∧
     (∀ l h, x.plHeld = some (l, h) → l ≠ x.pl → levelDone s d = startLevel u d l h)) ∧
    (∀ l, x.plTo = some (l, .waitTick) → x.plHost = none →
      (l < x.pl → freqSwitch s d = levelDone (sigPwr (setDom s d { x with pl := l }) d) d) ∧
      (x.pl ≤ l → freqSwitch s d = sigPwr (setDom s d { x with pl := l, plTo := some (l, .rampDown) }) d)) ∧
    ((∀ l, x.plTo ≠ some (l, .waitTick)) → freqSwitch s d = s)

/-! ### Thermal supervision, ageing -/

/-- A sample (R362, R363, R365, R368): while the rails are up a sound sensor stores its reading; a reading out of range, or a 256th conversion whose self-check lies outside 11.0 to 13.0 °C, breaks the sensor and shuts the module down at 150.0 °C; a second consecutive reading
at or above SHUTDOWN shuts it down; the shut-down removes every rail but standby, queues its record with every zone and domain, and arms the lower threshold. -/
def Parts.SamplesAreTaken : Prop :=
  ∀ (i : Fin 96) (r rise : BitVec 16) (s : State),
    let t := r.toInt
    let n := (tget s.th.convs 0 i + 1) % 256
    let bad := n = 0 ∧ (rise.toInt < 176 ∨ 208 < rise.toInt)
    let c : State := { s with th := { s.th with convs := tset s.th.convs i n } }
    let hot := shutAt s ≤ t
    let u : State := { s with th := { s.th with convs := tset s.th.convs i n, temps := tset s.th.temps i t, nOver := setBit s.th.nOver i (decide hot), fast := setBit s.th.fast i (decide (fastAt s ≤ t)) } }
    (railsUp s = false ∨ bit s.th.broken i = true → Ignored (.thSample i r rise) s) ∧
    (railsUp s = true → bit s.th.broken i = false →
      (t < -640 ∨ 2400 < t → Gives (.thSample i r rise) s (breakSensor c i 0)) ∧
      (-640 ≤ t → t ≤ 2400 → bad → Gives (.thSample i r rise) s (breakSensor c i 1)) ∧
      (-640 ≤ t → t ≤ 2400 → ¬ bad → ¬ (hot ∧ bit s.th.nOver i = true) → Gives (.thSample i r rise) s (zoneWarn u (zoneOf i))) ∧
      (-640 ≤ t → t ≤ 2400 → ¬ bad → hot → bit s.th.nOver i = true → Gives (.thSample i r rise) s (thermalTrip (zoneWarn u (zoneOf i)) i))) ∧
    (bit s.th.broken i = false → s.th.trip = false → (breakSensor s i 0).th.trip = true ∧ bit (breakSensor s i 0).th.broken i = true ∧ tempOf (breakSensor s i 0) i = 2400) ∧
    (let v := thermalTrip s i
     v.th.trip = true ∧ v.th.armed = true ∧ v.su.ready = false ∧ v.cores = [] ∧ v.mem.bytes = [] ∧ v.dv = {} ∧ v.noc = {} ∧ v.bh = {} ∧ v.flt.sev = 3 ∧ v.flt.faultN = false ∧
     v.age = s.age ∧ v.su.slots = s.su.slots ∧ v.pending = s.pending ∧ (∀ d, d < 24 → (getDom v d).state = .s3) ∧
     ∃ q e, v.flt.queue = q ++ [e] ∧ e.code = 0x0A13 ∧ e.sev = 3 ∧ e.cont = shutConts s) ∧
    (s.th.armed = false → shutAt s = 16 * (s.th.cfg.shut : Int)) ∧ (s.th.armed = true → shutAt s = 16 * ((s.th.cfg.shut - s.th.cfg.shutHyst : Nat) : Int)) ∧
    (∀ z k, k ∈ zoneSensors z → tempOf s k ≤ zoneTemp s z)

/-- The warning of a zone (R365): it sets when the temperature reaches WARN and clears below WARN less WARN_HYST; each set is counted, each set and each clear raises TH_WARN to every host, and nothing else changes. -/
def Obligations.ZoneWarningsSetAndClear : Prop :=
  ∀ (s : State),
    (∀ z, let on := bit s.th.warnZ z
      let v := fun (b : Bool) => raiseMod { s with th := { s.th with warnZ := setBit s.th.warnZ z b } } 0x0A10 (hottest s (zoneSensors z) + (if z < 24 then z else 31) * 256 + b2n b * 2 ^ 16) (ofInt (zoneTemp s z) 64)
      (on = false → 16 * (s.th.cfg.warn : Int) ≤ zoneTemp s z → zoneWarn s z = bump (v true) .thWarn 0) ∧ (on = false → zoneTemp s z < 16 * (s.th.cfg.warn : Int) → zoneWarn s z = s) ∧
      (on = true → zoneTemp s z < 16 * ((s.th.cfg.warn - s.th.cfg.warnHyst : Nat) : Int) → zoneWarn s z = v false) ∧
      (on = true → 16 * ((s.th.cfg.warn - s.th.cfg.warnHyst : Nat) : Int) ≤ zoneTemp s z → zoneWarn s z = s))

/-- Throttling at a tick start (R366, R367): at or above THROTTLE a domain that has held its fraction for the hold time falls by the step, or by half under clock division, not below THR_MIN; below THROTTLE less its hysteresis it rises, not above
64; it is the only change. -/
def Parts.ThrottlingSteps : Prop :=
  ∀ (s : State) (d : Nat),
    let x := getDom s d
    let c := s.th.cfg
    let held := x.thrAt = none ∨ ∃ n, x.thrAt = some n ∧ 1000 * c.hold ≤ upNs s - n
    let hot := 16 * (c.throttle : Int) ≤ zoneTemp s d
    let cool := zoneTemp s d < 16 * ((c.throttle - c.thrHyst : Nat) : Int)
    (held → hot → divides s d = false → thrNext s d = max (x.thr - c.step) (thrMin s d)) ∧ (held → hot → divides s d = true → thrNext s d = max (x.thr / 2) (thrMin s d)) ∧
    (held → ¬ hot → cool → x.thr < 64 → divides s d = false → thrNext s d = min (x.thr + c.step) 64) ∧ (held → ¬ hot → cool → x.thr < 64 → divides s d = true → thrNext s d = min (x.thr * 2) 64) ∧
    (¬ held → thrNext s d = x.thr) ∧ (¬ hot → ¬ cool → thrNext s d = x.thr) ∧
    (x.thr ≤ 64 → c.min_ ≤ 64 → thrNext s d ≤ 64) ∧ (thrMin s d ≤ x.thr → thrMin s d ≤ 64 → thrMin s d ≤ thrNext s d) ∧
    (thrNext s d = x.thr → evalThr s d = s) ∧ (thrNext s d ≠ x.thr → evalThr s d = setThr s d (thrNext s d)) ∧
    (s.th.pend = none → applyThCfg s = s)

/-- Ageing (R371 to R376): a service hour counts while MOD_READY is high and at each multiple of six marks the domains to be read; a re-plan that is not due changes nothing; one that is due reads the monitors and gives each domain its need (the largest of the monitors
in service of a domain that has been read; of the domain of its class and die with the largest need where it has none: the model's reading, log 80, with the slack table a free value), counts itself, and stores what it moved, the corrected
latencies of the backhaul ports with it, unless the flash write fails; only lane directions awake since the last one move their point (log 81); offsets never fall and never pass 24 steps. -/
def Obligations.AgeingIsReplanned : Prop :=
  ∀ (s : State),
    (∀ avg, s.su.ready = false ∨ upNs s < s.age.hourAt + 3600000000000 → Ignored (.serviceHour avg) s) ∧
    (∀ avg, s.su.ready = true → s.age.hourAt + 3600000000000 ≤ upNs s → Runs (.serviceHour avg) s fun t => t.age.hours = (s.age.hours + 1) % 2 ^ 32 ∧ t.age.avg = avg.toInt ∧ t.age.hourAt = s.age.hourAt + 3600000000000 ∧
      t.age.busy = (s.age.busy || decide ((s.age.hours + 1) % 2 ^ 32 % 6 = 0)) ∧ t.doms = s.doms ∧ t.pending = s.pending ∧
      ((s.age.hours + 1) % 2 ^ 32 % 6 = 0 → ∀ d, d < 24 → bit t.age.due d = decide ((getDom s d).state = .awake) ∧ bit t.age.late d = decide ((getDom s d).state ≠ .awake)) ∧
      ((s.age.hours + 1) % 2 ^ 32 % 6 ≠ 0 → t.age.due = s.age.due ∧ t.age.late = s.age.late)) ∧
    (∀ m mv ad la ok, s.age.busy = false → Ignored (.ageReplan m mv ad la ok) s) ∧
    (∀ m mv ad la ok, s.age.busy = true →
      let u := (upFrom 0 24).foldl (fun v d => match needFor v d with
        | some l => replanDom v d l
        | none => v) (readMons s m)
      let v : State := { u with age := { u.age with due := 0, busy := false, replans := min 0xFFFF (u.age.replans + 1) } }
      let w := raiseMod v 0x0A20 v.age.hours (lowestReserve v).1
      let x := if ok then storePlan w mv ad la else logRec w 0x0A20 0 true 0 w.age.hours 0 []
      Gives (.ageReplan m mv ad la ok) s { x with age := { x.age with used := dirsAwake x } }) ∧
    (∀ d, monsOf s d ≠ [] → bit s.age.due d = false → needFor s d = none) ∧
    (∀ d n, monsOf s d ≠ [] → needFor s d = some n → (∀ m l, m ∈ monsOf s d → l < 4 → Config.slackNeed m l (getMon s m).slack ≤ lget n 0 l) ∧ (∀ l, l < 4 → ∃ m, m ∈ monsOf s d ∧ lget n 0 l = Config.slackNeed m l (getMon s m).slack)) ∧
    (∀ mv (n : Fin 160) a, (bit s.age.used n = false → (storePlan s mv [(n, a)] []).age.points = s.age.points) ∧
      (bit s.age.used n = true → (storePlan s mv [(n, a)] []).age.points = tset s.age.points n (movePoint (tget s.age.points [] n) a))) ∧
    (∀ mv ad, (storePlan s mv ad []).age.lats = s.age.lats) ∧ (∀ mv ad (n : Fin 4) (v : BitVec 32), (storePlan s mv ad [(n, v)]).age.lats = tset s.age.lats n v.toNat) ∧
    (∀ d n l, d < 24 → l ∈ levelsOf d → lget (getDom s d).ofs 0 l ≤ 24 →
      lget (getDom s d).ofs 0 l ≤ lget (getDom (replanDom s d n) d).ofs 0 l ∧ lget (getDom (replanDom s d n) d).ofs 0 l ≤ 24 ∧ (lget n 0 l ≤ 600 → lget n 0 l ≤ 25 * lget (getDom (replanDom s d n) d).ofs 0 l)) ∧
    (∀ d l, bit (getDom s d).exh l = true ∨ lget (getDom s d).need 0 l ≤ 600 → exhaust s d l = s) ∧
    (∀ d l, bit (getDom s d).exh l = false → 600 < lget (getDom s d).need 0 l →
      exhaust s d l = raiseMod (setDom s d { getDom s d with exh := setBit (getDom s d).exh l true }) 0x0A22 (d + l * 256) (lget (getDom s d).need 0 l)) ∧
    (∀ p a i, i < a.length → i < p.length → lget (movePoint p a) 0 i = lget p 0 i + Int.tdiv (lget a 0 i - lget p 0 i) 4)

/-! ### Faults, panic -/

/-- Cores and DMA engines fail and are tested (R337, R390 to R393): a faulted core is settled, stopped, held in reset and under test, and a fourth fault within 24 service hours takes it out of service without a test; a test leaves it held, with
its weight by the result, and none for a core that is out of service or whose domain has FAILED; a failed engine halts its channels with DONE set, and goes back to service or takes its cluster out. -/
def Parts.CoresAndEnginesFail : Prop :=
  ∀ (s : State),
    (∀ (c : Fin 112) (k : Fin 4), ¬ CanFault s c k.val → Ignored (.coreFault c k) s) ∧
    (∀ (c : Fin 112) (k : Fin 4), CanFault s c k.val →
      let v := (runningOn s c).foldl (fun u it => settleItem u (corePartN u c) it) s
      let n := ((runningOn v c).filter fun it => (getFlow v it.flow).replay).length
      let w := n + ((runningOn v c).length - n) * 2 ^ 32
      let recent := recentRestarts v c
      let u : State := { v with flt := { v.flt with restarts := tset v.flt.restarts c (recent ++ [v.age.hours]), coreCause := tset v.flt.coreCause c (k.val + 1) } }
      (3 ≤ recent.length → Gives (.coreFault c k) s (outCore { u with flt := { u.flt with coreOut := setBit u.flt.coreOut c true } } c (k.val + 1) w)) ∧
      (recent.length < 3 → Gives (.coreFault c k) s (fltCore (setCoreState (updCore (stopCore u c) c fun x => { x with run := .testing, weightPend := some 0 }) c 0) c (k.val + 1) 0 w))) ∧
    (∀ (c : Fin 112) r, (getCore s c).run ≠ .testing → Ignored (.coreSelftestDone c r) s) ∧
    (∀ (c : Fin 112) r, (getCore s c).run = .testing →
      let q := testResult s c r
      let d := if testState c q = 3 then noteDeg s else s
      let v := if isChisel c then zeroSram d (tileBase c) 0x80000 else d
      let u := updCore (updCore v c fun x => { x with weightPend := some (testWeight c q), narrow := isChisel c && q != .whole }) c fun x => { x with run := .held }
      Gives (.coreSelftestDone c r) s (fltCore (setCoreState u c (testState c q)) c (tget u.flt.coreCause 0 c) (testState c q) 0)) ∧
    (∀ c r, (bit s.flt.coreOut c = true → testResult s c r = .bad) ∧ (∀ d, coreDom c = some d → (getDom s d).state = .failed → testResult s c r = .bad) ∧
      (bit s.flt.coreOut c = false → (∀ d, coreDom c = some d → (getDom s d).state ≠ .failed) → testResult s c r = r)) ∧
    (∀ c, testWeight c .whole = 16 ∧ testWeight c .bad = 0 ∧ (isChisel c = true → testWeight c .narrow = 1) ∧ (isChisel c = false → testWeight c .narrow = 0) ∧
      testState c .whole = 1 ∧ testState c .bad = 3 ∧ (isChisel c = true → testState c .narrow = 2) ∧ (isChisel c = false → testState c .narrow = 3)) ∧
    (∀ c, c < 112 → getCore (resetCore s c) c = { narrow := (getCore s c).narrow, weight := (getCore s c).weight, weightPend := (getCore s c).weightPend, run := if (getCore s c).run = .testing then .testing else .held } ∧ ∀ k, k ≠ c → getCore (resetCore s c) k = getCore s k) ∧
    (∀ e : Fin 24, s.flt.engTest.contains e.val = true ∨ bit s.flt.clOut e = true → Ignored (.dmaEngineFault e) s) ∧
    (∀ e : Fin 24, s.flt.engTest.contains e.val = false → bit s.flt.clOut e = false → Runs (.dmaEngineFault e) s fun t => t.flt.engTest = s.flt.engTest ++ [e.val] ∧
      ∀ c, c < 16 → (getDma t (dmaNo e c)).done = true ∧ (getDma t (dmaNo e c)).errV = true ∧ (getDma t (dmaNo e c)).errKind = 3 ∧ (getDma t (dmaNo e c)).errStat = 4) ∧
    (∀ (e : Fin 24) ok, s.flt.engTest.contains e.val = false → Ignored (.dmaEngineTestDone e ok) s) ∧
    (∀ (e : Fin 24) ok, s.flt.engTest.contains e.val = true →
      let u : State := { s with flt := { s.flt with engTest := s.flt.engTest.filter fun i => i != e.val } }
      (ok = true → Gives (.dmaEngineTestDone e ok) s (fltEngine u e 1)) ∧ (ok = false → Gives (.dmaEngineTestDone e ok) s (outCluster (fltEngine u e 3) e)))

/-- Table reloads, restarts of the MC, and panic (R394, R395, R270): a reload counts what was lost and is reported to the partition or the log; an MC restart ends every session, drops the commands that have had no reply and takes none until it is done (a PART_RESTART in progress is given up: log 12; the time unit goes from ACQUIRING or LOCKED into HOLDOVER: log 82), when
the events held meanwhile are delivered and it is counted and reported; a source raises panic where it is enabled and beyond its threshold and lifts it beyond the other. -/
def Parts.TablesMcAndPanic : Prop :=
  ∀ (s : State),
    (∀ port table n part lost trig, Runs (.tableReload port table n part lost trig) s fun t => ∃ v, t =
      raiseOwner (trig.foldl (fun u (p : Fin 4) => loseTrigger u p) (lost.foldl (fun u e => bump u e.1 e.2)
        (wordUnc { s with fresh := s.fresh + 1 } (2 ^ 45 + 26 * 2 ^ 24 + v % Config.iodWords) 26))) (part.map fun p : Fin 4 => p.val) 0x0B0A (port.val + table.toNat * 2 ^ 8) n.toNat) ∧
    (∀ cause, s.flt.mcDown ≠ none ∨ s.su.stage < 5 → Ignored (.mcWatchdog cause) s) ∧
    (∀ cause : Fin 2, s.flt.mcDown = none → 5 ≤ s.su.stage → Runs (.mcWatchdog cause) s fun t =>
      t.flt.mcDown = some (cause.val + 1) ∧ (∀ h, h < 4 → (getHost t h).session = false ∧ (getHost t h).begun = none ∧ (getHost t h).asm = [] ∧ (getHost t h).cmd = (getHost s h).cmd.drop (getHost s h).committed ∧ mcTurn t ≠ some h ∧ (getHost t h).evts = (getHost s h).evts) ∧
      (∀ h, h < 4 → t.mc.manager ≠ some h) ∧ t.mem = s.mem ∧ t.cores = s.cores ∧ (∀ p, getPart t p = { getPart s p with st := if (getPart s p).st = .restarting then .defined else (getPart s p).st }) ∧
      (s.tm.st = 1 ∨ s.tm.st = 2 → t.tm.st = 3) ∧ (s.tm.st = 0 ∨ s.tm.st = 3 → t.tm = s.tm)) ∧
    (s.flt.mcDown = none → Ignored .mcRestartDone s) ∧
    (∀ h e, s.flt.mcDown ≠ none → postHost s h e = { s with flt := { s.flt with held := s.flt.held ++ [(h, e)] } }) ∧
    (∀ k, s.flt.mcDown = some k → let n := s.flt.mcRst + 1
      Gives .mcRestartDone s ((upFrom 0 4).foldl (fun u h => parseAll u h) (raiseMod (giveHeld { s with flt := { s.flt with mcDown := none, mcRst := n } }) 0x0B09 k n))) ∧
    (∀ (m : Fin 32) (k : Fin 65), let on := (pncFh s m).en && (getFh s m).en && decide ((getFh s m).eg.length ≤ (pncFh s m).on)
      (on = true → Gives (.panicRaise (.fh m) k) s { s with mem := { s.mem with panicFh := setBit s.mem.panicFh m true } }) ∧ (on = false → Ignored (.panicRaise (.fh m) k) s) ∧
      ((getFh s m).en = false ∨ (pncFh s m).en = false ∨ (pncFh s m).off ≤ (getFh s m).eg.length → Gives (.panicLift (.fh m) k) s { s with mem := { s.mem with panicFh := setBit s.mem.panicFh m false } }) ∧
      ((getFh s m).en = true → (pncFh s m).en = true → (getFh s m).eg.length < (pncFh s m).off → Ignored (.panicLift (.fh m) k) s)) ∧
    (∀ (e : Fin 2) (k : Fin 65), let x := pncNs s e
      (x.en = true → x.on ≤ k.val → Gives (.panicRaise (.ns e) k) s { s with mem := { s.mem with panicNs := setBit s.mem.panicNs e true } }) ∧ (x.en = false ∨ k.val < x.on → Ignored (.panicRaise (.ns e) k) s) ∧
      (x.en = false ∨ k.val ≤ x.off → Gives (.panicLift (.ns e) k) s { s with mem := { s.mem with panicNs := setBit s.mem.panicNs e false } }) ∧ (x.en = true → x.off < k.val → Ignored (.panicLift (.ns e) k) s)) ∧
    (∀ (n : Fin 4) (k : Fin 65), let x := pncBp s n
      (x.en = true → x.on ≤ k.val → Gives (.panicRaise (.bp n) k) s { s with mem := { s.mem with panicBp := setBit s.mem.panicBp n true } }) ∧ (x.en = false ∨ k.val < x.on → Ignored (.panicRaise (.bp n) k) s) ∧
      (x.en = false ∨ k.val ≤ x.off → Gives (.panicLift (.bp n) k) s { s with mem := { s.mem with panicBp := setBit s.mem.panicBp n false } }) ∧ (x.en = true → x.off < k.val → Ignored (.panicLift (.bp n) k) s))

/-- Lost dies and a stopped module (R397, R399, R400): a compute die is lost once, by cause 1 only with all its bundles to the IOD down; nothing of its flows, items, cores, jobs, channels or domains is left, and its channels, clusters and cores are out of service; an
epoch that is not being left, or without old packets, is never stuck; a module that stops takes MOD_READY and MOD_FAULT_N low, stops the plans and the transmitters. -/
def Parts.DiesAreLost : Prop :=
  ∀ (s : State),
    (∀ (d : Fin 2) (k : Fin 3), dieOut s d = true ∨ (k = 0 ∧ ∃ b, 16 * d.val ≤ b ∧ b < 16 * d.val + 16 ∧ bundleUp s b = true) → Ignored (.dieLost d k) s) ∧
    (∀ (d : Fin 2) (k : Fin 3), dieOut s d = false → (k = 0 → ∀ b, 16 * d.val ≤ b → b < 16 * d.val + 16 → bundleUp s b = false) → Gives (.dieLost d k) s (loseDie s d (k.val + 1))) ∧
    (∀ d : Fin 2, let t := clearDie s d
      (∀ f, flowDie f = d.val → getFlow t f = {}) ∧ (∀ c, c < 112 → coreDie c = d.val → getCore t c = { weight := (getCore s c).weight, weightPend := some 0 }) ∧
      (∀ r, r ∈ t.jig.running → r.job.die ≠ d.val) ∧ (∀ j, j ∈ t.jig.queue → j.die ≠ d.val) ∧
      (∀ i, 9 * d.val ≤ i → i < 9 * d.val + 9 → (getDom t i).state = .failed) ∧ (∀ e c, e / 12 = d.val → e < 24 → c < 16 → getDma t (dmaNo e c) = {})) ∧
    ((∀ d, d < 3 → (getNocDie s d).busy = true → upNs s < (getNocDie s d).goAt + 10000000) → Ignored .epochStuck s) ∧
    (oldOn s 0 = false → oldOn s 1 = false → oldOn s 2 = false → Ignored .epochStuck s) ∧
    (∀ (d : Fin 2) c, (loseDie s d c).flt.dieLost = setBit s.flt.dieLost d true ∧ (loseDie s d c).su.deg = true ∧ (d.val = 0 → dieOkBits (loseDie s d c) % 2 = 0) ∧ (d.val = 1 → dieOkBits (loseDie s d c) / 2 = 0) ∧ (∀ e, e < 8 → bit (loseDie s d c).flt.chOut (8 * d.val + e) = true) ∧
      (∀ e, e < 12 → bit (loseDie s d c).flt.clOut (12 * d.val + e) = true) ∧ (∀ k, k < 112 → coreDie k = d.val → tget (loseDie s d c).flt.coreState 0 k = 3)) ∧
    Gives .moduleStop s (moduleStop s) ∧
    (let t := moduleStop s
     t.su.ready = false ∧ t.su.stopped = true ∧ t.flt.sev = 3 ∧ t.flt.faultN = false ∧ (∀ p, (getTick t p).run = false ∧ (getTick t p).pend = none) ∧ (∀ n, n < 80 → (getLane t n).txState = 2) ∧
     t.mem = s.mem ∧ t.cores = s.cores ∧ t.dv = s.dv ∧ t.hosts = s.hosts)

/-- An epoch that has not retired 10 ms after GO (R397): FLT_EPOCH is raised with the dies that hold old packets; every such compute die is lost, and for the IOD the module stops with SEV 3. -/
def Obligations.StuckEpochLosesItsDies : Prop :=
  ∀ (s : State), (∃ d, d < 3 ∧ (getNocDie s d).busy = true ∧ (getNocDie s d).goAt + 10000000 ≤ upNs s) → (oldOn s 0 = true ∨ oldOn s 1 = true ∨ oldOn s 2 = true) → Runs .epochStuck s fun t =>
    (∃ v w, v = raiseMod s 0x0B06 (b2n (oldOn s 0) + 2 * b2n (oldOn s 1) + 4 * b2n (oldOn s 2)) (sinceGo s / 1000) ∧
      w = (upFrom 0 2).foldl (fun x d => if oldOn s d = true ∧ dieOut x d = false then loseDie x d 4 else x) v ∧ t = if oldOn s 2 then moduleStop w else w) ∧
    (∀ d, d < 2 → oldOn s d = true → dieOut t d = true) ∧ (oldOn s 2 = true → t.su.ready = false ∧ t.su.stopped = true ∧ t.flt.sev = 3 ∧ t.flt.faultN = false) ∧
    (∀ d, d < 3 → (getNocDie s d).busy = true → upNs s - (getNocDie s d).goAt ≤ sinceGo s)

/-- The event log (R384 to R386): the MC writes the oldest record that waits at the next INDEX, after FLT_LOG_GAP where records were lost, each with a console line if it is of a fault event after MOD_READY (log 86); a write that fails is counted, and that of a shut-down record leaves the lower threshold as it was; the ring holds 262,144 records, each with a CRC over its bytes, and a record stays while its last continuation is among them. -/
def Obligations.EventsAreLogged : Prop :=
  ∀ (s : State),
    (∀ ok, s.flt.queue = [] ∨ s.flt.mcDown ≠ none → Ignored (.logWrite ok) s) ∧
    (∀ r q, s.flt.queue = r :: q → s.flt.mcDown = none →
      let u : State := { s with flt := { s.flt with queue := q } }
      (r.code ≠ 0x0A13 → Gives (.logWrite false) s (bump { u with flt := { u.flt with gap := s.flt.gap + 1 } } .fltLogFail 0)) ∧
      (r.code = 0x0A13 → Gives (.logWrite false) s (bump { u with flt := { u.flt with gap := s.flt.gap + 1 }, th := { s.th with armed := s.th.armedWas } } .fltLogFail 0)) ∧
      (s.flt.gap = 0 → Gives (.logWrite true) s (writeRecord u r)) ∧
      (s.flt.gap ≠ 0 →
        let v := writeRecord { u with flt := { u.flt with gap := 0 } } { r with code := 0x0B0F, sev := 0, mod := true, part := 0, d0 := s.flt.gap, d1 := 0, cont := [] }
        Gives (.logWrite true) s (writeRecord v r))) ∧
    (∀ r : LogRec, (r.code / 256 ≠ 0x0B ∨ r.code = 0x0B10 ∨ s.su.ready = false ∧ s.su.stopped = false → writeRecord s r = appendLog s r) ∧
      (r.code / 256 = 0x0B → r.code ≠ 0x0B10 → s.su.ready = true ∨ s.su.stopped = true ∧ s.su.stage = 9 ∧ s.su.fail = none →
        writeRecord s r = { appendLog s r with pins := { s.pins with uart := s.pins.uart ++ [.fault s.flt.nextIndex r.code r.sev] } })) ∧
    (∀ r, (appendLog s r).flt.nextIndex = s.flt.nextIndex + 1 + r.cont.length ∧ { r with index := s.flt.nextIndex } ∈ (appendLog s r).flt.log ∧
      (∀ x, x ∈ (appendLog s r).flt.log → (appendLog s r).flt.nextIndex ≤ x.index + x.cont.length + 262144) ∧
      (∀ x, x ∈ s.flt.log → (appendLog s r).flt.nextIndex ≤ x.index + x.cont.length + 262144 → x ∈ (appendLog s r).flt.log)) ∧
    (∀ r : LogRec, (recordBytes r).length = 64 ∧ (recordBytes r).drop 60 = leBytes (crc32 ((recordBytes r).take 60)) 4 ∧ (recordsOf r).length = 1 + r.cont.length) ∧
    (∀ i d, (contBytes i d).length = 64) ∧
    (∀ code sev mod p d0 d1 l, let t := logRec s code sev mod p d0 d1 l
      t.flt.sev = max s.flt.sev sev ∧ t.flt.faultN = (s.flt.faultN && decide (sev < 2)) ∧ ∃ r, t.flt.queue = s.flt.queue ++ [r] ∧ r.code = code ∧ r.sev = sev ∧ r.d0 = d0 ∧ r.d1 = d1 ∧ r.cont = l ∧ r.hours = s.age.hours)

/-- The module's own contacts (R416, R420, R422, R424): each lane has fibres of its own, and each host port its contacts; from stage 2 with input power and outside reset the I2C target takes a byte offset and answers reads from it, with zeros beyond 0x3F and the identity at 0x00; the boundary scan shifts out the
identity, or captures the contacts (their places in the register are the model's free choice: log 98), drives the outputs under EXTEST, and reaches nothing but the contacts. -/
def Parts.ContactsAnswer : Prop :=
  ∀ (s : State),
    (∀ o d, i2cUp s = true → Gives (.i2cOffsetWrite o d) s { s with pins := { s.pins with ofs := o.toNat } }) ∧ (∀ o d, i2cUp s = false → Ignored (.i2cOffsetWrite o d) s) ∧
    (∀ n a b c, i2cUp s = false → Ignored (.i2cRead n a b c) s) ∧
    (∀ (n : Fin 257) a b c, i2cUp s = true → Runs (.i2cRead n a b c) s fun t =>
      t.pins.read.length = n.val ∧ (∀ i, i < n.val → lget t.pins.read 0 i = lget (i2cMap { s with pins := { s.pins with vin10 := a.toNat, pin100 := b.toNat, tbase := c.toInt } }) 0 (s.pins.ofs + i)) ∧
      t.pins.ofs = s.pins.ofs ∧ t.pins.vin10 = a.toNat ∧ t.pins.pin100 = b.toNat ∧ t.pins.tbase = c.toInt ∧ { t with pins := s.pins } = s) ∧
    (i2cMap s).length ≤ 0x40 ∧ (i2cMap s).take 7 = [0x4F, 0x47, 0x4D, 0x39, 0x36, 0x2D, 0x41] ∧ ((i2cMap s).drop 0x20).take 2 = leBytes (progress s.su) 2 ∧ ((i2cMap s).drop 0x2C).take 4 = leBytes s.age.hours 4 ∧
    (∀ n m, n < 80 → m < 80 → lanePos n = lanePos m → n = m) ∧ (∀ n, n < 80 → 1 ≤ txFibre n ∧ txFibre n ≤ 8 ∧ rxFibre n + txFibre n = 17) ∧
    (∀ p, p < 4 → contact 4 (8 * p + 4) = .perstN p ∧ contact 4 (8 * p + 5) = .alertN p) ∧
    Gives (.jtagScan .idcode) s { s with pins := { s.pins with tdo := 0x0960A1F3, extest := false } } ∧ Gives (.jtagScan .bypass) s { s with pins := { s.pins with tdo := 0, extest := false } } ∧
    (Runs (.jtagScan .sample) s fun t => { t with pins := s.pins, fresh := s.fresh } = s ∧ t.pins.scan = s.pins.scan ∧ (∃ v, t.pins.tdo = scanOut s v) ∧ ∀ i own, pinOut t i own = own) ∧
    (∀ d, Runs (.jtagScan (.extest d)) s fun t => { t with pins := s.pins, fresh := s.fresh } = s ∧ t.pins.scan = d.toNat ∧ (∃ v, t.pins.tdo = scanOut s v) ∧
      (s.su.vin = true → readyPin t = bit d.toNat (Config.scanCell 0) ∧ faultPin t = bit d.toNat (Config.scanCell 1) ∧ tripPin t = bit d.toNat (Config.scanCell 2) ∧ ∀ h, alertPin t h = bit d.toNat (Config.scanCell (8 + h))))

/-! ### Statements that join rules of one unit -/

/-- The queue of waiting commands changes only by the step. Choices of the model in it: notes/assumptions/5.md. -/
def Obligations.TheQueueMovesOnlyByTheStep : Prop :=
  Parts.IdleStepPassesOneNanosecond ∧ Parts.NoCommandTouchesTheQueue

/-- A plan triggers its entries, switches at its tick, and overruns follow the policy. Choices of the model in it: notes/assumptions/23.md. -/
def Obligations.PlansTriggerSwitchAndOverrun : Prop :=
  Parts.TriggerInjectQueuesTheEntry ∧ Parts.RefusedTriggersFail ∧ Parts.PlanSwitchTakesEffectAtItsTick ∧ Parts.OverrunFollowsThePolicy ∧ Parts.EscalateGraceEndsInADrop

/-- Lane sleep and wake, test patterns and codeword counts. Choices of the model in it: notes/assumptions/14.md, notes/assumptions/28.md, notes/assumptions/29.md, notes/assumptions/91.md, notes/assumptions/100.md. -/
def Obligations.LanesSleepWakeAndCount : Prop :=
  Parts.TransmitSleepWritesStartAChange ∧ Parts.ReceiveSleepWritesStartAChange ∧ Parts.LaneTransitionsEnd ∧ Parts.TestPatternsAreSentAndChecked ∧ Parts.CodewordsAreCountedWhileLocked

/-- Port commands, the stream table and egress writes. Choices of the model in it: notes/assumptions/100.md. -/
def Obligations.PortsStreamsAndEgress : Prop :=
  Parts.PortCommandsOfTheOwner ∧ Parts.StreamTableAndEgressWrites

/-- A frame is numbered at its start and carries sections inside their windows. Choices of the model in it: notes/assumptions/32.md. -/
def Obligations.FramesAreBuiltAndSent : Prop :=
  Parts.SlotsSendSectionsInsideTheirWindows ∧ Parts.FrameStartNumbersTheFrame

/-- Copies of frames are aligned and enter the deskew buffer. -/
def Obligations.CopiesAreAlignedAndDeskewed : Prop :=
  Parts.AlignerSearchesAndKeepsFrames ∧ Parts.ReceivedCopyEntersTheDeskewBuffer

/-- Release follows the effective request; defects and performance seconds. -/
def Obligations.ReleaseAndDefects : Prop :=
  Parts.ReleaseFollowsTheEffectiveRequest ∧ Parts.DefectsAndPerformanceSeconds

/-- Acknowledgements, sightings, fixes, reports and context descriptors. Choices of the model in it: notes/assumptions/37.md, notes/assumptions/39.md, notes/assumptions/40.md, notes/assumptions/101.md. -/
def Obligations.AcknowledgementsSightingsAndReports : Prop :=
  Parts.AcknowledgementsAreChecked ∧ Parts.GroupRegisterAndFixEnd ∧ Parts.SightingsFixTheGroup ∧ Parts.ReportsFollowTheDecision ∧ Parts.ContextDescriptorsAreCheckedWhole

/-- Scalar results reach their register; jumps, calls and branches set pc. -/
def Obligations.ScalarResultsAndJumps : Prop :=
  Parts.ScalarResultsReachTheirRegister ∧ Parts.JumpsCallsAndBranches

/-- Scalar loads, stores and atomics. -/
def Obligations.ScalarMemoryAccesses : Prop :=
  Parts.LoadsStoresAndAtomics ∧ Parts.StoreWritesExactlyItsBytes

/-- Traps, privilege, interrupts, aborts and returns. -/
def Obligations.TrapsAndBoundaryEvents : Prop :=
  Parts.InstructionTraps ∧ Parts.PrivilegedInstructionsTrapAtU ∧ Parts.BoundaryEvents

/-- System registers, barriers, maintenance and waits. Choices of the model in it: notes/assumptions/10.md, notes/assumptions/13.md, notes/assumptions/44.md. -/
def Obligations.SystemInstructions : Prop :=
  Parts.SystemRegisterInstructions ∧ Parts.BarriersAndMaintenance ∧ Parts.WaitWaitsVotesAndCompletes

/-- Elementwise vector instructions write active elements only. -/
def Obligations.ElementwiseVectors : Prop :=
  Parts.ElementwiseInstructions ∧ Parts.ElementwiseWritesActiveElementsOnly

/-- Accumulators, predicates, counts and reductions. -/
def Obligations.AccumulatorsPredicatesAndReductions : Prop :=
  Parts.AccumulatorInstructions ∧ Parts.PredicatesCountsAndReductions

/-- Vector loads and stores, and the checks of VCFG and VSTART. -/
def Obligations.VectorMemoryAndVcfg : Prop :=
  Parts.VectorLoads ∧ Parts.VectorStores ∧ Parts.VcfgFaults

/-- Rasp lock, issue and completion. -/
def Obligations.RaspTakesOneTaskAtATime : Prop :=
  Parts.RaspLockAndStatus ∧ Parts.RaspIssue ∧ Parts.RaspCompletes

/-- Jobs are submitted, and end. -/
def Obligations.JobsAreSubmittedAndEnd : Prop :=
  Parts.JobsAreSubmitted ∧ Parts.JobsEnd ∧ Parts.JobResults

/-- Items leave flows; flows and core sets are configured. -/
def Obligations.ItemsLeaveAndFlowsAreConfigured : Prop :=
  Parts.ItemsLeaveFlows ∧ Parts.FlowsAndCoreSetsAreConfigured

/-- Packets are performed, answered, and delivered in order by the links. Choices of the model in it: notes/assumptions/56.md, notes/assumptions/94.md. -/
def Obligations.PacketsArePerformedAndAnswered : Prop :=
  Parts.PacketsArePerformed ∧ Parts.AnswersReachTheirRequester ∧ Parts.LinksDeliverInOrder

/-- DMA channels take commands, fetch descriptors and wait for triggers. Choices of the model in it: notes/assumptions/93.md. -/
def Obligations.ChannelsFetchAndTrigger : Prop :=
  Parts.ChannelCommands ∧ Parts.DescriptorsAreFetchedAndTriggered

/-- Memory controllers keep their pages; scrubbers correct and channels recover. Choices of the model in it: notes/assumptions/59.md. -/
def Obligations.MemoryIsKept : Prop :=
  Parts.MemoryControllersKeepTheirPages ∧ Parts.ScrubbersCorrectAndChannelsRecover

/-- Frames are sent; PTP, references and oscillators keep time. -/
def Obligations.FramesAreSentAndTimeIsKept : Prop :=
  Parts.FramesAreSent ∧ Parts.PtpAndSnapshots ∧ Parts.ReferencesAndOscillators

/-- Commands on sessions, partitions, cores and shares. Choices of the model in it: notes/assumptions/12.md. -/
def Obligations.CommandsOnPartitionsAndCores : Prop :=
  Parts.SessionsAndPartitions ∧ Parts.CoreAndResourceCommands

/-- Commands on memory, keys, time, thermal limits and ageing. -/
def Obligations.CommandsOnMemoryKeysAndTime : Prop :=
  Parts.MemoryCommands ∧ Parts.ManagementCommands

/-- Reset, input power, and commands on flash. -/
def Obligations.ResetPowerAndFlash : Prop :=
  Parts.ResetAndInputPower ∧ Parts.FlashCommands

/-- Domains wake, and change their performance level. -/
def Obligations.DomainsWakeAndChangeLevel : Prop :=
  Parts.DomainsWake ∧ Parts.LevelsChange

/-- Thermal samples and throttling. -/
def Obligations.SamplesAndThrottling : Prop :=
  Parts.SamplesAreTaken ∧ Parts.ThrottlingSteps

/-- Tables, restarts of the MC, panic, and the module's own contacts. Choices of the model in it: notes/assumptions/12.md, notes/assumptions/82.md, notes/assumptions/98.md. -/
def Obligations.TablesMcPanicAndContacts : Prop :=
  Parts.TablesMcAndPanic ∧ Parts.ContactsAnswer

/-- Arithmetic at its corners, and the hard-wired registers. -/
def Obligations.CornersAndHardwiredRegisters : Prop :=
  Parts.ArithmeticCorners ∧ Parts.HardwiredRegistersKeepTheirValue

/-- Cores, DMA engines and dies fail. -/
def Obligations.CoresEnginesAndDiesFail : Prop :=
  Parts.CoresAndEnginesFail ∧ Parts.DiesAreLost
end

