-- ==== Sys2Proof/Laws/Memory.lean ====
section
/-!
SUPPORT. The laws of sparse tables and of the canonical memory: a read after a write, the frame of a write, and that every
operation on the cells keeps their canonical form.
-/
namespace Sys2Proof

/-! ### Sparse tables -/

@[simp] theorem tget_nil {α : Type} (d : α) (k : Nat) : tget ([] : Tab α) d k = d := rfl

theorem tget_tset {α : Type} (t : Tab α) (d : α) (k j : Nat) (v : α) : tget (tset t k v) d j = if j = k then v else tget t d j := by
  induction t with
  | nil =>
    by_cases h : j = k
    · subst h; simp [tset, tget]
    · have h' : k ≠ j := fun e => h e.symm
      simp [tset, tget, h, h']
  | cons e r ih =>
    obtain ⟨k', v'⟩ := e
    by_cases h1 : k' = k
    · subst h1; by_cases h : j = k' <;> simp [tset, tget, h, eq_comm]
    · by_cases h2 : k < k'
      · by_cases h : j = k
        · subst h; simp [tset, tget, h1, h2]
        · have h' : k ≠ j := fun e => h e.symm
          simp [tset, tget, h1, h2, h, h']
      · by_cases h : k' = j
        · subst h; simp [tset, tget, h1, h2]
        · simp [tset, tget, h1, h2, h, ih]

@[simp] theorem tget_tset_same {α : Type} (t : Tab α) (d : α) (k : Nat) (v : α) : tget (tset t k v) d k = v := by simp [tget_tset]

/-- A second value at the same key replaces the first. -/
@[simp] theorem tset_tset_same {α : Type} (t : Tab α) (k : Nat) (v w : α) : tset (tset t k v) k w = tset t k w := by
  induction t with
  | nil => simp [tset]
  | cons e r ih =>
    obtain ⟨k', u⟩ := e
    by_cases h : k' = k
    · simp [tset, h]
    · by_cases h2 : k < k'
      · simp [tset, h, h2]
      · simp [tset, h, h2, ih]

theorem tget_tset_ne {α : Type} (t : Tab α) (d : α) {k j : Nat} (v : α) (h : j ≠ k) : tget (tset t k v) d j = tget t d j := by
  simp [tget_tset, h]

end Sys2Proof

namespace Sys2Proof.Machine

/-! ### Cells -/

/-- The canonical form as a relation between neighbours: every address is above `lo`. -/
def Above (lo : Nat) (m : List Host.Cell) : Prop := ∀ e ∈ m, lo < e.1

theorem wf_cons (k : Nat) (v : Byte) (r : List Host.Cell) :
    Memory.wf ((k, v) :: r) = true ↔ v ≠ memDefault ∧ Above k r ∧ Memory.wf r = true := by
  induction r generalizing k v with
  | nil => simp [Memory.wf, Above]
  | cons e r ih =>
    obtain ⟨k', v'⟩ := e
    have hu : Memory.wf ((k, v) :: (k', v') :: r) = (v != memDefault && k < k' && Memory.wf ((k', v') :: r)) := rfl
    rw [hu, ih k' v']
    simp only [Bool.and_eq_true, bne_iff_ne, decide_eq_true_eq, Above, List.mem_cons, forall_eq_or_imp, ih k' v']
    constructor
    · rintro ⟨⟨hv, hk⟩, hv', ha, hw⟩
      exact ⟨hv, ⟨hk, fun e he => Nat.lt_trans hk (ha e he)⟩, hv', ha, hw⟩
    · rintro ⟨hv, ⟨hk, _⟩, hv', ha, hw⟩
      exact ⟨⟨hv, hk⟩, hv', ha, hw⟩

theorem above_filter {lo : Nat} {m : List Host.Cell} (f : Host.Cell → Bool) (h : Above lo m) : Above lo (m.filter f) :=
  fun e he => h e (List.mem_filter.1 he).1

theorem wf_filter (f : Host.Cell → Bool) (m : List Host.Cell) (h : Memory.wf m = true) : Memory.wf (m.filter f) = true := by
  induction m with
  | nil => rfl
  | cons e r ih =>
    obtain ⟨k, v⟩ := e
    rw [wf_cons] at h
    by_cases hf : f (k, v) = true
    · rw [List.filter_cons_of_pos hf, wf_cons]
      exact ⟨h.1, above_filter f h.2.1, ih h.2.2⟩
    · rw [List.filter_cons_of_neg hf]; exact ih h.2.2

theorem above_insert {lo a : Nat} {m : List Host.Cell} (b : Byte) (ha : lo < a) (h : Above lo m) : Above lo (cellInsert m a b) := by
  induction m with
  | nil => intro e he; simp [cellInsert] at he; simp [he, ha]
  | cons e r ih =>
    obtain ⟨k, v⟩ := e
    have hk : lo < k := h (k, v) (by simp)
    have hr : Above lo r := fun e he => h e (by simp [he])
    unfold cellInsert
    split
    · intro e he; simp at he; rcases he with rfl | rfl | he
      · exact ha
      · exact hk
      · exact hr e he
    · intro e he; simp at he; rcases he with rfl | he
      · exact hk
      · exact ih hr e he

theorem wf_insert (m : List Host.Cell) (a : Nat) (b : Byte) (hb : b ≠ memDefault) (hn : ∀ e ∈ m, e.1 ≠ a) (h : Memory.wf m = true) :
    Memory.wf (cellInsert m a b) = true := by
  induction m with
  | nil => simp [cellInsert, Memory.wf, hb]
  | cons e r ih =>
    obtain ⟨k, v⟩ := e
    have hw := (wf_cons k v r).1 h
    unfold cellInsert
    split
    · rename_i hlt
      rw [wf_cons]
      refine ⟨hb, ?_, h⟩
      intro e he; simp at he; rcases he with rfl | he
      · exact hlt
      · exact Nat.lt_trans hlt (hw.2.1 e he)
    · rename_i hge
      have hka : k ≠ a := hn (k, v) (by simp)
      rw [wf_cons]
      exact ⟨hw.1, above_insert b (by omega) hw.2.1, ih (fun e he => hn e (by simp [he])) hw.2.2⟩

theorem wf_cellSet (m : List Host.Cell) (a : Nat) (b : Byte) (h : Memory.wf m = true) : Memory.wf (cellSet m a b) = true := by
  unfold cellSet
  split
  · exact wf_filter _ m h
  · rename_i hb
    refine wf_insert _ a b hb ?_ (wf_filter _ m h)
    intro e he
    have := List.mem_filter.1 he
    simpa using this.2

theorem wf_cellsWrite (bs : List Byte) (m : List Host.Cell) (a : Nat) (h : Memory.wf m = true) : Memory.wf (cellsWrite m a bs) = true := by
  induction bs generalizing m a with
  | nil => exact h
  | cons b r ih => exact ih _ _ (wf_cellSet m a b h)

theorem wf_cellsZero (m : List Host.Cell) (a n : Nat) (h : Memory.wf m = true) : Memory.wf (cellsZero m a n) = true :=
  wf_filter _ m h

theorem wf_flips (l : List Nat) (m : List Host.Cell) (a : Nat) (h : Memory.wf m = true) :
    Memory.wf (l.foldl (fun b i => flipByte b a i) m) = true := by
  induction l generalizing m with
  | nil => exact h
  | cons i r ih => exact ih _ (wf_cellSet m _ _ h)

/-! ### Reading back -/

theorem cellGet_filter_ne (m : List Host.Cell) (a x : Nat) : cellGet (m.filter fun e => e.1 != a) x = if x = a then memDefault else cellGet m x := by
  induction m with
  | nil => by_cases h : x = a <;> simp [cellGet, h]
  | cons e r ih =>
    obtain ⟨k, v⟩ := e
    by_cases hk : k = a
    · subst hk
      by_cases h : x = k
      · subst h; simpa using ih
      · have hkx : k ≠ x := fun e => h e.symm
        simpa [cellGet, h, hkx] using ih
    · by_cases h : k = x
      · subst h; simp [cellGet, hk]
      · by_cases hx : x = a
        · subst hx; simpa [cellGet, hk] using ih
        · simpa [cellGet, hk, h, hx] using ih

theorem cellGet_insert (m : List Host.Cell) (a x : Nat) (b : Byte) (hn : ∀ e ∈ m, e.1 ≠ a) :
    cellGet (cellInsert m a b) x = if x = a then b else cellGet m x := by
  induction m with
  | nil =>
    by_cases h : x = a
    · subst h; simp [cellInsert, cellGet]
    · have h' : a ≠ x := fun e => h e.symm
      simp [cellInsert, cellGet, h, h']
  | cons e r ih =>
    obtain ⟨k, v⟩ := e
    have hka : k ≠ a := hn (k, v) (by simp)
    have hr := ih fun e he => hn e (by simp [he])
    unfold cellInsert
    split
    · by_cases h : x = a
      · subst h; simp [cellGet]
      · have h' : a ≠ x := fun e => h e.symm
        simp [cellGet, h, h']
    · by_cases h : k = x
      · subst h; simp [cellGet, hka]
      · simp [cellGet, h, hr]

/-- A byte read after one is written: the one written at its own address, the old one everywhere else. -/
theorem cellGet_cellSet (m : List Host.Cell) (a x : Nat) (b : Byte) : cellGet (cellSet m a b) x = if x = a then b else cellGet m x := by
  unfold cellSet
  split
  · rename_i hb; rw [cellGet_filter_ne]; simp [hb]
  · rw [cellGet_insert, cellGet_filter_ne]
    · by_cases h : x = a <;> simp [h]
    · intro e he; simpa using (List.mem_filter.1 he).2

/-- The frame of a write: outside the bytes written, memory reads as before. -/
theorem cellGet_cellsWrite_outside (bs : List Byte) (m : List Host.Cell) (a x : Nat) (h : x < a ∨ a + bs.length ≤ x) :
    cellGet (cellsWrite m a bs) x = cellGet m x := by
  induction bs generalizing m a with
  | nil => rfl
  | cons b r ih =>
    have hx : x ≠ a := by simp at h; omega
    rw [cellsWrite, ih _ _ (by simp at h ⊢; omega), cellGet_cellSet]
    simp [hx]

/-- Within the bytes written, memory reads as written. -/
theorem cellGet_cellsWrite_inside (bs : List Byte) (m : List Host.Cell) (a i : Nat) (h : i < bs.length) :
    cellGet (cellsWrite m a bs) (a + i) = bs.getD i memDefault := by
  induction bs generalizing m a i with
  | nil => simp at h
  | cons b r ih =>
    cases i with
    | zero => rw [cellsWrite, Nat.add_zero, cellGet_cellsWrite_outside r _ _ _ (by omega), cellGet_cellSet]; simp
    | succ i =>
      have : a + (i + 1) = (a + 1) + i := by omega
      rw [cellsWrite, this, ih _ _ _ (by simpa using h)]; simp

theorem cellGet_cellsZero (m : List Host.Cell) (a n x : Nat) :
    cellGet (cellsZero m a n) x = if a ≤ x ∧ x < a + n then memDefault else cellGet m x := by
  unfold cellsZero
  induction m with
  | nil => simp [cellGet]
  | cons e r ih =>
    obtain ⟨k, v⟩ := e
    by_cases hk : k < a ∨ a + n ≤ k
    · rw [List.filter_cons_of_pos (by simpa using hk)]
      by_cases h : k = x
      · subst h
        have : ¬ (a ≤ k ∧ k < a + n) := by omega
        simp [cellGet, this]
      · simp [cellGet, h, ih]
    · rw [List.filter_cons_of_neg (by simpa using hk), ih]
      by_cases h : k = x
      · subst h
        have : a ≤ k ∧ k < a + n := by omega
        simp [this]
      · simp [cellGet, h]

/-! ### Bytes of a state -/

/-- Storing bytes keeps the canonical form. -/
theorem writeBytes_sound (s : State) (a : Nat) (bs : List Byte) (h : Memory.wf s.mem.bytes = true) :
    Memory.wf (writeBytes s a bs).mem.bytes = true := wf_cellsWrite bs _ a h

theorem byteAt_writeBytes_outside (s : State) (a x : Nat) (bs : List Byte) (h : x < a ∨ a + bs.length ≤ x) :
    byteAt (writeBytes s a bs) x = byteAt s x := cellGet_cellsWrite_outside bs _ a x h

theorem byteAt_writeBytes_inside (s : State) (a i : Nat) (bs : List Byte) (h : i < bs.length) :
    byteAt (writeBytes s a bs) (a + i) = bs.getD i memDefault := cellGet_cellsWrite_inside bs _ a i h

/-- Memory at reset lists nothing and is canonical. -/
theorem reset_memory_canonical : Memory.wf State.reset.mem.bytes = true := rfl

end Sys2Proof.Machine
end

