-- ==== Sys2Proof/Laws/Kept.lean ====
section
/-!
SUPPORT. What every operation on the state keeps: the queue of waiting commands, the canonical form of memory,
the widest value of each counter, and that free values are only taken onward. `Good q f s` is that statement of a state `s`
against a queue `q` and a count `f`; each operation of the model has one lemma that carries it over.
-/
namespace Sys2Proof.Machine

/-- No counter stands above its widest value (R9). -/
def CtrTab (c : Tab Nat) : Prop := ∀ (k : Counter) (b : Nat), tget c 0 (ctrKey k b) ≤ Counter.top k

/-- The four parts that `Good` speaks of. -/
def Kept (q : List Instr) (f : Nat) (p : List Instr) (m : List Host.Cell) (c : Tab Nat) (n : Nat) : Prop :=
  p = q ∧ Memory.wf m = true ∧ CtrTab c ∧ f ≤ n

/-- The state has the queue `q`, canonical memory, counters within their width, and has taken at least `f` free values. -/
def Good (q : List Instr) (f : Nat) (s : State) : Prop := Kept q f s.pending s.mem.bytes s.ctr s.fresh

/-- The same of what a meaning answers. -/
def GoodRes (q : List Instr) (f : Nat) (r : Res) : Prop :=
  match r with
  | .next t => Good q f t
  | .fault _ => True
  | .refused _ => True

@[simp] theorem goodRes_next (q : List Instr) (f : Nat) (t : State) : GoodRes q f (.next t) = Good q f t := propext Iff.rfl

/-- The same of an optional state. -/
def GoodOpt (q : List Instr) (f : Nat) (o : Option State) : Prop := ∀ t, o = some t → Good q f t

@[simp] theorem goodOpt_none (q : List Instr) (f : Nat) : GoodOpt q f none := fun _ h => nomatch h
@[simp] theorem goodOpt_some (q : List Instr) (f : Nat) (t : State) : GoodOpt q f (some t) ↔ Good q f t :=
  ⟨fun h => h t rfl, fun h _ e => by cases e; exact h⟩

/-- The state in what a core instruction's body answers. -/
def IRes.state : IRes → State
  | .ok s | .jump s _ | .trap s _ _ _ | .stall s => s

@[simp] theorem IRes.state_ok (s : State) : (IRes.ok s).state = s := Eq.trans rfl rfl
@[simp] theorem IRes.state_jump (s : State) (t : Word) : (IRes.jump s t).state = s := Eq.trans rfl rfl
@[simp] theorem IRes.state_trap (s : State) (c d : Nat) (t : Word) : (IRes.trap s c d t).state = s := Eq.trans rfl rfl
@[simp] theorem IRes.state_stall (s : State) : (IRes.stall s).state = s := Eq.trans rfl rfl

/-- The state in what an access answers. -/
def AccRes.state : AccRes → State
  | .fault _ _ _ s | .done _ s => s

@[simp] theorem AccRes.state_fault (c d : Nat) (t : Word) (s : State) : (AccRes.fault c d t s).state = s := Eq.trans rfl rfl
@[simp] theorem AccRes.state_done (b : List Byte) (s : State) : (AccRes.done b s).state = s := Eq.trans rfl rfl

/-! ### The parts -/

theorem counter_idx_lt (k : Counter) : k.ctorIdx < 256 := by cases k <;> decide

theorem ctrKey_inj {k k' : Counter} {b b' : Nat} (h : ctrKey k b = ctrKey k' b') : k.ctorIdx = k'.ctorIdx ∧ b = b' := by
  have := counter_idx_lt k
  have := counter_idx_lt k'
  unfold ctrKey at h
  omega

/-- The counters numbered 6 to 11 are those of 48 bits (R52). -/
theorem counter_top_eq (k : Counter) : Counter.top k = if 6 ≤ k.ctorIdx ∧ k.ctorIdx ≤ 11 then 2 ^ 48 - 1 else 2 ^ 32 - 1 := by
  cases k <;> rfl

theorem counter_top_of_idx {k k' : Counter} (h : k.ctorIdx = k'.ctorIdx) : Counter.top k = Counter.top k' := by
  rw [counter_top_eq, counter_top_eq, h]

theorem ctrTab_tset {c : Tab Nat} {k : Counter} {b n : Nat} (h : CtrTab c) (hn : n ≤ Counter.top k) : CtrTab (tset c (ctrKey k b) n) := by
  intro k' b'
  rw [tget_tset]
  split
  · rename_i e; rw [counter_top_of_idx (ctrKey_inj e).1]; exact hn
  · exact h k' b'

variable {q : List Instr} {f : Nat} {p : List Instr} {m : List Host.Cell} {c : Tab Nat} {n : Nat}

/-- A state written out is good by its four parts. -/
@[simp] theorem good_mk (now_ stepped_ answer_ tu_ parts_ dv_ hosts_ mc_ mem_ doms_ cores_ rasps_ benchCache_ dev_ noc_ dma_ su_ jig_ ln_ fh_ gc_ bh_ tm_ flt_ age_ th_ pins_) :
    Good q f (State.mk now_ stepped_ n answer_ c tu_ parts_ dv_ hosts_ mc_ mem_ doms_ cores_ rasps_ benchCache_ dev_ noc_ dma_ su_ jig_ ln_ fh_ gc_ bh_ tm_ flt_ age_ th_ pins_ p) = Kept q f p mem_.bytes c n := propext Iff.rfl

@[simp] theorem kept_of_good {s : State} (h : Good q f s) : Kept q f s.pending s.mem.bytes s.ctr s.fresh := h

@[simp] theorem good_ite (x : Prop) [Decidable x] (a b : State) : Good q f (if x then a else b) ↔ if x then Good q f a else Good q f b := by
  split <;> exact Iff.rfl

@[simp] theorem goodRes_ite (x : Prop) [Decidable x] (a b : Res) : GoodRes q f (if x then a else b) ↔ if x then GoodRes q f a else GoodRes q f b := by
  split <;> exact Iff.rfl

@[simp] theorem kept_cellsWrite (a : Nat) (bs : List Byte) (h : Kept q f p m c n) : Kept q f p (cellsWrite m a bs) c n :=
  ⟨h.1, wf_cellsWrite bs m a h.2.1, h.2.2⟩

@[simp] theorem kept_cellsZero (a k : Nat) (h : Kept q f p m c n) : Kept q f p (cellsZero m a k) c n :=
  ⟨h.1, wf_cellsZero m a k h.2.1, h.2.2⟩

@[simp] theorem kept_nothing (s : State) (h : Good q f s) : Kept q f s.pending [] [] s.fresh :=
  ⟨h.1, rfl, fun _ _ => Nat.zero_le _, h.2.2.2⟩

@[simp] theorem kept_flips (l : List Nat) (a : Nat) (h : Kept q f p m c n) :
    Kept q f p (l.foldl (fun b i => flipByte b a i) m) c n := ⟨h.1, wf_flips l m a h.2.1, h.2.2⟩

@[simp] theorem kept_noCells (s : State) (h : Good q f s) : Kept q f s.pending [] s.ctr s.fresh := ⟨h.1, rfl, h.2.2⟩

@[simp] theorem kept_fresh (k : Nat) (h : Kept q f p m c n) : Kept q f p m c (n + k) :=
  ⟨h.1, h.2.1, h.2.2.1, Nat.le_trans h.2.2.2 (Nat.le_add_right n k)⟩

theorem good_ctrSet (s : State) (k : Counter) (b v : Nat) (hv : v ≤ Counter.top k) (h : Good q f s) : Good q f (ctrSet s k b v) :=
  ⟨h.1, h.2.1, ctrTab_tset h.2.2.1 hv, h.2.2.2⟩

/-- A counter may always be cleared. -/
@[simp] theorem good_ctrSet_zero (s : State) (k : Counter) (b : Nat) (h : Good q f s) : Good q f (ctrSet s k b 0) :=
  good_ctrSet s k b 0 (Nat.zero_le _) h

@[simp] theorem good_bumpBy (s : State) (k : Counter) (b v : Nat) (h : Good q f s) : Good q f (bumpBy s k b v) :=
  good_ctrSet s k b _ (Nat.min_le_left _ _) h

@[simp] theorem good_bump (s : State) (k : Counter) (b : Nat) (h : Good q f s) : Good q f (bump s k b) := good_bumpBy s k b 1 h

@[simp] theorem good_takeFree (s : State) (w : Nat) (h : Good q f s) : Good q f (takeFree s w).2 := kept_fresh 1 h

/-! ### What a call answered

`e` is the equation that a match on a call's answer leaves behind. -/

theorem good_eq2 {α : Type} {r : α × State} {a : α} {t : State} (e : r = (a, t)) (h : Good q f r.2) : Good q f t := by subst e; exact h
theorem good_eq1 {α : Type} {r : State × α} {a : α} {t : State} (e : r = (t, a)) (h : Good q f r.1) : Good q f t := by subst e; exact h
theorem good_eq22 {α β : Type} {r : α × β × State} {a : α} {b : β} {t : State} (e : r = (a, b, t)) (h : Good q f r.2.2) : Good q f t := by
  subst e; exact h
theorem good_eq21 {α β : Type} {r : α × State × β} {a : α} {b : β} {t : State} (e : r = (a, t, b)) (h : Good q f r.2.1) : Good q f t := by
  subst e; exact h
theorem good_eqSome {o : Option State} {t : State} (e : o = some t) (h : GoodOpt q f o) : Good q f t := h t e

/-! ### Folds -/

/-- A fold over states keeps what each of its steps keeps. -/
@[simp] theorem good_foldl {α : Type} (g : State → α → State) (hg : ∀ s a, Good q f s → Good q f (g s a)) (l : List α) (s : State)
    (h : Good q f s) : Good q f (l.foldl g s) := by
  induction l generalizing s with
  | nil => exact h
  | cons a r ih => exact ih _ (hg s a h)

@[simp] theorem good_foldl_fst {α β : Type} (g : State × β → α → State × β) (hg : ∀ x a, Good q f x.1 → Good q f (g x a).1) (l : List α)
    (x : State × β) (h : Good q f x.1) : Good q f (l.foldl g x).1 := by
  induction l generalizing x with
  | nil => exact h
  | cons a r ih => exact ih _ (hg x a h)

@[simp] theorem good_foldl_snd {α β : Type} (g : β × State → α → β × State) (hg : ∀ x a, Good q f x.2 → Good q f (g x a).2) (l : List α)
    (x : β × State) (h : Good q f x.2) : Good q f (l.foldl g x).2 := by
  induction l generalizing x with
  | nil => exact h
  | cons a r ih => exact ih _ (hg x a h)

end Sys2Proof.Machine
end

