-- ==== Sys2Proof/Laws/FrameAway.lean ====
section
/-!
SUPPORT. What raising an event, asking for a wake and answering a host leave alone: everything but counters, the free-value counter, Dovetail, the host ports,
the power domains and the fault unit.
-/
namespace Sys2Proof.Machine

/-- The parts that `Away` speaks of. -/
def AwayOf (A : State) (now_ : Nat) (stepped_ : Int) (answer_ : Answer) (tu_ : TickUnit) (parts_ : Tab Part) (mc_ : Mc) (mem_ : Mem) (cores_ : Tab Core) (rasps_ : Tab Rasp) (benchCache_ : Tab CLine) (dev_ : Option DevAcc) (noc_ : Noc) (dma_ : Tab DmaCh) (su_ : Su) (jig_ : Jig) (ln_ : Lanes) (fh_ : Fh) (gc_ : Gc) (bh_ : Bh) (tm_ : Tm) (age_ : Age) (th_ : Th) (pins_ : Pins) (pending_ : List Instr) : Prop :=
  now_ = A.now ∧ stepped_ = A.stepped ∧ answer_ = A.answer ∧ tu_ = A.tu ∧ parts_ = A.parts ∧ mc_ = A.mc ∧ mem_ = A.mem ∧ cores_ = A.cores ∧ rasps_ = A.rasps ∧ benchCache_ = A.benchCache ∧ dev_ = A.dev ∧ noc_ = A.noc ∧ dma_ = A.dma ∧ su_ = A.su ∧ jig_ = A.jig ∧ ln_ = A.ln ∧ fh_ = A.fh ∧ gc_ = A.gc ∧ bh_ = A.bh ∧ tm_ = A.tm ∧ age_ = A.age ∧ th_ = A.th ∧ pins_ = A.pins ∧ pending_ = A.pending

/-- `s` is `A` but for counters, the free-value counter, Dovetail, the host ports, the power domains and the fault unit. -/
def Away (A : State) (s : State) : Prop := AwayOf A s.now s.stepped s.answer s.tu s.parts s.mc s.mem s.cores s.rasps s.benchCache s.dev s.noc s.dma s.su s.jig s.ln s.fh s.gc s.bh s.tm s.age s.th s.pins s.pending

/-- The same of an optional state. -/
def AwayOpt (A : State) (o : Option State) : Prop := ∀ t, o = some t → Away A t

variable {A : State}

@[simp] theorem awayOpt_none : AwayOpt A none := fun _ h => nomatch h
@[simp] theorem awayOpt_some (t : State) : AwayOpt A (some t) ↔ Away A t := ⟨fun h => h t rfl, fun h _ e => by cases e; exact h⟩
theorem away_eqSome {o : Option State} {t : State} (e : o = some t) (h : AwayOpt A o) : Away A t := h t e

@[simp] theorem away_mk (now_ stepped_ fresh_ answer_ ctr_ tu_ parts_ dv_ hosts_ mc_ mem_ doms_ cores_ rasps_ benchCache_ dev_ noc_ dma_ su_ jig_ ln_ fh_ gc_ bh_ tm_ flt_ age_ th_ pins_ pending_) :
    Away A (State.mk now_ stepped_ fresh_ answer_ ctr_ tu_ parts_ dv_ hosts_ mc_ mem_ doms_ cores_ rasps_ benchCache_ dev_ noc_ dma_ su_ jig_ ln_ fh_ gc_ bh_ tm_ flt_ age_ th_ pins_ pending_) = AwayOf A now_ stepped_ answer_ tu_ parts_ mc_ mem_ cores_ rasps_ benchCache_ dev_ noc_ dma_ su_ jig_ ln_ fh_ gc_ bh_ tm_ age_ th_ pins_ pending_ := propext Iff.rfl

@[simp] theorem away_of (s : State) (h : Away A s) : AwayOf A s.now s.stepped s.answer s.tu s.parts s.mc s.mem s.cores s.rasps s.benchCache s.dev s.noc s.dma s.su s.jig s.ln s.fh s.gc s.bh s.tm s.age s.th s.pins s.pending := h

theorem away_refl (s : State) : Away s s := ⟨rfl, rfl, rfl, rfl, rfl, rfl, rfl, rfl, rfl, rfl, rfl, rfl, rfl, rfl, rfl, rfl, rfl, rfl, rfl, rfl, rfl, rfl, rfl, rfl⟩

/-- `s` with the six parts of `A` is `A`. -/
theorem away_eq {A s : State} (h : Away A s) : { s with ctr := A.ctr, fresh := A.fresh, dv := A.dv, hosts := A.hosts, doms := A.doms, flt := A.flt } = A := by
  obtain ⟨h0, h1, h2, h3, h4, h5, h6, h7, h8, h9, h10, h11, h12, h13, h14, h15, h16, h17, h18, h19, h20, h21, h22, h23⟩ := h
  cases s; cases A; simp_all

theorem away_now {s : State} (h : Away A s) : s.now = A.now := h.1
theorem away_stepped {s : State} (h : Away A s) : s.stepped = A.stepped := h.2.1
theorem away_answer {s : State} (h : Away A s) : s.answer = A.answer := h.2.2.1
theorem away_tu {s : State} (h : Away A s) : s.tu = A.tu := h.2.2.2.1
theorem away_parts {s : State} (h : Away A s) : s.parts = A.parts := h.2.2.2.2.1
theorem away_mc {s : State} (h : Away A s) : s.mc = A.mc := h.2.2.2.2.2.1
theorem away_mem {s : State} (h : Away A s) : s.mem = A.mem := h.2.2.2.2.2.2.1
theorem away_cores {s : State} (h : Away A s) : s.cores = A.cores := h.2.2.2.2.2.2.2.1
theorem away_rasps {s : State} (h : Away A s) : s.rasps = A.rasps := h.2.2.2.2.2.2.2.2.1
theorem away_benchCache {s : State} (h : Away A s) : s.benchCache = A.benchCache := h.2.2.2.2.2.2.2.2.2.1
theorem away_dev {s : State} (h : Away A s) : s.dev = A.dev := h.2.2.2.2.2.2.2.2.2.2.1
theorem away_noc {s : State} (h : Away A s) : s.noc = A.noc := h.2.2.2.2.2.2.2.2.2.2.2.1
theorem away_dma {s : State} (h : Away A s) : s.dma = A.dma := h.2.2.2.2.2.2.2.2.2.2.2.2.1
theorem away_su {s : State} (h : Away A s) : s.su = A.su := h.2.2.2.2.2.2.2.2.2.2.2.2.2.1
theorem away_jig {s : State} (h : Away A s) : s.jig = A.jig := h.2.2.2.2.2.2.2.2.2.2.2.2.2.2.1
theorem away_ln {s : State} (h : Away A s) : s.ln = A.ln := h.2.2.2.2.2.2.2.2.2.2.2.2.2.2.2.1
theorem away_fh {s : State} (h : Away A s) : s.fh = A.fh := h.2.2.2.2.2.2.2.2.2.2.2.2.2.2.2.2.1
theorem away_gc {s : State} (h : Away A s) : s.gc = A.gc := h.2.2.2.2.2.2.2.2.2.2.2.2.2.2.2.2.2.1
theorem away_bh {s : State} (h : Away A s) : s.bh = A.bh := h.2.2.2.2.2.2.2.2.2.2.2.2.2.2.2.2.2.2.1
theorem away_tm {s : State} (h : Away A s) : s.tm = A.tm := h.2.2.2.2.2.2.2.2.2.2.2.2.2.2.2.2.2.2.2.1
theorem away_age {s : State} (h : Away A s) : s.age = A.age := h.2.2.2.2.2.2.2.2.2.2.2.2.2.2.2.2.2.2.2.2.1
theorem away_th {s : State} (h : Away A s) : s.th = A.th := h.2.2.2.2.2.2.2.2.2.2.2.2.2.2.2.2.2.2.2.2.2.1
theorem away_pins {s : State} (h : Away A s) : s.pins = A.pins := h.2.2.2.2.2.2.2.2.2.2.2.2.2.2.2.2.2.2.2.2.2.2.1
theorem away_pending {s : State} (h : Away A s) : s.pending = A.pending := h.2.2.2.2.2.2.2.2.2.2.2.2.2.2.2.2.2.2.2.2.2.2.2

@[simp] theorem away_ite (x : Prop) [Decidable x] (a b : State) : Away A (if x then a else b) ↔ if x then Away A a else Away A b := by
  split <;> exact Iff.rfl

@[simp] theorem away_ctrSet (s : State) (k : Counter) (b v : Nat) (h : Away A s) : Away A (ctrSet s k b v) := h
@[simp] theorem away_bump (s : State) (k : Counter) (b : Nat) (h : Away A s) : Away A (bump s k b) := h
@[simp] theorem away_bumpBy (s : State) (k : Counter) (b v : Nat) (h : Away A s) : Away A (bumpBy s k b v) := h
@[simp] theorem away_takeFree (s : State) (w : Nat) (h : Away A s) : Away A (takeFree s w).2 := h

@[simp] theorem away_foldl {α : Type} (g : State → α → State) (hg : ∀ s a, Away A s → Away A (g s a)) (l : List α) (s : State)
    (h : Away A s) : Away A (l.foldl g s) := by
  induction l generalizing s with
  | nil => exact h
  | cons a r ih => exact ih _ (hg s a h)

theorem away_eq2 {α : Type} {r : α × State} {a : α} {t : State} (e : r = (a, t)) (h : Away A r.2) : Away A t := by subst e; exact h
theorem away_eq1 {α : Type} {r : State × α} {a : α} {t : State} (e : r = (t, a)) (h : Away A r.1) : Away A t := by subst e; exact h
theorem away_eq22 {α β : Type} {r : α × β × State} {a : α} {b : β} {t : State} (e : r = (a, b, t)) (h : Away A r.2.2) :
    Away A t := by subst e; exact h
theorem away_eq21 {α β : Type} {r : α × State × β} {a : α} {b : β} {t : State} (e : r = (a, t, b)) (h : Away A r.2.1) :
    Away A t := by subst e; exact h

/-! ### The operations -/

set_option linter.unusedSimpArgs false

@[simp] theorem away_setHost (s : State) (x1 x2) (h : Away A s) : Away A (setHost s x1 x2) := h
@[simp] theorem away_updHost (s : State) (x1 x2) (h : Away A s) : Away A (updHost s x1 x2) := h
@[simp] theorem away_setDom (s : State) (x1 x2) (h : Away A s) : Away A (setDom s x1 x2) := h
@[simp] theorem away_updDom (s : State) (x1 x2) (h : Away A s) : Away A (updDom s x1 x2) := h
@[simp] theorem away_setFlow (s : State) (x1 x2) (h : Away A s) : Away A (setFlow s x1 x2) := h
@[simp] theorem away_updFlow (s : State) (x1 x2) (h : Away A s) : Away A (updFlow s x1 x2) := h
@[simp] theorem away_setDvCore (s : State) (x1 x2) (h : Away A s) : Away A (setDvCore s x1 x2) := h
@[simp] theorem away_postHost (s : State) (x1 x2) (h : Away A s) : Away A (postHost s x1 x2) := by
  unfold postHost
  simp (maxDischargeDepth := 40) [h]
@[simp] theorem away_postPart (s : State) (x1 x2 x3 x4) (h : Away A s) : Away A (postPart s x1 x2 x3 x4) := by
  unfold postPart
  simp (maxDischargeDepth := 40) [h]
@[simp] theorem away_pushReply (s : State) (x1 x2 x3 x4 x5) (h : Away A s) : Away A (pushReply s x1 x2 x3 x4 x5) := h
@[simp] theorem away_takePacket (s : State) (x1 x2 x3 x4) (h : Away A s) : Away A (takePacket s x1 x2 x3 x4) := by
  unfold takePacket
  dsimp only
  repeat' split
  all_goals simp (maxDischargeDepth := 40) [h]
@[simp] theorem away_parseOne (s : State) (x1) (h : Away A s) : AwayOpt A (parseOne s x1) := by
  unfold parseOne
  dsimp only
  repeat' split
  all_goals simp (maxDischargeDepth := 40) [h]
@[simp] theorem away_takeCommitted (s : State) (x1) (h : Away A s) : Away A (takeCommitted s x1) := by
  unfold takeCommitted
  simp (maxDischargeDepth := 40) [h]
@[simp] theorem away_parse (s : State) (x1 x2) (h : Away A s) : Away A (parse s x1 x2) := by
  induction x2 generalizing s with
  | zero => exact h
  | succ k ih =>
    unfold parse
    split
    · exact h
    · rename_i t ht; exact ih t (away_parseOne s x1 h t ht)
@[simp] theorem away_parseAll (s : State) (x1) (h : Away A s) : Away A (parseAll s x1) := by
  unfold parseAll
  simp (maxDischargeDepth := 40) [h]
@[simp] theorem away_finish (s : State) (x1 x2 x3 x4) (h : Away A s) : Away A (finish s x1 x2 x3 x4) := by
  unfold finish
  simp (maxDischargeDepth := 40) [h]
@[simp] theorem away_replyLater (s : State) (x1 x2 x3) (h : Away A s) : Away A (replyLater s x1 x2 x3) := by
  unfold replyLater
  repeat' split
  all_goals simp +contextual (maxDischargeDepth := 40) [h]
@[simp] theorem away_setItems (s : State) (x1) (h : Away A s) : Away A (setItems s x1) := h
@[simp] theorem away_updItem (s : State) (x1 x2) (h : Away A s) : Away A (updItem s x1 x2) := h
@[simp] theorem away_dropItem (s : State) (x1) (h : Away A s) : Away A (dropItem s x1) := by
  unfold dropItem
  dsimp only
  repeat' split
  all_goals simp (maxDischargeDepth := 40) [h]
@[simp] theorem away_countRefusal (s : State) (x1 x2) (h : Away A s) : Away A (countRefusal s x1 x2) := by
  unfold countRefusal
  simp (maxDischargeDepth := 40) [h]
@[simp] theorem away_takeSlot (s : State) (x1) (h : Away A s) : Away A (takeSlot s x1).2 := h
@[simp] theorem away_useSlot (s : State) (x1 x2) (h : Away A s) : Away A (useSlot s x1 x2).2 := h
@[simp] theorem away_addItem (s : State) (x1 x2 x3) (h : Away A s) : Away A (addItem s x1 x2 x3).1 := by
  unfold addItem
  dsimp only
  repeat' split
  all_goals simp (maxDischargeDepth := 40) [h]
@[simp] theorem away_enqueue (s : State) (x1 x2) (h : Away A s) : Away A (enqueue s x1 x2).2.1 := by
  unfold enqueue
  dsimp only
  repeat' split
  all_goals simp (maxDischargeDepth := 40) [h]
@[simp] theorem away_lossHost (s : State) (x1 x2 x3 x4) (h : Away A s) : Away A (lossHost s x1 x2 x3 x4) := by
  unfold lossHost
  simp (maxDischargeDepth := 40) [h]
@[simp] theorem away_toEventFlow (s : State) (x1 x2 x3 x4) (h : Away A s) : Away A (toEventFlow s x1 x2 x3 x4) := by
  unfold toEventFlow
  dsimp only
  split
  · exact h
  · split
    · have hk : ∀ n, Away A (enqueue s x1 n).2.1 := fun n => away_enqueue s x1 n h
      split <;> rename_i e <;> have hj := congrArg (fun r : Nat × State × Option Item => Away A r.2.1) e <;> dsimp only at hj
      · exact hj ▸ hk _
      · exact away_lossHost _ _ _ _ _ (hj ▸ hk _)
    · exact h
@[simp] theorem away_lossEvt (s : State) (x1 x2 x3 x4) (h : Away A s) : Away A (lossEvt s x1 x2 x3 x4) :=
  away_toEventFlow _ _ _ _ _ (away_lossHost _ _ _ _ _ h)
@[simp] theorem away_enqueueExt (s : State) (x1 x2) (h : Away A s) : Away A (enqueueExt s x1 x2).2.1 := by
  have hk := away_enqueue s x1 x2 h
  unfold enqueueExt
  split <;> rename_i e <;> rw [e] at hk
  · exact hk
  · exact away_lossEvt _ _ _ _ _ hk
@[simp] theorem away_countOut (s : State) (x1) (h : Away A s) : Away A (countOut s x1) := by
  unfold countOut
  dsimp only
  repeat' split
  all_goals simp (maxDischargeDepth := 40) [h]
@[simp] theorem away_leave (s : State) (x1) (h : Away A s) : Away A (leave s x1).2 := by
  unfold leave
  dsimp only
  split
  · exact away_countOut _ _ (away_dropItem _ _ h)
  · split
    · exact away_countOut _ _ (away_dropItem _ _ h)
    · split
      · simp (maxDischargeDepth := 40) [h]
      · split
        · split
          · simp (maxDischargeDepth := 40) [h]
          · simp (maxDischargeDepth := 40) [h]
        · simp (maxDischargeDepth := 40) [h]
@[simp] theorem away_drainOrdered (s : State) (x1 x2) (h : Away A s) : Away A (drainOrdered s x1 x2) := by
  induction x2 generalizing s with
  | zero => exact h
  | succ k ih =>
    unfold drainOrdered
    dsimp only
    split
    · exact h
    · rename_i it _
      have hk := away_leave s it h
      split <;> rename_i e <;> rw [e] at hk
      · exact ih _ (away_updFlow _ _ _ hk)
      · exact hk
@[simp] theorem away_drainFlow (s : State) (x1) (h : Away A s) : Away A (drainFlow s x1) := by
  unfold drainFlow
  simp (maxDischargeDepth := 40) [h]
@[simp] theorem away_noteIdle (s : State) (x1) (h : Away A s) : Away A (noteIdle s x1) := by
  unfold noteIdle
  dsimp only
  repeat' split
  all_goals simp (maxDischargeDepth := 40) [h]
@[simp] theorem away_logRec (s : State) (x1 x2 x3 x4 x5 x6 x7) (h : Away A s) : Away A (logRec s x1 x2 x3 x4 x5 x6 x7) := h
@[simp] theorem away_deliver (s : State) (x1 x2 x3 x4) (h : Away A s) : Away A (deliver s x1 x2 x3 x4) := by
  unfold deliver
  simp (maxDischargeDepth := 40) [h]
@[simp] theorem away_raisePart (s : State) (x1 x2 x3 x4) (h : Away A s) : Away A (raisePart s x1 x2 x3 x4) := by
  unfold raisePart
  simp (maxDischargeDepth := 40) [h]
@[simp] theorem away_raiseOwner (s : State) (x1 x2 x3 x4) (h : Away A s) : Away A (raiseOwner s x1 x2 x3 x4) := by
  unfold raiseOwner
  repeat' split
  all_goals simp +contextual (maxDischargeDepth := 40) [h]
@[simp] theorem away_tellAll (s : State) (x1 x2 x3) (h : Away A s) : Away A (tellAll s x1 x2 x3) := by
  unfold tellAll
  repeat' split
  all_goals simp +contextual (maxDischargeDepth := 40) [h]
@[simp] theorem away_raiseMod (s : State) (x1 x2 x3) (h : Away A s) : Away A (raiseMod s x1 x2 x3) := by
  unfold raiseMod
  simp (maxDischargeDepth := 40) [h]
@[simp] theorem away_raiseDom (s : State) (x1 x2 x3 x4 x5) (h : Away A s) : Away A (raiseDom s x1 x2 x3 x4 x5) := by
  unfold raiseDom
  dsimp only
  repeat' split
  all_goals simp +contextual (maxDischargeDepth := 40) [h]
@[simp] theorem away_raiseHolders (s : State) (x1 x2 x3 x4) (h : Away A s) : Away A (raiseHolders s x1 x2 x3 x4) := by
  unfold raiseHolders
  dsimp only
  repeat' split
  all_goals simp +contextual (maxDischargeDepth := 40) [h]
@[simp] theorem away_noteRefusal (s : State) (x1 x2 x3 x4) (h : Away A s) : Away A (noteRefusal s x1 x2 x3 x4) := by
  unfold noteRefusal
  simp (maxDischargeDepth := 40) [h]
@[simp] theorem away_withdrawSet (s : State) (x1 x2) (h : Away A s) : Away A (withdrawSet s x1 x2) := by
  unfold withdrawSet
  dsimp only
  repeat' split
  all_goals simp (maxDischargeDepth := 40) [h]
@[simp] theorem away_wakeReq (s : State) (x1 x2 x3) (h : Away A s) : Away A (wakeReq s x1 x2 x3) := by
  unfold wakeReq
  dsimp only
  repeat' split
  all_goals simp (maxDischargeDepth := 40) [h]
@[simp] theorem away_signalCore (s : State) (x1) (h : Away A s) : Away A (signalCore s x1) := by
  unfold signalCore
  repeat' split
  all_goals simp +contextual (maxDischargeDepth := 40) [h]

end Sys2Proof.Machine
end

