-- ==== Sys2Proof/Laws/FrameClock.lean ====
section
/-!
SUPPORT. The tick grid and the time are left as they are by every operation that a tick start performs after moving them on.
-/
namespace Sys2Proof.Machine

/-- The parts that `Clock` speaks of. -/
def ClockOf (T : TickUnit) (N : Nat) (x0 : TickUnit) (x1 : Nat) : Prop := x0 = T ∧ x1 = N

/-- The grid of `s` is `T` and its time `N`. -/
def Clock (T : TickUnit) (N : Nat) (s : State) : Prop := ClockOf T N s.tu s.now

/-- The same of an optional state. -/
def ClockOpt (T : TickUnit) (N : Nat) (o : Option State) : Prop := ∀ t, o = some t → Clock T N t

variable {T : TickUnit} {N : Nat}

@[simp] theorem clockOpt_none : ClockOpt T N none := fun _ h => nomatch h
@[simp] theorem clockOpt_some (t : State) : ClockOpt T N (some t) ↔ Clock T N t := ⟨fun h => h t rfl, fun h _ e => by cases e; exact h⟩
theorem clock_eqSome {o : Option State} {t : State} (e : o = some t) (h : ClockOpt T N o) : Clock T N t := h t e

@[simp] theorem clock_mk (now_ stepped_ fresh_ answer_ ctr_ tu_ parts_ dv_ hosts_ mc_ mem_ doms_ cores_ rasps_ benchCache_ dev_ noc_ dma_ su_ jig_ ln_ fh_ gc_ bh_ tm_ flt_ age_ th_ pins_ pending_) :
    Clock T N (State.mk now_ stepped_ fresh_ answer_ ctr_ tu_ parts_ dv_ hosts_ mc_ mem_ doms_ cores_ rasps_ benchCache_ dev_ noc_ dma_ su_ jig_ ln_ fh_ gc_ bh_ tm_ flt_ age_ th_ pins_ pending_) = ClockOf T N tu_ now_ := propext Iff.rfl

@[simp] theorem clock_of (s : State) (h : Clock T N s) : ClockOf T N s.tu s.now := h

@[simp] theorem clock_ite (x : Prop) [Decidable x] (a b : State) : Clock T N (if x then a else b) ↔ if x then Clock T N a else Clock T N b := by
  split <;> exact Iff.rfl

theorem clock_tu {s : State} (h : Clock T N s) : s.tu = T := h.1
theorem clock_now {s : State} (h : Clock T N s) : s.now = N := h.2

@[simp] theorem clock_ctrSet (s : State) (k : Counter) (b v : Nat) (h : Clock T N s) : Clock T N (ctrSet s k b v) := h
@[simp] theorem clock_bump (s : State) (k : Counter) (b : Nat) (h : Clock T N s) : Clock T N (bump s k b) := h
@[simp] theorem clock_bumpBy (s : State) (k : Counter) (b v : Nat) (h : Clock T N s) : Clock T N (bumpBy s k b v) := h
@[simp] theorem clock_takeFree (s : State) (w : Nat) (h : Clock T N s) : Clock T N (takeFree s w).2 := h

@[simp] theorem clock_foldl {α : Type} (g : State → α → State) (hg : ∀ s a, Clock T N s → Clock T N (g s a)) (l : List α) (s : State)
    (h : Clock T N s) : Clock T N (l.foldl g s) := by
  induction l generalizing s with
  | nil => exact h
  | cons a r ih => exact ih _ (hg s a h)

theorem clock_eq2 {α : Type} {r : α × State} {a : α} {t : State} (e : r = (a, t)) (h : Clock T N r.2) : Clock T N t := by subst e; exact h
theorem clock_eq1 {α : Type} {r : State × α} {a : α} {t : State} (e : r = (t, a)) (h : Clock T N r.1) : Clock T N t := by subst e; exact h
theorem clock_eq22 {α β : Type} {r : α × β × State} {a : α} {b : β} {t : State} (e : r = (a, b, t)) (h : Clock T N r.2.2) :
    Clock T N t := by subst e; exact h
theorem clock_eq21 {α β : Type} {r : α × State × β} {a : α} {b : β} {t : State} (e : r = (a, t, b)) (h : Clock T N r.2.1) :
    Clock T N t := by subst e; exact h

/-! ### The operations -/

set_option linter.unusedSimpArgs false

@[simp] theorem clock_setCore (s : State) (x1 x2) (h : Clock T N s) : Clock T N (setCore s x1 x2) := h
@[simp] theorem clock_updCore (s : State) (x1 x2) (h : Clock T N s) : Clock T N (updCore s x1 x2) := h
@[simp] theorem clock_setPart (s : State) (x1 x2) (h : Clock T N s) : Clock T N (setPart s x1 x2) := h
@[simp] theorem clock_updPart (s : State) (x1 x2) (h : Clock T N s) : Clock T N (updPart s x1 x2) := h
@[simp] theorem clock_setTick (s : State) (x1 x2) (h : Clock T N s) : Clock T N (setTick s x1 x2) := h
@[simp] theorem clock_setHost (s : State) (x1 x2) (h : Clock T N s) : Clock T N (setHost s x1 x2) := h
@[simp] theorem clock_updHost (s : State) (x1 x2) (h : Clock T N s) : Clock T N (updHost s x1 x2) := h
@[simp] theorem clock_setDom (s : State) (x1 x2) (h : Clock T N s) : Clock T N (setDom s x1 x2) := h
@[simp] theorem clock_updDom (s : State) (x1 x2) (h : Clock T N s) : Clock T N (updDom s x1 x2) := h
@[simp] theorem clock_setFlow (s : State) (x1 x2) (h : Clock T N s) : Clock T N (setFlow s x1 x2) := h
@[simp] theorem clock_updFlow (s : State) (x1 x2) (h : Clock T N s) : Clock T N (updFlow s x1 x2) := h
@[simp] theorem clock_postHost (s : State) (x1 x2) (h : Clock T N s) : Clock T N (postHost s x1 x2) := by
  unfold postHost
  simp (maxDischargeDepth := 40) [h]
@[simp] theorem clock_postPart (s : State) (x1 x2 x3 x4) (h : Clock T N s) : Clock T N (postPart s x1 x2 x3 x4) := by
  unfold postPart
  simp (maxDischargeDepth := 40) [h]
@[simp] theorem clock_pushReply (s : State) (x1 x2 x3 x4 x5) (h : Clock T N s) : Clock T N (pushReply s x1 x2 x3 x4 x5) := h
@[simp] theorem clock_takePacket (s : State) (x1 x2 x3 x4) (h : Clock T N s) : Clock T N (takePacket s x1 x2 x3 x4) := by
  unfold takePacket
  dsimp only
  repeat' split
  all_goals simp (maxDischargeDepth := 40) [h]
@[simp] theorem clock_parseOne (s : State) (x1) (h : Clock T N s) : ClockOpt T N (parseOne s x1) := by
  unfold parseOne
  dsimp only
  repeat' split
  all_goals simp (maxDischargeDepth := 40) [h]
@[simp] theorem clock_takeCommitted (s : State) (x1) (h : Clock T N s) : Clock T N (takeCommitted s x1) := by
  unfold takeCommitted
  simp (maxDischargeDepth := 40) [h]
@[simp] theorem clock_parse (s : State) (x1 x2) (h : Clock T N s) : Clock T N (parse s x1 x2) := by
  induction x2 generalizing s with
  | zero => exact h
  | succ k ih =>
    unfold parse
    split
    · exact h
    · rename_i t ht; exact ih t (clock_parseOne s x1 h t ht)
@[simp] theorem clock_parseAll (s : State) (x1) (h : Clock T N s) : Clock T N (parseAll s x1) := by
  unfold parseAll
  simp (maxDischargeDepth := 40) [h]
@[simp] theorem clock_finish (s : State) (x1 x2 x3 x4) (h : Clock T N s) : Clock T N (finish s x1 x2 x3 x4) := by
  unfold finish
  simp (maxDischargeDepth := 40) [h]
@[simp] theorem clock_replyLater (s : State) (x1 x2 x3) (h : Clock T N s) : Clock T N (replyLater s x1 x2 x3) := by
  unfold replyLater
  repeat' split
  all_goals simp +contextual (maxDischargeDepth := 40) [h]
@[simp] theorem clock_setItems (s : State) (x1) (h : Clock T N s) : Clock T N (setItems s x1) := h
@[simp] theorem clock_updItem (s : State) (x1 x2) (h : Clock T N s) : Clock T N (updItem s x1 x2) := h
@[simp] theorem clock_countRefusal (s : State) (x1 x2) (h : Clock T N s) : Clock T N (countRefusal s x1 x2) := by
  unfold countRefusal
  simp (maxDischargeDepth := 40) [h]
@[simp] theorem clock_takeSlot (s : State) (x1) (h : Clock T N s) : Clock T N (takeSlot s x1).2 := h
@[simp] theorem clock_useSlot (s : State) (x1 x2) (h : Clock T N s) : Clock T N (useSlot s x1 x2).2 := h
@[simp] theorem clock_addItem (s : State) (x1 x2 x3) (h : Clock T N s) : Clock T N (addItem s x1 x2 x3).1 := by
  unfold addItem
  dsimp only
  repeat' split
  all_goals simp (maxDischargeDepth := 40) [h]
@[simp] theorem clock_enqueue (s : State) (x1 x2) (h : Clock T N s) : Clock T N (enqueue s x1 x2).2.1 := by
  unfold enqueue
  dsimp only
  repeat' split
  all_goals simp (maxDischargeDepth := 40) [h]
@[simp] theorem clock_lossHost (s : State) (x1 x2 x3 x4) (h : Clock T N s) : Clock T N (lossHost s x1 x2 x3 x4) := by
  unfold lossHost
  simp (maxDischargeDepth := 40) [h]
@[simp] theorem clock_toEventFlow (s : State) (x1 x2 x3 x4) (h : Clock T N s) : Clock T N (toEventFlow s x1 x2 x3 x4) := by
  unfold toEventFlow
  dsimp only
  split
  · exact h
  · split
    · have hk : ∀ n, Clock T N (enqueue s x1 n).2.1 := fun n => clock_enqueue s x1 n h
      split <;> rename_i e <;> have hj := congrArg (fun r : Nat × State × Option Item => Clock T N r.2.1) e <;> dsimp only at hj
      · exact hj ▸ hk _
      · exact clock_lossHost _ _ _ _ _ (hj ▸ hk _)
    · exact h
@[simp] theorem clock_requeue (s : State) (x1) (h : Clock T N s) : Clock T N (requeue s x1) := h
@[simp] theorem clock_logRec (s : State) (x1 x2 x3 x4 x5 x6 x7) (h : Clock T N s) : Clock T N (logRec s x1 x2 x3 x4 x5 x6 x7) := h
@[simp] theorem clock_deliver (s : State) (x1 x2 x3 x4) (h : Clock T N s) : Clock T N (deliver s x1 x2 x3 x4) := by
  unfold deliver
  simp (maxDischargeDepth := 40) [h]
@[simp] theorem clock_raisePart (s : State) (x1 x2 x3 x4) (h : Clock T N s) : Clock T N (raisePart s x1 x2 x3 x4) := by
  unfold raisePart
  simp (maxDischargeDepth := 40) [h]
@[simp] theorem clock_raiseDom (s : State) (x1 x2 x3 x4 x5) (h : Clock T N s) : Clock T N (raiseDom s x1 x2 x3 x4 x5) := by
  unfold raiseDom
  dsimp only
  repeat' split
  all_goals simp +contextual (maxDischargeDepth := 40) [h]
@[simp] theorem clock_raiseHolders (s : State) (x1 x2 x3 x4) (h : Clock T N s) : Clock T N (raiseHolders s x1 x2 x3 x4) := by
  unfold raiseHolders
  dsimp only
  repeat' split
  all_goals simp +contextual (maxDischargeDepth := 40) [h]
@[simp] theorem clock_noteRefusal (s : State) (x1 x2 x3 x4) (h : Clock T N s) : Clock T N (noteRefusal s x1 x2 x3 x4) := by
  unfold noteRefusal
  simp (maxDischargeDepth := 40) [h]
@[simp] theorem clock_withdrawSet (s : State) (x1 x2) (h : Clock T N s) : Clock T N (withdrawSet s x1 x2) := by
  unfold withdrawSet
  dsimp only
  repeat' split
  all_goals simp (maxDischargeDepth := 40) [h]
@[simp] theorem clock_wakeReq (s : State) (x1 x2 x3) (h : Clock T N s) : Clock T N (wakeReq s x1 x2 x3) := by
  unfold wakeReq
  dsimp only
  repeat' split
  all_goals simp (maxDischargeDepth := 40) [h]
@[simp] theorem clock_signalCore (s : State) (x1) (h : Clock T N s) : Clock T N (signalCore s x1) := by
  unfold signalCore
  repeat' split
  all_goals simp +contextual (maxDischargeDepth := 40) [h]
@[simp] theorem clock_setIp (s : State) (x1 x2) (h : Clock T N s) : Clock T N (setIp s x1 x2) := by
  unfold setIp
  simp (maxDischargeDepth := 40) [h]
@[simp] theorem clock_capCheck (s : State) (x1) (h : Clock T N s) : Clock T N (capCheck s x1) := by
  unfold capCheck
  simp (maxDischargeDepth := 40) [h]
@[simp] theorem clock_planIdx (s : State) (x1) (h : Clock T N s) : Clock T N (planIdx s x1) := by
  unfold planIdx
  dsimp only
  repeat' split
  all_goals simp (maxDischargeDepth := 40) [h]
@[simp] theorem clock_gcTick (s : State) (h : Clock T N s) : Clock T N (gcTick s) := h
@[simp] theorem clock_startLevel (s : State) (x1 x2 x3) (h : Clock T N s) : Clock T N (startLevel s x1 x2 x3) := h
@[simp] theorem clock_sigPwr (s : State) (x1) (h : Clock T N s) : Clock T N (sigPwr s x1) := by
  unfold sigPwr
  repeat' split
  all_goals simp +contextual (maxDischargeDepth := 40) [h]
@[simp] theorem clock_levelDone (s : State) (x1) (h : Clock T N s) : Clock T N (levelDone s x1) := by
  unfold levelDone
  dsimp only
  repeat' split
  all_goals simp (maxDischargeDepth := 40) [h]
@[simp] theorem clock_freqSwitch (s : State) (x1) (h : Clock T N s) : Clock T N (freqSwitch s x1) := by
  unfold freqSwitch
  dsimp only
  repeat' split
  all_goals simp (maxDischargeDepth := 40) [h]
@[simp] theorem clock_setThr (s : State) (x1 x2) (h : Clock T N s) : Clock T N (setThr s x1 x2) := by
  unfold setThr
  simp (maxDischargeDepth := 40) [h]
@[simp] theorem clock_evalThr (s : State) (x1) (h : Clock T N s) : Clock T N (evalThr s x1) := by
  unfold evalThr
  simp (maxDischargeDepth := 40) [h]
@[simp] theorem clock_tellAll (s : State) (x1 x2 x3) (h : Clock T N s) : Clock T N (tellAll s x1 x2 x3) := by
  unfold tellAll
  exact clock_foldl _ (fun t d ht => by simp (maxDischargeDepth := 40) [ht]) _ _ h
@[simp] theorem clock_raiseMod (s : State) (x1 x2 x3) (h : Clock T N s) : Clock T N (raiseMod s x1 x2 x3) := by
  unfold raiseMod
  simp (maxDischargeDepth := 40) [h]
@[simp] theorem clock_zoneWarn (s : State) (x1) (h : Clock T N s) : Clock T N (zoneWarn s x1) := by
  unfold zoneWarn
  simp (maxDischargeDepth := 40) [h]
@[simp] theorem clock_fastNow (s : State) (h : Clock T N s) : Clock T N (fastNow s) := h
@[simp] theorem clock_applyThCfg (s : State) (h : Clock T N s) : Clock T N (applyThCfg s) := by
  unfold applyThCfg
  split
  · exact h
  · dsimp only
    refine clock_foldl _ (fun t d ht => ?_) _ _ (clock_foldl _ (fun t z ht => clock_zoneWarn t z ht) _ _ (clock_fastNow _ h))
    repeat' split
    all_goals simp (maxDischargeDepth := 40) [ht]
theorem clock_requestSwitch (s t : State) (x1 n : Nat) (h : Clock T N s) (e : requestSwitch s x1 = some (n, t)) : Clock T N t := by
  unfold requestSwitch at e
  dsimp only at e
  split at e
  · cases e; exact clock_setTick _ _ _ h
  · cases e
@[simp] theorem clock_autoSwitch (s : State) (x1) (h : Clock T N s) : Clock T N (autoSwitch s x1) := by
  unfold autoSwitch
  dsimp only
  split
  · split
    · rename_i e; exact clock_requestSwitch s _ x1 _ h e
    · exact h
  · exact h
@[simp] theorem clock_csetEmpty (s : State) (x1 x2 x3 x4) (h : Clock T N s) : Clock T N (csetEmpty s x1 x2 x3 x4) := by
  unfold csetEmpty
  simp (maxDischargeDepth := 40) [h]
@[simp] theorem clock_restage (s : State) (x1) (h : Clock T N s) : Clock T N (restage s x1) := by
  unfold restage
  repeat' split
  all_goals simp +contextual (maxDischargeDepth := 40) [h]
@[simp] theorem clock_applyWeights (s : State) (h : Clock T N s) : Clock T N (applyWeights s) := by
  unfold applyWeights
  dsimp only
  repeat' split
  all_goals simp +contextual (maxDischargeDepth := 40) [h]
@[simp] theorem clock_loadTick (s : State) (h : Clock T N s) : Clock T N (loadTick s) := h
@[simp] theorem clock_stopPlan (s : State) (x1) (h : Clock T N s) : Clock T N (stopPlan s x1) := by
  unfold stopPlan
  simp (maxDischargeDepth := 40) [h]
@[simp] theorem clock_thermTick (s : State) (h : Clock T N s) : Clock T N (thermTick s) := by
  unfold thermTick
  repeat' split
  all_goals simp +contextual (maxDischargeDepth := 40) [h]
@[simp] theorem clock_capLevels (s : State) (h : Clock T N s) : Clock T N (capLevels s) := by
  unfold capLevels
  repeat' split
  all_goals simp +contextual (maxDischargeDepth := 40) [h]

end Sys2Proof.Machine
end

