-- ==== Sys2Proof/Laws/KeptShared.lean ====
section
/-!
SUPPORT. `Good` is kept by the operations of the shared operations: units, host queues, items, events, lanes, memory, frames, wakes and deadline windows: one lemma for each (Laws/Kept.lean).
-/
namespace Sys2Proof.Machine

set_option linter.unusedSimpArgs false
variable {q : List Instr} {f : Nat}

/-! ### Ops -/

@[simp] theorem good_setCore (s : State) (x1 x2) (h : Good q f s) : Good q f (setCore s x1 x2) := h
@[simp] theorem good_updCore (s : State) (x1 x2) (h : Good q f s) : Good q f (updCore s x1 x2) := h
@[simp] theorem good_setPart (s : State) (x1 x2) (h : Good q f s) : Good q f (setPart s x1 x2) := h
@[simp] theorem good_updPart (s : State) (x1 x2) (h : Good q f s) : Good q f (updPart s x1 x2) := h
@[simp] theorem good_setTick (s : State) (x1 x2) (h : Good q f s) : Good q f (setTick s x1 x2) := h
@[simp] theorem good_setHost (s : State) (x1 x2) (h : Good q f s) : Good q f (setHost s x1 x2) := h
@[simp] theorem good_updHost (s : State) (x1 x2) (h : Good q f s) : Good q f (updHost s x1 x2) := h
@[simp] theorem good_setDom (s : State) (x1 x2) (h : Good q f s) : Good q f (setDom s x1 x2) := h
@[simp] theorem good_updDom (s : State) (x1 x2) (h : Good q f s) : Good q f (updDom s x1 x2) := h
@[simp] theorem good_setCh (s : State) (x1 x2) (h : Good q f s) : Good q f (setCh s x1 x2) := h
@[simp] theorem good_updCh (s : State) (x1 x2) (h : Good q f s) : Good q f (updCh s x1 x2) := h
@[simp] theorem good_setSr (s : State) (x1 x2) (h : Good q f s) : Good q f (setSr s x1 x2) := h
@[simp] theorem good_setFlow (s : State) (x1 x2) (h : Good q f s) : Good q f (setFlow s x1 x2) := h
@[simp] theorem good_updFlow (s : State) (x1 x2) (h : Good q f s) : Good q f (updFlow s x1 x2) := h
@[simp] theorem good_setDvCore (s : State) (x1 x2) (h : Good q f s) : Good q f (setDvCore s x1 x2) := h
@[simp] theorem good_setRasp (s : State) (x1 x2) (h : Good q f s) : Good q f (setRasp s x1 x2) := h
@[simp] theorem good_setPort (s : State) (x1 x2) (h : Good q f s) : Good q f (setPort s x1 x2) := h
@[simp] theorem good_setNocDie (s : State) (x1 x2) (h : Good q f s) : Good q f (setNocDie s x1 x2) := h
@[simp] theorem good_updSu (s : State) (x1) (h : Good q f s) : Good q f (updSu s x1) := by
  unfold updSu
  simp (maxDischargeDepth := 40) [h]
@[simp] theorem good_noteDeg (s : State) (h : Good q f s) : Good q f (noteDeg s) := good_updSu s _ h
@[simp] theorem good_setLink (s : State) (x1 x2) (h : Good q f s) : Good q f (setLink s x1 x2) := h
@[simp] theorem good_answer (s : State) (x1 x2) (h : Good q f s) : Good q f (answer s x1 x2) := h
@[simp] theorem good_setDma (s : State) (x1 x2) (h : Good q f s) : Good q f (setDma s x1 x2) := h
@[simp] theorem good_updDma (s : State) (x1 x2) (h : Good q f s) : Good q f (updDma s x1 x2) := h
@[simp] theorem good_writeBytes (s : State) (x1 x2) (h : Good q f s) : Good q f (writeBytes s x1 x2) := by
  unfold writeBytes
  simp (maxDischargeDepth := 40) [h]

/-! ### HostQ -/

@[simp] theorem good_postHost (s : State) (x1 x2) (h : Good q f s) : Good q f (postHost s x1 x2) := by
  unfold postHost
  simp (maxDischargeDepth := 40) [h]
@[simp] theorem good_postPart (s : State) (x1 x2 x3 x4) (h : Good q f s) : Good q f (postPart s x1 x2 x3 x4) := by
  unfold postPart
  simp (maxDischargeDepth := 40) [h]
@[simp] theorem good_pushReply (s : State) (x1 x2 x3 x4 x5) (h : Good q f s) : Good q f (pushReply s x1 x2 x3 x4 x5) := h
@[simp] theorem good_takePacket (s : State) (x1 x2 x3 x4) (h : Good q f s) : Good q f (takePacket s x1 x2 x3 x4) := by
  unfold takePacket
  dsimp only
  repeat' split
  all_goals simp (maxDischargeDepth := 40) [h]
@[simp] theorem good_parseOne (s : State) (x1) (h : Good q f s) : GoodOpt q f (parseOne s x1) := by
  unfold parseOne
  dsimp only
  repeat' split
  all_goals simp (maxDischargeDepth := 40) [h]
@[simp] theorem good_takeCommitted (s : State) (x1) (h : Good q f s) : Good q f (takeCommitted s x1) := by
  unfold takeCommitted
  simp (maxDischargeDepth := 40) [h]
@[simp] theorem good_parse (s : State) (x1 x2) (h : Good q f s) : Good q f (parse s x1 x2) := by
  induction x2 generalizing s with
  | zero => exact h
  | succ k ih =>
    unfold parse
    split
    · exact h
    · rename_i t ht; exact ih t (good_parseOne s x1 h t ht)
@[simp] theorem good_parseAll (s : State) (x1) (h : Good q f s) : Good q f (parseAll s x1) := by
  unfold parseAll
  simp (maxDischargeDepth := 40) [h]
@[simp] theorem good_finish (s : State) (x1 x2 x3 x4) (h : Good q f s) : Good q f (finish s x1 x2 x3 x4) := by
  unfold finish
  simp (maxDischargeDepth := 40) [h]
@[simp] theorem good_runCmd (s : State) (x1 x2) (body : State → HostCmd → Reply × State) (hb : ∀ t c, Good q f t → Good q f (body t c).2)
    (h : Good q f s) : Good q f (runCmd s x1 x2 body) := by
  unfold runCmd
  split
  · exact h
  · rename_i c _
    split
    · have hs : Good q f { s with mc := { s.mc with lastServed := x1 } } := h
      have hk := hb _ c hs
      dsimp only
      split
      · rename_i e; rw [e] at hk; simp (maxDischargeDepth := 40) [hk]
      · rename_i e; rw [e] at hk; simp (maxDischargeDepth := 40) [hk]
    · exact h
@[simp] theorem good_replyLater (s : State) (x1 x2 x3) (h : Good q f s) : Good q f (replyLater s x1 x2 x3) := by
  unfold replyLater
  repeat' split
  all_goals simp +contextual (maxDischargeDepth := 40) [h]
@[simp] theorem good_refuse (s : State) (x1 x2) (h : Good q f s) : Good q f (refuse s x1 x2).2 := h
@[simp] theorem good_okReply (s : State) (h : Good q f s) : Good q f (okReply s).2 := h

/-! ### DvOps -/

@[simp] theorem good_setItems (s : State) (x1) (h : Good q f s) : Good q f (setItems s x1) := h
@[simp] theorem good_updItem (s : State) (x1 x2) (h : Good q f s) : Good q f (updItem s x1 x2) := h
@[simp] theorem good_dropItem (s : State) (x1) (h : Good q f s) : Good q f (dropItem s x1) := by
  unfold dropItem
  dsimp only
  repeat' split
  all_goals simp (maxDischargeDepth := 40) [h]
@[simp] theorem good_dropWins (s : State) (x1) (h : Good q f s) : Good q f (dropWins s x1) := h
@[simp] theorem good_countRefusal (s : State) (x1 x2) (h : Good q f s) : Good q f (countRefusal s x1 x2) := by
  unfold countRefusal
  simp (maxDischargeDepth := 40) [h]
@[simp] theorem good_takeSlot (s : State) (x1) (h : Good q f s) : Good q f (takeSlot s x1).2 := by
  unfold takeSlot
  simp (maxDischargeDepth := 40) [h]
@[simp] theorem good_useSlot (s : State) (x1 x2) (h : Good q f s) : Good q f (useSlot s x1 x2).2 := h
@[simp] theorem good_addItem (s : State) (x1 x2 x3) (h : Good q f s) : Good q f (addItem s x1 x2 x3).1 := by
  unfold addItem
  dsimp only
  repeat' split
  all_goals simp (maxDischargeDepth := 40) [h]
@[simp] theorem good_enqueue (s : State) (x1 x2) (h : Good q f s) : Good q f (enqueue s x1 x2).2.1 := by
  unfold enqueue
  dsimp only
  repeat' split
  all_goals simp (maxDischargeDepth := 40) [h]
@[simp] theorem good_lossHost (s : State) (x1 x2 x3 x4) (h : Good q f s) : Good q f (lossHost s x1 x2 x3 x4) := by
  unfold lossHost
  simp (maxDischargeDepth := 40) [h]
@[simp] theorem good_toEventFlow (s : State) (x1 x2 x3 x4) (h : Good q f s) : Good q f (toEventFlow s x1 x2 x3 x4) := by
  unfold toEventFlow
  dsimp only
  split
  · exact h
  · split
    · have hk : ∀ n, Good q f (enqueue s x1 n).2.1 := fun n => good_enqueue s x1 n h
      split <;> rename_i e <;> have hj := congrArg (fun r : Nat × State × Option Item => Good q f r.2.1) e <;> dsimp only at hj
      · exact hj ▸ hk _
      · exact good_lossHost _ _ _ _ _ (hj ▸ hk _)
    · exact h
@[simp] theorem good_lossEvt (s : State) (x1 x2 x3 x4) (h : Good q f s) : Good q f (lossEvt s x1 x2 x3 x4) :=
  good_toEventFlow _ _ _ _ _ (good_lossHost _ _ _ _ _ h)
@[simp] theorem good_enqueueExt (s : State) (x1 x2) (h : Good q f s) : Good q f (enqueueExt s x1 x2).2.1 := by
  have hk := good_enqueue s x1 x2 h
  unfold enqueueExt
  split <;> rename_i e <;> rw [e] at hk
  · exact hk
  · exact good_lossEvt _ _ _ _ _ hk
@[simp] theorem good_countOut (s : State) (x1) (h : Good q f s) : Good q f (countOut s x1) := by
  unfold countOut
  dsimp only
  repeat' split
  all_goals simp (maxDischargeDepth := 40) [h]
@[simp] theorem good_leave (s : State) (x1) (h : Good q f s) : Good q f (leave s x1).2 := by
  unfold leave
  dsimp only
  split
  · exact good_countOut _ _ (good_dropItem _ _ h)
  · split
    · exact good_countOut _ _ (good_dropItem _ _ h)
    · split
      · simp (maxDischargeDepth := 40) [h]
      · split
        · split
          · simp (maxDischargeDepth := 40) [h]
          · simp (maxDischargeDepth := 40) [h]
        · simp (maxDischargeDepth := 40) [h]
@[simp] theorem good_drainOrdered (s : State) (x1 x2) (h : Good q f s) : Good q f (drainOrdered s x1 x2) := by
  induction x2 generalizing s with
  | zero => exact h
  | succ k ih =>
    unfold drainOrdered
    dsimp only
    split
    · exact h
    · rename_i it _
      have hk := good_leave s it h
      split <;> rename_i e <;> rw [e] at hk
      · exact ih _ (good_updFlow _ _ _ hk)
      · exact hk
@[simp] theorem good_drainFlow (s : State) (x1) (h : Good q f s) : Good q f (drainFlow s x1) := by
  unfold drainFlow
  simp (maxDischargeDepth := 40) [h]
@[simp] theorem good_releaseItem (s : State) (x1) (h : Good q f s) : Good q f (releaseItem s x1) := by
  unfold releaseItem
  simp (maxDischargeDepth := 40) [h]
@[simp] theorem good_withdraw (s : State) (x1 x2) (h : Good q f s) : Good q f (withdraw s x1 x2) := by
  unfold withdraw
  simp (maxDischargeDepth := 40) [h]
@[simp] theorem good_retryHeld (s : State) (x1) (h : Good q f s) : Good q f (retryHeld s x1) := by
  unfold retryHeld
  repeat' split
  all_goals simp +contextual (maxDischargeDepth := 40) [h]
@[simp] theorem good_sendAbort (s : State) (x1 x2) (h : Good q f s) : Good q f (sendAbort s x1 x2) := h
@[simp] theorem good_requeue (s : State) (x1) (h : Good q f s) : Good q f (requeue s x1) := h
@[simp] theorem good_noteIdle (s : State) (x1) (h : Good q f s) : Good q f (noteIdle s x1) := by
  unfold noteIdle
  dsimp only
  repeat' split
  all_goals simp (maxDischargeDepth := 40) [h]
@[simp] theorem good_failRunning (s : State) (x1) (h : Good q f s) : Good q f (failRunning s x1) := by
  unfold failRunning
  simp (maxDischargeDepth := 40) [h]
@[simp] theorem good_failCoreItems (s : State) (x1) (h : Good q f s) : Good q f (failCoreItems s x1) := by
  unfold failCoreItems
  dsimp only
  repeat' split
  all_goals simp +contextual (maxDischargeDepth := 40) [h]

/-! ### Events -/

@[simp] theorem good_logRec (s : State) (x1 x2 x3 x4 x5 x6 x7) (h : Good q f s) : Good q f (logRec s x1 x2 x3 x4 x5 x6 x7) := h
@[simp] theorem good_alertMc (s : State) (x1) (h : Good q f s) : Good q f (alertMc s x1) := h
@[simp] theorem good_deliver (s : State) (x1 x2 x3 x4) (h : Good q f s) : Good q f (deliver s x1 x2 x3 x4) := by
  unfold deliver
  simp (maxDischargeDepth := 40) [h]
@[simp] theorem good_raisePart (s : State) (x1 x2 x3 x4) (h : Good q f s) : Good q f (raisePart s x1 x2 x3 x4) := by
  unfold raisePart
  simp (maxDischargeDepth := 40) [h]
@[simp] theorem good_raiseOwner (s : State) (x1 x2 x3 x4) (h : Good q f s) : Good q f (raiseOwner s x1 x2 x3 x4) := by
  unfold raiseOwner
  repeat' split
  all_goals simp +contextual (maxDischargeDepth := 40) [h]
@[simp] theorem good_tellAll (s : State) (x1 x2 x3) (h : Good q f s) : Good q f (tellAll s x1 x2 x3) := by
  unfold tellAll
  repeat' split
  all_goals simp +contextual (maxDischargeDepth := 40) [h]
@[simp] theorem good_raiseMod (s : State) (x1 x2 x3) (h : Good q f s) : Good q f (raiseMod s x1 x2 x3) := by
  unfold raiseMod
  simp (maxDischargeDepth := 40) [h]
@[simp] theorem good_raiseDom (s : State) (x1 x2 x3 x4 x5) (h : Good q f s) : Good q f (raiseDom s x1 x2 x3 x4 x5) := by
  unfold raiseDom
  dsimp only
  repeat' split
  all_goals simp +contextual (maxDischargeDepth := 40) [h]
@[simp] theorem good_raiseHolders (s : State) (x1 x2 x3 x4) (h : Good q f s) : Good q f (raiseHolders s x1 x2 x3 x4) := by
  unfold raiseHolders
  dsimp only
  repeat' split
  all_goals simp +contextual (maxDischargeDepth := 40) [h]
@[simp] theorem good_foreign (s : State) (h : Good q f s) : Good q f (foreign s) := h
@[simp] theorem good_done (s : State) (h : Good q f s) : Good q f (done s) := h

/-! ### LaneOps -/

@[simp] theorem good_setLane (s : State) (x1 x2) (h : Good q f s) : Good q f (setLane s x1 x2) := h
@[simp] theorem good_updLane (s : State) (x1 x2) (h : Good q f s) : Good q f (updLane s x1 x2) := h
@[simp] theorem good_setRx (s : State) (x1 x2) (h : Good q f s) : Good q f (setRx s x1 x2) := h
@[simp] theorem good_updRx (s : State) (x1 x2) (h : Good q f s) : Good q f (updRx s x1 x2) := h
@[simp] theorem good_setFh (s : State) (x1 x2) (h : Good q f s) : Good q f (setFh s x1 x2) := h
@[simp] theorem good_updFh (s : State) (x1 x2) (h : Good q f s) : Good q f (updFh s x1 x2) := h
@[simp] theorem good_setGrp (s : State) (x1 x2) (h : Good q f s) : Good q f (setGrp s x1 x2) := h
@[simp] theorem good_updGrp (s : State) (x1 x2) (h : Good q f s) : Good q f (updGrp s x1 x2) := h
@[simp] theorem good_setCtx (s : State) (x1 x2) (h : Good q f s) : Good q f (setCtx s x1 x2) := h
@[simp] theorem good_setBp (s : State) (x1 x2) (h : Good q f s) : Good q f (setBp s x1 x2) := h
@[simp] theorem good_updBp (s : State) (x1 x2) (h : Good q f s) : Good q f (updBp s x1 x2) := h
@[simp] theorem good_setRing (s : State) (x1 x2) (h : Good q f s) : Good q f (setRing s x1 x2) := h
@[simp] theorem good_lnRej (s : State) (x1) (h : Good q f s) : Good q f (lnRej s x1) := h
@[simp] theorem good_lnSleepRej (s : State) (x1) (h : Good q f s) : Good q f (lnSleepRej s x1) := by
  unfold lnSleepRej
  simp (maxDischargeDepth := 40) [h]
@[simp] theorem good_alignUpdate (s : State) (x1) (h : Good q f s) : Good q f (alignUpdate s x1) := by
  unfold alignUpdate
  simp (maxDischargeDepth := 40) [h]
@[simp] theorem good_rxStop (s : State) (x1) (h : Good q f s) : Good q f (rxStop s x1) := by
  unfold rxStop
  simp (maxDischargeDepth := 40) [h]
@[simp] theorem good_linkUpdate (s : State) (x1) (h : Good q f s) : Good q f (linkUpdate s x1) := by
  unfold linkUpdate
  simp (maxDischargeDepth := 40) [h]

/-! ### MemOps -/

@[simp] theorem good_setPage (s : State) (x1 x2 x3) (h : Good q f s) : Good q f (setPage s x1 x2 x3) := h
@[simp] theorem good_noteUnc (s : State) (x1 x2) (h : Good q f s) : Good q f (noteUnc s x1 x2) := h
@[simp] theorem good_encodePage (s : State) (x1 x2) (h : Good q f s) : Good q f (encodePage s x1 x2) := h
@[simp] theorem good_showFlips (s : State) (x1 x2) (h : Good q f s) : Good q f (showFlips s x1 x2) := by
  unfold showFlips
  dsimp only
  split
  · exact ⟨h.1, wf_flips _ _ _ h.2.1, h.2.2⟩
  · exact h
@[simp] theorem good_unstage (s : State) (x1 x2) (h : Good q f s) : Good q f (unstage s x1 x2) := by
  unfold unstage
  simp (maxDischargeDepth := 40) [h]
@[simp] theorem good_stage (s : State) (x1 x2 x3) (h : Good q f s) : Good q f (stage s x1 x2 x3) := by
  unfold stage
  dsimp only
  repeat' split
  all_goals simp (maxDischargeDepth := 40) [h]
@[simp] theorem good_retirePage (s : State) (x1 x2) (h : Good q f s) : Good q f (retirePage s x1 x2) := by
  unfold retirePage
  dsimp only
  repeat' split
  all_goals simp (maxDischargeDepth := 40) [h]
@[simp] theorem good_notePage (s : State) (x1 x2) (h : Good q f s) : Good q f (notePage s x1 x2) := by
  unfold notePage
  simp (maxDischargeDepth := 40) [h]
@[simp] theorem good_pageUnc (s : State) (x1 x2 x3) (h : Good q f s) : Good q f (pageUnc s x1 x2 x3) := by
  unfold pageUnc
  simp (maxDischargeDepth := 40) [h]
@[simp] theorem good_fetchPage (s : State) (x1 x2 x3) (h : Good q f s) : Good q f (fetchPage s x1 x2 x3).2 := by
  unfold fetchPage
  dsimp only
  repeat' split
  all_goals simp (maxDischargeDepth := 40) [h]
@[simp] theorem good_upsetPage (s : State) (x1 x2 x3 x4) (h : Good q f s) : Good q f (upsetPage s x1 x2 x3 x4) := by
  unfold upsetPage
  simp (maxDischargeDepth := 40) [h]
@[simp] theorem good_writeWholePage (s : State) (x1 x2 x3) (h : Good q f s) : Good q f (writeWholePage s x1 x2 x3) := by
  unfold writeWholePage
  simp (maxDischargeDepth := 40) [h]
@[simp] theorem good_writePartPage (s : State) (x1 x2 x3 x4) (h : Good q f s) : Good q f (writePartPage s x1 x2 x3 x4).2 := by
  unfold writePartPage
  repeat' split
  all_goals first
    | simp +contextual (maxDischargeDepth := 40) [h]; done
    | rename_i e; have hk := congrArg (fun r : _ × State => Good q f r.2) e; simp +contextual (maxDischargeDepth := 40) [h] at hk; simp +contextual (maxDischargeDepth := 40) [h, hk]
@[simp] theorem good_repairRow (s : State) (x1 x2) (h : Good q f s) : Good q f (repairRow s x1 x2) := by
  unfold repairRow
  simp (maxDischargeDepth := 40) [h]
@[simp] theorem good_correctWord (s : State) (x1) (h : Good q f s) : Good q f (correctWord s x1) := by
  unfold correctWord
  simp (maxDischargeDepth := 40) [h]
@[simp] theorem good_wordUnc (s : State) (x1 x2) (h : Good q f s) : Good q f (wordUnc s x1 x2) := by
  unfold wordUnc
  simp (maxDischargeDepth := 40) [h]
@[simp] theorem good_readWords (s : State) (x1) (h : Good q f s) : Good q f (readWords s x1).2 := by
  induction x1 generalizing s with
  | nil => exact h
  | cons w r ih =>
    unfold readWords
    split
    · exact ih s h
    · split
      · exact ih _ (good_correctWord s w h)
      · exact good_wordUnc s w _ h
@[simp] theorem good_writeSram (s : State) (x1 x2) (h : Good q f s) : Good q f (writeSram s x1 x2).2 := by
  unfold writeSram
  repeat' split
  all_goals first
    | simp +contextual (maxDischargeDepth := 40) [h]; done
    | rename_i e; have hk := congrArg (fun r : _ × State => Good q f r.2) e; simp +contextual (maxDischargeDepth := 40) [h] at hk; simp +contextual (maxDischargeDepth := 40) [h, hk]
@[simp] theorem good_noteGate (s : State) (x1 x2) (h : Good q f s) : Good q f (noteGate s x1 x2) := by
  unfold noteGate
  simp (maxDischargeDepth := 40) [h]
@[simp] theorem good_noteRefused (s : State) (x1 x2) (h : Good q f s) : Good q f (noteRefused s x1 x2) := by
  unfold noteRefused
  repeat' split
  all_goals simp +contextual (maxDischargeDepth := 40) [h]
@[simp] theorem good_readPiece (s : State) (x1 x2 x3) (h : Good q f s) : Good q f (readPiece s x1 x2 x3).2.2 := by
  unfold readPiece
  dsimp only
  split
  · exact good_noteRefused _ _ _ h
  · split
    · rename_i ch page _
      have hk := good_fetchPage s ch page (x3 != 2048) h
      split <;> rename_i e <;> rw [e] at hk <;> exact hk
    · have hk := good_readWords s (wordsOf x2 x3) h
      split <;> rename_i e <;> rw [e] at hk <;> exact hk
@[simp] theorem good_writePiece (s : State) (x1 x2 x3) (h : Good q f s) : Good q f (writePiece s x1 x2 x3).2 := by
  unfold writePiece
  dsimp only
  repeat' split
  all_goals simp (maxDischargeDepth := 40) [h]
@[simp] theorem good_readPieces (s : State) (x1 x2) (h : Good q f s) : Good q f (readPieces s x1 x2).2.2 := by
  induction x2 generalizing s with
  | nil => exact h
  | cons e r ih =>
    obtain ⟨a, n⟩ := e
    unfold readPieces
    have hk := good_readPiece s x1 a n h
    split <;> rename_i e <;> rw [e] at hk
    · exact ih _ hk
    · exact hk
@[simp] theorem good_writePieces (s : State) (x1 x2 x3) (h : Good q f s) : Good q f (writePieces s x1 x2 x3).2.2 := by
  induction x3 generalizing s x2 with
  | nil => exact h
  | cons e r ih =>
    obtain ⟨a, n⟩ := e
    unfold writePieces
    have hk := good_writePiece s x1 a (x2.take n) h
    split <;> rename_i e <;> rw [e] at hk
    · exact ih _ _ hk
    · exact hk
@[simp] theorem good_memRead (s : State) (x1 x2 x3) (h : Good q f s) : Good q f (memRead s x1 x2 x3).2.2 := by
  unfold memRead
  simp (maxDischargeDepth := 40) [h]
@[simp] theorem good_memWrite (s : State) (x1 x2 x3) (h : Good q f s) : Good q f (memWrite s x1 x2 x3).2.2 := by
  unfold memWrite
  simp (maxDischargeDepth := 40) [h]
@[simp] theorem good_memAtomic (s : State) (x1 x2 x3 x4 x5 x6) (h : Good q f s) : Good q f (memAtomic s x1 x2 x3 x4 x5 x6).2.2 := by
  unfold memAtomic
  dsimp only
  split
  · exact good_noteRefused _ _ _ h
  · split
    · rename_i ch page _
      have hk := good_fetchPage s ch page true h
      split <;> rename_i e <;> rw [e] at hk
      · exact good_stage _ _ _ _ (good_writeBytes _ _ _ hk)
      · exact good_bump _ _ _ hk
    · have hk := good_readWords s (wordsOf x2 x3) h
      split <;> rename_i e <;> rw [e] at hk
      · exact good_writeBytes _ _ _ hk
      · exact hk

/-! ### BhOps -/

@[simp] theorem good_ringCount (s : State) (x1 x2) (h : Good q f s) : Good q f (ringCount s x1 x2) := by
  unfold ringCount
  simp (maxDischargeDepth := 40) [h]
@[simp] theorem good_ringEmpty (s : State) (x1 x2) (h : Good q f s) : Good q f (ringEmpty s x1 x2) := by
  unfold ringEmpty
  dsimp only
  repeat' split
  all_goals simp (maxDischargeDepth := 40) [h]
@[simp] theorem good_takeBuffer (s : State) (x1 x2) (h : Good q f s) : Good q f (takeBuffer s x1 x2).2 := by
  unfold takeBuffer
  dsimp only
  repeat' split
  all_goals
    try have e0 := ‹memRead _ _ _ _ = _›
    try have k0 := good_eq22 (q := q) (f := f) e0 (by first | (simp (maxDischargeDepth := 40) [h]; done))
    first
        | simp +contextual (maxDischargeDepth := 40) [h]; done
        | simp +contextual (maxDischargeDepth := 40) [h, k0]; done
@[simp] theorem good_deliverFrame (s : State) (x1 x2 x3 x4) (h : Good q f s) : Good q f (deliverFrame s x1 x2 x3 x4) := by
  unfold deliverFrame
  repeat' split
  all_goals
    try have e0 := ‹takeBuffer _ _ _ = _›
    try have k0 := good_eq2 (q := q) (f := f) e0 (by first | (simp (maxDischargeDepth := 40) [h]; done))
    try have e1 := ‹memWrite _ _ _ _ = _›
    try have k1 := good_eq22 (q := q) (f := f) e1 (by first | (simp (maxDischargeDepth := 40) [h, k0]; done) | (simp (maxDischargeDepth := 40) [h]; done) | (simp (maxDischargeDepth := 40) [h, k0]; done))
    try have e2 := ‹enqueueExt _ _ _ = _›
    try have k2 := good_eq21 (q := q) (f := f) e2 (by first | (simp (maxDischargeDepth := 40) [h, k0, k1]; done) | (simp (maxDischargeDepth := 40) [h, k0]; done) | (simp (maxDischargeDepth := 40) [h]; done) | (simp (maxDischargeDepth := 40) [h, k0]; done) | (simp (maxDischargeDepth := 40) [h, k1]; done))
    first
        | simp +contextual (maxDischargeDepth := 40) [h]; done
        | simp +contextual (maxDischargeDepth := 40) [h, k0]; done
        | simp +contextual (maxDischargeDepth := 40) [h, k1]; done
        | simp +contextual (maxDischargeDepth := 40) [h, k2]; done
        | simp +contextual (maxDischargeDepth := 40) [h, k0, k1]; done
        | simp +contextual (maxDischargeDepth := 40) [h, k0, k2]; done
        | simp +contextual (maxDischargeDepth := 40) [h, k1, k2]; done
        | simp +contextual (maxDischargeDepth := 40) [h, k0, k1, k2]; done
@[simp] theorem good_tmDrop (s : State) (h : Good q f s) : Good q f (tmDrop s) := by
  unfold tmDrop
  simp (maxDischargeDepth := 40) [h]
@[simp] theorem good_sendPtp (s : State) (x1 x2) (h : Good q f s) : Good q f (sendPtp s x1 x2) := by
  unfold sendPtp
  simp (maxDischargeDepth := 40) [h]
@[simp] theorem good_forwardPtp (s : State) (x1 x2 x3 x4) (h : Good q f s) : Good q f (forwardPtp s x1 x2 x3 x4) := by
  unfold forwardPtp
  dsimp only
  repeat' split
  all_goals simp (maxDischargeDepth := 40) [h]
@[simp] theorem good_ptpIn (s : State) (x1 x2 x3) (h : Good q f s) : Good q f (ptpIn s x1 x2 x3) := by
  unfold ptpIn
  dsimp only
  repeat' split
  all_goals simp +contextual (maxDischargeDepth := 40) [h]
@[simp] theorem good_emitPtp (s : State) (x1 x2 x3) (h : Good q f s) : Good q f (emitPtp s x1 x2 x3).2 := by
  unfold emitPtp
  dsimp only
  repeat' split
  all_goals simp (maxDischargeDepth := 40) [h]
@[simp] theorem good_notePn (s : State) (x1 x2 x3) (h : Good q f s) : Good q f (notePn s x1 x2 x3) := by
  unfold notePn
  simp (maxDischargeDepth := 40) [h]

/-! ### Backhaul -/

@[simp] theorem good_macsecRx (s : State) (x1 x2) (h : Good q f s) : Good q f (macsecRx s x1 x2).2 := by
  unfold macsecRx
  dsimp only
  repeat' split
  all_goals simp (maxDischargeDepth := 40) [h]
@[simp] theorem good_bhDeliver (s : State) (x1 x2 x3) (h : Good q f s) : Good q f (bhDeliver s x1 x2 x3) := by
  unfold bhDeliver
  dsimp only
  repeat' split
  all_goals simp (maxDischargeDepth := 40) [h]
@[simp] theorem good_execBhTxTailWrite (s : State) (x0 x1 x2) (h : Good q f s) : GoodRes q f (execBhTxTailWrite x0 x1 x2 s) := by
  unfold execBhTxTailWrite
  simp (maxDischargeDepth := 40) [h]
@[simp] theorem good_protect (s : State) (x1 x2 x3) (h : Good q f s) : Good q f (protect s x1 x2 x3).2.2 := by
  unfold protect
  dsimp only
  repeat' split
  all_goals simp (maxDischargeDepth := 40) [h]
@[simp] theorem good_sendFrame (s : State) (x1 x2) (h : Good q f s) : Good q f (sendFrame s x1 x2) := by
  unfold sendFrame
  simp (maxDischargeDepth := 40) [h]
@[simp] theorem good_txStatus (s : State) (x1 x2 x3) (h : Good q f s) : Good q f (txStatus s x1 x2 x3).2.2 := by
  unfold txStatus
  dsimp only
  repeat' split
  all_goals
    try have e0 := ‹memRead _ _ _ _ = _›
    try have k0 := good_eq22 (q := q) (f := f) e0 (by first | (simp (maxDischargeDepth := 40) [h]; done))
    try have e1 := ‹protect _ _ _ _ = _›
    try have k1 := good_eq22 (q := q) (f := f) e1 (by first | (simp (maxDischargeDepth := 40) [h, k0]; done) | (simp (maxDischargeDepth := 40) [h]; done) | (simp (maxDischargeDepth := 40) [h, k0]; done))
    first
        | simp +contextual (maxDischargeDepth := 40) [h]; done
        | simp +contextual (maxDischargeDepth := 40) [h, k0]; done
        | simp +contextual (maxDischargeDepth := 40) [h, k1]; done
        | simp +contextual (maxDischargeDepth := 40) [h, k0, k1]; done
@[simp] theorem good_txComplete (s : State) (x1 x2 x3 x4 x5 x6) (h : Good q f s) : Good q f (txComplete s x1 x2 x3 x4 x5 x6) := by
  unfold txComplete
  simp (maxDischargeDepth := 40) [h]
@[simp] theorem good_sendPtpFrame (s : State) (x1 x2) (h : Good q f s) : Good q f (sendPtpFrame s x1 x2) := by
  unfold sendPtpFrame
  dsimp only
  repeat' split
  all_goals
    try have e0 := ‹emitPtp _ _ _ _ = _›
    try have k0 := good_eq2 (q := q) (f := f) e0 (by first | (simp (maxDischargeDepth := 40) [h]; done))
    try have e1 := ‹protect _ _ _ _ = _›
    try have k1 := good_eq22 (q := q) (f := f) e1 (by first | (simp (maxDischargeDepth := 40) [h, k0]; done) | (simp (maxDischargeDepth := 40) [h]; done) | (simp (maxDischargeDepth := 40) [h, k0]; done))
    first
        | simp +contextual (maxDischargeDepth := 40) [h]; done
        | simp +contextual (maxDischargeDepth := 40) [h, k0]; done
        | simp +contextual (maxDischargeDepth := 40) [h, k1]; done
        | simp +contextual (maxDischargeDepth := 40) [h, k0, k1]; done
@[simp] theorem good_execBhRuleWrite (s : State) (x0 x1 x2 x3) (h : Good q f s) : GoodRes q f (execBhRuleWrite x0 x1 x2 x3 s) := by
  unfold execBhRuleWrite
  simp (maxDischargeDepth := 40) [h]
@[simp] theorem good_execBhFlowWrite (s : State) (x0 x1 x2 x3) (h : Good q f s) : GoodRes q f (execBhFlowWrite x0 x1 x2 x3 s) := by
  unfold execBhFlowWrite
  simp (maxDischargeDepth := 40) [h]

/-! ### PwrOps -/

@[simp] theorem good_noteRefusal (s : State) (x1 x2 x3 x4) (h : Good q f s) : Good q f (noteRefusal s x1 x2 x3 x4) := by
  unfold noteRefusal
  simp (maxDischargeDepth := 40) [h]
@[simp] theorem good_noteOther (s : State) (x1 x2 x3) (h : Good q f s) : Good q f (noteOther s x1 x2 x3) := by
  unfold noteOther
  simp (maxDischargeDepth := 40) [h]
@[simp] theorem good_withdrawSet (s : State) (x1 x2) (h : Good q f s) : Good q f (withdrawSet s x1 x2) := by
  unfold withdrawSet
  dsimp only
  repeat' split
  all_goals simp (maxDischargeDepth := 40) [h]
@[simp] theorem good_wakeReq (s : State) (x1 x2 x3) (h : Good q f s) : Good q f (wakeReq s x1 x2 x3) := by
  unfold wakeReq
  dsimp only
  repeat' split
  all_goals simp (maxDischargeDepth := 40) [h]
@[simp] theorem good_signalCore (s : State) (x1) (h : Good q f s) : Good q f (signalCore s x1) := by
  unfold signalCore
  repeat' split
  all_goals simp +contextual (maxDischargeDepth := 40) [h]
@[simp] theorem good_setIp (s : State) (x1 x2) (h : Good q f s) : Good q f (setIp s x1 x2) := by
  unfold setIp
  simp (maxDischargeDepth := 40) [h]
@[simp] theorem good_abortCore (s : State) (x1 x2) (h : Good q f s) : Good q f (abortCore s x1 x2) := by
  unfold abortCore
  simp (maxDischargeDepth := 40) [h]
@[simp] theorem good_abortItem (s : State) (x1 x2) (h : Good q f s) : Good q f (abortItem s x1 x2) := by
  unfold abortItem
  repeat' split
  all_goals simp +contextual (maxDischargeDepth := 40) [h]

/-! ### TickOps -/

@[simp] theorem good_addWin (s : State) (x1 x2) (h : Good q f s) : Good q f (addWin s x1 x2) := h
@[simp] theorem good_inject (s : State) (x1 x2 x3 x4 x5 x6) (h : Good q f s) : Good q f (inject s x1 x2 x3 x4 x5 x6) := by
  induction x6 generalizing s x3 x4 x5 with
  | zero => exact h
  | succ k ih =>
    unfold inject
    dsimp only
    have hk := good_enqueue s x1 (triggerItem (absTick s) x3 x2 x4) h
    repeat' split
    all_goals rename_i e; try rw [‹enqueue _ _ _ = _›] at hk
    all_goals simp at hk
    all_goals simp (maxDischargeDepth := 40) [hk, ih]
@[simp] theorem good_capCheck (s : State) (x1) (h : Good q f s) : Good q f (capCheck s x1) := by
  unfold capCheck
  simp (maxDischargeDepth := 40) [h]
@[simp] theorem good_planIdx (s : State) (x1) (h : Good q f s) : Good q f (planIdx s x1) := by
  unfold planIdx
  dsimp only
  repeat' split
  all_goals simp (maxDischargeDepth := 40) [h]
@[simp] theorem good_settleSwitch (s : State) (x1) (h : Good q f s) : Good q f (settleSwitch s x1) := by
  unfold settleSwitch
  dsimp only
  repeat' split
  all_goals simp (maxDischargeDepth := 40) [h]
@[simp] theorem good_loseTrigger (s : State) (x1) (h : Good q f s) : Good q f (loseTrigger s x1) := by
  unfold loseTrigger
  dsimp only
  repeat' split
  all_goals simp (maxDischargeDepth := 40) [h]
@[simp] theorem good_removeWin (s : State) (x1 x2) (h : Good q f s) : Good q f (removeWin s x1 x2) := h
@[simp] theorem good_overrun (s : State) (x1 x2) (h : Good q f s) : Good q f (overrun s x1 x2) := by
  unfold overrun
  dsimp only
  repeat' split
  all_goals
    first
        | simp +contextual (maxDischargeDepth := 40) [h]; done
@[simp] theorem good_escDrop (s : State) (x1 x2) (h : Good q f s) : Good q f (escDrop s x1 x2) := by
  unfold escDrop
  dsimp only
  repeat' split
  all_goals simp (maxDischargeDepth := 40) [h]
@[simp] theorem good_settleWins (s : State) (x1 x2) (h : Good q f s) : Good q f (settleWins s x1 x2) := by
  induction x2 generalizing s with
  | zero => exact h
  | succ k ih =>
    unfold settleWins
    split
    · exact ih _ (good_overrun _ _ _ h)
    · split
      · exact ih _ (good_escDrop _ _ _ h)
      · exact h
@[simp] theorem good_settleItem (s : State) (x1 x2) (h : Good q f s) : Good q f (settleItem s x1 x2) := by
  unfold settleItem
  dsimp only
  repeat' split
  all_goals
    first
        | simp +contextual (maxDischargeDepth := 40) [h]; done

end Sys2Proof.Machine
end

