-- ==== Sys2Proof/Laws/KeptFabric.lean ====
section
/-!
SUPPORT. `Good` is kept by the operations of the fabric, the time unit, symbols, gain groups, line frames and register reads: one lemma for each (Laws/Kept.lean).
-/
namespace Sys2Proof.Machine

set_option linter.unusedSimpArgs false
variable {q : List Instr} {f : Nat}

/-! ### NocOps -/

@[simp] theorem good_addPkt (s : State) (x1) (h : Good q f s) : Good q f (addPkt s x1) := h
@[simp] theorem good_dropPkt (s : State) (x1) (h : Good q f s) : Good q f (dropPkt s x1) := h
@[simp] theorem good_countMove (s : State) (x1 x2) (h : Good q f s) : Good q f (countMove s x1 x2) := by
  unfold countMove
  dsimp only
  split <;> exact h
@[simp] theorem good_launch (s : State) (x1 x2) (h : Good q f s) : Good q f (launch s x1 x2) := h
@[simp] theorem good_pumpCls (s : State) (x1 x2 x3) (h : Good q f s) : Good q f (pumpCls s x1 x2 x3) := by
  induction x3 generalizing s with
  | zero => exact h
  | succ k ih =>
    unfold pumpCls
    split
    · exact h
    · split
      · exact ih _ (good_launch _ _ _ h)
      · dsimp only
        split
        · exact good_setPort _ _ _ h
        · exact h
@[simp] theorem good_pump (s : State) (x1) (h : Good q f s) : Good q f (pump s x1) := by
  unfold pump
  refine good_foldl (fun s c => pumpCls s x1 c (getPort s x1).wait.length) ?_ [1, 3, 0, 2] _ ?_
  · intro t c ht
    exact good_pumpCls t x1 c _ ht
  · exact good_setPort _ _ _ h
@[simp] theorem good_sendPkt (s : State) (x1 x2) (h : Good q f s) : Good q f (sendPkt s x1 x2) := by
  unfold sendPkt
  dsimp only
  split <;> exact good_pump _ _ (good_setPort _ _ _ h)
@[simp] theorem good_sendRsp (s : State) (x1 x2 x3 x4 x5) (h : Good q f s) : Good q f (sendRsp s x1 x2 x3 x4 x5) := by
  unfold sendRsp
  simp (maxDischargeDepth := 40) [h]
@[simp] theorem good_refusePkt (s : State) (x1 x2) (h : Good q f s) : Good q f (refusePkt s x1 x2) := by
  unfold refusePkt
  simp (maxDischargeDepth := 40) [h]
@[simp] theorem good_stationAnswer (s : State) (x1 x2) (h : Good q f s) : Good q f (stationAnswer s x1 x2) := h
@[simp] theorem good_atDownBundle (s : State) (x1 x2) (h : Good q f s) : Good q f (atDownBundle s x1 x2) := by
  unfold atDownBundle
  simp (maxDischargeDepth := 40) [h]
@[simp] theorem good_atClosedGate (s : State) (x1 x2) (h : Good q f s) : Good q f (atClosedGate s x1 x2) := by
  unfold atClosedGate
  simp (maxDischargeDepth := 40) [h]
@[simp] theorem good_arrive (s : State) (x1 x2 x3 x4) (g : State → Pkt → State) (hg : ∀ t a, Good q f t → Good q f (g t a))
    (h : Good q f s) : Good q f (arrive s x1 x2 x3 x4 g) := by
  unfold arrive
  repeat' split
  all_goals simp (maxDischargeDepth := 40) [h, hg]
@[simp] theorem good_signalDma (s : State) (x1) (h : Good q f s) : Good q f (signalDma s x1) := by
  unfold signalDma
  simp (maxDischargeDepth := 40) [h]
@[simp] theorem good_dmaRefused (s : State) (x1 x2) (h : Good q f s) : Good q f (dmaRefused s x1 x2) := by
  unfold dmaRefused
  simp (maxDischargeDepth := 40) [h]
@[simp] theorem good_answerAgent (s : State) (x1 x2) (h : Good q f s) : Good q f (answerAgent s x1 x2) := by
  unfold answerAgent
  dsimp only
  repeat' split
  all_goals simp (maxDischargeDepth := 40) [h]
@[simp] theorem good_handAnswer (s : State) (x1) (h : Good q f s) : Good q f (handAnswer s x1) := by
  unfold handAnswer
  dsimp only
  repeat' split
  all_goals simp (maxDischargeDepth := 40) [h]
@[simp] theorem good_dropAgent (s : State) (x1 x2) (h : Good q f s) : Good q f (dropAgent s x1 x2) := h
@[simp] theorem good_steer (s : State) (x1 x2 x3 x4 x5) (h : Good q f s) : Good q f (steer s x1 x2 x3 x4 x5) := by
  unfold steer
  dsimp only
  repeat' split
  all_goals simp +contextual (maxDischargeDepth := 40) [h]
@[simp] theorem good_adjustRoutes (s : State) (x1) (h : Good q f s) : Good q f (adjustRoutes s x1) := by
  unfold adjustRoutes
  dsimp only
  repeat' split
  all_goals simp +contextual (maxDischargeDepth := 40) [h]
@[simp] theorem good_planMove (s : State) (h : Good q f s) : Good q f (planMove s) := by
  unfold planMove
  dsimp only
  repeat' split
  all_goals simp +contextual (maxDischargeDepth := 40) [h]
@[simp] theorem good_linkEvt (s : State) (x1 x2 x3) (h : Good q f s) : Good q f (linkEvt s x1 x2 x3) := by
  unfold linkEvt
  simp (maxDischargeDepth := 40) [h]
@[simp] theorem good_bundleDown (s : State) (x1 x2) (h : Good q f s) : Good q f (bundleDown s x1 x2) := by
  unfold bundleDown
  dsimp only
  repeat' split
  all_goals simp +contextual (maxDischargeDepth := 40) [h]
@[simp] theorem good_reinject (s : State) (x1 x2) (h : Good q f s) : Good q f (reinject s x1 x2) := h
@[simp] theorem good_epochGo (s : State) (x1) (h : Good q f s) : Good q f (epochGo s x1) := by
  unfold epochGo
  dsimp only
  repeat' split
  all_goals simp +contextual (maxDischargeDepth := 40) [h]

/-! ### FaultOps -/

@[simp] theorem good_moduleStop (s : State) (h : Good q f s) : Good q f (moduleStop s) := h

/-! ### TimeUnit -/

@[simp] theorem good_setTm (s : State) (x1) (h : Good q f s) : Good q f (setTm s x1) := h
@[simp] theorem good_setPhase (s : State) (x1) (h : Good q f s) : Good q f (setPhase s x1) := by
  unfold setPhase
  simp (maxDischargeDepth := 40) [h]
@[simp] theorem good_phaseMeas (s : State) (x1 x2) (h : Good q f s) : Good q f (phaseMeas s x1 x2) := by
  unfold phaseMeas
  simp (maxDischargeDepth := 40) [h]
@[simp] theorem good_setOwn (s : State) (x1) (h : Good q f s) : Good q f (setOwn s x1) := h
@[simp] theorem good_ownPhase (s : State) (h : Good q f s) : Good q f (ownPhase s) := by
  unfold ownPhase
  dsimp only
  repeat' split
  all_goals simp (maxDischargeDepth := 40) [h]
@[simp] theorem good_ownSync (s : State) (x1 x2) (h : Good q f s) : Good q f (ownSync s x1 x2) := by
  unfold ownSync
  simp (maxDischargeDepth := 40) [h]
@[simp] theorem good_ownMsg (s : State) (x1 x2 x3) (h : Good q f s) : Good q f (ownMsg s x1 x2 x3) := by
  unfold ownMsg
  dsimp only
  repeat' split
  all_goals simp (maxDischargeDepth := 40) [h]
@[simp] theorem good_dropHeld (s : State) (x1) (h : Good q f s) : Good q f (dropHeld s x1) := h
@[simp] theorem good_execTmSnap (s : State) (x0) (h : Good q f s) : GoodRes q f (execTmSnap x0 s) := by
  unfold execTmSnap
  dsimp only
  repeat' split
  all_goals simp (maxDischargeDepth := 40) [h]
@[simp] theorem good_failOsc (s : State) (x1) (h : Good q f s) : Good q f (failOsc s x1) := by
  unfold failOsc
  simp (maxDischargeDepth := 40) [h]
@[simp] theorem good_tmState (s : State) (x1 x2) (h : Good q f s) : Good q f (tmState s x1 x2) := by
  unfold tmState
  simp (maxDischargeDepth := 40) [h]
@[simp] theorem good_refLost (s : State) (x1) (h : Good q f s) : Good q f (refLost s x1) := by
  unfold refLost
  simp (maxDischargeDepth := 40) [h]

/-! ### SymOps -/

@[simp] theorem good_setStream (s : State) (x1 x2 x3) (h : Good q f s) : Good q f (setStream s x1 x2 x3) := h

/-! ### GainOps -/

@[simp] theorem good_gcMeasure (s : State) (x1 x2 x3 x4 x5 x6) (h : Good q f s) : Good q f (gcMeasure s x1 x2 x3 x4 x5 x6) := by
  unfold gcMeasure
  dsimp only
  repeat' split
  all_goals simp (maxDischargeDepth := 40) [h]
@[simp] theorem good_issueCmd (s : State) (x1 x2 x3 x4) (h : Good q f s) : Good q f (issueCmd s x1 x2 x3 x4) := by
  unfold issueCmd
  dsimp only
  repeat' split
  all_goals simp +contextual (maxDischargeDepth := 40) [h]
@[simp] theorem good_gcTick (s : State) (h : Good q f s) : Good q f (gcTick s) := h
@[simp] theorem good_gainReport (s : State) (x1 x2) (h : Good q f s) : Good q f (gainReport s x1 x2) := by
  unfold gainReport
  simp (maxDischargeDepth := 40) [h]
@[simp] theorem good_loseOcc (s : State) (x1 x2) (h : Good q f s) : Good q f (loseOcc s x1 x2) := by
  unfold loseOcc
  simp (maxDischargeDepth := 40) [h]
@[simp] theorem good_nsLoss (s : State) (x1 x2 x3 x4) (h : Good q f s) : Good q f (nsLoss s x1 x2 x3 x4) := by
  unfold nsLoss
  dsimp only
  repeat' split
  all_goals simp +contextual (maxDischargeDepth := 40) [h]
@[simp] theorem good_nsWrite (s : State) (x1 x2) (h : Good q f s) : Good q f (nsWrite s x1 x2) := by
  unfold nsWrite
  simp (maxDischargeDepth := 40) [h]

/-! ### FrameOps -/

@[simp] theorem good_protEvt (s : State) (x1 x2 x3 x4 x5 x6) (h : Good q f s) : Good q f (protEvt s x1 x2 x3 x4 x5 x6) := by
  unfold protEvt
  simp (maxDischargeDepth := 40) [h]
@[simp] theorem good_modeCheck (s : State) (x1 x2) (h : Good q f s) : Good q f (modeCheck s x1 x2) := by
  unfold modeCheck
  dsimp only
  repeat' split
  all_goals simp (maxDischargeDepth := 40) [h]
@[simp] theorem good_egAccept (s : State) (x1 x2) (h : Good q f s) : Good q f (egAccept s x1 x2) := by
  unfold egAccept
  simp (maxDischargeDepth := 40) [h]
@[simp] theorem good_egRefill (s : State) (x1 x2) (h : Good q f s) : Good q f (egRefill s x1 x2) := by
  induction x2 generalizing s with
  | zero => exact h
  | succ k ih =>
    unfold egRefill
    dsimp only
    split
    · exact h
    · split
      · exact ih _ (by simp (maxDischargeDepth := 40) [h])
      · exact h
@[simp] theorem good_pktDeliver (s : State) (x1 x2 x3) (h : Good q f s) : Good q f (pktDeliver s x1 x2 x3) := by
  unfold pktDeliver
  dsimp only
  repeat' split
  all_goals simp (maxDischargeDepth := 40) [h]
@[simp] theorem good_pktChunk (s : State) (x1 x2 x3) (h : Good q f s) : Good q f (pktChunk s x1 x2 x3) := by
  unfold pktChunk
  dsimp only
  repeat' split
  all_goals simp (maxDischargeDepth := 40) [h]
@[simp] theorem good_pktBreak (s : State) (x1) (h : Good q f s) : Good q f (pktBreak s x1) := by
  unfold pktBreak
  simp (maxDischargeDepth := 40) [h]
@[simp] theorem good_writeRecs (s : State) (x1 x2 x3 x4 x5 x6) (h : Good q f s) : Good q f (writeRecs s x1 x2 x3 x4 x5 x6) := by
  induction x6 generalizing s with
  | nil => exact h
  | cons e l ih =>
    obtain ⟨j, r⟩ := e
    unfold writeRecs
    dsimp only
    exact ih _ (by split <;> simp (maxDischargeDepth := 40) [h])
@[simp] theorem good_takeSection (s : State) (x1 x2 x3 x4 x5) (h : Good q f s) : Good q f (takeSection s x1 x2 x3 x4 x5) := by
  unfold takeSection
  simp (maxDischargeDepth := 40) [h]
@[simp] theorem good_takeSections (s : State) (x1 x2 x3 x4 x5) (h : Good q f s) : Good q f (takeSections s x1 x2 x3 x4 x5) := by
  induction x5 generalizing s x4 with
  | nil => exact h
  | cons b r ih => exact ih _ _ (good_takeSection _ _ _ _ _ _ h)

/-! ### RegRead -/

@[simp] theorem good_clearAt (s : State) (x1 x2) (h : Good q f s) : Good q f (clearAt s x1 x2) := by
  unfold clearAt
  split
  · exact good_ctrSet_zero s _ _ h
  · exact h
@[simp] theorem good_readWordsOf (s : State) (x1 x2) (h : Good q f s) : Good q f (readWordsOf s x1 x2).2 := by
  induction x2 generalizing s with
  | nil => exact h
  | cons o r ih =>
    unfold readWordsOf
    dsimp only
    split
    · exact ih _ h
    · exact ih _ (good_takeFree _ _ h)
@[simp] theorem good_regRead (s : State) (x1 x2 x3 x4) (h : Good q f s) : Good q f (regRead s x1 x2 x3 x4).2.2 := by
  unfold regRead
  dsimp only
  split
  · exact h
  · split
    · exact h
    · have hk := good_readWords s (flowWordsOf x2 x3 x4) h
      split
      · rename_i e; exact good_eq2 e hk
      · rename_i e
        exact good_foldl (fun t c => clearAt t x2 c) (fun t c ht => good_clearAt t x2 c ht) _ _ (good_readWordsOf _ _ _ (good_eq2 e hk))
@[simp] theorem good_spaceRead (s : State) (x1 x2 x3) (h : Good q f s) : Good q f (spaceRead s x1 x2 x3).2.2 := by
  unfold spaceRead
  split
  · exact h
  · dsimp only
    split
    · exact good_noteRefused _ _ _ h
    · exact good_regRead _ _ _ _ _ h

end Sys2Proof.Machine
end

