-- ==== Sys2Proof/Laws/KeptCores.lean ====
section
/-!
SUPPORT. `Good` is kept by the operations of the cores, the DMA engines, the Rasp and the jigs: one lemma for each (Laws/Kept.lean).
-/
namespace Sys2Proof.Machine

set_option linter.unusedSimpArgs false
variable {q : List Instr} {f : Nat}

/-! ### CoreOps -/

@[simp] theorem good_scrambleK (s : State) (x1) (h : Good q f s) : Good q f (scrambleK s x1) := kept_fresh 16 h
@[simp] theorem good_dropLock (s : State) (x1) (h : Good q f s) : Good q f (dropLock s x1) := by
  unfold dropLock
  simp (maxDischargeDepth := 40) [h]
@[simp] theorem good_withdrawRlock (s : State) (x1) (h : Good q f s) : Good q f (withdrawRlock s x1) := h
@[simp] theorem good_killYounger (s : State) (x1) (h : Good q f s) : Good q f (killYounger s x1) := by
  unfold killYounger
  simp (maxDischargeDepth := 40) [h]
@[simp] theorem good_releaseLock (s : State) (x1) (h : Good q f s) : Good q f (releaseLock s x1) := by
  unfold releaseLock
  simp (maxDischargeDepth := 40) [h]
@[simp] theorem good_takeException (s : State) (x1 x2 x3 x4) (h : Good q f s) : Good q f (takeException s x1 x2 x3 x4) := by
  unfold takeException
  simp (maxDischargeDepth := 40) [h]
@[simp] theorem good_cleanLine (s : State) (x1 x2) (h : Good q f s) : Good q f (cleanLine s x1 x2) := by
  unfold cleanLine
  dsimp only
  repeat' split
  all_goals simp (maxDischargeDepth := 40) [h]
@[simp] theorem good_discardLine (s : State) (x1 x2) (h : Good q f s) : Good q f (discardLine s x1 x2) := h
@[simp] theorem good_evictFor (s : State) (x1) (h : Good q f s) : Good q f (evictFor s x1) := by
  unfold evictFor
  dsimp only
  repeat' split
  all_goals simp (maxDischargeDepth := 40) [h]
@[simp] theorem good_clearWords (s : State) (x1) (h : Good q f s) : Good q f (clearWords s x1) := h
@[simp] theorem good_holdLine (s : State) (x1 x2 x3) (h : Good q f s) : Good q f (holdLine s x1 x2 x3).2 := by
  have hk := good_evictFor s x1 h
  unfold holdLine clearWords
  exact hk
@[simp] theorem good_fillLine (s : State) (x1 x2) (h : Good q f s) : Good q f (fillLine s x1 x2).2.2 := by
  have hk := good_memRead s (corePart s x1) (x2 / 64 * 64) 64 h
  unfold fillLine
  split <;> rename_i e <;> rw [e] at hk
  · exact good_holdLine _ _ _ _ hk
  · exact hk
@[simp] theorem good_cacheLine (s : State) (x1 x2 x3 x4) (h : Good q f s) : Good q f (cacheLine s x1 x2 x3 x4).2.2 := by
  unfold cacheLine
  dsimp only
  split
  · rename_i e _
    generalize (if e.2.core != x1 then _ else _ : List Nat) = ws
    have hk := good_readWords s ws h
    split
    · exact h
    · split
      · exact good_fillLine _ _ _ (good_bump _ _ _ (good_clearWords _ _ h))
      · split <;> rename_i w <;> rw [w] at hk
        · split
          · exact hk
          · exact good_holdLine _ _ _ _ hk
        · exact hk
  · exact good_fillLine _ _ _ h
@[simp] theorem good_walk (s : State) (x1 x2 x3 x4) (h : Good q f s) : Good q f (walk s x1 x2 x3 x4).2 := by
  induction x4 generalizing s x3 with
  | zero => exact h
  | succ k ih =>
    unfold walk
    have hk := good_cacheLine s x1 (x3 + 8 * fld x2 (12 + 9 * k) 9) 8 false h
    dsimp only
    split <;> rename_i e <;> rw [e] at hk
    · repeat' split
      all_goals first | exact hk | exact ih _ _ hk
    · exact hk
@[simp] theorem good_translate (s : State) (x1 x2 x3) (h : Good q f s) : Good q f (translate s x1 x2 x3).2 := by
  have hk := good_walk s x1 x2 (fld (getCore s x1).ptbr.toNat 12 36 * 4096) 4 h
  unfold translate
  dsimp only
  generalize walk s x1 x2 (fld (getCore s x1).ptbr.toNat 12 36 * 4096) 4 = w at hk ⊢
  obtain ⟨w, t⟩ := w
  split
  · exact h
  · by_cases hc : fld x2 48 16 ≠ (if bit x2 47 then 0xFFFF else 0)
    · rw [if_pos hc]; exact h
    · rw [if_neg hc]
      split
      · rename_i e
        split at e
        · cases e
        · cases w with
          | error x => cases e; exact hk
          | ok x => cases e
      · rename_i u e
        have hu : Good q f u := by
          split at e
          · cases e; exact h
          · cases w with
            | error x => cases e
            | ok x => cases e; exact good_updCore _ _ _ hk
        split
        · exact hu
        · exact hu
@[simp] theorem good_physRead (s : State) (x1 x2 x3 x4) (h : Good q f s) : Good q f (physRead s x1 x2 x3 x4).2.2 := by
  unfold physRead
  split
  · exact good_spaceRead _ _ _ _ h
  · split
    · have hk := good_cacheLine s x1 x2 x3 false h
      split <;> rename_i e <;> rw [e] at hk <;> exact hk
    · exact good_memRead _ _ _ _ h
@[simp] theorem good_coreLoad (s : State) (x1 x2 x3 x4) (h : Good q f s) : Good q f (coreLoad s x1 x2 x3 x4).state := by
  unfold coreLoad
  dsimp only
  repeat' split
  all_goals
    try have e0 := ‹translate _ _ _ _ = _›
    try have k0 := good_eq2 (q := q) (f := f) e0 (by first | (simp (maxDischargeDepth := 40) [h]; done))
    try have e1 := ‹physRead _ _ _ _ _ = _›
    try have k1 := good_eq22 (q := q) (f := f) e1 (by first | (simp (maxDischargeDepth := 40) [h, k0]; done) | (simp (maxDischargeDepth := 40) [h]; done) | (simp (maxDischargeDepth := 40) [h, k0]; done))
    first
        | simp +contextual (maxDischargeDepth := 40) [h]; done
        | simp +contextual (maxDischargeDepth := 40) [h, k0]; done
        | simp +contextual (maxDischargeDepth := 40) [h, k1]; done
        | simp +contextual (maxDischargeDepth := 40) [h, k0, k1]; done
@[simp] theorem good_storeCheck (s : State) (x1 x2 x3 x4) (h : Good q f s) : Good q f (storeCheck s x1 x2 x3 x4).2 := by
  unfold storeCheck
  repeat' split
  all_goals
    try have e0 := ‹translate _ _ _ _ = _›
    try have k0 := good_eq2 (q := q) (f := f) e0 (by first | (simp (maxDischargeDepth := 40) [h]; done))
    first
        | simp +contextual (maxDischargeDepth := 40) [h]; done
        | simp +contextual (maxDischargeDepth := 40) [h, k0]; done
@[simp] theorem good_devStore (s : State) (x1 x2 x3) (h : Good q f s) : Good q f (devStore s x1 x2 x3).2 := by
  unfold devStore
  extract_lets s1
  have hd : Good q f s1 := h
  clear_value s1
  split
  · exact hd
  · dsimp only
    exact good_sendPkt s1 _ _ hd
@[simp] theorem good_physStore (s : State) (x1 x2 x3 x4) (h : Good q f s) : Good q f (physStore s x1 x2 x3 x4).2 := by
  unfold physStore
  split
  · exact good_devStore _ _ _ _ h
  · split
    · have hk := good_cacheLine s x1 x2 x4.length true h
      split <;> rename_i e <;> rw [e] at hk <;> exact hk
    · exact good_memWrite _ _ _ _ h
@[simp] theorem good_noteStoreErr (s : State) (x1 x2 x3) (h : Good q f s) : Good q f (noteStoreErr s x1 x2 x3) := by
  unfold noteStoreErr
  simp (maxDischargeDepth := 40) [h]
@[simp] theorem good_physWrite (s : State) (x1 x2 x3 x4 x5) (h : Good q f s) : Good q f (physWrite s x1 x2 x3 x4 x5) := by
  unfold physWrite
  exact good_noteStoreErr _ _ _ _ (good_physStore _ _ _ _ _ h)
@[simp] theorem good_coreStore (s : State) (x1 x2 x3 x4) (h : Good q f s) : Good q f (coreStore s x1 x2 x3 x4).state := by
  unfold coreStore
  repeat' split
  all_goals
    try have e0 := ‹storeCheck _ _ _ _ _ = _›
    try have k0 := good_eq2 (q := q) (f := f) e0 (by first | (simp (maxDischargeDepth := 40) [h]; done))
    first
        | simp +contextual (maxDischargeDepth := 40) [h]; done
        | simp +contextual (maxDischargeDepth := 40) [h, k0]; done
@[simp] theorem good_fetchCheck (s : State) (x1) (h : Good q f s) : Good q f (fetchCheck s x1).2 := by
  have hk := good_translate s x1 (getCore s x1).pc.toNat .fetch h
  unfold fetchCheck
  dsimp only
  split <;> rename_i e <;> rw [e] at hk
  · exact hk
  · exact hk
  · split
    · exact hk
    · split
      · exact hk
      · rename_i s' _ _
        split <;> rename_i e' <;> exact good_eq22 e' (good_physRead s' x1 _ 4 _ hk)
@[simp] theorem good_retire (s : State) (x1 x2) (h : Good q f s) : Good q f (retire s x1 x2) := h
@[simp] theorem good_goTo (s : State) (x1 x2) (h : Good q f s) : Good q f (goTo s x1 x2) := h
@[simp] theorem good_instr (s : State) (x1 x2 x3 x4 x5) (body : State → IRes) (hb : ∀ t, Good q f t → Good q f (body t).state)
    (h : Good q f s) : Good q f (instr s x1 x2 x3 x4 x5 body) := by
  unfold instr
  have hf := good_fetchCheck s x1 h
  dsimp only
  split
  · exact h
  · split <;> rename_i s' e <;> rw [e] at hf
    · simp (maxDischargeDepth := 40) [hf]
    · have hk := hb s' hf
      repeat' split
      all_goals first
        | simp (maxDischargeDepth := 40) [hf]; done
        | rename_i e; rw [e] at hk; simp at hk; simp (maxDischargeDepth := 40) [hk]

/-! ### HarzarScalar -/

@[simp] theorem good_illegalWord (s : State) (x1 x2) (h : Good q f s) : Good q f (illegalWord s x1 x2) := by
  unfold illegalWord
  simp (maxDischargeDepth := 40) [h]
@[simp] theorem good_atomicBody (s : State) (x1 x2 x3 x4 x5 x6) (h : Good q f s) : Good q f (atomicBody s x1 x2 x3 x4 x5 x6).state := by
  unfold atomicBody
  dsimp only
  repeat' split
  all_goals
    try have e0 := ‹storeCheck _ _ _ _ _ = _›
    try have k0 := good_eq2 (q := q) (f := f) e0 (by first | (simp (maxDischargeDepth := 40) [h]; done))
    try have e1 := ‹memAtomic _ _ _ _ _ _ _ = _›
    try have k1 := good_eq22 (q := q) (f := f) e1 (by first | (simp (maxDischargeDepth := 40) [h, k0]; done) | (simp (maxDischargeDepth := 40) [h]; done) | (simp (maxDischargeDepth := 40) [h, k0]; done))
    first
        | simp +contextual (maxDischargeDepth := 40) [h]; done
        | simp +contextual (maxDischargeDepth := 40) [h, k0]; done
        | simp +contextual (maxDischargeDepth := 40) [h, k1]; done
        | simp +contextual (maxDischargeDepth := 40) [h, k0, k1]; done

/-! ### HarzarSystem -/

@[simp] theorem good_takeAbort (s : State) (x1 x2 x3) (h : Good q f s) : Good q f (takeAbort s x1 x2 x3) := by
  unfold takeAbort
  dsimp only
  repeat' split
  all_goals
    first
        | simp +contextual (maxDischargeDepth := 40) [h]; done
@[simp] theorem good_checkVotes (s : State) (x1) (h : Good q f s) : Good q f (checkVotes s x1) := by
  unfold checkVotes
  repeat' split
  all_goals simp +contextual (maxDischargeDepth := 40) [h]
@[simp] theorem good_completeWait (s : State) (x1 x2 x3) (h : Good q f s) : Good q f (completeWait s x1 x2 x3) := h
@[simp] theorem good_waitBody (s : State) (x1) (h : Good q f s) : Good q f (waitBody s x1).state := by
  unfold waitBody
  dsimp only
  repeat' split
  all_goals simp (maxDischargeDepth := 40) [h]
@[simp] theorem good_srRead (s : State) (x1 x2) (h : Good q f s) : Good q f (srRead s x1 x2).2 := by
  unfold srRead
  dsimp only
  repeat' split
  all_goals simp (maxDischargeDepth := 40) [h]
@[simp] theorem good_srInstr (s : State) (x1 x2 x3 x4 x5 x6 x7 x8) (h : Good q f s) : Good q f (srInstr s x1 x2 x3 x4 x5 x6 x7 x8) := by
  unfold srInstr
  dsimp only
  repeat' split
  all_goals simp +contextual (maxDischargeDepth := 40) [h]
@[simp] theorem good_cacheable (s : State) (x1 x2) (h : Good q f s) : Good q f (cacheable s x1 x2).2 := by
  unfold cacheable
  repeat' split
  all_goals
    try have e0 := ‹translate _ _ _ _ = _›
    try have k0 := good_eq2 (q := q) (f := f) e0 (by first | (simp (maxDischargeDepth := 40) [h]; done))
    first
        | simp +contextual (maxDischargeDepth := 40) [h]; done
        | simp +contextual (maxDischargeDepth := 40) [h, k0]; done
@[simp] theorem good_lineOp (s : State) (x1 x2) (g : State → Nat → State) (hg : ∀ t a, Good q f t → Good q f (g t a))
    (h : Good q f s) : Good q f (lineOp s x1 x2 g).state := by
  have hk := good_cacheable s x1 (gRead (getCore s x1) x2.toNat) h
  unfold lineOp
  split <;> rename_i e <;> rw [e] at hk
  · exact hg _ _ hk
  · exact hk

/-! ### DmaOps -/

@[simp] theorem good_takeSeq (s : State) (x1) (h : Good q f s) : Good q f (takeSeq s x1) := h
@[simp] theorem good_dmaRead (s : State) (x1 x2) (h : Good q f s) : Good q f (dmaRead s x1 x2).2 := by
  induction x2 generalizing s with
  | nil => exact h
  | cons e r ih =>
    obtain ⟨a, n⟩ := e
    unfold dmaRead
    have hs := good_takeSeq s (dmaPort x1) h
    dsimp only
    generalize hw : (if dmaCut (takeSeq s (dmaPort x1)) x1 a then (4, [], takeSeq s (dmaPort x1)) else if targetOf a = .regs then
      spaceRead (takeSeq s (dmaPort x1)) (some (dmaPart s x1)) a n else memRead (takeSeq s (dmaPort x1)) (some (dmaPart s x1)) a n : Nat × List Byte × State) = w
    have hk : Good q f w.2.2 := by
      subst hw
      split
      · exact hs
      · split
        · exact good_spaceRead _ _ _ _ hs
        · exact good_memRead _ _ _ _ hs
    obtain ⟨st, bs, t⟩ := w
    dsimp only
    split
    · exact hk
    · exact ih t hk
@[simp] theorem good_blur (s : State) (x1 x2 x3) (h : Good q f s) : Good q f (blur s x1 x2 x3).2 := by
  unfold blur
  simp (maxDischargeDepth := 40) [h]
@[simp] theorem good_dmaGet (s : State) (x1 x2 x3) (h : Good q f s) : Good q f (dmaGet s x1 x2 x3).2 := by
  unfold dmaGet
  dsimp only
  exact good_blur _ _ _ _ (good_dmaRead _ _ _ h)
@[simp] theorem good_dmaSend (s : State) (x1 x2 x3) (h : Good q f s) : Good q f (dmaSend s x1 x2 x3) := by
  unfold dmaSend
  dsimp only
  repeat' split
  all_goals simp (maxDischargeDepth := 40) [h]
@[simp] theorem good_dmaPieces (s : State) (x1 x2 x3 x4 x5) (h : Good q f s) : Good q f (dmaPieces s x1 x2 x3 x4 x5) := by
  induction x5 generalizing s x3 x4 with
  | zero => unfold dmaPieces; exact h
  | succ k ih =>
    cases x4 with
    | nil => exact h
    | cons e r =>
      obtain ⟨a, n⟩ := e
      rw [dmaPieces]
      split
      · exact ih _ _ _ (good_dmaSend _ _ _ _ h)
      · exact ih _ _ _ (good_dmaSend _ _ _ _ h)
@[simp] theorem good_dmaPut (s : State) (x1 x2 x3) (h : Good q f s) : Good q f (dmaPut s x1 x2 x3) := by
  unfold dmaPut
  refine good_updDma _ _ _ ?_
  split
  · exact good_foldl _ (fun t e ht => good_dmaSend t _ _ _ ht) _ _ h
  · exact good_dmaPieces _ _ _ _ _ _ h
@[simp] theorem good_readFailed (s : State) (x1 x2 x3) (h : Good q f s) : Good q f (readFailed s x1 x2 x3) := h
@[simp] theorem good_moveUnits (s : State) (x1 x2 x3) (h : Good q f s) : Good q f (moveUnits s x1 x2 x3) := by
  induction x3 generalizing s with
  | zero => exact h
  | succ k ih =>
    have fin : ∀ (t : State) (o : Nat) (bs : List Byte) (fa st : Nat) (g : DmaCh → DmaCh), Good q f t →
        Good q f (if st ≠ 0 then readFailed (updDma (if bs.isEmpty then t else dmaPut t x1 o bs) x1 g) x1 fa st
          else moveUnits (updDma (if bs.isEmpty then t else dmaPut t x1 o bs) x1 g) x1 x2 k) := by
      intro t o bs fa st g ht
      have hu : Good q f (updDma (if bs.isEmpty then t else dmaPut t x1 o bs) x1 g) := by
        refine good_updDma _ _ _ ?_
        split
        · exact ht
        · exact good_dmaPut _ _ _ _ ht
      split
      · exact good_readFailed _ _ _ _ hu
      · exact ih _ hu
    unfold moveUnits
    extract_lets x d o mode a w n
    clear_value n w a mode
    split
    · exact h
    · split
      · have hk : Good q f (if mode = 6 then ((fillBytes (ddMpar d) (x.dst0 + o) n, 0, 0), s)
            else dmaGet s x1 (fun i t => a ≤ t && t < a + i) [(o, n)] : (List Byte × Nat × Nat) × State).2 := by
          split
          · exact h
          · exact good_dmaGet _ _ _ _ h
        generalize (if mode = 6 then ((fillBytes (ddMpar d) (x.dst0 + o) n, 0, 0), s)
            else dmaGet s x1 (fun i t => a ≤ t && t < a + i) [(o, n)] : (List Byte × Nat × Nat) × State) = r at hk
        obtain ⟨⟨bs, fa, st⟩, t⟩ := r
        exact fin t o bs fa st _ hk
      · have hk := good_dmaGet s x1 (fun _ _ => false) (unitReads d o) h
        generalize dmaGet s x1 (fun _ _ => false) (unitReads d o) = r at hk
        obtain ⟨⟨bs, fa, st⟩, t⟩ := r
        dsimp only
        split
        · exact good_readFailed _ _ _ _ hk
        · exact ih _ (good_updDma _ _ _ (good_foldl _ (fun u e hu => good_dmaPut u _ _ _ hu) _ _ hk))
@[simp] theorem good_testTrigger (s : State) (x1) (h : Good q f s) : Good q f (testTrigger s x1) := h
@[simp] theorem good_park (s : State) (x1 x2) (h : Good q f s) : Good q f (park s x1 x2) := h
@[simp] theorem good_haltDma (s : State) (x1) (h : Good q f s) : Good q f (haltDma s x1) := by
  unfold haltDma
  simp (maxDischargeDepth := 40) [h]
@[simp] theorem good_dmaSignals (s : State) (x1) (h : Good q f s) : Good q f (dmaSignals s x1) := by
  unfold dmaSignals
  simp (maxDischargeDepth := 40) [h]
@[simp] theorem good_dmaWrite (s : State) (x1 x2 x3) (h : Good q f s) : Good q f (dmaWrite s x1 x2 x3) := by
  unfold dmaWrite
  dsimp only
  repeat' split
  all_goals simp (maxDischargeDepth := 40) [h]
@[simp] theorem good_completeDesc (s : State) (x1 x2 x3 x4 x5) (h : Good q f s) : Good q f (completeDesc s x1 x2 x3 x4 x5) := by
  unfold completeDesc
  simp (maxDischargeDepth := 40) [h]
@[simp] theorem good_setCurs (s : State) (x1) (h : Good q f s) : Good q f (setCurs s x1) := h
@[simp] theorem good_finishDesc (s : State) (x1) (h : Good q f s) : Good q f (finishDesc s x1) := by
  unfold finishDesc
  simp (maxDischargeDepth := 40) [h]

/-! ### JigOps -/

@[simp] theorem good_readHarq (s : State) (x1 x2) (h : Good q f s) : Good q f (readHarq s x1 x2).2.2 := by
  induction x2 generalizing s with
  | nil => exact h
  | cons e r ih =>
    obtain ⟨a, n⟩ := e
    unfold readHarq
    have hk := good_readPiece s (some x1) a n h
    dsimp only
    split
    · have h2 := ih _ hk
      split <;> rename_i e <;> rw [e] at h2 <;> exact h2
    · exact hk
@[simp] theorem good_raiseReserved (s : State) (x1 x2 x3 x4 x5) (h : Good q f s) : Good q f (raiseReserved s x1 x2 x3 x4 x5) := by
  unfold raiseReserved
  dsimp only
  repeat' split
  all_goals simp (maxDischargeDepth := 40) [h]
@[simp] theorem good_endJob (s : State) (x1 x2 x3) (h : Good q f s) : Good q f (endJob s x1 x2 x3) := by
  unfold endJob
  dsimp only
  repeat' split
  all_goals simp (maxDischargeDepth := 40) [h]
@[simp] theorem good_endUnrun (s : State) (x1 x2) (h : Good q f s) : Good q f (endUnrun s x1 x2) := by
  unfold endUnrun
  simp (maxDischargeDepth := 40) [h]
@[simp] theorem good_dropQueued (s : State) (x1) (h : Good q f s) : Good q f (dropQueued s x1) := h
@[simp] theorem good_dropRunning (s : State) (x1) (h : Good q f s) : Good q f (dropRunning s x1) := h
@[simp] theorem good_endQueued (s : State) (x1 x2) (h : Good q f s) : Good q f (endQueued s x1 x2) := by
  unfold endQueued
  repeat' split
  all_goals simp +contextual (maxDischargeDepth := 40) [h]
@[simp] theorem good_freeBytes (s : State) (x1) (h : Good q f s) : Good q f (freeBytes s x1).2 := by
  unfold freeBytes
  simp (maxDischargeDepth := 40) [h]
@[simp] theorem good_maybeWritten (s : State) (x1 x2 x3) (h : Good q f s) : Good q f (maybeWritten s x1 x2 x3) := by
  unfold maybeWritten
  simp (maxDischargeDepth := 40) [h]
@[simp] theorem good_maybeOutputs (s : State) (x1) (h : Good q f s) : Good q f (maybeOutputs s x1) := by
  unfold maybeOutputs
  simp (maxDischargeDepth := 40) [h]
@[simp] theorem good_endStopped (s : State) (x1 x2) (h : Good q f s) : Good q f (endStopped s x1 x2) := by
  unfold endStopped
  simp (maxDischargeDepth := 40) [h]
@[simp] theorem good_failClass (s : State) (x1 x2) (h : Good q f s) : Good q f (failClass s x1 x2) := by
  unfold failClass
  dsimp only
  repeat' split
  all_goals simp +contextual (maxDischargeDepth := 40) [h]
@[simp] theorem good_failJigDomain (s : State) (x1) (h : Good q f s) : Good q f (failJigDomain s x1) := by
  unfold failJigDomain
  dsimp only
  repeat' split
  all_goals simp +contextual (maxDischargeDepth := 40) [h]

end Sys2Proof.Machine
end

