-- ==== Sys2Proof/Laws/KeptModule.lean ====
section
/-!
SUPPORT. `Good` is kept by the operations of power domains, faults, thermal supervision, plans, start-up, the host windows, channels, Dovetail and ticks: one lemma for each (Laws/Kept.lean).
-/
namespace Sys2Proof.Machine

set_option linter.unusedSimpArgs false
variable {q : List Instr} {f : Nat}

/-! ### Power -/

@[simp] theorem good_pwrState (s : State) (x1 x2 x3) (h : Good q f s) : Good q f (pwrState s x1 x2 x3) := by
  unfold pwrState
  simp (maxDischargeDepth := 40) [h]
@[simp] theorem good_resetCore (s : State) (x1) (h : Good q f s) : Good q f (resetCore s x1) := h
@[simp] theorem good_endWaits (s : State) (x1 x2 x3) (h : Good q f s) : Good q f (endWaits s x1 x2 x3) := by
  unfold endWaits
  dsimp only
  repeat' split
  all_goals simp +contextual (maxDischargeDepth := 40) [h]
@[simp] theorem good_acceptEntry (s : State) (x1 x2 x3) (h : Good q f s) : Good q f (acceptEntry s x1 x2 x3) := by
  unfold acceptEntry
  simp (maxDischargeDepth := 40) [h]
@[simp] theorem good_startLevel (s : State) (x1 x2 x3) (h : Good q f s) : Good q f (startLevel s x1 x2 x3) := h
@[simp] theorem good_sleepChannel (s : State) (x1) (h : Good q f s) : Good q f (sleepChannel s x1) := by
  unfold sleepChannel
  dsimp only
  repeat' split
  all_goals simp +contextual (maxDischargeDepth := 40) [h]
@[simp] theorem good_dropGroup (s : State) (x1) (h : Good q f s) : Good q f (dropGroup s x1) := by
  unfold dropGroup
  repeat' split
  all_goals simp +contextual (maxDischargeDepth := 40) [h]
@[simp] theorem good_startWake (s : State) (x1) (h : Good q f s) : Good q f (startWake s x1) := h
@[simp] theorem good_laneOff (s : State) (x1) (h : Good q f s) : Good q f (laneOff s x1) := by
  unfold laneOff
  simp (maxDischargeDepth := 40) [h]
@[simp] theorem good_dropIod (s : State) (x1) (h : Good q f s) : Good q f (dropIod s x1) := by
  unfold dropIod
  dsimp only
  have hb : ∀ t, Good q f t → Good q f ((upFrom 0 4).foldl (fun s n =>
      updBp (bhCtrs.foldl (fun s c => ctrSet s c n 0) s) n fun b => { asym := b.asym, lat := b.lat }) t) := fun t ht =>
    good_foldl _ (fun u n hu => good_updBp _ _ _ (good_foldl _ (fun v c hv => good_ctrSet_zero v c n hv) _ _ hu)) _ _ ht
  have hl : Good q f (((upFrom 0 80).filter fun n => (laneDoms n).contains x1).foldl laneOff s) := good_foldl _ (fun t n ht => good_laneOff t n ht) _ _ h
  generalize ((upFrom 0 80).filter fun n => (laneDoms n).contains x1).foldl laneOff s = t at hl
  have hf : Good q f (if x1 = 18 ∨ x1 = 19 then (upFrom (16 * (x1 - 18)) 16).foldl (fun s m => updFh s m fun x => { x with eg := [], egWait := [] }) t else t) := by
    split
    · exact good_foldl _ (fun u m hu => good_updFh _ _ _ hu) _ _ hl
    · exact hl
  split
  · exact hb _ hf
  · exact hf
@[simp] theorem good_execPwrWakeRequest (s : State) (x0 x1) (h : Good q f s) : GoodRes q f (execPwrWakeRequest x0 x1 s) := by
  unfold execPwrWakeRequest
  simp (maxDischargeDepth := 40) [h]
@[simp] theorem good_zeroSram (s : State) (x1 x2) (h : Good q f s) : Good q f (zeroSram s x1 x2) := by
  unfold zeroSram
  simp (maxDischargeDepth := 40) [h]
@[simp] theorem good_loseBank (s : State) (x1 x2) (h : Good q f s) : Good q f (loseBank s x1 x2) := by
  unfold loseBank
  dsimp only
  exact kept_fresh _ (good_writeBytes _ _ _ (good_freeBytes s x2 h))
@[simp] theorem good_loseBanks (s : State) (x1 x2) (h : Good q f s) : Good q f (loseBanks s x1 x2) := by
  unfold loseBanks
  repeat' split
  all_goals simp +contextual (maxDischargeDepth := 40) [h]
@[simp] theorem good_wakeEmpty (s : State) (x1) (h : Good q f s) : Good q f (wakeEmpty s x1) := by
  unfold wakeEmpty
  dsimp only
  repeat' split
  all_goals simp +contextual (maxDischargeDepth := 40) [h]
@[simp] theorem good_wakeChannel (s : State) (x1 x2) (h : Good q f s) : Good q f (wakeChannel s x1 x2) := by
  unfold wakeChannel
  dsimp only
  split
  · split
    · exact good_setCh _ _ _ (good_foldl _ (fun t c ht => good_ctrSet_zero t c x1 ht) _ _ h)
    · exact good_setCh _ _ _ h
  · exact h
@[simp] theorem good_sigPwr (s : State) (x1) (h : Good q f s) : Good q f (sigPwr s x1) := by
  unfold sigPwr
  repeat' split
  all_goals simp +contextual (maxDischargeDepth := 40) [h]
@[simp] theorem good_wakeLevel (s : State) (x1) (h : Good q f s) : Good q f (wakeLevel s x1) := by
  unfold wakeLevel
  dsimp only
  repeat' split
  all_goals simp (maxDischargeDepth := 40) [h]
@[simp] theorem good_failDomain (s : State) (x1) (h : Good q f s) : Good q f (failDomain s x1) := by
  unfold failDomain
  dsimp only
  repeat' split
  all_goals simp +contextual (maxDischargeDepth := 40) [h]
@[simp] theorem good_levelDone (s : State) (x1) (h : Good q f s) : Good q f (levelDone s x1) := by
  unfold levelDone
  dsimp only
  repeat' split
  all_goals simp (maxDischargeDepth := 40) [h]
@[simp] theorem good_freqSwitch (s : State) (x1) (h : Good q f s) : Good q f (freqSwitch s x1) := by
  unfold freqSwitch
  dsimp only
  repeat' split
  all_goals simp (maxDischargeDepth := 40) [h]

/-! ### Faults -/

@[simp] theorem good_fltCore (s : State) (x1 x2 x3 x4) (h : Good q f s) : Good q f (fltCore s x1 x2 x3 x4) := by
  unfold fltCore
  simp (maxDischargeDepth := 40) [h]
@[simp] theorem good_stopCore (s : State) (x1) (h : Good q f s) : Good q f (stopCore s x1) := by
  unfold stopCore
  simp (maxDischargeDepth := 40) [h]
@[simp] theorem good_setCoreState (s : State) (x1 x2) (h : Good q f s) : Good q f (setCoreState s x1 x2) := h
@[simp] theorem good_settleRunning (s : State) (x1) (h : Good q f s) : Good q f (settleRunning s x1) := by
  unfold settleRunning
  exact good_foldl _ (fun t it ht => good_settleItem t _ it ht) _ _ h
@[simp] theorem good_outCore (s : State) (x1 x2 x3) (h : Good q f s) : Good q f (outCore s x1 x2 x3) := by
  unfold outCore
  simp (maxDischargeDepth := 40) [h]
@[simp] theorem good_setTest (s : State) (x1 x2) (h : Good q f s) : Good q f (setTest s x1 x2) := h
@[simp] theorem good_fltEngine (s : State) (x1 x2) (h : Good q f s) : Good q f (fltEngine s x1 x2) := by
  unfold fltEngine
  simp (maxDischargeDepth := 40) [h]
@[simp] theorem good_outCluster (s : State) (x1) (h : Good q f s) : Good q f (outCluster s x1) := by
  unfold outCluster
  dsimp only
  exact good_foldl _ (fun t c ht => good_outCore _ _ _ _ (good_settleRunning _ _ (good_takeFree t 4 ht))) _ _ h
@[simp] theorem good_endSession (s : State) (x1) (h : Good q f s) : Good q f (endSession s x1) := by
  unfold endSession
  simp (maxDischargeDepth := 40) [h]
@[simp] theorem good_holdTime (s : State) (h : Good q f s) : Good q f (holdTime s) := by
  unfold holdTime
  simp (maxDischargeDepth := 40) [h]
@[simp] theorem good_giveHeld (s : State) (h : Good q f s) : Good q f (giveHeld s) := by
  unfold giveHeld
  dsimp only
  repeat' split
  all_goals simp +contextual (maxDischargeDepth := 40) [h]
@[simp] theorem good_tombReserved (s : State) (x1 x2) (h : Good q f s) : Good q f (tombReserved s x1 x2) := by
  unfold tombReserved
  repeat' split
  all_goals simp +contextual (maxDischargeDepth := 40) [h]
@[simp] theorem good_dropDiePkts (s : State) (x1) (h : Good q f s) : Good q f (dropDiePkts s x1) := by
  unfold dropDiePkts
  dsimp only
  repeat' split
  all_goals simp +contextual (maxDischargeDepth := 40) [h]
@[simp] theorem good_clearDie (s : State) (x1) (h : Good q f s) : Good q f (clearDie s x1) := by
  unfold clearDie
  dsimp only
  refine good_foldl _ (fun t j ht => ?_) _ _ ?_
  · split
    · exact good_tombReserved _ _ _ ht
    · exact ht
  · simp +contextual (maxDischargeDepth := 40) [h]
@[simp] theorem good_markLost (s : State) (x1) (h : Good q f s) : Good q f (markLost s x1) := h
@[simp] theorem good_loseDie (s : State) (x1 x2) (h : Good q f s) : Good q f (loseDie s x1 x2) := by
  unfold loseDie
  dsimp only
  repeat' split
  all_goals simp +contextual (maxDischargeDepth := 40) [h]
@[simp] theorem good_appendLog (s : State) (x1) (h : Good q f s) : Good q f (appendLog s x1) := h

/-! ### Thermal -/

@[simp] theorem good_railsOff (s : State) (h : Good q f s) : Good q f (railsOff s) := by
  unfold railsOff
  simp (maxDischargeDepth := 40) [h]
@[simp] theorem good_thermalTrip (s : State) (x1) (h : Good q f s) : Good q f (thermalTrip s x1) := by
  unfold thermalTrip
  simp (maxDischargeDepth := 40) [h]
@[simp] theorem good_zoneWarn (s : State) (x1) (h : Good q f s) : Good q f (zoneWarn s x1) := by
  unfold zoneWarn
  simp (maxDischargeDepth := 40) [h]
@[simp] theorem good_markBroken (s : State) (x1 x2) (h : Good q f s) : Good q f (markBroken s x1 x2) := by
  unfold markBroken
  simp (maxDischargeDepth := 40) [h]
@[simp] theorem good_breakSensor (s : State) (x1 x2) (h : Good q f s) : Good q f (breakSensor s x1 x2) := by
  unfold breakSensor
  split
  · exact h
  · exact good_thermalTrip _ _ (good_markBroken _ _ _ h)
@[simp] theorem good_fastNow (s : State) (h : Good q f s) : Good q f (fastNow s) := h
@[simp] theorem good_setThr (s : State) (x1 x2) (h : Good q f s) : Good q f (setThr s x1 x2) := by
  unfold setThr
  simp (maxDischargeDepth := 40) [h]
@[simp] theorem good_evalThr (s : State) (x1) (h : Good q f s) : Good q f (evalThr s x1) := by
  unfold evalThr
  simp (maxDischargeDepth := 40) [h]
@[simp] theorem good_applyThCfg (s : State) (h : Good q f s) : Good q f (applyThCfg s) := by
  unfold applyThCfg
  split
  · exact h
  · dsimp only
    refine good_foldl _ (fun t d ht => ?_) _ _ (good_foldl _ (fun t z ht => good_zoneWarn t z ht) _ _ (good_fastNow _ h))
    repeat' split
    all_goals simp (maxDischargeDepth := 40) [ht]
@[simp] theorem good_exhaust (s : State) (x1 x2) (h : Good q f s) : Good q f (exhaust s x1 x2) := by
  unfold exhaust
  simp (maxDischargeDepth := 40) [h]
@[simp] theorem good_leaveLevel (s : State) (x1) (h : Good q f s) : Good q f (leaveLevel s x1) := by
  unfold leaveLevel
  dsimp only
  repeat' split
  all_goals simp (maxDischargeDepth := 40) [h]
@[simp] theorem good_takeNeeds (s : State) (x1 x2) (h : Good q f s) : Good q f (takeNeeds s x1 x2) := h
@[simp] theorem good_takeOut (s : State) (x1) (h : Good q f s) : Good q f (takeOut s x1) := by
  unfold takeOut
  dsimp only
  repeat' split
  all_goals simp +contextual (maxDischargeDepth := 40) [h]
@[simp] theorem good_reserveLow (s : State) (x1) (h : Good q f s) : Good q f (reserveLow s x1) := by
  unfold reserveLow
  simp (maxDischargeDepth := 40) [h]
@[simp] theorem good_replanDom (s : State) (x1 x2) (h : Good q f s) : Good q f (replanDom s x1 x2) := by
  unfold replanDom
  simp (maxDischargeDepth := 40) [h]
@[simp] theorem good_readMons (s : State) (x1) (h : Good q f s) : Good q f (readMons s x1) := by
  unfold readMons
  dsimp only
  repeat' split
  all_goals simp +contextual (maxDischargeDepth := 40) [h]
@[simp] theorem good_storePlan (s : State) (x1 x2 x3) (h : Good q f s) : Good q f (storePlan s x1 x2 x3) := by
  unfold storePlan
  dsimp only
  repeat' split
  all_goals simp +contextual (maxDischargeDepth := 40) [h]

/-! ### PlanOps -/

@[simp] theorem good_placeGrid (s : State) (x1) (h : Good q f s) : Good q f (placeGrid s x1) := h
theorem good_requestSwitch (s t : State) (x1 n : Nat) (h : Good q f s) (e : requestSwitch s x1 = some (n, t)) : Good q f t := by
  unfold requestSwitch at e
  dsimp only at e
  split at e
  · cases e; exact good_setTick _ _ _ h
  · cases e
@[simp] theorem good_autoSwitch (s : State) (x1) (h : Good q f s) : Good q f (autoSwitch s x1) := by
  unfold autoSwitch
  dsimp only
  split
  · split
    · rename_i e; exact good_requestSwitch s _ x1 _ h e
    · exact h
  · exact h

/-! ### Startup -/

@[simp] theorem good_beginStage (s : State) (x1) (h : Good q f s) : Good q f (beginStage s x1) := by
  unfold beginStage
  simp (maxDischargeDepth := 40) [h]
@[simp] theorem good_degrade (s : State) (x1 x2) (h : Good q f s) : Good q f (degrade s x1 x2) := by
  unfold degrade
  simp (maxDischargeDepth := 40) [h]
@[simp] theorem good_logReport (s : State) (x1 x2 x3) (h : Good q f s) : Good q f (logReport s x1 x2 x3) := by
  induction x3 generalizing s x2 with
  | zero => exact h
  | succ k ih =>
    unfold logReport
    dsimp only
    split
    · simp [h]
    · exact ih _ _ (by simp [h])
@[simp] theorem good_report (s : State) (h : Good q f s) : Good q f (report s) := by
  unfold report
  simp (maxDischargeDepth := 40) [h]
@[simp] theorem good_stopStartup (s : State) (x1) (h : Good q f s) : Good q f (stopStartup s x1) := by
  unfold stopStartup
  dsimp only
  repeat' split
  all_goals simp +contextual (maxDischargeDepth := 40) [h]
@[simp] theorem good_calStep (s : State) (x1) (h : Good q f s) : Good q f (calStep s x1) := by
  unfold calStep
  simp (maxDischargeDepth := 40) [h]
@[simp] theorem good_calBundle (s : State) (x0 x2) (h : Good q f s) : Good q f (calBundle x0 s x2) := by
  unfold calBundle
  dsimp only
  repeat' split
  all_goals simp (maxDischargeDepth := 40) [h]
@[simp] theorem good_dieGone (s : State) (x1) (h : Good q f s) : Good q f (dieGone s x1) := by
  unfold dieGone
  dsimp only
  repeat' split
  all_goals simp +contextual (maxDischargeDepth := 40) [h]
@[simp] theorem good_oscStage (s : State) (x1) (h : Good q f s) : Good q f (oscStage s x1) := by
  unfold oscStage
  dsimp only
  repeat' split
  all_goals simp (maxDischargeDepth := 40) [h]
@[simp] theorem good_fallBack (s : State) (h : Good q f s) : Good q f (fallBack s) := by
  unfold fallBack
  simp (maxDischargeDepth := 40) [h]
@[simp] theorem good_bootStage (s : State) (x1 x2) (h : Good q f s) : Good q f (bootStage s x1 x2) := by
  unfold bootStage
  dsimp only
  repeat' split
  all_goals simp (maxDischargeDepth := 40) [h]
@[simp] theorem good_startPoint (s : State) (x1) (h : Good q f s) : Good q f (startPoint s x1) := h
@[simp] theorem good_calStage (s : State) (x1 x2 x3 x4) (h : Good q f s) : Good q f (calStage s x1 x2 x3 x4) := by
  unfold calStage
  dsimp only
  repeat' split
  all_goals simp +contextual (maxDischargeDepth := 40) [h]
@[simp] theorem good_clusterGone (s : State) (x1) (h : Good q f s) : Good q f (clusterGone s x1) := by
  unfold clusterGone
  simp (maxDischargeDepth := 40) [h]
@[simp] theorem good_channelGone (s : State) (x1) (h : Good q f s) : Good q f (channelGone s x1) := by
  unfold channelGone
  simp (maxDischargeDepth := 40) [h]
@[simp] theorem good_sramStage (s : State) (x1 x2 x3 x4) (h : Good q f s) : Good q f (sramStage s x1 x2 x3 x4) := by
  unfold sramStage
  dsimp only
  repeat' split
  all_goals simp +contextual (maxDischargeDepth := 40) [h]
@[simp] theorem good_coreStage (s : State) (x0 x2) (h : Good q f s) : Good q f (coreStage x0 s x2) := by
  unfold coreStage
  dsimp only
  repeat' split
  all_goals simp (maxDischargeDepth := 40) [h]
@[simp] theorem good_testStage (s : State) (x1 x2 x3 x4 x5) (h : Good q f s) : Good q f (testStage s x1 x2 x3 x4 x5) := by
  unfold testStage
  dsimp only
  repeat' split
  all_goals simp +contextual (maxDischargeDepth := 40) [h]
@[simp] theorem good_memStage (s : State) (x1) (h : Good q f s) : Good q f (memStage s x1) := by
  unfold memStage
  repeat' split
  all_goals simp +contextual (maxDischargeDepth := 40) [h]
@[simp] theorem good_readyStage (s : State) (h : Good q f s) : Good q f (readyStage s) := by
  unfold readyStage
  simp (maxDischargeDepth := 40) [h]
@[simp] theorem good_stageBody (s : State) (x1) (h : Good q f s) : GoodOpt q f (stageBody s x1) := by
  unfold stageBody
  dsimp only
  repeat' split
  all_goals simp +contextual (maxDischargeDepth := 40) [h]
@[simp] theorem good_trainLinks (s : State) (h : Good q f s) : Good q f (trainLinks s) := by
  unfold trainLinks
  repeat' split
  all_goals simp +contextual (maxDischargeDepth := 40) [h]
@[simp] theorem good_resetModule (s : State) (h : Good q f s) : Good q f (resetModule s) := by
  unfold resetModule
  simp (maxDischargeDepth := 40) [h]
@[simp] theorem good_writeShutRecord (s : State) (x1) (h : Good q f s) : Good q f (writeShutRecord s x1) := by
  induction x1 generalizing s with
  | zero => exact h
  | succ k ih =>
    unfold writeShutRecord
    split
    · exact h
    · split
      · exact ih _ (by simp (maxDischargeDepth := 40) [h])
      · exact h

/-! ### HostWin -/

@[simp] theorem good_execHostCmdPush (s : State) (x0 x1 x2) (h : Good q f s) : GoodRes q f (execHostCmdPush x0 x1 x2 s) := by
  unfold execHostCmdPush
  simp (maxDischargeDepth := 40) [h]
@[simp] theorem good_execHostRplPop (s : State) (x0 x1 x2) (h : Good q f s) : GoodRes q f (execHostRplPop x0 x1 x2 s) := by
  unfold execHostRplPop
  simp (maxDischargeDepth := 40) [h]
@[simp] theorem good_execHostEvtPop (s : State) (x0 x1 x2) (h : Good q f s) : GoodRes q f (execHostEvtPop x0 x1 x2 s) := by
  unfold execHostEvtPop
  simp (maxDischargeDepth := 40) [h]
@[simp] theorem good_abortHost (s : State) (x1) (h : Good q f s) : Good q f (abortHost s x1) := by
  unfold abortHost
  dsimp only
  repeat' split
  all_goals
    first
        | simp +contextual (maxDischargeDepth := 40) [h]; done
@[simp] theorem good_execHostDoorbell (s : State) (x0 x1 x2) (h : Good q f s) : GoodRes q f (execHostDoorbell x0 x1 x2 s) := by
  unfold execHostDoorbell
  simp (maxDischargeDepth := 40) [h]
@[simp] theorem good_execPartMsgPost (s : State) (x0 x1 x2) (h : Good q f s) : GoodRes q f (execPartMsgPost x0 x1 x2 s) := by
  unfold execPartMsgPost
  simp (maxDischargeDepth := 40) [h]

/-! ### Corward -/

@[simp] theorem good_checked (s : State) (x1 x2) (g : Unit → Reply × State) (hg : Good q f (g ()).2)
    (h : Good q f s) : Good q f (checked s x1 x2 g).2 := by
  unfold checked
  split
  · exact h
  · exact hg
@[simp] theorem good_setShares (s : State) (x1 x2) (h : Good q f s) : Good q f (setShares s x1 x2) := h
@[simp] theorem good_portsOff (s : State) (x1) (h : Good q f s) : Good q f (portsOff s x1) := by
  unfold portsOff
  dsimp only
  repeat' split
  all_goals simp +contextual (maxDischargeDepth := 40) [h]
@[simp] theorem good_stopDma (s : State) (x1) (h : Good q f s) : Good q f (stopDma s x1) := by
  unfold stopDma
  simp (maxDischargeDepth := 40) [h]
@[simp] theorem good_cancelJob (s : State) (x1) (h : Good q f s) : Good q f (cancelJob s x1) := by
  unfold cancelJob
  simp (maxDischargeDepth := 40) [h]
@[simp] theorem good_holdPart (s : State) (x1) (h : Good q f s) : Good q f (holdPart s x1) := by
  unfold holdPart
  dsimp only
  repeat' split
  all_goals simp +contextual (maxDischargeDepth := 40) [h]
@[simp] theorem good_zeroPart (s : State) (x1) (h : Good q f s) : Good q f (zeroPart s x1) := by
  unfold zeroPart
  repeat' split
  all_goals simp +contextual (maxDischargeDepth := 40) [h]
@[simp] theorem good_quietPart (s : State) (x1) (h : Good q f s) : Good q f (quietPart s x1) := by
  unfold quietPart
  simp (maxDischargeDepth := 40) [h]
@[simp] theorem good_retestCore (s : State) (x0 x1 x3) (h : Good q f s) : Good q f (retestCore x0 x1 s x3) := by
  unfold retestCore
  simp (maxDischargeDepth := 40) [h]
@[simp] theorem good_startCore (s : State) (x1 x2 x3) (h : Good q f s) : Good q f (startCore s x1 x2 x3) := h
@[simp] theorem good_setLevel (s : State) (x1 x2 x3) (h : Good q f s) : Good q f (setLevel s x1 x2 x3).2 := by
  unfold setLevel
  dsimp only
  repeat' split
  all_goals simp (maxDischargeDepth := 40) [h]
@[simp] theorem good_setSleep (s : State) (x1 x2 x3) (h : Good q f s) : Good q f (setSleep s x1 x2 x3).2 := by
  unfold setSleep
  dsimp only
  repeat' split
  all_goals simp (maxDischargeDepth := 40) [h]
@[simp] theorem good_setAwake (s : State) (x1 x2) (h : Good q f s) : Good q f (setAwake s x1 x2).2 := by
  unfold setAwake
  dsimp only
  repeat' split
  all_goals simp (maxDischargeDepth := 40) [h]

/-! ### Dma -/

@[simp] theorem good_dmaReg (s : State) (x1 x2) (g : State → State) (hg : ∀ t, Good q f t → Good q f (g t))
    (h : Good q f s) : Good q f (dmaReg s x1 x2 g) := by
  unfold dmaReg
  repeat' split
  all_goals simp (maxDischargeDepth := 40) [h, hg]
@[simp] theorem good_execDmaRun (s : State) (x0 x1 x2) (h : Good q f s) : GoodRes q f (execDmaRun x0 x1 x2 s) := by
  unfold execDmaRun
  dsimp only
  repeat' split
  all_goals simp +contextual (maxDischargeDepth := 40) [h]
@[simp] theorem good_execDmaPause (s : State) (x0 x1 x2) (h : Good q f s) : GoodRes q f (execDmaPause x0 x1 x2 s) := by
  unfold execDmaPause
  dsimp only
  repeat' split
  all_goals simp +contextual (maxDischargeDepth := 40) [h]
@[simp] theorem good_execDmaResume (s : State) (x0 x1 x2) (h : Good q f s) : GoodRes q f (execDmaResume x0 x1 x2 s) := by
  unfold execDmaResume
  dsimp only
  repeat' split
  all_goals simp +contextual (maxDischargeDepth := 40) [h]
@[simp] theorem good_execDmaStop (s : State) (x0 x1 x2) (h : Good q f s) : GoodRes q f (execDmaStop x0 x1 x2 s) := by
  unfold execDmaStop
  refine good_dmaReg s _ _ _ ?_ h
  intro t ht
  dsimp only
  repeat' split
  all_goals simp +contextual (maxDischargeDepth := 40) [ht]
@[simp] theorem good_execDmaDoorbell (s : State) (x0 x1 x2) (h : Good q f s) : GoodRes q f (execDmaDoorbell x0 x1 x2 s) := by
  unfold execDmaDoorbell
  dsimp only
  repeat' split
  all_goals simp +contextual (maxDischargeDepth := 40) [h]
@[simp] theorem good_execDmaChDescWrite (s : State) (x0 x1 x2 x3 x4) (h : Good q f s) : GoodRes q f (execDmaChDescWrite x0 x1 x2 x3 x4 s) := by
  unfold execDmaChDescWrite
  dsimp only
  repeat' split
  all_goals simp +contextual (maxDischargeDepth := 40) [h]
@[simp] theorem good_fetchFailed (s : State) (x1 x2 x3) (h : Good q f s) : Good q f (fetchFailed s x1 x2 x3) := by
  unfold fetchFailed
  simp (maxDischargeDepth := 40) [h]
@[simp] theorem good_badCurs (s : State) (x1) (h : Good q f s) : Good q f (badCurs s x1) := by
  unfold badCurs
  simp (maxDischargeDepth := 40) [h]

/-! ### Dovetail -/

@[simp] theorem good_setG (s : State) (x1 x2 x3) (h : Good q f s) : Good q f (setG s x1 x2 x3) := h
@[simp] theorem good_dvEnq (s : State) (x1 x2 x3) (h : Good q f s) : Good q f (dvEnq s x1 x2 x3) := by
  unfold dvEnq
  dsimp only
  repeat' split
  all_goals
    try have e0 := ‹memRead _ _ _ _ = _›
    try have k0 := good_eq22 (q := q) (f := f) e0 (by first | (simp (maxDischargeDepth := 40) [h]; done))
    try have e1 := ‹enqueue _ _ _ = _›
    try have k1 := good_eq21 (q := q) (f := f) e1 (by first | (simp (maxDischargeDepth := 40) [h, k0]; done) | (simp (maxDischargeDepth := 40) [h]; done) | (simp (maxDischargeDepth := 40) [h, k0]; done))
    first
        | simp +contextual (maxDischargeDepth := 40) [h]; done
        | simp +contextual (maxDischargeDepth := 40) [h, k0]; done
        | simp +contextual (maxDischargeDepth := 40) [h, k1]; done
        | simp +contextual (maxDischargeDepth := 40) [h, k0, k1]; done
@[simp] theorem good_dispatch (s : State) (x1 x2 x3) (h : Good q f s) : Good q f (dispatch s x1 x2 x3) := by
  unfold dispatch
  simp (maxDischargeDepth := 40) [h]
@[simp] theorem good_dvGet (s : State) (x1 x2) (h : Good q f s) : Good q f (dvGet s x1 x2) := by
  unfold dvGet
  extract_lets p t
  have ht : Good q f t := good_foldl _ (fun u it hu => good_settleItem u p it hu) _ _ h
  clear_value t
  split
  · exact good_setG _ _ _ _ ht
  · rename_i it _
    split
    · exact good_setG _ _ _ _ ht
    · have hk := good_memWrite t (some p) (getDvCore t x1).mbox (itemRecord it) ht
      split <;> (have e := ‹memWrite _ _ _ _ = _›; rw [e] at hk; simp (maxDischargeDepth := 40) [hk])
@[simp] theorem good_countBudget (s : State) (x1 x2 x3) (h : Good q f s) : Good q f (countBudget s x1 x2 x3) := by
  unfold countBudget
  repeat' split
  all_goals simp +contextual (maxDischargeDepth := 40) [h]
@[simp] theorem good_dvRel (s : State) (x1 x2 x3 x4) (h : Good q f s) : Good q f (dvRel s x1 x2 x3 x4) := by
  unfold dvRel
  dsimp only
  repeat' split
  all_goals simp (maxDischargeDepth := 40) [h]
@[simp] theorem good_dvCxl (s : State) (x1 x2 x3) (h : Good q f s) : Good q f (dvCxl s x1 x2 x3) := by
  unfold dvCxl
  dsimp only
  repeat' split
  all_goals simp (maxDischargeDepth := 40) [h]
@[simp] theorem good_execDvFlowCfgWrite (s : State) (x0 x1 x2) (h : Good q f s) : GoodRes q f (execDvFlowCfgWrite x0 x1 x2 s) := by
  unfold execDvFlowCfgWrite
  dsimp only
  repeat' split
  all_goals simp (maxDischargeDepth := 40) [h]
@[simp] theorem good_csetEmpty (s : State) (x1 x2 x3 x4) (h : Good q f s) : Good q f (csetEmpty s x1 x2 x3 x4) := by
  unfold csetEmpty
  simp (maxDischargeDepth := 40) [h]
@[simp] theorem good_execDvCsetWrite (s : State) (x0 x1 x2 x3 x4) (h : Good q f s) : GoodRes q f (execDvCsetWrite x0 x1 x2 x3 x4 s) := by
  unfold execDvCsetWrite
  simp (maxDischargeDepth := 40) [h]

/-! ### Tick -/

@[simp] theorem good_nextTick (s : State) (h : Good q f s) : Good q f (nextTick s) := h
@[simp] theorem good_restage (s : State) (x1) (h : Good q f s) : Good q f (restage s x1) := by
  unfold restage
  repeat' split
  all_goals simp +contextual (maxDischargeDepth := 40) [h]
@[simp] theorem good_applyWeights (s : State) (h : Good q f s) : Good q f (applyWeights s) := by
  unfold applyWeights
  dsimp only
  repeat' split
  all_goals simp +contextual (maxDischargeDepth := 40) [h]
@[simp] theorem good_loadTick (s : State) (h : Good q f s) : Good q f (loadTick s) := h
@[simp] theorem good_stopPlan (s : State) (x1) (h : Good q f s) : Good q f (stopPlan s x1) := by
  unfold stopPlan
  simp (maxDischargeDepth := 40) [h]
@[simp] theorem good_thermTick (s : State) (h : Good q f s) : Good q f (thermTick s) := by
  unfold thermTick
  repeat' split
  all_goals simp +contextual (maxDischargeDepth := 40) [h]
@[simp] theorem good_capLevels (s : State) (h : Good q f s) : Good q f (capLevels s) := by
  unfold capLevels
  repeat' split
  all_goals simp +contextual (maxDischargeDepth := 40) [h]
@[simp] theorem good_execTickEvtFlowWrite (s : State) (x0 x1 x2) (h : Good q f s) : GoodRes q f (execTickEvtFlowWrite x0 x1 x2 s) := by
  unfold execTickEvtFlowWrite
  simp (maxDischargeDepth := 40) [h]

/-! ### Panic -/

@[simp] theorem good_setPanic (s : State) (x1 x2) (h : Good q f s) : Good q f (setPanic s x1 x2) := by
  unfold setPanic
  dsimp only
  repeat' split
  all_goals simp (maxDischargeDepth := 40) [h]

end Sys2Proof.Machine
end

