-- ==== Sys2Proof/Laws/KeptDevices.lean ====
section
/-!
SUPPORT. `Good` is kept by the operations of register writes: lanes, frames sent, gain, jig jobs, and writes that come through the fabric: one lemma for each (Laws/Kept.lean).
-/
namespace Sys2Proof.Machine

set_option linter.unusedSimpArgs false
variable {q : List Instr} {f : Nat}

/-! ### Regs -/

@[simp] theorem good_fhPortCtlWrite (s : State) (x1 x2) (h : Good q f s) : Good q f (fhPortCtlWrite s x1 x2) := by
  unfold fhPortCtlWrite
  simp (maxDischargeDepth := 40) [h]
@[simp] theorem good_memRgnW (s : State) (x1 x2) (h : Good q f s) : Good q f (memRgnW s x1 x2) := by
  unfold memRgnW
  simp (maxDischargeDepth := 40) [h]
@[simp] theorem good_nocRouteW (s : State) (x1 x2 x3) (h : Good q f s) : Good q f (nocRouteW s x1 x2 x3) := by
  unfold nocRouteW
  simp (maxDischargeDepth := 40) [h]
@[simp] theorem good_radioW (s : State) (r : Reg) (v : Nat) (h : Good q f s) : Good q f (radioW s r v) := by
  cases r <;> first
    | exact h
    | exact good_fhPortCtlWrite _ _ _ h
@[simp] theorem good_moveW (s : State) (x1 x2) (h : Good q f s) : Good q f (moveW s x1 x2) := by
  unfold moveW
  dsimp only
  repeat' split
  all_goals simp (maxDischargeDepth := 40) [h]
@[simp] theorem good_memW (s : State) (x1 x2) (h : Good q f s) : Good q f (memW s x1 x2) := by
  unfold memW
  dsimp only
  repeat' split
  all_goals simp (maxDischargeDepth := 40) [h]
@[simp] theorem good_timeW (s : State) (r : Reg) (v : Nat) (h : Good q f s) : Good q f (timeW s r v) := by
  unfold timeW
  dsimp only
  repeat' split
  all_goals simp (maxDischargeDepth := 40) [h]
@[simp] theorem good_hwCtlW (s : State) (x1 x2) (h : Good q f s) : Good q f (hwCtlW s x1 x2) := by
  unfold hwCtlW
  dsimp only
  repeat' split
  all_goals
    first
        | simp +contextual (maxDischargeDepth := 40) [h]; done
@[simp] theorem good_adminW (s : State) (r : Reg) (v : Nat) (h : Good q f s) : Good q f (adminW s r v) := by
  cases r <;> first
    | exact h
    | exact good_hwCtlW _ _ _ h
@[simp] theorem good_regW (s : State) (x1 x2) (h : Good q f s) : Good q f (regW s x1 x2) := by
  exact good_adminW _ _ _ (good_timeW _ _ _ (good_memW _ _ _ (good_moveW _ _ _ (good_radioW _ _ _ h))))
@[simp] theorem good_windowW (s : State) (x1 x2 x3) (h : Good q f s) : Good q f (windowW s x1 x2 x3) := by
  have hr : ∀ r : Res, GoodRes q f r → Good q f (match r with | .next t => t | _ => s) := by
    intro r hr
    cases r with
    | next t => exact hr
    | fault e => exact h
    | refused e => exact h
  unfold windowW
  dsimp only
  split
  · exact good_adminW _ _ _ h
  · split
    · exact good_hwCtlW _ _ _ h
    · split
      · exact hr _ (good_execHostDoorbell _ _ _ _ h)
      · split
        · exact hr _ (good_execHostCmdPush _ _ _ _ h)
        · exact h
@[simp] theorem good_windowR (s : State) (x1 x2) (h : Good q f s) : Good q f (windowR s x1 x2).2 := by
  have hr : ∀ r : Res, GoodRes q f r →
      Good q f (match r with | .next t => ((lget (getHost t x1).read 0 0).toNat, t) | _ => (0, s) : Nat × State).2 := by
    intro r hr
    cases r with
    | next t => exact hr
    | fault e => exact h
    | refused e => exact h
  unfold windowR
  dsimp only
  split
  · exact hr _ (good_execHostEvtPop _ _ _ _ h)
  · split
    · exact hr _ (good_execHostRplPop _ _ _ _ h)
    · split
      · exact good_takeFree _ _ h
      · split
        · exact h
        · split <;> first | exact h | exact good_ctrSet_zero _ _ _ h
@[simp] theorem good_hostW (s : State) (x1 x2 x3) (h : Good q f s) : Good q f (hostW s x1 x2 x3) := by
  unfold hostW
  split
  · exact good_windowW _ _ _ _ h
  · exact h
  · exact h
@[simp] theorem good_dmaPartW (s : State) (x1 x2 x3) (h : Good q f s) : Good q f (dmaPartW s x1 x2 x3) := by
  unfold dmaPartW
  repeat' split
  all_goals simp +contextual (maxDischargeDepth := 40) [h]
@[simp] theorem good_execRegWrite (s : State) (x0 x1 x2) (h : Good q f s) : GoodRes q f (execRegWrite x0 x1 x2 s) := by
  unfold execRegWrite
  repeat' split
  all_goals simp +contextual (maxDischargeDepth := 40) [h]

/-! ### Lane -/

@[simp] theorem good_txStart (s : State) (x1 x2) (h : Good q f s) : Good q f (txStart s x1 x2) := by
  unfold txStart
  simp (maxDischargeDepth := 40) [h]
@[simp] theorem good_rxStart (s : State) (x1 x2) (h : Good q f s) : Good q f (rxStart s x1 x2) := by
  unfold rxStart
  simp (maxDischargeDepth := 40) [h]
@[simp] theorem good_txApply (s : State) (x1 x2) (h : Good q f s) : Good q f (txApply s x1 x2) := by
  unfold txApply
  simp (maxDischargeDepth := 40) [h]
@[simp] theorem good_rxApply (s : State) (x1 x2) (h : Good q f s) : Good q f (rxApply s x1 x2) := by
  unfold rxApply
  simp (maxDischargeDepth := 40) [h]
@[simp] theorem good_bpSleep (s : State) (x1 x2) (h : Good q f s) : Good q f (bpSleep s x1 x2) := by
  unfold bpSleep
  dsimp only
  repeat' split
  all_goals simp +contextual (maxDischargeDepth := 40) [h]
@[simp] theorem good_txWrite (s : State) (x1 x2) (h : Good q f s) : Good q f (txWrite s x1 x2) := by
  unfold txWrite
  simp (maxDischargeDepth := 40) [h]
@[simp] theorem good_rxWrite (s : State) (x1 x2) (h : Good q f s) : Good q f (rxWrite s x1 x2) := by
  unfold rxWrite
  simp (maxDischargeDepth := 40) [h]
@[simp] theorem good_heldApply (s : State) (x1 x2) (h : Good q f s) : Good q f (heldApply s x1 x2) := by
  unfold heldApply
  dsimp only
  repeat' split
  all_goals simp (maxDischargeDepth := 40) [h]
@[simp] theorem goodRes_lnWrite (s : State) (x1 x2) (g : State → State) (hg : ∀ t, Good q f t → Good q f (g t))
    (h : Good q f s) : GoodRes q f (lnWrite s x1 x2 g) := by
  unfold lnWrite
  split
  all_goals simp (maxDischargeDepth := 40) [h, hg]
@[simp] theorem good_execLnTxMode (s : State) (x0 x1 x2) (h : Good q f s) : GoodRes q f (execLnTxMode x0 x1 x2 s) := by
  unfold execLnTxMode
  dsimp only
  repeat' split
  all_goals simp +contextual (maxDischargeDepth := 40) [h]
@[simp] theorem good_execLnRxChk (s : State) (x0 x1 x2) (h : Good q f s) : GoodRes q f (execLnRxChk x0 x1 x2 s) := by
  unfold execLnRxChk
  repeat' split
  all_goals simp +contextual (maxDischargeDepth := 40) [h]
@[simp] theorem good_execLnErrInj (s : State) (x0 x1) (h : Good q f s) : GoodRes q f (execLnErrInj x0 x1 s) := by
  unfold execLnErrInj
  dsimp only
  repeat' split
  all_goals simp +contextual (maxDischargeDepth := 40) [h]
@[simp] theorem good_setFecLock (s : State) (x1 x2) (h : Good q f s) : Good q f (setFecLock s x1 x2) := by
  unfold setFecLock
  simp (maxDischargeDepth := 40) [h]
@[simp] theorem good_countCodeword (s : State) (x1 x2) (h : Good q f s) : Good q f (countCodeword s x1 x2) := by
  unfold countCodeword
  dsimp only
  repeat' split
  all_goals simp (maxDischargeDepth := 40) [h]
@[simp] theorem good_fecSearch (s : State) (x1 x2) (h : Good q f s) : Good q f (fecSearch s x1 x2) := by
  unfold fecSearch
  simp (maxDischargeDepth := 40) [h]
@[simp] theorem good_pcsSearch (s : State) (x1 x2 x3) (h : Good q f s) : Good q f (pcsSearch s x1 x2 x3) := by
  unfold pcsSearch
  simp (maxDischargeDepth := 40) [h]

/-! ### FrameTx -/

@[simp] theorem good_nextChunk (s : State) (x1 x2) (h : Good q f s) : Good q f (nextChunk s x1 x2).2 := by
  unfold nextChunk
  dsimp only
  repeat' split
  all_goals simp (maxDischargeDepth := 40) [h]
@[simp] theorem good_sendGap (s : State) (x1 x2) (h : Good q f s) : Good q f (sendGap s x1 x2).2 := by
  unfold sendGap
  dsimp only
  repeat' split
  all_goals simp (maxDischargeDepth := 40) [h]
@[simp] theorem good_laneFrame (s : State) (x1 x2 x3 x4 x5 x6 x7 x8 x9) (h : Good q f s) : Good q f (laneFrame s x1 x2 x3 x4 x5 x6 x7 x8 x9).2 := by
  unfold laneFrame
  dsimp only
  repeat' split
  all_goals simp (maxDischargeDepth := 40) [h]
@[simp] theorem good_execFhEgressWrite (s : State) (x0 x1 x2) (h : Good q f s) : GoodRes q f (execFhEgressWrite x0 x1 x2 s) := by
  unfold execFhEgressWrite
  simp (maxDischargeDepth := 40) [h]
@[simp] theorem good_execStreamEntryWrite (s : State) (x0 x1 x2 x3) (h : Good q f s) : GoodRes q f (execStreamEntryWrite x0 x1 x2 x3 s) := by
  unfold execStreamEntryWrite
  simp (maxDischargeDepth := 40) [h]
@[simp] theorem goodRes_fhWrite (s : State) (x1 x2) (g : State → State) (hg : ∀ t, Good q f t → Good q f (g t))
    (h : Good q f s) : GoodRes q f (fhWrite s x1 x2 g) := by
  unfold fhWrite
  split
  all_goals simp (maxDischargeDepth := 40) [h, hg]
@[simp] theorem good_cmdRej (s : State) (x1) (h : Good q f s) : Good q f (cmdRej s x1) := h
@[simp] theorem good_execFhProtLockout (s : State) (x0 x1 x2) (h : Good q f s) : GoodRes q f (execFhProtLockout x0 x1 x2 s) := by
  unfold execFhProtLockout
  repeat' split
  all_goals simp +contextual (maxDischargeDepth := 40) [h]
@[simp] theorem good_execFhProtForcedSwitch (s : State) (x0 x1 x2) (h : Good q f s) : GoodRes q f (execFhProtForcedSwitch x0 x1 x2 s) := by
  unfold execFhProtForcedSwitch
  repeat' split
  all_goals simp +contextual (maxDischargeDepth := 40) [h]
@[simp] theorem good_execFhProtManualSwitch (s : State) (x0 x1 x2) (h : Good q f s) : GoodRes q f (execFhProtManualSwitch x0 x1 x2 s) := by
  unfold execFhProtManualSwitch
  repeat' split
  all_goals simp +contextual (maxDischargeDepth := 40) [h]
@[simp] theorem good_execFhProtClear (s : State) (x0 x1 x2) (h : Good q f s) : GoodRes q f (execFhProtClear x0 x1 x2 s) := by
  unfold execFhProtClear
  repeat' split
  all_goals simp +contextual (maxDischargeDepth := 40) [h]
@[simp] theorem good_execFhDegThrWrite (s : State) (x0 x1 x2) (h : Good q f s) : GoodRes q f (execFhDegThrWrite x0 x1 x2 s) := by
  unfold execFhDegThrWrite
  dsimp only
  repeat' split
  all_goals simp +contextual (maxDischargeDepth := 40) [h]
@[simp] theorem good_execFhPktFlowWrite (s : State) (x0 x1 x2) (h : Good q f s) : GoodRes q f (execFhPktFlowWrite x0 x1 x2 s) := by
  unfold execFhPktFlowWrite
  dsimp only
  repeat' split
  all_goals simp +contextual (maxDischargeDepth := 40) [h]

/-! ### Gain -/

@[simp] theorem good_gcStepItem (s : State) (x1 x2 x3) (h : Good q f s) : Good q f (gcStepItem s x1 x2 x3) := by
  unfold gcStepItem
  simp (maxDischargeDepth := 40) [h]
@[simp] theorem good_ackMissed (s : State) (x1 x2 x3) (h : Good q f s) : Good q f (ackMissed s x1 x2 x3) := by
  unfold ackMissed
  simp (maxDischargeDepth := 40) [h]
@[simp] theorem good_execGcGrpCfg0Write (s : State) (x0 x1 x2) (h : Good q f s) : GoodRes q f (execGcGrpCfg0Write x0 x1 x2 s) := by
  unfold execGcGrpCfg0Write
  simp (maxDischargeDepth := 40) [h]
@[simp] theorem good_settleFix (s : State) (x1) (h : Good q f s) : Good q f (settleFix s x1) := by
  unfold settleFix
  dsimp only
  repeat' split
  all_goals simp (maxDischargeDepth := 40) [h]
@[simp] theorem good_fixCmd (s : State) (x1 x2) (h : Good q f s) : Good q f (fixCmd s x1 x2) := by
  unfold fixCmd
  simp (maxDischargeDepth := 40) [h]
@[simp] theorem good_enterFix (s : State) (x1 x2) (h : Good q f s) : Good q f (enterFix s x1 x2) := by
  unfold enterFix
  dsimp only
  repeat' split
  all_goals simp +contextual (maxDischargeDepth := 40) [h]
@[simp] theorem good_stopBurst (s : State) (x1) (h : Good q f s) : Good q f (stopBurst s x1) := h
@[simp] theorem good_capture (s : State) (x1 x2 x3 x4) (h : Good q f s) : Good q f (capture s x1 x2 x3 x4) := by
  unfold capture
  dsimp only
  repeat' split
  all_goals simp +contextual (maxDischargeDepth := 40) [h]
@[simp] theorem good_execNsCtxWrite (s : State) (x0 x1 x2) (h : Good q f s) : GoodRes q f (execNsCtxWrite x0 x1 x2 s) := by
  unfold execNsCtxWrite
  simp (maxDischargeDepth := 40) [h]

/-! ### Jig -/

@[simp] theorem good_descError (s : State) (x1 x2 x3 x4) (h : Good q f s) : Good q f (descError s x1 x2 x3 x4) := by
  unfold descError
  simp (maxDischargeDepth := 40) [h]
@[simp] theorem good_queueJob (s : State) (x1) (h : Good q f s) : Good q f (queueJob s x1) := by
  unfold queueJob
  simp (maxDischargeDepth := 40) [h]
@[simp] theorem good_submitChecked (s : State) (x1) (h : Good q f s) : Good q f (submitChecked s x1) := by
  unfold submitChecked
  simp (maxDischargeDepth := 40) [h]
@[simp] theorem good_submitJob (s : State) (x1 x2 x3 x4) (h : Good q f s) : Good q f (submitJob s x1 x2 x3 x4) := by
  unfold submitJob
  repeat' split
  all_goals first
    | simp +contextual (maxDischargeDepth := 40) [h]; done
    | rename_i e; have hk := congrArg (fun r : _ × _ × State => Good q f r.2.2) e; simp +contextual (maxDischargeDepth := 40) [h] at hk; simp +contextual (maxDischargeDepth := 40) [h, hk]
@[simp] theorem good_execJgSubmit (s : State) (x0 x1 x2 x3 x4) (h : Good q f s) : GoodRes q f (execJgSubmit x0 x1 x2 x3 x4 s) := by
  unfold execJgSubmit
  simp (maxDischargeDepth := 40) [h]
theorem good_nextJob (s t : State) (x1 x2 : Nat) (j : JgJob) (h : Good q f s) (e : nextJob s x1 x2 = some (j, t)) : Good q f t := by
  unfold nextJob at e
  dsimp only at e
  split at e
  · cases e; exact h
  · split at e
    · cases e
    · split at e
      · cases e; exact h
      · simp only [Option.map_eq_some_iff] at e
        obtain ⟨_, _, e⟩ := e
        cases e; exact h
@[simp] theorem good_jobOut (s : State) (x1 x2 x3 x4) (h : Good q f s) : Good q f (jobOut s x1 x2 x3 x4).2 := by
  unfold jobOut
  dsimp only
  repeat' split
  all_goals simp (maxDischargeDepth := 40) [h]
@[simp] theorem good_jobCombine (s : State) (x1 x2 x3 x4) (h : Good q f s) : Good q f (jobCombine s x1 x2 x3 x4).2.2 := by
  unfold jobCombine
  dsimp only
  repeat' split
  all_goals simp (maxDischargeDepth := 40) [h]
@[simp] theorem good_completeJob (s : State) (x1 x2) (h : Good q f s) : Good q f (completeJob s x1 x2) := by
  have pair : ∀ {α β : Type} {a b : α × β × State} {c : Prop} [Decidable c], Good q f a.2.2 → Good q f b.2.2 → Good q f (if c then a else b).2.2 := by
    intro _ _ a b c _ ha hb
    split
    · exact ha
    · exact hb
  unfold completeJob
  extract_lets j d c retry lact bad hn it stop
  have h1 := good_memRead s (some j.part) (jdIn d) (inBytes d c) h
  split <;> rename_i e1 <;> rw [e1] at h1
  · rename_i rx s1
    have h2 := pair (c := jdComb d c = true) (good_readHarq s1 j.part (pieces (jdHin d) hn (hn + 1)) h1) (b := (some [], false, s1)) h1
    split <;> rename_i e2 <;> rw [e2] at h2
    · exact good_endJob _ _ _ _ h2
    · rename_i old hunc s2
      have h3 := pair (c := (jdComb d c || jdHst d c) = true) (good_jobCombine s2 d c old rx h2) (b := ([], false, s2)) h2
      split
      rename_i hb sat s3 e3
      rw [e3] at h3
      extract_lets fin
      have h4 := good_jobOut s3 d c rx x2 h3
      split
      rename_i out s4 e4
      rw [e4] at h4
      have h5 := good_memWrite s4 (some j.part) (jdOut d) out h4
      split <;> rename_i e5 <;> rw [e5] at h5
      · rename_i s5
        have h6 := pair (c := jdHst d c = true) (good_memWrite s5 (some j.part) (jdHout d) hb h5) (b := (0, 0, s5)) h5
        split <;> rename_i e6 <;> rw [e6] at h6
        · exact good_endJob _ _ _ _ h6
        · exact good_endJob _ _ _ _ (good_maybeOutputs _ _ h6)
      · exact good_endJob _ _ _ _ (good_maybeOutputs _ _ h5)
  · exact good_endJob _ _ _ _ h1
@[simp] theorem good_execJgCancel (s : State) (x0 x1 x2 x3 x4) (h : Good q f s) : GoodRes q f (execJgCancel x0 x1 x2 x3 x4 s) := by
  unfold execJgCancel
  dsimp only
  repeat' split
  all_goals simp (maxDischargeDepth := 40) [h]

/-! ### DevWrite -/

@[simp] theorem good_resState (r : Res) (s : State) (hr : GoodRes q f r) (h : Good q f s) : Good q f (resState r s) := by
  cases r with
  | next t => exact hr
  | fault e => exact h
  | refused e => exact h
@[simp] theorem good_lnCtlW (s : State) (x1 x2 x3) (h : Good q f s) : Good q f (lnCtlW s x1 x2 x3) := by
  unfold lnCtlW
  simp (maxDischargeDepth := 40) [h]
@[simp] theorem good_protW (s : State) (x1 x2 x3) (h : Good q f s) : Good q f (protW s x1 x2 x3) := by
  unfold protW
  dsimp only
  repeat' split
  all_goals simp (maxDischargeDepth := 40) [h]
@[simp] theorem good_dmaCtlW (s : State) (x1 x2 x3 x4) (h : Good q f s) : Good q f (dmaCtlW s x1 x2 x3 x4) := by
  unfold dmaCtlW
  simp (maxDischargeDepth := 40) [h]
@[simp] theorem good_plainW (s : State) (x1 x2 x3) (h : Good q f s) : Good q f (plainW s x1 x2 x3) := by
  unfold plainW
  simp (maxDischargeDepth := 40) [h]
@[simp] theorem good_timeStore (s : State) (x1 x2 x3) (h : Good q f s) : Good q f (timeStore s x1 x2 x3) := by
  unfold timeStore
  dsimp only
  repeat' split
  all_goals simp (maxDischargeDepth := 40) [h]
@[simp] theorem good_laneStore (s : State) (x1 x2 x3) (h : Good q f s) : Good q f (laneStore s x1 x2 x3) := by
  unfold laneStore
  dsimp only
  repeat' split
  all_goals simp (maxDischargeDepth := 40) [h]
@[simp] theorem good_framerStore (s : State) (x1 x2 x3) (h : Good q f s) : Good q f (framerStore s x1 x2 x3) := by
  unfold framerStore
  dsimp only
  repeat' split
  all_goals simp (maxDischargeDepth := 40) [h]
@[simp] theorem good_gainStore (s : State) (x1 x2 x3) (h : Good q f s) : Good q f (gainStore s x1 x2 x3) := by
  unfold gainStore
  dsimp only
  repeat' split
  all_goals simp (maxDischargeDepth := 40) [h]
@[simp] theorem good_noseStore (s : State) (x1 x2 x3) (h : Good q f s) : Good q f (noseStore s x1 x2 x3) := by
  unfold noseStore
  simp (maxDischargeDepth := 40) [h]
@[simp] theorem good_jigStore (s : State) (x1 x2 x3 x4) (h : Good q f s) : Good q f (jigStore s x1 x2 x3 x4) := by
  unfold jigStore
  simp (maxDischargeDepth := 40) [h]
@[simp] theorem good_dvStore (s : State) (x1 x2 x3 x4) (h : Good q f s) : Good q f (dvStore s x1 x2 x3 x4) := by
  unfold dvStore
  simp (maxDischargeDepth := 40) [h]
@[simp] theorem good_fabricStore (s : State) (x1 x2 x3 x4) (h : Good q f s) : Good q f (fabricStore s x1 x2 x3 x4) := by
  unfold fabricStore
  dsimp only
  repeat' split
  all_goals simp (maxDischargeDepth := 40) [h]
@[simp] theorem good_dmaStore (s : State) (x1 x2 x3 x4) (h : Good q f s) : Good q f (dmaStore s x1 x2 x3 x4) := by
  unfold dmaStore
  dsimp only
  repeat' split
  all_goals simp (maxDischargeDepth := 40) [h]
@[simp] theorem good_memStore (s : State) (x1 x2 x3 x4) (h : Good q f s) : Good q f (memStore s x1 x2 x3 x4) := by
  unfold memStore
  repeat' split
  all_goals simp +contextual (maxDischargeDepth := 40) [h]
@[simp] theorem good_sramStore (s : State) (x1 x2 x3) (h : Good q f s) : Good q f (sramStore s x1 x2 x3) := by
  unfold sramStore
  dsimp only
  repeat' split
  all_goals simp (maxDischargeDepth := 40) [h]
@[simp] theorem good_panicStore (s : State) (x1 x2 x3) (h : Good q f s) : Good q f (panicStore s x1 x2 x3) := by
  unfold panicStore
  simp (maxDischargeDepth := 40) [h]
@[simp] theorem good_bhStore (s : State) (x1 x2 x3) (h : Good q f s) : Good q f (bhStore s x1 x2 x3) := by
  unfold bhStore
  dsimp only
  repeat' split
  all_goals simp (maxDischargeDepth := 40) [h]
@[simp] theorem good_mcStore (s : State) (x1 x2 x3) (h : Good q f s) : Good q f (mcStore s x1 x2 x3) := by
  unfold mcStore
  simp (maxDischargeDepth := 40) [h]
@[simp] theorem good_powerStore (s : State) (x1 x2 x3) (h : Good q f s) : Good q f (powerStore s x1 x2 x3) := by
  unfold powerStore
  dsimp only
  repeat' split
  all_goals simp (maxDischargeDepth := 40) [h]
@[simp] theorem good_thermStore (s : State) (x1 x2 x3) (h : Good q f s) : Good q f (thermStore s x1 x2 x3) := by
  unfold thermStore
  repeat' split
  all_goals simp +contextual (maxDischargeDepth := 40) [h]
@[simp] theorem good_regStore (s : State) (x1 x2 x3 x4) (h : Good q f s) : Good q f (regStore s x1 x2 x3 x4) := by
  unfold regStore
  repeat' split
  all_goals simp +contextual (maxDischargeDepth := 40) [h]
@[simp] theorem good_storeWords (s : State) (x1 x2 x3 x4 x5) (h : Good q f s) : Good q f (storeWords s x1 x2 x3 x4 x5).2 := by
  induction x5 generalizing s with
  | nil => exact h
  | cons k r ih =>
    unfold storeWords
    dsimp only
    refine ih _ ?_
    split
    · exact good_regStore _ _ _ _ _ (good_done _ h)
    · exact good_done _ h
@[simp] theorem good_devWrite (s : State) (x1 x2 x3 x4) (h : Good q f s) : Good q f (devWrite s x1 x2 x3 x4).2 := by
  unfold devWrite
  split
  · exact h
  · split
    · exact good_resState _ _ (good_execFhEgressWrite _ _ _ _ h) h
    · exact good_storeWords _ _ _ _ _ _ h

/-! ### Fabric -/

@[simp] theorem good_pktRead (s : State) (x1) (h : Good q f s) : Good q f (pktRead s x1).2.2 := by
  unfold pktRead
  split
  · exact good_regRead _ _ _ _ _ h
  · exact good_memRead _ _ _ _ h
@[simp] theorem good_pktWrite (s : State) (x1) (h : Good q f s) : Good q f (pktWrite s x1).2 := by
  unfold pktWrite
  split
  · exact good_devWrite _ _ _ _ _ h
  · exact good_memWrite _ _ _ _ h

end Sys2Proof.Machine
end

