-- ==== Sys2Proof/Laws/KeptUnits.lean ====
section
/-!
SUPPORT. `Good` is kept by the operations of the remaining units: flash, frames received, vectors, links, memory control and the Rasp: one lemma for each (Laws/Kept.lean).
-/
namespace Sys2Proof.Machine

set_option linter.unusedSimpArgs false
variable {q : List Instr} {f : Nat}

/-! ### FrameRx -/

@[simp] theorem good_noteStart (s : State) (x1 x2 x3) (h : Good q f s) : Good q f (noteStart s x1 x2 x3) := h
@[simp] theorem good_enterIf (s : State) (x1 x2 x3 x4 x5) (h : Good q f s) : Good q f (enterIf s x1 x2 x3 x4 x5) := h
@[simp] theorem good_searchFaw (s : State) (x1 x2 x3 x4 x5) (h : Good q f s) : Good q f (searchFaw s x1 x2 x3 x4 x5) := by
  unfold searchFaw
  dsimp only
  repeat' split
  all_goals simp (maxDischargeDepth := 40) [h]
@[simp] theorem good_inFrameFaw (s : State) (x1 x2 x3) (h : Good q f s) : Good q f (inFrameFaw s x1 x2 x3) := by
  unfold inFrameFaw
  dsimp only
  repeat' split
  all_goals simp (maxDischargeDepth := 40) [h]
@[simp] theorem good_cancelCmds (s : State) (x1) (h : Good q f s) : Good q f (cancelCmds s x1) := by
  unfold cancelCmds
  simp (maxDischargeDepth := 40) [h]
@[simp] theorem good_srFilter (s : State) (x1 x2 x3 x4) (h : Good q f s) : Good q f (srFilter s x1 x2 x3 x4) := by
  unfold srFilter
  simp (maxDischargeDepth := 40) [h]
@[simp] theorem good_deliverCopy (s : State) (x1 x2 x3 x4) (h : Good q f s) : Good q f (deliverCopy s x1 x2 x3 x4) := by
  unfold deliverCopy
  simp (maxDischargeDepth := 40) [h]
@[simp] theorem good_sleepSwitched (s : State) (x1 x2) (h : Good q f s) : Good q f (sleepSwitched s x1 x2) := by
  unfold sleepSwitched
  simp (maxDischargeDepth := 40) [h]
@[simp] theorem good_setLags (s : State) (x1 x2 x3) (h : Good q f s) : Good q f (setLags s x1 x2 x3) := by
  unfold setLags
  dsimp only
  refine good_foldl _ (fun t l ht => ?_) _ _ h
  split
  · simp [ht]
  · exact ht
@[simp] theorem good_integrate (s : State) (x1 x2 x3 x4) (h : Good q f s) : Good q f (integrate s x1 x2 x3 x4) := by
  unfold integrate
  simp (maxDischargeDepth := 40) [h]
@[simp] theorem good_evalLane (s : State) (x1 x2) (h : Good q f s) : Good q f (evalLane s x1 x2) := by
  unfold evalLane
  dsimp only
  repeat' split
  all_goals simp +contextual (maxDischargeDepth := 40) [h]

/-! ### Operands -/

@[simp] theorem good_vinstr (s : State) (x1 x2 x3 x4 x5 x6 x7) (body : State → Core → IRes)
    (hb : ∀ t x, Good q f t → Good q f (body t x).state) (h : Good q f s) : Good q f (vinstr s x1 x2 x3 x4 x5 x6 x7 body) := by
  unfold vinstr
  refine good_instr _ _ _ _ _ _ _ (fun t ht => ?_) h
  have hk := hb t (getCore t x1) ht
  dsimp only
  split
  · exact ht
  · split
    · rename_i e; rw [e] at hk; simp at hk; simp [hk]
    · exact hk
@[simp] theorem good_putV (s : State) (x1 x2 x3 x4) (h : Good q f s) : Good q f (putV s x1 x2 x3 x4) := h
@[simp] theorem good_putA (s : State) (x1 x2 x3 x4) (h : Good q f s) : Good q f (putA s x1 x2 x3 x4) := h
@[simp] theorem good_putP (s : State) (x1 x2 x3 x4) (h : Good q f s) : Good q f (putP s x1 x2 x3 x4) := h
@[simp] theorem good_putG (s : State) (x1 x2 x3) (h : Good q f s) : Good q f (putG s x1 x2 x3) := h
@[simp] theorem good_elemwise (s : State) (x1 x2 x3 x4 x5 x6 x7) (h : Good q f s) : Good q f (elemwise s x1 x2 x3 x4 x5 x6 x7) := h
@[simp] theorem good_lanewise (s : State) (x1 x2 x3 x4 x5 x6 x7) (h : Good q f s) : Good q f (lanewise s x1 x2 x3 x4 x5 x6 x7) := h
@[simp] theorem good_vecLoad (s : State) (x1 x2 x3 x4) (h : Good q f s) : Good q f (vecLoad s x1 x2 x3 x4).state := by
  unfold vecLoad
  repeat' split
  all_goals
    try have e0 := ‹translate _ _ _ _ = _›
    try have k0 := good_eq2 (q := q) (f := f) e0 (by first | (simp (maxDischargeDepth := 40) [h]; done))
    first
        | simp +contextual (maxDischargeDepth := 40) [h]; done
        | simp +contextual (maxDischargeDepth := 40) [h, k0]; done
@[simp] theorem good_vecStoreCheck (s : State) (x1 x2 x3 x4) (h : Good q f s) : Good q f (vecStoreCheck s x1 x2 x3 x4).2 := by
  unfold vecStoreCheck
  repeat' split
  all_goals
    try have e0 := ‹storeCheck _ _ _ _ _ = _›
    try have k0 := good_eq2 (q := q) (f := f) e0 (by first | (simp (maxDischargeDepth := 40) [h]; done))
    first
        | simp +contextual (maxDischargeDepth := 40) [h]; done
        | simp +contextual (maxDischargeDepth := 40) [h, k0]; done
@[simp] theorem good_loadLines (s : State) (x1 x2 x3 x4 x5) (h : Good q f s) : Good q f (loadLines s x1 x2 x3 x4 x5).state := by
  induction x5 generalizing s x4 with
  | nil => exact h
  | cons e r ih =>
    obtain ⟨o, n⟩ := e
    unfold loadLines
    have hk := good_vecLoad s x1 (x2 + o) n x3 h
    split <;> rename_i e <;> rw [e] at hk
    · exact hk
    · exact ih _ _ hk
@[simp] theorem good_loadEl (s : State) (x1 x2 x3 x4) (h : Good q f s) : Good q f (loadEl s x1 x2 x3 x4).state := by
  unfold loadEl
  repeat' split
  all_goals simp +contextual (maxDischargeDepth := 40) [h]
@[simp] theorem good_checkLines (s : State) (x1 x2 x3 x4) (h : Good q f s) : Good q f (checkLines s x1 x2 x3 x4).2 := by
  induction x4 generalizing s with
  | nil => exact h
  | cons e r ih =>
    obtain ⟨o, n⟩ := e
    unfold checkLines
    have hk := good_vecStoreCheck s x1 (x2 + o) n x3 h
    split <;> rename_i e <;> rw [e] at hk
    · exact hk
    · exact ih _ hk
@[simp] theorem good_checkEl (s : State) (x1 x2 x3 x4) (h : Good q f s) : Good q f (checkEl s x1 x2 x3 x4).2 := by
  unfold checkEl
  repeat' split
  all_goals simp +contextual (maxDischargeDepth := 40) [h]
@[simp] theorem good_writeParts (s : State) (x1 x2 x3 x4 x5) (h : Good q f s) : Good q f (writeParts s x1 x2 x3 x4 x5).2 := by
  induction x5 generalizing s with
  | nil => exact h
  | cons e r ih =>
    obtain ⟨o, n⟩ := e
    unfold writeParts
    have hk := good_storeCheck s x1 (x2 + o) n x3 h
    split <;> rename_i e <;> rw [e] at hk
    · exact ih _ hk
    · exact ih _ (good_physStore _ _ _ _ _ hk)
@[simp] theorem good_writeLines (s : State) (x1 x2 x3 x4 x5) (h : Good q f s) : Good q f (writeLines s x1 x2 x3 x4 x5) := by
  unfold writeLines
  exact good_noteStoreErr _ _ _ _ (good_writeParts _ _ _ _ _ _ h)
@[simp] theorem good_checkStores (s : State) (x1 x2) (h : Good q f s) : Good q f (checkStores s x1 x2).2 := by
  induction x2 generalizing s with
  | nil => exact h
  | cons e r ih =>
    unfold checkStores
    have hk := good_checkEl s x1 e.va e.bs.length e.al h
    split <;> rename_i e <;> rw [e] at hk
    · exact hk
    · exact ih _ hk
@[simp] theorem good_runStores (s : State) (x1 x2) (h : Good q f s) : Good q f (runStores s x1 x2).2 := by
  induction x2 generalizing s with
  | nil => exact h
  | cons e r ih =>
    unfold runStores
    dsimp only
    have hk := good_checkEl s x1 e.va e.bs.length e.al h
    split <;> rename_i e <;> rw [e] at hk
    · exact hk
    · exact ih _ (good_writeLines _ _ _ _ _ _ hk)
@[simp] theorem good_runLoads (s : State) (x1 x2 x3 x4) (h : Good q f s) : Good q f (runLoads s x1 x2 x3 x4).2.2 := by
  induction x4 generalizing s x3 with
  | nil => exact h
  | cons e r ih =>
    unfold runLoads
    have hk := good_loadEl s x1 e.va e.n e.al h
    split <;> rename_i e <;> rw [e] at hk
    · exact hk
    · exact ih _ _ hk
@[simp] theorem good_storeAll (s : State) (x1 x2) (h : Good q f s) : Good q f (storeAll s x1 x2).2 := by
  unfold storeAll
  repeat' split
  all_goals
    try have e0 := ‹checkStores _ _ _ = _›
    try have k0 := good_eq2 (q := q) (f := f) e0 (by first | (simp (maxDischargeDepth := 40) [h]; done))
    first
        | simp +contextual (maxDischargeDepth := 40) [h]; done
        | simp +contextual (maxDischargeDepth := 40) [h, k0]; done
@[simp] theorem good_resumeAt (s : State) (x1 x2 x3) (h : Good q f s) : Good q f (resumeAt s x1 x2 x3).state := h

/-! ### HarzarVector -/

@[simp] theorem good_putPred (s : State) (x1 x2 x3 x4 x5 x6 x7 x8) (h : Good q f s) : Good q f (putPred s x1 x2 x3 x4 x5 x6 x7 x8) := h
@[simp] theorem good_loadBody (s : State) (x1 x2 x3 x4 x5) (h : Good q f s) : Good q f (loadBody s x1 x2 x3 x4 x5).state := by
  unfold loadBody
  repeat' split
  all_goals
    try have e0 := ‹runLoads _ _ _ _ _ = _›
    try have k0 := good_eq22 (q := q) (f := f) e0 (by first | (simp (maxDischargeDepth := 40) [h]; done))
    first
        | simp +contextual (maxDischargeDepth := 40) [h]; done
        | simp +contextual (maxDischargeDepth := 40) [h, k0]; done
@[simp] theorem good_storeBody (s : State) (x1 x2 x3) (h : Good q f s) : Good q f (storeBody s x1 x2 x3).state := by
  unfold storeBody
  have hk : Good q f (if x2.compat then storeAll s x1 x3 else runStores s x1 x3).2 := by
    split
    · exact good_storeAll _ _ _ h
    · exact good_runStores _ _ _ h
  split <;> rename_i e <;> rw [e] at hk <;> simp (maxDischargeDepth := 40) [hk]
@[simp] theorem good_storeWhole (s : State) (x1 x2) (h : Good q f s) : Good q f (storeWhole s x1 x2).state := by
  unfold storeWhole
  repeat' split
  all_goals
    try have e0 := ‹storeAll _ _ _ = _›
    try have k0 := good_eq2 (q := q) (f := f) e0 (by first | (simp (maxDischargeDepth := 40) [h]; done))
    first
        | simp +contextual (maxDischargeDepth := 40) [h]; done
        | simp +contextual (maxDischargeDepth := 40) [h, k0]; done
@[simp] theorem good_moveBody (s : State) (x1 x2 x3 x4 x5 x6 x7 x8) (h : Good q f s) : Good q f (moveBody s x1 x2 x3 x4 x5 x6 x7 x8) := by
  unfold moveBody
  split <;> simp (maxDischargeDepth := 40) [h]

/-! ### HarzarDsp -/

@[simp] theorem good_loopFault (s : State) (h : Good q f s) : Good q f (loopFault s).state := by
  unfold loopFault
  simp (maxDischargeDepth := 40) [h]

/-! ### HostMem -/

@[simp] theorem good_targetErr (s : State) (x1 x2) (h : Good q f s) : Good q f (targetErr s x1 x2).2 := h
@[simp] theorem good_fillPages (s : State) (x1 x2 x3 x4) (h : Good q f s) : Good q f (fillPages s x1 x2 x3 x4).2.2 := by
  induction x4 generalizing s x3 with
  | zero => exact h
  | succ k ih =>
    unfold fillPages
    have hk := good_writePiece s (some x1) x3 (fillBytes x2 x3 2048) h
    split <;> rename_i e <;> rw [e] at hk
    · exact ih _ _ hk
    · exact hk

/-! ### Links -/

@[simp] theorem good_laneError (s : State) (x1 x2 x3) (h : Good q f s) : Good q f (laneError s x1 x2 x3) := by
  unfold laneError
  simp (maxDischargeDepth := 40) [h]
@[simp] theorem good_checkLanes (s : State) (x1 x2) (h : Good q f s) : Good q f (checkLanes s x1 x2) := by
  unfold checkLanes
  dsimp only
  repeat' split
  all_goals simp (maxDischargeDepth := 40) [h]
@[simp] theorem good_linkAck (s : State) (x1 x2) (h : Good q f s) : Good q f (linkAck s x1 x2) := by
  unfold linkAck
  simp (maxDischargeDepth := 40) [h]
@[simp] theorem good_linkNak (s : State) (x1 x2) (h : Good q f s) : Good q f (linkNak s x1 x2) := by
  unfold linkNak
  simp (maxDischargeDepth := 40) [h]
@[simp] theorem good_takeAck (s : State) (x1 x2) (h : Good q f s) : Good q f (takeAck s x1 x2) := by
  unfold takeAck
  simp (maxDischargeDepth := 40) [h]
@[simp] theorem good_linkFail (s : State) (x1 x2 x3 x4) (h : Good q f s) : Good q f (linkFail s x1 x2 x3 x4) := by
  unfold linkFail
  simp (maxDischargeDepth := 40) [h]
@[simp] theorem good_linkGood (s : State) (x1 x2 x3) (h : Good q f s) : Good q f (linkGood s x1 x2 x3) := by
  unfold linkGood
  dsimp only
  repeat' split
  all_goals simp +contextual (maxDischargeDepth := 40) [h]
@[simp] theorem good_linkControl (s : State) (x1 x2) (h : Good q f s) : Good q f (linkControl s x1 x2) := by
  unfold linkControl
  simp (maxDischargeDepth := 40) [h]

/-! ### Manage -/

@[simp] theorem good_stepTime (s : State) (x1) (h : Good q f s) : Good q f (stepTime s x1) := by
  unfold stepTime
  dsimp only
  repeat' split
  all_goals
    first
        | simp +contextual (maxDischargeDepth := 40) [h]; done

/-! ### MemCtl -/

@[simp] theorem good_fltChannel (s : State) (x1 x2 x3) (h : Good q f s) : Good q f (fltChannel s x1 x2 x3) := by
  unfold fltChannel
  simp (maxDischargeDepth := 40) [h]
@[simp] theorem good_faultChannel (s : State) (x1) (h : Good q f s) : Good q f (faultChannel s x1) := by
  unfold faultChannel
  simp (maxDischargeDepth := 40) [h]
@[simp] theorem good_scrubNext (s : State) (x1) (h : Good q f s) : Good q f (scrubNext s x1) := h
@[simp] theorem good_cacheUnc (s : State) (x1 x2) (h : Good q f s) : Good q f (cacheUnc s x1 x2) := by
  unfold cacheUnc
  dsimp only
  repeat' split
  all_goals simp (maxDischargeDepth := 40) [h]
@[simp] theorem good_srNext (s : State) (x1) (h : Good q f s) : Good q f (srNext s x1) := h
@[simp] theorem good_losePages (s : State) (x1) (h : Good q f s) : Good q f (losePages s x1) := h

/-! ### Rasp -/

@[simp] theorem good_unlock (s : State) (x1) (h : Good q f s) : Good q f (unlock s x1) := by
  unfold unlock
  simp (maxDischargeDepth := 40) [h]
@[simp] theorem good_finishWaiter (s : State) (x1) (h : Good q f s) : Good q f (finishWaiter s x1) := h
@[simp] theorem good_raspIssue (s : State) (x1 x2 x3 x4) (h : Good q f s) : Good q f (raspIssue s x1 x2 x3 x4).state := by
  unfold raspIssue
  dsimp only
  repeat' split
  all_goals simp (maxDischargeDepth := 40) [h]
@[simp] theorem good_raspOperation (s : State) (x1 x2 x3 x4 x5 x6) (h : Good q f s) : Good q f (raspOperation s x1 x2 x3 x4 x5 x6) := by
  unfold raspOperation
  dsimp only
  repeat' split
  all_goals simp +contextual (maxDischargeDepth := 40) [h]
@[simp] theorem good_lateError (s : State) (x1 x2 x3 x4) (h : Good q f s) : Good q f (lateError s x1 x2 x3 x4) := by
  unfold lateError
  simp (maxDischargeDepth := 40) [h]
@[simp] theorem good_clearK (s : State) (x1 x2) (h : Good q f s) : Good q f (clearK s x1 x2) := h
@[simp] theorem good_raspWriteBack (s : State) (x1 x2 x3) (h : Good q f s) : Good q f (raspWriteBack s x1 x2 x3) := by
  unfold raspWriteBack
  have hr : Good q f (if x2.op = 6 then takeFree s 1 else (0, s)).2 := by split <;> simp [h]
  generalize (if x2.op = 6 then takeFree s 1 else (0, s)) = r at hr
  obtain ⟨up, t⟩ := r
  dsimp only at hr ⊢
  repeat' split
  all_goals first | exact hr | exact good_clearK _ _ _ (good_setRasp _ _ _ hr) | exact good_lateError _ _ _ _ _ (good_clearK _ _ _ (good_setRasp _ _ _ (good_takeFree _ _ hr))) | exact good_lateError _ _ _ _ _ hr
@[simp] theorem good_kWord (s : State) (x1) (h : Good q f s) : Good q f (kWord s x1).2 := by
  unfold kWord
  simp (maxDischargeDepth := 40) [h]
@[simp] theorem good_kError (s : State) (x1 x2) (h : Good q f s) : Good q f (kError s x1 x2) := by
  unfold kError
  simp (maxDischargeDepth := 40) [h]

end Sys2Proof.Machine
end

