-- ==== Sys2Proof/Laws/Macsec.lean ====
section
/-!
SUPPORT. The lengths of AES blocks and GCM tags, and that a frame protected for integrity alone opens at the other end.
-/
namespace Sys2Proof.Machine

theorem upFrom_length (a n : Nat) : (upFrom a n).length = n := by
  induction n generalizing a with
  | zero => rfl
  | succ n ih => simp [upFrom, ih]

theorem xorList_length (a b : List Nat) : (xorList a b).length = min a.length b.length := by simp [xorList]

/-- The words of a key schedule in progress: at least eight, of four bytes each. -/
def Words (l : List (List Nat)) (n : Nat) : Prop := l.length = n ∧ ∀ w ∈ l, w.length = 4

theorem words_next {l : List (List Nat)} {n : Nat} (h : Words l n) (hn : 8 ≤ n) (i : Nat) : Words (aesNextWord l i) (n + 1) := by
  obtain ⟨hl, hw⟩ := h
  have at_ : ∀ k, k < 8 → (lget l [] k).length = 4 := fun k hk => by
    have : k < l.length := by omega
    simp only [lget, List.getD_eq_getElem?_getD, List.getElem?_eq_getElem this, Option.getD_some]
    exact hw _ (List.getElem_mem this)
  refine ⟨by simp [aesNextWord, hl], ?_⟩
  intro w hm
  simp only [aesNextWord, List.mem_cons] at hm
  rcases hm with rfl | hm
  · have h0 := at_ 0 (by omega)
    rw [xorList_length, at_ 7 (by omega)]
    split
    · match hx : lget l [] 0, h0 with
      | [a, b, c, d], _ => simp
    · split <;> simp [h0]
  · exact hw _ hm

theorem words_fold {l : List (List Nat)} {n : Nat} (h : Words l n) (hn : 8 ≤ n) (is : List Nat) : Words (is.foldl aesNextWord l) (n + is.length) := by
  induction is generalizing l n with
  | nil => exact h
  | cons i is ih =>
    have := ih (words_next h hn i) (by omega)
    simpa [Nat.add_assoc, Nat.add_comm 1] using this

theorem words_schedule {key : List Nat} (hk : key.length = 32) : Words (aesSchedule key) 60 := by
  have h : Words ((upFrom 0 8).map fun i => (key.drop (4 * i)).take 4).reverse 8 := by
    refine ⟨by simp [upFrom_length], ?_⟩
    intro w hw
    simp only [upFrom, List.map_cons, List.map_nil, List.mem_reverse, List.mem_cons, List.not_mem_nil, or_false] at hw
    rcases hw with h | h | h | h | h | h | h | h <;> subst h <;> simp [hk]
  have f := words_fold h (by omega) (upFrom 8 52)
  rw [upFrom_length] at f
  exact ⟨by simpa [aesSchedule] using f.1, fun w hw => f.2 w (by simpa [aesSchedule] using hw)⟩

theorem roundKey_length {ws : List (List Nat)} (h : Words ws 60) {r : Nat} (hr : r ≤ 14) : (aesRoundKey ws r).length = 16 := by
  have hl : ((ws.drop (4 * r)).take 4).length = 4 := by simp [h.1]; omega
  have hw : ∀ w ∈ (ws.drop (4 * r)).take 4, w.length = 4 := fun w hm => h.2 w (List.mem_of_mem_drop (List.mem_of_mem_take hm))
  unfold aesRoundKey
  match hx : (ws.drop (4 * r)).take 4, hl with
  | [a, b, c, d], _ => rw [hx] at hw; simp at hw ⊢; omega

theorem aesBlock_length {ws : List (List Nat)} (h : Words ws 60) (b : List Nat) : (aesBlock ws b).length = 16 := by
  simp [aesBlock, xorList_length, aesShiftRows, upFrom_length, roundKey_length h (Nat.le_refl 14)]

theorem beNats_length (n k : Nat) : (beNats n k).length = k := by
  induction k with
  | zero => rfl
  | succ k ih => simp [beNats, ih]

/-- A tag has 16 bytes. -/
theorem gcmTag_length {key : List Nat} (hk : key.length = 32) (iv : Nat) (aad c : List Nat) : (gcmTag key iv aad c).length = 16 := by
  simp [gcmTag, xorList_length, beNats_length, gcmStream, aesBlock_length (words_schedule hk)]


/-- A frame in the clear, text `h` up to its tag and SCI in its SecTAG, opens to its addresses and payload where it ends in the tag of `h` (R288, R291). -/
theorem openFrame_integ (x : BhPort) (a : Sa) (t : SecTag) (h : List Byte) (hc : t.conf = false) (hs : t.sci.isSome = true) (hl : 28 ≤ h.length)
    (sl : fld (ofLe ((h.drop 15).take 1)) 0 6 = 0 ∨ fld (ofLe ((h.drop 15).take 1)) 0 6 = h.length - 28) :
    openFrame x a t (h ++ ofNats (gcmTag (saKey a) (saIv a (fullPn a.pn t.pn)) (nats h) [])) = (true, h.take 12 ++ h.drop 28) := by
  have hT : (ofNats (gcmTag (saKey a) (saIv a (fullPn a.pn t.pn)) (nats h) [])).length = 16 := by
    simpa [ofNats] using gcmTag_length (by simp [saKey, leBytes]) _ (nats h) []
  generalize hg : ofNats (gcmTag (saKey a) (saIv a (fullPn a.pn t.pn)) (nats h) []) = T at hT
  have h15 : ((h ++ T).drop 15).take 1 = (h.drop 15).take 1 := by
    rw [List.drop_append_of_le_length (by omega), List.take_append_of_le_length (by simp; omega)]
  have hn : (if fld (ofLe ((h.drop 15).take 1)) 0 6 = 0 then (h ++ T).length - 28 - 16 else fld (ofLe ((h.drop 15).take 1)) 0 6) = h.length - 28 := by
    split
    · simp [hT]; omega
    · omega
  have hd : ((h ++ T).drop 28).take (h.length - 28) = h.drop 28 := by
    rw [List.drop_append_of_le_length hl, List.take_append_of_le_length (by simp)]; exact List.take_of_length_le (by simp)
  have hk : (h ++ T).take 28 ++ h.drop 28 = h := by
    rw [List.take_append_of_le_length hl, List.take_append_drop]
  have ht : ((h ++ T).drop (28 + (h.length - 28))).take 16 = T := by
    rw [show 28 + (h.length - 28) = h.length by omega]; simp [← hT]
  have h12 : (h ++ T).take 12 = h.take 12 := List.take_append_of_le_length (by omega)
  have hz : (h.drop 28).take (h.length - 28) = h.drop 28 := by exact List.take_of_length_le (by simp)
  have he : (h.drop 28).drop (h.length - 28) = [] := by simp; omega
  have hcr : gcmCrypt (saKey a) (saIv a (fullPn a.pn t.pn)) [] = [] := rfl
  simp only [openFrame, h15, hs, ↓reduceIte, hc, Bool.false_eq_true, hn, hd, hz, he, ht, h12]
  have hk2 : (nats ((h ++ T).take 28 ++ h.drop 28)) = nats h := by rw [hk]
  rw [show nats [] = [] from rfl, hk2, hg, hcr]
  simp [ofNats]

end Sys2Proof.Machine
end

