-- ==== Sys2Proof/Laws/State.lean ====
section
/-!
SUPPORT. The fields of a state after each named update of Machine/Ops.lean: the field it writes, read back, and every other field as it was.
-/
namespace Sys2Proof.Machine

/-! ### setCore, updCore -/

@[simp] theorem getCore_setCore_same (s : State) (k : Nat) (x : Core) : getCore (setCore s k x) k = x := tget_tset_same _ _ _ _
theorem getCore_setCore (s : State) (k j : Nat) (x : Core) : getCore (setCore s k x) j = if j = k then x else getCore s j := tget_tset _ _ _ _ _
@[simp] theorem getCore_setCore_ne (s : State) {k j : Nat} (x : Core) (h : j ≠ k) : getCore (setCore s k x) j = getCore s j := tget_tset_ne _ _ _ h
@[simp] theorem getCore_updCore_same (s : State) (k : Nat) (g : Core → Core) : getCore (updCore s k g) k = g (getCore s k) := tget_tset_same _ _ _ _
@[simp] theorem getCore_updCore_ne (s : State) {k j : Nat} (g : Core → Core) (h : j ≠ k) : getCore (updCore s k g) j = getCore s j := tget_tset_ne _ _ _ h
@[simp] theorem setCore_now (s : State) (k : Nat) (x : Core) : (setCore s k x).now = s.now := rfl
@[simp] theorem setCore_stepped (s : State) (k : Nat) (x : Core) : (setCore s k x).stepped = s.stepped := rfl
@[simp] theorem setCore_fresh (s : State) (k : Nat) (x : Core) : (setCore s k x).fresh = s.fresh := rfl
@[simp] theorem setCore_answer (s : State) (k : Nat) (x : Core) : (setCore s k x).answer = s.answer := rfl
@[simp] theorem setCore_ctr (s : State) (k : Nat) (x : Core) : (setCore s k x).ctr = s.ctr := rfl
@[simp] theorem setCore_tu (s : State) (k : Nat) (x : Core) : (setCore s k x).tu = s.tu := rfl
@[simp] theorem setCore_parts (s : State) (k : Nat) (x : Core) : (setCore s k x).parts = s.parts := rfl
@[simp] theorem setCore_dv (s : State) (k : Nat) (x : Core) : (setCore s k x).dv = s.dv := rfl
@[simp] theorem setCore_hosts (s : State) (k : Nat) (x : Core) : (setCore s k x).hosts = s.hosts := rfl
@[simp] theorem setCore_mc (s : State) (k : Nat) (x : Core) : (setCore s k x).mc = s.mc := rfl
@[simp] theorem setCore_mem (s : State) (k : Nat) (x : Core) : (setCore s k x).mem = s.mem := rfl
@[simp] theorem setCore_doms (s : State) (k : Nat) (x : Core) : (setCore s k x).doms = s.doms := rfl
@[simp] theorem setCore_rasps (s : State) (k : Nat) (x : Core) : (setCore s k x).rasps = s.rasps := rfl
@[simp] theorem setCore_benchCache (s : State) (k : Nat) (x : Core) : (setCore s k x).benchCache = s.benchCache := rfl
@[simp] theorem setCore_dev (s : State) (k : Nat) (x : Core) : (setCore s k x).dev = s.dev := rfl
@[simp] theorem setCore_noc (s : State) (k : Nat) (x : Core) : (setCore s k x).noc = s.noc := rfl
@[simp] theorem setCore_dma (s : State) (k : Nat) (x : Core) : (setCore s k x).dma = s.dma := rfl
@[simp] theorem setCore_su (s : State) (k : Nat) (x : Core) : (setCore s k x).su = s.su := rfl
@[simp] theorem setCore_jig (s : State) (k : Nat) (x : Core) : (setCore s k x).jig = s.jig := rfl
@[simp] theorem setCore_ln (s : State) (k : Nat) (x : Core) : (setCore s k x).ln = s.ln := rfl
@[simp] theorem setCore_fh (s : State) (k : Nat) (x : Core) : (setCore s k x).fh = s.fh := rfl
@[simp] theorem setCore_gc (s : State) (k : Nat) (x : Core) : (setCore s k x).gc = s.gc := rfl
@[simp] theorem setCore_bh (s : State) (k : Nat) (x : Core) : (setCore s k x).bh = s.bh := rfl
@[simp] theorem setCore_tm (s : State) (k : Nat) (x : Core) : (setCore s k x).tm = s.tm := rfl
@[simp] theorem setCore_flt (s : State) (k : Nat) (x : Core) : (setCore s k x).flt = s.flt := rfl
@[simp] theorem setCore_age (s : State) (k : Nat) (x : Core) : (setCore s k x).age = s.age := rfl
@[simp] theorem setCore_th (s : State) (k : Nat) (x : Core) : (setCore s k x).th = s.th := rfl
@[simp] theorem setCore_pins (s : State) (k : Nat) (x : Core) : (setCore s k x).pins = s.pins := rfl
@[simp] theorem setCore_pending (s : State) (k : Nat) (x : Core) : (setCore s k x).pending = s.pending := rfl
@[simp] theorem updCore_now (s : State) (k : Nat) (g : Core → Core) : (updCore s k g).now = s.now := rfl
@[simp] theorem updCore_stepped (s : State) (k : Nat) (g : Core → Core) : (updCore s k g).stepped = s.stepped := rfl
@[simp] theorem updCore_fresh (s : State) (k : Nat) (g : Core → Core) : (updCore s k g).fresh = s.fresh := rfl
@[simp] theorem updCore_answer (s : State) (k : Nat) (g : Core → Core) : (updCore s k g).answer = s.answer := rfl
@[simp] theorem updCore_ctr (s : State) (k : Nat) (g : Core → Core) : (updCore s k g).ctr = s.ctr := rfl
@[simp] theorem updCore_tu (s : State) (k : Nat) (g : Core → Core) : (updCore s k g).tu = s.tu := rfl
@[simp] theorem updCore_parts (s : State) (k : Nat) (g : Core → Core) : (updCore s k g).parts = s.parts := rfl
@[simp] theorem updCore_dv (s : State) (k : Nat) (g : Core → Core) : (updCore s k g).dv = s.dv := rfl
@[simp] theorem updCore_hosts (s : State) (k : Nat) (g : Core → Core) : (updCore s k g).hosts = s.hosts := rfl
@[simp] theorem updCore_mc (s : State) (k : Nat) (g : Core → Core) : (updCore s k g).mc = s.mc := rfl
@[simp] theorem updCore_mem (s : State) (k : Nat) (g : Core → Core) : (updCore s k g).mem = s.mem := rfl
@[simp] theorem updCore_doms (s : State) (k : Nat) (g : Core → Core) : (updCore s k g).doms = s.doms := rfl
@[simp] theorem updCore_rasps (s : State) (k : Nat) (g : Core → Core) : (updCore s k g).rasps = s.rasps := rfl
@[simp] theorem updCore_benchCache (s : State) (k : Nat) (g : Core → Core) : (updCore s k g).benchCache = s.benchCache := rfl
@[simp] theorem updCore_dev (s : State) (k : Nat) (g : Core → Core) : (updCore s k g).dev = s.dev := rfl
@[simp] theorem updCore_noc (s : State) (k : Nat) (g : Core → Core) : (updCore s k g).noc = s.noc := rfl
@[simp] theorem updCore_dma (s : State) (k : Nat) (g : Core → Core) : (updCore s k g).dma = s.dma := rfl
@[simp] theorem updCore_su (s : State) (k : Nat) (g : Core → Core) : (updCore s k g).su = s.su := rfl
@[simp] theorem updCore_jig (s : State) (k : Nat) (g : Core → Core) : (updCore s k g).jig = s.jig := rfl
@[simp] theorem updCore_ln (s : State) (k : Nat) (g : Core → Core) : (updCore s k g).ln = s.ln := rfl
@[simp] theorem updCore_fh (s : State) (k : Nat) (g : Core → Core) : (updCore s k g).fh = s.fh := rfl
@[simp] theorem updCore_gc (s : State) (k : Nat) (g : Core → Core) : (updCore s k g).gc = s.gc := rfl
@[simp] theorem updCore_bh (s : State) (k : Nat) (g : Core → Core) : (updCore s k g).bh = s.bh := rfl
@[simp] theorem updCore_tm (s : State) (k : Nat) (g : Core → Core) : (updCore s k g).tm = s.tm := rfl
@[simp] theorem updCore_flt (s : State) (k : Nat) (g : Core → Core) : (updCore s k g).flt = s.flt := rfl
@[simp] theorem updCore_age (s : State) (k : Nat) (g : Core → Core) : (updCore s k g).age = s.age := rfl
@[simp] theorem updCore_th (s : State) (k : Nat) (g : Core → Core) : (updCore s k g).th = s.th := rfl
@[simp] theorem updCore_pins (s : State) (k : Nat) (g : Core → Core) : (updCore s k g).pins = s.pins := rfl
@[simp] theorem updCore_pending (s : State) (k : Nat) (g : Core → Core) : (updCore s k g).pending = s.pending := rfl

/-! ### setPart, updPart -/

@[simp] theorem getPart_setPart_same (s : State) (k : Nat) (x : Part) : getPart (setPart s k x) k = x := tget_tset_same _ _ _ _
theorem getPart_setPart (s : State) (k j : Nat) (x : Part) : getPart (setPart s k x) j = if j = k then x else getPart s j := tget_tset _ _ _ _ _
@[simp] theorem getPart_setPart_ne (s : State) {k j : Nat} (x : Part) (h : j ≠ k) : getPart (setPart s k x) j = getPart s j := tget_tset_ne _ _ _ h
@[simp] theorem getPart_updPart_same (s : State) (k : Nat) (g : Part → Part) : getPart (updPart s k g) k = g (getPart s k) := tget_tset_same _ _ _ _
@[simp] theorem getPart_updPart_ne (s : State) {k j : Nat} (g : Part → Part) (h : j ≠ k) : getPart (updPart s k g) j = getPart s j := tget_tset_ne _ _ _ h
@[simp] theorem setPart_now (s : State) (k : Nat) (x : Part) : (setPart s k x).now = s.now := rfl
@[simp] theorem setPart_stepped (s : State) (k : Nat) (x : Part) : (setPart s k x).stepped = s.stepped := rfl
@[simp] theorem setPart_fresh (s : State) (k : Nat) (x : Part) : (setPart s k x).fresh = s.fresh := rfl
@[simp] theorem setPart_answer (s : State) (k : Nat) (x : Part) : (setPart s k x).answer = s.answer := rfl
@[simp] theorem setPart_ctr (s : State) (k : Nat) (x : Part) : (setPart s k x).ctr = s.ctr := rfl
@[simp] theorem setPart_tu (s : State) (k : Nat) (x : Part) : (setPart s k x).tu = s.tu := rfl
@[simp] theorem setPart_dv (s : State) (k : Nat) (x : Part) : (setPart s k x).dv = s.dv := rfl
@[simp] theorem setPart_hosts (s : State) (k : Nat) (x : Part) : (setPart s k x).hosts = s.hosts := rfl
@[simp] theorem setPart_mc (s : State) (k : Nat) (x : Part) : (setPart s k x).mc = s.mc := rfl
@[simp] theorem setPart_mem (s : State) (k : Nat) (x : Part) : (setPart s k x).mem = s.mem := rfl
@[simp] theorem setPart_doms (s : State) (k : Nat) (x : Part) : (setPart s k x).doms = s.doms := rfl
@[simp] theorem setPart_cores (s : State) (k : Nat) (x : Part) : (setPart s k x).cores = s.cores := rfl
@[simp] theorem setPart_rasps (s : State) (k : Nat) (x : Part) : (setPart s k x).rasps = s.rasps := rfl
@[simp] theorem setPart_benchCache (s : State) (k : Nat) (x : Part) : (setPart s k x).benchCache = s.benchCache := rfl
@[simp] theorem setPart_dev (s : State) (k : Nat) (x : Part) : (setPart s k x).dev = s.dev := rfl
@[simp] theorem setPart_noc (s : State) (k : Nat) (x : Part) : (setPart s k x).noc = s.noc := rfl
@[simp] theorem setPart_dma (s : State) (k : Nat) (x : Part) : (setPart s k x).dma = s.dma := rfl
@[simp] theorem setPart_su (s : State) (k : Nat) (x : Part) : (setPart s k x).su = s.su := rfl
@[simp] theorem setPart_jig (s : State) (k : Nat) (x : Part) : (setPart s k x).jig = s.jig := rfl
@[simp] theorem setPart_ln (s : State) (k : Nat) (x : Part) : (setPart s k x).ln = s.ln := rfl
@[simp] theorem setPart_fh (s : State) (k : Nat) (x : Part) : (setPart s k x).fh = s.fh := rfl
@[simp] theorem setPart_gc (s : State) (k : Nat) (x : Part) : (setPart s k x).gc = s.gc := rfl
@[simp] theorem setPart_bh (s : State) (k : Nat) (x : Part) : (setPart s k x).bh = s.bh := rfl
@[simp] theorem setPart_tm (s : State) (k : Nat) (x : Part) : (setPart s k x).tm = s.tm := rfl
@[simp] theorem setPart_flt (s : State) (k : Nat) (x : Part) : (setPart s k x).flt = s.flt := rfl
@[simp] theorem setPart_age (s : State) (k : Nat) (x : Part) : (setPart s k x).age = s.age := rfl
@[simp] theorem setPart_th (s : State) (k : Nat) (x : Part) : (setPart s k x).th = s.th := rfl
@[simp] theorem setPart_pins (s : State) (k : Nat) (x : Part) : (setPart s k x).pins = s.pins := rfl
@[simp] theorem setPart_pending (s : State) (k : Nat) (x : Part) : (setPart s k x).pending = s.pending := rfl
@[simp] theorem updPart_now (s : State) (k : Nat) (g : Part → Part) : (updPart s k g).now = s.now := rfl
@[simp] theorem updPart_stepped (s : State) (k : Nat) (g : Part → Part) : (updPart s k g).stepped = s.stepped := rfl
@[simp] theorem updPart_fresh (s : State) (k : Nat) (g : Part → Part) : (updPart s k g).fresh = s.fresh := rfl
@[simp] theorem updPart_answer (s : State) (k : Nat) (g : Part → Part) : (updPart s k g).answer = s.answer := rfl
@[simp] theorem updPart_ctr (s : State) (k : Nat) (g : Part → Part) : (updPart s k g).ctr = s.ctr := rfl
@[simp] theorem updPart_tu (s : State) (k : Nat) (g : Part → Part) : (updPart s k g).tu = s.tu := rfl
@[simp] theorem updPart_dv (s : State) (k : Nat) (g : Part → Part) : (updPart s k g).dv = s.dv := rfl
@[simp] theorem updPart_hosts (s : State) (k : Nat) (g : Part → Part) : (updPart s k g).hosts = s.hosts := rfl
@[simp] theorem updPart_mc (s : State) (k : Nat) (g : Part → Part) : (updPart s k g).mc = s.mc := rfl
@[simp] theorem updPart_mem (s : State) (k : Nat) (g : Part → Part) : (updPart s k g).mem = s.mem := rfl
@[simp] theorem updPart_doms (s : State) (k : Nat) (g : Part → Part) : (updPart s k g).doms = s.doms := rfl
@[simp] theorem updPart_cores (s : State) (k : Nat) (g : Part → Part) : (updPart s k g).cores = s.cores := rfl
@[simp] theorem updPart_rasps (s : State) (k : Nat) (g : Part → Part) : (updPart s k g).rasps = s.rasps := rfl
@[simp] theorem updPart_benchCache (s : State) (k : Nat) (g : Part → Part) : (updPart s k g).benchCache = s.benchCache := rfl
@[simp] theorem updPart_dev (s : State) (k : Nat) (g : Part → Part) : (updPart s k g).dev = s.dev := rfl
@[simp] theorem updPart_noc (s : State) (k : Nat) (g : Part → Part) : (updPart s k g).noc = s.noc := rfl
@[simp] theorem updPart_dma (s : State) (k : Nat) (g : Part → Part) : (updPart s k g).dma = s.dma := rfl
@[simp] theorem updPart_su (s : State) (k : Nat) (g : Part → Part) : (updPart s k g).su = s.su := rfl
@[simp] theorem updPart_jig (s : State) (k : Nat) (g : Part → Part) : (updPart s k g).jig = s.jig := rfl
@[simp] theorem updPart_ln (s : State) (k : Nat) (g : Part → Part) : (updPart s k g).ln = s.ln := rfl
@[simp] theorem updPart_fh (s : State) (k : Nat) (g : Part → Part) : (updPart s k g).fh = s.fh := rfl
@[simp] theorem updPart_gc (s : State) (k : Nat) (g : Part → Part) : (updPart s k g).gc = s.gc := rfl
@[simp] theorem updPart_bh (s : State) (k : Nat) (g : Part → Part) : (updPart s k g).bh = s.bh := rfl
@[simp] theorem updPart_tm (s : State) (k : Nat) (g : Part → Part) : (updPart s k g).tm = s.tm := rfl
@[simp] theorem updPart_flt (s : State) (k : Nat) (g : Part → Part) : (updPart s k g).flt = s.flt := rfl
@[simp] theorem updPart_age (s : State) (k : Nat) (g : Part → Part) : (updPart s k g).age = s.age := rfl
@[simp] theorem updPart_th (s : State) (k : Nat) (g : Part → Part) : (updPart s k g).th = s.th := rfl
@[simp] theorem updPart_pins (s : State) (k : Nat) (g : Part → Part) : (updPart s k g).pins = s.pins := rfl
@[simp] theorem updPart_pending (s : State) (k : Nat) (g : Part → Part) : (updPart s k g).pending = s.pending := rfl

/-! ### setHost, updHost -/

@[simp] theorem getHost_setHost_same (s : State) (k : Nat) (x : HostPort) : getHost (setHost s k x) k = x := tget_tset_same _ _ _ _
theorem getHost_setHost (s : State) (k j : Nat) (x : HostPort) : getHost (setHost s k x) j = if j = k then x else getHost s j := tget_tset _ _ _ _ _
@[simp] theorem getHost_setHost_ne (s : State) {k j : Nat} (x : HostPort) (h : j ≠ k) : getHost (setHost s k x) j = getHost s j := tget_tset_ne _ _ _ h
@[simp] theorem getHost_updHost_same (s : State) (k : Nat) (g : HostPort → HostPort) : getHost (updHost s k g) k = g (getHost s k) := tget_tset_same _ _ _ _
@[simp] theorem getHost_updHost_ne (s : State) {k j : Nat} (g : HostPort → HostPort) (h : j ≠ k) : getHost (updHost s k g) j = getHost s j := tget_tset_ne _ _ _ h
@[simp] theorem setHost_now (s : State) (k : Nat) (x : HostPort) : (setHost s k x).now = s.now := rfl
@[simp] theorem setHost_stepped (s : State) (k : Nat) (x : HostPort) : (setHost s k x).stepped = s.stepped := rfl
@[simp] theorem setHost_fresh (s : State) (k : Nat) (x : HostPort) : (setHost s k x).fresh = s.fresh := rfl
@[simp] theorem setHost_answer (s : State) (k : Nat) (x : HostPort) : (setHost s k x).answer = s.answer := rfl
@[simp] theorem setHost_ctr (s : State) (k : Nat) (x : HostPort) : (setHost s k x).ctr = s.ctr := rfl
@[simp] theorem setHost_tu (s : State) (k : Nat) (x : HostPort) : (setHost s k x).tu = s.tu := rfl
@[simp] theorem setHost_parts (s : State) (k : Nat) (x : HostPort) : (setHost s k x).parts = s.parts := rfl
@[simp] theorem setHost_dv (s : State) (k : Nat) (x : HostPort) : (setHost s k x).dv = s.dv := rfl
@[simp] theorem setHost_mc (s : State) (k : Nat) (x : HostPort) : (setHost s k x).mc = s.mc := rfl
@[simp] theorem setHost_mem (s : State) (k : Nat) (x : HostPort) : (setHost s k x).mem = s.mem := rfl
@[simp] theorem setHost_doms (s : State) (k : Nat) (x : HostPort) : (setHost s k x).doms = s.doms := rfl
@[simp] theorem setHost_cores (s : State) (k : Nat) (x : HostPort) : (setHost s k x).cores = s.cores := rfl
@[simp] theorem setHost_rasps (s : State) (k : Nat) (x : HostPort) : (setHost s k x).rasps = s.rasps := rfl
@[simp] theorem setHost_benchCache (s : State) (k : Nat) (x : HostPort) : (setHost s k x).benchCache = s.benchCache := rfl
@[simp] theorem setHost_dev (s : State) (k : Nat) (x : HostPort) : (setHost s k x).dev = s.dev := rfl
@[simp] theorem setHost_noc (s : State) (k : Nat) (x : HostPort) : (setHost s k x).noc = s.noc := rfl
@[simp] theorem setHost_dma (s : State) (k : Nat) (x : HostPort) : (setHost s k x).dma = s.dma := rfl
@[simp] theorem setHost_su (s : State) (k : Nat) (x : HostPort) : (setHost s k x).su = s.su := rfl
@[simp] theorem setHost_jig (s : State) (k : Nat) (x : HostPort) : (setHost s k x).jig = s.jig := rfl
@[simp] theorem setHost_ln (s : State) (k : Nat) (x : HostPort) : (setHost s k x).ln = s.ln := rfl
@[simp] theorem setHost_fh (s : State) (k : Nat) (x : HostPort) : (setHost s k x).fh = s.fh := rfl
@[simp] theorem setHost_gc (s : State) (k : Nat) (x : HostPort) : (setHost s k x).gc = s.gc := rfl
@[simp] theorem setHost_bh (s : State) (k : Nat) (x : HostPort) : (setHost s k x).bh = s.bh := rfl
@[simp] theorem setHost_tm (s : State) (k : Nat) (x : HostPort) : (setHost s k x).tm = s.tm := rfl
@[simp] theorem setHost_flt (s : State) (k : Nat) (x : HostPort) : (setHost s k x).flt = s.flt := rfl
@[simp] theorem setHost_age (s : State) (k : Nat) (x : HostPort) : (setHost s k x).age = s.age := rfl
@[simp] theorem setHost_th (s : State) (k : Nat) (x : HostPort) : (setHost s k x).th = s.th := rfl
@[simp] theorem setHost_pins (s : State) (k : Nat) (x : HostPort) : (setHost s k x).pins = s.pins := rfl
@[simp] theorem setHost_pending (s : State) (k : Nat) (x : HostPort) : (setHost s k x).pending = s.pending := rfl
@[simp] theorem updHost_now (s : State) (k : Nat) (g : HostPort → HostPort) : (updHost s k g).now = s.now := rfl
@[simp] theorem updHost_stepped (s : State) (k : Nat) (g : HostPort → HostPort) : (updHost s k g).stepped = s.stepped := rfl
@[simp] theorem updHost_fresh (s : State) (k : Nat) (g : HostPort → HostPort) : (updHost s k g).fresh = s.fresh := rfl
@[simp] theorem updHost_answer (s : State) (k : Nat) (g : HostPort → HostPort) : (updHost s k g).answer = s.answer := rfl
@[simp] theorem updHost_ctr (s : State) (k : Nat) (g : HostPort → HostPort) : (updHost s k g).ctr = s.ctr := rfl
@[simp] theorem updHost_tu (s : State) (k : Nat) (g : HostPort → HostPort) : (updHost s k g).tu = s.tu := rfl
@[simp] theorem updHost_parts (s : State) (k : Nat) (g : HostPort → HostPort) : (updHost s k g).parts = s.parts := rfl
@[simp] theorem updHost_dv (s : State) (k : Nat) (g : HostPort → HostPort) : (updHost s k g).dv = s.dv := rfl
@[simp] theorem updHost_mc (s : State) (k : Nat) (g : HostPort → HostPort) : (updHost s k g).mc = s.mc := rfl
@[simp] theorem updHost_mem (s : State) (k : Nat) (g : HostPort → HostPort) : (updHost s k g).mem = s.mem := rfl
@[simp] theorem updHost_doms (s : State) (k : Nat) (g : HostPort → HostPort) : (updHost s k g).doms = s.doms := rfl
@[simp] theorem updHost_cores (s : State) (k : Nat) (g : HostPort → HostPort) : (updHost s k g).cores = s.cores := rfl
@[simp] theorem updHost_rasps (s : State) (k : Nat) (g : HostPort → HostPort) : (updHost s k g).rasps = s.rasps := rfl
@[simp] theorem updHost_benchCache (s : State) (k : Nat) (g : HostPort → HostPort) : (updHost s k g).benchCache = s.benchCache := rfl
@[simp] theorem updHost_dev (s : State) (k : Nat) (g : HostPort → HostPort) : (updHost s k g).dev = s.dev := rfl
@[simp] theorem updHost_noc (s : State) (k : Nat) (g : HostPort → HostPort) : (updHost s k g).noc = s.noc := rfl
@[simp] theorem updHost_dma (s : State) (k : Nat) (g : HostPort → HostPort) : (updHost s k g).dma = s.dma := rfl
@[simp] theorem updHost_su (s : State) (k : Nat) (g : HostPort → HostPort) : (updHost s k g).su = s.su := rfl
@[simp] theorem updHost_jig (s : State) (k : Nat) (g : HostPort → HostPort) : (updHost s k g).jig = s.jig := rfl
@[simp] theorem updHost_ln (s : State) (k : Nat) (g : HostPort → HostPort) : (updHost s k g).ln = s.ln := rfl
@[simp] theorem updHost_fh (s : State) (k : Nat) (g : HostPort → HostPort) : (updHost s k g).fh = s.fh := rfl
@[simp] theorem updHost_gc (s : State) (k : Nat) (g : HostPort → HostPort) : (updHost s k g).gc = s.gc := rfl
@[simp] theorem updHost_bh (s : State) (k : Nat) (g : HostPort → HostPort) : (updHost s k g).bh = s.bh := rfl
@[simp] theorem updHost_tm (s : State) (k : Nat) (g : HostPort → HostPort) : (updHost s k g).tm = s.tm := rfl
@[simp] theorem updHost_flt (s : State) (k : Nat) (g : HostPort → HostPort) : (updHost s k g).flt = s.flt := rfl
@[simp] theorem updHost_age (s : State) (k : Nat) (g : HostPort → HostPort) : (updHost s k g).age = s.age := rfl
@[simp] theorem updHost_th (s : State) (k : Nat) (g : HostPort → HostPort) : (updHost s k g).th = s.th := rfl
@[simp] theorem updHost_pins (s : State) (k : Nat) (g : HostPort → HostPort) : (updHost s k g).pins = s.pins := rfl
@[simp] theorem updHost_pending (s : State) (k : Nat) (g : HostPort → HostPort) : (updHost s k g).pending = s.pending := rfl

/-! ### setDom, updDom -/

@[simp] theorem getDom_setDom_same (s : State) (k : Nat) (x : Dom) : getDom (setDom s k x) k = x := tget_tset_same _ _ _ _
theorem getDom_setDom (s : State) (k j : Nat) (x : Dom) : getDom (setDom s k x) j = if j = k then x else getDom s j := tget_tset _ _ _ _ _
@[simp] theorem getDom_setDom_ne (s : State) {k j : Nat} (x : Dom) (h : j ≠ k) : getDom (setDom s k x) j = getDom s j := tget_tset_ne _ _ _ h
@[simp] theorem getDom_updDom_same (s : State) (k : Nat) (g : Dom → Dom) : getDom (updDom s k g) k = g (getDom s k) := tget_tset_same _ _ _ _
@[simp] theorem getDom_updDom_ne (s : State) {k j : Nat} (g : Dom → Dom) (h : j ≠ k) : getDom (updDom s k g) j = getDom s j := tget_tset_ne _ _ _ h
@[simp] theorem setDom_now (s : State) (k : Nat) (x : Dom) : (setDom s k x).now = s.now := rfl
@[simp] theorem setDom_stepped (s : State) (k : Nat) (x : Dom) : (setDom s k x).stepped = s.stepped := rfl
@[simp] theorem setDom_fresh (s : State) (k : Nat) (x : Dom) : (setDom s k x).fresh = s.fresh := rfl
@[simp] theorem setDom_answer (s : State) (k : Nat) (x : Dom) : (setDom s k x).answer = s.answer := rfl
@[simp] theorem setDom_ctr (s : State) (k : Nat) (x : Dom) : (setDom s k x).ctr = s.ctr := rfl
@[simp] theorem setDom_tu (s : State) (k : Nat) (x : Dom) : (setDom s k x).tu = s.tu := rfl
@[simp] theorem setDom_parts (s : State) (k : Nat) (x : Dom) : (setDom s k x).parts = s.parts := rfl
@[simp] theorem setDom_dv (s : State) (k : Nat) (x : Dom) : (setDom s k x).dv = s.dv := rfl
@[simp] theorem setDom_hosts (s : State) (k : Nat) (x : Dom) : (setDom s k x).hosts = s.hosts := rfl
@[simp] theorem setDom_mc (s : State) (k : Nat) (x : Dom) : (setDom s k x).mc = s.mc := rfl
@[simp] theorem setDom_mem (s : State) (k : Nat) (x : Dom) : (setDom s k x).mem = s.mem := rfl
@[simp] theorem setDom_cores (s : State) (k : Nat) (x : Dom) : (setDom s k x).cores = s.cores := rfl
@[simp] theorem setDom_rasps (s : State) (k : Nat) (x : Dom) : (setDom s k x).rasps = s.rasps := rfl
@[simp] theorem setDom_benchCache (s : State) (k : Nat) (x : Dom) : (setDom s k x).benchCache = s.benchCache := rfl
@[simp] theorem setDom_dev (s : State) (k : Nat) (x : Dom) : (setDom s k x).dev = s.dev := rfl
@[simp] theorem setDom_noc (s : State) (k : Nat) (x : Dom) : (setDom s k x).noc = s.noc := rfl
@[simp] theorem setDom_dma (s : State) (k : Nat) (x : Dom) : (setDom s k x).dma = s.dma := rfl
@[simp] theorem setDom_su (s : State) (k : Nat) (x : Dom) : (setDom s k x).su = s.su := rfl
@[simp] theorem setDom_jig (s : State) (k : Nat) (x : Dom) : (setDom s k x).jig = s.jig := rfl
@[simp] theorem setDom_ln (s : State) (k : Nat) (x : Dom) : (setDom s k x).ln = s.ln := rfl
@[simp] theorem setDom_fh (s : State) (k : Nat) (x : Dom) : (setDom s k x).fh = s.fh := rfl
@[simp] theorem setDom_gc (s : State) (k : Nat) (x : Dom) : (setDom s k x).gc = s.gc := rfl
@[simp] theorem setDom_bh (s : State) (k : Nat) (x : Dom) : (setDom s k x).bh = s.bh := rfl
@[simp] theorem setDom_tm (s : State) (k : Nat) (x : Dom) : (setDom s k x).tm = s.tm := rfl
@[simp] theorem setDom_flt (s : State) (k : Nat) (x : Dom) : (setDom s k x).flt = s.flt := rfl
@[simp] theorem setDom_age (s : State) (k : Nat) (x : Dom) : (setDom s k x).age = s.age := rfl
@[simp] theorem setDom_th (s : State) (k : Nat) (x : Dom) : (setDom s k x).th = s.th := rfl
@[simp] theorem setDom_pins (s : State) (k : Nat) (x : Dom) : (setDom s k x).pins = s.pins := rfl
@[simp] theorem setDom_pending (s : State) (k : Nat) (x : Dom) : (setDom s k x).pending = s.pending := rfl
@[simp] theorem updDom_now (s : State) (k : Nat) (g : Dom → Dom) : (updDom s k g).now = s.now := rfl
@[simp] theorem updDom_stepped (s : State) (k : Nat) (g : Dom → Dom) : (updDom s k g).stepped = s.stepped := rfl
@[simp] theorem updDom_fresh (s : State) (k : Nat) (g : Dom → Dom) : (updDom s k g).fresh = s.fresh := rfl
@[simp] theorem updDom_answer (s : State) (k : Nat) (g : Dom → Dom) : (updDom s k g).answer = s.answer := rfl
@[simp] theorem updDom_ctr (s : State) (k : Nat) (g : Dom → Dom) : (updDom s k g).ctr = s.ctr := rfl
@[simp] theorem updDom_tu (s : State) (k : Nat) (g : Dom → Dom) : (updDom s k g).tu = s.tu := rfl
@[simp] theorem updDom_parts (s : State) (k : Nat) (g : Dom → Dom) : (updDom s k g).parts = s.parts := rfl
@[simp] theorem updDom_dv (s : State) (k : Nat) (g : Dom → Dom) : (updDom s k g).dv = s.dv := rfl
@[simp] theorem updDom_hosts (s : State) (k : Nat) (g : Dom → Dom) : (updDom s k g).hosts = s.hosts := rfl
@[simp] theorem updDom_mc (s : State) (k : Nat) (g : Dom → Dom) : (updDom s k g).mc = s.mc := rfl
@[simp] theorem updDom_mem (s : State) (k : Nat) (g : Dom → Dom) : (updDom s k g).mem = s.mem := rfl
@[simp] theorem updDom_cores (s : State) (k : Nat) (g : Dom → Dom) : (updDom s k g).cores = s.cores := rfl
@[simp] theorem updDom_rasps (s : State) (k : Nat) (g : Dom → Dom) : (updDom s k g).rasps = s.rasps := rfl
@[simp] theorem updDom_benchCache (s : State) (k : Nat) (g : Dom → Dom) : (updDom s k g).benchCache = s.benchCache := rfl
@[simp] theorem updDom_dev (s : State) (k : Nat) (g : Dom → Dom) : (updDom s k g).dev = s.dev := rfl
@[simp] theorem updDom_noc (s : State) (k : Nat) (g : Dom → Dom) : (updDom s k g).noc = s.noc := rfl
@[simp] theorem updDom_dma (s : State) (k : Nat) (g : Dom → Dom) : (updDom s k g).dma = s.dma := rfl
@[simp] theorem updDom_su (s : State) (k : Nat) (g : Dom → Dom) : (updDom s k g).su = s.su := rfl
@[simp] theorem updDom_jig (s : State) (k : Nat) (g : Dom → Dom) : (updDom s k g).jig = s.jig := rfl
@[simp] theorem updDom_ln (s : State) (k : Nat) (g : Dom → Dom) : (updDom s k g).ln = s.ln := rfl
@[simp] theorem updDom_fh (s : State) (k : Nat) (g : Dom → Dom) : (updDom s k g).fh = s.fh := rfl
@[simp] theorem updDom_gc (s : State) (k : Nat) (g : Dom → Dom) : (updDom s k g).gc = s.gc := rfl
@[simp] theorem updDom_bh (s : State) (k : Nat) (g : Dom → Dom) : (updDom s k g).bh = s.bh := rfl
@[simp] theorem updDom_tm (s : State) (k : Nat) (g : Dom → Dom) : (updDom s k g).tm = s.tm := rfl
@[simp] theorem updDom_flt (s : State) (k : Nat) (g : Dom → Dom) : (updDom s k g).flt = s.flt := rfl
@[simp] theorem updDom_age (s : State) (k : Nat) (g : Dom → Dom) : (updDom s k g).age = s.age := rfl
@[simp] theorem updDom_th (s : State) (k : Nat) (g : Dom → Dom) : (updDom s k g).th = s.th := rfl
@[simp] theorem updDom_pins (s : State) (k : Nat) (g : Dom → Dom) : (updDom s k g).pins = s.pins := rfl
@[simp] theorem updDom_pending (s : State) (k : Nat) (g : Dom → Dom) : (updDom s k g).pending = s.pending := rfl

/-! ### setCh, updCh -/

@[simp] theorem getCh_setCh_same (s : State) (k : Nat) (x : MemCh) : getCh (setCh s k x) k = x := tget_tset_same _ _ _ _
theorem getCh_setCh (s : State) (k j : Nat) (x : MemCh) : getCh (setCh s k x) j = if j = k then x else getCh s j := tget_tset _ _ _ _ _
@[simp] theorem getCh_setCh_ne (s : State) {k j : Nat} (x : MemCh) (h : j ≠ k) : getCh (setCh s k x) j = getCh s j := tget_tset_ne _ _ _ h
@[simp] theorem getCh_updCh_same (s : State) (k : Nat) (g : MemCh → MemCh) : getCh (updCh s k g) k = g (getCh s k) := tget_tset_same _ _ _ _
@[simp] theorem getCh_updCh_ne (s : State) {k j : Nat} (g : MemCh → MemCh) (h : j ≠ k) : getCh (updCh s k g) j = getCh s j := tget_tset_ne _ _ _ h
@[simp] theorem setCh_now (s : State) (k : Nat) (x : MemCh) : (setCh s k x).now = s.now := rfl
@[simp] theorem setCh_stepped (s : State) (k : Nat) (x : MemCh) : (setCh s k x).stepped = s.stepped := rfl
@[simp] theorem setCh_fresh (s : State) (k : Nat) (x : MemCh) : (setCh s k x).fresh = s.fresh := rfl
@[simp] theorem setCh_answer (s : State) (k : Nat) (x : MemCh) : (setCh s k x).answer = s.answer := rfl
@[simp] theorem setCh_ctr (s : State) (k : Nat) (x : MemCh) : (setCh s k x).ctr = s.ctr := rfl
@[simp] theorem setCh_tu (s : State) (k : Nat) (x : MemCh) : (setCh s k x).tu = s.tu := rfl
@[simp] theorem setCh_parts (s : State) (k : Nat) (x : MemCh) : (setCh s k x).parts = s.parts := rfl
@[simp] theorem setCh_dv (s : State) (k : Nat) (x : MemCh) : (setCh s k x).dv = s.dv := rfl
@[simp] theorem setCh_hosts (s : State) (k : Nat) (x : MemCh) : (setCh s k x).hosts = s.hosts := rfl
@[simp] theorem setCh_mc (s : State) (k : Nat) (x : MemCh) : (setCh s k x).mc = s.mc := rfl
@[simp] theorem setCh_doms (s : State) (k : Nat) (x : MemCh) : (setCh s k x).doms = s.doms := rfl
@[simp] theorem setCh_cores (s : State) (k : Nat) (x : MemCh) : (setCh s k x).cores = s.cores := rfl
@[simp] theorem setCh_rasps (s : State) (k : Nat) (x : MemCh) : (setCh s k x).rasps = s.rasps := rfl
@[simp] theorem setCh_benchCache (s : State) (k : Nat) (x : MemCh) : (setCh s k x).benchCache = s.benchCache := rfl
@[simp] theorem setCh_dev (s : State) (k : Nat) (x : MemCh) : (setCh s k x).dev = s.dev := rfl
@[simp] theorem setCh_noc (s : State) (k : Nat) (x : MemCh) : (setCh s k x).noc = s.noc := rfl
@[simp] theorem setCh_dma (s : State) (k : Nat) (x : MemCh) : (setCh s k x).dma = s.dma := rfl
@[simp] theorem setCh_su (s : State) (k : Nat) (x : MemCh) : (setCh s k x).su = s.su := rfl
@[simp] theorem setCh_jig (s : State) (k : Nat) (x : MemCh) : (setCh s k x).jig = s.jig := rfl
@[simp] theorem setCh_ln (s : State) (k : Nat) (x : MemCh) : (setCh s k x).ln = s.ln := rfl
@[simp] theorem setCh_fh (s : State) (k : Nat) (x : MemCh) : (setCh s k x).fh = s.fh := rfl
@[simp] theorem setCh_gc (s : State) (k : Nat) (x : MemCh) : (setCh s k x).gc = s.gc := rfl
@[simp] theorem setCh_bh (s : State) (k : Nat) (x : MemCh) : (setCh s k x).bh = s.bh := rfl
@[simp] theorem setCh_tm (s : State) (k : Nat) (x : MemCh) : (setCh s k x).tm = s.tm := rfl
@[simp] theorem setCh_flt (s : State) (k : Nat) (x : MemCh) : (setCh s k x).flt = s.flt := rfl
@[simp] theorem setCh_age (s : State) (k : Nat) (x : MemCh) : (setCh s k x).age = s.age := rfl
@[simp] theorem setCh_th (s : State) (k : Nat) (x : MemCh) : (setCh s k x).th = s.th := rfl
@[simp] theorem setCh_pins (s : State) (k : Nat) (x : MemCh) : (setCh s k x).pins = s.pins := rfl
@[simp] theorem setCh_pending (s : State) (k : Nat) (x : MemCh) : (setCh s k x).pending = s.pending := rfl
@[simp] theorem setCh_mem_bytes (s : State) (k : Nat) (x : MemCh) : (setCh s k x).mem.bytes = s.mem.bytes := rfl
@[simp] theorem setCh_mem_pages (s : State) (k : Nat) (x : MemCh) : (setCh s k x).mem.pages = s.mem.pages := rfl
@[simp] theorem setCh_mem_rgn (s : State) (k : Nat) (x : MemCh) : (setCh s k x).mem.rgn = s.mem.rgn := rfl
@[simp] theorem setCh_mem_rgnDefT (s : State) (k : Nat) (x : MemCh) : (setCh s k x).mem.rgnDefT = s.mem.rgnDefT := rfl
@[simp] theorem setCh_mem_sramErr (s : State) (k : Nat) (x : MemCh) : (setCh s k x).mem.sramErr = s.mem.sramErr := rfl
@[simp] theorem setCh_mem_srs (s : State) (k : Nat) (x : MemCh) : (setCh s k x).mem.srs = s.mem.srs := rfl
@[simp] theorem setCh_mem_pncFh (s : State) (k : Nat) (x : MemCh) : (setCh s k x).mem.pncFh = s.mem.pncFh := rfl
@[simp] theorem setCh_mem_pncNs (s : State) (k : Nat) (x : MemCh) : (setCh s k x).mem.pncNs = s.mem.pncNs := rfl
@[simp] theorem setCh_mem_pncBp (s : State) (k : Nat) (x : MemCh) : (setCh s k x).mem.pncBp = s.mem.pncBp := rfl
@[simp] theorem setCh_mem_panicFh (s : State) (k : Nat) (x : MemCh) : (setCh s k x).mem.panicFh = s.mem.panicFh := rfl
@[simp] theorem setCh_mem_panicNs (s : State) (k : Nat) (x : MemCh) : (setCh s k x).mem.panicNs = s.mem.panicNs := rfl
@[simp] theorem setCh_mem_panicBp (s : State) (k : Nat) (x : MemCh) : (setCh s k x).mem.panicBp = s.mem.panicBp := rfl
@[simp] theorem updCh_now (s : State) (k : Nat) (g : MemCh → MemCh) : (updCh s k g).now = s.now := rfl
@[simp] theorem updCh_stepped (s : State) (k : Nat) (g : MemCh → MemCh) : (updCh s k g).stepped = s.stepped := rfl
@[simp] theorem updCh_fresh (s : State) (k : Nat) (g : MemCh → MemCh) : (updCh s k g).fresh = s.fresh := rfl
@[simp] theorem updCh_answer (s : State) (k : Nat) (g : MemCh → MemCh) : (updCh s k g).answer = s.answer := rfl
@[simp] theorem updCh_ctr (s : State) (k : Nat) (g : MemCh → MemCh) : (updCh s k g).ctr = s.ctr := rfl
@[simp] theorem updCh_tu (s : State) (k : Nat) (g : MemCh → MemCh) : (updCh s k g).tu = s.tu := rfl
@[simp] theorem updCh_parts (s : State) (k : Nat) (g : MemCh → MemCh) : (updCh s k g).parts = s.parts := rfl
@[simp] theorem updCh_dv (s : State) (k : Nat) (g : MemCh → MemCh) : (updCh s k g).dv = s.dv := rfl
@[simp] theorem updCh_hosts (s : State) (k : Nat) (g : MemCh → MemCh) : (updCh s k g).hosts = s.hosts := rfl
@[simp] theorem updCh_mc (s : State) (k : Nat) (g : MemCh → MemCh) : (updCh s k g).mc = s.mc := rfl
@[simp] theorem updCh_doms (s : State) (k : Nat) (g : MemCh → MemCh) : (updCh s k g).doms = s.doms := rfl
@[simp] theorem updCh_cores (s : State) (k : Nat) (g : MemCh → MemCh) : (updCh s k g).cores = s.cores := rfl
@[simp] theorem updCh_rasps (s : State) (k : Nat) (g : MemCh → MemCh) : (updCh s k g).rasps = s.rasps := rfl
@[simp] theorem updCh_benchCache (s : State) (k : Nat) (g : MemCh → MemCh) : (updCh s k g).benchCache = s.benchCache := rfl
@[simp] theorem updCh_dev (s : State) (k : Nat) (g : MemCh → MemCh) : (updCh s k g).dev = s.dev := rfl
@[simp] theorem updCh_noc (s : State) (k : Nat) (g : MemCh → MemCh) : (updCh s k g).noc = s.noc := rfl
@[simp] theorem updCh_dma (s : State) (k : Nat) (g : MemCh → MemCh) : (updCh s k g).dma = s.dma := rfl
@[simp] theorem updCh_su (s : State) (k : Nat) (g : MemCh → MemCh) : (updCh s k g).su = s.su := rfl
@[simp] theorem updCh_jig (s : State) (k : Nat) (g : MemCh → MemCh) : (updCh s k g).jig = s.jig := rfl
@[simp] theorem updCh_ln (s : State) (k : Nat) (g : MemCh → MemCh) : (updCh s k g).ln = s.ln := rfl
@[simp] theorem updCh_fh (s : State) (k : Nat) (g : MemCh → MemCh) : (updCh s k g).fh = s.fh := rfl
@[simp] theorem updCh_gc (s : State) (k : Nat) (g : MemCh → MemCh) : (updCh s k g).gc = s.gc := rfl
@[simp] theorem updCh_bh (s : State) (k : Nat) (g : MemCh → MemCh) : (updCh s k g).bh = s.bh := rfl
@[simp] theorem updCh_tm (s : State) (k : Nat) (g : MemCh → MemCh) : (updCh s k g).tm = s.tm := rfl
@[simp] theorem updCh_flt (s : State) (k : Nat) (g : MemCh → MemCh) : (updCh s k g).flt = s.flt := rfl
@[simp] theorem updCh_age (s : State) (k : Nat) (g : MemCh → MemCh) : (updCh s k g).age = s.age := rfl
@[simp] theorem updCh_th (s : State) (k : Nat) (g : MemCh → MemCh) : (updCh s k g).th = s.th := rfl
@[simp] theorem updCh_pins (s : State) (k : Nat) (g : MemCh → MemCh) : (updCh s k g).pins = s.pins := rfl
@[simp] theorem updCh_pending (s : State) (k : Nat) (g : MemCh → MemCh) : (updCh s k g).pending = s.pending := rfl
@[simp] theorem updCh_mem_bytes (s : State) (k : Nat) (g : MemCh → MemCh) : (updCh s k g).mem.bytes = s.mem.bytes := rfl
@[simp] theorem updCh_mem_pages (s : State) (k : Nat) (g : MemCh → MemCh) : (updCh s k g).mem.pages = s.mem.pages := rfl
@[simp] theorem updCh_mem_rgn (s : State) (k : Nat) (g : MemCh → MemCh) : (updCh s k g).mem.rgn = s.mem.rgn := rfl
@[simp] theorem updCh_mem_rgnDefT (s : State) (k : Nat) (g : MemCh → MemCh) : (updCh s k g).mem.rgnDefT = s.mem.rgnDefT := rfl
@[simp] theorem updCh_mem_sramErr (s : State) (k : Nat) (g : MemCh → MemCh) : (updCh s k g).mem.sramErr = s.mem.sramErr := rfl
@[simp] theorem updCh_mem_srs (s : State) (k : Nat) (g : MemCh → MemCh) : (updCh s k g).mem.srs = s.mem.srs := rfl
@[simp] theorem updCh_mem_pncFh (s : State) (k : Nat) (g : MemCh → MemCh) : (updCh s k g).mem.pncFh = s.mem.pncFh := rfl
@[simp] theorem updCh_mem_pncNs (s : State) (k : Nat) (g : MemCh → MemCh) : (updCh s k g).mem.pncNs = s.mem.pncNs := rfl
@[simp] theorem updCh_mem_pncBp (s : State) (k : Nat) (g : MemCh → MemCh) : (updCh s k g).mem.pncBp = s.mem.pncBp := rfl
@[simp] theorem updCh_mem_panicFh (s : State) (k : Nat) (g : MemCh → MemCh) : (updCh s k g).mem.panicFh = s.mem.panicFh := rfl
@[simp] theorem updCh_mem_panicNs (s : State) (k : Nat) (g : MemCh → MemCh) : (updCh s k g).mem.panicNs = s.mem.panicNs := rfl
@[simp] theorem updCh_mem_panicBp (s : State) (k : Nat) (g : MemCh → MemCh) : (updCh s k g).mem.panicBp = s.mem.panicBp := rfl

/-! ### setSr -/

@[simp] theorem getSr_setSr_same (s : State) (k : Nat) (x : Sr) : getSr (setSr s k x) k = x := tget_tset_same _ _ _ _
theorem getSr_setSr (s : State) (k j : Nat) (x : Sr) : getSr (setSr s k x) j = if j = k then x else getSr s j := tget_tset _ _ _ _ _
@[simp] theorem getSr_setSr_ne (s : State) {k j : Nat} (x : Sr) (h : j ≠ k) : getSr (setSr s k x) j = getSr s j := tget_tset_ne _ _ _ h
@[simp] theorem setSr_now (s : State) (k : Nat) (x : Sr) : (setSr s k x).now = s.now := rfl
@[simp] theorem setSr_stepped (s : State) (k : Nat) (x : Sr) : (setSr s k x).stepped = s.stepped := rfl
@[simp] theorem setSr_fresh (s : State) (k : Nat) (x : Sr) : (setSr s k x).fresh = s.fresh := rfl
@[simp] theorem setSr_answer (s : State) (k : Nat) (x : Sr) : (setSr s k x).answer = s.answer := rfl
@[simp] theorem setSr_ctr (s : State) (k : Nat) (x : Sr) : (setSr s k x).ctr = s.ctr := rfl
@[simp] theorem setSr_tu (s : State) (k : Nat) (x : Sr) : (setSr s k x).tu = s.tu := rfl
@[simp] theorem setSr_parts (s : State) (k : Nat) (x : Sr) : (setSr s k x).parts = s.parts := rfl
@[simp] theorem setSr_dv (s : State) (k : Nat) (x : Sr) : (setSr s k x).dv = s.dv := rfl
@[simp] theorem setSr_hosts (s : State) (k : Nat) (x : Sr) : (setSr s k x).hosts = s.hosts := rfl
@[simp] theorem setSr_mc (s : State) (k : Nat) (x : Sr) : (setSr s k x).mc = s.mc := rfl
@[simp] theorem setSr_doms (s : State) (k : Nat) (x : Sr) : (setSr s k x).doms = s.doms := rfl
@[simp] theorem setSr_cores (s : State) (k : Nat) (x : Sr) : (setSr s k x).cores = s.cores := rfl
@[simp] theorem setSr_rasps (s : State) (k : Nat) (x : Sr) : (setSr s k x).rasps = s.rasps := rfl
@[simp] theorem setSr_benchCache (s : State) (k : Nat) (x : Sr) : (setSr s k x).benchCache = s.benchCache := rfl
@[simp] theorem setSr_dev (s : State) (k : Nat) (x : Sr) : (setSr s k x).dev = s.dev := rfl
@[simp] theorem setSr_noc (s : State) (k : Nat) (x : Sr) : (setSr s k x).noc = s.noc := rfl
@[simp] theorem setSr_dma (s : State) (k : Nat) (x : Sr) : (setSr s k x).dma = s.dma := rfl
@[simp] theorem setSr_su (s : State) (k : Nat) (x : Sr) : (setSr s k x).su = s.su := rfl
@[simp] theorem setSr_jig (s : State) (k : Nat) (x : Sr) : (setSr s k x).jig = s.jig := rfl
@[simp] theorem setSr_ln (s : State) (k : Nat) (x : Sr) : (setSr s k x).ln = s.ln := rfl
@[simp] theorem setSr_fh (s : State) (k : Nat) (x : Sr) : (setSr s k x).fh = s.fh := rfl
@[simp] theorem setSr_gc (s : State) (k : Nat) (x : Sr) : (setSr s k x).gc = s.gc := rfl
@[simp] theorem setSr_bh (s : State) (k : Nat) (x : Sr) : (setSr s k x).bh = s.bh := rfl
@[simp] theorem setSr_tm (s : State) (k : Nat) (x : Sr) : (setSr s k x).tm = s.tm := rfl
@[simp] theorem setSr_flt (s : State) (k : Nat) (x : Sr) : (setSr s k x).flt = s.flt := rfl
@[simp] theorem setSr_age (s : State) (k : Nat) (x : Sr) : (setSr s k x).age = s.age := rfl
@[simp] theorem setSr_th (s : State) (k : Nat) (x : Sr) : (setSr s k x).th = s.th := rfl
@[simp] theorem setSr_pins (s : State) (k : Nat) (x : Sr) : (setSr s k x).pins = s.pins := rfl
@[simp] theorem setSr_pending (s : State) (k : Nat) (x : Sr) : (setSr s k x).pending = s.pending := rfl
@[simp] theorem setSr_mem_bytes (s : State) (k : Nat) (x : Sr) : (setSr s k x).mem.bytes = s.mem.bytes := rfl
@[simp] theorem setSr_mem_pages (s : State) (k : Nat) (x : Sr) : (setSr s k x).mem.pages = s.mem.pages := rfl
@[simp] theorem setSr_mem_chs (s : State) (k : Nat) (x : Sr) : (setSr s k x).mem.chs = s.mem.chs := rfl
@[simp] theorem setSr_mem_rgn (s : State) (k : Nat) (x : Sr) : (setSr s k x).mem.rgn = s.mem.rgn := rfl
@[simp] theorem setSr_mem_rgnDefT (s : State) (k : Nat) (x : Sr) : (setSr s k x).mem.rgnDefT = s.mem.rgnDefT := rfl
@[simp] theorem setSr_mem_sramErr (s : State) (k : Nat) (x : Sr) : (setSr s k x).mem.sramErr = s.mem.sramErr := rfl
@[simp] theorem setSr_mem_pncFh (s : State) (k : Nat) (x : Sr) : (setSr s k x).mem.pncFh = s.mem.pncFh := rfl
@[simp] theorem setSr_mem_pncNs (s : State) (k : Nat) (x : Sr) : (setSr s k x).mem.pncNs = s.mem.pncNs := rfl
@[simp] theorem setSr_mem_pncBp (s : State) (k : Nat) (x : Sr) : (setSr s k x).mem.pncBp = s.mem.pncBp := rfl
@[simp] theorem setSr_mem_panicFh (s : State) (k : Nat) (x : Sr) : (setSr s k x).mem.panicFh = s.mem.panicFh := rfl
@[simp] theorem setSr_mem_panicNs (s : State) (k : Nat) (x : Sr) : (setSr s k x).mem.panicNs = s.mem.panicNs := rfl
@[simp] theorem setSr_mem_panicBp (s : State) (k : Nat) (x : Sr) : (setSr s k x).mem.panicBp = s.mem.panicBp := rfl

/-! ### setFlow, updFlow -/

@[simp] theorem getFlow_setFlow_same (s : State) (k : Nat) (x : Flow) : getFlow (setFlow s k x) k = x := tget_tset_same _ _ _ _
theorem getFlow_setFlow (s : State) (k j : Nat) (x : Flow) : getFlow (setFlow s k x) j = if j = k then x else getFlow s j := tget_tset _ _ _ _ _
@[simp] theorem getFlow_setFlow_ne (s : State) {k j : Nat} (x : Flow) (h : j ≠ k) : getFlow (setFlow s k x) j = getFlow s j := tget_tset_ne _ _ _ h
@[simp] theorem getFlow_updFlow_same (s : State) (k : Nat) (g : Flow → Flow) : getFlow (updFlow s k g) k = g (getFlow s k) := tget_tset_same _ _ _ _
@[simp] theorem getFlow_updFlow_ne (s : State) {k j : Nat} (g : Flow → Flow) (h : j ≠ k) : getFlow (updFlow s k g) j = getFlow s j := tget_tset_ne _ _ _ h
@[simp] theorem setFlow_now (s : State) (k : Nat) (x : Flow) : (setFlow s k x).now = s.now := rfl
@[simp] theorem setFlow_stepped (s : State) (k : Nat) (x : Flow) : (setFlow s k x).stepped = s.stepped := rfl
@[simp] theorem setFlow_fresh (s : State) (k : Nat) (x : Flow) : (setFlow s k x).fresh = s.fresh := rfl
@[simp] theorem setFlow_answer (s : State) (k : Nat) (x : Flow) : (setFlow s k x).answer = s.answer := rfl
@[simp] theorem setFlow_ctr (s : State) (k : Nat) (x : Flow) : (setFlow s k x).ctr = s.ctr := rfl
@[simp] theorem setFlow_tu (s : State) (k : Nat) (x : Flow) : (setFlow s k x).tu = s.tu := rfl
@[simp] theorem setFlow_parts (s : State) (k : Nat) (x : Flow) : (setFlow s k x).parts = s.parts := rfl
@[simp] theorem setFlow_hosts (s : State) (k : Nat) (x : Flow) : (setFlow s k x).hosts = s.hosts := rfl
@[simp] theorem setFlow_mc (s : State) (k : Nat) (x : Flow) : (setFlow s k x).mc = s.mc := rfl
@[simp] theorem setFlow_mem (s : State) (k : Nat) (x : Flow) : (setFlow s k x).mem = s.mem := rfl
@[simp] theorem setFlow_doms (s : State) (k : Nat) (x : Flow) : (setFlow s k x).doms = s.doms := rfl
@[simp] theorem setFlow_cores (s : State) (k : Nat) (x : Flow) : (setFlow s k x).cores = s.cores := rfl
@[simp] theorem setFlow_rasps (s : State) (k : Nat) (x : Flow) : (setFlow s k x).rasps = s.rasps := rfl
@[simp] theorem setFlow_benchCache (s : State) (k : Nat) (x : Flow) : (setFlow s k x).benchCache = s.benchCache := rfl
@[simp] theorem setFlow_dev (s : State) (k : Nat) (x : Flow) : (setFlow s k x).dev = s.dev := rfl
@[simp] theorem setFlow_noc (s : State) (k : Nat) (x : Flow) : (setFlow s k x).noc = s.noc := rfl
@[simp] theorem setFlow_dma (s : State) (k : Nat) (x : Flow) : (setFlow s k x).dma = s.dma := rfl
@[simp] theorem setFlow_su (s : State) (k : Nat) (x : Flow) : (setFlow s k x).su = s.su := rfl
@[simp] theorem setFlow_jig (s : State) (k : Nat) (x : Flow) : (setFlow s k x).jig = s.jig := rfl
@[simp] theorem setFlow_ln (s : State) (k : Nat) (x : Flow) : (setFlow s k x).ln = s.ln := rfl
@[simp] theorem setFlow_fh (s : State) (k : Nat) (x : Flow) : (setFlow s k x).fh = s.fh := rfl
@[simp] theorem setFlow_gc (s : State) (k : Nat) (x : Flow) : (setFlow s k x).gc = s.gc := rfl
@[simp] theorem setFlow_bh (s : State) (k : Nat) (x : Flow) : (setFlow s k x).bh = s.bh := rfl
@[simp] theorem setFlow_tm (s : State) (k : Nat) (x : Flow) : (setFlow s k x).tm = s.tm := rfl
@[simp] theorem setFlow_flt (s : State) (k : Nat) (x : Flow) : (setFlow s k x).flt = s.flt := rfl
@[simp] theorem setFlow_age (s : State) (k : Nat) (x : Flow) : (setFlow s k x).age = s.age := rfl
@[simp] theorem setFlow_th (s : State) (k : Nat) (x : Flow) : (setFlow s k x).th = s.th := rfl
@[simp] theorem setFlow_pins (s : State) (k : Nat) (x : Flow) : (setFlow s k x).pins = s.pins := rfl
@[simp] theorem setFlow_pending (s : State) (k : Nat) (x : Flow) : (setFlow s k x).pending = s.pending := rfl
@[simp] theorem setFlow_dv_items (s : State) (k : Nat) (x : Flow) : (setFlow s k x).dv.items = s.dv.items := rfl
@[simp] theorem setFlow_dv_nextId (s : State) (k : Nat) (x : Flow) : (setFlow s k x).dv.nextId = s.dv.nextId := rfl
@[simp] theorem setFlow_dv_csets (s : State) (k : Nat) (x : Flow) : (setFlow s k x).dv.csets = s.dv.csets := rfl
@[simp] theorem setFlow_dv_cores (s : State) (k : Nat) (x : Flow) : (setFlow s k x).dv.cores = s.dv.cores := rfl
@[simp] theorem setFlow_dv_nextOrd (s : State) (k : Nat) (x : Flow) : (setFlow s k x).dv.nextOrd = s.dv.nextOrd := rfl
@[simp] theorem setFlow_dv_gens (s : State) (k : Nat) (x : Flow) : (setFlow s k x).dv.gens = s.dv.gens := rfl
@[simp] theorem updFlow_now (s : State) (k : Nat) (g : Flow → Flow) : (updFlow s k g).now = s.now := rfl
@[simp] theorem updFlow_stepped (s : State) (k : Nat) (g : Flow → Flow) : (updFlow s k g).stepped = s.stepped := rfl
@[simp] theorem updFlow_fresh (s : State) (k : Nat) (g : Flow → Flow) : (updFlow s k g).fresh = s.fresh := rfl
@[simp] theorem updFlow_answer (s : State) (k : Nat) (g : Flow → Flow) : (updFlow s k g).answer = s.answer := rfl
@[simp] theorem updFlow_ctr (s : State) (k : Nat) (g : Flow → Flow) : (updFlow s k g).ctr = s.ctr := rfl
@[simp] theorem updFlow_tu (s : State) (k : Nat) (g : Flow → Flow) : (updFlow s k g).tu = s.tu := rfl
@[simp] theorem updFlow_parts (s : State) (k : Nat) (g : Flow → Flow) : (updFlow s k g).parts = s.parts := rfl
@[simp] theorem updFlow_hosts (s : State) (k : Nat) (g : Flow → Flow) : (updFlow s k g).hosts = s.hosts := rfl
@[simp] theorem updFlow_mc (s : State) (k : Nat) (g : Flow → Flow) : (updFlow s k g).mc = s.mc := rfl
@[simp] theorem updFlow_mem (s : State) (k : Nat) (g : Flow → Flow) : (updFlow s k g).mem = s.mem := rfl
@[simp] theorem updFlow_doms (s : State) (k : Nat) (g : Flow → Flow) : (updFlow s k g).doms = s.doms := rfl
@[simp] theorem updFlow_cores (s : State) (k : Nat) (g : Flow → Flow) : (updFlow s k g).cores = s.cores := rfl
@[simp] theorem updFlow_rasps (s : State) (k : Nat) (g : Flow → Flow) : (updFlow s k g).rasps = s.rasps := rfl
@[simp] theorem updFlow_benchCache (s : State) (k : Nat) (g : Flow → Flow) : (updFlow s k g).benchCache = s.benchCache := rfl
@[simp] theorem updFlow_dev (s : State) (k : Nat) (g : Flow → Flow) : (updFlow s k g).dev = s.dev := rfl
@[simp] theorem updFlow_noc (s : State) (k : Nat) (g : Flow → Flow) : (updFlow s k g).noc = s.noc := rfl
@[simp] theorem updFlow_dma (s : State) (k : Nat) (g : Flow → Flow) : (updFlow s k g).dma = s.dma := rfl
@[simp] theorem updFlow_su (s : State) (k : Nat) (g : Flow → Flow) : (updFlow s k g).su = s.su := rfl
@[simp] theorem updFlow_jig (s : State) (k : Nat) (g : Flow → Flow) : (updFlow s k g).jig = s.jig := rfl
@[simp] theorem updFlow_ln (s : State) (k : Nat) (g : Flow → Flow) : (updFlow s k g).ln = s.ln := rfl
@[simp] theorem updFlow_fh (s : State) (k : Nat) (g : Flow → Flow) : (updFlow s k g).fh = s.fh := rfl
@[simp] theorem updFlow_gc (s : State) (k : Nat) (g : Flow → Flow) : (updFlow s k g).gc = s.gc := rfl
@[simp] theorem updFlow_bh (s : State) (k : Nat) (g : Flow → Flow) : (updFlow s k g).bh = s.bh := rfl
@[simp] theorem updFlow_tm (s : State) (k : Nat) (g : Flow → Flow) : (updFlow s k g).tm = s.tm := rfl
@[simp] theorem updFlow_flt (s : State) (k : Nat) (g : Flow → Flow) : (updFlow s k g).flt = s.flt := rfl
@[simp] theorem updFlow_age (s : State) (k : Nat) (g : Flow → Flow) : (updFlow s k g).age = s.age := rfl
@[simp] theorem updFlow_th (s : State) (k : Nat) (g : Flow → Flow) : (updFlow s k g).th = s.th := rfl
@[simp] theorem updFlow_pins (s : State) (k : Nat) (g : Flow → Flow) : (updFlow s k g).pins = s.pins := rfl
@[simp] theorem updFlow_pending (s : State) (k : Nat) (g : Flow → Flow) : (updFlow s k g).pending = s.pending := rfl
@[simp] theorem updFlow_dv_items (s : State) (k : Nat) (g : Flow → Flow) : (updFlow s k g).dv.items = s.dv.items := rfl
@[simp] theorem updFlow_dv_nextId (s : State) (k : Nat) (g : Flow → Flow) : (updFlow s k g).dv.nextId = s.dv.nextId := rfl
@[simp] theorem updFlow_dv_csets (s : State) (k : Nat) (g : Flow → Flow) : (updFlow s k g).dv.csets = s.dv.csets := rfl
@[simp] theorem updFlow_dv_cores (s : State) (k : Nat) (g : Flow → Flow) : (updFlow s k g).dv.cores = s.dv.cores := rfl
@[simp] theorem updFlow_dv_nextOrd (s : State) (k : Nat) (g : Flow → Flow) : (updFlow s k g).dv.nextOrd = s.dv.nextOrd := rfl
@[simp] theorem updFlow_dv_gens (s : State) (k : Nat) (g : Flow → Flow) : (updFlow s k g).dv.gens = s.dv.gens := rfl

/-! ### setDvCore -/

@[simp] theorem getDvCore_setDvCore_same (s : State) (k : Nat) (x : DvCore) : getDvCore (setDvCore s k x) k = x := tget_tset_same _ _ _ _
theorem getDvCore_setDvCore (s : State) (k j : Nat) (x : DvCore) : getDvCore (setDvCore s k x) j = if j = k then x else getDvCore s j := tget_tset _ _ _ _ _
@[simp] theorem getDvCore_setDvCore_ne (s : State) {k j : Nat} (x : DvCore) (h : j ≠ k) : getDvCore (setDvCore s k x) j = getDvCore s j := tget_tset_ne _ _ _ h
@[simp] theorem setDvCore_now (s : State) (k : Nat) (x : DvCore) : (setDvCore s k x).now = s.now := rfl
@[simp] theorem setDvCore_stepped (s : State) (k : Nat) (x : DvCore) : (setDvCore s k x).stepped = s.stepped := rfl
@[simp] theorem setDvCore_fresh (s : State) (k : Nat) (x : DvCore) : (setDvCore s k x).fresh = s.fresh := rfl
@[simp] theorem setDvCore_answer (s : State) (k : Nat) (x : DvCore) : (setDvCore s k x).answer = s.answer := rfl
@[simp] theorem setDvCore_ctr (s : State) (k : Nat) (x : DvCore) : (setDvCore s k x).ctr = s.ctr := rfl
@[simp] theorem setDvCore_tu (s : State) (k : Nat) (x : DvCore) : (setDvCore s k x).tu = s.tu := rfl
@[simp] theorem setDvCore_parts (s : State) (k : Nat) (x : DvCore) : (setDvCore s k x).parts = s.parts := rfl
@[simp] theorem setDvCore_hosts (s : State) (k : Nat) (x : DvCore) : (setDvCore s k x).hosts = s.hosts := rfl
@[simp] theorem setDvCore_mc (s : State) (k : Nat) (x : DvCore) : (setDvCore s k x).mc = s.mc := rfl
@[simp] theorem setDvCore_mem (s : State) (k : Nat) (x : DvCore) : (setDvCore s k x).mem = s.mem := rfl
@[simp] theorem setDvCore_doms (s : State) (k : Nat) (x : DvCore) : (setDvCore s k x).doms = s.doms := rfl
@[simp] theorem setDvCore_cores (s : State) (k : Nat) (x : DvCore) : (setDvCore s k x).cores = s.cores := rfl
@[simp] theorem setDvCore_rasps (s : State) (k : Nat) (x : DvCore) : (setDvCore s k x).rasps = s.rasps := rfl
@[simp] theorem setDvCore_benchCache (s : State) (k : Nat) (x : DvCore) : (setDvCore s k x).benchCache = s.benchCache := rfl
@[simp] theorem setDvCore_dev (s : State) (k : Nat) (x : DvCore) : (setDvCore s k x).dev = s.dev := rfl
@[simp] theorem setDvCore_noc (s : State) (k : Nat) (x : DvCore) : (setDvCore s k x).noc = s.noc := rfl
@[simp] theorem setDvCore_dma (s : State) (k : Nat) (x : DvCore) : (setDvCore s k x).dma = s.dma := rfl
@[simp] theorem setDvCore_su (s : State) (k : Nat) (x : DvCore) : (setDvCore s k x).su = s.su := rfl
@[simp] theorem setDvCore_jig (s : State) (k : Nat) (x : DvCore) : (setDvCore s k x).jig = s.jig := rfl
@[simp] theorem setDvCore_ln (s : State) (k : Nat) (x : DvCore) : (setDvCore s k x).ln = s.ln := rfl
@[simp] theorem setDvCore_fh (s : State) (k : Nat) (x : DvCore) : (setDvCore s k x).fh = s.fh := rfl
@[simp] theorem setDvCore_gc (s : State) (k : Nat) (x : DvCore) : (setDvCore s k x).gc = s.gc := rfl
@[simp] theorem setDvCore_bh (s : State) (k : Nat) (x : DvCore) : (setDvCore s k x).bh = s.bh := rfl
@[simp] theorem setDvCore_tm (s : State) (k : Nat) (x : DvCore) : (setDvCore s k x).tm = s.tm := rfl
@[simp] theorem setDvCore_flt (s : State) (k : Nat) (x : DvCore) : (setDvCore s k x).flt = s.flt := rfl
@[simp] theorem setDvCore_age (s : State) (k : Nat) (x : DvCore) : (setDvCore s k x).age = s.age := rfl
@[simp] theorem setDvCore_th (s : State) (k : Nat) (x : DvCore) : (setDvCore s k x).th = s.th := rfl
@[simp] theorem setDvCore_pins (s : State) (k : Nat) (x : DvCore) : (setDvCore s k x).pins = s.pins := rfl
@[simp] theorem setDvCore_pending (s : State) (k : Nat) (x : DvCore) : (setDvCore s k x).pending = s.pending := rfl
@[simp] theorem setDvCore_dv_flows (s : State) (k : Nat) (x : DvCore) : (setDvCore s k x).dv.flows = s.dv.flows := rfl
@[simp] theorem setDvCore_dv_items (s : State) (k : Nat) (x : DvCore) : (setDvCore s k x).dv.items = s.dv.items := rfl
@[simp] theorem setDvCore_dv_nextId (s : State) (k : Nat) (x : DvCore) : (setDvCore s k x).dv.nextId = s.dv.nextId := rfl
@[simp] theorem setDvCore_dv_csets (s : State) (k : Nat) (x : DvCore) : (setDvCore s k x).dv.csets = s.dv.csets := rfl
@[simp] theorem setDvCore_dv_nextOrd (s : State) (k : Nat) (x : DvCore) : (setDvCore s k x).dv.nextOrd = s.dv.nextOrd := rfl
@[simp] theorem setDvCore_dv_gens (s : State) (k : Nat) (x : DvCore) : (setDvCore s k x).dv.gens = s.dv.gens := rfl

/-! ### setRasp -/

@[simp] theorem getRasp_setRasp_same (s : State) (k : Nat) (x : Rasp) : getRasp (setRasp s k x) k = x := tget_tset_same _ _ _ _
theorem getRasp_setRasp (s : State) (k j : Nat) (x : Rasp) : getRasp (setRasp s k x) j = if j = k then x else getRasp s j := tget_tset _ _ _ _ _
@[simp] theorem getRasp_setRasp_ne (s : State) {k j : Nat} (x : Rasp) (h : j ≠ k) : getRasp (setRasp s k x) j = getRasp s j := tget_tset_ne _ _ _ h
@[simp] theorem setRasp_now (s : State) (k : Nat) (x : Rasp) : (setRasp s k x).now = s.now := rfl
@[simp] theorem setRasp_stepped (s : State) (k : Nat) (x : Rasp) : (setRasp s k x).stepped = s.stepped := rfl
@[simp] theorem setRasp_fresh (s : State) (k : Nat) (x : Rasp) : (setRasp s k x).fresh = s.fresh := rfl
@[simp] theorem setRasp_answer (s : State) (k : Nat) (x : Rasp) : (setRasp s k x).answer = s.answer := rfl
@[simp] theorem setRasp_ctr (s : State) (k : Nat) (x : Rasp) : (setRasp s k x).ctr = s.ctr := rfl
@[simp] theorem setRasp_tu (s : State) (k : Nat) (x : Rasp) : (setRasp s k x).tu = s.tu := rfl
@[simp] theorem setRasp_parts (s : State) (k : Nat) (x : Rasp) : (setRasp s k x).parts = s.parts := rfl
@[simp] theorem setRasp_dv (s : State) (k : Nat) (x : Rasp) : (setRasp s k x).dv = s.dv := rfl
@[simp] theorem setRasp_hosts (s : State) (k : Nat) (x : Rasp) : (setRasp s k x).hosts = s.hosts := rfl
@[simp] theorem setRasp_mc (s : State) (k : Nat) (x : Rasp) : (setRasp s k x).mc = s.mc := rfl
@[simp] theorem setRasp_mem (s : State) (k : Nat) (x : Rasp) : (setRasp s k x).mem = s.mem := rfl
@[simp] theorem setRasp_doms (s : State) (k : Nat) (x : Rasp) : (setRasp s k x).doms = s.doms := rfl
@[simp] theorem setRasp_cores (s : State) (k : Nat) (x : Rasp) : (setRasp s k x).cores = s.cores := rfl
@[simp] theorem setRasp_benchCache (s : State) (k : Nat) (x : Rasp) : (setRasp s k x).benchCache = s.benchCache := rfl
@[simp] theorem setRasp_dev (s : State) (k : Nat) (x : Rasp) : (setRasp s k x).dev = s.dev := rfl
@[simp] theorem setRasp_noc (s : State) (k : Nat) (x : Rasp) : (setRasp s k x).noc = s.noc := rfl
@[simp] theorem setRasp_dma (s : State) (k : Nat) (x : Rasp) : (setRasp s k x).dma = s.dma := rfl
@[simp] theorem setRasp_su (s : State) (k : Nat) (x : Rasp) : (setRasp s k x).su = s.su := rfl
@[simp] theorem setRasp_jig (s : State) (k : Nat) (x : Rasp) : (setRasp s k x).jig = s.jig := rfl
@[simp] theorem setRasp_ln (s : State) (k : Nat) (x : Rasp) : (setRasp s k x).ln = s.ln := rfl
@[simp] theorem setRasp_fh (s : State) (k : Nat) (x : Rasp) : (setRasp s k x).fh = s.fh := rfl
@[simp] theorem setRasp_gc (s : State) (k : Nat) (x : Rasp) : (setRasp s k x).gc = s.gc := rfl
@[simp] theorem setRasp_bh (s : State) (k : Nat) (x : Rasp) : (setRasp s k x).bh = s.bh := rfl
@[simp] theorem setRasp_tm (s : State) (k : Nat) (x : Rasp) : (setRasp s k x).tm = s.tm := rfl
@[simp] theorem setRasp_flt (s : State) (k : Nat) (x : Rasp) : (setRasp s k x).flt = s.flt := rfl
@[simp] theorem setRasp_age (s : State) (k : Nat) (x : Rasp) : (setRasp s k x).age = s.age := rfl
@[simp] theorem setRasp_th (s : State) (k : Nat) (x : Rasp) : (setRasp s k x).th = s.th := rfl
@[simp] theorem setRasp_pins (s : State) (k : Nat) (x : Rasp) : (setRasp s k x).pins = s.pins := rfl
@[simp] theorem setRasp_pending (s : State) (k : Nat) (x : Rasp) : (setRasp s k x).pending = s.pending := rfl

/-! ### setPort -/

@[simp] theorem getPort_setPort_same (s : State) (k : Nat) (x : NocPort) : getPort (setPort s k x) k = x := tget_tset_same _ _ _ _
theorem getPort_setPort (s : State) (k j : Nat) (x : NocPort) : getPort (setPort s k x) j = if j = k then x else getPort s j := tget_tset _ _ _ _ _
@[simp] theorem getPort_setPort_ne (s : State) {k j : Nat} (x : NocPort) (h : j ≠ k) : getPort (setPort s k x) j = getPort s j := tget_tset_ne _ _ _ h
@[simp] theorem setPort_now (s : State) (k : Nat) (x : NocPort) : (setPort s k x).now = s.now := rfl
@[simp] theorem setPort_stepped (s : State) (k : Nat) (x : NocPort) : (setPort s k x).stepped = s.stepped := rfl
@[simp] theorem setPort_fresh (s : State) (k : Nat) (x : NocPort) : (setPort s k x).fresh = s.fresh := rfl
@[simp] theorem setPort_answer (s : State) (k : Nat) (x : NocPort) : (setPort s k x).answer = s.answer := rfl
@[simp] theorem setPort_ctr (s : State) (k : Nat) (x : NocPort) : (setPort s k x).ctr = s.ctr := rfl
@[simp] theorem setPort_tu (s : State) (k : Nat) (x : NocPort) : (setPort s k x).tu = s.tu := rfl
@[simp] theorem setPort_parts (s : State) (k : Nat) (x : NocPort) : (setPort s k x).parts = s.parts := rfl
@[simp] theorem setPort_dv (s : State) (k : Nat) (x : NocPort) : (setPort s k x).dv = s.dv := rfl
@[simp] theorem setPort_hosts (s : State) (k : Nat) (x : NocPort) : (setPort s k x).hosts = s.hosts := rfl
@[simp] theorem setPort_mc (s : State) (k : Nat) (x : NocPort) : (setPort s k x).mc = s.mc := rfl
@[simp] theorem setPort_mem (s : State) (k : Nat) (x : NocPort) : (setPort s k x).mem = s.mem := rfl
@[simp] theorem setPort_doms (s : State) (k : Nat) (x : NocPort) : (setPort s k x).doms = s.doms := rfl
@[simp] theorem setPort_cores (s : State) (k : Nat) (x : NocPort) : (setPort s k x).cores = s.cores := rfl
@[simp] theorem setPort_rasps (s : State) (k : Nat) (x : NocPort) : (setPort s k x).rasps = s.rasps := rfl
@[simp] theorem setPort_benchCache (s : State) (k : Nat) (x : NocPort) : (setPort s k x).benchCache = s.benchCache := rfl
@[simp] theorem setPort_dev (s : State) (k : Nat) (x : NocPort) : (setPort s k x).dev = s.dev := rfl
@[simp] theorem setPort_dma (s : State) (k : Nat) (x : NocPort) : (setPort s k x).dma = s.dma := rfl
@[simp] theorem setPort_su (s : State) (k : Nat) (x : NocPort) : (setPort s k x).su = s.su := rfl
@[simp] theorem setPort_jig (s : State) (k : Nat) (x : NocPort) : (setPort s k x).jig = s.jig := rfl
@[simp] theorem setPort_ln (s : State) (k : Nat) (x : NocPort) : (setPort s k x).ln = s.ln := rfl
@[simp] theorem setPort_fh (s : State) (k : Nat) (x : NocPort) : (setPort s k x).fh = s.fh := rfl
@[simp] theorem setPort_gc (s : State) (k : Nat) (x : NocPort) : (setPort s k x).gc = s.gc := rfl
@[simp] theorem setPort_bh (s : State) (k : Nat) (x : NocPort) : (setPort s k x).bh = s.bh := rfl
@[simp] theorem setPort_tm (s : State) (k : Nat) (x : NocPort) : (setPort s k x).tm = s.tm := rfl
@[simp] theorem setPort_flt (s : State) (k : Nat) (x : NocPort) : (setPort s k x).flt = s.flt := rfl
@[simp] theorem setPort_age (s : State) (k : Nat) (x : NocPort) : (setPort s k x).age = s.age := rfl
@[simp] theorem setPort_th (s : State) (k : Nat) (x : NocPort) : (setPort s k x).th = s.th := rfl
@[simp] theorem setPort_pins (s : State) (k : Nat) (x : NocPort) : (setPort s k x).pins = s.pins := rfl
@[simp] theorem setPort_pending (s : State) (k : Nat) (x : NocPort) : (setPort s k x).pending = s.pending := rfl
@[simp] theorem setPort_noc_dies (s : State) (k : Nat) (x : NocPort) : (setPort s k x).noc.dies = s.noc.dies := rfl
@[simp] theorem setPort_noc_pkts (s : State) (k : Nat) (x : NocPort) : (setPort s k x).noc.pkts = s.noc.pkts := rfl
@[simp] theorem setPort_noc_routes (s : State) (k : Nat) (x : NocPort) : (setPort s k x).noc.routes = s.noc.routes := rfl
@[simp] theorem setPort_noc_links (s : State) (k : Nat) (x : NocPort) : (setPort s k x).noc.links = s.noc.links := rfl
@[simp] theorem setPort_noc_dropLog (s : State) (k : Nat) (x : NocPort) : (setPort s k x).noc.dropLog = s.noc.dropLog := rfl
@[simp] theorem setPort_noc_moving (s : State) (k : Nat) (x : NocPort) : (setPort s k x).noc.moving = s.noc.moving := rfl
@[simp] theorem setPort_noc_planned (s : State) (k : Nat) (x : NocPort) : (setPort s k x).noc.planned = s.noc.planned := rfl

/-! ### setNocDie -/

@[simp] theorem getNocDie_setNocDie_same (s : State) (k : Nat) (x : NocDie) : getNocDie (setNocDie s k x) k = x := tget_tset_same _ _ _ _
theorem getNocDie_setNocDie (s : State) (k j : Nat) (x : NocDie) : getNocDie (setNocDie s k x) j = if j = k then x else getNocDie s j := tget_tset _ _ _ _ _
@[simp] theorem getNocDie_setNocDie_ne (s : State) {k j : Nat} (x : NocDie) (h : j ≠ k) : getNocDie (setNocDie s k x) j = getNocDie s j := tget_tset_ne _ _ _ h
@[simp] theorem setNocDie_now (s : State) (k : Nat) (x : NocDie) : (setNocDie s k x).now = s.now := rfl
@[simp] theorem setNocDie_stepped (s : State) (k : Nat) (x : NocDie) : (setNocDie s k x).stepped = s.stepped := rfl
@[simp] theorem setNocDie_fresh (s : State) (k : Nat) (x : NocDie) : (setNocDie s k x).fresh = s.fresh := rfl
@[simp] theorem setNocDie_answer (s : State) (k : Nat) (x : NocDie) : (setNocDie s k x).answer = s.answer := rfl
@[simp] theorem setNocDie_ctr (s : State) (k : Nat) (x : NocDie) : (setNocDie s k x).ctr = s.ctr := rfl
@[simp] theorem setNocDie_tu (s : State) (k : Nat) (x : NocDie) : (setNocDie s k x).tu = s.tu := rfl
@[simp] theorem setNocDie_parts (s : State) (k : Nat) (x : NocDie) : (setNocDie s k x).parts = s.parts := rfl
@[simp] theorem setNocDie_dv (s : State) (k : Nat) (x : NocDie) : (setNocDie s k x).dv = s.dv := rfl
@[simp] theorem setNocDie_hosts (s : State) (k : Nat) (x : NocDie) : (setNocDie s k x).hosts = s.hosts := rfl
@[simp] theorem setNocDie_mc (s : State) (k : Nat) (x : NocDie) : (setNocDie s k x).mc = s.mc := rfl
@[simp] theorem setNocDie_mem (s : State) (k : Nat) (x : NocDie) : (setNocDie s k x).mem = s.mem := rfl
@[simp] theorem setNocDie_doms (s : State) (k : Nat) (x : NocDie) : (setNocDie s k x).doms = s.doms := rfl
@[simp] theorem setNocDie_cores (s : State) (k : Nat) (x : NocDie) : (setNocDie s k x).cores = s.cores := rfl
@[simp] theorem setNocDie_rasps (s : State) (k : Nat) (x : NocDie) : (setNocDie s k x).rasps = s.rasps := rfl
@[simp] theorem setNocDie_benchCache (s : State) (k : Nat) (x : NocDie) : (setNocDie s k x).benchCache = s.benchCache := rfl
@[simp] theorem setNocDie_dev (s : State) (k : Nat) (x : NocDie) : (setNocDie s k x).dev = s.dev := rfl
@[simp] theorem setNocDie_dma (s : State) (k : Nat) (x : NocDie) : (setNocDie s k x).dma = s.dma := rfl
@[simp] theorem setNocDie_su (s : State) (k : Nat) (x : NocDie) : (setNocDie s k x).su = s.su := rfl
@[simp] theorem setNocDie_jig (s : State) (k : Nat) (x : NocDie) : (setNocDie s k x).jig = s.jig := rfl
@[simp] theorem setNocDie_ln (s : State) (k : Nat) (x : NocDie) : (setNocDie s k x).ln = s.ln := rfl
@[simp] theorem setNocDie_fh (s : State) (k : Nat) (x : NocDie) : (setNocDie s k x).fh = s.fh := rfl
@[simp] theorem setNocDie_gc (s : State) (k : Nat) (x : NocDie) : (setNocDie s k x).gc = s.gc := rfl
@[simp] theorem setNocDie_bh (s : State) (k : Nat) (x : NocDie) : (setNocDie s k x).bh = s.bh := rfl
@[simp] theorem setNocDie_tm (s : State) (k : Nat) (x : NocDie) : (setNocDie s k x).tm = s.tm := rfl
@[simp] theorem setNocDie_flt (s : State) (k : Nat) (x : NocDie) : (setNocDie s k x).flt = s.flt := rfl
@[simp] theorem setNocDie_age (s : State) (k : Nat) (x : NocDie) : (setNocDie s k x).age = s.age := rfl
@[simp] theorem setNocDie_th (s : State) (k : Nat) (x : NocDie) : (setNocDie s k x).th = s.th := rfl
@[simp] theorem setNocDie_pins (s : State) (k : Nat) (x : NocDie) : (setNocDie s k x).pins = s.pins := rfl
@[simp] theorem setNocDie_pending (s : State) (k : Nat) (x : NocDie) : (setNocDie s k x).pending = s.pending := rfl
@[simp] theorem setNocDie_noc_ports (s : State) (k : Nat) (x : NocDie) : (setNocDie s k x).noc.ports = s.noc.ports := rfl
@[simp] theorem setNocDie_noc_pkts (s : State) (k : Nat) (x : NocDie) : (setNocDie s k x).noc.pkts = s.noc.pkts := rfl
@[simp] theorem setNocDie_noc_routes (s : State) (k : Nat) (x : NocDie) : (setNocDie s k x).noc.routes = s.noc.routes := rfl
@[simp] theorem setNocDie_noc_links (s : State) (k : Nat) (x : NocDie) : (setNocDie s k x).noc.links = s.noc.links := rfl
@[simp] theorem setNocDie_noc_dropLog (s : State) (k : Nat) (x : NocDie) : (setNocDie s k x).noc.dropLog = s.noc.dropLog := rfl
@[simp] theorem setNocDie_noc_moving (s : State) (k : Nat) (x : NocDie) : (setNocDie s k x).noc.moving = s.noc.moving := rfl
@[simp] theorem setNocDie_noc_planned (s : State) (k : Nat) (x : NocDie) : (setNocDie s k x).noc.planned = s.noc.planned := rfl

/-! ### setLink -/

@[simp] theorem getLink_setLink_same (s : State) (k : Nat) (x : Link) : getLink (setLink s k x) k = x := tget_tset_same _ _ _ _
theorem getLink_setLink (s : State) (k j : Nat) (x : Link) : getLink (setLink s k x) j = if j = k then x else getLink s j := tget_tset _ _ _ _ _
@[simp] theorem getLink_setLink_ne (s : State) {k j : Nat} (x : Link) (h : j ≠ k) : getLink (setLink s k x) j = getLink s j := tget_tset_ne _ _ _ h
@[simp] theorem setLink_now (s : State) (k : Nat) (x : Link) : (setLink s k x).now = s.now := rfl
@[simp] theorem setLink_stepped (s : State) (k : Nat) (x : Link) : (setLink s k x).stepped = s.stepped := rfl
@[simp] theorem setLink_fresh (s : State) (k : Nat) (x : Link) : (setLink s k x).fresh = s.fresh := rfl
@[simp] theorem setLink_answer (s : State) (k : Nat) (x : Link) : (setLink s k x).answer = s.answer := rfl
@[simp] theorem setLink_ctr (s : State) (k : Nat) (x : Link) : (setLink s k x).ctr = s.ctr := rfl
@[simp] theorem setLink_tu (s : State) (k : Nat) (x : Link) : (setLink s k x).tu = s.tu := rfl
@[simp] theorem setLink_parts (s : State) (k : Nat) (x : Link) : (setLink s k x).parts = s.parts := rfl
@[simp] theorem setLink_dv (s : State) (k : Nat) (x : Link) : (setLink s k x).dv = s.dv := rfl
@[simp] theorem setLink_hosts (s : State) (k : Nat) (x : Link) : (setLink s k x).hosts = s.hosts := rfl
@[simp] theorem setLink_mc (s : State) (k : Nat) (x : Link) : (setLink s k x).mc = s.mc := rfl
@[simp] theorem setLink_mem (s : State) (k : Nat) (x : Link) : (setLink s k x).mem = s.mem := rfl
@[simp] theorem setLink_doms (s : State) (k : Nat) (x : Link) : (setLink s k x).doms = s.doms := rfl
@[simp] theorem setLink_cores (s : State) (k : Nat) (x : Link) : (setLink s k x).cores = s.cores := rfl
@[simp] theorem setLink_rasps (s : State) (k : Nat) (x : Link) : (setLink s k x).rasps = s.rasps := rfl
@[simp] theorem setLink_benchCache (s : State) (k : Nat) (x : Link) : (setLink s k x).benchCache = s.benchCache := rfl
@[simp] theorem setLink_dev (s : State) (k : Nat) (x : Link) : (setLink s k x).dev = s.dev := rfl
@[simp] theorem setLink_dma (s : State) (k : Nat) (x : Link) : (setLink s k x).dma = s.dma := rfl
@[simp] theorem setLink_su (s : State) (k : Nat) (x : Link) : (setLink s k x).su = s.su := rfl
@[simp] theorem setLink_jig (s : State) (k : Nat) (x : Link) : (setLink s k x).jig = s.jig := rfl
@[simp] theorem setLink_ln (s : State) (k : Nat) (x : Link) : (setLink s k x).ln = s.ln := rfl
@[simp] theorem setLink_fh (s : State) (k : Nat) (x : Link) : (setLink s k x).fh = s.fh := rfl
@[simp] theorem setLink_gc (s : State) (k : Nat) (x : Link) : (setLink s k x).gc = s.gc := rfl
@[simp] theorem setLink_bh (s : State) (k : Nat) (x : Link) : (setLink s k x).bh = s.bh := rfl
@[simp] theorem setLink_tm (s : State) (k : Nat) (x : Link) : (setLink s k x).tm = s.tm := rfl
@[simp] theorem setLink_flt (s : State) (k : Nat) (x : Link) : (setLink s k x).flt = s.flt := rfl
@[simp] theorem setLink_age (s : State) (k : Nat) (x : Link) : (setLink s k x).age = s.age := rfl
@[simp] theorem setLink_th (s : State) (k : Nat) (x : Link) : (setLink s k x).th = s.th := rfl
@[simp] theorem setLink_pins (s : State) (k : Nat) (x : Link) : (setLink s k x).pins = s.pins := rfl
@[simp] theorem setLink_pending (s : State) (k : Nat) (x : Link) : (setLink s k x).pending = s.pending := rfl
@[simp] theorem setLink_noc_dies (s : State) (k : Nat) (x : Link) : (setLink s k x).noc.dies = s.noc.dies := rfl
@[simp] theorem setLink_noc_ports (s : State) (k : Nat) (x : Link) : (setLink s k x).noc.ports = s.noc.ports := rfl
@[simp] theorem setLink_noc_pkts (s : State) (k : Nat) (x : Link) : (setLink s k x).noc.pkts = s.noc.pkts := rfl
@[simp] theorem setLink_noc_routes (s : State) (k : Nat) (x : Link) : (setLink s k x).noc.routes = s.noc.routes := rfl
@[simp] theorem setLink_noc_dropLog (s : State) (k : Nat) (x : Link) : (setLink s k x).noc.dropLog = s.noc.dropLog := rfl
@[simp] theorem setLink_noc_moving (s : State) (k : Nat) (x : Link) : (setLink s k x).noc.moving = s.noc.moving := rfl
@[simp] theorem setLink_noc_planned (s : State) (k : Nat) (x : Link) : (setLink s k x).noc.planned = s.noc.planned := rfl

/-! ### ctrSet -/

@[simp] theorem ctrSet_now (s : State) (k : Counter) (b v : Nat) : (ctrSet s k b v).now = s.now := rfl
@[simp] theorem ctrSet_stepped (s : State) (k : Counter) (b v : Nat) : (ctrSet s k b v).stepped = s.stepped := rfl
@[simp] theorem ctrSet_fresh (s : State) (k : Counter) (b v : Nat) : (ctrSet s k b v).fresh = s.fresh := rfl
@[simp] theorem ctrSet_answer (s : State) (k : Counter) (b v : Nat) : (ctrSet s k b v).answer = s.answer := rfl
@[simp] theorem ctrSet_tu (s : State) (k : Counter) (b v : Nat) : (ctrSet s k b v).tu = s.tu := rfl
@[simp] theorem ctrSet_parts (s : State) (k : Counter) (b v : Nat) : (ctrSet s k b v).parts = s.parts := rfl
@[simp] theorem ctrSet_dv (s : State) (k : Counter) (b v : Nat) : (ctrSet s k b v).dv = s.dv := rfl
@[simp] theorem ctrSet_hosts (s : State) (k : Counter) (b v : Nat) : (ctrSet s k b v).hosts = s.hosts := rfl
@[simp] theorem ctrSet_mc (s : State) (k : Counter) (b v : Nat) : (ctrSet s k b v).mc = s.mc := rfl
@[simp] theorem ctrSet_mem (s : State) (k : Counter) (b v : Nat) : (ctrSet s k b v).mem = s.mem := rfl
@[simp] theorem ctrSet_doms (s : State) (k : Counter) (b v : Nat) : (ctrSet s k b v).doms = s.doms := rfl
@[simp] theorem ctrSet_cores (s : State) (k : Counter) (b v : Nat) : (ctrSet s k b v).cores = s.cores := rfl
@[simp] theorem ctrSet_rasps (s : State) (k : Counter) (b v : Nat) : (ctrSet s k b v).rasps = s.rasps := rfl
@[simp] theorem ctrSet_benchCache (s : State) (k : Counter) (b v : Nat) : (ctrSet s k b v).benchCache = s.benchCache := rfl
@[simp] theorem ctrSet_dev (s : State) (k : Counter) (b v : Nat) : (ctrSet s k b v).dev = s.dev := rfl
@[simp] theorem ctrSet_noc (s : State) (k : Counter) (b v : Nat) : (ctrSet s k b v).noc = s.noc := rfl
@[simp] theorem ctrSet_dma (s : State) (k : Counter) (b v : Nat) : (ctrSet s k b v).dma = s.dma := rfl
@[simp] theorem ctrSet_su (s : State) (k : Counter) (b v : Nat) : (ctrSet s k b v).su = s.su := rfl
@[simp] theorem ctrSet_jig (s : State) (k : Counter) (b v : Nat) : (ctrSet s k b v).jig = s.jig := rfl
@[simp] theorem ctrSet_ln (s : State) (k : Counter) (b v : Nat) : (ctrSet s k b v).ln = s.ln := rfl
@[simp] theorem ctrSet_fh (s : State) (k : Counter) (b v : Nat) : (ctrSet s k b v).fh = s.fh := rfl
@[simp] theorem ctrSet_gc (s : State) (k : Counter) (b v : Nat) : (ctrSet s k b v).gc = s.gc := rfl
@[simp] theorem ctrSet_bh (s : State) (k : Counter) (b v : Nat) : (ctrSet s k b v).bh = s.bh := rfl
@[simp] theorem ctrSet_tm (s : State) (k : Counter) (b v : Nat) : (ctrSet s k b v).tm = s.tm := rfl
@[simp] theorem ctrSet_flt (s : State) (k : Counter) (b v : Nat) : (ctrSet s k b v).flt = s.flt := rfl
@[simp] theorem ctrSet_age (s : State) (k : Counter) (b v : Nat) : (ctrSet s k b v).age = s.age := rfl
@[simp] theorem ctrSet_th (s : State) (k : Counter) (b v : Nat) : (ctrSet s k b v).th = s.th := rfl
@[simp] theorem ctrSet_pins (s : State) (k : Counter) (b v : Nat) : (ctrSet s k b v).pins = s.pins := rfl
@[simp] theorem ctrSet_pending (s : State) (k : Counter) (b v : Nat) : (ctrSet s k b v).pending = s.pending := rfl

/-! ### bumpBy -/

@[simp] theorem bumpBy_now (s : State) (k : Counter) (b v : Nat) : (bumpBy s k b v).now = s.now := rfl
@[simp] theorem bumpBy_stepped (s : State) (k : Counter) (b v : Nat) : (bumpBy s k b v).stepped = s.stepped := rfl
@[simp] theorem bumpBy_fresh (s : State) (k : Counter) (b v : Nat) : (bumpBy s k b v).fresh = s.fresh := rfl
@[simp] theorem bumpBy_answer (s : State) (k : Counter) (b v : Nat) : (bumpBy s k b v).answer = s.answer := rfl
@[simp] theorem bumpBy_tu (s : State) (k : Counter) (b v : Nat) : (bumpBy s k b v).tu = s.tu := rfl
@[simp] theorem bumpBy_parts (s : State) (k : Counter) (b v : Nat) : (bumpBy s k b v).parts = s.parts := rfl
@[simp] theorem bumpBy_dv (s : State) (k : Counter) (b v : Nat) : (bumpBy s k b v).dv = s.dv := rfl
@[simp] theorem bumpBy_hosts (s : State) (k : Counter) (b v : Nat) : (bumpBy s k b v).hosts = s.hosts := rfl
@[simp] theorem bumpBy_mc (s : State) (k : Counter) (b v : Nat) : (bumpBy s k b v).mc = s.mc := rfl
@[simp] theorem bumpBy_mem (s : State) (k : Counter) (b v : Nat) : (bumpBy s k b v).mem = s.mem := rfl
@[simp] theorem bumpBy_doms (s : State) (k : Counter) (b v : Nat) : (bumpBy s k b v).doms = s.doms := rfl
@[simp] theorem bumpBy_cores (s : State) (k : Counter) (b v : Nat) : (bumpBy s k b v).cores = s.cores := rfl
@[simp] theorem bumpBy_rasps (s : State) (k : Counter) (b v : Nat) : (bumpBy s k b v).rasps = s.rasps := rfl
@[simp] theorem bumpBy_benchCache (s : State) (k : Counter) (b v : Nat) : (bumpBy s k b v).benchCache = s.benchCache := rfl
@[simp] theorem bumpBy_dev (s : State) (k : Counter) (b v : Nat) : (bumpBy s k b v).dev = s.dev := rfl
@[simp] theorem bumpBy_noc (s : State) (k : Counter) (b v : Nat) : (bumpBy s k b v).noc = s.noc := rfl
@[simp] theorem bumpBy_dma (s : State) (k : Counter) (b v : Nat) : (bumpBy s k b v).dma = s.dma := rfl
@[simp] theorem bumpBy_su (s : State) (k : Counter) (b v : Nat) : (bumpBy s k b v).su = s.su := rfl
@[simp] theorem bumpBy_jig (s : State) (k : Counter) (b v : Nat) : (bumpBy s k b v).jig = s.jig := rfl
@[simp] theorem bumpBy_ln (s : State) (k : Counter) (b v : Nat) : (bumpBy s k b v).ln = s.ln := rfl
@[simp] theorem bumpBy_fh (s : State) (k : Counter) (b v : Nat) : (bumpBy s k b v).fh = s.fh := rfl
@[simp] theorem bumpBy_gc (s : State) (k : Counter) (b v : Nat) : (bumpBy s k b v).gc = s.gc := rfl
@[simp] theorem bumpBy_bh (s : State) (k : Counter) (b v : Nat) : (bumpBy s k b v).bh = s.bh := rfl
@[simp] theorem bumpBy_tm (s : State) (k : Counter) (b v : Nat) : (bumpBy s k b v).tm = s.tm := rfl
@[simp] theorem bumpBy_flt (s : State) (k : Counter) (b v : Nat) : (bumpBy s k b v).flt = s.flt := rfl
@[simp] theorem bumpBy_age (s : State) (k : Counter) (b v : Nat) : (bumpBy s k b v).age = s.age := rfl
@[simp] theorem bumpBy_th (s : State) (k : Counter) (b v : Nat) : (bumpBy s k b v).th = s.th := rfl
@[simp] theorem bumpBy_pins (s : State) (k : Counter) (b v : Nat) : (bumpBy s k b v).pins = s.pins := rfl
@[simp] theorem bumpBy_pending (s : State) (k : Counter) (b v : Nat) : (bumpBy s k b v).pending = s.pending := rfl

/-! ### bump -/

@[simp] theorem bump_now (s : State) (k : Counter) (b : Nat) : (bump s k b).now = s.now := rfl
@[simp] theorem bump_stepped (s : State) (k : Counter) (b : Nat) : (bump s k b).stepped = s.stepped := rfl
@[simp] theorem bump_fresh (s : State) (k : Counter) (b : Nat) : (bump s k b).fresh = s.fresh := rfl
@[simp] theorem bump_answer (s : State) (k : Counter) (b : Nat) : (bump s k b).answer = s.answer := rfl
@[simp] theorem bump_tu (s : State) (k : Counter) (b : Nat) : (bump s k b).tu = s.tu := rfl
@[simp] theorem bump_parts (s : State) (k : Counter) (b : Nat) : (bump s k b).parts = s.parts := rfl
@[simp] theorem bump_dv (s : State) (k : Counter) (b : Nat) : (bump s k b).dv = s.dv := rfl
@[simp] theorem bump_hosts (s : State) (k : Counter) (b : Nat) : (bump s k b).hosts = s.hosts := rfl
@[simp] theorem bump_mc (s : State) (k : Counter) (b : Nat) : (bump s k b).mc = s.mc := rfl
@[simp] theorem bump_mem (s : State) (k : Counter) (b : Nat) : (bump s k b).mem = s.mem := rfl
@[simp] theorem bump_doms (s : State) (k : Counter) (b : Nat) : (bump s k b).doms = s.doms := rfl
@[simp] theorem bump_cores (s : State) (k : Counter) (b : Nat) : (bump s k b).cores = s.cores := rfl
@[simp] theorem bump_rasps (s : State) (k : Counter) (b : Nat) : (bump s k b).rasps = s.rasps := rfl
@[simp] theorem bump_benchCache (s : State) (k : Counter) (b : Nat) : (bump s k b).benchCache = s.benchCache := rfl
@[simp] theorem bump_dev (s : State) (k : Counter) (b : Nat) : (bump s k b).dev = s.dev := rfl
@[simp] theorem bump_noc (s : State) (k : Counter) (b : Nat) : (bump s k b).noc = s.noc := rfl
@[simp] theorem bump_dma (s : State) (k : Counter) (b : Nat) : (bump s k b).dma = s.dma := rfl
@[simp] theorem bump_su (s : State) (k : Counter) (b : Nat) : (bump s k b).su = s.su := rfl
@[simp] theorem bump_jig (s : State) (k : Counter) (b : Nat) : (bump s k b).jig = s.jig := rfl
@[simp] theorem bump_ln (s : State) (k : Counter) (b : Nat) : (bump s k b).ln = s.ln := rfl
@[simp] theorem bump_fh (s : State) (k : Counter) (b : Nat) : (bump s k b).fh = s.fh := rfl
@[simp] theorem bump_gc (s : State) (k : Counter) (b : Nat) : (bump s k b).gc = s.gc := rfl
@[simp] theorem bump_bh (s : State) (k : Counter) (b : Nat) : (bump s k b).bh = s.bh := rfl
@[simp] theorem bump_tm (s : State) (k : Counter) (b : Nat) : (bump s k b).tm = s.tm := rfl
@[simp] theorem bump_flt (s : State) (k : Counter) (b : Nat) : (bump s k b).flt = s.flt := rfl
@[simp] theorem bump_age (s : State) (k : Counter) (b : Nat) : (bump s k b).age = s.age := rfl
@[simp] theorem bump_th (s : State) (k : Counter) (b : Nat) : (bump s k b).th = s.th := rfl
@[simp] theorem bump_pins (s : State) (k : Counter) (b : Nat) : (bump s k b).pins = s.pins := rfl
@[simp] theorem bump_pending (s : State) (k : Counter) (b : Nat) : (bump s k b).pending = s.pending := rfl

/-! ### answer -/

@[simp] theorem answer_now (s : State) (a d : Nat) : (answer s a d).now = s.now := rfl
@[simp] theorem answer_stepped (s : State) (a d : Nat) : (answer s a d).stepped = s.stepped := rfl
@[simp] theorem answer_fresh (s : State) (a d : Nat) : (answer s a d).fresh = s.fresh := rfl
@[simp] theorem answer_ctr (s : State) (a d : Nat) : (answer s a d).ctr = s.ctr := rfl
@[simp] theorem answer_tu (s : State) (a d : Nat) : (answer s a d).tu = s.tu := rfl
@[simp] theorem answer_parts (s : State) (a d : Nat) : (answer s a d).parts = s.parts := rfl
@[simp] theorem answer_dv (s : State) (a d : Nat) : (answer s a d).dv = s.dv := rfl
@[simp] theorem answer_hosts (s : State) (a d : Nat) : (answer s a d).hosts = s.hosts := rfl
@[simp] theorem answer_mc (s : State) (a d : Nat) : (answer s a d).mc = s.mc := rfl
@[simp] theorem answer_mem (s : State) (a d : Nat) : (answer s a d).mem = s.mem := rfl
@[simp] theorem answer_doms (s : State) (a d : Nat) : (answer s a d).doms = s.doms := rfl
@[simp] theorem answer_cores (s : State) (a d : Nat) : (answer s a d).cores = s.cores := rfl
@[simp] theorem answer_rasps (s : State) (a d : Nat) : (answer s a d).rasps = s.rasps := rfl
@[simp] theorem answer_benchCache (s : State) (a d : Nat) : (answer s a d).benchCache = s.benchCache := rfl
@[simp] theorem answer_dev (s : State) (a d : Nat) : (answer s a d).dev = s.dev := rfl
@[simp] theorem answer_noc (s : State) (a d : Nat) : (answer s a d).noc = s.noc := rfl
@[simp] theorem answer_dma (s : State) (a d : Nat) : (answer s a d).dma = s.dma := rfl
@[simp] theorem answer_su (s : State) (a d : Nat) : (answer s a d).su = s.su := rfl
@[simp] theorem answer_jig (s : State) (a d : Nat) : (answer s a d).jig = s.jig := rfl
@[simp] theorem answer_ln (s : State) (a d : Nat) : (answer s a d).ln = s.ln := rfl
@[simp] theorem answer_fh (s : State) (a d : Nat) : (answer s a d).fh = s.fh := rfl
@[simp] theorem answer_gc (s : State) (a d : Nat) : (answer s a d).gc = s.gc := rfl
@[simp] theorem answer_bh (s : State) (a d : Nat) : (answer s a d).bh = s.bh := rfl
@[simp] theorem answer_tm (s : State) (a d : Nat) : (answer s a d).tm = s.tm := rfl
@[simp] theorem answer_flt (s : State) (a d : Nat) : (answer s a d).flt = s.flt := rfl
@[simp] theorem answer_age (s : State) (a d : Nat) : (answer s a d).age = s.age := rfl
@[simp] theorem answer_th (s : State) (a d : Nat) : (answer s a d).th = s.th := rfl
@[simp] theorem answer_pins (s : State) (a d : Nat) : (answer s a d).pins = s.pins := rfl
@[simp] theorem answer_pending (s : State) (a d : Nat) : (answer s a d).pending = s.pending := rfl

/-! ### writeBytes -/

@[simp] theorem writeBytes_now (s : State) (a : Nat) (bs : List Byte) : (writeBytes s a bs).now = s.now := rfl
@[simp] theorem writeBytes_stepped (s : State) (a : Nat) (bs : List Byte) : (writeBytes s a bs).stepped = s.stepped := rfl
@[simp] theorem writeBytes_fresh (s : State) (a : Nat) (bs : List Byte) : (writeBytes s a bs).fresh = s.fresh := rfl
@[simp] theorem writeBytes_answer (s : State) (a : Nat) (bs : List Byte) : (writeBytes s a bs).answer = s.answer := rfl
@[simp] theorem writeBytes_ctr (s : State) (a : Nat) (bs : List Byte) : (writeBytes s a bs).ctr = s.ctr := rfl
@[simp] theorem writeBytes_tu (s : State) (a : Nat) (bs : List Byte) : (writeBytes s a bs).tu = s.tu := rfl
@[simp] theorem writeBytes_parts (s : State) (a : Nat) (bs : List Byte) : (writeBytes s a bs).parts = s.parts := rfl
@[simp] theorem writeBytes_dv (s : State) (a : Nat) (bs : List Byte) : (writeBytes s a bs).dv = s.dv := rfl
@[simp] theorem writeBytes_hosts (s : State) (a : Nat) (bs : List Byte) : (writeBytes s a bs).hosts = s.hosts := rfl
@[simp] theorem writeBytes_mc (s : State) (a : Nat) (bs : List Byte) : (writeBytes s a bs).mc = s.mc := rfl
@[simp] theorem writeBytes_doms (s : State) (a : Nat) (bs : List Byte) : (writeBytes s a bs).doms = s.doms := rfl
@[simp] theorem writeBytes_cores (s : State) (a : Nat) (bs : List Byte) : (writeBytes s a bs).cores = s.cores := rfl
@[simp] theorem writeBytes_rasps (s : State) (a : Nat) (bs : List Byte) : (writeBytes s a bs).rasps = s.rasps := rfl
@[simp] theorem writeBytes_benchCache (s : State) (a : Nat) (bs : List Byte) : (writeBytes s a bs).benchCache = s.benchCache := rfl
@[simp] theorem writeBytes_dev (s : State) (a : Nat) (bs : List Byte) : (writeBytes s a bs).dev = s.dev := rfl
@[simp] theorem writeBytes_noc (s : State) (a : Nat) (bs : List Byte) : (writeBytes s a bs).noc = s.noc := rfl
@[simp] theorem writeBytes_dma (s : State) (a : Nat) (bs : List Byte) : (writeBytes s a bs).dma = s.dma := rfl
@[simp] theorem writeBytes_su (s : State) (a : Nat) (bs : List Byte) : (writeBytes s a bs).su = s.su := rfl
@[simp] theorem writeBytes_jig (s : State) (a : Nat) (bs : List Byte) : (writeBytes s a bs).jig = s.jig := rfl
@[simp] theorem writeBytes_ln (s : State) (a : Nat) (bs : List Byte) : (writeBytes s a bs).ln = s.ln := rfl
@[simp] theorem writeBytes_fh (s : State) (a : Nat) (bs : List Byte) : (writeBytes s a bs).fh = s.fh := rfl
@[simp] theorem writeBytes_gc (s : State) (a : Nat) (bs : List Byte) : (writeBytes s a bs).gc = s.gc := rfl
@[simp] theorem writeBytes_bh (s : State) (a : Nat) (bs : List Byte) : (writeBytes s a bs).bh = s.bh := rfl
@[simp] theorem writeBytes_tm (s : State) (a : Nat) (bs : List Byte) : (writeBytes s a bs).tm = s.tm := rfl
@[simp] theorem writeBytes_flt (s : State) (a : Nat) (bs : List Byte) : (writeBytes s a bs).flt = s.flt := rfl
@[simp] theorem writeBytes_age (s : State) (a : Nat) (bs : List Byte) : (writeBytes s a bs).age = s.age := rfl
@[simp] theorem writeBytes_th (s : State) (a : Nat) (bs : List Byte) : (writeBytes s a bs).th = s.th := rfl
@[simp] theorem writeBytes_pins (s : State) (a : Nat) (bs : List Byte) : (writeBytes s a bs).pins = s.pins := rfl
@[simp] theorem writeBytes_pending (s : State) (a : Nat) (bs : List Byte) : (writeBytes s a bs).pending = s.pending := rfl

/-! ### setTick -/

@[simp] theorem setTick_now (s : State) (p : Nat) (b : TickBank) : (setTick s p b).now = s.now := rfl
@[simp] theorem setTick_stepped (s : State) (p : Nat) (b : TickBank) : (setTick s p b).stepped = s.stepped := rfl
@[simp] theorem setTick_fresh (s : State) (p : Nat) (b : TickBank) : (setTick s p b).fresh = s.fresh := rfl
@[simp] theorem setTick_answer (s : State) (p : Nat) (b : TickBank) : (setTick s p b).answer = s.answer := rfl
@[simp] theorem setTick_ctr (s : State) (p : Nat) (b : TickBank) : (setTick s p b).ctr = s.ctr := rfl
@[simp] theorem setTick_tu (s : State) (p : Nat) (b : TickBank) : (setTick s p b).tu = s.tu := rfl
@[simp] theorem setTick_dv (s : State) (p : Nat) (b : TickBank) : (setTick s p b).dv = s.dv := rfl
@[simp] theorem setTick_hosts (s : State) (p : Nat) (b : TickBank) : (setTick s p b).hosts = s.hosts := rfl
@[simp] theorem setTick_mc (s : State) (p : Nat) (b : TickBank) : (setTick s p b).mc = s.mc := rfl
@[simp] theorem setTick_mem (s : State) (p : Nat) (b : TickBank) : (setTick s p b).mem = s.mem := rfl
@[simp] theorem setTick_doms (s : State) (p : Nat) (b : TickBank) : (setTick s p b).doms = s.doms := rfl
@[simp] theorem setTick_cores (s : State) (p : Nat) (b : TickBank) : (setTick s p b).cores = s.cores := rfl
@[simp] theorem setTick_rasps (s : State) (p : Nat) (b : TickBank) : (setTick s p b).rasps = s.rasps := rfl
@[simp] theorem setTick_benchCache (s : State) (p : Nat) (b : TickBank) : (setTick s p b).benchCache = s.benchCache := rfl
@[simp] theorem setTick_dev (s : State) (p : Nat) (b : TickBank) : (setTick s p b).dev = s.dev := rfl
@[simp] theorem setTick_noc (s : State) (p : Nat) (b : TickBank) : (setTick s p b).noc = s.noc := rfl
@[simp] theorem setTick_dma (s : State) (p : Nat) (b : TickBank) : (setTick s p b).dma = s.dma := rfl
@[simp] theorem setTick_su (s : State) (p : Nat) (b : TickBank) : (setTick s p b).su = s.su := rfl
@[simp] theorem setTick_jig (s : State) (p : Nat) (b : TickBank) : (setTick s p b).jig = s.jig := rfl
@[simp] theorem setTick_ln (s : State) (p : Nat) (b : TickBank) : (setTick s p b).ln = s.ln := rfl
@[simp] theorem setTick_fh (s : State) (p : Nat) (b : TickBank) : (setTick s p b).fh = s.fh := rfl
@[simp] theorem setTick_gc (s : State) (p : Nat) (b : TickBank) : (setTick s p b).gc = s.gc := rfl
@[simp] theorem setTick_bh (s : State) (p : Nat) (b : TickBank) : (setTick s p b).bh = s.bh := rfl
@[simp] theorem setTick_tm (s : State) (p : Nat) (b : TickBank) : (setTick s p b).tm = s.tm := rfl
@[simp] theorem setTick_flt (s : State) (p : Nat) (b : TickBank) : (setTick s p b).flt = s.flt := rfl
@[simp] theorem setTick_age (s : State) (p : Nat) (b : TickBank) : (setTick s p b).age = s.age := rfl
@[simp] theorem setTick_th (s : State) (p : Nat) (b : TickBank) : (setTick s p b).th = s.th := rfl
@[simp] theorem setTick_pins (s : State) (p : Nat) (b : TickBank) : (setTick s p b).pins = s.pins := rfl
@[simp] theorem setTick_pending (s : State) (p : Nat) (b : TickBank) : (setTick s p b).pending = s.pending := rfl

@[simp] theorem getTick_setTick_same (s : State) (p : Nat) (b : TickBank) : getTick (setTick s p b) p = b := by simp [getTick, setTick]
@[simp] theorem answer_answer (s : State) (a d : Nat) : (answer s a d).answer = { status := a, data := d } := rfl
theorem ctrGet_ctrSet (s : State) (k k' : Counter) (b b' v : Nat) :
    ctrGet (ctrSet s k b v) k' b' = if ctrKey k' b' = ctrKey k b then v else ctrGet s k' b' := tget_tset _ _ _ _ _
@[simp] theorem ctrGet_ctrSet_same (s : State) (k : Counter) (b v : Nat) : ctrGet (ctrSet s k b v) k b = v := tget_tset_same _ _ _ _
@[simp] theorem ctrGet_bump_same (s : State) (k : Counter) (b : Nat) : ctrGet (bump s k b) k b = min (Counter.top k) (ctrGet s k b + 1) := tget_tset_same _ _ _ _
/-- The words a partition was granted do not depend on its tick sequencer. -/
@[simp] theorem descWord_setTick (s : State) (p q i : Nat) (b : TickBank) : descWord (setTick s p b) q i = descWord s q i := by
  unfold descWord setTick updPart
  by_cases h : q = p
  · subst h; simp
  · simp [h]

end Sys2Proof.Machine
end

