-- ==== Sys2Proof/Tests/Slice0.lean ====
section
/-!
SUPPORT. Smoke tests, worked examples of the spec, and for every statement with hypotheses a state and operands that meet them.
-/
namespace Sys2Proof.Tests
open Sys2Proof.Machine

/-! ### The machine as a whole -/

theorem test_hyps_invariants : MemSound State.reset ∧ State.reset.pending = [] ∧ (∃ t, step State.reset = .next t) ∧ (∃ t, exec .startupTimeout State.reset = .next t) :=
  ⟨rfl, rfl, ⟨_, rfl⟩, ⟨_, rfl⟩⟩
theorem test_hyps_counters : CountersBounded State.reset := by
  intro k bank
  exact Nat.zero_le _

/-! ### Well-formedness refuses, for each check, a term that fails it -/

theorem test_wf_refuses_empty_push : Instr.wf (.hostCmdPush 0 [] false) = false ∧ Instr.wf (.hostCmdPush 0 [1] false) = true := by decide
theorem test_wf_refuses_wide_push : Instr.wf (.hostCmdPush 0 (List.replicate 33 0) false) = false ∧ Instr.wf (.hostCmdPush 0 (List.replicate 32 0) false) = true := by decide
theorem test_wf_refuses_empty_pop : Instr.wf (.hostRplPop 0 0 false) = false ∧ Instr.wf (.hostEvtPop 0 0 false) = false ∧ Instr.wf (.hostRplPop 0 64 false) = true := by decide
theorem test_wf_refuses_bank : Instr.wf (.counterReadClear .mc (.ctr .tickOvrDrop 4) 0) = false ∧ Instr.wf (.counterReadClear .mc (.ctr .tickOvrDrop 3) 0) = true := by decide
theorem test_wf_refuses_bit : Instr.wf (.memScrubRead 0 [16896]) = false ∧ Instr.wf (.memScrubRead 0 [16895]) = true := by decide
theorem test_wf_refuses_empty_read : Instr.wf (.i2cRead 0 0 0 0) = false ∧ Instr.wf (.i2cRead 1 0 0 0) = true := by decide

/-! ### Lanes -/

/-- The reset state with lane `n` as given. -/
def atLane (n : Nat) (x : Lane) : State := setLane State.reset n x

/-- Lane 63 awake, its port without and with an active stream while lane 62 sleeps; asleep; in transition. -/
theorem test_hyps_TransmitSleepWritesStartAChange :
    (mayTouch .mc (laneOwner (atLane 63 { txState := 0 }) 63) = true ∧ (63 : Nat) < 64) ∧
    ((getLane (atLane 63 { txState := 0 }) 63).txState = 0 ∧
      (txActive (atLane 63 { txState := 0 }) 63 && otherNotSending (atLane 63 { txState := 0 }) 63) = false) ∧
    (let s := setFh (atLane 63 { txState := 0 }) 31 { en := true }
     (getLane s 63).txState = 0 ∧ (txActive s 63 && otherNotSending s 63) = true) ∧
    (getLane (atLane 0 { txState := 1 }) 0).txState = 1 ∧ (getLane (atLane 0 { txState := 3 }) 0).txState = 3 := by decide

/-- Lane 1 (P of FP0) awake beside a selector on W; lane 62 chosen, with lane 63 good, then failed; asleep. -/
theorem test_hyps_ReceiveSleepWritesStartAChange :
    (let s := atLane 1 { rxState := 0 }
     mayTouch .mc (laneOwner s 1) = true ∧ (getLane s 1).rxState = 0 ∧ (getLane s 1).rxWait = false ∧ ((getFh s 0).sel == 1 % 2) = false) ∧
    (let s := setLane (atLane 62 { rxState := 0 }) 63 { rxState := 0 }
     (getLane s 62).rxState = 0 ∧ ((getFh s 31).sel == 62 % 2) = true ∧ (laneFail s 31 (1 - 62 % 2) || (getFh s 31).cmd == 1) = false) ∧
    (let s := atLane 62 { rxState := 0 }
     ((getFh s 31).sel == 62 % 2) = true ∧ (laneFail s 31 (1 - 62 % 2) || (getFh s 31).cmd == 1) = true) ∧
    (getLane (atLane 0 { rxState := 2 }) 0).rxWait = false := by decide

/-- A transition to light sleep, a wake, and a wake from deep sleep, on lanes 0 and 79. -/
theorem test_hyps_LaneTransitionsEnd :
    (let x := getLane (atLane 79 { txState := 3, txGoal := 1, rxState := 3, rxGoal := 1 }) 79
     x.txState = 3 ∧ x.txHeld = none ∧ x.txGoal ≠ 0 ∧ x.rxState = 3 ∧ x.rxHeld = none ∧ x.rxGoal ≠ 0) ∧
    (let s := { atLane 0 { txState := 3, txGoal := 0, txFrom := 2, rxState := 3, rxGoal := 0, rxFrom := 1 } with now := 240000 }
     let x := getLane s 0
     x.txState = 3 ∧ x.txHeld = none ∧ x.txGoal = 0 ∧ laneHeld s 0 false = false ∧ x.rxState = 3 ∧ x.rxHeld = none ∧ x.rxGoal = 0 ∧
     laneHeld s 0 true = false ∧ x.txGoal < x.txFrom ∧ x.rxGoal < x.rxFrom ∧ x.txAt + 2 * wakeBound false x.txFrom ≤ upNs s ∧
     x.rxAt + 2 * wakeBound true x.rxFrom ≤ upNs s) ∧
    (upNs (atLane 0 {}) < 0 + 2 * wakeBound false 2) ∧
    (let s := { atLane 0 { txFrom := 2 } with su := { State.reset.su with laneBad := 1 } }
     laneHeld s 0 false = true ∧ (getLane s 0).txFrom = 2) := by decide

/-- An awake lane in mode 1; a locked and an unlocked checker. -/
theorem test_hyps_TestPatternsAreSentAndChecked :
    (let s := atLane 64 { txState := 0, txModeNow := 2 }
     mayTouch .mc (laneOwner s 64) = true ∧ (getLane s 64).txState = 0 ∧ (txActive s 64 && otherNotSending s 64) = false ∧
     (getLane s 64).txModeNow ≠ 0) ∧
    (let x := getLane (atLane 0 { rxChk := 1, rxState := 0, light := true, prbsLock := true }) 0
     x.rxChk ≠ 0 ∧ laneLive x = true ∧ x.prbsLock = true) ∧
    (let x := getLane (atLane 0 { rxChk := 2, rxState := 0, light := true, prbsGood := 63 }) 0
     x.rxChk ≠ 0 ∧ laneLive x = true ∧ x.prbsLock = false) := by decide

/-- A locked lane one and two codewords short of losing lock, and an unlocked one short of gaining it. -/
theorem test_hyps_CodewordsAreCountedWhileLocked :
    (let x := getLane (atLane 5 { rxState := 0, light := true, fecLock := true, fecRun := 6 }) 5
     laneLive x = true ∧ x.fecLock = true ∧ x.fecRun + 1 < 8) ∧
    (let x := getLane (atLane 5 { rxState := 0, light := true, fecLock := true, fecRun := 7 }) 5
     laneLive x = true ∧ x.fecLock = true ∧ 8 ≤ x.fecRun + 1) ∧
    (let x := getLane (atLane 5 { rxState := 0, light := true, fecRun := 2 }) 5
     laneLive x = true ∧ x.fecLock = false ∧ x.fecRun + 1 < 4) ∧
    (let x := getLane (atLane 5 { rxState := 0, light := true, fecRun := 3 }) 5
     laneLive x = true ∧ x.fecLock = false ∧ 4 ≤ x.fecRun + 1) := by decide

/-- Lane 79 belongs to OE7 and lane 0 to OE0 (R35). -/
theorem test_hyps_LossOfLightEndsEveryLock : laneEngine 79 = 7 ∧ laneEngine 0 = 0 ∧ laneEngine 63 = 3 := by decide

/-! ### The line frame -/

/-- A partition that owns FP31; thresholds at their bounds; a flow of the partition and none. -/
def port31 : State := { State.reset with parts := tset [] 2 { st := .defined, desc := (leBytes 0 28).map fun _ => BitVec.ofNat 64 0x80000000 } }
theorem test_hyps_PortCommandsOfTheOwner :
    mayTouch (.part 2) (fhOwner port31 31) = true ∧
    (0 < fld (64 * 256 + 63) 0 7 ∧ fld (64 * 256 + 63) 0 7 < fld (64 * 256 + 63) 8 7 ∧ fld (64 * 256 + 63) 8 7 ≤ 64) ∧
    fld (64 * 256 + 64) 8 7 ≤ fld (64 * 256 + 64) 0 7 ∧ bit 5 31 = false ∧
    (!bit 0x80000001 31 || ownsFlow State.reset ((fhOwner State.reset 0).getD 4) 1) = false := by decide

/-- A port in the middle of a frame with one section: inside its window, early, late. -/
def slotPort (o c : Nat) : State :=
  setFh State.reset 31 { en := true, txOn := true, txSlot := 3331, txStart := 0, eg := [{ bytes := [], open_ := o, close := c }] }
theorem test_hyps_SlotsSendSectionsInsideTheirWindows :
    let t := slotStamp 0 3331
    ((getFh (slotPort 0 20000) 31).egWait = [] ∧ (3331 : Nat) < 3332) ∧ (isLate t 20000 = false ∧ isEarly t 0 = false) ∧
    (isLate t 30000 = false ∧ isEarly t 20000 = true) ∧ isLate t t = true := by decide

/-- FP0 on with TX_AIS, W awake at the end of a frame that started at unit 0 and the next due at the boundaries of n = 0 and 2 and beyond them, P asleep; and a port that is off. -/
theorem test_hyps_FrameStartNumbersTheFrame :
    (∀ k b, ctrGet State.reset k b ≤ Counter.top k) ∧
    (let s := setFh (atLane 0 { txState := 0, unitEnd := some 12500 }) 0 { en := true, txAis := true }
     (getFh s 0).en = true ∧ (getFh s 0).txAis = true ∧ (getLane s 0).txState = 0 ∧ (getLane s 0).txMode = 0 ∧ laneTxLight s 0 = true ∧
     (getLane s 0).unitEnd = some 12500 ∧ ([12547, 12548, 12550, 12551].map fun u : Nat => clampInt ((u : Int) - 12500 - 48) 0 2) = [0, 0, 2, 2] ∧
     (getLane s 1).txState ≠ 0 ∧ (getLane s 1).unitEnd = none) ∧
    (getFh State.reset 0).en = false := ⟨fun _ _ => Nat.zero_le _, by decide⟩

/-- A VALID uplink entry of a ring that is refused, one that is not VALID; an egress buffer that is full; a section that fits and one that does not. -/
def egPort : State := setStream State.reset 0 0 { cfg := { valid := true, down := true } }
theorem test_hyps_StreamTableAndEgressWrites :
    mayTouch .mc (fhOwner State.reset 0) = true ∧ bit 0 0 = false ∧
    (bit 1 0 = true ∧ streamOk State.reset (getStream State.reset 0 0).raw 1 = false) ∧
    (getFh egPort 0).eg.length < 4096 ∧ (getFh egPort 0).egWait = [] ∧
    (let h := secHdr (withHcrc (leBytes 1 64))
     (leBytes 1 64).length = 64 ∧ fitsStream h (getStream egPort 0 h.acid).cfg true = true) ∧
    fitsStream (secHdr (withHcrc [])) (getStream State.reset 0 0).cfg true = false := by decide +kernel

/-- An egress buffer of 4,096 sections. -/
theorem test_full_egress : 4096 ≤ (getFh (setFh State.reset 0 { eg := List.replicate 4096 ⟨[], 0, 0⟩ }) 0).eg.length := by
  show 4096 ≤ (List.replicate 4096 _).length
  simp only [List.length_replicate, Nat.le_refl]

/-- A candidate before its gap, readable (n = 2, by two votes) and not; a lane in IF; a FAW at an untried position beside three candidates; a FAW where
the gap dictates, and one missed for the fourth time. -/
theorem test_hyps_AlignerSearchesAndKeepsFrames :
    (let r := getRx (setRx State.reset 0 { align := 1, cands := [⟨7, 1, none, []⟩] }) 0
     r.align = 1 ∧ (r.cands.any fun c => c.pos == 7) = true ∧ gapRead (gapHeader 2) = some 2 ∧ gapRead [] = none) ∧
    (let r := getRx (setRx State.reset 63 { align := 2, pos := 7 }) 63
     r.align = 2 ∧ r.pos = 7 ∧ gapRead (leBytes 0 4 ++ leBytes 0xFF00FE 3 ++ leBytes 0xFF00FF 3) = none ∧ gapRead ((gapHeader 1).take 8) = some 1) ∧
    (let r := getRx (setRx State.reset 63 { align := 1, cands := [⟨0, 1, none, []⟩, ⟨1, 1, some 3, []⟩, ⟨2, 1, none, []⟩] }) 63
     r.align = 1 ∧ (r.cands.find? fun c => c.expect == some 4) = none ∧ 4 ∈ [4] ∧ (∀ c ∈ r.cands, c.pos ≠ 4) ∧ r.cands.length < 4) ∧
    (let r := getRx (setRx State.reset 63 { align := 2, gap := some 2, miss := 3 }) 63
     r.align = 2 ∧ r.inProg = false ∧ r.gap = some 2 ∧ r.pos + 1606144 + 128 * 2 ∈ [1606400] ∧ r.pos + 1606144 + 128 * 2 ∉ [1606399] ∧ 3 ≤ r.miss) := by
  decide

/-- A frame in progress in IF, begun in MF_LOCK, that is itself the next release, and one with a good overhead. -/
theorem test_hyps_ReceivedCopyEntersTheDeskewBuffer :
    (let s := setFh (setRx State.reset 63 { align := 2, inProg := true, began := true, fw := 5 }) 31 { nextF := some 5, en := true }
     (getRx s 63).align = 2 ∧ (getRx s 63).inProg = true ∧ (getFh s (63 / 2)).nextF = some 5 ∧ 0 ≤ numDist (getRx s 63).fw 5 ∧
     (getRx s 63).began = true ∧ (getFh s (63 / 2)).en = true) ∧
    ohGood [] = false := by decide

/-- A port with both copies of frame 7 in its deskew buffers. -/
theorem test_hyps_ReleaseFollowsTheEffectiveRequest :
    let c : Copy := ⟨7, 0, false, false, true, [], []⟩
    let s := setFh State.reset 0 { en := true, copiesW := [c], copiesP := [c] }
    (getFh s 0).en = true ∧ frameDue s 0 = 7 ∧ laneReady s 0 0 7 (leadStamp (getFh s 0) 7) = true ∧
    laneReady s 0 1 7 (leadStamp (getFh s 0) 7) = true := by decide

/-- A lane asleep; a second that ended ten seconds ago, the oldest of nine. -/
theorem test_hyps_DefectsAndPerformanceSeconds :
    (getLane State.reset 63).rxState ≠ 0 ∧
    (let s := { setFh State.reset 31 { secs := List.replicate 9 {} } with now := 11000000000 }
     (getFh s 31).secs = {} :: List.replicate 8 {} ∧ (0 + 11) * 1000000000 ≤ s.now ∧ (getFh s 31).unavail = false ∧
     (List.replicate 8 ({} : PerfSec)).length < 9) := by decide

/-- A window that closes when it opens, at tick 0 of a half-millisecond. -/
theorem test_hyps_InvalidWindowsAreRefused :
    mayTouch .mc (fhOwner State.reset 0) = true ∧ bit (1 : BitVec 32).toNat 0 = true ∧ 0 < ticksPerHalf State.reset.tu.mu ∧
    (let c := streamCfg (getStream State.reset 0 0).raw 1
     int32 (startRel State.reset.tu.mu (0 + c.tClose) + c.nClose) (startRel State.reset.tu.mu (0 + c.tOpen) + c.nOpen) ≤ 0) := by decide

/-! ### Gain groups and the Nose -/

/-- Group 0 with one member, EN set, and elements measured in tick 5. -/
def grp0 (fix : Option GcFix) (cmds : List GcCmd) : State :=
  setGrp State.reset 0 { en := true, memb := tset [] 0 ⟨0, 0, 0⟩, acc := [⟨5, 0, 0, 12, 12, 12⟩], fix := fix, cmds := cmds, stepMax := 24, lvl := ⟨16, 0⟩ }
theorem test_hyps_GainLoopCommandsAStep :
    (let s := grp0 (some ⟨⟨0, 0⟩, 0, []⟩) []
     (getGrp s 0).fix.isSome = true ∧ measClosed { s with now := 10000000 } (getGrp s 0) 5 = true ∧ measClosed s (getGrp s 0) 5 = false) ∧
    (measured (getGrp State.reset 255) 0).isEmpty = true ∧ measClosed State.reset (getGrp State.reset 255) 0 = true ∧
    (let s := { grp0 none [] with now := 10000000 }
     let x := getGrp s 0
     measClosed s x 5 = true ∧ x.lastMeas ≠ some 5 ∧ (measured x 5).isEmpty = false ∧ x.fix = none ∧ x.since ≤ countOf (grp0 none []) 5 ∧
     (let y := { x with filt := newFilters x 5, lvl := maxFracs ((measured x 5).map fun m => tget (newFilters x 5) {} m), lastMeas := some 5 }
      (x.en && !x.fault && (cmdPending x).isNone && newAtt y (decideStep (grp0 none []) y 5) != x.att) = true)) ∧
    (let x := getGrp (grp0 none [⟨0, 1, 0, 0, [], [], false, false, false⟩]) 0
     x.lastMeas ≠ some 5 ∧ (measured x 5).isEmpty = false ∧ x.fix = none ∧ x.since ≤ countOf (grp0 none []) 5 ∧ (x.en && !x.fault && (cmdPending x).isNone && true) = false) := by decide

/-- A command acknowledged by its one range, one that a replacement cancelled, before and at the time of its check; a restore not acknowledged, the third
and the second; and a group in FAULT. -/
theorem test_hyps_AcknowledgementsAreChecked :
    (let c : GcCmd := ⟨0, 1, 0, 0, [(0, 5)], [0], true, false, false⟩
     let at_ := fun now : Nat => { setGrp State.reset 0 { cmds := [c] } with now := now }
     (getGrp (at_ 0) 0).cmds = [c] ∧ missingAcks c = 0 ∧ c.cxl = false ∧ ({ c with cxl := true } : GcCmd).cxl = true ∧
     (getGrp (at_ 0) 0).cmds.find? (ackDue (at_ 0)) = none ∧ (getGrp (at_ 30000000) 0).cmds.find? (ackDue (at_ 30000000)) = some c) ∧
    missingAcks ⟨0, 1, 0, 0, [(0, 5)], [], true, true, false⟩ ≠ 0 ∧
    (let s := setGrp State.reset 0 { cmds := [⟨0, 1, 0, 0, [(0, 5)], [], true, true, false⟩], badRestores := 2 }
     (getGrp s 0).cmds = ⟨0, 1, 0, 0, [(0, 5)], [], true, true, false⟩ :: [] ∧ 3 ≤ (getGrp s 0).badRestores + 1) ∧
    (getGrp (setGrp State.reset 0 { badRestores := 1, fault := true }) 0).badRestores + 1 < 3 ∧
    (getGrp (setGrp State.reset 0 { fault := true }) 0).fault = true := by decide

/-- A fix whose end is the tick before the current one, and one whose end is the current tick. -/
theorem test_hyps_GroupRegisterAndFixEnd :
    mayTouch .mc (gainOwner State.reset 255) = true ∧ (getGrp (grp0 (some ⟨⟨0, 0⟩, 4, []⟩) []) 0).fix = some ⟨⟨0, 0⟩, 4, []⟩ ∧ (4 : Nat) < 5 ∧ (5 : Nat) ≤ 5 ∧
    (getGrp State.reset 0).fix = none := by decide

/-- A valid context of group 0 with one occasion every 10 ms, its long format 0, at the tick after its sighting span (the prefix and a quarter of the
sequence reach into tick 0 of 0.5 ms ticks). -/
def ctx0 (s : State) (stopped sighted : List Burst) : State :=
  setCtx { s with tu := { s.tu with tidx := sightTick s { valid := true, period := 10, occ := [(0, 0)], npre := 64, nfdm := 8 } 0 } } 0
    { cfg := { valid := true, period := 10, occ := [(0, 0)], npre := 64, nfdm := 8 }, stopped := stopped, sighted := sighted }

/-- A sighting of a free group without a pending command, with one that is too late to cancel, with one in time; one of a fix of the same occasion; and
none, since the context is not valid. -/
theorem test_hyps_SightingsFixTheGroup :
    (let s := ctx0 (grp0 none []) [] []
     let x := getCtx s 0
     (x.cfg.valid && isOccasion s x.cfg 0 && sightTick s x.cfg 0 == absTick s && (63 : Fin 64).val < x.cfg.npre && (7 : Fin 8).val < x.cfg.nfdm &&
       passesThr x.cfg 0) = true ∧
     (getGrp (settleFix s 0) 0).fix = none ∧ pendingCmds (getGrp (settleFix s 0) 0) = []) ∧
    (let late : GcCmd := ⟨0, 1, 0, 1, [], [], false, false, false⟩
     let s := ctx0 (grp0 none [late]) [] []
     pendingCmds (getGrp (settleFix s 0) 0) = [late] ∧ s.tu.count < 1 ∧
     startOf s ((absTick s : Int) + 1 - s.tu.count) < (s.now : Int) + s.gc.cxlMin) ∧
    (let soon : GcCmd := ⟨0, 1, 0, 90, [], [], false, false, false⟩
     let s := ctx0 (grp0 none [soon]) [] []
     pendingCmds (getGrp (settleFix s 0) 0) = [soon] ∧ s.tu.count < 90 ∧ (getGrp (settleFix s 0) 0).fault = false ∧
     ¬ startOf s ((absTick s : Int) + 90 - s.tu.count) < (s.now : Int) + s.gc.cxlMin) ∧
    (let f : GcFix := ⟨⟨0, 0⟩, 5, [⟨0, 1, 2, 0, 4, 0, 0, 0, 0, 0, 0, 4⟩]⟩
     let u := settleFix (ctx0 (grp0 (some f) []) [] []) 0
     let y := getGrp u 0
     y.fix = some f ∧ (f.by_.any fun w => w.ctx == 0 && w.since == 0) = true ∧ (f.by_.any fun w => w.ctx == 0 && w.since == 1) = false ∧
     (f.by_.any fun w => decide (u.tu.count ≤ w.upto)) = true ∧ (f.by_.any fun w => decide (5 ≤ w.upto)) = false ∧
     fracLt (fracOf (8 * u.gc.margin)) (fracSub (fracOf (tickLevel y (tickNo u (u.tu.count - 1)))) f.ref) = false) ∧
    (getCtx State.reset 0).cfg.valid = false := by decide

/-- 10 dB above full scale and saturated in the tick before: the sighting captures. -/
theorem test_hyps_capture :
    let u := setGrp State.reset 0 { acc := [⟨tickNo State.reset (State.reset.tu.count - 1), 0, 0, 12 * 4 ^ 131 * 10, 12, 12⟩] }
    let y := getGrp u 0
    let k := tickNo u (u.tu.count - 1)
    u.gc.satThr * (tickSat y k).2 ≤ (tickSat y k).1 * 1024 ∧
    fracLt (fracOf (8 * u.gc.margin)) (fracSub (fracOf (tickLevel y k)) ⟨-1000, 0⟩) = true := by decide +kernel

/-- A burst whose search stopped, one that was sighted and holds the fix alone, with another, or not at all, at the time of its final decision; a metric at
the threshold and below it. -/
theorem test_hyps_ReportsFollowTheDecision :
    let w : Burst := ⟨0, 1, 2, 0, 4, 0, 0, 0, 0, 0, 0, 4⟩
    let same := fun w : Burst => w.pre == 1 && w.fo == 2 && w.since == 0
    let at_ := fun s : State => { s with tu := { s.tu with tidx := 26, count := 26 } }
    (let s := at_ (ctx0 (grp0 none []) [w] [])
     (getCtx s 0).cfg.valid = true ∧ isOccasion s (getCtx s 0).cfg 0 = true ∧ reportTime s (getCtx s 0).cfg 0 = true ∧ countOf s 0 = 0 ∧
     (getCtx s 0).stopped.any same = true) ∧
    (let s := at_ (ctx0 (grp0 (some ⟨⟨0, 0⟩, 5, [w, { w with pre := 3 }]⟩) []) [] [w])
     (getCtx s 0).stopped.any same = false ∧ (getCtx s 0).sighted.find? same ≠ none ∧ countOf s 0 = 0 ∧
     (([w, { w with pre := 3 }] : List Burst).any fun v => v.ctx == 0 && same v) = true ∧ (getGrp s 0).fix = some ⟨⟨0, 0⟩, 5, [w, { w with pre := 3 }]⟩) ∧
    (([{ w with pre := 3 }] : List Burst).any fun v => v.ctx == 0 && same v) = false ∧ (getGrp (grp0 none []) 0).fix = none ∧
    passesThr { thr := 255 } 4080 = true ∧ passesThr { thr := 255 } 4079 = false ∧
    (getCtx (ctx0 (grp0 none []) [] []) 0).sighted.find? same = none ∧ isOccasion State.reset {} 0 = false := by decide

/-- An acceptable context: a member of the partition's gain group, a flow of the partition, one occasion every 10 ms. -/
def nosePart : State :=
  setCtx (setGrp { State.reset with
    parts := tset [] 0 { st := .defined, desc := lset ((leBytes 0 18).map fun _ => 0) 4 (BitVec.ofNat 64 (4 * 2 ^ 17)) |> fun l => lset l 7 (BitVec.ofNat 64 (1 * 2 ^ 8 + 1 * 2 ^ 25)) } }
    0 { memb := tset [] 0 ⟨0, 0, 0⟩ })
    0 { raw := tset (tset (tset (tset [] 1 (1 * 2 ^ 16 + 1 * 2 ^ 24)) 3 10) 4 0x1000) 5 (4 * 2 ^ 16) }
theorem test_hyps_ContextDescriptorsAreCheckedWhole :
    mayTouch (.part 0) (noseOwner nosePart 0) = true ∧ bit 0x01000001 0 = true ∧
    ctxOk nosePart 0 ((noseOwner nosePart 0).getD 4) (ctxCfg (getCtx nosePart 0).raw 0x01000001) = true ∧ (getCtx nosePart 0).cfg.valid = false ∧
    (let s := setCtx nosePart 0 { getCtx nosePart 0 with cfg := { valid := true } }
     ctxOk s 0 ((noseOwner s 0).getD 4) (ctxCfg (getCtx s 0).raw 0x01000001) = true ∧ (getCtx s 0).cfg.valid = true) ∧
    ctxOk nosePart 0 ((noseOwner nosePart 0).getD 4) (ctxCfg (getCtx nosePart 0).raw 0x11000001) = false ∧ bit 0 0 = false := by decide

/-! ### The scalar base of the cores -/

/-- Start-up is done; partition 0 owns cluster 0 and Bench core 0; the domain of cluster 0 is awake, and core `c` runs at the start of tile memory. -/
def runCore (c : Nat) (x : Core) : State :=
  { setDom (setCore State.reset c { x with run := .running, pc := 0x4000000000 }) 0 { state := .awake } with
    parts := tset [] 0 { st := .defined, desc := lset ((leBytes 0 18).map fun _ => 0) 1 0x1000001 }, su := { State.reset.su with stage := 9 } }

/-- A Chisel core and a Bench core come to execute their next instruction, at S and at U. -/
theorem test_fetches_chisel : FetchesOffEnd (runCore 3 { pl := 1 }) 3 (runCore 3 { pl := 1 }) := ⟨⟨by decide, rfl⟩, by decide⟩
theorem test_fetches_bench : FetchesOffEnd (runCore 96 { pl := 0 }) 96 (runCore 96 { pl := 0 }) := ⟨⟨by decide, rfl⟩, by decide⟩

theorem test_hyps_ScalarResultsReachTheirRegister :
    (aluOp 0x026 1 2).isSome = true ∧ aluUnary 0x026 = false ∧ (aluOp 0x01B 1 0).isSome = true ∧ (mulOp 0x00F 1 0).isSome = true ∧
    (immOp 7 1 0x00FF).isSome = true := by decide

/-- Operands at the corners: a sum at 2^63, one below -2^63, one inside; a dividend of each sign. -/
theorem test_hyps_ArithmeticCorners :
    (2 : Int) ^ 63 ≤ (0x7FFFFFFFFFFFFFFF : Word).toInt + (1 : Word).toInt ∧ (0x8000000000000000 : Word).toInt + (0xFFFFFFFFFFFFFFFF : Word).toInt < -(2 ^ 63) ∧
    (-(2 ^ 63) ≤ (1 : Word).toInt + (1 : Word).toInt ∧ (1 : Word).toInt + (1 : Word).toInt < 2 ^ 63) ∧ (0 : Int) ≤ (0 : Word).toInt ∧
    (0xFFFFFFFFFFFFFFFF : Word).toInt < 0 ∧ (0 : Word).toInt < (1 : Word).toInt := by decide

theorem test_hyps_JumpsCallsAndBranches : branchTaken 5 1 = true ∧ branchTaken 5 0 = false := by decide

/-- A core whose g1 holds an address of its tile memory. -/
def withPtr (c : Nat) (a : Word) : State := runCore c { pl := 1, g := tset [] 1 a }
theorem test_hyps_LoadsStoresAndAtomics :
    (∃ v, coreLoad (withPtr 3 0x4000000008) 3 (mAddr (getCore (withPtr 3 0x4000000008) 3) 1 0 8) 8 8 = .done (leBytes 0 8) v) ∧
    (∃ v, coreStore (withPtr 96 0x4000000008) 96 (mAddr (getCore (withPtr 96 0x4000000008) 96) 1 0xFFF 8) 8 (leBytes 5 8) = .done [] v) ∧
    (∃ v, storeCheck (withPtr 3 0x4000000008) 3 0x4000000008 8 8 = (.ok (0x4000000008, 1), v)) ∧ inRegs 0x4000000008 = false ∧
    (∃ w, memAtomic (withPtr 3 0x4000000008) (corePart (withPtr 3 0x4000000008) 3) 0x4000000008 8 1 7 0 = (0, 0, w)) :=
  ⟨⟨_, rfl⟩, ⟨_, rfl⟩, ⟨_, rfl⟩, by decide, ⟨_, rfl⟩⟩

/-- A store of 8 bytes to the last word of a tile memory. -/
theorem test_hyps_StoreWritesExactlyItsBytes :
    let s := withPtr 3 0x400007FFF8
    let a := mAddr (getCore s 3) 1 0 8
    (∀ ch page i : Nat, (getPage s ch page).t = 0 → i ∈ (getPage s ch page).flips → 16384 ≤ i) ∧ isChisel 3 = true ∧ a % 8 = 0 ∧ inRegs a = false ∧ regionsAllow (getCore s 3) 3 7 a 8 = true ∧ (memWrite s (corePart s 3) a (leBytes 1 8)).1 = 0 := by
  exact ⟨fun _ _ _ _ hi => absurd (show _ ∈ ([] : List Nat) from hi) List.not_mem_nil, by decide⟩

theorem test_hyps_InstructionTraps :
    (getCore (runCore 3 { pl := 1 }) 3).exl = false ∧ aluOp 0x027 0 0 = none ∧ mAddr (getCore (withPtr 3 0x4000000001) 3) 1 0 2 % 2 ≠ 0 ∧
    FetchesOffEnd (runCore 3 { pl := 1, exl := true }) 3 (runCore 3 { pl := 1, exl := true }) := by
  refine ⟨by decide, by decide, by decide, ⟨by decide, rfl⟩, by decide⟩

/-- An interrupt due at S, aborts at U, at S and in a WAIT, a late store error, and a timer ahead of the counter. -/
theorem test_hyps_BoundaryEvents :
    (getCore (runCore 3 { pl := 1 }) 3).abHeld = [] ∧
    (let s := runCore 3 { pl := 1, ie := true, ieMask := 255, ip := 1 }
     (getCore s 3).run = .running ∧ intDue s 3 = true ∧ (getCore s 3).pl ≠ 0) ∧
    (let x := getCore (runCore 3 { pl := 0, abQ := [7] }) 3
     x.abQ = 7 :: [] ∧ x.run = .running ∧ x.pl = 0) ∧
    (let x := getCore (setCore State.reset 0 { run := .waiting, abQ := [7], fabQ := [9] }) 0
     x.abQ = 7 :: [] ∧ x.run = .waiting ∧ x.fabQ = 9 :: []) ∧
    (let s := setCore State.reset 0 { tcmpEn := true, tcmp := 1 }
     (getCore s 0).tcmpEn = true ∧ 0 < int32 (getCore s 0).tcmp (nsCounter s)) := by decide

theorem test_hyps_SystemRegisterInstructions :
    srKnown 3 0x027 = true ∧ srKnown 3 0x030 = false ∧ srKnown 96 0x030 = true ∧ srUserRead 0x00A = true ∧ srUserWrite 0x041 = true ∧
    srReadOnly 0x041 = false := by decide

/-- FENCE 0x5; a cacheable line of a Bench core with translation on; CORESIG to a core of the same partition. -/
def benchTlb : State :=
  runCore 96 { pl := 1, ptbr := 1, g := tset [] 1 0x8000, tlb := [⟨0x4000000000 / 4096, 12, 0, 0x40000000CF⟩, ⟨8, 12, 0, 0x40000000CF⟩] }
theorem test_hyps_BarriersAndMaintenance :
    (fld 5 0 2 ≠ 0 ∧ fld 5 2 2 ≠ 0) ∧ (isChisel 96 = false ∧ (cacheable benchTlb 96 (gRead (getCore benchTlb 96) 1)).1 = some 0x4000000000) ∧
    FetchesOffEnd benchTlb 96 (fetchCheck benchTlb 96).2 ∧
    ((gRead (getCore (withPtr 3 96) 3) 1).toNat = 96 ∧ (coreOwner (withPtr 3 96) 96).isSome = true ∧
     coreOwner (withPtr 3 96) 96 = coreOwner (withPtr 3 96) 3) := by
  refine ⟨by decide, by decide, ⟨⟨by decide, Prod.ext (by decide) rfl⟩, by decide⟩, by decide⟩

/-- A core with a wake condition, one without at MODE 0 and 1, one that holds the Rasp lock; a waiting core with an outcome, and one with a wake condition. -/
theorem test_hyps_WaitWaitsVotesAndCompletes :
    wakeCond (runCore 3 { pl := 1, ip := 1, ieMask := 1 }) 3 = true ∧ (wakeCond (runCore 3 { pl := 1 }) 3 = false ∧ (getCore (runCore 3 { pl := 1 }) 3).waitMode = 0) ∧
    (let s := setRasp (runCore 3 { pl := 1, waitMode := 1 }) 0 { holder := some 3 }
     wakeCond s 3 = false ∧ (getCore s 3).waitMode ≠ 0 ∧ holdsLock s 3 = true) ∧ holdsLock (runCore 3 { pl := 1 }) 3 = false ∧
    (let x := getCore (setCore State.reset 3 { run := .waiting, waitDone := some (5, 2) }) 3
     x.run = .waiting ∧ x.waitDone = some (5, 2)) ∧
    (let s := setCore State.reset 96 { run := .waiting, ip := 1, ieMask := 1 }
     (getCore s 96).waitDone = none ∧ wakeCond s 96 = true ∧ coreDom 96 = none) := by decide

theorem test_hyps_PrivilegedInstructionsTrapAtU :
    (getCore (runCore 96 { pl := 0 }) 96).pl = 0 ∧ (getCore (runCore 96 { pl := 0 }) 96).exl = false ∧ isChisel 96 = false ∧
    (srKnown 96 0 = true ∧ srUserWrite 0 = false ∧ srReadOnly 0 = false) := by decide

/-! ### The vector instructions -/

/-- A Chisel core and a Bench core at S that come to a vector instruction, for the element types and kinds that the statements name. -/
def vecCore (c et vs : Nat) : State := runCore c { pl := 1, et := et, vstart := vs, narrow := false, g := tset [] 1 0x4000000000 }
theorem vec_ok (c : Nat) (et vs : Nat) (long : Bool) (ty : Option (List Nat)) (r : Bool) (k : VKind)
    (h : canStep (vecCore c et vs) c = true) (hf : fetchCheck (vecCore c et vs) c = (none, vecCore c et vs))
    (h2 : (long && !isChisel c) = false) (h3 : vcfgOk (getCore (vecCore c et vs) c) c long ty r k = true) :
    VFetches (vecCore c et vs) c (vecCore c et vs) long ty r k := ⟨⟨h, hf⟩, h2, h3⟩

theorem test_hyps_ElementwiseInstructions :
    VFetches (vecCore 3 4 0) 3 (vecCore 3 4 0) true (some (vIntTypes 0x1A)) true .plain ∧ (vIntOp 0 8 0x1A 0 0).isSome = true ∧
    VFetches (vecCore 96 4 0) 96 (vecCore 96 4 0) false (some ((vMulTypes 4).getD [])) false .plain ∧ (vMulTypes 4).isSome = true ∧
    VFetches (vecCore 3 9 0) 3 (vecCore 3 9 0) true (some tV) true .plain ∧ accOk 3 7 = true ∧
    VFetches (vecCore 3 6 0) 3 (vecCore 3 6 0) true (some (tIs ++ tC)) false .plain ∧ VFetches (vecCore 3 8 0) 3 (vecCore 3 8 0) false (some tAny) false .plain ∧
    VFetches (vecCore 3 5 0) 3 (vecCore 3 5 0) true (some [0, 1, 2, 4, 5]) false .plain ∧
    VFetches (vecCore 3 6 0) 3 (vecCore 3 6 0) true (some [1, 2, 3, 5, 6]) true .plain := by
  refine ⟨?_, by decide, ?_, by decide, ?_, by decide, ?_, ?_, ?_, ?_⟩ <;> exact vec_ok _ _ _ _ _ _ _ (by decide) rfl (by decide) (by decide)

theorem test_hyps_ElementwiseWritesActiveElementsOnly : (0 : Nat) < 32 ∧ 64 * 32 ≤ 2048 := by decide

theorem test_hyps_AccumulatorInstructions :
    accOk 3 7 = true ∧ VFetches (vecCore 3 8 0) 3 (vecCore 3 8 0) true (some tV) false .plain ∧
    VFetches (vecCore 3 9 0) 3 (vecCore 3 9 0) true (some tV) true .plain ∧ (vMulTypes 0x13).isSome = true ∧
    VFetches (vecCore 3 6 0) 3 (vecCore 3 6 0) true (some ((vMulTypes 0x13).getD [])) false .plain := by
  refine ⟨by decide, ?_, ?_, by decide, ?_⟩ <;> exact vec_ok _ _ _ _ _ _ _ (by decide) rfl (by decide) (by decide)

theorem test_hyps_PredicatesCountsAndReductions :
    prOk 15 = true ∧ VFetches (vecCore 3 6 0) 3 (vecCore 3 6 0) true (some (tIs ++ tC)) false .plain ∧
    VFetches (vecCore 3 3 0) 3 (vecCore 3 3 0) true (some tIs) false .plain ∧ VFetches (vecCore 3 9 0) 3 (vecCore 3 9 0) true (some (tIs ++ tC ++ tV)) false .plain ∧
    VFetches (vecCore 96 7 0) 96 (vecCore 96 7 0) false none false .plain ∧ VFetches (vecCore 3 0 0) 3 (vecCore 3 0 0) true (some tAny) false .plain ∧
    (getCore (vecCore 3 0 0) 3).ffr % 2 = 0 := by
  refine ⟨by decide, ?_, ?_, ?_, ?_, ?_, by decide⟩ <;> exact vec_ok _ _ _ _ _ _ _ (by decide) rfl (by decide) (by decide)

/-- One element of 16 bits from tile memory; a first-fault load whose second element lies beyond it; whole registers of the short class. -/
theorem test_hyps_VectorLoads :
    VFetches (vecCore 3 2 0) 3 (vecCore 3 2 0) false (some (formTypes 3)) false .resumable ∧
    VFetches (vecCore 3 2 0) 3 (vecCore 3 2 0) false (some (formTypes 0)) false .whole ∧
    VFetches (vecCore 3 8 0) 3 (vecCore 3 8 0) false (some tV) false .resumable ∧ VFetches (vecCore 3 2 0) 3 (vecCore 3 2 0) false none false .whole ∧
    (∃ r v, runLoads (vecCore 3 2 0) 3 (putElem 16 8) 0 [⟨0, 0x4000000000, 2, 2⟩] = (r, none, v)) ∧
    (∃ r v, runLoads (vecCore 3 2 0) 3 (putElem 16 8) 0 [⟨0, 0x4000000000, 2, 2⟩, ⟨1, 1, 2, 2⟩] = (r, some (1, 4, 0, 1), v)) := by
  refine ⟨?_, ?_, ?_, ?_, ⟨_, _, rfl⟩, ⟨_, _, rfl⟩⟩ <;> exact vec_ok _ _ _ _ _ _ _ (by decide) rfl (by decide) (by decide)

theorem test_hyps_VectorStores :
    VFetches (vecCore 3 2 7) 3 (vecCore 3 2 7) false (some (formTypes 1)) false .resumable ∧ (getCore (vecCore 3 2 7) 3).compat = false ∧
    (∃ v, runStores (vecCore 3 2 7) 3 [⟨7, 0x4000000000, [1, 2], 2⟩] = (none, v)) ∧
    (∃ v, runStores (vecCore 3 2 7) 3 [⟨7, 1, [1, 2], 2⟩] = (some (7, 4, 0, 1), v)) ∧
    (∃ v, storeAll (vecCore 3 2 0) 3 [⟨0, 0x4000000000, [1, 2], 2⟩] = (none, v)) := by
  refine ⟨?_, by decide, ⟨_, rfl⟩, ⟨_, rfl⟩, ⟨_, rfl⟩⟩
  exact vec_ok _ _ _ _ _ _ _ (by decide) rfl (by decide) (by decide)

theorem test_hyps_VcfgFaults :
    (getCore (vecCore 3 9 1) 3).exl = false ∧ ¬ (getCore (vecCore 3 9 1) 3).et ∈ tI ++ tC ∧ (getCore (vecCore 3 9 1) 3).vstart ≠ 0 := by decide

/-! ### Circular buffers, block repeats, accumulators, the Rasp -/

/-- A buffer of 0 bytes and one of 64; a circular load and store of one element each from tile memory. -/
theorem test_hyps_CircularBuffers :
    Fetches (runCore 3 {}) 3 (runCore 3 {}) ∧ isChisel 3 = true ∧ (getCb (getCore (runCore 3 {}) 3) 7).len = 0 ∧
    (getCb (getCore (runCore 3 { cb := tset [] 7 { base := 0x4000000000, len := 64 } }) 3) 7).len ≠ 0 ∧
    VFetches (vecCore 3 2 0) 3 (vecCore 3 2 0) true (some (tIs ++ tC)) false .plain ∧
    (∃ r v, runLoads (vecCore 3 2 0) 3 (putElem 16 8) 0 [⟨0, 0x4000000000, 2, 2⟩] = (r, none, v)) ∧
    (∃ v, storeAll (vecCore 3 2 0) 3 [⟨0, 0x4000000000, [1, 2], 2⟩] = (none, v)) := by
  refine ⟨⟨by decide, rfl⟩, by decide, by decide, by decide, vec_ok _ _ _ _ _ _ _ (by decide) rfl (by decide) (by decide), ⟨_, _, rfl⟩, ⟨_, rfl⟩⟩

/-- LOOP at level 0 with nothing active, and at level 3 inside three levels; the break of level 3; each case of the loop-end test. -/
def loop0 : Core := { lp := tset [] 3 { act := true, cnt := 2, stop := 0x4000000100 } }
def loop3 : Core := { lp := [(0, { act := true }), (1, { act := true }), (2, { act := true, stop := 0x4000000008 })] }
theorem test_hyps_BlockRepeats :
    FetchesOffEnd (runCore 3 {}) 3 (runCore 3 {}) ∧ isChisel 3 = true ∧ (getCore (runCore 3 {}) 3).exl = false ∧
    (∀ i, i < 4 → (tget (getCore (runCore 3 {}) 3).lp {} i).act = decide (i < 0)) ∧
    FetchesOffEnd (runCore 3 loop3) 3 (runCore 3 loop3) ∧ (∀ i, i < 4 → (tget loop3.lp {} i).act = decide (i < 3)) ∧
    ((getCore (runCore 3 loop3) 3).pc + BitVec.ofNat 64 (4 * 2)).toNat ≤ (tget loop3.lp {} 2).stop.toNat ∧
    FetchesOffEnd (runCore 3 loop0) 3 (runCore 3 loop0) ∧ (getCore (runCore 3 loop0) 3).exl = false ∧
    ((tget loop0.lp {} 3).act = true ∧ (∀ j, j < 4 → 3 < j → (tget loop0.lp {} j).act = false)) ∧ (tget loop0.lp {} 2).act = false ∧
    ((tget loop0.lp {} 3).stop = 0x4000000100 ∧ 1 < (tget loop0.lp {} 3).cnt) ∧
    (tget (tset [] 0 ({ act := true, cnt := 1 } : Lp)) {} 0).cnt ≤ 1 ∧ (tget loop0.lp {} 3).stop ≠ 0 := by
  refine ⟨⟨⟨by decide, rfl⟩, by decide⟩, by decide, by decide, by decide, ⟨⟨by decide, rfl⟩, by decide⟩, by decide, by decide,
    ⟨⟨by decide, rfl⟩, by decide⟩, by decide, ⟨by decide, by decide⟩, by decide, by decide, by decide, by decide⟩

theorem test_hyps_AccumulatorMoves :
    isChisel 3 = true ∧ (7 : BitVec 5).toNat < 8 ∧ (3 : BitVec 5).toNat < 4 ∧
    VFetches (vecCore 3 9 0) 3 (vecCore 3 9 0) true (some (tWide ++ tV)) false .plain ∧ VFetches (vecCore 3 2 0) 3 (vecCore 3 2 0) false (some tWide) false .plain ∧
    VFetches (vecCore 3 2 0) 3 (vecCore 3 2 0) true (some tWide) true .plain ∧ VFetches (vecCore 3 2 0) 3 (vecCore 3 2 0) true none false .plain := by
  refine ⟨by decide, by decide, by decide, ?_, ?_, ?_, ?_⟩ <;> exact vec_ok _ _ _ _ _ _ _ (by decide) rfl (by decide) (by decide)

/-- The Rasp of cluster 0 in a given state. -/
def raspCore (r : Rasp) : State := setRasp (runCore 3 {}) 0 r
/-- A Rasp instruction of core 3. -/
def rop (op : Nat) (kd : Option Nat) (discard : Bool) : RaspOp := { mkOp {} 3 op kd 0 0 0 0 with discard := discard }
theorem test_hyps_RaspLockAndStatus :
    Fetches (raspCore {}) 3 (raspCore {}) ∧ (getRasp (raspCore {}) 0).holder = none ∧ (getRasp (raspCore {}) 0).queue = [] ∧ (getRasp (raspCore {}) 0).flight = [] ∧
    Fetches (raspCore { holder := some 2 }) 3 (raspCore { holder := some 2 }) ∧ (getRasp (raspCore { holder := some 2 }) 0).holder = some 2 ∧
    Fetches (raspCore { holder := some 3 }) 3 (raspCore { holder := some 3 }) ∧ (getRasp (raspCore { holder := some 3 }) 0).flight = [] ∧
    Fetches (raspCore { errs := tset [] 3 [⟨63, 4⟩] }) 3 (raspCore { errs := tset [] 3 [⟨63, 4⟩] }) ∧
    tget (getRasp (raspCore { errs := tset [] 3 [⟨63, 4⟩] }) 0).errs [] 3 = ⟨63, 4⟩ :: [] ∧
    tget (getRasp (raspCore {}) 0).errs [] 3 = [] ∧
    (getRasp (raspCore { queue := [1, 0] }) 0).queue = 1 :: [0] := by
  refine ⟨⟨by decide, rfl⟩, rfl, rfl, rfl, ⟨by decide, rfl⟩, rfl, ⟨by decide, rfl⟩, rfl, ⟨by decide, rfl⟩, rfl, rfl, rfl⟩

/-- The lock held with nothing in flight, with another k register in flight, and not held. -/
theorem test_hyps_RaspIssue :
    Fetches (raspCore { holder := some 3 }) 3 (raspCore { holder := some 3 }) ∧
    (getRasp (raspCore { holder := some 3 }) 0).holder = some 3 ∧ (getRasp (raspCore { holder := some 3 }) 0).flight.length < 16 ∧
    scoreBit { holder := some 3 } 15 = false ∧ (1 : BitVec 10).toNat < 2048 / sliceBits (raspCore { holder := some 3 }) 3 true ∧
    Fetches (raspCore {}) 3 (raspCore {}) ∧ (getRasp (raspCore {}) 0).holder ≠ some 3 := by
  refine ⟨⟨by decide, rfl⟩, rfl, by decide, by decide, by decide, ⟨by decide, rfl⟩, by decide⟩

/-- A result, a discarded instruction, a bad parameter, a late fault with three records already there; and the k words of a cluster are its scrubber's. -/
theorem test_hyps_RaspCompletes :
    (getRasp (raspCore { flight := [rop 7 (some 15) false] }) 0).flight = rop 7 (some 15) false :: [] ∧
    (getRasp (raspCore { flight := [rop 7 (some 15) false] }) 0).unlocking = none ∧ (rop 7 (some 15) false).op ≠ 6 ∧
    (rop 7 (some 15) false).discard = false ∧ (rop 7 (some 15) false).kd = some 15 ∧
    (raspResult [] (rop 7 (some 15) false) false).isSome = true ∧ (rop 7 none true).discard = true ∧
    raspResult [] { rop 0 (some 15) false with cw := 0xFFFFFFFFFFFFFFFF } false = none ∧
    (tget (getRasp (raspCore { errs := tset [] 3 [⟨0, 1⟩, ⟨1, 1⟩, ⟨2, 1⟩] }) 0).errs [] 3).length < 4 ∧
    srOfWord (2 ^ 45 + 23 * 2 ^ 24 + 786432 + 511) = 23 ∧ (∀ k b, ctrGet State.reset k b ≤ Counter.top k) := by
  refine ⟨rfl, rfl, by decide, rfl, rfl, by decide, rfl, by decide, by decide, by decide, fun _ _ => Nat.zero_le _⟩

/-! ### The channel-coding jigs -/

/-- The descriptor of a polar encoding job: K = 30, E = 100, IN and OUT in the tile memory of core 0. -/
def encDesc : List Byte :=
  leBytes 0x0D 8 ++ leBytes 0 8 ++ leBytes 0x4000001000 8 ++ leBytes 0x4000002000 8 ++ leBytes 0 16 ++ leBytes 2 1 ++ leBytes 9 1 ++ leBytes 30 2 ++ leBytes 0 2 ++ leBytes 100 4 ++ leBytes 0 54
/-- Partition 0 holds cluster 0 and a share of every class on CD0, whose copies are in service; the descriptor lies at the start of tile 0. -/
def jigState (d : List Byte) (q : List JgJob) (r : List JgRun) : State :=
  let s := runCore 0 {}
  let s := writeBytes s 0x4000000000 d
  { s with jig := { share := tset [] 0 0x11111, inst := tset [] 0 0x1FFFF, queue := q, running := r } }
/-- A job of that descriptor. -/
def encJob (d : List Byte) : JgJob := { die := 0, part := 0, cls := 5, addr := 0x4000000000, desc := d, hi := false, evt := none, retry := false, ord := 7 }
theorem test_hyps_JobsAreSubmitted :
    (dieOut State.reset 0 = false ∧ dieOut { State.reset with flt := { State.reset.flt with dieLost := 1 } } 0 = true) ∧ mayTouch (.part 0) (some 1) = false ∧ mayTouch .mc (some 3) = true ∧ (0x4000000000 : Nat) % 128 = 0 ∧ (0x4000000001 : Nat) % 128 ≠ 0 ∧
    targetOf 0x4000000000 ≠ .nothing ∧ targetOf 0x4000000000 ≠ .regs ∧ ownsMem (done State.reset) 0 0x4000000000 = false ∧ ownsMem (done (jigState encDesc [] [])) 0 0x4000000000 = true ∧
    (∃ u, memRead (done (jigState (encDesc ++ leBytes 0 16) [] [])) (some 0) 0x4000000000 128 = (0, encDesc ++ leBytes 0 16, u) ∧
      jgShare u 0 0 5 ≠ 0 ∧ (inService u 0 5).isEmpty = false ∧ jigDepth u 0 0 5 < 256) ∧
    jdEvt ((encDesc ++ leBytes 0 16).take 112) = false ∧ jdOk ((encDesc ++ leBytes 0 16).take 112) 5 = true ∧ jdOk ((encDesc ++ leBytes 0 16).take 112) 4 = false ∧
    jgShare State.reset 0 0 5 = 0 ∧ (inService State.reset 1 1).isEmpty = true ∧
    256 ≤ jigDepth (jigState [] (List.replicate 256 (encJob [])) []) 0 0 5 := by
  set_option maxRecDepth 4000 in
  refine ⟨by decide, by decide, by decide, by decide, by decide, by decide, by decide, by decide, by decide, ⟨_, rfl, by decide, by decide, by decide⟩, by decide, by decide, by decide, by decide, by decide, by decide⟩

theorem test_hyps_JobsStartInTurn :
    (getDom (jigState [] [encJob []] []) (jigDom 0 5)).state = .awake ∧ jigQueued (jigState [] [encJob []] []) 0 5 ≠ [] ∧
    ((inService (jigState [] [encJob []] []) 0 5).find? fun i => !((jigRunning (jigState [] [encJob []] []) 0 5).any fun r => r.inst == i)) = some 0 ∧
    (∀ q ∈ jigQueued (jigState [] [encJob []] []) 0 5, q.part < 4) ∧
    bufferError (jigState [] [encJob encDesc] []) (encJob encDesc) = 0 ∧ bufferError (jigState [] [] []) (encJob (encDesc.take 24 ++ leBytes 0 8 ++ encDesc.drop 32)) ≠ 0 ∧
    jigQueued (jigState [] [encJob []] []) 1 5 = [] := by decide

theorem test_hyps_JobsEnd :
    ((jigRunning (jigState [] [] [⟨1, encJob encDesc⟩]) 0 5).find? fun r => r.inst == 1) = some ⟨1, encJob encDesc⟩ ∧ (encJob encDesc).cls = 5 ∧
    ((jigRunning (jigState [] [] [⟨1, encJob encDesc⟩]) 0 5).find? fun r => r.inst == 0) = none ∧ jdComb encDesc 5 = false ∧ jdHst encDesc 5 = false ∧
    (∃ rx u n v, memRead (jigState [] [] []) (some 0) (jdIn encDesc) (inBytes encDesc 5) = (0, rx, u) ∧
      memWrite u (some 0) (jdOut encDesc) (List.replicate 13 1) = (0, n, v)) ∧
    (∃ bs u, memRead (jigState [] [] []) (some 1) (jdIn encDesc) (inBytes encDesc 5) = (5, bs, u)) ∧
    (jigQueued (jigState [] [encJob []] []) 0 5).filter (fun j => j.part == 0 && j.addr == 0x4000000000) = [encJob []] ∧
    (jigRunning (jigState [] [] [⟨1, encJob []⟩]) 0 5).filter (fun r => r.job.part == 0 && r.job.addr == 0x4000000000) = [⟨1, encJob []⟩] ∧
    (inService (jigState [] [] []) 0 5).contains 1 = true ∧ (inService (jigState [] [] []) 0 5).contains 0 = true ∧ (inService (jigState [] [] []) 0 5).contains 2 = false ∧
    inPlace (encJob encDesc) = false := by
  refine ⟨by decide, rfl, by decide, by decide, by decide, ⟨_, _, _, _, rfl, rfl⟩, ⟨_, _, rfl⟩, by decide, by decide, by decide, by decide, by decide, by decide⟩

/-- An LDPC decoding job of ZC 2, E 100 and 132 LLRs of buffer, with a code byte; and what a decoder may find. -/
def decDesc (code : Nat) : List Byte :=
  leBytes 1 8 ++ leBytes 0 8 ++ leBytes 0x4100001000 8 ++ leBytes 0x4100002000 8 ++ leBytes 0 16 ++ leBytes code 1 ++ leBytes 8 1 ++ leBytes 2 2 ++
  leBytes 44 2 ++ leBytes 0 2 ++ leBytes 100 4 ++ leBytes 132 2 ++ leBytes 8 1 ++ leBytes 0 49
def found (out : List Byte) : JigFind := { crcPass := false, iter := 63, metric := 9, out := out, time := 0 }
theorem test_hyps_JobResults :
    (jdDecodes encDesc 5 = false ∧ encodeStated encDesc 5 = true) ∧ jdDecodes (decDesc 0x10) 1 = true ∧
    (jdCrc (decDesc 0x10) = 0 ∧ jdEt (decDesc 0x10) = 1 ∧ jobUnsat (decDesc 0x10) 1 (found []) ≠ 0) ∧
    (jdCrc (decDesc 0x22) ≠ 0 ∧ jdEt (decDesc 0x22) = 2 ∧ jobOutcome (decDesc 0x22) 1 (found [1]) = 2) ∧
    jobNear (decDesc 0x10) 1 = true := by
  refine ⟨by decide, by decide, by decide, ⟨by decide, by decide, by decide +kernel⟩, by decide⟩

/-! ### Dovetail -/

/-- Partition 0 owns cluster 0 and flows 0 to 1023 of CD0 with a quota of 64; flow 5 is valid and open; core set 0 holds core 3; a core runs. -/
def dvState (x : Core) (f : Flow) (l : List Item) : State :=
  let s := setFlow (runCore 3 x) 5 f
  { s with
    parts := tset [] 0 { st := .defined, desc := lset (lset ((leBytes 0 18).map fun _ => 0) 1 0x1000001) 4 (BitVec.ofNat 64 (1024 * 2 ^ 17 + 64 * 2 ^ 35)) }
    dv := { s.dv with items := l, csets := tset [] 0 8 } }
def flow5 : Flow := { valid := true, open_ := true, qmax := 2 }
/-- An item of flow 5. -/
def item5 (pl : Place) : Item :=
  { id := 1, hdl := 9, flow := 5, kind := 0, tomb := false, level := 15, tag := 7, seq := 0, arg0 := 0, arg1 := 0, arrNs := 0, readyNs := 0, getNs := 0, budget := none, place := pl }
theorem test_hyps_ItemsEnterFlows :
    ownsFlow (dvState {} flow5 []) 0 1024 = false ∧ ownsFlow (dvState {} flow5 []) 0 1023 = true ∧ (getFlow (dvState {} flow5 []) 6).valid = false ∧
    (getFlow (dvState {} { flow5 with open_ := false } []) 5).open_ = false ∧
    (let s := dvState {} flow5 [item5 .queued]
     ownsFlow s 0 5 = true ∧ (getFlow s 5).valid = true ∧ (getFlow s 5).open_ = true ∧ qcount s 5 < (getFlow s 5).qmax ∧ quotaUsed s 0 0 < dvQuota s 0 0 ∧
     refusal s 0 5 false = 0) ∧
    (let s := dvState {} flow5 [item5 .queued, item5 .queued]
     (getFlow s 5).qmax ≤ qcount s 5 ∧ refusal s 0 5 false = 1) ∧
    dvQuota (dvState {} flow5 []) 0 1 ≤ quotaUsed (dvState {} flow5 []) 0 1 ∧
    (0x4000000001 : Nat) % 32 ≠ 0 ∧
    (∃ v w it r w', memRead (dvState {} flow5 []) (some 0) 0x4000000000 32 = (0, leBytes 0 32, v) ∧
      enqueue v 0 { recordItem (leBytes 0 32) with flow := 5 } = (0, w, some it) ∧ enqueue v 0 (recordItem (leBytes 0 32)) = (r, w', none) ∧ r ≠ 0) := by
  refine ⟨by decide, by decide, by decide, by decide, by decide, by decide, by decide, by decide, ⟨_, _, _, _, _, rfl, rfl, rfl, by decide⟩⟩
theorem test_fetches_dv : FetchesOffEnd (dvState {} flow5 []) 3 (dvState {} flow5 []) := ⟨⟨by decide, rfl⟩, by decide⟩

theorem test_hyps_ItemsAreStagedAndRun :
    (stageItem (dvState { weight := 16 } flow5 [item5 .queued]) 0).map (fun it => it.id) = some 1 ∧
    bestCore (dvState { weight := 16 } flow5 [item5 .queued]) (takers (dvState { weight := 16 } flow5 [item5 .queued]) (item5 .queued)) = some 3 ∧
    oldestStaged (dvState {} flow5 []) 3 = none ∧ oldestStaged (dvState {} flow5 [item5 (.staged 3 0)]) 3 = some (item5 (.staged 3 0)) ∧
    (∀ y ∈ stagedOn (dvState {} flow5 [item5 (.staged 3 0)]) 3,
      (getTick (dvState {} flow5 [item5 (.staged 3 0)]) 0).wins.find? (fun w => w.item == y.id && decide (w.closeAt ≤ 0)) = none) ∧
    4 ≤ (runningOn (dvState {} flow5 [item5 (.running 3), item5 (.running 3), item5 (.running 3), item5 (.running 3)]) 3).length ∧
    (∃ n v, memWrite (dvState {} flow5 []) (some 0) 0x4000000000 (itemRecord (item5 .queued)) = (0, n, v)) := by
  refine ⟨by decide, by decide, by decide, by decide, by decide, by decide, ⟨_, _, rfl⟩⟩

theorem test_hyps_ItemsLeaveFlows :
    heldItem (dvState {} flow5 [item5 (.running 3)]) 3 9 = some (item5 (.running 3)) ∧ heldItem (dvState {} flow5 [item5 (.running 2)]) 3 9 = none ∧
    itemOfReg (dvState {} flow5 []) 9 = none ∧ itemOfReg (dvState {} flow5 [item5 .queued]) 0xC000000000000009 = some (item5 .queued) ∧
    isWaiting (item5 (.staged 3 0)) = true ∧ isRunning (item5 (.running 3)) = true ∧ (0xC0 : BitVec 10).toNat < 256 ∧
    ownsFlow (dvState {} flow5 []) 1 5 = false ∧ (getFlow (dvState {} flow5 []) 5).kind = 0 ∧ (getFlow (dvState {} flow5 []) 5).nextEn = false ∧
    (let s := setFlow (dvState {} { flow5 with nextEn := true, next := 6 } [item5 .held]) 6 flow5
     (flowItems s 5).find? (fun it => it.place == .held) = some (item5 .held) ∧ flowOwner s 5 = some 0 ∧ refusal s 0 6 true = 0) := by decide

theorem test_hyps_FlowsAndCoreSetsAreConfigured :
    (dieOut (dvState {} {} []) (flowDie 5) = false ∧ dieOut { State.reset with flt := { State.reset.flt with dieLost := 2 } } (flowDie 0x20000) = true) ∧
    flowConfigOk (dvState {} {} []) 0 5 {} (flowConfig { raw2 := 2 } 1) = true ∧ (flowConfig { raw2 := 2 } 1).valid = true ∧
    flowConfigOk (dvState {} flow5 [item5 .queued]) 0 5 flow5 (flowConfig { flow5 with raw2 := 1 } 1) = true ∧
    flowConfigOk (dvState {} {} []) 0 5 {} (flowConfig {} 1) = false ∧ csetOk (dvState {} {} []) 0 0 0x100000000000F = true ∧
    csetOk (dvState {} {} []) 0 0 0x10 = false := by decide

/-! ### The Spline fabric and the die links -/

/-- A request of four bytes to tile memory 0. -/
def req (cmd : BitVec 6) (a : BitVec 48) : NocReq := ⟨0, cmd, a, 4, 0, 0, false, 0, 0, 3, 0, []⟩
def nocState (x : NocPort) : State := { setPort (runCore 0 {}) 24 x with now := 1000000 }
theorem test_hyps_PacketsAreInjected :
    reqFits (req 1 0x4000000000) = true ∧ reqFits (req 1 0x4000000FFE) = false ∧ reqFits (req 0x3F 0) = false ∧
    agentAt 24 (req 1 0).subsrc.toNat = true ∧ agentAt 154 (req 1 0).subsrc.toNat = false ∧ reqDest (req 1 0x2000000000) = none ∧
    servesPart (nocState {}) 24 (req 1 0).subsrc.toNat (req 1 0).part.val = true ∧ servesPart (nocState {}) 144 0 0 = false ∧
    sendGate (nocState {}) 24 (makePkt (nocState {}) 24 24 (req 1 0x4000000000)) = 0 ∧
    reqDest (req 1 0x4000000000) = some 24 ∧ portGate (nocState {}) 24 = 0 ∧ (getPort (nocState {}) 24).wait = [] ∧
    sendGate (setDom (nocState {}) 0 { state := .s2 }) 24 (makePkt (nocState {}) 24 24 (req 1 0x4000000000)) ≠ 0 ∧
    (1024 * pktUnits 1 4 0 ≤ tget (gainTokens (getPort (nocState {}) 24) 1000000).tok 0 0 ∧ (getPort (nocState {}) 24).heldCls.contains 0 = false ∧
      (portNoc (nocState {}) 24).busy = false) ∧
    tget (gainTokens (getPort (nocState { burst := tset [] 0 0 }) 24) 1000000).tok 0 0 < 1024 * pktUnits 1 4 0 ∧
    (getPort (nocState { heldCls := [0] }) 24).heldCls.contains 0 = true ∧
    (let s := setNocDie (nocState { chg := [0x01000000, 0, 0, 0, 0] }) 0 { busy := true }
     ((portNoc s 24).busy && chgBit (getPort s 24) 24) = true) := by decide

/-- A packet of core 1 to tile memory 0, and the state that holds it. -/
def pkt (cls cmd : Nat) (opnd : Word) (data : List Byte) : Pkt :=
  { dest := 24, src := 25, subsrc := 0, cls := cls, cmd := cmd, epoch := false, addr := 0x4000000000, len := 4, seq := 0, status := 0, part := some 0, page := 0,
    aop := 1, aw := false, opnd := opnd, cmp := 0, data := data }
def pktState (p : Pkt) (x : NocPort) : State := addPkt (nocState x) p
theorem test_hyps_PacketsArePerformed :
    (∀ e ∈ [(0, 0x01), (0, 0x02), (2, 0x20), (2, 0x21), (0, 0x03), (3, 0x30), (3, 0x31), (3, 0x32)],
      Arrives (pktState (pkt e.1 e.2 4 [1, 2, 3, 4]) {}) 25 24 e.2 (pkt e.1 e.2 4 [1, 2, 3, 4])) ∧
    targetOf 0x4000000000 ≠ .regs ∧ (∃ bs v, memRead (nocState {}) (some 0) 0x4000000000 4 = (0, bs, v)) ∧
    (∃ n v, memWrite (nocState {}) (some 0) 0x4000000000 [1, 2, 3, 4] = (0, n, v)) ∧ (∃ n v, memWrite (nocState {}) (some 1) 0x4000000000 [1, 2, 3, 4] = (5, n, v)) ∧
    (∃ old v, memAtomic (nocState {}) (some 0) 0x4000000000 4 1 4 0 = (0, old, v)) ∧ (portCore 25).isSome = true ∧ portCore 26 = some 2 ∧ portCore 159 = none ∧
    (∀ w, Config.regBlock 0 = some w → targetOf 0x5000000000 = .regs ∧ regAddr 0x5000000000 = some (w, 0)) ∧ corePart (nocState {}) 0 ≠ some 3 ∧
    (∃ r v, enqueue (nocState {}) 0 (pktItem (pkt 3 0x30 0 [])) = (r, v, none)) := by
  refine ⟨?_, by decide, ⟨_, _, rfl⟩, ⟨_, _, rfl⟩, ⟨_, _, rfl⟩, ⟨_, _, rfl⟩, by decide, by decide, by decide, fun w h => ⟨by decide, by simp [regAddr, h]⟩, by decide, ⟨_, _, rfl⟩⟩
  intro e h
  simp only [List.mem_cons, List.not_mem_nil, or_false] at h
  rcases h with h | h | h | h | h | h | h | h <;> subst h <;> exact ⟨rfl, rfl, by decide, by decide⟩

theorem test_hyps_AnswersReachTheirRequester :
    (∀ e ∈ [0x10, 0x11, 0x12, 0x13, 0x14], Arrives (pktState (pkt 1 e 0 []) {}) 25 24 e (pkt 1 e 0 [])) ∧
    (let x : NocPort := { out := [{ seq := 0, cls := 0, cmd := 1, subsrc := 0, dest := 25, addr := 0, len := 4, at_ := 0 }] }
     (x.out.find? fun o => o.seq == 0 && (dueAnswer o.cmd == 0x10 || (o.cls == 2 && 0x10 == 0x14))).isSome = true ∧
     (x.out.find? fun o => o.seq == 4095 && o.cls == 3) = none ∧ (x.out.find? fun o => o.seq == 0 && o.cls == 0).isSome = true) ∧
    (let s := setDom (pktState (pkt 0 1 0 []) {}) 0 { state := .s1 }
     oldestPkt s 25 24 0 = some (pkt 0 1 0 []) ∧ blockedAt s (pkt 0 1 0 []) = none ∧ portGate s 24 ≠ 0) ∧
    oldestPkt (nocState {}) 25 24 0 = none ∧ ([4095] : List Nat).contains 4095 = true ∧ portDma 25 0 = none ∧
    (hcrcOk (headerWord (pkt 0 2 0 []) ^^^ 1) = false ∧ hcrcOk (headerWord (pkt 0 2 0 [])) = true) := by
  refine ⟨?_, by decide, by decide, by decide, by decide, by decide, by decide +kernel⟩
  intro e h
  simp only [List.mem_cons, List.not_mem_nil, or_false] at h
  rcases h with h | h | h | h | h <;> subst h <;> exact ⟨rfl, rfl, by decide, by decide⟩

theorem test_hyps_RouteEpochsTurnOver :
    (getNocDie State.reset 2).busy = false ∧ (getNocDie (setNocDie State.reset 1 { busy := true }) 1).busy = true ∧
    (let s := setNocDie (setNocDie (setNocDie State.reset 0 { busy := true }) 1 { busy := true }) 2 { busy := true }
     ((upFrom 0 3).all (fun d => dieOut s d || (getNocDie s d).busy) && !(s.noc.pkts.any (isOld s)) && s.noc.dropLog.all (fun e => e.2.isEmpty)) = true) := by decide

/-- A direction in normal mode, at its fifteenth failure, and under repair; a unit as sent, and one with a bit in error. -/
def linkState (l : Link) : State := setLink (setLink State.reset 78 l) 79 l
def sent (lseq : BitVec 6) (vld : Bool) (err : BitVec 544) : LinkUnit :=
  { bits := 5, lseq := lseq, ack := 63, nak := false, ctl := false, vld := vld, err := err }
theorem test_hyps_LinksDeliverInOrder :
    (getLink State.reset 79).state < 2 ∧ (let l := getLink (linkState { state := 2 }) 79; 2 ≤ l.state ∧ canSend l (sent 0 true 0) = true ∧
      canSend l (sent 1 true 0) = false ∧ canSend l (sent 0 false 0) = true ∧ l.failed = [] ∧ l.rxNext = 0) ∧
    (lcrcOk (sentBits (sent 0 true 0) ^^^ 0) = true ∧ lcrcOk (sentBits (sent 0 true 1) ^^^ 1) = false) ∧
    (let l : Link := { state := 2, rxNext := 63 }; canSend l (sent 0 true 0) = true ∧ (sent 0 true 0).lseq.toNat ≠ l.rxNext) ∧
    (getLink (linkState { state := 3, rxNak := true, failRun := 15 }) 79).failRun + 1 = 16 ∧
    (let s := linkState { state := 2, repairing := some 16, txSwitch := some 0 }
     let l := getLink s 79
     l.repairing = some 16 ∧ l.txInBand = false ∧ revDir 79 = 78 ∧ (getLink s 78).txNext = (getLink s 78).rxNext ∧ l.txSwitch = some 0 ∧ l.rxNext = 0 ∧ l.txNext = 0) ∧
    (ackFormed (getLink (linkState { state := 2 }) (revDir 79)) (sent 0 true 0) = true ∧ ackFormed {} { sent 0 true 0 with nak := true } = false ∧
      ackFormed {} (sent 0 false 0) = true) ∧ (let l := getLink (linkState { state := 2, rxNak := true }) 79; l.rxNak = true ∧ 63 = (l.rxNext + 63) % 64) ∧
    bundleUp (linkState { state := 2 }) 39 = true ∧ bundleUp (linkState { state := 1 }) 39 = false := by
  refine ⟨by decide, by decide, by decide +kernel, by decide, by decide, by decide, by decide, by decide, by decide, by decide⟩

/-! ### The DMA engines -/

/-- Channel 0 of cluster engine 0, owned by partition 0. -/
def dmaState (x : DmaCh) (m : List Byte) : State := setDma (writeBytes (runCore 0 {}) 0x4000000000 m) 0 x
theorem test_hyps_ChannelCommands :
    mayTouch (.part 1) (some (dmaPart (dmaState {} []) 0)) = false ∧ mayTouch (.part 0) (some (dmaPart (dmaState {} []) 0)) = true ∧ dmaGate (dmaState {} []) 0 = 0 ∧
    dmaGate (setDom (dmaState {} []) 0 { state := .s3 }) 0 ≠ 0 ∧ (getDma (dmaState {} []) 0).state = .idle ∧
    (getDma (dmaState { state := .paused, back := .waitTrig } []) 0).back = .waitTrig ∧ (getDma (dmaState { state := .parked } []) 0).state = .parked ∧
    (let s := dmaState {} []
     dieOut s 0 = false ∧ dieOut { s with su := { s.su with dieGone := 1 } } 0 = true) := by decide

/-- A copy of 16 bytes within tile memory 0 that ends its list, and one that goes on. -/
def copyDesc (link : Nat) : List Byte := leBytes (2 ^ 31) 4 ++ leBytes 16 4 ++ leBytes 0x4000001000 8 ++ leBytes 0x4000002000 8 ++ leBytes link 8 ++ leBytes 0 32
theorem test_hyps_DescriptorsAreFetchedAndTriggered :
    (∃ u, memRead (takeSeq (dmaState { state := .fetch, desc := 0x4000000000 } (copyDesc 1)) 24) (some 0) 0x4000000000 64 = (0, copyDesc 1, u)) ∧
    ddOwn (copyDesc 1) = true ∧ ddOwn (leBytes 0 64) = false ∧ ddOk (dmaState {} []) 0 { cur := copyDesc 1 } = true ∧ ddOk (dmaState {} []) 0 { cur := leBytes (2 ^ 31) 64 } = false ∧
    (∃ bs u, memRead (dmaState {} []) (some 0) 0 64 = (5, bs, u)) ∧ (getDma (dmaState {} []) 0).errV = false ∧ dmaCut (dmaState {} []) 0 0x4000000000 = false ∧
    dmaCut (dmaState {} []) 0 0x4003000000 = true ∧
    ddTrig (copyDesc 1) = 0 ∧ isDue (dmaState {} []) 0 { cur := copyDesc 1 } = true ∧ bit (ddCtl (leBytes (2 ^ 7) 64)) 7 = true ∧
    ddTrig (leBytes 0x30 48 ++ leBytes 5 16) = 3 ∧ isDue (dmaState {} []) 0 { cur := leBytes 0x30 48 ++ leBytes 5 16 } = false := by
  refine ⟨⟨_, rfl⟩, by decide, by decide, by decide, by decide, ⟨_, _, rfl⟩, by decide, by decide, by decide, by decide, by decide, by decide⟩

/-- The move of that copy; its packet at the limits of one; Marquetry modes; the end of the list and the next descriptor. -/
theorem test_hyps_DescriptorsMoveAndComplete :
    (let u := moveUnits (dmaState { state := .active, cur := copyDesc 1, src0 := 0x4000001000, dst0 := 0x4000002000 } []) 0 (unitsOf (copyDesc 1)) (unitsOf (copyDesc 1) + 1);
      (getDma u 0).wrErr = 0 ∧ (getDma u 0).rdErr = 0 ∧ dmaAwaits (pump u (dmaPort 0)) 0 = true) ∧
    (let u := moveUnits (dmaState { state := .active, cur := copyDesc 1, src0 := 0, dst0 := 0x4000002000 } []) 0 16 17;
      dmaAwaits (pump u (dmaPort 0)) 0 = false ∧ (getDma (setCurs (pump u (dmaPort 0)) 0) 0).endCode = 0 ∧ (getDma (setCurs (pump u (dmaPort 0)) 0) 0).rdErr = 5) ∧
    (let u := moveUnits (dmaState { state := .active, cur := copyDesc 1, src0 := 0x4000001000, dst0 := 0x2000000000 } []) 0 16 17;
      dmaAwaits (pump u (dmaPort 0)) 0 = false ∧ (getDma (setCurs (pump u (dmaPort 0)) 0) 0).rdErr = 0 ∧ (getDma (setCurs (pump u (dmaPort 0)) 0) 0).wrErr = 4) ∧
    (dmaAwaits (dmaState { state := .completing, cur := copyDesc 1 } []) 0 = false ∧ (getDma (dmaState { state := .completing, endCode := 0x30 } []) 0).endCode = 0x30) ∧
    (ddMode (copyDesc 1) = 0 ∧ ddSwrap (copyDesc 1) = 0 ∧ ddDwrap (copyDesc 1) = 0 ∧ (16 : Nat) ≤ 4096 - 0x4000002000 % 4096 ∧ (16 : Nat) ≤ 64 * 2 ^ 6 ∧
      targetOf 0x4000001000 ≠ .regs ∧ (∃ u, memRead (dmaState {} []) (some 0) 0x4000001000 16 = (0, leBytes 0 16, u)) ∧ destOf 0x2000000000 = none) ∧
    ddMode (leBytes 1 64) = 1 ∧ ddMode (leBytes 2 64) = 2 ∧ ddMode (leBytes 5 64) = 5 ∧ ddEnd (copyDesc 1) = true ∧ ddEnd (copyDesc 64) = false ∧ ddLand (leBytes (2 ^ 10) 64) = true ∧
    (let u := moveUnits (dmaState { state := .pausing, back := .active, cur := copyDesc 1, src0 := 0x4000001000, dst0 := 0x4000002000 } []) 0 8 9;
      (getDma u 0).rdErr = 0 ∧ (getDma u 0).stop = false) ∧
    (getDma (dmaState { state := .pausing, back := .fetch, stop := true } []) 0).stop = true := by
  refine ⟨by decide, by decide, by decide, by decide, ⟨by decide, by decide, by decide, by decide, by decide, by decide, ⟨_, rfl⟩, by decide⟩, by decide, by decide, by decide, by decide, by decide, by decide, by decide, by decide⟩

/-! ### Memory -/

/-- Channel 0 active with a staged dirty page 1; partition 0 holds the first 256 MiB. -/
def memState (x : MemCh) (m : PageMeta) : State :=
  let s := setPage (setCh (runCore 0 {}) 0 x) 0 0 m
  { s with parts := tset [] 0 { st := .defined, desc := lset (lset ((leBytes 0 18).map fun _ => 0) 1 1) 8 (BitVec.ofNat 64 (2 ^ 63 + 1 * 2 ^ 9)) } }
theorem test_hyps_AccessesReachTheirBytes :
    targetOf 0x2000000000 = .nothing ∧ targetOf 0x4000000000 = .tile 0 ∧ memAllowed (memState {} {}) (some 1) 0x4000000000 = false ∧
    destOf 0x4000000000 = some 24 ∧ dieOut (memState {} {}) (portDie 24) = false ∧
    (let s := memState {} {}; dieOut { s with su := { s.su with dieGone := 1 } } (portDie 24) = true) ∧
    targetOf (pageAddr 0 0) = .lpddr 0 0 ∧ targetOf (pageAddr 15 4063103) = .lpddr 15 4063103 ∧ reachStatus (memState { state := 1 } {}) (some 0) (pageAddr 0 0) = 0 ∧
    (getCh (memState { state := 1 } {}) 0).injArm = false ∧ tCodeAt (memState { state := 1 } {}) (pageAddr 0 0) ≠ 0 ∧
    memAllowed (memState { state := 4 } {}) (some 0) 0 = true ∧ (getCh (memState { state := 4 } {}) 0).state = 4 ∧ gateStatus (memState { state := 4 } {}) (targetDom (targetOf 0)) = 0 ∧
    (getCh (memState {} {}) 0).staged.find? (fun e => e.page == 0) = none ∧ (getPage (memState {} {}) 0 0).written = false ∧
    reachStatus (memState {} {}) (some 0) 0x400007FFFF = 0 ∧ (memState {} {}).mem.sramErr = [] ∧
    (let s := { memState {} {} with mem := { (memState {} {}).mem with sramErr := tset [] (0x4000000008 / 8) 2 } }
     reachStatus s (some 0) 0x4000000008 = 0 ∧ wordErr s (0x4000000008 / 8) = 2) := by decide

theorem test_hyps_MemoryControllersKeepTheirPages :
    chActive (memState { state := 1 } {}) 0 = true ∧ ((getCh (memState { state := 1, staged := [⟨1, true, 0⟩] } {}) 0).staged.any fun e => e.page == 1 && e.dirty && e.since + 0 ≤ (memState {} {}).now) = true ∧
    ((60000000000 * 1 ≤ ({ State.reset with now := 60000000000 } : State).now) ∧ State.reset.now < 60000000000 * 1) ∧
    panicOn State.reset = false ∧ panicOn { State.reset with mem := { panicFh := 1 } } = true ∧ (if true then 1 + 1 else 1) < 3 ∧
    (2 : Nat) ≤ (getCh (memState { state := 1, alertRun := 2 } {}) 0).alertRun := by decide

theorem test_hyps_ScrubbersCorrectAndChannelsRecover :
    (getCh (memState { state := 1 } {}) 0).scrubEn = true ∧ (getPage (memState { state := 1 } { written := true }) 0 0).written = true ∧
    (getPage (memState { state := 1 } { written := true }) 0 0).t = 4 ∧ tCodeAt (memState {} {}) (pageAddr 0 0) = 4 ∧ (trkNote [] 0 0).2.1 = false ∧
(4063103 : Nat) + 1 = 4063104 ∧ chState (memState { state := 1 } {}) 0 ≠ 3 ∧ gapOver (memState {} {}) none 5 = true ∧ gapOver (memState {} {}) (some 0) 5 = false ∧
    srTotal 24 = 10616832 ∧ srWordAt 24 8388607 < 2 ^ 45 ∧ srOfWord (srWordAt 24 8388607) = 24 ∧ srIndex (srWordAt 24 8388607) < 9437184 ∧ srWordAt 0 0 = 0x4000000000 / 8 ∧
    srOfWord (srWordAt 0 0) = 0 ∧ gateStatus (memState {} {}) (wordDom (srWordAt 0 0)) = 0 ∧ wordErr (memState {} {}) (srWordAt 0 0) = 0 ∧
    gateStatus (setDom (memState {} {}) 0 { state := .s3 }) (wordDom (srWordAt 0 0)) ≠ 0 ∧
    9437184 ≤ srIndex (srWordAt 25 9437184) ∧ benchLine { memState {} {} with benchCache := [(64, { core := 104, data := [], dirty := false })] } 104 0 = some (64, { core := 104, data := [], dirty := false }) ∧
    ((srIndex (srWordAt 25 9437184) - 9437184) % 147456 < 16384 ∧ (srIndex (srWordAt 24 9453568) - 9437184) % 147456 = 16384) ∧
    ((getCh (memState { state := 1, staged := [⟨0, true, 0⟩] } {}) 0).staged.any fun e => e.page == 0 && e.dirty) = true ∧
    (getCh (memState { state := 4 } {}) 0).state = 4 ∧
    bit (memState { state := 4 } {}).flt.chOut 0 = false := by decide

/-! ### Backhaul ports and the time unit -/

/-- Backhaul port 0, owned by partition 0, which owns flow 0. -/
def bhState (x : BhPort) (m : List Byte) : State :=
  let s := setBp (writeBytes (runCore 0 {}) 0x4000000000 m) 0 x
  { s with parts := tset [] 0 { st := .defined, desc := lset (lset (lset ((leBytes 0 18).map fun _ => 0) 1 1) 2 (BitVec.ofNat 64 (2 ^ 32))) 4 (BitVec.ofNat 64 (1 * 2 ^ 17 + 64 * 2 ^ 35)) } }
/-- A frame of 64 bytes with an EtherType. -/
def frame (t : Nat) : List Byte := let b := leBytes 0 12 ++ beBytes t 2 ++ leBytes 0 46; b ++ fcsOf b

theorem test_frame : (frame 0x0800).drop 60 = fcsOf ((frame 0x0800).take 60) ∧ (etherParse ((frame 0x8808).take 60)).1 = 0x8808 ∧ (etherParse ((frame 0x0800).take 60)).1 ≠ 0x8808 ∧
    (frame 0x0800).length = 64 := by decide +kernel
def sa0 : Sa := { tx := false, sc := 0, sci := 1, an := 2, ssci := 0, key := 0, salt := 0, pn := 5 }
/-- A frame with a SecTAG of AN 2, PN `pn` and SCI 1. -/
def secFrame (pn : Nat) : List Byte := leBytes 0 12 ++ beBytes 0x88E5 2 ++ leBytes 0x22 1 ++ leBytes 0 1 ++ beBytes pn 4 ++ beBytes 1 8 ++ leBytes 0 40
theorem test_hyps_FramesAreReceived :
    bpLive (bhState {} []) 0 = false ∧ bpLive (bhState { en := true } []) 0 = true ∧
    (∃ u, macsecRx (bhState { en := true } []) 0 (leBytes 0 2) = (some (leBytes 0 2), u)) ∧ (∃ u, macsecRx (bhState { msEn := true } []) 0 [] = (none, u)) ∧
    secTag [] = none ∧ inClear {} 0x888D = false ∧ (secTag (secFrame 4)).map (fun t => rxSa { sas := [sa0] } t) = some (some sa0) ∧
    (secTag (secFrame 4)).map (fun t => rxSa {} t) = some none ∧ fullPn 5 4 < 5 ∧ (5 : Nat) ≤ fullPn 5 5 ∧
    (let w := 2 ^ 35 + 2 ^ 32 + 0x0800
     (tset [] 63 w).find? (fun e => ruleHit e.2 0x0800 none) = some (63, w) ∧ (tset [] 63 w).find? (fun e => ruleHit e.2 0x0801 none) = none) := by
  refine ⟨by decide, by decide, ⟨_, rfl⟩, ⟨_, rfl⟩, by decide, by decide, by decide, by decide, by decide, by decide, by decide⟩
/-- A frame that one end protects opens at the other. -/
theorem test_hyps_openFrame :
    let f := protectFrame {} sa0 true 5 (leBytes 0 14)
    (secTag f).map (fun t => openFrame {} sa0 t f) = some (true, leBytes 0 14) :=
  congrArg some (openFrame_integ {} sa0 { conf := false, an := 2, pn := 5, sci := some 1 }
    (leBytes 0 12 ++ beBytes 0x88E5 2 ++ leBytes 0x22 1 ++ leBytes 2 1 ++ beBytes 5 4 ++ beBytes 1 8 ++ leBytes 0 2) rfl rfl (by decide) (by decide))

/-- A descriptor of 60 bytes at the start of tile 0, and one of 59. -/
def txDesc (len ctl : Nat) : List Byte := leBytes 0x4000001000 6 ++ leBytes len 2 ++ leBytes ctl 1 ++ leBytes 0 23
theorem test_hyps_FramesAreSent :
    (getBp (bhState { en := true, tsz := 4, tail := 1 } []) 0).head ≠ 1 % 2 ^ 4 ∧ (getBp (bhState { en := true } []) 0).head = 0 % 2 ^ 0 ∧
    (∃ u, memRead (bhState { en := true, tsz := 4, tail := 1, txAddr := 0x4000000000 } (txDesc 60 1)) (some 0) 0x4000000000 32 = (0, txDesc 60 1, u)) ∧
    ofLe (((txDesc 59 1).drop 6).take 2) < 60 ∧ (9212 < ofLe (((txDesc 9213 1).drop 6).take 2)) ∧ bit (ofLe (((txDesc 60 1).drop 8).take 1)) 0 = true ∧ bit (ofLe (((txDesc 60 1).drop 8).take 1)) 2 = false ∧
    (∃ bs u, memRead (bhState {} []) (some 0) 0x4000001000 60 = (0, bs, u)) ∧
    txSa {} 0 = none ∧ txSa { active := tset [] 7 2, sas := [{ sa0 with tx := true, sc := 7 }] } 7 = some { sa0 with tx := true, sc := 7 } ∧ sa0.pn < ({} : BhPort).pnThr ∧
    bpOwner (bhState {} []) 0 = some 0 ∧ ownsFlow (bhState {} []) 0 0 = true ∧ ownsFlow (bhState {} []) 0 1 = false := by
  refine ⟨by decide, by decide, ⟨_, rfl⟩, by decide, by decide, by decide, by decide, ⟨_, _, rfl⟩, by decide, by decide, by decide, by decide, by decide, by decide⟩

def fu0 : HeldFu := { key := [], dest := 3, bytes := leBytes 0 64, arrived := 0 }
/-- A one-step Sync, with its Announce remembered for backhaul port 0. -/
def syncMsg : List Byte := leBytes 0 12 ++ beBytes 0x88F7 2 ++ leBytes 0 64
def tmState0 (x : Tm) : State :=
  { bhState { en := true } [] with tm := { x with ptpPorts := 1, ann := tset [] 0 { data := [6, 0x20, 0, 128, 1, 1, 1], at_ := 0 } } }
theorem test_hyps_PtpAndSnapshots :
    State.reset.tm.ownRx = none ∧ ({ ownRx := some (0, 0, []) } : Tm).ownRx = some (0, 0, []) ∧ State.reset.flt.mcDown = none ∧
    ptpType (leBytes 0 12 ++ beBytes 0x88F7 2 ++ leBytes 11 64) = 11 ∧ ptpType syncMsg = 0 ∧ ptpTwoStep syncMsg = false ∧
    (∀ x, 0 < Config.annWait → chosenPort (tmState0 x) = some 0) ∧ chosenPort State.reset = none ∧
    (let s := { State.reset with tm := { held := [fu0], syncs := [{ key := [], dest := 3, add := 1, sent := 0 }] } }
     (s.tm.held.find? fun h => (syncFor s h.key h.dest).isSome) = some fu0 ∧ (syncFor s fu0.key fu0.dest).isSome = true) ∧
    (let s := { State.reset with tm := { held := [fu0] }, now := 1000000000 }
     (s.tm.held.find? fun h => (syncFor s h.key h.dest).isNone && !syncWaits s h.key h.dest && h.arrived + 1000000000 ≤ upNs s) = some fu0 ∧
     (s.tm.held.find? fun h => (syncFor s h.key h.dest).isSome) = none) ∧
    reqDue State.reset = true ∧ reqDue { State.reset with tm := { reqAt := some 0 }, now := 3906249 } = false := by
  refine ⟨by decide, by decide, by decide, by decide, by decide, by decide, ?_, by decide, by decide, by decide, by decide, by decide⟩
  intro x h
  have e : (getBp (tmState0 x) 0).en = true := rfl
  have n : upNs (tmState0 x) = 0 := rfl
  have t : (tmState0 x).tm = { x with ptpPorts := 1, ann := tset [] 0 { data := [6, 0x20, 0, 128, 1, 1, 1], at_ := 0 } } := rfl
  simp [chosenPort, upFrom, freshAnn, e, n, t, tset, bit, lget, h]

theorem test_hyps_ReferencesAndOscillators :
    (200 : Int).natAbs ≤ State.reset.tm.oscThr ∧ State.reset.tm.oscThr < (-201 : Int).natAbs ∧ 2 * (99 : Int).natAbs < State.reset.tm.oscThr ∧
    (let x : Tm := { aOk := true, bOk := true }
     x.aOk = true ∧ x.bOk = true ∧ x.osc = 0) ∧
    State.reset.tm.st = 0 ∧ extQual { hoQual := true } = false ∧ extQual { extEn := true, ppsOk := true, freqOk := true, secondsSet := true } = true ∧
    ({ st := 2, src := 1, ptpOk := true } : Tm).ptpOk = true ∧
    (let s := { State.reset with tm := { st := 1, ptpErr := some 99, phaseErr := 99 }, now := 60000000000 }
     lowSince s = some 0 ∧ 0 + 60000000000 ≤ upNs s) ∧
    (let s := { State.reset with tm := { st := 1, ptpErr := some 1099, phaseErr := 1099, slewMax := 1000 }, now := 60999999999 }
     lowSince s = some 1000000000 ∧ upNs s < 1000000000 + 60000000000) ∧
    lowSince { State.reset with tm := { phaseErr := -100 } } = none ∧
    (0 + 900000000000 ≤ upNs { State.reset with tm := { st := 2 }, now := 900000000000 }) ∧ (0 + 7200000000000 ≤ upNs { State.reset with tm := { st := 3 }, now := 7200000000000 }) ∧
    (5 + 2000000000 ≤ upNs { State.reset with tm := { ppsLast := some 5 }, now := 2000000005 }) ∧ State.reset.tm.ppsRise ≠ some 0 ∧
    ({ ppsRise := some 0 } : Tm).ppsRise = some ((5 + 0) / 1000000000 * 1000000000 - 0) ∧
    (let x : Tm := { ppsLast := some 1, ppsRun := 2 }
     x.ppsLast = some 1 ∧ 999999000 ≤ 999999001 - 1 ∧ 1000001001 - 1 ≤ 1000001000 ∧ x.ppsRun = 2) ∧ State.reset.tm.ppsLast = none ∧
    (-1000000 : Int).natAbs ≤ 1000000 ∧ State.reset.tm.src ≠ 1 ∧ ({ ppsRise := some 5, outOn := true } : Tm).ppsRise = some 5 := by decide

/-! ### The host protocol -/

/-- Host 0's port in a state, the module ready and partition 0 defined. -/
def hostState (x : HostPort) (down : Bool := false) : State :=
  let s := setHost (memState { state := 1 } {}) 0 { x with perst := down }
  { s with su := { s.su with ready := true, stage := 10 } }
def cmdOf (opc : Nat) (args : List Word) : HostCmd := { opc := opc, seq := 7, args := args }
/-- That state with a command begun. -/
def turnState (opc : Nat) (args : List Word) : State := hostState { session := true, begun := some (cmdOf opc args) }
theorem test_turn : Turn (turnState 0x0300 [0]) 0 0x0300 (cmdOf 0x0300 [0]) := ⟨rfl, rfl, by decide⟩

/-- A port in PERST and one outside; a FIFO with room for one more word; a queue with a record; a header committed alone; a session and none. -/
theorem test_hyps_WindowAccesses :
    portUp (hostState {} true) 0 = false ∧ portUp (hostState {}) 0 = true ∧ portUp State.reset 0 = false ∧ (16383 : Nat) + ([0] : List Word).length ≤ 16384 ∧ 16384 < 16383 + ([0, 0] : List Word).length ∧
    (64 : Fin 65).val ≤ 64 ∧ (63 : Nat) < (64 : Fin 65).val ∧
    (getHost (hostState { evts := [⟨0, 0, false, 0, 0, 0⟩] }) 0).evts = ⟨0, 0, false, 0, 0, 0⟩ :: [] ∧ (getHost (hostState {}) 0).evtPop = 0 ∧
    (1 : BitVec 15).toNat = (getHost (hostState { cmd := [5] }) 0).cmd.length - (getHost (hostState { cmd := [5] }) 0).committed ∧ (2 : BitVec 15).toNat ≠ 1 - 0 ∧
    mcUp (hostState {}) = true ∧ (getHost (hostState {}) 0).begun = none ∧ 2 ≤ (stream (getHost (hostState { asm := [5], cmd := [6], committed := 1 }) 0)).length ∧
    (cmdOf 0x0300 [0]).drop = false ∧ (stream (getHost (turnState 0x0300 [0]) 0)).length < 2 ∧ (getHost (hostState {}) 0).session = false := by decide

theorem test_hyps_PacketsAreChecked :
    (getHost (hostState {}) 0).session = false ∧ (opcodes.find? fun r => r.opc == 0x0004) = none ∧ opcodes.find? (fun r => r.opc == 0x0100) = some ⟨0x0100, .any, 18, 18⟩ ∧
    opcodes.find? (fun r => r.opc == 0x0101) = some ⟨0x0101, .part, 0, 0⟩ ∧ opcodes.find? (fun r => r.opc == 0x0504) = some ⟨0x0504, .manager, 1, 1⟩ ∧
    State.reset.su.ready = false ∧ earlyOpc 0x0100 = false ∧ restartOpc 0x0101 = false ∧ (getPart (hostState {}) 0).st = .defined ∧ (getPart (hostState {}) 1).st = .none ∧
    (hostState {}).mc.manager ≠ some 1 ∧ (65535 : Nat) < 65536 ∧ mcTurn (turnState 0x0104 [0]) = some 0 ∧
    longOpc 0x0300 = true ∧ longOpc 0x0104 = false ∧ mayRun (turnState 0x0300 [0]) 0 (cmdOf 0x0300 [0]) = true := by decide
/-- A packet as a host sends it, whole, without its trailer, with a bit of its header in error, and with a trailer that is rsvd or wrong. -/
def sentPacket : List Word := replyPacket 0x0001 7 0 [1]
theorem test_hyps_parse :
    (let s := hostState { asm := sentPacket }
     mcUp s = true ∧ (getHost s 0).begun = none ∧ 2 ≤ (stream (getHost s 0)).length ∧ sentPacket.length = 4 ∧ headAt { marks := [(1, 4), (3, 5)] } = 5) ∧
    (let w0 := (sentPacket.getD 0 0).toNat
     let w1 := (sentPacket.getD 1 0).toNat
     w0 / 2 ^ 48 = crc16 (leBytes w0 6 ++ leBytes w1 8) ∧ w0 % 2 ^ 16 = 1 ∧ w1 = 1 ∧ (w0 + 2 ^ 8) % 2 ^ 16 ≠ 1) ∧
    (let tr := (sentPacket.getD 3 0).toNat
     tr / 2 ^ 48 = 0 ∧ (tr + 2 ^ 48) / 2 ^ 48 ≠ 0 ∧ tr = crc32 (bytesOfWords [1]) + 7 * 2 ^ 32) := by decide +kernel

/-- A partition with a running plan, and one with a share of class 1 on die 0. -/
theorem test_hyps_restart :
    (let s := served (turnState 0x0101 [0]) 0
     (getHost s 0).still = none ∧ (getTick (settleSwitch s 0) 0).run = false ∧ (getTick (settleSwitch (setTick s 0 { run := true }) 0) 0).run = true ∧
     ownsCore s 0 0 = true ∧ (getCore s 0).run ≠ .testing ∧ coreBarred s 0 = false ∧ isChisel 0 = true ∧ bit s.flt.clOut (coreCluster 0) = false ∧
     jgShare { s with jig := { s.jig with share := tset [] 0 3 } } (0 : Fin 2).val 0 1 ≠ 0 ∧ dieOut s 0 = false ∧ (getDom s (jigDom 0 1)).state ≠ .failed) ∧
    (let s := hostState { still := some (cmdOf 0x0101 []) }
     (getHost s 0).still = some (cmdOf 0x0101 []) ∧ mcUp s = true ∧ (getTick (settleSwitch s 0) 0).run = false) := by decide

/-- HELLO with MGMT, a created partition of no resources beside one that exists, and a refused one; a unit to be filled. -/
theorem test_hyps_SessionsAndPartitions :
    (∀ e ∈ ([(0x0001, 1), (0x0002, 0), (0x0003, 0), (0x0100, 0), (0x0101, 0), (0x0102, 0), (0x0103, 0)] : List (Nat × Word)), Turn (turnState e.1 [e.2]) 0 e.1 (cmdOf e.1 [e.2])) ∧
    arg (cmdOf 1 [1]) 0 ≤ 1 ∧ ({ (turnState 2 []) with mc := { manager := some 3 } } : State).mc.manager = some 3 ∧
    (getPart (turnState 0x0100 []) 0).st ≠ .none ∧
    (let s := { turnState 0x0100 [0] with parts := [] }
     (getPart s 0).st = .none ∧ createFails (served s 0) 0 ((upFrom 0 18).map fun i => (i, arg (cmdOf 0x0100 [0]) i)) = none ∧
     (createFails (served s 0) 0 ((upFrom 0 18).map fun i => (i, arg (cmdOf 0x0100 [4]) i))) = some (0x04, 0)) ∧
    (let s := { hostState {} with mc := { filling := [511] } }
     s.mc.filling.find? (fun x => x / 256 == 0) = none ∧ s.mc.filling.find? (fun x => x / 256 == 1) = some 511 ∧ gateStatus s (some 17) = 0) := by
  refine ⟨?_, by decide, by decide, by decide, by decide, by decide⟩
  intro e h
  simp only [List.mem_cons, List.not_mem_nil, or_false] at h
  rcases h with h | h | h | h | h | h | h <;> subst h <;> exact ⟨rfl, rfl, by decide⟩

theorem test_hyps_CoreAndResourceCommands :
    (∀ e ∈ [0x0104, 0x0105, 0x0106, 0x0107, 0x0108, 0x0109, 0x010A], Turn (turnState e [8]) 0 e (cmdOf e [8])) ∧
    foreignCore (turnState 0x0104 [16]) 0 (namedCores (cmdOf 0x0104 [16])) = some 0 ∧ namedCores (cmdOf 0x0104 [8]) = [(3, 0)] ∧ foreignCore (turnState 0x0104 [8]) 0 (namedCores (cmdOf 0x0104 [8])) = none ∧
    ((namedCores (cmdOf 0x0104 [8])).find? fun e => weightSoon (setCore (hostState {}) 3 { weight := 0 }) e.1 == 0 && (getCore (hostState {}) e.1).run == .held) = some (3, 0) ∧
    startable (setCore (hostState {}) 3 { run := .running }) 3 = false ∧
    namedCores (cmdOf 0x0104 [0, 0x800000000000]) = [(111, 1)] ∧ ownsCore (hostState {}) 0 3 = true ∧
    (let s := setCore (hostState {}) 3 { weight := 16 }
     weightSoon s 3 ≠ 0 ∧ startable s 3 = true ∧ (getCore s 3).run ≠ .testing ∧ (getCore s 3).run ≠ .stopped) ∧
    takenBad (hostState {}) 0 6 0xFF = false ∧ takenBad { hostState {} with flt := { dieLost := 2 } } 0 6 0xF00000 = true ∧ (hostState {}).jig.queue = [] ∧
    (let w := 24 + 0 * 2 ^ 8 + 1024 * 2 ^ 16 + 65 * 2 ^ 32
     w &&& 0x0FFF07FF03FF = w ∧ w % 256 < 160 ∧ portCore (w % 256) = some 0 ∧ ownsCore (hostState {}) 0 0 = true ∧ w / 2 ^ 8 % 4 ≠ 1 ∧ w / 2 ^ 16 % 2 ^ 11 = 1024 ∧ w / 2 ^ 32 % 2 ^ 12 = 65) ∧
    ownsGroupOf (hostState {}) 0 0 = false ∧ ownsGroupOf nosePart 0 0 = true ∧ ownsFlow (dvState {} flow5 []) 0 (5 % 2 ^ 18) = true ∧
    ownsRange (hostState {}) 0 0x4000000000 8 = true ∧ (∃ n v, memWrite (hostState {}) (some 0) 0x4000000000 (bytesOfWords [1]) = (0, n, v)) ∧
    (∃ r w o, enqueueExt (dvState {} flow5 []) 0 { flow := 5, kind := 8, tag := 0, arg0 := 0, arg1 := 0 } = (r, w, o)) ∧
    (let s := hostState {}
     let s := { s with parts := tset [] 0 { st := .defined, desc := lset ((leBytes 0 18).map fun _ => 0) 1 3 } }
     domOwner s 0 = some 0 ∧ isGroup 0 = true ∧ (getDom s 0).state = .awake ∧ bit (getDom s 0).exh 0 = false ∧ (getDom s 0).plTo = none ∧ (getDom s 0).reqSet = none ∧ (getDom s 0).pl = 0 ∧
     bit (getDom (setDom s 0 { exh := 8 }) 0).exh 3 = true ∧ supports 0 3 = true ∧ (getDom (setDom s 0 { state := .failed }) 0).state = .failed) := by
  refine ⟨?_, by decide, by decide, by decide, by decide, by decide, by decide, by decide, by decide, by decide, by decide, by decide, by decide, by decide, by decide, by decide, by decide, ⟨_, _, rfl⟩, ⟨_, _, _, rfl⟩, by decide⟩
  intro e h
  simp only [List.mem_cons, List.not_mem_nil, or_false] at h
  rcases h with h | h | h | h | h | h | h <;> subst h <;> exact ⟨rfl, rfl, by decide⟩

/-- A group of one uplink range, and the same with a range that it meets. -/
theorem test_hyps_gainGroup :
    let s := setStream { nosePart with gc := {} } 0 5 { cfg := { valid := true, mu := 1 } }
    let w : Nat := 0x80 + 5 * 2 ^ 8 + 5 * 2 ^ 18
    w &&& 0x0FFFFF9F = w ∧ bit w 7 = true ∧ membOf w = { port := 0, lo := 5, hi := 5 } ∧ membOk s 1 (membOf w) = true ∧ membOk s 0 (membOf w) = false ∧
    membMeet (membOf w) (membOf w) = true ∧ ownsGroupOf s 0 0 = true ∧
    ownsFh { hostState {} with parts := tset [] 0 { st := .defined, desc := lset ((leBytes 0 18).map fun _ => 0) 2 1 } } 0 0 = true := by decide

theorem test_hyps_MemoryCommands :
    (∀ e ∈ [0x0300, 0x0301, 0x0302, 0x0303, 0x0304], Turn (turnState e [8]) 0 e (cmdOf e [8])) ∧
    ownsRange (hostState {}) 0 0x4000000000 8 = true ∧ ownsRange (hostState {}) 1 0x4000000000 8 = false ∧
    (∃ n v, memWrite (hostState {}) (some 0) 0x4000000000 (bytesOfWords [1]) = (0, n, v)) ∧ (∃ n v, memWrite (hostState {}) (some 0) 0 (bytesOfWords [1]) = (2, n, v)) ∧
    (∃ bs v, memRead (hostState {}) (some 0) 0x4000000000 8 = (0, bs, v)) ∧ (∃ k v, fillPages (hostState {}) 0 0 0 0 = (0, k, v)) ∧ (524288 : Nat) < 524289 ∧
    bit 8 3 = true ∧ (hostState {}).mc.manager ≠ some 0 ∧ (bit 0x80 3 = false ∧ bit 0x80 7 = true ∧ 0x80 / 16 % 8 ≠ 7) ∧ (getRgn (hostState {}) 0).valid = false ∧
    ((upFrom 0 1).all fun m => ownsMem (hostState {}) 0 (m * 0x100000)) = true ∧ targetOf 0 = .lpddr 0 0 ∧ ownsMem (hostState {}) 0 0 = true ∧ (16895 : Nat) % 2 ^ 15 ≤ 16895 := by
  refine ⟨?_, by decide, by decide, ⟨_, _, rfl⟩, ⟨_, _, rfl⟩, ⟨_, _, rfl⟩, ⟨_, _, rfl⟩, by decide, by decide, by decide, by decide, by decide, by decide, by decide, by decide, by decide⟩
  intro e h
  simp only [List.mem_cons, List.not_mem_nil, or_false] at h
  rcases h with h | h | h | h | h <;> subst h <;> exact ⟨rfl, rfl, by decide⟩

def plan0 : Plan := { len := 7, need := 0, entries := [] }
theorem test_hyps_PlanCommands :
    (∀ e ∈ [0x0200, 0x0201, 0x0202, 0x0203, 0x0204], Turn (turnState e [1]) 0 e (cmdOf e [1])) ∧
    slotBusy {} true = false ∧ slotBusy { run := true, active := true } true = true ∧ (∃ r i, checkPlan (hostState {}) 0 [] = .error (r, i)) ∧
    slotOf { slotB := some plan0 } true = some plan0 ∧ activePlan { slotA := some plan0 } = some plan0 ∧ standbyPlan { slotB := some plan0 } = some plan0 ∧ ({} : TickBank).pend = none := by
  refine ⟨?_, by decide, by decide, ⟨_, _, rfl⟩, by decide, by decide, by decide, by decide⟩
  intro e h
  simp only [List.mem_cons, List.not_mem_nil, or_false] at h
  rcases h with h | h | h | h | h <;> subst h <;> exact ⟨rfl, rfl, by decide⟩
/-- A plan of one entry, budget 0, at tick 0: length 140, flow 5 of the partition. -/
def planWords : List Word :=
  let e : List Word := [0, 5, 0, 0]
  [BitVec.ofNat 64 (0x54504C4E + 1 * 2 ^ 32 + 140 * 2 ^ 48), 0x10001, BitVec.ofNat 64 (crc32 (bytesOfWords e)), 0, 0, 0, 0, 0] ++ e
theorem test_plan_loads : (match checkPlan (dvState {} flow5 []) 0 planWords with
    | .ok pl => pl.len == 140 && pl.entries.length == 1
    | .error _ => false) = true := by decide +kernel

theorem test_hyps_ManagementCommands :
    (∀ e ∈ [0x0500, 0x0501, 0x0502, 0x0503, 0x0504, 0x0505, 0x0506, 0x0507, 0x0600, 0x0601], Turn (turnState e [1]) 0 e (cmdOf e [1])) ∧
    (saTx 0x3B = true ∧ saSc 0x3B ≤ 7 ∧ 0x3B &&& 0xFFFFFFFF000003FF = 0x3B) ∧ (saTx 0x43 = true ∧ 7 < saSc 0x43) ∧ saTx 4 = false ∧ ownsBp (bhState {} []) 0 0 = true ∧ ownsBp (bhState {} []) 0 3 = false ∧
    0x31F &&& 0x31F = 0x31F ∧ ownsFh { hostState {} with parts := tset [] 0 { st := .defined, desc := lset ((leBytes 0 18).map fun _ => 0) 2 0x100000001 } } 0 0 = true ∧
    ownsBp { hostState {} with parts := tset [] 0 { st := .defined, desc := lset ((leBytes 0 18).map fun _ => 0) 2 0x100000001 } } 0 0 = true ∧
    (24 : Nat) ≤ 24 ∧ (43 : Nat) ≤ 43 ∧ 44 % 256 > 43 ∧ stepBarred (hostState {}) = false ∧ stepBarred (bhState { en := true } []) = true ∧
    thCfgBad (thCfgOf (cmdOf 0x0600 [BitVec.ofNat 64 (80 + 90 * 2 ^ 8 + 105 * 2 ^ 16 + 1 * 2 ^ 24 + 1 * 2 ^ 28 + 1 * 2 ^ 32), BitVec.ofNat 64 (32 + 8 * 2 ^ 6 + 100 * 2 ^ 16), 0])) = none ∧
    thCfgBad (thCfgOf (cmdOf 0x0600 [0, 0, 0])) = some 0 := by
  refine ⟨?_, by decide, by decide, by decide, by decide, by decide, by decide, by decide, by decide, by decide, by decide, by decide, by decide, by decide, by decide, by decide⟩
  intro e h
  simp only [List.mem_cons, List.not_mem_nil, or_false] at h
  rcases h with h | h | h | h | h | h | h | h | h | h <;> subst h <;> exact ⟨rfl, rfl, by decide⟩

/-! ### Start-up, flash -/

/-- Start-up in stage `n`, with input power. -/
def suState (n : Nat) : State := { State.reset with su := { stage := n, vin := true } }
/-- A slot that has been written with an image of one word, RBC 2, and its words. -/
def slot2 : Slot :=
  { bytes := cellsWrite [] 0 (leBytes 0x4F474657 4 ++ leBytes 1 4 ++ leBytes 4 4 ++ leBytes (crc32 (leBytes 0x12345678 4)) 4 ++ leBytes 1 4 ++ leBytes 2 4 ++ leBytes 0 232 ++ leBytes 0x12345678 4), written := true }
def imgOk : ImgFact := { sig := true, whole := true, rbc := 0 }
def imgBad : ImgFact := { sig := false, whole := true, rbc := 0 }

theorem test_hyps_StartupRunsInStages :
    (∀ n ∈ [1, 2, 3, 4, 5, 6, 7, 8, 9], Starting (suState n)) ∧ nextSlot (suState 4) imgOk imgBad = some false ∧ nextSlot (suState 4) imgBad imgOk = some true ∧ nextSlot (suState 4) imgBad imgBad = none ∧
    stageBody (suState 1) .power = some (suState 1) ∧ stageBody (suState 1) .ready = none ∧ (stageBody (suState 2) (.rails false)).map (fun u => u.su.fail) = some (some 0x20) ∧
    (stageBody (suState 2) (.rails true)).map (fun u => (u.su.fail, u.su.ready, u.th.trip)) = some (none, false, false) ∧
    (let s := { suState 4 with su := { (suState 4).su with wd := 1, fallback := true } }
     Starting s ∧ nextSlot s imgOk imgOk = some true) ∧ (suState 4).su.fallback = false ∧ (9 : BitVec 12).toNat < 10 ∧ 10 ≤ (10 : BitVec 12).toNat ∧ (10 : BitVec 12).toNat ≤ stageBound 1 ∧ (100 : BitVec 12).toNat ≤ stageBound 9 ∧ stageBound 9 < (101 : BitVec 12).toNat ∧
    (stageBody (suState 9) .ready).map (fun u => u.su.ready) = some true ∧ dieOut (suState 9) 0 = false ∧
    (let s := { suState 9 with su := { (suState 9).su with dieGone := 3 } }
     dieOut s 0 = true ∧ dieOut s 1 = true) := by
  refine ⟨?_, by decide, by decide, by decide, by decide, by decide, by decide, by decide, ⟨⟨rfl, rfl, rfl, rfl, rfl, rfl⟩, by decide⟩, by decide, by decide, by decide, by decide, by decide, by decide, by decide, by decide, by decide⟩
  intro n h
  simp only [List.mem_cons, List.not_mem_nil, or_false] at h
  rcases h with h | h | h | h | h | h | h | h | h <;> subst h <;> exact ⟨rfl, rfl, rfl, rfl, rfl, rfl⟩

theorem test_hyps_ResetAndInputPower :
    State.reset.flt.queue = [] ∧ (let s := { State.reset with su := { hold := true, vin := true } }
     s.su.hold = true ∧ s.su.vin = true) ∧ State.reset.su.hold = false ∧ (let s := { State.reset with su := { vin := false } }
     s.su.vin = false ∧ s.su.hold = false) ∧ (let s := { State.reset with su := { hold := true } }
     s.su.vin = false ∧ s.su.hold = true) := by decide

/-- A host's command has begun, with `slot2` in slot 1. -/
def flashState (opc : Nat) (args : List Word) (rbc : Nat) : State :=
  let s := turnState opc args
  { s with su := { s.su with slots := tset [] 1 slot2, rbc := rbc } }
def okSlot (s : State) : Bool := crc32 (leBytes 0x12345678 4) == bodyCrc s true 4 && bodyCrc s true 4 == hdrWord s true 3 && hdrOk s true && hdrWord s true 2 == 4 && hdrWord s true 5 == 2
theorem test_hyps_FlashCommands :
    (Turn (turnState 0x0400 [0, 5]) 0 0x0400 (cmdOf 0x0400 [0, 5]) ∧ (0 : Nat) + 8 ≤ 134217728 ∧ 134217728 < 0xFFFF * 4096 + 8 ∧ 0x01 &&& 0xFFFFFF01 = 0x01) ∧
    (∀ w ∈ [0x10400000001, 0x10400000000], Turn (turnState 0x0401 [w, 5]) 0 0x0401 (cmdOf 0x0401 [w, 5])) ∧ 0x10400000001 &&& 0xFFFFFFFF00000001 = 0x10400000001 ∧ 0x10400000001 / 2 ^ 32 % 2 ^ 32 - 256 = 4 ∧
    slotRuns (flashState 0x0401 [] 0) false = true ∧ slotRuns (flashState 0x0401 [] 0) true = false ∧
    (∀ w ∈ [0, 1], Turn (turnState 0x0402 [w]) 0 0x0402 (cmdOf 0x0402 [w])) ∧ imgValid (turnState 0x0402 [1]) true imgOk = true ∧ imgValid (turnState 0x0402 [1]) true imgBad = false ∧
    (∀ n ∈ [0, 1, 1024, 1025], Turn (turnState 0x0403 [0, n]) 0 0x0403 (cmdOf 0x0403 [0, n])) := by
  refine ⟨⟨⟨rfl, rfl, by decide⟩, by decide, by decide, by decide⟩, ?_, by decide, by decide, by decide, by decide, ?_, by decide, by decide, ?_⟩ <;>
    (intro w h; simp only [List.mem_cons, List.not_mem_nil, or_false] at h)
  · rcases h with h | h <;> subst h <;> exact ⟨rfl, rfl, by decide⟩
  · rcases h with h | h <;> subst h <;> exact ⟨rfl, rfl, by decide⟩
  · rcases h with h | h | h | h <;> subst h <;> exact ⟨rfl, rfl, by decide⟩
theorem test_slot : okSlot (flashState 0x0401 [] 0) = true := by decide +kernel

/-! ### Power states -/

/-- Domain 0 as `x`. -/
def domState (x : Dom) : State := setDom (runCore 96 {}) 0 x
theorem test_hyps_DomainsFallAsleep :
    (getDom (domState { state := .s1 }) 0).state ≠ .awake ∧
    (let s := domState { state := .awake, reqSet := some (1, 0) }
     ((groupCores 0).any fun c => (getCore s c).run == .waiting && wakeCond s c) = false ∧ refuserOf s 0 1 true = none) ∧
    (let s := setCore (domState { state := .awake, reqSet := some (1, 0) }) 0 { run := .running, weight := 16 }
     ((groupCores 0).any fun c => (getCore s c).run == .waiting && wakeCond s c) = false ∧ refuserOf s 0 1 true = some 1) ∧
    (let s := setCore (domState { state := .awake, reqSet := some (1, 0) }) 0 { run := .waiting, abHeld := [1] }
     ((groupCores 0).any fun c => (getCore s c).run == .waiting && wakeCond s c) = true) ∧
    (let s := domState { state := .awake, reqVote := true }
     votesStand s 0 = true ∧ refuserOf s 0 (votedState s 0) false = none) ∧
    (let s := domState { state := .awake, reqVote := true, plTo := some (1, .rampUp) }
     votesStand s 0 = true ∧ refuserOf s 0 (votedState s 0) false = some 6) ∧
    (let s := domState { state := .entering, target := 1 }
     nocDrained s 0 = true ∧ nocDrained (setPort s 24 { out := [⟨0, 0, 1, 0, 25, 0, 4, 0, none⟩] }) 0 = false ∧ (getDom s 0).state = .entering ∧ (getDom s 0).drained = false ∧ (getDom s 0).wakeHost = none ∧ (getDom s 0).entryHost = none ∧ upNs s < 0 + (getNocDie s 0).drainLim ∧ 0 + (getNocDie s 0).drainLim ≤ upNs { s with now := 20000 }) ∧
    (getDom (domState { state := .entering, entryHost := some 0 }) 0).entryHost = some 0 ∧
    (let s := domState { state := .entering, target := 1, drained := true }
     (getDom s 0).drained = true ∧ isMemGroup 0 = false ∧ (getDom s 0).target ≠ 3 ∧ (getDom (pwrState (updDom s 0 fun y => { y with state := sleepState 1, entryHost := none }) 0 0 1) 0).wakePend = false) ∧
    (let s := domState { state := .entering, target := 1, drained := true, wakePend := true }
     (getDom (pwrState (updDom s 0 fun y => { y with state := sleepState 1, entryHost := none }) 0 0 1) 0).wakePend = true) ∧
    isMemGroup 8 = true ∧ (getCh (setCh State.reset 0 { state := 1 }) 0).state = 1 := by
  refine ⟨by decide, by decide, by decide, by decide, by decide, by decide, by decide, by decide, by decide, by decide, by decide, by decide⟩

theorem test_hyps_DomainsWake :
    holdsDom (runCore 3 {}) 0 0 = true ∧ holdsDom (runCore 3 {}) 1 0 = false ∧ (getDom (domState { state := .s3 }) 0).state = .s3 ∧ (getDom (domState { state := .entering }) 0).state = .entering ∧
    (let x := getDom (domState { state := .waking, target := 2 }) 0
     x.state = .waking ∧ 2 ≤ x.target ∧ x.retry1 = false ∧ x.retry3 = false ∧ x.wakeHost = none ∧ wakeFixed x 0 = 15000) ∧ upNs State.reset < 0 + 50000 ∧ 0 + 100000 ≤ upNs { State.reset with now := 100000 } ∧
    (let x := getDom (domState { state := .waking, target := 3, retry1 := true, retry3 := true, wakeHost := some 1 }) 0
     x.retry1 = true ∧ x.retry3 = true ∧ x.wakeHost = some 1) ∧
    (getDom (domState { state := .waking, target := 1 }) 0).target = 1 ∧ 0 ∈ groupCores 0 ∧ 0 ∈ groupClusters 0 ∧
    (∀ b r, b < bankCount 0 → bit 0 b = true → r ∈ bankRanges 0 b → (5 : Nat) < r.1 ∨ r.1 + r.2 ≤ 5) ∧ bankCount 0 = 64 := by
  refine ⟨by decide, by decide, by decide, by decide, by decide, by decide, by decide, by decide, by decide, by decide, by decide, ?_, by decide⟩
  intro b r _ h
  simp [bit] at h

theorem test_hyps_LevelsChange :
    (getDom (domState { plTo := some (1, .rampUp) }) 0).plTo = some (1, .rampUp) ∧ (getDom (domState { plTo := some (1, .rampDown) }) 0).plTo = some (1, .rampDown) ∧
    (getDom (domState { plTo := some (1, .rampDown), plHeld := some (2, some 0), pl := 2 }) 0).plHeld = some ((getDom (domState { plTo := some (1, .rampDown), plHeld := some (2, some 0), pl := 2 }) 0).pl, some 0) ∧
    (let x := getDom (domState { plTo := some (1, .waitTick), pl := 2 }) 0
     x.plTo = some (1, .waitTick) ∧ x.plHost = none ∧ 1 < x.pl ∧ x.plHeld = none) ∧ (let x := getDom (domState { plTo := some (3, .waitTick), pl := 2, plHeld := some (0, none) }) 0
     x.pl ≤ 3 ∧ x.plHeld = some (0, none) ∧ (0 : Nat) ≠ x.pl) := by decide

/-! ### Thermal supervision, ageing -/

/-- Supervision runs, and every sensor of zone 0 but the first is cold. -/
def thState (t : Int) : State := { State.reset with su := { stage := 10, ready := true, vin := true }, th := { State.reset.th with temps := tset [] 0 t } }
theorem test_hyps_SamplesAreTaken :
    railsUp (thState 0) = true ∧ bit (thState 0).th.broken 0 = false ∧ railsUp State.reset = false ∧ (-641 : BitVec 16).toInt < -640 ∧ 2400 < (2401 : BitVec 16).toInt ∧ -640 ≤ (-640 : BitVec 16).toInt ∧
    (2400 : BitVec 16).toInt ≤ 2400 ∧ (175 : BitVec 16).toInt < 176 ∧ 208 < (209 : BitVec 16).toInt ∧ ¬ (shutAt (thState 0) ≤ (0 : BitVec 16).toInt) ∧ shutAt (thState 0) ≤ (2400 : BitVec 16).toInt ∧
    (let s := { thState 0 with th := { (thState 0).th with nOver := 1 } }
     bit s.th.nOver 0 = true) ∧ (tget (thState 0).th.convs 0 0 + 1) % 256 ≠ 0 ∧ (tget (tset [] 0 255) 0 0 + 1) % 256 = 0 ∧
    (thState 0).th.trip = false ∧ 0 ∈ zoneSensors 0 := by decide

theorem test_hyps_ZoneWarningsSetAndClear :
    bit (thState 2000).th.warnZ 0 = false ∧ 16 * ((thState 2000).th.cfg.warn : Int) ≤ zoneTemp (thState 2000) 0 ∧ zoneTemp (thState 0) 0 < 16 * ((thState 0).th.cfg.warn : Int) ∧
    (let s := { thState 0 with th := { (thState 0).th with warnZ := 1 } }
     bit s.th.warnZ 0 = true ∧ zoneTemp s 0 < 16 * ((s.th.cfg.warn - s.th.cfg.warnHyst : Nat) : Int)) := by decide

theorem test_hyps_ThrottlingSteps :
    (getDom (thState 2000) 0).thrAt = none ∧ 16 * ((thState 2000).th.cfg.throttle : Int) ≤ zoneTemp (thState 2000) 0 ∧ divides (thState 2000) 0 = false ∧
    (let s := { thState 2000 with th := { (thState 2000).th with cfg := { (thState 2000).th.cfg with mode := 1 } } }
     divides s 0 = true) ∧
    (let s := setDom (thState 0) 0 { thr := 32 }
     ¬ (16 * (s.th.cfg.throttle : Int) ≤ zoneTemp s 0) ∧ zoneTemp s 0 < 16 * ((s.th.cfg.throttle - s.th.cfg.thrHyst : Nat) : Int) ∧ (getDom s 0).thr < 64 ∧ (getDom s 0).thr ≤ 64 ∧ s.th.cfg.min_ ≤ 64 ∧ thrMin s 0 ≤ 32) ∧
    (thState 0).th.pend = none ∧ thrNext (thState 0) 0 = (getDom (thState 0) 0).thr ∧ thrNext (thState 2000) 0 ≠ (getDom (thState 2000) 0).thr := by decide

theorem test_hyps_AgeingIsReplanned :
    State.reset.su.ready = false ∧ (thState 0).su.ready = true ∧ upNs (thState 0) < (thState 0).age.hourAt + 3600000000000 ∧ 0 + 3600000000000 ≤ upNs { thState 0 with now := 3600000000000 } ∧ (State.reset.age.hours + 1) % 2 ^ 32 % 6 ≠ 0 ∧ (5 + 1) % 2 ^ 32 % 6 = 0 ∧ State.reset.age.busy = false ∧
    (let s := { State.reset with age := { State.reset.age with busy := true } }
     s.age.busy = true) ∧ 0 ∈ levelsOf 0 ∧ lget (getDom State.reset 0).ofs 0 0 ≤ 24 ∧ bit (getDom State.reset 0).exh 0 = false ∧ lget (getDom State.reset 0).need 0 0 ≤ 600 ∧
    monsOf State.reset 0 ≠ [] ∧ bit State.reset.age.due 0 = false ∧ bit State.reset.age.used 0 = false ∧
    (let s := { State.reset with age := { State.reset.age with due := 1, used := 1 } }
     bit s.age.due 0 = true ∧ bit s.age.used 0 = true ∧ (needFor s 0).isSome = true ∧ 0 ∈ monsOf s 0) ∧
    600 < lget (getDom (domState { need := [601, 0, 0, 0] }) 0).need 0 0 := by decide

/-! ### Faults, panic, contacts -/

theorem test_hyps_CoresAndEnginesFail :
    ¬ CanFault State.reset 3 0 ∧ CanFault (runCore 3 {}) 3 1 ∧ CanFault (setCore State.reset 3 { run := .stopped }) 3 0 ∧ CanFault (setCore State.reset 3 { run := .held }) 3 2 ∧ (recentRestarts (runCore 3 {}) 3).length < 3 ∧
    (let s := { runCore 3 {} with flt := { State.reset.flt with restarts := tset [] 3 [0, 0, 0] } }
     3 ≤ (recentRestarts s 3).length) ∧ (getCore (setCore State.reset 3 { run := .testing }) 3).run = .testing ∧ (getCore State.reset 3).run ≠ .testing ∧ isChisel 3 = true ∧ isChisel 96 = false ∧
    State.reset.flt.engTest.contains 5 = false ∧ bit State.reset.flt.clOut 5 = false ∧
    (let s := { State.reset with flt := { State.reset.flt with engTest := [5] } }
     s.flt.engTest.contains 5 = true) ∧
    (let s := { State.reset with flt := { State.reset.flt with coreOut := 8 } }
     bit s.flt.coreOut 3 = true ∧ bit State.reset.flt.coreOut 3 = false ∧ coreDom 3 = some 0 ∧ (getDom (domState { state := .failed }) 0).state = .failed ∧ (getDom State.reset 0).state ≠ .failed) := by
  refine ⟨?_, .inr (.inl ⟨.inl rfl, by decide⟩), .inl ⟨rfl, rfl⟩, .inr (.inr ⟨rfl, rfl⟩), by decide, by decide, rfl, by decide, rfl, rfl, rfl, rfl, rfl, by decide⟩
  rintro (⟨h, _⟩ | ⟨_, h⟩ | ⟨_, h⟩)
  · exact absurd h (by decide)
  · exact h rfl
  · exact absurd h (by decide)

theorem test_hyps_TablesMcAndPanic :
    State.reset.flt.mcDown = none ∧ State.reset.su.stage < 5 ∧ 5 ≤ (thState 0).su.stage ∧
    (let s := { State.reset with flt := { State.reset.flt with mcDown := some 1 } }
     s.flt.mcDown = some 1) ∧
    (let s := setFh { State.reset with mem := { State.reset.mem with pncFh := tset [] 0 { en := true, on := 0x100, off := 0x400 } } } 0 { en := true }
     (pncFh s 0).en = true ∧ (getFh s 0).en = true ∧ (getFh s 0).eg.length ≤ (pncFh s 0).on ∧ (getFh s 0).eg.length < (pncFh s 0).off) ∧
    (let s := { State.reset with mem := { State.reset.mem with pncFh := tset [] 0 { en := false, on := 1, off := 1 }, pncNs := tset [] 0 { en := false, on := 1, off := 1 }, pncBp := tset [] 0 { en := false, on := 1, off := 1 } } }
     (pncFh s 0).en = false ∧ (pncNs s 0).en = false ∧ (pncBp s 0).en = false) ∧
    (let s := { State.reset with mem := { State.reset.mem with pncNs := tset [] 0 { en := true, on := 1, off := 1 }, pncBp := tset [] 0 { en := true, on := 1, off := 1 } } }
     (pncNs s 0).en = true ∧ (pncBp s 0).en = true ∧ (pncNs s 0).on ≤ (1 : Fin 65).val ∧ (0 : Fin 65).val < (pncNs s 0).on ∧ (pncNs s 0).off < (2 : Fin 65).val) ∧
    (let s := { State.reset with tm := { State.reset.tm with st := 2 } }
     s.tm.st = 2) ∧ State.reset.tm.st = 0 := by decide

/-- A busy die, and a packet of the old epoch from `src`. -/
def epochState (p : Pkt) : State :=
  let s := setNocDie State.reset 0 { busy := true }
  { s with noc := { s.noc with pkts := [p] } }
theorem test_hyps_DiesAreLost :
    dieOut (runCore 0 {}) 0 = false ∧ (∃ b, 16 * 0 ≤ b ∧ b < 16 * 0 + 16 ∧ bundleUp (setLink (setLink State.reset 0 { state := 2 }) 1 { state := 2 }) b = true) ∧
    (∀ b, b < 16 → bundleUp State.reset b = false) ∧ (∀ d, d < 3 → (getNocDie State.reset d).busy = true → upNs State.reset < (getNocDie State.reset d).goAt + 10000000) ∧
    oldOn State.reset 0 = false ∧ oldOn State.reset 1 = false ∧ oldOn State.reset 2 = false := by
  refine ⟨by decide, ⟨0, by decide⟩, by decide, by decide, by decide, by decide, by decide⟩

theorem test_hyps_StuckEpochLosesItsDies :
    (∀ d ∈ [0, 2], let s := epochState { pkt 0 1 0 [] with src := if d = 0 then 0 else 159, epoch := false }
      (getNocDie s 0).busy = true ∧ (getNocDie s 0).goAt + 10000000 ≤ upNs { s with now := 10000000 } ∧ oldOn s 0 = (d == 0) ∧ oldOn s 1 = false ∧ oldOn s 2 = (d == 2) ∧ dieOut s 0 = false) := by decide

theorem test_hyps_EventsAreLogged :
    (let r : LogRec := { index := 0, code := 0x0B09, sev := 0, mod := true, part := 0, time := 0, tick := 0, hours := 0, d0 := 1, d1 := 0, cont := [] }
     let s := { State.reset with flt := { State.reset.flt with queue := [r] } }
     s.flt.queue = r :: [] ∧ s.flt.mcDown = none ∧ s.flt.gap = 0 ∧ r.code / 256 = 0x0B ∧ r.code ≠ 0x0B10) ∧ (thState 0).su.ready = true ∧ State.reset.su.ready = false ∧ State.reset.su.stopped = false ∧ State.reset.flt.queue = [] ∧
    (let s := { State.reset with flt := { State.reset.flt with gap := 2 } }
     s.flt.gap ≠ 0) := by decide

theorem test_hyps_ContactsAnswer : i2cUp (suState 2) = true ∧ i2cUp (suState 1) = false ∧ (suState 2).su.vin = true := by decide

/-! ### The tick and the tick sequencer -/

/-- An entry of flow 5 at tick 0 with a deadline, and a plan that holds it. -/
def entry5 (pol : Nat) : PlanEntry := { tick := 0, prio := 2, policy := pol, must := true, fb := false, deadline := 3, offset := 10, flow := 5, budget := 0, tag := 9, fallback := 0 }
def win5 (pol : Nat) (g : Bool) : DlWin := { slot := false, idx := 0, entry := entry5 pol, trigN := 0, closeAt := 0, item := 0, grace := g, fb := none }
/-- Partition 0 runs that plan, with deadline windows `ws`; flow 5 holds items `its`. -/
def tickState (ws : List DlWin) (its : List Item) : State :=
  let s := dvState {} flow5 its
  let s := setTick s 0 { getTick s 0 with run := true, slotA := some { len := 1, need := 0, entries := [entry5 0] }, wins := ws }
  { s with su := { s.su with timeUp := true } }

theorem test_hyps_tick : (tickState [] []).su.timeUp = true ∧ (getTick (tickState [] []) 0).run = true ∧ activePlan (getTick (tickState [] []) 0) = some { len := 1, need := 0, entries := [entry5 0] } ∧
    nextEntry (getTick (tickState [] []) 0) = some (0, entry5 0) ∧ refusal (tickState [] []) 0 5 false = 0 := by decide
/-- The same with no flow: the trigger is refused as INVALID (4); a MUST entry that degrades, with a fallback. -/
theorem test_hyps_refused_trigger :
    (let s := tickState [] []
     let a := { s with dv := { s.dv with flows := [] } }
     (getTick a 0).run = true ∧ nextEntry (getTick a 0) = some (0, entry5 0) ∧ refusal a 0 (entry5 0).flow false = 4) ∧
    (entry5 1).must = true ∧ fallbackOf { len := 1, need := 0, entries := [entry5 1] } (entry5 1) = some (0, entry5 1) ∧
    fallbackOf { len := 1, need := 0, entries := [] } (entry5 1) = none := by decide
theorem test_hyps_switch :
    (let q : PlanPend := { slot := false, start := true, atCount := 0, n := 0 }
     (getTick (setTick (tickState [] []) 0 { pend := some q }) 0).pend = some q ∧ q.atCount ≤ (tickState [] []).tu.count ∧ (tickState [] []).tu.count < 1) := by decide
theorem test_hyps_overrun :
    (∀ w ∈ [win5 0 false, win5 1 false, { win5 1 false with fb := some (0, entry5 0) }, win5 2 false],
      firstWin (closedWins (tickState [w] [{ item5 .queued with id := 0 }]) 0 false) = some w ∧ itemById (tickState [w] [{ item5 .queued with id := 0 }]) w.item = some { item5 .queued with id := 0 }) ∧
    firstWin (closedWins (tickState [win5 2 true] [{ item5 .queued with id := 0 }]) 0 true) = some (win5 2 true) ∧ itemById (tickState [win5 2 true] []) 0 = none := by decide
theorem test_hyps_registers : bit (5 : BitVec 32).toNat 31 = false ∧ bit (0x80000005 : BitVec 32).toNat 31 = true ∧ ownsFlow (tickState [] []) 0 (fld (0x80000005 : BitVec 32).toNat 0 18) = true ∧
    (0 : Nat) ≤ Counter.top .tickOvrDrop ∧ ctrKey .tickOvrDeg 0 ≠ ctrKey .tickOvrDrop 0 ∧ (1 : Fin 4) ≠ 2 ∧
    portGate State.reset (unitPort .gain 0) ≠ 0 ∧ portGate { State.reset with su := { State.reset.su with stage := 7 } } (unitPort .gain 0) = 0 := by decide

end Sys2Proof.Tests
end

section
namespace Sys2Proof.Machine

/-! ### Register accesses (00_scope R5, R9, R11) -/

/-- Two counters with different keys are kept apart: a write of one leaves what the other reads. -/
theorem ctrGet_ctrSet_of_ctrKey_ne (s : State) {k k' : Counter} {b b' : Nat} (v : Nat) (h : ctrKey k' b' ≠ ctrKey k b) :
    ctrGet (ctrSet s k b v) k' b' = ctrGet s k' b' := tget_tset_ne _ _ _ h

@[simp] theorem mayTouch_part_self (p : Fin 4) : mayTouch (.part p) (some p.val) = true := by simp [mayTouch]

theorem mayTouch_part_of_ne {p q : Fin 4} (h : p ≠ q) : mayTouch (.part q) (some p.val) = false := by
  simp [mayTouch, Fin.val_ne_of_ne h]

/-- The owner's write of TICK_EVT_FLOW is taken where it disables the flow or names one of its own (R34). -/
theorem execTickEvtFlowWrite_owner (s : State) (p : Fin 4) (val : BitVec 32)
    (h : bit val.toNat 31 = false ∨ ownsFlow s p (fld val.toNat 0 18) = true) :
    execTickEvtFlowWrite (.part p) p val s =
      .next (done (setTick s p { getTick s p with evtFlow := fld val.toNat 0 18, evtEn := bit val.toNat 31 })) := by
  rcases h with h | h <;> simp [execTickEvtFlowWrite, h]

theorem execTickEvtFlowWrite_foreign (s : State) {p q : Fin 4} (val : BitVec 32) (h : p ≠ q) :
    execTickEvtFlowWrite (.part q) p val s = .next (foreign s) := by
  simp [execTickEvtFlowWrite, mayTouch_part_of_ne h]

/-- The MC's read of an RC counter leaves the events of the same cycle counted (R9, R11). -/
theorem execCounterReadClear_ctr_mc (s : State) (c : Counter) (bank same : Nat) :
    execCounterReadClear .mc (.ctr c bank) same s =
      .next (answer (ctrSet s c bank (min (Counter.top c) same)) 0 (ctrGet s c bank)) := by
  simp [execCounterReadClear, portDown, ctrMay]

theorem execCounterReadClear_block_closed (s : State) (p : Fin 4) (b : RegUnit) (o : BitVec 24) (n : Fin 9) (same : Nat)
    (h : portGate s (unitPort b o.toNat) ≠ 0) :
    execCounterReadClear (.part p) (.block b o n) same s =
      .next (answer (noteGate s (unitPort b o.toNat) (portGate s (unitPort b o.toNat))) (portGate s (unitPort b o.toNat)) 0) := by
  simp [execCounterReadClear, portDown, h]

theorem execCounterReadClear_block_open (s u : State) (p : Fin 4) (b : RegUnit) (o : BitVec 24) (n : Fin 9) (same st : Nat) (bs : List Byte)
    (h : portGate s (unitPort b o.toNat) = 0) (e : regRead s (some p.val) b o.toNat n = (st, bs, u)) :
    execCounterReadClear (.part p) (.block b o n) same s = .next (answer u st (if st = 0 then ofLe bs else 0)) := by
  cases st <;> simp [execCounterReadClear, portDown, readerOf, h, e]

theorem execCounterReadClear_window (s : State) (h : Fin 4) (o : BitVec 20) (same : Nat) (hu : portUp s h = true) :
    execCounterReadClear (.host h) (.window o) same s = .next (answer (windowR s h o.toNat).2 0 (windowR s h o.toNat).1) := by
  have hd : portDown s (.host h) = false := by simp [portDown, hu]
  unfold execCounterReadClear
  rw [hd, if_neg Bool.false_ne_true]

/-- TICK_ESC_GRACE takes its field, at least 1 (R34). -/
theorem regW_tickEscGrace (s : State) (p : Fin 4) (v : Nat) :
    regW s (.tickEscGrace p) v = setTick s p { getTick s p with grace := max 1 (fld v 0 4) } := rfl

theorem execRegWrite_tickEscGrace_owner (s : State) (p : Fin 4) (val : BitVec 64) :
    execRegWrite (.part p) (.tickEscGrace p) val s = .next (done (setTick s p { getTick s p with grace := max 1 (fld val.toNat 0 4) })) := by
  simp [execRegWrite, portDown, regLost, regPort, regMay, regGate, regW_tickEscGrace, dmaPartW]

theorem execRegWrite_tickEscGrace_foreign (s : State) {p q : Fin 4} (val : BitVec 64) (h : p ≠ q) :
    execRegWrite (.part q) (.tickEscGrace p) val s = .next (foreign s) := by
  simp [execRegWrite, portDown, regLost, regPort, regMay, mayTouch_part_of_ne h]

/-- Settles O9: each access in turn is the case of the read or the write that its lemma names. -/
theorem registersAnswerTheirOwner : Obligations.RegistersAnswerTheirOwner := by
  refine ⟨fun s p val h => execTickEvtFlowWrite_owner s p val h, fun s c bank same hs => ?_,
    fun s u p b o n same st bs hg e => execCounterReadClear_block_open s u p b o n same st bs hg e,
    fun s p b o n same hg => execCounterReadClear_block_closed s p b o n same hg,
    fun s h o same hu => execCounterReadClear_window s h o same hu,
    fun s p val => ⟨_, execRegWrite_tickEscGrace_owner s p val, congrArg TickBank.grace (getTick_setTick_same s p _), rfl, rfl⟩,
    fun s p q val h => execTickEvtFlowWrite_foreign s val h, fun s p q val h => execRegWrite_tickEscGrace_foreign s val h⟩
  refine ⟨_, execCounterReadClear_ctr_mc s c bank same, rfl, ?_, fun c' bank' h => ctrGet_ctrSet_of_ctrKey_ne s _ h, rfl⟩
  rw [Nat.min_eq_right hs]
  exact ctrGet_ctrSet_same s c bank same

end Sys2Proof.Machine
end

section
/-!
SUPPORT. `Good` (Laws/Kept) asks for canonical memory and for bounded counters at once, so its laws say nothing of a state that has one
and not the other. `Sound` asks for each part on its own: one run of laws over the operations, one law per command, and the step then
give every invariant by the choice of the aims.
-/
namespace Sys2Proof.Machine

/-- What a run is asked to keep: the queue, at least a number of free values taken and, each only where it is asked for, canonical memory
and counters within their width. -/
structure Aims where
  queue : List Instr
  free : Nat
  mem : Prop
  ctr : Prop

/-- What `Sound` asks of the four parts it speaks of. -/
def Meets (A : Aims) (p : List Instr) (m : List Host.Cell) (c : Tab Nat) (n : Nat) : Prop :=
  p = A.queue ∧ (A.mem → Memory.wf m = true) ∧ (A.ctr → CtrTab c) ∧ A.free ≤ n

/-- The state meets the aims. -/
def Sound (A : Aims) (s : State) : Prop := Meets A s.pending s.mem.bytes s.ctr s.fresh

/-- The aims in the words of the obligations. -/
theorem sound_iff {A : Aims} {s : State} :
    Sound A s ↔ s.pending = A.queue ∧ (A.mem → MemSound s) ∧ (A.ctr → CountersBounded s) ∧ A.free ≤ s.fresh := Iff.rfl

/-- The same of what a meaning answers. -/
def SoundRes (A : Aims) (r : Res) : Prop :=
  match r with
  | .next t => Sound A t
  | .fault _ => True
  | .refused _ => True

variable {A : Aims} {p : List Instr} {m : List Host.Cell} {c : Tab Nat} {n : Nat}

@[simp] theorem soundRes_next (t : State) : SoundRes A (.next t) = Sound A t := propext Iff.rfl

/-- The same of an optional state. -/
def SoundOpt (A : Aims) (o : Option State) : Prop := ∀ t, o = some t → Sound A t

@[simp] theorem soundOpt_none : SoundOpt A none := fun _ h => nomatch h
@[simp] theorem soundOpt_some (t : State) : SoundOpt A (some t) ↔ Sound A t :=
  ⟨fun h => h t rfl, fun h _ e => by cases e; exact h⟩

/-! ### The parts -/

/-- A state written out is sound by its four parts. -/
@[simp] theorem sound_mk (now_ stepped_ answer_ tu_ parts_ dv_ hosts_ mc_ mem_ doms_ cores_ rasps_ benchCache_ dev_ noc_ dma_ su_ jig_ ln_ fh_ gc_ bh_ tm_ flt_ age_ th_ pins_) :
    Sound A (State.mk now_ stepped_ n answer_ c tu_ parts_ dv_ hosts_ mc_ mem_ doms_ cores_ rasps_ benchCache_ dev_ noc_ dma_ su_ jig_ ln_ fh_ gc_ bh_ tm_ flt_ age_ th_ pins_ p) = Meets A p mem_.bytes c n := propext Iff.rfl

@[simp] theorem meets_of_sound {s : State} (h : Sound A s) : Meets A s.pending s.mem.bytes s.ctr s.fresh := h

@[simp] theorem sound_ite (x : Prop) [Decidable x] (a b : State) : Sound A (if x then a else b) ↔ if x then Sound A a else Sound A b := by
  split <;> exact Iff.rfl

@[simp] theorem soundRes_ite (x : Prop) [Decidable x] (a b : Res) : SoundRes A (if x then a else b) ↔ if x then SoundRes A a else SoundRes A b := by
  split <;> exact Iff.rfl

@[simp] theorem meets_cellsWrite (a : Nat) (bs : List Byte) (h : Meets A p m c n) : Meets A p (cellsWrite m a bs) c n :=
  ⟨h.1, fun hm => wf_cellsWrite bs m a (h.2.1 hm), h.2.2⟩

@[simp] theorem meets_cellsZero (a k : Nat) (h : Meets A p m c n) : Meets A p (cellsZero m a k) c n :=
  ⟨h.1, fun hm => wf_cellsZero m a k (h.2.1 hm), h.2.2⟩

@[simp] theorem meets_nothing (s : State) (h : Sound A s) : Meets A s.pending [] [] s.fresh :=
  ⟨h.1, fun _ => rfl, fun _ _ _ => Nat.zero_le _, h.2.2.2⟩

@[simp] theorem meets_flips (l : List Nat) (a : Nat) (h : Meets A p m c n) :
    Meets A p (l.foldl (fun b i => flipByte b a i) m) c n := ⟨h.1, fun hm => wf_flips l m a (h.2.1 hm), h.2.2⟩

@[simp] theorem meets_noCells (s : State) (h : Sound A s) : Meets A s.pending [] s.ctr s.fresh := ⟨h.1, fun _ => rfl, h.2.2⟩

@[simp] theorem meets_fresh (k : Nat) (h : Meets A p m c n) : Meets A p m c (n + k) :=
  ⟨h.1, h.2.1, h.2.2.1, Nat.le_trans h.2.2.2 (Nat.le_add_right n k)⟩

/-- A counter takes any value within its width. -/
theorem sound_ctrSet (s : State) (k : Counter) (b v : Nat) (hv : v ≤ Counter.top k) (h : Sound A s) : Sound A (ctrSet s k b v) :=
  ⟨h.1, h.2.1, fun hc => ctrTab_tset (h.2.2.1 hc) hv, h.2.2.2⟩

/-- A counter may always be cleared. -/
@[simp] theorem sound_ctrSet_zero (s : State) (k : Counter) (b : Nat) (h : Sound A s) : Sound A (ctrSet s k b 0) :=
  sound_ctrSet s k b 0 (Nat.zero_le _) h

@[simp] theorem sound_bumpBy (s : State) (k : Counter) (b v : Nat) (h : Sound A s) : Sound A (bumpBy s k b v) :=
  sound_ctrSet s k b _ (Nat.min_le_left _ _) h

@[simp] theorem sound_bump (s : State) (k : Counter) (b : Nat) (h : Sound A s) : Sound A (bump s k b) := sound_bumpBy s k b 1 h

@[simp] theorem sound_takeFree (s : State) (w : Nat) (h : Sound A s) : Sound A (takeFree s w).2 := meets_fresh 1 h

/-! ### What a call answered -/

theorem sound_eq2 {α : Type} {r : α × State} {a : α} {t : State} (e : r = (a, t)) (h : Sound A r.2) : Sound A t := by subst e; exact h
theorem sound_eq1 {α : Type} {r : State × α} {a : α} {t : State} (e : r = (t, a)) (h : Sound A r.1) : Sound A t := by subst e; exact h
theorem sound_eq22 {α β : Type} {r : α × β × State} {a : α} {b : β} {t : State} (e : r = (a, b, t)) (h : Sound A r.2.2) : Sound A t := by
  subst e; exact h
theorem sound_eq21 {α β : Type} {r : α × State × β} {a : α} {b : β} {t : State} (e : r = (a, t, b)) (h : Sound A r.2.1) : Sound A t := by
  subst e; exact h
theorem sound_eqSome {o : Option State} {t : State} (e : o = some t) (h : SoundOpt A o) : Sound A t := h t e

/-! ### Folds -/

/-- A fold over states keeps what each of its steps keeps. -/
@[simp] theorem sound_foldl {α : Type} (g : State → α → State) (hg : ∀ s a, Sound A s → Sound A (g s a)) (l : List α) (s : State)
    (h : Sound A s) : Sound A (l.foldl g s) := by
  induction l generalizing s with
  | nil => exact h
  | cons a r ih => exact ih _ (hg s a h)

@[simp] theorem sound_foldl_fst {α β : Type} (g : State × β → α → State × β) (hg : ∀ x a, Sound A x.1 → Sound A (g x a).1) (l : List α)
    (x : State × β) (h : Sound A x.1) : Sound A (l.foldl g x).1 := by
  induction l generalizing x with
  | nil => exact h
  | cons a r ih => exact ih _ (hg x a h)

@[simp] theorem sound_foldl_snd {α β : Type} (g : β × State → α → β × State) (hg : ∀ x a, Sound A x.2 → Sound A (g x a).2) (l : List α)
    (x : β × State) (h : Sound A x.2) : Sound A (l.foldl g x).2 := by
  induction l generalizing x with
  | nil => exact h
  | cons a r ih => exact ih _ (hg x a h)

/-- Either branch of a choice. -/
theorem sound_if {x : Prop} [Decidable x] {a b : State} (ha : Sound A a) (hb : Sound A b) : Sound A (if x then a else b) := by
  split
  · exact ha
  · exact hb

theorem sound_if22 {α β : Type} {x : Prop} [Decidable x] {a b : α × β × State} (ha : Sound A a.2.2) (hb : Sound A b.2.2) :
    Sound A (if x then a else b).2.2 := by
  split
  · exact ha
  · exact hb

/-- What an access answered, where a match on it left the equation `e`. -/
theorem sound_accDone {r : AccRes} {bs : List Byte} {t : State} (e : r = .done bs t) (h : Sound A r.state) : Sound A t := by
  subst e; exact h
theorem sound_accFault {r : AccRes} {code sub : Nat} {tval : Word} {t : State} (e : r = .fault code sub tval t)
    (h : Sound A r.state) : Sound A t := by
  subst e; exact h

end Sys2Proof.Machine
end

section
/-!
SUPPORT. What the operations of the model keep, file by file in the model's order.
-/
namespace Sys2Proof.Machine

variable {A : Aims}

/-! ### Ops -/

@[simp] theorem sound_setCore (s : State) (x1 x2) (h : Sound A s) : Sound A (setCore s x1 x2) := h
@[simp] theorem sound_updCore (s : State) (x1 x2) (h : Sound A s) : Sound A (updCore s x1 x2) := h
@[simp] theorem sound_setPart (s : State) (x1 x2) (h : Sound A s) : Sound A (setPart s x1 x2) := h
@[simp] theorem sound_updPart (s : State) (x1 x2) (h : Sound A s) : Sound A (updPart s x1 x2) := h
@[simp] theorem sound_setTick (s : State) (x1 x2) (h : Sound A s) : Sound A (setTick s x1 x2) := h
@[simp] theorem sound_setHost (s : State) (x1 x2) (h : Sound A s) : Sound A (setHost s x1 x2) := h
@[simp] theorem sound_updHost (s : State) (x1 x2) (h : Sound A s) : Sound A (updHost s x1 x2) := h
@[simp] theorem sound_setDom (s : State) (x1 x2) (h : Sound A s) : Sound A (setDom s x1 x2) := h
@[simp] theorem sound_updDom (s : State) (x1 x2) (h : Sound A s) : Sound A (updDom s x1 x2) := h
@[simp] theorem sound_setCh (s : State) (x1 x2) (h : Sound A s) : Sound A (setCh s x1 x2) := h
@[simp] theorem sound_updCh (s : State) (x1 x2) (h : Sound A s) : Sound A (updCh s x1 x2) := h
@[simp] theorem sound_setSr (s : State) (x1 x2) (h : Sound A s) : Sound A (setSr s x1 x2) := h
@[simp] theorem sound_setFlow (s : State) (x1 x2) (h : Sound A s) : Sound A (setFlow s x1 x2) := h
@[simp] theorem sound_updFlow (s : State) (x1 x2) (h : Sound A s) : Sound A (updFlow s x1 x2) := h
@[simp] theorem sound_setDvCore (s : State) (x1 x2) (h : Sound A s) : Sound A (setDvCore s x1 x2) := h
@[simp] theorem sound_setRasp (s : State) (x1 x2) (h : Sound A s) : Sound A (setRasp s x1 x2) := h
@[simp] theorem sound_setPort (s : State) (x1 x2) (h : Sound A s) : Sound A (setPort s x1 x2) := h
@[simp] theorem sound_setNocDie (s : State) (x1 x2) (h : Sound A s) : Sound A (setNocDie s x1 x2) := h
@[simp] theorem sound_updSu (s : State) (x1) (h : Sound A s) : Sound A (updSu s x1) := by
  simp [updSu, h]
@[simp] theorem sound_noteDeg (s : State) (h : Sound A s) : Sound A (noteDeg s) := sound_updSu s _ h
@[simp] theorem sound_setLink (s : State) (x1 x2) (h : Sound A s) : Sound A (setLink s x1 x2) := h
@[simp] theorem sound_answer (s : State) (x1 x2) (h : Sound A s) : Sound A (answer s x1 x2) := h
@[simp] theorem sound_setDma (s : State) (x1 x2) (h : Sound A s) : Sound A (setDma s x1 x2) := h
@[simp] theorem sound_updDma (s : State) (x1 x2) (h : Sound A s) : Sound A (updDma s x1 x2) := h
@[simp] theorem sound_writeBytes (s : State) (x1 x2) (h : Sound A s) : Sound A (writeBytes s x1 x2) := by
  simp [writeBytes, h]

/-! ### HostQ -/

@[simp] theorem sound_postHost (s : State) (x1 x2) (h : Sound A s) : Sound A (postHost s x1 x2) := by
  simp [postHost, h]
@[simp] theorem sound_postPart (s : State) (x1 x2 x3 x4) (h : Sound A s) : Sound A (postPart s x1 x2 x3 x4) := by
  simp [postPart, h]
@[simp] theorem sound_pushReply (s : State) (x1 x2 x3 x4 x5) (h : Sound A s) : Sound A (pushReply s x1 x2 x3 x4 x5) := h
@[simp] theorem sound_takePacket (s : State) (x1 x2 x3 x4) (h : Sound A s) : Sound A (takePacket s x1 x2 x3 x4) := by
  unfold takePacket
  dsimp only
  split
  · exact h
  · have hs : Sound A (if x2 = 1 then s else setHost s x1 { getHost s x1 with expSeq := ((getHost s x1).expSeq + 1) % 65536 }) :=
      sound_if h h
    split
    · exact hs
    · split
      · exact sound_pushReply _ _ _ _ _ _ (sound_takeFree _ _ hs)
      · repeat' split
        all_goals exact h
@[simp] theorem sound_parseOne (s : State) (x1) (h : Sound A s) : SoundOpt A (parseOne s x1) := by
  unfold parseOne
  dsimp only
  repeat' split
  all_goals simp (maxDischargeDepth := 40) [h]
@[simp] theorem sound_takeCommitted (s : State) (x1) (h : Sound A s) : Sound A (takeCommitted s x1) := by
  simp [takeCommitted, h]
@[simp] theorem sound_parse (s : State) (x1 x2) (h : Sound A s) : Sound A (parse s x1 x2) := by
  induction x2 generalizing s with
  | zero => exact h
  | succ k ih =>
    unfold parse
    split
    · exact h
    · rename_i t ht; exact ih t (sound_parseOne s x1 h t ht)
@[simp] theorem sound_parseAll (s : State) (x1) (h : Sound A s) : Sound A (parseAll s x1) := by
  simp [parseAll, h]
@[simp] theorem sound_finish (s : State) (x1 x2 x3 x4) (h : Sound A s) : Sound A (finish s x1 x2 x3 x4) := by
  simp [finish, h]
@[simp] theorem sound_runCmd (s : State) (x1 x2) (body : State → HostCmd → Reply × State) (hb : ∀ t c, Sound A t → Sound A (body t c).2)
    (h : Sound A s) : Sound A (runCmd s x1 x2 body) := by
  unfold runCmd
  split
  · exact h
  · rename_i c _
    split
    · have hk := hb { s with mc := { s.mc with lastServed := x1 } } c h
      dsimp only
      split <;> rename_i e <;> rw [e] at hk
      · exact sound_finish _ _ _ _ _ hk
      · exact sound_updHost _ _ _ hk
    · exact h
@[simp] theorem sound_replyLater (s : State) (x1 x2 x3) (h : Sound A s) : Sound A (replyLater s x1 x2 x3) := by
  unfold replyLater
  split <;> simp [h]
@[simp] theorem sound_refuse (s : State) (x1 x2) (h : Sound A s) : Sound A (refuse s x1 x2).2 := h
@[simp] theorem sound_okReply (s : State) (h : Sound A s) : Sound A (okReply s).2 := h

/-! ### DvOps -/

@[simp] theorem sound_setItems (s : State) (x1) (h : Sound A s) : Sound A (setItems s x1) := h
@[simp] theorem sound_updItem (s : State) (x1 x2) (h : Sound A s) : Sound A (updItem s x1 x2) := h
@[simp] theorem sound_dropItem (s : State) (x1) (h : Sound A s) : Sound A (dropItem s x1) := by
  unfold dropItem
  dsimp only
  repeat' split
  all_goals simp (maxDischargeDepth := 40) [h]
@[simp] theorem sound_dropWins (s : State) (x1) (h : Sound A s) : Sound A (dropWins s x1) := h
@[simp] theorem sound_countRefusal (s : State) (x1 x2) (h : Sound A s) : Sound A (countRefusal s x1 x2) := by
  simp [countRefusal, h]
@[simp] theorem sound_takeSlot (s : State) (x1) (h : Sound A s) : Sound A (takeSlot s x1).2 := by
  simp [takeSlot, h]
@[simp] theorem sound_useSlot (s : State) (x1 x2) (h : Sound A s) : Sound A (useSlot s x1 x2).2 := h
@[simp] theorem sound_addItem (s : State) (x1 x2 x3) (h : Sound A s) : Sound A (addItem s x1 x2 x3).1 := by
  unfold addItem
  dsimp only
  repeat' split
  all_goals simp (maxDischargeDepth := 40) [h]
@[simp] theorem sound_enqueue (s : State) (x1 x2) (h : Sound A s) : Sound A (enqueue s x1 x2).2.1 := by
  unfold enqueue
  dsimp only
  split <;> simp [h]
@[simp] theorem sound_lossHost (s : State) (x1 x2 x3 x4) (h : Sound A s) : Sound A (lossHost s x1 x2 x3 x4) := by
  simp [lossHost, h]
@[simp] theorem sound_toEventFlow (s : State) (x1 x2 x3 x4) (h : Sound A s) : Sound A (toEventFlow s x1 x2 x3 x4) := by
  unfold toEventFlow
  dsimp only
  split
  · exact h
  · split
    · split <;> rename_i e
      · exact sound_eq21 e (sound_enqueue _ _ _ h)
      · exact sound_lossHost _ _ _ _ _ (sound_eq21 e (sound_enqueue _ _ _ h))
    · exact h
@[simp] theorem sound_lossEvt (s : State) (x1 x2 x3 x4) (h : Sound A s) : Sound A (lossEvt s x1 x2 x3 x4) :=  sound_toEventFlow _ _ _ _ _ (sound_lossHost _ _ _ _ _ h)
@[simp] theorem sound_enqueueExt (s : State) (x1 x2) (h : Sound A s) : Sound A (enqueueExt s x1 x2).2.1 := by
  have hk := sound_enqueue s x1 x2 h
  unfold enqueueExt
  split <;> rename_i e <;> rw [e] at hk
  · exact hk
  · exact sound_lossEvt _ _ _ _ _ hk
@[simp] theorem sound_countOut (s : State) (x1) (h : Sound A s) : Sound A (countOut s x1) := by
  unfold countOut
  dsimp only
  repeat' split
  all_goals simp (maxDischargeDepth := 40) [h]
@[simp] theorem sound_leave (s : State) (x1) (h : Sound A s) : Sound A (leave s x1).2 := by
  unfold leave
  dsimp only
  repeat' split
  all_goals simp (maxDischargeDepth := 40) [h]
@[simp] theorem sound_drainOrdered (s : State) (x1 x2) (h : Sound A s) : Sound A (drainOrdered s x1 x2) := by
  induction x2 generalizing s with
  | zero => exact h
  | succ k ih =>
    unfold drainOrdered
    dsimp only
    split
    · exact h
    · rename_i it _
      have hk := sound_leave s it h
      split <;> rename_i e <;> rw [e] at hk
      · exact ih _ (sound_updFlow _ _ _ hk)
      · exact hk
@[simp] theorem sound_drainFlow (s : State) (x1) (h : Sound A s) : Sound A (drainFlow s x1) := by
  simp [drainFlow, h]
@[simp] theorem sound_releaseItem (s : State) (x1) (h : Sound A s) : Sound A (releaseItem s x1) := by
  simp (maxDischargeDepth := 40) [releaseItem, h]
@[simp] theorem sound_withdraw (s : State) (x1 x2) (h : Sound A s) : Sound A (withdraw s x1 x2) := by
  simp [withdraw, h]
@[simp] theorem sound_retryHeld (s : State) (x1) (h : Sound A s) : Sound A (retryHeld s x1) := by
  unfold retryHeld
  repeat' split
  all_goals simp (maxDischargeDepth := 40) [h]
@[simp] theorem sound_sendAbort (s : State) (x1 x2) (h : Sound A s) : Sound A (sendAbort s x1 x2) := h
@[simp] theorem sound_requeue (s : State) (x1) (h : Sound A s) : Sound A (requeue s x1) := h
@[simp] theorem sound_noteIdle (s : State) (x1) (h : Sound A s) : Sound A (noteIdle s x1) := by
  unfold noteIdle
  dsimp only
  split <;> simp [h]
@[simp] theorem sound_failRunning (s : State) (x1) (h : Sound A s) : Sound A (failRunning s x1) := by
  simp [failRunning, h]
@[simp] theorem sound_failCoreItems (s : State) (x1) (h : Sound A s) : Sound A (failCoreItems s x1) := by
  simp +contextual (maxDischargeDepth := 40) [failCoreItems, h]

/-! ### Events -/

@[simp] theorem sound_logRec (s : State) (x1 x2 x3 x4 x5 x6 x7) (h : Sound A s) : Sound A (logRec s x1 x2 x3 x4 x5 x6 x7) := h
@[simp] theorem sound_alertMc (s : State) (x1) (h : Sound A s) : Sound A (alertMc s x1) := h
@[simp] theorem sound_deliver (s : State) (x1 x2 x3 x4) (h : Sound A s) : Sound A (deliver s x1 x2 x3 x4) := by
  simp [deliver, h]
@[simp] theorem sound_raisePart (s : State) (x1 x2 x3 x4) (h : Sound A s) : Sound A (raisePart s x1 x2 x3 x4) := by
  simp [raisePart, h]
@[simp] theorem sound_raiseOwner (s : State) (x1 x2 x3 x4) (h : Sound A s) : Sound A (raiseOwner s x1 x2 x3 x4) := by
  unfold raiseOwner
  split <;> simp [h]
@[simp] theorem sound_tellAll (s : State) (x1 x2 x3) (h : Sound A s) : Sound A (tellAll s x1 x2 x3) := by
  simp +contextual (maxDischargeDepth := 40) [tellAll, h]
@[simp] theorem sound_raiseMod (s : State) (x1 x2 x3) (h : Sound A s) : Sound A (raiseMod s x1 x2 x3) := by
  simp [raiseMod, h]
@[simp] theorem sound_raiseDom (s : State) (x1 x2 x3 x4 x5) (h : Sound A s) : Sound A (raiseDom s x1 x2 x3 x4 x5) := by
  simp +contextual (maxDischargeDepth := 40) [raiseDom, h]
@[simp] theorem sound_raiseHolders (s : State) (x1 x2 x3 x4) (h : Sound A s) : Sound A (raiseHolders s x1 x2 x3 x4) := by
  simp +contextual (maxDischargeDepth := 40) [raiseHolders, h]
@[simp] theorem sound_foreign (s : State) (h : Sound A s) : Sound A (foreign s) := h
@[simp] theorem sound_done (s : State) (h : Sound A s) : Sound A (done s) := h

/-! ### LaneOps -/

@[simp] theorem sound_setLane (s : State) (x1 x2) (h : Sound A s) : Sound A (setLane s x1 x2) := h
@[simp] theorem sound_updLane (s : State) (x1 x2) (h : Sound A s) : Sound A (updLane s x1 x2) := h
@[simp] theorem sound_setRx (s : State) (x1 x2) (h : Sound A s) : Sound A (setRx s x1 x2) := h
@[simp] theorem sound_updRx (s : State) (x1 x2) (h : Sound A s) : Sound A (updRx s x1 x2) := h
@[simp] theorem sound_setFh (s : State) (x1 x2) (h : Sound A s) : Sound A (setFh s x1 x2) := h
@[simp] theorem sound_updFh (s : State) (x1 x2) (h : Sound A s) : Sound A (updFh s x1 x2) := h
@[simp] theorem sound_setGrp (s : State) (x1 x2) (h : Sound A s) : Sound A (setGrp s x1 x2) := h
@[simp] theorem sound_updGrp (s : State) (x1 x2) (h : Sound A s) : Sound A (updGrp s x1 x2) := h
@[simp] theorem sound_setCtx (s : State) (x1 x2) (h : Sound A s) : Sound A (setCtx s x1 x2) := h
@[simp] theorem sound_setBp (s : State) (x1 x2) (h : Sound A s) : Sound A (setBp s x1 x2) := h
@[simp] theorem sound_updBp (s : State) (x1 x2) (h : Sound A s) : Sound A (updBp s x1 x2) := h
@[simp] theorem sound_setRing (s : State) (x1 x2) (h : Sound A s) : Sound A (setRing s x1 x2) := h
@[simp] theorem sound_lnRej (s : State) (x1) (h : Sound A s) : Sound A (lnRej s x1) := h
@[simp] theorem sound_lnSleepRej (s : State) (x1) (h : Sound A s) : Sound A (lnSleepRej s x1) := by
  simp [lnSleepRej, h]
@[simp] theorem sound_alignUpdate (s : State) (x1) (h : Sound A s) : Sound A (alignUpdate s x1) := by
  simp [alignUpdate, h]
@[simp] theorem sound_rxStop (s : State) (x1) (h : Sound A s) : Sound A (rxStop s x1) := by
  simp [rxStop, h]
@[simp] theorem sound_linkUpdate (s : State) (x1) (h : Sound A s) : Sound A (linkUpdate s x1) := by
  simp [linkUpdate, h]

/-! ### MemOps -/

@[simp] theorem sound_setPage (s : State) (x1 x2 x3) (h : Sound A s) : Sound A (setPage s x1 x2 x3) := h
@[simp] theorem sound_noteUnc (s : State) (x1 x2) (h : Sound A s) : Sound A (noteUnc s x1 x2) := h
@[simp] theorem sound_encodePage (s : State) (x1 x2) (h : Sound A s) : Sound A (encodePage s x1 x2) := h
@[simp] theorem sound_showFlips (s : State) (x1 x2) (h : Sound A s) : Sound A (showFlips s x1 x2) := by
  unfold showFlips
  dsimp only
  split
  · exact meets_flips _ _ (meets_of_sound (sound_setPage _ _ _ _ h))
  · exact h
@[simp] theorem sound_unstage (s : State) (x1 x2) (h : Sound A s) : Sound A (unstage s x1 x2) := by
  simp [unstage, h]
@[simp] theorem sound_stage (s : State) (x1 x2 x3) (h : Sound A s) : Sound A (stage s x1 x2 x3) := by
  unfold stage
  dsimp only
  repeat' split
  all_goals simp (maxDischargeDepth := 40) [h]
@[simp] theorem sound_retirePage (s : State) (x1 x2) (h : Sound A s) : Sound A (retirePage s x1 x2) := by
  unfold retirePage
  dsimp only
  repeat' split
  all_goals simp (maxDischargeDepth := 40) [h]
@[simp] theorem sound_notePage (s : State) (x1 x2) (h : Sound A s) : Sound A (notePage s x1 x2) := by
  simp (maxDischargeDepth := 40) [notePage, h]
@[simp] theorem sound_pageUnc (s : State) (x1 x2 x3) (h : Sound A s) : Sound A (pageUnc s x1 x2 x3) := by
  simp (maxDischargeDepth := 40) [pageUnc, h]
@[simp] theorem sound_fetchPage (s : State) (x1 x2 x3) (h : Sound A s) : Sound A (fetchPage s x1 x2 x3).2 := by
  unfold fetchPage
  dsimp only
  repeat' split
  all_goals simp (maxDischargeDepth := 40) [h]
@[simp] theorem sound_upsetPage (s : State) (x1 x2 x3 x4) (h : Sound A s) : Sound A (upsetPage s x1 x2 x3 x4) := by
  simp [upsetPage, h]
@[simp] theorem sound_writeWholePage (s : State) (x1 x2 x3) (h : Sound A s) : Sound A (writeWholePage s x1 x2 x3) := by
  simp (maxDischargeDepth := 40) [writeWholePage, h]
@[simp] theorem sound_writePartPage (s : State) (x1 x2 x3 x4) (h : Sound A s) : Sound A (writePartPage s x1 x2 x3 x4).2 := by
  unfold writePartPage
  split <;> rename_i e <;> have hk := sound_eq2 e (sound_fetchPage _ _ _ _ h)
  · exact sound_stage _ _ _ _ (sound_writeBytes _ _ _ hk)
  · exact sound_bump _ _ _ hk
@[simp] theorem sound_repairRow (s : State) (x1 x2) (h : Sound A s) : Sound A (repairRow s x1 x2) := by
  simp (maxDischargeDepth := 40) [repairRow, h]
@[simp] theorem sound_correctWord (s : State) (x1) (h : Sound A s) : Sound A (correctWord s x1) := by
  simp (maxDischargeDepth := 40) [correctWord, h]
@[simp] theorem sound_wordUnc (s : State) (x1 x2) (h : Sound A s) : Sound A (wordUnc s x1 x2) := by
  simp (maxDischargeDepth := 40) [wordUnc, h]
@[simp] theorem sound_readWords (s : State) (x1) (h : Sound A s) : Sound A (readWords s x1).2 := by
  induction x1 generalizing s with
  | nil => exact h
  | cons w r ih =>
    unfold readWords
    split
    · exact ih s h
    · split
      · exact ih _ (sound_correctWord s w h)
      · exact sound_wordUnc s w _ h
@[simp] theorem sound_writeSram (s : State) (x1 x2) (h : Sound A s) : Sound A (writeSram s x1 x2).2 := by
  unfold writeSram
  split <;> rename_i e <;> have hk := sound_eq2 e (sound_readWords _ _ h)
  · exact sound_writeBytes _ _ _ hk
  · exact hk
@[simp] theorem sound_noteGate (s : State) (x1 x2) (h : Sound A s) : Sound A (noteGate s x1 x2) := by
  simp [noteGate, h]
@[simp] theorem sound_noteRefused (s : State) (x1 x2) (h : Sound A s) : Sound A (noteRefused s x1 x2) := by
  unfold noteRefused
  split <;> simp [h]
@[simp] theorem sound_readPiece (s : State) (x1 x2 x3) (h : Sound A s) : Sound A (readPiece s x1 x2 x3).2.2 := by
  unfold readPiece
  dsimp only
  split
  · exact sound_noteRefused _ _ _ h
  · split
    · split <;> rename_i e <;> exact sound_eq2 e (sound_fetchPage _ _ _ _ h)
    · split <;> rename_i e <;> exact sound_eq2 e (sound_readWords _ _ h)
@[simp] theorem sound_writePiece (s : State) (x1 x2 x3) (h : Sound A s) : Sound A (writePiece s x1 x2 x3).2 := by
  unfold writePiece
  dsimp only
  repeat' split
  all_goals simp (maxDischargeDepth := 40) [h]
@[simp] theorem sound_readPieces (s : State) (x1 x2) (h : Sound A s) : Sound A (readPieces s x1 x2).2.2 := by
  induction x2 generalizing s with
  | nil => exact h
  | cons e r ih =>
    obtain ⟨a, n⟩ := e
    unfold readPieces
    have hk := sound_readPiece s x1 a n h
    split <;> rename_i e <;> rw [e] at hk
    · exact ih _ hk
    · exact hk
@[simp] theorem sound_writePieces (s : State) (x1 x2 x3) (h : Sound A s) : Sound A (writePieces s x1 x2 x3).2.2 := by
  induction x3 generalizing s x2 with
  | nil => exact h
  | cons e r ih =>
    obtain ⟨a, n⟩ := e
    unfold writePieces
    have hk := sound_writePiece s x1 a (x2.take n) h
    split <;> rename_i e <;> rw [e] at hk
    · exact ih _ _ hk
    · exact hk
@[simp] theorem sound_memRead (s : State) (x1 x2 x3) (h : Sound A s) : Sound A (memRead s x1 x2 x3).2.2 := by
  simp [memRead, h]
@[simp] theorem sound_memWrite (s : State) (x1 x2 x3) (h : Sound A s) : Sound A (memWrite s x1 x2 x3).2.2 := by
  simp [memWrite, h]
@[simp] theorem sound_memAtomic (s : State) (x1 x2 x3 x4 x5 x6) (h : Sound A s) : Sound A (memAtomic s x1 x2 x3 x4 x5 x6).2.2 := by
  unfold memAtomic
  dsimp only
  split
  · exact sound_noteRefused _ _ _ h
  · split
    · split <;> rename_i e <;> have hk := sound_eq2 e (sound_fetchPage _ _ _ _ h)
      · exact sound_stage _ _ _ _ (sound_writeBytes _ _ _ hk)
      · exact sound_bump _ _ _ hk
    · split <;> rename_i e <;> have hk := sound_eq2 e (sound_readWords _ _ h)
      · exact sound_writeBytes _ _ _ hk
      · exact hk

/-! ### BhOps -/

@[simp] theorem sound_ringCount (s : State) (x1 x2) (h : Sound A s) : Sound A (ringCount s x1 x2) := by
  simp [ringCount, h]
@[simp] theorem sound_ringEmpty (s : State) (x1 x2) (h : Sound A s) : Sound A (ringEmpty s x1 x2) := by
  unfold ringEmpty
  dsimp only
  repeat' split
  all_goals simp (maxDischargeDepth := 40) [h]
@[simp] theorem sound_takeBuffer (s : State) (x1 x2) (h : Sound A s) : Sound A (takeBuffer s x1 x2).2 := by
  unfold takeBuffer
  dsimp only
  split
  · exact h
  · split
    · exact h
    · split <;> rename_i e
      · exact sound_setRing _ _ _ (sound_eq22 e (sound_memRead _ _ _ _ h))
      · exact sound_eq22 e (sound_memRead _ _ _ _ h)
@[simp] theorem sound_deliverFrame (s : State) (x1 x2 x3 x4) (h : Sound A s) : Sound A (deliverFrame s x1 x2 x3 x4) := by
  unfold deliverFrame
  split <;> rename_i e <;> have hb := sound_eq2 e (sound_takeBuffer _ _ _ h)
  · exact sound_ringEmpty _ _ _ hb
  · split
    · exact sound_ringCount _ _ _ (sound_setRing _ _ _ hb)
    · split
      rename_i e
      have hw := sound_eq22 e (sound_memWrite _ _ _ _ hb)
      split <;> rename_i e
      · exact sound_eq21 e (sound_enqueueExt _ _ _ hw)
      · exact sound_setRing _ _ _ (sound_eq21 e (sound_enqueueExt _ _ _ hw))
@[simp] theorem sound_tmDrop (s : State) (h : Sound A s) : Sound A (tmDrop s) := by
  simp [tmDrop, h]
@[simp] theorem sound_sendPtp (s : State) (x1 x2) (h : Sound A s) : Sound A (sendPtp s x1 x2) := by
  simp [sendPtp, h]
@[simp] theorem sound_forwardPtp (s : State) (x1 x2 x3 x4) (h : Sound A s) : Sound A (forwardPtp s x1 x2 x3 x4) := by
  unfold forwardPtp
  repeat' split
  all_goals simp (maxDischargeDepth := 40) [h]
@[simp] theorem sound_ptpIn (s : State) (x1 x2 x3) (h : Sound A s) : Sound A (ptpIn s x1 x2 x3) := by
  simp +contextual (maxDischargeDepth := 40) [ptpIn, h]
@[simp] theorem sound_emitPtp (s : State) (x1 x2 x3) (h : Sound A s) : Sound A (emitPtp s x1 x2 x3).2 := by
  unfold emitPtp
  dsimp only
  split <;> simp [h]
@[simp] theorem sound_notePn (s : State) (x1 x2 x3) (h : Sound A s) : Sound A (notePn s x1 x2 x3) := by
  simp [notePn, h]

/-! ### Backhaul -/

@[simp] theorem sound_macsecRx (s : State) (x1 x2) (h : Sound A s) : Sound A (macsecRx s x1 x2).2 := by
  unfold macsecRx
  dsimp only
  repeat' split
  all_goals simp (maxDischargeDepth := 40) [h]
@[simp] theorem sound_bhDeliver (s : State) (x1 x2 x3) (h : Sound A s) : Sound A (bhDeliver s x1 x2 x3) := by
  unfold bhDeliver
  repeat' split
  all_goals simp (maxDischargeDepth := 40) [h]
@[simp] theorem sound_execBhTxTailWrite (s : State) (x0 x1 x2) (h : Sound A s) : SoundRes A (execBhTxTailWrite x0 x1 x2 s) := by
  simp [execBhTxTailWrite, h]
@[simp] theorem sound_protect (s : State) (x1 x2 x3) (h : Sound A s) : Sound A (protect s x1 x2 x3).2.2 := by
  unfold protect
  dsimp only
  repeat' split
  all_goals simp (maxDischargeDepth := 40) [h]
@[simp] theorem sound_sendFrame (s : State) (x1 x2) (h : Sound A s) : Sound A (sendFrame s x1 x2) := by
  simp [sendFrame, h]
@[simp] theorem sound_txStatus (s : State) (x1 x2 x3) (h : Sound A s) : Sound A (txStatus s x1 x2 x3).2.2 := by
  unfold txStatus
  dsimp only
  split
  · exact h
  · split <;> rename_i e <;> have hr := sound_eq22 e (sound_memRead _ _ _ _ h)
    · have hp := fun bs => sound_protect _ x1 (fld (ofLe (List.take 1 (List.drop 8 x3))) 3 3) bs hr
      split
      · split
        · exact sound_sendFrame _ _ _ (hp _)
        · exact hp _
      · exact sound_sendFrame _ _ _ hr
    · exact hr
@[simp] theorem sound_txComplete (s : State) (x1 x2 x3 x4 x5 x6) (h : Sound A s) : Sound A (txComplete s x1 x2 x3 x4 x5 x6) := by
  simp (maxDischargeDepth := 40) [txComplete, h]
@[simp] theorem sound_sendPtpFrame (s : State) (x1 x2) (h : Sound A s) : Sound A (sendPtpFrame s x1 x2) := by
  have hp := sound_emitPtp s x2 (32 + x1) (s.now + latTx s x1) h
  unfold sendPtpFrame
  dsimp only
  split
  · split <;> rename_i e
    · exact sound_sendFrame _ _ _ (sound_eq22 e (sound_protect _ _ _ _ hp))
    · exact sound_tmDrop _ (sound_protect _ _ _ _ h)
  · exact sound_sendFrame _ _ _ hp
@[simp] theorem sound_execBhRuleWrite (s : State) (x0 x1 x2 x3) (h : Sound A s) : SoundRes A (execBhRuleWrite x0 x1 x2 x3 s) := by
  simp [execBhRuleWrite, h]
@[simp] theorem sound_execBhFlowWrite (s : State) (x0 x1 x2 x3) (h : Sound A s) : SoundRes A (execBhFlowWrite x0 x1 x2 x3 s) := by
  simp [execBhFlowWrite, h]

/-! ### PwrOps -/

@[simp] theorem sound_noteRefusal (s : State) (x1 x2 x3 x4) (h : Sound A s) : Sound A (noteRefusal s x1 x2 x3 x4) := by
  simp (maxDischargeDepth := 40) [noteRefusal, h]
@[simp] theorem sound_noteOther (s : State) (x1 x2 x3) (h : Sound A s) : Sound A (noteOther s x1 x2 x3) := by
  simp [noteOther, h]
@[simp] theorem sound_withdrawSet (s : State) (x1 x2) (h : Sound A s) : Sound A (withdrawSet s x1 x2) := by
  unfold withdrawSet
  split <;> simp (maxDischargeDepth := 40) [h]
@[simp] theorem sound_wakeReq (s : State) (x1 x2 x3) (h : Sound A s) : Sound A (wakeReq s x1 x2 x3) := by
  unfold wakeReq
  dsimp only
  repeat' split
  all_goals simp (maxDischargeDepth := 40) [h]
@[simp] theorem sound_signalCore (s : State) (x1) (h : Sound A s) : Sound A (signalCore s x1) := by
  unfold signalCore
  repeat' split
  all_goals simp (maxDischargeDepth := 40) [h]
@[simp] theorem sound_setIp (s : State) (x1 x2) (h : Sound A s) : Sound A (setIp s x1 x2) := by
  simp [setIp, h]
@[simp] theorem sound_abortCore (s : State) (x1 x2) (h : Sound A s) : Sound A (abortCore s x1 x2) := by
  simp [abortCore, h]
@[simp] theorem sound_abortItem (s : State) (x1 x2) (h : Sound A s) : Sound A (abortItem s x1 x2) := by
  unfold abortItem
  split <;> simp (maxDischargeDepth := 40) [h]

/-! ### TickOps -/

@[simp] theorem sound_addWin (s : State) (x1 x2) (h : Sound A s) : Sound A (addWin s x1 x2) := h
@[simp] theorem sound_inject (s : State) (x1 x2 x3 x4 x5 x6) (h : Sound A s) : Sound A (inject s x1 x2 x3 x4 x5 x6) := by
  induction x6 generalizing s x3 x4 x5 with
  | zero => exact h
  | succ k ih =>
    unfold inject
    dsimp only
    have hk := sound_enqueue s x1 (triggerItem (absTick s) x3 x2 x4) h
    repeat' split
    all_goals rename_i e; try rw [‹enqueue _ _ _ = _›] at hk
    all_goals simp at hk
    all_goals simp (maxDischargeDepth := 40) [hk, ih]
@[simp] theorem sound_capCheck (s : State) (x1) (h : Sound A s) : Sound A (capCheck s x1) := by
  simp [capCheck, h]
@[simp] theorem sound_planIdx (s : State) (x1) (h : Sound A s) : Sound A (planIdx s x1) := by
  unfold planIdx
  dsimp only
  split <;> simp [h]
@[simp] theorem sound_settleSwitch (s : State) (x1) (h : Sound A s) : Sound A (settleSwitch s x1) := by
  unfold settleSwitch
  dsimp only
  repeat' split
  all_goals simp (maxDischargeDepth := 40) [h]
@[simp] theorem sound_loseTrigger (s : State) (x1) (h : Sound A s) : Sound A (loseTrigger s x1) := by
  unfold loseTrigger
  dsimp only
  repeat' split
  all_goals simp (maxDischargeDepth := 40) [h]
@[simp] theorem sound_removeWin (s : State) (x1 x2) (h : Sound A s) : Sound A (removeWin s x1 x2) := h
@[simp] theorem sound_overrun (s : State) (x1 x2) (h : Sound A s) : Sound A (overrun s x1 x2) := by
  unfold overrun
  repeat' split
  all_goals simp (maxDischargeDepth := 40) [h]
@[simp] theorem sound_escDrop (s : State) (x1 x2) (h : Sound A s) : Sound A (escDrop s x1 x2) := by
  unfold escDrop
  split <;> simp (maxDischargeDepth := 40) [h]
@[simp] theorem sound_settleWins (s : State) (x1 x2) (h : Sound A s) : Sound A (settleWins s x1 x2) := by
  induction x2 generalizing s with
  | zero => exact h
  | succ k ih =>
    unfold settleWins
    split
    · exact ih _ (sound_overrun _ _ _ h)
    · split
      · exact ih _ (sound_escDrop _ _ _ h)
      · exact h
@[simp] theorem sound_settleItem (s : State) (x1 x2) (h : Sound A s) : Sound A (settleItem s x1 x2) := by
  simp [settleItem, h]

/-! ### NocOps -/

@[simp] theorem sound_addPkt (s : State) (x1) (h : Sound A s) : Sound A (addPkt s x1) := h
@[simp] theorem sound_dropPkt (s : State) (x1) (h : Sound A s) : Sound A (dropPkt s x1) := h
@[simp] theorem sound_countMove (s : State) (x1 x2) (h : Sound A s) : Sound A (countMove s x1 x2) := by
  simp [countMove, h]
@[simp] theorem sound_launch (s : State) (x1 x2) (h : Sound A s) : Sound A (launch s x1 x2) := h
@[simp] theorem sound_pumpCls (s : State) (x1 x2 x3) (h : Sound A s) : Sound A (pumpCls s x1 x2 x3) := by
  induction x3 generalizing s with
  | zero => exact h
  | succ k ih =>
    unfold pumpCls
    split
    · exact h
    · split
      · exact ih _ (sound_launch _ _ _ h)
      · dsimp only
        split
        · exact sound_setPort _ _ _ h
        · exact h
@[simp] theorem sound_pump (s : State) (x1) (h : Sound A s) : Sound A (pump s x1) := by
  unfold pump
  refine sound_foldl (fun s c => pumpCls s x1 c (getPort s x1).wait.length) ?_ [1, 3, 0, 2] _ ?_
  · intro t c ht
    exact sound_pumpCls t x1 c _ ht
  · exact sound_setPort _ _ _ h
@[simp] theorem sound_sendPkt (s : State) (x1 x2) (h : Sound A s) : Sound A (sendPkt s x1 x2) := by
  simp [sendPkt, h]
@[simp] theorem sound_sendRsp (s : State) (x1 x2 x3 x4 x5) (h : Sound A s) : Sound A (sendRsp s x1 x2 x3 x4 x5) := by
  simp [sendRsp, h]
@[simp] theorem sound_refusePkt (s : State) (x1 x2) (h : Sound A s) : Sound A (refusePkt s x1 x2) := by
  simp [refusePkt, h]
@[simp] theorem sound_stationAnswer (s : State) (x1 x2) (h : Sound A s) : Sound A (stationAnswer s x1 x2) := h
@[simp] theorem sound_atDownBundle (s : State) (x1 x2) (h : Sound A s) : Sound A (atDownBundle s x1 x2) := by
  simp (maxDischargeDepth := 40) [atDownBundle, h]
@[simp] theorem sound_atClosedGate (s : State) (x1 x2) (h : Sound A s) : Sound A (atClosedGate s x1 x2) := by
  simp (maxDischargeDepth := 40) [atClosedGate, h]
@[simp] theorem sound_arrive (s : State) (x1 x2 x3 x4) (g : State → Pkt → State) (hg : ∀ t a, Sound A t → Sound A (g t a))
    (h : Sound A s) : Sound A (arrive s x1 x2 x3 x4 g) := by
  unfold arrive
  repeat' split
  all_goals simp (maxDischargeDepth := 40) [h, hg]
@[simp] theorem sound_signalDma (s : State) (x1) (h : Sound A s) : Sound A (signalDma s x1) := by
  simp [signalDma, h]
@[simp] theorem sound_dmaRefused (s : State) (x1 x2) (h : Sound A s) : Sound A (dmaRefused s x1 x2) := by
  simp [dmaRefused, h]
@[simp] theorem sound_answerAgent (s : State) (x1 x2) (h : Sound A s) : Sound A (answerAgent s x1 x2) := by
  unfold answerAgent
  repeat' split
  all_goals simp (maxDischargeDepth := 40) [h]
@[simp] theorem sound_handAnswer (s : State) (x1) (h : Sound A s) : Sound A (handAnswer s x1) := by
  unfold handAnswer
  dsimp only
  split <;> simp [h]
@[simp] theorem sound_dropAgent (s : State) (x1 x2) (h : Sound A s) : Sound A (dropAgent s x1 x2) := h
@[simp] theorem sound_steer (s : State) (x1 x2 x3 x4 x5) (h : Sound A s) : Sound A (steer s x1 x2 x3 x4 x5) := by
  simp +contextual (maxDischargeDepth := 40) [steer, h]
@[simp] theorem sound_adjustRoutes (s : State) (x1) (h : Sound A s) : Sound A (adjustRoutes s x1) := by
  simp +contextual (maxDischargeDepth := 40) [adjustRoutes, h]
@[simp] theorem sound_planMove (s : State) (h : Sound A s) : Sound A (planMove s) := by
  simp +contextual (maxDischargeDepth := 40) [planMove, h]
@[simp] theorem sound_linkEvt (s : State) (x1 x2 x3) (h : Sound A s) : Sound A (linkEvt s x1 x2 x3) := by
  simp [linkEvt, h]
@[simp] theorem sound_bundleDown (s : State) (x1 x2) (h : Sound A s) : Sound A (bundleDown s x1 x2) := by
  simp +contextual (maxDischargeDepth := 40) [bundleDown, h]
@[simp] theorem sound_reinject (s : State) (x1 x2) (h : Sound A s) : Sound A (reinject s x1 x2) := h
@[simp] theorem sound_epochGo (s : State) (x1) (h : Sound A s) : Sound A (epochGo s x1) := by
  simp +contextual (maxDischargeDepth := 40) [epochGo, h]

/-! ### FaultOps -/

@[simp] theorem sound_moduleStop (s : State) (h : Sound A s) : Sound A (moduleStop s) := h

/-! ### TimeUnit -/

@[simp] theorem sound_setTm (s : State) (x1) (h : Sound A s) : Sound A (setTm s x1) := h
@[simp] theorem sound_setPhase (s : State) (x1) (h : Sound A s) : Sound A (setPhase s x1) := by
  simp [setPhase, h]
@[simp] theorem sound_phaseMeas (s : State) (x1 x2) (h : Sound A s) : Sound A (phaseMeas s x1 x2) := by
  simp [phaseMeas, h]
@[simp] theorem sound_setOwn (s : State) (x1) (h : Sound A s) : Sound A (setOwn s x1) := h
@[simp] theorem sound_ownPhase (s : State) (h : Sound A s) : Sound A (ownPhase s) := by
  unfold ownPhase
  split <;> simp [h]
@[simp] theorem sound_ownSync (s : State) (x1 x2) (h : Sound A s) : Sound A (ownSync s x1 x2) := by
  simp [ownSync, h]
@[simp] theorem sound_ownMsg (s : State) (x1 x2 x3) (h : Sound A s) : Sound A (ownMsg s x1 x2 x3) := by
  unfold ownMsg
  dsimp only
  repeat' split
  all_goals simp (maxDischargeDepth := 40) [h]
@[simp] theorem sound_dropHeld (s : State) (x1) (h : Sound A s) : Sound A (dropHeld s x1) := h
@[simp] theorem sound_execTmSnap (s : State) (x0) (h : Sound A s) : SoundRes A (execTmSnap x0 s) := by
  unfold execTmSnap
  split <;> simp [h]
@[simp] theorem sound_failOsc (s : State) (x1) (h : Sound A s) : Sound A (failOsc s x1) := by
  simp (maxDischargeDepth := 40) [failOsc, h]
@[simp] theorem sound_tmState (s : State) (x1 x2) (h : Sound A s) : Sound A (tmState s x1 x2) := by
  simp [tmState, h]
@[simp] theorem sound_refLost (s : State) (x1) (h : Sound A s) : Sound A (refLost s x1) := by
  simp [refLost, h]

/-! ### SymOps -/

@[simp] theorem sound_setStream (s : State) (x1 x2 x3) (h : Sound A s) : Sound A (setStream s x1 x2 x3) := h

/-! ### GainOps -/

@[simp] theorem sound_gcMeasure (s : State) (x1 x2 x3 x4 x5 x6) (h : Sound A s) : Sound A (gcMeasure s x1 x2 x3 x4 x5 x6) := by
  unfold gcMeasure
  split <;> simp [h]
@[simp] theorem sound_issueCmd (s : State) (x1 x2 x3 x4) (h : Sound A s) : Sound A (issueCmd s x1 x2 x3 x4) := by
  unfold issueCmd
  dsimp only
  refine sound_updGrp _ _ _ (sound_foldl_fst _ (fun r e hr => ?_) _ _ h)
  exact sound_updFh _ _ _ hr
@[simp] theorem sound_gcTick (s : State) (h : Sound A s) : Sound A (gcTick s) := h
@[simp] theorem sound_gainReport (s : State) (x1 x2) (h : Sound A s) : Sound A (gainReport s x1 x2) := by
  simp [gainReport, h]
@[simp] theorem sound_loseOcc (s : State) (x1 x2) (h : Sound A s) : Sound A (loseOcc s x1 x2) := by
  simp [loseOcc, h]
@[simp] theorem sound_nsLoss (s : State) (x1 x2 x3 x4) (h : Sound A s) : Sound A (nsLoss s x1 x2 x3 x4) := by
  unfold nsLoss
  repeat' split
  all_goals simp +contextual (maxDischargeDepth := 40) [h]
@[simp] theorem sound_nsWrite (s : State) (x1 x2) (h : Sound A s) : Sound A (nsWrite s x1 x2) := by
  simp (maxDischargeDepth := 40) [nsWrite, h]

/-! ### FrameOps -/

@[simp] theorem sound_protEvt (s : State) (x1 x2 x3 x4 x5 x6) (h : Sound A s) : Sound A (protEvt s x1 x2 x3 x4 x5 x6) := by
  simp [protEvt, h]
@[simp] theorem sound_modeCheck (s : State) (x1 x2) (h : Sound A s) : Sound A (modeCheck s x1 x2) := by
  unfold modeCheck
  dsimp only
  split <;> simp [h]
@[simp] theorem sound_egAccept (s : State) (x1 x2) (h : Sound A s) : Sound A (egAccept s x1 x2) := by
  simp [egAccept, h]
@[simp] theorem sound_egRefill (s : State) (x1 x2) (h : Sound A s) : Sound A (egRefill s x1 x2) := by
  induction x2 generalizing s with
  | zero => exact h
  | succ k ih =>
    unfold egRefill
    dsimp only
    split
    · exact h
    · split
      · exact ih _ (by simp (maxDischargeDepth := 40) [h])
      · exact h
@[simp] theorem sound_pktDeliver (s : State) (x1 x2 x3) (h : Sound A s) : Sound A (pktDeliver s x1 x2 x3) := by
  unfold pktDeliver
  split <;> simp [h]
@[simp] theorem sound_pktChunk (s : State) (x1 x2 x3) (h : Sound A s) : Sound A (pktChunk s x1 x2 x3) := by
  unfold pktChunk
  dsimp only
  repeat' split
  all_goals simp (maxDischargeDepth := 40) [h]
@[simp] theorem sound_pktBreak (s : State) (x1) (h : Sound A s) : Sound A (pktBreak s x1) := by
  simp [pktBreak, h]
@[simp] theorem sound_writeRecs (s : State) (x1 x2 x3 x4 x5 x6) (h : Sound A s) : Sound A (writeRecs s x1 x2 x3 x4 x5 x6) := by
  induction x6 generalizing s with
  | nil => exact h
  | cons e l ih =>
    obtain ⟨j, r⟩ := e
    unfold writeRecs
    dsimp only
    exact ih _ (by split <;> simp (maxDischargeDepth := 40) [h])
@[simp] theorem sound_takeSection (s : State) (x1 x2 x3 x4 x5) (h : Sound A s) : Sound A (takeSection s x1 x2 x3 x4 x5) := by
  simp (maxDischargeDepth := 40) [takeSection, h]
@[simp] theorem sound_takeSections (s : State) (x1 x2 x3 x4 x5) (h : Sound A s) : Sound A (takeSections s x1 x2 x3 x4 x5) := by
  induction x5 generalizing s x4 with
  | nil => exact h
  | cons b r ih => exact ih _ _ (sound_takeSection _ _ _ _ _ _ h)

/-! ### RegRead -/

@[simp] theorem sound_clearAt (s : State) (x1 x2) (h : Sound A s) : Sound A (clearAt s x1 x2) := by
  unfold clearAt
  split
  · exact sound_ctrSet_zero s _ _ h
  · exact h
@[simp] theorem sound_readWordsOf (s : State) (x1 x2) (h : Sound A s) : Sound A (readWordsOf s x1 x2).2 := by
  induction x2 generalizing s with
  | nil => exact h
  | cons o r ih =>
    unfold readWordsOf
    dsimp only
    split
    · exact ih _ h
    · exact ih _ (sound_takeFree _ _ h)
@[simp] theorem sound_regRead (s : State) (x1 x2 x3 x4) (h : Sound A s) : Sound A (regRead s x1 x2 x3 x4).2.2 := by
  unfold regRead
  split
  · exact h
  · split
    · exact h
    · split <;> rename_i e <;> have hk := sound_eq2 e (sound_readWords _ _ h)
      · exact hk
      · exact sound_foldl _ (fun t c ht => sound_clearAt t _ c ht) _ _ (sound_readWordsOf _ _ _ hk)
@[simp] theorem sound_spaceRead (s : State) (x1 x2 x3) (h : Sound A s) : Sound A (spaceRead s x1 x2 x3).2.2 := by
  unfold spaceRead
  dsimp only
  repeat' split
  all_goals simp (maxDischargeDepth := 40) [h]

/-! ### CoreOps -/

@[simp] theorem sound_scrambleK (s : State) (x1) (h : Sound A s) : Sound A (scrambleK s x1) := meets_fresh 16 h
@[simp] theorem sound_dropLock (s : State) (x1) (h : Sound A s) : Sound A (dropLock s x1) := by
  simp [dropLock, h]
@[simp] theorem sound_withdrawRlock (s : State) (x1) (h : Sound A s) : Sound A (withdrawRlock s x1) := h
@[simp] theorem sound_killYounger (s : State) (x1) (h : Sound A s) : Sound A (killYounger s x1) := by
  simp [killYounger, h]
@[simp] theorem sound_releaseLock (s : State) (x1) (h : Sound A s) : Sound A (releaseLock s x1) := by
  simp [releaseLock, h]
@[simp] theorem sound_takeException (s : State) (x1 x2 x3 x4) (h : Sound A s) : Sound A (takeException s x1 x2 x3 x4) := by
  simp [takeException, h]
@[simp] theorem sound_cleanLine (s : State) (x1 x2) (h : Sound A s) : Sound A (cleanLine s x1 x2) := by
  unfold cleanLine
  dsimp only
  split <;> simp [h]
@[simp] theorem sound_discardLine (s : State) (x1 x2) (h : Sound A s) : Sound A (discardLine s x1 x2) := h
@[simp] theorem sound_evictFor (s : State) (x1) (h : Sound A s) : Sound A (evictFor s x1) := by
  unfold evictFor
  dsimp only
  repeat' split
  all_goals simp (maxDischargeDepth := 40) [h]
@[simp] theorem sound_clearWords (s : State) (x1) (h : Sound A s) : Sound A (clearWords s x1) := h
@[simp] theorem sound_holdLine (s : State) (x1 x2 x3) (h : Sound A s) : Sound A (holdLine s x1 x2 x3).2 := by
  have hk := sound_evictFor s x1 h
  unfold holdLine clearWords
  exact hk
@[simp] theorem sound_fillLine (s : State) (x1 x2) (h : Sound A s) : Sound A (fillLine s x1 x2).2.2 := by
  have hk := sound_memRead s (corePart s x1) (x2 / 64 * 64) 64 h
  unfold fillLine
  split <;> rename_i e <;> rw [e] at hk
  · exact sound_holdLine _ _ _ _ hk
  · exact hk
@[simp] theorem sound_cacheLine (s : State) (x1 x2 x3 x4) (h : Sound A s) : Sound A (cacheLine s x1 x2 x3 x4).2.2 := by
  unfold cacheLine
  dsimp only
  split
  · rename_i e _
    generalize (if e.2.core != x1 then _ else _ : List Nat) = ws
    have hk := sound_readWords s ws h
    split
    · exact h
    · split
      · exact sound_fillLine _ _ _ (sound_bump _ _ _ (sound_clearWords _ _ h))
      · split <;> rename_i w <;> rw [w] at hk
        · split
          · exact hk
          · exact sound_holdLine _ _ _ _ hk
        · exact hk
  · exact sound_fillLine _ _ _ h
@[simp] theorem sound_walk (s : State) (x1 x2 x3 x4) (h : Sound A s) : Sound A (walk s x1 x2 x3 x4).2 := by
  induction x4 generalizing s x3 with
  | zero => exact h
  | succ k ih =>
    unfold walk
    have hk := sound_cacheLine s x1 (x3 + 8 * fld x2 (12 + 9 * k) 9) 8 false h
    dsimp only
    split <;> rename_i e <;> rw [e] at hk
    · split
      · exact hk
      · split
        · split <;> exact hk
        · exact ih _ _ hk
    · exact hk
@[simp] theorem sound_translate (s : State) (x1 x2 x3) (h : Sound A s) : Sound A (translate s x1 x2 x3).2 := by
  have hk := sound_walk s x1 x2 (fld (getCore s x1).ptbr.toNat 12 36 * 4096) 4 h
  unfold translate
  dsimp only
  generalize walk s x1 x2 (fld (getCore s x1).ptbr.toNat 12 36 * 4096) 4 = w at hk ⊢
  obtain ⟨w, t⟩ := w
  split
  · exact h
  · by_cases hc : fld x2 48 16 ≠ (if bit x2 47 then 0xFFFF else 0)
    · rw [if_pos hc]; exact h
    · rw [if_neg hc]
      split
      · rename_i e
        split at e
        · cases e
        · cases w with
          | error x => cases e; exact hk
          | ok x => cases e
      · rename_i u e
        have hu : Sound A u := by
          split at e
          · cases e; exact h
          · cases w with
            | error x => cases e
            | ok x => cases e; exact sound_updCore _ _ _ hk
        split
        · exact hu
        · exact hu
@[simp] theorem sound_physRead (s : State) (x1 x2 x3 x4) (h : Sound A s) : Sound A (physRead s x1 x2 x3 x4).2.2 := by
  unfold physRead
  split
  · exact sound_spaceRead _ _ _ _ h
  · split
    · have hk := sound_cacheLine s x1 x2 x3 false h
      split <;> rename_i e <;> rw [e] at hk <;> exact hk
    · exact sound_memRead _ _ _ _ h
@[simp] theorem sound_coreLoad (s : State) (x1 x2 x3 x4) (h : Sound A s) : Sound A (coreLoad s x1 x2 x3 x4).state := by
  unfold coreLoad
  dsimp only
  split
  · exact h
  · split <;> rename_i e <;> have ht := sound_eq2 e (sound_translate _ _ _ _ h)
    · exact ht
    · exact ht
    · split
      · exact ht
      · split <;> rename_i e <;> exact sound_eq22 e (sound_physRead _ _ _ _ _ ht)
@[simp] theorem sound_storeCheck (s : State) (x1 x2 x3 x4) (h : Sound A s) : Sound A (storeCheck s x1 x2 x3 x4).2 := by
  unfold storeCheck
  split
  · exact h
  · split <;> rename_i e <;> have ht := sound_eq2 e (sound_translate _ _ _ _ h)
    · exact ht
    · exact ht
    · split <;> exact ht
@[simp] theorem sound_devStore (s : State) (x1 x2 x3) (h : Sound A s) : Sound A (devStore s x1 x2 x3).2 := by
  unfold devStore
  extract_lets s1
  have hd : Sound A s1 := h
  clear_value s1
  split
  · exact hd
  · dsimp only
    exact sound_sendPkt s1 _ _ hd
@[simp] theorem sound_physStore (s : State) (x1 x2 x3 x4) (h : Sound A s) : Sound A (physStore s x1 x2 x3 x4).2 := by
  unfold physStore
  split
  · exact sound_devStore _ _ _ _ h
  · split
    · have hk := sound_cacheLine s x1 x2 x4.length true h
      split <;> rename_i e <;> rw [e] at hk <;> exact hk
    · exact sound_memWrite _ _ _ _ h
@[simp] theorem sound_noteStoreErr (s : State) (x1 x2 x3) (h : Sound A s) : Sound A (noteStoreErr s x1 x2 x3) := by
  simp [noteStoreErr, h]
@[simp] theorem sound_physWrite (s : State) (x1 x2 x3 x4 x5) (h : Sound A s) : Sound A (physWrite s x1 x2 x3 x4 x5) := by
  unfold physWrite
  exact sound_noteStoreErr _ _ _ _ (sound_physStore _ _ _ _ _ h)
@[simp] theorem sound_coreStore (s : State) (x1 x2 x3 x4) (h : Sound A s) : Sound A (coreStore s x1 x2 x3 x4).state := by
  unfold coreStore
  split <;> rename_i e <;> have hc := sound_eq2 e (sound_storeCheck _ _ _ _ _ h)
  · exact hc
  · exact sound_physWrite _ _ _ _ _ _ hc
@[simp] theorem sound_fetchCheck (s : State) (x1) (h : Sound A s) : Sound A (fetchCheck s x1).2 := by
  have hk := sound_translate s x1 (getCore s x1).pc.toNat .fetch h
  unfold fetchCheck
  dsimp only
  split <;> rename_i e <;> rw [e] at hk
  · exact hk
  · exact hk
  · split
    · exact hk
    · split
      · exact hk
      · rename_i s' _ _
        split <;> rename_i e' <;> exact sound_eq22 e' (sound_physRead s' x1 _ 4 _ hk)
@[simp] theorem sound_retire (s : State) (x1 x2) (h : Sound A s) : Sound A (retire s x1 x2) := h
@[simp] theorem sound_goTo (s : State) (x1 x2) (h : Sound A s) : Sound A (goTo s x1 x2) := h
@[simp] theorem sound_instr (s : State) (x1 x2 x3 x4 x5) (body : State → IRes) (hb : ∀ t, Sound A t → Sound A (body t).state)
    (h : Sound A s) : Sound A (instr s x1 x2 x3 x4 x5 body) := by
  unfold instr
  have hf := sound_fetchCheck s x1 h
  dsimp only
  split
  · exact h
  · split <;> rename_i s' e <;> rw [e] at hf
    · exact sound_takeException _ _ _ _ _ hf
    · split
      · exact sound_takeException _ _ _ _ _ hf
      · split
        · exact sound_takeException _ _ _ _ _ hf
        · split
          · exact sound_takeException _ _ _ _ _ (sound_takeFree _ _ hf)
          · have hk := hb s' hf
            split <;> rename_i e <;> rw [e] at hk
            · exact sound_takeException _ _ _ _ _ hk
            · exact hk
            · exact sound_goTo _ _ _ hk
            · exact sound_retire _ _ _ hk

/-! ### HarzarScalar -/

@[simp] theorem sound_illegalWord (s : State) (x1 x2) (h : Sound A s) : Sound A (illegalWord s x1 x2) := by
  simp [illegalWord, h]
@[simp] theorem sound_atomicBody (s : State) (x1 x2 x3 x4 x5 x6) (h : Sound A s) : Sound A (atomicBody s x1 x2 x3 x4 x5 x6).state := by
  unfold atomicBody
  dsimp only
  split <;> rename_i e <;> have hc := sound_eq2 e (sound_storeCheck _ _ _ _ _ h)
  · exact hc
  · split
    · exact hc
    · split <;> rename_i e <;> have hm := sound_eq22 e (sound_memAtomic _ _ _ _ _ _ _
        (sound_if (sound_discardLine _ _ _ (sound_cleanLine _ _ _ hc)) hc))
      · exact hm
      · exact hm

/-! ### HarzarSystem -/

@[simp] theorem sound_takeAbort (s : State) (x1 x2 x3) (h : Sound A s) : Sound A (takeAbort s x1 x2 x3) := by
  simp [takeAbort, h]
@[simp] theorem sound_checkVotes (s : State) (x1) (h : Sound A s) : Sound A (checkVotes s x1) := by
  unfold checkVotes
  split <;> simp [h]
@[simp] theorem sound_completeWait (s : State) (x1 x2 x3) (h : Sound A s) : Sound A (completeWait s x1 x2 x3) := h
@[simp] theorem sound_waitBody (s : State) (x1) (h : Sound A s) : Sound A (waitBody s x1).state := by
  unfold waitBody
  dsimp only
  repeat' split
  all_goals simp (maxDischargeDepth := 40) [h]
@[simp] theorem sound_srRead (s : State) (x1 x2) (h : Sound A s) : Sound A (srRead s x1 x2).2 := by
  unfold srRead
  split <;> simp [h]
@[simp] theorem sound_srInstr (s : State) (x1 x2 x3 x4 x5 x6 x7 x8) (h : Sound A s) : Sound A (srInstr s x1 x2 x3 x4 x5 x6 x7 x8) := by
  simp +contextual (maxDischargeDepth := 40) [srInstr, h]
@[simp] theorem sound_cacheable (s : State) (x1 x2) (h : Sound A s) : Sound A (cacheable s x1 x2).2 := by
  unfold cacheable
  split <;> rename_i e <;> exact sound_eq2 e (sound_translate _ _ _ _ h)
@[simp] theorem sound_lineOp (s : State) (x1 x2) (g : State → Nat → State) (hg : ∀ t a, Sound A t → Sound A (g t a))
    (h : Sound A s) : Sound A (lineOp s x1 x2 g).state := by
  have hk := sound_cacheable s x1 (gRead (getCore s x1) x2.toNat) h
  unfold lineOp
  split <;> rename_i e <;> rw [e] at hk
  · exact hg _ _ hk
  · exact hk

/-! ### DmaOps -/

@[simp] theorem sound_takeSeq (s : State) (x1) (h : Sound A s) : Sound A (takeSeq s x1) := h
@[simp] theorem sound_dmaRead (s : State) (x1 x2) (h : Sound A s) : Sound A (dmaRead s x1 x2).2 := by
  induction x2 generalizing s with
  | nil => exact h
  | cons e r ih =>
    obtain ⟨a, n⟩ := e
    unfold dmaRead
    have hs := sound_takeSeq s (dmaPort x1) h
    dsimp only
    generalize hw : (if dmaCut (takeSeq s (dmaPort x1)) x1 a then (4, [], takeSeq s (dmaPort x1)) else if targetOf a = .regs then
      spaceRead (takeSeq s (dmaPort x1)) (some (dmaPart s x1)) a n else memRead (takeSeq s (dmaPort x1)) (some (dmaPart s x1)) a n : Nat × List Byte × State) = w
    have hk : Sound A w.2.2 := by
      subst hw
      split
      · exact hs
      · split
        · exact sound_spaceRead _ _ _ _ hs
        · exact sound_memRead _ _ _ _ hs
    obtain ⟨st, bs, t⟩ := w
    dsimp only
    split
    · exact hk
    · exact ih t hk
@[simp] theorem sound_blur (s : State) (x1 x2 x3) (h : Sound A s) : Sound A (blur s x1 x2 x3).2 := by
  simp [blur, h]
@[simp] theorem sound_dmaGet (s : State) (x1 x2 x3) (h : Sound A s) : Sound A (dmaGet s x1 x2 x3).2 := by
  simp [dmaGet, h]
@[simp] theorem sound_dmaSend (s : State) (x1 x2 x3) (h : Sound A s) : Sound A (dmaSend s x1 x2 x3) := by
  unfold dmaSend
  split <;> simp [h]
@[simp] theorem sound_dmaPieces (s : State) (x1 x2 x3 x4 x5) (h : Sound A s) : Sound A (dmaPieces s x1 x2 x3 x4 x5) := by
  induction x5 generalizing s x3 x4 with
  | zero => unfold dmaPieces; exact h
  | succ k ih =>
    cases x4 with
    | nil => exact h
    | cons e r =>
      obtain ⟨a, n⟩ := e
      rw [dmaPieces]
      split
      · exact ih _ _ _ (sound_dmaSend _ _ _ _ h)
      · exact ih _ _ _ (sound_dmaSend _ _ _ _ h)
@[simp] theorem sound_dmaPut (s : State) (x1 x2 x3) (h : Sound A s) : Sound A (dmaPut s x1 x2 x3) := by
  unfold dmaPut
  refine sound_updDma _ _ _ ?_
  split
  · exact sound_foldl _ (fun t e ht => sound_dmaSend t _ _ _ ht) _ _ h
  · exact sound_dmaPieces _ _ _ _ _ _ h
@[simp] theorem sound_readFailed (s : State) (x1 x2 x3) (h : Sound A s) : Sound A (readFailed s x1 x2 x3) := h
@[simp] theorem sound_moveUnits (s : State) (x1 x2 x3) (h : Sound A s) : Sound A (moveUnits s x1 x2 x3) := by
  induction x3 generalizing s with
  | zero => exact h
  | succ k ih =>
    have fin : ∀ (t : State) (o : Nat) (bs : List Byte) (fa st : Nat) (g : DmaCh → DmaCh), Sound A t →
        Sound A (if st ≠ 0 then readFailed (updDma (if bs.isEmpty then t else dmaPut t x1 o bs) x1 g) x1 fa st
          else moveUnits (updDma (if bs.isEmpty then t else dmaPut t x1 o bs) x1 g) x1 x2 k) := by
      intro t o bs fa st g ht
      have hu : Sound A (updDma (if bs.isEmpty then t else dmaPut t x1 o bs) x1 g) := by
        refine sound_updDma _ _ _ ?_
        split
        · exact ht
        · exact sound_dmaPut _ _ _ _ ht
      split
      · exact sound_readFailed _ _ _ _ hu
      · exact ih _ hu
    unfold moveUnits
    extract_lets x d o mode a w n
    clear_value n w a mode
    split
    · exact h
    · split
      · have hk : Sound A (if mode = 6 then ((fillBytes (ddMpar d) (x.dst0 + o) n, 0, 0), s)
            else dmaGet s x1 (fun i t => a ≤ t && t < a + i) [(o, n)] : (List Byte × Nat × Nat) × State).2 := by
          split
          · exact h
          · exact sound_dmaGet _ _ _ _ h
        generalize (if mode = 6 then ((fillBytes (ddMpar d) (x.dst0 + o) n, 0, 0), s)
            else dmaGet s x1 (fun i t => a ≤ t && t < a + i) [(o, n)] : (List Byte × Nat × Nat) × State) = r at hk
        obtain ⟨⟨bs, fa, st⟩, t⟩ := r
        exact fin t o bs fa st _ hk
      · have hk := sound_dmaGet s x1 (fun _ _ => false) (unitReads d o) h
        generalize dmaGet s x1 (fun _ _ => false) (unitReads d o) = r at hk
        obtain ⟨⟨bs, fa, st⟩, t⟩ := r
        dsimp only
        split
        · exact sound_readFailed _ _ _ _ hk
        · exact ih _ (sound_updDma _ _ _ (sound_foldl _ (fun u e hu => sound_dmaPut u _ _ _ hu) _ _ hk))
@[simp] theorem sound_testTrigger (s : State) (x1) (h : Sound A s) : Sound A (testTrigger s x1) := h
@[simp] theorem sound_park (s : State) (x1 x2) (h : Sound A s) : Sound A (park s x1 x2) := h
@[simp] theorem sound_haltDma (s : State) (x1) (h : Sound A s) : Sound A (haltDma s x1) := by
  simp [haltDma, h]
@[simp] theorem sound_dmaSignals (s : State) (x1) (h : Sound A s) : Sound A (dmaSignals s x1) := by
  simp (maxDischargeDepth := 40) [dmaSignals, h]
@[simp] theorem sound_dmaWrite (s : State) (x1 x2 x3) (h : Sound A s) : Sound A (dmaWrite s x1 x2 x3) := by
  simp [dmaWrite, h]
@[simp] theorem sound_completeDesc (s : State) (x1 x2 x3 x4 x5) (h : Sound A s) : Sound A (completeDesc s x1 x2 x3 x4 x5) := by
  simp (maxDischargeDepth := 40) [completeDesc, h]
@[simp] theorem sound_setCurs (s : State) (x1) (h : Sound A s) : Sound A (setCurs s x1) := h
@[simp] theorem sound_finishDesc (s : State) (x1) (h : Sound A s) : Sound A (finishDesc s x1) := by
  simp (maxDischargeDepth := 40) [finishDesc, h]

/-! ### JigOps -/

@[simp] theorem sound_readHarq (s : State) (x1 x2) (h : Sound A s) : Sound A (readHarq s x1 x2).2.2 := by
  induction x2 generalizing s with
  | nil => exact h
  | cons e r ih =>
    obtain ⟨a, n⟩ := e
    unfold readHarq
    have hk := sound_readPiece s (some x1) a n h
    dsimp only
    split
    · have h2 := ih _ hk
      split <;> rename_i e <;> rw [e] at h2 <;> exact h2
    · exact hk
@[simp] theorem sound_raiseReserved (s : State) (x1 x2 x3 x4 x5) (h : Sound A s) : Sound A (raiseReserved s x1 x2 x3 x4 x5) := by
  unfold raiseReserved
  split <;> simp [h]
@[simp] theorem sound_endJob (s : State) (x1 x2 x3) (h : Sound A s) : Sound A (endJob s x1 x2 x3) := by
  unfold endJob
  dsimp only
  repeat' split
  all_goals simp (maxDischargeDepth := 40) [h]
@[simp] theorem sound_endUnrun (s : State) (x1 x2) (h : Sound A s) : Sound A (endUnrun s x1 x2) := by
  simp [endUnrun, h]
@[simp] theorem sound_dropQueued (s : State) (x1) (h : Sound A s) : Sound A (dropQueued s x1) := h
@[simp] theorem sound_dropRunning (s : State) (x1) (h : Sound A s) : Sound A (dropRunning s x1) := h
@[simp] theorem sound_endQueued (s : State) (x1 x2) (h : Sound A s) : Sound A (endQueued s x1 x2) := by
  simp +contextual (maxDischargeDepth := 40) [endQueued, h]
@[simp] theorem sound_freeBytes (s : State) (x1) (h : Sound A s) : Sound A (freeBytes s x1).2 := by
  simp [freeBytes, h]
@[simp] theorem sound_maybeWritten (s : State) (x1 x2 x3) (h : Sound A s) : Sound A (maybeWritten s x1 x2 x3) := by
  simp (maxDischargeDepth := 40) [maybeWritten, h]
@[simp] theorem sound_maybeOutputs (s : State) (x1) (h : Sound A s) : Sound A (maybeOutputs s x1) := by
  simp [maybeOutputs, h]
@[simp] theorem sound_endStopped (s : State) (x1 x2) (h : Sound A s) : Sound A (endStopped s x1 x2) := by
  simp (maxDischargeDepth := 40) [endStopped, h]
@[simp] theorem sound_failClass (s : State) (x1 x2) (h : Sound A s) : Sound A (failClass s x1 x2) := by
  simp +contextual (maxDischargeDepth := 40) [failClass, h]
@[simp] theorem sound_failJigDomain (s : State) (x1) (h : Sound A s) : Sound A (failJigDomain s x1) := by
  simp +contextual (maxDischargeDepth := 40) [failJigDomain, h]

/-! ### Power -/

@[simp] theorem sound_pwrState (s : State) (x1 x2 x3) (h : Sound A s) : Sound A (pwrState s x1 x2 x3) := by
  simp [pwrState, h]
@[simp] theorem sound_resetCore (s : State) (x1) (h : Sound A s) : Sound A (resetCore s x1) := h
@[simp] theorem sound_endWaits (s : State) (x1 x2 x3) (h : Sound A s) : Sound A (endWaits s x1 x2 x3) := by
  simp +contextual (maxDischargeDepth := 40) [endWaits, h]
@[simp] theorem sound_acceptEntry (s : State) (x1 x2 x3) (h : Sound A s) : Sound A (acceptEntry s x1 x2 x3) := by
  simp [acceptEntry, h]
@[simp] theorem sound_startLevel (s : State) (x1 x2 x3) (h : Sound A s) : Sound A (startLevel s x1 x2 x3) := h
@[simp] theorem sound_sleepChannel (s : State) (x1) (h : Sound A s) : Sound A (sleepChannel s x1) := by
  simp +contextual (maxDischargeDepth := 40) [sleepChannel, h]
@[simp] theorem sound_dropGroup (s : State) (x1) (h : Sound A s) : Sound A (dropGroup s x1) := by
  simp +contextual (maxDischargeDepth := 40) [dropGroup, h]
@[simp] theorem sound_startWake (s : State) (x1) (h : Sound A s) : Sound A (startWake s x1) := h
@[simp] theorem sound_laneOff (s : State) (x1) (h : Sound A s) : Sound A (laneOff s x1) := by
  simp (maxDischargeDepth := 40) [laneOff, h]
@[simp] theorem sound_dropIod (s : State) (x1) (h : Sound A s) : Sound A (dropIod s x1) := by
  unfold dropIod
  dsimp only
  have hb : ∀ t, Sound A t → Sound A ((upFrom 0 4).foldl (fun s n =>
      updBp (bhCtrs.foldl (fun s c => ctrSet s c n 0) s) n fun b => { asym := b.asym, lat := b.lat }) t) := fun t ht =>
    sound_foldl _ (fun u n hu => sound_updBp _ _ _ (sound_foldl _ (fun v c hv => sound_ctrSet_zero v c n hv) _ _ hu)) _ _ ht
  have hl : Sound A (((upFrom 0 80).filter fun n => (laneDoms n).contains x1).foldl laneOff s) := sound_foldl _ (fun t n ht => sound_laneOff t n ht) _ _ h
  generalize ((upFrom 0 80).filter fun n => (laneDoms n).contains x1).foldl laneOff s = t at hl
  have hf : Sound A (if x1 = 18 ∨ x1 = 19 then (upFrom (16 * (x1 - 18)) 16).foldl (fun s m => updFh s m fun x => { x with eg := [], egWait := [] }) t else t) := by
    split
    · exact sound_foldl _ (fun u m hu => sound_updFh _ _ _ hu) _ _ hl
    · exact hl
  split
  · exact hb _ hf
  · exact hf
@[simp] theorem sound_execPwrWakeRequest (s : State) (x0 x1) (h : Sound A s) : SoundRes A (execPwrWakeRequest x0 x1 s) := by
  simp [execPwrWakeRequest, h]
@[simp] theorem sound_zeroSram (s : State) (x1 x2) (h : Sound A s) : Sound A (zeroSram s x1 x2) := by
  simp [zeroSram, h]
@[simp] theorem sound_loseBank (s : State) (x1 x2) (h : Sound A s) : Sound A (loseBank s x1 x2) := by
  unfold loseBank
  dsimp only
  exact meets_fresh _ (sound_writeBytes _ _ _ (sound_freeBytes s x2 h))
@[simp] theorem sound_loseBanks (s : State) (x1 x2) (h : Sound A s) : Sound A (loseBanks s x1 x2) := by
  simp +contextual (maxDischargeDepth := 40) [loseBanks, h]
@[simp] theorem sound_wakeEmpty (s : State) (x1) (h : Sound A s) : Sound A (wakeEmpty s x1) := by
  simp +contextual (maxDischargeDepth := 40) [wakeEmpty, h]
@[simp] theorem sound_wakeChannel (s : State) (x1 x2) (h : Sound A s) : Sound A (wakeChannel s x1 x2) := by
  simp +contextual (maxDischargeDepth := 40) [wakeChannel, h]
@[simp] theorem sound_sigPwr (s : State) (x1) (h : Sound A s) : Sound A (sigPwr s x1) := by
  simp +contextual (maxDischargeDepth := 40) [sigPwr, h]
@[simp] theorem sound_wakeLevel (s : State) (x1) (h : Sound A s) : Sound A (wakeLevel s x1) := by
  unfold wakeLevel
  dsimp only
  split <;> simp [h]
@[simp] theorem sound_failDomain (s : State) (x1) (h : Sound A s) : Sound A (failDomain s x1) := by
  simp +contextual (maxDischargeDepth := 40) [failDomain, h]
@[simp] theorem sound_levelDone (s : State) (x1) (h : Sound A s) : Sound A (levelDone s x1) := by
  unfold levelDone
  dsimp only
  repeat' split
  all_goals simp (maxDischargeDepth := 40) [h]
@[simp] theorem sound_freqSwitch (s : State) (x1) (h : Sound A s) : Sound A (freqSwitch s x1) := by
  unfold freqSwitch
  dsimp only
  repeat' split
  all_goals simp (maxDischargeDepth := 40) [h]

/-! ### Faults -/

@[simp] theorem sound_fltCore (s : State) (x1 x2 x3 x4) (h : Sound A s) : Sound A (fltCore s x1 x2 x3 x4) := by
  simp [fltCore, h]
@[simp] theorem sound_stopCore (s : State) (x1) (h : Sound A s) : Sound A (stopCore s x1) := by
  simp (maxDischargeDepth := 40) [stopCore, h]
@[simp] theorem sound_setCoreState (s : State) (x1 x2) (h : Sound A s) : Sound A (setCoreState s x1 x2) := h
@[simp] theorem sound_settleRunning (s : State) (x1) (h : Sound A s) : Sound A (settleRunning s x1) := by
  unfold settleRunning
  exact sound_foldl _ (fun t it ht => sound_settleItem t _ it ht) _ _ h
@[simp] theorem sound_outCore (s : State) (x1 x2 x3) (h : Sound A s) : Sound A (outCore s x1 x2 x3) := by
  simp (maxDischargeDepth := 40) [outCore, h]
@[simp] theorem sound_setTest (s : State) (x1 x2) (h : Sound A s) : Sound A (setTest s x1 x2) := h
@[simp] theorem sound_fltEngine (s : State) (x1 x2) (h : Sound A s) : Sound A (fltEngine s x1 x2) := by
  simp [fltEngine, h]
@[simp] theorem sound_outCluster (s : State) (x1) (h : Sound A s) : Sound A (outCluster s x1) := by
  simp +contextual (maxDischargeDepth := 40) [outCluster, h]
@[simp] theorem sound_endSession (s : State) (x1) (h : Sound A s) : Sound A (endSession s x1) := by
  unfold endSession
  dsimp only
  split <;> exact h
@[simp] theorem sound_holdTime (s : State) (h : Sound A s) : Sound A (holdTime s) := by
  simp [holdTime, h]
@[simp] theorem sound_giveHeld (s : State) (h : Sound A s) : Sound A (giveHeld s) := by
  simp +contextual (maxDischargeDepth := 40) [giveHeld, h]
@[simp] theorem sound_tombReserved (s : State) (x1 x2) (h : Sound A s) : Sound A (tombReserved s x1 x2) := by
  unfold tombReserved
  split <;> simp [h]
@[simp] theorem sound_dropDiePkts (s : State) (x1) (h : Sound A s) : Sound A (dropDiePkts s x1) := by
  simp +contextual (maxDischargeDepth := 40) [dropDiePkts, h]
@[simp] theorem sound_clearDie (s : State) (x1) (h : Sound A s) : Sound A (clearDie s x1) := by
  unfold clearDie
  dsimp only
  refine sound_foldl _ (fun t j ht => ?_) _ _ ?_
  · split
    · exact sound_tombReserved _ _ _ ht
    · exact ht
  · simp +contextual (maxDischargeDepth := 40) [h]
@[simp] theorem sound_markLost (s : State) (x1) (h : Sound A s) : Sound A (markLost s x1) := h
@[simp] theorem sound_loseDie (s : State) (x1 x2) (h : Sound A s) : Sound A (loseDie s x1 x2) := by
  simp +contextual (maxDischargeDepth := 40) [loseDie, h]
@[simp] theorem sound_appendLog (s : State) (x1) (h : Sound A s) : Sound A (appendLog s x1) := h

/-! ### Thermal -/

@[simp] theorem sound_railsOff (s : State) (h : Sound A s) : Sound A (railsOff s) := by
  simp [railsOff, h]
@[simp] theorem sound_thermalTrip (s : State) (x1) (h : Sound A s) : Sound A (thermalTrip s x1) := by
  simp (maxDischargeDepth := 40) [thermalTrip, h]
@[simp] theorem sound_zoneWarn (s : State) (x1) (h : Sound A s) : Sound A (zoneWarn s x1) := by
  simp (maxDischargeDepth := 40) [zoneWarn, h]
@[simp] theorem sound_markBroken (s : State) (x1 x2) (h : Sound A s) : Sound A (markBroken s x1 x2) := by
  simp (maxDischargeDepth := 40) [markBroken, h]
@[simp] theorem sound_breakSensor (s : State) (x1 x2) (h : Sound A s) : Sound A (breakSensor s x1 x2) := by
  unfold breakSensor
  split
  · exact h
  · exact sound_thermalTrip _ _ (sound_markBroken _ _ _ h)
@[simp] theorem sound_fastNow (s : State) (h : Sound A s) : Sound A (fastNow s) := h
@[simp] theorem sound_setThr (s : State) (x1 x2) (h : Sound A s) : Sound A (setThr s x1 x2) := by
  simp (maxDischargeDepth := 40) [setThr, h]
@[simp] theorem sound_evalThr (s : State) (x1) (h : Sound A s) : Sound A (evalThr s x1) := by
  simp [evalThr, h]
@[simp] theorem sound_applyThCfg (s : State) (h : Sound A s) : Sound A (applyThCfg s) := by
  unfold applyThCfg
  repeat' split
  all_goals simp +contextual (maxDischargeDepth := 40) [h]
@[simp] theorem sound_exhaust (s : State) (x1 x2) (h : Sound A s) : Sound A (exhaust s x1 x2) := by
  simp [exhaust, h]
@[simp] theorem sound_leaveLevel (s : State) (x1) (h : Sound A s) : Sound A (leaveLevel s x1) := by
  unfold leaveLevel
  dsimp only
  repeat' split
  all_goals simp (maxDischargeDepth := 40) [h]
@[simp] theorem sound_takeNeeds (s : State) (x1 x2) (h : Sound A s) : Sound A (takeNeeds s x1 x2) := h
@[simp] theorem sound_takeOut (s : State) (x1) (h : Sound A s) : Sound A (takeOut s x1) := by
  simp +contextual (maxDischargeDepth := 40) [takeOut, h]
@[simp] theorem sound_reserveLow (s : State) (x1) (h : Sound A s) : Sound A (reserveLow s x1) := by
  simp [reserveLow, h]
@[simp] theorem sound_replanDom (s : State) (x1 x2) (h : Sound A s) : Sound A (replanDom s x1 x2) := by
  simp (maxDischargeDepth := 40) [replanDom, h]
@[simp] theorem sound_readMons (s : State) (x1) (h : Sound A s) : Sound A (readMons s x1) := by
  simp +contextual (maxDischargeDepth := 40) [readMons, h]
@[simp] theorem sound_storePlan (s : State) (x1 x2 x3) (h : Sound A s) : Sound A (storePlan s x1 x2 x3) := by
  simp +contextual (maxDischargeDepth := 40) [storePlan, h]

/-! ### PlanOps -/

@[simp] theorem sound_placeGrid (s : State) (x1) (h : Sound A s) : Sound A (placeGrid s x1) := h
theorem sound_requestSwitch (s t : State) (x1 n : Nat) (h : Sound A s) (e : requestSwitch s x1 = some (n, t)) : Sound A t := by
  unfold requestSwitch at e
  dsimp only at e
  split at e
  · cases e; exact sound_setTick _ _ _ h
  · cases e
@[simp] theorem sound_autoSwitch (s : State) (x1) (h : Sound A s) : Sound A (autoSwitch s x1) := by
  unfold autoSwitch
  dsimp only
  split
  · split
    · rename_i e; exact sound_requestSwitch s _ x1 _ h e
    · exact h
  · exact h

/-! ### Startup -/

@[simp] theorem sound_beginStage (s : State) (x1) (h : Sound A s) : Sound A (beginStage s x1) := by
  simp [beginStage, h]
@[simp] theorem sound_degrade (s : State) (x1 x2) (h : Sound A s) : Sound A (degrade s x1 x2) := by
  simp [degrade, h]
@[simp] theorem sound_logReport (s : State) (x1 x2 x3) (h : Sound A s) : Sound A (logReport s x1 x2 x3) := by
  induction x3 generalizing s x2 with
  | zero => exact h
  | succ k ih =>
    unfold logReport
    dsimp only
    split
    · simp [h]
    · exact ih _ _ (by simp [h])
@[simp] theorem sound_report (s : State) (h : Sound A s) : Sound A (report s) := by
  simp [report, h]
@[simp] theorem sound_stopStartup (s : State) (x1) (h : Sound A s) : Sound A (stopStartup s x1) := by
  simp +contextual (maxDischargeDepth := 40) [stopStartup, h]
@[simp] theorem sound_calStep (s : State) (x1) (h : Sound A s) : Sound A (calStep s x1) := by
  simp [calStep, h]
@[simp] theorem sound_calBundle (s : State) (x0 x2) (h : Sound A s) : Sound A (calBundle x0 s x2) := by
  unfold calBundle
  dsimp only
  repeat' split
  all_goals simp (maxDischargeDepth := 40) [h]
@[simp] theorem sound_dieGone (s : State) (x1) (h : Sound A s) : Sound A (dieGone s x1) := by
  simp +contextual (maxDischargeDepth := 40) [dieGone, h]
@[simp] theorem sound_oscStage (s : State) (x1) (h : Sound A s) : Sound A (oscStage s x1) := by
  unfold oscStage
  split <;> simp (maxDischargeDepth := 40) [h]
@[simp] theorem sound_fallBack (s : State) (h : Sound A s) : Sound A (fallBack s) := by
  simp [fallBack, h]
@[simp] theorem sound_bootStage (s : State) (x1 x2) (h : Sound A s) : Sound A (bootStage s x1 x2) := by
  unfold bootStage
  split <;> simp [h]
@[simp] theorem sound_startPoint (s : State) (x1) (h : Sound A s) : Sound A (startPoint s x1) := h
@[simp] theorem sound_calStage (s : State) (x1 x2 x3 x4) (h : Sound A s) : Sound A (calStage s x1 x2 x3 x4) := by
  unfold calStage
  split
  · exact sound_stopStartup _ _ h
  · have hs := sound_foldl (fun t (i : Fin 96) => markBroken t i 2) (fun t i ht => sound_markBroken t _ _ ht) x2 _ (sound_calStep s 1 h)
    dsimp only
    split
    · exact sound_thermalTrip _ _ hs
    · refine sound_foldl _ (fun t n ht => sound_updBp _ _ _ ht) _ _ (sound_foldl _ (fun t ch ht => sound_updCh _ _ _ ht) _ _ (sound_calStep _ _ ?_))
      refine sound_foldl _ (fun t k ht => sound_degrade _ _ _ (sound_updSu _ _ ht)) _ _ (sound_foldl _ (fun t k ht => sound_startPoint _ _ ht) _ _ (sound_calStep _ _ ?_))
      refine sound_foldl _ (fun t d ht => sound_leaveLevel _ _ ht) _ _ (sound_adjustRoutes _ _ ?_)
      have hd := fun x [Decidable x] t d (ht : Sound A t) => sound_if (x := x) (sound_dieGone t d ht) ht
      refine hd _ _ _ (hd _ _ _ (hd _ _ _ ?_))
      refine sound_foldl _ (fun t b ht => sound_calBundle t _ b ht) _ _ (sound_calStep _ _ ?_)
      exact sound_foldl _ (fun t d ht => sound_updDom _ _ _ ht) _ _ (sound_calStep _ _ hs)
@[simp] theorem sound_clusterGone (s : State) (x1) (h : Sound A s) : Sound A (clusterGone s x1) := by
  simp [clusterGone, h]
@[simp] theorem sound_channelGone (s : State) (x1) (h : Sound A s) : Sound A (channelGone s x1) := by
  simp [channelGone, h]
@[simp] theorem sound_sramStage (s : State) (x1 x2 x3 x4) (h : Sound A s) : Sound A (sramStage s x1 x2 x3 x4) := by
  simp +contextual (maxDischargeDepth := 40) [sramStage, h]
@[simp] theorem sound_coreStage (s : State) (x0 x2) (h : Sound A s) : Sound A (coreStage x0 s x2) := by
  unfold coreStage
  dsimp only
  repeat' split
  all_goals simp (maxDischargeDepth := 40) [h]
@[simp] theorem sound_testStage (s : State) (x1 x2 x3 x4 x5) (h : Sound A s) : Sound A (testStage s x1 x2 x3 x4 x5) := by
  simp +contextual (maxDischargeDepth := 40) [testStage, h]
@[simp] theorem sound_memStage (s : State) (x1) (h : Sound A s) : Sound A (memStage s x1) := by
  simp +contextual (maxDischargeDepth := 40) [memStage, h]
@[simp] theorem sound_readyStage (s : State) (h : Sound A s) : Sound A (readyStage s) := by
  simp (maxDischargeDepth := 40) [readyStage, h]
@[simp] theorem sound_stageBody (s : State) (x1) (h : Sound A s) : SoundOpt A (stageBody s x1) := by
  unfold stageBody
  repeat' split
  all_goals simp +contextual (maxDischargeDepth := 40) [h]
@[simp] theorem sound_trainLinks (s : State) (h : Sound A s) : Sound A (trainLinks s) := by
  simp +contextual (maxDischargeDepth := 40) [trainLinks, h]
@[simp] theorem sound_resetModule (s : State) (h : Sound A s) : Sound A (resetModule s) := by
  simp [resetModule, h]
@[simp] theorem sound_writeShutRecord (s : State) (x1) (h : Sound A s) : Sound A (writeShutRecord s x1) := by
  induction x1 generalizing s with
  | zero => exact h
  | succ k ih =>
    unfold writeShutRecord
    split
    · exact h
    · split
      · exact ih _ (by simp (maxDischargeDepth := 40) [h])
      · exact h

/-! ### HostWin -/

@[simp] theorem sound_execHostCmdPush (s : State) (x0 x1 x2) (h : Sound A s) : SoundRes A (execHostCmdPush x0 x1 x2 s) := by
  simp [execHostCmdPush, h]
@[simp] theorem sound_execHostRplPop (s : State) (x0 x1 x2) (h : Sound A s) : SoundRes A (execHostRplPop x0 x1 x2 s) := by
  simp [execHostRplPop, h]
@[simp] theorem sound_execHostEvtPop (s : State) (x0 x1 x2) (h : Sound A s) : SoundRes A (execHostEvtPop x0 x1 x2 s) := by
  simp [execHostEvtPop, h]
@[simp] theorem sound_abortHost (s : State) (x1) (h : Sound A s) : Sound A (abortHost s x1) := by
  simp (maxDischargeDepth := 40) [abortHost, h]
@[simp] theorem sound_execHostDoorbell (s : State) (x0 x1 x2) (h : Sound A s) : SoundRes A (execHostDoorbell x0 x1 x2 s) := by
  simp [execHostDoorbell, h]
@[simp] theorem sound_execPartMsgPost (s : State) (x0 x1 x2) (h : Sound A s) : SoundRes A (execPartMsgPost x0 x1 x2 s) := by
  simp (maxDischargeDepth := 40) [execPartMsgPost, h]

/-! ### Corward -/

@[simp] theorem sound_checked (s : State) (x1 x2) (g : Unit → Reply × State) (hg : Sound A (g ()).2)
    (h : Sound A s) : Sound A (checked s x1 x2 g).2 := by
  unfold checked
  split
  · exact h
  · exact hg
@[simp] theorem sound_setShares (s : State) (x1 x2) (h : Sound A s) : Sound A (setShares s x1 x2) := h
@[simp] theorem sound_portsOff (s : State) (x1) (h : Sound A s) : Sound A (portsOff s x1) := by
  simp +contextual (maxDischargeDepth := 40) [portsOff, h]
@[simp] theorem sound_stopDma (s : State) (x1) (h : Sound A s) : Sound A (stopDma s x1) := by
  simp (maxDischargeDepth := 40) [stopDma, h]
@[simp] theorem sound_cancelJob (s : State) (x1) (h : Sound A s) : Sound A (cancelJob s x1) := by
  simp [cancelJob, h]
@[simp] theorem sound_holdPart (s : State) (x1) (h : Sound A s) : Sound A (holdPart s x1) := by
  simp +contextual (maxDischargeDepth := 40) [holdPart, h]
@[simp] theorem sound_zeroPart (s : State) (x1) (h : Sound A s) : Sound A (zeroPart s x1) := by
  simp +contextual (maxDischargeDepth := 40) [zeroPart, h]
@[simp] theorem sound_quietPart (s : State) (x1) (h : Sound A s) : Sound A (quietPart s x1) := by
  simp (maxDischargeDepth := 40) [quietPart, h]
@[simp] theorem sound_retestCore (s : State) (x0 x1 x3) (h : Sound A s) : Sound A (retestCore x0 x1 s x3) := by
  simp [retestCore, h]
@[simp] theorem sound_startCore (s : State) (x1 x2 x3) (h : Sound A s) : Sound A (startCore s x1 x2 x3) := h
@[simp] theorem sound_setLevel (s : State) (x1 x2 x3) (h : Sound A s) : Sound A (setLevel s x1 x2 x3).2 := by
  unfold setLevel
  dsimp only
  repeat' split
  all_goals simp (maxDischargeDepth := 40) [h]
@[simp] theorem sound_setSleep (s : State) (x1 x2 x3) (h : Sound A s) : Sound A (setSleep s x1 x2 x3).2 := by
  unfold setSleep
  dsimp only
  repeat' split
  all_goals simp (maxDischargeDepth := 40) [h]
@[simp] theorem sound_setAwake (s : State) (x1 x2) (h : Sound A s) : Sound A (setAwake s x1 x2).2 := by
  unfold setAwake
  dsimp only
  split <;> simp [h]

/-! ### Dma -/

@[simp] theorem sound_dmaReg (s : State) (x1 x2) (g : State → State) (hg : ∀ t, Sound A t → Sound A (g t))
    (h : Sound A s) : Sound A (dmaReg s x1 x2 g) := by
  unfold dmaReg
  repeat' split
  all_goals simp (maxDischargeDepth := 40) [h, hg]
@[simp] theorem sound_execDmaRun (s : State) (x0 x1 x2) (h : Sound A s) : SoundRes A (execDmaRun x0 x1 x2 s) := by
  simp +contextual (maxDischargeDepth := 40) [execDmaRun, h]
@[simp] theorem sound_execDmaPause (s : State) (x0 x1 x2) (h : Sound A s) : SoundRes A (execDmaPause x0 x1 x2 s) := by
  simp +contextual (maxDischargeDepth := 40) [execDmaPause, h]
@[simp] theorem sound_execDmaResume (s : State) (x0 x1 x2) (h : Sound A s) : SoundRes A (execDmaResume x0 x1 x2 s) := by
  simp +contextual (maxDischargeDepth := 40) [execDmaResume, h]
@[simp] theorem sound_execDmaStop (s : State) (x0 x1 x2) (h : Sound A s) : SoundRes A (execDmaStop x0 x1 x2 s) := by
  unfold execDmaStop
  refine sound_dmaReg s _ _ _ ?_ h
  intro t ht
  dsimp only
  repeat' split
  all_goals simp +contextual (maxDischargeDepth := 40) [ht]
@[simp] theorem sound_execDmaDoorbell (s : State) (x0 x1 x2) (h : Sound A s) : SoundRes A (execDmaDoorbell x0 x1 x2 s) := by
  simp +contextual (maxDischargeDepth := 40) [execDmaDoorbell, h]
@[simp] theorem sound_execDmaChDescWrite (s : State) (x0 x1 x2 x3 x4) (h : Sound A s) : SoundRes A (execDmaChDescWrite x0 x1 x2 x3 x4 s) := by
  simp +contextual (maxDischargeDepth := 40) [execDmaChDescWrite, h]
@[simp] theorem sound_fetchFailed (s : State) (x1 x2 x3) (h : Sound A s) : Sound A (fetchFailed s x1 x2 x3) := by
  simp [fetchFailed, h]
@[simp] theorem sound_badCurs (s : State) (x1) (h : Sound A s) : Sound A (badCurs s x1) := by
  simp (maxDischargeDepth := 40) [badCurs, h]

/-! ### Dovetail -/

@[simp] theorem sound_setG (s : State) (x1 x2 x3) (h : Sound A s) : Sound A (setG s x1 x2 x3) := h
@[simp] theorem sound_dvEnq (s : State) (x1 x2 x3) (h : Sound A s) : Sound A (dvEnq s x1 x2 x3) := by
  unfold dvEnq
  dsimp only
  split
  · exact sound_setG _ _ _ _ (sound_bump _ _ _ h)
  · split <;> rename_i e <;> have hr := sound_eq22 e (sound_memRead _ _ _ _ h)
    · split <;> rename_i e <;> exact sound_setG _ _ _ _ (sound_eq21 e (sound_enqueue _ _ _ hr))
    · exact sound_setG _ _ _ _ (sound_bump _ _ _ hr)
@[simp] theorem sound_dispatch (s : State) (x1 x2 x3) (h : Sound A s) : Sound A (dispatch s x1 x2 x3) := by
  simp (maxDischargeDepth := 40) [dispatch, h]
@[simp] theorem sound_dvGet (s : State) (x1 x2) (h : Sound A s) : Sound A (dvGet s x1 x2) := by
  unfold dvGet
  extract_lets p t
  have ht : Sound A t := sound_foldl _ (fun u it hu => sound_settleItem u p it hu) _ _ h
  clear_value t
  split
  · exact sound_setG _ _ _ _ ht
  · rename_i it _
    split
    · exact sound_setG _ _ _ _ ht
    · have hk := sound_memWrite t (some p) (getDvCore t x1).mbox (itemRecord it) ht
      split <;> (have e := ‹memWrite _ _ _ _ = _›; rw [e] at hk; simp (maxDischargeDepth := 40) [hk])
@[simp] theorem sound_countBudget (s : State) (x1 x2 x3) (h : Sound A s) : Sound A (countBudget s x1 x2 x3) := by
  unfold countBudget
  split <;> simp [h]
@[simp] theorem sound_dvRel (s : State) (x1 x2 x3 x4) (h : Sound A s) : Sound A (dvRel s x1 x2 x3 x4) := by
  unfold dvRel
  dsimp only
  repeat' split
  all_goals simp (maxDischargeDepth := 40) [h]
@[simp] theorem sound_dvCxl (s : State) (x1 x2 x3) (h : Sound A s) : Sound A (dvCxl s x1 x2 x3) := by
  unfold dvCxl
  split <;> simp (maxDischargeDepth := 40) [h]
@[simp] theorem sound_execDvFlowCfgWrite (s : State) (x0 x1 x2) (h : Sound A s) : SoundRes A (execDvFlowCfgWrite x0 x1 x2 s) := by
  unfold execDvFlowCfgWrite
  split <;> simp [h]
@[simp] theorem sound_csetEmpty (s : State) (x1 x2 x3 x4) (h : Sound A s) : Sound A (csetEmpty s x1 x2 x3 x4) := by
  simp [csetEmpty, h]
@[simp] theorem sound_execDvCsetWrite (s : State) (x0 x1 x2 x3 x4) (h : Sound A s) : SoundRes A (execDvCsetWrite x0 x1 x2 x3 x4 s) := by
  simp (maxDischargeDepth := 40) [execDvCsetWrite, h]

/-! ### Tick -/

@[simp] theorem sound_nextTick (s : State) (h : Sound A s) : Sound A (nextTick s) := h
@[simp] theorem sound_restage (s : State) (x1) (h : Sound A s) : Sound A (restage s x1) := by
  simp +contextual (maxDischargeDepth := 40) [restage, h]
@[simp] theorem sound_applyWeights (s : State) (h : Sound A s) : Sound A (applyWeights s) := by
  simp +contextual (maxDischargeDepth := 40) [applyWeights, h]
@[simp] theorem sound_loadTick (s : State) (h : Sound A s) : Sound A (loadTick s) := h
@[simp] theorem sound_stopPlan (s : State) (x1) (h : Sound A s) : Sound A (stopPlan s x1) := by
  simp [stopPlan, h]
@[simp] theorem sound_thermTick (s : State) (h : Sound A s) : Sound A (thermTick s) := by
  simp +contextual (maxDischargeDepth := 40) [thermTick, h]
@[simp] theorem sound_capLevels (s : State) (h : Sound A s) : Sound A (capLevels s) := by
  simp +contextual (maxDischargeDepth := 40) [capLevels, h]
@[simp] theorem sound_execTickEvtFlowWrite (s : State) (x0 x1 x2) (h : Sound A s) : SoundRes A (execTickEvtFlowWrite x0 x1 x2 s) := by
  simp [execTickEvtFlowWrite, h]

/-! ### Panic -/

@[simp] theorem sound_setPanic (s : State) (x1 x2) (h : Sound A s) : Sound A (setPanic s x1 x2) := by
  unfold setPanic
  split <;> simp [h]

/-! ### Regs -/

@[simp] theorem sound_fhPortCtlWrite (s : State) (x1 x2) (h : Sound A s) : Sound A (fhPortCtlWrite s x1 x2) := by
  simp [fhPortCtlWrite, h]
@[simp] theorem sound_memRgnW (s : State) (x1 x2) (h : Sound A s) : Sound A (memRgnW s x1 x2) := by
  simp [memRgnW, h]
@[simp] theorem sound_nocRouteW (s : State) (x1 x2 x3) (h : Sound A s) : Sound A (nocRouteW s x1 x2 x3) := by
  simp [nocRouteW, h]
@[simp] theorem sound_radioW (s : State) (r : Reg) (v : Nat) (h : Sound A s) : Sound A (radioW s r v) := by
  cases r
  case fhPortCtl m => exact sound_fhPortCtlWrite s m v h
  all_goals exact h
@[simp] theorem sound_moveW (s : State) (x1 x2) (h : Sound A s) : Sound A (moveW s x1 x2) := by
  unfold moveW
  split <;> simp [h]
@[simp] theorem sound_memW (s : State) (x1 x2) (h : Sound A s) : Sound A (memW s x1 x2) := by
  unfold memW
  split <;> simp [h]
@[simp] theorem sound_timeW (s : State) (r : Reg) (v : Nat) (h : Sound A s) : Sound A (timeW s r v) := by
  unfold timeW
  split <;> simp [h]
@[simp] theorem sound_hwCtlW (s : State) (x1 x2) (h : Sound A s) : Sound A (hwCtlW s x1 x2) := by
  simp [hwCtlW, h]
@[simp] theorem sound_adminW (s : State) (r : Reg) (v : Nat) (h : Sound A s) : Sound A (adminW s r v) := by
  cases r
  case hwCtl p => exact sound_hwCtlW s p v h
  all_goals exact h
@[simp] theorem sound_regW (s : State) (x1 x2) (h : Sound A s) : Sound A (regW s x1 x2) := by
  exact sound_adminW _ _ _ (sound_timeW _ _ _ (sound_memW _ _ _ (sound_moveW _ _ _ (sound_radioW _ _ _ h))))
@[simp] theorem sound_windowW (s : State) (x1 x2 x3) (h : Sound A s) : Sound A (windowW s x1 x2 x3) := by
  have hr : ∀ r : Res, SoundRes A r → Sound A (match r with | .next t => t | _ => s) := by
    intro r hr
    cases r with
    | next t => exact hr
    | fault e => exact h
    | refused e => exact h
  unfold windowW
  dsimp only
  split
  · exact sound_adminW _ _ _ h
  · split
    · exact sound_hwCtlW _ _ _ h
    · split
      · exact hr _ (sound_execHostDoorbell _ _ _ _ h)
      · split
        · exact hr _ (sound_execHostCmdPush _ _ _ _ h)
        · exact h
@[simp] theorem sound_windowR (s : State) (x1 x2) (h : Sound A s) : Sound A (windowR s x1 x2).2 := by
  have hr : ∀ r : Res, SoundRes A r →
      Sound A (match r with | .next t => ((lget (getHost t x1).read 0 0).toNat, t) | _ => (0, s) : Nat × State).2 := by
    intro r hr
    cases r with
    | next t => exact hr
    | fault e => exact h
    | refused e => exact h
  unfold windowR
  dsimp only
  split
  · exact hr _ (sound_execHostEvtPop _ _ _ _ h)
  · split
    · exact hr _ (sound_execHostRplPop _ _ _ _ h)
    · split
      · exact sound_takeFree _ _ h
      · split
        · exact h
        · split
          case h_7 => exact sound_ctrSet_zero _ _ _ h
          all_goals exact h
@[simp] theorem sound_hostW (s : State) (x1 x2 x3) (h : Sound A s) : Sound A (hostW s x1 x2 x3) := by
  unfold hostW
  split
  · exact sound_windowW _ _ _ _ h
  · exact h
  · exact h
@[simp] theorem sound_dmaPartW (s : State) (x1 x2 x3) (h : Sound A s) : Sound A (dmaPartW s x1 x2 x3) := by
  unfold dmaPartW
  split <;> simp [h]
@[simp] theorem sound_execRegWrite (s : State) (x0 x1 x2) (h : Sound A s) : SoundRes A (execRegWrite x0 x1 x2 s) := by
  unfold execRegWrite
  repeat' split
  all_goals simp (maxDischargeDepth := 40) [h]

/-! ### Lane -/

@[simp] theorem sound_txStart (s : State) (x1 x2) (h : Sound A s) : Sound A (txStart s x1 x2) := by
  simp [txStart, h]
@[simp] theorem sound_rxStart (s : State) (x1 x2) (h : Sound A s) : Sound A (rxStart s x1 x2) := by
  simp (maxDischargeDepth := 40) [rxStart, h]
@[simp] theorem sound_txApply (s : State) (x1 x2) (h : Sound A s) : Sound A (txApply s x1 x2) := by
  simp [txApply, h]
@[simp] theorem sound_rxApply (s : State) (x1 x2) (h : Sound A s) : Sound A (rxApply s x1 x2) := by
  simp [rxApply, h]
@[simp] theorem sound_bpSleep (s : State) (x1 x2) (h : Sound A s) : Sound A (bpSleep s x1 x2) := by
  simp +contextual (maxDischargeDepth := 40) [bpSleep, h]
@[simp] theorem sound_txWrite (s : State) (x1 x2) (h : Sound A s) : Sound A (txWrite s x1 x2) := by
  simp [txWrite, h]
@[simp] theorem sound_rxWrite (s : State) (x1 x2) (h : Sound A s) : Sound A (rxWrite s x1 x2) := by
  simp [rxWrite, h]
@[simp] theorem sound_heldApply (s : State) (x1 x2) (h : Sound A s) : Sound A (heldApply s x1 x2) := by
  unfold heldApply
  dsimp only
  repeat' split
  all_goals simp (maxDischargeDepth := 40) [h]
@[simp] theorem soundRes_lnWrite (s : State) (x1 x2) (g : State → State) (hg : ∀ t, Sound A t → Sound A (g t))
    (h : Sound A s) : SoundRes A (lnWrite s x1 x2 g) := by
  unfold lnWrite
  split
  all_goals simp (maxDischargeDepth := 40) [h, hg]
@[simp] theorem sound_execLnTxMode (s : State) (x0 x1 x2) (h : Sound A s) : SoundRes A (execLnTxMode x0 x1 x2 s) := by
  simp +contextual (maxDischargeDepth := 40) [execLnTxMode, h]
@[simp] theorem sound_execLnRxChk (s : State) (x0 x1 x2) (h : Sound A s) : SoundRes A (execLnRxChk x0 x1 x2 s) := by
  simp +contextual (maxDischargeDepth := 40) [execLnRxChk, h]
@[simp] theorem sound_execLnErrInj (s : State) (x0 x1) (h : Sound A s) : SoundRes A (execLnErrInj x0 x1 s) := by
  simp +contextual (maxDischargeDepth := 40) [execLnErrInj, h]
@[simp] theorem sound_setFecLock (s : State) (x1 x2) (h : Sound A s) : Sound A (setFecLock s x1 x2) := by
  simp (maxDischargeDepth := 40) [setFecLock, h]
@[simp] theorem sound_countCodeword (s : State) (x1 x2) (h : Sound A s) : Sound A (countCodeword s x1 x2) := by
  unfold countCodeword
  split <;> simp [h]
@[simp] theorem sound_fecSearch (s : State) (x1 x2) (h : Sound A s) : Sound A (fecSearch s x1 x2) := by
  simp [fecSearch, h]
@[simp] theorem sound_pcsSearch (s : State) (x1 x2 x3) (h : Sound A s) : Sound A (pcsSearch s x1 x2 x3) := by
  simp [pcsSearch, h]

/-! ### FrameTx -/

@[simp] theorem sound_nextChunk (s : State) (x1 x2) (h : Sound A s) : Sound A (nextChunk s x1 x2).2 := by
  unfold nextChunk
  dsimp only
  repeat' split
  all_goals simp (maxDischargeDepth := 40) [h]
@[simp] theorem sound_sendGap (s : State) (x1 x2) (h : Sound A s) : Sound A (sendGap s x1 x2).2 := by
  unfold sendGap
  dsimp only
  repeat' split
  all_goals simp (maxDischargeDepth := 40) [h]
@[simp] theorem sound_laneFrame (s : State) (x1 x2 x3 x4 x5 x6 x7 x8 x9) (h : Sound A s) : Sound A (laneFrame s x1 x2 x3 x4 x5 x6 x7 x8 x9).2 := by
  unfold laneFrame
  dsimp only
  split <;> simp [h]
@[simp] theorem sound_execFhEgressWrite (s : State) (x0 x1 x2) (h : Sound A s) : SoundRes A (execFhEgressWrite x0 x1 x2 s) := by
  simp [execFhEgressWrite, h]
@[simp] theorem sound_execStreamEntryWrite (s : State) (x0 x1 x2 x3) (h : Sound A s) : SoundRes A (execStreamEntryWrite x0 x1 x2 x3 s) := by
  simp [execStreamEntryWrite, h]
@[simp] theorem soundRes_fhWrite (s : State) (x1 x2) (g : State → State) (hg : ∀ t, Sound A t → Sound A (g t))
    (h : Sound A s) : SoundRes A (fhWrite s x1 x2 g) := by
  unfold fhWrite
  split
  all_goals simp (maxDischargeDepth := 40) [h, hg]
@[simp] theorem sound_cmdRej (s : State) (x1) (h : Sound A s) : Sound A (cmdRej s x1) := h
@[simp] theorem sound_execFhProtLockout (s : State) (x0 x1 x2) (h : Sound A s) : SoundRes A (execFhProtLockout x0 x1 x2 s) := by
  simp +contextual (maxDischargeDepth := 40) [execFhProtLockout, h]
@[simp] theorem sound_execFhProtForcedSwitch (s : State) (x0 x1 x2) (h : Sound A s) : SoundRes A (execFhProtForcedSwitch x0 x1 x2 s) := by
  simp +contextual (maxDischargeDepth := 40) [execFhProtForcedSwitch, h]
@[simp] theorem sound_execFhProtManualSwitch (s : State) (x0 x1 x2) (h : Sound A s) : SoundRes A (execFhProtManualSwitch x0 x1 x2 s) := by
  simp +contextual (maxDischargeDepth := 40) [execFhProtManualSwitch, h]
@[simp] theorem sound_execFhProtClear (s : State) (x0 x1 x2) (h : Sound A s) : SoundRes A (execFhProtClear x0 x1 x2 s) := by
  simp +contextual (maxDischargeDepth := 40) [execFhProtClear, h]
@[simp] theorem sound_execFhDegThrWrite (s : State) (x0 x1 x2) (h : Sound A s) : SoundRes A (execFhDegThrWrite x0 x1 x2 s) := by
  simp +contextual (maxDischargeDepth := 40) [execFhDegThrWrite, h]
@[simp] theorem sound_execFhPktFlowWrite (s : State) (x0 x1 x2) (h : Sound A s) : SoundRes A (execFhPktFlowWrite x0 x1 x2 s) := by
  simp +contextual (maxDischargeDepth := 40) [execFhPktFlowWrite, h]

/-! ### Gain -/

@[simp] theorem sound_gcStepItem (s : State) (x1 x2 x3) (h : Sound A s) : Sound A (gcStepItem s x1 x2 x3) := by
  simp [gcStepItem, h]
@[simp] theorem sound_ackMissed (s : State) (x1 x2 x3) (h : Sound A s) : Sound A (ackMissed s x1 x2 x3) := by
  simp (maxDischargeDepth := 40) [ackMissed, h]
@[simp] theorem sound_execGcGrpCfg0Write (s : State) (x0 x1 x2) (h : Sound A s) : SoundRes A (execGcGrpCfg0Write x0 x1 x2 s) := by
  simp [execGcGrpCfg0Write, h]
@[simp] theorem sound_settleFix (s : State) (x1) (h : Sound A s) : Sound A (settleFix s x1) := by
  unfold settleFix
  dsimp only
  split <;> simp [h]
@[simp] theorem sound_fixCmd (s : State) (x1 x2) (h : Sound A s) : Sound A (fixCmd s x1 x2) := by
  simp [fixCmd, h]
@[simp] theorem sound_enterFix (s : State) (x1 x2) (h : Sound A s) : Sound A (enterFix s x1 x2) := by
  simp +contextual (maxDischargeDepth := 40) [enterFix, h]
@[simp] theorem sound_stopBurst (s : State) (x1) (h : Sound A s) : Sound A (stopBurst s x1) := h
@[simp] theorem sound_capture (s : State) (x1 x2 x3 x4) (h : Sound A s) : Sound A (capture s x1 x2 x3 x4) := by
  simp +contextual (maxDischargeDepth := 40) [capture, h]
@[simp] theorem sound_execNsCtxWrite (s : State) (x0 x1 x2) (h : Sound A s) : SoundRes A (execNsCtxWrite x0 x1 x2 s) := by
  simp [execNsCtxWrite, h]

/-! ### Jig -/

@[simp] theorem sound_descError (s : State) (x1 x2 x3 x4) (h : Sound A s) : Sound A (descError s x1 x2 x3 x4) := by
  unfold descError
  exact sound_raisePart _ _ _ _ _ (meets_of_sound (sound_bump _ _ _ h))
@[simp] theorem sound_queueJob (s : State) (x1) (h : Sound A s) : Sound A (queueJob s x1) := by
  simp [queueJob, h]
@[simp] theorem sound_submitChecked (s : State) (x1) (h : Sound A s) : Sound A (submitChecked s x1) := by
  simp [submitChecked, h]
@[simp] theorem sound_submitJob (s : State) (x1 x2 x3 x4) (h : Sound A s) : Sound A (submitJob s x1 x2 x3 x4) := by
  unfold submitJob
  split
  · exact sound_descError _ _ _ _ _ h
  · split
    · exact sound_descError _ _ _ _ _ h
    · split
      · exact sound_descError _ _ _ _ _ h
      · split <;> rename_i e <;> have hr := sound_eq22 e (sound_memRead _ _ _ _ h)
        · dsimp only
          split
          · split
            · exact sound_endUnrun _ _ _ hr
            · split
              · exact sound_endUnrun _ _ _ (sound_bump _ _ _ (sound_lossEvt _ _ _ _ _ (sound_countRefusal _ _ _ hr)))
              · exact sound_submitChecked _ _ (sound_addItem _ _ _ _ hr)
          · exact sound_submitChecked _ _ hr
        · exact sound_descError _ _ _ _ _ hr
@[simp] theorem sound_execJgSubmit (s : State) (x0 x1 x2 x3 x4) (h : Sound A s) : SoundRes A (execJgSubmit x0 x1 x2 x3 x4 s) := by
  simp [execJgSubmit, h]
theorem sound_nextJob (s t : State) (x1 x2 : Nat) (j : JgJob) (h : Sound A s) (e : nextJob s x1 x2 = some (j, t)) : Sound A t := by
  unfold nextJob at e
  dsimp only at e
  split at e
  · cases e; exact h
  · split at e
    · cases e
    · split at e
      · cases e; exact h
      · simp only [Option.map_eq_some_iff] at e
        obtain ⟨_, _, e⟩ := e
        cases e; exact h
@[simp] theorem sound_jobOut (s : State) (x1 x2 x3 x4) (h : Sound A s) : Sound A (jobOut s x1 x2 x3 x4).2 := by
  unfold jobOut
  repeat' split
  all_goals simp (maxDischargeDepth := 40) [h]
@[simp] theorem sound_jobCombine (s : State) (x1 x2 x3 x4) (h : Sound A s) : Sound A (jobCombine s x1 x2 x3 x4).2.2 := by
  unfold jobCombine
  split <;> simp [h]
@[simp] theorem sound_completeJob (s : State) (x1 x2) (h : Sound A s) : Sound A (completeJob s x1 x2) := by
  unfold completeJob
  extract_lets j d c retry lact bad hn it stop
  have h1 := sound_memRead s (some j.part) (jdIn d) (inBytes d c) h
  split <;> rename_i e1 <;> rw [e1] at h1
  · rename_i rx s1
    have h2 := sound_if22 (x := jdComb d c = true) (sound_readHarq s1 j.part (pieces (jdHin d) hn (hn + 1)) h1) (b := (some [], false, s1)) h1
    split <;> rename_i e2 <;> rw [e2] at h2
    · exact sound_endJob _ _ _ _ h2
    · rename_i old hunc s2
      have h3 := sound_if22 (x := (jdComb d c || jdHst d c) = true) (sound_jobCombine s2 d c old rx h2) (b := ([], false, s2)) h2
      split
      rename_i hb sat s3 e3
      rw [e3] at h3
      extract_lets fin
      have h4 := sound_jobOut s3 d c rx x2 h3
      split
      rename_i out s4 e4
      rw [e4] at h4
      have h5 := sound_memWrite s4 (some j.part) (jdOut d) out h4
      split <;> rename_i e5 <;> rw [e5] at h5
      · rename_i s5
        have h6 := sound_if22 (x := jdHst d c = true) (sound_memWrite s5 (some j.part) (jdHout d) hb h5) (b := (0, 0, s5)) h5
        split <;> rename_i e6 <;> rw [e6] at h6
        · exact sound_endJob _ _ _ _ h6
        · exact sound_endJob _ _ _ _ (sound_maybeOutputs _ _ h6)
      · exact sound_endJob _ _ _ _ (sound_maybeOutputs _ _ h5)
  · exact sound_endJob _ _ _ _ h1
@[simp] theorem sound_execJgCancel (s : State) (x0 x1 x2 x3 x4) (h : Sound A s) : SoundRes A (execJgCancel x0 x1 x2 x3 x4 s) := by
  unfold execJgCancel
  dsimp only
  repeat' split
  all_goals simp (maxDischargeDepth := 40) [h]

/-! ### DevWrite -/

@[simp] theorem sound_resState (r : Res) (s : State) (hr : SoundRes A r) (h : Sound A s) : Sound A (resState r s) := by
  cases r with
  | next t => exact hr
  | fault e => exact h
  | refused e => exact h
@[simp] theorem sound_lnCtlW (s : State) (x1 x2 x3) (h : Sound A s) : Sound A (lnCtlW s x1 x2 x3) := by
  simp (maxDischargeDepth := 40) [lnCtlW, h]
@[simp] theorem sound_protW (s : State) (x1 x2 x3) (h : Sound A s) : Sound A (protW s x1 x2 x3) := by
  unfold protW
  split <;> simp [h]
@[simp] theorem sound_dmaCtlW (s : State) (x1 x2 x3 x4) (h : Sound A s) : Sound A (dmaCtlW s x1 x2 x3 x4) := by
  simp (maxDischargeDepth := 40) [dmaCtlW, h]
@[simp] theorem sound_plainW (s : State) (x1 x2 x3) (h : Sound A s) : Sound A (plainW s x1 x2 x3) := by
  simp [plainW, h]
@[simp] theorem sound_timeStore (s : State) (x1 x2 x3) (h : Sound A s) : Sound A (timeStore s x1 x2 x3) := by
  unfold timeStore
  repeat' split
  all_goals simp (maxDischargeDepth := 40) [h]
@[simp] theorem sound_laneStore (s : State) (x1 x2 x3) (h : Sound A s) : Sound A (laneStore s x1 x2 x3) := by
  unfold laneStore
  split <;> simp [h]
@[simp] theorem sound_framerStore (s : State) (x1 x2 x3) (h : Sound A s) : Sound A (framerStore s x1 x2 x3) := by
  unfold framerStore
  repeat' split
  all_goals simp (maxDischargeDepth := 40) [h]
@[simp] theorem sound_gainStore (s : State) (x1 x2 x3) (h : Sound A s) : Sound A (gainStore s x1 x2 x3) := by
  unfold gainStore
  repeat' split
  all_goals simp (maxDischargeDepth := 40) [h]
@[simp] theorem sound_noseStore (s : State) (x1 x2 x3) (h : Sound A s) : Sound A (noseStore s x1 x2 x3) := by
  simp [noseStore, h]
@[simp] theorem sound_jigStore (s : State) (x1 x2 x3 x4) (h : Sound A s) : Sound A (jigStore s x1 x2 x3 x4) := by
  simp [jigStore, h]
@[simp] theorem sound_dvStore (s : State) (x1 x2 x3 x4) (h : Sound A s) : Sound A (dvStore s x1 x2 x3 x4) := by
  simp [dvStore, h]
@[simp] theorem sound_fabricStore (s : State) (x1 x2 x3 x4) (h : Sound A s) : Sound A (fabricStore s x1 x2 x3 x4) := by
  unfold fabricStore
  repeat' split
  all_goals simp (maxDischargeDepth := 40) [h]
@[simp] theorem sound_dmaStore (s : State) (x1 x2 x3 x4) (h : Sound A s) : Sound A (dmaStore s x1 x2 x3 x4) := by
  unfold dmaStore
  split <;> simp [h]
@[simp] theorem sound_memStore (s : State) (x1 x2 x3 x4) (h : Sound A s) : Sound A (memStore s x1 x2 x3 x4) := by
  unfold memStore
  repeat' split
  all_goals simp (maxDischargeDepth := 40) [h]
@[simp] theorem sound_sramStore (s : State) (x1 x2 x3) (h : Sound A s) : Sound A (sramStore s x1 x2 x3) := by
  unfold sramStore
  split <;> simp [h]
@[simp] theorem sound_panicStore (s : State) (x1 x2 x3) (h : Sound A s) : Sound A (panicStore s x1 x2 x3) := by
  simp [panicStore, h]
@[simp] theorem sound_bhStore (s : State) (x1 x2 x3) (h : Sound A s) : Sound A (bhStore s x1 x2 x3) := by
  unfold bhStore
  dsimp only
  repeat' split
  all_goals simp (maxDischargeDepth := 40) [h]
@[simp] theorem sound_mcStore (s : State) (x1 x2 x3) (h : Sound A s) : Sound A (mcStore s x1 x2 x3) := by
  simp [mcStore, h]
@[simp] theorem sound_powerStore (s : State) (x1 x2 x3) (h : Sound A s) : Sound A (powerStore s x1 x2 x3) := by
  unfold powerStore
  repeat' split
  all_goals simp (maxDischargeDepth := 40) [h]
@[simp] theorem sound_thermStore (s : State) (x1 x2 x3) (h : Sound A s) : Sound A (thermStore s x1 x2 x3) := by
  unfold thermStore
  split <;> simp [h]
@[simp] theorem sound_regStore (s : State) (x1 x2 x3 x4) (h : Sound A s) : Sound A (regStore s x1 x2 x3 x4) := by
  unfold regStore
  split <;> simp [h]
@[simp] theorem sound_storeWords (s : State) (x1 x2 x3 x4 x5) (h : Sound A s) : Sound A (storeWords s x1 x2 x3 x4 x5).2 := by
  induction x5 generalizing s with
  | nil => exact h
  | cons k r ih =>
    unfold storeWords
    dsimp only
    refine ih _ ?_
    split
    · exact sound_regStore _ _ _ _ _ (sound_done _ h)
    · exact sound_done _ h
@[simp] theorem sound_devWrite (s : State) (x1 x2 x3 x4) (h : Sound A s) : Sound A (devWrite s x1 x2 x3 x4).2 := by
  unfold devWrite
  split
  · exact h
  · split
    · exact sound_resState _ _ (sound_execFhEgressWrite _ _ _ _ h) h
    · exact sound_storeWords _ _ _ _ _ _ h

/-! ### Fabric -/

@[simp] theorem sound_pktRead (s : State) (x1) (h : Sound A s) : Sound A (pktRead s x1).2.2 := by
  unfold pktRead
  split
  · exact sound_regRead _ _ _ _ _ h
  · exact sound_memRead _ _ _ _ h
@[simp] theorem sound_pktWrite (s : State) (x1) (h : Sound A s) : Sound A (pktWrite s x1).2 := by
  unfold pktWrite
  split
  · exact sound_devWrite _ _ _ _ _ h
  · exact sound_memWrite _ _ _ _ h

/-! ### FrameRx -/

@[simp] theorem sound_noteStart (s : State) (x1 x2 x3) (h : Sound A s) : Sound A (noteStart s x1 x2 x3) := h
@[simp] theorem sound_enterIf (s : State) (x1 x2 x3 x4 x5) (h : Sound A s) : Sound A (enterIf s x1 x2 x3 x4 x5) := h
@[simp] theorem sound_searchFaw (s : State) (x1 x2 x3 x4 x5) (h : Sound A s) : Sound A (searchFaw s x1 x2 x3 x4 x5) := by
  unfold searchFaw
  dsimp only
  split <;> simp [h]
@[simp] theorem sound_inFrameFaw (s : State) (x1 x2 x3) (h : Sound A s) : Sound A (inFrameFaw s x1 x2 x3) := by
  unfold inFrameFaw
  dsimp only
  split <;> simp [h]
@[simp] theorem sound_cancelCmds (s : State) (x1) (h : Sound A s) : Sound A (cancelCmds s x1) := by
  simp [cancelCmds, h]
@[simp] theorem sound_srFilter (s : State) (x1 x2 x3 x4) (h : Sound A s) : Sound A (srFilter s x1 x2 x3 x4) := by
  simp [srFilter, h]
@[simp] theorem sound_deliverCopy (s : State) (x1 x2 x3 x4) (h : Sound A s) : Sound A (deliverCopy s x1 x2 x3 x4) := by
  simp (maxDischargeDepth := 40) [deliverCopy, h]
@[simp] theorem sound_sleepSwitched (s : State) (x1 x2) (h : Sound A s) : Sound A (sleepSwitched s x1 x2) := by
  simp [sleepSwitched, h]
@[simp] theorem sound_setLags (s : State) (x1 x2 x3) (h : Sound A s) : Sound A (setLags s x1 x2 x3) := by
  unfold setLags
  dsimp only
  refine sound_foldl _ (fun t l ht => ?_) _ _ h
  split
  · simp [ht]
  · exact ht
@[simp] theorem sound_integrate (s : State) (x1 x2 x3 x4) (h : Sound A s) : Sound A (integrate s x1 x2 x3 x4) := by
  simp [integrate, h]
@[simp] theorem sound_evalLane (s : State) (x1 x2) (h : Sound A s) : Sound A (evalLane s x1 x2) := by
  simp +contextual (maxDischargeDepth := 40) [evalLane, h]

/-! ### Operands -/

@[simp] theorem sound_vinstr (s : State) (x1 x2 x3 x4 x5 x6 x7) (body : State → Core → IRes)
    (hb : ∀ t x, Sound A t → Sound A (body t x).state) (h : Sound A s) : Sound A (vinstr s x1 x2 x3 x4 x5 x6 x7 body) := by
  unfold vinstr
  refine sound_instr _ _ _ _ _ _ _ (fun t ht => ?_) h
  have hk := hb t (getCore t x1) ht
  dsimp only
  split
  · exact ht
  · split
    · rename_i e; rw [e] at hk; simp at hk; simp [hk]
    · exact hk
@[simp] theorem sound_putV (s : State) (x1 x2 x3 x4) (h : Sound A s) : Sound A (putV s x1 x2 x3 x4) := h
@[simp] theorem sound_putA (s : State) (x1 x2 x3 x4) (h : Sound A s) : Sound A (putA s x1 x2 x3 x4) := h
@[simp] theorem sound_putP (s : State) (x1 x2 x3 x4) (h : Sound A s) : Sound A (putP s x1 x2 x3 x4) := h
@[simp] theorem sound_putG (s : State) (x1 x2 x3) (h : Sound A s) : Sound A (putG s x1 x2 x3) := h
@[simp] theorem sound_elemwise (s : State) (x1 x2 x3 x4 x5 x6 x7) (h : Sound A s) : Sound A (elemwise s x1 x2 x3 x4 x5 x6 x7) := h
@[simp] theorem sound_lanewise (s : State) (x1 x2 x3 x4 x5 x6 x7) (h : Sound A s) : Sound A (lanewise s x1 x2 x3 x4 x5 x6 x7) := h
@[simp] theorem sound_vecLoad (s : State) (x1 x2 x3 x4) (h : Sound A s) : Sound A (vecLoad s x1 x2 x3 x4).state := by
  unfold vecLoad
  split
  · exact sound_coreLoad _ _ _ _ _ h
  · split <;> rename_i e
    · have ht := sound_eq2 e (sound_translate _ _ _ _ h)
      split
      · exact ht
      · exact sound_coreLoad _ _ _ _ _ ht
    · exact sound_coreLoad _ _ _ _ _ h
@[simp] theorem sound_vecStoreCheck (s : State) (x1 x2 x3 x4) (h : Sound A s) : Sound A (vecStoreCheck s x1 x2 x3 x4).2 := by
  have hc := sound_storeCheck s x1 x2 x3 x4 h
  unfold vecStoreCheck
  split
  · rename_i e
    rw [e] at hc
    split <;> exact hc
  · exact hc
@[simp] theorem sound_loadLines (s : State) (x1 x2 x3 x4 x5) (h : Sound A s) : Sound A (loadLines s x1 x2 x3 x4 x5).state := by
  induction x5 generalizing s x4 with
  | nil => exact h
  | cons e r ih =>
    obtain ⟨o, n⟩ := e
    unfold loadLines
    have hk := sound_vecLoad s x1 (x2 + o) n x3 h
    split <;> rename_i e <;> rw [e] at hk
    · exact hk
    · exact ih _ _ hk
@[simp] theorem sound_loadEl (s : State) (x1 x2 x3 x4) (h : Sound A s) : Sound A (loadEl s x1 x2 x3 x4).state := by
  unfold loadEl
  split <;> simp [h]
@[simp] theorem sound_checkLines (s : State) (x1 x2 x3 x4) (h : Sound A s) : Sound A (checkLines s x1 x2 x3 x4).2 := by
  induction x4 generalizing s with
  | nil => exact h
  | cons e r ih =>
    obtain ⟨o, n⟩ := e
    unfold checkLines
    have hk := sound_vecStoreCheck s x1 (x2 + o) n x3 h
    split <;> rename_i e <;> rw [e] at hk
    · exact hk
    · exact ih _ hk
@[simp] theorem sound_checkEl (s : State) (x1 x2 x3 x4) (h : Sound A s) : Sound A (checkEl s x1 x2 x3 x4).2 := by
  unfold checkEl
  split <;> simp [h]
@[simp] theorem sound_writeParts (s : State) (x1 x2 x3 x4 x5) (h : Sound A s) : Sound A (writeParts s x1 x2 x3 x4 x5).2 := by
  induction x5 generalizing s with
  | nil => exact h
  | cons e r ih =>
    obtain ⟨o, n⟩ := e
    unfold writeParts
    have hk := sound_storeCheck s x1 (x2 + o) n x3 h
    split <;> rename_i e <;> rw [e] at hk
    · exact ih _ hk
    · exact ih _ (sound_physStore _ _ _ _ _ hk)
@[simp] theorem sound_writeLines (s : State) (x1 x2 x3 x4 x5) (h : Sound A s) : Sound A (writeLines s x1 x2 x3 x4 x5) := by
  unfold writeLines
  exact sound_noteStoreErr _ _ _ _ (sound_writeParts _ _ _ _ _ _ h)
@[simp] theorem sound_checkStores (s : State) (x1 x2) (h : Sound A s) : Sound A (checkStores s x1 x2).2 := by
  induction x2 generalizing s with
  | nil => exact h
  | cons e r ih =>
    unfold checkStores
    have hk := sound_checkEl s x1 e.va e.bs.length e.al h
    split <;> rename_i e <;> rw [e] at hk
    · exact hk
    · exact ih _ hk
@[simp] theorem sound_runStores (s : State) (x1 x2) (h : Sound A s) : Sound A (runStores s x1 x2).2 := by
  induction x2 generalizing s with
  | nil => exact h
  | cons e r ih =>
    unfold runStores
    dsimp only
    have hk := sound_checkEl s x1 e.va e.bs.length e.al h
    split <;> rename_i e <;> rw [e] at hk
    · exact hk
    · exact ih _ (sound_writeLines _ _ _ _ _ _ hk)
@[simp] theorem sound_runLoads (s : State) (x1 x2 x3 x4) (h : Sound A s) : Sound A (runLoads s x1 x2 x3 x4).2.2 := by
  induction x4 generalizing s x3 with
  | nil => exact h
  | cons e r ih =>
    unfold runLoads
    have hk := sound_loadEl s x1 e.va e.n e.al h
    split <;> rename_i e <;> rw [e] at hk
    · exact hk
    · exact ih _ _ hk
@[simp] theorem sound_storeAll (s : State) (x1 x2) (h : Sound A s) : Sound A (storeAll s x1 x2).2 := by
  unfold storeAll
  split <;> rename_i e <;> have hc := sound_eq2 e (sound_checkStores _ _ _ h)
  · exact hc
  · exact sound_runStores _ _ _ hc
@[simp] theorem sound_resumeAt (s : State) (x1 x2 x3) (h : Sound A s) : Sound A (resumeAt s x1 x2 x3).state := h

/-! ### HarzarVector -/

@[simp] theorem sound_putPred (s : State) (x1 x2 x3 x4 x5 x6 x7 x8) (h : Sound A s) : Sound A (putPred s x1 x2 x3 x4 x5 x6 x7 x8) := h
@[simp] theorem sound_loadBody (s : State) (x1 x2 x3 x4 x5) (h : Sound A s) : Sound A (loadBody s x1 x2 x3 x4 x5).state := by
  unfold loadBody
  split <;> rename_i e <;> have hr := sound_eq22 e (sound_runLoads _ _ _ _ _ h)
  · exact hr
  · exact sound_resumeAt _ _ _ _ (sound_if hr hr)
@[simp] theorem sound_storeBody (s : State) (x1 x2 x3) (h : Sound A s) : Sound A (storeBody s x1 x2 x3).state := by
  unfold storeBody
  have hk : Sound A (if x2.compat then storeAll s x1 x3 else runStores s x1 x3).2 := by
    split
    · exact sound_storeAll _ _ _ h
    · exact sound_runStores _ _ _ h
  split <;> rename_i e <;> rw [e] at hk <;> simp (maxDischargeDepth := 40) [hk]
@[simp] theorem sound_storeWhole (s : State) (x1 x2) (h : Sound A s) : Sound A (storeWhole s x1 x2).state := by
  unfold storeWhole
  split <;> rename_i e <;> exact sound_eq2 e (sound_storeAll _ _ _ h)
@[simp] theorem sound_moveBody (s : State) (x1 x2 x3 x4 x5 x6 x7 x8) (h : Sound A s) : Sound A (moveBody s x1 x2 x3 x4 x5 x6 x7 x8) := by
  unfold moveBody
  split <;> simp [h]

/-! ### HarzarDsp -/

@[simp] theorem sound_loopFault (s : State) (h : Sound A s) : Sound A (loopFault s).state := by
  simp [loopFault, h]

/-! ### HostMem -/

@[simp] theorem sound_targetErr (s : State) (x1 x2) (h : Sound A s) : Sound A (targetErr s x1 x2).2 := h
@[simp] theorem sound_fillPages (s : State) (x1 x2 x3 x4) (h : Sound A s) : Sound A (fillPages s x1 x2 x3 x4).2.2 := by
  induction x4 generalizing s x3 with
  | zero => exact h
  | succ k ih =>
    unfold fillPages
    have hk := sound_writePiece s (some x1) x3 (fillBytes x2 x3 2048) h
    split <;> rename_i e <;> rw [e] at hk
    · exact ih _ _ hk
    · exact hk

/-! ### Links -/

@[simp] theorem sound_laneError (s : State) (x1 x2 x3) (h : Sound A s) : Sound A (laneError s x1 x2 x3) := by
  simp [laneError, h]
@[simp] theorem sound_checkLanes (s : State) (x1 x2) (h : Sound A s) : Sound A (checkLanes s x1 x2) := by
  unfold checkLanes
  dsimp only
  split <;> simp [h]
@[simp] theorem sound_linkAck (s : State) (x1 x2) (h : Sound A s) : Sound A (linkAck s x1 x2) := by
  simp [linkAck, h]
@[simp] theorem sound_linkNak (s : State) (x1 x2) (h : Sound A s) : Sound A (linkNak s x1 x2) := by
  simp [linkNak, h]
@[simp] theorem sound_takeAck (s : State) (x1 x2) (h : Sound A s) : Sound A (takeAck s x1 x2) := by
  simp [takeAck, h]
@[simp] theorem sound_linkFail (s : State) (x1 x2 x3 x4) (h : Sound A s) : Sound A (linkFail s x1 x2 x3 x4) := by
  simp (maxDischargeDepth := 40) [linkFail, h]
@[simp] theorem sound_linkGood (s : State) (x1 x2 x3) (h : Sound A s) : Sound A (linkGood s x1 x2 x3) := by
  simp +contextual (maxDischargeDepth := 40) [linkGood, h]
@[simp] theorem sound_linkControl (s : State) (x1 x2) (h : Sound A s) : Sound A (linkControl s x1 x2) := by
  simp [linkControl, h]

/-! ### Manage -/

@[simp] theorem sound_stepTime (s : State) (x1) (h : Sound A s) : Sound A (stepTime s x1) := by
  simp (maxDischargeDepth := 40) [stepTime, h]

/-! ### MemCtl -/

@[simp] theorem sound_fltChannel (s : State) (x1 x2 x3) (h : Sound A s) : Sound A (fltChannel s x1 x2 x3) := by
  simp [fltChannel, h]
@[simp] theorem sound_faultChannel (s : State) (x1) (h : Sound A s) : Sound A (faultChannel s x1) := by
  simp (maxDischargeDepth := 40) [faultChannel, h]
@[simp] theorem sound_scrubNext (s : State) (x1) (h : Sound A s) : Sound A (scrubNext s x1) := h
@[simp] theorem sound_cacheUnc (s : State) (x1 x2) (h : Sound A s) : Sound A (cacheUnc s x1 x2) := by
  simp [cacheUnc, h]
@[simp] theorem sound_srNext (s : State) (x1) (h : Sound A s) : Sound A (srNext s x1) := h
@[simp] theorem sound_losePages (s : State) (x1) (h : Sound A s) : Sound A (losePages s x1) := h

/-! ### Rasp -/

@[simp] theorem sound_unlock (s : State) (x1) (h : Sound A s) : Sound A (unlock s x1) := by
  simp [unlock, h]
@[simp] theorem sound_finishWaiter (s : State) (x1) (h : Sound A s) : Sound A (finishWaiter s x1) := h
@[simp] theorem sound_raspIssue (s : State) (x1 x2 x3 x4) (h : Sound A s) : Sound A (raspIssue s x1 x2 x3 x4).state := by
  unfold raspIssue
  dsimp only
  repeat' split
  all_goals simp (maxDischargeDepth := 40) [h]
@[simp] theorem sound_raspOperation (s : State) (x1 x2 x3 x4 x5 x6) (h : Sound A s) : Sound A (raspOperation s x1 x2 x3 x4 x5 x6) := by
  simp +contextual (maxDischargeDepth := 40) [raspOperation, h]
@[simp] theorem sound_lateError (s : State) (x1 x2 x3 x4) (h : Sound A s) : Sound A (lateError s x1 x2 x3 x4) := by
  simp [lateError, h]
@[simp] theorem sound_clearK (s : State) (x1 x2) (h : Sound A s) : Sound A (clearK s x1 x2) := h
@[simp] theorem sound_raspWriteBack (s : State) (x1 x2 x3) (h : Sound A s) : Sound A (raspWriteBack s x1 x2 x3) := by
  unfold raspWriteBack
  have hr : Sound A (if x2.op = 6 then takeFree s 1 else (0, s)).2 := by split <;> simp [h]
  generalize (if x2.op = 6 then takeFree s 1 else (0, s)) = r at hr
  obtain ⟨up, t⟩ := r
  dsimp only at hr ⊢
  split
  · exact hr
  · generalize (if (raspResult (getRasp t x1).k x2 (up == 1)).isNone = true then 1 else if x3 = 0 then 0 else x3 + 1) = code
    split
    · split
      · exact sound_clearK _ _ _ (sound_setRasp _ _ _ hr)
      · exact hr
    · refine sound_lateError _ _ _ _ _ ?_
      split
      · exact sound_clearK _ _ _ (sound_setRasp _ _ _ (sound_takeFree _ _ hr))
      · exact hr
@[simp] theorem sound_kWord (s : State) (x1) (h : Sound A s) : Sound A (kWord s x1).2 := by
  simp [kWord, h]
@[simp] theorem sound_kError (s : State) (x1 x2) (h : Sound A s) : Sound A (kError s x1 x2) := by
  simp [kError, h]

end Sys2Proof.Machine
end

section
/-!
SUPPORT. What the commands keep, file by file in the model's order.
-/
namespace Sys2Proof.Machine

variable {A : Aims}

/-! ### Operations of whole units -/

@[simp] theorem sound_timeTo (s : State) (t : Nat) (h : Sound A s) : Sound A (timeTo s t) := h
@[simp] theorem sound_ageAwake (s : State) (d : Nat) (h : Sound A s) : Sound A (ageAwake s d) := h
@[simp] theorem sound_stopSoon (s : State) (p : Nat) (h : Sound A s) : Sound A (stopSoon s p) := h
@[simp] theorem sound_dirAwake (s : State) (k : Nat) (deep : Bool) (h : Sound A s) : Sound A (dirAwake s k deep) := by
  cases deep <;> exact h
@[simp] theorem sound_faultLine (s : State) (r : LogRec) (h : Sound A s) : Sound A (faultLine s r) := by
  unfold faultLine
  split <;> exact h
@[simp] theorem sound_writeRecord (s : State) (r : LogRec) (h : Sound A s) : Sound A (writeRecord s r) :=
  sound_faultLine _ _ (sound_appendLog _ _ h)
@[simp] theorem sound_freeCrossed (s : State) (h : Sound A s) : Sound A (freeCrossed s).2 := sound_takeFree s 16 h

/-- The bytes that a command cut short has written (R316) keep what every write keeps. -/
@[simp] theorem sound_partDone (s : State) (p : Nat) (c : HostCmd) (h : Sound A s) : Sound A (partDone s p c) := by
  unfold partDone
  dsimp only
  split
  · exact sound_memWrite _ _ _ _ (sound_takeFree _ _ h)
  · split
    · exact sound_fillPages _ _ _ _ _ (sound_takeFree _ _ h)
    · exact h

@[simp] theorem sound_runSteps (s : State) (p opc : Nat) (body : State → HostCmd → Reply × State)
    (hb : ∀ t c, Sound A t → Sound A (body t c).2) (h : Sound A s) : Sound A (runSteps s p opc body) := by
  unfold runSteps
  split
  · rename_i c _
    split
    · have hk := hb s c h
      split <;> rename_i e
      · exact sound_updHost _ _ _ (sound_eq2 e hk)
      · exact sound_eq2 e hk
    · exact sound_runCmd _ _ _ _ hb h
  · exact sound_runCmd _ _ _ _ hb h

@[simp] theorem sound_destroySteps (s : State) (p : Nat) (h : Sound A s) : Sound A (destroySteps s p).2 := by
  have hs := sound_settleSwitch s p h
  unfold destroySteps
  dsimp only
  split
  · exact hs
  · have hq : Sound A (((upFrom 0 4).filter fun n => ownsBp (quietPart (settleSwitch s p) p) p n).foldl
        (fun s n => updBp s n fun x => { x with sas := [], active := [] }) (quietPart (settleSwitch s p) p)) :=
      sound_foldl _ (fun t n ht => sound_updBp t n _ ht) _ _ (sound_quietPart _ _ hs)
    exact sound_zeroPart _ _ hq

@[simp] theorem sound_restartSteps (tests : List (Fin 112 × CoreTest)) (clusters : List (Fin 24)) (jigs : List (Fin 2 × Fin 17)) (s : State)
    (p : Nat) (h : Sound A s) : Sound A (restartSteps tests clusters jigs s p).2 := by
  have hs := sound_settleSwitch s p h
  unfold restartSteps
  dsimp only
  split
  · exact sound_stopSoon _ _ (sound_updPart _ _ _ hs)
  · refine sound_raisePart _ _ _ _ _ (sound_updPart _ _ _ ?_)
    refine sound_foldl _ (fun t e ht => ?_) _ _ ?_
    · exact sound_if ht ht
    · refine sound_foldl _ (fun t k ht => sound_retestCore t _ _ k ht) _ _ ?_
      refine sound_foldl _ (fun t c ht => ?_) _ _ ?_
      · exact sound_fltEngine _ _ _ ht
      · exact sound_zeroPart _ _ (sound_quietPart _ _ hs)

/-! ### Backhaul -/

theorem sound_execBhFrameRx (s : State) (n bytes fifoFull) (h : Sound A s) : SoundRes A (execBhFrameRx n bytes fifoFull s) := by
  unfold execBhFrameRx
  dsimp only
  have hc := sound_bump s .bhRxFrm n h
  split
  · exact h
  · split
    · exact sound_bump _ _ _ h
    · split
      · exact sound_bump _ _ _ hc
      · split
        · exact sound_bump _ _ _ hc
        · split <;> rename_i e
          · exact sound_bhDeliver _ _ _ _ (sound_eq2 e (sound_macsecRx _ _ _ hc))
          · exact sound_eq2 e (sound_macsecRx _ _ _ hc)
theorem sound_execBhTxFrame (s : State) (n) (h : Sound A s) : SoundRes A (execBhTxFrame n s) := by
  unfold execBhTxFrame
  dsimp only
  split
  · exact h
  · split
    · exact sound_sendPtpFrame _ _ _ (sound_setBp _ _ _ h)
    · split
      · exact h
      · split <;> rename_i e
        · exact sound_txComplete _ _ _ _ _ _ _ (sound_txStatus _ _ _ _ (sound_eq22 e (sound_memRead _ _ _ _ h)))
        · exact sound_txComplete _ _ _ _ _ _ _ (sound_eq22 e (sound_memRead _ _ _ _ h))

/-! ### TimeUnit -/

theorem sound_execPtpMsgRx (s : State) (h : Sound A s) : SoundRes A (execPtpMsgRx s) := by
  unfold execPtpMsgRx
  repeat' split
  all_goals simp [h]
theorem sound_execPtpFollowupRelease (s : State) (h : Sound A s) : SoundRes A (execPtpFollowupRelease s) := by
  unfold execPtpFollowupRelease
  dsimp only
  repeat' split
  all_goals simp (maxDischargeDepth := 40) [h]
theorem sound_execFollowUpNomatch (s : State) (h : Sound A s) : SoundRes A (execFollowUpNomatch s) := by
  unfold execFollowUpNomatch
  split
  · exact h
  · exact sound_bump _ _ _ (sound_sendPtp _ _ _ (sound_dropHeld _ _ h))
theorem sound_execDelayReqSend (s : State) (h : Sound A s) : SoundRes A (execDelayReqSend s) := by
  unfold execDelayReqSend
  repeat' split
  all_goals simp [h]
theorem sound_execOscCheck (s : State) (refA refB diff) (h : Sound A s) : SoundRes A (execOscCheck refA refB diff s) := by
  simp [execOscCheck, h]
theorem sound_execOscEdgeLoss (s : State) (osc) (h : Sound A s) : SoundRes A (execOscEdgeLoss osc s) := by
  simp [execOscEdgeLoss, h]
theorem sound_execRefQualify (s : State) (ext) (h : Sound A s) : SoundRes A (execRefQualify ext s) := by
  simp [execRefQualify, h]
theorem sound_execRefLost (s : State) (ext) (h : Sound A s) : SoundRes A (execRefLost ext s) := by
  simp [execRefLost, h]
theorem sound_execTmLock (s : State) (h : Sound A s) : SoundRes A (execTmLock s) := by
  simp [execTmLock, h]
theorem sound_execHoQualSet (s : State) (h : Sound A s) : SoundRes A (execHoQualSet s) := by
  simp [execHoQualSet, h]
theorem sound_execTmHoEvt (s : State) (h : Sound A s) : SoundRes A (execTmHoEvt s) := by
  simp [execTmHoEvt, h]
theorem sound_execPpsInEdge (s : State) (h : Sound A s) : SoundRes A (execPpsInEdge s) := by
  simp [execPpsInEdge, h]
theorem sound_execPpsInLost (s : State) (h : Sound A s) : SoundRes A (execPpsInLost s) := by
  unfold execPpsInLost
  repeat' split
  all_goals simp [h]
theorem sound_execFreqInChange (s : State) (inside) (h : Sound A s) : SoundRes A (execFreqInChange inside s) := by
  simp [execFreqInChange, h]
theorem sound_execPpsOutSecond (s : State) (h : Sound A s) : SoundRes A (execPpsOutSecond s) := by
  simp [execPpsOutSecond, h]

/-! ### HarzarScalar -/

theorem sound_execIntegerAlu (s : State) (c major rd rs1 rs2 funct) (h : Sound A s) : SoundRes A (execIntegerAlu c major rd rs1 rs2 funct s) := by
  unfold execIntegerAlu
  dsimp only
  split
  · exact sound_instr s _ _ _ _ _ _ (fun _ ht => ht) h
  · split
    · exact h
    · exact sound_illegalWord _ _ _ h
theorem sound_execMultiplyDivide (s : State) (c rd rs1 rs2 funct) (h : Sound A s) : SoundRes A (execMultiplyDivide c rd rs1 rs2 funct s) :=
  sound_instr s _ _ _ _ _ _ (fun _ ht => ht) h
theorem sound_execImmediateAlu (s : State) (c op rd rs1 imm) (h : Sound A s) : SoundRes A (execImmediateAlu c op rd rs1 imm s) :=
  sound_instr s _ _ _ _ _ _ (fun _ ht => ht) h
theorem sound_execInsh (s : State) (c k rd rs1 imm) (h : Sound A s) : SoundRes A (execInsh c k rd rs1 imm s) :=
  sound_instr s _ _ _ _ _ _ (fun _ ht => ht) h
theorem sound_execCallr (s : State) (c rd rs1 imm) (h : Sound A s) : SoundRes A (execCallr c rd rs1 imm s) :=
  sound_instr s _ _ _ _ _ _ (fun _ ht => ht) h
theorem sound_execPcrel (s : State) (c rd rs1 imm) (h : Sound A s) : SoundRes A (execPcrel c rd rs1 imm s) :=
  sound_instr s _ _ _ _ _ _ (fun _ ht => ht) h
theorem sound_execLoad (s : State) (c rt rb fn off) (h : Sound A s) : SoundRes A (execLoad c rt rb fn off s) := by
  refine sound_instr s _ _ _ _ _ _ (fun t ht => ?_) h
  have hk := sound_coreLoad t c (mAddr (getCore t c) rb.toNat off.toNat (2 ^ (fn.toNat % 4))) (2 ^ (fn.toNat % 4)) (2 ^ (fn.toNat % 4)) ht
  dsimp only
  split <;> rename_i e <;> rw [e] at hk <;> exact hk
theorem sound_execStore (s : State) (c rt rb fn off) (h : Sound A s) : SoundRes A (execStore c rt rb fn off s) := by
  refine sound_instr s _ _ _ _ _ _ (fun t ht => ?_) h
  dsimp only
  split <;> rename_i e
  · exact sound_accFault e (sound_coreStore _ _ _ _ _ ht)
  · exact sound_accDone e (sound_coreStore _ _ _ _ _ ht)
theorem sound_execAtomic (s : State) (c rd rs1 rs2 funct) (h : Sound A s) : SoundRes A (execAtomic c rd rs1 rs2 funct s) :=
  sound_instr s _ _ _ _ _ _ (fun t ht => by simp [ht]) h
theorem sound_execJmp (s : State) (c rs off) (h : Sound A s) : SoundRes A (execJmp c rs off s) :=
  sound_instr s _ _ _ _ _ _ (fun _ ht => ht) h
theorem sound_execCall (s : State) (c rs off) (h : Sound A s) : SoundRes A (execCall c rs off s) :=
  sound_instr s _ _ _ _ _ _ (fun _ ht => ht) h
theorem sound_execBranch (s : State) (c cond rs off) (h : Sound A s) : SoundRes A (execBranch c cond rs off s) := by
  refine sound_instr s _ _ _ _ _ _ (fun t ht => ?_) h
  dsimp only
  repeat' split
  all_goals simp [ht]

/-! ### HarzarSystem -/

theorem sound_execSyscall (s : State) (c rd rs1 imm) (h : Sound A s) : SoundRes A (execSyscall c rd rs1 imm s) :=
  sound_instr s _ _ _ _ _ _ (fun _ ht => ht) h
theorem sound_execBpt (s : State) (c rd rs1 imm) (h : Sound A s) : SoundRes A (execBpt c rd rs1 imm s) :=
  sound_instr s _ _ _ _ _ _ (fun _ ht => ht) h
theorem sound_execEret (s : State) (c rd rs1 imm) (h : Sound A s) : SoundRes A (execEret c rd rs1 imm s) := by
  refine sound_instr s _ _ _ _ _ _ (fun t ht => ?_) h
  dsimp only
  repeat' split
  all_goals simp [ht]
theorem sound_execWait (s : State) (c rd rs1 imm) (h : Sound A s) : SoundRes A (execWait c rd rs1 imm s) :=
  sound_instr s _ _ _ _ _ _ (fun t ht => by simp [ht]) h
theorem sound_execWaitComplete (s : State) (c) (h : Sound A s) : SoundRes A (execWaitComplete c s) := by
  unfold execWaitComplete
  dsimp only
  repeat' split
  all_goals simp [h]
theorem sound_execFence (s : State) (c rd rs1 imm) (h : Sound A s) : SoundRes A (execFence c rd rs1 imm s) :=
  sound_instr s _ _ _ _ _ _ (fun _ ht => ht) h
theorem sound_execIfence (s : State) (c rd rs1 imm) (h : Sound A s) : SoundRes A (execIfence c rd rs1 imm s) :=
  sound_instr s _ _ _ _ _ _ (fun _ ht => ht) h
theorem sound_execGetsr (s : State) (c rd rs1 imm) (h : Sound A s) : SoundRes A (execGetsr c rd rs1 imm s) := by
  simp [execGetsr, h]
theorem sound_execSetsr (s : State) (c rd rs1 imm) (h : Sound A s) : SoundRes A (execSetsr c rd rs1 imm s) := by
  simp [execSetsr, h]
theorem sound_execOrsr (s : State) (c rd rs1 imm) (h : Sound A s) : SoundRes A (execOrsr c rd rs1 imm s) := by
  simp [execOrsr, h]
theorem sound_execAndnsr (s : State) (c rd rs1 imm) (h : Sound A s) : SoundRes A (execAndnsr c rd rs1 imm s) := by
  simp [execAndnsr, h]
theorem sound_execClean (s : State) (c rd rs1 imm) (h : Sound A s) : SoundRes A (execClean c rd rs1 imm s) :=
  sound_instr s _ _ _ _ _ _ (fun t ht => sound_lineOp t _ _ _ (fun u pa hu => sound_cleanLine u _ pa hu) ht) h
theorem sound_execInval (s : State) (c rd rs1 imm) (h : Sound A s) : SoundRes A (execInval c rd rs1 imm s) :=
  sound_instr s _ _ _ _ _ _ (fun t ht => sound_lineOp t _ _ _ (fun u pa hu => sound_discardLine u _ pa hu) ht) h
theorem sound_execFlush (s : State) (c rd rs1 imm) (h : Sound A s) : SoundRes A (execFlush c rd rs1 imm s) :=
  sound_instr s _ _ _ _ _ _ (fun t ht => sound_lineOp t _ _ _ (fun u pa hu => sound_discardLine _ _ pa (sound_cleanLine u _ pa hu)) ht) h
theorem sound_execTlbinv (s : State) (c rd rs1 imm) (h : Sound A s) : SoundRes A (execTlbinv c rd rs1 imm s) :=
  sound_instr s _ _ _ _ _ _ (fun _ ht => ht) h
theorem sound_execCoresig (s : State) (c rd rs1 imm) (h : Sound A s) : SoundRes A (execCoresig c rd rs1 imm s) := by
  refine sound_instr s _ _ _ _ _ _ (fun t ht => ?_) h
  dsimp only
  repeat' split
  all_goals simp [ht]
theorem sound_execInterruptTake (s : State) (c) (h : Sound A s) : SoundRes A (execInterruptTake c s) := by
  simp [execInterruptTake, h]
theorem sound_execWiAbort (s : State) (c) (h : Sound A s) : SoundRes A (execWiAbort c s) := by
  unfold execWiAbort
  dsimp only
  repeat' split
  all_goals simp [h]
theorem sound_execTimerCompare (s : State) (c) (h : Sound A s) : SoundRes A (execTimerCompare c s) := by
  simp [execTimerCompare, h]
theorem sound_execStoreErrorAsync (s : State) (c) (h : Sound A s) : SoundRes A (execStoreErrorAsync c s) := by
  unfold execStoreErrorAsync
  dsimp only
  repeat' split
  all_goals simp [h]

/-! ### Power -/

theorem sound_execPwrEntryRequest (s : State) (d) (h : Sound A s) : SoundRes A (execPwrEntryRequest d s) := by
  unfold execPwrEntryRequest
  dsimp only
  repeat' split
  all_goals simp (maxDischargeDepth := 40) [h]
theorem sound_execNocDrainDone (s : State) (d) (h : Sound A s) : SoundRes A (execNocDrainDone d s) := by
  simp [execNocDrainDone, h]
theorem sound_execNocDrainTimeout (s : State) (d) (h : Sound A s) : SoundRes A (execNocDrainTimeout d s) := by
  unfold execNocDrainTimeout
  dsimp only
  repeat' split
  all_goals simp (maxDischargeDepth := 40) [h]
theorem sound_execPwrEntryDone (s : State) (d) (h : Sound A s) : SoundRes A (execPwrEntryDone d s) := by
  unfold execPwrEntryDone
  dsimp only
  repeat' split
  all_goals simp +contextual (maxDischargeDepth := 40) [h]
theorem sound_execPwrWakeDone (s : State) (d lost) (h : Sound A s) : SoundRes A (execPwrWakeDone d lost s) := by
  unfold execPwrWakeDone
  dsimp only
  repeat' split
  all_goals simp +contextual (maxDischargeDepth := 40) [h]
theorem sound_execPwrWakeTimeout (s : State) (d pll oscBad) (h : Sound A s) : SoundRes A (execPwrWakeTimeout d pll oscBad s) := by
  unfold execPwrWakeTimeout
  dsimp only
  repeat' split
  all_goals simp (maxDischargeDepth := 40) [h]
theorem sound_execPwrVoltSettled (s : State) (d) (h : Sound A s) : SoundRes A (execPwrVoltSettled d s) := by
  unfold execPwrVoltSettled
  repeat' split
  all_goals simp [h]
theorem sound_execVoltageRampDownDone (s : State) (d) (h : Sound A s) : SoundRes A (execVoltageRampDownDone d s) := by
  unfold execVoltageRampDownDone
  repeat' split
  all_goals simp [h]

/-! ### Faults -/

theorem sound_execCoreFault (s : State) (c cause) (h : Sound A s) : SoundRes A (execCoreFault c cause s) := by
  simp (maxDischargeDepth := 40) [execCoreFault, h]
theorem sound_execCoreSelftestDone (s : State) (c r) (h : Sound A s) : SoundRes A (execCoreSelftestDone c r s) := by
  simp (maxDischargeDepth := 40) [execCoreSelftestDone, h]
theorem sound_execDmaEngineFault (s : State) (e) (h : Sound A s) : SoundRes A (execDmaEngineFault e s) := by
  unfold execDmaEngineFault
  dsimp only
  repeat' split
  all_goals simp +contextual (maxDischargeDepth := 40) [h]
theorem sound_execDmaEngineTestDone (s : State) (e ok) (h : Sound A s) : SoundRes A (execDmaEngineTestDone e ok s) := by
  simp (maxDischargeDepth := 40) [execDmaEngineTestDone, h]
theorem sound_execTableReload (s : State) (port table entries part lost trig) (h : Sound A s) : SoundRes A (execTableReload port table entries part lost trig s) := by
  unfold execTableReload
  dsimp only
  simp +contextual (maxDischargeDepth := 40) [h]
theorem sound_execMcWatchdog (s : State) (cause) (h : Sound A s) : SoundRes A (execMcWatchdog cause s) := by
  unfold execMcWatchdog
  dsimp only
  repeat' split
  all_goals simp +contextual (maxDischargeDepth := 40) [h]
theorem sound_execMcRestartDone (s : State) (h : Sound A s) : SoundRes A (execMcRestartDone s) := by
  unfold execMcRestartDone
  dsimp only
  repeat' split
  all_goals simp +contextual (maxDischargeDepth := 40) [h]
theorem sound_execDieLost (s : State) (die cause) (h : Sound A s) : SoundRes A (execDieLost die cause s) := by
  simp [execDieLost, h]
theorem sound_execEpochStuck (s : State) (h : Sound A s) : SoundRes A (execEpochStuck s) := by
  unfold execEpochStuck
  dsimp only
  repeat' split
  all_goals simp +contextual (maxDischargeDepth := 40) [h]
theorem sound_execModuleStop (s : State) (h : Sound A s) : SoundRes A (execModuleStop s) := by
  simp [execModuleStop, h]
theorem sound_execLogWrite (s : State) (ok) (h : Sound A s) : SoundRes A (execLogWrite ok s) := by
  unfold execLogWrite
  dsimp only
  repeat' split
  all_goals simp (maxDischargeDepth := 40) [h]

/-! ### Thermal -/

theorem sound_execThSample (s : State) (i reading rise) (h : Sound A s) : SoundRes A (execThSample i reading rise s) := by
  simp (maxDischargeDepth := 40) [execThSample, h]
theorem sound_execAgeReplan (s : State) (mons moves adapted lats flashOk) (h : Sound A s) : SoundRes A (execAgeReplan mons moves adapted lats flashOk s) := by
  unfold execAgeReplan
  split
  · exact h
  · simp only [soundRes_next, sound_mk]
    refine meets_of_sound (sound_if (sound_storePlan _ _ _ _ (sound_raiseMod _ _ _ _ ?_)) (sound_logRec _ _ _ _ _ _ _ _ (sound_raiseMod _ _ _ _ ?_)))
    all_goals
      rw [sound_mk]
      refine meets_of_sound (sound_foldl _ (fun t d ht => ?_) _ _ (sound_readMons _ _ h))
      split
      · exact sound_replanDom _ _ _ ht
      · exact ht
theorem sound_execServiceHour (s : State) (avg) (h : Sound A s) : SoundRes A (execServiceHour avg s) := by
  simp [execServiceHour, h]

/-! ### Startup -/

theorem sound_execStartupStageDone (s : State) (ms k) (h : Sound A s) : SoundRes A (execStartupStageDone ms k s) := by
  unfold execStartupStageDone
  dsimp only
  split
  · exact h
  · split
    · exact h
    · rename_i t e
      have ht : Sound A t := sound_eqSome e (sound_stageBody _ _ (sound_timeTo _ _ h))
      split
      · exact h
      · split
        · exact sound_stopStartup _ _ (sound_timeTo _ _ h)
        · exact sound_if ht (sound_if (sound_beginStage _ _ (sound_trainLinks _ ht)) (sound_beginStage _ _ ht))
theorem sound_execStartupTimeout (s : State) (h : Sound A s) : SoundRes A (execStartupTimeout s) := by
  simp (maxDischargeDepth := 40) [execStartupTimeout, h]
theorem sound_execBootWatchdog (s : State) (a b) (h : Sound A s) : SoundRes A (execBootWatchdog a b s) := by
  unfold execBootWatchdog
  dsimp only
  repeat' split
  all_goals simp (maxDischargeDepth := 40) [h]
theorem sound_execModResetAssert (s : State) (h : Sound A s) : SoundRes A (execModResetAssert s) := by
  simp (maxDischargeDepth := 40) [execModResetAssert, h]
theorem sound_execModResetRelease (s : State) (h : Sound A s) : SoundRes A (execModResetRelease s) := by
  simp [execModResetRelease, h]
theorem sound_execVinOutOfRange (s : State) (h : Sound A s) : SoundRes A (execVinOutOfRange s) := by
  simp [execVinOutOfRange, h]
theorem sound_execInputPowerApply (s : State) (h : Sound A s) : SoundRes A (execInputPowerApply s) := by
  simp [execInputPowerApply, h]

/-! ### HostWin -/

theorem sound_execHostAbort (s : State) (k) (h : Sound A s) : SoundRes A (execHostAbort k s) := by
  simp [execHostAbort, h]
theorem sound_execHostPerst (s : State) (k) (h : Sound A s) : SoundRes A (execHostPerst k s) := by
  simp [execHostPerst, h]
theorem sound_execPerstRelease (s : State) (k) (h : Sound A s) : SoundRes A (execPerstRelease k s) := by
  simp [execPerstRelease, h]
theorem sound_execHostPktTimeout (s : State) (k) (h : Sound A s) : SoundRes A (execHostPktTimeout k s) := by
  simp [execHostPktTimeout, h]

/-! ### Corward -/

theorem sound_execHello (s : State) (k) (h : Sound A s) : SoundRes A (execHello k s) := by
  refine sound_runCmd s _ _ _ (fun t c ht => sound_checked t c _ _ ?_ ht) h
  dsimp only
  repeat' split
  all_goals simp [ht]
theorem sound_execModStatus (s : State) (k mw) (h : Sound A s) : SoundRes A (execModStatus k mw s) := by
  refine sound_runCmd s _ _ _ (fun t c ht => ?_) h
  dsimp only
  repeat' split
  all_goals simp [ht]
theorem sound_execEvtMask (s : State) (k) (h : Sound A s) : SoundRes A (execEvtMask k s) :=
  sound_runCmd s _ _ _ (fun t c ht => by simp [ht]) h
theorem sound_execPartCreate (s : State) (k) (h : Sound A s) : SoundRes A (execPartCreate k s) := by
  refine sound_runCmd s _ _ _ (fun t c ht => ?_) h
  dsimp only
  split
  · exact sound_refuse _ _ _ ht
  · split
    · exact sound_refuse _ _ _ ht
    · refine sound_foldl _ (fun u k hu => sound_resetCore u k hu) _ _ ?_
      refine sound_foldl _ (fun u k hu => ?_) _ _ ?_
      · exact sound_updDma _ _ _ hu
      · exact sound_setShares _ _ _ (sound_updPart _ _ _ (sound_if ht (sound_placeGrid _ _ ht)))
theorem sound_execPartDestroy (s : State) (k) (h : Sound A s) : SoundRes A (execPartDestroy k s) :=
  sound_runSteps s _ _ _ (fun t c ht => by simp [ht]) h
theorem sound_execPartReleaseFill (s : State) (die) (h : Sound A s) : SoundRes A (execPartReleaseFill die s) := by
  unfold execPartReleaseFill
  dsimp only
  split
  · exact h
  · split
    · exact h
    · refine sound_foldl _ (fun t e ht => ?_) _ _ h
      split
      · exact sound_if (sound_writeWholePage _ _ _ _ ht) ht
      · exact ht
theorem sound_execPartQuery (s : State) (k) (h : Sound A s) : SoundRes A (execPartQuery k s) :=
  sound_runCmd s _ _ _ (fun t c ht => by simp [ht]) h
theorem sound_execPartRestart (s : State) (k tests clusters jigs) (h : Sound A s) : SoundRes A (execPartRestart k tests clusters jigs s) :=
  sound_runSteps s _ _ _ (fun t c ht => by simp [ht]) h
theorem sound_execCoreStart (s : State) (k) (h : Sound A s) : SoundRes A (execCoreStart k s) := by
  refine sound_runCmd s _ _ _ (fun t c ht => sound_checked t c _ _ ?_ ht) h
  dsimp only
  repeat' split
  all_goals simp +contextual (maxDischargeDepth := 40) [ht]
theorem sound_execCoreStop (s : State) (k) (h : Sound A s) : SoundRes A (execCoreStop k s) := by
  refine sound_runCmd s _ _ _ (fun t c ht => sound_checked t c _ _ ?_ ht) h
  dsimp only
  repeat' split
  all_goals simp +contextual (maxDischargeDepth := 40) [ht]
theorem sound_execJigShare (s : State) (k) (h : Sound A s) : SoundRes A (execJigShare k s) := by
  refine sound_runCmd s _ _ _ (fun t c ht => ?_) h
  dsimp only
  repeat' split
  all_goals simp (maxDischargeDepth := 40) [ht]
theorem sound_execNocRegulate (s : State) (k) (h : Sound A s) : SoundRes A (execNocRegulate k s) := by
  refine sound_runCmd s _ _ _ (fun t c ht => sound_checked t c _ _ ?_ ht) h
  dsimp only
  repeat' split
  all_goals simp [ht]
theorem sound_execGainGroup (s : State) (k) (h : Sound A s) : SoundRes A (execGainGroup k s) := by
  refine sound_runCmd s _ _ _ (fun t c ht => sound_checked t c _ _ ?_ ht) h
  dsimp only
  repeat' split
  all_goals simp [ht]
theorem sound_execHostMsg (s : State) (k) (h : Sound A s) : SoundRes A (execHostMsg k s) := by
  refine sound_runCmd s _ _ _ (fun t c ht => sound_checked t c _ _ ?_ ht) h
  dsimp only
  split
  · exact sound_refuse _ _ _ ht
  · split
    · exact sound_refuse _ _ _ ht
    · split <;> rename_i e
      · exact sound_enqueueExt _ _ _ (sound_eq22 e (sound_memWrite _ _ _ _ ht))
      · exact sound_eq22 e (sound_memWrite _ _ _ _ ht)
theorem sound_execPwrSet (s : State) (k) (h : Sound A s) : SoundRes A (execPwrSet k s) := by
  refine sound_runCmd s _ _ _ (fun t c ht => ?_) h
  dsimp only
  repeat' split
  all_goals simp [ht]

/-! ### Dma -/

theorem sound_execDmaPauseDone (s : State) (e c units) (h : Sound A s) : SoundRes A (execDmaPauseDone e c units s) := by
  simp (maxDischargeDepth := 40) [execDmaPauseDone, h]
theorem sound_execDmaDescFetch (s : State) (e c) (h : Sound A s) : SoundRes A (execDmaDescFetch e c s) := by
  unfold execDmaDescFetch
  dsimp only
  have hs := sound_takeSeq s (dmaPort (dmaNo e c)) h
  split
  · exact h
  · split
    · exact sound_fetchFailed _ _ _ _ hs
    · split
      · split <;> rename_i e <;> have hk := sound_eq22 e (sound_memRead _ _ _ _ hs)
        · split
          · exact sound_park _ _ _ hk
          · exact sound_setDma _ _ _ hk
        · exact sound_fetchFailed _ _ _ _ hk
      · split <;> rename_i e <;> have hk := sound_eq22 e (sound_memRead _ _ _ _ hs)
        · split
          · exact sound_park _ _ _ (sound_setDma _ _ _ hk)
          · split
            · exact sound_completeDesc _ _ _ _ _ _ (sound_badCurs _ _ (sound_setDma _ _ _ hk))
            · exact sound_testTrigger _ _ (sound_setDma _ _ _ hk)
        · exact sound_fetchFailed _ _ _ _ hk
theorem sound_execDmaTrigger (s : State) (e c) (h : Sound A s) : SoundRes A (execDmaTrigger e c s) := by
  simp (maxDischargeDepth := 40) [execDmaTrigger, h]
theorem sound_execDmaDescComplete (s : State) (e c) (h : Sound A s) : SoundRes A (execDmaDescComplete e c s) := by
  simp [execDmaDescComplete, h]

/-! ### Dovetail -/

theorem sound_execDvEnq (s : State) (c rd rs1 imm) (h : Sound A s) : SoundRes A (execDvEnq c rd rs1 imm s) :=
  sound_instr s _ _ _ _ _ _ (fun t ht => by simp [ht]) h
theorem sound_execDvGet (s : State) (c rd rs1 imm) (h : Sound A s) : SoundRes A (execDvGet c rd rs1 imm s) :=
  sound_instr s _ _ _ _ _ _ (fun t ht => by simp [ht]) h
theorem sound_execDvRel (s : State) (c rd rs1 imm) (h : Sound A s) : SoundRes A (execDvRel c rd rs1 imm s) :=
  sound_instr s _ _ _ _ _ _ (fun t ht => by simp [ht]) h
theorem sound_execDvCxl (s : State) (c rd rs1 imm) (h : Sound A s) : SoundRes A (execDvCxl c rd rs1 imm s) :=
  sound_instr s _ _ _ _ _ _ (fun t ht => by simp [ht]) h
theorem sound_execDvItemArrive (s : State) (p flow kind prio tag arg0 arg1) (h : Sound A s) : SoundRes A (execDvItemArrive p flow kind prio tag arg0 arg1 s) := by
  simp [execDvItemArrive, h]
theorem sound_execDvStage (s : State) (die) (h : Sound A s) : SoundRes A (execDvStage die s) := by
  unfold execDvStage
  dsimp only
  repeat' split
  all_goals simp (maxDischargeDepth := 40) [h]
theorem sound_execDvFwdRetry (s : State) (flow) (h : Sound A s) : SoundRes A (execDvFwdRetry flow s) := by
  simp [execDvFwdRetry, h]

/-! ### FrameTx -/

theorem sound_execFrameTxStart (s : State) (m unitW unitP) (h : Sound A s) : SoundRes A (execFrameTxStart m unitW unitP s) := by
  unfold execFrameTxStart
  dsimp only
  repeat' split
  all_goals simp (maxDischargeDepth := 40) [h]
theorem sound_execFhSlotTx (s : State) (m) (h : Sound A s) : SoundRes A (execFhSlotTx m s) := by
  unfold execFhSlotTx
  dsimp only
  repeat' split
  all_goals simp (maxDischargeDepth := 40) [h]
theorem sound_execFhTxAis (s : State) (who m on) (h : Sound A s) : SoundRes A (execFhTxAis who m on s) :=
  soundRes_fhWrite s _ _ _ (fun _ ht => ht) h

/-! ### Gain -/

theorem sound_execGcMeasureComplete (s : State) (g tick) (h : Sound A s) : SoundRes A (execGcMeasureComplete g tick s) := by
  simp (maxDischargeDepth := 40) [execGcMeasureComplete, h]
theorem sound_execGcAckCheck (s : State) (g) (h : Sound A s) : SoundRes A (execGcAckCheck g s) := by
  unfold execGcAckCheck
  dsimp only
  repeat' split
  all_goals simp [h]
theorem sound_execGcFixEnd (s : State) (g) (h : Sound A s) : SoundRes A (execGcFixEnd g s) := by
  simp [execGcFixEnd, h]
theorem sound_execNsEarlySighting (s : State) (ctx pre fo start delay pwr metric noise) (h : Sound A s) : SoundRes A (execNsEarlySighting ctx pre fo start delay pwr metric noise s) := by
  unfold execNsEarlySighting
  dsimp only
  repeat' split
  all_goals simp (maxDischargeDepth := 40) [h]
theorem sound_execNsReport (s : State) (ctx pre fo start delay pwr metric noise) (h : Sound A s) : SoundRes A (execNsReport ctx pre fo start delay pwr metric noise s) := by
  unfold execNsReport
  dsimp only
  repeat' split
  all_goals simp (maxDischargeDepth := 40) [h]

/-! ### Jig -/

theorem sound_execJgDispatch (s : State) (die cls) (h : Sound A s) : SoundRes A (execJgDispatch die cls s) := by
  unfold execJgDispatch
  dsimp only
  split
  · exact h
  · split
    · rename_i i j t _ e
      have hk := sound_dropQueued t (fun r => r.ord == j.ord) (sound_nextJob _ _ _ _ _ h e)
      split
      · exact sound_endUnrun _ _ _ hk
      · exact hk
    · exact h
theorem sound_execJgComplete (s : State) (die cls inst k) (h : Sound A s) : SoundRes A (execJgComplete die cls inst k s) := by
  unfold execJgComplete
  repeat' split
  all_goals simp [h]
theorem sound_execJgFault (s : State) (die cls inst) (h : Sound A s) : SoundRes A (execJgFault die cls inst s) := by
  unfold execJgFault
  dsimp only
  split
  · exact h
  · generalize hs : logRec _ _ _ _ _ _ _ _ = t
    have ht : Sound A t := by
      rw [← hs]
      refine sound_logRec _ _ _ _ _ _ _ _ (sound_foldl _ (fun t p ht => sound_if (sound_deliver t _ _ _ _ ht) ht) _ _ ?_)
      exact sound_bump _ _ _ (sound_noteDeg _ h)
    clear hs
    have hd := fun r => sound_dropRunning t (fun q => q == r) ht
    refine sound_if ?_ (sound_endQueued _ _ _ ?_)
    all_goals
      split
      · exact ht
      · exact sound_if (sound_endStopped _ _ _ (hd _)) (meets_of_sound (sound_bump _ _ _ (hd _)))

/-! ### Lane -/

theorem sound_execLnTxSleepEnter (s : State) (who n depth) (h : Sound A s) : SoundRes A (execLnTxSleepEnter who n depth s) :=
  soundRes_lnWrite s _ _ _ (fun t ht => by simp [ht]) h
theorem sound_execLnTxWake (s : State) (who n) (h : Sound A s) : SoundRes A (execLnTxWake who n s) :=
  soundRes_lnWrite s _ _ _ (fun t ht => by simp [ht]) h
theorem sound_execLnRxSleepEnter (s : State) (who n depth) (h : Sound A s) : SoundRes A (execLnRxSleepEnter who n depth s) :=
  soundRes_lnWrite s _ _ _ (fun t ht => by simp [ht]) h
theorem sound_execLnRxWake (s : State) (who n) (h : Sound A s) : SoundRes A (execLnRxWake who n s) :=
  soundRes_lnWrite s _ _ _ (fun t ht => by simp [ht]) h
theorem sound_execLnDepthChange (s : State) (who n rx deep) (h : Sound A s) : SoundRes A (execLnDepthChange who n rx deep s) :=
  soundRes_lnWrite s _ _ _ (fun t ht => by simp [ht]) h
theorem sound_execLnSleepDone (s : State) (n rx) (h : Sound A s) : SoundRes A (execLnSleepDone n rx s) := by
  simp (maxDischargeDepth := 40) [execLnSleepDone, h]
theorem sound_execLnWakeDone (s : State) (n rx) (h : Sound A s) : SoundRes A (execLnWakeDone n rx s) := by
  simp (maxDischargeDepth := 40) [execLnWakeDone, h]
theorem sound_execLnWakeFail (s : State) (n rx) (h : Sound A s) : SoundRes A (execLnWakeFail n rx s) := by
  simp (maxDischargeDepth := 40) [execLnWakeFail, h]
theorem sound_execPrbsSymbolRx (s : State) (n level) (h : Sound A s) : SoundRes A (execPrbsSymbolRx n level s) := by
  simp (maxDischargeDepth := 40) [execPrbsSymbolRx, h]
theorem sound_execOpticalSignalChange (s : State) (n present) (h : Sound A s) : SoundRes A (execOpticalSignalChange n present s) := by
  simp (maxDischargeDepth := 40) [execOpticalSignalChange, h]
theorem sound_execOeFault (s : State) (e) (h : Sound A s) : SoundRes A (execOeFault e s) := by
  unfold execOeFault
  dsimp only
  simp +contextual (maxDischargeDepth := 40) [h]
theorem sound_execFecCodewordRx (s : State) (n levels am) (h : Sound A s) : SoundRes A (execFecCodewordRx n levels am s) := by
  simp (maxDischargeDepth := 40) [execFecCodewordRx, h]

/-! ### Panic -/

theorem sound_execPanicRaise (s : State) (src fill) (h : Sound A s) : SoundRes A (execPanicRaise src fill s) := by
  simp [execPanicRaise, h]
theorem sound_execPanicLift (s : State) (src fill) (h : Sound A s) : SoundRes A (execPanicLift src fill s) := by
  simp [execPanicLift, h]

/-! ### Tick -/

theorem sound_execTickStart (s : State) (h : Sound A s) : SoundRes A (execTickStart s) := by
  unfold execTickStart
  dsimp only
  repeat' split
  all_goals simp +contextual (maxDischargeDepth := 40) [h]
theorem sound_execTriggerInject (s : State) (p) (h : Sound A s) : SoundRes A (execTriggerInject p s) := by
  unfold execTriggerInject
  dsimp only
  repeat' split
  all_goals simp (maxDischargeDepth := 40) [h]
theorem sound_execTickPlanSwitch (s : State) (p) (h : Sound A s) : SoundRes A (execTickPlanSwitch p s) := by
  simp [execTickPlanSwitch, h]
theorem sound_execTickOvr (s : State) (p) (h : Sound A s) : SoundRes A (execTickOvr p s) := by
  unfold execTickOvr
  repeat' split
  all_goals simp [h]
theorem sound_execTickEscDrop (s : State) (p) (h : Sound A s) : SoundRes A (execTickEscDrop p s) := by
  unfold execTickEscDrop
  repeat' split
  all_goals simp [h]

/-! ### Regs -/

theorem sound_execCounterReadClear (s : State) (who r same) (h : Sound A s) : SoundRes A (execCounterReadClear who r same s) := by
  unfold execCounterReadClear
  split
  · exact h
  · split
    · split
      · exact h
      · exact sound_answer _ _ _ (sound_ctrSet _ _ _ _ (Nat.min_le_left _ _) h)
    · exact h
    · dsimp only
      split
      · exact sound_answer _ _ _ (sound_noteGate _ _ _ h)
      · split <;> rename_i e <;> exact sound_answer _ _ _ (sound_eq22 e (sound_regRead _ _ _ _ _ h))
    · exact sound_answer _ _ _ (sound_windowR _ _ _ h)
    · exact h
    · exact h

/-! ### Fabric -/

theorem sound_execNocInject (s : State) (src r) (h : Sound A s) : SoundRes A (execNocInject src r s) := by
  unfold execNocInject
  repeat' split
  all_goals simp [h]
theorem sound_execNocRead (s : State) (src dest bad) (h : Sound A s) : SoundRes A (execNocRead src dest bad s) := by
  unfold execNocRead
  dsimp only
  simp +contextual (maxDischargeDepth := 40) [h]
theorem sound_execNocWrite (s : State) (src dest bad) (h : Sound A s) : SoundRes A (execNocWrite src dest bad s) := by
  unfold execNocWrite
  dsimp only
  simp +contextual (maxDischargeDepth := 40) [h]
theorem sound_execNocAtomic (s : State) (src dest bad) (h : Sound A s) : SoundRes A (execNocAtomic src dest bad s) := by
  unfold execNocAtomic
  dsimp only
  simp +contextual (maxDischargeDepth := 40) [h]
theorem sound_execNocSwrite (s : State) (src dest bad) (h : Sound A s) : SoundRes A (execNocSwrite src dest bad s) := by
  unfold execNocSwrite
  dsimp only
  simp +contextual (maxDischargeDepth := 40) [h]
theorem sound_execNocSwriteL (s : State) (src dest bad) (h : Sound A s) : SoundRes A (execNocSwriteL src dest bad s) := by
  unfold execNocSwriteL
  dsimp only
  simp +contextual (maxDischargeDepth := 40) [h]
theorem sound_execNocDvitem (s : State) (src dest bad) (h : Sound A s) : SoundRes A (execNocDvitem src dest bad s) := by
  unfold execNocDvitem
  dsimp only
  simp +contextual (maxDischargeDepth := 40) [h]
theorem sound_execNocDvans (s : State) (src dest bad) (h : Sound A s) : SoundRes A (execNocDvans src dest bad s) := by
  unfold execNocDvans
  dsimp only
  repeat' split
  all_goals simp +contextual (maxDischargeDepth := 40) [h]
theorem sound_execNocNotify (s : State) (src dest bad) (h : Sound A s) : SoundRes A (execNocNotify src dest bad s) := by
  unfold execNocNotify
  dsimp only
  repeat' split
  all_goals simp +contextual (maxDischargeDepth := 40) [h]
theorem sound_execNocRdata (s : State) (src dest bad) (h : Sound A s) : SoundRes A (execNocRdata src dest bad s) :=
  sound_arrive s _ _ _ _ _ (fun t p ht => sound_handAnswer t p ht) h
theorem sound_execNocWack (s : State) (src dest bad) (h : Sound A s) : SoundRes A (execNocWack src dest bad s) :=
  sound_arrive s _ _ _ _ _ (fun t p ht => sound_handAnswer t p ht) h
theorem sound_execNocAack (s : State) (src dest bad) (h : Sound A s) : SoundRes A (execNocAack src dest bad s) :=
  sound_arrive s _ _ _ _ _ (fun t p ht => sound_handAnswer t p ht) h
theorem sound_execNocLanded (s : State) (src dest bad) (h : Sound A s) : SoundRes A (execNocLanded src dest bad s) :=
  sound_arrive s _ _ _ _ _ (fun t p ht => sound_handAnswer t p ht) h
theorem sound_execNocSnak (s : State) (src dest bad) (h : Sound A s) : SoundRes A (execNocSnak src dest bad s) :=
  sound_arrive s _ _ _ _ _ (fun t p ht => sound_handAnswer t p ht) h
theorem sound_execNocReqTimeout (s : State) (port cls seq) (h : Sound A s) : SoundRes A (execNocReqTimeout port cls seq s) := by
  unfold execNocReqTimeout
  dsimp only
  repeat' split
  all_goals simp (maxDischargeDepth := 40) [h]
theorem sound_execNocRteEpochGo (s : State) (who die) (h : Sound A s) : SoundRes A (execNocRteEpochGo who die s) := by
  simp [execNocRteEpochGo, h]
theorem sound_execNocEpochRetire (s : State) (h : Sound A s) : SoundRes A (execNocEpochRetire s) := by
  unfold execNocEpochRetire
  dsimp only
  repeat' split
  all_goals simp +contextual (maxDischargeDepth := 40) [h]
theorem sound_execNocEpochLate (s : State) (h : Sound A s) : SoundRes A (execNocEpochLate s) := by
  unfold execNocEpochLate
  dsimp only
  simp +contextual (maxDischargeDepth := 40) [h]

/-! ### Flash -/

theorem sound_execFwWrite (s : State) (k flashOk) (h : Sound A s) : SoundRes A (execFwWrite k flashOk s) := by
  refine sound_runCmd s _ _ _ (fun t c ht => sound_checked t c _ _ ?_ ht) h
  dsimp only
  repeat' split
  all_goals simp [ht]
theorem sound_execFwCommit (s : State) (k flashOk sigOk) (h : Sound A s) : SoundRes A (execFwCommit k flashOk sigOk s) := by
  refine sound_runCmd s _ _ _ (fun t c ht => ?_) h
  dsimp only
  repeat' split
  all_goals simp [ht]
theorem sound_execFwSelect (s : State) (k flashOk img) (h : Sound A s) : SoundRes A (execFwSelect k flashOk img s) := by
  refine sound_runCmd s _ _ _ (fun t c ht => sound_checked t c _ _ ?_ ht) h
  dsimp only
  repeat' split
  all_goals simp +contextual (maxDischargeDepth := 40) [ht]
theorem sound_execLogRead (s : State) (k bad) (h : Sound A s) : SoundRes A (execLogRead k bad s) := by
  refine sound_runCmd s _ _ _ (fun t c ht => ?_) h
  dsimp only
  repeat' split
  all_goals simp [ht]

/-! ### FrameRx -/

theorem sound_execGapHeaderRx (s : State) (n pos hdr) (h : Sound A s) : SoundRes A (execGapHeaderRx n pos hdr s) := by
  unfold execGapHeaderRx
  dsimp only
  repeat' split
  all_goals simp [h]
theorem sound_execFawMatch (s : State) (n pos hits oh) (h : Sound A s) : SoundRes A (execFawMatch n pos hits oh s) := by
  simp [execFawMatch, h]
theorem sound_execLineFrameRx (s : State) (n bytes unc) (h : Sound A s) : SoundRes A (execLineFrameRx n bytes unc s) := by
  simp (maxDischargeDepth := 40) [execLineFrameRx, h]
theorem sound_execFhFrameRelease (s : State) (m nOver) (h : Sound A s) : SoundRes A (execFhFrameRelease m nOver s) := by
  unfold execFhFrameRelease
  dsimp only
  repeat' split
  all_goals simp (maxDischargeDepth := 40) [h]
theorem sound_execDefectEval (s : State) (m) (h : Sound A s) : SoundRes A (execDefectEval m s) := by
  simp (maxDischargeDepth := 40) [execDefectEval, h]
theorem sound_execPerfSecondCommit (s : State) (m) (h : Sound A s) : SoundRes A (execPerfSecondCommit m s) := by
  simp (maxDischargeDepth := 40) [execPerfSecondCommit, h]

/-! ### HarzarVector -/

theorem sound_execVectorIntOp (s : State) (c long vd vs1 vs2 pg funct) (h : Sound A s) : SoundRes A (execVectorIntOp c long vd vs1 vs2 pg funct s) :=
  sound_vinstr s _ _ _ _ _ _ _ _ (fun _ _ ht => ht) h
theorem sound_execVectorMultiply (s : State) (c long vd vs1 vs2 pg funct) (h : Sound A s) : SoundRes A (execVectorMultiply c long vd vs1 vs2 pg funct s) := by
  refine sound_vinstr s _ _ _ _ _ _ _ _ (fun t x ht => ?_) h
  dsimp only
  split
  · exact sound_lanewise _ _ _ _ _ _ _ _ ht
  · exact sound_elemwise _ _ _ _ _ _ _ _ ht
theorem sound_execVvsete (s : State) (c long vd vs1 vs2 pg) (h : Sound A s) : SoundRes A (execVvsete c long vd vs1 vs2 pg s) :=
  sound_vinstr s _ _ _ _ _ _ _ _ (fun _ _ ht => ht) h
theorem sound_execVeneerMac (s : State) (c long k vd vs1 vs2 pg) (h : Sound A s) : SoundRes A (execVeneerMac c long k vd vs1 vs2 pg s) :=
  sound_vinstr s _ _ _ _ _ _ _ _ (fun _ _ ht => ht) h
theorem sound_execVvnorm (s : State) (c long vd vs1 vs2 pg) (h : Sound A s) : SoundRes A (execVvnorm c long vd vs1 vs2 pg s) :=
  sound_vinstr s _ _ _ _ _ _ _ _ (fun _ _ ht => ht) h
theorem sound_execVectorCompare (s : State) (c long k vd vs1 vs2 pg) (h : Sound A s) : SoundRes A (execVectorCompare c long k vd vs1 vs2 pg s) :=
  sound_vinstr s _ _ _ _ _ _ _ _ (fun _ _ ht => ht) h
theorem sound_execVrange (s : State) (c long vd vs1 vs2 pg) (h : Sound A s) : SoundRes A (execVrange c long vd vs1 vs2 pg s) :=
  sound_vinstr s _ _ _ _ _ _ _ _ (fun _ _ ht => ht) h
theorem sound_execPredicateLogic (s : State) (c long k vd vs1 vs2 pg) (h : Sound A s) : SoundRes A (execPredicateLogic c long k vd vs1 vs2 pg s) :=
  sound_vinstr s _ _ _ _ _ _ _ _ (fun _ _ ht => ht) h
theorem sound_execVffmask (s : State) (c long vd vs1 vs2 pg) (h : Sound A s) : SoundRes A (execVffmask c long vd vs1 vs2 pg s) := by
  refine sound_vinstr s _ _ _ _ _ _ _ _ (fun t x ht => ?_) h
  have hk : Sound A (if x.et = 0 ∧ x.ffr % 2 = 1 then takeFree t 1 else (0, t)).2 := by split <;> simp [ht]
  generalize (if x.et = 0 ∧ x.ffr % 2 = 1 then takeFree t 1 else (0, t)) = r at hk ⊢
  exact hk
theorem sound_execVffset (s : State) (c long vd vs1 vs2 pg) (h : Sound A s) : SoundRes A (execVffset c long vd vs1 vs2 pg s) :=
  sound_vinstr s _ _ _ _ _ _ _ _ (fun _ _ ht => ht) h
theorem sound_execVffget (s : State) (c long vd vs1 vs2 pg) (h : Sound A s) : SoundRes A (execVffget c long vd vs1 vs2 pg s) :=
  sound_vinstr s _ _ _ _ _ _ _ _ (fun _ _ ht => ht) h
theorem sound_execVffarm (s : State) (c long vd vs1 vs2 pg) (h : Sound A s) : SoundRes A (execVffarm c long vd vs1 vs2 pg s) :=
  sound_vinstr s _ _ _ _ _ _ _ _ (fun _ _ ht => ht) h
theorem sound_execVcntp (s : State) (c long vd vs1 vs2 pg) (h : Sound A s) : SoundRes A (execVcntp c long vd vs1 vs2 pg s) :=
  sound_vinstr s _ _ _ _ _ _ _ _ (fun _ _ ht => ht) h
theorem sound_execVectorReduce (s : State) (c long k vd vs1 vs2 pg) (h : Sound A s) : SoundRes A (execVectorReduce c long k vd vs1 vs2 pg s) :=
  sound_vinstr s _ _ _ _ _ _ _ _ (fun _ _ ht => ht) h
theorem sound_execVperm (s : State) (c long vd vs1 vs2 pg) (h : Sound A s) : SoundRes A (execVperm c long vd vs1 vs2 pg s) :=
  sound_vinstr s _ _ _ _ _ _ _ _ (fun _ _ ht => ht) h
theorem sound_execVectorLoad (s : State) (c long form vd vs1 vs2 pg) (h : Sound A s) : SoundRes A (execVectorLoad c long form vd vs1 vs2 pg s) :=
  sound_vinstr s _ _ _ _ _ _ _ _ (fun t x ht => by simp [ht]) h
theorem sound_execVectorLoadFf (s : State) (c long form vd vs1 vs2 pg) (h : Sound A s) : SoundRes A (execVectorLoadFf c long form vd vs1 vs2 pg s) := by
  refine sound_vinstr s _ _ _ _ _ _ _ _ (fun t x ht => ?_) h
  dsimp only
  split <;> rename_i e <;> have hk := sound_eq22 e (sound_runLoads _ _ _ _ _ ht)
  · exact hk
  · split <;> exact hk
theorem sound_execVldpk (s : State) (c long vd vs1 vs2 pg) (h : Sound A s) : SoundRes A (execVldpk c long vd vs1 vs2 pg s) :=
  sound_vinstr s _ _ _ _ _ _ _ _ (fun t x ht => by simp [ht]) h
theorem sound_execVldr (s : State) (c long vd vs1 vs2 pg) (h : Sound A s) : SoundRes A (execVldr c long vd vs1 vs2 pg s) := by
  refine sound_vinstr s _ _ _ _ _ _ _ _ (fun t x ht => ?_) h
  dsimp only
  split <;> rename_i e <;> have hk := sound_eq22 e (sound_runLoads _ _ _ _ _ ht) <;> exact hk
theorem sound_execVldpr (s : State) (c long vd vs1 vs2 pg) (h : Sound A s) : SoundRes A (execVldpr c long vd vs1 vs2 pg s) := by
  refine sound_vinstr s _ _ _ _ _ _ _ _ (fun t x ht => ?_) h
  dsimp only
  split <;> rename_i e <;> have hk := sound_eq22 e (sound_runLoads _ _ _ _ _ ht) <;> exact hk
theorem sound_execVectorStore (s : State) (c long form vd vs1 vs2 pg) (h : Sound A s) : SoundRes A (execVectorStore c long form vd vs1 vs2 pg s) :=
  sound_vinstr s _ _ _ _ _ _ _ _ (fun t x ht => by simp [ht]) h
theorem sound_execVstpk (s : State) (c long vd vs1 vs2 pg) (h : Sound A s) : SoundRes A (execVstpk c long vd vs1 vs2 pg s) :=
  sound_vinstr s _ _ _ _ _ _ _ _ (fun t x ht => by simp [ht]) h
theorem sound_execVstr (s : State) (c long vd vs1 vs2 pg) (h : Sound A s) : SoundRes A (execVstr c long vd vs1 vs2 pg s) :=
  sound_vinstr s _ _ _ _ _ _ _ _ (fun t x ht => by simp [ht]) h
theorem sound_execVstpr (s : State) (c long vd vs1 vs2 pg) (h : Sound A s) : SoundRes A (execVstpr c long vd vs1 vs2 pg s) :=
  sound_vinstr s _ _ _ _ _ _ _ _ (fun t x ht => by simp [ht]) h
theorem sound_execVectorMove (s : State) (c long k vd vs1 vs2 pg) (h : Sound A s) : SoundRes A (execVectorMove c long k vd vs1 vs2 pg s) :=
  sound_vinstr s _ _ _ _ _ _ _ _ (fun t x ht => by simp [ht]) h
theorem sound_execVcnt (s : State) (c long vd vs1 vs2 pg) (h : Sound A s) : SoundRes A (execVcnt c long vd vs1 vs2 pg s) :=
  sound_vinstr s _ _ _ _ _ _ _ _ (fun _ _ ht => ht) h
theorem sound_execVectorConvert (s : State) (c long k vd vs1 vs2 pg) (h : Sound A s) : SoundRes A (execVectorConvert c long k vd vs1 vs2 pg s) := by
  refine sound_vinstr s _ _ _ _ _ _ _ _ (fun t x ht => ?_) h
  dsimp only
  split
  · exact sound_elemwise _ _ _ _ _ _ _ _ ht
  · exact sound_elemwise _ _ _ _ _ _ _ _ ht

/-! ### HarzarDsp -/

theorem sound_execCbwb (s : State) (c rd rs1 rs2 pg n) (h : Sound A s) : SoundRes A (execCbwb c rd rs1 rs2 pg n s) :=
  sound_instr s _ _ _ _ _ _ (fun _ ht => ht) h
theorem sound_execCbwl (s : State) (c rd rs1 rs2 pg n) (h : Sound A s) : SoundRes A (execCbwl c rd rs1 rs2 pg n s) :=
  sound_instr s _ _ _ _ _ _ (fun _ ht => ht) h
theorem sound_execCbrb (s : State) (c rd rs1 rs2 pg n) (h : Sound A s) : SoundRes A (execCbrb c rd rs1 rs2 pg n s) :=
  sound_instr s _ _ _ _ _ _ (fun _ ht => ht) h
theorem sound_execCbrl (s : State) (c rd rs1 rs2 pg n) (h : Sound A s) : SoundRes A (execCbrl c rd rs1 rs2 pg n s) :=
  sound_instr s _ _ _ _ _ _ (fun _ ht => ht) h
theorem sound_execCbinc (s : State) (c rd rs1 rs2 pg n) (h : Sound A s) : SoundRes A (execCbinc c rd rs1 rs2 pg n s) :=
  sound_instr s _ _ _ _ _ _ (fun _ ht => ht) h
theorem sound_execCbinci (s : State) (c rd rs1 n step) (h : Sound A s) : SoundRes A (execCbinci c rd rs1 n step s) :=
  sound_instr s _ _ _ _ _ _ (fun _ ht => ht) h
theorem sound_execVldc (s : State) (c long rd rs1 rs2 pg n) (h : Sound A s) : SoundRes A (execVldc c long rd rs1 rs2 pg n s) := by
  refine sound_vinstr s _ _ _ _ _ _ _ _ (fun t x ht => ?_) h
  dsimp only
  split <;> rename_i e <;> have hk := sound_eq22 e (sound_runLoads _ _ _ _ _ ht) <;> exact hk
theorem sound_execVstc (s : State) (c long rd rs1 rs2 pg n) (h : Sound A s) : SoundRes A (execVstc c long rd rs1 rs2 pg n s) :=
  sound_vinstr s _ _ _ _ _ _ _ _ (fun t x ht => by simp [ht]) h
theorem sound_execLoop (s : State) (c rd rs1 imm) (h : Sound A s) : SoundRes A (execLoop c rd rs1 imm s) := by
  refine sound_instr s _ _ _ _ _ _ (fun t ht => ?_) h
  dsimp only
  repeat' split
  all_goals simp [ht]
theorem sound_execLpbrk (s : State) (c rd rs1 imm) (h : Sound A s) : SoundRes A (execLpbrk c rd rs1 imm s) := by
  refine sound_instr s _ _ _ _ _ _ (fun t ht => ?_) h
  dsimp only
  repeat' split
  all_goals simp [ht]
theorem sound_execLprd (s : State) (c rd rs1 imm) (h : Sound A s) : SoundRes A (execLprd c rd rs1 imm s) :=
  sound_instr s _ _ _ _ _ _ (fun _ ht => ht) h
theorem sound_execLpwr (s : State) (c rd rs1 imm) (h : Sound A s) : SoundRes A (execLpwr c rd rs1 imm s) :=
  sound_instr s _ _ _ _ _ _ (fun _ ht => ht) h
theorem sound_execAzero (s : State) (c long rd rs1 rs2 pg) (h : Sound A s) : SoundRes A (execAzero c long rd rs1 rs2 pg s) :=
  sound_vinstr s _ _ _ _ _ _ _ _ (fun _ _ ht => ht) h
theorem sound_execAmov (s : State) (c long rd rs1 rs2 pg) (h : Sound A s) : SoundRes A (execAmov c long rd rs1 rs2 pg s) :=
  sound_vinstr s _ _ _ _ _ _ _ _ (fun _ _ ht => ht) h
theorem sound_execAadd (s : State) (c long rd rs1 rs2 pg) (h : Sound A s) : SoundRes A (execAadd c long rd rs1 rs2 pg s) :=
  sound_vinstr s _ _ _ _ _ _ _ _ (fun _ _ ht => ht) h
theorem sound_execAshr (s : State) (c long rd rs1 rs2 pg) (h : Sound A s) : SoundRes A (execAshr c long rd rs1 rs2 pg s) :=
  sound_vinstr s _ _ _ _ _ _ _ _ (fun _ _ ht => ht) h
theorem sound_execArnd (s : State) (c long rd rs1 rs2 pg) (h : Sound A s) : SoundRes A (execArnd c long rd rs1 rs2 pg s) :=
  sound_vinstr s _ _ _ _ _ _ _ _ (fun _ _ ht => ht) h
theorem sound_execAqrd (s : State) (c long rd rs1 rs2 pg) (h : Sound A s) : SoundRes A (execAqrd c long rd rs1 rs2 pg s) :=
  sound_vinstr s _ _ _ _ _ _ _ _ (fun _ _ ht => ht) h
theorem sound_execAqwr (s : State) (c long rd rs1 rs2 pg) (h : Sound A s) : SoundRes A (execAqwr c long rd rs1 rs2 pg s) :=
  sound_vinstr s _ _ _ _ _ _ _ _ (fun _ _ ht => ht) h

/-! ### HostMem -/

theorem sound_execMemWrite (s : State) (k) (h : Sound A s) : SoundRes A (execMemWrite k s) := by
  refine sound_runCmd s _ _ _ (fun t c ht => sound_checked t c _ _ ?_ ht) h
  dsimp only
  split
  · exact sound_refuse _ _ _ ht
  · split <;> rename_i e <;> exact sound_eq22 e (sound_memWrite _ _ _ _ ht)
theorem sound_execMemRead (s : State) (k) (h : Sound A s) : SoundRes A (execMemRead k s) := by
  refine sound_runCmd s _ _ _ (fun t c ht => sound_checked t c _ _ ?_ ht) h
  dsimp only
  split
  · exact sound_refuse _ _ _ ht
  · split
    · exact sound_refuse _ _ _ ht
    · split <;> rename_i e <;> exact sound_eq22 e (sound_memRead _ _ _ _ ht)
theorem sound_execMemFill (s : State) (k) (h : Sound A s) : SoundRes A (execMemFill k s) := by
  refine sound_runCmd s _ _ _ (fun t c ht => sound_checked t c _ _ ?_ ht) h
  dsimp only
  split
  · exact sound_refuse _ _ _ ht
  · split
    · exact sound_refuse _ _ _ ht
    · split
      · exact sound_refuse _ _ _ ht
      · split <;> rename_i e <;> exact sound_eq22 e (sound_fillPages _ _ _ _ _ ht)
theorem sound_execMemRegion (s : State) (k) (h : Sound A s) : SoundRes A (execMemRegion k s) := by
  refine sound_runCmd s _ _ _ (fun t c ht => sound_checked t c _ _ ?_ ht) h
  dsimp only
  repeat' split
  all_goals simp [ht]
theorem sound_execMemInject (s : State) (k) (h : Sound A s) : SoundRes A (execMemInject k s) := by
  refine sound_runCmd s _ _ _ (fun t c ht => sound_checked t c _ _ ?_ ht) h
  dsimp only
  split
  · split
    · exact sound_refuse _ _ _ ht
    · split
      · exact sound_refuse _ _ _ ht
      · split
        · exact sound_refuse _ _ _ ht
        · split <;> rename_i e <;> have hw := sound_eq2 e (sound_writePiece _ _ _ _ (sound_updCh _ _ _ ht)) <;> exact hw
  · exact sound_refuse _ _ _ ht
theorem sound_execCmdTimeout (s : State) (k) (h : Sound A s) : SoundRes A (execCmdTimeout k s) := by
  unfold execCmdTimeout
  dsimp only
  repeat' split
  all_goals simp (maxDischargeDepth := 40) [h]

/-! ### Links -/

theorem sound_execLinkUnitRx (s : State) (b dir u crossed) (h : Sound A s) : SoundRes A (execLinkUnitRx b dir u crossed s) := by
  simp [execLinkUnitRx, h]
theorem sound_execLinkNakRx (s : State) (b dir ack) (h : Sound A s) : SoundRes A (execLinkNakRx b dir ack s) := by
  simp [execLinkNakRx, h]
theorem sound_execLinkRepairRx (s : State) (b dir lane) (h : Sound A s) : SoundRes A (execLinkRepairRx b dir lane s) := by
  simp (maxDischargeDepth := 40) [execLinkRepairRx, h]
theorem sound_execLinkSwitchRx (s : State) (b dir lseq) (h : Sound A s) : SoundRes A (execLinkSwitchRx b dir lseq s) := by
  unfold execLinkSwitchRx
  dsimp only
  repeat' split
  all_goals simp (maxDischargeDepth := 40) [h]
theorem sound_execLinkBundleDown (s : State) (b clk crossed) (h : Sound A s) : SoundRes A (execLinkBundleDown b clk crossed s) := by
  unfold execLinkBundleDown
  repeat' split
  all_goals simp [h]

/-! ### Manage -/

theorem sound_execMsSaInstall (s : State) (k) (h : Sound A s) : SoundRes A (execMsSaInstall k s) := by
  refine sound_runCmd s _ _ _ (fun t c ht => sound_checked t c _ _ ?_ ht) h
  dsimp only
  repeat' split
  all_goals simp [ht]
theorem sound_execMsSaActivate (s : State) (k) (h : Sound A s) : SoundRes A (execMsSaActivate k s) := by
  refine sound_runCmd s _ _ _ (fun t c ht => ?_) h
  dsimp only
  repeat' split
  all_goals simp (maxDischargeDepth := 40) [ht]
theorem sound_execMsSaDelete (s : State) (k) (h : Sound A s) : SoundRes A (execMsSaDelete k s) := by
  refine sound_runCmd s _ _ _ (fun t c ht => sound_checked t c _ _ ?_ ht) h
  dsimp only
  repeat' split
  all_goals simp [ht]
theorem sound_execTcMap (s : State) (k) (h : Sound A s) : SoundRes A (execTcMap k s) := by
  refine sound_runCmd s _ _ _ (fun t c ht => sound_checked t c _ _ ?_ ht) h
  dsimp only
  repeat' split
  all_goals simp [ht]
theorem sound_execPtpCfg (s : State) (k) (h : Sound A s) : SoundRes A (execPtpCfg k s) := by
  refine sound_runCmd s _ _ _ (fun t c ht => sound_checked t c _ _ ?_ ht) h
  dsimp only
  repeat' split
  all_goals simp [ht]
theorem sound_execTimeSet (s : State) (k) (h : Sound A s) : SoundRes A (execTimeSet k s) := by
  refine sound_runCmd s _ _ _ (fun t c ht => sound_checked t c _ _ ?_ ht) h
  split
  · exact ht
  · exact sound_stepTime _ _ ht
theorem sound_execTimeStep (s : State) (k) (h : Sound A s) : SoundRes A (execTimeStep k s) := by
  refine sound_runCmd s _ _ _ (fun t c ht => ?_) h
  split
  · exact ht
  · exact sound_stepTime _ _ ht
theorem sound_execTimeCfg (s : State) (k) (h : Sound A s) : SoundRes A (execTimeCfg k s) := by
  refine sound_runCmd s _ _ _ (fun t c ht => ?_) h
  dsimp only
  repeat' split
  all_goals simp (maxDischargeDepth := 40) [ht]
theorem sound_execThermCfg (s : State) (k) (h : Sound A s) : SoundRes A (execThermCfg k s) := by
  refine sound_runCmd s _ _ _ (fun t c ht => sound_checked t c _ _ ?_ ht) h
  dsimp only
  repeat' split
  all_goals simp [ht]
theorem sound_execAgeStatus (s : State) (k) (h : Sound A s) : SoundRes A (execAgeStatus k s) := by
  refine sound_runCmd s _ _ _ (fun t c ht => ?_) h
  dsimp only
  repeat' split
  all_goals simp [ht]

/-! ### MemCtl -/

theorem sound_execMemDirtyAgeExpire (s : State) (ch page) (h : Sound A s) : SoundRes A (execMemDirtyAgeExpire ch page s) := by
  simp [execMemDirtyAgeExpire, h]
theorem sound_execMemRefresh (s : State) (ch how) (h : Sound A s) : SoundRes A (execMemRefresh ch how s) := by
  simp [execMemRefresh, h]
theorem sound_execMemRdpRefresh (s : State) (ch) (h : Sound A s) : SoundRes A (execMemRdpRefresh ch s) := by
  simp [execMemRdpRefresh, h]
theorem sound_execMemCaAlert (s : State) (ch cmds again) (h : Sound A s) : SoundRes A (execMemCaAlert ch cmds again s) := by
  simp (maxDischargeDepth := 40) [execMemCaAlert, h]
theorem sound_execMemScrubRead (s : State) (ch upset) (h : Sound A s) : SoundRes A (execMemScrubRead ch upset s) := by
  unfold execMemScrubRead
  dsimp only
  repeat' split
  all_goals simp (maxDischargeDepth := 40) [h]
theorem sound_execMemRemapSave (s : State) (ch) (h : Sound A s) : SoundRes A (execMemRemapSave ch s) := by
  simp [execMemRemapSave, h]
theorem sound_execSrScrubRead (s : State) (i bits) (h : Sound A s) : SoundRes A (execSrScrubRead i bits s) := by
  simp (maxDischargeDepth := 40) [execSrScrubRead, h]
theorem sound_execMemScrubSlow (s : State) (src) (h : Sound A s) : SoundRes A (execMemScrubSlow src s) := by
  unfold execMemScrubSlow
  repeat' split
  all_goals simp [h]
theorem sound_execMemChReinitDone (s : State) (ch ok) (h : Sound A s) : SoundRes A (execMemChReinitDone ch ok s) := by
  simp (maxDischargeDepth := 40) [execMemChReinitDone, h]

/-! ### Module -/

theorem sound_execI2cOffsetWrite (s : State) (ofs data) (h : Sound A s) : SoundRes A (execI2cOffsetWrite ofs data s) := by
  simp [execI2cOffsetWrite, h]
theorem sound_execI2cRead (s : State) (n vin10 pin100 tbase) (h : Sound A s) : SoundRes A (execI2cRead n vin10 pin100 tbase s) := by
  unfold execI2cRead
  dsimp only
  repeat' split
  all_goals simp [h]
theorem sound_execJtagScan (s : State) (op) (h : Sound A s) : SoundRes A (execJtagScan op s) := by
  unfold execJtagScan
  dsimp only
  repeat' split
  all_goals simp [h]

/-! ### Plans -/

theorem sound_execPlanLoad (s : State) (k) (h : Sound A s) : SoundRes A (execPlanLoad k s) := by
  refine sound_runCmd s _ _ _ (fun t c ht => sound_checked t c _ _ ?_ ht) h
  dsimp only
  repeat' split
  all_goals simp [ht]
theorem sound_execPlanStart (s : State) (k) (h : Sound A s) : SoundRes A (execPlanStart k s) := by
  refine sound_runCmd s _ _ _ (fun t c ht => sound_checked t c _ _ ?_ ht) h
  dsimp only
  repeat' split
  all_goals simp [ht]
theorem sound_execPlanSwitch (s : State) (k) (h : Sound A s) : SoundRes A (execPlanSwitch k s) := by
  refine sound_runCmd s _ _ _ (fun t c ht => ?_) h
  have hk := sound_settleSwitch t k ht
  dsimp only
  split
  · rename_i e; exact sound_requestSwitch _ _ _ _ hk e
  · exact hk
theorem sound_execPlanStop (s : State) (k) (h : Sound A s) : SoundRes A (execPlanStop k s) := by
  refine sound_runCmd s _ _ _ (fun t c ht => ?_) h
  dsimp only
  repeat' split
  all_goals simp [ht]
theorem sound_execPlanClear (s : State) (k) (h : Sound A s) : SoundRes A (execPlanClear k s) := by
  refine sound_runCmd s _ _ _ (fun t c ht => ?_) h
  dsimp only
  repeat' split
  all_goals simp (maxDischargeDepth := 40) [ht]

/-! ### Rasp -/

theorem sound_execRlock (s : State) (c rd rs1 imm) (h : Sound A s) : SoundRes A (execRlock c rd rs1 imm s) := by
  refine sound_instr s _ _ _ _ _ _ (fun t ht => ?_) h
  dsimp only
  repeat' split
  all_goals simp [ht]
theorem sound_execRaspLockGrant (s : State) (cl) (h : Sound A s) : SoundRes A (execRaspLockGrant cl s) := by
  unfold execRaspLockGrant
  dsimp only
  repeat' split
  all_goals simp [h]
theorem sound_execRtrylock (s : State) (c rd rs1 imm) (h : Sound A s) : SoundRes A (execRtrylock c rd rs1 imm s) := by
  refine sound_instr s _ _ _ _ _ _ (fun t ht => ?_) h
  dsimp only
  repeat' split
  all_goals exact ht
theorem sound_execRunlock (s : State) (c rd rs1 imm) (h : Sound A s) : SoundRes A (execRunlock c rd rs1 imm s) := by
  refine sound_instr s _ _ _ _ _ _ (fun t ht => ?_) h
  dsimp only
  repeat' split
  all_goals simp [ht]
theorem sound_execRstat (s : State) (c rd rs1 imm) (h : Sound A s) : SoundRes A (execRstat c rd rs1 imm s) :=
  sound_instr s _ _ _ _ _ _ (fun _ ht => ht) h
theorem sound_execRerr (s : State) (c rd rs1 imm) (h : Sound A s) : SoundRes A (execRerr c rd rs1 imm s) := by
  refine sound_instr s _ _ _ _ _ _ (fun t ht => ?_) h
  dsimp only
  repeat' split
  all_goals simp [ht]
theorem sound_execRmovvk (s : State) (c long rd rs1 imm) (h : Sound A s) : SoundRes A (execRmovvk c long rd rs1 imm s) :=
  sound_instr s _ _ _ _ _ _ (fun t ht => by simp [ht]) h
theorem sound_execRmovkv (s : State) (c long rd rs1 imm) (h : Sound A s) : SoundRes A (execRmovkv c long rd rs1 imm s) := by
  refine sound_instr s _ _ _ _ _ _ (fun t ht => ?_) h
  dsimp only
  have hk := sound_raspIssue t c (raspWord 0x34 (0x0A + b2n long) rd rs1 imm) (fun r => scoreBit r rs1.toNat)
    (fun r => mkOp r c 9 none 0 rs1.toNat 0 0) ht
  split
  · rename_i e; rw [e] at hk; exact hk
  · exact hk
theorem sound_execRmovgk (s : State) (c rd rs1 imm) (h : Sound A s) : SoundRes A (execRmovgk c rd rs1 imm s) :=
  sound_instr s _ _ _ _ _ _ (fun t ht => by simp [ht]) h
theorem sound_execRmovkg (s : State) (c rd rs1 imm) (h : Sound A s) : SoundRes A (execRmovkg c rd rs1 imm s) := by
  refine sound_instr s _ _ _ _ _ _ (fun t ht => ?_) h
  dsimp only
  have hk := sound_raspIssue t c (raspWord 0x34 0x0D rd rs1 imm) (fun r => scoreBit r rs1.toNat)
    (fun r => mkOp r c 9 none 0 rs1.toNat 0 0) ht
  split
  · rename_i e; rw [e] at hk; exact hk
  · exact hk
theorem sound_execRcrc (s : State) (c rd rs1 imm) (h : Sound A s) : SoundRes A (execRcrc c rd rs1 imm s) := by
  simp [execRcrc, h]
theorem sound_execRgold (s : State) (c rd rs1 imm) (h : Sound A s) : SoundRes A (execRgold c rd rs1 imm s) := by
  simp [execRgold, h]
theorem sound_execRmseq (s : State) (c rd rs1 imm) (h : Sound A s) : SoundRes A (execRmseq c rd rs1 imm s) := by
  simp [execRmseq, h]
theorem sound_execRilv (s : State) (c rd rs1 imm) (h : Sound A s) : SoundRes A (execRilv c rd rs1 imm s) := by
  simp [execRilv, h]
theorem sound_execRrmidx (s : State) (c rd rs1 imm) (h : Sound A s) : SoundRes A (execRrmidx c rd rs1 imm s) := by
  simp [execRrmidx, h]
theorem sound_execRsbi (s : State) (c rd rs1 imm) (h : Sound A s) : SoundRes A (execRsbi c rd rs1 imm s) := by
  simp [execRsbi, h]
theorem sound_execRseg (s : State) (c rd rs1 imm) (h : Sound A s) : SoundRes A (execRseg c rd rs1 imm s) := by
  simp [execRseg, h]
theorem sound_execRxor (s : State) (c rd rs1 imm) (h : Sound A s) : SoundRes A (execRxor c rd rs1 imm s) := by
  simp [execRxor, h]
theorem sound_execRaspOpComplete (s : State) (cl late) (h : Sound A s) : SoundRes A (execRaspOpComplete cl late s) := by
  unfold execRaspOpComplete
  dsimp only
  repeat' split
  all_goals simp (maxDischargeDepth := 40) [h]

end Sys2Proof.Machine
end

section
/-!
THEOREMS. Every command and every step keeps what it is asked to keep; canonical memory and bounded counters are two such aims.
-/
namespace Sys2Proof.Machine

variable {A : Aims}

/-- Every command keeps what it is asked to keep, because its own meaning does. -/
theorem soundRes_exec (i : Instr) (s : State) (hs : Sound A s) : SoundRes A (exec i s) :=
  match i with
  | .tickStart => sound_execTickStart s hs
  | .triggerInject p => sound_execTriggerInject s p hs
  | .tickPlanSwitch p => sound_execTickPlanSwitch s p hs
  | .tickOvr p => sound_execTickOvr s p hs
  | .tickEscDrop p => sound_execTickEscDrop s p hs
  | .tickEvtFlowWrite who p val => sound_execTickEvtFlowWrite s who p val hs
  | .counterReadClear who r same => sound_execCounterReadClear s who r same hs
  | .regWrite who r val => sound_execRegWrite s who r val hs
  | .lnTxSleepEnter who n depth => sound_execLnTxSleepEnter s who n depth hs
  | .lnTxWake who n => sound_execLnTxWake s who n hs
  | .lnRxSleepEnter who n depth => sound_execLnRxSleepEnter s who n depth hs
  | .lnRxWake who n => sound_execLnRxWake s who n hs
  | .lnDepthChange who n rx deep => sound_execLnDepthChange s who n rx deep hs
  | .lnSleepDone n rx => sound_execLnSleepDone s n rx hs
  | .lnWakeDone n rx => sound_execLnWakeDone s n rx hs
  | .lnWakeFail n rx => sound_execLnWakeFail s n rx hs
  | .lnTxMode who n mode => sound_execLnTxMode s who n mode hs
  | .lnRxChk who n chk => sound_execLnRxChk s who n chk hs
  | .lnErrInj who n => sound_execLnErrInj s who n hs
  | .opticalSignalChange n present => sound_execOpticalSignalChange s n present hs
  | .oeFault e => sound_execOeFault s e hs
  | .fecCodewordRx n levels am => sound_execFecCodewordRx s n levels am hs
  | .prbsSymbolRx n level => sound_execPrbsSymbolRx s n level hs
  | .frameTxStart m unitW unitP => sound_execFrameTxStart s m unitW unitP hs
  | .fhSlotTx m => sound_execFhSlotTx s m hs
  | .gapHeaderRx n pos hdr => sound_execGapHeaderRx s n pos hdr hs
  | .fawMatch n pos hits oh => sound_execFawMatch s n pos hits oh hs
  | .lineFrameRx n bytes unc => sound_execLineFrameRx s n bytes unc hs
  | .fhFrameRelease m nOver => sound_execFhFrameRelease s m nOver hs
  | .defectEval m => sound_execDefectEval s m hs
  | .perfSecondCommit m => sound_execPerfSecondCommit s m hs
  | .fhEgressWrite who m bytes => sound_execFhEgressWrite s who m bytes hs
  | .streamEntryWrite who m a val => sound_execStreamEntryWrite s who m a val hs
  | .fhTxAis who m on => sound_execFhTxAis s who m on hs
  | .fhProtLockout who m lane => sound_execFhProtLockout s who m lane hs
  | .fhProtForcedSwitch who m lane => sound_execFhProtForcedSwitch s who m lane hs
  | .fhProtManualSwitch who m lane => sound_execFhProtManualSwitch s who m lane hs
  | .fhProtClear who m lane => sound_execFhProtClear s who m lane hs
  | .fhDegThrWrite who m val => sound_execFhDegThrWrite s who m val hs
  | .fhPktFlowWrite who m val => sound_execFhPktFlowWrite s who m val hs
  | .gcMeasureComplete g tick => sound_execGcMeasureComplete s g tick hs
  | .gcAckCheck g => sound_execGcAckCheck s g hs
  | .nsEarlySighting ctx pre fo start delay pwr metric noise => sound_execNsEarlySighting s ctx pre fo start delay pwr metric noise hs
  | .gcFixEnd g => sound_execGcFixEnd s g hs
  | .nsReport ctx pre fo start delay pwr metric noise => sound_execNsReport s ctx pre fo start delay pwr metric noise hs
  | .nsCtxWrite who ctx val => sound_execNsCtxWrite s who ctx val hs
  | .gcGrpCfg0Write who g val => sound_execGcGrpCfg0Write s who g val hs
  | .integerAlu c major rd rs1 rs2 funct => sound_execIntegerAlu s c major rd rs1 rs2 funct hs
  | .multiplyDivide c rd rs1 rs2 funct => sound_execMultiplyDivide s c rd rs1 rs2 funct hs
  | .immediateAlu c op rd rs1 imm => sound_execImmediateAlu s c op rd rs1 imm hs
  | .insh c q rd rs1 imm => sound_execInsh s c q rd rs1 imm hs
  | .callr c rd rs1 imm => sound_execCallr s c rd rs1 imm hs
  | .pcrel c rd rs1 imm => sound_execPcrel s c rd rs1 imm hs
  | .load c rt rb fn off => sound_execLoad s c rt rb fn off hs
  | .store c rt rb fn off => sound_execStore s c rt rb fn off hs
  | .atomic c rd rs1 rs2 funct => sound_execAtomic s c rd rs1 rs2 funct hs
  | .jmp c rs off => sound_execJmp s c rs off hs
  | .call c rs off => sound_execCall s c rs off hs
  | .branch c cond rs off => sound_execBranch s c cond rs off hs
  | .syscall c rd rs1 imm => sound_execSyscall s c rd rs1 imm hs
  | .bpt c rd rs1 imm => sound_execBpt s c rd rs1 imm hs
  | .eret c rd rs1 imm => sound_execEret s c rd rs1 imm hs
  | .wait c rd rs1 imm => sound_execWait s c rd rs1 imm hs
  | .waitComplete c => sound_execWaitComplete s c hs
  | .fence c rd rs1 imm => sound_execFence s c rd rs1 imm hs
  | .ifence c rd rs1 imm => sound_execIfence s c rd rs1 imm hs
  | .getsr c rd rs1 imm => sound_execGetsr s c rd rs1 imm hs
  | .setsr c rd rs1 imm => sound_execSetsr s c rd rs1 imm hs
  | .orsr c rd rs1 imm => sound_execOrsr s c rd rs1 imm hs
  | .andnsr c rd rs1 imm => sound_execAndnsr s c rd rs1 imm hs
  | .clean c rd rs1 imm => sound_execClean s c rd rs1 imm hs
  | .inval c rd rs1 imm => sound_execInval s c rd rs1 imm hs
  | .flush c rd rs1 imm => sound_execFlush s c rd rs1 imm hs
  | .tlbinv c rd rs1 imm => sound_execTlbinv s c rd rs1 imm hs
  | .coresig c rd rs1 imm => sound_execCoresig s c rd rs1 imm hs
  | .interruptTake c => sound_execInterruptTake s c hs
  | .wiAbort c => sound_execWiAbort s c hs
  | .timerCompare c => sound_execTimerCompare s c hs
  | .storeErrorAsync c => sound_execStoreErrorAsync s c hs
  | .vectorIntOp c long vd vs1 vs2 pg funct => sound_execVectorIntOp s c long vd vs1 vs2 pg funct hs
  | .vectorMultiply c long vd vs1 vs2 pg funct => sound_execVectorMultiply s c long vd vs1 vs2 pg funct hs
  | .vvsete c long vd vs1 vs2 pg => sound_execVvsete s c long vd vs1 vs2 pg hs
  | .veneerMac c long k vd vs1 vs2 pg => sound_execVeneerMac s c long k vd vs1 vs2 pg hs
  | .vvnorm c long vd vs1 vs2 pg => sound_execVvnorm s c long vd vs1 vs2 pg hs
  | .vectorCompare c long k vd vs1 vs2 pg => sound_execVectorCompare s c long k vd vs1 vs2 pg hs
  | .vrange c long vd vs1 vs2 pg => sound_execVrange s c long vd vs1 vs2 pg hs
  | .predicateLogic c long k vd vs1 vs2 pg => sound_execPredicateLogic s c long k vd vs1 vs2 pg hs
  | .vffmask c long vd vs1 vs2 pg => sound_execVffmask s c long vd vs1 vs2 pg hs
  | .vffset c long vd vs1 vs2 pg => sound_execVffset s c long vd vs1 vs2 pg hs
  | .vffget c long vd vs1 vs2 pg => sound_execVffget s c long vd vs1 vs2 pg hs
  | .vffarm c long vd vs1 vs2 pg => sound_execVffarm s c long vd vs1 vs2 pg hs
  | .vcntp c long vd vs1 vs2 pg => sound_execVcntp s c long vd vs1 vs2 pg hs
  | .vectorReduce c long k vd vs1 vs2 pg => sound_execVectorReduce s c long k vd vs1 vs2 pg hs
  | .vperm c long vd vs1 vs2 pg => sound_execVperm s c long vd vs1 vs2 pg hs
  | .vectorLoad c long form vd vs1 vs2 pg => sound_execVectorLoad s c long form vd vs1 vs2 pg hs
  | .vectorLoadFf c long form vd vs1 vs2 pg => sound_execVectorLoadFf s c long form vd vs1 vs2 pg hs
  | .vldpk c long vd vs1 vs2 pg => sound_execVldpk s c long vd vs1 vs2 pg hs
  | .vldr c long vd vs1 vs2 pg => sound_execVldr s c long vd vs1 vs2 pg hs
  | .vldpr c long vd vs1 vs2 pg => sound_execVldpr s c long vd vs1 vs2 pg hs
  | .vectorStore c long form vd vs1 vs2 pg => sound_execVectorStore s c long form vd vs1 vs2 pg hs
  | .vstpk c long vd vs1 vs2 pg => sound_execVstpk s c long vd vs1 vs2 pg hs
  | .vstr c long vd vs1 vs2 pg => sound_execVstr s c long vd vs1 vs2 pg hs
  | .vstpr c long vd vs1 vs2 pg => sound_execVstpr s c long vd vs1 vs2 pg hs
  | .vectorMove c long k vd vs1 vs2 pg => sound_execVectorMove s c long k vd vs1 vs2 pg hs
  | .vcnt c long vd vs1 vs2 pg => sound_execVcnt s c long vd vs1 vs2 pg hs
  | .vectorConvert c long k vd vs1 vs2 pg => sound_execVectorConvert s c long k vd vs1 vs2 pg hs
  | .cbwb c rd rs1 rs2 pg n => sound_execCbwb s c rd rs1 rs2 pg n hs
  | .cbwl c rd rs1 rs2 pg n => sound_execCbwl s c rd rs1 rs2 pg n hs
  | .cbrb c rd rs1 rs2 pg n => sound_execCbrb s c rd rs1 rs2 pg n hs
  | .cbrl c rd rs1 rs2 pg n => sound_execCbrl s c rd rs1 rs2 pg n hs
  | .cbinc c rd rs1 rs2 pg n => sound_execCbinc s c rd rs1 rs2 pg n hs
  | .cbinci c rd rs1 n step => sound_execCbinci s c rd rs1 n step hs
  | .vldc c long rd rs1 rs2 pg n => sound_execVldc s c long rd rs1 rs2 pg n hs
  | .vstc c long rd rs1 rs2 pg n => sound_execVstc s c long rd rs1 rs2 pg n hs
  | .loop c rd rs1 imm => sound_execLoop s c rd rs1 imm hs
  | .lpbrk c rd rs1 imm => sound_execLpbrk s c rd rs1 imm hs
  | .lprd c rd rs1 imm => sound_execLprd s c rd rs1 imm hs
  | .lpwr c rd rs1 imm => sound_execLpwr s c rd rs1 imm hs
  | .azero c long rd rs1 rs2 pg => sound_execAzero s c long rd rs1 rs2 pg hs
  | .amov c long rd rs1 rs2 pg => sound_execAmov s c long rd rs1 rs2 pg hs
  | .aadd c long rd rs1 rs2 pg => sound_execAadd s c long rd rs1 rs2 pg hs
  | .ashr c long rd rs1 rs2 pg => sound_execAshr s c long rd rs1 rs2 pg hs
  | .arnd c long rd rs1 rs2 pg => sound_execArnd s c long rd rs1 rs2 pg hs
  | .aqrd c long rd rs1 rs2 pg => sound_execAqrd s c long rd rs1 rs2 pg hs
  | .aqwr c long rd rs1 rs2 pg => sound_execAqwr s c long rd rs1 rs2 pg hs
  | .rlock c rd rs1 imm => sound_execRlock s c rd rs1 imm hs
  | .raspLockGrant cl => sound_execRaspLockGrant s cl hs
  | .rtrylock c rd rs1 imm => sound_execRtrylock s c rd rs1 imm hs
  | .runlock c rd rs1 imm => sound_execRunlock s c rd rs1 imm hs
  | .rstat c rd rs1 imm => sound_execRstat s c rd rs1 imm hs
  | .rerr c rd rs1 imm => sound_execRerr s c rd rs1 imm hs
  | .rmovvk c long rd rs1 imm => sound_execRmovvk s c long rd rs1 imm hs
  | .rmovkv c long rd rs1 imm => sound_execRmovkv s c long rd rs1 imm hs
  | .rmovgk c rd rs1 imm => sound_execRmovgk s c rd rs1 imm hs
  | .rmovkg c rd rs1 imm => sound_execRmovkg s c rd rs1 imm hs
  | .rcrc c rd rs1 imm => sound_execRcrc s c rd rs1 imm hs
  | .rgold c rd rs1 imm => sound_execRgold s c rd rs1 imm hs
  | .rmseq c rd rs1 imm => sound_execRmseq s c rd rs1 imm hs
  | .rilv c rd rs1 imm => sound_execRilv s c rd rs1 imm hs
  | .rrmidx c rd rs1 imm => sound_execRrmidx s c rd rs1 imm hs
  | .rsbi c rd rs1 imm => sound_execRsbi s c rd rs1 imm hs
  | .rseg c rd rs1 imm => sound_execRseg s c rd rs1 imm hs
  | .rxor c rd rs1 imm => sound_execRxor s c rd rs1 imm hs
  | .raspOpComplete cl late => sound_execRaspOpComplete s cl late hs
  | .jgSubmit who die p cls addr => sound_execJgSubmit s who die p cls addr hs
  | .jgDispatch die cls => sound_execJgDispatch s die cls hs
  | .jgComplete die cls inst f => sound_execJgComplete s die cls inst f hs
  | .jgCancel who die p cls addr => sound_execJgCancel s who die p cls addr hs
  | .jgFault die cls inst => sound_execJgFault s die cls inst hs
  | .dvEnq c rd rs1 imm => sound_execDvEnq s c rd rs1 imm hs
  | .dvGet c rd rs1 imm => sound_execDvGet s c rd rs1 imm hs
  | .dvRel c rd rs1 imm => sound_execDvRel s c rd rs1 imm hs
  | .dvCxl c rd rs1 imm => sound_execDvCxl s c rd rs1 imm hs
  | .dvItemArrive p flow kind prio tag arg0 arg1 => sound_execDvItemArrive s p flow kind prio tag arg0 arg1 hs
  | .dvStage die => sound_execDvStage s die hs
  | .dvFwdRetry flow => sound_execDvFwdRetry s flow hs
  | .dvFlowCfgWrite who flow val => sound_execDvFlowCfgWrite s who flow val hs
  | .dvCsetWrite who die p set val => sound_execDvCsetWrite s who die p set val hs
  | .nocInject src r => sound_execNocInject s src r hs
  | .nocRead src dest bad => sound_execNocRead s src dest bad hs
  | .nocWrite src dest bad => sound_execNocWrite s src dest bad hs
  | .nocAtomic src dest bad => sound_execNocAtomic s src dest bad hs
  | .nocSwrite src dest bad => sound_execNocSwrite s src dest bad hs
  | .nocSwriteL src dest bad => sound_execNocSwriteL s src dest bad hs
  | .nocDvitem src dest bad => sound_execNocDvitem s src dest bad hs
  | .nocDvans src dest bad => sound_execNocDvans s src dest bad hs
  | .nocNotify src dest bad => sound_execNocNotify s src dest bad hs
  | .nocRdata src dest bad => sound_execNocRdata s src dest bad hs
  | .nocWack src dest bad => sound_execNocWack s src dest bad hs
  | .nocAack src dest bad => sound_execNocAack s src dest bad hs
  | .nocLanded src dest bad => sound_execNocLanded s src dest bad hs
  | .nocSnak src dest bad => sound_execNocSnak s src dest bad hs
  | .nocReqTimeout port cls seq => sound_execNocReqTimeout s port cls seq hs
  | .nocRteEpochGo who die => sound_execNocRteEpochGo s who die hs
  | .nocEpochRetire => sound_execNocEpochRetire s hs
  | .nocEpochLate => sound_execNocEpochLate s hs
  | .epochStuck => sound_execEpochStuck s hs
  | .nocDrainDone d => sound_execNocDrainDone s d hs
  | .nocDrainTimeout d => sound_execNocDrainTimeout s d hs
  | .linkUnitRx b dir u crossed => sound_execLinkUnitRx s b dir u crossed hs
  | .linkNakRx b dir ack => sound_execLinkNakRx s b dir ack hs
  | .linkRepairRx b dir lane => sound_execLinkRepairRx s b dir lane hs
  | .linkSwitchRx b dir lseq => sound_execLinkSwitchRx s b dir lseq hs
  | .linkBundleDown b clk crossed => sound_execLinkBundleDown s b clk crossed hs
  | .dmaRun who e c => sound_execDmaRun s who e c hs
  | .dmaPause who e c => sound_execDmaPause s who e c hs
  | .dmaPauseDone e c units => sound_execDmaPauseDone s e c units hs
  | .dmaResume who e c => sound_execDmaResume s who e c hs
  | .dmaStop who e c => sound_execDmaStop s who e c hs
  | .dmaDoorbell who e c => sound_execDmaDoorbell s who e c hs
  | .dmaChDescWrite who e c tick v => sound_execDmaChDescWrite s who e c tick v hs
  | .dmaDescFetch e c => sound_execDmaDescFetch s e c hs
  | .dmaTrigger e c => sound_execDmaTrigger s e c hs
  | .dmaDescComplete e c => sound_execDmaDescComplete s e c hs
  | .memDirtyAgeExpire ch page => sound_execMemDirtyAgeExpire s ch page hs
  | .memRefresh ch how => sound_execMemRefresh s ch how hs
  | .memRdpRefresh ch => sound_execMemRdpRefresh s ch hs
  | .panicRaise src fill => sound_execPanicRaise s src fill hs
  | .panicLift src fill => sound_execPanicLift s src fill hs
  | .memCaAlert ch cmds again => sound_execMemCaAlert s ch cmds again hs
  | .memScrubRead ch upset => sound_execMemScrubRead s ch upset hs
  | .memRemapSave ch => sound_execMemRemapSave s ch hs
  | .srScrubRead b bits => sound_execSrScrubRead s b bits hs
  | .memScrubSlow src => sound_execMemScrubSlow s src hs
  | .bhFrameRx n bytes fifoFull => sound_execBhFrameRx s n bytes fifoFull hs
  | .bhTxTailWrite who n tail => sound_execBhTxTailWrite s who n tail hs
  | .bhTxFrame n => sound_execBhTxFrame s n hs
  | .bhRuleWrite who n k val => sound_execBhRuleWrite s who n k val hs
  | .bhFlowWrite who n tx val => sound_execBhFlowWrite s who n tx val hs
  | .ptpMsgRx => sound_execPtpMsgRx s hs
  | .ptpFollowupRelease => sound_execPtpFollowupRelease s hs
  | .tmSnap who => sound_execTmSnap s who hs
  | .oscCheck refA refB diff => sound_execOscCheck s refA refB diff hs
  | .oscEdgeLoss osc => sound_execOscEdgeLoss s osc hs
  | .refQualify ext => sound_execRefQualify s ext hs
  | .refLost ext => sound_execRefLost s ext hs
  | .tmLock => sound_execTmLock s hs
  | .hoQualSet => sound_execHoQualSet s hs
  | .tmHoEvt => sound_execTmHoEvt s hs
  | .ppsInEdge => sound_execPpsInEdge s hs
  | .ppsInLost => sound_execPpsInLost s hs
  | .freqInChange inside => sound_execFreqInChange s inside hs
  | .ppsOutSecond => sound_execPpsOutSecond s hs
  | .hostCmdPush h words cut => sound_execHostCmdPush s h words cut hs
  | .hostRplPop h n cut => sound_execHostRplPop s h n cut hs
  | .hostEvtPop h n cut => sound_execHostEvtPop s h n cut hs
  | .hostDoorbell h words abortToo => sound_execHostDoorbell s h words abortToo hs
  | .hostAbort h => sound_execHostAbort s h hs
  | .hostPerst h => sound_execHostPerst s h hs
  | .hostPktTimeout h => sound_execHostPktTimeout s h hs
  | .cmdTimeout h => sound_execCmdTimeout s h hs
  | .partMsgPost who p addr => sound_execPartMsgPost s who p addr hs
  | .hello h => sound_execHello s h hs
  | .modStatus h mw => sound_execModStatus s h mw hs
  | .evtMask h => sound_execEvtMask s h hs
  | .partCreate h => sound_execPartCreate s h hs
  | .partDestroy h => sound_execPartDestroy s h hs
  | .partReleaseFill die => sound_execPartReleaseFill s die hs
  | .partQuery h => sound_execPartQuery s h hs
  | .partRestart h tests clusters jigs => sound_execPartRestart s h tests clusters jigs hs
  | .coreStart h => sound_execCoreStart s h hs
  | .coreStop h => sound_execCoreStop s h hs
  | .jigShare h => sound_execJigShare s h hs
  | .nocRegulate h => sound_execNocRegulate s h hs
  | .gainGroup h => sound_execGainGroup s h hs
  | .hostMsg h => sound_execHostMsg s h hs
  | .pwrSet h => sound_execPwrSet s h hs
  | .planLoad h => sound_execPlanLoad s h hs
  | .planStart h => sound_execPlanStart s h hs
  | .planSwitch h => sound_execPlanSwitch s h hs
  | .planStop h => sound_execPlanStop s h hs
  | .planClear h => sound_execPlanClear s h hs
  | .memWrite h => sound_execMemWrite s h hs
  | .memRead h => sound_execMemRead s h hs
  | .memFill h => sound_execMemFill s h hs
  | .memRegion h => sound_execMemRegion s h hs
  | .memInject h => sound_execMemInject s h hs
  | .fwWrite h flashOk => sound_execFwWrite s h flashOk hs
  | .fwCommit h flashOk sigOk => sound_execFwCommit s h flashOk sigOk hs
  | .fwSelect h flashOk img => sound_execFwSelect s h flashOk img hs
  | .logRead h bad => sound_execLogRead s h bad hs
  | .msSaInstall h => sound_execMsSaInstall s h hs
  | .msSaActivate h => sound_execMsSaActivate s h hs
  | .msSaDelete h => sound_execMsSaDelete s h hs
  | .tcMap h => sound_execTcMap s h hs
  | .ptpCfg h => sound_execPtpCfg s h hs
  | .timeSet h => sound_execTimeSet s h hs
  | .timeStep h => sound_execTimeStep s h hs
  | .timeCfg h => sound_execTimeCfg s h hs
  | .thermCfg h => sound_execThermCfg s h hs
  | .ageStatus h => sound_execAgeStatus s h hs
  | .modResetAssert => sound_execModResetAssert s hs
  | .modResetRelease => sound_execModResetRelease s hs
  | .vinOutOfRange => sound_execVinOutOfRange s hs
  | .startupStageDone ms f => sound_execStartupStageDone s ms f hs
  | .startupTimeout => sound_execStartupTimeout s hs
  | .bootWatchdog a b => sound_execBootWatchdog s a b hs
  | .pwrWakeRequest who d => sound_execPwrWakeRequest s who d hs
  | .pwrEntryRequest d => sound_execPwrEntryRequest s d hs
  | .pwrEntryDone d => sound_execPwrEntryDone s d hs
  | .pwrWakeDone d lost => sound_execPwrWakeDone s d lost hs
  | .pwrWakeTimeout d pll oscBad => sound_execPwrWakeTimeout s d pll oscBad hs
  | .pwrVoltSettled d => sound_execPwrVoltSettled s d hs
  | .thSample k reading rise => sound_execThSample s k reading rise hs
  | .ageReplan mons moves adapted lats flashOk => sound_execAgeReplan s mons moves adapted lats flashOk hs
  | .coreFault c cause => sound_execCoreFault s c cause hs
  | .coreSelftestDone c r => sound_execCoreSelftestDone s c r hs
  | .dmaEngineFault e => sound_execDmaEngineFault s e hs
  | .dmaEngineTestDone e ok => sound_execDmaEngineTestDone s e ok hs
  | .tableReload port table entries part lost trig => sound_execTableReload s port table entries part lost trig hs
  | .mcWatchdog cause => sound_execMcWatchdog s cause hs
  | .mcRestartDone => sound_execMcRestartDone s hs
  | .memChReinitDone ch ok => sound_execMemChReinitDone s ch ok hs
  | .dieLost die cause => sound_execDieLost s die cause hs
  | .moduleStop => sound_execModuleStop s hs
  | .logWrite ok => sound_execLogWrite s ok hs
  | .i2cOffsetWrite ofs data => sound_execI2cOffsetWrite s ofs data hs
  | .i2cRead n vin10 pin100 tbase => sound_execI2cRead s n vin10 pin100 tbase hs
  | .jtagScan op => sound_execJtagScan s op hs
  | .followUpNomatch => sound_execFollowUpNomatch s hs
  | .perstRelease h => sound_execPerstRelease s h hs
  | .inputPowerApply => sound_execInputPowerApply s hs
  | .delayReqSend => sound_execDelayReqSend s hs
  | .serviceHour avg => sound_execServiceHour s avg hs
  | .voltageRampDownDone d => sound_execVoltageRampDownDone s d hs

theorem sound_idle (s : State) (h : Sound A s) : Sound A (idle s) := h

/-- A step from a state that meets its aims for the queue behind the front command ends in one that still does. -/
theorem sound_of_step {s t : State} (h : Sound A { s with pending := s.pending.tail }) (e : step s = .next t) : Sound A t := by
  have hr : SoundRes A (step s) := by
    unfold step
    split
    next hp =>
      rw [hp] at h
      exact sound_idle s (by simpa [Sound, hp] using h)
    next c rest hp =>
      rw [hp] at h
      exact soundRes_exec c _ h
  rw [e] at hr
  exact hr

/-- Settles O4: the step lemma with canonical memory as the aim. -/
theorem everyStepKeepsMemoryCanonical : Obligations.EveryStepKeepsMemoryCanonical := by
  intro s t hs e
  have h : Sound ⟨s.pending.tail, s.fresh, True, False⟩ { s with pending := s.pending.tail } :=
    sound_iff.2 ⟨rfl, fun _ => hs, False.elim, Nat.le_refl _⟩
  obtain ⟨-, hmem, -, -⟩ := sound_iff.1 (sound_of_step h e)
  exact hmem trivial

/-- Settles O5: the step lemma with bounded counters as the aim. -/
theorem everyStepKeepsCountersBounded : Obligations.EveryStepKeepsCountersBounded := by
  intro s t hs e
  have h : Sound ⟨s.pending.tail, s.fresh, False, True⟩ { s with pending := s.pending.tail } :=
    sound_iff.2 ⟨rfl, False.elim, fun _ => hs, Nat.le_refl _⟩
  obtain ⟨-, -, hctr, -⟩ := sound_iff.1 (sound_of_step h e)
  exact hctr trivial

end Sys2Proof.Machine
end

section
/-!
SUPPORT. The tick and the tick sequencer (01_tick_and_windows): the tick start, the injection of plan entries, starts and switches,
overruns, and the windows that a stream entry's write refuses.
-/
namespace Sys2Proof.Machine

/-! ### The tick start (R14 to R16) -/

theorem exec_tickStart (s : State) : exec .tickStart s = execTickStart s := rfl

/-- Whatever else a tick start does, its grid and its time are those that `nextTick` answers. -/
theorem execTickStart_clock (s : State) (h : s.su.timeUp = true) :
    ∃ t, execTickStart s = .next t ∧ Clock (nextTick s).tu (nextTick s).now t := by
  refine ⟨_, by rw [execTickStart, if_pos h], ?_⟩
  refine clock_foldl _ (fun u p hu => ?_) _ _ (clock_gcTick _ (clock_loadTick _ (clock_capLevels _ (clock_thermTick _ ?_))))
  · exact clock_autoSwitch _ _ (clock_capCheck _ _ (clock_planIdx _ _ (clock_stopPlan _ _ hu)))
  · exact clock_foldl _ (fun u d hu => clock_freqSwitch u d hu) _ _ (clock_applyWeights _ ⟨rfl, rfl⟩)

/-- Settles O7: the grid is that of `nextTick`, whose fields are the ones stated. -/
theorem tickStartAdvancesTheGrid : Obligations.TickStartAdvancesTheGrid := by
  intro s hup
  obtain ⟨t, ht, htu, hnow⟩ := execTickStart_clock s hup
  refine ⟨t, (exec_tickStart s).trans ht, ?_⟩
  simp [htu, hnow, nextTick, ticksPerFrame, ticksPerHalf]

/-! ### Windows of a stream entry (R27) -/

theorem mem_upFrom {a n k : Nat} : k ∈ upFrom a n ↔ a ≤ k ∧ k < a + n := by
  induction n generalizing a with
  | zero => simp [upFrom]
  | succ n ih => rw [upFrom, List.mem_cons, ih]; omega

/-- One tick of the half-millisecond on which a symbol starts and the window does not close after it opens makes the window invalid. -/
theorem windowOk_eq_false {s : State} {mu k : Nat} {tO tC nO nC : Int} (hk : k < ticksPerHalf s.tu.mu)
    (hs : k % (if mu < s.tu.mu then 2 ^ (s.tu.mu - mu) else 1) = 0)
    (hw : int32 (startRel s.tu.mu ((k : Int) + tC) + nC) (startRel s.tu.mu ((k : Int) + tO) + nO) ≤ 0) :
    windowOk s mu tO tC nO nC = false := by
  refine List.all_eq_false.2 ⟨k, List.mem_filter.2 ⟨mem_upFrom.2 ⟨Nat.zero_le k, by omega⟩, ?_⟩, ?_⟩
  · simpa using hs
  · simpa using hw

theorem streamOk_eq_false_of_windowOk {s : State} {raw : Tab Nat} {w0 : Nat}
    (h : windowOk s (streamCfg raw w0).mu (streamCfg raw w0).tOpen (streamCfg raw w0).tClose (streamCfg raw w0).nOpen
      (streamCfg raw w0).nClose = false) : streamOk s raw w0 = false := by
  simp [streamOk, h]

/-- A VALID entry that fails its checks stays out: the write is counted in TICK_WIN_REJ (R62). -/
theorem exec_streamEntryWrite_refused {who : Agent} {m : Fin 32} {a : Fin 1024} {val : BitVec 32} {s : State}
    (ht : mayTouch who (fhOwner s m) = true) (hv : bit val.toNat 0 = true)
    (hok : streamOk s (getStream s m a).raw val.toNat = false) :
    exec (.streamEntryWrite who m a val) s = .next (done (bump s .tickWinRej ((fhOwner s m).getD 4))) := by
  change execStreamEntryWrite who m a val s = _
  have hvalid : (streamCfg (getStream s m a).raw val.toNat).valid = true := hv
  simp [execStreamEntryWrite, ht, hvalid, hok]

/-- Settles O14: the tick that the hypothesis names fails the window check of the entry. -/
theorem invalidWindowsAreRefused : Obligations.InvalidWindowsAreRefused := by
  rintro who m a val s ht hv c ⟨k, hk, hs, hw⟩
  have hok : streamOk s (getStream s m a).raw val.toNat = false :=
    streamOk_eq_false_of_windowOk (windowOk_eq_false hk hs hw)
  exact ⟨_, exec_streamEntryWrite_refused ht hv hok, rfl, rfl⟩

/-! ### Offering an item to a flow (R207, R209) -/

/-- The tick sequencer and the time have no part in what a flow refuses. -/
theorem refusal_congr {s t : State} (hd : ∀ p i, descWord t p i = descWord s p i) (hdv : t.dv = s.dv) (p f : Nat) (same : Bool) :
    refusal t p f same = refusal s p f same := by
  have hrange : ∀ d, flowRange t p d = flowRange s p d := fun d => by rw [flowRange, hd]; rfl
  have hown : ∀ g, ownsFlow t p g = ownsFlow s p g := fun g => by unfold ownsFlow; rw [hrange]
  have hflow : getFlow t f = getFlow s f := by rw [getFlow, hdv]; rfl
  have hcount : qcount t f = qcount s f := by rw [qcount, flowItems, hdv]; rfl
  have hused : quotaUsed t p (flowDie f) = quotaUsed s p (flowDie f) := by simp only [quotaUsed, hdv, hown]
  have hquota : dvQuota t p (flowDie f) = dvQuota s p (flowDie f) := by rw [dvQuota, hd]; rfl
  unfold refusal
  rw [hflow, hown, hcount, hused, hquota]

theorem enqueue_accepted {s : State} {p : Nat} {n : NewItem} (h : refusal s p n.flow false = 0) :
    enqueue s p n = (0, (addItem s n none .queued).1, some (addItem s n none .queued).2) := by
  simp [enqueue, h]

theorem enqueue_refused {s : State} {p : Nat} {n : NewItem} (h : refusal s p n.flow false ≠ 0) :
    enqueue s p n = (refusal s p n.flow false, countRefusal s p n.flow, none) := by
  simp [enqueue, h]

/-- The item that a trigger leaves with Dovetail, behind all others (R207). -/
theorem addItem_trigger (s : State) (n i : Nat) (slot : Bool) (e : PlanEntry) :
    let r := addItem s (triggerItem n i slot e) none .queued
    r.1.dv.items = s.dv.items ++ [r.2] ∧ r.2.flow = e.flow ∧ r.2.kind = 1 ∧ r.2.tomb = false ∧ r.2.level = e.prio ∧
      r.2.tag = e.tag ∧ r.2.budget = some e.budget ∧ r.2.place = .queued :=
  ⟨rfl, rfl, rfl, rfl, rfl, rfl, rfl, rfl⟩

theorem getPart_setTick_ne (s : State) {p q : Nat} (b : TickBank) (h : q ≠ p) : getPart (setTick s p b) q = getPart s q :=
  getPart_updPart_ne s _ h

/-! ### The injection of an entry (R21, R32) -/

/-- TICK_INJ_FAIL of an entry that its flow refuses, and its counts that do not depend on the policy (R32). -/
def injFail (s : State) (p : Nat) (slot : Bool) (i : Nat) (e : PlanEntry) : State :=
  raisePart (bump (countRefusal s p e.flow) .tickInjFail p) p 0x0102
    (ovrWord (absTick s) slot i (refusal s p e.flow false) 0 e.policy) e.tag.toNat

section
variable {s : State} {p i : Nat} {slot : Bool} {e : PlanEntry} {fb : Option (Nat × PlanEntry)} (fuel : Nat)

theorem inject_accepted (h : refusal s p e.flow false = 0) :
    inject s p slot i e fb (fuel + 1) =
      let r := addItem s (triggerItem (absTick s) i slot e) none .queued
      if e.must then
        addWin r.1 p { slot := slot, idx := i, entry := e, trigN := absTick s, closeAt := r.1.tu.count + e.deadline + 1,
                       item := r.2.id, grace := false, fb := if e.policy = 1 then fb else none }
      else r.1 := by
  have he : enqueue s p (triggerItem (absTick s) i slot e) = _ := enqueue_accepted h
  rw [inject, he]
  rfl

/-- What the injection of an accepted entry does (R21): its item stands behind all others, a MUST entry opens its window in the
partition's bank, and the time, memory, the grid and the other partitions are as they were. -/
theorem inject_accepted_effect (h : refusal s p e.flow false = 0) :
    let t := inject s p slot i e fb (fuel + 1)
    ∃ it : Item, t.dv.items = s.dv.items ++ [it] ∧
      getTick t p = { getTick s p with
        wins := if e.must then (getTick s p).wins ++
          [{ slot := slot, idx := i, entry := e, trigN := absTick s, closeAt := s.tu.count + e.deadline + 1, item := it.id,
             grace := false, fb := if e.policy = 1 then fb else none }] else (getTick s p).wins } ∧
      t.now = s.now ∧ t.mem = s.mem ∧ t.tu = s.tu ∧ (∀ q : Nat, q ≠ p → getPart t q = getPart s q) ∧
      it.flow = e.flow ∧ it.kind = 1 ∧ it.tomb = false ∧ it.level = e.prio ∧ it.tag = e.tag ∧ it.budget = some e.budget ∧
      it.place = .queued := by
  intro t
  have ht : t = _ := inject_accepted (slot := slot) (i := i) (fb := fb) fuel h
  obtain ⟨hitems, hit⟩ := addItem_trigger s (absTick s) i slot e
  have haway := away_addItem s (triggerItem (absTick s) i slot e) none .queued (away_refl s)
  generalize addItem s (triggerItem (absTick s) i slot e) none .queued = r at ht hitems hit haway
  have hpart : ∀ q, getPart r.1 q = getPart s q := fun q => by rw [getPart, away_parts haway]; rfl
  have hbank : getTick r.1 p = getTick s p := congrArg Part.tick (hpart p)
  have hnow : r.1.now = s.now := away_now haway
  have hmem : r.1.mem = s.mem := away_mem haway
  have htu : r.1.tu = s.tu := away_tu haway
  dsimp only at ht
  cases hm : e.must with
  | false =>
    rw [hm, if_neg Bool.false_ne_true] at ht
    rw [ht]
    exact ⟨r.2, hitems, hbank, hnow, hmem, htu, fun q _ => hpart q, hit⟩
  | true =>
    rw [hm, if_pos rfl, htu] at ht
    rw [ht]
    refine ⟨r.2, hitems, (getTick_setTick_same r.1 p _).trans ?_, hnow, hmem, htu,
      fun q hq => (getPart_setTick_ne r.1 _ hq).trans (hpart q), hit⟩
    rw [hbank]
    rfl

theorem inject_refused (h : refusal s p e.flow false ≠ 0) :
    inject s p slot i e fb (fuel + 1) =
      if e.must then
        if e.policy = 1 then
          match fb with
          | some (j, g) => inject (bump (injFail s p slot i e) (policyCtr e.policy) p) p slot j g none fuel
          | none => bump (injFail s p slot i e) (policyCtr e.policy) p
        else bump (injFail s p slot i e) (policyCtr e.policy) p
      else injFail s p slot i e := by
  have he : enqueue s p (triggerItem (absTick s) i slot e) = (refusal s p e.flow false, countRefusal s p e.flow, none) :=
    enqueue_refused h
  obtain ⟨r, hr⟩ := Nat.exists_eq_succ_of_ne_zero h
  rw [inject, he, injFail, hr]
  rfl

end

/-- The state in which a trigger is offered to its flow: the next entry lies behind it, and time stands at its OFFSET (R21). -/
def atTrigger (r : State) (p i : Nat) (e : PlanEntry) : State :=
  { setTick r p { getTick r p with injNext := i + 1 } with now := max r.now (tickStartAt r 0 + (e.offset : Int)).toNat }

@[simp] theorem getTick_atTrigger (r : State) (p i : Nat) (e : PlanEntry) :
    getTick (atTrigger r p i e) p = { getTick r p with injNext := i + 1 } := getTick_setTick_same r p _

theorem refusal_atTrigger (r : State) (p i q f : Nat) (e : PlanEntry) (same : Bool) :
    refusal (atTrigger r p i e) q f same = refusal r q f same :=
  refusal_congr (fun q j => descWord_setTick r p q j _) rfl q f same

theorem getPart_atTrigger_ne (r : State) {p q : Nat} (i : Nat) (e : PlanEntry) (h : q ≠ p) :
    getPart (atTrigger r p i e) q = getPart r q := getPart_setTick_ne r _ h

/-- A running plan with an entry left on the current index has that entry injected (R21). -/
theorem exec_triggerInject {s : State} {p : Fin 4} {pl : Plan} {i : Nat} {e : PlanEntry}
    (hr : (getTick (settleSwitch s p) p).run = true) (hp : activePlan (getTick (settleSwitch s p) p) = some pl)
    (hn : nextEntry (getTick (settleSwitch s p) p) = some (i, e)) :
    exec (.triggerInject p) s =
      .next (inject (atTrigger (settleSwitch s p) p i e) p (getTick (settleSwitch s p) p).active i e (fallbackOf pl e) 2) := by
  change execTriggerInject p s = _
  unfold execTriggerInject
  dsimp only
  split
  next hp' hn' =>
    rw [hp] at hp'
    rw [hn] at hn'
    cases hp'
    cases hn'
    rfl
  next hno => exact absurd hn (hno _ _ _ hr hp)

/-- A trigger (R21): the accepted entry's item, the bank after its injection, and what the injection leaves alone. -/
theorem triggerInjectQueuesTheEntry : Parts.TriggerInjectQueuesTheEntry := by
  intro s p pl i e r hrun hpl hnext href
  have hfree : refusal (atTrigger r p i e) p e.flow false = 0 := (refusal_atTrigger ..).trans href
  obtain ⟨it, hitems, hbank, hnow, hmem, htu, hparts, hit⟩ :=
    inject_accepted_effect (slot := (getTick r p).active) (i := i) (fb := fallbackOf pl e) 1 hfree
  obtain ⟨hflow, hkind, htomb, hlevel, htag, hbudget, hplace⟩ := hit
  refine ⟨_, exec_triggerInject hrun hpl hnext, it, hitems, hflow, hkind, htomb, hlevel, htag, hbudget, hplace, ?_, ?_, hnow, hmem,
    htu, fun q hq => (hparts q hq).trans (getPart_atTrigger_ne r i e hq)⟩
  · rw [hbank, getTick_atTrigger]
  · rw [hbank, getTick_atTrigger]
    rfl

/-- Refused triggers (R32): `inject` of an entry that its flow refuses, case by case of MUST and the policy. -/
theorem refusedTriggersFail : Parts.RefusedTriggersFail := by
  intro s p pl i e r a why f hrun hpl hnext hwhy
  have href : refusal (atTrigger r p i e) p e.flow false ≠ 0 := hwhy
  have hexec := exec_triggerInject hrun hpl hnext
  rw [inject_refused 1 href] at hexec
  refine ⟨fun hm => ?_, fun hm hnofb => ?_, fun j g hm hpol hfb => ?_⟩
  · rwa [hm] at hexec
  · rw [if_pos hm] at hexec
    rcases hnofb with hpol | hfb
    · rwa [if_neg hpol] at hexec
    · rwa [hfb, ite_self] at hexec
  · rw [if_pos hm, if_pos hpol, hfb, hpol] at hexec
    exact hexec

/-! ### Starts and switches (R22) -/

theorem settleSwitch_of_due {s : State} {p : Nat} {q : PlanPend} (h : (getTick s p).pend = some q) (hd : q.atCount ≤ s.tu.count) :
    settleSwitch s p = capCheck (raisePart (planIdx (setTick s p { getTick s p with
      active := q.slot, run := true, pend := none, stopping := false }) p) p 0x0103 (q.n + b2n q.slot * 2 ^ 21) 0) p := by
  rw [settleSwitch, h]
  exact if_pos hd

theorem settleSwitch_of_early {s : State} {p : Nat} {q : PlanPend} (h : (getTick s p).pend = some q) (hd : s.tu.count < q.atCount) :
    settleSwitch s p = s := by
  rw [settleSwitch, h]
  exact if_neg (Nat.not_le.2 hd)

/-- A pending start or switch (R22): due, or early. -/
theorem planSwitchTakesEffectAtItsTick : Parts.PlanSwitchTakesEffectAtItsTick := by
  intro s p q hq
  exact ⟨fun hd => congrArg Host.Outcome.next (settleSwitch_of_early hq hd),
    fun hd => congrArg Host.Outcome.next (settleSwitch_of_due hq hd)⟩

/-! ### Overruns and the escalate grace (R29, R30) -/

/-- The first window that has closed is the one that TICK_OVR acts on. -/
theorem exec_tickOvr {s : State} {p : Fin 4} {w : DlWin} (h : firstWin (closedWins s p false) = some w) :
    exec (.tickOvr p) s = .next (overrun s p w) := by
  change execTickOvr p s = _
  rw [execTickOvr, h]

theorem exec_tickEscDrop {s : State} {p : Fin 4} {w : DlWin} (h : firstWin (closedWins s p true) = some w) :
    exec (.tickEscDrop p) s = .next (escDrop s p w) := by
  change execTickEscDrop p s = _
  rw [execTickEscDrop, h]

theorem overrun_of_left {s : State} {p : Nat} {w : DlWin} (h : itemById s w.item = none) : overrun s p w = removeWin s p w := by
  rw [overrun, h]

theorem escDrop_of_left {s : State} {p : Nat} {w : DlWin} (h : itemById s w.item = none) : escDrop s p w = removeWin s p w := by
  rw [escDrop, h]

/-- TICK_OVR of a closed window and the count under its policy, before the policy acts (R29). -/
def ovrRaised (s : State) (p : Nat) (w : DlWin) (it : Item) : State :=
  bump (raisePart (removeWin s p w) p 0x0100
    (ovrWord w.trigN w.slot w.idx (ovrState it).1 (ovrState it).2 w.entry.policy) w.entry.tag.toNat) (policyCtr w.entry.policy) p

theorem overrun_of_item {s : State} {p : Nat} {w : DlWin} {it : Item} (h : itemById s w.item = some it) :
    overrun s p w =
      if w.entry.policy = 0 then abortItem (ovrRaised s p w it) it 0x80
      else if w.entry.policy = 1 then
        match w.fb with
        | some (i, f) => inject (abortItem (ovrRaised s p w it) it 0x80) p w.slot i f none 1
        | none => abortItem (ovrRaised s p w it) it 0x80
      else addWin (ovrRaised s p w it) p { w with grace := true, closeAt := w.closeAt + (getTick (ovrRaised s p w it) p).grace } := by
  rw [overrun, h]
  rfl

theorem escDrop_of_item {s : State} {p : Nat} {w : DlWin} {it : Item} (h : itemById s w.item = some it) :
    escDrop s p w = abortItem (raisePart (removeWin s p w) p 0x0101
      (ovrWord w.trigN w.slot w.idx (ovrState it).1 (ovrState it).2 w.entry.policy) w.entry.tag.toNat) it 0x80 := by
  rw [escDrop, h]

/-- Overruns (R29, R30), policy by policy. -/
theorem overrunFollowsThePolicy : Parts.OverrunFollowsThePolicy := by
  refine ⟨fun s p w hw hleft => (exec_tickOvr hw).trans (by rw [overrun_of_left hleft]), ?_⟩
  intro s p w it hw hit u
  have hexec := exec_tickOvr hw
  rw [overrun_of_item hit] at hexec
  refine ⟨fun hpol => ?_, fun hpol hfb => ?_, fun i f hpol hfb => ?_, fun hpol => ?_⟩
  · rwa [if_pos hpol] at hexec
  · rwa [if_neg (by omega), if_pos hpol, hfb] at hexec
  · rwa [if_neg (by omega), if_pos hpol, hfb] at hexec
  · rwa [if_neg (by omega), if_neg (by omega)] at hexec

/-- The end of a grace (R30), with its item still there or gone. -/
theorem escalateGraceEndsInADrop : Parts.EscalateGraceEndsInADrop :=
  ⟨fun _ _ _ _ hw hit => (exec_tickEscDrop hw).trans (by rw [escDrop_of_item hit]),
    fun _ _ _ hw hleft => (exec_tickEscDrop hw).trans (by rw [escDrop_of_left hleft])⟩

/-- Settles O8: its five parts. -/
theorem plansTriggerSwitchAndOverrun : Obligations.PlansTriggerSwitchAndOverrun :=
  ⟨triggerInjectQueuesTheEntry, refusedTriggersFail, planSwitchTakesEffectAtItsTick, overrunFollowsThePolicy, escalateGraceEndsInADrop⟩

end Sys2Proof.Machine
end

section
/-!
SUPPORT. The lanes (02_fronthaul_lanes): what reading a lane, its receiver and its port gives after a write of each, what the operations
that lanes share change, and the statements about light, sleep, test patterns and codewords.
-/
namespace Sys2Proof.Machine

/-! ### Lanes, receivers and fronthaul ports -/

@[simp] theorem getLane_setLane_same (s : State) (n : Nat) (x : Lane) : getLane (setLane s n x) n = x := tget_tset_same _ _ _ _
theorem getLane_setLane_ne (s : State) {n k : Nat} (x : Lane) (h : k ≠ n) : getLane (setLane s n x) k = getLane s k :=
  tget_tset_ne _ _ _ h
@[simp] theorem setLane_setLane_same (s : State) (n : Nat) (x y : Lane) : setLane (setLane s n x) n y = setLane s n y := by
  simp [setLane]
@[simp] theorem getLane_setRx (s : State) (n k : Nat) (r : LnRx) : getLane (setRx s n r) k = getLane s k := rfl

@[simp] theorem ctrGet_setLane (s : State) (n : Nat) (x : Lane) (c : Counter) (b : Nat) : ctrGet (setLane s n x) c b = ctrGet s c b := rfl

@[simp] theorem getRx_setRx_same (s : State) (n : Nat) (r : LnRx) : getRx (setRx s n r) n = r := tget_tset_same _ _ _ _
theorem getRx_setRx_ne (s : State) {n k : Nat} (r : LnRx) (h : k ≠ n) : getRx (setRx s n r) k = getRx s k := tget_tset_ne _ _ _ h
@[simp] theorem getRx_setLane (s : State) (n k : Nat) (x : Lane) : getRx (setLane s n x) k = getRx s k := rfl
@[simp] theorem getRx_setFh (s : State) (m k : Nat) (p : FhPort) : getRx (setFh s m p) k = getRx s k := rfl

@[simp] theorem getFh_setFh_same (s : State) (m : Nat) (p : FhPort) : getFh (setFh s m p) m = p := tget_tset_same _ _ _ _

/-! ### The aligner, the receiver and the link of a lane (R39, R44, R72) -/

/-- A lane whose receiver has stopped: no FEC lock, no PRBS lock, and no search for either. -/
def stopped (x : Lane) : Lane :=
  { x with fecLock := false, fecRun := 0, amRun := 0, prbsLock := false, prbsGood := 0, prbsWin := [] }

theorem alignUpdate_of_unlocked (s : State) {n : Nat} (h : n < 64) (hl : (getLane s n).fecLock = false) :
    alignUpdate s n = setRx s n (alignDown (getRx s n)) := by
  simp [alignUpdate, h, hl]

/-- With light and FEC lock the aligner leaves DOWN for SEARCH and otherwise stays where it is. -/
theorem align_alignUpdate_of_locked (s : State) {n : Nat} (h : n < 64) (hlive : laneLive (getLane s n) = true)
    (hl : (getLane s n).fecLock = true) :
    (getRx (alignUpdate s n) n).align = if (getRx s n).align = 0 then 1 else (getRx s n).align := by
  by_cases ha : (getRx s n).align = 0 <;> simp [alignUpdate, h, hlive, hl, ha]

@[simp] theorem getLane_alignUpdate (s : State) (n k : Nat) : getLane (alignUpdate s n) k = getLane s k := by
  unfold alignUpdate
  dsimp only
  repeat' split
  all_goals rfl

theorem getRx_alignUpdate_ne (s : State) {n k : Nat} (h : k ≠ n) : getRx (alignUpdate s n) k = getRx s k := by
  unfold alignUpdate
  dsimp only
  repeat' split
  · exact getRx_setRx_ne s _ h
  · exact getRx_setRx_ne s _ h
  · rfl
  · rfl

@[simp] theorem alignUpdate_ctr (s : State) (n : Nat) : (alignUpdate s n).ctr = s.ctr := by
  unfold alignUpdate
  dsimp only
  repeat' split
  all_goals rfl

theorem rxStop_of_fronthaul (s : State) {n : Nat} (h : n < 64) :
    rxStop s n = setRx (setLane s n (stopped (getLane s n))) n (alignDown (getRx s n)) :=
  alignUpdate_of_unlocked _ h (congrArg Lane.fecLock (getLane_setLane_same ..))

@[simp] theorem getLane_rxStop_same (s : State) (n : Nat) : getLane (rxStop s n) n = stopped (getLane s n) :=
  (getLane_alignUpdate ..).trans (getLane_setLane_same ..)

theorem getLane_rxStop_ne (s : State) {n k : Nat} (h : k ≠ n) : getLane (rxStop s n) k = getLane s k :=
  (getLane_alignUpdate ..).trans (getLane_setLane_ne s _ h)

theorem getRx_rxStop_ne (s : State) {n k : Nat} (h : k ≠ n) : getRx (rxStop s n) k = getRx s k := getRx_alignUpdate_ne _ h

theorem linkUpdate_of_fronthaul (s : State) {n : Nat} (h : n < 64) : linkUpdate s n = s := if_pos h

/-- A port's link is a part of the backhaul ports alone. -/
theorem linkUpdate_ln (s : State) (n : Nat) : (linkUpdate s n).ln = s.ln := by
  unfold linkUpdate
  split <;> rfl

@[simp] theorem linkUpdate_ctr (s : State) (n : Nat) : (linkUpdate s n).ctr = s.ctr := by
  unfold linkUpdate
  split <;> rfl

@[simp] theorem getLane_linkUpdate (s : State) (n k : Nat) : getLane (linkUpdate s n) k = getLane s k := by
  simp only [getLane, linkUpdate_ln]

@[simp] theorem getRx_linkUpdate (s : State) (n k : Nat) : getRx (linkUpdate s n) k = getRx s k := by
  simp only [getRx, linkUpdate_ln]

/-! ### Loss of light (R36, R39, R72) -/

/-- `t` is `s` but for the lanes and the backhaul ports. -/
def LanesOnly (s t : State) : Prop := { t with ln := s.ln, bh := s.bh } = s

theorem LanesOnly.trans {s t u : State} (h : LanesOnly s t) (h' : LanesOnly t u) : LanesOnly s u := by
  unfold LanesOnly at h' h ⊢
  rw [← h'] at h
  exact h

theorem lanesOnly_setLane (s : State) (n : Nat) (x : Lane) : LanesOnly s (setLane s n x) := rfl

theorem lanesOnly_alignUpdate (s : State) (n : Nat) : LanesOnly s (alignUpdate s n) := by
  unfold alignUpdate
  dsimp only
  repeat' split
  all_goals rfl

theorem lanesOnly_rxStop (s : State) (n : Nat) : LanesOnly s (rxStop s n) :=
  (lanesOnly_setLane s n _).trans (lanesOnly_alignUpdate _ n)

theorem lanesOnly_linkUpdate (s : State) (n : Nat) : LanesOnly s (linkUpdate s n) := by
  unfold linkUpdate
  split <;> rfl

/-- Lane `k` has no light, and with it no lock; a fronthaul one is DOWN. -/
def LaneDark (s : State) (k : Nat) : Prop :=
  (getLane s k).light = false ∧ (getLane s k).fecLock = false ∧ (getLane s k).prbsLock = false ∧ (k < 64 → (getRx s k).align = 0)

/-- Lane `k` and its receiver stand in `t` as in `s`. -/
def LaneKept (s t : State) (k : Nat) : Prop := getLane t k = getLane s k ∧ getRx t k = getRx s k

theorem LaneKept.trans {s t u : State} {k : Nat} (h : LaneKept s t k) (h' : LaneKept t u k) : LaneKept s u k :=
  ⟨h'.1.trans h.1, h'.2.trans h.2⟩

theorem LaneKept.dark {s t : State} {k : Nat} (h : LaneKept s t k) (hd : LaneDark s k) : LaneDark t k := by
  unfold LaneDark
  rwa [h.1, h.2]

theorem laneDark_rxStop {s : State} {n : Nat} (h : (getLane s n).light = false) : LaneDark (rxStop s n) n := by
  unfold LaneDark
  rw [getLane_rxStop_same]
  refine ⟨h, rfl, rfl, fun hn => ?_⟩
  rw [rxStop_of_fronthaul s hn, getRx_setRx_same]
  rfl

theorem laneKept_rxStop (s : State) {n k : Nat} (h : k ≠ n) : LaneKept s (rxStop s n) k :=
  ⟨getLane_rxStop_ne s h, getRx_rxStop_ne s h⟩

theorem laneKept_alignUpdate (s : State) {n k : Nat} (h : k ≠ n) : LaneKept s (alignUpdate s n) k :=
  ⟨getLane_alignUpdate s n k, getRx_alignUpdate_ne s h⟩

theorem laneKept_linkUpdate (s : State) (n k : Nat) : LaneKept s (linkUpdate s n) k :=
  ⟨getLane_linkUpdate s n k, getRx_linkUpdate s n k⟩

theorem laneKept_setLane (s : State) {n k : Nat} (x : Lane) (h : k ≠ n) : LaneKept s (setLane s n x) k :=
  ⟨getLane_setLane_ne s x h, rfl⟩

/-- Lane `n` becomes `y`, its receiver stops and the link of its port follows: what the loss of its light does. -/
def goDark (s : State) (n : Nat) (y : Lane) : State := linkUpdate (rxStop (setLane s n y) n) n

theorem laneDark_goDark (s : State) (n : Nat) {y : Lane} (h : y.light = false) : LaneDark (goDark s n y) n := by
  refine (laneKept_linkUpdate ..).dark (laneDark_rxStop ?_)
  rwa [getLane_setLane_same]

theorem laneKept_goDark (s : State) {n k : Nat} (y : Lane) (h : k ≠ n) : LaneKept s (goDark s n y) k :=
  (laneKept_setLane s y h).trans ((laneKept_rxStop _ h).trans (laneKept_linkUpdate ..))

theorem lanesOnly_goDark (s : State) (n : Nat) (y : Lane) : LanesOnly s (goDark s n y) :=
  (lanesOnly_setLane s n y).trans ((lanesOnly_rxStop _ n).trans (lanesOnly_linkUpdate ..))

theorem goDark_oeFault (s : State) (n : Nat) (y : Lane) : (goDark s n y).ln.oeFault = s.ln.oeFault := by
  rw [goDark, linkUpdate_ln, rxStop, alignUpdate]
  dsimp only
  repeat' split
  all_goals rfl

/-- Lane `n` gets light: its aligner and the link of its port follow. -/
def goLit (s : State) (n : Nat) : State := linkUpdate (alignUpdate (setLane s n { getLane s n with light := true }) n) n

theorem light_goLit (s : State) (n : Nat) : (getLane (goLit s n) n).light = true := by simp [goLit]

theorem laneKept_goLit (s : State) {n k : Nat} (h : k ≠ n) : LaneKept s (goLit s n) k :=
  (laneKept_setLane s _ h).trans ((laneKept_alignUpdate _ h).trans (laneKept_linkUpdate ..))

theorem lanesOnly_goLit (s : State) (n : Nat) : LanesOnly s (goLit s n) :=
  (lanesOnly_setLane s n _).trans ((lanesOnly_alignUpdate _ n).trans (lanesOnly_linkUpdate ..))

theorem exec_opticalSignalChange_lit {n : Fin 80} {present : Bool} {s : State}
    (h : (present && !bit s.ln.oeFault (laneEngine n)) = true) : exec (.opticalSignalChange n present) s = .next (goLit s n) := by
  change execOpticalSignalChange n present s = _
  rw [execOpticalSignalChange, h]
  rfl

theorem exec_opticalSignalChange_dark {n : Fin 80} {present : Bool} {s : State}
    (h : (present && !bit s.ln.oeFault (laneEngine n)) = false) :
    exec (.opticalSignalChange n present) s = .next (goDark s n { getLane s n with light := false }) := by
  change execOpticalSignalChange n present s = _
  rw [execOpticalSignalChange, h]
  rfl

/-- What an engine's fault does to one of its lanes (R36). -/
def engineDark (s : State) (n : Nat) : State := goDark s n { getLane s n with light := false, unitEnd := none, txEnding := false }

/-- The state in which engine `e` has faulted and its lanes have not yet followed. -/
def engineFaulted (s : State) (e : Nat) : State := { s with ln := { s.ln with oeFault := setBit s.ln.oeFault e true } }

theorem exec_oeFault (e : Fin 8) (s : State) :
    exec (.oeFault e) s = .next ((engineLanes e).foldl engineDark (engineFaulted s e)) := rfl

theorem lanesOnly_engineFaulted (s : State) (e : Nat) : LanesOnly s (engineFaulted s e) := rfl

/-- Every lane of the list goes dark and every other one stays. -/
theorem foldl_engineDark (l : List Nat) (s : State) :
    let t := l.foldl engineDark s
    (∀ k ∈ l, LaneDark t k) ∧ (∀ k, k ∉ l → LaneKept s t k) ∧ LanesOnly s t ∧ t.ln.oeFault = s.ln.oeFault := by
  induction l using List.reverseRecOn with
  | nil => exact ⟨fun k hk => (List.not_mem_nil hk).elim, fun k _ => ⟨rfl, rfl⟩, rfl, rfl⟩
  | append_singleton l n ih =>
    obtain ⟨hdark, hkept, honly, hfault⟩ := ih
    rw [List.foldl_append]
    refine ⟨fun k hk => ?_, fun k hk => ?_, honly.trans (lanesOnly_goDark ..), (goDark_oeFault ..).trans hfault⟩
    · by_cases hn : k = n
      · subst hn
        exact laneDark_goDark _ _ rfl
      · have hl : k ∈ l := by simpa [hn] using hk
        exact (laneKept_goDark _ _ hn).dark (hdark k hl)
    · have hl : k ∉ l ∧ k ≠ n := by simpa using hk
      exact (hkept k hl.1).trans (laneKept_goDark _ _ hl.2)

theorem mem_engineLanes {e k : Nat} : k ∈ engineLanes e ↔ k < 80 ∧ laneEngine k = e := by
  simp [engineLanes, mem_upFrom]

theorem bit_setBit_same (n i : Nat) : bit (setBit n i true) i = true := by
  by_cases h : bit n i = true
  · simp [setBit, h]
  · have hodd : n / 2 ^ i % 2 ≠ 1 := by simpa [bit] using h
    have hset : setBit n i true = n + 2 ^ i := by simp [setBit, h]
    rw [hset, bit, Nat.add_div_right _ (Nat.two_pow_pos i), beq_iff_eq]
    omega

/-- Settles O11: the change of one lane's light, and its loss on every lane of an engine in turn. -/
theorem lossOfLightEndsEveryLock : Obligations.LossOfLightEndsEveryLock := by
  refine ⟨fun n s present => ?_, fun e s => ?_⟩
  · cases hp : present && !bit s.ln.oeFault (laneEngine n) with
    | true =>
      have hlight := light_goLit s n
      exact ⟨_, exec_opticalSignalChange_lit hp, hlight, fun hdark => absurd (hdark.symm.trans hlight) Bool.false_ne_true,
        fun k hk => laneKept_goLit s hk, lanesOnly_goLit s n⟩
    | false =>
      obtain ⟨hlight, hlocks⟩ := laneDark_goDark s n (y := { getLane s n with light := false }) rfl
      exact ⟨_, exec_opticalSignalChange_dark hp, hlight, fun _ => hlocks, fun k hk => laneKept_goDark s _ hk, lanesOnly_goDark ..⟩
  · obtain ⟨hdark, hkept, honly, hfault⟩ := foldl_engineDark (engineLanes e) (engineFaulted s e)
    refine ⟨_, exec_oeFault e s, ?_, fun k hk he => hdark k (mem_engineLanes.2 ⟨hk, he⟩), fun k hk he => ?_,
      (lanesOnly_engineFaulted s e).trans honly⟩
    · exact (congrArg (bit · e) hfault).trans (bit_setBit_same ..)
    · exact hkept k fun hm => he (mem_engineLanes.1 hm).2

end Sys2Proof.Machine
end

section
/-!
SUPPORT. Copies of frames (03_line_frame): the aligner, and the way of a received copy into the deskew buffer.
-/
namespace Sys2Proof.Machine

/-! ### The aligner (R43, R69, R70) -/

/-- A FAW at an untried position opens a candidate (R69). -/
theorem searchFaw_opens {s : State} {n pos : Nat} {r : LnRx} (oh : List Byte)
    (hfind : (r.cands.find? fun c => c.expect == some pos) = none) (hnew : ∀ c ∈ r.cands, c.pos ≠ pos) (hlen : r.cands.length < 4) :
    searchFaw s n r pos true oh = setRx s n { r with cands := r.cands ++
      [{ pos := pos, sight := 1, expect := none, nums := [if ohGood oh = true then some (ohNum oh) else none] }] } := by
  have hany : (r.cands.any fun c => c.pos == pos) = false := by simpa using hnew
  simp [searchFaw, hfind, hany, hlen]

/-- A FAW at the one position that a readable gap dictates begins the next frame (R70). -/
theorem inFrameFaw_hit {s : State} {n k : Nat} {r : LnRx} {hits : List Nat} (hg : r.gap = some k)
    (h : r.pos + 1606144 + 128 * k ∈ hits) :
    inFrameFaw s n r hits = setRx (noteStart s n (nextNum r.fw) r.mf) n { r with
      pos := r.pos + 1606144 + 128 * k, gap := none, miss := 0, missed := false, inProg := true, began := r.mf
      fw := nextNum r.fw, tFaw := nsCounter s } := by
  simp [inFrameFaw, hg, h]

/-- The fourth miss in a row (R70). -/
theorem inFrameFaw_lost {s : State} {n k : Nat} {r : LnRx} {hits : List Nat} (hg : r.gap = some k)
    (h : r.pos + 1606144 + 128 * k ∉ hits) (hm : 3 ≤ r.miss) :
    inFrameFaw s n r hits = setRx s n { alignDown r with align := 1 } := by
  simp [inFrameFaw, hg, h, hm]

theorem exec_gapHeaderRx_search {n : Fin 64} {pos : Nat} {s : State} (hdr : List Byte) (ha : (getRx s n).align = 1)
    (hc : ((getRx s n).cands.any fun c => c.pos == pos) = true) :
    (∀ k, gapRead hdr = some k → exec (.gapHeaderRx n pos hdr) s = .next (setRx s n { getRx s n with
      cands := (getRx s n).cands.map fun c => if c.pos == pos then { c with expect := some (pos + 1606144 + 128 * k) } else c })) ∧
    (gapRead hdr = none → exec (.gapHeaderRx n pos hdr) s =
      .next (bump (setRx s n { getRx s n with cands := (getRx s n).cands.filter fun c => c.pos != pos }) .lnGapErr n)) := by
  change (∀ k, _ → execGapHeaderRx n pos hdr s = _) ∧ (_ → execGapHeaderRx n pos hdr s = _)
  rw [execGapHeaderRx, if_pos ⟨ha, hc⟩]
  exact ⟨fun k hk => by rw [hk], fun hk => by rw [hk]⟩

theorem exec_gapHeaderRx_inFrame {n : Fin 64} {pos k : Nat} {s : State} {hdr : List Byte} (ha : (getRx s n).align = 2)
    (hp : (getRx s n).pos = pos) (hk : gapRead hdr = some k) :
    exec (.gapHeaderRx n pos hdr) s = .next (setRx s n { getRx s n with gap := some k, lastGap := k }) := by
  change execGapHeaderRx n pos hdr s = _
  rw [execGapHeaderRx, if_neg (by simp [ha]), if_pos ⟨ha, hp⟩, hk]

theorem exec_fawMatch_search {n : Fin 64} {pos : Nat} {s : State} {hits : List Nat} (oh : List Byte) (ha : (getRx s n).align = 1)
    (h : pos ∈ hits) : exec (.fawMatch n pos hits oh) s = .next (searchFaw s n (getRx s n) pos true oh) := by
  have hc : hits.contains pos = true := List.contains_iff_mem.2 h
  change execFawMatch n pos hits oh s = _
  rw [execFawMatch, if_pos ha, hc]

theorem exec_fawMatch_inFrame {n : Fin 64} {s : State} (pos : Nat) (hits : List Nat) (oh : List Byte) (ha : (getRx s n).align = 2)
    (hi : (getRx s n).inProg = false) : exec (.fawMatch n pos hits oh) s = .next (inFrameFaw s n (getRx s n) hits) := by
  change execFawMatch n pos hits oh s = _
  rw [execFawMatch, if_neg (by simp [ha]), if_pos ⟨ha, hi⟩]

/-- The aligner in SEARCH and in IF. -/
theorem alignerSearchesAndKeepsFrames : Parts.AlignerSearchesAndKeepsFrames := by
  intro n pos s
  dsimp only
  refine ⟨fun hdr k ha hc hk => (exec_gapHeaderRx_search hdr ha hc).1 k hk, fun hdr ha hc hk => (exec_gapHeaderRx_search hdr ha hc).2 hk,
    fun hdr k ha hp hk => exec_gapHeaderRx_inFrame ha hp hk, fun hits oh ha hfind hm hnew hlen => ?_, fun hits oh k ha hi hg hm => ?_,
    fun hits oh k ha hi hg hm hmiss => ?_⟩
  · exact (exec_fawMatch_search oh ha hm).trans (congrArg _ (searchFaw_opens oh hfind hnew hlen))
  · exact (exec_fawMatch_inFrame pos hits oh ha hi).trans (congrArg _ (inFrameFaw_hit hg hm))
  · exact (exec_fawMatch_inFrame pos hits oh ha hi).trans (congrArg _ (inFrameFaw_lost hg hm hmiss))

/-! ### Received copies (R55 to R57, R71, R73) -/

@[simp] theorem copiesOf_setCopies (p : FhPort) (l : Nat) (c : List Copy) : copiesOf (setCopies p l c) l = c := by
  by_cases h : l = 0 <;> simp [copiesOf, setCopies, h]

theorem setCopies_en (p : FhPort) (l : Nat) (c : List Copy) : (setCopies p l c).en = p.en := by
  unfold setCopies
  split <;> rfl

theorem markErrored_en (p : FhPort) (l num : Nat) : (markErrored p l num).en = p.en := by
  unfold markErrored
  dsimp only
  split
  · exact setCopies_en p l _
  · exact setCopies_en p l _

theorem ite_markErrored_en (b : Prop) [Decidable b] (p : FhPort) (l num : Nat) : (if b then p else markErrored p l num).en = p.en := by
  split
  · rfl
  · exact markErrored_en p l num

/-- Is the frame older than the next release of a port that has not lost every lane (R79)? -/
def tooOld (p : FhPort) (num : Nat) : Bool :=
  match p.nextF with
  | some f => !p.lost && decide (numDist num f < 0)
  | none => false

theorem tooOld_eq_false {p : FhPort} {num : Nat} (h : ∀ f, p.nextF = some f → p.lost = false → 0 ≤ numDist num f) :
    tooOld p num = false := by
  unfold tooOld
  split
  next f hf =>
    cases hl : p.lost
    · simpa using h f hf hl
    · rfl
  next => rfl

/-- Is a copy a failed one, on the grounds of R73? -/
def copyFailed (s : State) (n : Nat) (bytes : List Byte) (unc : Bool) : Bool :=
  let r := getRx s n
  !r.began || !(mfUpdate r (ohGood (bytes.take 80)) (ohNum (bytes.take 80))).mf || r.missed || ohAis (bytes.take 80) || unc ||
    !laneLive (getLane s n)

/-- The copy that a frame in progress leaves. -/
def copyHeard (s : State) (n : Nat) (bytes : List Byte) (unc : Bool) : Copy :=
  let r := getRx s n
  { num := r.fw, tFaw := r.tFaw, failed := copyFailed s n bytes unc, errored := copyFailed s n bytes unc
    good := ohGood (bytes.take 80), oh := bytes.take 80, pay := scramble (scrSeed r.fw) (bytes.drop 80) }

/-- What LINE_FRAME_RX does with a frame that is not too old: counters move, to `c`; the receiver's record follows the overhead; and the
port, which may have marked an earlier copy, takes the copy if the frame began in MF_LOCK and it is on. -/
theorem exec_lineFrameRx_inProg {n : Fin 64} {s : State} (bytes : List Byte) (unc : Bool) (ha : (getRx s n).align = 2)
    (hi : (getRx s n).inProg = true) (hold : tooOld (getFh s (n.val / 2)) (getRx s n).fw = false) :
    ∃ (c : Tab Nat) (p : FhPort) (rei errCnt : Nat) (rdi : Bool),
      (ohGood (bytes.take 80) = false → c = (bump s .fhLnOhcrc n).ctr) ∧ p.en = (getFh s (n.val / 2)).en ∧
      exec (.lineFrameRx n bytes unc) s = .next
        (setFh (setRx { s with ctr := c } n { mfUpdate (getRx s n) (ohGood (bytes.take 80)) (ohNum (bytes.take 80)) with
          inProg := false, prevBip := some (bip8 (bytes.drop 80)), rei := rei, rdi := rdi
          aisRun := if ohAis (bytes.take 80)
            then (mfUpdate (getRx s n) (ohGood (bytes.take 80)) (ohNum (bytes.take 80))).aisRun + 1 else 0
          pend := some (copyFailed s n bytes unc), errCnt := errCnt, got := true }) (n.val / 2)
          (if (getRx s n).began && p.en then
            setCopies p (n.val % 2) (copiesOf p (n.val % 2) ++ [copyHeard s n bytes unc]) else p)) := by
  have hrun : ¬ ((getRx s n).align ≠ 2 ∨ (getRx s n).inProg = false) := by simp [ha, hi]
  change ∃ (c : Tab Nat) (p : FhPort) (rei errCnt : Nat) (rdi : Bool), _ ∧ _ ∧ execLineFrameRx n bytes unc s = _
  unfold execLineFrameRx copyHeard copyFailed
  dsimp only
  rw [if_neg hrun]
  cases hf : (getFh s (n.val / 2)).nextF with
  | none =>
    simp only [Bool.or_false, Bool.not_false, Bool.and_true]
    cases hg : ohGood (bytes.take 80)
    · exact ⟨_, _, _, _, _, fun _ => rfl, ite_markErrored_en _ _ _ _, rfl⟩
    · exact ⟨_, _, _, _, _, nofun, ite_markErrored_en _ _ _ _, rfl⟩
  | some f =>
    have hnew : (!(getFh s (n.val / 2)).lost && decide (numDist (getRx s n).fw f < 0)) = false := by
      simpa only [tooOld, hf] using hold
    simp only [hnew, Bool.or_false, Bool.not_false, Bool.and_true]
    cases hg : ohGood (bytes.take 80)
    · exact ⟨_, _, _, _, _, fun _ => rfl, ite_markErrored_en _ _ _ _, rfl⟩
    · exact ⟨_, _, _, _, _, nofun, ite_markErrored_en _ _ _ _, rfl⟩

/-- A received copy. -/
theorem receivedCopyEntersTheDeskewBuffer : Parts.ReceivedCopyEntersTheDeskewBuffer := by
  intro n bytes unc s
  dsimp only
  intro ha hi hfresh
  obtain ⟨c, p, rei, errCnt, rdi, hbad, hen, hexec⟩ := exec_lineFrameRx_inProg bytes unc ha hi (tooOld_eq_false hfresh)
  refine ⟨_, hexec, ?_⟩
  simp only [getRx_setFh, getRx_setRx_same, getFh_setFh_same]
  refine ⟨trivial, trivial, trivial, trivial, rfl, fun hb he => ?_, hbad, rfl⟩
  have htake : ((getRx s n).began && p.en) = true := by rw [hb, hen, he]; rfl
  rw [if_pos htake, copiesOf_setCopies]
  exact List.getLast?_concat

/-- Settles O15: the aligner, and the copy that enters the deskew buffer. -/
theorem copiesAreAlignedAndDeskewed : Obligations.CopiesAreAlignedAndDeskewed :=
  ⟨alignerSearchesAndKeepsFrames, receivedCopyEntersTheDeskewBuffer⟩

end Sys2Proof.Machine
end

section
/-!
SUPPORT. Sleep, wake and test patterns of a lane (02_fronthaul_lanes): what a write of a sleep field does, how a transition ends, and what
the commands of the generator and the checker do.
-/
namespace Sys2Proof.Machine

/-! ### Sleep fields (R48 to R51, R85) -/

/-- A lane register's write by the owner does what its unit makes of it, and is answered. -/
theorem lnWrite_owner {s t : State} {who : Agent} {n : Nat} {f : State → State} (hown : mayTouch who (laneOwner s n) = true)
    (e : f s = t) : lnWrite s who n f = .next (done t) := by
  rw [lnWrite, if_pos hown, e]

section
variable {s t : State} {who : Agent} {n : Fin 80} (hown : mayTouch who (laneOwner s n) = true)
include hown

theorem gives_lnTxSleepEnter {d : Fin 3} (e : txWrite s n (d.val + 1) = t) : Gives (.lnTxSleepEnter who n d) s (done t) :=
  lnWrite_owner (f := fun u => txWrite u n (d.val + 1)) hown e

theorem gives_lnTxWake (e : txWrite s n 0 = t) : Gives (.lnTxWake who n) s (done t) :=
  lnWrite_owner (f := fun u => txWrite u n 0) hown e

theorem gives_lnRxSleepEnter {d : Fin 3} (e : rxWrite s n (d.val + 1) = t) : Gives (.lnRxSleepEnter who n d) s (done t) :=
  lnWrite_owner (f := fun u => rxWrite u n (d.val + 1)) hown e

theorem gives_lnRxWake (e : rxWrite s n 0 = t) : Gives (.lnRxWake who n) s (done t) :=
  lnWrite_owner (f := fun u => rxWrite u n 0) hown e

theorem gives_lnDepthChange_tx {deep : Bool} (e : txWrite s n (if deep then 2 else 1) = t) :
    Gives (.lnDepthChange who n false deep) s (done t) :=
  lnWrite_owner (f := fun u => txWrite u n (if deep then 2 else 1)) hown e

theorem gives_lnDepthChange_rx {deep : Bool} (e : rxWrite s n (if deep then 2 else 1) = t) :
    Gives (.lnDepthChange who n true deep) s (done t) :=
  lnWrite_owner (f := fun u => rxWrite u n (if deep then 2 else 1)) hown e

end

section
variable {s : State} {n v : Nat}

theorem txWrite_reserved (hn : n < 64) : txWrite s n 3 = lnRej s n := by
  simp [txWrite, Nat.not_le.2 hn]

theorem txWrite_held (hn : n < 64) (hv : v ≠ 3) (ht : (getLane s n).txState = 3) :
    txWrite s n v = setLane s n { getLane s n with txHeld := some v } := by
  simp [txWrite, Nat.not_le.2 hn, hv, ht]

theorem txWrite_settled (hn : n < 64) (hv : v ≠ 3) (ht : (getLane s n).txState ≠ 3) : txWrite s n v = txApply s n v := by
  simp [txWrite, Nat.not_le.2 hn, hn, hv, ht]

theorem txApply_refused (hv : v ≠ 0) (h0 : (getLane s n).txState = 0) (hr : (txActive s n && otherNotSending s n) = true) :
    txApply s n v = lnSleepRej s n := by
  rw [txApply, if_neg (by rw [h0]; exact hv.symm), if_pos]
  simpa [h0] using hr

theorem txApply_starts (hv : (getLane s n).txState ≠ v)
    (hr : (getLane s n).txState = 0 → (txActive s n && otherNotSending s n) = false) : txApply s n v = txStart s n v := by
  rw [txApply, if_neg hv, if_neg]
  simpa [Bool.and_assoc] using hr

/-- A write that starts a change of a fronthaul lane's transmitter. -/
theorem txWrite_starts (hn : n < 64) (hv : v ≠ 3) (h3 : (getLane s n).txState ≠ 3) (hne : (getLane s n).txState ≠ v)
    (hr : (getLane s n).txState = 0 → (txActive s n && otherNotSending s n) = false) :
    txWrite s n v = setLane s n { getLane s n with
      txSleep := v, txState := 3, txFrom := (getLane s n).txState, txGoal := v,
      txEnding := (getLane s n).txState == 0 && (getLane s n).unitEnd.isSome, txAt := upNs s } := by
  rw [txWrite_settled hn hv h3, txApply_starts hne hr]
  exact linkUpdate_of_fronthaul _ hn

theorem rxWrite_settled (hn : n < 64) (hv : v ≠ 3) (h3 : (getLane s n).rxState ≠ 3) (hw : (getLane s n).rxWait = false) :
    rxWrite s n v = rxApply s n v := by
  simp [rxWrite, Nat.not_le.2 hn, hv, h3, hw]

theorem rxApply_chosen_refused (hv : v ≠ 0) (h0 : (getLane s n).rxState = 0) (hsel : ((getFh s (n / 2)).sel == n % 2) = true)
    (hf : (laneFail s (n / 2) (1 - n % 2) || (getFh s (n / 2)).cmd == 1) = true) : rxApply s n v = lnSleepRej s n := by
  rw [rxApply, if_neg (by rw [h0]; exact hv.symm), if_pos (by rw [h0, hsel]; rfl), if_pos hf]

theorem rxApply_chosen_asks (hv : v ≠ 0) (h0 : (getLane s n).rxState = 0) (hsel : ((getFh s (n / 2)).sel == n % 2) = true)
    (hf : (laneFail s (n / 2) (1 - n % 2) || (getFh s (n / 2)).cmd == 1) = false) :
    rxApply s n v = setLane s n { getLane s n with rxSleep := v, rxWait := true, rxFs := true } := by
  rw [rxApply, if_neg (by rw [h0]; exact hv.symm), if_pos (by rw [h0, hsel]; rfl), if_neg (by rw [hf]; exact Bool.false_ne_true)]

theorem rxApply_starts (hv : (getLane s n).rxState ≠ v)
    (hsel : (getLane s n).rxState = 0 → ((getFh s (n / 2)).sel == n % 2) = false) : rxApply s n v = rxStart s n v := by
  rw [rxApply, if_neg hv, if_neg]
  simpa using hsel

/-- A write that starts a change of a fronthaul lane's receiver, which stops at once. -/
theorem rxWrite_starts (hn : n < 64) (hv : v ≠ 3) (h3 : (getLane s n).rxState ≠ 3) (hw : (getLane s n).rxWait = false)
    (hne : (getLane s n).rxState ≠ v) (hsel : (getLane s n).rxState = 0 → ((getFh s (n / 2)).sel == n % 2) = false) :
    rxWrite s n v = setRx (setLane s n (stopped { getLane s n with
      rxSleep := v, rxState := 3, rxFrom := (getLane s n).rxState, rxGoal := v, rxWait := false, rxAt := upNs s })) n
      (alignDown (getRx s n)) := by
  rw [rxWrite_settled hn hv h3 hw, rxApply_starts hne hsel, rxStart, linkUpdate_of_fronthaul _ hn, rxStop_of_fronthaul _ hn]
  simp [updLane]

end

/-- The writes of TX_SLEEP (R47 to R51). -/
theorem transmitSleepWritesStartAChange : Parts.TransmitSleepWritesStartAChange := by
  intro who n s hown hn
  dsimp only
  refine ⟨fun d hd h0 hf => ?_, fun d hd h0 hf => ?_, ?_, fun hs => ?_, fun deep hs => ?_, fun h3 => ?_⟩
  · refine gives_lnTxSleepEnter hown ((txWrite_starts hn ?_ ?_ ?_ fun _ => hf).trans (by simp [h0]))
    all_goals omega
  · refine gives_lnTxSleepEnter hown ?_
    rw [txWrite_settled hn (by omega) (by omega), txApply_refused (by omega) h0 hf]
    rfl
  · exact gives_lnTxSleepEnter hown (txWrite_reserved hn)
  · have h0 : (getLane s n).txState ≠ 0 := by omega
    refine gives_lnTxWake hown ((txWrite_starts hn ?_ ?_ h0 fun h => absurd h h0).trans (by simp [beq_false_of_ne h0]))
    all_goals omega
  · have h0 : (getLane s n).txState ≠ 0 := by cases deep <;> simp [hs]
    refine gives_lnDepthChange_tx hown ((txWrite_starts hn ?_ ?_ ?_ fun h => absurd h h0).trans (by simp [beq_false_of_ne h0]))
    all_goals cases deep <;> simp [hs]
  · exact gives_lnTxWake hown (txWrite_held hn (by omega) h3)

/-- The writes of RX_SLEEP (R49 to R51, R85). -/
theorem receiveSleepWritesStartAChange : Parts.ReceiveSleepWritesStartAChange := by
  intro who n s hown hn
  dsimp only
  refine ⟨fun d hd h0 hw hsel => ?_, fun d hd h0 hw hsel hf => ?_, fun d hd h0 hw hsel hf => ?_, fun hs hw => ?_, fun deep hs hw => ?_⟩
  · exact gives_lnRxSleepEnter hown (rxWrite_starts hn (by omega) (by omega) hw (by omega) fun _ => hsel)
  · exact gives_lnRxSleepEnter hown ((rxWrite_settled hn (by omega) (by omega) hw).trans (rxApply_chosen_asks (by omega) h0 hsel hf))
  · exact gives_lnRxSleepEnter hown ((rxWrite_settled hn (by omega) (by omega) hw).trans (rxApply_chosen_refused (by omega) h0 hsel hf))
  · have h0 : (getLane s n).rxState ≠ 0 := by omega
    exact gives_lnRxWake hown (rxWrite_starts hn (by omega) (by omega) hw h0 fun h => absurd h h0)
  · have h0 : (getLane s n).rxState ≠ 0 := by cases deep <;> simp [hs]
    refine gives_lnDepthChange_rx hown (rxWrite_starts hn ?_ ?_ hw ?_ fun h => absurd h h0)
    all_goals cases deep <;> simp [hs]

/-! ### The ends of transitions (R48, R50, R51) -/

@[simp] theorem getLane_startPoint (s : State) (k j : Nat) : getLane (startPoint s k) j = getLane s j := rfl

theorem getLane_raiseOwner (s : State) (p : Option Nat) (code w2 w3 k : Nat) :
    getLane (raiseOwner s p code w2 w3) k = getLane s k := by
  rw [getLane, away_ln (away_raiseOwner s p code w2 w3 (away_refl s))]
  rfl

/-- Without a held write nothing follows the end of a transition. -/
theorem heldApply_none {s : State} {n : Nat} {rx : Bool} (h : (if rx then (getLane s n).rxHeld else (getLane s n).txHeld) = none) :
    heldApply s n rx = s := by
  cases rx
  · have ht : (getLane s n).txHeld = none := h
    simp [heldApply, ht]
  · have hr : (getLane s n).rxHeld = none := h
    simp [heldApply, hr]

/-- The ends of lane transitions, each with no write held. -/
theorem laneTransitionsEnd : Parts.LaneTransitionsEnd := by
  intro n s
  dsimp only
  refine ⟨fun h3 hheld hgoal hend hdeep => ?_, fun h3 hheld hgoal hdeep => ?_, fun h3 hheld hgoal hfree => ?_,
    fun h3 hheld hgoal hfree => ?_, fun rx hstay => ⟨?_, fun hfrom => ?_⟩, fun h3 hheld hgoal hlate => ?_,
    fun h3 hheld hgoal hlate => ?_, fun hearly => ?_, fun hearly => ?_, by decide⟩
  · change execLnSleepDone n false s = _
    simp only [execLnSleepDone, Bool.false_eq_true, if_false]
    rw [if_pos ⟨h3, hgoal, hend, hdeep⟩, heldApply_none (by simp [hheld])]
  · change execLnSleepDone n true s = _
    simp only [execLnSleepDone, if_true]
    rw [if_pos ⟨h3, hgoal, hdeep⟩, heldApply_none (by simp [hheld])]
  · change execLnWakeDone n false s = _
    simp only [execLnWakeDone, hfree, Bool.false_eq_true, if_false]
    rw [if_pos ⟨h3, hgoal⟩, heldApply_none (by simp [hheld])]
  · change execLnWakeDone n true s = _
    simp only [execLnWakeDone, hfree, Bool.false_eq_true, if_false, if_true]
    rw [if_pos ⟨h3, hgoal⟩, heldApply_none (by simp [hheld])]
  · change execLnWakeDone n rx s = _
    simp only [execLnWakeDone, hstay, if_true]
  · change execLnSleepDone n rx s = _
    cases rx
    · have hf : (getLane s n).txFrom = 2 := hfrom
      simp [execLnSleepDone, hf, hstay]
    · have hf : (getLane s n).rxFrom = 2 := hfrom
      simp [execLnSleepDone, hf, hstay]
  · change execLnWakeFail n false s = _
    simp only [execLnWakeFail, Bool.false_eq_true, if_false]
    rw [if_pos ⟨h3, hgoal, hlate⟩, heldApply_none (by simp [getLane_raiseOwner, hheld])]
    rfl
  · change execLnWakeFail n true s = _
    simp only [execLnWakeFail, if_true]
    rw [if_pos ⟨h3, hgoal, hlate⟩, heldApply_none (by simp [getLane_raiseOwner, hheld])]
    rfl
  · change execLnWakeFail n false s = _
    simp only [execLnWakeFail, Bool.false_eq_true, if_false]
    exact if_neg fun ⟨_, _, hlate⟩ => Nat.not_le.2 hearly hlate
  · change execLnWakeFail n true s = _
    simp only [execLnWakeFail, if_true]
    exact if_neg fun ⟨_, _, hlate⟩ => Nat.not_le.2 hearly hlate

/-! ### Test patterns (R45 to R47) -/

/-- The commands of a lane's test patterns and its checker. -/
theorem testPatternsAreSentAndChecked : Parts.TestPatternsAreSentAndChecked := by
  intro n s
  dsimp only
  refine ⟨fun who mode hown h3 hmode => ?_, fun who chk hown h3 => ?_, fun who hown hnow hawake => ?_,
    fun level hchk hlive => ⟨fun hlock => ?_, fun hlock => ?_⟩⟩
  · change execLnTxMode who n mode s = _
    rw [execLnTxMode, lnWrite, if_pos hown, if_neg h3, if_neg]
    rintro ⟨hm, hs⟩
    obtain hm' | ⟨hs', ha⟩ := hmode
    · exact hm hm'
    · simp [hs', ha] at hs
  · change execLnRxChk who n chk s = _
    rw [execLnRxChk, lnWrite, if_pos hown, if_neg h3]
    rfl
  · change ∃ t, execLnErrInj who n s = .next t ∧ _
    rw [execLnErrInj, lnWrite, if_pos hown]
    dsimp only
    rw [if_neg (not_or.2 ⟨hnow, not_not.2 hawake⟩)]
    refine ⟨_, rfl, _, ?_, rfl⟩
    split
    · exact .inl rfl
    · exact .inr rfl
  · change execPrbsSymbolRx n level s = _
    rw [execPrbsSymbolRx, if_neg (by simp [hchk, hlive])]
    dsimp only
    rw [if_pos hlock, ← apply_ite Host.Outcome.next, ← apply_ite (setLane _ _)]
  · change execPrbsSymbolRx n level s = _
    rw [execPrbsSymbolRx, if_neg (by simp [hchk, hlive])]
    dsimp only
    rw [if_neg (by simp [hlock])]

end Sys2Proof.Machine
end

section
/-!
SUPPORT. Codewords of a lane (02_fronthaul_lanes R37, R39, R44): what is counted of one, and how the search of a fronthaul and of a backhaul
lane gains its lock and loses it.
-/
namespace Sys2Proof.Machine

/-! ### Counts and payload -/

/-- Another counter of the same bank keeps its value. -/
theorem ctrGet_bumpBy_of_ctorIdx_ne (s : State) {c c' : Counter} (b v : Nat) (h : c'.ctorIdx ≠ c.ctorIdx) :
    ctrGet (bumpBy s c b v) c' b = ctrGet s c' b :=
  ctrGet_ctrSet_of_ctrKey_ne s _ fun e => h (Nat.add_left_cancel e)

/-- Counting a codeword does not read the lanes. -/
theorem countCodeword_setLane (s : State) (n : Nat) (x : Lane) (found : Option Nat) :
    countCodeword (setLane s n x) n found = setLane (countCodeword s n found) n x := by
  unfold countCodeword
  dsimp only
  repeat' split
  all_goals rfl

/-- Every codeword that a locked decoder takes is counted once, whatever else is counted of it. -/
theorem ctrGet_countCodeword (s : State) (n : Nat) (found : Option Nat) :
    ctrGet (countCodeword s n found) .lnFecCw n = min (Counter.top .lnFecCw) (ctrGet s .lnFecCw n + 1) := by
  have hcw := ctrGet_bump_same s .lnFecCw n
  cases found with
  | none => exact (ctrGet_bumpBy_of_ctorIdx_ne _ _ _ (by decide)).trans hcw
  | some k =>
    by_cases hk : k = 0
    · simp [countCodeword, hk, hcw]
    · simp only [countCodeword, if_neg hk]
      exact (ctrGet_bumpBy_of_ctorIdx_ne _ _ _ (by decide)).trans ((ctrGet_bumpBy_of_ctorIdx_ne _ _ _ (by decide)).trans hcw)

/-- The payload symbols of a codeword as the decoder hands them on: corrected, or as received where it is uncorrectable. -/
def payOf (l : BitVec 5440) : List Nat :=
  match fecWord l with
  | some p => p.1.take 514
  | none => (rxSymbols l).take 514

theorem fecDecode_of_fecWord {l : BitVec 5440} {w : List Nat} {k : Nat} (h : fecWord l = some (w, k)) : fecDecode l = some k := by
  rw [fecDecode, h]
  rfl

theorem fecDecode_of_none {l : BitVec 5440} (h : fecWord l = none) : fecDecode l = none := by
  rw [fecDecode, h]
  rfl

theorem fecWord_of_fecDecode_none {l : BitVec 5440} (h : fecDecode l = none) : fecWord l = none := Option.map_eq_none_iff.1 h

theorem payOf_of_some {l : BitVec 5440} {w : List Nat} {k : Nat} (h : fecWord l = some (w, k)) : payOf l = w.take 514 := by
  unfold payOf
  rw [h]

theorem payOf_of_none {l : BitVec 5440} (h : fecWord l = none) : payOf l = (rxSymbols l).take 514 := by
  unfold payOf
  rw [h]

/-! ### The search for lock -/

section
variable {s : State} {n : Nat} {ok : Bool} {am : Option Bool}

theorem fecSearch_agrees (h : (getLane s n).fecLock = ok) : fecSearch s n ok = setLane s n { getLane s n with fecRun := 0 } := if_pos h

theorem fecSearch_turns (h : (getLane s n).fecLock ≠ ok) (hk : (if (getLane s n).fecLock then 8 else 4) ≤ (getLane s n).fecRun + 1) :
    fecSearch s n ok = setFecLock s n ok :=
  (if_neg h).trans (if_pos hk)

theorem fecSearch_counts (h : (getLane s n).fecLock ≠ ok) (hk : (getLane s n).fecRun + 1 < (if (getLane s n).fecLock then 8 else 4)) :
    fecSearch s n ok = setLane s n { getLane s n with fecRun := (getLane s n).fecRun + 1 } :=
  (if_neg h).trans (if_neg (Nat.not_le.2 hk))

/-- Alignment markers missed, or found, in a row after the next place where one may stand. -/
def markerRun (x : Lane) (am : Option Bool) : Nat :=
  match am with
  | some b => if b = x.fecLock then 0 else x.amRun + 1
  | none => x.amRun

/-- A marker where one may turn the lock is counted. -/
theorem markerRun_of_turning {x : Lane} (h : am = some (!x.fecLock)) : markerRun x am = x.amRun + 1 := by
  subst h
  cases hl : x.fecLock <;> simp [markerRun, hl]

theorem markerRun_lt {x : Lane} {k : Nat} (h : ¬ (am = some (!x.fecLock) ∧ k ≤ x.amRun + 1)) (hk : x.amRun < k) :
    markerRun x am < k := by
  cases am with
  | none => exact hk
  | some b =>
    by_cases hb : b = x.fecLock
    · have h0 : markerRun x (some b) = 0 := if_pos hb
      omega
    · have hturn : some b = some (!x.fecLock) := congrArg some (Bool.eq_not.2 hb)
      rw [markerRun_of_turning hturn]
      exact Nat.not_le.1 fun hge => h ⟨hturn, hge⟩

/-- The search of a backhaul lane in its three outcomes: the lock ends, is gained, or stays as it is. -/
theorem pcsSearch_eq :
    pcsSearch s n ok am =
      if (getLane s n).fecLock = true ∧ ((ok = false ∧ 3 ≤ (getLane s n).fecRun + 1) ∨ 5 ≤ markerRun (getLane s n) am) then
        setFecLock s n false
      else if (getLane s n).fecLock = false ∧ 2 ≤ markerRun (getLane s n) am then setFecLock s n true
      else setLane s n { getLane s n with
        fecRun := if (getLane s n).fecLock && !ok then (getLane s n).fecRun + 1 else 0, amRun := markerRun (getLane s n) am } := by
  refine if_congr ?_ rfl (if_congr ?_ rfl rfl)
  · change ((getLane s n).fecLock && (decide (3 ≤ if (getLane s n).fecLock && !ok then (getLane s n).fecRun + 1 else 0) ||
      decide (5 ≤ markerRun (getLane s n) am))) = true ↔ _
    cases (getLane s n).fecLock <;> cases ok <;> simp
  · change (!(getLane s n).fecLock && decide (2 ≤ markerRun (getLane s n) am)) = true ↔ _
    simp

theorem pcsSearch_ends (hl : (getLane s n).fecLock = true)
    (h : (ok = false ∧ 3 ≤ (getLane s n).fecRun + 1) ∨ (am = some false ∧ 5 ≤ (getLane s n).amRun + 1)) :
    pcsSearch s n ok am = setFecLock s n false := by
  have hmissed : am = some false ∧ 5 ≤ (getLane s n).amRun + 1 → 5 ≤ markerRun (getLane s n) am := by
    rintro ⟨rfl, hrun⟩
    rwa [markerRun_of_turning (x := getLane s n) (by rw [hl]; rfl)]
  rw [pcsSearch_eq, if_pos ⟨hl, h.imp_right hmissed⟩]

theorem pcsSearch_gains (hl : (getLane s n).fecLock = false) (hm : am = some true) (h : 2 ≤ (getLane s n).amRun + 1) :
    pcsSearch s n ok am = setFecLock s n true := by
  have hfound : 2 ≤ markerRun (getLane s n) am := by
    subst hm
    rwa [markerRun_of_turning (x := getLane s n) (by rw [hl]; rfl)]
  rw [pcsSearch_eq, if_neg (by simp [hl]), if_pos ⟨hl, hfound⟩]

theorem pcsSearch_stays_locked (hl : (getLane s n).fecLock = true) (hbad : ¬ (ok = false ∧ 3 ≤ (getLane s n).fecRun + 1))
    (hm : ¬ (am = some false ∧ 5 ≤ (getLane s n).amRun + 1)) (hrun : (getLane s n).amRun < 5) :
    ∃ bad run, pcsSearch s n ok am = setLane s n { getLane s n with fecRun := bad, amRun := run } := by
  have hlt : markerRun (getLane s n) am < 5 := markerRun_lt (by rwa [hl]) hrun
  rw [pcsSearch_eq, if_neg fun h => h.2.elim hbad fun hge => by omega, if_neg (by simp [hl])]
  exact ⟨_, _, rfl⟩

theorem pcsSearch_stays_unlocked (hl : (getLane s n).fecLock = false) (hm : ¬ (am = some true ∧ 2 ≤ (getLane s n).amRun + 1))
    (hrun : (getLane s n).amRun < 2) :
    ∃ bad run, pcsSearch s n ok am = setLane s n { getLane s n with fecRun := bad, amRun := run } := by
  have hlt : markerRun (getLane s n) am < 2 := markerRun_lt (by rwa [hl]) hrun
  rw [pcsSearch_eq, if_neg (by simp [hl]), if_neg fun h => by omega]
  exact ⟨_, _, rfl⟩

@[simp] theorem getLane_setFecLock (on : Bool) :
    getLane (setFecLock s n on) n = { getLane s n with fecLock := on, fecRun := 0, amRun := 0 } := by
  simp [setFecLock, updLane]

theorem ctrGet_setFecLock (on : Bool) (c : Counter) (b : Nat) : ctrGet (setFecLock s n on) c b = ctrGet s c b := by
  have hctr : (setFecLock s n on).ctr = s.ctr := by rw [setFecLock, linkUpdate_ctr, alignUpdate_ctr]; rfl
  rw [ctrGet, hctr]
  rfl

theorem getRx_setFecLock_lost (hn : n < 64) : getRx (setFecLock s n false) n = alignDown (getRx s n) := by
  rw [setFecLock, linkUpdate_of_fronthaul _ hn, alignUpdate_of_unlocked _ hn (by simp [updLane]), getRx_setRx_same]
  rfl

theorem align_setFecLock_gained (hn : n < 64) (hlive : laneLive (getLane s n) = true) :
    (getRx (setFecLock s n true) n).align = if (getRx s n).align = 0 then 1 else (getRx s n).align := by
  rw [setFecLock, linkUpdate_of_fronthaul _ hn]
  refine align_alignUpdate_of_locked _ hn ?_ ?_
  · simpa [updLane, laneLive] using hlive
  · simp [updLane]

end

/-! ### The command -/

/-- What a codeword does to a lane that takes the stream. -/
theorem exec_fecCodewordRx_live {n : Fin 80} {s : State} (l : BitVec 5440) (am : Option Bool) (h : laneLive (getLane s n) = true) :
    exec (.fecCodewordRx n l am) s =
      let u := if (getLane s n).fecLock then setLane (countCodeword s n (fecDecode l)) n { getLane s n with rxPay := payOf l } else s
      .next (if n.val < 64 then fecSearch u n (fecDecode l).isSome else pcsSearch u n (fecDecode l).isSome am) := by
  rw [← countCodeword_setLane]
  change execFecCodewordRx n l am s = _
  unfold execFecCodewordRx
  dsimp only
  rw [if_neg (by simp [h])]
  cases hw : fecWord l with
  | none =>
    rw [fecDecode_of_none hw, payOf_of_none hw]
    rfl
  | some p =>
    rw [fecDecode_of_fecWord hw, payOf_of_some hw]
    rfl

/-- The lane and the counters before the search, where the lane's decoder was locked. -/
def codewordTaken (s : State) (n : Nat) (l : BitVec 5440) : State :=
  setLane (countCodeword s n (fecDecode l)) n { getLane s n with rxPay := payOf l }

@[simp] theorem getLane_codewordTaken (s : State) (n : Nat) (l : BitVec 5440) :
    getLane (codewordTaken s n l) n = { getLane s n with rxPay := payOf l } := getLane_setLane_same ..

theorem ctrGet_codewordTaken (s : State) (n : Nat) (l : BitVec 5440) :
    ctrGet (codewordTaken s n l) .lnFecCw n = min (Counter.top .lnFecCw) (ctrGet s .lnFecCw n + 1) := by
  rw [codewordTaken, ctrGet_setLane, ctrGet_countCodeword]

section
variable {s : State} {n : Fin 80} {l : BitVec 5440} {am : Option Bool} (hlive : laneLive (getLane s n) = true)
include hlive

theorem exec_fecCodewordRx_locked (hl : (getLane s n).fecLock = true) :
    exec (.fecCodewordRx n l am) s = .next (if n.val < 64 then fecSearch (codewordTaken s n l) n (fecDecode l).isSome
      else pcsSearch (codewordTaken s n l) n (fecDecode l).isSome am) := by
  rw [exec_fecCodewordRx_live l am hlive, if_pos hl]
  rfl

theorem exec_fecCodewordRx_unlocked (hl : (getLane s n).fecLock = false) :
    exec (.fecCodewordRx n l am) s =
      .next (if n.val < 64 then fecSearch s n (fecDecode l).isSome else pcsSearch s n (fecDecode l).isSome am) := by
  rw [exec_fecCodewordRx_live l am hlive, if_neg (by simp [hl])]

section
variable (hn : n.val < 64)
include hn

theorem exec_fecCodewordRx_fronthaul_locked (hl : (getLane s n).fecLock = true) :
    exec (.fecCodewordRx n l am) s = .next (fecSearch (codewordTaken s n l) n (fecDecode l).isSome) := by
  rw [exec_fecCodewordRx_locked hlive hl, if_pos hn]

theorem exec_fecCodewordRx_fronthaul_unlocked (hl : (getLane s n).fecLock = false) :
    exec (.fecCodewordRx n l am) s = .next (fecSearch s n (fecDecode l).isSome) := by
  rw [exec_fecCodewordRx_unlocked hlive hl, if_pos hn]

theorem fecCodewordRx_corrected {w : List Nat} {k : Nat} (hw : fecWord l = some (w, k)) (hl : (getLane s n).fecLock = true) :
    Gives (.fecCodewordRx n l am) s
      (setLane (if k = 0 then bump s .lnFecCw n else bumpBy (bump (bump s .lnFecCw n) .lnFecCorr n) .lnFecSym n k) n
        { getLane s n with fecRun := 0, rxPay := w.take 514 }) := by
  refine (exec_fecCodewordRx_fronthaul_locked hlive hn hl).trans ?_
  rw [fecDecode_of_fecWord hw, fecSearch_agrees (by simp [hl]), getLane_codewordTaken, codewordTaken, setLane_setLane_same,
    fecDecode_of_fecWord hw, payOf_of_some hw]
  rfl

theorem fecCodewordRx_uncorrectable (hd : fecDecode l = none) (hl : (getLane s n).fecLock = true) (hrun : (getLane s n).fecRun + 1 < 8) :
    Gives (.fecCodewordRx n l am) s (setLane (bump (bump s .lnFecCw n) .lnFecUncorr n) n
      { getLane s n with fecRun := (getLane s n).fecRun + 1, rxPay := (rxSymbols l).take 514 }) := by
  refine (exec_fecCodewordRx_fronthaul_locked hlive hn hl).trans ?_
  rw [hd, fecSearch_counts (by simp [hl]) (by simpa [hl] using hrun), getLane_codewordTaken, codewordTaken, setLane_setLane_same,
    hd, payOf_of_none (fecWord_of_fecDecode_none hd)]
  rfl

theorem fecCodewordRx_loses_lock (hd : fecDecode l = none) (hl : (getLane s n).fecLock = true) (hrun : 8 ≤ (getLane s n).fecRun + 1) :
    Gives (.fecCodewordRx n l am) s (setFecLock (codewordTaken s n l) n false) := by
  refine (exec_fecCodewordRx_fronthaul_locked hlive hn hl).trans ?_
  rw [hd, Option.isSome_none, fecSearch_turns (by simp [hl]) (by simpa [hl] using hrun)]

theorem fecCodewordRx_candidate {k : Nat} (hd : fecDecode l = some k) (hl : (getLane s n).fecLock = false)
    (hrun : (getLane s n).fecRun + 1 < 4) :
    Gives (.fecCodewordRx n l am) s (setLane s n { getLane s n with fecRun := (getLane s n).fecRun + 1 }) := by
  refine (exec_fecCodewordRx_fronthaul_unlocked hlive hn hl).trans ?_
  rw [fecSearch_counts (by simp [hl, hd]) (by simpa [hl] using hrun)]

theorem fecCodewordRx_gains_lock {k : Nat} (hd : fecDecode l = some k) (hl : (getLane s n).fecLock = false)
    (hrun : 4 ≤ (getLane s n).fecRun + 1) : Gives (.fecCodewordRx n l am) s (setFecLock s n true) := by
  refine (exec_fecCodewordRx_fronthaul_unlocked hlive hn hl).trans ?_
  rw [hd, Option.isSome_some, fecSearch_turns (by simp [hl]) (by simpa [hl] using hrun)]

theorem fecCodewordRx_no_candidate (hd : fecDecode l = none) (hl : (getLane s n).fecLock = false) :
    Gives (.fecCodewordRx n l am) s (setLane s n { getLane s n with fecRun := 0 }) := by
  refine (exec_fecCodewordRx_fronthaul_unlocked hlive hn hl).trans ?_
  rw [fecSearch_agrees (by simp [hl, hd])]

end

section
variable (hn : 64 ≤ n.val)
include hn

theorem exec_fecCodewordRx_backhaul_locked (hl : (getLane s n).fecLock = true) :
    exec (.fecCodewordRx n l am) s = .next (pcsSearch (codewordTaken s n l) n (fecDecode l).isSome am) := by
  rw [exec_fecCodewordRx_locked hlive hl, if_neg (Nat.not_lt.2 hn)]

theorem exec_fecCodewordRx_backhaul_unlocked (hl : (getLane s n).fecLock = false) :
    exec (.fecCodewordRx n l am) s = .next (pcsSearch s n (fecDecode l).isSome am) := by
  rw [exec_fecCodewordRx_unlocked hlive hl, if_neg (Nat.not_lt.2 hn)]

end

end

/-- Codewords of fronthaul and of backhaul lanes, locked and not. -/
theorem codewordsAreCountedWhileLocked : Parts.CodewordsAreCountedWhileLocked := by
  intro n s l am
  dsimp only
  intro hlive
  refine ⟨fun hn => ⟨fun w k hw hl => fecCodewordRx_corrected hlive hn hw hl, fun hd hl hrun => fecCodewordRx_uncorrectable hlive hn hd hl hrun,
    fun hd hl hrun => ?_, fun k hd hl hrun => fecCodewordRx_candidate hlive hn hd hl hrun, fun k hd hl hrun => ?_,
    fun hd hl => fecCodewordRx_no_candidate hlive hn hd hl⟩,
    fun hn => ⟨fun hl hend => ?_, fun hl hbad hmiss hrun => ?_, fun hl hm hrun => ?_, fun hl hm hrun => ?_⟩⟩
  · refine ⟨_, fecCodewordRx_loses_lock hlive hn hd hl hrun, ?_⟩
    beta_reduce
    rw [getLane_setFecLock, getRx_setFecLock_lost hn]
    exact ⟨rfl, rfl, rfl, rfl⟩
  · refine ⟨_, fecCodewordRx_gains_lock hlive hn hd hl hrun, ?_⟩
    beta_reduce
    rw [getLane_setFecLock, align_setFecLock_gained hn hlive]
    exact ⟨rfl, rfl⟩
  · have hpcs := pcsSearch_ends (s := codewordTaken s n l) (n := n) (ok := (fecDecode l).isSome) (am := am) (by simpa using hl)
      (by simpa using hend)
    refine ⟨_, (exec_fecCodewordRx_backhaul_locked hlive hn hl).trans (congrArg _ hpcs), ?_, ?_⟩
    · rw [getLane_setFecLock]
    · rw [ctrGet_setFecLock, ctrGet_codewordTaken]
  · obtain ⟨bad, run, hpcs⟩ := pcsSearch_stays_locked (s := codewordTaken s n l) (n := n) (ok := (fecDecode l).isSome) (am := am)
      (by simpa using hl) (by simpa using hbad) (by simpa using hmiss) (by simpa using hrun)
    refine ⟨_, (exec_fecCodewordRx_backhaul_locked hlive hn hl).trans (congrArg _ hpcs), ?_, ?_⟩
    · rw [getLane_setLane_same, getLane_codewordTaken]
      exact hl
    · rw [ctrGet_setLane, ctrGet_codewordTaken]
  · refine ⟨_, (exec_fecCodewordRx_backhaul_unlocked hlive hn hl).trans (congrArg _ (pcsSearch_gains hl hm hrun)), ?_⟩
    beta_reduce
    rw [getLane_setFecLock]
  · obtain ⟨bad, run, hpcs⟩ := pcsSearch_stays_unlocked (ok := (fecDecode l).isSome) hl hm hrun
    refine ⟨_, (exec_fecCodewordRx_backhaul_unlocked hlive hn hl).trans (congrArg _ hpcs), ?_⟩
    beta_reduce
    rw [getLane_setLane_same]
    exact hl

/-- Settles O10: its five parts. -/
theorem lanesSleepWakeAndCount : Obligations.LanesSleepWakeAndCount :=
  ⟨transmitSleepWritesStartAChange, receiveSleepWritesStartAChange, laneTransitionsEnd, testPatternsAreSentAndChecked,
    codewordsAreCountedWhileLocked⟩

end Sys2Proof.Machine
end

section
/-!
SUPPORT. Commands of a fronthaul port, its stream table and its egress aperture (03_line_frame R59, R62, R65, R66, R81, R86).
-/
namespace Sys2Proof.Machine

/-! ### Port registers (R59, R81, R86) -/

/-- A port register's write by the owner does what its unit makes of it, and is answered. -/
theorem fhWrite_owner {s : State} {who : Agent} {m : Nat} (f : State → State) (hown : mayTouch who (fhOwner s m) = true) :
    fhWrite s who m f = .next (done (f s)) :=
  if_pos hown

section
variable {s : State} {who : Agent} {m : Fin 32} (hown : mayTouch who (fhOwner s m) = true)
include hown

/-- A forced switch is recorded, or refused with CMD_REJ (R81). -/
theorem gives_fhProtForcedSwitch (l : Fin 2) : Gives (.fhProtForcedSwitch who m l) s
    (done (setFh s m (if (laneFail s m l || (getFh s m).cmd == 1) = true then { getFh s m with cmdRej := true }
      else { getFh s m with cmd := 2, cmdLane := l }))) := by
  change execFhProtForcedSwitch who m l s = _
  rw [execFhProtForcedSwitch, fhWrite_owner _ hown, apply_ite (setFh s m)]
  rfl

/-- A manual switch is recorded, or refused with CMD_REJ (R81). -/
theorem gives_fhProtManualSwitch (l : Fin 2) : Gives (.fhProtManualSwitch who m l) s
    (done (setFh s m (if (laneFail s m l || hasDef s (2 * m.val + l.val) 5 || (getFh s m).cmd == 1) = true
      then { getFh s m with cmdRej := true } else { getFh s m with cmd := 3, cmdLane := l }))) := by
  change execFhProtManualSwitch who m l s = _
  rw [execFhProtManualSwitch, fhWrite_owner _ hown, apply_ite (setFh s m)]
  rfl

theorem gives_fhDegThrWrite_taken {val : BitVec 32}
    (h : 0 < fld val.toNat 0 7 ∧ fld val.toNat 0 7 < fld val.toNat 8 7 ∧ fld val.toNat 8 7 ≤ 64) :
    Gives (.fhDegThrWrite who m val) s
      (done (setFh s m { getFh s m with sdThr := fld val.toNat 0 7, sfThr := fld val.toNat 8 7 })) := by
  change execFhDegThrWrite who m val s = _
  rw [execFhDegThrWrite, fhWrite_owner _ hown]
  dsimp only
  rw [if_neg (by omega)]
  rfl

theorem gives_fhDegThrWrite_left {val : BitVec 32}
    (h : fld val.toNat 0 7 = 0 ∨ fld val.toNat 8 7 ≤ fld val.toNat 0 7 ∨ 64 < fld val.toNat 8 7) :
    Gives (.fhDegThrWrite who m val) s (done s) := by
  change execFhDegThrWrite who m val s = _
  rw [execFhDegThrWrite, fhWrite_owner _ hown]
  dsimp only
  rw [if_pos (by omega)]

/-- FH_PKT_FLOW is taken where it disables the packet channel or names a flow of the owner (R86). -/
theorem gives_fhPktFlowWrite_taken {val : BitVec 32}
    (h : (!bit val.toNat 31 || ownsFlow s ((fhOwner s m).getD 4) (fld val.toNat 0 18)) = true) :
    Gives (.fhPktFlowWrite who m val) s
      (done (setFh s m { getFh s m with pktFlow := fld val.toNat 0 18, pktEn := bit val.toNat 31 })) := by
  change execFhPktFlowWrite who m val s = _
  rw [execFhPktFlowWrite, fhWrite_owner _ hown]
  dsimp only
  rw [if_neg (by simpa [imp_iff_not_or] using h)]
  rfl

theorem gives_fhPktFlowWrite_left {val : BitVec 32}
    (h : (!bit val.toNat 31 || ownsFlow s ((fhOwner s m).getD 4) (fld val.toNat 0 18)) = false) :
    Gives (.fhPktFlowWrite who m val) s (done s) := by
  change execFhPktFlowWrite who m val s = _
  rw [execFhPktFlowWrite, fhWrite_owner _ hown]
  dsimp only
  rw [if_pos (by simpa using h)]

end

/-- The commands of a port, and its thresholds and packet flow. -/
theorem portCommandsOfTheOwner : Parts.PortCommandsOfTheOwner := by
  intro who m s hown
  exact ⟨fun on => fhWrite_owner (updFh · m fun p => { p with txAis := on }) hown,
    fun l => fhWrite_owner (updFh · m fun p => { p with cmd := 1, cmdLane := l }) hown,
    gives_fhProtForcedSwitch hown, gives_fhProtManualSwitch hown,
    fun l => fhWrite_owner (updFh · m fun p => { p with cmd := 0, cmdLane := l }) hown,
    fun _ => ⟨gives_fhDegThrWrite_taken hown, gives_fhDegThrWrite_left hown⟩,
    fun _ => ⟨gives_fhPktFlowWrite_taken hown, gives_fhPktFlowWrite_left hown⟩⟩

/-! ### The stream table and the egress aperture (R62, R65, R66) -/

/-- A write that fits its stream enters the buffer with the window of this moment. -/
theorem egAccept_fits {s : State} {m : Nat} {bs : List Byte} (hlen : bs.length = 64)
    (hfit : fitsStream (secHdr (withHcrc bs)) (getStream s m (secHdr (withHcrc bs)).acid).cfg true = true) :
    egAccept s m bs =
      let h := secHdr (withHcrc bs)
      let c := (getStream s m h.acid).cfg
      let w := streamWindow s c (nearSym (carrierSym s c.mu s.now) h.sym)
      setFh s m { getFh s m with eg := (getFh s m).eg ++ [{ bytes := withHcrc bs, open_ := ofInt w.1 32, close := ofInt w.2 32 }] } :=
  if_neg (by simp [hlen, hfit])

theorem egAccept_refused {s : State} {m : Nat} {bs : List Byte}
    (h : bs.length ≠ 64 ∨ fitsStream (secHdr (withHcrc bs)) (getStream s m (secHdr (withHcrc bs)).acid).cfg true = false) :
    egAccept s m bs = bump s .fhTxFmt m :=
  if_pos h

section
variable {s : State} {who : Agent} {m : Fin 32} (hown : mayTouch who (fhOwner s m) = true)
include hown

theorem gives_streamEntryWrite_taken {a : Fin 1024} {val : BitVec 32}
    (h : bit val.toNat 0 = false ∨ streamOk s (getStream s m a).raw val.toNat = true) :
    Gives (.streamEntryWrite who m a val) s
      (done (setStream s m a { getStream s m a with cfg := streamCfg (getStream s m a).raw val.toNat })) := by
  have htake : (!(streamCfg (getStream s m a).raw val.toNat).valid || streamOk s (getStream s m a).raw val.toNat) = true := by
    simpa [streamCfg] using h
  change execStreamEntryWrite who m a val s = _
  rw [execStreamEntryWrite, if_neg (by simp [hown]), if_pos htake]

theorem gives_streamEntryWrite_refused {a : Fin 1024} {val : BitVec 32} (hv : bit val.toNat 0 = true)
    (hok : streamOk s (getStream s m a).raw val.toNat = false) :
    Gives (.streamEntryWrite who m a val) s (done (bump s .tickWinRej ((fhOwner s m).getD 4))) := by
  have hleave : ¬ (!(streamCfg (getStream s m a).raw val.toNat).valid || streamOk s (getStream s m a).raw val.toNat) = true := by
    simp [streamCfg, hv, hok]
  change execStreamEntryWrite who m a val s = _
  rw [execStreamEntryWrite, if_neg (by simp [hown]), if_neg hleave]

theorem gives_fhEgressWrite_held {bytes : List Byte} (hfull : 4096 ≤ (getFh s m).eg.length) :
    Gives (.fhEgressWrite who m bytes) s (done (setFh s m { getFh s m with egWait := (getFh s m).egWait ++ [bytes] })) := by
  change execFhEgressWrite who m bytes s = _
  rw [execFhEgressWrite, if_neg (by simp [hown]), if_pos (.inl hfull)]

theorem gives_fhEgressWrite_room {t : State} {bytes : List Byte} (hroom : (getFh s m).eg.length < 4096) (hwait : (getFh s m).egWait = [])
    (e : egAccept s m bytes = t) : Gives (.fhEgressWrite who m bytes) s (done t) := by
  change execFhEgressWrite who m bytes s = _
  rw [execFhEgressWrite, if_neg (by simp [hown]), if_neg (by simp [hroom, hwait]), e]

end

/-- Entries taken and refused; writes held, queued and refused. -/
theorem streamTableAndEgressWrites : Parts.StreamTableAndEgressWrites := by
  intro who m s hown
  exact ⟨fun _ _ => ⟨gives_streamEntryWrite_taken hown, gives_streamEntryWrite_refused hown⟩, fun _ => gives_fhEgressWrite_held hown,
    fun _ hroom hwait => ⟨fun hlen hfit => gives_fhEgressWrite_room hown hroom hwait (egAccept_fits hlen hfit),
      fun hbad => gives_fhEgressWrite_room hown hroom hwait (egAccept_refused hbad)⟩⟩

/-- Settles O12: the commands of a port, and the writes of its table and aperture. -/
theorem portsStreamsAndEgress : Obligations.PortsStreamsAndEgress := ⟨portCommandsOfTheOwner, streamTableAndEgressWrites⟩

end Sys2Proof.Machine
end

section
/-!
SUPPORT. The sending of frames (03_line_frame R53, R57, R59, R66; 02_fronthaul_lanes R40 to R42): the slots of a frame, and the start of one.
-/
namespace Sys2Proof.Machine

/-! ### Slots (R66) -/

theorem dropLate_of_not_late {t : Nat} {e : EgSec} {r : List EgSec} (h : isLate t e.close = false) : dropLate t (e :: r) = (e :: r, 0) := by
  simp [dropLate, h]

theorem dropLate_of_late {t k : Nat} {e : EgSec} {r l : List EgSec} (h : isLate t e.close = true) (hr : dropLate t r = (l, k)) :
    dropLate t (e :: r) = (l, k + 1) := by
  simp [dropLate, h, hr]

/-- Without a held write nothing enters the egress buffer as it empties. -/
theorem egRefill_of_no_wait {s : State} {m : Nat} (k : Nat) (h : (getFh s m).egWait = []) : egRefill s m k = s := by
  cases k with
  | zero => rfl
  | succ k =>
    unfold egRefill
    dsimp only
    rw [h]

/-- A port after a slot stamped `t` whose buffer held `l` once its late heads were gone. -/
def slotPort (p : FhPort) (t : Nat) (l : List EgSec) : FhPort :=
  match l with
  | [] => { p with eg := [], txSlot := p.txSlot + 1 }
  | e :: r =>
    if isEarly t e.open_ || p.aisNow then { p with eg := e :: r, txSlot := p.txSlot + 1 }
    else { p with eg := r, txSlot := p.txSlot + 1, txSecs := tset p.txSecs p.txSlot e.bytes }

theorem slotPort_egWait (p : FhPort) (t : Nat) (l : List EgSec) : (slotPort p t l).egWait = p.egWait := by
  unfold slotPort
  split
  · rfl
  · split <;> rfl

theorem exec_fhSlotTx {m : Fin 32} {s : State} {l : List EgSec} {k : Nat} (hen : (getFh s m).en = true) (hon : (getFh s m).txOn = true)
    (hslot : (getFh s m).txSlot < 3332) (hwait : (getFh s m).egWait = [])
    (hd : dropLate (slotStamp (getFh s m).txStart (getFh s m).txSlot) (getFh s m).eg = (l, k)) :
    exec (.fhSlotTx m) s = .next (setFh (bumpBy s .fhTxLate m k) m
      (slotPort (getFh s m) (slotStamp (getFh s m).txStart (getFh s m).txSlot) l)) := by
  have hrun : ¬ (!(getFh s m).en || !(getFh s m).txOn || decide (3332 ≤ (getFh s m).txSlot)) = true := by
    simp [hen, hon, hslot]
  have hsend : execFhSlotTx m s = .next (egRefill (setFh (bumpBy s .fhTxLate m k) m
      (slotPort (getFh s m) (slotStamp (getFh s m).txStart (getFh s m).txSlot) l)) m ((getFh s m).egWait.length + 1)) := by
    unfold execFhSlotTx slotPort
    dsimp only
    rw [if_neg hrun, hd]
    cases l with
    | nil => rfl
    | cons e r =>
      dsimp only
      split <;> rfl
  refine hsend.trans (congrArg _ (egRefill_of_no_wait _ ?_))
  rw [getFh_setFh_same, slotPort_egWait, hwait]

/-- Counting nothing leaves every counter that is within its width. -/
theorem ctrGet_bumpBy_zero {s : State} {k : Counter} {b : Nat} (c : Counter) (b' : Nat) (h : ctrGet s k b ≤ Counter.top k) :
    ctrGet (bumpBy s c b' 0) k b = ctrGet s k b := by
  rw [bumpBy, ctrGet_ctrSet, Nat.add_zero]
  split
  next hkey =>
    have hsame : ctrGet s c b' = ctrGet s k b := by rw [ctrGet, ctrGet, hkey]
    rw [hsame, ← counter_top_of_idx (ctrKey_inj hkey).1, Nat.min_eq_right h]
  next => rfl

/-- A head inside its window, an early one and a late one. -/
theorem slotsSendSectionsInsideTheirWindows : Parts.SlotsSendSectionsInsideTheirWindows := by
  intro m s
  dsimp only
  intro hen hon hslot hwait
  refine ⟨fun e r heg hlate hearly hais => ?_, fun e r heg hlate hearly => ?_, fun e heg hlate => ?_⟩
  · refine ⟨_, exec_fhSlotTx hen hon hslot hwait (by rw [heg, dropLate_of_not_late hlate]), ?_, rfl, fun k b h => ctrGet_bumpBy_zero _ _ h⟩
    rw [getFh_setFh_same]
    exact if_neg (by simp [hearly, hais])
  · refine ⟨_, exec_fhSlotTx hen hon hslot hwait (by rw [heg, dropLate_of_not_late hlate]), ?_, rfl, fun k b h => ctrGet_bumpBy_zero _ _ h⟩
    rw [getFh_setFh_same, slotPort, if_pos (by simp [hearly]), ← heg]
  · refine ⟨_, exec_fhSlotTx hen hon hslot hwait (by rw [heg, dropLate_of_late hlate rfl]; rfl), ?_, ctrGet_ctrSet_same _ _ _ _, rfl⟩
    rw [getFh_setFh_same]
    rfl

end Sys2Proof.Machine
end

section
/-!
SUPPORT. The counters that raising an event leaves alone: every one but the event records that a host lost and the items that a flow refused.
-/
namespace Sys2Proof.Machine

/-- A counter of another kind keeps its value, of whichever bank. -/
theorem ctrGet_bumpBy_of_kind_ne (s : State) {c c' : Counter} (b b' v : Nat) (h : c'.ctorIdx ≠ c.ctorIdx) :
    ctrGet (bumpBy s c b v) c' b' = ctrGet s c' b' :=
  ctrGet_ctrSet_of_ctrKey_ne s _ fun e => h (ctrKey_inj e).1

/-- A counter of another bank keeps its value, of whichever kind. -/
theorem ctrGet_bumpBy_of_bank_ne (s : State) (c c' : Counter) {b b' : Nat} (v : Nat) (h : b' ≠ b) :
    ctrGet (bumpBy s c b v) c' b' = ctrGet s c' b' :=
  ctrGet_ctrSet_of_ctrKey_ne s _ fun e => h (ctrKey_inj e).2

theorem addItem_ctr (s : State) (n : NewItem) (slot : Option Nat) (place : Place) : (addItem s n slot place).1.ctr = s.ctr := by
  cases slot <;> rfl

section
variable {c : Counter} (hlost : c.ctorIdx ≠ Counter.hwEvtLost.ctorIdx)
include hlost

theorem ctrGet_postHost (s : State) (h : Nat) (e : Evt) (b : Nat) : ctrGet (postHost s h e) c b = ctrGet s c b := by
  unfold postHost
  dsimp only
  split
  · rfl
  split
  · rfl
  split
  · split
    · rfl
    · exact ctrGet_bumpBy_of_kind_ne _ _ _ _ hlost
  · split
    · rfl
    · exact ctrGet_bumpBy_of_kind_ne _ _ _ _ hlost

variable (hrej : c.ctorIdx ≠ Counter.dvEnqRej.ctorIdx)
include hrej

omit hlost in
theorem ctrGet_enqueue (s : State) (p : Nat) (n : NewItem) (b : Nat) : ctrGet (enqueue s p n).2.1 c b = ctrGet s c b := by
  unfold enqueue
  dsimp only
  split
  · exact congrArg (tget · 0 (ctrKey c b)) (addItem_ctr s n none .queued)
  · unfold countRefusal
    refine (ctrGet_bumpBy_of_kind_ne _ _ _ _ hrej).trans ?_
    split <;> rfl

theorem ctrGet_toEventFlow (s : State) (p code w2 w3 b : Nat) : ctrGet (toEventFlow s p code w2 w3) c b = ctrGet s c b := by
  unfold toEventFlow
  dsimp only
  split
  · rfl
  split
  · split
    next e => exact (congrArg (ctrGet ·.2.1 c b) e).symm.trans (ctrGet_enqueue hrej ..)
    next e => exact (ctrGet_postHost hlost ..).trans ((congrArg (ctrGet ·.2.1 c b) e).symm.trans (ctrGet_enqueue hrej ..))
  · rfl

theorem ctrGet_raisePart (s : State) (p code w2 w3 b : Nat) : ctrGet (raisePart s p code w2 w3) c b = ctrGet s c b := by
  have hdeliver : ctrGet (deliver s p code w2 w3) c b = ctrGet s c b :=
    (ctrGet_toEventFlow hlost hrej ..).trans (ctrGet_postHost hlost ..)
  unfold raisePart
  dsimp only
  split
  · exact hdeliver
  · exact hdeliver

theorem ctrGet_raiseOwner (s : State) (p : Option Nat) (code w2 w3 b : Nat) : ctrGet (raiseOwner s p code w2 w3) c b = ctrGet s c b := by
  cases p with
  | some q => exact ctrGet_raisePart hlost hrej ..
  | none =>
    unfold raiseOwner
    dsimp only
    split <;> rfl

end

end Sys2Proof.Machine
end

section
/-!
SUPPORT. The start of a frame (02_fronthaul_lanes R36 to R48; 03_line_frame R53, R57, R59, R63): what each lane's gap, each lane's frame and
the port make of it.
-/
namespace Sys2Proof.Machine

theorem getLane_of_ln_eq {s t : State} (h : t.ln = s.ln) (n : Nat) : getLane t n = getLane s n := by
  rw [getLane, h]
  rfl

theorem getFh_of_fh_eq {s t : State} (h : t.fh = s.fh) (m : Nat) : getFh t m = getFh s m := by
  rw [getFh, h]
  rfl

/-! ### The gap that ends a lane's frame (R40 to R42) -/

/-- The filler units of the gap that ends a frame on unit `e` where the next one is due on unit `u`. -/
def gapUnits (e u : Nat) : Nat := (clampInt ((u : Int) - e - 48) 0 2).toNat

/-- The unit on which a lane's next frame starts where it is due on unit `u`. -/
def gapStart (x : Lane) (u : Nat) : Nat :=
  match x.unitEnd with
  | none => u
  | some e => e + 48 + gapUnits e u

/-- Was the gap of a lane clamped, so that the next frame starts on another unit than `u`? -/
def gapClamped (x : Lane) (u : Nat) : Bool := gapStart x u != u

/-- A lane of port `p` with its frame in progress and that frame's gap sent. -/
def gapLane (p : FhPort) (l u : Nat) (x : Lane) : Lane :=
  match x.unitEnd with
  | none => x
  | some e =>
    let g := gapBytes (gapUnits e u) x.gapReg
    { sendUnits x (sentFrame p l ++ g.1) with gapN := gapUnits e u, gapOut := g.1, gapReg := g.2, unitEnd := none, txEnding := false }

theorem gapLane_of_none {p : FhPort} {l u : Nat} {x : Lane} (h : x.unitEnd = none) : gapLane p l u x = x := by
  unfold gapLane
  rw [h]

theorem gapLane_of_some {p : FhPort} {l u e : Nat} {x : Lane} (h : x.unitEnd = some e) :
    gapLane p l u x = { sendUnits x (sentFrame p l ++ (gapBytes (gapUnits e u) x.gapReg).1) with
      gapN := gapUnits e u, gapOut := (gapBytes (gapUnits e u) x.gapReg).1, gapReg := (gapBytes (gapUnits e u) x.gapReg).2
      unitEnd := none, txEnding := false } := by
  unfold gapLane
  rw [h]

@[simp] theorem gapLane_unitEnd (p : FhPort) (l u : Nat) (x : Lane) : (gapLane p l u x).unitEnd = none := by
  cases h : x.unitEnd with
  | none => rw [gapLane_of_none h, h]
  | some e => rw [gapLane_of_some h]

@[simp] theorem gapLane_txState (p : FhPort) (l u : Nat) (x : Lane) : (gapLane p l u x).txState = x.txState := by
  cases h : x.unitEnd with
  | none => rw [gapLane_of_none h]
  | some e => rw [gapLane_of_some h]; rfl

@[simp] theorem gapLane_txModeNow (p : FhPort) (l u : Nat) (x : Lane) : (gapLane p l u x).txModeNow = x.txModeNow := by
  cases h : x.unitEnd with
  | none => rw [gapLane_of_none h]
  | some e => rw [gapLane_of_some h]; rfl

theorem gapStart_of_none {x : Lane} {u : Nat} (h : x.unitEnd = none) : gapStart x u = u := by
  unfold gapStart
  rw [h]

theorem gapStart_of_some {x : Lane} {u e : Nat} (h : x.unitEnd = some e) : gapStart x u = e + 48 + gapUnits e u := by
  unfold gapStart
  rw [h]

/-- What the gap of lane `n`, due to end on unit `u`, makes of the state. -/
structure GapSent (n u : Nat) (s t : State) : Prop where
  lane : getLane t n = gapLane (getFh s (n / 2)) (n % 2) u (getLane s n)
  lanes : ∀ k, k ≠ n → getLane t k = getLane s k
  oeFault : t.ln.oeFault = s.ln.oeFault
  fh : t.fh = s.fh
  tu : t.tu = s.tu
  now : t.now = s.now
  oor : ctrGet s .lnRateOor n ≤ Counter.top .lnRateOor →
    ctrGet t .lnRateOor n = min (Counter.top .lnRateOor) (ctrGet s .lnRateOor n + b2n (gapClamped (getLane s n) u))
  oors : ∀ k, k ≠ n → ctrGet t .lnRateOor k = ctrGet s .lnRateOor k

/-- A gap counted where it was clamped, and perhaps reported. -/
theorem gapSent_of_away {n u : Nat} {s t : State} (h : Away (setLane s n (gapLane (getFh s (n / 2)) (n % 2) u (getLane s n))) t)
    (hctr : ∀ k, ctrGet t .lnRateOor k =
      ctrGet (if gapClamped (getLane s n) u then bump s .lnRateOor n else s) .lnRateOor k) : GapSent n u s t where
  lane := (getLane_of_ln_eq (away_ln h) n).trans (getLane_setLane_same ..)
  lanes k hk := (getLane_of_ln_eq (away_ln h) k).trans (getLane_setLane_ne _ _ hk)
  oeFault := (congrArg Lanes.oeFault (away_ln h)).trans rfl
  fh := (away_fh h).trans rfl
  tu := (away_tu h).trans rfl
  now := (away_now h).trans rfl
  oor hb := by
    rw [hctr]
    cases gapClamped (getLane s n) u with
    | false => exact (Nat.min_eq_right hb).symm
    | true => exact ctrGet_bump_same ..
  oors k hk := by
    rw [hctr]
    cases gapClamped (getLane s n) u with
    | false => rfl
    | true => exact ctrGet_bumpBy_of_bank_ne _ _ _ _ hk

theorem sendGap_of_some {s : State} {n u e : Nat} (h : (getLane s n).unitEnd = some e) :
    sendGap s n u =
      let t := setLane s n (gapLane (getFh s (n / 2)) (n % 2) u (getLane s n))
      let start := gapStart (getLane s n) u
      if start = u then (start, t)
      else (start, if ((start : Int) - u).natAbs > 8 then raiseOwner (bump t .lnRateOor n) (laneOwner (bump t .lnRateOor n) n) 0x0200 n 0
        else bump t .lnRateOor n) := by
  have hclamp : ((gapUnits e u : Nat) : Int) = (u : Int) - e - 48 ↔ e + 48 + gapUnits e u = u := by omega
  rw [gapLane_of_some h, gapStart_of_some h]
  unfold sendGap
  dsimp only
  rw [h]
  exact if_congr hclamp rfl rfl

theorem sendGap_fst (s : State) (n u : Nat) : (sendGap s n u).1 = gapStart (getLane s n) u := by
  cases h : (getLane s n).unitEnd with
  | none => simp [sendGap, h, gapStart_of_none h]
  | some e =>
    rw [sendGap_of_some h]
    dsimp only
    split <;> rfl

theorem gapSent_sendGap (s : State) (n u : Nat) : GapSent n u s (sendGap s n u).2 := by
  cases h : (getLane s n).unitEnd with
  | none =>
    have hstay : (sendGap s n u).2 = s := by simp [sendGap, h]
    rw [hstay]
    exact ⟨(gapLane_of_none h).symm, fun _ _ => rfl, rfl, rfl, rfl, rfl,
      fun hb => by simp [gapClamped, gapStart_of_none h, b2n, Nat.min_eq_right hb], fun _ _ => rfl⟩
  | some e =>
    rw [sendGap_of_some h]
    dsimp only
    by_cases hu : gapStart (getLane s n) u = u
    · rw [if_pos hu]
      exact gapSent_of_away (away_refl _) fun k => by rw [gapClamped, hu, bne_self_eq_false]; rfl
    · have hclamped : gapClamped (getLane s n) u = true := bne_iff_ne.2 hu
      rw [if_neg hu]
      dsimp only
      split
      · exact gapSent_of_away (away_raiseOwner _ _ _ _ _ (away_refl _)) fun k => by
          rw [ctrGet_raiseOwner (by decide) (by decide), hclamped]; rfl
      · exact gapSent_of_away (away_refl _) fun k => by rw [hclamped]; rfl

/-! ### Both lanes' gaps (R41, R45) -/

/-- A lane whose TX_MODE has taken effect (R45). -/
def modeTaken (x : Lane) : Lane := { x with txModeNow := x.txMode }

/-- The state in which TX_MODE of both lanes of port `m` has taken effect. -/
def modesTaken (s : State) (m : Nat) : State := updLane (updLane s (2 * m) modeTaken) (2 * m + 1) modeTaken

/-- The state in which both lanes have then ended their frames. -/
def gapsSent (s : State) (m unitW unitP : Nat) : State :=
  (sendGap (sendGap (modesTaken s m) (2 * m) unitW).2 (2 * m + 1) unitP).2

theorem modesTaken_eq (s : State) (m : Nat) :
    updLane (updLane s (2 * m) fun x => { x with txModeNow := x.txMode }) (2 * m + 1) (fun x => { x with txModeNow := x.txMode }) =
      modesTaken s m := rfl

theorem getFh_modesTaken (s : State) (m k : Nat) : getFh (modesTaken s m) k = getFh s k := rfl

theorem getLane_modesTaken_w (s : State) (m : Nat) : getLane (modesTaken s m) (2 * m) = modeTaken (getLane s (2 * m)) :=
  (getLane_setLane_ne _ _ (by omega)).trans (getLane_setLane_same ..)

theorem getLane_modesTaken_p (s : State) (m : Nat) : getLane (modesTaken s m) (2 * m + 1) = modeTaken (getLane s (2 * m + 1)) :=
  (getLane_setLane_same ..).trans (congrArg modeTaken (getLane_setLane_ne _ _ (by omega)))

/-- What the gap of lane `l` of port `m`, due to end on unit `u`, leaves in `t` once both gaps are sent. -/
structure LaneGapSent (m l u : Nat) (s t : State) : Prop where
  lane : getLane t (2 * m + l) = gapLane (getFh s m) l u (modeTaken (getLane s (2 * m + l)))
  oor : ctrGet s .lnRateOor (2 * m + l) ≤ Counter.top .lnRateOor → ctrGet t .lnRateOor (2 * m + l) =
    min (Counter.top .lnRateOor) (ctrGet s .lnRateOor (2 * m + l) + b2n (gapClamped (getLane s (2 * m + l)) u))

section
variable (s : State) (m unitW unitP : Nat)

theorem gapSent_w : GapSent (2 * m) unitW (modesTaken s m) (sendGap (modesTaken s m) (2 * m) unitW).2 := gapSent_sendGap ..

theorem gapSent_p : GapSent (2 * m + 1) unitP (sendGap (modesTaken s m) (2 * m) unitW).2 (gapsSent s m unitW unitP) := gapSent_sendGap ..

theorem gapsSent_fh : (gapsSent s m unitW unitP).fh = s.fh := (gapSent_p ..).fh.trans (gapSent_w ..).fh
theorem gapsSent_tu : (gapsSent s m unitW unitP).tu = s.tu := (gapSent_p ..).tu.trans (gapSent_w ..).tu
theorem gapsSent_now : (gapsSent s m unitW unitP).now = s.now := (gapSent_p ..).now.trans (gapSent_w ..).now
theorem gapsSent_oeFault : (gapsSent s m unitW unitP).ln.oeFault = s.ln.oeFault := (gapSent_p ..).oeFault.trans (gapSent_w ..).oeFault

theorem laneGapSent_w : LaneGapSent m 0 unitW s (gapsSent s m unitW unitP) where
  lane := by
    have hlane := (gapSent_w s m unitW).lane
    rw [getLane_modesTaken_w, Nat.mul_div_cancel_left m (by decide), Nat.mul_mod_right] at hlane
    exact ((gapSent_p ..).lanes _ (by omega)).trans hlane
  oor hb := by
    have hoor := (gapSent_w s m unitW).oor hb
    rw [getLane_modesTaken_w] at hoor
    exact ((gapSent_p ..).oors _ (by omega)).trans hoor

theorem getLane_gapSent_w_p : getLane (sendGap (modesTaken s m) (2 * m) unitW).2 (2 * m + 1) = modeTaken (getLane s (2 * m + 1)) :=
  ((gapSent_w ..).lanes _ (by omega)).trans (getLane_modesTaken_p ..)

theorem laneGapSent_p : LaneGapSent m 1 unitP s (gapsSent s m unitW unitP) where
  lane := by
    have hlane := (gapSent_p s m unitW unitP).lane
    have hfh : getFh (sendGap (modesTaken s m) (2 * m) unitW).2 m = getFh s m := getFh_of_fh_eq (gapSent_w ..).fh m
    rw [getLane_gapSent_w_p, show (2 * m + 1) / 2 = m by omega, show (2 * m + 1) % 2 = 1 by omega, hfh] at hlane
    exact hlane
  oor hb := by
    have hbefore := (gapSent_w s m unitW).oors (2 * m + 1) (by omega)
    have hoor := (gapSent_p s m unitW unitP).oor (by rw [hbefore]; exact hb)
    rw [getLane_gapSent_w_p, hbefore] at hoor
    exact hoor

end

/-! ### Which lanes send (R36, R45, R48) -/

/-- Does a lane start a frame at the next frame start: awake, in traffic mode, with light? -/
def laneDue (s : State) (n : Nat) : Bool := (getLane s n).txState == 0 && (getLane s n).txMode == 0 && laneTxLight s n

theorem laneDue_iff {s : State} {n : Nat} :
    laneDue s n = true ↔ (getLane s n).txState = 0 ∧ (getLane s n).txMode = 0 ∧ laneTxLight s n = true := by
  simp [laneDue, and_assoc]

theorem laneSendsNext_iff {s : State} {m : Fin 32} {l : Nat} : Parts.LaneSendsNext s m l ↔ laneDue s (2 * m.val + l) = true :=
  laneDue_iff.symm

/-- A transmitter that is awake emits light unless its engine has failed, whatever else holds of the lane. -/
theorem laneSends_congr {s t : State} {n : Nat} (hstate : (getLane t n).txState = (getLane s n).txState)
    (hmode : (getLane t n).txModeNow = (getLane s n).txMode) (hfault : t.ln.oeFault = s.ln.oeFault) : laneSends t n = laneDue s n := by
  unfold laneSends laneDue laneTxLight txLit
  rw [hstate, hmode, hfault]
  cases h : (getLane s n).txState == 0
  · rfl
  · rfl

theorem laneSends_of_laneGapSent {m l u : Nat} {s t : State} (h : LaneGapSent m l u s t) (hfault : t.ln.oeFault = s.ln.oeFault) :
    laneSends t (2 * m + l) = laneDue s (2 * m + l) := by
  refine laneSends_congr ?_ ?_ hfault
  · rw [h.lane, gapLane_txState]
    rfl
  · rw [h.lane, gapLane_txModeNow]
    rfl

/-! ### The frame that a lane starts (R41, R54, R59) -/

/-- Lane `n` starts its frame on unit `start` if it sends one. -/
def frameBegun (s : State) (n start : Nat) : State :=
  if laneSends s n then
    setRx (updLane s n fun x => { x with unitStart := start, unitEnd := some (start + 12500) }) n { getRx s n with rei := 0 }
  else s

/-- What a start says of a lane's overhead: none where the lane sends no frame, an alarm indication where that is asked for. -/
def OhFits (sends ais : Bool) (oh : List Byte) : Prop := (sends = false → oh = []) ∧ (sends = true → ais = true → oh = aisOverhead)

section
variable {s : State} {m l start num bip sr1 sr2 : Nat} {gain pkt : List Byte}

theorem laneFrame_snd : (laneFrame s m l start num bip sr1 sr2 gain pkt).2 = frameBegun s (2 * m + l) start := by
  unfold laneFrame frameBegun
  dsimp only
  split <;> rfl

theorem ohFits_laneFrame :
    OhFits (laneSends s (2 * m + l)) (getFh s m).aisNow (laneFrame s m l start num bip sr1 sr2 gain pkt).1 := by
  unfold laneFrame
  dsimp only
  cases hs : laneSends s (2 * m + l) with
  | false => exact ⟨fun _ => rfl, nofun⟩
  | true => exact ⟨nofun, fun _ ha => if_pos ha⟩

end

section
variable (s : State) {n k : Nat} (start : Nat)

theorem getLane_frameBegun_same : getLane (frameBegun s n start) n =
    if laneSends s n then { getLane s n with unitStart := start, unitEnd := some (start + 12500) } else getLane s n := by
  unfold frameBegun
  split
  · exact getLane_setLane_same ..
  · rfl

theorem getLane_frameBegun_ne (h : k ≠ n) : getLane (frameBegun s n start) k = getLane s k := by
  unfold frameBegun
  split
  · exact getLane_setLane_ne _ _ h
  · rfl

theorem rei_frameBegun_same (h : laneSends s n = true) : (getRx (frameBegun s n start) n).rei = 0 := by
  rw [frameBegun, if_pos h, getRx_setRx_same]

theorem getRx_frameBegun_ne (h : k ≠ n) : getRx (frameBegun s n start) k = getRx s k := by
  unfold frameBegun
  split
  · exact getRx_setRx_ne _ _ h
  · rfl

/-- A lane's start of a frame is seen in the lanes alone. -/
theorem frameBegun_rest : { frameBegun s n start with ln := s.ln } = s := by
  unfold frameBegun
  split <;> rfl

theorem frameBegun_fh : (frameBegun s n start).fh = s.fh := (congrArg State.fh (frameBegun_rest s (n := n) start) :)

theorem frameBegun_oeFault : (frameBegun s n start).ln.oeFault = s.ln.oeFault := by
  unfold frameBegun
  split <;> rfl

theorem laneSends_frameBegun_ne (h : k ≠ n) : laneSends (frameBegun s n start) k = laneSends s k := by
  unfold laneSends laneTxLight
  rw [getLane_frameBegun_ne s start h, frameBegun_oeFault]

end

/-! ### Both lanes' frames -/

/-- Both lanes of port `m` start their frames, W on unit `a` and P on unit `b`, where they send one. -/
def framesBegun (v : State) (m a b : Nat) : State := frameBegun (frameBegun v (2 * m) a) (2 * m + 1) b

/-- What the start of the frame of lane `l` of port `m` on unit `start` leaves in `t` once both lanes have started. -/
structure LaneBegun (m l start : Nat) (v t : State) : Prop where
  lane : getLane t (2 * m + l) = if laneSends v (2 * m + l) then
    { getLane v (2 * m + l) with unitStart := start, unitEnd := some (start + 12500) } else getLane v (2 * m + l)
  rei : laneSends v (2 * m + l) = true → (getRx t (2 * m + l)).rei = 0

theorem laneBegun_w (v : State) (m a b : Nat) : LaneBegun m 0 a v (framesBegun v m a b) where
  lane := (getLane_frameBegun_ne _ _ (by omega)).trans (getLane_frameBegun_same ..)
  rei h := by
    rw [framesBegun, getRx_frameBegun_ne _ _ (by omega)]
    exact rei_frameBegun_same _ _ h

theorem laneBegun_p (v : State) (m a b : Nat) : LaneBegun m 1 b v (framesBegun v m a b) where
  lane := by
    rw [framesBegun, getLane_frameBegun_same, laneSends_frameBegun_ne _ _ (by omega), getLane_frameBegun_ne _ _ (by omega)]
  rei h := rei_frameBegun_same _ _ (by rwa [laneSends_frameBegun_ne _ _ (by omega)])

section
variable (v : State) (m a b : Nat)

/-- The frames' start is seen in the lanes alone. -/
theorem framesBegun_rest : { framesBegun v m a b with ln := v.ln } = v := by
  have hw := frameBegun_rest v (n := 2 * m) a
  have hp := frameBegun_rest (frameBegun v (2 * m) a) (n := 2 * m + 1) b
  rw [← hp] at hw
  exact hw

theorem framesBegun_ctr : (framesBegun v m a b).ctr = v.ctr := (congrArg State.ctr (framesBegun_rest v m a b) :)
theorem framesBegun_tu : (framesBegun v m a b).tu = v.tu := (congrArg State.tu (framesBegun_rest v m a b) :)
theorem framesBegun_now : (framesBegun v m a b).now = v.now := (congrArg State.now (framesBegun_rest v m a b) :)
theorem framesBegun_fh : (framesBegun v m a b).fh = v.fh := (congrArg State.fh (framesBegun_rest v m a b) :)

end

theorem laneSends_of_ln_eq {s t : State} (h : t.ln = s.ln) (n : Nat) : laneSends t n = laneSends s n := by
  unfold laneSends laneTxLight
  rw [getLane_of_ln_eq h, h]

/-! ### The packet channel of a frame (R67) -/

/-- Sending a PTP message is seen in the time unit alone. -/
theorem emitPtp_snd (s : State) (o : PktOut) (dest tout : Nat) : ∃ x, (emitPtp s o dest tout).2 = { s with tm := x } := by
  unfold emitPtp
  dsimp only
  cases o.sync <;> cases o.own <;> exact ⟨_, rfl⟩

/-- `t` is `s` but for the time unit and the fronthaul ports, of which port `m` keeps its alarm indication. -/
def ChunkOnly (m : Nat) (s t : State) : Prop := { t with tm := s.tm, fh := s.fh } = s ∧ (getFh t m).aisNow = (getFh s m).aisNow

section
variable {m : Nat} {s t : State} (h : ChunkOnly m s t)
include h

theorem ChunkOnly.ln : t.ln = s.ln := (congrArg State.ln h.1 :)
theorem ChunkOnly.ctr : t.ctr = s.ctr := (congrArg State.ctr h.1 :)
theorem ChunkOnly.tu : t.tu = s.tu := (congrArg State.tu h.1 :)
theorem ChunkOnly.now : t.now = s.now := (congrArg State.now h.1 :)

end

/-- The bytes left of the packet being sent are the port's own. -/
theorem chunkOnly_updFh {m : Nat} {s t : State} (f : FhPort → FhPort) (hf : ∀ p, (f p).aisNow = p.aisNow) (h : ChunkOnly m s t) :
    ChunkOnly m s (updFh t m f) :=
  ⟨h.1, (congrArg FhPort.aisNow (getFh_setFh_same ..)).trans ((hf _).trans h.2)⟩

theorem chunkOnly_emitPtp {m : Nat} {s t : State} (o : PktOut) (dest tout : Nat) (h : ChunkOnly m s t) :
    ChunkOnly m s (emitPtp t o dest tout).2 := by
  obtain ⟨x, hx⟩ := emitPtp_snd t o dest tout
  rw [hx]
  exact h

/-- The packet channel of port `m` is seen in its port and the time unit. -/
theorem chunkOnly_nextChunk (s : State) (m tout : Nat) : ChunkOnly m s (nextChunk s m tout).2 := by
  cases hcur : (getFh s m).pktTxCur.isEmpty with
  | false =>
    have hnext : (nextChunk s m tout).2 = updFh s m fun x => { x with pktTxCur := (getFh s m).pktTxCur.drop 31 } := by
      simp [nextChunk, hcur]
    rw [hnext]
    exact chunkOnly_updFh _ (fun _ => rfl) ⟨rfl, rfl⟩
  | true =>
    cases htx : (getFh s m).pktTx with
    | nil =>
      have hnext : (nextChunk s m tout).2 = s := by simp [nextChunk, hcur, htx]
      rw [hnext]
      exact ⟨rfl, rfl⟩
    | cons o r =>
      have hemit : ChunkOnly m s (emitPtp (setFh s m { getFh s m with pktTx := r }) o m tout).2 :=
        chunkOnly_emitPtp _ _ _ (chunkOnly_updFh (fun x => { x with pktTx := r }) (fun _ => rfl) ⟨rfl, rfl⟩)
      simp only [nextChunk, hcur, htx, if_true]
      split
      · exact hemit
      · exact chunkOnly_updFh _ (fun _ => rfl) hemit

/-! ### The command -/

/-- The instant at which port `m` starts its frame where the clamp moves lane W by `w` units and lane P by `q` (R42, R63). -/
def frameAt (s : State) (m : Nat) (w q : Int) : Nat := ((s.now : Int) + frameMove s m w q * 1280 / 1028).toNat

/-- A port that starts frame `num` at `start` on the counter, with these overheads (R53, R63). -/
def startedPort (num start : Nat) (ohW ohP : List Byte) (p : FhPort) : FhPort :=
  { p with txOn := true, txNum := num, txStart := start, txSlot := 0, txSecs := [], txOhW := ohW, txOhP := ohP }

section
variable {m : Fin 32} {unitW unitP : Nat} {s : State}

theorem exec_frameTxStart_off (h : (getFh s m).en = false) :
    exec (.frameTxStart m unitW unitP) s =
      .next (updFh (gapsSent s m unitW unitP) m fun p => { p with txOn := false, txOhW := [], txOhP := [], aisNow := p.txAis }) := by
  have hoff : (!(getFh s m).en) = true := by simp [h]
  exact if_pos hoff

/-- The chunk that the next frame of port `m`, which is `p`, carries, and the state once it is taken: an alarm indication carries none. -/
def chunkTaken (g : State) (m : Nat) (p : FhPort) (w q : Int) : List Byte × State :=
  let u := setFh g m { p with aisNow := p.txAis }
  if p.txAis then (leBytes 0 32, u) else nextChunk u m (frameAt u m w q)

theorem chunkOnly_chunkTaken (g : State) (m : Nat) (p : FhPort) (w q : Int) :
    ChunkOnly m (setFh g m { p with aisNow := p.txAis }) (chunkTaken g m p w q).2 := by
  unfold chunkTaken
  dsimp only
  split
  · exact ⟨rfl, rfl⟩
  · exact chunkOnly_nextChunk ..

/-- A port that is on, where the gaps leave `g` and the chunk is taken in `v`: both lanes start their frames. -/
theorem exec_frameTxStart_on {g₁ g v : State} {startW startP : Nat} {pkt : List Byte} (h : (getFh s m).en = true)
    (hW : sendGap (modesTaken s m) (2 * m) unitW = (startW, g₁)) (hP : sendGap g₁ (2 * m + 1) unitP = (startP, g))
    (hv : chunkTaken g m (getFh s m) ((startW : Int) - unitW) ((startP : Int) - unitP) = (pkt, v)) :
    ∃ ohW ohP : List Byte,
      OhFits (laneSends v (2 * m)) (getFh v m).aisNow ohW ∧ OhFits (laneSends v (2 * m + 1)) (getFh v m).aisNow ohP ∧
      exec (.frameTxStart m unitW unitP) s = .next (updFh (framesBegun v m startW startP) m
        (startedPort (frameNow g) (frameAt g m ((startW : Int) - unitW) ((startP : Int) - unitP) % 2 ^ 32) ohW ohP)) := by
  have hon : ¬ (!(getFh s m).en) = true := by simp [h]
  simp only [chunkTaken, frameAt] at hv
  change ∃ ohW ohP : List Byte, _ ∧ _ ∧ execFrameTxStart m unitW unitP s = _
  unfold execFrameTxStart
  simp only [modesTaken_eq, getFh_modesTaken, hW, hP, hv, if_neg hon, laneFrame_snd]
  refine ⟨_, _, ohFits_laneFrame (l := 0), ?_, rfl⟩
  rw [← laneSends_frameBegun_ne v startW (by omega : 2 * m.val + 1 ≠ 2 * m.val), ← getFh_of_fh_eq (frameBegun_fh v (n := 2 * m.val) startW)]
  exact ohFits_laneFrame (l := 1)


end

/-! ### What the statement asks of a lane -/

/-- Lane `l` of port `p` after a frame start due on unit `u`; `due` says whether the lane starts a frame. -/
def frameLane (p : FhPort) (l u : Nat) (due : Bool) (x : Lane) : Lane :=
  let y := gapLane p l u (modeTaken x)
  if p.en && due then { y with unitStart := gapStart x u, unitEnd := some (gapStart x u + 12500) } else y

theorem frameLane_of_start {p : FhPort} {due : Bool} (l u : Nat) (x : Lane) (h : (p.en && due) = true) :
    frameLane p l u due x =
      { gapLane p l u (modeTaken x) with unitStart := gapStart x u, unitEnd := some (gapStart x u + 12500) } :=
  if_pos h

theorem frameLane_of_silent {p : FhPort} {due : Bool} (l u : Nat) (x : Lane) (h : (p.en && due) = false) :
    frameLane p l u due x = gapLane p l u (modeTaken x) :=
  if_neg (by simp [h])

/-- The gap's parts of a lane are those of `gapLane`, whether or not the lane starts a frame. -/
theorem frameLane_gap (p : FhPort) (l u : Nat) (due : Bool) (x : Lane) :
    let y := frameLane p l u due x
    let z := gapLane p l u (modeTaken x)
    y.txModeNow = z.txModeNow ∧ y.gapN = z.gapN ∧ y.gapOut = z.gapOut ∧ y.gapReg = z.gapReg ∧ y.txCws = z.txCws ∧ y.txRest = z.txRest := by
  unfold frameLane
  dsimp only
  split
  · exact ⟨rfl, rfl, rfl, rfl, rfl, rfl⟩
  · exact ⟨rfl, rfl, rfl, rfl, rfl, rfl⟩

/-- What a frame start leaves of lane `l` of port `m`, in the words of this development. -/
structure LaneStarted (m l u : Nat) (s t : State) : Prop where
  lane : getLane t (2 * m + l) = frameLane (getFh s m) l u (laneDue s (2 * m + l)) (getLane s (2 * m + l))
  ais : (getFh t m).aisNow = (getFh s m).txAis
  oor : ctrGet t .lnRateOor (2 * m + l) =
    min (Counter.top .lnRateOor) (ctrGet s .lnRateOor (2 * m + l) + b2n (gapClamped (getLane s (2 * m + l)) u))
  rei : ((getFh s m).en && laneDue s (2 * m + l)) = true → (getRx t (2 * m + l)).rei = 0
  oh : OhFits ((getFh s m).en && laneDue s (2 * m + l)) (getFh s m).txAis (if l = 0 then (getFh t m).txOhW else (getFh t m).txOhP)

theorem laneStartsItsFrame_of_laneStarted {m : Fin 32} {l : Fin 2} {u : Nat} {s t : State} (h : LaneStarted m l u s t) :
    Parts.LaneStartsItsFrame m l u s t := by
  obtain ⟨hlane, hais, hoor, hrei, hsilent, halarm⟩ := h
  unfold Parts.LaneStartsItsFrame
  dsimp only
  rw [← laneDue_iff]
  obtain ⟨hmode, hn, hout, hreg, hcws, hrest⟩ := frameLane_gap (getFh s m) l u (laneDue s (2 * m + l)) (getLane s (2 * m.val + l.val))
  rw [← hlane] at hmode hn hout hreg hcws hrest
  have hstart : (getFh s m).en = true → laneDue s (2 * m.val + l.val) = true →
      (getLane t (2 * m.val + l.val)).unitStart = gapStart (getLane s (2 * m.val + l.val)) u ∧
      (getLane t (2 * m.val + l.val)).unitEnd = some ((getLane t (2 * m.val + l.val)).unitStart + 12500) := fun he hd => by
    rw [hlane, frameLane_of_start _ _ _ (by simp [he, hd])]
    exact ⟨rfl, rfl⟩
  refine ⟨hmode.trans (gapLane_txModeNow ..), hais, fun e he => ?_, fun he => ?_, fun hen hd => ?_, fun hno => ?_⟩
  · have hgap := gapLane_of_some (p := getFh s m) (l := l) (u := u) (x := modeTaken (getLane s (2 * m.val + l.val))) he
    rw [hgap] at hn hout hreg hcws hrest
    refine ⟨hn, hout, hreg, ?_, ?_, fun hen hd => ((hstart hen hd).1).trans (gapStart_of_some he)⟩
    · rw [hcws, hrest, hout]
      rfl
    · rw [hoor, gapClamped, gapStart_of_some he]
      rfl
  · rw [gapLane_of_none (p := getFh s m) (l := l) (u := u) (x := modeTaken (getLane s (2 * m.val + l.val))) he] at hn hout hreg
    exact ⟨hn, hout, hreg, fun hen hd => ((hstart hen hd).1).trans (gapStart_of_none he)⟩
  · have hgo : ((getFh s m).en && laneDue s (2 * m.val + l.val)) = true := by simp [hen, hd]
    exact ⟨(hstart hen hd).2, hrei hgo, halarm hgo⟩
  · have hstop : ((getFh s m).en && laneDue s (2 * m.val + l.val)) = false := by
      rw [← Bool.not_eq_true, Bool.and_eq_true]
      exact hno
    refine ⟨?_, ?_⟩
    · rw [hlane, frameLane_of_silent _ _ _ hstop, gapLane_unitEnd]
    · exact hsilent hstop

/-! ### The statement -/

/-- A lane whose gap was sent in `g`, and whose frame was started in `w` from a state `v` with the lanes and counters of `g`. -/
theorem laneStarted_of_begun {m l u : Nat} {s g v w : State} {f : FhPort → FhPort} (hgap : LaneGapSent m l u s g)
    (hfault : g.ln.oeFault = s.ln.oeFault) (hb : CountersBounded s) (hln : v.ln = g.ln) (hctr : w.ctr = g.ctr)
    (hbegun : LaneBegun m l (gapStart (getLane s (2 * m + l)) u) v w) (hen : (getFh s m).en = true)
    (hais : (f (getFh w m)).aisNow = (getFh s m).txAis)
    (hoh : OhFits (laneSends v (2 * m + l)) (getFh s m).txAis (if l = 0 then (f (getFh w m)).txOhW else (f (getFh w m)).txOhP)) :
    LaneStarted m l u s (updFh w m f) := by
  have hsends : laneSends v (2 * m + l) = laneDue s (2 * m + l) :=
    (laneSends_of_ln_eq hln _).trans (laneSends_of_laneGapSent hgap hfault)
  have hport : getFh (updFh w m f) m = f (getFh w m) := getFh_setFh_same ..
  refine ⟨?_, ?_, ?_, fun h => ?_, ?_⟩
  · refine hbegun.lane.trans ?_
    rw [hsends, getLane_of_ln_eq hln, hgap.lane, frameLane, hen, Bool.true_and]
  · rw [hport, hais]
  · refine Eq.trans ?_ (hgap.oor (hb _ _))
    exact congrArg (tget · 0 _) hctr
  · rw [hen, Bool.true_and, ← hsends] at h
    exact hbegun.rei h
  · rw [hport, hen, Bool.true_and, ← hsends]
    exact hoh

/-- A lane whose gap was sent in `g`, on a port that is off. -/
theorem laneStarted_of_off {m l u : Nat} {s g : State} {f : FhPort → FhPort} (hgap : LaneGapSent m l u s g) (hb : CountersBounded s)
    (hoff : (getFh s m).en = false) (hais : (f (getFh g m)).aisNow = (getFh s m).txAis)
    (hoh : (if l = 0 then (f (getFh g m)).txOhW else (f (getFh g m)).txOhP) = []) : LaneStarted m l u s (updFh g m f) := by
  have hport : getFh (updFh g m f) m = f (getFh g m) := getFh_setFh_same ..
  refine ⟨?_, ?_, hgap.oor (hb _ _), fun h => ?_, ?_⟩
  · rw [frameLane_of_silent _ _ _ (by rw [hoff, Bool.false_and])]
    exact hgap.lane
  · rw [hport, hais]
  · rw [hoff, Bool.false_and] at h
    exact absurd h Bool.false_ne_true
  · rw [hport, hoff, Bool.false_and]
    exact ⟨fun _ => hoh, nofun⟩

/-- The instant at which a port starts its frame is that of the lane that starts first, of the lanes that send. -/
theorem frameAt_cases {m unitW unitP : Nat} {s : State} (w q : Int) :
    let g := gapsSent s m unitW unitP
    let W := laneDue s (2 * m) = true
    let Q := laneDue s (2 * m + 1) = true
    let at_ := fun d : Int => ((s.now : Int) + d * 1280 / 1028).toNat
    (W ∧ Q → frameAt g m w q = at_ (min w q)) ∧ (W ∧ ¬ Q → frameAt g m w q = at_ w) ∧ (¬ W ∧ Q → frameAt g m w q = at_ q) ∧
    (¬ W ∧ ¬ Q → frameAt g m w q = s.now) := by
  have hW := laneSends_of_laneGapSent (laneGapSent_w s m unitW unitP) (gapsSent_oeFault ..)
  have hQ := laneSends_of_laneGapSent (laneGapSent_p s m unitW unitP) (gapsSent_oeFault ..)
  rw [Nat.add_zero] at hW
  dsimp only
  rw [frameAt, frameMove, hW, hQ, gapsSent_now]
  refine ⟨fun ⟨h, h'⟩ => ?_, fun ⟨h, h'⟩ => ?_, fun ⟨h, h'⟩ => ?_, fun ⟨h, h'⟩ => ?_⟩
  all_goals simp [h, h']

theorem frameNow_gapsSent (s : State) (m unitW unitP : Nat) : frameNow (gapsSent s m unitW unitP) = frameNow s := by
  rw [frameNow, gapsSent_tu, gapsSent_now]
  rfl

/-- A port that is on starts the next frame. -/
theorem frameTxStart_on {m : Fin 32} {s : State} (unitW unitP : Nat) (hen : (getFh s m).en = true) (hb : CountersBounded s) :
    ∃ (t : State) (ohW ohP : List Byte) (p : FhPort), exec (.frameTxStart m unitW unitP) s = .next t ∧
      LaneStarted m 0 unitW s t ∧ LaneStarted m 1 unitP s t ∧ t.tu = s.tu ∧ t.now = s.now ∧
      getFh t m = startedPort (frameNow s) (frameAt (gapsSent s m unitW unitP) m
        ((gapStart (getLane s (2 * m)) unitW : Int) - unitW) ((gapStart (getLane s (2 * m + 1)) unitP : Int) - unitP) % 2 ^ 32) ohW ohP p := by
  have hgW := laneGapSent_w s m unitW unitP
  have hgP := laneGapSent_p s m unitW unitP
  have hfault := gapsSent_oeFault s m unitW unitP
  have hnum := frameNow_gapsSent s m unitW unitP
  have htu := gapsSent_tu s m unitW unitP
  have hnow := gapsSent_now s m unitW unitP
  have ha := sendGap_fst (modesTaken s m) (2 * m) unitW
  have hb' := sendGap_fst (sendGap (modesTaken s m) (2 * m) unitW).2 (2 * m + 1) unitP
  rw [getLane_modesTaken_w] at ha
  rw [getLane_gapSent_w_p] at hb'
  rcases hW : sendGap (modesTaken s m) (2 * m) unitW with ⟨a, g₁⟩
  rw [hW] at ha hb'
  rcases hP : sendGap g₁ (2 * m + 1) unitP with ⟨b, g⟩
  rw [hP] at hb'
  have hg : gapsSent s m unitW unitP = g := by rw [gapsSent, hW, hP]
  change a = gapStart (getLane s (2 * m.val)) unitW at ha
  change b = gapStart (getLane s (2 * m.val + 1)) unitP at hb'
  rw [hg, ← ha, ← hb']
  rw [hg] at hgW hgP hfault hnum htu hnow
  have hchunk := chunkOnly_chunkTaken g m (getFh s m) ((a : Int) - unitW) ((b : Int) - unitP)
  rcases hv : chunkTaken g m (getFh s m) ((a : Int) - unitW) ((b : Int) - unitP) with ⟨pkt, v⟩
  rw [hv] at hchunk
  obtain ⟨ohW, ohP, hohW, hohP, hexec⟩ := exec_frameTxStart_on hen hW hP hv
  rw [hnum] at hexec
  have hais : (getFh v m).aisNow = (getFh s m).txAis := by rw [hchunk.2, getFh_setFh_same]
  have hport := (congrArg FhPort.aisNow (getFh_of_fh_eq (framesBegun_fh v m a b) m)).trans hais
  have hctr := (framesBegun_ctr v m a b).trans hchunk.ctr
  rw [hais] at hohW hohP
  refine ⟨_, ohW, ohP, _, hexec, ?_, ?_, (framesBegun_tu ..).trans (hchunk.tu.trans htu), (framesBegun_now ..).trans (hchunk.now.trans hnow),
    getFh_setFh_same ..⟩
  · exact laneStarted_of_begun hgW hfault hb hchunk.ln hctr (by rw [Nat.add_zero, ← ha]; exact laneBegun_w ..) hen hport hohW
  · exact laneStarted_of_begun hgP hfault hb hchunk.ln hctr (by rw [← hb']; exact laneBegun_p ..) hen hport hohP

theorem unitStart_of_laneStarted {m l u : Nat} {s t : State} (h : LaneStarted m l u s t) (hen : (getFh s m).en = true)
    (hd : laneDue s (2 * m + l) = true) : (getLane t (2 * m + l)).unitStart = gapStart (getLane s (2 * m + l)) u := by
  rw [h.lane, frameLane_of_start _ _ _ (by rw [hen, hd]; rfl)]

/-- The start of a frame, on a port that is on and on one that is off. -/
theorem frameStartNumbersTheFrame : Parts.FrameStartNumbersTheFrame := by
  intro m unitW unitP s hb
  cases hen : (getFh s m).en with
  | false =>
    have hais : (getFh (gapsSent s m unitW unitP) m).txAis = (getFh s m).txAis := by rw [getFh_of_fh_eq (gapsSent_fh ..)]
    refine ⟨_, exec_frameTxStart_off hen, ?_, ?_, gapsSent_tu .., gapsSent_now .., fun _ => ?_, nofun⟩
    · exact laneStartsItsFrame_of_laneStarted (laneStarted_of_off (laneGapSent_w ..) hb hen hais rfl)
    · exact laneStartsItsFrame_of_laneStarted (laneStarted_of_off (laneGapSent_p ..) hb hen hais rfl)
    · exact congrArg FhPort.txOn (getFh_setFh_same ..)
  | true =>
    obtain ⟨t, ohW, ohP, p, hexec, hW, hP, htu, hnow, hport⟩ := frameTxStart_on unitW unitP hen hb
    obtain ⟨hboth, honlyW, honlyP, hnone⟩ := frameAt_cases (m := m) (unitW := unitW) (unitP := unitP) (s := s)
      ((gapStart (getLane s (2 * m)) unitW : Int) - unitW) ((gapStart (getLane s (2 * m + 1)) unitP : Int) - unitP)
    refine ⟨t, hexec, laneStartsItsFrame_of_laneStarted hW, laneStartsItsFrame_of_laneStarted hP, htu, hnow, nofun, fun _ => ?_⟩
    dsimp only
    rw [hport, laneSendsNext_iff, laneSendsNext_iff]
    refine ⟨rfl, rfl, rfl, rfl, fun h => ?_, fun h => ?_, fun h => ?_, fun h => ?_⟩
    · have hw := unitStart_of_laneStarted hW hen h.1
      have hq := unitStart_of_laneStarted hP hen h.2
      rw [Nat.add_zero] at hw
      rw [hw, hq]
      exact congrArg (· % 2 ^ 32) (hboth h)
    · have hw := unitStart_of_laneStarted hW hen h.1
      rw [Nat.add_zero] at hw
      rw [hw]
      exact congrArg (· % 2 ^ 32) (honlyW h)
    · have hq := unitStart_of_laneStarted hP hen h.2
      rw [hq]
      exact congrArg (· % 2 ^ 32) (honlyP h)
    · exact congrArg (· % 2 ^ 32) (hnone h)

/-- Settles O13: the slots of a frame, and its start. -/
theorem framesAreBuiltAndSent : Obligations.FramesAreBuiltAndSent :=
  ⟨slotsSendSectionsInsideTheirWindows, frameStartNumbersTheFrame⟩

end Sys2Proof.Machine
end

section
/-!
SUPPORT. What memory, the rings, the gain groups and the Nose leave alone: the framer, the lanes, the grid and the time.
-/
namespace Sys2Proof.Machine

/-- The parts that `Beside` speaks of. -/
def BesideOf (A : State) (fh_ : Fh) (ln_ : Lanes) (tu_ : TickUnit) (now_ : Nat) : Prop :=
  fh_ = A.fh ∧ ln_ = A.ln ∧ tu_ = A.tu ∧ now_ = A.now

/-- The framer, the lanes, the grid and the time of `s` are those of `A`. -/
def Beside (A s : State) : Prop := BesideOf A s.fh s.ln s.tu s.now

variable {A : State}

@[simp] theorem beside_mk (now_ stepped_ fresh_ answer_ ctr_ tu_ parts_ dv_ hosts_ mc_ mem_ doms_ cores_ rasps_ benchCache_ dev_ noc_ dma_ su_ jig_ ln_ fh_ gc_ bh_ tm_ flt_ age_ th_ pins_ pending_) :
    Beside A (State.mk now_ stepped_ fresh_ answer_ ctr_ tu_ parts_ dv_ hosts_ mc_ mem_ doms_ cores_ rasps_ benchCache_ dev_ noc_ dma_ su_ jig_ ln_ fh_ gc_ bh_ tm_ flt_ age_ th_ pins_ pending_) = BesideOf A fh_ ln_ tu_ now_ := propext Iff.rfl

@[simp] theorem beside_of (s : State) (h : Beside A s) : BesideOf A s.fh s.ln s.tu s.now := h

@[simp] theorem beside_ite (c : Prop) [Decidable c] (a b : State) :
    Beside A (if c then a else b) ↔ if c then Beside A a else Beside A b := by
  split <;> exact Iff.rfl

theorem beside_refl (s : State) : Beside s s := ⟨rfl, rfl, rfl, rfl⟩

theorem Beside.away {s t : State} (h : Beside A s) (hw : Away s t) : Beside A t :=
  ⟨(away_fh hw).trans h.1, (away_ln hw).trans h.2.1, (away_tu hw).trans h.2.2.1, (away_now hw).trans h.2.2.2⟩

theorem beside_foldl {α : Type} (g : State → α → State) (hg : ∀ s a, Beside A s → Beside A (g s a)) (l : List α) (s : State)
    (h : Beside A s) : Beside A (l.foldl g s) := by
  induction l generalizing s with
  | nil => exact h
  | cons a r ih => exact ih _ (hg s a h)

theorem beside_eq2 {α : Type} {r : α × State} {a : α} {t : State} (e : r = (a, t)) (h : Beside A r.2) : Beside A t := by subst e; exact h
theorem beside_eq22 {α β : Type} {r : α × β × State} {a : α} {b : β} {t : State} (e : r = (a, b, t)) (h : Beside A r.2.2) :
    Beside A t := by subst e; exact h
theorem beside_eq21 {α β : Type} {r : α × State × β} {a : α} {b : β} {t : State} (e : r = (a, t, b)) (h : Beside A r.2.1) :
    Beside A t := by subst e; exact h

/-! ### Setters, counters and events -/

@[simp] theorem beside_bump (s : State) (k : Counter) (b : Nat) (h : Beside A s) : Beside A (bump s k b) := h
@[simp] theorem beside_takeFree (s : State) (w : Nat) (h : Beside A s) : Beside A (takeFree s w).2 := h
@[simp] theorem beside_alertMc (s : State) (x1) (h : Beside A s) : Beside A (alertMc s x1) := h
@[simp] theorem beside_setCh (s : State) (x1 x2) (h : Beside A s) : Beside A (setCh s x1 x2) := h
@[simp] theorem beside_updCh (s : State) (x1 x2) (h : Beside A s) : Beside A (updCh s x1 x2) := h
@[simp] theorem beside_setSr (s : State) (x1 x2) (h : Beside A s) : Beside A (setSr s x1 x2) := h
@[simp] theorem beside_setPage (s : State) (x1 x2 x3) (h : Beside A s) : Beside A (setPage s x1 x2 x3) := h
@[simp] theorem beside_noteUnc (s : State) (x1 x2) (h : Beside A s) : Beside A (noteUnc s x1 x2) := h
@[simp] theorem beside_encodePage (s : State) (x1 x2) (h : Beside A s) : Beside A (encodePage s x1 x2) := h
@[simp] theorem beside_writeBytes (s : State) (x1 x2) (h : Beside A s) : Beside A (writeBytes s x1 x2) := h
@[simp] theorem beside_setRing (s : State) (x1 x2) (h : Beside A s) : Beside A (setRing s x1 x2) := h
@[simp] theorem beside_setGrp (s : State) (x1 x2) (h : Beside A s) : Beside A (setGrp s x1 x2) := h
@[simp] theorem beside_setCtx (s : State) (x1 x2) (h : Beside A s) : Beside A (setCtx s x1 x2) := h
@[simp] theorem beside_enqueueExt (s : State) (x1 x2) (h : Beside A s) : Beside A (enqueueExt s x1 x2).2.1 :=
  h.away (away_enqueueExt s x1 x2 (away_refl s))
@[simp] theorem beside_raisePart (s : State) (x1 x2 x3 x4) (h : Beside A s) : Beside A (raisePart s x1 x2 x3 x4) :=
  h.away (away_raisePart s x1 x2 x3 x4 (away_refl s))
@[simp] theorem beside_raiseOwner (s : State) (x1 x2 x3 x4) (h : Beside A s) : Beside A (raiseOwner s x1 x2 x3 x4) :=
  h.away (away_raiseOwner s x1 x2 x3 x4 (away_refl s))
@[simp] theorem beside_raiseHolders (s : State) (x1 x2 x3 x4) (h : Beside A s) : Beside A (raiseHolders s x1 x2 x3 x4) :=
  h.away (away_raiseHolders s x1 x2 x3 x4 (away_refl s))

/-! ### Memory -/

@[simp] theorem beside_showFlips (s : State) (x1 x2) (h : Beside A s) : Beside A (showFlips s x1 x2) := by
  unfold showFlips
  dsimp only
  split <;> exact h
@[simp] theorem beside_unstage (s : State) (x1 x2) (h : Beside A s) : Beside A (unstage s x1 x2) := by
  simp [unstage, h]
@[simp] theorem beside_stage (s : State) (x1 x2 x3) (h : Beside A s) : Beside A (stage s x1 x2 x3) := by
  unfold stage
  dsimp only
  repeat' split
  all_goals simp (maxDischargeDepth := 40) [h]
@[simp] theorem beside_retirePage (s : State) (x1 x2) (h : Beside A s) : Beside A (retirePage s x1 x2) := by
  unfold retirePage
  dsimp only
  split <;> exact h
@[simp] theorem beside_notePage (s : State) (x1 x2) (h : Beside A s) : Beside A (notePage s x1 x2) := by
  simp (maxDischargeDepth := 40) [notePage, h]
@[simp] theorem beside_pageUnc (s : State) (x1 x2 x3) (h : Beside A s) : Beside A (pageUnc s x1 x2 x3) := by
  simp (maxDischargeDepth := 40) [pageUnc, h]
@[simp] theorem beside_fetchPage (s : State) (x1 x2 x3) (h : Beside A s) : Beside A (fetchPage s x1 x2 x3).2 := by
  unfold fetchPage
  dsimp only
  repeat' split
  all_goals simp (maxDischargeDepth := 40) [h]
@[simp] theorem beside_upsetPage (s : State) (x1 x2 x3 x4) (h : Beside A s) : Beside A (upsetPage s x1 x2 x3 x4) := by
  simp [upsetPage, h]
@[simp] theorem beside_writeWholePage (s : State) (x1 x2 x3) (h : Beside A s) : Beside A (writeWholePage s x1 x2 x3) := by
  simp (maxDischargeDepth := 40) [writeWholePage, h]
@[simp] theorem beside_writePartPage (s : State) (x1 x2 x3 x4) (h : Beside A s) : Beside A (writePartPage s x1 x2 x3 x4).2 := by
  unfold writePartPage
  split <;> rename_i e <;> have hk := beside_eq2 e (beside_fetchPage _ _ _ _ h)
  · exact beside_stage _ _ _ _ hk
  · exact hk
@[simp] theorem beside_repairRow (s : State) (x1 x2) (h : Beside A s) : Beside A (repairRow s x1 x2) := by
  unfold repairRow
  dsimp only
  split <;> exact h
@[simp] theorem beside_correctWord (s : State) (x1) (h : Beside A s) : Beside A (correctWord s x1) := by
  simp (maxDischargeDepth := 40) [correctWord, h]
@[simp] theorem beside_wordUnc (s : State) (x1 x2) (h : Beside A s) : Beside A (wordUnc s x1 x2) := by
  simp (maxDischargeDepth := 40) [wordUnc, h]
@[simp] theorem beside_readWords (s : State) (x1) (h : Beside A s) : Beside A (readWords s x1).2 := by
  induction x1 generalizing s with
  | nil => exact h
  | cons w r ih =>
    unfold readWords
    split
    · exact ih s h
    · split
      · exact ih _ (beside_correctWord s w h)
      · exact beside_wordUnc s w _ h
@[simp] theorem beside_writeSram (s : State) (x1 x2) (h : Beside A s) : Beside A (writeSram s x1 x2).2 := by
  unfold writeSram
  split <;> rename_i e <;> have hk := beside_eq2 e (beside_readWords _ _ h) <;> exact hk
@[simp] theorem beside_noteRefused (s : State) (x1 x2) (h : Beside A s) : Beside A (noteRefused s x1 x2) := by
  unfold noteRefused
  split <;> simp [noteGate, h]
@[simp] theorem beside_readPiece (s : State) (x1 x2 x3) (h : Beside A s) : Beside A (readPiece s x1 x2 x3).2.2 := by
  unfold readPiece
  dsimp only
  split
  · exact beside_noteRefused _ _ _ h
  · split
    · split <;> rename_i e <;> exact beside_eq2 e (beside_fetchPage _ _ _ _ h)
    · split <;> rename_i e <;> exact beside_eq2 e (beside_readWords _ _ h)
@[simp] theorem beside_writePiece (s : State) (x1 x2 x3) (h : Beside A s) : Beside A (writePiece s x1 x2 x3).2 := by
  unfold writePiece
  dsimp only
  repeat' split
  all_goals simp (maxDischargeDepth := 40) [h]
@[simp] theorem beside_readPieces (s : State) (x1 x2) (h : Beside A s) : Beside A (readPieces s x1 x2).2.2 := by
  induction x2 generalizing s with
  | nil => exact h
  | cons e r ih =>
    obtain ⟨a, n⟩ := e
    unfold readPieces
    split <;> rename_i e <;> have hk := beside_eq22 e (beside_readPiece s x1 a n h)
    · exact ih _ hk
    · exact hk
@[simp] theorem beside_writePieces (s : State) (x1 x2 x3) (h : Beside A s) : Beside A (writePieces s x1 x2 x3).2.2 := by
  induction x3 generalizing s x2 with
  | nil => exact h
  | cons e r ih =>
    obtain ⟨a, n⟩ := e
    unfold writePieces
    split <;> rename_i e <;> have hk := beside_eq2 e (beside_writePiece s x1 a (x2.take n) h)
    · exact ih _ _ hk
    · exact hk
@[simp] theorem beside_memRead (s : State) (x1 x2 x3) (h : Beside A s) : Beside A (memRead s x1 x2 x3).2.2 := beside_readPieces _ _ _ h
@[simp] theorem beside_memWrite (s : State) (x1 x2 x3) (h : Beside A s) : Beside A (memWrite s x1 x2 x3).2.2 :=
  beside_writePieces _ _ _ _ h

/-! ### Rings -/

theorem beside_ringCount (s : State) (x1 x2) (h : Beside A s) : Beside A (ringCount s x1 x2) := by
  simp [ringCount, h]
theorem beside_ringEmpty (s : State) (x1 x2) (h : Beside A s) : Beside A (ringEmpty s x1 x2) := by
  have hc := beside_ringCount s x1 .bhRxNobuf h
  unfold ringEmpty
  dsimp only
  repeat' split
  all_goals simp (maxDischargeDepth := 40) [hc]
theorem beside_takeBuffer (s : State) (x1 x2) (h : Beside A s) : Beside A (takeBuffer s x1 x2).2 := by
  unfold takeBuffer
  dsimp only
  split
  · exact h
  · split
    · exact h
    · split <;> rename_i e <;> have hk := beside_eq22 e (beside_memRead _ _ _ _ h) <;> exact hk
theorem beside_deliverFrame (s : State) (x1 x2 x3 x4) (h : Beside A s) : Beside A (deliverFrame s x1 x2 x3 x4) := by
  unfold deliverFrame
  split <;> rename_i e <;> have hb := beside_eq2 e (beside_takeBuffer _ _ _ h)
  · exact beside_ringEmpty _ _ _ hb
  · split
    · exact beside_ringCount _ _ _ hb
    · split
      rename_i e
      have hw := beside_eq22 e (beside_memWrite _ _ _ _ hb)
      split <;> rename_i e <;> have hk := beside_eq21 e (beside_enqueueExt _ _ _ hw) <;> exact hk

/-! ### Gain groups and the Nose -/

theorem beside_gcMeasure (s : State) (x1 x2 x3 x4 x5 x6) (h : Beside A s) : Beside A (gcMeasure s x1 x2 x3 x4 x5 x6) := by
  unfold gcMeasure
  split <;> simp [h]
theorem beside_gainReport (s : State) (x1 x2) (h : Beside A s) : Beside A (gainReport s x1 x2) := by
  unfold gainReport
  dsimp only
  split <;> exact h
theorem beside_loseOcc (s : State) (x1 x2) (h : Beside A s) : Beside A (loseOcc s x1 x2) := by
  simp [loseOcc, h]
theorem beside_nsLoss (s : State) (x1 x2 x3 x4) (h : Beside A s) : Beside A (nsLoss s x1 x2 x3 x4) := by
  unfold nsLoss
  split
  · exact h
  · refine beside_foldl _ (fun s e hs => ?_) _ _ h
    dsimp only
    split
    · exact beside_foldl _ (fun s x hs => beside_foldl _ (fun s o hs => beside_loseOcc s _ _ hs) _ _ hs) _ _ hs
    · exact hs

end Sys2Proof.Machine
end

section
/-!
SUPPORT. What a delivered copy of a frame may change of a port (R64, R67, R68, R82): its filter of SR bytes, its packets and its written records.
-/
namespace Sys2Proof.Machine

/-- A port without what a delivered copy may change of it. -/
def unheard (p : FhPort) : FhPort :=
  { p with remote := none, srLast := 0, srRun := 0, mismatch := false, pktRx := none, pktTx := [], written := [] }

/-- `s` is `A` in the grid, the time and the ports, but for what a delivered copy may change of a port. -/
def Heard (A s : State) : Prop := s.tu = A.tu ∧ s.now = A.now ∧ ∀ k, unheard (getFh s k) = unheard (getFh A k)

variable {A : State}

theorem heard_refl (s : State) : Heard s s := ⟨rfl, rfl, fun _ => rfl⟩

theorem Heard.trans {s t : State} (h : Heard A s) (h' : Heard s t) : Heard A t :=
  ⟨h'.1.trans h.1, h'.2.1.trans h.2.1, fun k => (h'.2.2 k).trans (h.2.2 k)⟩

theorem Heard.symm {s t : State} (h : Heard s t) : Heard t s := ⟨h.1.symm, h.2.1.symm, fun k => (h.2.2 k).symm⟩

theorem Heard.unheard_eq {s t : State} (h : Heard s t) (m : Nat) : unheard (getFh t m) = unheard (getFh s m) := h.2.2 m

theorem Heard.beside {s t : State} (h : Heard A s) (hb : Beside s t) : Heard A t :=
  h.trans ⟨hb.2.2.1, hb.2.2.2, fun k => congrArg unheard (getFh_of_fh_eq hb.1 k)⟩

theorem heard_setFh {s : State} (m : Nat) (p : FhPort) (h : Heard A s) (hp : unheard p = unheard (getFh s m)) :
    Heard A (setFh s m p) := by
  refine h.trans ⟨rfl, rfl, fun k => ?_⟩
  by_cases hk : k = m
  · subst hk; rw [getFh_setFh_same, hp]
  · exact congrArg unheard (tget_tset_ne _ _ _ hk)

theorem heard_updFh {s : State} (m : Nat) (f : FhPort → FhPort) (h : Heard A s) (hf : ∀ p, unheard (f p) = unheard p) :
    Heard A (updFh s m f) := heard_setFh m _ h (hf _)

theorem heard_bump {s : State} (k : Counter) (b : Nat) (h : Heard A s) : Heard A (bump s k b) := h

theorem heard_foldl {α : Type} (g : State → α → State) (hg : ∀ s a, Heard A s → Heard A (g s a)) (l : List α) (s : State)
    (h : Heard A s) : Heard A (l.foldl g s) := by
  induction l generalizing s with
  | nil => exact h
  | cons a r ih => exact ih _ (hg s a h)

/-! ### Protection -/

theorem heard_protEvt {s : State} (m num old new_ req : Nat) (mis : Bool) (h : Heard A s) :
    Heard A (protEvt s m num old new_ req mis) := h.beside (beside_raiseOwner _ _ _ _ _ (beside_refl s))

theorem heard_modeCheck {s : State} (m num : Nat) (h : Heard A s) : Heard A (modeCheck s m num) := by
  unfold modeCheck
  dsimp only
  split
  · split
    · exact h
    · exact heard_protEvt _ _ _ _ _ _ (heard_setFh _ _ h rfl)
  · exact h

theorem heard_srFilter {s : State} (m num sr1 sr2 : Nat) (h : Heard A s) : Heard A (srFilter s m num sr1 sr2) := by
  unfold srFilter
  dsimp only
  split
  · exact h
  · generalize (if (getFh s m).srRun > 0 ∧ (getFh s m).srLast = sr1 + 256 * sr2 then (getFh s m).srRun + 1 else 1) = run
    split
    · exact heard_setFh _ _ h rfl
    · split
      · exact heard_setFh _ _ h rfl
      · exact heard_modeCheck _ _ (heard_setFh _ _ h rfl)

/-! ### Packets -/

theorem heard_sendPtp {s : State} (dest : Nat) (o : PktOut) (h : Heard A s) : Heard A (sendPtp s dest o) := by
  unfold sendPtp
  split
  · exact h
  · split
    · split
      · exact heard_bump _ _ (heard_updFh _ _ h fun _ => rfl)
      · exact h
    · split <;> exact h

theorem heard_forwardPtp {s : State} (bs : List Byte) (from_ dest tin : Nat) (h : Heard A s) :
    Heard A (forwardPtp s bs from_ dest tin) := by
  unfold forwardPtp
  split
  · split <;> exact heard_sendPtp _ _ h
  · exact heard_sendPtp _ _ h
  · split
    · exact heard_sendPtp _ _ h
    · exact h
  · exact heard_sendPtp _ _ h

theorem heard_ptpIn {s : State} (bs : List Byte) (from_ tin : Nat) (h : Heard A s) : Heard A (ptpIn s bs from_ tin) := by
  unfold ptpIn
  dsimp only
  split
  · exact h
  · split
    · split
      · exact heard_forwardPtp _ _ _ _ h
      · exact h
    · refine heard_foldl _ (fun s m hs => heard_forwardPtp _ _ _ _ hs) _ _ ?_
      split <;> exact h

theorem heard_pktDeliver {s : State} (m : Nat) (bs : List Byte) (stamp : Nat) (h : Heard A s) : Heard A (pktDeliver s m bs stamp) := by
  unfold pktDeliver
  dsimp only
  split
  · exact h
  · split
    · exact heard_ptpIn _ _ _ h
    · split
      · split
        · exact h.beside (beside_deliverFrame _ _ _ _ _ (beside_refl s))
        · exact h
      · exact h

/-- The end of a packet's chunk: the packet is delivered, or what has come of it is kept. -/
theorem heard_pktEnd {s : State} (m : Nat) (last : Bool) (bs : List Byte) (t : Nat) (h : Heard A s) :
    Heard A (if last then pktDeliver (updFh s m fun x => { x with pktRx := none }) m bs t
      else updFh s m fun x => { x with pktRx := some (bs, t) }) := by
  split
  · exact heard_pktDeliver _ _ _ (heard_updFh _ _ h fun _ => rfl)
  · exact heard_updFh _ _ h fun _ => rfl

theorem heard_pktChunk {s : State} (m : Nat) (chunk : List Byte) (stamp : Nat) (h : Heard A s) : Heard A (pktChunk s m chunk stamp) := by
  unfold pktChunk
  dsimp only
  split
  · refine heard_pktEnd _ _ _ _ ?_
    split <;> exact h
  · split
    · exact heard_pktEnd _ _ _ _ h
    · split <;> exact h

theorem heard_pktBreak {s : State} (m : Nat) (h : Heard A s) : Heard A (pktBreak s m) := by
  unfold pktBreak
  dsimp only
  split
  · exact heard_bump _ _ (heard_setFh _ _ h rfl)
  · exact h

/-! ### Sections -/

theorem heard_writeRecs {s : State} (m : Nat) (hd : SecHdr) (c : StreamCfg) (sym close : Nat) (l : List (Nat × List Byte)) (h : Heard A s) :
    Heard A (writeRecs s m hd c sym close l) := by
  induction l generalizing s with
  | nil => exact h
  | cons e l ih =>
    obtain ⟨j, r⟩ := e
    unfold writeRecs
    dsimp only
    have hw := h.beside (beside_memWrite s (some ((fhOwner s m).getD 4))
      (c.base + sym % c.ring * c.stride + (hd.prb + j) * recBytes c.v8) r (beside_refl s))
    refine ih ?_
    split
    · exact hw
    · exact heard_updFh _ _ hw fun _ => rfl

theorem heard_takeSection {s : State} (m lead i nOver : Nat) (bs : List Byte) (h : Heard A s) :
    Heard A (takeSection s m lead i nOver bs) := by
  unfold takeSection
  dsimp only
  repeat' split
  all_goals try exact h
  exact ((heard_writeRecs _ _ _ _ _ _ h).beside (beside_gcMeasure _ _ _ _ _ _ _ (beside_refl _))).beside
    (beside_nsLoss _ _ _ _ _ (beside_refl _))

theorem heard_takeSections {s : State} (m lead nOver i : Nat) (l : List (List Byte)) (h : Heard A s) :
    Heard A (takeSections s m lead nOver i l) := by
  induction l generalizing s i with
  | nil => exact h
  | cons b r ih => exact ih _ (heard_takeSection _ _ _ _ _ h)

theorem heard_deliverCopy {s : State} (m : Nat) (c : Copy) (lead nOver : Nat) (h : Heard A s) :
    Heard A (deliverCopy s m c lead nOver) := by
  unfold deliverCopy
  refine heard_takeSections _ _ _ _ _ ?_
  split
  · exact heard_pktChunk _ _ _ ((heard_srFilter _ _ _ _ h).beside (beside_gainReport _ _ _ (beside_refl _)))
  · exact heard_pktBreak _ h

/-! ### Lanes -/

theorem LanesOnly.heard {s t : State} (hl : LanesOnly s t) (h : Heard A s) : Heard A t :=
  h.trans ⟨(congrArg State.tu hl :), (congrArg State.now hl :), fun k => congrArg unheard (getFh_of_fh_eq (congrArg State.fh hl :) k)⟩

theorem heard_sleepSwitched {s : State} (m lane : Nat) (h : Heard A s) : Heard A (sleepSwitched s m lane) := by
  unfold sleepSwitched
  dsimp only
  split
  · exact (((lanesOnly_setLane s _ _).trans (lanesOnly_rxStop _ _)).trans (lanesOnly_linkUpdate _ _)).heard h
  · exact h

theorem heard_setLags {s : State} (m f lead : Nat) (h : Heard A s) : Heard A (setLags s m f lead) := by
  unfold setLags
  refine heard_foldl _ (fun s l hs => ?_) _ _ h
  split <;> exact hs

end Sys2Proof.Machine
end

section
/-!
SUPPORT. The release of a frame (R78, R79, R81, R83, R84): the decision on the copies, the lane of the effective request, and what leaves the buffers.
-/
namespace Sys2Proof.Machine

/-! ### The decision -/

/-- The port of a release of frame `f`: the grounds of the decision are noted (R78, R79), and without a locked lane the remote request is forgotten. -/
def judgedPort (s : State) (m f : Nat) : FhPort :=
  let p := getFh s m
  let w := copyOf p 0 f
  let q := copyOf p 1 f
  let locked := (getRx s (2 * m)).mf || (getRx s (2 * m + 1)).mf
  { p with
    failW := !usable w, failP := !usable q, psf := !usable w && !usable q
    written := p.written.filter fun e => !isLate ((leadStamp p f).getD (nsCounter s)) e.close
    lost := w.isNone && q.isNone && (upFrom 0 2).all fun l => !(getRx s (2 * m + l)).mf
    remote := if locked then p.remote else none, srRun := if locked then p.srRun else 0 }

/-- The state in which a release of frame `f` weighs the requests: commands that no longer stand are gone (R81). -/
def judged (s : State) (m f : Nat) : State := cancelCmds (setFh s m (judgedPort s m f)) m

theorem cancelCmds_cases (s : State) (m : Nat) :
    cancelCmds s m = s ∨ cancelCmds s m = setFh s m { getFh s m with cmd := 0, cmdCxl := true } := by
  unfold cancelCmds
  dsimp only
  split
  · exact .inr rfl
  · split
    · exact .inr rfl
    · exact .inl rfl

/-- Cancelling a command is seen in the two command fields of the port. -/
theorem getFh_cancelCmds (s : State) (m : Nat) :
    ∃ c x, getFh (cancelCmds s m) m = { getFh s m with cmd := c, cmdCxl := x } := by
  obtain h | h := cancelCmds_cases s m
  · exact ⟨(getFh s m).cmd, (getFh s m).cmdCxl, by rw [h]⟩
  · exact ⟨0, true, by rw [h, getFh_setFh_same]⟩

theorem cancelCmds_clock (s : State) (m : Nat) : (cancelCmds s m).tu = s.tu ∧ (cancelCmds s m).now = s.now := by
  obtain h | h := cancelCmds_cases s m <;> rw [h] <;> exact ⟨rfl, rfl⟩

theorem getFh_judged (s : State) (m f : Nat) : ∃ c x, getFh (judged s m f) m = { judgedPort s m f with cmd := c, cmdCxl := x } := by
  obtain ⟨c, x, h⟩ := getFh_cancelCmds (setFh s m (judgedPort s m f)) m
  exact ⟨c, x, by rw [judged, h, getFh_setFh_same]⟩

/-! ### The lane -/

/-- The selector moves to the lane of the effective request, and a change of lane is counted and reported (R83, R84). -/
def laneTaken (u : State) (m f old : Nat) : State :=
  let e := effReq u m
  if e.2 = old then u
  else protEvt (bump (updFh u m fun x => { x with sel := e.2 }) .fhSelSw m) m f old e.2 e.1 false

theorem heard_laneTaken (u : State) (m f : Nat) :
    Heard (updFh u m fun x => { x with sel := (effReq u m).2 }) (laneTaken u m f (getFh u m).sel) := by
  unfold laneTaken
  dsimp only
  split
  · rename_i hsame
    exact (heard_setFh m _ (heard_refl u) (by rw [hsame])).symm
  · exact heard_protEvt _ _ _ _ _ _ (heard_refl _)

/-! ### The buffers -/

/-- A port once frame `f` is released from lane `lane`: `bad` tells whether its copy was an errored one, `lone` whether there was none to use. -/
def releasedPort (f lane : Nat) (bad lone : Bool) (p : FhPort) : FhPort :=
  { p with
    copiesW := p.copiesW.filter fun x => decide (0 < numDist x.num f), copiesP := p.copiesP.filter fun x => decide (0 < numDist x.num f)
    starts := p.starts.filter fun x => decide (0 < numDist x.1 f)
    nextF := some (nextNum f), relNum := some f, relLane := lane, relErr := bad
    cur := { p.cur with errs := p.cur.errs + b2n bad, raw := p.cur.raw || lone, setd := p.cur.setd || lone } }

/-- What the release does with the copy `c` of lane `lane`: a usable one is delivered, and a sleep that waited for the switch follows. -/
def copyHandled (r : State) (m lane lead nOver : Nat) (c : Option Copy) : State :=
  match c with
  | some x => if x.failed then (if x.good then r else pktBreak r m) else sleepSwitched (deliverCopy r m x lead nOver) m lane
  | none => pktBreak r m

/-- The release ends with the copy handled: the model's last step, case by case. -/
theorem next_copyHandled (r : State) (m lane lead nOver : Nat) (c : Option Copy) :
    (match c with
    | some x =>
      if x.failed then (.next (if x.good then r else pktBreak r m) : Res) else .next (sleepSwitched (deliverCopy r m x lead nOver) m lane)
    | none => .next (pktBreak r m)) = .next (copyHandled r m lane lead nOver c) := by
  cases c with
  | none => rfl
  | some x => exact (apply_ite Host.Outcome.next ..).symm

theorem heard_copyHandled (r : State) (m lane lead nOver : Nat) (c : Option Copy) : Heard r (copyHandled r m lane lead nOver c) := by
  unfold copyHandled
  split
  · split
    · split
      · exact heard_refl r
      · exact heard_pktBreak m (heard_refl r)
    · exact heard_sleepSwitched m lane (heard_deliverCopy m _ lead nOver (heard_refl r))
  · exact heard_pktBreak m (heard_refl r)

/-- The state of port `m` with frame `f` released, before its copy is handled. -/
def released (s : State) (m f : Nat) (bad lone : Bool) : State :=
  let u := judged s m f
  let p := getFh s m
  updFh (setLags (laneTaken u m f p.sel) m f ((leadStamp p f).getD 0)) m (releasedPort f (effReq u m).2 bad lone)

theorem exec_fhFrameRelease (m : Fin 32) (nOver : Fin 4) (s : State) :
    let p := getFh s m
    let f := frameDue s m
    p.en = true → laneReady s m 0 f (leadStamp p f) = true → laneReady s m 1 f (leadStamp p f) = true →
    ∃ bad lone c, exec (.fhFrameRelease m nOver) s =
      .next (copyHandled (released s m f bad lone) m (effReq (judged s m f) m).2 ((leadStamp p f).getD 0) nOver c) := by
  intro p f hen h0 h1
  have hgo : ¬ ((!p.en || !laneReady s m 0 f (leadStamp p f) || !laneReady s m 1 f (leadStamp p f)) = true) := by simp [hen, h0, h1]
  let w := copyOf p 0 f
  let q := copyOf p 1 f
  let c := if (effReq (judged s m f) m).2 = 0 then w else q
  refine ⟨!usable c || (c.map fun x => x.errored).getD true, !usable w && !usable q, c, (if_neg hgo).trans ?_⟩
  rw [← next_copyHandled]
  rfl

/-! ### The port after a release -/

theorem unheard_releasedPort (f lane : Nat) (bad lone : Bool) (p : FhPort) :
    unheard (releasedPort f lane bad lone p) = releasedPort f lane bad lone (unheard p) := rfl

theorem sel_judged (s : State) (m f : Nat) : (getFh (judged s m f) m).sel = (getFh s m).sel := by
  obtain ⟨c, x, h⟩ := getFh_judged s m f
  rw [h]
  rfl

/-- The lane is taken, and the lags noted, before the frame leaves the buffers. -/
theorem heard_lagged (s : State) (m f lead : Nat) :
    let u := judged s m f
    Heard (updFh u m fun x => { x with sel := (effReq u m).2 }) (setLags (laneTaken u m f (getFh s m).sel) m f lead) :=
  heard_setLags m f lead (sel_judged s m f ▸ heard_laneTaken _ m f)

/-- But for what the copy delivers, a release leaves the port as judged, with its lane that of the effective request and the frame gone. -/
theorem unheard_released (s : State) (m f : Nat) (bad lone : Bool) :
    ∃ c x, unheard (getFh (released s m f bad lone) m) = unheard (releasedPort f (effReq (judged s m f) m).2 bad lone
      { judgedPort s m f with cmd := c, cmdCxl := x, sel := (effReq (judged s m f) m).2 }) := by
  obtain ⟨c, x, hu⟩ := getFh_judged s m f
  refine ⟨c, x, ?_⟩
  have hlag := (heard_lagged s m f ((leadStamp (getFh s m) f).getD 0)).unheard_eq m
  rw [updFh, getFh_setFh_same, hu] at hlag
  rw [released, updFh, getFh_setFh_same, unheard_releasedPort, hlag, ← unheard_releasedPort]

theorem updFh_clock (s : State) (m : Nat) (g : FhPort → FhPort) : (updFh s m g).tu = s.tu ∧ (updFh s m g).now = s.now := ⟨rfl, rfl⟩

theorem judged_clock (s : State) (m f : Nat) : (judged s m f).tu = s.tu ∧ (judged s m f).now = s.now := cancelCmds_clock _ m

theorem released_clock (s : State) (m f : Nat) (bad lone : Bool) :
    (released s m f bad lone).tu = s.tu ∧ (released s m f bad lone).now = s.now := by
  obtain ⟨htu, hnow, -⟩ := heard_lagged s m f ((leadStamp (getFh s m) f).getD 0)
  rw [(updFh_clock ..).1, (judged_clock ..).1] at htu
  rw [(updFh_clock ..).2, (judged_clock ..).2] at hnow
  rw [released, (updFh_clock ..).1, (updFh_clock ..).2]
  exact ⟨htu, hnow⟩

/-- What a released port keeps in its buffers and notes lies past the frame released. -/
theorem ahead_of_unheard_eq {f lane : Nat} {bad lone : Bool} {p q : FhPort} (h : unheard p = unheard (releasedPort f lane bad lone q)) :
    (∀ c ∈ p.copiesW ++ p.copiesP, 0 < numDist c.num f) ∧ ∀ e ∈ p.starts, 0 < numDist e.1 f := by
  have hW : p.copiesW = q.copiesW.filter fun c => decide (0 < numDist c.num f) := congrArg FhPort.copiesW h
  have hP : p.copiesP = q.copiesP.filter fun c => decide (0 < numDist c.num f) := congrArg FhPort.copiesP h
  have hS : p.starts = q.starts.filter fun e => decide (0 < numDist e.1 f) := congrArg FhPort.starts h
  rw [hW, hP, hS]
  simp only [List.mem_append, List.mem_filter, decide_eq_true_eq]
  exact ⟨fun _ hc => hc.elim And.right And.right, fun _ he => he.2⟩

theorem releaseFollowsTheEffectiveRequest : Parts.ReleaseFollowsTheEffectiveRequest := by
  intro m nOver s p f w q lead locked u hen h0 h1
  obtain ⟨bad, lone, c, hex⟩ := exec_fhFrameRelease m nOver s hen h0 h1
  have hcopy := heard_copyHandled (released s m f bad lone) m (effReq (judged s m f) m).2 (lead.getD 0) nOver c
  obtain ⟨cmd, cxl, hport⟩ := unheard_released s m f bad lone
  obtain ⟨htu, hnow⟩ := released_clock s m f bad lone
  replace hport := (hcopy.unheard_eq m).trans hport
  obtain ⟨hcopies, hstarts⟩ := ahead_of_unheard_eq hport
  exact ⟨_, hex, congrArg FhPort.sel hport, congrArg FhPort.nextF hport, congrArg FhPort.relNum hport, congrArg FhPort.failW hport,
    congrArg FhPort.failP hport, congrArg FhPort.psf hport, hcopies, hstarts, hcopy.1.trans htu, hcopy.2.1.trans hnow⟩

end Sys2Proof.Machine
end

section
/-!
SUPPORT. A frame period's evaluation of a lane (R74, R75, R77): what it leaves alone, and what it leaves in the lane's receiver.
-/
namespace Sys2Proof.Machine

theorem getRx_of_ln_eq {s t : State} (h : t.ln = s.ln) (n : Nat) : getRx t n = getRx s n := by
  unfold getRx
  rw [h]

/-- `t` is `s` in all that an evaluation of lane `n` leaves alone: the other receivers, the lanes, the framer, the clock and memory. -/
structure EvalOnly (n : Nat) (s t : State) : Prop where
  rx : ∀ k, k ≠ n → getRx t k = getRx s k
  lane : ∀ k, getLane t k = getLane s k
  fh : t.fh = s.fh
  tu : t.tu = s.tu
  now : t.now = s.now
  mem : t.mem = s.mem

section
variable {n : Nat} {s t u : State}

theorem EvalOnly.trans (h : EvalOnly n s t) (h' : EvalOnly n t u) : EvalOnly n s u where
  rx k hk := (h'.rx k hk).trans (h.rx k hk)
  lane k := (h'.lane k).trans (h.lane k)
  fh := h'.fh.trans h.fh
  tu := h'.tu.trans h.tu
  now := h'.now.trans h.now
  mem := h'.mem.trans h.mem

theorem evalOnly_setRx (s : State) (n : Nat) (r : LnRx) : EvalOnly n s (setRx s n r) where
  rx _ hk := getRx_setRx_ne s r hk
  lane _ := rfl
  fh := rfl
  tu := rfl
  now := rfl
  mem := rfl

theorem evalOnly_away (n : Nat) (h : Away s t) : EvalOnly n s t where
  rx k _ := getRx_of_ln_eq (away_ln h) k
  lane k := getLane_of_ln_eq (away_ln h) k
  fh := away_fh h
  tu := away_tu h
  now := away_now h
  mem := away_mem h

end

/-! ### Integration (R75) -/

/-- `t` is `s` in all that integrating a defect of lane `n` leaves alone, the period's error count among it. -/
def IntegrateOnly (n : Nat) (s t : State) : Prop :=
  EvalOnly n s t ∧ (getRx t n).errCnt = (getRx s n).errCnt ∧ (getRx t n).got = (getRx s n).got

/-- The receiver takes its new integrators and defects, and a defect that comes or goes is reported. -/
theorem integrate_cases (s : State) (m n : Nat) (raw : Bool) (i : Nat) :
    ∃ r, Away (setRx s n r) (integrate s m n raw i) ∧ r.errCnt = (getRx s n).errCnt ∧ r.got = (getRx s n).got := by
  unfold integrate
  dsimp only
  generalize (if raw then lget (getRx s n).setRun 0 i + 1 else 0) = up
  generalize (if raw then 0 else lget (getRx s n).clrRun 0 i + 1) = down
  split
  · exact ⟨_, away_raiseOwner _ _ _ _ _ (away_refl _), rfl, rfl⟩
  · split
    · exact ⟨_, away_raiseOwner _ _ _ _ _ (away_refl _), rfl, rfl⟩
    · exact ⟨_, away_refl _, rfl, rfl⟩

theorem integrateOnly_integrate (s : State) (m n : Nat) (raw : Bool) (i : Nat) : IntegrateOnly n s (integrate s m n raw i) := by
  obtain ⟨r, haway, herr, hgot⟩ := integrate_cases s m n raw i
  have hr : getRx (integrate s m n raw i) n = r := (getRx_of_ln_eq (away_ln haway) n).trans (getRx_setRx_same s n r)
  rw [IntegrateOnly, hr]
  exact ⟨(evalOnly_setRx s n r).trans (evalOnly_away n haway), herr, hgot⟩

theorem integrateOnly_foldl (m n : Nat) (raws : List Bool) (l : List Nat) (s : State) :
    IntegrateOnly n s (l.foldl (fun s i => integrate s m n (lget raws false i) i) s) := by
  induction l generalizing s with
  | nil => exact ⟨evalOnly_away n (away_refl s), rfl, rfl⟩
  | cons i l ih =>
    obtain ⟨hone, herr, hgot⟩ := integrateOnly_integrate s m n (lget raws false i) i
    obtain ⟨hrest, herr', hgot'⟩ := ih (integrate s m n (lget raws false i) i)
    exact ⟨hone.trans hrest, herr'.trans herr, hgot'.trans hgot⟩

/-! ### The lane -/

/-- A receiver whose period is over: its error count is taken. -/
def PeriodTaken (r : LnRx) : Prop := r.errCnt = 0 ∧ r.got = false

/-- A receiver whose seven defects and integrators are clear. -/
def DefectsClear (r : LnRx) : Prop := r.defs = 0 ∧ r.setRun = [0, 0, 0, 0, 0, 0, 0] ∧ r.clrRun = [0, 0, 0, 0, 0, 0, 0]

/-- Lane `n` with the receiver `r` of the period: its conditions `raws` are integrated, or cleared where the receiver is not awake (R74, R75). -/
def evaluated (s : State) (m n : Nat) (r : LnRx) (raws : List Bool) : State :=
  if (getLane s n).rxState != 0 then
    setRx (setRx s n r) n { r with setRun := [0, 0, 0, 0, 0, 0, 0], clrRun := [0, 0, 0, 0, 0, 0, 0], defs := 0 }
  else (upFrom 0 7).foldl (fun s i => integrate s m n (lget raws false i) i) (setRx s n r)

/-- An evaluation ends with the seconds of the lane brought up to date (R77). -/
theorem evalLane_eq (s : State) (m n : Nat) :
    ∃ r raws cur secs, PeriodTaken r ∧
      evalLane s m n = updRx (evaluated s m n r raws) n fun x => { x with cur := cur, secs := secs } :=
  ⟨_, _, _, _, ⟨rfl, rfl⟩, rfl⟩

theorem evaluated_spec (s : State) (m n : Nat) {r : LnRx} (raws : List Bool) (hr : PeriodTaken r) :
    EvalOnly n s (evaluated s m n r raws) ∧ PeriodTaken (getRx (evaluated s m n r raws) n) ∧
      ((getLane s n).rxState ≠ 0 → DefectsClear (getRx (evaluated s m n r raws) n)) := by
  unfold evaluated
  split
  · rw [getRx_setRx_same]
    exact ⟨(evalOnly_setRx s n r).trans (evalOnly_setRx _ n _), hr, fun _ => ⟨rfl, rfl, rfl⟩⟩
  · rename_i hawake
    obtain ⟨honly, herr, hgot⟩ := integrateOnly_foldl m n raws (upFrom 0 7) (setRx s n r)
    rw [getRx_setRx_same] at herr hgot
    exact ⟨(evalOnly_setRx s n r).trans honly, ⟨herr.trans hr.1, hgot.trans hr.2⟩, fun h => absurd (bne_iff_ne.mpr h) hawake⟩

theorem evalLane_spec (s : State) (m n : Nat) :
    EvalOnly n s (evalLane s m n) ∧ PeriodTaken (getRx (evalLane s m n) n) ∧
      ((getLane s n).rxState ≠ 0 → DefectsClear (getRx (evalLane s m n) n)) := by
  obtain ⟨r, raws, cur, secs, hr, heq⟩ := evalLane_eq s m n
  obtain ⟨honly, hperiod, hclear⟩ := evaluated_spec s m n raws hr
  rw [heq, updRx, getRx_setRx_same]
  exact ⟨honly.trans (evalOnly_setRx _ n _), hperiod, hclear⟩

/-! ### The port -/

/-- An evaluation ends with the seconds of the port brought up to date (R77). -/
theorem exec_defectEval (m : Fin 32) (s : State) :
    ∃ cur secs, exec (.defectEval m) s = .next (updFh (evalLane (evalLane s m (2 * m)) m (2 * m + 1)) m fun p =>
      { p with cur := cur, secs := secs }) := ⟨_, _, rfl⟩

theorem defectEval_takesThePeriod (m : Fin 32) (s : State) : Runs (.defectEval m) s fun t =>
    (∀ l : Nat, l < 2 → (getRx t (2 * m.val + l)).errCnt = 0 ∧ (getRx t (2 * m.val + l)).got = false) ∧
    (∀ l : Nat, l < 2 → (getLane s (2 * m.val + l)).rxState ≠ 0 → (getRx t (2 * m.val + l)).defs = 0 ∧
      (getRx t (2 * m.val + l)).setRun = [0, 0, 0, 0, 0, 0, 0] ∧ (getRx t (2 * m.val + l)).clrRun = [0, 0, 0, 0, 0, 0, 0]) ∧
    (getFh t m).sel = (getFh s m).sel ∧ t.tu = s.tu ∧ t.now = s.now ∧ t.mem = s.mem := by
  obtain ⟨cur, secs, hex⟩ := exec_defectEval m s
  obtain ⟨hW, hperiodW, hclearW⟩ := evalLane_spec s m (2 * m)
  obtain ⟨hP, hperiodP, hclearP⟩ := evalLane_spec (evalLane s m (2 * m)) m (2 * m + 1)
  rw [← hP.rx _ (by omega)] at hperiodW hclearW
  rw [hW.lane] at hclearP
  generalize evalLane (evalLane s m (2 * m)) m (2 * m + 1) = v at *
  generalize evalLane s m (2 * m) = u at *
  have hlane : ∀ l : Nat, l < 2 → l = 0 ∨ l = 1 := by omega
  refine ⟨_, hex, fun l hl => ?_, fun l hl => ?_, ?_, hP.tu.trans hW.tu, hP.now.trans hW.now, hP.mem.trans hW.mem⟩
  · obtain rfl | rfl := hlane l hl
    · exact hperiodW
    · exact hperiodP
  · obtain rfl | rfl := hlane l hl
    · exact hclearW
    · exact hclearP
  · rw [updFh, getFh_setFh_same]
    exact (congrArg FhPort.sel ((getFh_of_fh_eq hP.fh m).trans (getFh_of_fh_eq hW.fh m)) :)

end Sys2Proof.Machine
end

section
/-!
SUPPORT. The commit of a performance second (R77), and the statement on releases and defects.
-/
namespace Sys2Proof.Machine

/-- Of available time of at most nine seconds, the oldest second that ended ten seconds ago is committed as it was. -/
theorem commitSec_available {now : Nat} {r : PerfSec} {rest : List PerfSec} (hend : (r.sec + 11) * 1000000000 ≤ now)
    (hlen : rest.length < 9) : commitSec now (r :: rest) false = (rest, false, b2n (isEs r), b2n (isSes r), 0) := by
  have hnow : ¬ now < (r.sec + 11) * 1000000000 := by omega
  have hshort : (((r :: rest).take 10).length == 10) = false := by
    rw [beq_eq_false_iff_ne, List.length_take, List.length_cons]
    omega
  refine (if_neg hnow).trans ?_
  simp only [hshort, Bool.false_and, Bool.false_eq_true, if_false]

/-- Lane `n` with its oldest second committed. -/
def laneCommitted (s : State) (n : Nat) : State :=
  let c := commitSec s.now (getRx s n).secs (getRx s n).unavail
  bumpBy (bumpBy (bumpBy (updRx s n fun r => { r with secs := c.1, unavail := c.2.1 }) .fhLnEs n c.2.2.1) .fhLnSes n c.2.2.2.1)
    .fhLnUas n c.2.2.2.2

/-- Port `m` with its oldest second committed. -/
def portCommitted (s : State) (m : Nat) : State :=
  let c := commitSec s.now (getFh s m).secs (getFh s m).unavail
  bumpBy (bumpBy (bumpBy (updFh s m fun p => { p with secs := c.1, unavail := c.2.1 }) .fhPes m c.2.2.1) .fhPses m c.2.2.2.1)
    .fhPuas m c.2.2.2.2

theorem exec_perfSecondCommit (m : Fin 32) (s : State) :
    exec (.perfSecondCommit m) s = .next (portCommitted (laneCommitted (laneCommitted s (2 * m)) (2 * m + 1)) m) := rfl

/-- `t` is `s` but for the lanes, the framer and the counters. -/
def CommitOnly (s t : State) : Prop := { t with ln := s.ln, fh := s.fh, ctr := s.ctr } = s

theorem CommitOnly.trans {s t u : State} (h : CommitOnly s t) (h' : CommitOnly t u) : CommitOnly s u := by
  unfold CommitOnly at h' h ⊢
  rw [← h'] at h
  exact h

theorem commitOnly_laneCommitted (s : State) (n : Nat) : CommitOnly s (laneCommitted s n) := by
  unfold laneCommitted
  generalize commitSec _ _ _ = c
  rfl

theorem commitOnly_portCommitted (s : State) (m : Nat) : CommitOnly s (portCommitted s m) := by
  unfold portCommitted
  generalize commitSec _ _ _ = c
  rfl

theorem getFh_laneCommitted (s : State) (n m : Nat) : getFh (laneCommitted s n) m = getFh s m := rfl
theorem laneCommitted_now (s : State) (n : Nat) : (laneCommitted s n).now = s.now := rfl

/-- A lane's commit counts on the lane's three counters alone. -/
theorem ctrGet_laneCommitted (s : State) (n : Nat) {k : Counter} (b : Nat) (hes : k.ctorIdx ≠ Counter.fhLnEs.ctorIdx)
    (hses : k.ctorIdx ≠ Counter.fhLnSes.ctorIdx) (huas : k.ctorIdx ≠ Counter.fhLnUas.ctorIdx) :
    ctrGet (laneCommitted s n) k b = ctrGet s k b := by
  unfold laneCommitted
  rw [ctrGet_bumpBy_of_kind_ne _ _ _ _ huas, ctrGet_bumpBy_of_kind_ne _ _ _ _ hses, ctrGet_bumpBy_of_kind_ne _ _ _ _ hes]
  rfl

theorem ctrGet_bumpBy_same (s : State) (c : Counter) (b v : Nat) :
    ctrGet (bumpBy s c b v) c b = min (Counter.top c) (ctrGet s c b + v) := ctrGet_ctrSet_same ..

theorem getFh_bumpBy (s : State) (c : Counter) (b v m : Nat) : getFh (bumpBy s c b v) m = getFh s m := rfl

/-- A port's commit of `rest`, `un` and the counts `es`, `ses` and `uas`. -/
theorem portCommitted_spec {s : State} {m : Nat} {rest : List PerfSec} {un : Bool} {es ses uas : Nat}
    (h : commitSec s.now (getFh s m).secs (getFh s m).unavail = (rest, un, es, ses, uas)) :
    (getFh (portCommitted s m) m).secs = rest ∧ (getFh (portCommitted s m) m).unavail = un ∧
      ctrGet (portCommitted s m) .fhPes m = min (Counter.top .fhPes) (ctrGet s .fhPes m + es) ∧
      ctrGet (portCommitted s m) .fhPses m = min (Counter.top .fhPses) (ctrGet s .fhPses m + ses) := by
  unfold portCommitted
  rw [h]
  simp only [getFh_bumpBy, updFh, getFh_setFh_same]
  refine ⟨trivial, trivial, ?_, ?_⟩
  · rw [ctrGet_bumpBy_of_kind_ne _ _ _ _ (by decide), ctrGet_bumpBy_of_kind_ne _ _ _ _ (by decide), ctrGet_bumpBy_same]
    rfl
  · rw [ctrGet_bumpBy_of_kind_ne _ _ _ _ (by decide), ctrGet_bumpBy_same, ctrGet_bumpBy_of_kind_ne _ _ _ _ (by decide)]
    rfl

theorem perfSecondCommit_countsTheSecond (m : Fin 32) (s : State) (r : PerfSec) (rest : List PerfSec)
    (hsecs : (getFh s m).secs = r :: rest) (hend : (r.sec + 11) * 1000000000 ≤ s.now) (hav : (getFh s m).unavail = false)
    (hlen : rest.length < 9) : Runs (.perfSecondCommit m) s fun t =>
      (getFh t m).secs = rest ∧ (getFh t m).unavail = false ∧
      ctrGet t .fhPes m = min (2 ^ 32 - 1) (ctrGet s .fhPes m + b2n (r.errs != 0 || r.raw)) ∧
      ctrGet t .fhPses m = min (2 ^ 32 - 1) (ctrGet s .fhPses m + b2n (decide (19200 ≤ r.errs) || r.setd)) ∧
      { t with ln := s.ln, fh := s.fh, ctr := s.ctr } = s := by
  refine ⟨_, exec_perfSecondCommit m s, ?_⟩
  let u := laneCommitted (laneCommitted s (2 * m)) (2 * m + 1)
  have hkept : ∀ k : Counter, k.ctorIdx ≠ Counter.fhLnEs.ctorIdx → k.ctorIdx ≠ Counter.fhLnSes.ctorIdx →
      k.ctorIdx ≠ Counter.fhLnUas.ctorIdx → ctrGet u k m = ctrGet s k m := fun k hes hses huas =>
    (ctrGet_laneCommitted _ _ _ hes hses huas).trans (ctrGet_laneCommitted _ _ _ hes hses huas)
  have hcommit : commitSec u.now (getFh u m).secs (getFh u m).unavail = (rest, false, b2n (isEs r), b2n (isSes r), 0) := by
    rw [getFh_laneCommitted, getFh_laneCommitted, laneCommitted_now, laneCommitted_now, hsecs, hav]
    exact commitSec_available hend hlen
  obtain ⟨hsec, hun, hes, hses⟩ := portCommitted_spec hcommit
  rw [hkept _ (by decide) (by decide) (by decide)] at hes hses
  exact ⟨hsec, hun, hes, hses,
    ((commitOnly_laneCommitted s _).trans (commitOnly_laneCommitted _ _)).trans (commitOnly_portCommitted u m)⟩

/-- A frame period's evaluation, and a second's commit. -/
theorem defectsAndPerformanceSeconds : Parts.DefectsAndPerformanceSeconds :=
  ⟨defectEval_takesThePeriod, perfSecondCommit_countsTheSecond⟩

/-- Settles O16: a release by the state it leaves before its copy is handled and by what the copy may change of a port, an evaluation lane by
lane, a commit through `commitSec`. -/
theorem releaseAndDefects : Obligations.ReleaseAndDefects :=
  ⟨releaseFollowsTheEffectiveRequest, defectsAndPerformanceSeconds⟩

end Sys2Proof.Machine
end

section
/-!
SUPPORT. The gain groups and the Nose's contexts (04_gain_and_nose): what reading each gives after a write, what issuing a command changes,
and the statement on a tick's measurement.
-/
namespace Sys2Proof.Machine

/-! ### Groups and contexts -/

@[simp] theorem getGrp_setGrp_same (s : State) (g : Nat) (x : GcGrp) : getGrp (setGrp s g x) g = x := tget_tset_same _ _ _ _
theorem getGrp_setGrp_ne (s : State) {g h : Nat} (x : GcGrp) (hne : h ≠ g) : getGrp (setGrp s g x) h = getGrp s h :=
  tget_tset_ne _ _ _ hne
@[simp] theorem setGrp_setGrp_same (s : State) (g : Nat) (x y : GcGrp) : setGrp (setGrp s g x) g y = setGrp s g y := by simp [setGrp]
@[simp] theorem getGrp_setCtx (s : State) (c g : Nat) (x : NsCtx) : getGrp (setCtx s c x) g = getGrp s g := rfl
@[simp] theorem getGrp_done (s : State) (g : Nat) : getGrp (done s) g = getGrp s g := rfl
@[simp] theorem getGrp_bump (s : State) (k : Counter) (b g : Nat) : getGrp (bump s k b) g = getGrp s g := rfl

/-- What leaves the gain controller alone leaves every group as it was. -/
theorem getGrp_of_away {s t : State} (h : Away s t) (g : Nat) : getGrp t g = getGrp s g := congrArg (fun x : Gc => tget x.grps {} g) (away_gc h)

/-! ### Issuing a command (R92, R93) -/

/-- A range takes the next SEQ of its port. -/
def takeGcSeq (a : State × Tab Nat) (r : Nat × GcMemb) : State × Tab Nat :=
  let q := ((getFh a.1 r.2.port).gcSeq + 1) % 64
  (updFh a.1 r.2.port fun y => { y with gcSeq := q }, tset a.2 r.1 q)

/-- Taking SEQ numbers changes the framer alone. -/
theorem foldl_takeGcSeq_fh (l : List (Nat × GcMemb)) (a : State × Tab Nat) : ∃ fh, (l.foldl takeGcSeq a).1 = { a.1 with fh := fh } := by
  induction l generalizing a with
  | nil => exact ⟨a.1.fh, rfl⟩
  | cons r l ih =>
    obtain ⟨fh, h⟩ := ih (takeGcSeq a r)
    exact ⟨fh, h⟩

/-- The command that a group issues, once its ranges have taken their SEQ numbers. -/
def issuedCmd (s : State) (x : GcGrp) (att kAt : Nat) (restore : Bool) : GcCmd :=
  let a := x.memb.foldl takeGcSeq (s, [])
  { old := x.att, att := att, k := tickNo a.1 kAt, kAt := kAt, seqs := a.2, acks := [], eff := false, restore := restore }

theorem issueCmd_eq (s : State) (g att kAt : Nat) (restore : Bool) :
    issueCmd s g att kAt restore = updGrp ((getGrp s g).memb.foldl takeGcSeq (s, [])).1 g fun y =>
      { y with
        cmds := y.cmds ++ [issuedCmd s (getGrp s g) att kAt restore], lastAtt := att
        seq := ((((getGrp s g).memb.foldl takeGcSeq (s, [])).2).head?.map fun e => e.2).getD y.seq } := rfl

/-- Besides SEQ numbers, an issue appends its command to the group's. -/
theorem issueCmd_appends (s : State) (g att kAt : Nat) (restore : Bool) : ∃ fh seq, issueCmd s g att kAt restore =
    setGrp { s with fh := fh } g { getGrp s g with
      cmds := (getGrp s g).cmds ++ [issuedCmd s (getGrp s g) att kAt restore], lastAtt := att, seq := seq } := by
  obtain ⟨fh, h⟩ := foldl_takeGcSeq_fh (getGrp s g).memb (s, [])
  rw [issueCmd_eq, h]
  exact ⟨fh, _, rfl⟩

/-! ### A tick's measurement (R88 to R90, R97) -/

/-- A group whose filters and level have moved with the measurement of tick `k`. -/
def filtersMoved (x : GcGrp) (k : Nat) : GcGrp :=
  { x with filt := newFilters x k, lvl := maxFracs ((measured x k).map fun m => tget (newFilters x k) {} m), lastMeas := some k }

/-- The new ATT that the measurement of tick `k` asks for. -/
def askedAtt (s : State) (x : GcGrp) (k : Nat) : Nat := newAtt (filtersMoved x k) (decideStep s (filtersMoved x k) k)

/-- Does the measurement of tick `k` command a step? -/
def commandsStep (s : State) (x : GcGrp) (k : Nat) : Bool := x.en && !x.fault && (cmdPending x).isNone && askedAtt s x k != x.att

section
variable {g : Fin 256} {tick : BitVec 21} {s : State}

theorem gcMeasureComplete_ignored (h : measClosed s (getGrp s g) tick.toNat = false) : Ignored (.gcMeasureComplete g tick) s := if_pos h

/-- A measurement that moves nothing is noted. -/
theorem gcMeasureComplete_noted (hc : measClosed s (getGrp s g) tick.toNat = true)
    (h : (getGrp s g).lastMeas = some tick.toNat ∨ (getGrp s g).fix.isSome = true ∨ countOf s tick.toNat < (getGrp s g).since ∨
      (measured (getGrp s g) tick.toNat).isEmpty = true) :
    Gives (.gcMeasureComplete g tick) s (setGrp s g { pruneAcc s (getGrp s g) with lastMeas := some tick.toNat }) := by
  refine (if_neg (by simp [hc])).trans ?_
  by_cases hn : (getGrp s g).lastMeas = some tick.toNat ∨ (measured (getGrp s g) tick.toNat).isEmpty = true
  · exact if_pos hn
  · exact (if_neg hn).trans (if_pos (by tauto))

/-- A measurement of a free group moves its filters and its level, and issues the command that it asks for. -/
theorem execGcMeasureComplete_moves (hc : measClosed s (getGrp s g) tick.toNat = true) (hl : (getGrp s g).lastMeas ≠ some tick.toNat)
    (hm : (measured (getGrp s g) tick.toNat).isEmpty = false) (hf : (getGrp s g).fix = none)
    (hs : (getGrp s g).since ≤ countOf s tick.toNat) :
    exec (.gcMeasureComplete g tick) s =
      let u := setGrp s g (pruneAcc s (filtersMoved (getGrp s g) tick.toNat))
      if commandsStep s (getGrp s g) tick.toNat then
        .next (bump (issueCmd u g (askedAtt s (getGrp s g) tick.toNat) (effTick s (getGrp s g)) false) .gcSteps g)
      else .next u :=
  (if_neg (by simp [hc])).trans ((if_neg (by simp [hl, hm])).trans (if_neg (by simp [hf, hs])))

/-- A step is commanded: one command stands behind the others and one step is counted. -/
theorem bump_issueCmd_commands (y : GcGrp) (att kAt : Nat) :
    let t := bump (issueCmd (setGrp s g y) g att kAt false) .gcSteps g
    ∃ c : GcCmd, (getGrp t g).cmds = y.cmds ++ [c] ∧ c.att = att ∧ c.old = y.att ∧ c.kAt = kAt ∧ c.acks = [] ∧ c.eff = false ∧
      c.restore = false ∧ c.cxl = false ∧ (getGrp t g).att = y.att ∧ (getGrp t g).lvl = y.lvl ∧
      ctrGet t .gcSteps g = min (2 ^ 32 - 1) (ctrGet s .gcSteps g + 1) ∧ (∀ h : Nat, h ≠ g.val → getGrp t h = getGrp s h) ∧
      { t with gc := s.gc, fh := s.fh, ctr := s.ctr } = s := by
  obtain ⟨fh, seq, h⟩ := issueCmd_appends (setGrp s g y) g att kAt false
  rw [getGrp_setGrp_same] at h
  rw [h]
  refine ⟨issuedCmd (setGrp s g y) y att kAt false, ?_, rfl, rfl, rfl, rfl, rfl, rfl, rfl, ?_, ?_, ctrGet_bump_same .., fun h hne => ?_, rfl⟩
  iterate 3 rw [getGrp_bump, getGrp_setGrp_same]
  exact (getGrp_setGrp_ne _ _ hne).trans (getGrp_setGrp_ne s y hne)

end

/-- Settles O17: the case of the measurement, and for a step what issuing a command changes. -/
theorem gainLoopCommandsAStep : Obligations.GainLoopCommandsAStep := by
  refine fun g tick s => ⟨gcMeasureComplete_ignored, gcMeasureComplete_noted, fun hc hl hm hf hs hno => ?_, fun hc hl hm hf hs hyes => ?_⟩
  · exact (execGcMeasureComplete_moves hc hl hm hf hs).trans (if_neg (Bool.eq_false_iff.1 hno))
  · exact ⟨_, (execGcMeasureComplete_moves hc hl hm hf hs).trans (if_pos hyes), bump_issueCmd_commands _ _ _⟩

end Sys2Proof.Machine
end

section
/-!
SUPPORT. The check of acknowledgements (R91, R96), GC_GRP_CFG0 (R106) and the end of a fix (R97).
-/
namespace Sys2Proof.Machine

/-! ### Acknowledgements -/

theorem away_gcStepItem (s : State) (g : Nat) (c : GcCmd) (coh : Bool) : Away s (gcStepItem s g c coh) := away_enqueueExt s _ _ (away_refl s)

/-- The consecutive failed restores of a group once a command was not acknowledged. -/
def restoresFailed (x : GcGrp) (c : GcCmd) : Nat := if c.restore then x.badRestores + 1 else x.badRestores

/-- A missed acknowledgement is counted and reported; `r`: the other commands. -/
def missReported (s : State) (g : Nat) (c : GcCmd) (r : List GcCmd) : State :=
  gcStepItem (raiseOwner (bump (setGrp s g { getGrp s g with cmds := r, badRestores := restoresFailed (getGrp s g) c }) .gcNoack g)
    (gainOwner s g) 0x0400 (g + missingAcks c * 256) c.k) g c false

theorem getGrp_missReported (s : State) (g : Nat) (c : GcCmd) (r : List GcCmd) :
    getGrp (missReported s g c r) g = { getGrp s g with cmds := r, badRestores := restoresFailed (getGrp s g) c } := by
  rw [missReported, getGrp_of_away (away_gcStepItem _ g c false), getGrp_of_away (away_raiseOwner _ _ _ _ _ (away_refl _)),
    getGrp_bump, getGrp_setGrp_same]

section
variable {s : State} {g : Nat} {c : GcCmd} {r : List GcCmd}

/-- The third failed restore in a row puts the group into FAULT. -/
theorem ackMissed_of_restoresFailed (hr : c.restore = true) (hb : 3 ≤ restoresFailed (getGrp s g) c) :
    (getGrp (ackMissed s g c r) g).fault = true ∧ (getGrp (ackMissed s g c r) g).cmds = r := by
  have h : ackMissed s g c r = raiseOwner (updGrp (missReported s g c r) g fun y => { y with fault := true })
      (gainOwner (missReported s g c r) g) 0x0401 (g + missingAcks c * 256) c.k := if_pos ⟨hr, hb⟩
  rw [h, getGrp_of_away (away_raiseOwner _ _ _ _ _ (away_refl _)), updGrp, getGrp_setGrp_same, getGrp_missReported]
  exact ⟨rfl, rfl⟩

theorem ackMissed_of_fault (h : ¬(c.restore = true ∧ 3 ≤ restoresFailed (getGrp s g) c)) (hf : (getGrp s g).fault = true) :
    ackMissed s g c r = missReported s g c r := (if_neg h).trans (if_pos hf)

theorem ackMissed_restores (h : ¬(c.restore = true ∧ 3 ≤ restoresFailed (getGrp s g) c)) (hf : (getGrp s g).fault = false) :
    ackMissed s g c r =
      issueCmd (missReported s g c r) g (getGrp s g).lastAtt (effTick (missReported s g c r) (getGrp s g)) true :=
  (if_neg h).trans (if_neg (by simp [hf]))

end

/-- The oldest command that is due is the one checked. -/
theorem exec_gcAckCheck_of_due {s : State} {g : Fin 256} {c : GcCmd} (h : (getGrp s g).cmds.find? (ackDue s) = some c) :
    exec (.gcAckCheck g) s =
      let x := getGrp s g
      let r := x.cmds.erase c
      if c.cxl then .next (gcStepItem (setGrp s g { x with cmds := r }) g c (missingAcks c == 0))
      else if missingAcks c = 0 then
        .next (gcStepItem (setGrp s g { x with cmds := r, badRestores := if c.restore then 0 else x.badRestores }) g c true)
      else .next (ackMissed s g c r) := by
  show execGcAckCheck g s = _
  simp only [execGcAckCheck, h]

theorem acknowledgementsAreChecked : Parts.AcknowledgementsAreChecked := by
  refine fun g s => ⟨fun h => ?_, fun c hdue => ?_⟩
  · show execGcAckCheck g s = _
    have hnone : (getGrp s g).cmds.find? (ackDue s) = none := h
    simp only [execGcAckCheck, hnone]
  · have hcheck := exec_gcAckCheck_of_due hdue
    refine ⟨fun hx => hcheck.trans (if_pos hx), fun hx hm => hcheck.trans ((if_neg (by simp [hx])).trans (if_pos hm)), fun hx hm => ?_⟩
    have hmiss : exec (.gcAckCheck g) s = .next (ackMissed s g c ((getGrp s g).cmds.erase c)) :=
      hcheck.trans ((if_neg (by simp [hx])).trans (if_neg hm))
    exact ⟨fun hr hb => ⟨_, hmiss, ackMissed_of_restoresFailed hr hb⟩,
      fun hb hf => hmiss.trans (congrArg Host.Outcome.next (ackMissed_of_fault hb hf)),
      fun hb hf => hmiss.trans (congrArg Host.Outcome.next (ackMissed_restores hb hf))⟩

/-! ### GC_GRP_CFG0 and the end of a fix -/

/-- A fix that has ended is over, and the filters start afresh. -/
theorem settleFix_of_ended {s : State} {g : Nat} {f : GcFix} (hf : (getGrp s g).fix = some f) (h : f.stop < s.tu.count) :
    settleFix s g = setGrp s g { getGrp s g with fix := none, ref := {}, filt := [], since := f.stop + 1 } := by
  simp only [settleFix, hf, if_pos (Nat.succ_le_of_lt h)]

theorem settleFix_of_lasting {s : State} {g : Nat} {f : GcFix} (hf : (getGrp s g).fix = some f) (h : s.tu.count ≤ f.stop) :
    settleFix s g = s := by
  simp only [settleFix, hf, if_neg (Nat.not_le.2 (Nat.lt_succ_of_le h))]

theorem settleFix_of_free {s : State} {g : Nat} (hf : (getGrp s g).fix = none) : settleFix s g = s := by
  simp only [settleFix, hf]

/-- A group as a write of GC_GRP_CFG0 leaves it. -/
def grpConfigured (x : GcGrp) (v : Nat) : GcGrp :=
  { x with
    en := bit v 0, target := sx (fld v 8 8) 8, hyst := fld v 16 4, stepMax := max 1 (fld v 20 5), lead := max 2 (fld v 25 5)
    tail := fld v 30 2, fault := x.fault && bit v 0, badRestores := if bit v 0 then x.badRestores else 0
    filt := if bit v 0 && !x.en then [] else x.filt }

theorem exec_gcGrpCfg0Write {who : Agent} {g : Fin 256} {s : State} (val : BitVec 32) (hown : mayTouch who (gainOwner s g) = true) :
    exec (.gcGrpCfg0Write who g val) s = .next (done (setGrp s g (grpConfigured (getGrp s g) val.toNat))) := if_neg (by simp [hown])

theorem groupRegisterAndFixEnd : Parts.GroupRegisterAndFixEnd := by
  refine fun g s => ⟨fun who val hown => ⟨_, exec_gcGrpCfg0Write val hown, ?_⟩,
    fun f hf h => congrArg Host.Outcome.next (settleFix_of_ended hf h),
    fun f hf h => congrArg Host.Outcome.next (settleFix_of_lasting hf h), fun hf => congrArg Host.Outcome.next (settleFix_of_free hf)⟩
  dsimp only
  rw [getGrp_done, getGrp_setGrp_same]
  refine ⟨rfl, rfl, rfl, rfl, rfl, rfl, fun hen => ?_, rfl, rfl, rfl, rfl⟩
  have hoff : bit val.toNat 0 = false := hen
  simp only [grpConfigured, hoff, Bool.and_false]

end Sys2Proof.Machine
end

section
/-!
SUPPORT. Early sightings (R97, R98, R102, R105): what settling a fix leaves alone, what entering FIXED does with a pending command, and the
case of a sighting.
-/
namespace Sys2Proof.Machine

/-! ### Settling and entering a fix -/

/-- Settling a fix changes the groups alone. -/
theorem settleFix_grps (s : State) (g : Nat) : ∃ l, settleFix s g = { s with gc := { s.gc with grps := l } } := by
  unfold settleFix
  dsimp only
  split
  · split
    · exact ⟨_, rfl⟩
    · exact ⟨_, rfl⟩
  · exact ⟨_, rfl⟩

theorem settleFix_tu (s : State) (g : Nat) : (settleFix s g).tu = s.tu := by
  obtain ⟨l, h⟩ := settleFix_grps s g
  rw [h]
theorem settleFix_now (s : State) (g : Nat) : (settleFix s g).now = s.now := by
  obtain ⟨l, h⟩ := settleFix_grps s g
  rw [h]
theorem settleFix_cxlMin (s : State) (g : Nat) : (settleFix s g).gc.cxlMin = s.gc.cxlMin := by
  obtain ⟨l, h⟩ := settleFix_grps s g
  rw [h]

/-- The start of the tick in which a command takes effect. -/
def cmdStart (s : State) (c : GcCmd) : Int := startOf s ((absTick s : Int) + c.kAt - s.tu.count)

theorem cmdStart_of_tu {s t : State} (h : t.tu = s.tu) (c : GcCmd) : cmdStart t c = cmdStart s c := by
  simp only [cmdStart, startOf, tickStartAt, absTick, h]

/-- Can a replacement no longer cancel a command of group `y` (R98)? -/
def TooLate (s : State) (y : GcGrp) (c : GcCmd) : Prop := cmdStart s c < (s.now : Int) + s.gc.cxlMin ∨ y.fault = true

/-- A group that enters FIXED for burst `b`. -/
def fixedFor (s : State) (y : GcGrp) (b : Burst) : GcGrp :=
  { y with
    fix := some { ref := y.lvl, stop := b.upto + y.tail, by_ := [b] }, ref := y.lvl
    gstep := y.gstep.filter fun k => s.tu.count < k + ticksPerCycle s.tu.mu / 2 }

theorem fixedFor_of_tu {s t : State} (h : t.tu = s.tu) (y : GcGrp) (b : Burst) : fixedFor t y b = fixedFor s y b := by
  simp only [fixedFor, h]

section
variable {s : State} {g : Nat} {x : GcGrp} {c : GcCmd}

/-- A command too late to cancel goes ahead and marks GSTEP. -/
theorem fixCmd_of_tooLate (hk : s.tu.count < c.kAt) (h : TooLate s x c) :
    fixCmd (setGrp s g x) g c = setGrp s g { x with gstep := x.gstep ++ [c.kAt] } := by
  have hno : ¬((s.now : Int) + s.gc.cxlMin ≤ cmdStart s c ∧ x.fault = false) := by
    rintro ⟨hle, hf⟩
    exact h.elim (fun hlt => absurd hle (Int.not_le.2 hlt)) (fun ht => by simp [hf] at ht)
  unfold fixCmd
  dsimp only
  rw [getGrp_setGrp_same]
  exact (if_pos hk).trans ((if_neg hno).trans (setGrp_setGrp_same ..))

/-- A command in time is replaced by one for the ATT in force. -/
theorem fixCmd_of_inTime (hk : s.tu.count < c.kAt) (h : ¬ TooLate s x c) : fixCmd (setGrp s g x) g c =
    issueCmd (setGrp s g { x with cmds := x.cmds.map fun d => if d = c then { d with cxl := true } else d }) g x.att c.kAt false := by
  have hyes : (s.now : Int) + s.gc.cxlMin ≤ cmdStart s c ∧ x.fault = false := by
    obtain ⟨hle, hf⟩ := not_or.1 h
    exact ⟨Int.not_lt.1 hle, Bool.eq_false_iff.2 hf⟩
  unfold fixCmd
  dsimp only
  rw [getGrp_setGrp_same, setGrp_setGrp_same]
  exact (if_pos hk).trans (if_pos hyes)

end

theorem enterFix_eq (s : State) (g : Nat) (b : Burst) :
    enterFix s g b = (pendingCmds (getGrp s g)).foldl (fun s c => fixCmd s g c) (setGrp s g (fixedFor s (getGrp s g) b)) := rfl

section
variable {s v : State} {g : Nat} {y : GcGrp} {c : GcCmd} (b : Burst) (hg : getGrp v g = y) (htu : v.tu = s.tu)
include hg htu

theorem enterFix_of_idle (hp : pendingCmds y = []) : enterFix v g b = setGrp v g (fixedFor s y b) := by
  rw [enterFix_eq, hg, hp, fixedFor_of_tu htu, List.foldl_nil]

theorem enterFix_of_pending (hp : pendingCmds y = [c]) : enterFix v g b = fixCmd (setGrp v g (fixedFor s y b)) g c := by
  rw [enterFix_eq, hg, hp, fixedFor_of_tu htu, List.foldl_cons, List.foldl_nil]

theorem enterFix_of_tooLate (hp : pendingCmds y = [c]) (hk : s.tu.count < c.kAt) (hl : TooLate v y c) :
    enterFix v g b = setGrp v g { fixedFor s y b with gstep := (fixedFor s y b).gstep ++ [c.kAt] } :=
  (enterFix_of_pending b hg htu hp).trans (fixCmd_of_tooLate (by rwa [htu]) hl)

theorem enterFix_of_inTime (hp : pendingCmds y = [c]) (hk : s.tu.count < c.kAt) (hl : ¬ TooLate v y c) :
    enterFix v g b = issueCmd (setGrp v g { fixedFor s y b with
      cmds := y.cmds.map fun d => if d = c then { d with cxl := true } else d }) g y.att c.kAt false :=
  (enterFix_of_pending b hg htu hp).trans (fixCmd_of_inTime (by rwa [htu]) hl)

end

/-! ### A row of a sighting -/

/-- Does the row see a burst at the tick after the sighting span of an occasion? -/
def seesBurst (s : State) (x : NsCtx) (pre fo n metric : Nat) : Bool :=
  x.cfg.valid && isOccasion s x.cfg n && sightTick s x.cfg n == absTick s && pre < x.cfg.npre && fo < x.cfg.nfdm && passesThr x.cfg metric

/-- A sighting shares the fix of its group. -/
def fixShared (y : GcGrp) (f : GcFix) (b : Burst) : GcGrp :=
  { y with fix := some { f with stop := max f.stop (b.upto + y.tail), by_ := f.by_ ++ [b] } }

/-- Does a burst of the fix last at tick `n` (R105)? -/
def outlasts (f : GcFix) (n : Nat) : Bool := f.by_.any fun w => decide (n ≤ w.upto)

/-- Does the fix hold a burst of the occasion of `b`? -/
def sharesOccasion (f : GcFix) (b : Burst) : Bool := f.by_.any fun w => w.ctx == b.ctx && w.since == b.since

/-- The tick before the current one, whose measurement decides a capture. -/
def tickBefore (s : State) : Nat := tickNo s (s.tu.count - 1)

/-- Do level and saturation of the tick before let a sighting capture the fix (R105)? -/
abbrev Captures (s : State) (y : GcGrp) (f : GcFix) : Prop :=
  fracLt (fracOf (8 * s.gc.margin)) (fracSub (fracOf (tickLevel y (tickBefore s))) f.ref) = true ∧
    s.gc.satThr * (tickSat y (tickBefore s)).2 ≤ (tickSat y (tickBefore s)).1 * 1024

/-- A noted sighting `b` of group `y` is judged by the fix of the group. -/
def judgeSighting (s : State) (g : Nat) (y : GcGrp) (b : Burst) : Option GcFix → Res
  | none => .next (enterFix s g b)
  | some f =>
    if sharesOccasion f b then .next (setGrp s g (fixShared y f b))
    else if outlasts f s.tu.count then
      if Captures s y f then .next (capture s g f b (tickLevel y (tickBefore s)))
      else .next (bump (nsWrite (stopBurst s b) b 2) .nsOvl (b.ctx / 128))
    else .next (setGrp s g (fixShared y f b))

section
variable {s : State} {g : Nat} {y : GcGrp} {b : Burst} {f : GcFix}

theorem judgeSighting_shares (h : sharesOccasion f b = true ∨ outlasts f s.tu.count = false) :
    judgeSighting s g y b (some f) = .next (setGrp s g (fixShared y f b)) := by
  by_cases hs : sharesOccasion f b = true
  · exact if_pos hs
  · exact (if_neg hs).trans (if_neg (Bool.eq_false_iff.1 (h.resolve_left hs)))

theorem judgeSighting_captures (hs : sharesOccasion f b = false) (ho : outlasts f s.tu.count = true) (hc : Captures s y f) :
    judgeSighting s g y b (some f) = .next (capture s g f b (tickLevel y (tickBefore s))) :=
  (if_neg (Bool.eq_false_iff.1 hs)).trans ((if_pos ho).trans (if_pos hc))

theorem judgeSighting_overlapped (hs : sharesOccasion f b = false) (ho : outlasts f s.tu.count = true) (hc : ¬ Captures s y f) :
    judgeSighting s g y b (some f) = .next (bump (nsWrite (stopBurst s b) b 2) .nsOvl (b.ctx / 128)) :=
  (if_neg (Bool.eq_false_iff.1 hs)).trans ((if_pos ho).trans (if_neg hc))

end

section
variable (ctx : Fin 256) (pre : Fin 64) (fo : Fin 8) (start : BitVec 21) (delay : BitVec 24) (pwr metric noise : BitVec 16) (s : State)

/-- The group of context `ctx`, with a fix that has ended settled. -/
def sightGrp : GcGrp := getGrp (settleFix s (getCtx s ctx).cfg.grp) (getCtx s ctx).cfg.grp

/-- The burst that a row of a sighting describes. -/
def sightBurst : Burst :=
  let u := settleFix s (getCtx s ctx).cfg.grp
  mkBurst u ctx pre fo start.toNat (endTick u (getCtx s ctx).cfg start.toNat) delay.toNat pwr metric noise (sightGrp ctx s).att

/-- The state in which a sighting stands among the bursts of its context. -/
def sightNoted : State :=
  let x := getCtx s ctx
  let u := settleFix s x.cfg.grp
  setCtx u ctx { x with
    sighted := liveBursts u x.sighted ++ [sightBurst ctx pre fo start delay pwr metric noise s], stopped := liveBursts u x.stopped }

theorem nsEarlySighting_ignored (h : seesBurst s (getCtx s ctx) pre fo start.toNat metric.toNat = false) :
    Ignored (.nsEarlySighting ctx pre fo start delay pwr metric noise) s := if_pos (congrArg not h)

theorem exec_nsEarlySighting_of_seen (h : seesBurst s (getCtx s ctx) pre fo start.toNat metric.toNat = true) :
    exec (.nsEarlySighting ctx pre fo start delay pwr metric noise) s =
      judgeSighting (sightNoted ctx pre fo start delay pwr metric noise s) (getCtx s ctx).cfg.grp (sightGrp ctx s)
        (sightBurst ctx pre fo start delay pwr metric noise s) (sightGrp ctx s).fix :=
  (if_neg (Bool.eq_false_iff.1 (congrArg not h))).trans rfl

theorem nsEarlySighting_of_fix {o : Option GcFix} (h : seesBurst s (getCtx s ctx) pre fo start.toNat metric.toNat = true)
    (hf : (sightGrp ctx s).fix = o) :
    exec (.nsEarlySighting ctx pre fo start delay pwr metric noise) s =
      judgeSighting (sightNoted ctx pre fo start delay pwr metric noise s) (getCtx s ctx).cfg.grp (sightGrp ctx s)
        (sightBurst ctx pre fo start delay pwr metric noise s) o :=
  hf ▸ exec_nsEarlySighting_of_seen ctx pre fo start delay pwr metric noise s h

theorem sightNoted_tu : (sightNoted ctx pre fo start delay pwr metric noise s).tu = s.tu := settleFix_tu s _

theorem tooLate_sightNoted (y : GcGrp) (c : GcCmd) : TooLate (sightNoted ctx pre fo start delay pwr metric noise s) y c ↔ TooLate s y c := by
  rw [TooLate, TooLate, cmdStart_of_tu (sightNoted_tu ctx pre fo start delay pwr metric noise s), ← settleFix_now s (getCtx s ctx).cfg.grp,
    ← settleFix_cxlMin s (getCtx s ctx).cfg.grp]
  rfl

end

theorem sightingsFixTheGroup : Parts.SightingsFixTheGroup := by
  intro ctx pre fo start delay pwr metric noise s
  have htu := sightNoted_tu ctx pre fo start delay pwr metric noise s
  have hjudge := @nsEarlySighting_of_fix ctx pre fo start delay pwr metric noise s
  have hlate := tooLate_sightNoted ctx pre fo start delay pwr metric noise s (sightGrp ctx s)
  have hg : getGrp (sightNoted ctx pre fo start delay pwr metric noise s) (getCtx s ctx).cfg.grp = sightGrp ctx s :=
    getGrp_setCtx ..
  refine ⟨nsEarlySighting_ignored ctx pre fo start delay pwr metric noise s, fun h hf hp => ?_, fun c h hf hp hk hl => ?_,
    fun c h hf hp hk hl => ?_, fun f h hf hshare => ?_, fun f h hf hs ho hc => ?_, fun f h hf hs ho hc => ?_⟩
  · exact (hjudge h hf).trans (congrArg Host.Outcome.next (enterFix_of_idle _ hg htu hp))
  · exact (hjudge h hf).trans (congrArg Host.Outcome.next (enterFix_of_tooLate _ hg htu hp hk ((hlate c).2 hl)))
  · exact (hjudge h hf).trans (congrArg Host.Outcome.next (enterFix_of_inTime _ hg htu hp hk (mt (hlate c).1 hl)))
  · exact (hjudge h hf).trans (judgeSighting_shares (by rw [htu]; exact hshare))
  · exact (hjudge h hf).trans (judgeSighting_captures hs (by rw [htu]; exact ho) hc)
  · exact (hjudge h hf).trans (judgeSighting_overlapped hs (by rw [htu]; exact ho) hc)

end Sys2Proof.Machine
end

section
/-!
SUPPORT. Reports (R102, R104, R105) and context descriptors (R100), and the statement that joins them with acknowledgements and sightings.
-/
namespace Sys2Proof.Machine

/-! ### The final decision on a burst -/

/-- Is `w` the burst of preamble `pre` and frequency index `fo` at the occasion that starts with tick `n`? -/
def sameBurst (s : State) (pre fo n : Nat) (w : Burst) : Bool := w.pre == pre && w.fo == fo && w.since == countOf s n

/-- Is it the time of a final decision on a burst that the context searches? -/
def decidesBurst (s : State) (x : NsCtx) (pre fo n : Nat) : Bool :=
  x.cfg.valid && isOccasion s x.cfg n && pre < x.cfg.npre && fo < x.cfg.nfdm && reportTime s x.cfg n

/-- Dropping the members that pass a test leaves a list as long as it was exactly where none passes. -/
theorem length_filter_not_eq_length_iff {α : Type} (p : α → Bool) (l : List α) :
    (l.filter fun w => !p w).length = l.length ↔ l.any p = false := by
  rw [List.length_filter_eq_length_iff, List.any_eq_false]
  simp only [Bool.not_eq_true', Bool.not_eq_true]

/-- The bursts `p` no longer hold the fix of group `g`. -/
def dropHolders (s : State) (g : Nat) (p : Burst → Bool) : Option GcFix → Res
  | none => .next s
  | some f =>
    let l := f.by_.filter fun w => !p w
    if l.length = f.by_.length then .next s
    else .next (updGrp s g fun z => { z with fix := some { f with by_ := l, stop := if l.isEmpty then s.tu.count else f.stop } })

section
variable {s : State} {g : Nat} {p : Burst → Bool} {f : GcFix}

theorem dropHolders_of_others (h : f.by_.any p = false) : dropHolders s g p (some f) = .next s :=
  if_pos ((length_filter_not_eq_length_iff p f.by_).2 h)

theorem dropHolders_of_holder (h : f.by_.any p = true) :
    dropHolders s g p (some f) =
      let l := f.by_.filter fun w => !p w
      .next (updGrp s g fun z => { z with fix := some { f with by_ := l, stop := if l.isEmpty then s.tu.count else f.stop } }) :=
  if_neg fun e => Bool.false_ne_true (((length_filter_not_eq_length_iff p f.by_).1 e).symm.trans h)

end

section
variable (ctx : Fin 256) (pre : Fin 64) (fo : Fin 8) (start : BitVec 21) (delay : BitVec 24) (pwr metric noise : BitVec 16) (s : State)

/-- The sighting of the burst that a row of a report decides on. -/
def sightingOf : Option Burst := (getCtx s ctx).sighted.find? (sameBurst s pre fo start.toNat)

/-- The burst that a row of a report describes, with the ATT noted at its sighting. -/
def reportBurst : Burst :=
  let x := getCtx s ctx
  mkBurst s ctx pre fo start.toNat (endTick s x.cfg start.toNat) delay.toNat pwr metric noise
    (((sightingOf ctx pre fo start s).map fun w => w.att).getD (getGrp s x.cfg.grp).att)

/-- The burst is no longer among the sightings of its context. -/
def sightingDropped : State :=
  let x := getCtx s ctx
  setCtx s ctx { x with sighted := x.sighted.filter fun w => !sameBurst s pre fo start.toNat w }

/-- A sighting is reported as not confirmed and counted. -/
def falseReported : State :=
  bump (nsWrite (sightingDropped ctx pre fo start s) (reportBurst ctx pre fo start delay pwr metric noise s) 3) .nsEarlyFalse (ctx.val / 128)

theorem nsReport_ignored (h : decidesBurst s (getCtx s ctx) pre fo start.toNat = false) :
    Ignored (.nsReport ctx pre fo start delay pwr metric noise) s := if_pos (congrArg not h)

variable {ctx pre fo start s} (h : decidesBurst s (getCtx s ctx) pre fo start.toNat = true)
include h

theorem nsReport_of_stopped (hst : (getCtx s ctx).stopped.any (sameBurst s pre fo start.toNat) = true) :
    Gives (.nsReport ctx pre fo start delay pwr metric noise) s
      (setCtx s ctx { getCtx s ctx with stopped := (getCtx s ctx).stopped.filter fun w => !sameBurst s pre fo start.toNat w }) :=
  (if_neg (Bool.eq_false_iff.1 (congrArg not h))).trans (if_pos hst)

variable (hst : (getCtx s ctx).stopped.any (sameBurst s pre fo start.toNat) = false)
include hst

theorem nsReport_of_passes (hp : passesThr (getCtx s ctx).cfg metric.toNat = true) :
    Gives (.nsReport ctx pre fo start delay pwr metric noise) s
      (bump (nsWrite (sightingDropped ctx pre fo start s) (reportBurst ctx pre fo start delay pwr metric noise s) 0) .nsDet (ctx.val / 128)) :=
  (if_neg (Bool.eq_false_iff.1 (congrArg not h))).trans ((if_neg (Bool.eq_false_iff.1 hst)).trans (if_pos hp))

variable {metric} (hp : passesThr (getCtx s ctx).cfg metric.toNat = false)
include hp

theorem nsReport_of_unseen (hn : sightingOf ctx pre fo start s = none) :
    Gives (.nsReport ctx pre fo start delay pwr metric noise) s (sightingDropped ctx pre fo start s) :=
  (if_neg (Bool.eq_false_iff.1 (congrArg not h))).trans ((if_neg (Bool.eq_false_iff.1 hst)).trans
    ((if_neg (Bool.eq_false_iff.1 hp)).trans (if_pos (Option.isNone_iff_eq_none.2 hn))))

/-- A sighting that is not confirmed is reported so, and no longer holds the fix of its group. -/
theorem exec_nsReport_of_unconfirmed (hn : sightingOf ctx pre fo start s ≠ none) :
    exec (.nsReport ctx pre fo start delay pwr metric noise) s =
      dropHolders (falseReported ctx pre fo start delay pwr metric noise s) (getCtx s ctx).cfg.grp
        (fun w => w.ctx == ctx.val && sameBurst s pre fo start.toNat w) (getGrp s (getCtx s ctx).cfg.grp).fix := by
  refine (if_neg (Bool.eq_false_iff.1 (congrArg not h))).trans ((if_neg (Bool.eq_false_iff.1 hst)).trans
    ((if_neg (Bool.eq_false_iff.1 hp)).trans ((if_neg (mt Option.isNone_iff_eq_none.1 hn)).trans ?_)))
  generalize hv : bump (nsWrite _ _ _) _ _ = v
  have hreported : falseReported ctx pre fo start delay pwr metric noise s = v := hv
  rw [hreported]
  rfl

end

theorem reportsFollowTheDecision : Parts.ReportsFollowTheDecision := by
  intro ctx pre fo start delay pwr metric noise s
  refine ⟨nsReport_ignored ctx pre fo start delay pwr metric noise s, nsReport_of_stopped delay pwr metric noise,
    nsReport_of_passes delay pwr metric noise, nsReport_of_unseen delay pwr noise, fun h hst hp hn => ?_⟩
  intro v z
  have hfalse := exec_nsReport_of_unconfirmed delay pwr noise h hst hp hn
  have hv : falseReported ctx pre fo start delay pwr metric noise s = v := rfl
  rw [hv] at hfalse
  clear_value v
  refine ⟨fun hf => hfalse.trans ?_, fun f hf ho => hfalse.trans ?_, fun f hf ho => hfalse.trans ?_⟩
  all_goals rw [hf]
  · rfl
  · exact dropHolders_of_others ho
  · exact dropHolders_of_holder ho

/-! ### Context descriptors -/

theorem exec_nsCtxWrite_of_owner {who : Agent} {ctx : Fin 256} (val : BitVec 32) {s : State}
    (hown : mayTouch who (noseOwner s ctx) = true) :
    exec (.nsCtxWrite who ctx val) s =
      let x := getCtx s ctx
      let c := ctxCfg x.raw val.toNat
      if !bit val.toNat 0 then .next (done (setCtx s ctx { x with cfg := c }))
      else if ctxOk s ctx ((noseOwner s ctx).getD 4) c then
        .next (done (setCtx s ctx
          (if x.cfg.valid then { x with cfg := c } else { x with cfg := c, seqno := 0, sighted := [], stopped := [], loss := [] })))
      else .next (done s) := if_neg (by simp [hown])

theorem contextDescriptorsAreCheckedWhole : Parts.ContextDescriptorsAreCheckedWhole := by
  intro who ctx val s hown
  have hexec := exec_nsCtxWrite_of_owner val hown
  have hvalid := fun hv : bit val.toNat 0 = true => hexec.trans (if_neg (Bool.eq_false_iff.1 (congrArg not hv)))
  refine ⟨fun hv => hexec.trans (if_pos (congrArg not hv)), fun hv hok hx => (hvalid hv).trans ((if_pos hok).trans ?_),
    fun hv hok hx => (hvalid hv).trans ((if_pos hok).trans ?_), fun hv hok => (hvalid hv).trans (if_neg (Bool.eq_false_iff.1 hok))⟩
  · exact congrArg (fun y => Host.Outcome.next (done (setCtx s ctx y))) (if_pos hx)
  · exact congrArg (fun y => Host.Outcome.next (done (setCtx s ctx y))) (if_neg (Bool.eq_false_iff.1 hx))

/-- Settles O18: an acknowledgement by what is missing, a sighting by the fix of its group, a report by what was seen before, a write by
its fields. -/
theorem acknowledgementsSightingsAndReports : Obligations.AcknowledgementsSightingsAndReports :=
  ⟨acknowledgementsAreChecked, groupRegisterAndFixEnd, sightingsFixTheGroup, reportsFollowTheDecision, contextDescriptorsAreCheckedWhole⟩

end Sys2Proof.Machine
end

section
/-!
SUPPORT. One instruction of a core (05_harzar_base): what it leaves when its body completes, and what an exception of it leaves. Each
instruction's statement is then one use of the rule for its way to end.
-/
namespace Sys2Proof.Machine

/-! ### Updates of one core -/

@[simp] theorem setCore_setCore_same (s : State) (c : Nat) (x y : Core) : setCore (setCore s c x) c y = setCore s c y := by
  simp [setCore]

@[simp] theorem updCore_setCore_same (s : State) (c : Nat) (x : Core) (f : Core → Core) : updCore (setCore s c x) c f = setCore s c (f x) := by
  simp [updCore]

theorem killYounger_cores (s : State) (c : Nat) : (killYounger s c).cores = s.cores := by
  simp only [killYounger]
  split <;> rfl

@[simp] theorem getCore_killYounger (s : State) (c k : Nat) : getCore (killYounger s c) k = getCore s k :=
  congrArg (fun t => tget t ({} : Core) k) (killYounger_cores s c)

/-! ### Registers of a core (R109, R138) -/

@[simp] theorem gRead_zero (x : Core) : gRead x 0 = 0 := if_pos rfl

@[simp] theorem gWrite_zero (x : Core) (v : Word) : gWrite x 0 v = x := if_pos rfl

theorem gWrite_of_ne {i : Nat} (x : Core) (v : Word) (h : i ≠ 0) : gWrite x i v = { x with g := tset x.g i v } := if_neg h

@[simp] theorem gWrite_instret (x : Core) (i : Nat) (v : Word) : (gWrite x i v).instret = x.instret := by
  by_cases h : i = 0
  · rw [h, gWrite_zero]
  · rw [gWrite_of_ne x v h]

theorem gRead_gWrite_same {i : Nat} (x : Core) (v : Word) (h : i ≠ 0) : gRead (gWrite x i v) i = v := by
  rw [gWrite_of_ne x v h, gRead, if_neg h]
  exact tget_tset_same _ _ _ _

theorem gRead_gWrite_ne {i j : Nat} (x : Core) (v : Word) (h : j ≠ i) : gRead (gWrite x i v) j = gRead x j := by
  by_cases hi : i = 0
  · rw [hi, gWrite_zero]
  · rw [gWrite_of_ne x v hi]
    simp [gRead, tget_tset_ne _ _ _ h]

@[simp] theorem pRead_zero (x : Core) : pRead x 0 = BitVec.allOnes 256 := if_pos rfl

@[simp] theorem pWrite_zero (x : Core) (v : BitVec 256) : pWrite x 0 v = x := if_pos rfl

theorem pWrite_of_ne {i : Nat} (x : Core) (v : BitVec 256) (h : i ≠ 0) : pWrite x i v = { x with p := tset x.p i v } := if_neg h

theorem pRead_pWrite_same {i : Nat} (x : Core) (v : BitVec 256) (h : i ≠ 0) : pRead (pWrite x i v) i = v := by
  rw [pWrite_of_ne x v h, pRead, if_neg h]
  exact tget_tset_same _ _ _ _

theorem pRead_pWrite_ne {i j : Nat} (x : Core) (v : BitVec 256) (h : j ≠ i) : pRead (pWrite x i v) j = pRead x j := by
  by_cases hi : i = 0
  · rw [hi, pWrite_zero]
  · rw [pWrite_of_ne x v hi]
    simp [pRead, tget_tset_ne _ _ _ h]

/-! ### The ways an instruction ends (R119, R125, R127) -/

section
variable {s u v : State} {c word : Nat} {legal priv noEnd : Bool} {body : State → IRes}

/-- The fields of its word are illegal. -/
theorem instr_illegal (h : Fetches s c u) (hl : legal = false) :
    instr s c word legal priv noEnd body = takeException u c 0x02 0 (BitVec.ofNat 64 word) := by
  obtain ⟨hstep, hfetch⟩ := h
  simp [instr, hstep, hfetch, hl]

/-- It is privileged and stands at U. -/
theorem instr_privileged_at_user (h : Fetches s c u) (hl : legal = true) (hp : priv = true) (hu : (getCore u c).pl = 0) :
    instr s c word legal priv noEnd body = takeException u c 0x03 0 (BitVec.ofNat 64 word) := by
  obtain ⟨hstep, hfetch⟩ := h
  simp [instr, hstep, hfetch, hl, hp, hu]

/-- Nothing stands against it, and its body raises an exception. -/
theorem instr_trap {code sub : Nat} {tval : Word} (h : Fetches s c u) (hl : legal = true) (hp : (priv && (getCore u c).pl == 0) = false)
    (he : (noEnd && isChisel c && atEnd (getCore u c)) = false) (hb : body u = .trap v code sub tval) :
    instr s c word legal priv noEnd body = takeException v c code sub tval := by
  obtain ⟨hstep, hfetch⟩ := h
  simp [instr, hstep, hfetch, hl, hp, he, hb]

/-- Nothing stands against it, and its body does not complete yet. -/
theorem instr_stall (h : Fetches s c u) (hl : legal = true) (hp : (priv && (getCore u c).pl == 0) = false)
    (he : (noEnd && isChisel c && atEnd (getCore u c)) = false) (hb : body u = .stall v) :
    instr s c word legal priv noEnd body = v := by
  obtain ⟨hstep, hfetch⟩ := h
  simp [instr, hstep, hfetch, hl, hp, he, hb]

/-- Nothing stands against it, and its body goes on at a target. -/
theorem instr_jump {t : Word} (h : Fetches s c u) (hl : legal = true) (hp : (priv && (getCore u c).pl == 0) = false)
    (he : (noEnd && isChisel c && atEnd (getCore u c)) = false) (hb : body u = .jump v t) :
    instr s c word legal priv noEnd body = goTo v c t := by
  obtain ⟨hstep, hfetch⟩ := h
  simp [instr, hstep, hfetch, hl, hp, he, hb]

/-- Nothing stands against it, and its body completes. -/
theorem instr_ok (h : Fetches s c u) (hl : legal = true) (hp : (priv && (getCore u c).pl == 0) = false)
    (he : (noEnd && isChisel c && atEnd (getCore u c)) = false) (hb : body u = .ok v) :
    instr s c word legal priv noEnd body = retire v c (getCore u c).pc := by
  obtain ⟨hstep, hfetch⟩ := h
  simp [instr, hstep, hfetch, hl, hp, he, hb]

end

end Sys2Proof.Machine
end

section
/-!
SUPPORT. What looking up a page or a word of memory leaves as it is (R264 to R266, R275, R277 to R279): reading, correcting, staging and
retiring change no core and, where no upset of an unprotected page lies hidden, no byte; a write then changes exactly its bytes.
-/
namespace Sys2Proof.Machine

/-! ### Pages without hidden upsets (R264) -/

/-- The upsets of a page's frame lie behind its data bits, where the page is kept without protection. -/
def Quiet (m : PageMeta) : Prop := ∀ i ∈ m.flips, m.t = 0 → 16384 ≤ i

theorem noHiddenUpset_iff {s : State} : Parts.NoHiddenUpset s ↔ ∀ ch page, Quiet (getPage s ch page) :=
  ⟨fun h ch page i hi ht => h ch page i ht hi, fun h ch page i ht hi => h ch page i hi ht⟩

theorem noHiddenUpset_setPage {s : State} {ch page : Nat} {m : PageMeta} (h : Parts.NoHiddenUpset s) (hm : Quiet m) :
    Parts.NoHiddenUpset (setPage s ch page m) := by
  refine noHiddenUpset_iff.2 fun ch' page' => ?_
  rw [getPage, setPage, tget_tset]
  split
  · exact hm
  · exact noHiddenUpset_iff.1 h ch' page'

/-- A page encoded afresh carries no upset (R262). -/
theorem quiet_encoded (t : Nat) : Quiet { written := true, t := t, flips := [] } := fun _ hi => nomatch hi

/-- Without hidden upsets nothing shows when the staged copy of a page leaves. -/
theorem filter_shown_of_quiet {m : PageMeta} (h : Quiet m) (ht : m.t = 0) : (m.flips.filter fun i => i < 16384) = [] :=
  List.filter_eq_nil_iff.2 fun i hi => by simpa using h i hi ht

/-! ### The cores and bytes of a state -/

/-- `s` has the cores and the bytes of memory of `A`, and no hidden upset. -/
def Still (A s : State) : Prop := s.cores = A.cores ∧ s.mem.bytes = A.mem.bytes ∧ Parts.NoHiddenUpset s

variable {A : State}

theorem still_refl {s : State} (h : Parts.NoHiddenUpset s) : Still s s := ⟨rfl, rfl, h⟩

theorem Still.byteAt {s : State} (h : Still A s) (a : Nat) : byteAt s a = byteAt A a := congrArg (cellGet · a) h.2.1

theorem Still.getCore {s : State} (h : Still A s) (c : Nat) : getCore s c = getCore A c := congrArg (fun t => tget t ({} : Core) c) h.1

/-- What leaves the cores and the memory alone. -/
theorem Still.away {s t : State} (h : Still A s) (hw : Away s t) : Still A t := by
  obtain ⟨hcores, hbytes, hquiet⟩ := h
  have hmem := away_mem hw
  refine ⟨(away_cores hw).trans hcores, (congrArg Mem.bytes hmem).trans hbytes, noHiddenUpset_iff.2 fun ch page => ?_⟩
  rw [getPage, hmem]
  exact noHiddenUpset_iff.1 hquiet ch page

/-- The same bytes written into both. -/
theorem still_writeBytes {s : State} (a : Nat) (bs : List Byte) (h : Still A s) : Still (writeBytes A a bs) (writeBytes s a bs) :=
  ⟨h.1, congrArg (cellsWrite · a bs) h.2.1, h.2.2⟩

theorem still_ite {p : Prop} [Decidable p] {a b : State} (ha : Still A a) (hb : Still A b) : Still A (if p then a else b) := by
  split
  · exact ha
  · exact hb

theorem still_eq2 {α : Type} {r : α × State} {a : α} {t : State} (e : r = (a, t)) (h : Still A r.2) : Still A t := by subst e; exact h
theorem still_eq22 {α β : Type} {r : α × β × State} {a : α} {b : β} {t : State} (e : r = (a, b, t)) (h : Still A r.2.2) : Still A t := by
  subst e; exact h

/-! ### LPDDR6 pages (R262 to R266, R279) -/

theorem still_setPage {s : State} {m : PageMeta} (ch page : Nat) (hm : Quiet m) (h : Still A s) : Still A (setPage s ch page m) :=
  ⟨h.1, h.2.1, noHiddenUpset_setPage h.2.2 hm⟩

theorem still_encodePage {s : State} (ch page : Nat) (h : Still A s) : Still A (encodePage s ch page) :=
  still_setPage ch page (quiet_encoded _) h

theorem still_showFlips {s : State} (ch page : Nat) (h : Still A s) : Still A (showFlips s ch page) := by
  have hq := noHiddenUpset_iff.1 h.2.2 ch page
  unfold showFlips
  dsimp only
  split
  case isTrue ht =>
    rw [filter_shown_of_quiet hq ht]
    exact still_setPage ch page (fun i hi _ => by simpa using (List.mem_filter.1 hi).2) h
  case isFalse => exact h

theorem still_unstage {s : State} (ch : Nat) (e : Staged) (h : Still A s) : Still A (unstage s ch e) :=
  still_ite (still_encodePage ch e.page h) (still_showFlips ch e.page h)

theorem still_stage {s : State} (ch page : Nat) (dirty : Bool) (h : Still A s) : Still A (stage s ch page dirty) := by
  unfold stage
  dsimp only
  split
  · exact h
  · split
    · exact still_unstage ch _ h
    · exact h

theorem still_retirePage {s : State} (ch page : Nat) (h : Still A s) : Still A (retirePage s ch page) := by
  unfold retirePage
  dsimp only
  split
  · exact h
  · exact still_encodePage ch page h

theorem still_notePage {s : State} (ch page : Nat) (h : Still A s) : Still A (notePage s ch page) :=
  still_ite (still_retirePage ch page (still_ite h h)) (still_ite h h)

theorem still_pageUnc {s : State} (ch page : Nat) (tag : Bool) (h : Still A s) : Still A (pageUnc s ch page tag) :=
  (show Still A (noteUnc (if tag then bump (bump s .memUnc ch) .memTagErr ch else bump s .memUnc ch) ch (pageAddr ch page)) from
    still_ite h h).away (away_raiseHolders _ _ _ _ _ (away_refl _))

theorem still_fetchPage {s : State} (ch page : Nat) (alloc : Bool) (h : Still A s) : Still A (fetchPage s ch page alloc).2 := by
  unfold fetchPage
  dsimp only
  split
  · exact still_stage ch page _ h
  · split
    · exact still_ite (still_stage ch page false h) h
    · exact still_notePage ch page (still_stage ch page true h)
    · exact h
    · exact still_pageUnc ch page _ h

/-! ### SRAM words (R275, R277, R278) -/

theorem still_repairRow {s : State} (i w : Nat) (h : Still A s) : Still A (repairRow s i w) := still_ite h h

theorem still_correctWord {s : State} (w : Nat) (h : Still A s) : Still A (correctWord s w) :=
  still_ite (still_repairRow _ w (still_ite h h)) (still_ite h h)

theorem still_wordUnc {s : State} (w by_ : Nat) (h : Still A s) : Still A (wordUnc s w by_) :=
  Still.away (s := setSr _ _ _) h (away_raiseHolders _ _ _ _ _ (away_refl _))

theorem still_readWords {s : State} (ws : List Nat) (h : Still A s) : Still A (readWords s ws).2 := by
  induction ws generalizing s with
  | nil => exact h
  | cons w r ih =>
    unfold readWords
    split
    · exact ih h
    · split
      · exact ih (still_correctWord w h)
      · exact still_wordUnc w _ h

/-! ### Accesses (R226, R234) -/

theorem still_noteRefused {s : State} (a st : Nat) (h : Still A s) : Still A (noteRefused s a st) := by
  unfold noteRefused
  split
  · exact still_ite h h
  · exact h

theorem still_readPiece {s : State} (who : Option Nat) (a n : Nat) (h : Still A s) : Still A (readPiece s who a n).2.2 := by
  unfold readPiece
  dsimp only
  split
  · exact still_noteRefused a _ h
  · split
    · split <;> rename_i e <;> exact still_eq2 e (still_fetchPage _ _ _ h)
    · split <;> rename_i e <;> exact still_eq2 e (still_readWords _ h)

theorem still_readPieces {s : State} (who : Option Nat) (ps : List (Nat × Nat)) (h : Still A s) : Still A (readPieces s who ps).2.2 := by
  induction ps generalizing s with
  | nil => exact h
  | cons p r ih =>
    obtain ⟨a, n⟩ := p
    unfold readPieces
    split <;> rename_i e <;> have hpiece := still_eq22 e (still_readPiece who a n h)
    · exact ih hpiece
    · exact hpiece

theorem still_memRead {s : State} (who : Option Nat) (a n : Nat) (h : Still A s) : Still A (memRead s who a n).2.2 :=
  still_readPieces who _ h

/-- A partial write of a page that its target takes changes exactly its bytes (R265). -/
theorem still_writePartPage {s : State} {ch page a : Nat} {bs : List Byte} (h : Still A s) (hst : (writePartPage s ch page a bs).1 = 0) :
    Still (writeBytes A a bs) (writePartPage s ch page a bs).2 := by
  unfold writePartPage at hst ⊢
  split at hst <;> rename_i e
  · exact still_stage _ _ _ (still_writeBytes a bs (still_eq2 e (still_fetchPage _ _ _ h)))
  · exact absurd hst ‹_›

/-- So does a write to SRAM (R275). -/
theorem still_writeSram {s : State} {a : Nat} {bs : List Byte} (h : Still A s) (hst : (writeSram s a bs).1 = 0) :
    Still (writeBytes A a bs) (writeSram s a bs).2 := by
  unfold writeSram at hst ⊢
  split at hst <;> rename_i e
  · have hread := still_eq2 e (still_readWords _ h)
    refine still_writeBytes a bs ?_
    exact hread
  · exact absurd hst ‹_›

theorem still_writePiece {s : State} {who : Option Nat} {a : Nat} {bs : List Byte} (hlen : bs.length ≠ 2048) (h : Still A s)
    (hst : (writePiece s who a bs).1 = 0) : Still (writeBytes A a bs) (writePiece s who a bs).2 := by
  have hreach : reachStatus s who a = 0 := by
    by_contra hr
    simp [writePiece, hr] at hst
  simp only [writePiece, hreach, bne_self_eq_false, Bool.false_eq_true, if_false, if_neg hlen] at hst ⊢
  split at hst
  · exact still_writePartPage h hst
  · exact still_writeSram h hst

/-- An access that does not cross a page boundary is one piece. -/
theorem pieces_of_le {a n f : Nat} (hn : n ≠ 0) (h : a % 2048 + n ≤ 2048) : pieces a n (f + 2) = [(a, n)] := by
  have hmin : min n (2048 - a % 2048) = n := by omega
  simp [pieces, hn, hmin]

/-- A write of less than a page within one page, where its target takes it, changes exactly its bytes. -/
theorem still_memWrite {s : State} {who : Option Nat} {a : Nat} {bs : List Byte} (hbs : bs ≠ []) (hlen : bs.length < 2048)
    (ha : a % 2048 + bs.length ≤ 2048) (h : Still A s) (hst : (memWrite s who a bs).1 = 0) :
    Still (writeBytes A a bs) (memWrite s who a bs).2.2 := by
  obtain ⟨n, hn⟩ := Nat.exists_eq_succ_of_ne_zero (mt List.length_eq_zero_iff.1 hbs)
  have hp : pieces a bs.length (bs.length + 1) = [(a, bs.length)] := by
    rw [hn] at ha ⊢
    exact pieces_of_le n.succ_ne_zero ha
  unfold memWrite at hst ⊢
  rw [hp] at hst ⊢
  simp only [writePieces, List.take_length] at hst ⊢
  have hpiece := still_writePiece (who := who) (a := a) (Nat.ne_of_lt hlen) h
  split at hst <;> rename_i e <;> rw [e] at hpiece
  · exact hpiece rfl
  · exact absurd hst ‹_›

end Sys2Proof.Machine
end

section
/-!
SUPPORT. Scalar loads, stores and atomics (05_harzar_base R111, R116, R117, R128).
-/
namespace Sys2Proof.Machine

/-! ### Little-endian bytes (R8) -/

@[simp] theorem length_leBytes (v n : Nat) : (leBytes v n).length = n := by
  induction n generalizing v with
  | zero => rfl
  | succ n ih => simp [leBytes, ih]

theorem getD_leBytes {v n i : Nat} (d : Byte) (h : i < n) : (leBytes v n).getD i d = BitVec.ofNat 8 (v / 256 ^ i) := by
  induction n generalizing v i with
  | zero => omega
  | succ n ih =>
    cases i with
    | zero => simp [leBytes]
    | succ i => rw [leBytes, List.getD_cons_succ, ih (by omega), Nat.div_div_eq_div_mul, Nat.pow_succ']

/-! ### Loads, stores and atomics whose access succeeds (R116, R117) -/

/-- The sizes of a scalar access: 1, 2, 4 or 8 bytes. -/
theorem dvd_page_of_size (fn : Nat) : 2 ^ (fn % 4) ∣ 2048 :=
  Nat.pow_dvd_pow (n := 11) 2 (by omega)

theorem loadsStoresAndAtomics : Parts.LoadsStoresAndAtomics := by
  intro c s u v hf
  refine ⟨fun rt rb fn off bs hfn hacc => ?_, fun rt rb fn off bs hfn hacc => ?_,
    fun rd rs1 rs2 f w pa attr old hf7 hf4 hcheck hregs hat => ?_⟩
  · exact congrArg Host.Outcome.next (instr_ok hf (by simpa using hfn) rfl rfl (by simp only [hacc]; rfl))
  · exact congrArg Host.Outcome.next (instr_ok hf (by simpa using hfn) rfl rfl (by simp only [hacc]))
  · refine congrArg Host.Outcome.next (instr_ok hf (by simp [hf7, hf4]) rfl rfl ?_)
    simp only [atomicBody, hcheck, hregs, Bool.false_eq_true, if_false]
    simp only [hat]
    rfl

/-! ### Accesses of Chisel cores: addresses are physical (R134) -/

theorem translate_of_isChisel {c : Nat} (hc : isChisel c = true) (s : State) (va : Nat) (k : Acc) :
    translate s c va k = (.ok (va, 1), s) := by
  simp [translate, translating, hc]

/-- Register space answers no fetch (R12). -/
theorem reachStatus_of_inRegs {s : State} {who : Option Nat} {a : Nat} (h : inRegs a = true) : reachStatus s who a = 4 := by
  have ht : targetOf a = .regs := by simpa [inRegs] using h
  simp [reachStatus, ht]

/-- A fetch that succeeds has read its word from memory. -/
theorem fetchCheck_of_isChisel {s u : State} {c : Nat} (hc : isChisel c = true) (h : fetchCheck s c = (none, u)) :
    u = (memRead s (corePart s c) (getCore s c).pc.toNat 4).2.2 := by
  simp only [fetchCheck, translate_of_isChisel hc] at h
  by_cases hreg : regionsAllow (getCore s c) c 8 (getCore s c).pc.toNat 4 = true
  case neg => simp [hreg] at h
  by_cases hreach : reachStatus s (corePart s c) (getCore s c).pc.toNat = 0
  case neg => simp [hreg, hreach] at h
  have hmem : inRegs (getCore s c).pc.toNat = false := by
    by_contra hin
    rw [reachStatus_of_inRegs (by simpa using hin)] at hreach
    omega
  simp only [hreg, hreach, physRead, hmem, Bool.not_true, Bool.false_eq_true, if_false, bne_self_eq_false, Nat.one_ne_zero] at h
  split at h <;> rename_i e
  · rw [e]; simpa using h.symm
  · simp at h

/-- A fetch leaves the cores and the bytes of memory as they are. -/
theorem still_of_fetches {s u : State} {c : Nat} (hc : isChisel c = true) (hf : Fetches s c u) (h : Parts.NoHiddenUpset s) : Still s u :=
  fetchCheck_of_isChisel hc hf.2 ▸ still_memRead _ _ _ (still_refl h)

/-- A store to memory that the protection regions allow and whose target takes it (R116, R128). -/
theorem coreStore_of_isChisel {s : State} {c va al : Nat} {bs : List Byte} (hc : isChisel c = true) (hal : va % al = 0)
    (hregs : inRegs va = false) (hallow : regionsAllow (getCore s c) c 7 va bs.length = true) (hst : (memWrite s (corePart s c) va bs).1 = 0) :
    coreStore s c va al bs = .done [] (memWrite s (corePart s c) va bs).2.2 := by
  simp [coreStore, storeCheck, hal, translate_of_isChisel hc, hallow, physWrite, physStore, hregs, hst, noteStoreErr]

/-! ### What completing an instruction leaves of the core -/

theorem getCore_retire (s : State) (c : Nat) (pc : Word) :
    (∀ i, gRead (getCore (retire s c pc) c) i = gRead (getCore s c) i) ∧
      (getCore (retire s c pc) c).pl = (getCore s c).pl ∧ (getCore (retire s c pc) c).instret = (getCore s c).instret + 1 := by
  simp only [retire, getCore_updCore_same]
  split
  · split <;> exact ⟨fun _ => rfl, rfl, rfl⟩
  · exact ⟨fun _ => rfl, rfl, rfl⟩

/-- An aligned access crosses no page boundary. -/
theorem aligned_within_page {a n : Nat} (hn : n ∣ 2048) (ha : a % n = 0) : a % 2048 + n ≤ 2048 := by
  obtain ⟨q, hq⟩ : n ∣ a % 2048 := (Nat.dvd_mod_iff hn).2 (Nat.dvd_of_mod_eq_zero ha)
  obtain ⟨k, hk⟩ := hn
  have hlt : n * q < n * k := by omega
  have hqk : q + 1 ≤ k := Nat.lt_of_mul_lt_mul_left hlt
  calc a % 2048 + n = n * (q + 1) := by rw [hq, Nat.mul_succ]
    _ ≤ 2048 := hk ▸ Nat.mul_le_mul_left n hqk

theorem storeWritesExactlyItsBytes : Parts.StoreWritesExactlyItsBytes := by
  intro c rt rb fn off s u hf hc hfn x n a bs hquiet hal hregs hallow hst
  have hn : bs.length = n := length_leBytes _ _
  have hpage : n ∣ 2048 := dvd_page_of_size fn.toNat
  have hpos : 0 < n := Nat.two_pow_pos _
  have hsmall : n ≤ 2 ^ 3 := Nat.pow_le_pow_right Nat.two_pos (by omega)
  have hfetched : Still s u := still_of_fetches hc hf hquiet
  have hwritten : Still (writeBytes u a bs) (memWrite u (corePart u c) a bs).2.2 :=
    still_memWrite (by rw [← List.length_pos_iff]; omega) (by omega) (hn ▸ aligned_within_page hpage hal) (still_refl hfetched.2.2) hst
  have hstore := coreStore_of_isChisel hc hal hregs (hn ▸ hallow) hst
  obtain ⟨_, hexec, _⟩ := loadsStoresAndAtomics c s u (memWrite u (corePart u c) a bs).2.2 hf
  refine ⟨_, hexec rt rb fn off [] hfn hstore, fun i hi => ?_, fun b hb => ?_, ?_⟩
  · calc byteAt (retire _ c x.pc) (a + i) = byteAt (writeBytes u a bs) (a + i) := hwritten.byteAt _
      _ = bs.getD i memDefault := byteAt_writeBytes_inside u a i bs (by omega)
      _ = _ := getD_leBytes memDefault hi
  · calc byteAt (retire _ c x.pc) b = byteAt (writeBytes u a bs) b := hwritten.byteAt _
      _ = byteAt u b := byteAt_writeBytes_outside u a b bs (by omega)
      _ = byteAt s b := hfetched.byteAt b
  · have hcore := hwritten.getCore c
    obtain ⟨hg, hpl, hret⟩ := getCore_retire (memWrite u (corePart u c) a bs).2.2 c x.pc
    rw [hcore] at hg hpl hret
    exact ⟨hg, hpl, hret⟩

/-- Settles O21: an access that succeeds completes its instruction; a store's write, of less than a page within one page, is still but for its bytes. -/
theorem scalarMemoryAccesses : Obligations.ScalarMemoryAccesses := ⟨loadsStoresAndAtomics, storeWritesExactlyItsBytes⟩

end Sys2Proof.Machine
end

section
/-!
SUPPORT. Scalar results, jumps, calls and branches, arithmetic at its corners, and the hard-wired registers (05_harzar_base R109 to R115).
-/
namespace Sys2Proof.Machine

/-! ### Which operations the tables list (R112, R113, R115): the operands have no say -/

theorem aluOp_isSome (f : Nat) (a b : Word) : (aluOp f a b).isSome = (aluOp f 0 0).isSome := by
  unfold aluOp
  split <;> simp only [Option.isSome_some, Option.isSome_none]

theorem mulOp_isSome (f : Nat) (a b : Word) : (mulOp f a b).isSome = (mulOp f 0 0).isSome := by
  unfold mulOp
  split <;> simp only [Option.isSome_some, Option.isSome_none]

theorem immOp_isSome (op : Nat) (a : Word) (imm : Nat) : (immOp op a imm).isSome = (immOp op 0 imm).isSome := by
  unfold immOp
  dsimp only
  repeat' split
  all_goals simp only [Option.isSome_some, Option.isSome_none]

/-! ### Results (R112 to R115) -/

theorem scalarResultsReachTheirRegister : Parts.ScalarResultsReachTheirRegister := by
  intro c rd rs1 rs2 s u hf x a b put
  have hput {r : Option Word} {v : Word} (hv : r = some v) :
      IRes.ok (setCore u c (gWrite x rd.toNat (r.getD 0))) = .ok (setCore u c (gWrite x rd.toNat v)) := by rw [hv, Option.getD_some]
  refine ⟨fun f v hv hrs2 => ?_, fun f v hv => ?_, fun op imm v hv => ?_, fun q imm => ?_, fun imm hrs1 => ?_⟩
  · have hlegal : ((aluOp f.toNat 0 0).isSome && !(aluUnary f.toNat && rs2 != 0)) = true := by
      rw [← aluOp_isSome f.toNat a b, hv]
      rcases hrs2 with h | h <;> simp [h]
    exact congrArg Host.Outcome.next (instr_ok hf hlegal rfl rfl (hput hv))
  · have hlegal : (mulOp f.toNat 0 0).isSome = true := by rw [← mulOp_isSome f.toNat a b, hv]; rfl
    exact congrArg Host.Outcome.next (instr_ok hf hlegal rfl rfl (hput hv))
  · have hlegal : (immOp op.val 0 imm.toNat).isSome = true := by rw [← immOp_isSome op.val a imm.toNat, hv]; rfl
    exact congrArg Host.Outcome.next (instr_ok hf hlegal rfl rfl (hput hv))
  · exact congrArg Host.Outcome.next (instr_ok hf rfl rfl rfl rfl)
  · exact congrArg Host.Outcome.next (instr_ok hf (by simp [hrs1]) rfl rfl rfl)

/-! ### Jumps, calls and branches (R112) -/

theorem goTo_setCore (s : State) (c : Nat) (x : Core) (t : Word) :
    goTo (setCore s c x) c t = setCore s c { x with pc := t, instret := x.instret + 1 } :=
  updCore_setCore_same s c x _

theorem jumpsCallsAndBranches : Parts.JumpsCallsAndBranches := by
  rintro c rs off s u ⟨hf, hend⟩ x target
  have hlink : ∀ (rd : Nat) (t : Word), goTo (setCore u c (gWrite x rd (x.pc + 4))) c t =
      setCore u c { gWrite x rd (x.pc + 4) with pc := t, instret := x.instret + 1 } := fun rd t => by rw [goTo_setCore, gWrite_instret]
  refine ⟨fun hrs => ?_, ?_, fun rd imm => ?_, fun cond ht => ?_, fun cond ht => ?_⟩
  · exact congrArg Host.Outcome.next (instr_jump hf (by simp [hrs]) rfl hend rfl)
  · exact congrArg Host.Outcome.next (Eq.trans (instr_jump hf rfl rfl hend rfl) (hlink _ _))
  · exact congrArg Host.Outcome.next (Eq.trans (instr_jump hf rfl rfl hend rfl) (hlink _ _))
  · exact congrArg Host.Outcome.next (instr_jump hf rfl rfl hend (if_pos ht))
  · exact congrArg Host.Outcome.next (instr_ok hf rfl rfl hend (if_neg (Bool.eq_false_iff.1 ht)))

/-- Settles O19: a listed operation is legal whatever its operands, and its body completes; a jump's goes on at its target. -/
theorem scalarResultsAndJumps : Obligations.ScalarResultsAndJumps := ⟨scalarResultsReachTheirRegister, jumpsCallsAndBranches⟩

/-! ### Arithmetic at its corners (R113, R115) -/

/-- The saturating clamp on 64 bits, case by case (R113, R145). -/
theorem satInt_of_high {x : Int} (h : 2 ^ 63 ≤ x) : satInt 64 x = 2 ^ 63 - 1 := by
  simp only [satInt, clampInt, minInt, maxInt]; omega

theorem satInt_of_low {x : Int} (h : x < -(2 ^ 63)) : satInt 64 x = -(2 ^ 63) := by
  simp only [satInt, clampInt, minInt, maxInt]; omega

theorem satInt_of_fits {x : Int} (h : -(2 ^ 63) ≤ x ∧ x < 2 ^ 63) : satInt 64 x = x := by
  simp only [satInt, clampInt, minInt, maxInt]; omega

theorem quoS_zero (a : Int) : quoS 64 a 0 = if 0 ≤ a then 2 ^ 63 - 1 else -(2 ^ 63) := rfl

theorem ctz_zero : ctz 0 = 64 := by
  have hnone : ((upFrom 0 64).find? fun i => (0 : Word).getLsbD i) = none := List.find?_eq_none.2 fun i _ => by simp
  rw [ctz, hnone, Option.getD_none]

theorem arithmeticCorners : Parts.ArithmeticCorners := by
  intro a b
  have hsum : aluOp 0x020 a b = some (w64 (satInt 64 (a.toInt + b.toInt))) := rfl
  have hslt : aluOp 0x00A a b = some (wBool (a.slt b)) := rfl
  have hquo : mulOp 0x008 a 0 = some (w64 (quoS 64 a.toInt 0)) := rfl
  have hrem : mulOp 0x00A a 0 = some (w64 a.toInt) := rfl
  refine ⟨rfl, rfl, rfl, rfl, congrArg (fun n => some (BitVec.ofNat 64 n)) ctz_zero, fun h => ?_, fun h => ?_, fun h => ?_, fun h => ?_,
    fun h => ?_, fun h => ?_, fun h => ?_, rfl, ?_, rfl, by decide, by decide⟩
  · rw [hslt, BitVec.slt_iff_toInt_lt.2 h]; rfl
  · rw [hslt, Bool.eq_false_iff.2 (mt BitVec.slt_iff_toInt_lt.1 (Int.not_lt.2 h))]; rfl
  · rw [hsum, satInt_of_high h]; rfl
  · rw [hsum, satInt_of_low h]; rfl
  · rw [hsum, satInt_of_fits h, w64, BitVec.ofInt_add, BitVec.ofInt_toInt, BitVec.ofInt_toInt]
  · rw [hquo, quoS_zero, if_pos h]; rfl
  · rw [hquo, quoS_zero, if_neg (Int.not_le.2 h)]; rfl
  · rw [hrem, w64, BitVec.ofInt_toInt]

/-! ### The hard-wired registers (R109, R138) -/

theorem hardwiredRegistersKeepTheirValue : Parts.HardwiredRegistersKeepTheirValue := by
  intro x i j v p
  refine ⟨?_, ?_, gWrite_zero x v, pWrite_zero x p, fun h => ⟨gRead_gWrite_ne x v h, pRead_pWrite_ne x p h⟩,
    fun h => ⟨gRead_gWrite_same x v h, pRead_pWrite_same x p h⟩⟩
  · exact gRead_zero _
  · exact pRead_zero _

/-- Settles O20: the tables' operations at their corners, and the two registers that no write reaches. -/
theorem cornersAndHardwiredRegisters : Obligations.CornersAndHardwiredRegisters := ⟨arithmeticCorners, hardwiredRegistersKeepTheirValue⟩

end Sys2Proof.Machine
end

section
/-!
SUPPORT. Traps, privilege, interrupts, aborts and returns (05_harzar_base R108, R118, R121 to R128).
-/
namespace Sys2Proof.Machine

/-! ### HZ_CAUSE and the entry of an exception (R125) -/

theorem causeWord_exception (code : Nat) : causeWord code 0 false = BitVec.ofNat 64 code := by simp [causeWord, b2n]

theorem causeWord_interrupt (i : Nat) : causeWord i 0 true = BitVec.ofNat 64 (i + 2 ^ 63) := by simp [causeWord, b2n]

section
variable {s : State} {c : Nat} (code : Nat) (tval : Word)

/-- At EXL = 0 the core enters its trap; the Rasp instructions behind are killed. -/
theorem takeException_of_exl_false (h : (getCore s c).exl = false) :
    takeException s c code 0 tval = setCore (killYounger s c) c { getCore s c with
      epc := (getCore s c).pc, cause := BitVec.ofNat 64 code, tval := tval, pie := (getCore s c).ie, ie := false
      ppl := (getCore s c).pl, pl := 1, exl := true, pc := (getCore s c).tvec } := by
  rw [takeException, updCore, getCore_killYounger, if_neg (Bool.eq_false_iff.1 h), takeTrap, causeWord_exception]

/-- At EXL = 1 a second exception stops it. -/
theorem takeException_of_exl_true (h : (getCore s c).exl = true) :
    takeException s c code 0 tval = setCore (killYounger s c) c { getCore s c with run := .stopped } := by
  rw [takeException, updCore, getCore_killYounger, if_pos h]

end

/-! ### Traps of instructions (R108, R118, R125, R126) -/

/-- A load at an address that its size does not divide. -/
theorem coreLoad_misaligned {s : State} {c va n al : Nat} (h : va % al ≠ 0) :
    coreLoad s c va n al = .fault 0x04 0 (BitVec.ofNat 64 va) s := if_pos h

theorem exec_load_fault {c : Fin 112} {rt rb : BitVec 5} {fn : BitVec 4} {off : BitVec 12} {s u v : State} {code sub : Nat} {tval : Word}
    (hf : Fetches s c u) (hfn : fn.toNat ≤ 6)
    (hacc : coreLoad u c (mAddr (getCore u c) rb.toNat off.toNat (2 ^ (fn.toNat % 4))) (2 ^ (fn.toNat % 4)) (2 ^ (fn.toNat % 4)) =
      .fault code sub tval v) : exec (.load c rt rb fn off) s = .next (takeException v c code sub tval) :=
  congrArg Host.Outcome.next (instr_trap hf (by simpa using hfn) rfl rfl (by simp only [hacc]))

theorem instructionTraps : Parts.InstructionTraps := by
  rintro c s u ⟨hf, hend⟩ x enter
  have henter : ∀ (code : Nat) (tval : Word), x.exl = false → takeException u c code 0 tval = enter code tval :=
    fun code tval h => takeException_of_exl_false code tval h
  refine ⟨fun imm h => ?_, fun imm h => ?_, fun rd rs1 rs2 f h hf0 => ?_, ?_, ?_, fun imm h => ?_⟩
  · exact congrArg Host.Outcome.next (Eq.trans (instr_trap hf rfl rfl hend rfl) (henter _ _ h))
  · exact congrArg Host.Outcome.next (Eq.trans (instr_trap hf rfl rfl hend rfl) (henter _ _ h))
  · exact congrArg Host.Outcome.next (Eq.trans (instr_illegal hf (by rw [hf0]; rfl)) (henter _ _ h))
  · intro major rd rs1 rs2 f h hm w hw
    have hexec : exec (.integerAlu c major rd rs1 rs2 f) s = .next (illegalWord s c w) := (if_neg hm).trans (if_neg (Bool.eq_false_iff.1 hw))
    rw [Gives, hexec, illegalWord, instr_illegal hf rfl, henter _ _ h]
  · intro rt rb fn off h hfn n hal
    exact (exec_load_fault hf hfn (coreLoad_misaligned hal)).trans (congrArg Host.Outcome.next (henter _ _ h))
  · exact congrArg Host.Outcome.next (Eq.trans (instr_trap hf rfl rfl hend rfl) (takeException_of_exl_true _ _ h))

/-! ### Privilege (R121, R126) -/

theorem srInstr_privileged_at_user {s u : State} {c sub : Nat} {rd rs1 : BitVec 5} {imm : BitVec 10} {fields wr : Bool}
    {f : Word → Word → Word} (hf : Fetches s c u) (hl : (fields && srKnown c imm.toNat && !(wr && srReadOnly imm.toNat)) = true)
    (hp : (if wr then srUserWrite imm.toNat else srUserRead imm.toNat) = false) (hu : (getCore u c).pl = 0) :
    srInstr s c rd rs1 imm sub fields wr f = takeException u c 0x03 0 (BitVec.ofNat 64 (sysWord rd rs1 sub imm)) := by
  unfold srInstr
  exact instr_privileged_at_user hf hl (by rw [hp]; rfl) hu

theorem privilegedInstructionsTrapAtU : Parts.PrivilegedInstructionsTrapAtU := by
  intro c s u hf hu hexl x priv
  have hpriv : ∀ word, takeException u c 0x03 0 (BitVec.ofNat 64 word) = priv word := fun word => by
    rw [takeException_of_exl_false _ _ hexl, hu]; rfl
  refine ⟨?_, ?_, fun rs1 => ?_, fun hc rd rs1 => ⟨?_, ?_⟩, fun rd rs1 imm hk hw hro => ?_⟩
  · exact congrArg Host.Outcome.next (Eq.trans (instr_privileged_at_user hf rfl rfl hu) (hpriv _))
  · exact congrArg Host.Outcome.next (Eq.trans (instr_privileged_at_user hf rfl rfl hu) (hpriv _))
  · exact congrArg Host.Outcome.next (Eq.trans (instr_privileged_at_user hf rfl rfl hu) (hpriv _))
  · exact congrArg Host.Outcome.next (Eq.trans (instr_privileged_at_user hf (by simp [hc]) rfl hu) (hpriv _))
  · exact congrArg Host.Outcome.next (Eq.trans (instr_privileged_at_user hf (by simp [hc]) rfl hu) (hpriv _))
  · exact congrArg Host.Outcome.next (Eq.trans (srInstr_privileged_at_user hf (by simp [hk, hro]) hw hu) (hpriv _))

/-! ### Events at a core's boundary (R123, R125, R127, R128) -/

section
variable {c : Fin 112} {s : State}

/-- An interrupt that is due and that no work-item abort precedes is taken (R127). -/
theorem exec_interruptTake (hrun : (getCore s c).run = .running) (hdue : intDue s c = true)
    (hab : (getCore s c).pl ≠ 0 ∨ (getCore s c).abQ = []) :
    exec (.interruptTake c) s = .next (updCore (if isChisel c then withdrawRlock s c else s) c fun y =>
      takeTrap { y with ip := if lowestInt s c = 7 then setBit y.ip 7 false else y.ip } (lowestInt s c) 0 true (intTval s c (lowestInt s c)) y.pc) := by
  refine if_pos ⟨hrun, hdue, ?_⟩
  rcases hab with h | h <;> simp [h]

theorem getCore_withdrawRlock (k : Nat) : getCore (if isChisel c then withdrawRlock s c else s) k = getCore s k := by
  split <;> rfl

/-- An abort that comes to a waiting core or one at S is held (R127). -/
theorem exec_wiAbort_held {t : Word} {r : List Word} (hq : (getCore s c).abQ = t :: r)
    (h : (getCore s c).run = .waiting ∨ (getCore s c).run = .running ∧ (getCore s c).pl ≠ 0) :
    exec (.wiAbort c) s = .next (setCore s c { getCore s c with abQ := r, abHeld := (getCore s c).abHeld ++ [t] }) := by
  change execWiAbort c s = _
  rcases h with hw | ⟨hr, hs⟩
  · simp [execWiAbort, hq, hw]
  · simp [execWiAbort, hq, hr, hs]

/-- One that comes to a running core at U is taken (R127). -/
theorem exec_wiAbort_taken {t : Word} {r : List Word} (hq : (getCore s c).abQ = t :: r) (hrun : (getCore s c).run = .running)
    (hu : (getCore s c).pl = 0) : exec (.wiAbort c) s = .next (takeAbort (setCore s c { getCore s c with abQ := r }) c t (getCore s c).pc) := by
  change execWiAbort c s = _
  simp [execWiAbort, hq, hrun, hu]

theorem exec_storeErrorAsync {a : Word} {r : List Word} (hq : (getCore s c).fabQ = a :: r) :
    exec (.storeErrorAsync c) s =
      .next (setIp (setCore s c { getCore s c with fabQ := r, faberr := a, fabCnt := (getCore s c).fabCnt + 1 }) c 5) := by
  change execStoreErrorAsync c s = _
  simp [execStoreErrorAsync, hq]

theorem exec_timerCompare (hen : (getCore s c).tcmpEn = true) (hd : 0 < int32 (getCore s c).tcmp (nsCounter s)) :
    exec (.timerCompare c) s = .next (signalCore { s with now := s.now + (int32 (getCore s c).tcmp (nsCounter s)).toNat } c) := by
  change execTimerCompare c s = _
  simp [execTimerCompare, hen, hd]

/-- ERET with no held abort (R125). -/
theorem exec_eret {u : State} (hf : FetchesOffEnd s c u) (hs : (getCore u c).pl ≠ 0) (hab : (getCore u c).abHeld = []) :
    exec (.eret c 0 0 0) s = .next (goTo (setCore u c (trapReturn (getCore u c))) c (trapReturn (getCore u c)).pc) :=
  congrArg Host.Outcome.next (instr_jump hf.1 rfl (by simpa using hs) hf.2 (by simp only [hab]))

end

theorem boundaryEvents : Parts.BoundaryEvents := by
  intro c s x
  refine ⟨fun u hf hs hab => ?_, fun hrun hdue hab => ?_, fun t r hq hrun hu => exec_wiAbort_taken hq hrun hu,
    fun t r hq h => exec_wiAbort_held hq h, fun a r hq => exec_storeErrorAsync hq, fun hen hd => exec_timerCompare hen hd⟩
  · exact (exec_eret hf hs hab).trans (congrArg Host.Outcome.next (goTo_setCore _ _ _ _))
  · rw [Gives, exec_interruptTake hrun hdue hab, updCore, getCore_withdrawRlock, takeTrap, causeWord_interrupt]

/-- Settles O22: each trap is `takeException` of its instruction, at EXL = 0 an entry and at EXL = 1 a stop; each event is the case of its own row. -/
theorem trapsAndBoundaryEvents : Obligations.TrapsAndBoundaryEvents := ⟨instructionTraps, privilegedInstructionsTrapAtU, boundaryEvents⟩

end Sys2Proof.Machine
end

section
/-!
SUPPORT. System registers, barriers, cache and translation maintenance, and WAIT (05_harzar_base R118, R122, R123, R130 to R136).
-/
namespace Sys2Proof.Machine

/-! ### System registers (R122, R123) -/

/-- Reading a register other than HZ_CYCLE changes nothing. -/
theorem srRead_state {n : Nat} (h : n ≠ 0x011) (s : State) (c : Nat) : (srRead s c n).2 = s := by
  unfold srRead
  split
  case h_14 => exact absurd rfl h
  all_goals rfl

/-- HZ_CYCLE reads as its latest value and a free number of cycles more. -/
theorem srRead_cycle {n : Nat} (h : n = 0x011) (s : State) (c : Nat) :
    ∃ k, (srRead s c n).1 = BitVec.ofNat 64 ((getCore s c).cycle + k) ∧
      getCore (srRead s c n).2 c = { getCore s c with cycle := (getCore s c).cycle + k } := by
  subst h
  exact ⟨(takeFree s 64).1, rfl, getCore_updCore_same _ _ _⟩

/-- A register is in reach above U, and at U where it is open to U. -/
theorem not_privileged {l : Nat} {p : Bool} (h : l ≠ 0 ∨ p = true) : (!p && l == 0) = false := by
  rcases h with h | h <;> simp [h]

section
variable {s u : State} {c sub : Nat} {rd rs1 : BitVec 5} {imm : BitVec 10} {fields wr : Bool} {f : Word → Word → Word}

/-- A system-register instruction that only reads: the value reaches rd. -/
theorem srInstr_read (h : FetchesOffEnd s c u) (hfields : fields = true) (hwr : wr = false) (hk : srKnown c imm.toNat = true)
    (hu : (getCore u c).pl ≠ 0 ∨ srUserRead imm.toNat = true) :
    srInstr s c rd rs1 imm sub fields wr f =
      retire (updCore (srRead u c imm.toNat).2 c fun x => gWrite x rd.toNat (srRead u c imm.toNat).1) c (getCore u c).pc := by
  subst hwr
  unfold srInstr
  exact instr_ok h.1 (by simp [hfields, hk]) (not_privileged hu) h.2 rfl

/-- One that writes as well, to a register other than HZ_CYCLE, whose read changes nothing. -/
theorem srInstr_write (h : FetchesOffEnd s c u) (hfields : fields = true) (hwr : wr = true) (hk : srKnown c imm.toNat = true)
    (hu : (getCore u c).pl ≠ 0 ∨ srUserWrite imm.toNat = true) (hro : srReadOnly imm.toNat = false) (hn : imm.toNat ≠ 0x011) :
    srInstr s c rd rs1 imm sub fields wr f = retire (setCore u c (gWrite (srWrite (getCore u c) c imm.toNat
      (f (srRead u c imm.toNat).1 (gRead (getCore u c) rs1.toNat))) rd.toNat (srRead u c imm.toNat).1)) c (getCore u c).pc := by
  subst hwr
  unfold srInstr
  refine instr_ok h.1 (by simp [hfields, hk, hro]) (not_privileged hu) h.2 ?_
  simp only [srRead_state hn, if_true]
  exact congrArg IRes.ok (updCore_setCore_same _ _ _ _)

end

theorem systemRegisterInstructions : Parts.SystemRegisterInstructions := by
  intro c rd rs1 imm s u hf x n old a v hk
  have hread {sub : Nat} {f : Word → Word → Word} (hu : x.pl ≠ 0 ∨ srUserRead n = true) :
      srInstr s c rd 0 imm sub true false f = retire (setCore v c (gWrite (getCore v c) rd.toNat old)) c x.pc :=
    srInstr_read hf rfl rfl hk hu
  have hwrite {sub : Nat} {f : Word → Word → Word} {wr : Bool} (hn : n ≠ 0x011) (hwr : wr = true)
      (hu : x.pl ≠ 0 ∨ srUserWrite n = true) (hro : srReadOnly n = false) :
      srInstr s c rd rs1 imm sub true wr f =
        retire (setCore u c (gWrite (srWrite x c n (f old a)) rd.toNat old)) c x.pc :=
    srInstr_write hf rfl hwr hk hu hro hn
  refine ⟨fun hn => ⟨?_, srRead_cycle hn u c⟩, fun hn => ?_⟩
  · have hu : x.pl ≠ 0 ∨ srUserRead n = true := .inr (by rw [hn]; rfl)
    simp only [List.forall_mem_cons]
    exact ⟨congrArg Host.Outcome.next (hread hu), congrArg Host.Outcome.next (hread hu), congrArg Host.Outcome.next (hread hu), List.forall_mem_nil _⟩
  · have hv : v = u := srRead_state hn u c
    rw [hv] at hread
    exact ⟨fun hu => congrArg Host.Outcome.next (hread hu),
      fun hu hro => ⟨congrArg Host.Outcome.next (hwrite hn rfl hu hro),
        fun hrs => congrArg Host.Outcome.next (hwrite hn (bne_iff_ne.2 hrs) hu hro),
        fun hrs => congrArg Host.Outcome.next (hwrite hn (bne_iff_ne.2 hrs) hu hro)⟩,
      fun hu => ⟨congrArg Host.Outcome.next (hread hu), congrArg Host.Outcome.next (hread hu)⟩⟩

/-! ### Barriers and maintenance (R118, R130, R133, R135) -/

/-- A cache-line operation whose address is cacheable acts on its line. -/
theorem lineOp_of_cacheable {u v : State} {c pa : Nat} {rs1 : BitVec 5} (f : State → Nat → State)
    (h : cacheable u c (gRead (getCore u c) rs1.toNat) = (some pa, v)) : lineOp u c rs1 f = .ok (f v pa) := by
  simp only [lineOp, h]

theorem barriersAndMaintenance : Parts.BarriersAndMaintenance := by
  rintro c rd rs1 s u ⟨hf, hend⟩ x
  have hprev : x.pl ≠ 0 → (true && (getCore u c).pl == 0) = false := fun h => by simpa using h
  refine ⟨fun m hm h1 h2 => ?_, ?_, fun hc pa v hpa => ⟨?_, fun hs => ?_, ?_⟩, fun hc hs => ?_, fun n hs hn ho hp => ?_⟩
  · exact congrArg Host.Outcome.next (instr_ok hf (by simp [h1, h2, hm]) rfl hend rfl)
  · exact congrArg Host.Outcome.next (instr_ok hf rfl rfl hend rfl)
  · exact congrArg Host.Outcome.next (instr_ok hf (by simp [hc]) rfl hend (lineOp_of_cacheable _ hpa))
  · exact congrArg Host.Outcome.next (instr_ok hf (by simp [hc]) (hprev hs) hend (lineOp_of_cacheable _ hpa))
  · exact congrArg Host.Outcome.next (instr_ok hf (by simp [hc]) rfl hend (lineOp_of_cacheable _ hpa))
  · exact congrArg Host.Outcome.next (instr_ok hf (by simp [hc]) (hprev hs) hend rfl)
  · have hown : (coreOwner u c).isSome = true := hp ▸ ho
    exact congrArg Host.Outcome.next (instr_ok hf rfl (hprev hs) hend (by simp [hn, hp, hown, x]))

/-! ### WAIT (R136) -/

section
variable {s : State} {c : Nat}

theorem waitBody_of_wakeCond (h : wakeCond s c = true) :
    waitBody s c = .ok (setCore s c { getCore s c with waitResult := 1, waitRefuser := 0 }) :=
  if_pos h

theorem waitBody_unvoted (h : wakeCond s c = false) (hm : (getCore s c).waitMode = 0 ∨ isChisel c = false) :
    waitBody s c = .stall (setCore s c { getCore s c with run := .waiting, voting := false, waitDone := none }) := by
  simp [waitBody, h, hm]

theorem waitBody_holding_lock (h : wakeCond s c = false) (hm : (getCore s c).waitMode ≠ 0) (hc : isChisel c = true)
    (hl : holdsLock s c = true) :
    waitBody s c = .ok (setCore s c { getCore s c with waitResult := 3, waitRefuser := 5 }) := by
  simp [waitBody, h, hm, hc, hl]

theorem waitBody_voting (h : wakeCond s c = false) (hm : (getCore s c).waitMode ≠ 0) (hc : isChisel c = true)
    (hl : holdsLock s c = false) :
    waitBody s c = .stall (checkVotes (setCore s c { getCore s c with run := .waiting, voting := true, waitDone := none }) c) := by
  simp [waitBody, h, hm, hc, hl]

end

/-- A waiting core's WAIT completes with its domain's outcome, -/
theorem exec_waitComplete_done {c : Fin 112} {s : State} {r f : Nat} (hw : (getCore s c).run = .waiting)
    (hd : (getCore s c).waitDone = some (r, f)) :
    exec (.waitComplete c) s = .next (completeWait s c r f) := by
  change execWaitComplete c s = _
  simp [execWaitComplete, hw, hd]

/-- or, without one, on a wake condition in a domain that is awake. -/
theorem exec_waitComplete_woken {c : Fin 112} {s : State} (hw : (getCore s c).run = .waiting)
    (hd : (getCore s c).waitDone = none) (hwake : wakeCond s c = true) (hawake : ∀ d, coreDom c = some d → (getDom s d).state = .awake) :
    exec (.waitComplete c) s = .next (completeWait s c 0 0) := by
  change execWaitComplete c s = _
  cases hdom : coreDom c with
  | none => simp [execWaitComplete, hw, hd, hwake, hdom]
  | some d => simp [execWaitComplete, hw, hd, hwake, hdom, hawake d hdom]

theorem waitWaitsVotesAndCompletes : Parts.WaitWaitsVotesAndCompletes := by
  refine fun c s => ⟨?_, ?_⟩
  · rintro u ⟨hf, hend⟩ hs x
    have hprev : (true && (getCore u c).pl == 0) = false := by simpa using hs
    exact ⟨fun h => congrArg Host.Outcome.next (instr_ok hf rfl hprev hend (waitBody_of_wakeCond h)),
      fun h hm => congrArg Host.Outcome.next (instr_stall hf rfl hprev hend (waitBody_unvoted h hm)),
      fun h hm hc hl => congrArg Host.Outcome.next (instr_ok hf rfl hprev hend (waitBody_holding_lock h hm hc hl)),
      fun h hm hc hl => congrArg Host.Outcome.next (instr_stall hf rfl hprev hend (waitBody_voting h hm hc hl))⟩
  · intro x fin hw
    exact ⟨fun r f hd => exec_waitComplete_done hw hd, fun hd hwake hawake => exec_waitComplete_woken hw hd hwake hawake⟩

/-- Settles O23: a system-register instruction reads or writes its one register; a WAIT takes the branch of its body that its conditions name. -/
theorem systemInstructions : Obligations.SystemInstructions :=
  ⟨systemRegisterInstructions, barriersAndMaintenance, waitWaitsVotesAndCompletes⟩

end Sys2Proof.Machine
end

section
/-!
SUPPORT. One vector instruction of a core (06_vectors R138, R144, R153): what it leaves when its body completes, raises an exception or does
not run at all, and what a register packed from elements reads back.
-/
namespace Sys2Proof.Machine

/-! ### The ways a vector instruction ends (R144, R153) -/

section
variable {s u v : State} {c word : Nat} {long legal rounds : Bool} {types : Option (List Nat)} {k : VKind} {body : State → Core → IRes}

/-- R144 lets it run, and its body completes. -/
theorem vinstr_ok (h : VFetches s c u long types rounds k) (hl : legal = true) (hb : body u (getCore u c) = .ok v) :
    vinstr s c word long legal types rounds k body = vRetire v c (getCore u c).pc := by
  obtain ⟨hf, hclass, hvcfg⟩ := h
  exact instr_ok hf (by simp [hl, hclass]) rfl rfl (by simp [hvcfg, hb])

/-- R144 lets it run, and its body raises an exception. -/
theorem vinstr_trap {code sub : Nat} {tval : Word} (h : VFetches s c u long types rounds k) (hl : legal = true)
    (hb : body u (getCore u c) = .trap v code sub tval) :
    vinstr s c word long legal types rounds k body = takeException v c code sub tval := by
  obtain ⟨hf, hclass, hvcfg⟩ := h
  exact instr_trap hf (by simp [hl, hclass]) rfl rfl (by simp [hvcfg, hb])

/-- R144 does not let it run. -/
theorem vinstr_vcfgFault (hf : Fetches s c u) (hclass : (long && !isChisel c) = false) (hl : legal = true)
    (hvcfg : vcfgOk (getCore u c) c long types rounds k = false) :
    vinstr s c word long legal types rounds k body = takeException u c 0x10 0 (BitVec.ofNat 64 word) :=
  instr_trap hf (by simp [hl, hclass]) rfl rfl (by simp [hvcfg])

end

/-! ### v registers (R138) -/

@[simp] theorem vRead_vWrite_same (x : Core) (i : Nat) (v : BitVec 2048) : vRead (vWrite x i v) i = v := tget_tset_same _ _ _ _

theorem vRead_vWrite_ne {i j : Nat} (x : Core) (v : BitVec 2048) (h : j ≠ i) : vRead (vWrite x i v) j = vRead x j := tget_tset_ne _ _ _ h

/-! ### Elements in a row (R138, R141) -/

theorem upFrom_eq_range' (a n : Nat) : upFrom a n = List.range' a n := by
  induction n generalizing a with
  | zero => rfl
  | succ n ih => rw [upFrom, ih, List.range'_succ]

theorem packEls_lt (w : Nat) (es : List Nat) : packEls w es < 2 ^ (es.length * w) := by
  induction es with
  | nil => simp [packEls]
  | cons e r ih =>
    have he : e % 2 ^ w < 2 ^ w := Nat.mod_lt _ (Nat.two_pow_pos w)
    calc packEls w (e :: r) = e % 2 ^ w + 2 ^ w * packEls w r := rfl
      _ < 2 ^ w * (packEls w r + 1) := by rw [Nat.mul_succ]; omega
      _ ≤ 2 ^ w * 2 ^ (r.length * w) := Nat.mul_le_mul_left _ ih
      _ = 2 ^ ((e :: r).length * w) := by rw [← Nat.pow_add, List.length_cons, Nat.succ_mul, Nat.add_comm]

@[simp] theorem elem_mod (v w i : Nat) : elem v w i % 2 ^ w = elem v w i := Nat.mod_mod _ _

theorem elem_zero (v w : Nat) : elem v w 0 = v % 2 ^ w := by simp [elem, fld]

theorem elem_succ (v w i : Nat) : elem v w (i + 1) = elem (v / 2 ^ w) w i := by
  rw [elem, elem, fld, fld, Nat.div_div_eq_div_mul, ← Nat.pow_add, Nat.succ_mul, Nat.add_comm]

theorem elem_packEls (w : Nat) (es : List Nat) (i : Nat) : elem (packEls w es) w i = es.getD i 0 % 2 ^ w := by
  induction es generalizing i with
  | nil => simp [packEls, elem, fld]
  | cons e r ih =>
    have hpack : packEls w (e :: r) = e % 2 ^ w + 2 ^ w * packEls w r := rfl
    cases i with
    | zero => rw [elem_zero, hpack, Nat.add_mul_mod_self_left, Nat.mod_mod, List.getD_cons_zero]
    | succ i =>
      rw [elem_succ, hpack, Nat.add_mul_div_left _ _ (Nat.two_pow_pos w), Nat.div_eq_of_lt (Nat.mod_lt _ (Nat.two_pow_pos w)),
        Nat.zero_add, ih, List.getD_cons_succ]

/-- What stands from element `n` on does not reach an element below it. -/
theorem elem_mul_add {w n i : Nat} (q v : Nat) (h : i < n) : elem (q * 2 ^ (n * w) + v) w i = elem v w i := by
  obtain ⟨d, hd⟩ := Nat.exists_eq_add_of_lt h
  have hsplit : q * 2 ^ (n * w) = q * 2 ^ (d * w) * 2 ^ w * 2 ^ (i * w) := by rw [hd]; ring
  rw [elem, elem, fld, fld, hsplit, Nat.add_comm, Nat.add_mul_div_right _ _ (Nat.two_pow_pos _), Nat.add_mul_mod_self_right]

section
variable (old w n : Nat) (act : Nat → Bool) (f : Nat → Nat)

/-- The elements that replace those of a register. -/
theorem packEls_map_upFrom_lt (g : Nat → Nat) : packEls w ((upFrom 0 n).map g) < 2 ^ (n * w) := by
  simpa [upFrom_length] using packEls_lt w ((upFrom 0 n).map g)

theorem elem_mapEls {i : Nat} (h : i < n) : elem (mapEls old w n act f) w i = if act i = true then f i % 2 ^ w else elem old w i := by
  rw [mapEls, elem_mul_add _ _ h, elem_packEls, upFrom_eq_range']
  by_cases ha : act i = true <;> simp [h, ha]

theorem mapEls_div : mapEls old w n act f / 2 ^ (n * w) = old / 2 ^ (n * w) := by
  rw [mapEls, Nat.add_comm, Nat.add_mul_div_right _ _ (Nat.two_pow_pos _), Nat.div_eq_of_lt (packEls_map_upFrom_lt w n _), Nat.zero_add]

variable {w n}

/-- Of elements that fit in a register nothing is cut off. -/
theorem toNat_ofNat_mapEls {m : Nat} (v : BitVec m) (hn : n * w ≤ m) :
    (BitVec.ofNat m (mapEls v.toNat w n act f)).toNat = mapEls v.toNat w n act f := by
  have hm : 2 ^ m = 2 ^ (m - n * w) * 2 ^ (n * w) := by rw [← Nat.pow_add, Nat.sub_add_cancel hn]
  have hdiv : v.toNat / 2 ^ (n * w) < 2 ^ (m - n * w) := (Nat.div_lt_iff_lt_mul (Nat.two_pow_pos _)).2 (hm ▸ v.isLt)
  rw [← mapEls_div v.toNat w n act f, Nat.div_lt_iff_lt_mul (Nat.two_pow_pos _), ← hm] at hdiv
  rw [BitVec.toNat_ofNat, Nat.mod_eq_of_lt hdiv]

end

end Sys2Proof.Machine
end

section
/-!
SUPPORT. Element-wise instructions (06_vectors R145, R146, R149, R159, R160, R162, R165): each completes with its operation on the active
elements, and what that leaves.
-/
namespace Sys2Proof.Machine

theorem elementwiseInstructions : Parts.ElementwiseInstructions := by
  intro c long vd vs1 vs2 pg s u x w n a b put
  refine ⟨fun f hf hun h => ?_, fun f hf hun hlo h => ?_, fun hacc hvs2 h => ?_, fun h => ?_, fun h hvs2 => ?_, fun h hvs2 => ⟨?_, ?_⟩, fun h => ?_⟩
  · exact congrArg Host.Outcome.next (vinstr_ok h (by simpa [hf] using hun) rfl)
  · have hnarrow : ¬ 0x10 ≤ f.toNat := Nat.not_le.2 hlo
    exact congrArg Host.Outcome.next (vinstr_ok h (by simpa [hf, hnarrow] using hun) (if_neg hnarrow))
  · exact congrArg Host.Outcome.next (vinstr_ok h (by simp [hacc, hvs2]) rfl)
  · exact congrArg Host.Outcome.next (vinstr_ok h rfl rfl)
  · exact congrArg Host.Outcome.next (vinstr_ok h (by simp [hvs2]) rfl)
  · exact congrArg Host.Outcome.next (vinstr_ok h (by simp [hvs2]) rfl)
  · exact congrArg Host.Outcome.next (vinstr_ok h (by simp [hvs2]) rfl)
  · exact congrArg Host.Outcome.next (vinstr_ok h rfl rfl)

/-! ### What an element-wise result leaves (R138, R141, R145) -/

section
variable (s : State) (c vd : Nat) (x : Core) (pg w n : Nat) (f : Nat → Nat × Bool)

theorem getCore_elemwise : getCore (elemwise s c vd x pg w n f) c =
    { vWrite (getCore s c) vd (BitVec.ofNat 2048 (mapEls (vRead x vd).toNat w n (active x pg w) fun i => (f i).1)) with
      sat := (getCore s c).sat || (upFrom 0 n).any fun i => active x pg w i && (f i).2 } :=
  getCore_updCore_same _ _ _

variable {w n}

theorem toNat_vRead_elemwise (hn : n * w ≤ 2048) : (vRead (getCore (elemwise s c vd x pg w n f) c) vd).toNat =
    mapEls (vRead x vd).toNat w n (active x pg w) fun i => (f i).1 := by
  have hread : vRead (getCore (elemwise s c vd x pg w n f) c) vd =
      BitVec.ofNat 2048 (mapEls (vRead x vd).toNat w n (active x pg w) fun i => (f i).1) := by
    rw [getCore_elemwise]; exact vRead_vWrite_same _ _ _
  rw [hread, toNat_ofNat_mapEls _ _ _ hn]

end

theorem elementwiseWritesActiveElementsOnly : Parts.ElementwiseWritesActiveElementsOnly := by
  intro s c vd pg w n f hw hn x t r old
  have hcore := getCore_elemwise s c vd x pg w n f
  have hr : r = mapEls old w n (active x pg w) fun i => (f i).1 := toNat_vRead_elemwise s c vd x pg f hn
  refine ⟨fun i hi => ?_, ?_, ?_, fun k hk => ?_, fun k => ?_, fun k hk => getCore_updCore_ne s _ hk, rfl⟩
  · rw [hr]; exact elem_mapEls _ _ _ _ _ hi
  · rw [hr]; exact mapEls_div _ _ _ _ _
  · simp [t, x, hcore, mem_upFrom]
  · rw [hcore]; exact vRead_vWrite_ne _ _ hk
  · rw [hcore]; exact ⟨rfl, rfl⟩

/-- Settles O24: each instruction's body is one `elemwise`, whose packed register reads back, element by element, as the result or as before. -/
theorem elementwiseVectors : Obligations.ElementwiseVectors := ⟨elementwiseInstructions, elementwiseWritesActiveElementsOnly⟩

end Sys2Proof.Machine
end

section
/-!
SUPPORT. Accumulators, predicates, counts and reductions (06_vectors R141, R147, R148, R152, R160 to R162, R165).
-/
namespace Sys2Proof.Machine

theorem accumulatorInstructions : Parts.AccumulatorInstructions := by
  intro c long vd vs1 vs2 pg s u hacc x w n a b l put
  refine ⟨fun hvs2 h => ?_, fun k h => ?_, fun f hf hwide h => ?_⟩
  · exact congrArg Host.Outcome.next (vinstr_ok h (by simp [hacc, hvs2]) rfl)
  · exact congrArg Host.Outcome.next (vinstr_ok h hacc rfl)
  · obtain ⟨hvd, hc⟩ : vd.toNat < 8 ∧ isChisel c = true := by simpa [accOk] using hacc
    have hrounds : (f.toNat == 0x01 || f.toNat == 0x02 || f.toNat == 0x03) = false := by simp; omega
    have hne : f.toNat ≠ 4 := by omega
    exact congrArg Host.Outcome.next (vinstr_ok (hrounds ▸ h) (by simp [hf, hne, hvd, hc]) (if_pos hwide))

theorem predicatesCountsAndReductions : Parts.PredicatesCountsAndReductions := by
  intro c long vd vs1 vs2 pg s u x w n bits a b fin
  refine ⟨fun k hvd h => ?_, fun hvd h => ?_, fun k hvd hvs1 hvs2 h => ?_, fun hvd hffr h => ?_, fun h => ⟨?_, ?_, ?_⟩, fun hvs1 h => ?_,
    fun k h => ?_, fun h => ?_⟩
  · refine congrArg Host.Outcome.next (vinstr_ok h hvd ?_)
    fin_cases k <;> rfl
  · exact congrArg Host.Outcome.next (vinstr_ok h (by simp [hvd]) rfl)
  · refine congrArg Host.Outcome.next (vinstr_ok h (by simp [hvd, hvs1, hvs2]) ?_)
    fin_cases k <;> rfl
  · have hno : ¬ (x.et = 0 ∧ x.ffr % 2 = 1) := by omega
    refine congrArg Host.Outcome.next (vinstr_ok h (by simp [hvd]) ?_)
    rw [if_neg hno]
    rfl
  · exact congrArg Host.Outcome.next (vinstr_ok h rfl rfl)
  · exact congrArg Host.Outcome.next (vinstr_ok h rfl rfl)
  · exact congrArg Host.Outcome.next (vinstr_ok h rfl rfl)
  · exact congrArg Host.Outcome.next (vinstr_ok h (by simp [hvs1]) rfl)
  · refine congrArg Host.Outcome.next (vinstr_ok h rfl ?_)
    fin_cases k <;> rfl
  · exact congrArg Host.Outcome.next (vinstr_ok h rfl rfl)

/-- Settles O25: the body of each writes one accumulator, predicate, g register or FFR; where FFR is even, or no element is of 4 bits, VFFMASK draws no free value. -/
theorem accumulatorsPredicatesAndReductions : Obligations.AccumulatorsPredicatesAndReductions :=
  ⟨accumulatorInstructions, predicatesCountsAndReductions⟩

end Sys2Proof.Machine
end

section
/-!
SUPPORT. Vector loads and stores, and the checks of VCFG and VSTART (06_vectors R144, R150 to R155, R163, R164).
-/
namespace Sys2Proof.Machine

/-! ### How the accesses of an instruction end (R153, R155) -/

section
variable {s v : State} {c vd r : Nat} {x : Core} {put : Nat → Nat → List Byte → Nat}

theorem loadBody_of_runLoads {es : List ElLoad} (h : runLoads s c put (vRead x vd).toNat es = (r, none, v)) :
    loadBody s c vd x put es = .ok (putV v c vd r false) := by simp only [loadBody, h]

theorem storeBody_ok {es : List ElStore} (h : (if x.compat then storeAll s c es else runStores s c es) = (none, v)) :
    storeBody s c x es = .ok v := by simp only [storeBody, h]

/-- In native mode the fault of an element leaves VSTART at it. -/
theorem storeBody_fault {es : List ElStore} {i code sub : Nat} {t : Word} (hc : x.compat = false)
    (h : runStores s c es = (some (i, code, sub, t), v)) :
    storeBody s c x es = .trap (updCore v c fun y => { y with vstart := i }) code sub t := by
  simp [storeBody, resumeAt, hc, h]

theorem storeWhole_ok {es : List ElStore} (h : storeAll s c es = (none, v)) : storeWhole s c es = .ok v := by
  simp only [storeWhole, h]

end

/-! ### Loads (R150 to R155, R163, R164) -/

theorem vectorLoads : Parts.VectorLoads := by
  intro c long vd vs1 vs2 pg s u v r
  dsimp only
  refine ⟨fun form hform h hrun => ?_, fun form hform h => ?_, fun h hrun => ?_, fun h => ⟨fun hrun => ?_, fun hvd hrun => ?_⟩⟩
  · exact congrArg Host.Outcome.next (vinstr_ok h (by simpa using hform) (loadBody_of_runLoads hrun))
  · have hlegal : ((if form.val = 0 then 0 else form.val + 1) != 0 || vs2 == 0) = true := by
      rcases hform with hne | hvs2
      · simp [hne]
      · simp [hvs2]
    refine ⟨fun hrun => ?_, fun i code sub t hrun hfirst => ?_⟩
    · exact congrArg Host.Outcome.next (vinstr_ok h hlegal (by simp only [hrun]))
    · exact congrArg Host.Outcome.next (vinstr_ok h hlegal (by simp only [hrun, if_neg hfirst]))
  · exact congrArg Host.Outcome.next (vinstr_ok h rfl (loadBody_of_runLoads hrun))
  · exact congrArg Host.Outcome.next (vinstr_ok h rfl (by simp only [hrun]))
  · exact congrArg Host.Outcome.next (vinstr_ok h (by simp [hvd]) (by simp only [hrun]))

/-! ### Stores (R150 to R155, R164) -/

theorem vectorStores : Parts.VectorStores := by
  intro c long vd vs1 vs2 pg s u v x w n d els
  refine ⟨fun form hform h => ?_, fun h hrun => ?_, fun h => ⟨fun hrun => ?_, fun hvd hrun => ?_⟩⟩
  · have hlegal : (form.val != 0 || vs2 == 0) = true := by simpa using hform
    exact ⟨fun hrun => congrArg Host.Outcome.next (vinstr_ok h hlegal (storeBody_ok hrun)),
      fun i code sub t hc hrun => congrArg Host.Outcome.next (vinstr_trap h hlegal (storeBody_fault hc hrun))⟩
  · exact congrArg Host.Outcome.next (vinstr_ok h rfl (storeBody_ok hrun))
  · exact congrArg Host.Outcome.next (vinstr_ok h rfl (storeWhole_ok hrun))
  · exact congrArg Host.Outcome.next (vinstr_ok h (by simp [hvd]) (storeWhole_ok hrun))

/-! ### VCFG_FAULT (R144) -/

theorem vcfgOk_plain_of_vstart_ne {x : Core} (h : x.vstart ≠ 0) (c : Nat) (long : Bool) (types : Option (List Nat)) (rounds : Bool) :
    vcfgOk x c long types rounds .plain = false := by simp [vcfgOk, h]

theorem vcfgOk_of_not_mem {x : Core} {ts : List Nat} (h : ¬ x.et ∈ ts) (c : Nat) (long rounds : Bool) (k : VKind) :
    vcfgOk x c long (some ts) rounds k = false := by simp [vcfgOk, h]

theorem vcfgFaults : Parts.VcfgFaults := by
  intro c long vd vs1 vs2 pg s u hf hclass hexl x fault
  have hfault : ∀ word, takeException u c 0x10 0 (BitVec.ofNat 64 word) = fault word := fun word => takeException_of_exl_false _ _ hexl
  refine ⟨fun h => ?_, fun h => ?_⟩
  · have hvcfg : vcfgOk x c long (some (tI ++ tC)) false .plain = false := by
      rcases h with het | hvs
      · exact vcfgOk_of_not_mem het _ _ _ _
      · exact vcfgOk_plain_of_vstart_ne hvs _ _ _ _
    exact congrArg Host.Outcome.next ((vinstr_vcfgFault hf hclass rfl hvcfg).trans (hfault _))
  · exact congrArg Host.Outcome.next ((vinstr_vcfgFault hf hclass rfl (vcfgOk_plain_of_vstart_ne h _ _ _ _)).trans (hfault _))

/-- Settles O26: an instruction's body ends as the run of its accesses does; outside VCFG and VSTART it ends before its body. -/
theorem vectorMemoryAndVcfg : Obligations.VectorMemoryAndVcfg := ⟨vectorLoads, vectorStores, vcfgFaults⟩

end Sys2Proof.Machine
end

section
/-!
SUPPORT. Circular buffers, block repeats and accumulator moves of a Chisel core (07_dsp_addressing_and_rasp R166 to R176).
-/
namespace Sys2Proof.Machine

/-! ### Circular buffers (R166 to R169) -/

/-- Without a length there is nothing to fold into (R167). -/
theorem cbFold_of_len_zero {b : Cb} (p d : Word) (h : b.len = 0) : cbFold b p d = p + d := if_pos h

theorem cbFold_of_len_ne_zero {b : Cb} (p d : Word) (h : b.len ≠ 0) :
    cbFold b p d = b.base + BitVec.ofInt 64 ((p - b.base + d).toInt % (b.len : Int)) := if_neg h

/-- Settles O27: each command's body completes with its one write; CBINC's is the case of the fold that LEN selects. -/
theorem circularBuffers : Obligations.CircularBuffers := by
  intro c rd rs1 rs2 n s u hf hc
  dsimp only
  have hcbinc : exec (.cbinc c rd rs1 rs2 0 n) s = .next (retire (setCore u c (gWrite (getCore u c) rd.toNat
      (cbFold (getCb (getCore u c) n.val) (gRead (getCore u c) rs1.toNat) (gRead (getCore u c) rs2.toNat)))) c (getCore u c).pc) :=
    congrArg Host.Outcome.next (instr_ok hf (by simp [hc]) rfl rfl rfl)
  refine ⟨?_, ?_, ?_, ?_, fun hlen => ?_, fun hlen => ?_, fun step => ?_, fun long pg r v h hrun => ?_, fun long pg v h hrun => ?_⟩
  · exact congrArg Host.Outcome.next (instr_ok hf (by simp [hc]) rfl rfl rfl)
  · exact congrArg Host.Outcome.next (instr_ok hf (by simp [hc]) rfl rfl rfl)
  · exact congrArg Host.Outcome.next (instr_ok hf (by simp [hc]) rfl rfl rfl)
  · exact congrArg Host.Outcome.next (instr_ok hf (by simp [hc]) rfl rfl rfl)
  · rw [← cbFold_of_len_ne_zero _ _ hlen]; exact hcbinc
  · rw [← cbFold_of_len_zero _ _ hlen]; exact hcbinc
  · exact congrArg Host.Outcome.next (instr_ok hf hc rfl rfl rfl)
  · exact congrArg Host.Outcome.next (vinstr_ok h (by simp [hc]) (by simp only [hrun]))
  · exact congrArg Host.Outcome.next (vinstr_ok h (by simp [hc]) (storeWhole_ok hrun))

/-! ### Block repeats (R170 to R173) -/

section
variable {l : Tab Lp} {pc : Word} {n : Nat}

/-- The loop-end test, case by case (R170). -/
theorem loopEnd_succ_of_inactive (h : (tget l {} n).act = false) : loopEnd l pc (n + 1) = loopEnd l pc n := by
  simp only [loopEnd, h, Bool.not_false, if_true]

theorem loopEnd_succ_repeats (h : (tget l {} n).act = true) (hstop : (tget l {} n).stop = pc) (hcnt : 1 < (tget l {} n).cnt) :
    loopEnd l pc (n + 1) = (tset l n { tget l {} n with cnt := (tget l {} n).cnt - 1 }, some ((tget l {} n).start &&& ~~~3)) := by
  simp only [loopEnd, h, hstop, hcnt, Bool.not_true, bne_self_eq_false, Bool.false_eq_true, if_false, if_true]

theorem loopEnd_succ_ends (h : (tget l {} n).act = true) (hstop : (tget l {} n).stop = pc) (hcnt : (tget l {} n).cnt ≤ 1) :
    loopEnd l pc (n + 1) = loopEnd (tset l n { tget l {} n with act := false }) pc n := by
  simp only [loopEnd, h, hstop, Nat.not_lt.2 hcnt, Bool.not_true, bne_self_eq_false, Bool.false_eq_true, if_false]

theorem loopEnd_succ_elsewhere (h : (tget l {} n).act = true) (hstop : (tget l {} n).stop ≠ pc) :
    loopEnd l pc (n + 1) = (l, none) := by
  simp only [loopEnd, h, bne_iff_ne.2 hstop, Bool.not_true, Bool.false_eq_true, if_false, if_true]

/-- An active level with no active one above it is the innermost (R170). -/
theorem innermost_eq_some (hn : n < 4) (h : (tget l {} n).act = true) (habove : ∀ j, j < 4 → n < j → (tget l {} j).act = false) :
    innermost l = some n := by
  interval_cases n <;> simp only [innermost, List.find?_cons, h, habove, Nat.reduceLT]

end

section
variable {l : Tab Lp} {n : Nat} (hn : n < 4) (h : ∀ i, i < 4 → (tget l {} i).act = decide (i < n))
include hn h

/-- Where exactly the levels below `n` are active, LOOP at level `n` finds them and no other, -/
theorem filter_act_of_levels_below : ((upFrom 0 4).filter fun i => (tget l {} i).act) = upFrom 0 n := by
  have hcongr : ((upFrom 0 4).filter fun i => (tget l {} i).act) = (upFrom 0 4).filter fun i => decide (i < n) :=
    List.filter_congr fun i hi => h i (by simpa using (mem_upFrom.1 hi).2)
  rw [hcongr]
  interval_cases n <;> rfl

/-- and the level around it is the one below (R171). -/
theorem innermost_of_levels_below : innermost l = if n = 0 then none else some (n - 1) := by
  split
  case isTrue h0 => simp only [innermost, List.find?_cons, List.find?_nil, h, h0, Nat.reduceLT, Nat.not_lt_zero, decide_false]
  case isFalse h0 =>
    refine innermost_eq_some (by omega) ?_ fun j hj hlt => ?_
    · rw [h _ (by omega), decide_eq_true_iff]; omega
    · rw [h j hj, decide_eq_false_iff_not]; omega

end

section
variable {c : Fin 112} {rd rs1 : BitVec 5} {imm : BitVec 10} {s u : State}

/-- LOOP that nothing forbids (R170, R171), with a count of 0 and with another. -/
theorem loopBody_of_allowed {x : Core} {n len : Nat} {cnt : Word} (hn : n < 4) (hlen : len ≠ 0) (hcnt : cnt.toNat < 2 ^ 32) (hexl : x.exl = false)
    (hact : ∀ i, i < 4 → (tget x.lp {} i).act = decide (i < n))
    (hin : n ≠ 0 → (x.pc + BitVec.ofNat 64 (4 * len)).toNat ≤ (tget x.lp {} (n - 1)).stop.toNat) :
    loopBody x n len cnt =
      if cnt = 0 then some (tset x.lp n { tget x.lp {} n with start := x.pc + 4, stop := x.pc + BitVec.ofNat 64 (4 * len), act := false },
        x.pc + BitVec.ofNat 64 (4 * len) + 4)
      else some (tset x.lp n { start := x.pc + 4, stop := x.pc + BitVec.ofNat 64 (4 * len), cnt := cnt.toNat, act := true }, x.pc + 4) := by
  unfold loopBody
  rw [filter_act_of_levels_below hn hact, innermost_of_levels_below hn hact, decide_eq_false (Nat.not_le.2 hcnt), hexl]
  by_cases h0 : n = 0
  · rw [if_pos h0]
    exact if_neg (by simp [hlen])
  · rw [if_neg h0]
    dsimp only
    rw [decide_eq_true (hin h0)]
    exact if_neg (by simp [hlen])

/-- LOOP goes on where its body says. -/
theorem exec_loop {l : Tab Lp} {t : Word} (hf : FetchesOffEnd s c u) (hc : isChisel c = true) (hn : rd.toNat < 4)
    (h : loopBody (getCore u c) rd.toNat imm.toNat (gRead (getCore u c) rs1.toNat) = some (l, t)) :
    exec (.loop c rd rs1 imm) s =
      .next (setCore u c { getCore u c with lp := l, pc := t, instret := (getCore u c).instret + 1 }) :=
  congrArg Host.Outcome.next (Eq.trans (instr_jump hf.1 (by simp [hc, hn]) rfl hf.2 (by simp only [h]; rfl)) (goTo_setCore _ _ _ _))

/-- LPBRK outside a trap ends the innermost level. -/
theorem exec_lpbrk {n : Nat} (hf : FetchesOffEnd s c u) (hc : isChisel c = true) (hexl : (getCore u c).exl = false)
    (h : innermost (getCore u c).lp = some n) :
    exec (.lpbrk c 0 0 0) s = .next (setCore u c { getCore u c with
      lp := tset (getCore u c).lp n { tget (getCore u c).lp {} n with act := false }
      pc := ((tget (getCore u c).lp {} n).stop + 4) &&& ~~~3, instret := (getCore u c).instret + 1 }) := by
  have hlevel : (if (getCore u c).exl then none else innermost (getCore u c).lp) = some n := by simpa [hexl] using h
  exact congrArg Host.Outcome.next (Eq.trans (instr_jump hf.1 (by simp [hc]) rfl hf.2 (by simp only [hlevel]; rfl)) (goTo_setCore _ _ _ _))

/-- LPWR writes its field after its own loop-end test (R172). -/
theorem exec_lpwr (hf : Fetches s c u) (hl : (isChisel c && decide (rd.toNat < 4) && decide (imm.toNat < 3)) = true) :
    exec (.lpwr c rd rs1 imm) s = .next (
      let x := getCore u c
      let e := if x.exl then (x.lp, none) else loopEnd x.lp x.pc 4
      setCore u c { x with
        lp := tset e.1 rd.toNat (lpWrite (tget e.1 {} rd.toNat) imm.toNat (gRead x rs1.toNat)), pc := e.2.getD (x.pc + 4), instret := x.instret + 1 }) :=
  congrArg Host.Outcome.next (Eq.trans (instr_jump hf hl rfl rfl rfl) (goTo_setCore _ _ _ _))

end

/-- Settles O28: LOOP and LPBRK go on where their body says; LPWR's body contains its loop-end test, whose cases are those of `loopEnd`. -/
theorem blockRepeats : Obligations.BlockRepeats := by
  refine ⟨fun c rd rs1 imm s u hf hc hexl => ?_, fun c rd rs1 s u hf hc hrd => ?_,
    fun l pc n => ⟨rfl, loopEnd_succ_of_inactive, loopEnd_succ_repeats, loopEnd_succ_ends, loopEnd_succ_elsewhere⟩⟩
  · refine ⟨fun hn himm hk hact hin => ?_, fun i hi hact habove => exec_lpbrk hf hc hexl (innermost_eq_some hi hact habove)⟩
    have hbody := loopBody_of_allowed hn (mt (BitVec.toNat_eq (y := 0#10)).2 himm) hk hexl hact hin
    exact ⟨fun hk0 => exec_loop hf hc hn (hbody.trans (if_neg fun h => hk0 (congrArg BitVec.toNat h))),
      fun hk0 => exec_loop hf hc hn (hbody.trans (if_pos (BitVec.eq_of_toNat_eq hk0)))⟩
  · have hlegal : ∀ i < 3, (isChisel c && decide (rd.toNat < 4) && decide (i < 3)) = true := fun i hi => by simp [hc, hrd, hi]
    refine ⟨?_, ?_, ?_, ?_, ?_, ?_⟩
    · exact congrArg Host.Outcome.next (instr_ok hf (hlegal 0 (by decide)) rfl rfl rfl)
    · exact congrArg Host.Outcome.next (instr_ok hf (hlegal 1 (by decide)) rfl rfl rfl)
    · exact congrArg Host.Outcome.next (instr_ok hf (hlegal 2 (by decide)) rfl rfl rfl)
    · exact exec_lpwr hf (hlegal 0 (by decide))
    · exact exec_lpwr hf (hlegal 1 (by decide))
    · exact exec_lpwr hf (hlegal 2 (by decide))

/-! ### Accumulators (R174 to R176) -/

theorem accOk_of_isChisel {c : Nat} {r : BitVec 5} (hc : isChisel c = true) (hr : r.toNat < 8) : accOk c r = true := by
  simp [accOk, hc, hr]

/-- Settles O29: accumulators that a Chisel core has are legal, and each body is one write of lanes, elements or a quarter. -/
theorem accumulatorMoves : Obligations.AccumulatorMoves := by
  intro c long rd rs1 rs2 pg s u hc
  have hacc : ∀ {r : BitVec 5}, r.toNat < 8 → accOk c r = true := accOk_of_isChisel hc
  dsimp only
  refine ⟨fun hrd h => ?_, fun hrd hrs1 h => ?_, fun hrd hrs1 hrs2 h => ?_, fun hrd hrs1 h => ?_, fun hrs1 h => ?_, fun hrs1 hq h => ?_,
    fun hrd hq h => ?_⟩
  · exact congrArg Host.Outcome.next (vinstr_ok h (by simp [hacc hrd]) rfl)
  · exact congrArg Host.Outcome.next (vinstr_ok h (by simp [hacc hrd, hacc hrs1]) rfl)
  · exact congrArg Host.Outcome.next (vinstr_ok h (by simp [hacc hrd, hacc hrs1, hacc hrs2]) rfl)
  · exact congrArg Host.Outcome.next (vinstr_ok h (by simp [hacc hrd, hacc hrs1]) rfl)
  · exact congrArg Host.Outcome.next (vinstr_ok h (hacc hrs1) rfl)
  · exact congrArg Host.Outcome.next (vinstr_ok h (by simp [hacc hrs1, hq]) rfl)
  · exact congrArg Host.Outcome.next (vinstr_ok h (by simp [hacc hrd, hq]) rfl)

end Sys2Proof.Machine
end

section
/-!
SUPPORT. What reading memory leaves alone in every state, hidden upsets or not: the cores and the Rasps (R264 to R266, R275, R277 to R279).
-/
namespace Sys2Proof.Machine

/-- The cores and the Rasps of `s` are those of `A`. -/
def SameCores (A s : State) : Prop := s.cores = A.cores ∧ s.rasps = A.rasps

variable {A s : State}

theorem sameCores_refl (s : State) : SameCores s s := ⟨rfl, rfl⟩

theorem SameCores.getCore (h : SameCores A s) (c : Nat) : getCore s c = getCore A c := congrArg (fun t => tget t ({} : Core) c) h.1

theorem SameCores.getRasp (h : SameCores A s) (cl : Nat) : getRasp s cl = getRasp A cl := congrArg (fun t => tget t ({} : Rasp) cl) h.2

theorem SameCores.away {t : State} (h : SameCores A s) (hw : Away s t) : SameCores A t :=
  ⟨(away_cores hw).trans h.1, (away_rasps hw).trans h.2⟩

theorem sameCores_ite {p : Prop} [Decidable p] {a b : State} (ha : SameCores A a) (hb : SameCores A b) : SameCores A (if p then a else b) := by
  split
  · exact ha
  · exact hb

theorem sameCores_eq2 {α : Type} {r : α × State} {a : α} {t : State} (e : r = (a, t)) (h : SameCores A r.2) : SameCores A t := by
  subst e; exact h

/-! ### LPDDR6 pages -/

theorem sameCores_unstage (ch : Nat) (e : Staged) (h : SameCores A s) : SameCores A (unstage s ch e) :=
  show SameCores A (if e.dirty then encodePage s ch e.page else showFlips s ch e.page) from sameCores_ite h (sameCores_ite h h)

theorem sameCores_stage (ch page : Nat) (dirty : Bool) (h : SameCores A s) : SameCores A (stage s ch page dirty) := by
  unfold stage
  dsimp only
  split
  · exact h
  · split
    · exact sameCores_unstage ch _ h
    · exact h

theorem sameCores_retirePage (ch page : Nat) (h : SameCores A s) : SameCores A (retirePage s ch page) := by
  unfold retirePage
  dsimp only
  split <;> exact h

theorem sameCores_notePage (ch page : Nat) (h : SameCores A s) : SameCores A (notePage s ch page) :=
  sameCores_ite (sameCores_retirePage ch page (sameCores_ite h h)) (sameCores_ite h h)

theorem sameCores_pageUnc (ch page : Nat) (tag : Bool) (h : SameCores A s) : SameCores A (pageUnc s ch page tag) :=
  (show SameCores A (noteUnc (if tag then bump (bump s .memUnc ch) .memTagErr ch else bump s .memUnc ch) ch (pageAddr ch page)) from
    sameCores_ite h h).away (away_raiseHolders _ _ _ _ _ (away_refl _))

theorem sameCores_fetchPage (ch page : Nat) (alloc : Bool) (h : SameCores A s) : SameCores A (fetchPage s ch page alloc).2 := by
  unfold fetchPage
  dsimp only
  split
  · exact sameCores_stage ch page _ h
  · split
    · exact sameCores_ite (sameCores_stage ch page false h) h
    · exact sameCores_notePage ch page (sameCores_stage ch page true h)
    · exact h
    · exact sameCores_pageUnc ch page _ h

/-! ### SRAM words -/

theorem sameCores_repairRow (i w : Nat) (h : SameCores A s) : SameCores A (repairRow s i w) := sameCores_ite h h

theorem sameCores_correctWord (w : Nat) (h : SameCores A s) : SameCores A (correctWord s w) := by
  unfold correctWord
  dsimp only
  exact sameCores_ite (sameCores_repairRow _ w (sameCores_ite h h)) (sameCores_ite h h)

theorem sameCores_wordUnc (w by_ : Nat) (h : SameCores A s) : SameCores A (wordUnc s w by_) :=
  SameCores.away (s := setSr _ _ _) h (away_raiseHolders _ _ _ _ _ (away_refl _))

theorem sameCores_readWords (ws : List Nat) (h : SameCores A s) : SameCores A (readWords s ws).2 := by
  induction ws generalizing s with
  | nil => exact h
  | cons w r ih =>
    unfold readWords
    split
    · exact ih h
    · split
      · exact ih (sameCores_correctWord w h)
      · exact sameCores_wordUnc w _ h

/-! ### Reads (R226, R234) -/

theorem sameCores_noteRefused (a st : Nat) (h : SameCores A s) : SameCores A (noteRefused s a st) := by
  unfold noteRefused
  split
  · exact sameCores_ite h h
  · exact h

theorem sameCores_readPiece (who : Option Nat) (a n : Nat) (h : SameCores A s) : SameCores A (readPiece s who a n).2.2 := by
  unfold readPiece
  dsimp only
  split
  · exact sameCores_noteRefused a _ h
  · split
    · split <;> rename_i e <;> exact sameCores_eq2 e (sameCores_fetchPage _ _ _ h)
    · split <;> rename_i e <;> exact sameCores_eq2 e (sameCores_readWords _ h)

theorem sameCores_readPieces (who : Option Nat) (ps : List (Nat × Nat)) (h : SameCores A s) : SameCores A (readPieces s who ps).2.2 := by
  induction ps generalizing s with
  | nil => exact h
  | cons p r ih =>
    obtain ⟨a, n⟩ := p
    have hpiece := sameCores_readPiece who a n h
    unfold readPieces
    split <;> rename_i e <;> rw [e] at hpiece
    · exact ih hpiece
    · exact hpiece

/-- The fetch of an instruction by a Chisel core leaves every core and every Rasp as it was. -/
theorem sameCores_of_fetches {u : State} {c : Nat} (hc : isChisel c = true) (hf : Fetches s c u) : SameCores s u :=
  fetchCheck_of_isChisel hc hf.2 ▸ sameCores_readPieces _ _ (sameCores_refl s)

end Sys2Proof.Machine
end

section
/-!
SUPPORT. The Rasp's lock and status (07_dsp_addressing_and_rasp R177, R178, R180, R181).
-/
namespace Sys2Proof.Machine

/-! ### What the Rasp's operations leave -/

section
variable (s : State) (cl c : Nat)

@[simp] theorem getRasp_updCore (f : Core → Core) : getRasp (updCore s c f) cl = getRasp s cl := rfl

@[simp] theorem getRasp_retire (pc : Word) : getRasp (retire s c pc) cl = getRasp s cl := rfl

@[simp] theorem getRasp_finishWaiter : getRasp (finishWaiter s c) cl = getRasp s cl := rfl

@[simp] theorem getRasp_clearK (i : Nat) : getRasp (clearK s cl i) cl = getRasp s cl := rfl

@[simp] theorem setRasp_setRasp_same (r r' : Rasp) : setRasp (setRasp s cl r) cl r' = setRasp s cl r' := by simp [setRasp]

theorem setRasp_clearK (i : Nat) (r : Rasp) : setRasp (clearK s cl i) cl r = clearK (setRasp s cl r) cl i := rfl

/-- A core whose wait in the Rasp ends has completed one more instruction. -/
theorem getCore_finishWaiter_instret : (getCore (finishWaiter s c) c).instret = (getCore s c).instret + 1 := by
  simp only [finishWaiter, getCore_updCore_same]
  repeat' split
  all_goals rfl

theorem tget_map_upFrom {α : Type} {a n i : Nat} (f : Nat → α) (d : α) (h : a ≤ i ∧ i < a + n) :
    tget ((upFrom a n).map fun j => (j, f j)) d i = f i := by
  induction n generalizing a with
  | zero => omega
  | succ n ih =>
    by_cases ha : a = i
    · simp [upFrom, tget, ha]
    · simpa [upFrom, tget, ha] using ih (by omega)

/-- A release leaves free values in the k registers (R177). -/
theorem getRasp_unlock : getRasp (unlock s cl) cl = { getRasp s cl with
    holder := none, unlocking := none, k := (upFrom 0 16).map fun i => (i, BitVec.ofNat 2048 (Config.free (s.fresh + i))) } := by
  simp only [unlock, scrambleK]
  exact (getRasp_setRasp_same _ _ _).trans (by rw [getRasp_setRasp_same]; rfl)

end

/-! ### The lock, the status word and the records -/

/-- RUNLOCK of the holder with nothing in flight releases the lock (R177). -/
theorem exec_runlock {c : Fin 112} {s u : State} (hf : Fetches s c u) (hc : isChisel c = true)
    (hh : (getRasp u (coreCluster c)).holder = some c.val) (hfl : (getRasp u (coreCluster c)).flight = []) :
    exec (.runlock c 0 0 0) s = .next (retire (unlock u (coreCluster c)) c (getCore u c).pc) :=
  congrArg Host.Outcome.next (instr_ok hf (by simp [hc]) rfl rfl (by simp [hasFlight, hh, hfl]))

/-- The free lock goes to the core at the head of the queue (R177). -/
theorem exec_raspLockGrant {cl : Fin 24} {s : State} {c : Nat} {q : List Nat} (hq : (getRasp s cl).queue = c :: q)
    (hh : (getRasp s cl).holder = none) (hfl : (getRasp s cl).flight = []) :
    exec (.raspLockGrant cl) s = .next (finishWaiter (setRasp s cl { getRasp s cl with holder := some c, queue := q }) c) := by
  change execRaspLockGrant cl s = _
  simp [execRaspLockGrant, hq, hh, hfl]

theorem raspLockAndStatus : Parts.RaspLockAndStatus := by
  refine ⟨fun c rd s u hf hc => ?_, fun cl s c q hq hh hfl => ?_⟩
  · dsimp only
    refine ⟨fun hh hq hfl => ⟨?_, ?_⟩, fun h hh hne => ⟨?_, ?_⟩, fun hh hfl => ?_, ?_, fun he => ?_, fun e es he => ?_⟩
    · exact congrArg Host.Outcome.next (instr_ok hf (by simp [hc]) rfl rfl (by simp [lockFree, hh, hq, hfl]))
    · exact congrArg Host.Outcome.next (instr_ok hf (by simp [hc]) rfl rfl (by simp [lockFree, hh, hq, hfl, execRtrylock.putG']))
    · exact congrArg Host.Outcome.next (instr_stall hf (by simp [hc]) rfl rfl (by simp [lockFree, hh, hne]))
    · exact congrArg Host.Outcome.next (instr_ok hf (by simp [hc]) rfl rfl (by simp [lockFree, hh, hne, execRtrylock.putG']))
    · refine ⟨_, exec_runlock hf hc hh hfl, ?_, fun i hi => ?_, (getCore_retire _ _ _).2.2⟩
      · rw [getRasp_retire, getRasp_unlock]
      · rw [getRasp_retire, getRasp_unlock]
        exact ⟨_, tget_map_upFrom _ _ (by omega)⟩
    · exact congrArg Host.Outcome.next (instr_ok hf (by simp [hc]) rfl rfl rfl)
    · exact congrArg Host.Outcome.next (instr_ok hf (by simp [hc]) rfl rfl (by simp only [he]))
    · exact congrArg Host.Outcome.next (instr_ok hf (by simp [hc]) rfl rfl (by simp only [he]))
  · refine ⟨_, exec_raspLockGrant hq hh hfl, ?_, ?_, getCore_finishWaiter_instret _ c⟩
    · rw [getRasp_finishWaiter, getRasp_setRasp_same]
    · rw [getRasp_finishWaiter, getRasp_setRasp_same]

end Sys2Proof.Machine
end

section
/-!
SUPPORT. Issue to the Rasp (07_dsp_addressing_and_rasp R177, R179, R181, R182).
-/
namespace Sys2Proof.Machine

/-- A Rasp that has issued `o` under its next tag (R179). -/
def issuedTo (r : Rasp) (o : RaspOp) : Rasp :=
  { r with nextTag := (r.nextTag + 1) % 64, lastTag := r.nextTag, flight := r.flight ++ [o] }

section
variable {u : State} {c word : Nat} {busy : Rasp → Bool} {op : Rasp → RaspOp}

/-- The holder's instruction goes in flight while fewer than 16 are and its k register is not busy. -/
theorem raspIssue_ok (hh : (getRasp u (coreCluster c)).holder = some c) (hfl : (getRasp u (coreCluster c)).flight.length < 16)
    (hb : busy (getRasp u (coreCluster c)) = false) :
    raspIssue u c word busy op = .ok (setRasp u (coreCluster c) (issuedTo (getRasp u (coreCluster c)) (op (getRasp u (coreCluster c))))) := by
  simp [raspIssue, hh, hb, Nat.not_le.2 hfl, issuedTo]

/-- A move from k register `i` waits for its scoreboard bit. -/
theorem raspMoveOut_ok {i : Nat} (hh : (getRasp u (coreCluster c)).holder = some c) (hfl : (getRasp u (coreCluster c)).flight.length < 16)
    (hb : scoreBit (getRasp u (coreCluster c)) i = false) :
    raspIssue u c word (fun r => scoreBit r i) (fun r => mkOp r c 9 none 0 i 0 0) =
      .ok (setRasp u (coreCluster c) (issuedTo (getRasp u (coreCluster c)) (mkOp (getRasp u (coreCluster c)) c 9 none 0 i 0 0))) :=
  raspIssue_ok hh hfl hb

theorem raspIssue_noLock (hh : (getRasp u (coreCluster c)).holder ≠ some c) :
    raspIssue u c word busy op = .trap u 0x12 0 (BitVec.ofNat 64 word) := by
  simp [raspIssue, hh]

end

theorem sliceBits_of_fetches {s u : State} {c : Nat} (hc : isChisel c = true) (hf : Fetches s c u) (long : Bool) :
    sliceBits s c long = sliceBits u c long := by
  simp only [sliceBits, (sameCores_of_fetches hc hf).getCore c]

section
variable {c : Fin 112} {op : Nat} {rd rs1 : BitVec 5} {imm : BitVec 10} {fields : Bool} {s u : State}

/-- An operation of the holder goes in flight with its control word and its two sources (R182). -/
theorem raspOperation_ok {k1 k2 : Nat} (hf : Fetches s c u) (hc : isChisel c = true) (hrd : rd.toNat < 16) (hfields : fields = true)
    (hh : (getRasp u (coreCluster c)).holder = some c.val) (hfl : (getRasp u (coreCluster c)).flight.length < 16)
    (hk1 : imm.toNat % 16 = k1) (hk2 : imm.toNat / 16 % 16 = k2) :
    raspOperation s c op rd rs1 imm fields = retire (setRasp u (coreCluster c) (issuedTo (getRasp u (coreCluster c))
      (mkOp (getRasp u (coreCluster c)) c op (some rd.toNat) (gRead (getCore u c) rs1.toNat) k1 k2 0))) c (getCore u c).pc := by
  subst hk1 hk2
  exact instr_ok hf (by simp [hc, kOk, hrd, hfields]) rfl rfl (raspIssue_ok hh hfl rfl)

theorem raspOperation_noLock (hf : Fetches s c u) (hc : isChisel c = true) (hrd : rd.toNat < 16) (hfields : fields = true)
    (hh : (getRasp u (coreCluster c)).holder ≠ some c.val) :
    raspOperation s c op rd rs1 imm fields = takeException u c 0x12 0 (BitVec.ofNat 64 (raspWord 0x35 op rd rs1 imm)) :=
  instr_trap hf (by simp [hc, kOk, hrd, hfields]) rfl rfl (raspIssue_noLock hh)

end

theorem issueToRasp : Parts.RaspIssue := by
  intro c long rd rs1 imm s u hf hc
  have hslice := sliceBits_of_fetches hc hf long
  dsimp only
  refine ⟨fun hh hfl hrd => ⟨fun hb himm => ?_, fun hb himm => ?_, fun himm => ?_, ?_, ?_, ?_, ?_, fun himm => ?_⟩,
    fun hh hfl hrs1 hb => ⟨fun himm => ?_, fun himm => ?_⟩, fun hh hrd himm => ?_⟩
  · rw [← hslice] at himm ⊢
    exact congrArg Host.Outcome.next (instr_ok hf (by simp [hc, kOk, hrd, himm]) rfl rfl (raspIssue_ok hh hfl hb))
  · exact congrArg Host.Outcome.next (instr_ok hf (by simp [hc, kOk, hrd, himm]) rfl rfl (raspIssue_ok hh hfl hb))
  · have hfields : decide (imm.toNat < 16) = true := decide_eq_true himm
    have hk1 : imm.toNat % 16 = imm.toNat := Nat.mod_eq_of_lt himm
    have hk2 : imm.toNat / 16 % 16 = 0 := by omega
    exact ⟨congrArg Host.Outcome.next (raspOperation_ok hf hc hrd hfields hh hfl hk1 hk2),
      congrArg Host.Outcome.next (raspOperation_ok hf hc hrd hfields hh hfl hk1 hk2),
      congrArg Host.Outcome.next (raspOperation_ok hf hc hrd hfields hh hfl hk1 hk2)⟩
  · exact congrArg Host.Outcome.next (raspOperation_ok hf hc hrd rfl hh hfl rfl rfl)
  · exact congrArg Host.Outcome.next (raspOperation_ok hf hc hrd rfl hh hfl rfl rfl)
  · exact congrArg Host.Outcome.next (raspOperation_ok hf hc hrd rfl hh hfl rfl rfl)
  · exact congrArg Host.Outcome.next (raspOperation_ok hf hc hrd rfl hh hfl rfl rfl)
  · have hk2 : imm.toNat / 16 % 16 = imm.toNat / 16 := by omega
    exact congrArg Host.Outcome.next (raspOperation_ok hf hc hrd (by simp [himm]) hh hfl rfl hk2)
  · exact congrArg Host.Outcome.next (instr_ok hf (by simp [hc, kOk, hrs1, himm]) rfl rfl (by simp only [raspMoveOut_ok hh hfl hb]; rfl))
  · rw [← hslice] at himm ⊢
    exact congrArg Host.Outcome.next (instr_ok hf (by simp [hc, kOk, hrs1, himm]) rfl rfl (by simp only [raspMoveOut_ok hh hfl hb]; rfl))
  · exact congrArg Host.Outcome.next (raspOperation_noLock hf hc hrd (decide_eq_true himm) hh)

end Sys2Proof.Machine
end

section
/-!
SUPPORT. The end of a Rasp instruction (07_dsp_addressing_and_rasp R179, R180; 12_memory R275).
-/
namespace Sys2Proof.Machine

/-! ### Errors of k words (R275) -/

section
variable (s : State)

/-- The repair of a row counts no correction. -/
theorem ctrGet_repairRow_srCorr (i w b : Nat) : ctrGet (repairRow s i w) .srCorr b = ctrGet s .srCorr b := by
  unfold repairRow
  dsimp only
  split
  · exact ctrGet_bumpBy_of_kind_ne (setSr s _ _) _ _ _ (by decide)
  · exact ctrGet_bumpBy_of_kind_ne s _ _ _ (by decide)

/-- A corrected word is counted once, by the scrubber that covers it. -/
theorem ctrGet_correctWord (w : Nat) :
    ctrGet (correctWord s w) .srCorr (srOfWord w) = min (2 ^ 32 - 1) (ctrGet s .srCorr (srOfWord w) + 1) := by
  unfold correctWord
  dsimp only
  have hnoted : ∀ (ovf : Bool) (u : State), ctrGet (if ovf then bump u .srTrkOvf (srOfWord w) else u) .srCorr (srOfWord w) =
      ctrGet u .srCorr (srOfWord w) := fun ovf u => by
    cases ovf
    · rfl
    · exact ctrGet_bumpBy_of_kind_ne u _ _ _ (by decide)
  split
  · rw [ctrGet_repairRow_srCorr, hnoted]
    exact ctrGet_bump_same _ _ _
  · rw [hnoted]
    exact ctrGet_bump_same _ _ _

/-- The words of a cluster's k registers are its scrubber's. -/
theorem srOfWord_kWord (cl : Nat) : srOfWord (kWord s cl).1 = cl := by
  have hv : Config.free s.fresh % 2 ^ 9 < 2 ^ 9 := Nat.mod_lt _ (Nat.two_pow_pos 9)
  have hw : (kWord s cl).1 = 2 ^ 45 + cl * 2 ^ 24 + 786432 + Config.free s.fresh % 2 ^ 9 := rfl
  rw [hw, srOfWord, if_neg (by omega)]
  omega

theorem kError_eq_self {late : Nat} (cl : Nat) (h1 : late ≠ 1) (h3 : late ≠ 3) : kError s cl late = s := by simp [kError, h1, h3]

theorem sameCores_kError (cl late : Nat) : SameCores s (kError s cl late) :=
  sameCores_ite (sameCores_ite (sameCores_correctWord _ ⟨rfl, rfl⟩) (sameCores_wordUnc _ _ ⟨rfl, rfl⟩)) (sameCores_refl s)

theorem ctrGet_setRasp (cl : Nat) (r : Rasp) (k : Counter) (b : Nat) : ctrGet (setRasp s cl r) k b = ctrGet s k b := rfl

theorem ctrGet_clearK (cl i : Nat) (k : Counter) (b : Nat) : ctrGet (clearK s cl i) k b = ctrGet s k b := rfl

theorem ctrGet_kError_corrected (cl : Nat) : ctrGet (kError s cl 3) .srCorr cl = min (2 ^ 32 - 1) (ctrGet s .srCorr cl + 1) := by
  have hword := ctrGet_correctWord (kWord s cl).2 (kWord s cl).1
  rwa [srOfWord_kWord] at hword

end

/-! ### The write-back (R179, R180) -/

theorem getRasp_takeFree (s : State) (w cl : Nat) : getRasp (takeFree s w).2 cl = getRasp s cl := rfl

section
variable {s : State} {cl late : Nat} {o : RaspOp} (hop : o.op ≠ 6)
include hop

theorem raspWriteBack_discarded (hd : o.discard = true) : raspWriteBack s cl o late = s := by simp [raspWriteBack, hop, hd]

variable (hd : o.discard = false) {i : Nat} (hkd : o.kd = some i)
include hd hkd

theorem raspWriteBack_result {v : BitVec 2048} (hres : raspResult (getRasp s cl).k o false = some v) :
    raspWriteBack s cl o 0 = clearK (setRasp s cl { getRasp s cl with k := tset (getRasp s cl).k i v }) cl i := by
  simp [raspWriteBack, hop, hd, hkd, hres]

/-- A bad parameter or a late fault: the k register takes a free value, and a record goes to the core. -/
theorem raspWriteBack_lateError (h : raspResult (getRasp s cl).k o false = none ∨ late ≠ 0) :
    ∃ t j, getRasp t cl = { getRasp s cl with k := tset (getRasp s cl).k i (BitVec.ofNat 2048 (Config.free j % 2 ^ 2048)) } ∧
      raspWriteBack s cl o late =
        lateError t cl o.core o.tag (if (raspResult (getRasp s cl).k o false).isNone = true then 1 else late + 1) := by
  refine ⟨clearK (setRasp (takeFree s 2048).2 cl
    { getRasp s cl with k := tset (getRasp s cl).k i (BitVec.ofNat 2048 (takeFree s 2048).1) }) cl i, s.fresh,
    (getRasp_clearK _ _ _).trans (getRasp_setRasp_same _ _ _), ?_⟩
  cases hres : raspResult (getRasp s cl).k o false with
  | none => simp [raspWriteBack, hop, hd, hkd, hres, getRasp_takeFree]
  | some v =>
    have hlate : late ≠ 0 := h.resolve_left (by simp [hres])
    simp [raspWriteBack, hop, hd, hkd, hres, hlate, getRasp_takeFree]

end

/-- A core with room for it has the record behind its others and a RASP interrupt (R180). -/
theorem lateError_of_room {s : State} {cl c : Nat} (tag code : Nat) (h : (tget (getRasp s cl).errs [] c).length < 4) :
    getRasp (lateError s cl c tag code) cl =
        { getRasp s cl with errs := tset (getRasp s cl).errs c (tget (getRasp s cl).errs [] c ++ [{ tag := tag, code := code }]) } ∧
      bit (getCore (lateError s cl c tag code) c).ip 4 = true := by
  rw [lateError, if_pos h]
  exact ⟨by simp, by simpa using bit_setBit_same _ 4⟩

/-- The oldest instruction in flight leaves, while no RUNLOCK waits for it (R179). -/
theorem exec_raspOpComplete {cl : Fin 24} {late : Fin 4} {s t : State} {o : RaspOp} {fl : List RaspOp} (hfl : (getRasp s cl).flight = o :: fl)
    (ht : raspWriteBack (kError s cl late.val) cl o (late.val % 3) = t) (hun : (getRasp t cl).unlocking = none) :
    exec (.raspOpComplete cl late) s = .next (setRasp t cl { getRasp t cl with flight := fl }) := by
  change execRaspOpComplete cl late s = _
  simp only [execRaspOpComplete, hfl, ht, getRasp_setRasp_same, hun]

theorem raspCompletes : Parts.RaspCompletes := by
  intro cl s o fl r hfl hun hop
  have hkeep : ∀ late, getRasp (kError s cl late) cl = r := fun late => (sameCores_kError s cl late).getRasp cl
  refine ⟨fun i v hd hkd hres => ?_, fun hd => ?_, fun i late hd hkd hfault hroom => ?_⟩
  · have hwrite : ∀ late, raspWriteBack (kError s cl late) cl o 0 = clearK (setRasp (kError s cl late) cl { r with k := tset r.k i v }) cl i :=
      fun late => by rw [raspWriteBack_result hop hd hkd (by rw [hkeep]; exact hres), hkeep]
    have hexec : ∀ late : Fin 4, late.val % 3 = 0 → exec (.raspOpComplete cl late) s =
        .next (clearK (setRasp (kError s cl late.val) cl { r with k := tset r.k i v, flight := fl }) cl i) := fun late h0 => by
      rw [exec_raspOpComplete hfl (h0 ▸ hwrite late.val) (by simpa using hun)]
      simp [setRasp_clearK]
    refine ⟨?_, _, hexec 3 rfl, ?_, fun _ => ?_⟩
    · have hclean := hexec 0 rfl
      rwa [kError_eq_self s cl (by decide) (by decide)] at hclean
    · rw [getRasp_clearK, getRasp_setRasp_same]
    · rw [ctrGet_clearK, ctrGet_setRasp]
      exact ctrGet_kError_corrected s cl
  · have hexec : ∀ late : Fin 4, exec (.raspOpComplete cl late) s = .next (setRasp (kError s cl late.val) cl { r with flight := fl }) := fun late => by
      rw [exec_raspOpComplete hfl (raspWriteBack_discarded hop hd) (by rw [hkeep]; exact hun), hkeep]
    refine ⟨fun late h1 h3 => ?_, fun late => ⟨_, hexec late, getRasp_setRasp_same _ _ _, ?_⟩⟩
    · rw [Gives, hexec late, kError_eq_self s cl (by omega) (by omega)]
    · rintro rfl _
      rw [ctrGet_setRasp]
      exact ctrGet_kError_corrected s cl
  · have hlate : raspResult r.k o false = none ∨ late.val % 3 ≠ 0 ∧ late.val % 3 = late.val :=
      hfault.imp_right (by rintro (rfl | rfl) <;> decide)
    have hcode : (if (raspResult r.k o false).isNone = true then 1 else late.val % 3 + 1) =
        if (raspResult r.k o false).isNone = true then 1 else late.val + 1 := by
      rcases hlate with h | ⟨-, h⟩
      · simp [h]
      · rw [h]
    obtain ⟨t, j, ht, hwrite⟩ := raspWriteBack_lateError (late := late.val % 3) hop hd hkd ((hkeep late.val).symm ▸ hlate.imp_right And.left)
    rw [hkeep] at ht hwrite
    rw [hcode] at hwrite
    obtain ⟨hrasp, hip⟩ := lateError_of_room (s := t) (cl := cl) (c := o.core) o.tag
      (if (raspResult r.k o false).isNone = true then 1 else late.val + 1) (by rw [ht]; exact hroom)
    rw [ht] at hrasp
    refine ⟨_, exec_raspOpComplete hfl hwrite (by rw [hrasp]; exact hun), ?_, ⟨j, ?_⟩, ?_, hip⟩
    · rw [getRasp_setRasp_same]
    · rw [getRasp_setRasp_same, hrasp]
      exact tget_tset_same _ _ _ _
    · rw [getRasp_setRasp_same, hrasp]
      exact tget_tset_same _ _ _ _

/-- Settles O30: what the fetch and a corrected or logged k word do to the state reaches no core and no Rasp, so each command takes the one case of
its body that the lock, the scoreboard and the write-back select. -/
theorem raspTakesOneTaskAtATime : Obligations.RaspTakesOneTaskAtATime := ⟨raspLockAndStatus, issueToRasp, raspCompletes⟩

end Sys2Proof.Machine
end

section
/-!
SUPPORT. The choice of the next job of a class (08_fec_jigs R194, R201), and the dispatch to a free copy (R194, R200).
-/
namespace Sys2Proof.Machine

/-! ### The partition with the largest credit -/

/-- The larger of the credit held so far and the next one, the earlier of equals. -/
def largerCredit (b : Option (Nat × Int)) (e : Nat × Int) : Option (Nat × Int) :=
  match b with
  | none => some e
  | some x => if x.2 < e.2 then some e else some x

theorem pickPart_eq_foldl (l : List (Nat × Int)) : pickPart l = (l.foldl largerCredit none).map Prod.fst := rfl

theorem foldl_largerCredit_some (l : List (Nat × Int)) (b : Nat × Int) :
    ∃ e ∈ b :: l, l.foldl largerCredit (some b) = some e ∧ ∀ x ∈ b :: l, x.2 ≤ e.2 := by
  induction l generalizing b with
  | nil => exact ⟨b, by simp, rfl, by simp⟩
  | cons a r ih =>
    by_cases h : b.2 < a.2
    · obtain ⟨e, he, hfold, hmax⟩ := ih a
      refine ⟨e, List.mem_cons_of_mem _ he, by simpa [largerCredit, h] using hfold, fun x hx => ?_⟩
      rcases List.mem_cons.1 hx with rfl | hx
      · exact h.le.trans (hmax a (by simp))
      · exact hmax x hx
    · obtain ⟨e, he, hfold, hmax⟩ := ih b
      refine ⟨e, by grind, by simpa [largerCredit, h] using hfold, fun x hx => ?_⟩
      have hb := hmax b (by simp)
      grind

/-- Among some credits the partition picked has the largest. -/
theorem pickPart_of_ne_nil {l : List (Nat × Int)} (h : l ≠ []) : ∃ e ∈ l, pickPart l = some e.1 ∧ ∀ x ∈ l, x.2 ≤ e.2 := by
  obtain ⟨b, r, rfl⟩ := List.exists_cons_of_ne_nil h
  obtain ⟨e, he, hfold, hmax⟩ := foldl_largerCredit_some r b
  exact ⟨e, he, by rw [pickPart_eq_foldl]; exact congrArg (Option.map Prod.fst) hfold, hmax⟩

/-! ### The next job (R194, R201) -/

variable {s : State} {die cls : Nat}

theorem nextJob_of_jigQueued_nil (h : jigQueued s die cls = []) : nextJob s die cls = none := by
  simp [nextJob, h, pickCredits, pickPart]

/-- A partition with a credit in the pick has a queued job. -/
theorem exists_job_of_mem_pickCredits {e : Nat × Int} (h : e ∈ pickCredits s die cls) : ∃ j ∈ jigQueued s die cls, j.part = e.1 := by
  simp only [pickCredits, List.mem_map, List.mem_filter, List.any_eq_true, Bool.and_eq_true, beq_iff_eq] at h
  obtain ⟨p, ⟨-, j, hj, hp, -⟩, rfl⟩ := h
  exact ⟨j, hj, hp⟩

theorem pickCredits_ne_nil (hq : jigQueued s die cls ≠ []) (hp : ∀ q ∈ jigQueued s die cls, q.part < 4)
    (hr : (jigQueued s die cls).find? (fun q => q.retry) = none) : pickCredits s die cls ≠ [] := by
  obtain ⟨j, hj⟩ := List.exists_mem_of_ne_nil _ hq
  have hretry : j.retry = false := by simpa using List.find?_eq_none.1 hr j hj
  have hmem : j.part ∈ (upFrom 0 4).filter fun p => (jigQueued s die cls).any fun q => q.part == p && !q.retry :=
    List.mem_filter.2 ⟨mem_upFrom.2 ⟨by omega, by simpa using hp j hj⟩, List.any_eq_true.2 ⟨j, hj, by simp [hretry]⟩⟩
  exact List.ne_nil_of_mem (List.mem_map_of_mem hmem)

/-- The job that runs again goes first, and the credits stay. -/
theorem nextJob_of_retry {j : JgJob} (h : (jigQueued s die cls).find? (fun q => q.retry) = some j) : nextJob s die cls = some (j, s) := by
  simp [nextJob, h]

/-- The credits after a pick of partition `p` (R194). -/
def creditsAfterPick (s : State) (die cls p : Nat) : Tab Int :=
  let l := pickCredits s die cls
  let sum : Int := sumNat (l.map fun e => jgShare s die e.1 cls)
  l.foldl (fun t e => tset t (creditKey die cls e.1) (if e.1 = p then e.2 - sum else e.2)) s.jig.credit

/-- The job that goes of a partition's queue: its first HI job, without one its first job. -/
def firstJob (l : List JgJob) : Option JgJob := (l.find? fun j => j.hi).or l.head?

theorem nextJob_of_pickPart {p : Nat} (hr : (jigQueued s die cls).find? (fun q => q.retry) = none)
    (hp : pickPart (pickCredits s die cls) = some p) :
    nextJob s die cls = (firstJob ((jigQueued s die cls).filter fun j => j.part == p)).map fun j =>
      (j, { s with jig := { s.jig with credit := creditsAfterPick s die cls p } }) := by
  cases hhi : ((jigQueued s die cls).filter fun j => j.part == p).find? fun j => j.hi with
  | some j =>
    simp only [nextJob, firstJob, hr, hp, hhi]
    rfl
  | none =>
    simp only [nextJob, firstJob, hr, hp, hhi]
    rfl

theorem firstJob_of_mem {l : List JgJob} {i : JgJob} (h : i ∈ l) :
    ∃ j ∈ l, firstJob l = some j ∧ (j.hi = false → ∀ q ∈ l, q.hi = false) := by
  unfold firstJob
  cases hhi : l.find? fun j => j.hi with
  | some j => exact ⟨j, List.mem_of_find?_eq_some hhi, rfl, fun hj => absurd (List.find?_some hhi) (by simp [hj])⟩
  | none =>
    obtain ⟨j, r, rfl⟩ := List.exists_cons_of_ne_nil (List.ne_nil_of_mem h)
    exact ⟨j, List.mem_cons_self, rfl, fun _ q hq => by simpa using List.find?_eq_none.1 hhi q hq⟩

/-! ### Dispatch (R194, R200) -/

/-- The first copy in service that runs no job. -/
def freeCopy (s : State) (die cls : Nat) : Option Nat :=
  (inService s die cls).find? fun i => !((jigRunning s die cls).any fun r => r.inst == i)

/-- Who owns a buffer does not depend on the jigs. -/
theorem bufferError_jig (jg : Jig) (j : JgJob) : bufferError { s with jig := jg } j = bufferError s j := rfl

theorem execJgDispatch_idle {die : Fin 2} {cls : Fin 5}
    (h : (getDom s (jigDom die (cls.val + 1))).state ≠ .awake ∨ freeCopy s die (cls.val + 1) = none ∨ jigQueued s die (cls.val + 1) = []) :
    execJgDispatch die cls s = .next s := by
  unfold execJgDispatch
  rcases h with h | h | h
  · simp [h]
  · rw [freeCopy] at h
    simp [h]
  · simp [nextJob_of_jigQueued_nil h]

theorem execJgDispatch_job {die : Fin 2} {cls : Fin 5} {i : Nat} {j : JgJob} {u : State}
    (hd : (getDom s (jigDom die (cls.val + 1))).state = .awake) (hi : freeCopy s die (cls.val + 1) = some i)
    (hj : nextJob s die (cls.val + 1) = some (j, u)) :
    execJgDispatch die cls s = .next (
      let t := dropQueued u fun q => q.ord == j.ord
      if bufferError u j ≠ 0 then endUnrun t j (bufferError u j)
      else { t with jig := { t.jig with running := t.jig.running ++ [{ inst := i, job := j }] } }) := by
  have hbuf : bufferError (dropQueued u fun q => q.ord == j.ord) j = bufferError u j := bufferError_jig _ _
  rw [freeCopy] at hi
  simp only [execJgDispatch, hd, hi, hj, hbuf, bne_self_eq_false, Bool.false_eq_true, if_false]
  split <;> rfl

/-- The start of a job, or its end unrun, once it is known which one the pick answers. -/
theorem gives_jgDispatch {die : Fin 2} {cls : Fin 5} {i : Nat} {j : JgJob} {credit : Tab Int}
    (hd : (getDom s (jigDom die (cls.val + 1))).state = .awake) (hi : freeCopy s die (cls.val + 1) = some i) :
    let u : State := { s with jig := { s.jig with credit := credit } }
    nextJob s die (cls.val + 1) = some (j, u) →
    (bufferError s j = 0 → Gives (.jgDispatch die cls) s { u with jig := { u.jig with
      queue := s.jig.queue.filter (fun q => !(q.ord == j.ord)), running := s.jig.running ++ [{ inst := i, job := j }] } }) ∧
    (bufferError s j ≠ 0 → Gives (.jgDispatch die cls) s (endUnrun (dropQueued u fun q => q.ord == j.ord) j (bufferError s j))) := by
  intro u hj
  have hexec := execJgDispatch_job hd hi hj
  rw [show bufferError u j = bufferError s j from bufferError_jig _ _] at hexec
  exact ⟨fun hb => hexec.trans (by simp [hb, u, dropQueued]), fun hb => hexec.trans (by simp [hb])⟩

/-- Settles O32: the pick of `nextJob` by whether a job runs again, and the dispatch of what it answers. -/
theorem jobsStartInTurn : Obligations.JobsStartInTurn := by
  intro die cls s
  refine ⟨execJgDispatch_idle, fun i hd hi hq hp => ?_⟩
  cases hr : (jigQueued s die (cls.val + 1)).find? (fun q => q.retry) with
  | some j =>
    have hj := nextJob_of_retry hr
    obtain ⟨hstart, hend⟩ := gives_jgDispatch hd hi hj
    exact ⟨j, s, hj, List.mem_of_find?_eq_some hr, fun q hq => ⟨Option.some.inj hq, rfl⟩, nofun, rfl, hstart, hend⟩
  | none =>
    obtain ⟨e, he, hpick, hmax⟩ := pickPart_of_ne_nil (pickCredits_ne_nil hq hp hr)
    obtain ⟨k, hk, hke⟩ := exists_job_of_mem_pickCredits he
    obtain ⟨j, hjmem, hfirst, hhi⟩ := firstJob_of_mem (List.mem_filter (p := fun j => j.part == e.1) |>.2 ⟨hk, beq_iff_eq.2 hke⟩)
    obtain ⟨hjq, hje⟩ : j ∈ jigQueued s die (cls.val + 1) ∧ j.part = e.1 := by simpa using hjmem
    have hj := (nextJob_of_pickPart hr hpick).trans (congrArg (Option.map _) hfirst)
    obtain ⟨hstart, hend⟩ := gives_jgDispatch hd hi hj
    exact ⟨j, _, hj, hjq, nofun, fun _ => ⟨hje ▸ hpick, fun x hx => ⟨e.2, hje ▸ he, hmax x hx⟩,
      fun hlow q hq hqp => hhi hlow q (List.mem_filter.2 ⟨hq, beq_iff_eq.2 (hqp.trans hje)⟩)⟩, rfl, hstart, hend⟩

end Sys2Proof.Machine
end

section
/-!
SUPPORT. The submission of a job (08_fec_jigs R187, R193, R194), and what a request to wake a domain leaves alone (R353, R358).
-/
namespace Sys2Proof.Machine

/-! ### A request to wake a domain -/

/-- Dovetail and the fault unit of `s` are those of `A`. -/
def ItemsAndFaultsAs (A s : State) : Prop := s.dv = A.dv ∧ s.flt = A.flt

section
variable {A s : State}

@[simp] theorem itemsAndFaultsAs_setHost (h : Nat) (x : HostPort) (hs : ItemsAndFaultsAs A s) : ItemsAndFaultsAs A (setHost s h x) := hs
@[simp] theorem itemsAndFaultsAs_updHost (h : Nat) (f : HostPort → HostPort) (hs : ItemsAndFaultsAs A s) : ItemsAndFaultsAs A (updHost s h f) := hs
@[simp] theorem itemsAndFaultsAs_pushReply (h opc seq status : Nat) (pay : List Word) (hs : ItemsAndFaultsAs A s) :
    ItemsAndFaultsAs A (pushReply s h opc seq status pay) := hs
@[simp] theorem itemsAndFaultsAs_takePacket (h opc seq : Nat) (args : List Word) (hs : ItemsAndFaultsAs A s) :
    ItemsAndFaultsAs A (takePacket s h opc seq args) := by
  unfold takePacket
  dsimp only
  repeat' split
  all_goals exact hs

theorem itemsAndFaultsAs_parseOne {t : State} {h : Nat} (hs : ItemsAndFaultsAs A s) (ht : parseOne s h = some t) : ItemsAndFaultsAs A t := by
  unfold parseOne at ht
  dsimp only at ht
  repeat' split at ht
  all_goals cases ht
  all_goals simp (maxDischargeDepth := 3) [hs]

theorem itemsAndFaultsAs_parse (h n : Nat) (hs : ItemsAndFaultsAs A s) : ItemsAndFaultsAs A (parse s h n) := by
  induction n generalizing s with
  | zero => exact hs
  | succ n ih =>
    unfold parse
    split
    · exact hs
    next t ht => exact ih (itemsAndFaultsAs_parseOne hs ht)

theorem itemsAndFaultsAs_parseAll (h : Nat) (hs : ItemsAndFaultsAs A s) : ItemsAndFaultsAs A (parseAll s h) := by
  have hparse := itemsAndFaultsAs_parse h ((getHost s h).cmd.length + (getHost s h).asm.length + 1) hs
  unfold parseAll takeCommitted
  dsimp only
  split
  · exact itemsAndFaultsAs_setHost _ _ hparse
  · exact hparse

theorem itemsAndFaultsAs_finish (h : Nat) (c : HostCmd) (status : Nat) (pay : List Word) (hs : ItemsAndFaultsAs A s) :
    ItemsAndFaultsAs A (finish s h c status pay) := by
  unfold finish
  dsimp only
  apply itemsAndFaultsAs_parseAll
  split <;> exact hs

/-- A request to wake a domain answers a host at most. -/
theorem itemsAndFaultsAs_wakeReq (s : State) (d : Nat) (deep : Bool) (code : Nat) : ItemsAndFaultsAs s (wakeReq s d deep code) := by
  have hself : ItemsAndFaultsAs s s := ⟨rfl, rfl⟩
  have hwithdraw : ItemsAndFaultsAs s (withdrawSet s d code) := by
    unfold withdrawSet
    split
    · exact hself
    · dsimp only [replyLater]
      split
      · split
        · exact itemsAndFaultsAs_finish _ _ _ _ hself
        · exact hself
      · exact hself
  unfold wakeReq
  dsimp only
  split
  · exact hself
  cases (getDom s d).state with
  | s1 | s2 | waking | failed => exact hself
  | s3 | entering => dsimp only; split <;> exact hself
  | awake => exact hwithdraw

end

/-- What a request to wake a domain changes: power domains, host ports, counters and the count of free values. -/
theorem wakeReq_eq (s : State) (d : Nat) (deep : Bool) (code : Nat) :
    { wakeReq s d deep code with doms := s.doms, hosts := s.hosts, ctr := s.ctr, fresh := s.fresh } = s := by
  obtain ⟨hdv, hflt⟩ := itemsAndFaultsAs_wakeReq s d deep code
  dsimp only
  rw [hdv, hflt]
  exact away_eq (away_wakeReq s d deep code (away_refl s))

/-! ### A descriptor error (R193) -/

theorem descError_err (s : State) (die p a why : Nat) :
    tget (descError s die p a why).jig.err {} (jgBank die p) = { addr := a, why := why, valid := true } := by
  unfold descError
  rw [away_jig (away_raisePart _ _ _ _ _ (away_refl _))]
  exact tget_tset_same _ _ _ _

theorem ctrGet_descError (s : State) (die p a why : Nat) :
    ctrGet (descError s die p a why) .jgDescErr (jgBank die p) = min (2 ^ 32 - 1) (ctrGet s .jgDescErr (jgBank die p) + 1) :=
  (ctrGet_raisePart (by decide) (by decide) ..).trans (ctrGet_bump_same s .jgDescErr (jgBank die p))

/-! ### A queued job (R187, R194) -/

section
variable (s : State) (j : JgJob)

/-- The jigs once a job is queued behind the others. -/
def jigWithJob (jg : Jig) (j : JgJob) (empty : Bool) : Jig :=
  { jg with
    queue := jg.queue ++ [{ j with ord := jg.nextOrd }]
    nextOrd := jg.nextOrd + 1
    credit := if empty then tset jg.credit (creditKey j.die j.cls j.part) 0 else jg.credit }

theorem queueJob_eq_wakeReq : queueJob s j =
    wakeReq { s with jig := jigWithJob s.jig j ((jigQueued s j.die j.cls).all fun q => q.part != j.part || q.retry) }
      (jigDom j.die j.cls) true 3 := rfl

theorem queueJob_jig :
    (queueJob s j).jig = jigWithJob s.jig j ((jigQueued s j.die j.cls).all fun q => q.part != j.part || q.retry) := by
  rw [queueJob_eq_wakeReq]
  exact away_jig (away_wakeReq _ _ _ _ (away_refl _))

theorem queueJob_mem : (queueJob s j).mem = s.mem := by
  rw [queueJob_eq_wakeReq]
  exact (away_mem (away_wakeReq _ _ _ _ (away_refl _))).trans rfl

/-- A partition without a queued job of the class starts from credit 0. -/
theorem queueJob_credit (h : ((jigQueued s j.die j.cls).any fun q => q.part == j.part) = false) :
    tget (queueJob s j).jig.credit 0 (creditKey j.die j.cls j.part) = 0 := by
  have hempty : ((jigQueued s j.die j.cls).all fun q => q.part != j.part || q.retry) = true :=
    List.all_eq_true.2 fun q hq => by simpa using Or.inl (by simpa using List.any_eq_false.1 h q hq)
  rw [queueJob_jig, hempty]
  exact tget_tset_same _ _ _ _

theorem queueJob_eq :
    { queueJob s j with jig := s.jig, doms := s.doms, hosts := s.hosts, ctr := s.ctr, fresh := s.fresh } = s := by
  rw [queueJob_eq_wakeReq]
  exact congrArg (fun t : State => { t with jig := s.jig }) (wakeReq_eq _ _ _ _)

end

/-! ### The checks of a submission (R187) -/

section
variable {s : State}

theorem execJgSubmit_dieOut {who : Agent} {die : Fin 2} {p : Fin 4} {cls : Fin 5} {addr : BitVec 48} (h : dieOut s die = true) :
    execJgSubmit who die p cls addr s = .next (answer s 4 0) := by
  simp [execJgSubmit, h]

theorem execJgSubmit_foreign {who : Agent} {die : Fin 2} {p : Fin 4} {cls : Fin 5} {addr : BitVec 48} (h : dieOut s die = false)
    (hw : mayTouch who (some p.val) = false) : execJgSubmit who die p cls addr s = .next (foreign s) := by
  simp [execJgSubmit, h, hw]

theorem execJgSubmit_owner {who : Agent} {die : Fin 2} {p : Fin 4} {cls : Fin 5} {addr : BitVec 48} (h : dieOut s die = false)
    (hw : mayTouch who (some p.val) = true) :
    execJgSubmit who die p cls addr s = .next (submitJob (done s) die p (cls.val + 1) addr.toNat) := by
  simp [execJgSubmit, h, hw]

variable {die p cls a : Nat}

theorem submitJob_of_misaligned (h : a % 128 ≠ 0) : submitJob s die p cls a = descError s die p a 1 := by
  simp [submitJob, h]

theorem submitJob_of_not_ownsMem (ha : a % 128 = 0) (hn : targetOf a ≠ .nothing) (hr : targetOf a ≠ .regs) (ho : ownsMem s p a = false) :
    submitJob s die p cls a = descError s die p a 3 := by
  simp [submitJob, ha, hn, hr, ho]

/-- The job of a descriptor without EVT. -/
def jobOf (die p cls a : Nat) (d : List Byte) : JgJob :=
  { die := die, part := p, cls := cls, addr := a, desc := d, hi := bit (dsc d 1 1) 1, evt := none, retry := false, ord := 0 }

theorem submitJob_of_readable {bs : List Byte} {u : State} (ha : a % 128 = 0) (hn : targetOf a ≠ .nothing) (hr : targetOf a ≠ .regs)
    (ho : ownsMem s p a = true) (hread : memRead s (some p) a 128 = (0, bs, u)) (he : jdEvt (bs.take 112) = false) :
    submitJob s die p cls a = submitChecked u (jobOf die p cls a (bs.take 112)) := by
  simp [submitJob, ha, hn, hr, ho, hread, he, jobOf]

end

theorem jobsAreSubmitted : Parts.JobsAreSubmitted := by
  intro who die p cls addr s a c
  refine ⟨fun h => execJgSubmit_dieOut h, fun hdie => ⟨fun hw => execJgSubmit_foreign hdie hw, fun hw ha => ?_, fun hw ha hn hr ho => ?_,
    fun why => ⟨descError_err s die p a why, ctrGet_descError s die p a why⟩, ?_⟩⟩
  · exact (execJgSubmit_owner hdie hw).trans (congrArg Host.Outcome.next (submitJob_of_misaligned ha))
  · exact (execJgSubmit_owner hdie hw).trans (congrArg Host.Outcome.next (submitJob_of_not_ownsMem ha hn hr ho))
  · intro bs u hw ha hn hr ho hread he j
    have hexec : exec (.jgSubmit who die p cls addr) s = .next (submitChecked u j) :=
      (execJgSubmit_owner hdie hw).trans (congrArg Host.Outcome.next (submitJob_of_readable ha hn hr ho hread he))
    refine ⟨fun hok => ?_, fun hok hsh => ?_, fun hok hsh hin => ?_, fun hok hsh hin hdep => ?_, fun hok hsh hin hdep => ?_⟩
    · exact hexec.trans (by simp [submitChecked, j, hok, c])
    · exact hexec.trans (by simp [submitChecked, j, hok, hsh, c])
    · exact hexec.trans (by simp [submitChecked, j, hok, hsh, hin])
    · exact hexec.trans (by simp [submitChecked, j, hok, hsh, hin, hdep])
    · have hqueue : submitChecked u j = queueJob u j := by simp [submitChecked, j, hok, hsh, hin, Nat.not_le.2 hdep]
      rw [hqueue] at hexec
      have hjig := queueJob_jig u j
      exact ⟨_, hexec, by rw [hjig]; rfl, by rw [hjig]; rfl, by rw [hjig]; rfl, queueJob_mem u j, queueJob_credit u j, queueJob_eq u j⟩

end Sys2Proof.Machine
end

section
/-!
SUPPORT. What accesses to memory, events and items leave alone of the jigs (08_fec_jigs R197, R201): their queues, running jobs, shares and
copies in service, and the count of their faults.
-/
namespace Sys2Proof.Machine

/-- The jigs of `s` and the counts of their faults are those of `A`. -/
def JigsAs (A s : State) : Prop := s.jig = A.jig ∧ ∀ b, ctrGet s .jgFault b = ctrGet A .jgFault b

variable {A s : State}

theorem jigsAs_refl (s : State) : JigsAs s s := ⟨rfl, fun _ => rfl⟩

theorem jigsAs_bump {k : Counter} (b : Nat) (hk : Counter.jgFault.ctorIdx ≠ k.ctorIdx) (h : JigsAs A s) : JigsAs A (bump s k b) :=
  ⟨h.1, fun b' => (ctrGet_bumpBy_of_kind_ne s b b' 1 hk).trans (h.2 b')⟩

theorem jigsAs_ite {p : Prop} [Decidable p] {a b : State} (ha : JigsAs A a) (hb : JigsAs A b) : JigsAs A (if p then a else b) := by
  split
  · exact ha
  · exact hb

theorem jigsAs_foldl {α : Type} {g : State → α → State} (hg : ∀ s a, JigsAs A s → JigsAs A (g s a)) (l : List α) (h : JigsAs A s) :
    JigsAs A (l.foldl g s) := by
  induction l generalizing s with
  | nil => exact h
  | cons a r ih => exact ih (hg s a h)

theorem jigsAs_eq2 {α : Type} {r : α × State} {a : α} {t : State} (e : r = (a, t)) (h : JigsAs A r.2) : JigsAs A t := by subst e; exact h

/-! ### Events -/

theorem jigsAs_postPart (p code w2 w3 : Nat) (h : JigsAs A s) : JigsAs A (postPart s p code w2 w3) :=
  ⟨(away_jig (away_postPart s p code w2 w3 (away_refl s))).trans h.1, fun b => (ctrGet_postHost (by decide) ..).trans (h.2 b)⟩

theorem jigsAs_toEventFlow (p code w2 w3 : Nat) (h : JigsAs A s) : JigsAs A (toEventFlow s p code w2 w3) :=
  ⟨(away_jig (away_toEventFlow s p code w2 w3 (away_refl s))).trans h.1,
    fun b => (ctrGet_toEventFlow (by decide) (by decide) ..).trans (h.2 b)⟩

theorem jigsAs_deliver (p code w2 w3 : Nat) (h : JigsAs A s) : JigsAs A (deliver s p code w2 w3) :=
  jigsAs_toEventFlow _ _ _ _ (jigsAs_postPart _ _ _ _ h)

theorem jigsAs_raiseHolders (f : Nat → Bool) (code w2 w3 : Nat) (h : JigsAs A s) : JigsAs A (raiseHolders s f code w2 w3) :=
  jigsAs_foldl (fun _ p hs => jigsAs_ite (jigsAs_deliver p code w2 w3 hs) hs) (upFrom 0 4) h

/-! ### LPDDR6 pages (R262 to R266, R279) -/

theorem jigsAs_showFlips (ch page : Nat) (h : JigsAs A s) : JigsAs A (showFlips s ch page) := jigsAs_ite h h

theorem jigsAs_unstage (ch : Nat) (e : Staged) (h : JigsAs A s) : JigsAs A (unstage s ch e) :=
  show JigsAs A (if e.dirty then encodePage s ch e.page else showFlips s ch e.page) from jigsAs_ite h (jigsAs_showFlips ch e.page h)

theorem jigsAs_stage (ch page : Nat) (dirty : Bool) (h : JigsAs A s) : JigsAs A (stage s ch page dirty) := by
  unfold stage
  dsimp only
  split
  · exact h
  · split
    · exact jigsAs_unstage ch _ h
    · exact h

theorem jigsAs_retirePage (ch page : Nat) (h : JigsAs A s) : JigsAs A (retirePage s ch page) := by
  unfold retirePage
  dsimp only
  split
  · exact h
  · exact jigsAs_bump (s := encodePage (setCh s ch _) ch page) ch (by decide) h

theorem jigsAs_notePage (ch page : Nat) (h : JigsAs A s) : JigsAs A (notePage s ch page) := by
  have hnoted : ∀ x : MemCh, JigsAs A (bump (setCh s ch x) .memTrkOvf ch) := fun x => jigsAs_bump (s := setCh s ch x) ch (by decide) h
  exact jigsAs_ite (jigsAs_retirePage ch page (jigsAs_ite (hnoted _) h)) (jigsAs_ite (hnoted _) h)

theorem jigsAs_pageUnc (ch page : Nat) (tag : Bool) (h : JigsAs A s) : JigsAs A (pageUnc s ch page tag) := by
  have hunc : JigsAs A (bump s .memUnc ch) := jigsAs_bump ch (by decide) h
  have hcounted : JigsAs A (if tag then bump (bump s .memUnc ch) .memTagErr ch else bump s .memUnc ch) :=
    jigsAs_ite (jigsAs_bump ch (by decide) hunc) hunc
  exact jigsAs_raiseHolders (s := noteUnc _ ch _) _ _ _ _ hcounted

theorem jigsAs_fetchPage (ch page : Nat) (alloc : Bool) (h : JigsAs A s) : JigsAs A (fetchPage s ch page alloc).2 := by
  have hmiss : JigsAs A (takeFree (bump s .memStgMiss ch) 1).2 := jigsAs_bump (s := s) ch (by decide) h
  unfold fetchPage
  dsimp only
  split
  · exact jigsAs_stage ch page _ (jigsAs_bump ch (by decide) h)
  · split
    · exact jigsAs_ite (jigsAs_stage ch page false hmiss) hmiss
    · exact jigsAs_notePage ch page (jigsAs_stage ch page true (jigsAs_bump ch (by decide) hmiss))
    · exact jigsAs_bump ch (by decide) hmiss
    · exact jigsAs_pageUnc ch page _ hmiss

theorem jigsAs_writeWholePage (ch page : Nat) (bs : List Byte) (h : JigsAs A s) : JigsAs A (writeWholePage s ch page bs) :=
  jigsAs_showFlips (s := setPage (encodePage (writeBytes s (pageAddr ch page) bs) ch page) ch page _) ch page h

theorem jigsAs_writePartPage (ch page a : Nat) (bs : List Byte) (h : JigsAs A s) : JigsAs A (writePartPage s ch page a bs).2 := by
  unfold writePartPage
  split <;> rename_i t e <;> have hfetch := jigsAs_eq2 e (jigsAs_fetchPage ch page true h)
  · exact jigsAs_stage (s := writeBytes t a bs) _ _ _ hfetch
  · exact jigsAs_bump _ (by decide) hfetch

/-! ### SRAM words (R275, R277, R278) -/

theorem jigsAs_repairRow (i w : Nat) (h : JigsAs A s) : JigsAs A (repairRow s i w) := by
  unfold repairRow
  dsimp only
  split
  · exact jigsAs_bump (s := setSr s i _) i (by decide) h
  · exact jigsAs_bump (s := s) i (by decide) h

theorem jigsAs_correctWord (w : Nat) (h : JigsAs A s) : JigsAs A (correctWord s w) := by
  unfold correctWord
  dsimp only
  have hcounted : ∀ x : Sr, JigsAs A
      (setSr (bump { s with mem := { s.mem with sramErr := tdel s.mem.sramErr w } } .srCorr (srOfWord w)) (srOfWord w) x) :=
    fun x => jigsAs_bump (s := { s with mem := { s.mem with sramErr := tdel s.mem.sramErr w } }) (srOfWord w) (by decide) h
  have hnoted : ∀ (x : Sr) (ovf : Bool), JigsAs A (if ovf then bump (setSr _ (srOfWord w) x) .srTrkOvf (srOfWord w) else setSr _ (srOfWord w) x) :=
    fun x _ => jigsAs_ite (jigsAs_bump _ (by decide) (hcounted x)) (hcounted x)
  exact jigsAs_ite (jigsAs_repairRow _ w (hnoted _ _)) (hnoted _ _)

theorem jigsAs_wordUnc (w by_ : Nat) (h : JigsAs A s) : JigsAs A (wordUnc s w by_) :=
  jigsAs_raiseHolders (s := setSr _ _ _) _ _ _ _ (jigsAs_bump (s := (takeFree s 48).2) (srOfWord w) (by decide) h)

theorem jigsAs_readWords (ws : List Nat) (h : JigsAs A s) : JigsAs A (readWords s ws).2 := by
  induction ws generalizing s with
  | nil => exact h
  | cons w r ih =>
    unfold readWords
    split
    · exact ih h
    · split
      · exact ih (jigsAs_correctWord w h)
      · exact jigsAs_wordUnc w _ h

theorem jigsAs_writeSram (a : Nat) (bs : List Byte) (h : JigsAs A s) : JigsAs A (writeSram s a bs).2 := by
  unfold writeSram
  split <;> rename_i e <;> have hread := jigsAs_eq2 e (jigsAs_readWords _ h) <;> exact hread

/-! ### Writes (R226, R234) -/

theorem jigsAs_noteRefused (a st : Nat) (h : JigsAs A s) : JigsAs A (noteRefused s a st) := by
  unfold noteRefused
  split
  · exact jigsAs_ite (jigsAs_bump _ (by decide) h) h
  · exact h

theorem jigsAs_writePiece (who : Option Nat) (a : Nat) (bs : List Byte) (h : JigsAs A s) : JigsAs A (writePiece s who a bs).2 := by
  unfold writePiece
  dsimp only
  split
  · exact jigsAs_noteRefused a _ h
  · split
    · split
      · exact jigsAs_writeWholePage _ _ bs h
      · exact jigsAs_writePartPage _ _ a bs h
    · exact jigsAs_writeSram a bs h

theorem jigsAs_writePieces (who : Option Nat) (bs : List Byte) (ps : List (Nat × Nat)) (h : JigsAs A s) :
    JigsAs A (writePieces s who bs ps).2.2 := by
  induction ps generalizing s bs with
  | nil => exact h
  | cons p r ih =>
    obtain ⟨a, n⟩ := p
    unfold writePieces
    split <;> rename_i e <;> have hpiece := jigsAs_eq2 e (jigsAs_writePiece who a (bs.take n) h)
    · exact ih _ hpiece
    · exact hpiece

theorem jigsAs_memWrite (who : Option Nat) (a : Nat) (bs : List Byte) (h : JigsAs A s) : JigsAs A (memWrite s who a bs).2.2 :=
  jigsAs_writePieces who bs _ h

/-! ### Items that leave a flow (R213, R215) -/

theorem jigsAs_dropItem (it : Item) (h : JigsAs A s) : JigsAs A (dropItem s it) := by
  unfold dropItem
  dsimp only
  split
  · split
    · exact jigsAs_ite h h
    · exact h
  · exact h

theorem jigsAs_addItem (n : NewItem) (slot : Option Nat) (place : Place) (h : JigsAs A s) : JigsAs A (addItem s n slot place).1 :=
  ⟨(away_jig (away_addItem s n slot place (away_refl s))).trans h.1,
    fun b => (congrArg (tget · 0 (ctrKey .jgFault b)) (addItem_ctr s n slot place)).trans (h.2 b)⟩

theorem jigsAs_countRefusal (p f : Nat) (h : JigsAs A s) : JigsAs A (countRefusal s p f) :=
  jigsAs_bump _ (by decide) (jigsAs_ite h h)

theorem jigsAs_countOut (it : Item) (h : JigsAs A s) : JigsAs A (countOut s it) := by
  have hflow : ∀ g, JigsAs A (updFlow s it.flow g) := fun _ => h
  unfold countOut
  dsimp only
  split
  · split
    · exact jigsAs_bump _ (by decide) (hflow _)
    · exact hflow _
  · exact hflow _

theorem jigsAs_lossEvt (p f kind reason : Nat) (h : JigsAs A s) : JigsAs A (lossEvt s p f kind reason) :=
  jigsAs_toEventFlow _ _ _ _ (jigsAs_postPart _ _ _ _ h)

theorem jigsAs_leave (it : Item) (h : JigsAs A s) : JigsAs A (leave s it).2 := by
  have hout := jigsAs_countOut it (jigsAs_dropItem it h)
  unfold leave
  dsimp only
  split
  · exact hout
  split
  · exact hout
  next p _ =>
    have hrefused := jigsAs_countRefusal p (getFlow s it.flow).next h
    split
    · exact jigsAs_addItem _ _ _ hout
    split
    · have hstalled := jigsAs_ite (p := (it.place == .held) = true) hrefused
        (jigsAs_bump (k := .dvFwdStall) (dvBank p (flowDie it.flow)) (by decide) hrefused)
      exact hstalled
    · exact jigsAs_lossEvt _ _ _ _ (jigsAs_bump _ (by decide) (jigsAs_countOut it (jigsAs_dropItem it hrefused)))

theorem jigsAs_drainOrdered (f n : Nat) (h : JigsAs A s) : JigsAs A (drainOrdered s f n) := by
  induction n generalizing s with
  | zero => exact h
  | succ n ih =>
    unfold drainOrdered
    dsimp only
    split
    · exact h
    next it _ =>
      split <;> rename_i t e <;> have hleft := jigsAs_eq2 e (jigsAs_leave it h)
      · exact ih (s := updFlow t f _) hleft
      · exact hleft

theorem jigsAs_releaseItem (it : Item) (h : JigsAs A s) : JigsAs A (releaseItem s it) :=
  jigsAs_ite (jigsAs_drainOrdered (s := updItem (dropWins s it.id) it.id _) _ _ h) (jigsAs_leave (s := updItem (dropWins s it.id) it.id _) it h)

/-! ### Jobs that end (R197, R198) -/

theorem jigsAs_raiseReserved (i : Nat) (tag arg0 arg1 : Word) (code : Nat) (h : JigsAs A s) : JigsAs A (raiseReserved s i tag arg0 arg1 code) := by
  unfold raiseReserved
  split
  · exact h
  · exact jigsAs_ite (jigsAs_releaseItem _ h) h

theorem jigsAs_endJob (j : JgJob) (status aux : Nat) (h : JigsAs A s) : JigsAs A (endJob s j status aux) := by
  have hwritten := jigsAs_memWrite (some j.part) (j.addr + 120) (leBytes status 8) (jigsAs_memWrite (some j.part) (j.addr + 112) (leBytes aux 8) h)
  have hdone := jigsAs_bump (k := .jgDone) (jgBank j.die j.part) (by decide) hwritten
  have hcounted := jigsAs_ite (p := status % 256 = 2) (jigsAs_bump (k := .jgCrcFail) (jgBank j.die j.part) (by decide) hdone) hdone
  unfold endJob
  dsimp only
  split
  · exact jigsAs_raiseReserved _ _ _ _ _ hcounted
  · exact hcounted

/-- Ending queued jobs takes them out of the queue; the copies in service and the count of faults stay. -/
theorem jigsAs_endQueued (s : State) (f : JgJob → Bool) (code : Nat) : JigsAs (dropQueued s f) (endQueued s f code) :=
  jigsAs_foldl (fun _ j hs => jigsAs_endJob j _ _ hs) _ (jigsAs_refl _)

end Sys2Proof.Machine
end

section
/-!
SUPPORT. The end of a job (08_fec_jigs R196, R197, R199 to R201): completion, cancellation, and the failure of a copy.
-/
namespace Sys2Proof.Machine

/-! ### Completion (R196, R197) -/

section
variable {s u u' v : State} {r : JgRun} {f : JigFind}

/-- A job without HARQ buffers whose input can be read and whose output can be written. -/
theorem completeJob_of_written {rx out : List Byte} {n : Nat} :
    let d := r.job.desc
    let c := r.job.cls
    jdComb d c = false → jdHst d c = false → memRead s (some r.job.part) (jdIn d) (inBytes d c) = (0, rx, u) →
    jobOut u d c rx f = (out, u') → memWrite u' (some r.job.part) (jdOut d) out = (0, n, v) →
    completeJob s r f = endJob v r.job (statusWord (jobOutcome d c f) (jobIter d c f) (jobLact d c)
      (4 * b2n ((c == 1 || c == 3) && jobIter d c f < jdMaxit d) + 8 * b2n r.job.retry) (jobXmax d c) r.inst) (jobAux d c (jobTime d c f) f) := by
  intro d c hcomb hhst hread hout hwrite
  have hclear : b2n false + 2 * b2n false = 0 := rfl
  simp only [completeJob, hread, hcomb, hhst, hout, hwrite, Bool.or_self, Bool.false_eq_true, if_false, hclear, Nat.zero_add, d, c]

/-- A job whose input cannot be read ends with INPUT_ERR. -/
theorem completeJob_of_read_error {e : Nat} {bs : List Byte} (he : e ≠ 0) :
    let d := r.job.desc
    let c := r.job.cls
    memRead s (some r.job.part) (jdIn d) (inBytes d c) = (e, bs, u) →
    completeJob s r f = endJob u r.job (statusWord 0x20 0 (jobLact d c) (8 * b2n r.job.retry) (jobXmax d c) r.inst) (jobAux d c f.time.toNat f) := by
  intro d c hread
  obtain ⟨k, rfl⟩ := Nat.exists_eq_succ_of_ne_zero he
  simp only [completeJob, hread, d, c]

theorem execJgComplete_none {die : Fin 2} {cls : Fin 5} {inst : Fin 8}
    (h : (jigRunning s die (cls.val + 1)).find? (fun r => r.inst == inst.val) = none) : execJgComplete die cls inst f s = .next s := by
  simp [execJgComplete, h]

theorem execJgComplete_some {die : Fin 2} {cls : Fin 5} {inst : Fin 8}
    (h : (jigRunning s die (cls.val + 1)).find? (fun r => r.inst == inst.val) = some r) :
    execJgComplete die cls inst f s = .next (completeJob (dropRunning s fun q => q == r) r f) := by
  simp [execJgComplete, h]

end

/-! ### Cancellation (R199) -/

section
variable {s : State} {who : Agent} {die : Fin 2} {p : Fin 4} {cls : Fin 5} {addr : BitVec 48}

@[simp] theorem jigRunning_done (die cls : Nat) : jigRunning (done s) die cls = jigRunning s die cls := rfl
@[simp] theorem jigQueued_done (die cls : Nat) : jigQueued (done s) die cls = jigQueued s die cls := rfl

/-- Is a job that of a partition with that descriptor address? -/
def namesJob (p a : Nat) (j : JgJob) : Bool := j.part == p && j.addr == a

variable (hdie : dieOut s die = false) (hw : mayTouch who (some p.val) = true)
include hdie hw

theorem execJgCancel_miss (hrun : (jigRunning s die (cls.val + 1)).filter (fun r => namesJob p addr.toNat r.job) = [])
    (hque : (jigQueued s die (cls.val + 1)).filter (namesJob p addr.toNat) = []) :
    execJgCancel who die p cls addr s = .next (bump (done s) .jgCxlMiss (jgBank die p)) := by
  unfold namesJob at hrun hque
  simp [execJgCancel, hdie, hw, hrun, hque]

theorem execJgCancel_queued {j : JgJob} (hrun : (jigRunning s die (cls.val + 1)).filter (fun r => namesJob p addr.toNat r.job) = [])
    (hque : (jigQueued s die (cls.val + 1)).filter (namesJob p addr.toNat) = [j]) :
    execJgCancel who die p cls addr s = .next (endUnrun (dropQueued (done s) fun q => q.ord == j.ord) j 0x30) := by
  unfold namesJob at hrun hque
  simp [execJgCancel, hdie, hw, hrun, hque]

theorem execJgCancel_running {r : JgRun} (hrun : (jigRunning s die (cls.val + 1)).filter (fun r => namesJob p addr.toNat r.job) = [r])
    (hque : (jigQueued s die (cls.val + 1)).filter (namesJob p addr.toNat) = []) :
    execJgCancel who die p cls addr s = .next (endStopped (dropRunning (done s) fun q => q.job.ord == r.job.ord) r 0x30) := by
  unfold namesJob at hrun hque
  simp [execJgCancel, hdie, hw, hrun, hque]

end

/-! ### Copies in service (R184, R204) -/

theorem bit_eq_testBit (n i : Nat) : bit n i = n.testBit i := by
  rw [bit, Nat.testBit_eq_decide_div_mod_eq]
  rfl

theorem setBit_false_eq {n i : Nat} (h : bit n i = true) : ∃ q r, r < 2 ^ i ∧ n = 2 ^ i * (2 * q + 1) + r ∧ setBit n i false = 2 ^ i * (2 * q) + r := by
  have hodd : n / 2 ^ i % 2 = 1 := by simpa [bit] using h
  have hn := Nat.div_add_mod n (2 ^ i)
  have hq : n / 2 ^ i = 2 * (n / 2 ^ i / 2) + 1 := by omega
  refine ⟨n / 2 ^ i / 2, n % 2 ^ i, Nat.mod_lt _ (Nat.two_pow_pos i), by rw [← hq, hn], ?_⟩
  have hset : setBit n i false = n - 2 ^ i := by simp [setBit, h]
  rw [hset]
  conv_lhs => rw [← hn, hq]
  rw [Nat.mul_add]
  omega

theorem bit_setBit_false_same (n i : Nat) : bit (setBit n i false) i = false := by
  by_cases h : bit n i = true
  · obtain ⟨q, r, hr, -, hset⟩ := setBit_false_eq h
    simp [hset, bit_eq_testBit, Nat.testBit_two_pow_mul_add _ hr]
  · simp [setBit, h]

theorem bit_setBit_false_of_ne {n i j : Nat} (hj : j ≠ i) : bit (setBit n i false) j = bit n j := by
  by_cases h : bit n i = true
  · obtain ⟨q, r, hr, hn, hset⟩ := setBit_false_eq h
    rw [hset, hn, bit_eq_testBit, bit_eq_testBit, Nat.testBit_two_pow_mul_add _ hr, Nat.testBit_two_pow_mul_add _ hr]
    split
    · rfl
    · obtain ⟨k, hk⟩ : ∃ k, j - i = k + 1 := ⟨j - i - 1, by omega⟩
      rw [hk, Nat.testBit_succ, Nat.testBit_succ]
      congr 1
      omega
  · simp [setBit, h]

section
variable {s : State} {die cls i : Nat}

theorem inService_contains : (inService s die cls).contains i = true ↔
    i < (instBits cls).2 ∧ bit (tget s.jig.inst 0 die) ((instBits cls).1 + i) = true := by
  simp [inService, mem_upFrom]

theorem inService_congr {t : State} (h : t.jig.inst = s.jig.inst) : inService t die cls = inService s die cls := by
  rw [inService, inService, h]

/-- A copy taken out of service. -/
def copyOut (s : State) (die cls i : Nat) : State :=
  { s with jig := { s.jig with inst := tset s.jig.inst die (setBit (tget s.jig.inst 0 die) ((instBits cls).1 + i) false) } }

theorem inService_copyOut_same : (inService (copyOut s die cls i) die cls).contains i = false := by
  refine Bool.eq_false_iff.2 fun h => ?_
  have hbit := (inService_contains.1 h).2
  rw [copyOut, tget_tset_same, bit_setBit_false_same] at hbit
  exact Bool.false_ne_true hbit

theorem inService_copyOut_of_ne {k : Nat} (hk : k ≠ i) (h : (inService s die cls).contains k = true) :
    (inService (copyOut s die cls i) die cls).contains k = true := by
  obtain ⟨hlt, hbit⟩ := inService_contains.1 h
  refine inService_contains.2 ⟨hlt, ?_⟩
  rw [copyOut, tget_tset_same, bit_setBit_false_of_ne (by omega)]
  exact hbit

end

/-! ### The failure of a copy (R201) -/

/-- The first unit out of service is noted in the start-up state, and shows on the console (R328). -/
theorem noteDeg_eq (s : State) : ∃ x, noteDeg s = { s with su := { s.su with deg := true }, pins := x } := by
  unfold noteDeg updSu
  dsimp only
  split
  · exact ⟨_, rfl⟩
  · exact ⟨_, rfl⟩

theorem noteDeg_jig (s : State) : (noteDeg s).jig = s.jig := by
  obtain ⟨x, hx⟩ := noteDeg_eq s
  rw [hx]

theorem ctrGet_noteDeg (s : State) (c : Counter) (b : Nat) : ctrGet (noteDeg s) c b = ctrGet s c b := by
  obtain ⟨x, hx⟩ := noteDeg_eq s
  rw [hx]
  rfl

theorem ctrGet_logRec (s : State) (code sev : Nat) (mod : Bool) (part d0 d1 : Nat) (cont : List (List Byte)) (c : Counter) (b : Nat) :
    ctrGet (logRec s code sev mod part d0 d1 cont) c b = ctrGet s c b := rfl

theorem ctrGet_deliver {c : Counter} (hlost : c.ctorIdx ≠ Counter.hwEvtLost.ctorIdx) (hrej : c.ctorIdx ≠ Counter.dvEnqRej.ctorIdx)
    (s : State) (p code w2 w3 b : Nat) : ctrGet (deliver s p code w2 w3) c b = ctrGet s c b :=
  (ctrGet_toEventFlow hlost hrej ..).trans (ctrGet_postHost hlost ..)

/-- The event of a failed copy, delivered to the partitions with a share of its class. -/
def tellFault (s : State) (die cls w : Nat) : State :=
  (upFrom 0 4).foldl (fun s p => if jgShare s die p cls ≠ 0 then deliver s p 0x0601 w 0 else s) s

theorem away_tellFault (s : State) (die cls w : Nat) : Away s (tellFault s die cls w) :=
  away_foldl _ (fun t p ht => (away_ite _ _ _).2 (by
    split
    · exact away_deliver t p _ _ _ ht
    · exact ht)) _ s (away_refl s)

theorem ctrGet_tellFault {c : Counter} (hlost : c.ctorIdx ≠ Counter.hwEvtLost.ctorIdx) (hrej : c.ctorIdx ≠ Counter.dvEnqRej.ctorIdx)
    (s : State) (die cls w b : Nat) : ctrGet (tellFault s die cls w) c b = ctrGet s c b := by
  unfold tellFault
  refine List.foldlRecOn _ _ (motive := fun t => ctrGet t c b = ctrGet s c b) rfl fun t ht p _ => ?_
  split
  · exact (ctrGet_deliver hlost hrej ..).trans ht
  · exact ht

/-- A copy that fails its own checks leaves service, is counted and reported; what becomes of its job comes after. -/
def copyFails (s : State) (die cls i : Nat) : State :=
  let t := tellFault (bump (noteDeg (copyOut s die cls i)) .jgFault die) die cls (die + cls * 2 + i * 16)
  logRec t 0x0601 (jgFaultSev t die cls) false 0 (die + cls * 2 + i * 16) 0 []

section
variable (s : State) (die cls i : Nat)

theorem copyFails_jig : (copyFails s die cls i).jig = (copyOut s die cls i).jig := by
  unfold copyFails
  dsimp only
  rw [away_jig (away_logRec _ _ _ _ _ _ _ _ (away_tellFault _ die cls _)), away_jig (away_bump _ _ _ (away_refl _)), noteDeg_jig]

theorem ctrGet_copyFails_jgFault : ctrGet (copyFails s die cls i) .jgFault die = min (2 ^ 32 - 1) (ctrGet s .jgFault die + 1) := by
  unfold copyFails
  rw [ctrGet_logRec, ctrGet_tellFault (by decide) (by decide), ctrGet_bump_same, ctrGet_noteDeg]
  rfl

theorem ctrGet_copyFails_jgRetry (b : Nat) : ctrGet (copyFails s die cls i) .jgRetry b = ctrGet s .jgRetry b := by
  unfold copyFails
  rw [ctrGet_logRec, ctrGet_tellFault (by decide) (by decide), bump, ctrGet_bumpBy_of_kind_ne _ _ _ _ (by decide), ctrGet_noteDeg]
  rfl

theorem inService_copyFails : inService (copyFails s die cls i) die cls = inService (copyOut s die cls i) die cls :=
  inService_congr (congrArg Jig.inst (copyFails_jig s die cls i))

theorem jigRunning_copyFails : jigRunning (copyFails s die cls i) die cls = jigRunning s die cls := by
  rw [jigRunning, copyFails_jig]
  rfl

end

/-- A running job goes to the front of the queue to run again, and is counted. -/
def putInFront (u : State) (die : Nat) (r : JgRun) : State :=
  let t := bump (dropRunning u fun q => q == r) .jgRetry (jgBank die r.job.part)
  { t with jig := { t.jig with queue := { r.job with retry := true } :: t.jig.queue } }

theorem putInFront_jig (u : State) (die : Nat) (r : JgRun) : (putInFront u die r).jig =
    { u.jig with queue := { r.job with retry := true } :: u.jig.queue, running := u.jig.running.filter fun q => !(q == r) } := rfl

theorem ctrGet_putInFront (u : State) (die : Nat) (r : JgRun) : ctrGet (putInFront u die r) .jgRetry (jgBank die r.job.part) =
    min (2 ^ 32 - 1) (ctrGet u .jgRetry (jgBank die r.job.part) + 1) :=
  ctrGet_bump_same (dropRunning u fun q => q == r) .jgRetry (jgBank die r.job.part)

/-- What becomes of the job of a failed copy: it runs again where another copy is left and the first attempt altered nothing that a retry reads. -/
def jobOfFailedCopy (u : State) (die : Nat) (left : Bool) : Option JgRun → State
  | none => u
  | some r =>
    if r.job.retry || inPlace r.job || !left then endStopped (dropRunning u fun q => q == r) r 0x40 else putInFront u die r

section
variable {s : State} {die : Fin 2} {cls : Fin 5} {inst : Fin 8}

theorem execJgFault_absent (h : (inService s die (cls.val + 1)).contains inst.val = false) : execJgFault die cls inst s = .next s := by
  have habsent : (!(inService s die (cls.val + 1)).contains inst.val) = true := by rw [h, Bool.not_false]
  unfold execJgFault
  exact if_pos habsent

theorem execJgFault_present (h : (inService s die (cls.val + 1)).contains inst.val = true) :
    execJgFault die cls inst s = .next (
      let u := copyFails s die (cls.val + 1) inst
      let left := !(inService u die (cls.val + 1)).isEmpty
      let t := jobOfFailedCopy u die left ((jigRunning s die (cls.val + 1)).find? fun r => r.inst == inst.val)
      if left then t else endQueued t (fun j => j.die == die.val && j.cls == cls.val + 1) 0x40) := by
  have hpresent : ¬ (!(inService s die (cls.val + 1)).contains inst.val) = true := by
    rw [h, Bool.not_true]
    exact Bool.false_ne_true
  rw [← jigRunning_copyFails s die (cls.val + 1) inst]
  unfold execJgFault
  dsimp only
  rw [if_neg hpresent]
  generalize hu : logRec _ 0x0601 _ _ _ _ _ _ = u
  rw [show copyFails s die (cls.val + 1) inst = u from hu]
  cases (jigRunning u die (cls.val + 1)).find? fun r => r.inst == inst.val with
  | none => rfl
  | some r => rfl

/-- A copy that ran no job leaves the rest of its class as it was, but for the jobs of a class with no copy left. -/
theorem execJgFault_idle (h : (inService s die (cls.val + 1)).contains inst.val = true)
    (hrun : (jigRunning s die (cls.val + 1)).find? (fun r => r.inst == inst.val) = none) :
    ∃ t, execJgFault die cls inst s = .next t ∧ t.jig.inst = (copyOut s die (cls.val + 1) inst).jig.inst ∧
      ctrGet t .jgFault die = min (2 ^ 32 - 1) (ctrGet s .jgFault die + 1) := by
  have hinst := congrArg Jig.inst (copyFails_jig s die (cls.val + 1) inst)
  have hcount := ctrGet_copyFails_jgFault s die (cls.val + 1) inst
  refine ⟨_, execJgFault_present h, ?_⟩
  rw [hrun]
  dsimp only [jobOfFailedCopy]
  split
  · exact ⟨hinst, hcount⟩
  · obtain ⟨hjig, hctr⟩ := jigsAs_endQueued (copyFails s die (cls.val + 1) inst) (fun j => j.die == die.val && j.cls == cls.val + 1) 0x40
    exact ⟨(congrArg Jig.inst hjig).trans hinst, (hctr die).trans hcount⟩

/-- A job that may run again goes to the front of the queue. -/
theorem execJgFault_retry {r : JgRun} (h : (inService s die (cls.val + 1)).contains inst.val = true)
    (hrun : (jigRunning s die (cls.val + 1)).find? (fun r => r.inst == inst.val) = some r) (hretry : r.job.retry = false)
    (hplace : inPlace r.job = false) (hleft : (inService (copyFails s die (cls.val + 1) inst) die (cls.val + 1)).isEmpty = false) :
    execJgFault die cls inst s = .next (putInFront (copyFails s die (cls.val + 1) inst) die r) := by
  rw [execJgFault_present h, hrun]
  simp [jobOfFailedCopy, hretry, hplace, hleft]

end

theorem jobsEnd : Parts.JobsEnd := by
  refine ⟨fun die cls inst f s => ⟨execJgComplete_none, fun r rx out n u u' v hr hc => ?_, fun r e bs u hr hc he => ?_⟩,
    fun die p cls addr who s hdie hw => ⟨execJgCancel_miss hdie hw, fun j => execJgCancel_queued hdie hw, fun r => execJgCancel_running hdie hw⟩,
    fun die cls inst s => ⟨execJgFault_absent, fun h hrun => ?_, fun r h hrun hretry hplace hother => ?_⟩⟩
  · rw [← hc]
    exact fun hcomb hhst hread hout hwrite =>
      (execJgComplete_some hr).trans (congrArg Host.Outcome.next (completeJob_of_written hcomb hhst hread hout hwrite))
  · rw [← hc]
    exact fun hread => (execJgComplete_some hr).trans (congrArg Host.Outcome.next (completeJob_of_read_error he hread))
  · obtain ⟨t, hexec, hinst, hcount⟩ := execJgFault_idle h hrun
    exact ⟨t, hexec, by rw [inService_congr hinst]; exact inService_copyOut_same, hcount⟩
  · obtain ⟨k, hk, hkin⟩ := hother
    have hleft : (inService (copyFails s die (cls.val + 1) inst) die (cls.val + 1)).isEmpty = false := by
      rw [inService_copyFails, List.isEmpty_eq_false_iff]
      exact List.ne_nil_of_mem (List.contains_iff_mem.1 (inService_copyOut_of_ne hk hkin))
    have hjig := copyFails_jig s die (cls.val + 1) inst
    refine ⟨_, execJgFault_retry h hrun hretry hplace hleft, ?_, ?_, ?_, ?_⟩
    · rw [inService_congr (s := copyOut s die (cls.val + 1) inst) (by rw [putInFront_jig, hjig])]
      exact inService_copyOut_same
    · rw [putInFront_jig, hjig]
      rfl
    · rw [putInFront_jig, hjig]
      rfl
    · rw [ctrGet_putInFront, ctrGet_copyFails_jgRetry]

/-! ### OUT, iterations and TIME (R190 to R192, R196, R202) -/

section
variable {d : List Byte} {cls : Nat} {f : JigFind}

theorem jobOut_of_encoder {inp : List Byte} {s : State} (hd : jdDecodes d cls = false) (he : encodeStated d cls = true) :
    jobOut s d cls inp f = (packBits (outBytes d cls) (encodeBits d cls inp), s) := by
  simp [jobOut, hd, he]

theorem jobOut_of_decoder {inp : List Byte} {s : State} (hd : jdDecodes d cls = true) :
    (jobOut s d cls inp f).2 = s ∧ (jobOut s d cls inp f).1.length = outBytes d cls := by
  simp [jobOut, hd]

/-- A stop condition that is asked for does not hold while checks are unsatisfied. -/
theorem stopHolds_of_unsat (hc : cls = 1) (hu : jobUnsat d cls f ≠ 0) : stopHolds d cls f = false := by
  simp [stopHolds, hc, hc ▸ hu]

/-- Under ET = 2 it does not hold where the CRC fails. -/
theorem stopHolds_of_crc_fail (het : jdEt d = 2) (hp : jobPass d cls f = false) : stopHolds d cls f = false := by
  simp [stopHolds, het, hp]

theorem jobIter_of_not_stopHolds (hc : cls = 1 ∨ cls = 3) (h : stopHolds d cls f = false) : jobIter d cls f = jdMaxit d := by
  simp [jobIter, hc, h]

theorem jobIter_le (d : List Byte) (cls : Nat) (f : JigFind) : jobIter d cls f ≤ jdMaxit d := by
  unfold jobIter
  split
  · split
    · exact Nat.min_le_right _ _
    · exact le_rfl
  · exact Nat.zero_le _

/-- A decoder's outcome is CRC failure only where its CRC does not pass. -/
theorem jobPass_of_outcome (h : jobOutcome d cls f = 2) : jobPass d cls f = false := by
  cases hp : jobPass d cls f with
  | false => rfl
  | true =>
    simp only [jobOutcome, hp, if_true] at h
    split_ifs at h <;> omega

end

theorem jobResults : Parts.JobResults := by
  refine fun d cls inp f s => ⟨jobOut_of_encoder, jobOut_of_decoder, fun hd => by simp [jobOutcome, hd], fun hc hcrc het hu hd => ⟨?_, ?_⟩,
    fun hc _ het ho => jobIter_of_not_stopHolds hc (stopHolds_of_crc_fail het (jobPass_of_outcome ho)), jobIter_le d cls f,
    fun hn => by simp [jobTime, hn]⟩
  · subst hc
    simp [jobOutcome, hd, hcrc, het, hu]
  · exact jobIter_of_not_stopHolds (Or.inl hc) (stopHolds_of_unsat hc hu)

/-- Settles O31: a submission by its first failed check, the end of a job by its command. What the jobs that end with a class's last copy write,
count and raise leaves the copies in service and the count of faults (`jigsAs_endQueued`). -/
theorem jobsAreSubmittedAndEnd : Obligations.JobsAreSubmittedAndEnd := ⟨jobsAreSubmitted, jobsEnd, jobResults⟩

end Sys2Proof.Machine
end

section
/-!
SUPPORT. Item slots and handles, and the acceptance of an item (09_dovetail R207, R209, R210).
-/
namespace Sys2Proof.Machine

/-! ### Slots and handles (R210) -/

theorem flowDie_lt (f : Nat) : flowDie f < 2 := Nat.mod_lt _ (by decide)

theorem freeSlot_lt (used : List Nat) {v : Nat} (h : v < 65536) (n : Nat) : freeSlot used v n < 65536 := by
  induction n generalizing v with
  | zero => exact h
  | succ n ih =>
    unfold freeSlot
    split
    · exact ih (Nat.mod_lt _ (by decide))
    · exact h

theorem takeSlot_lt (s : State) (die : Nat) : (takeSlot s die).1 < 65536 := freeSlot_lt _ (Nat.mod_lt _ (by decide)) _

section
variable {die slot : Nat} (hd : die < 2) (hs : slot < 65536)
include hd hs

/-- The slot, the generation and the die of a handle do not overlap. -/
theorem toNat_useSlot (s : State) : (useSlot s die slot).1.toNat =
    slot + (Config.firstGen (65536 * die + slot) + (tget s.dv.gens 0 (65536 * die + slot) + 1)) % 2 ^ 45 * 2 ^ 16 + die * 2 ^ 61 := by
  refine (BitVec.toNat_ofNat _ _).trans (Nat.mod_eq_of_lt ?_)
  have hgen : (Config.firstGen (65536 * die + slot) + (tget s.dv.gens 0 (65536 * die + slot) + 1)) % 2 ^ 45 < 2 ^ 45 :=
    Nat.mod_lt _ (by decide)
  omega

theorem slot_useSlot (s : State) : (useSlot s die slot).1.toNat % 65536 = slot := by
  rw [toNat_useSlot hd hs]
  omega

theorem getLsbD_useSlot (s : State) : (useSlot s die slot).1.getLsbD 61 = decide (die = 1) := by
  rw [BitVec.getLsbD, Nat.testBit_eq_decide_div_mod_eq, toNat_useSlot hd hs, decide_eq_decide]
  have hgen : (Config.firstGen (65536 * die + slot) + (tget s.dv.gens 0 (65536 * die + slot) + 1)) % 2 ^ 45 < 2 ^ 45 :=
    Nat.mod_lt _ (by decide)
  omega

end

/-! ### An accepted item (R209) -/

section
variable (s : State) (n : NewItem) (place : Place)

/-- The slot of an item that takes a free one. -/
theorem itemSlot_addItem : itemSlot (addItem s n none place).2 = (takeSlot s (flowDie n.flow)).1 :=
  slot_useSlot (flowDie_lt n.flow) (takeSlot_lt s _) (takeSlot s (flowDie n.flow)).2

theorem addItem_hdl_die : (addItem s n none place).2.hdl.getLsbD 61 = decide (flowDie n.flow = 1) :=
  getLsbD_useSlot (flowDie_lt n.flow) (takeSlot_lt s _) (takeSlot s (flowDie n.flow)).2

/-- The generation of the slot advances, and its handle carries it; every other slot keeps its generation (R210). -/
theorem addItem_generation :
    let r := addItem s n none place
    let k := 65536 * flowDie n.flow + itemSlot r.2
    let g := tget s.dv.gens 0 k + 1
    r.2.hdl.toNat = itemSlot r.2 + (Config.firstGen k + g) % 2 ^ 45 * 2 ^ 16 + flowDie n.flow * 2 ^ 61 ∧ tget r.1.dv.gens 0 k = g ∧
      ∀ j, j ≠ k → tget r.1.dv.gens 0 j = tget s.dv.gens 0 j := by
  intro r k g
  have hslot : itemSlot r.2 = (takeSlot s (flowDie n.flow)).1 := itemSlot_addItem s n place
  refine ⟨?_, ?_, fun j hj => ?_⟩
  · simp only [g, k, hslot]
    exact toNat_useSlot (flowDie_lt n.flow) (takeSlot_lt s _) (takeSlot s (flowDie n.flow)).2
  · simp only [g, k, hslot]
    exact tget_tset_same _ _ _ _
  · simp only [k, hslot] at hj
    exact tget_tset_ne _ _ _ hj

/-- The flow counts the item, and an ordered one goes on to the next sequence number. -/
theorem getFlow_addItem (slot : Option Nat) : getFlow (addItem s n slot place).1 n.flow =
    { getFlow s n.flow with
      seqNext := if (getFlow s n.flow).kind = 1 then ((getFlow s n.flow).seqNext + 1) % 2 ^ 32 else (getFlow s n.flow).seqNext
      enqCnt := ((getFlow s n.flow).enqCnt + 1) % 2 ^ 64 } := by
  cases slot <;> exact tget_tset_same _ _ _ _

theorem getFlow_addItem_ne (slot : Option Nat) {f : Nat} (h : f ≠ n.flow) : getFlow (addItem s n slot place).1 f = getFlow s f := by
  cases slot <;> exact tget_tset_ne _ _ _ h

end

/-! ### The reasons of a refusal (R209) -/

theorem refusal_order (s : State) (p f : Nat) :
    let x := getFlow s f
    (ownsFlow s p f = false → refusal s p f false = 5) ∧
    (ownsFlow s p f = true → x.valid = false → refusal s p f false = 4) ∧
    (ownsFlow s p f = true → x.valid = true → x.open_ = false → refusal s p f false = 3) ∧
    (ownsFlow s p f = true → x.valid = true → x.open_ = true → x.qmax ≤ qcount s f → refusal s p f false = 1) ∧
    (ownsFlow s p f = true → x.valid = true → x.open_ = true → qcount s f < x.qmax → dvQuota s p (flowDie f) ≤ quotaUsed s p (flowDie f) →
      refusal s p f false = 2) ∧
    (ownsFlow s p f = true → x.valid = true → x.open_ = true → qcount s f < x.qmax → quotaUsed s p (flowDie f) < dvQuota s p (flowDie f) →
      refusal s p f false = 0) := by
  refine ⟨fun ho => ?_, fun ho hv => ?_, fun ho hv hopen => ?_, fun ho hv hopen hq => ?_, fun ho hv hopen hq hu => ?_, fun ho hv hopen hq hu => ?_⟩
  · simp [refusal, ho]
  · simp [refusal, ho, hv]
  · simp [refusal, ho, hv, hopen]
  · simp [refusal, ho, hv, hopen, hq]
  · simp [refusal, ho, hv, hopen, Nat.not_le.2 hq, hu]
  · simp [refusal, ho, hv, hopen, Nat.not_le.2 hq, Nat.not_le.2 hu]

/-! ### DV.ENQ (R210) -/

section
variable {s u : State} {c : Fin 112} {rd rs1 : BitVec 5}

theorem exec_dvEnq (h : FetchesOffEnd s c u) :
    exec (.dvEnq c rd rs1 0) s = .next (retire (dvEnq u c rd.toNat rs1.toNat) c (getCore u c).pc) :=
  congrArg Host.Outcome.next (instr_ok h.1 rfl rfl h.2 rfl)

end

section
variable {s v w : State} {c rd rs1 : Nat} {bs : List Byte}

theorem dvEnq_misaligned (h : (gRead (getCore s c) rs1).toNat % 32 ≠ 0) :
    dvEnq s c rd rs1 = setG (bump s .dvEnqRej (dvBank (corePartN s c) (coreDie c))) c rd 6 := if_pos h

theorem dvEnq_accepted {it : Item} (ha : (gRead (getCore s c) rs1).toNat % 32 = 0)
    (hr : memRead s (some (corePartN s c)) (gRead (getCore s c) rs1).toNat 32 = (0, bs, v))
    (he : enqueue v (corePartN s c) (recordItem bs) = (0, w, some it)) : dvEnq s c rd rs1 = setG w c rd (handleWord it.hdl) := by
  simp only [dvEnq, ha, ne_eq, not_true_eq_false, if_false, hr, he]

theorem dvEnq_refused {r : Nat} (ha : (gRead (getCore s c) rs1).toNat % 32 = 0)
    (hr : memRead s (some (corePartN s c)) (gRead (getCore s c) rs1).toNat 32 = (0, bs, v))
    (he : enqueue v (corePartN s c) (recordItem bs) = (r, w, none)) : dvEnq s c rd rs1 = setG w c rd (BitVec.ofNat 64 r) := by
  simp only [dvEnq, ha, ne_eq, not_true_eq_false, if_false, hr, he]

end

/-! ### Items of an external source (R33, R209) -/

theorem enqueueExt_accepted {s t : State} {p : Nat} {n : NewItem} {it : Item} (h : enqueue s p n = (0, t, some it)) :
    enqueueExt s p n = (0, t, some it) := by
  simp only [enqueueExt, h]

theorem enqueueExt_refused {s : State} {p : Nat} {n : NewItem} (h : refusal s p n.flow false ≠ 0) :
    enqueueExt s p n = (refusal s p n.flow false,
      lossEvt (countRefusal s p n.flow) p n.flow n.kind (refusal s p n.flow false), none) := by
  obtain ⟨r, hr⟩ := Nat.exists_eq_succ_of_ne_zero h
  rw [enqueueExt, enqueue_refused h, hr]
  rfl

/-- The item that an arrival offers. -/
def arrivingItem (flow : BitVec 18) (kind : Fin 10) (prio : Option (Fin 16)) (tag arg0 arg1 : Word) : NewItem :=
  { flow := flow.toNat, kind := kind.val, prio := prio.map fun x => x.val, tag := tag, arg0 := arg0, arg1 := arg1 }

theorem exec_dvItemArrive (p : Fin 4) (flow : BitVec 18) (kind : Fin 10) (prio : Option (Fin 16)) (tag arg0 arg1 : Word) (s : State) :
    exec (.dvItemArrive p flow kind prio tag arg0 arg1) s = .next (enqueueExt s p (arrivingItem flow kind prio tag arg0 arg1)).2.1 := rfl

/-- Settles O33: the reasons in their order, what `addItem` sets, and the answers of DV.ENQ and of an arrival by what `enqueue` answers. -/
theorem itemsEnterFlows : Obligations.ItemsEnterFlows := by
  refine ⟨refusal_order, fun s p n h => ?_, fun c rd rs1 s u hf => ⟨fun ha => ?_, fun bs v ha hr => ⟨fun w it he => ?_, fun r w _ he => ?_⟩⟩,
    fun p flow kind prio tag arg0 arg1 s => ⟨fun t it he => ?_, fun r hr href => ?_⟩⟩
  · refine ⟨_, _, enqueue_accepted h, rfl, rfl, rfl, rfl, rfl, rfl, rfl, rfl, rfl, addItem_hdl_die s n .queued,
      addItem_generation s n .queued,
      fun hk => ⟨if_pos hk, ?_⟩, fun hk => ⟨if_neg hk, ?_⟩, ?_, fun g hg => getFlow_addItem_ne s n _ _ hg, rfl⟩
    · rw [getFlow_addItem]
      exact if_pos hk
    · rw [getFlow_addItem]
      exact if_neg hk
    · rw [getFlow_addItem]
  · rw [Gives, exec_dvEnq hf, dvEnq_misaligned ha]
  · rw [Gives, exec_dvEnq hf, dvEnq_accepted ha hr he, handleWord]
  · rw [Gives, exec_dvEnq hf, dvEnq_refused ha hr he]
  · rw [Gives, exec_dvItemArrive, enqueueExt_accepted (n := arrivingItem flow kind prio tag arg0 arg1) he]
  · subst href
    rw [Gives, exec_dvItemArrive, enqueueExt_refused (n := arrivingItem flow kind prio tag arg0 arg1) hr]
    rfl

end Sys2Proof.Machine
end

section
/-!
SUPPORT. Staging of ready items, and DV.GET (09_dovetail R211, R212).
-/
namespace Sys2Proof.Machine

/-! ### The best of a list -/

/-- The better of the element held so far and the next one, the earlier of equals. -/
def keepBest {α : Type} (better : α → α → Prop) [DecidableRel better] (b : Option α) (a : α) : Option α :=
  match b with
  | none => some a
  | some x => if better a x then some a else some x

section
variable {α : Type} {better : α → α → Prop} [DecidableRel better]

theorem mem_of_foldl_keepBest {l : List α} {b : Option α} {e : α} (h : l.foldl (keepBest better) b = some e) : e ∈ l ∨ b = some e := by
  induction l generalizing b with
  | nil => exact Or.inr h
  | cons a l ih =>
    rcases ih h with he | he
    · exact Or.inl (List.mem_cons_of_mem a he)
    · cases b with
      | none => exact Or.inl (Option.some.inj he ▸ List.mem_cons_self)
      | some x =>
        simp only [keepBest] at he
        split at he
        · exact Or.inl (Option.some.inj he ▸ List.mem_cons_self)
        · exact Or.inr he

theorem eq_nil_of_foldl_keepBest {l : List α} (h : l.foldl (keepBest better) none = none) : l = [] := by
  cases l with
  | nil => rfl
  | cons a l =>
    have hsome : (l.foldl (keepBest better) (some a)).isSome = true :=
      List.foldlRecOn l _ (motive := fun b : Option α => b.isSome = true) rfl fun b _ x _ => by
        unfold keepBest
        split
        · rfl
        · split <;> rfl
    exact absurd h (Option.isSome_iff_ne_none.1 hsome)

/-- What is held at the end has the largest key. -/
theorem le_of_foldl_keepBest {f : α → Nat} {l : List α} {b : Option α} {e : α}
    (h : l.foldl (keepBest fun a x => f a > f x) b = some e) : (∀ x ∈ b, f x ≤ f e) ∧ ∀ x ∈ l, f x ≤ f e := by
  induction l generalizing b with
  | nil => exact ⟨fun x hx => (Option.some.inj (hx.symm.trans h) ▸ le_rfl), nofun⟩
  | cons a l ih =>
    obtain ⟨hheld, hrest⟩ := ih h
    have hstep : f a ≤ f e ∧ ∀ x ∈ b, f x ≤ f e := by
      cases b with
      | none => exact ⟨hheld a rfl, nofun⟩
      | some y =>
        by_cases hya : f a > f y
        · have ha : f a ≤ f e := hheld a (if_pos hya)
          exact ⟨ha, fun x hx => Option.some.inj hx ▸ hya.le.trans ha⟩
        · have hy : f y ≤ f e := hheld y (if_neg hya)
          exact ⟨(Nat.not_lt.1 hya).trans hy, fun x hx => Option.some.inj hx ▸ hy⟩
    exact ⟨hstep.2, List.forall_mem_cons.2 ⟨hstep.1, hrest⟩⟩

end

/-! ### Staging (R211) -/

section
variable {s : State} {die : Nat} {it : Item} {c : Nat}

theorem stageItem_eq_foldl (s : State) (die : Nat) : stageItem s die =
    (s.dv.items.filter fun it => flowDie it.flow == die && isReady s it && !(takers s it).isEmpty).foldl
      (keepBest fun a x => a.level > x.level) none :=
  List.foldl_ext _ _ _ fun b a _ => by cases b <;> rfl

theorem bestCore_eq_foldl (s : State) (l : List Nat) : bestCore s l = l.foldl (keepBest fun a b => coreBefore s a b = true) none :=
  List.foldl_ext _ _ _ fun b a _ => by cases b <;> rfl

theorem stageItem_eq_none (h : ∀ it, it ∈ s.dv.items → flowDie it.flow = die → isReady s it = true → takers s it = []) :
    stageItem s die = none := by
  have hnone : (s.dv.items.filter fun it => flowDie it.flow == die && isReady s it && !(takers s it).isEmpty) = [] :=
    List.filter_eq_nil_iff.2 fun it hit hc => by
      simp only [Bool.and_eq_true, beq_iff_eq, Bool.not_eq_true'] at hc
      obtain ⟨⟨hdie, hready⟩, htake⟩ := hc
      simp [h it hit hdie hready] at htake
  rw [stageItem_eq_foldl, hnone]
  rfl

/-- The item that is staged is ready, and no ready item of the die that a core can take has a higher level. -/
theorem stageItem_spec (h : stageItem s die = some it) : it ∈ s.dv.items ∧ flowDie it.flow = die ∧ isReady s it = true ∧
    ∀ x ∈ s.dv.items, flowDie x.flow = die → isReady s x = true → takers s x ≠ [] → x.level ≤ it.level := by
  rw [stageItem_eq_foldl] at h
  obtain ⟨-, hmax⟩ := le_of_foldl_keepBest h
  rcases mem_of_foldl_keepBest h with hmem | hmem
  · simp only [List.mem_filter, Bool.and_eq_true, beq_iff_eq] at hmem
    obtain ⟨hit, ⟨hdie, hready⟩, -⟩ := hmem
    exact ⟨hit, hdie, hready, fun x hx hxd hxr hxt => hmax x (List.mem_filter.2 ⟨hx, by simp [hxd, hxr, hxt]⟩)⟩
  · exact absurd hmem nofun

theorem mem_of_bestCore {l : List Nat} (h : bestCore s l = some c) : c ∈ l := by
  rw [bestCore_eq_foldl] at h
  exact (mem_of_foldl_keepBest h).resolve_right nofun

/-- The state with an item staged on a core, behind what was staged before. -/
def stagedAt (s : State) (it : Item) (c : Nat) : State :=
  { s with dv := { s.dv with
      nextOrd := s.dv.nextOrd + 1
      items := s.dv.items.map fun x => if x.id == it.id then { x with place := .staged c s.dv.nextOrd } else x } }

theorem exec_dvStage_of_none {die : Fin 2} (h : stageItem s die = none) : exec (.dvStage die) s = .next s := by
  change execDvStage die s = _
  rw [execDvStage, h]

/-- The item is staged, and a request to wake the core's domain changes no more of Dovetail. -/
theorem exec_dvStage_of_some {die : Fin 2} (hi : stageItem s die = some it) (hc : bestCore s (takers s it) = some c) :
    ∃ t, exec (.dvStage die) s = .next t ∧ t.dv = (stagedAt s it c).dv ∧ Away (stagedAt s it c) t := by
  change ∃ t, execDvStage die s = .next t ∧ _
  simp only [execDvStage, hi, hc]
  cases coreDom c with
  | none => exact ⟨_, rfl, rfl, away_refl _⟩
  | some d => exact ⟨_, rfl, (itemsAndFaultsAs_wakeReq _ d false 1).1, away_wakeReq _ d false 1 (away_refl _)⟩

end

/-! ### A deadline that has not closed (R29) -/

theorem settleItem_of_open {s : State} {p : Nat} {it : Item}
    (h : (getTick s p).wins.find? (fun w => w.item == it.id && decide (w.closeAt ≤ s.tu.count)) = none) : settleItem s p it = s :=
  if_neg fun hany => by
    obtain ⟨w, hw, hclosed⟩ := List.any_eq_true.1 hany
    exact List.find?_eq_none.1 h w hw hclosed

theorem foldl_settleItem_of_open {s : State} {p : Nat} {l : List Item} (h : ∀ y ∈ l,
    (getTick s p).wins.find? (fun w => w.item == y.id && decide (w.closeAt ≤ s.tu.count)) = none) :
    l.foldl (fun s it => settleItem s p it) s = s :=
  List.foldlRecOn l _ (motive := fun t => t = s) rfl fun t ht y hy => by
    subst ht
    exact settleItem_of_open (h y hy)

/-! ### DV.GET (R212) -/

theorem oldestStaged_eq_foldl (s : State) (c : Nat) :
    oldestStaged s c = (stagedOn s c).foldl (keepBest fun a x => stageOrd a < stageOrd x) none :=
  List.foldl_ext _ _ _ fun b a _ => by cases b <;> rfl

theorem stagedOn_eq_nil_of_oldestStaged {s : State} {c : Nat} (h : oldestStaged s c = none) : stagedOn s c = [] := by
  rw [oldestStaged_eq_foldl] at h
  exact eq_nil_of_foldl_keepBest h

theorem exec_dvGet {s u : State} {c : Fin 112} {rd : BitVec 5} (h : FetchesOffEnd s c u) :
    exec (.dvGet c rd 0 0) s = .next (retire (dvGet u c rd.toNat) c (getCore u c).pc) :=
  congrArg Host.Outcome.next (instr_ok h.1 rfl rfl h.2 rfl)

section
variable {s v : State} {c rd : Nat} {it : Item}

theorem dvGet_of_none (h : oldestStaged s c = none) : dvGet s c rd = setG s c rd 0 := by
  simp only [dvGet, stagedOn_eq_nil_of_oldestStaged h, List.foldl_nil, h]

variable (hs : oldestStaged s c = some it) (hw : ∀ y ∈ stagedOn s c,
  (getTick s (corePartN s c)).wins.find? (fun w => w.item == y.id && decide (w.closeAt ≤ s.tu.count)) = none)
include hs hw

theorem dvGet_of_four (h : 4 ≤ (runningOn s c).length) : dvGet s c rd = setG s c rd (BitVec.ofNat 64 (2 ^ 62)) := by
  simp only [dvGet, foldl_settleItem_of_open hw, hs]
  exact if_pos h

theorem dvGet_of_written {n : Nat} (h : (runningOn s c).length < 4)
    (hm : memWrite s (some (corePartN s c)) (getDvCore s c).mbox (itemRecord it) = (0, n, v)) :
    dvGet s c rd = setG (dispatch v c (corePartN s c) it) c rd (handleWord it.hdl) := by
  simp only [dvGet, foldl_settleItem_of_open hw, hs, ge_iff_le, Nat.not_le.2 h, if_false, hm]

end

/-- An item handed to its core is running there since now; no core's registers and no memory change. -/
theorem dispatch_items (s : State) (c p : Nat) (it : Item) : (dispatch s c p it).dv.items =
    s.dv.items.map fun y => if y.id == it.id then { y with place := .running c, getNs := upNs s } else y := rfl

theorem dispatch_cores (s : State) (c p : Nat) (it : Item) : (dispatch s c p it).cores = s.cores := rfl

theorem dispatch_mem (s : State) (c p : Nat) (it : Item) : (dispatch s c p it).mem = s.mem := rfl

theorem retire_setG_dv (s : State) (c i : Nat) (v pc : Word) : (retire (setG s c i v) c pc).dv = s.dv := rfl

theorem retire_setG_mem (s : State) (c i : Nat) (v pc : Word) : (retire (setG s c i v) c pc).mem = s.mem := rfl

/-- What an answer in a register and the completion make of a core depends on the cores alone. -/
theorem getCore_retire_setG_of_cores {s t : State} (h : t.cores = s.cores) (c i : Nat) (v pc : Word) :
    getCore (retire (setG t c i v) c pc) c = getCore (retire (setG s c i v) c pc) c := by
  have hcore : getCore t c = getCore s c := congrArg (fun x : Tab Core => tget x {} c) h
  simp only [retire, setG, getCore_updCore_same, hcore]

/-- Settles O34: the folds that choose the item and its core, and DV.GET by what is staged and how many items run. -/
theorem itemsAreStagedAndRun : Obligations.ItemsAreStagedAndRun := by
  refine ⟨fun die s h => exec_dvStage_of_none (stageItem_eq_none h), fun die s it c hi hc => ?_,
    fun c rd s u hf => ⟨fun h => ?_, fun it hs hw => ⟨fun h => ?_, fun n v h hm => ?_⟩⟩⟩
  · obtain ⟨hit, hdie, hready, hmax⟩ := stageItem_spec hi
    obtain ⟨t, hexec, hdv, haway⟩ := exec_dvStage_of_some hi hc
    exact ⟨t, hexec, hit, hready, hdie, mem_of_bestCore hc, hmax, hdv, away_mem haway, away_cores haway, away_parts haway⟩
  · rw [Gives, exec_dvGet hf, dvGet_of_none h]
  · rw [Gives, exec_dvGet hf, dvGet_of_four hs hw h]
  · have hexec := exec_dvGet (rd := rd) hf
    rw [dvGet_of_written hs hw h hm] at hexec
    refine ⟨_, hexec, ?_, getCore_retire_setG_of_cores (dispatch_cores v c _ it) .., ?_⟩
    · rw [retire_setG_dv, dispatch_items]
    · rw [retire_setG_mem, dispatch_mem]

end Sys2Proof.Machine
end

section
/-!
SUPPORT. Items that leave their flow: DV.REL, DV.CXL and forwarding (09_dovetail R213, R215, R216).
-/
namespace Sys2Proof.Machine

/-! ### DV.REL (R213) -/

/-- The item as DV.REL releases it: with the TAG of a register, and as a tombstone where the code is not 0. -/
def releasedAs (x : Core) (gt code : Nat) (it : Item) : Item :=
  let tagged := if gt = 0 then it else { it with tag := gRead x gt }
  if code = 0 then tagged else toTomb tagged code

theorem exec_dvRel {s u : State} {c : Fin 112} {gt rs1 : BitVec 5} {code : BitVec 10} (h : FetchesOffEnd s c u) (hlt : code.toNat < 256)
    (hcode : code = 0 ∨ 0xC0 ≤ code.toNat) :
    exec (.dvRel c gt rs1 code) s = .next (retire (dvRel u c gt.toNat rs1.toNat code.toNat) c (getCore u c).pc) :=
  congrArg Host.Outcome.next (instr_ok h.1 (by simpa [hlt] using hcode) rfl h.2 rfl)

section
variable {s : State} {c gt rs1 code : Nat}

theorem dvRel_of_none (h : heldItem s c (gRead (getCore s c) rs1) = none) :
    dvRel s c gt rs1 code = bump s .dvRelBad (dvBank (corePartN s c) (handleDie (gRead (getCore s c) rs1))) := by
  simp only [dvRel, h]

theorem getCore_countBudget (s : State) (p c k : Nat) (it : Item) : getCore (countBudget s p c it) k = getCore s k := by
  unfold countBudget
  split
  · split <;> rfl
  · rfl

theorem dvRel_of_some {it : Item} (h : heldItem s c (gRead (getCore s c) rs1) = some it)
    (hw : (getTick s (corePartN s c)).wins.find? (fun w => w.item == it.id && decide (w.closeAt ≤ s.tu.count)) = none) :
    dvRel s c gt rs1 code = noteIdle (releaseItem (countBudget s (corePartN s c) c it) (releasedAs (getCore s c) gt code it)) c := by
  simp only [dvRel, h, settleItem_of_open hw, getCore_countBudget]
  rfl

end

/-! ### DV.CXL (R216) -/

theorem exec_dvCxl {s u : State} {c : Fin 112} {rd rs1 : BitVec 5} (h : FetchesOffEnd s c u) :
    exec (.dvCxl c rd rs1 0) s = .next (retire (dvCxl u c rd.toNat rs1.toNat) c (getCore u c).pc) :=
  congrArg Host.Outcome.next (instr_ok h.1 rfl rfl h.2 rfl)

theorem isWaiting_of_isRunning {it : Item} (h : isRunning it = true) : isWaiting it = false := by
  unfold isRunning at h
  unfold isWaiting
  cases hp : it.place with
  | running c => rfl
  | queued | staged c o | held | complete | reserved => simp [hp] at h

section
variable {s : State} {c rd rs1 : Nat} {it : Item}

theorem dvCxl_of_none (h : itemOfReg s (gRead (getCore s c) rs1) = none) :
    dvCxl s c rd rs1 = setG (bump s .dvCxlMiss (dvBank (corePartN s c) (handleDie (gRead (getCore s c) rs1)))) c rd 0 := by
  simp only [dvCxl, h]

variable (h : itemOfReg s (gRead (getCore s c) rs1) = some it)
include h

theorem dvCxl_of_foreign (ho : ownsFlow s (corePartN s c) it.flow = false) :
    dvCxl s c rd rs1 = setG (bump s .dvCxlMiss (dvBank (corePartN s c) (handleDie (gRead (getCore s c) rs1)))) c rd 0 := by
  simp [dvCxl, h, ho]

theorem dvCxl_of_waiting (ho : ownsFlow s (corePartN s c) it.flow = true) (hw : isWaiting it = true) :
    dvCxl s c rd rs1 = setG (bump (abortItem s it 0x81) .dvCxlPre (dvBank (corePartN s c) (flowDie it.flow))) c rd 1 := by
  simp [dvCxl, h, ho, hw]

theorem dvCxl_of_running (ho : ownsFlow s (corePartN s c) it.flow = true) (hr : isRunning it = true) :
    dvCxl s c rd rs1 = setG (bump (abortItem s it 0x81) .dvCxlRun (dvBank (corePartN s c) (flowDie it.flow))) c rd 2 := by
  simp [dvCxl, h, ho, isWaiting_of_isRunning hr, hr]

end

/-! ### Leaving a flow (R215) -/

theorem dropItem_of_kind_ne (s : State) (it : Item) (hk : (getFlow s it.flow).kind ≠ 2) :
    dropItem s it = setItems s (s.dv.items.filter fun x => x.id != it.id) := if_neg fun h => hk h.1

theorem countOut_items (s : State) (it : Item) : (countOut s it).dv.items = s.dv.items := by
  unfold countOut
  dsimp only
  split
  · split <;> rfl
  · rfl

theorem getFlow_countOut (s : State) (it : Item) : getFlow (countOut s it) it.flow = { getFlow s it.flow with
    outCnt := ((getFlow s it.flow).outCnt + 1) % 2 ^ 64
    tombCnt := if it.tomb then ((getFlow s it.flow).tombCnt + 1) % 2 ^ 64 else (getFlow s it.flow).tombCnt } := by
  unfold countOut
  dsimp only
  split
  · split <;> exact tget_tset_same _ _ _ _
  · exact tget_tset_same _ _ _ _

/-- An item that is written back and then removed is removed. -/
theorem filter_map_replaced (l : List Item) (i : Nat) (f : Item → Item) (hf : ∀ x, x.id = i → (f x).id = i) :
    (l.map fun x => if x.id == i then f x else x).filter (fun x => x.id != i) = l.filter fun x => x.id != i := by
  induction l with
  | nil => rfl
  | cons a l ih =>
    by_cases ha : a.id = i
    · simpa [ha, hf a ha] using ih
    · simpa [ha] using ih

theorem leave_without_successor {s : State} {it : Item} (h : (getFlow s it.flow).nextEn = false) :
    leave s it = (true, countOut (dropItem s it) it) := by
  simp [leave, h]

/-- An item that its successor accepts moves on, on its own die in its own slot (R209). -/
theorem leave_to_successor {s : State} {it : Item} {p : Nat} (hn : (getFlow s it.flow).nextEn = true)
    (ht : it.tomb = false ∨ (getFlow s it.flow).tfwd = true) (ho : flowOwner s it.flow = some p)
    (hr : refusal s p (getFlow s it.flow).next (flowDie (getFlow s it.flow).next == flowDie it.flow) = 0) :
    leave s it = (true, (addItem (countOut (dropItem s it) it)
      { flow := (getFlow s it.flow).next, kind := it.kind, tomb := it.tomb, tag := it.tag, arg0 := it.arg0, arg1 := it.arg1 }
      (if flowDie (getFlow s it.flow).next = flowDie it.flow then some (itemSlot it) else none) .queued).1) := by
  have hgo : (!(getFlow s it.flow).nextEn || (it.tomb && !(getFlow s it.flow).tfwd)) = false := by
    rcases ht with ht | ht <;> simp [hn, ht]
  simp only [leave, hgo, Bool.false_eq_true, if_false, ho, hr, if_true]

/-- The flow of kind 0 without a successor: the item leaves at once. -/
theorem releaseItem_parallel {s : State} {it : Item} (hk : (getFlow s it.flow).kind = 0) (hn : (getFlow s it.flow).nextEn = false) :
    releaseItem s it = countOut (setItems (dropWins s it.id) (s.dv.items.filter fun x => x.id != it.id)) it := by
  let u := updItem (dropWins s it.id) it.id fun _ => it
  have hkind : (getFlow u it.flow).kind ≠ 2 := fun h => absurd (hk.symm.trans h) (by decide)
  have hitems : u.dv.items.filter (fun x => x.id != it.id) = s.dv.items.filter fun x => x.id != it.id :=
    filter_map_replaced s.dv.items it.id (fun _ => it) fun _ _ => rfl
  have hleave : leave u it = (true, countOut (dropItem u it) it) := leave_without_successor hn
  calc releaseItem s it = (leave u it).2 := if_neg fun h => absurd (hk.symm.trans h) (by decide)
    _ = countOut (setItems u (u.dv.items.filter fun x => x.id != it.id)) it := by rw [hleave, dropItem_of_kind_ne u it hkind]
    _ = _ := by rw [hitems]; rfl

theorem retryHeld_of_none {s : State} {f : Nat} (hk : (getFlow s f).kind ≠ 1)
    (h : (flowItems s f).find? (fun it => it.place == .held) = none) : retryHeld s f = s := by
  simp only [retryHeld, hk, if_false, h]

theorem retryHeld_of_some {s : State} {f : Nat} {it : Item} (hk : (getFlow s f).kind ≠ 1)
    (h : (flowItems s f).find? (fun it => it.place == .held) = some it) : retryHeld s f = (leave s it).2 := by
  simp only [retryHeld, hk, if_false, h]

theorem itemsLeaveFlows : Parts.ItemsLeaveFlows := by
  refine ⟨fun c gt rs1 code s u hf hlt hcode => ⟨fun h => ?_, fun it h hw => ?_⟩,
    fun c rd rs1 s u hf => ⟨fun h => ?_, fun it h => ⟨fun ho => ?_, fun ho hw => ?_, fun ho hr => ?_⟩⟩,
    fun s it hk hn => ?_, fun flow s hk => ⟨fun h => ?_, fun it p h hn ht ho hr => ?_⟩⟩
  · rw [Gives, exec_dvRel hf hlt hcode, dvRel_of_none h]
  · rw [Gives, exec_dvRel hf hlt hcode, dvRel_of_some h hw]
    rfl
  · rw [Gives, exec_dvCxl hf, dvCxl_of_none h]
    rfl
  · rw [Gives, exec_dvCxl hf, dvCxl_of_foreign h ho]
    rfl
  · rw [Gives, exec_dvCxl hf, dvCxl_of_waiting h ho hw]
    rfl
  · rw [Gives, exec_dvCxl hf, dvCxl_of_running h ho hr]
    rfl
  · rw [releaseItem_parallel hk hn]
    exact ⟨countOut_items _ _, by rw [getFlow_countOut]; rfl, by rw [getFlow_countOut]; rfl⟩
  · exact congrArg Host.Outcome.next (retryHeld_of_none hk h)
  · exact congrArg Host.Outcome.next ((retryHeld_of_some hk h).trans (congrArg Prod.snd (leave_to_successor hn ht ho hr)))

end Sys2Proof.Machine
end

section
/-!
SUPPORT. The configuration of flows and core sets (09_dovetail R206, R214), and what raising an event leaves alone of Dovetail.
-/
namespace Sys2Proof.Machine

/-! ### Core sets and power domains under an event -/

/-- The core sets and the power domains of `s` are those of `A`. -/
def CsetsAndDomsAs (A s : State) : Prop := s.dv.csets = A.dv.csets ∧ s.doms = A.doms

section
variable {A s : State}

theorem csetsAndDomsAs_postHost (h : Nat) (e : Evt) (hs : CsetsAndDomsAs A s) : CsetsAndDomsAs A (postHost s h e) := by
  unfold postHost
  dsimp only
  split
  · exact hs
  split
  · exact hs
  split
  · split <;> exact hs
  · split <;> exact hs

theorem csetsAndDomsAs_enqueue (p : Nat) (n : NewItem) (hs : CsetsAndDomsAs A s) : CsetsAndDomsAs A (enqueue s p n).2.1 := by
  unfold enqueue countRefusal
  dsimp only
  split
  · exact hs
  · split <;> exact hs

theorem csetsAndDomsAs_toEventFlow (p code w2 w3 : Nat) (hs : CsetsAndDomsAs A s) : CsetsAndDomsAs A (toEventFlow s p code w2 w3) := by
  have henq := fun n => csetsAndDomsAs_enqueue p n hs
  unfold toEventFlow
  dsimp only
  split
  · exact hs
  split
  · split
    next e => exact (congrArg (fun r : Nat × State × Option Item => CsetsAndDomsAs A r.2.1) e).mp (henq _)
    next e => exact csetsAndDomsAs_postHost _ _ ((congrArg (fun r : Nat × State × Option Item => CsetsAndDomsAs A r.2.1) e).mp (henq _))
  · exact hs

theorem csetsAndDomsAs_raisePart (p code w2 w3 : Nat) (hs : CsetsAndDomsAs A s) : CsetsAndDomsAs A (raisePart s p code w2 w3) := by
  have hdeliver : CsetsAndDomsAs A (deliver s p code w2 w3) := csetsAndDomsAs_toEventFlow _ _ _ _ (csetsAndDomsAs_postHost _ _ hs)
  unfold raisePart
  dsimp only
  split <;> exact hdeliver

end

/-! ### DV_CSETs (R214) -/

theorem csetEmpty_as (s : State) (die p k : Nat) (old : Nat × Nat) : Away s (csetEmpty s die p k old) ∧ CsetsAndDomsAs s (csetEmpty s die p k old) := by
  unfold csetEmpty
  split
  · exact ⟨away_raisePart _ _ _ _ _ (away_refl s), csetsAndDomsAs_raisePart _ _ _ _ ⟨rfl, rfl⟩⟩
  · exact ⟨away_refl s, rfl, rfl⟩

/-- What DV_CSET_EMPTY changes: Dovetail but for its core sets, host ports, counters, the count of free values and the fault unit. -/
theorem csetEmpty_eq (s : State) (die p k : Nat) (old : Nat × Nat) :
    { csetEmpty s die p k old with dv := s.dv, hosts := s.hosts, ctr := s.ctr, fresh := s.fresh, flt := s.flt } = s := by
  obtain ⟨haway, -, hdoms⟩ := csetEmpty_as s die p k old
  dsimp only
  rw [hdoms]
  exact away_eq haway

/-- The state with a core set written. -/
def csetWritten (s : State) (die p k v : Nat) : State :=
  { s with dv := { s.dv with csets := tset s.dv.csets (64 * die + 16 * p + k) v } }

theorem csetOf_csetWritten_same (s : State) (die p k v : Nat) : csetOf (csetWritten s die p k v) die p k = v := tget_tset_same _ _ _ _

theorem csetOf_csetWritten_ne (s : State) (die p v : Nat) {j k : Nat} (h : j ≠ k) :
    csetOf (csetWritten s die p k v) die p j = csetOf s die p j := tget_tset_ne _ _ _ (by omega)

theorem csetOf_csetEmpty (s : State) (die p k j : Nat) (old : Nat × Nat) : csetOf (csetEmpty s die p k old) die p j = csetOf s die p j :=
  congrArg (tget · 0 (64 * die + 16 * p + j)) (csetEmpty_as s die p k old).2.1

/-- A set that is taken names cores of the partition only. -/
theorem ownsCore_of_csetOk {s : State} {die p v j : Nat} (h : csetOk s die p v = true) (hj : j < 56) (hb : bit v j = true) :
    ownsCore s p (globalCore die j) = true := by
  simpa [hb] using List.all_eq_true.1 h j (mem_upFrom.2 ⟨Nat.zero_le j, by omega⟩)

section
variable {who : Agent} {die : Fin 2} {p : Fin 4} {set : Fin 16} {val : Word} {s : State}

theorem exec_dvCsetWrite_lost (h : dieOut s die = true) : exec (.dvCsetWrite who die p set val) s = .next (answer s 4 0) := if_pos h

variable (hd : dieOut s die = false) (hm : mayTouch who (some p.val) = true)
include hd hm

theorem exec_dvCsetWrite_refused (h : csetOk s die p (val.toNat % 2 ^ 56) = false) :
    exec (.dvCsetWrite who die p set val) s = .next (done (bump s .dvCfgRej (dvBank p die))) := by
  change execDvCsetWrite who die p set val s = _
  simp only [execDvCsetWrite, hd, hm, h, Bool.not_true, Bool.false_eq_true, if_false]

theorem exec_dvCsetWrite_taken (h : csetOk s die p (val.toNat % 2 ^ 56) = true) :
    exec (.dvCsetWrite who die p set val) s = .next (done (csetEmpty (csetWritten s die p set (val.toNat % 2 ^ 56)) die p set
      (csetElig s die p set false, csetElig s die p set true))) := by
  change execDvCsetWrite who die p set val s = _
  simp only [execDvCsetWrite, hd, hm, h, Bool.not_true, Bool.false_eq_true, if_false, if_true]
  rfl

end

/-! ### Flow contexts (R206) -/

section
variable {who : Agent} {p : Fin 4} {flow : BitVec 18} {val : BitVec 32} {s : State}

theorem exec_dvFlowCfgWrite_lost (h : dieOut s (flowDie flow.toNat) = true) : exec (.dvFlowCfgWrite who flow val) s = .next (answer s 4 0) :=
  if_pos h

variable (hd : dieOut s (flowDie flow.toNat) = false)
include hd

theorem exec_dvFlowCfgWrite_host {h : Fin 4} : exec (.dvFlowCfgWrite (.host h) flow val) s = .next (foreign s) := by
  change execDvFlowCfgWrite (.host h) flow val s = _
  simp [execDvFlowCfgWrite, hd]

theorem exec_dvFlowCfgWrite_refused (h : flowConfigOk s p flow.toNat (getFlow s flow.toNat) (flowConfig (getFlow s flow.toNat) val.toNat) = false) :
    exec (.dvFlowCfgWrite (.part p) flow val) s = .next (done (bump s .dvCfgRej (dvBank p (flowDie flow.toNat)))) := by
  change execDvFlowCfgWrite (.part p) flow val s = _
  simp [execDvFlowCfgWrite, hd, h]

theorem exec_dvFlowCfgWrite_taken (h : flowConfigOk s p flow.toNat (getFlow s flow.toNat) (flowConfig (getFlow s flow.toNat) val.toNat) = true) :
    let o := getFlow s flow.toNat
    let n := flowConfig o val.toNat
    exec (.dvFlowCfgWrite (.part p) flow val) s = .next (done (setFlow s flow.toNat
      (if !o.valid && n.valid then { n with seqNext := 0, seqOut := 0, enqCnt := 0, outCnt := 0, tombCnt := 0, rejCnt := 0 } else n))) := by
  change execDvFlowCfgWrite (.part p) flow val s = _
  simp only [execDvFlowCfgWrite, hd, h, Bool.false_eq_true, if_false, if_true]

end

/-- What a configuration that passes R206 meets. -/
theorem of_flowConfigOk {s : State} {p f : Nat} {o n : Flow} (h : flowConfigOk s p f o n = true) :
    n.kind ≠ 3 ∧ n.qmax ≠ 0 ∧ ownsFlow s p f = true ∧ qcount s f ≤ n.qmax ∧
      (0 < qcount s f → n.kind = o.kind ∧ n.cset = o.cset ∧ n.next = o.next ∧ n.nextEn = o.nextEn) := by
  simp only [flowConfigOk, Bool.and_eq_true, bne_iff_ne, decide_eq_true_eq, Bool.not_eq_true', Bool.and_eq_false_iff, Bool.or_eq_false_iff,
    decide_eq_false_iff_not, bne_eq_false_iff_eq] at h
  obtain ⟨⟨⟨⟨⟨hown, hkind⟩, hqmax⟩, -⟩, hkeep⟩, hcount⟩ := h
  refine ⟨hkind, hqmax, hown, hcount, fun hpos => ?_⟩
  obtain ⟨⟨⟨⟨⟨hk, hc⟩, hn⟩, he⟩, -⟩, -⟩ := hkeep.resolve_left fun h => h hpos
  exact ⟨hk, hc, hn, he⟩

theorem flowsAndCoreSetsAreConfigured : Parts.FlowsAndCoreSetsAreConfigured := by
  refine ⟨fun p flow val s => ⟨fun h who => exec_dvFlowCfgWrite_lost h, fun hd => ⟨exec_dvFlowCfgWrite_refused hd, fun h hv => ?_,
    fun h ho hn => ?_, of_flowConfigOk, exec_dvFlowCfgWrite_host hd⟩⟩,
    fun who die p set val s => ⟨exec_dvCsetWrite_lost, fun hd hm => ⟨exec_dvCsetWrite_refused hd hm, fun h => ?_⟩⟩⟩
  · refine (exec_dvFlowCfgWrite_taken hd h).trans ?_
    rcases hv with hv | hv <;> simp [hv]
  · refine (exec_dvFlowCfgWrite_taken hd h).trans ?_
    simp [ho, hn]
  · exact ⟨_, exec_dvCsetWrite_taken hd hm h, (csetOf_csetEmpty ..).trans (csetOf_csetWritten_same ..),
      fun k _ hk => (csetOf_csetEmpty ..).trans (csetOf_csetWritten_ne s die p _ hk), fun j hj hb => ownsCore_of_csetOk h hj hb,
      congrArg (fun x : State => { x with dv := s.dv, answer := s.answer }) (csetEmpty_eq (csetWritten s die p set _) die p set _)⟩

/-- Settles O35: what releases, cancels and forwards by the case of the item, and each configuration by its check. -/
theorem itemsLeaveAndFlowsAreConfigured : Obligations.ItemsLeaveAndFlowsAreConfigured := ⟨itemsLeaveFlows, flowsAndCoreSetsAreConfigured⟩

end Sys2Proof.Machine
end

section
/-!
SUPPORT. Injection at a port of the fabric (10_spline_fabric R222 to R224, R231, R232, R244): the next packet to start where one waits, and what becomes of it.
-/
namespace Sys2Proof.Machine

/-! ### What the fabric's own state leaves as it is -/

@[simp] theorem getPort_addPkt (s : State) (p : Pkt) (q : Nat) : getPort (addPkt s p) q = getPort s q := rfl
@[simp] theorem getPort_dropPkt (s : State) (p : Pkt) (q : Nat) : getPort (dropPkt s p) q = getPort s q := rfl

/-! ### The packet that a port starts next (R244) -/

section
variable {s : State} {q cls : Nat} {p : Pkt}

/-- 64 successive numbers name every SUBSRC. -/
theorem findSome?_turns {α : Type} {a : α} {turn n : Nat} (h : n < 64) :
    ((upFrom (turn + 1) 64).findSome? fun b => if n = b % 64 then some a else none) = some a := by
  have hfound : ((upFrom (turn + 1) 64).findSome? fun b => if n = b % 64 then some a else none).isSome = true := by
    rw [List.isSome_findSome?]
    refine List.any_eq_true.2 ⟨turn + 1 + (n + 64 - (turn + 1) % 64) % 64, mem_upFrom.2 (by omega), ?_⟩
    rw [if_pos (by omega)]
    rfl
  obtain ⟨r, hr⟩ := Option.isSome_iff_exists.1 hfound
  obtain ⟨b, -, hb⟩ := List.exists_of_findSome?_eq_some hr
  split at hb
  · rw [hr, hb]
  · cases hb

theorem nextWait_of_ne (h : ∀ p ∈ (getPort s q).wait, p.cls ≠ cls) : nextWait s q cls = none := by
  have hl : ((getPort s q).wait.filter fun p => p.cls == cls) = [] := List.filter_eq_nil_iff.2 fun p hp => by simpa using h p hp
  simp [nextWait, hl]

theorem nextWait_of_wait_eq_singleton (h : (getPort s q).wait = [p]) (hsub : p.subsrc < 64) : nextWait s q p.cls = some p := by
  by_cases hd : (portDma q p.subsrc).isSome = true
  case neg => simp [nextWait, h, Option.not_isSome_iff_eq_none.1 hd]
  have hnone : (portDma q p.subsrc).isNone = false := by simpa [Option.isSome_iff_ne_none] using hd
  simp only [nextWait, h, List.filter_cons, List.filter_nil, beq_self_eq_true, if_true, List.head?_cons, hnone, hd, Bool.false_eq_true, if_false]
  split <;> simp [findSome?_turns hsub]

end

/-! ### Starting what a port can start (R231, R232) -/

/-- The packet that waits alone starts, or it waits on, and a changing route holds its class. -/
def startOrHold (s : State) (q : Nat) (p : Pkt) : State :=
  if mayStart s q p then launch s q p
  else if chgHolds s q p && !(getPort s q).heldCls.contains p.cls then setPort s q { getPort s q with heldCls := (getPort s q).heldCls ++ [p.cls] }
  else s

section
variable {s : State} {q : Nat} {p : Pkt}

theorem pumpCls_of_ne {cls f : Nat} (h : ∀ p ∈ (getPort s q).wait, p.cls ≠ cls) : pumpCls s q cls f = s := by
  cases f with
  | zero => rfl
  | succ f => rw [pumpCls, nextWait_of_ne h]

theorem getPort_launch_wait : (getPort (launch s q p) q).wait = (getPort s q).wait.erase p := by simp [launch]

theorem pumpCls_of_wait_eq_singleton (h : (getPort s q).wait = [p]) (hsub : p.subsrc < 64) : pumpCls s q p.cls 1 = startOrHold s q p := by
  rw [pumpCls, nextWait_of_wait_eq_singleton h hsub]
  rfl

/-- Whether the packet starts or waits, no other packet waits behind it. -/
theorem mem_wait_startOrHold (h : (getPort s q).wait = [p]) : ∀ r ∈ (getPort (startOrHold s q p) q).wait, r = p := by
  unfold startOrHold
  split
  · rw [getPort_launch_wait, h]
    simp
  · split <;> simp [h]

theorem pump_of_wait_eq_singleton (h : (getPort s q).wait = [p]) (hsub : p.subsrc < 64) (hcls : p.cls < 4) :
    pump s q = startOrHold (setPort s q (gainTokens (getPort s q) (upNs s))) q p := by
  have hwait : (getPort (setPort s q (gainTokens (getPort s q) (upNs s))) q).wait = [p] := by simpa [gainTokens] using h
  unfold pump
  generalize setPort s q (gainTokens (getPort s q) (upNs s)) = u at hwait ⊢
  have hbefore : ∀ {cls f}, p.cls ≠ cls → pumpCls u q cls f = u := fun hne => pumpCls_of_ne (by simpa [hwait] using hne)
  have hafter : ∀ {cls f}, p.cls ≠ cls → pumpCls (startOrHold u q p) q cls f = startOrHold u q p :=
    fun hne => pumpCls_of_ne fun r hr => mem_wait_startOrHold hwait r hr ▸ hne
  have hown : pumpCls u q p.cls (getPort u q).wait.length = startOrHold u q p := by
    rw [hwait]
    exact pumpCls_of_wait_eq_singleton hwait hsub
  obtain hc | hc | hc | hc : p.cls = 0 ∨ p.cls = 1 ∨ p.cls = 2 ∨ p.cls = 3 := by omega
  all_goals
    rw [hc] at hbefore hafter hown
    simp [hbefore, hafter, hown]

theorem startOrHold_ne {j : Nat} (h : j ≠ q) : getPort (startOrHold s q p) j = getPort s j := by
  unfold startOrHold
  split
  · simp [launch, h]
  · split <;> simp [h]

theorem startOrHold_eq : { startOrHold s q p with noc := s.noc } = s := by
  unfold startOrHold
  split
  · rfl
  · split <;> rfl

theorem startOrHold_of_mayStart (h : mayStart s q p = true) : startOrHold s q p = launch s q p := if_pos h

/-- A packet that waits on stays as it is; where a changing route holds it, it holds its class. -/
theorem startOrHold_of_not_mayStart (h : mayStart s q p = false) :
    (startOrHold s q p).noc.pkts = s.noc.pkts ∧ (getPort (startOrHold s q p) q).wait = (getPort s q).wait ∧
      (getPort (startOrHold s q p) q).tok = (getPort s q).tok ∧ (getPort (startOrHold s q p) q).seq = (getPort s q).seq ∧
      (chgHolds s q p = true → (getPort (startOrHold s q p) q).heldCls.contains p.cls = true) := by
  rw [startOrHold, h, if_neg Bool.false_ne_true]
  split
  · exact ⟨rfl, by simp⟩
  next hheld => exact ⟨rfl, rfl, rfl, rfl, fun hc => by simpa [hc] using hheld⟩

end

/-! ### Forming a packet (R224, R231) -/

/-- The packet with the next SEQ of its class at a port. -/
def numbered (s : State) (q : Nat) (p : Pkt) : Pkt := { p with seq := tget (getPort s q).seq 0 p.cls }

/-- What a port holds once it has formed a packet that is no RSP and counted its tokens. -/
def portFormed (s : State) (q : Nat) (p : Pkt) : NocPort :=
  let x := getPort s q
  let n := tget x.seq 0 p.cls
  { gainTokens x (upNs s) with
    seq := tset x.seq p.cls ((n + 1) % 4096), lost := if p.cls = 2 then x.lost.filter fun i => i != n else x.lost, wait := x.wait ++ [numbered s q p] }

/-- The state in which a port has formed a packet and not yet tried to start it. -/
def formed (s : State) (q : Nat) (p : Pkt) : State := setPort s q (portFormed s q p)

section
variable {s : State} {q : Nat} {p : Pkt}

@[simp] theorem getPort_formed_same : getPort (formed s q p) q = portFormed s q p := getPort_setPort_same ..

theorem setPort_setPort (s : State) (q : Nat) (x y : NocPort) : setPort (setPort s q x) q y = setPort s q y := by simp [setPort]

theorem sendPkt_of_wait_eq_nil (h : (getPort s q).wait = []) (hsub : p.subsrc < 64) (hcls : p.cls < 4) (hne : p.cls ≠ 1) :
    sendPkt s q p = startOrHold (formed s q p) q (numbered s q p) := by
  rw [sendPkt, if_neg hne, pump_of_wait_eq_singleton (p := numbered s q p) (by simp [h, numbered]) hsub hcls, setPort_setPort, getPort_setPort_same]
  rfl

theorem chgHolds_formed : chgHolds (formed s q p) q (numbered s q p) =
    ((getPort s q).heldCls.contains p.cls || ((portNoc s q).busy && chgBit (getPort s q) p.dest)) := by
  rw [chgHolds, getPort_formed_same]
  rfl

theorem mayStart_formed (hne : p.cls ≠ 1) : mayStart (formed s q p) q (numbered s q p) =
    (!((getPort s q).heldCls.contains p.cls || ((portNoc s q).busy && chgBit (getPort s q) p.dest)) &&
      (sendGate s q (numbered s q p) == 0 && decide (pktCost p ≤ tget (gainTokens (getPort s q) (upNs s)).tok 0 p.cls))) := by
  have hcls : ((numbered s q p).cls == 1) = false := by simpa [numbered] using hne
  rw [mayStart, chgHolds_formed, hcls, Bool.false_or, getPort_formed_same]
  rfl

/-- A packet that starts at once leaves nothing waiting, and takes its tokens (R231). -/
theorem launch_formed (h : (getPort s q).wait = []) (hne : p.cls ≠ 1) (hepoch : p.epoch = (getPort s q).epoch) :
    let t := launch (formed s q p) q (numbered s q p)
    t.noc.pkts = s.noc.pkts ++ [numbered s q p] ∧ (getPort t q).wait = [] ∧
      tget (getPort t q).tok 0 p.cls = tget (gainTokens (getPort s q) (upNs s)).tok 0 p.cls - pktCost p ∧
      (getPort t q).seq = (portFormed s q p).seq := by
  have hcls : (numbered s q p).cls = p.cls := rfl
  refine ⟨?_, ?_, ?_, ?_⟩
  · simp only [launch, addPkt, getPort_formed_same]
    exact congrArg (fun e => s.noc.pkts ++ [{ numbered s q p with epoch := e }]) hepoch.symm
  · simp [launch, portFormed, h]
  · simp [launch, portFormed, hcls, hne]
    rfl
  · simp [launch]

end

/-! ### Handing an answer over (R225, R226, R253) -/

section
variable (s : State)

theorem away_dmaRefused (k : Nat) (p : Pkt) : ∃ x, Away (setDma s k x) (dmaRefused s k p) := by
  unfold dmaRefused signalDma
  dsimp only
  split
  · exact ⟨_, away_refl _⟩
  · split
    · exact ⟨_, away_signalCore _ _ (away_refl _)⟩
    · exact ⟨_, away_refl _⟩

/-- Of the fabric, an answer changes what its port holds as its latest one. -/
theorem answerAgent_noc (q : Nat) (p : Pkt) : (answerAgent s q p).noc = (setPort s q { getPort s q with ans := some p }).noc := by
  unfold answerAgent
  dsimp only
  split
  next k _ =>
    split
    · obtain ⟨x, hx⟩ := away_dmaRefused (setPort s q { getPort s q with ans := some p }) k p
      exact (away_noc hx).trans rfl
    · rfl
  · split
    · rfl
    · split <;> rfl

theorem getPort_of_noc_eq {s t : State} (h : t.noc = s.noc) (q : Nat) : getPort t q = getPort s q := congrArg (fun n : Noc => tget n.ports {} q) h

@[simp] theorem getPort_answerAgent_same (q : Nat) (p : Pkt) : getPort (answerAgent s q p) q = { getPort s q with ans := some p } :=
  (getPort_of_noc_eq (answerAgent_noc s q p) q).trans (getPort_setPort_same ..)

end

/-! ### A request of an agent (R222 to R224) -/

/-- A request that fits is of class REQ, STR or EVT (R225). -/
theorem cmdClass_of_reqFits {r : NocReq} (h : reqFits r = true) : cmdClass r.cmd.toNat < 4 ∧ cmdClass r.cmd.toNat ≠ 1 := by
  simp only [reqFits] at h
  split at h
  next hc => simp [hc, cmdClass]
  · split at h
    next hc => simp [hc]
    · simp only [Bool.and_eq_true, decide_eq_true_eq, bne_iff_ne] at h
      omega

section
variable {src : Fin 160} {r : NocReq} {s : State}

theorem exec_nocInject_ignored (h : reqFits r = false ∨ agentAt src r.subsrc.toNat = false ∨ servesPart s src r.subsrc.toNat r.part.val = false) :
    exec (.nocInject src (some r)) s = .next s :=
  if_pos (by simpa using h)

variable (hfit : reqFits r = true) (hagent : agentAt src r.subsrc.toNat = true) (hserves : servesPart s src r.subsrc.toNat r.part.val = true)
include hfit hagent hserves

theorem exec_nocInject_nowhere (h : reqDest r = none) :
    exec (.nocInject src (some r)) s =
      .next (answerAgent s src (rspOf s { makePkt s src src r with seq := tget (getPort s src).seq 0 (cmdClass r.cmd.toNat) }
        (if cmdClass r.cmd.toNat = 2 then 0x14 else dueAnswer r.cmd.toNat) 4 0 [])) := by
  change execNocInject src (some r) s = _
  simp only [execNocInject, hfit, hagent, hserves, h, Bool.not_true, Bool.false_eq_true, or_self, if_false]
  rfl

theorem exec_nocInject_somewhere {d : Nat} (h : reqDest r = some d) :
    exec (.nocInject src (some r)) s = .next (sendPkt s src (makePkt s src d r)) := by
  change execNocInject src (some r) s = _
  simp only [execNocInject, hfit, hagent, hserves, h, Bool.not_true, Bool.false_eq_true, or_self, if_false]

end

/-- Settles O36: a packet that a port forms while nothing waits starts, or waits alone, by `mayStart`. -/
theorem packetsAreInjected : Obligations.PacketsAreInjected := by
  intro src r s cls x tok cost row
  refine ⟨exec_nocInject_ignored, fun hfit hagent hserves => ⟨fun hd => ?_, ?_⟩⟩
  · refine ⟨_, exec_nocInject_nowhere hfit hagent hserves hd, ?_, _, congrArg NocPort.ans (getPort_answerAgent_same _ _ _), rfl, rfl, rfl, rfl, rfl⟩
    rw [answerAgent_noc]
    rfl
  intro d hd hwait p held
  obtain ⟨hlt, hne⟩ := cmdClass_of_reqFits hfit
  let u := formed s src (makePkt s src d r)
  have hu : getPort u src = portFormed s src (makePkt s src d r) := getPort_formed_same
  have hexec : exec row s = .next (startOrHold u src p) := (exec_nocInject_somewhere hfit hagent hserves hd).trans
    (congrArg Host.Outcome.next (sendPkt_of_wait_eq_nil (p := makePkt s src d r) hwait r.subsrc.isLt hlt hne))
  have hholds : chgHolds u src p = held := chgHolds_formed
  have hmay : mayStart u src p = (!held && (sendGate s src p == 0 && decide (cost ≤ tok))) := mayStart_formed (p := makePkt s src d r) hne
  have hseq : tget (portFormed s src (makePkt s src d r)).seq 0 cls = (tget x.seq 0 cls + 1) % 4096 := tget_tset_same ..
  have hother : ∀ q : Nat, q ≠ src.val → getPort (startOrHold u src p) q = getPort s q :=
    fun q hq => (startOrHold_ne hq).trans (getPort_setPort_ne _ _ hq)
  have houtside : { startOrHold u src p with noc := s.noc } = s := congrArg (fun t : State => { t with noc := s.noc }) startOrHold_eq
  refine ⟨⟨rfl, rfl, rfl, rfl, rfl, rfl, rfl⟩, fun hfree hgate hcost => ⟨_, hexec, ?_⟩, fun hwaits => ⟨_, hexec, ?_⟩⟩
  · have hgo : mayStart u src p = true := by simp [hmay, hfree, hgate, hcost]
    obtain ⟨hpkts, hnone, htok, hseqs⟩ := launch_formed (s := s) (q := src) (p := makePkt s src d r) hwait hne rfl
    rw [startOrHold_of_mayStart hgo] at hother houtside ⊢
    exact ⟨hpkts, hnone, htok, hseqs ▸ hseq, hother, houtside⟩
  · have hstay : mayStart u src p = false := by
      rw [hmay]
      rcases hwaits with h | h | h
      · simp [h]
      · simp [h]
      · simp [Nat.not_le.2 h]
    obtain ⟨hpkts, hwaiting, htok, hseqs, hclass⟩ := startOrHold_of_not_mayStart hstay
    rw [hu] at hwaiting htok hseqs
    refine ⟨hpkts, hwaiting.trans ?_, htok ▸ rfl, hseqs ▸ hseq, fun h => hclass (hholds.trans h), hother, houtside⟩
    exact congrArg (· ++ [p]) hwait

end Sys2Proof.Machine
end

section
/-!
SUPPORT. Route epochs (10_spline_fabric R232, R233): what GO, the end of an old epoch and its limit change of the dies and the ports, and what starting
waiting packets and planning new paths leave alone.
-/
namespace Sys2Proof.Machine

/-! ### GO (R232) -/

theorem mem_diePorts {die : Fin 3} {q : Nat} (h : q < 160) : q ∈ diePorts die ↔ portDie q = die.val := by
  have hdie := die.isLt
  have hport : portDie q = 0 ∧ q < 72 ∨ portDie q = 1 ∧ 72 ≤ q ∧ q < 144 ∨ portDie q = 2 ∧ 144 ≤ q := by
    unfold portDie
    split
    · omega
    · split <;> omega
  unfold diePorts
  split <;> rw [mem_upFrom] <;> omega

/-- The state whose port has moved to an epoch. -/
def epochSwitched (new : Bool) (s : State) (q : Nat) : State := setPort s q { getPort s q with epoch := new }

theorem foldl_epochSwitched_eq (new : Bool) (l : List Nat) (s : State) :
    { l.foldl (epochSwitched new) s with noc := { (l.foldl (epochSwitched new) s).noc with ports := s.noc.ports } } = s := by
  induction l generalizing s with
  | nil => rfl
  | cons a l ih => exact congrArg (fun t : State => { t with noc := { t.noc with ports := s.noc.ports } }) (ih (epochSwitched new s a))

theorem getPort_foldl_epochSwitched (new : Bool) (l : List Nat) (s : State) (q : Nat) :
    getPort (l.foldl (epochSwitched new) s) q = if q ∈ l then { getPort s q with epoch := new } else getPort s q := by
  induction l generalizing s with
  | nil => rfl
  | cons a l ih =>
    rw [List.foldl_cons, ih]
    by_cases ha : q = a
    · subst ha
      simp [epochSwitched]
    · simp [epochSwitched, ha]

section
variable {die : Fin 3} {s : State}

theorem exec_nocRteEpochGo_busy (h : (getNocDie s die).busy = true) : exec (.nocRteEpochGo .mc die) s = .next (done s) :=
  congrArg Host.Outcome.next (if_pos h)

/-- GO moves the ports of its die, and then re-injects what its stations kept (R232, R396). -/
theorem exec_nocRteEpochGo_free (h : (getNocDie s die).busy = false) :
    exec (.nocRteEpochGo .mc die) s = .next (reinject ((diePorts die).foldl (epochSwitched (!(getNocDie s die).cur))
      (setNocDie (done s) die { getNocDie s die with busy := true, goAt := upNs s })) die (!(getNocDie s die).cur)) :=
  congrArg Host.Outcome.next (if_neg (c := (getNocDie s die).busy = true) (by simp [h]))

theorem routeEpochGo : (∀ p, Gives (.nocRteEpochGo (.part p) die) s (foreign s)) ∧
    ((getNocDie s die).busy = true → Gives (.nocRteEpochGo .mc die) s (done s)) ∧
    ((getNocDie s die).busy = false → Runs (.nocRteEpochGo .mc die) s fun t =>
      (getNocDie t die).busy = true ∧ (getNocDie t die).goAt = upNs s ∧ (getNocDie t die).cur = (getNocDie s die).cur ∧
      (∀ q : Nat, q < 160 → portDie q = die.val → (getPort t q).epoch = !(getNocDie s die).cur) ∧
      (∀ q : Nat, q < 160 → portDie q ≠ die.val → getPort t q = getPort s q) ∧ { t with noc := s.noc, answer := s.answer } = s) := by
  refine ⟨fun p => rfl, exec_nocRteEpochGo_busy, fun h => ⟨_, exec_nocRteEpochGo_free h, ?_⟩⟩
  generalize hu : setNocDie (done s) die { getNocDie s die with busy := true, goAt := upNs s } = u
  have hmoved := foldl_epochSwitched_eq (!(getNocDie s die).cur) (diePorts die) u
  have hport := getPort_foldl_epochSwitched (!(getNocDie s die).cur) (diePorts die) u
  have hdie : getNocDie u die = { getNocDie s die with busy := true, goAt := upNs s } := hu ▸ getNocDie_setNocDie_same ..
  have hkept := (congrArg (getNocDie · die) hmoved).trans hdie
  refine ⟨congrArg NocDie.busy hkept, congrArg NocDie.goAt hkept, (congrArg NocDie.cur hkept).trans rfl, fun q hq hd => ?_, fun q hq hd => ?_, ?_⟩
  · exact congrArg NocPort.epoch ((hport q).trans (if_pos ((mem_diePorts hq).2 hd)))
  · exact ((hport q).trans (if_neg (mt (mem_diePorts hq).1 hd))).trans (hu ▸ rfl)
  · exact (congrArg (fun t : State => { t with noc := s.noc, answer := s.answer }) hmoved).trans (by rw [← hu])

end

/-! ### Starting what waits -/

/-- Of the fabric, `s` differs from `A` in its ports and packets at most, and in nothing else. -/
abbrev PortsOnly (A s : State) : Prop := { s with noc := { s.noc with ports := A.noc.ports, pkts := A.noc.pkts } } = A

section
variable {A s : State}

theorem PortsOnly.getNocDie (h : PortsOnly A s) (d : Nat) : getNocDie s d = getNocDie A d := (congrArg (Machine.getNocDie · d) h :)
theorem PortsOnly.moving (h : PortsOnly A s) : s.noc.moving = A.noc.moving := congrArg (·.noc.moving) h
theorem PortsOnly.planned (h : PortsOnly A s) : s.noc.planned = A.noc.planned := congrArg (·.noc.planned) h

theorem PortsOnly.trans {t : State} (h : PortsOnly A s) (ht : PortsOnly s t) : PortsOnly A t :=
  (congrArg (fun w : State => { w with noc := { w.noc with ports := A.noc.ports, pkts := A.noc.pkts } }) ht).trans h

end

/-- What starting the packets of port `q` may leave: the other ports are as they were, and no class has come to be held. -/
structure Pumped (q : Nat) (A s : State) : Prop where
  ports : PortsOnly A s
  other : ∀ j, j ≠ q → getPort s j = getPort A j
  held : (getPort s q).heldCls = (getPort A q).heldCls

section
variable {A s : State} {q : Nat}

theorem pumped_refl (q : Nat) (s : State) : Pumped q s s := ⟨rfl, fun _ _ => rfl, rfl⟩

theorem pumped_setPort {x : NocPort} (hx : x.heldCls = (getPort s q).heldCls) (h : Pumped q A s) : Pumped q A (setPort s q x) :=
  ⟨h.ports, fun j hj => (getPort_setPort_ne s x hj).trans (h.other j hj), by rw [getPort_setPort_same, hx, h.held]⟩

theorem pumped_launch (p : Pkt) (h : Pumped q A s) : Pumped q A (launch s q p) := by
  refine ⟨h.ports, fun j hj => ?_, ?_⟩
  · simpa [launch, hj] using h.other j hj
  · simpa [launch] using h.held

theorem mem_of_turns {c : List Pkt} {turn : Nat} {p : Pkt}
    (h : ((upFrom (turn + 1) 64).findSome? fun b => c.find? fun r => r.subsrc == b % 64) = some p) : p ∈ c :=
  have ⟨_, _, hb⟩ := List.exists_of_findSome?_eq_some h
  List.mem_of_find?_eq_some hb

theorem cls_of_nextWait {cls : Nat} {p : Pkt} (h : nextWait s q cls = some p) : p.cls = cls := by
  have hmem : p ∈ (getPort s q).wait.filter fun p => p.cls == cls := by
    unfold nextWait at h
    dsimp only at h
    split at h
    · cases h
    next hhead =>
    split at h
    · cases h
      exact List.mem_of_head? hhead
    · split at h
      · exact (List.mem_filter.1 (mem_of_turns h)).1
      · exact (List.mem_filter.1 (List.mem_filter.1 (mem_of_turns h)).1).1
  simpa using (List.mem_filter.1 hmem).2

/-- Without a route change at its die, no class of a port comes to be held (R232). -/
theorem pumped_pumpCls (hbusy : (portNoc A q).busy = false) (cls f : Nat) (h : Pumped q A s) : Pumped q A (pumpCls s q cls f) := by
  induction f generalizing s with
  | zero => exact h
  | succ f ih =>
    unfold pumpCls
    split
    · exact h
    next p hp =>
    split
    · exact ih (pumped_launch p h)
    · dsimp only
      split
      next hc =>
        have hidle : (portNoc s q).busy = false := (congrArg NocDie.busy (h.ports.getNocDie (portDie q))).trans hbusy
        rw [chgHolds, hidle, Bool.false_and, Bool.or_false, cls_of_nextWait hp, Bool.and_not_self] at hc
        cases hc
      · exact h

theorem pumped_pump (hbusy : (portNoc A q).busy = false) (h : Pumped q A s) : Pumped q A (pump s q) := by
  have hgained : Pumped q A (setPort s q (gainTokens (getPort s q) (upNs s))) := pumped_setPort rfl h
  have hcls : ∀ {u} c, Pumped q A u → Pumped q A (pumpCls u q c (getPort u q).wait.length) := fun c hu => pumped_pumpCls hbusy c _ hu
  unfold pump
  simp only [List.foldl_cons, List.foldl_nil]
  exact hcls 2 (hcls 0 (hcls 3 (hcls 1 hgained)))

end

/-! ### New paths (R242, R335) -/

/-- Of the fabric, `s` differs from `A` in its routes, plans and ports at most, and in nothing else; no class has come to be held. -/
structure Planned (A s : State) : Prop where
  paths : { s with noc := { s.noc with routes := A.noc.routes, planned := A.noc.planned, ports := A.noc.ports } } = A
  held : ∀ q, (getPort s q).heldCls = (getPort A q).heldCls

section
variable {A s : State}

theorem Planned.getNocDie (h : Planned A s) (d : Nat) : getNocDie s d = getNocDie A d := (congrArg (Machine.getNocDie · d) h.paths :)
theorem Planned.moving (h : Planned A s) : s.noc.moving = A.noc.moving := congrArg (·.noc.moving) h.paths
theorem Planned.links (h : Planned A s) : s.noc.links = A.noc.links := congrArg (·.noc.links) h.paths

theorem planned_refl (s : State) : Planned s s := ⟨rfl, fun _ => rfl⟩

theorem planned_foldl {α : Type} {g : State → α → State} (hg : ∀ s a, Planned A s → Planned A (g s a)) (l : List α) (h : Planned A s) :
    Planned A (l.foldl g s) :=
  List.foldlRecOn l g h fun s hs a _ => hg s a hs

theorem planned_ite {p : Prop} [Decidable p] {a b : State} (ha : Planned A a) (hb : Planned A b) : Planned A (if p then a else b) := by
  split
  · exact ha
  · exact hb

theorem planned_steer (ep : Bool) (die row dest : Nat) (cross : Nat × Nat) (h : Planned A s) : Planned A (steer s ep die row dest cross) := by
  unfold steer
  refine planned_foldl (fun u _ hu => ?_) _ h
  exact ⟨hu.paths, hu.held⟩

theorem planned_adjustRoutes (ep : Bool) (h : Planned A s) : Planned A (adjustRoutes s ep) := by
  unfold adjustRoutes
  refine planned_foldl (fun s dest hs => planned_foldl (fun s die hs => ?_) _ hs) _ h
  exact planned_ite hs (planned_ite hs (planned_steer _ _ _ _ _ hs))

theorem planned_setPort {q : Nat} {x : NocPort} (hx : x.heldCls = (getPort s q).heldCls) (h : Planned A s) : Planned A (setPort s q x) := by
  refine ⟨h.paths, fun j => ?_⟩
  rw [getPort_setPort]
  split
  next hj => rw [hx, ← h.held, hj]
  · exact h.held j

theorem planned_planMove (h : Planned A s) : Planned A (planMove s) := by
  unfold planMove
  split
  · exact h
  · refine planned_foldl (fun u q hu => ?_) _ (planned_adjustRoutes _ ?_)
    · exact planned_setPort rfl hu
    · exact ⟨h.paths, h.held⟩

end

/-! ### The end of an old epoch (R232) -/

/-- CUR of a die takes the new epoch, and BUSY and LATE clear. -/
def epochTurned (s : State) (d : Nat) : State := setNocDie s d { getNocDie s d with cur := !(getNocDie s d).cur, busy := false, late := false }

/-- A port's held classes resume, and what it can start starts. -/
def portResumed (s : State) (q : Nat) : State := pump (setPort s q { getPort s q with heldCls := [] }) q

theorem getNocDie_epochTurned_all (s : State) {d : Nat} (hd : d < 3) : getNocDie ((upFrom 0 3).foldl epochTurned s) d =
    { getNocDie s d with cur := !(getNocDie s d).cur, busy := false, late := false } := by
  obtain rfl | rfl | rfl : d = 0 ∨ d = 1 ∨ d = 2 := by omega
  all_goals simp [upFrom, epochTurned]

theorem portDie_lt (q : Nat) : portDie q < 3 := by
  unfold portDie
  split
  · omega
  · split <;> omega

/-- Once no die is BUSY, a port that resumes holds no class, and no other port comes to hold one. -/
theorem foldl_portResumed {A : State} (hidle : ∀ d, d < 3 → (getNocDie A d).busy = false) (l : List Nat) {s : State} (hs : PortsOnly A s) :
    PortsOnly A (l.foldl portResumed s) ∧ ∀ q, q ∈ l ∨ (getPort s q).heldCls = [] → (getPort (l.foldl portResumed s) q).heldCls = [] := by
  induction l generalizing s with
  | nil => exact ⟨hs, fun q hq => hq.resolve_left List.not_mem_nil⟩
  | cons a l ih =>
    have hbusy : (portNoc s a).busy = false := (congrArg NocDie.busy (hs.getNocDie _)).trans (hidle _ (portDie_lt a))
    have hfirst : Pumped a (setPort s a { getPort s a with heldCls := [] }) (portResumed s a) :=
      pumped_pump hbusy (pumped_refl _ _)
    obtain ⟨hports, hheld⟩ := ih (PortsOnly.trans (s := setPort s a { getPort s a with heldCls := [] }) hs hfirst.ports)
    rw [List.foldl_cons]
    refine ⟨hports, fun q hq => hheld q ?_⟩
    by_cases hqa : q = a
    · exact Or.inr (by rw [hqa, hfirst.held, getPort_setPort_same])
    · refine hq.imp (fun h => (List.mem_cons.1 h).resolve_left hqa) fun h => ?_
      rw [hfirst.other q hqa, getPort_setPort_ne _ _ hqa, h]

/-- The bundles whose traffic the change has moved are moved no longer. -/
def movesEnded (s : State) : State :=
  { s with noc := { s.noc with moving := s.noc.moving.filter fun e => !s.noc.planned.contains e.1, planned := [] } }

/-- What the MC reports of them, and how it turns to the others (R396). -/
def movesReported (l : List (Nat × Nat)) (s : State) : State :=
  let t := l.foldl (fun u e => linkEvt u e.1 3 e.2) s
  if t.noc.moving.isEmpty then t else planMove t

theorem planned_movesReported (l : List (Nat × Nat)) (s : State) : ∃ t, t.noc = s.noc ∧ Planned t (movesReported l s) := by
  refine ⟨l.foldl (fun u e => linkEvt u e.1 3 e.2) s, away_noc (away_foldl _ (fun u e hu => ?_) l s (away_refl s)), ?_⟩
  · exact away_raiseMod u _ _ _ hu
  · unfold movesReported
    exact planned_ite (planned_refl _) (planned_planMove (planned_refl _))

theorem execNocEpochRetire_eq (s : State) : execNocEpochRetire s =
    if (upFrom 0 3).all (fun d => dieOut s d || (getNocDie s d).busy) && !(s.noc.pkts.any (isOld s)) && s.noc.dropLog.all (fun e => e.2.isEmpty) then
      let u := (upFrom 0 160).foldl portResumed ((upFrom 0 3).foldl epochTurned s)
      .next (movesReported (u.noc.moving.filter fun e => u.noc.planned.contains e.1) (movesEnded u))
    else .next s := by
  unfold execNocEpochRetire
  generalize upFrom 0 160 = l
  rfl

/-- What the end of an old epoch leaves of the dies, of the classes held at the ports `l` and of the moves. -/
theorem epochRetired (s : State) (l : List Nat) :
    let u := l.foldl portResumed ((upFrom 0 3).foldl epochTurned s)
    let t := movesReported (u.noc.moving.filter fun e => u.noc.planned.contains e.1) (movesEnded u)
    (∀ d : Nat, d < 3 → (getNocDie t d).cur = !(getNocDie s d).cur ∧ (getNocDie t d).busy = false ∧ (getNocDie t d).late = false) ∧
      (∀ q ∈ l, (getPort t q).heldCls = []) ∧ t.noc.moving = s.noc.moving.filter fun e => !s.noc.planned.contains e.1 := by
  intro u t
  obtain ⟨hports, hheld⟩ : PortsOnly ((upFrom 0 3).foldl epochTurned s) u ∧ ∀ q, q ∈ l ∨ _ → (getPort u q).heldCls = [] :=
    foldl_portResumed (fun d hd => by rw [getNocDie_epochTurned_all s hd]) l rfl
  obtain ⟨v, hv, hplan⟩ : ∃ v, v.noc = (movesEnded u).noc ∧ Planned v t := planned_movesReported _ _
  refine ⟨fun d hd => ?_, fun q hq => ?_, ?_⟩
  · have hdie : getNocDie t d = getNocDie ((upFrom 0 3).foldl epochTurned s) d := calc
      getNocDie t d = getNocDie v d := hplan.getNocDie d
      _ = getNocDie (movesEnded u) d := congrArg (fun n : Noc => tget n.dies {} d) hv
      _ = _ := hports.getNocDie d
    rw [hdie, getNocDie_epochTurned_all s hd]
    exact ⟨rfl, rfl, rfl⟩
  · rw [hplan.held, getPort_of_noc_eq hv]
    exact hheld q (Or.inl hq)
  · calc t.noc.moving = v.noc.moving := hplan.moving
      _ = (movesEnded u).noc.moving := congrArg Noc.moving hv
      _ = _ := by rw [movesEnded, hports.moving, hports.planned]; rfl

/-! ### An epoch that is late (R233) -/

/-- Does a die wait past its limit, LATE not yet set? -/
def isLateEpoch (s : State) (d : Nat) : Bool :=
  (getNocDie s d).busy && !(getNocDie s d).late && (getNocDie s d).goAt + (getNocDie s d).epochLim ≤ upNs s

/-- LATE is set and counted on a die that waits past its limit. -/
def lateMarked (s : State) (d : Nat) : State :=
  if isLateEpoch s d then alertMc (bump (setNocDie s d { getNocDie s d with late := true }) .nocRteFail d) (.nocEpochLate d) else s

theorem lateMarked_eq (s : State) (d : Nat) : getNocDie (lateMarked s d) d = { getNocDie s d with late := (getNocDie s d).late || isLateEpoch s d } ∧
    ctrGet (lateMarked s d) .nocRteFail d = if isLateEpoch s d then min (2 ^ 32 - 1) (ctrGet s .nocRteFail d + 1) else ctrGet s .nocRteFail d := by
  unfold lateMarked
  split
  next h =>
    rw [h, Bool.or_true]
    exact ⟨getNocDie_setNocDie_same .., ctrGet_bump_same ..⟩
  next h => simp [h]

theorem lateMarked_ne (s : State) {d j : Nat} (h : j ≠ d) : getNocDie (lateMarked s d) j = getNocDie s j ∧
    ctrGet (lateMarked s d) .nocRteFail j = ctrGet s .nocRteFail j ∧ isLateEpoch (lateMarked s d) j = isLateEpoch s j := by
  have hdie : getNocDie (lateMarked s d) j = getNocDie s j := by
    unfold lateMarked
    split
    · exact getNocDie_setNocDie_ne s _ h
    · rfl
  have hup : upNs (lateMarked s d) = upNs s := by
    unfold lateMarked
    split <;> rfl
  refine ⟨hdie, ?_, by rw [isLateEpoch, hdie, hup]; rfl⟩
  unfold lateMarked
  split
  · exact ctrGet_bumpBy_of_bank_ne _ _ _ _ h
  · rfl

theorem exec_nocEpochLate (s : State) : exec .nocEpochLate s = .next (lateMarked (lateMarked (lateMarked s 0) 1) 2) := rfl

/-- Each die is marked by its own state alone. -/
theorem lateMarked_all (s : State) {d : Nat} (hd : d < 3) :
    getNocDie (lateMarked (lateMarked (lateMarked s 0) 1) 2) d = { getNocDie s d with late := (getNocDie s d).late || isLateEpoch s d } ∧
      ctrGet (lateMarked (lateMarked (lateMarked s 0) 1) 2) .nocRteFail d =
        if isLateEpoch s d then min (2 ^ 32 - 1) (ctrGet s .nocRteFail d + 1) else ctrGet s .nocRteFail d := by
  obtain rfl | rfl | rfl : d = 0 ∨ d = 1 ∨ d = 2 := by omega
  all_goals simp [lateMarked_eq, lateMarked_ne]

/-- Settles O38: GO moves its die's ports, the end of an epoch turns each die and frees each port, and each die is marked late by its own state. -/
theorem routeEpochsTurnOver : Obligations.RouteEpochsTurnOver := by
  refine ⟨fun die s => routeEpochGo, fun s => ⟨fun h => ?_, fun h => ?_⟩, fun s => ⟨_, exec_nocEpochLate s, fun d hd => ?_⟩⟩
  · exact (execNocEpochRetire_eq s).trans (if_neg (by simpa using h))
  · obtain ⟨hdies, hheld, hmoving⟩ := epochRetired s (upFrom 0 160)
    exact ⟨_, (execNocEpochRetire_eq s).trans (if_pos h), hdies, fun q hq => hheld q (mem_upFrom.2 ⟨Nat.zero_le q, by omega⟩), hmoving⟩
  · obtain ⟨hdie, hctr⟩ := lateMarked_all s hd
    have hlate : isLateEpoch s d = true ↔ (getNocDie s d).busy = true ∧ (getNocDie s d).late = false ∧
        (getNocDie s d).goAt + (getNocDie s d).epochLim ≤ upNs s := by simp [isLateEpoch, and_assoc]
    rw [hdie, hctr]
    refine ⟨fun hbusy hdue => ?_, fun hbusy hfirst hdue => if_pos (hlate.2 ⟨hbusy, hfirst, hdue⟩), fun hnot => ?_⟩
    · cases hwas : (getNocDie s d).late with
      | true => rfl
      | false => exact hlate.2 ⟨hbusy, hwas, hdue⟩
    · have hidle : isLateEpoch s d = false := by
        rw [← Bool.not_eq_true, hlate]
        rintro ⟨hbusy, hfirst, hdue⟩
        simp [hbusy, hfirst, hdue] at hnot
      rw [hidle, Bool.or_false]
      exact ⟨rfl, rfl⟩

end Sys2Proof.Machine
end

section
/-!
SUPPORT. One access to memory (10_spline_fabric R226, R234; 12_memory R260, R264, R265, R275): the STATUS with which it is refused, the page or the words that
it reaches, and the bytes that it stores and reads.
-/
namespace Sys2Proof.Machine

/-! ### The status of an access (R222, R226, R234, R399) -/

section
variable {s : State} {who : Option Nat} {a : Nat}

theorem reachStatus_of_nothing (h : targetOf a = .nothing) : reachStatus s who a = 4 := by simp [reachStatus, h]

theorem reachStatus_of_dieOut {q : Nat} (hq : destOf a = some q) (h : dieOut s (portDie q) = true) : reachStatus s who a = 4 := by
  unfold reachStatus
  split
  · rfl
  · rfl
  · simp [hq, h]

theorem reachStatus_of_foreign {q : Nat} (hq : destOf a = some q) (hregs : targetOf a ≠ .regs) (h : dieOut s (portDie q) = false)
    (hforeign : memAllowed s who a = false) : reachStatus s who a = 5 := by
  unfold reachStatus
  split
  next ht => simp [destOf, ht] at hq
  next ht => exact absurd ht hregs
  · simp [hq, h, hforeign]

theorem reachStatus_of_faultyChannel {ch pg : Nat} (ht : targetOf a = .lpddr ch pg) (hown : memAllowed s who a = true)
    (hgate : gateStatus s (targetDom (targetOf a)) = 0) (hst : (getCh s ch).state = 4) : reachStatus s who a = 4 := by
  rw [ht] at hgate
  simp [reachStatus, ht, hown, hgate, hst]

/-- Which access is refused does not depend on the bytes and the errors of memory; only the state of the controllers counts. -/
theorem reachStatus_of_mem_eq {t : State} (h : { t with mem := s.mem } = s) (hchs : t.mem.chs = s.mem.chs) : reachStatus t who a = reachStatus s who a := by
  have hch : ∀ ch, getCh t ch = getCh s ch := fun ch => congrArg (tget · ({} : MemCh) ch) hchs
  have hout : ∀ d, dieOut t d = dieOut s d := fun d => (congrArg (dieOut · d) h :)
  have hown : memAllowed t who a = memAllowed s who a := (congrArg (memAllowed · who a) h :)
  have hgate : ∀ d, gateStatus t d = gateStatus s d := fun d => (congrArg (gateStatus · d) h :)
  have hcore : ∀ c, getCore t c = getCore s c := fun c => (congrArg (getCore · c) h :)
  simp only [reachStatus, hch, hout, hown, hgate, hcore]

/-! ### Refused accesses (R234) -/

theorem noteRefused_eq (st : Nat) : { noteRefused s a st with ctr := s.ctr } = s := by
  unfold noteRefused noteGate
  split
  · split <;> rfl
  · rfl

theorem readPiece_refused {n : Nat} (h : reachStatus s who a ≠ 0) :
    readPiece s who a n = (reachStatus s who a, [], noteRefused s a (reachStatus s who a)) := if_pos (by simpa using h)

theorem writePiece_refused {bs : List Byte} (h : reachStatus s who a ≠ 0) :
    writePiece s who a bs = (reachStatus s who a, noteRefused s a (reachStatus s who a)) := if_pos (by simpa using h)

/-! ### Whole pages (R262, R265) -/

theorem writePiece_wholePage {ch pg : Nat} {bs : List Byte} (ht : targetOf a = .lpddr ch pg) (h : reachStatus s who a = 0) (hlen : bs.length = 2048) :
    writePiece s who a bs = (0, writeWholePage s ch pg bs) := by simp [writePiece, ht, h, hlen]

/-- Without an armed injection and with protection in force nothing of the frame shows in the bytes. -/
theorem writeWholePage_protected {ch pg : Nat} {bs : List Byte} (hinj : (getCh s ch).injArm = false) (ht : tCodeAt s (pageAddr ch pg) ≠ 0) :
    ∃ x, writeWholePage s ch pg bs = setCh (encodePage (writeBytes s (pageAddr ch pg) bs) ch pg) ch x := by
  have hupset : upsetPage (encodePage (writeBytes s (pageAddr ch pg) bs) ch pg) ch pg [] false = encodePage (writeBytes s (pageAddr ch pg) bs) ch pg := by
    have ht' : tCodeAt (writeBytes s (pageAddr ch pg) bs) (pageAddr ch pg) ≠ 0 := ht
    simp [upsetPage, showFlips, encodePage, getPage, setPage, ht']
  have hbits : injBits (getCh s ch) = [] := by simp [injBits, hinj]
  simp only [writeWholePage, hbits, hupset]
  exact ⟨_, rfl⟩

/-- The frame of a page that has just been encoded (R262). -/
theorem getPage_encodePage (s : State) (ch pg : Nat) : getPage (encodePage s ch pg) ch pg = { written := true, t := tCodeAt s (pageAddr ch pg), flips := [] } :=
  tget_tset_same ..

/-! ### Pages never written (R264) -/

theorem fetchPage_unwritten {ch pg : Nat} {alloc : Bool} (hstaged : (getCh s ch).staged.find? (fun e => e.page == pg) = none)
    (hpage : (getPage s ch pg).written = false) :
    fetchPage s ch pg alloc = (2, bump (takeFree (bump s .memStgMiss ch) 1).2 .memRdUnwr ch) := by
  have hread : ∀ t tag, readFrame (getPage s ch pg) t tag = .unwritten := fun t tag => by simp [readFrame, hpage]
  have hframe : getPage (takeFree (bump s .memStgMiss ch) 1).2 ch pg = getPage s ch pg := rfl
  simp only [fetchPage, hstaged]
  simp only [hframe, hread]

/-! ### SRAM (R275) -/

theorem readWords_of_clean (h : s.mem.sramErr = []) (ws : List Nat) : readWords s ws = (0, s) := by
  induction ws with
  | nil => rfl
  | cons w r ih => rw [readWords, if_pos (by rw [wordErr, h, tget_nil]), ih]

theorem writeSram_of_clean (h : s.mem.sramErr = []) (bs : List Byte) : writeSram s a bs = (0, writeBytes s a bs) := by
  simp only [writeSram, readWords_of_clean h, h, List.filter_nil]
  rw [← h]

theorem cellsRead_of_cellGet {m : List Host.Cell} {bs : List Byte} (h : ∀ i, i < bs.length → cellGet m (a + i) = bs.getD i memDefault) :
    cellsRead m a bs.length = bs := by
  induction bs generalizing a with
  | nil => rfl
  | cons b r ih =>
    rw [List.length_cons, cellsRead, ih fun i hi => ?_]
    · exact congrArg (· :: r) (h 0 (by simp))
    · rw [Nat.add_assoc, Nat.add_comm 1, h (i + 1) (by simpa using hi), List.getD_cons_succ]

/-- What is read where bytes have been stored is those bytes. -/
theorem readBytes_writeBytes (s : State) (a : Nat) (bs : List Byte) : readBytes (writeBytes s a bs) a bs.length = bs :=
  cellsRead_of_cellGet fun _ hi => byteAt_writeBytes_inside s a _ bs hi

/-- An aligned word is one word. -/
theorem wordsOf_aligned (h : a % 8 = 0) : wordsOf a 8 = [a / 8] := by
  have hend : (a + 8 - 1) / 8 = a / 8 := by omega
  simp only [wordsOf, hend, Nat.sub_self]
  rfl

theorem lt_of_targetOf_tile {c : Nat} (h : targetOf a = .tile c) : a < 0x004100000000 := by
  unfold targetOf at h
  split at h
  · omega
  · split at h
    · omega
    · dsimp only at h
      repeat' split at h
      all_goals cases h

/-- The words of a core's memory are its cluster's scrubber's (R276). -/
theorem srOfWord_tile {c : Nat} (h : targetOf a = .tile c) (ha : a % 8 = 0) : srOfWord (a / 8) = coreCluster c := by
  have hlt := lt_of_targetOf_tile h
  have hword : 8 * (a / 8) = a := by omega
  rw [srOfWord, if_pos (by omega), hword, h]
  rfl

/-- An uncorrectable word is recorded with its scrubber (R275). -/
theorem wordUnc_mem {w : Nat} (hw : w < 2 ^ 45) (by_ : Nat) : (wordUnc s w by_).mem =
    (setSr s (srOfWord w) { getSr s (srOfWord w) with lastUnc := 8 * w, lastUncV := true }).mem := by
  simp only [wordUnc, if_pos hw]
  exact away_mem (away_raiseHolders _ _ _ _ _ (away_refl _))

end

/-- Settles O41: each access goes by the status of its target, and an access that is taken writes its bytes into memory as it was. -/
theorem accessesReachTheirBytes : Obligations.AccessesReachTheirBytes := by
  refine ⟨fun s who a n bs => ⟨reachStatus_of_nothing, fun q hq hregs => ⟨reachStatus_of_dieOut hq, reachStatus_of_foreign hq hregs⟩,
    fun ch pg => reachStatus_of_faultyChannel, fun h => ⟨readPiece_refused h, writePiece_refused h, noteRefused_eq _⟩⟩,
    fun s who ch pg bs ht h hlen hinj hcode => ?_, fun s who a n ch pg ht h hstaged hpage => ?_, fun s who a bs c ht h hclean => ?_,
    fun s who a c ht ha h herr => ?_⟩
  · obtain ⟨x, hx⟩ := writeWholePage_protected (bs := bs) hinj hcode
    have hpage := getPage_encodePage (writeBytes s (pageAddr ch pg) bs) ch pg
    exact ⟨_, (writePiece_wholePage ht h hlen).trans (congrArg (0, ·) hx), congrArg PageMeta.written hpage, congrArg PageMeta.flips hpage,
      congrArg PageMeta.t hpage, fun i hi => byteAt_writeBytes_inside s _ i bs (hlen ▸ hi), fun b hb => byteAt_writeBytes_outside s _ b bs (hlen ▸ hb), rfl⟩
  · refine ⟨bump (takeFree (bump s .memStgMiss ch) 1).2 .memRdUnwr ch, by simp [readPiece, ht, h, fetchPage_unwritten hstaged hpage], ?_, rfl⟩
    refine (ctrGet_bump_same ..).trans (congrArg (fun v => min (2 ^ 32 - 1) (v + 1)) ?_)
    exact ctrGet_bumpBy_of_kind_ne _ _ _ _ (by decide)
  · have hreach : reachStatus (writeBytes s a bs) who a = 0 := (reachStatus_of_mem_eq rfl rfl).trans h
    refine ⟨writeBytes s a bs, by simp [writePiece, ht, h, writeSram_of_clean hclean], fun i hi => byteAt_writeBytes_inside s a i bs hi,
      fun b hb => byteAt_writeBytes_outside s a b bs hb, rfl, ?_⟩
    simp [readPiece, ht, hreach, readWords_of_clean (s := writeBytes s a bs) hclean, readBytes_writeBytes]
  · have hlt := lt_of_targetOf_tile ht
    have hread : readWords s (wordsOf a 8) = (1, wordUnc s (a / 8) 0xFF) := by simp [wordsOf_aligned ha, readWords, herr]
    have hmem := wordUnc_mem (s := s) (w := a / 8) (by omega) 0xFF
    rw [srOfWord_tile ht ha] at hmem
    have hsr := (congrArg (fun m : Mem => tget m.srs {} (coreCluster c)) hmem).trans (getSr_setSr_same ..)
    refine ⟨_, by simp [readPiece, ht, h, hread], (congrArg Mem.bytes hmem).trans rfl, (congrArg Sr.lastUnc hsr).trans ?_, congrArg Sr.lastUncV hsr⟩
    show 8 * (a / 8) = a
    omega

end Sys2Proof.Machine
end

section
/-!
SUPPORT. Die links (10_spline_fabric R239 to R242): what acknowledging changes, the cases of a unit's arrival, repair, and what a bundle that goes down leaves
of its links.
-/
namespace Sys2Proof.Machine

theorem getLink_of_links_eq {s t : State} (h : t.noc.links = s.noc.links) (e : Nat) : getLink t e = getLink s e :=
  congrArg (fun l : Tab Link => tget l {} e) h

/-! ### The other direction of a bundle -/

theorem revDir_ne (d : Nat) : revDir d ≠ d := by
  unfold revDir
  split <;> omega

@[simp] theorem revDir_revDir (d : Nat) : revDir (revDir d) = d := by
  unfold revDir
  split <;> split <;> omega

/-! ### Acknowledgements (R240) -/

section
variable (s : State) (d ack : Nat)

theorem getLink_linkAck_ne {e : Nat} (h : e ≠ revDir d) : getLink (linkAck s d ack) e = getLink s e := by
  unfold linkAck
  dsimp only
  split
  · exact getLink_setLink_ne s _ h
  · rfl

theorem linkAck_eq : { linkAck s d ack with noc := s.noc } = s := by
  unfold linkAck
  dsimp only
  split <;> rfl

theorem linkNak_eq : { linkNak s d ack with noc := s.noc } = s := linkAck_eq s (revDir d) ack

theorem getLink_linkNak_ne {e : Nat} (h : e ≠ d) : getLink (linkNak s d ack) e = getLink s e :=
  (getLink_setLink_ne _ _ h).trans (getLink_linkAck_ne s (revDir d) ack (by simpa using h))

/-- A NAK acknowledges, and sets its sender back (R240). -/
theorem getLink_linkNak_same : (getLink (linkNak s d ack) d).txNext = (ack + 1) % 64 ∧
    ((ack + 64 - (getLink s d).txAck) % 64 < 48 → (getLink (linkNak s d ack) d).txAck = (ack + 1) % 64) := by
  rw [linkNak, getLink_setLink_same]
  refine ⟨rfl, fun h => ?_⟩
  simp [linkAck, h]

/-- What a good unit acknowledges is of the other direction. -/
theorem getLink_takeAck_same (u : LinkUnit) : getLink (takeAck s d u) d = getLink s d := by
  unfold takeAck
  split
  · exact getLink_linkNak_ne s _ _ (revDir_ne d).symm
  · exact getLink_linkAck_ne s d _ (revDir_ne d).symm

end

/-! ### The arrival of a unit (R240, R241) -/

/-- Sending a unit changes the sender's next LSEQ and its replay buffer. -/
theorem noteSent_eq (l : Link) (u : LinkUnit) : { noteSent l u with txNext := l.txNext, replay := l.replay } = l := by
  unfold noteSent
  split <;> rfl

section
variable (l : Link) (u : LinkUnit)

@[simp] theorem noteSent_rxNext : (noteSent l u).rxNext = l.rxNext := (congrArg Link.rxNext (noteSent_eq l u) :)
@[simp] theorem noteSent_rxNak : (noteSent l u).rxNak = l.rxNak := (congrArg Link.rxNak (noteSent_eq l u) :)
@[simp] theorem noteSent_failRun : (noteSent l u).failRun = l.failRun := (congrArg Link.failRun (noteSent_eq l u) :)
@[simp] theorem noteSent_failed : (noteSent l u).failed = l.failed := (congrArg Link.failed (noteSent_eq l u) :)

end

/-- The awaited unit, of which no copy has failed, is delivered; after a failure its arrival is a retry. -/
theorem linkGood_of_no_failed {s : State} {d : Nat} (h : ∀ e ∈ (getLink s d).failed, e.1 ≠ (getLink s d).rxNext) (good : Nat) (crossed : List Nat) :
    linkGood s d good crossed = setLink (if (getLink s d).rxNak then bump s .nocLnkRetry d else s) d
      { getLink s d with rxNext := ((getLink s d).rxNext + 1) % 64, rxNak := false, failRun := 0 } := by
  have hnone : ((getLink s d).failed.filter fun e => e.1 == (getLink s d).rxNext) = [] := List.filter_eq_nil_iff.2 fun e he => by simpa using h e he
  have hall : ((getLink s d).failed.filter fun e => e.1 != (getLink s d).rxNext) = (getLink s d).failed :=
    List.filter_eq_self.2 fun e he => by simpa using h e he
  simp only [linkGood, hnone, hall, List.flatMap_nil, List.isEmpty_nil, if_true]

theorem setLink_setLink (s : State) (d : Nat) (x y : Link) : setLink (setLink s d x) d y = setLink s d y := by simp [setLink]

/-- A control unit takes an LSEQ on both sides. -/
theorem linkControl_of_no_failed {s : State} {d : Nat} (h : (getLink s d).failed = []) (crossed : List Nat) :
    linkControl s d crossed = setLink (if (getLink s d).rxNak then bump s .nocLnkRetry d else s) d { getLink s d with
      txNext := ((getLink s d).txNext + 1) % 64, rxNext := ((getLink s d).rxNext + 1) % 64, rxNak := false, failRun := 0 } := by
  unfold linkControl
  dsimp only
  rw [linkGood_of_no_failed (by simp [h]), getLink_setLink_same]
  split
  · exact setLink_setLink (bump s .nocLnkRetry d) d _ _
  · exact setLink_setLink s d _ _

theorem getLink_linkControl_same {s : State} {d : Nat} (h : (getLink s d).failed = []) (crossed : List Nat) :
    getLink (linkControl s d crossed) d = { getLink s d with
      txNext := ((getLink s d).txNext + 1) % 64, rxNext := ((getLink s d).rxNext + 1) % 64, rxNak := false, failRun := 0 } := by
  rw [linkControl_of_no_failed h, getLink_setLink_same]

theorem getLink_linkControl_ne {s : State} {d e : Nat} (h : (getLink s d).failed = []) (crossed : List Nat) (he : e ≠ d) :
    getLink (linkControl s d crossed) e = getLink s e := by
  rw [linkControl_of_no_failed h, getLink_setLink_ne _ _ he]
  split <;> rfl

/-- A unit that fails LCRC is kept as a failed copy; the sixteenth failure of the awaited one takes the bundle down. -/
theorem linkFail_of_sent {s : State} {d : Nat} {l : Link} {u : LinkUnit} (hl : getLink s d = noteSent l u) (copy : Nat) (crossed : List Nat) :
    let due := u.vld && u.lseq.toNat == l.rxNext
    let run := if due then l.failRun + 1 else l.failRun
    let w := bump s .nocLnkCrcErr d
    let v := setLink (if due && l.rxNak then bump w .nocLnkRetry d else w) d
      { noteSent l u with rxNak := true, failRun := run, failed := if u.vld then l.failed ++ [(u.lseq.toNat, copy)] else l.failed }
    linkFail s d u copy crossed = if 16 ≤ run then bundleDown v (d / 2) crossed else v := by
  simp only [linkFail, hl, noteSent_rxNext, noteSent_rxNak, noteSent_failRun, noteSent_failed]

section
variable {b : Fin 40} {dir : Fin 2} {u : LinkUnit} {crossed : List Nat} {s : State}

/-- A unit that its sender can have sent goes by LCRC, VLD and LSEQ (R240). -/
theorem exec_linkUnitRx_of_sent {d got : Nat} {l : Link} {v : State} (hd : d = 2 * b.val + dir.val) (hl : l = getLink s d)
    (hgot : got = sentBits u ^^^ u.err.toNat) (hv : v = setLink s d (noteSent l u)) (hstate : 2 ≤ l.state) (hsent : canSend l u = true)
    (hack : ackFormed (getLink s (revDir d)) u = true) :
    exec (.linkUnitRx b dir u crossed) s = .next (
      if lcrcOk got = false then linkFail v d u got crossed
      else if u.vld = false then takeAck v d u
      else if u.lseq.toNat ≠ l.rxNext then setLink s d { noteSent l u with rxNak := true }
      else if u.ctl then v else linkGood (takeAck v d u) d got crossed) := by
  have hagain : setLink v d { getLink v d with rxNak := true } = setLink s d { noteSent l u with rxNak := true } := by
    rw [hv, getLink_setLink_same, setLink_setLink]
  have hsend : ¬(l.state < 2 ∨ (!canSend l u) = true ∨ (!ackFormed (getLink s (revDir d)) u) = true) := by
    simpa [hsent, hack] using Nat.lt_of_succ_le hstate
  rw [← hagain]
  subst hd hl hgot hv
  refine (if_neg hsend).trans ?_
  simp only [apply_ite Host.Outcome.next, Bool.not_eq_true', bne_iff_ne]

end

/-! ### NAK, REPAIR and SWITCH (R240, R241) -/

section
variable {b : Fin 40} {dir : Fin 2} {s : State} {d : Nat} {l : Link} (hd : d = 2 * b.val + dir.val) (hl : l = getLink s d)
include hd hl

theorem exec_linkNakRx {ack : BitVec 6} (hstate : 2 ≤ l.state) (hnak : l.rxNak = true) (hlast : ack.toNat = (l.rxNext + 63) % 64) :
    exec (.linkNakRx b dir ack) s = .next (linkNak s d ack.toNat) := by
  subst hd hl
  refine if_neg ?_
  simpa [hnak, hlast] using Nat.lt_of_succ_le hstate

/-- REPAIR takes an LSEQ of its own direction, and readies the sender of the other for SWITCH. -/
theorem exec_linkRepairRx {lane : Fin 17} (hstate : l.state = 2) (hrep : l.repairing = some lane.val) (hmode : l.txInBand = false)
    (hnext : (getLink s (revDir d)).txNext = (getLink s (revDir d)).rxNext) :
    ∃ n cr, exec (.linkRepairRx b dir lane) s = .next (linkControl
      (setLink (takeFree s 16).2 d { l with txInBand := true, txBad := lane.val, txSwitch := some n }) (revDir d) cr) := by
  subst hd hl
  refine ⟨_, _, (if_neg ?_).trans rfl⟩
  simp [hstate, hrep, hmode, hnext]

/-- A direction whose repair is complete. -/
def linkSwitched (s : State) (d i : Nat) : State :=
  setLink s d { getLink s d with state := 3, bad := i, rxInBand := true, repairing := none, txSwitch := none, laneErrs := [] }

/-- SWITCH takes an LSEQ, and ends the repair, which the MC logs. -/
theorem exec_linkSwitchRx {lseq : BitVec 6} {i : Nat} (hstate : l.state = 2) (hrep : l.repairing = some i) (hswitch : l.txSwitch = some lseq.toNat)
    (hrx : lseq.toNat = l.rxNext) (htx : lseq.toNat = l.txNext) :
    ∃ cr, exec (.linkSwitchRx b dir lseq) s =
      .next (linkEvt (alertMc (linkSwitched (linkControl (takeFree s 16).2 d cr) d i) (.nocLinkRepaired d i)) b 1 0) := by
  subst hd hl
  change ∃ cr, execLinkSwitchRx b dir lseq s = _
  have hdue : ¬(((getLink s (2 * b.val + dir.val)).state != 2 || (getLink s (2 * b.val + dir.val)).txSwitch != some lseq.toNat ||
      lseq.toNat != (getLink s (2 * b.val + dir.val)).rxNext || lseq.toNat != (getLink s (2 * b.val + dir.val)).txNext) = true) := by
    simp [hstate, hswitch, ← hrx, ← htx]
  simp only [execLinkSwitchRx, hrep]
  exact ⟨_, if_neg hdue⟩

end

/-! ### A bundle that goes down (R242) -/

/-- A direction that has gone down, its forwarded clock as it was. -/
def linkDowned (s : State) (d : Nat) : State :=
  setLink s d { getLink s d with
    state := 0, rxLast := ((getLink s d).rxNext + 63) % 64, repairing := none, failed := [], replay := [], txSwitch := none }

theorem countMove_links (s : State) (b cls : Nat) : (countMove s b cls).noc.links = s.noc.links := by
  unfold countMove
  dsimp only
  split <;> rfl

theorem atDownBundle_links (s : State) (p : Pkt) (dir : Nat) : (atDownBundle s p dir).noc.links = s.noc.links := by
  unfold atDownBundle
  dsimp only
  split
  · split
    · exact countMove_links s _ _
    · rfl
  · split
    · exact countMove_links s _ _
    · exact countMove_links s _ _

theorem noteDeg_noc (s : State) : (noteDeg s).noc = s.noc := by
  unfold noteDeg updSu
  exact (apply_ite State.noc _ _ _).trans (ite_self _)

/-- Of the links, a bundle that goes down changes its two directions. -/
theorem bundleDown_links (s : State) (b : Nat) (crossed : List Nat) :
    (bundleDown s b crossed).noc.links = (linkDowned (linkDowned s (2 * b)) (2 * b + 1)).noc.links := by
  have hfold : ∀ (l : List (Pkt × Nat)) (u : State), (l.foldl (fun u e => atDownBundle u e.1 e.2) u).noc.links = u.noc.links :=
    fun l u => List.foldlRecOn l _ (motive := fun v : State => v.noc.links = u.noc.links) rfl fun v hv e _ => (atDownBundle_links v e.1 e.2).trans hv
  unfold bundleDown
  extract_lets pk noc marked down both hits count discarded w3
  clear_value hits w3
  refine (planned_planMove (planned_refl _)).links.trans ?_
  exact (congrArg Noc.links ((away_noc (away_raiseMod _ _ _ _ (away_refl _))).trans (noteDeg_noc _))).trans (hfold hits both)

theorem getLink_bundleDown (s : State) (b : Nat) (crossed : List Nat) (e : Nat) :
    getLink (bundleDown s b crossed) e = getLink (linkDowned (linkDowned s (2 * b)) (2 * b + 1)) e :=
  getLink_of_links_eq (bundleDown_links s b crossed) e

/-- Both directions of a bundle that goes down are down, their clocks as they were; other links are not touched. -/
theorem bundleDown_down (s : State) (b : Nat) (crossed : List Nat) (i : Nat) (hi : i < 2) :
    (getLink (bundleDown s b crossed) (2 * b + i)).state = 0 ∧
      (getLink (bundleDown s b crossed) (2 * b + i)).clk = (getLink s (2 * b + i)).clk := by
  rw [getLink_bundleDown]
  obtain rfl | rfl : i = 0 ∨ i = 1 := by omega
  all_goals simp [linkDowned]

theorem getLink_bundleDown_ne (s : State) {b e : Nat} (crossed : List Nat) (h : e / 2 ≠ b) : getLink (bundleDown s b crossed) e = getLink s e := by
  rw [getLink_bundleDown, linkDowned, getLink_setLink_ne _ _ (by omega), linkDowned, getLink_setLink_ne _ _ (by omega)]

/-- The state in which a forwarded clock has stopped, where one has. -/
def clkStopped (s : State) (b : Nat) : Option (Fin 2) → State
  | some i => setLink s (2 * b + i.val) { getLink s (2 * b + i.val) with clk := false }
  | none => s

theorem getLink_clkStopped_ne (s : State) {b e : Nat} (clk : Option (Fin 2)) (h : e / 2 ≠ b) : getLink (clkStopped s b clk) e = getLink s e := by
  cases clk with
  | none => rfl
  | some i => exact getLink_setLink_ne _ _ (by omega)

theorem exec_linkBundleDown {b : Fin 40} {s : State} (clk : Option (Fin 2)) (crossed : List Nat) (h : bundleUp s b = true) :
    exec (.linkBundleDown b clk crossed) s = .next (bundleDown (clkStopped s b clk) b crossed) := by
  cases clk <;> exact if_pos h

theorem linksDeliverInOrder : Parts.LinksDeliverInOrder := by
  intro b dir s d l
  have hd : d = 2 * b.val + dir.val := rfl
  have hl : l = getLink s d := rfl
  clear_value l d
  have hb : d / 2 = b.val := by omega
  refine ⟨?_, fun ack h => ?_, fun ack hstate hnak hlast => ?_, fun lane hstate hrep hmode hnext hfailed => ?_,
    fun lseq i hstate hrep hswitch hrx htx hfailed => ?_, fun clk crossed hup => ?_, fun clk crossed hdown => if_neg (by simp [hdown])⟩
  · intro u crossed row got v awaited
    refine ⟨fun h => ?_, fun hstate hsent hack => ?_⟩
    · subst hd hl
      exact if_pos (by simpa using h)
    have hexec := exec_linkUnitRx_of_sent (crossed := crossed) (l := l) (got := got) (v := v) hd hl rfl rfl hstate hsent hack
    have hv : getLink v d = noteSent l u := getLink_setLink_same ..
    clear_value got v
    refine ⟨?_, ?_, ?_, ?_⟩
    · intro hgood hdue hctl hfresh w
      obtain ⟨hvld, hseq⟩ : u.vld = true ∧ u.lseq.toNat = l.rxNext := by simpa [awaited] using hdue
      have hw : getLink w d = noteSent l u := (getLink_takeAck_same v d u).trans hv
      have hdeliver := linkGood_of_no_failed (s := w) (d := d) (by simpa [hw] using hfresh) got crossed
      simp only [hw, noteSent_rxNext, noteSent_rxNak] at hdeliver
      rw [if_neg (by simp [hgood]), if_neg (by simp [hvld]), if_neg (not_not.2 hseq), if_neg (by simp [hctl]), hdeliver] at hexec
      exact hexec
    · intro hbad w run w'
      have hfail : linkFail v d u got crossed = if 16 ≤ run then bundleDown w' b crossed else w' := hb ▸ linkFail_of_sent hv got crossed
      rw [if_pos hbad, hfail] at hexec
      clear_value w' run
      refine ⟨fun h => ?_, fun h => ?_⟩
      · rwa [if_neg (Nat.not_le.2 h)] at hexec
      · rwa [if_pos h] at hexec
    · intro hgood hvld hseq
      rw [if_neg (by simp [hgood]), if_neg (by simp [hvld]), if_pos hseq] at hexec
      exact hexec
    · intro hgood hvld
      rw [if_neg (by simp [hgood]), if_pos hvld] at hexec
      exact hexec
  · subst hd hl
    exact if_pos (by simpa using h)
  · obtain ⟨hnext, hacked⟩ := getLink_linkNak_same s d ack.toNat
    exact ⟨_, exec_linkNakRx hd hl hstate hnak hlast, hnext, fun h => hacked (hl ▸ h), fun e he => getLink_linkNak_ne s d _ he, linkNak_eq s d _⟩
  · obtain ⟨n, cr, hexec⟩ := exec_linkRepairRx hd hl hstate hrep hmode hnext
    generalize hu : setLink (takeFree s 16).2 d { l with txInBand := true, txBad := lane.val, txSwitch := some n } = u at hexec
    have hown : getLink u d = { l with txInBand := true, txBad := lane.val, txSwitch := some n } := hu ▸ getLink_setLink_same ..
    have hrev : getLink u (revDir d) = getLink s (revDir d) := hu ▸ getLink_setLink_ne _ _ (revDir_ne d)
    have hnone : (getLink u (revDir d)).failed = [] := hrev ▸ hfailed
    have hsender := (getLink_linkControl_ne hnone cr (revDir_ne d).symm).trans hown
    have hreceiver := getLink_linkControl_same hnone cr
    exact ⟨_, hexec, congrArg Link.txInBand hsender, congrArg Link.txBad hsender, congrArg (·.txSwitch.isSome) hsender,
      (congrArg Link.state hsender).trans hstate, (congrArg Link.rxNext hreceiver).trans (by rw [hrev])⟩
  · obtain ⟨cr, hexec⟩ := exec_linkSwitchRx hd hl hstate hrep hswitch hrx htx
    subst hl
    have hcontrol := getLink_linkControl_same (s := (takeFree s 16).2) hfailed cr
    have hother := fun {e} => getLink_linkControl_ne (s := (takeFree s 16).2) (e := e) hfailed cr
    generalize linkControl (takeFree s 16).2 d cr = u at hexec hcontrol hother
    have hlinks : ∀ e, getLink (linkEvt (alertMc (linkSwitched u d i) (.nocLinkRepaired d i)) b 1 0) e = getLink (linkSwitched u d i) e :=
      fun e => getLink_of_links_eq (congrArg Noc.links (away_noc (away_raiseMod _ _ _ _ (away_refl _)))) e
    have hswitched := (hlinks d).trans (getLink_setLink_same ..)
    exact ⟨_, hexec, congrArg Link.state hswitched, congrArg Link.bad hswitched, congrArg Link.rxInBand hswitched,
      congrArg Link.repairing hswitched, (congrArg Link.rxNext hswitched).trans (congrArg Link.rxNext hcontrol),
      fun e he => (hlinks e).trans ((getLink_setLink_ne _ _ he).trans (hother he))⟩
  · obtain ⟨hfirst, -⟩ := bundleDown_down (clkStopped s b clk) b crossed 0 (by omega)
    obtain ⟨hsecond, -⟩ := bundleDown_down (clkStopped s b clk) b crossed 1 (by omega)
    refine ⟨_, exec_linkBundleDown clk crossed hup, hfirst, hsecond, ?_, fun i hi => ?_, fun e he => ?_⟩
    · simp [bundleUp, show (getLink (bundleDown (clkStopped s b clk) b crossed) (2 * b)).state = 0 from hfirst]
    · obtain ⟨-, hclk⟩ := bundleDown_down (clkStopped s b clk) b crossed i i.isLt
      rw [hclk, hi, clkStopped, getLink_setLink_same]
    · rw [getLink_bundleDown_ne _ _ he, getLink_clkStopped_ne _ _ he]

end Sys2Proof.Machine
end

section
/-!
SUPPORT. Packets at their destination (10_spline_fabric R225, R226, R234, R237): the command that takes a packet, the gate or the header check that keeps it
away, the answer that reaches what waits for it, and the request that no answer reaches. The gate before a core that takes note of a notification stays open, which
rests on what a request to wake a domain leaves alone of counters and of awake domains (16_power_states R353, R358).
-/
namespace Sys2Proof.Machine

/-! ### Answering a host -/

/-- `s` differs from `A` in its host ports and the count of free values at most. -/
abbrev HostsOnly (A s : State) : Prop := { s with hosts := A.hosts, fresh := A.fresh } = A

section
variable {A s : State}

theorem hostsOnly_takePacket (h opc seq : Nat) (args : List Word) (hs : HostsOnly A s) : HostsOnly A (takePacket s h opc seq args) := by
  unfold takePacket
  dsimp only
  repeat' split
  all_goals exact hs

theorem hostsOnly_parseOne {t : State} {h : Nat} (hs : HostsOnly A s) (ht : parseOne s h = some t) : HostsOnly A t := by
  simp only [parseOne] at ht
  split at ht
  · cases ht
  split at ht
  · cases ht
    exact hs
  split at ht
  · cases ht
  split at ht
  · cases ht
    exact hs
  generalize (if fld _ 0 17 = 0 then 0 else crc32 _) = crc at ht
  split at ht
  · cases ht
    exact hs
  · cases ht
    exact hostsOnly_takePacket _ _ _ _ hs

theorem hostsOnly_parse (h n : Nat) (hs : HostsOnly A s) : HostsOnly A (parse s h n) := by
  induction n generalizing s with
  | zero => exact hs
  | succ n ih =>
    unfold parse
    split
    · exact hs
    next t ht => exact ih (hostsOnly_parseOne hs ht)

theorem hostsOnly_finish (h : Nat) (c : HostCmd) (status : Nat) (pay : List Word) (hs : HostsOnly A s) : HostsOnly A (finish s h c status pay) := by
  have hparse : ∀ {u : State} n, HostsOnly A u → HostsOnly A (takeCommitted (parse u h n) h) := by
    intro u n hu
    unfold takeCommitted
    dsimp only
    split <;> exact hostsOnly_parse h n hu
  unfold finish parseAll
  dsimp only
  apply hparse
  split <;> exact hs

end

/-! ### A request to wake a domain -/

/-- A refusal that is no abort is counted and noted with its domain, whose state stays. -/
theorem noteRefusal_eq (s : State) (d code target : Nat) :
    ∃ x, x.state = (getDom s d).state ∧ noteRefusal s d code false target = setDom (bump s .pwrRef (8 * d + code)) d x :=
  ⟨{ getDom s d with lastRef := code, lastAbort := false, lastTarget := target, lastV := true, lastN := absTick s }, rfl, rfl⟩

/-- A withdrawn request is noted with its domain, whose state stays, and its host is answered. -/
theorem withdrawSet_eq (s : State) (d code : Nat) : withdrawSet s d code = s ∨
    ∃ x, x.state = (getDom s d).state ∧ HostsOnly (setDom (bump s .pwrRef (8 * d + code)) d x) (withdrawSet s d code) := by
  unfold withdrawSet
  split
  · exact Or.inl rfl
  next t h _ =>
  obtain ⟨x, hx, hnoted⟩ := noteRefusal_eq (updDom s d fun x => { x with reqSet := none }) d code t
  have hset : setDom (bump (updDom s d fun x => { x with reqSet := none }) .pwrRef (8 * d + code)) d x = setDom (bump s .pwrRef (8 * d + code)) d x := by
    simp only [setDom, updDom, bump_doms, tset_tset_same]
    rfl
  rw [getDom_updDom_same] at hx
  refine Or.inr ⟨x, hx, ?_⟩
  dsimp only
  rw [hnoted, hset]
  generalize setDom (bump s .pwrRef (8 * d + code)) d x = u
  unfold replyLater
  split
  · split
    · exact hostsOnly_finish _ _ _ _ rfl
    · rfl
  · rfl

section
variable {s : State} {d : Nat}

/-- An awake domain stays awake. -/
theorem getDom_wakeReq_awake (h : (getDom s d).state = .awake) (deep : Bool) (code : Nat) : (getDom (wakeReq s d deep code) d).state = .awake := by
  unfold wakeReq
  dsimp only
  split
  · exact h
  rw [h]
  dsimp only
  rcases withdrawSet_eq s d code with he | ⟨x, hx, he⟩
  · rw [he, h]
  · have hdom := (congrArg (getDom · d) he :)
    rw [getDom_setDom_same] at hdom
    exact (congrArg Dom.state hdom).trans (hx.trans h)

/-- Of the counters, a request to wake a domain counts refusals. -/
theorem ctrGet_wakeReq {c : Counter} (hc : c.ctorIdx ≠ Counter.pwrRef.ctorIdx) (s : State) (d : Nat) (deep : Bool) (code b : Nat) :
    ctrGet (wakeReq s d deep code) c b = ctrGet s c b := by
  have hwithdraw : ctrGet (withdrawSet s d code) c b = ctrGet s c b := by
    rcases withdrawSet_eq s d code with he | ⟨x, -, he⟩
    · rw [he]
    · have hctr := (congrArg (ctrGet · c b) he :)
      exact hctr.trans (ctrGet_bumpBy_of_kind_ne s (8 * d + code) b 1 hc)
  unfold wakeReq
  dsimp only
  split
  · rfl
  cases (getDom s d).state with
  | s1 | s2 | waking | failed => rfl
  | s3 | entering => dsimp only; split <;> rfl
  | awake => exact hwithdraw

theorem ctrGet_signalCore {c : Counter} (hc : c.ctorIdx ≠ Counter.pwrRef.ctorIdx) (s : State) (core b : Nat) :
    ctrGet (signalCore s core) c b = ctrGet s c b := by
  unfold signalCore
  split
  · split
    · exact ctrGet_wakeReq hc s _ false 1 b
    · rfl
  · rfl

end

/-! ### The gate of a port (R234) -/

section
variable {s : State} {q d : Nat}

/-- A gate that is open is the one of an awake domain. -/
theorem gateStatus_some_eq_zero : gateStatus s (some d) = 0 ↔ 6 < s.su.stage ∧ (getDom s d).state = .awake := by
  simp only [gateStatus]
  split
  · simp [*]
  · cases (getDom s d).state <;> simp
    omega

theorem gateStatus_wakeReq (h : gateStatus s (some d) = 0) (deep : Bool) (code : Nat) : gateStatus (wakeReq s d deep code) (some d) = 0 := by
  obtain ⟨hstage, hawake⟩ := gateStatus_some_eq_zero.1 h
  have hsu : (wakeReq s d deep code).su = s.su := (congrArg (·.su) (wakeReq_eq s d deep code) :)
  exact gateStatus_some_eq_zero.2 ⟨hsu ▸ hstage, getDom_wakeReq_awake hawake deep code⟩

theorem portGate_eq_zero : portGate s q = 0 ↔ dieOut s (portDie q) = false ∧ gateStatus s (portDom q) = 0 := by
  unfold portGate
  split <;> simp_all

/-- The port of a core lies in the power domain of the core. -/
theorem portDom_of_portCore {c : Nat} (h : portCore q = some c) : portDom q = coreDom c := by
  have hlt : q < 144 := by
    unfold portCore at h
    split at h
    · assumption
    · cases h
  simp [portDom, hlt, h]

/-- A core that takes note of something keeps its port's gate open. -/
theorem portGate_setIp {c : Nat} (hgate : portGate s q = 0) (hcore : portCore q = some c) (i : Nat) : portGate (setIp s c i) q = 0 := by
  obtain ⟨hdie, hdom⟩ := portGate_eq_zero.1 hgate
  rw [portDom_of_portCore hcore] at hdom
  unfold setIp signalCore
  generalize hu : (updCore s c fun x => { x with ip := setBit x.ip i true }) = u
  have hudie : dieOut u (portDie q) = false := hu ▸ hdie
  have hudom : gateStatus u (coreDom c) = 0 := hu ▸ hdom
  have huopen : portGate u q = 0 := portGate_eq_zero.2 ⟨hudie, portDom_of_portCore hcore ▸ hudom⟩
  split
  · split
    next d hd =>
      rw [hd] at hudom
      have hlost : dieOut (wakeReq u d false 1) (portDie q) = false := (congrArg (dieOut · (portDie q)) (wakeReq_eq u d false 1) :).trans hudie
      exact portGate_eq_zero.2 ⟨hlost, by rw [portDom_of_portCore hcore, hd]; exact gateStatus_wakeReq hudom false 1⟩
    · exact huopen
  · exact huopen

end

/-! ### A packet at its destination (R225, R226) -/

section
variable {s : State} {src dest : Fin 160} {p : Pkt}

/-- A packet that nothing keeps away is taken. -/
theorem arrive_of_arrives {cmd : Nat} (h : Arrives s src dest cmd p) (take : State → Pkt → State) : arrive s src dest cmd none take = take (dropPkt s p) p := by
  obtain ⟨hold, hcmd, hfree, hopen⟩ := h
  have hgate : (p.cls != 3 && portGate s dest != 0) = false := by
    rcases hopen with h | h <;> simp [h]
  simp only [arrive, hold, hcmd, bne_self_eq_false, Bool.false_eq_true, if_false, Option.bind_none, hfree, hgate]

end

section
variable {u v : State} {p : Pkt} {st : Nat}

/-- What a packet reads is what memory or a register holds there. -/
theorem pktRead_eq {bs : List Byte}
    (h : (targetOf p.addr ≠ .regs ∧ memRead u p.part p.addr p.len = (st, bs, v)) ∨
      (∃ w o, targetOf p.addr = .regs ∧ regAddr p.addr = some (w, o) ∧ regRead u p.part w o p.len = (st, bs, v))) : pktRead u p = (st, bs, v) := by
  unfold pktRead
  rcases h with ⟨hmem, h⟩ | ⟨w, o, hregs, hat, h⟩
  · split
    · exact absurd ‹_› hmem
    · exact h
  · rw [hregs, hat]
    exact h

/-- What a packet writes goes to memory or to a register. -/
theorem pktWrite_eq {n : Nat}
    (h : (targetOf p.addr ≠ .regs ∧ memWrite u p.part p.addr p.data = (st, n, v)) ∨
      (∃ w o, targetOf p.addr = .regs ∧ regAddr p.addr = some (w, o) ∧ devWrite u p.part w o p.data = (st, v))) : pktWrite u p = (st, v) := by
  unfold pktWrite
  rcases h with ⟨hmem, h⟩ | ⟨w, o, hregs, hat, h⟩
  · split
    · exact absurd ‹_› hmem
    · rw [h]
  · rw [hregs, hat]
    exact h

end

section
variable {s v : State} {src dest : Fin 160} {p : Pkt} {st : Nat}

theorem exec_nocRead_arrives {bs : List Byte} (ha : Arrives s src dest 0x01 p) (h : pktRead (dropPkt s p) p = (st, bs, v)) :
    exec (.nocRead src dest none) s = .next (sendRsp v p 0x10 st 0 (if st = 0 then bs else [])) :=
  congrArg Host.Outcome.next ((arrive_of_arrives ha _).trans (by rw [h]))

section
variable (h : pktWrite (dropPkt s p) p = (st, v))
include h

theorem exec_nocWrite_arrives (ha : Arrives s src dest 0x02 p) : exec (.nocWrite src dest none) s = .next (sendRsp v p 0x11 st 0 []) :=
  congrArg Host.Outcome.next ((arrive_of_arrives ha _).trans (by rw [h]))

theorem exec_nocSwrite_arrives (ha : Arrives s src dest 0x20 p) : exec (.nocSwrite src dest none) s = .next (if st = 0 then v else refusePkt v p st) :=
  congrArg Host.Outcome.next ((arrive_of_arrives ha _).trans (by rw [h]))

theorem exec_nocSwriteL_arrives (ha : Arrives s src dest 0x21 p) :
    exec (.nocSwriteL src dest none) s = .next (if st = 0 then sendRsp v p 0x13 0 0 [] else refusePkt v p st) :=
  congrArg Host.Outcome.next ((arrive_of_arrives ha _).trans (by rw [h]))

end

theorem exec_nocAtomic_arrives {old : Nat} (ha : Arrives s src dest 0x03 p)
    (h : memAtomic (dropPkt s p) p.part p.addr (if p.aw then 8 else 4) p.aop p.opnd.toNat p.cmp.toNat = (st, old, v)) :
    exec (.nocAtomic src dest none) s = .next (sendRsp v p 0x12 st (BitVec.ofNat 64 old) []) :=
  congrArg Host.Outcome.next ((arrive_of_arrives ha _).trans (by dsimp only; rw [h]))

section
variable (ha : Arrives s src dest 0x30 p) (hcore : (portCore p.src).isSome = true) (hsub : p.subsrc = 0)
include ha hcore hsub

/-- A core's item is answered with its handle (R225). -/
theorem exec_nocDvitem_taken {it : Item} (h : enqueue (dropPkt s p) (p.part.getD 4) (pktItem p) = (0, v, some it)) :
    exec (.nocDvitem src dest none) s =
      .next (sendPkt v p.dest { rspOf v p 0x31 0 (it.hdl ||| BitVec.ofNat 64 (2 ^ 63)) [] with cls := 3, status := 0 }) := by
  rw [← handleWord]
  exact congrArg Host.Outcome.next ((arrive_of_arrives ha _).trans (by simp only [hcore, hsub, beq_self_eq_true, Bool.and_self, if_true, h]))

/-- An item that is not taken is answered with the reason (R225). -/
theorem exec_nocDvitem_refused {r : Nat} (h : enqueue (dropPkt s p) (p.part.getD 4) (pktItem p) = (r, v, none)) :
    exec (.nocDvitem src dest none) s = .next (sendPkt v p.dest { rspOf v p 0x31 0 (BitVec.ofNat 64 r) [] with cls := 3, status := 0 }) :=
  congrArg Host.Outcome.next ((arrive_of_arrives ha _).trans (by simp only [hcore, hsub, beq_self_eq_true, Bool.and_self, if_true, h]))

end

theorem exec_nocDvitem_unit (ha : Arrives s src dest 0x30 p) (hcore : portCore p.src = none) :
    exec (.nocDvitem src dest none) s = .next (enqueueExt (dropPkt s p) (p.part.getD 4) (pktItem p)).2.1 :=
  congrArg Host.Outcome.next ((arrive_of_arrives ha _).trans (by simp [hcore]))

end

section
variable {s : State} {src dest : Fin 160} {p : Pkt}

/-- An answer that reports no error of a write is kept as the port's latest one, and nothing else. -/
theorem answerAgent_eq_setPort {q : Nat} (h : p.status = 0 ∨ (p.cmd ≠ 0x11 ∧ p.cmd ≠ 0x13 ∧ p.cmd ≠ 0x14)) :
    answerAgent s q p = setPort s q { getPort s q with ans := some p } := by
  unfold answerAgent
  dsimp only
  split
  · rw [if_neg (by omega)]
  · split
    · rfl
    · rw [if_neg (by omega)]

theorem exec_nocDvans_arrives (ha : Arrives s src dest 0x31 p) (hgate : portGate s dest = 0) :
    exec (.nocDvans src dest none) s = .next (answerAgent (dropPkt s p) dest p) := by
  refine congrArg Host.Outcome.next ((arrive_of_arrives ha _).trans ?_)
  obtain ⟨-, hcmd, -, -⟩ := ha
  have hopen : portGate (answerAgent (dropPkt s p) dest p) dest = 0 := by
    rw [answerAgent_eq_setPort (Or.inr (by omega))]
    exact hgate
  cases portDom dest with
  | none => rfl
  | some d => simp [hopen]

/-- The bits of HZ_IP that core `c` holds itself (R123). -/
abbrev HoldsIp (c b : Nat) : Prop := b = 0 ∨ b = 5 ∨ b = 6 ∨ b = if isChisel c then 4 else 7

section
variable {c : Nat} (ha : Arrives s src dest 0x32 p) (hcore : portCore dest = some c)
include ha hcore

/-- A notification of another partition does not touch the core (R226). -/
theorem exec_nocNotify_foreign (hpart : p.part.isSome = true) (hne : p.part ≠ corePart s c) :
    exec (.nocNotify src dest none) s = .next (dropPkt s p) := by
  refine congrArg Host.Outcome.next ((arrive_of_arrives ha _).trans ?_)
  have hne' : p.part ≠ corePart (dropPkt s p) c := hne
  simp [hcore, hpart, hne']

/-- A notification at an open gate sets the bit that it names, where the core holds it (R123, R225). -/
theorem exec_nocNotify_own (hgate : portGate s dest = 0) (hown : p.part = none ∨ p.part = corePart s c) :
    exec (.nocNotify src dest none) s = .next (if HoldsIp c (p.opnd.toNat % 256) then setIp (dropPkt s p) c (p.opnd.toNat % 256) else dropPkt s p) := by
  refine congrArg Host.Outcome.next ((arrive_of_arrives ha _).trans ?_)
  have hserved : (p.part.isSome && p.part != corePart (dropPkt s p) c) = false := by
    rcases hown with h | h
    · simp [h]
    · have h' : p.part = corePart (dropPkt s p) c := h
      simp [← h']
  have hgate' : portGate (dropPkt s p) dest = 0 := hgate
  have hset : portGate (setIp (dropPkt s p) c (p.opnd.toNat % 256)) dest = 0 := portGate_setIp hgate' hcore _
  simp only [hcore, hserved, Bool.false_eq_true, if_false]
  generalize hu : (if HoldsIp c (p.opnd.toNat % 256) then setIp (dropPkt s p) c (p.opnd.toNat % 256) else dropPkt s p) = u
  have hopen : portGate u dest = 0 := by
    rw [← hu, apply_ite (portGate · dest), hset, hgate', ite_self]
  cases portDom dest with
  | none => rfl
  | some d => simp [hopen]

end

end

theorem packetsArePerformed : Parts.PacketsArePerformed := by
  intro src dest s p u
  refine ⟨fun st bs v ha h => exec_nocRead_arrives ha (pktRead_eq h), fun st n v h => ?_, fun st old v => exec_nocAtomic_arrives,
    fun ha hcore hsub => ⟨fun v it => exec_nocDvitem_taken ha hcore hsub, fun r v => exec_nocDvitem_refused ha hcore hsub⟩,
    exec_nocDvitem_unit, exec_nocDvans_arrives, fun c ha hgate hcore => ⟨fun hown => ?_, exec_nocNotify_foreign ha hcore⟩⟩
  · have hw := pktWrite_eq h
    exact ⟨exec_nocWrite_arrives hw, fun ha hst => (exec_nocSwrite_arrives hw ha).trans (by rw [if_pos hst]),
      fun ha hst => (exec_nocSwrite_arrives hw ha).trans (by rw [if_neg hst]), fun ha hst => (exec_nocSwriteL_arrives hw ha).trans (by rw [if_pos hst]),
      fun ha hst => (exec_nocSwriteL_arrives hw ha).trans (by rw [if_neg hst])⟩
  · intro b held
    have hset := exec_nocNotify_own ha hcore hgate hown
    exact ⟨fun h => hset.trans (congrArg Host.Outcome.next (if_pos h)), fun h => hset.trans (congrArg Host.Outcome.next (if_neg h))⟩

/-! ### An answer at its requester (R225, R237) -/

/-- Is `o` the request that the answer `p` ends (R225)? -/
abbrev endedBy (p : Pkt) (o : OutReq) : Bool := o.seq == p.seq && (dueAnswer o.cmd == p.cmd || (o.cls == 2 && p.cmd == 0x14))

section
variable {s : State} {p : Pkt}

theorem handAnswer_of_awaited {o : OutReq} (h : (getPort s p.dest).out.find? (endedBy p) = some o) : handAnswer s p =
    answerAgent (setPort s p.dest { getPort s p.dest with out := (getPort s p.dest).out.filter fun q => q != o }) p.dest p := by
  simp only [handAnswer, h]

section
variable (h : (getPort s p.dest).out.find? (endedBy p) = none)
include h

theorem handAnswer_of_late (hcmd : p.cmd ≠ 0x14) : handAnswer s p = bump s .nocRspLate p.dest := by
  simp only [handAnswer, h, hcmd, if_false]

variable (hcmd : p.cmd = 0x14)
include hcmd

theorem handAnswer_of_refused (hlost : (getPort s p.dest).lost.contains p.seq = false) : handAnswer s p = answerAgent s p.dest p := by
  simp only [handAnswer, h]
  rw [if_pos hcmd, if_neg (hlost ▸ Bool.false_ne_true)]

theorem handAnswer_of_refused_late (hlost : (getPort s p.dest).lost.contains p.seq = true) : handAnswer s p =
    bump (setPort s p.dest { getPort s p.dest with lost := (getPort s p.dest).lost.filter fun i => i != p.seq }) .nocRspLate p.dest := by
  simp only [handAnswer, h]
  rw [if_pos hcmd, if_pos hlost]

end

end

theorem exec_answer_arrives {s : State} {src dest : Fin 160} {p : Pkt} : ∀ e ∈ [((0x10 : Nat), Instr.nocRdata src dest none), (0x11, .nocWack src dest none),
    (0x12, .nocAack src dest none), (0x13, .nocLanded src dest none), (0x14, .nocSnak src dest none)],
    Arrives s src dest e.1 p → exec e.2 s = .next (handAnswer (dropPkt s p) p) := by
  simp only [List.forall_mem_cons, List.not_mem_nil, false_implies, implies_true, and_true]
  refine ⟨?_, ?_, ?_, ?_, ?_⟩
  all_goals exact fun ha => congrArg Host.Outcome.next (arrive_of_arrives ha handAnswer)

/-! ### A packet that is not taken (R234, R237) -/

/-! Whether the header check fails: for any check, which keeps the kernel from computing a CRC of bits that stand for themselves. -/

section
variable {ok : Nat → Bool} {w : Nat} (d : Fin 3) {bits : BitVec 512}

theorem dieOfBadHeader_of_bad (h : ok (w ^^^ bits.toNat) = false) :
    ((some (d, bits)).bind fun e => if ok (w ^^^ e.2.toNat) then none else some e.1) = some d := by simp [h]

theorem dieOfBadHeader_of_good (h : ok (w ^^^ bits.toNat) = true) :
    ((some (d, bits)).bind fun e => if ok (w ^^^ e.2.toNat) then none else some e.1) = none := by simp [h]

end

section
variable {s : State} {src dest : Fin 160} {cmd : Nat} {p : Pkt} (hold : oldestPkt s src dest (cmdClass cmd) = some p) (hcmd : p.cmd = cmd)
include hold hcmd

/-- At a closed gate only an event is taken. -/
theorem arrive_of_closed (hfree : blockedAt s p = none) (hcls : p.cls ≠ 3) (hgate : portGate s dest ≠ 0) (take : State → Pkt → State) :
    arrive s src dest cmd none take =
      if p.cls != 1 && pktForeign s p then refusePkt (dropPkt s p) p 5 else atClosedGate s p (portGate s dest) := by
  have hclosed : (p.cls != 3 && portGate s dest != 0) = true := by simp [hcls, hgate]
  simp only [arrive, hold, hcmd, bne_self_eq_false, Bool.false_eq_true, if_false, Option.bind_none, hfree, hclosed, if_true]

/-- A header that fails its HCRC is dropped, counted and reported (R237). -/
theorem arrive_of_bad_header (d : Fin 3) {bits : BitVec 512} (take : State → Pkt → State) (h : hcrcOk (headerWord p ^^^ bits.toNat) = false) :
    arrive s src dest cmd (some (d, bits)) take = alertMc (bump (dropPkt s p) .nocHcrcErr d) (.nocHcrc d) := by
  have hdie := dieOfBadHeader_of_bad (ok := hcrcOk) (w := headerWord p) d h
  simp only [arrive, hold, hcmd, bne_self_eq_false, Bool.false_eq_true, if_false, hdie]

/-- Errors that the HCRC does not see change nothing. -/
theorem arrive_of_good_header (d : Fin 3) {bits : BitVec 512} (take : State → Pkt → State) (h : hcrcOk (headerWord p ^^^ bits.toNat) = true) :
    arrive s src dest cmd (some (d, bits)) take = arrive s src dest cmd none take := by
  have hdie := dieOfBadHeader_of_good (ok := hcrcOk) (w := headerWord p) d h
  simp only [arrive, hold, hcmd, bne_self_eq_false, Bool.false_eq_true, if_false, hdie, Option.bind_none]

end

/-! ### What an answer leaves as it is, and the store error (R128, R226) -/

section
variable {s : State} {q : Nat} {p : Pkt}

theorem answerAgent_of_no_agent (hcore : portCore q = none) (hdma : portDma q p.subsrc = none) :
    answerAgent s q p = setPort s q { getPort s q with ans := some p } := by
  simp only [answerAgent, hcore, hdma]

/-- The port's own agent is no DMA channel. -/
theorem portDma_zero (q : Nat) : portDma q 0 = none := rfl

/-- An error answer to a core's own write waits as its store error. -/
theorem getCore_answerAgent_storeError {c : Nat} (hcore : portCore q = some c) (hsub : p.subsrc = 0) (hst : p.status ≠ 0) (hcmd : p.cmd = 0x11) :
    getCore (answerAgent s q p) c = { getCore s c with fabQ := (getCore s c).fabQ ++ [BitVec.ofNat 64 p.addr] } := by
  have hdma : portDma q p.subsrc = none := hsub ▸ portDma_zero q
  simp only [answerAgent, hdma, hcore]
  rw [if_pos ⟨hsub, hst, Or.inl hcmd⟩, getCore_setCore_same]
  rfl

theorem ctrGet_answerAgent {c : Counter} (hc : c.ctorIdx ≠ Counter.pwrRef.ctorIdx) (s : State) (q : Nat) (p : Pkt) (b : Nat) :
    ctrGet (answerAgent s q p) c b = ctrGet s c b := by
  have hrefused : ∀ (u : State) k, ctrGet (dmaRefused u k p) c b = ctrGet u c b := by
    intro u k
    unfold dmaRefused signalDma
    dsimp only
    split
    · rfl
    · split
      · exact ctrGet_signalCore hc _ _ _
      · rfl
  unfold answerAgent
  dsimp only
  split
  · split
    · exact hrefused _ _
    · rfl
  · split
    · rfl
    · split <;> rfl

end

/-! ### A request without an answer (R237) -/

/-- The answer that a port gives its own agent in place of the one that was due. -/
def timeoutAnswer (s : State) (port : Fin 160) (o : OutReq) : Pkt :=
  { dest := port, src := o.dest, subsrc := o.subsrc, cls := 1, cmd := dueAnswer o.cmd, epoch := (getPort s port).epoch, addr := o.addr, len := o.len,
    seq := o.seq, status := 4, part := none, page := 0, aop := 0, aw := false, opnd := 0, cmp := 0, data := [] }

/-- The port once it no longer waits for an answer. -/
def portTimedOut (x : NocPort) (o : OutReq) : NocPort :=
  { x with out := x.out.filter fun q => q != o, lost := if o.cls = 2 then x.lost ++ [o.seq] else x.lost }

section
variable {s : State} {port : Fin 160} {cls : Fin 4} {seq : BitVec 12}

theorem exec_nocReqTimeout_none (h : (getPort s port).out.find? (fun o => o.seq == seq.toNat && o.cls == cls.val) = none) :
    exec (.nocReqTimeout port cls seq) s = .next s := by
  change execNocReqTimeout port cls seq s = _
  simp only [execNocReqTimeout, h]

variable {o : OutReq} (h : (getPort s port).out.find? (fun o => o.seq == seq.toNat && o.cls == cls.val) = some o)
include h

theorem exec_nocReqTimeout_early (hat : upNs s < o.at_ + (portNoc s port).reqTmo) : exec (.nocReqTimeout port cls seq) s = .next s := by
  change execNocReqTimeout port cls seq s = _
  simp only [execNocReqTimeout, h, if_pos hat]

theorem exec_nocReqTimeout_due (hat : o.at_ + (portNoc s port).reqTmo ≤ upNs s) : exec (.nocReqTimeout port cls seq) s =
    .next (bump (answerAgent (setPort s port (portTimedOut (getPort s port) o)) port (timeoutAnswer s port o)) .nocReqTmo port) := by
  change execNocReqTimeout port cls seq s = _
  simp only [execNocReqTimeout, h, if_neg (Nat.not_lt.2 hat)]
  rfl

end

theorem answersReachTheirRequester : Parts.AnswersReachTheirRequester := by
  refine ⟨fun src dest s p => ?_, fun src dest s p hold hcmd hcls hfree hgate hdest => ?_, fun src dest s p hold hcmd hcls hfree hgate hdest => ?_,
    fun src dest d bits s p hold hcmd => ⟨fun hbad => ?_, fun hgood t ht => ?_⟩, fun port c s p => ⟨?_, fun hcore hsub hst hcmd => ?_, fun h c' => ?_⟩,
    fun src dest s hnone => ?_, fun port cls seq s => ?_⟩
  · intro x rows e he ha hdest
    have hexec := exec_answer_arrives e he ha
    obtain ⟨-, hcmd, -, -⟩ := ha
    clear_value rows
    subst x
    rw [← hdest]
    exact ⟨fun o ho => hexec.trans (congrArg Host.Outcome.next (handAnswer_of_awaited (s := dropPkt s p) ho)),
      fun hnone => ⟨fun h => hexec.trans (congrArg Host.Outcome.next (handAnswer_of_late (s := dropPkt s p) hnone (hcmd ▸ h))),
        fun h hlost => hexec.trans (congrArg Host.Outcome.next (handAnswer_of_refused (s := dropPkt s p) hnone (hcmd.trans h) hlost)),
        fun h hlost => hexec.trans (congrArg Host.Outcome.next (handAnswer_of_refused_late (s := dropPkt s p) hnone (hcmd.trans h) hlost))⟩⟩
  · have hexec := fun take => arrive_of_closed (cmd := 0x01) hold hcmd hfree (by omega) hgate take
    refine ⟨fun hforeign => congrArg Host.Outcome.next ((hexec _).trans (by simp [hcls, hforeign])),
      fun hforeign => congrArg Host.Outcome.next ((hexec _).trans ?_)⟩
    simp [hcls, hforeign, atClosedGate, hdest]
  · refine congrArg Host.Outcome.next ((arrive_of_closed (cmd := 0x10) hold hcmd hfree (by omega) hgate _).trans ?_)
    simp [hcls, atClosedGate, hdest]
  · exact congrArg Host.Outcome.next (arrive_of_bad_header (cmd := 0x02) hold hcmd d _ hbad)
  · exact (congrArg Host.Outcome.next (arrive_of_good_header (cmd := 0x02) hold hcmd d _ hgood)).trans ht
  · exact congrArg NocPort.ans (getPort_answerAgent_same s port p)
  · exact congrArg Core.fabQ (getCore_answerAgent_storeError hcore hsub hst hcmd)
  · have hset : answerAgent s port p = setPort s port { getPort s port with ans := some p } := by
      rcases h with hst | ⟨hcore, hdma⟩
      · exact answerAgent_eq_setPort (Or.inl hst)
      · exact answerAgent_of_no_agent hcore hdma
    rw [hset]
    rfl
  · refine congrArg Host.Outcome.next ?_
    have hnone' : oldestPkt s src dest (cmdClass 0x01) = none := hnone
    simp only [arrive, hnone']
  · intro x due
    refine ⟨exec_nocReqTimeout_none, fun o => exec_nocReqTimeout_early, fun o ho hat => ⟨_, exec_nocReqTimeout_due ho hat, ?_⟩⟩
    have hport := getPort_answerAgent_same (setPort s port (portTimedOut (getPort s port) o)) port (timeoutAnswer s port o)
    rw [getPort_setPort_same] at hport
    refine ⟨⟨_, congrArg NocPort.ans hport, rfl, rfl, rfl, rfl⟩, congrArg NocPort.out hport, fun hcls => ?_, ?_⟩
    · exact (congrArg NocPort.lost hport).trans (if_pos hcls)
    · rw [ctrGet_bump_same, ctrGet_answerAgent (by decide)]
      rfl

/-- Settles O37: a packet that arrives is taken by its command, an answer by what its port waits for, and a unit by its bundle's state. -/
theorem packetsArePerformedAndAnswered : Obligations.PacketsArePerformedAndAnswered :=
  ⟨packetsArePerformed, answersReachTheirRequester, linksDeliverInOrder⟩

end Sys2Proof.Machine
end

section
/-!
THEOREMS. The machine as a whole: the step and its queue, what every command answers, and the state after reset.
-/
namespace Sys2Proof.Machine

/-- Settles O1: on a queue with a front command the step is that command's meaning on the rest. -/
theorem stepExecutesTheFrontCommand : Obligations.StepExecutesTheFrontCommand := fun _ _ _ => rfl

/-! ### The queue and the free values -/

theorem step_of_no_command {s : State} (h : s.pending = []) : step s = .next { s with now := s.now + 1 } := by
  unfold step
  split
  next => rfl
  next hp => cases h.symm.trans hp

/-- A command keeps the queue behind it and takes free values onward: the aims of a run that asks for nothing else. -/
theorem queue_and_free_of_exec {c : Instr} {s t : State} (e : exec c s = .next t) : t.pending = s.pending ∧ s.fresh ≤ t.fresh := by
  have hs : Sound ⟨s.pending, s.fresh, False, False⟩ s := sound_iff.2 ⟨rfl, False.elim, False.elim, Nat.le_refl _⟩
  have ht := soundRes_exec c s hs
  rw [e] at ht
  obtain ⟨hqueue, -, -, hfree⟩ := sound_iff.1 ht
  exact ⟨hqueue, hfree⟩

/-- Settles O2: the idle step is the step of an empty queue, and the laws of `Sound` name queue and free values for every command. -/
theorem theQueueMovesOnlyByTheStep : Obligations.TheQueueMovesOnlyByTheStep :=
  ⟨fun _ h => step_of_no_command h, fun _ _ _ e => queue_and_free_of_exec e⟩

/-! ### Every command completes -/

/-- The meaning ends in a next state. -/
def Completes (r : Res) : Prop := ∃ t, r = .next t

theorem completes_next (t : State) : Completes (.next t) := ⟨t, rfl⟩

theorem completes_ite {p : Prop} [Decidable p] {a b : Res} (ha : Completes a) (hb : Completes b) : Completes (if p then a else b) := by
  split
  · exact ha
  · exact hb

theorem completes_lnWrite (s : State) (who : Agent) (n : Nat) (f : State → State) : Completes (lnWrite s who n f) :=
  completes_ite (completes_next _) (completes_next _)

theorem completes_fhWrite (s : State) (who : Agent) (m : Nat) (f : State → State) : Completes (fhWrite s who m f) :=
  completes_ite (completes_next _) (completes_next _)

/-- A meaning is a next state outright, or it is one of those named below, which branch on conditions and on the parts of the state before they
answer one: every branch ends in a next state. -/
theorem exec_completes (i : Instr) (s : State) : Completes (exec i s) := by
  cases i
  all_goals first
    | exact ⟨_, rfl⟩
    | (delta exec; dsimp only; delta
        execTickStart execTriggerInject execTickOvr execTickEscDrop execTickEvtFlowWrite execCounterReadClear execRegWrite execLnTxSleepEnter
        execLnTxWake execLnRxSleepEnter execLnRxWake execLnDepthChange execLnSleepDone execLnWakeDone execLnWakeFail execLnTxMode execLnRxChk
        execLnErrInj execFecCodewordRx execPrbsSymbolRx execFrameTxStart execFhSlotTx execGapHeaderRx execFawMatch execLineFrameRx execFhFrameRelease
        execFhEgressWrite execStreamEntryWrite execFhTxAis execFhProtLockout execFhProtForcedSwitch execFhProtManualSwitch execFhProtClear
        execFhDegThrWrite execFhPktFlowWrite execGcMeasureComplete execGcAckCheck execNsEarlySighting execNsReport execNsCtxWrite execGcGrpCfg0Write
        execIntegerAlu execWaitComplete execInterruptTake execWiAbort execTimerCompare execStoreErrorAsync execRaspLockGrant execRaspOpComplete
        execJgSubmit execJgDispatch execJgComplete execJgCancel execJgFault execDvStage execDvFlowCfgWrite execDvCsetWrite execNocInject
        execNocReqTimeout execNocEpochRetire execEpochStuck execNocDrainDone execNocDrainTimeout execLinkUnitRx execLinkNakRx execLinkRepairRx
        execLinkSwitchRx execLinkBundleDown execDmaPauseDone execDmaDescFetch execDmaTrigger execDmaDescComplete execMemDirtyAgeExpire execMemRefresh
        execMemRdpRefresh execMemCaAlert execMemScrubRead execMemRemapSave execSrScrubRead execMemScrubSlow execBhFrameRx execBhTxTailWrite
        execBhTxFrame execBhRuleWrite execBhFlowWrite execPtpMsgRx execPtpFollowupRelease execTmSnap execOscCheck execRefQualify execTmLock
        execHoQualSet execTmHoEvt execPpsInLost execPpsOutSecond execHostCmdPush execHostRplPop execHostEvtPop execHostDoorbell execHostAbort
        execHostPktTimeout execCmdTimeout execPartMsgPost execPartReleaseFill execModResetRelease execStartupStageDone execStartupTimeout
        execBootWatchdog execPwrEntryRequest execPwrEntryDone execPwrWakeDone execPwrWakeTimeout execPwrVoltSettled execThSample execAgeReplan
        execCoreFault execCoreSelftestDone execDmaEngineFault execDmaEngineTestDone execMcWatchdog execMcRestartDone execMemChReinitDone execDieLost
        execLogWrite execI2cOffsetWrite execI2cRead execJtagScan execFollowUpNomatch execInputPowerApply execDelayReqSend execServiceHour
        execVoltageRampDownDone
       repeat' first
        | with_reducible exact completes_next _
        | with_reducible apply completes_lnWrite
        | with_reducible apply completes_fhWrite
        | with_reducible apply completes_ite
        | split
        | dsimp only)

/-- Settles O3: by the branches of every meaning. -/
theorem everyCommandCompletes : Obligations.EveryCommandCompletes := exec_completes

/-- Settles O6: memory and counters are empty at reset. -/
theorem resetMeetsTheInvariants : Obligations.ResetMeetsTheInvariants :=
  ⟨rfl, fun _ _ => Nat.zero_le _, rfl⟩

end Sys2Proof.Machine
end

section
/-!
THEOREMS. Thermal supervision (17_thermal_and_ageing): zone warnings, samples, throttling.
-/
namespace Sys2Proof.Machine

/-! ### Zone warnings (R365) -/

/-- The state in which a zone's warning is `on` and TH_WARN tells every host of the change. -/
def warnTold (s : State) (z : Nat) (on : Bool) : State :=
  raiseMod { s with th := { s.th with warnZ := setBit s.th.warnZ z on } } 0x0A10
    (hottest s (zoneSensors z) + (if z < 24 then z else 31) * 256 + b2n on * 2 ^ 16) (ofInt (zoneTemp s z) 64)

theorem zoneWarn_eq (s : State) (z : Nat) : zoneWarn s z =
    if (bit s.th.warnZ z = false) ∧ 16 * (s.th.cfg.warn : Int) ≤ zoneTemp s z then bump (warnTold s z true) .thWarn 0
    else if bit s.th.warnZ z = true ∧ zoneTemp s z < 16 * ((s.th.cfg.warn - s.th.cfg.warnHyst : Nat) : Int) then warnTold s z false
    else s := by
  simp only [zoneWarn, Bool.not_eq_true']
  rfl

/-- Settles O55: the two tests of R365, each under its state of the warning. -/
theorem zoneWarningsSetAndClear : Obligations.ZoneWarningsSetAndClear := by
  intro s z
  refine ⟨fun hoff hat => ?_, fun hoff hbelow => ?_, fun hon hbelow => ?_, fun hon hat => ?_⟩ <;> rw [zoneWarn_eq]
  · exact if_pos ⟨hoff, hat⟩
  · rw [if_neg (fun h => absurd h.2 (not_le.2 hbelow)), if_neg (fun h => absurd (hoff.symm.trans h.1) (by decide))]
  · rw [if_neg (fun h => absurd (hon.symm.trans h.1) (by decide)), if_pos ⟨hon, hbelow⟩]
    rfl
  · rw [if_neg (fun h => absurd (hon.symm.trans h.1) (by decide)), if_neg (fun h => absurd h.2 (not_lt.2 hat))]

/-! ### Warnings and broken sensors leave the readings as they are -/

theorem th_raiseMod (s : State) (code w2 w3 : Nat) : (raiseMod s code w2 w3).th = s.th :=
  away_th (away_raiseMod s code w2 w3 (away_refl s))

/-- A zone's evaluation changes no more of the thermal unit than its warnings. -/
theorem th_zoneWarn (s : State) (z : Nat) : ∃ w, (zoneWarn s z).th = { s.th with warnZ := w } := by
  rw [zoneWarn_eq]
  split_ifs
  · exact ⟨_, (bump_th _ _ _).trans (th_raiseMod _ _ _ _)⟩
  · exact ⟨_, th_raiseMod _ _ _ _⟩
  · exact ⟨_, rfl⟩

/-- A sensor that is found broken has its bit set, and 150.0 °C for its reading (R362). -/
theorem th_markBroken {s : State} {i : Nat} (h : bit s.th.broken i = false) (cause : Nat) :
    (markBroken s i cause).th.broken = setBit s.th.broken i true ∧ (markBroken s i cause).th.temps = tset s.th.temps i 2400 := by
  unfold markBroken
  rw [if_neg (by simp [h])]
  obtain ⟨w, hw⟩ := th_zoneWarn (raiseMod { s with th := { s.th with
    broken := setBit s.th.broken i true, fast := setBit s.th.fast i true, temps := tset s.th.temps i 2400 } }
    0x0A12 (i + cause * 256) (ofInt (tempOf s i) 64)) (zoneOf i)
  rw [th_raiseMod] at hw
  exact ⟨congrArg Th.broken hw, congrArg Th.temps hw⟩

/-! ### The shut-down (R368, R369) -/

/-- The hosts hear of the shut-down and its record is queued. -/
def tripTold (s : State) (i : Nat) : State :=
  logRec (tellAll s 0x0A13 i (ofInt (tempOf s i) 64)) 0x0A13 3 true 0 (i + b2n (bit s.th.broken i) * 128 + ofInt (tempOf s i) 16 * 2 ^ 16)
    (ofInt (tempOf s i) 64) (shutConts s)

theorem thermalTrip_eq (s : State) (i : Nat) : thermalTrip s i =
    railsOff { tripTold s i with th := { (tripTold s i).th with trip := true, armed := true, armedWas := (tripTold s i).th.armed } } := rfl

theorem away_tripTold (s : State) (i : Nat) : Away s (tripTold s i) := away_logRec _ _ _ _ _ _ _ _ (away_tellAll s _ _ _ (away_refl s))

/-- Of the thermal unit a shut-down changes the three flags of the shut-down itself. -/
theorem th_thermalTrip (s : State) (i : Nat) : (thermalTrip s i).th = { s.th with trip := true, armed := true, armedWas := s.th.armed } := by
  rw [thermalTrip_eq, ← away_th (away_tripTold s i)]
  rfl

theorem getDom_railsOff {s : State} {d : Nat} (h : d < 24) : getDom (railsOff s) d = { getDom s d with state := .s3, plTo := none, plHeld := none } :=
  tget_map_upFrom _ _ ⟨Nat.zero_le d, by omega⟩

/-- Every rail but standby is gone, and the record that waits last is the shut-down's (R368, R387). -/
theorem thermalTrip_removes (s : State) (i : Nat) :
    let v := thermalTrip s i
    v.th.trip = true ∧ v.th.armed = true ∧ v.su.ready = false ∧ v.cores = [] ∧ v.mem.bytes = [] ∧ v.dv = {} ∧ v.noc = {} ∧ v.bh = {} ∧ v.flt.sev = 3 ∧ v.flt.faultN = false ∧
    v.age = s.age ∧ v.su.slots = s.su.slots ∧ v.pending = s.pending ∧ (∀ d, d < 24 → (getDom v d).state = .s3) ∧
    ∃ q e, v.flt.queue = q ++ [e] ∧ e.code = 0x0A13 ∧ e.sev = 3 ∧ e.cont = shutConts s := by
  have hage : (tripTold s i).age = s.age := away_age (away_tripTold s i)
  have hslots : (tripTold s i).su.slots = s.su.slots := congrArg Su.slots (away_su (away_tripTold s i))
  have hpending : (tripTold s i).pending = s.pending := away_pending (away_tripTold s i)
  rw [thermalTrip_eq]
  refine ⟨rfl, rfl, rfl, rfl, rfl, rfl, rfl, rfl, rfl, rfl, hage, hslots, hpending,
    fun d hd => by rw [getDom_railsOff hd], _, _, rfl, rfl, rfl, rfl⟩

theorem breakSensor_shuts {s : State} {i : Nat} (hsound : bit s.th.broken i = false) (hup : s.th.trip = false) :
    (breakSensor s i 0).th.trip = true ∧ bit (breakSensor s i 0).th.broken i = true ∧ tempOf (breakSensor s i 0) i = 2400 := by
  obtain ⟨hbroken, htemps⟩ := th_markBroken hsound 0
  have hth : (breakSensor s i 0).th = { (markBroken s i 0).th with trip := true, armed := true, armedWas := (markBroken s i 0).th.armed } := by
    unfold breakSensor
    rw [if_neg (by simp [hsound, hup])]
    exact th_thermalTrip _ i
  refine ⟨by rw [hth], by rw [hth, hbroken]; exact bit_setBit_same _ _, ?_⟩
  rw [tempOf, hth, htemps]
  exact tget_tset_same _ _ _ _

/-! ### The hottest sensor of a zone -/

theorem tempOf_le_hottest (s : State) (l : List Nat) (b : Nat) :
    let h := l.foldl (fun b i => if tempOf s b < tempOf s i then i else b) b
    tempOf s b ≤ tempOf s h ∧ ∀ k ∈ l, tempOf s k ≤ tempOf s h := by
  induction l generalizing b with
  | nil => exact ⟨le_refl _, by simp⟩
  | cons i r ih =>
    obtain ⟨hbase, hrest⟩ := ih (if tempOf s b < tempOf s i then i else b)
    have hstep : tempOf s b ≤ tempOf s (if tempOf s b < tempOf s i then i else b) ∧ tempOf s i ≤ tempOf s (if tempOf s b < tempOf s i then i else b) := by
      split_ifs with h
      · exact ⟨h.le, le_refl _⟩
      · exact ⟨le_refl _, not_lt.1 h⟩
    refine ⟨hstep.1.trans hbase, fun k hk => ?_⟩
    obtain rfl | hk := List.mem_cons.1 hk
    · exact hstep.2.trans hbase
    · exact hrest k hk

theorem tempOf_le_zoneTemp {s : State} {z k : Nat} (h : k ∈ zoneSensors z) : tempOf s k ≤ zoneTemp s z :=
  (tempOf_le_hottest s (zoneSensors z) _).2 k h

/-! ### Samples (R362, R363) -/

theorem exec_thSample_off {i : Fin 96} {r rise : BitVec 16} {s : State} (h : railsUp s = false ∨ bit s.th.broken i = true) :
    Ignored (.thSample i r rise) s :=
  if_pos (by simpa using h)

/-- A sound sensor with the rails up: the conversion is counted, and the reading decides. -/
theorem samplesAreTaken : Parts.SamplesAreTaken := by
  intro i r rise s t n bad c hot u
  refine ⟨exec_thSample_off, fun hup hsound => ?_, breakSensor_shuts, thermalTrip_removes s i, fun h => by simp [shutAt, h], fun h => by simp [shutAt, h],
    fun z k hk => tempOf_le_zoneTemp hk⟩
  have hexec : exec (.thSample i r rise) s =
      if t < -640 ∨ 2400 < t then .next (breakSensor c i 0)
      else if (n == 0 && !(decide (176 ≤ rise.toInt) && decide (rise.toInt ≤ 208))) = true then .next (breakSensor c i 1)
      else .next (if (decide hot && bit s.th.nOver i) = true then thermalTrip (zoneWarn u (zoneOf i)) i else zoneWarn u (zoneOf i)) :=
    if_neg (by simp [hup, hsound])
  have hbad : (n == 0 && !(decide (176 ≤ rise.toInt) && decide (rise.toInt ≤ 208))) = true ↔ bad := by
    simp [bad]
  have htwice : (decide hot && bit s.th.nOver i) = true ↔ hot ∧ bit s.th.nOver i = true := by simp
  have hin : -640 ≤ t → t ≤ 2400 → ¬ (t < -640 ∨ 2400 < t) := by omega
  refine ⟨fun h => hexec.trans (if_pos h), fun hlo hhi hb => hexec.trans ((if_neg (hin hlo hhi)).trans (if_pos (hbad.2 hb))),
    fun hlo hhi hb hh => hexec.trans ?_, fun hlo hhi hb hh hn => hexec.trans ?_⟩
  · rw [if_neg (hin hlo hhi), if_neg (hbad.not.2 hb), if_neg (htwice.not.2 hh)]
  · rw [if_neg (hin hlo hhi), if_neg (hbad.not.2 hb), if_pos (htwice.2 ⟨hh, hn⟩)]

/-! ### Throttling (R366, R367) -/

/-- Has the domain held its fraction for the hold time? -/
def hasHeld (s : State) (d : Nat) : Bool :=
  match (getDom s d).thrAt with
  | some u => decide (1000 * s.th.cfg.hold ≤ upNs s - u)
  | none => true

theorem hasHeld_iff (s : State) (d : Nat) : hasHeld s d = true ↔
    (getDom s d).thrAt = none ∨ ∃ n, (getDom s d).thrAt = some n ∧ 1000 * s.th.cfg.hold ≤ upNs s - n := by
  unfold hasHeld
  split <;> rename_i h <;> simp [h]

/-- The fraction after a step down. -/
def thrDown (s : State) (d : Nat) : Nat :=
  if divides s d then max ((getDom s d).thr / 2) (thrMin s d) else max ((getDom s d).thr - s.th.cfg.step) (thrMin s d)

/-- The fraction after a step up. -/
def thrUp (s : State) (d : Nat) : Nat :=
  if divides s d then min ((getDom s d).thr * 2) 64 else min ((getDom s d).thr + s.th.cfg.step) 64

theorem thrNext_eq (s : State) (d : Nat) : thrNext s d =
    if 16 * (s.th.cfg.throttle : Int) ≤ zoneTemp s d ∧ hasHeld s d = true then thrDown s d
    else if zoneTemp s d < 16 * ((s.th.cfg.throttle - s.th.cfg.thrHyst : Nat) : Int) ∧ hasHeld s d = true ∧ (getDom s d).thr < 64 then thrUp s d
    else (getDom s d).thr := rfl

theorem thrMin_le_64 {s : State} {d : Nat} (h : s.th.cfg.min_ ≤ 64) : thrMin s d ≤ 64 := by
  unfold thrMin
  dsimp only
  repeat' split
  all_goals omega

theorem thrDown_le {s : State} {d : Nat} (hthr : (getDom s d).thr ≤ 64) (hmin : s.th.cfg.min_ ≤ 64) : thrDown s d ≤ 64 := by
  have := thrMin_le_64 (d := d) hmin
  unfold thrDown
  split <;> omega

theorem thrUp_le (s : State) (d : Nat) : thrUp s d ≤ 64 := by
  unfold thrUp
  split <;> omega

theorem thrMin_le_thrDown (s : State) (d : Nat) : thrMin s d ≤ thrDown s d := by
  unfold thrDown
  split <;> exact le_max_right _ _

theorem le_thrUp {s : State} {d : Nat} (h : (getDom s d).thr < 64) : (getDom s d).thr ≤ thrUp s d := by
  unfold thrUp
  split <;> omega

/-- A throttle domain at a tick start: the three outcomes of `thrNext`. -/
theorem throttlingSteps : Parts.ThrottlingSteps := by
  intro s d x c held hot cool
  have hheld : hasHeld s d = true ↔ held := hasHeld_iff s d
  have heq := thrNext_eq s d
  have hdown : held → hot → thrNext s d = thrDown s d := fun hh ht => heq.trans (if_pos ⟨ht, hheld.2 hh⟩)
  have hup : held → ¬ hot → cool → x.thr < 64 → thrNext s d = thrUp s d := fun hh ht hc hx =>
    heq.trans ((if_neg fun h => ht h.1).trans (if_pos ⟨hc, hheld.2 hh, hx⟩))
  refine ⟨fun hh ht hd => (hdown hh ht).trans (if_neg (by simp [hd])), fun hh ht hd => (hdown hh ht).trans (if_pos hd),
    fun hh ht hc hx hd => (hup hh ht hc hx).trans (if_neg (by simp [hd])), fun hh ht hc hx hd => (hup hh ht hc hx).trans (if_pos hd),
    fun hh => ?_, fun ht hc => ?_, fun hx hm => ?_, fun hx hm => ?_, fun h => if_pos h, fun h => if_neg h, fun h => ?_⟩
  · rw [heq, if_neg fun h => hh (hheld.1 h.2), if_neg fun h => hh (hheld.1 h.2.1)]
  · rw [heq, if_neg fun h => ht h.1, if_neg fun h => hc h.1]
  · rw [heq]
    split_ifs
    · exact thrDown_le hx hm
    · exact thrUp_le s d
    · exact hx
  · rw [heq]
    split_ifs with h1 h2
    · exact thrMin_le_thrDown s d
    · exact hx.trans (le_thrUp h2.2.2)
    · exact hx
  · unfold applyThCfg
    rw [h]

/-- Settles O54: a sample by its reading, and the three outcomes of a throttle domain's evaluation. -/
theorem samplesAndThrottling : Obligations.SamplesAndThrottling := ⟨samplesAreTaken, throttlingSteps⟩

end Sys2Proof.Machine
end

section
/-!
SUPPORT. What raising an event, logging it and answering a host leave alone: all but counters, free values, items, host ports, the events held
and the log's queue with what it raises (Events, HostQ). The frame of Laws/FrameAway says so but of the domains and the fault unit.
-/
namespace Sys2Proof.Machine

/-- The fault unit without the events held back, the records that wait and the severity they raise. -/
def fltBesides (x : Flt) : Flt := { x with queue := [], sev := 0, faultN := true, held := [], heldFlow := [] }

/-- `s` is `A` but for counters, free values, items and flows, host ports, and the parts that `fltBesides` leaves out. -/
structure Told (A s : State) : Prop where
  away : Away A s
  doms : s.doms = A.doms
  csets : s.dv.csets = A.dv.csets
  flt : fltBesides s.flt = fltBesides A.flt

variable {A s : State}

theorem told_refl (s : State) : Told s s := ⟨away_refl s, rfl, rfl, rfl⟩

theorem Told.trans {t : State} (h : Told A s) (k : Told s t) : Told A t := by
  have haway : Away A { t with ctr := s.ctr, fresh := s.fresh, dv := s.dv, hosts := s.hosts, doms := s.doms, flt := s.flt } :=
    (away_eq k.away).symm ▸ h.away
  exact ⟨haway, k.doms.trans h.doms, k.csets.trans h.csets, k.flt.trans h.flt⟩

theorem getDom_of_told (h : Told A s) (d : Nat) : getDom s d = getDom A d := congrArg (fun t : Tab Dom => tget t {} d) h.doms

theorem told_foldl {α : Type} (g : State → α → State) (hg : ∀ s a, Told A s → Told A (g s a)) (l : List α) (h : Told A s) : Told A (l.foldl g s) := by
  induction l generalizing s with
  | nil => exact h
  | cons a r ih => exact ih (hg s a h)

/-! ### Events -/

theorem told_bump (h : Told A s) (k : Counter) (b : Nat) : Told A (bump s k b) := ⟨h.away, h.doms, h.csets, h.flt⟩
theorem told_setHost (h : Told A s) (k : Nat) (x : HostPort) : Told A (setHost s k x) := ⟨h.away, h.doms, h.csets, h.flt⟩
theorem told_updHost (h : Told A s) (k : Nat) (g : HostPort → HostPort) : Told A (updHost s k g) := ⟨h.away, h.doms, h.csets, h.flt⟩
theorem told_takeFree (h : Told A s) (w : Nat) : Told A (takeFree s w).2 := ⟨h.away, h.doms, h.csets, h.flt⟩

theorem told_postHost (h : Told A s) (k : Nat) (e : Evt) : Told A (postHost s k e) := by
  unfold postHost
  dsimp only
  split
  · exact ⟨h.away, h.doms, h.csets, h.flt⟩
  split
  · exact h
  split
  · split
    · exact told_setHost h _ _
    · exact told_bump (told_setHost h _ _) _ _
  · split
    · exact told_setHost h _ _
    · exact told_bump (told_setHost h _ _) _ _

theorem told_enqueue (h : Told A s) (p : Nat) (n : NewItem) : Told A (enqueue s p n).2.1 := by
  unfold enqueue countRefusal
  dsimp only
  split
  · exact ⟨h.away, h.doms, h.csets, h.flt⟩
  · split <;> exact ⟨h.away, h.doms, h.csets, h.flt⟩

theorem told_toEventFlow (h : Told A s) (p code w2 w3 : Nat) : Told A (toEventFlow s p code w2 w3) := by
  have henq := told_enqueue h p
  unfold toEventFlow
  dsimp only
  split
  · exact ⟨h.away, h.doms, h.csets, h.flt⟩
  split
  · split
    next e => exact (congrArg (fun r : Nat × State × Option Item => Told A r.2.1) e).mp (henq _)
    next e => exact told_postHost ((congrArg (fun r : Nat × State × Option Item => Told A r.2.1) e).mp (henq _)) _ _
  · exact h

theorem told_deliver (h : Told A s) (p code w2 w3 : Nat) : Told A (deliver s p code w2 w3) := told_toEventFlow (told_postHost h _ _) _ _ _ _

theorem told_logRec (h : Told A s) (code sev : Nat) (mod : Bool) (part d0 d1 : Nat) (cont : List (List Byte)) :
    Told A (logRec s code sev mod part d0 d1 cont) := ⟨h.away, h.doms, h.csets, h.flt⟩

theorem told_raisePart (h : Told A s) (p code w2 w3 : Nat) : Told A (raisePart s p code w2 w3) := by
  unfold raisePart
  dsimp only
  split
  · exact told_logRec (told_deliver h _ _ _ _) _ _ _ _ _ _ _
  · exact told_deliver h _ _ _ _

theorem told_raiseOwner (h : Told A s) (p : Option Nat) (code w2 w3 : Nat) : Told A (raiseOwner s p code w2 w3) := by
  unfold raiseOwner
  split
  · exact told_raisePart h _ _ _ _
  · split
    · exact told_logRec h _ _ _ _ _ _ _
    · exact h

theorem told_tellAll (h : Told A s) (code w2 w3 : Nat) : Told A (tellAll s code w2 w3) :=
  told_foldl _ (fun _ _ hs => told_toEventFlow (told_postHost hs _ _) _ _ _ _) _ h

theorem told_raiseMod (h : Told A s) (code w2 w3 : Nat) : Told A (raiseMod s code w2 w3) := by
  unfold raiseMod
  dsimp only
  split
  · exact told_logRec (told_tellAll h _ _ _) _ _ _ _ _ _ _
  · exact told_tellAll h _ _ _

theorem told_raiseDom (h : Told A s) (d code w2 w3 sev : Nat) : Told A (raiseDom s d code w2 w3 sev) := by
  refine told_logRec (told_foldl _ (fun u p hu => ?_) _ h) _ _ _ _ _ _ _
  split
  · exact told_deliver hu _ _ _ _
  · split
    · exact told_postHost hu _ _
    · exact hu

theorem told_raiseHolders (h : Told A s) (f : Nat → Bool) (code w2 w3 : Nat) : Told A (raiseHolders s f code w2 w3) := by
  refine told_logRec (told_foldl _ (fun u p hu => ?_) _ h) _ _ _ _ _ _ _
  split
  · exact told_deliver hu _ _ _ _
  · exact hu

/-! ### Replies -/

theorem told_pushReply (h : Told A s) (k opc seq status : Nat) (pay : List Word) : Told A (pushReply s k opc seq status pay) := told_updHost h _ _

theorem told_takePacket (h : Told A s) (k opc seq : Nat) (args : List Word) : Told A (takePacket s k opc seq args) := by
  unfold takePacket
  dsimp only
  split
  · exact told_pushReply h _ _ _ _ _
  · have hs : Told A (if opc = 1 then s else setHost s k { getHost s k with expSeq := ((getHost s k).expSeq + 1) % 65536 }) := by
      split
      · exact h
      · exact told_setHost h _ _
    generalize (if opc = 1 then s else setHost s k { getHost s k with expSeq := ((getHost s k).expSeq + 1) % 65536 }) = u at hs ⊢
    split
    · exact told_pushReply hs _ _ _ _ _
    · split
      · exact told_pushReply (told_takeFree hs _) _ _ _ _ _
      split
      · exact told_pushReply hs _ _ _ _ _
      split
      · exact told_pushReply hs _ _ _ _ _
      split
      · exact told_pushReply hs _ _ _ _ _
      split
      · exact told_pushReply hs _ _ _ _ _
      · exact told_updHost hs _ _

theorem told_parseOne (h : Told A s) (k : Nat) {t : State} (e : parseOne s k = some t) : Told A t := by
  unfold parseOne at e
  dsimp only at e
  split at e
  · exact nomatch e
  · split at e
    · cases e
      exact told_pushReply (told_setHost h _ _) _ _ _ _ _
    · split at e
      · exact nomatch e
      · split_ifs at e <;> cases e
        · exact told_pushReply (told_updHost (told_setHost h _ _) _ _) _ _ _ _ _
        · exact told_pushReply (told_setHost h _ _) _ _ _ _ _
        · exact told_takePacket (told_setHost h _ _) _ _ _ _
        · exact told_pushReply (told_setHost h _ _) _ _ _ _ _
        · exact told_takePacket (told_setHost h _ _) _ _ _ _

theorem told_parse (h : Told A s) (k fuel : Nat) : Told A (parse s k fuel) := by
  induction fuel generalizing s with
  | zero => exact h
  | succ n ih =>
    unfold parse
    split
    · exact h
    next t e => exact ih (told_parseOne h k e)

theorem told_takeCommitted (h : Told A s) (k : Nat) : Told A (takeCommitted s k) := by
  unfold takeCommitted
  dsimp only
  split
  · exact told_setHost h _ _
  · exact h

theorem told_parseAll (h : Told A s) (k : Nat) : Told A (parseAll s k) := told_takeCommitted (told_parse h _ _) _

theorem told_finish (h : Told A s) (k : Nat) (c : HostCmd) (status : Nat) (pay : List Word) : Told A (finish s k c status pay) := by
  unfold finish
  dsimp only
  split
  · exact told_parseAll (told_updHost h _ _) _
  · exact told_parseAll (told_pushReply (told_updHost h _ _) _ _ _ _ _) _

theorem told_replyLater (h : Told A s) (k status : Nat) (pay : List Word) : Told A (replyLater s k status pay) := by
  unfold replyLater
  split
  · split
    · exact told_finish h _ _ _ _
    · exact h
  · exact h

end Sys2Proof.Machine
end

section
/-!
THEOREMS. Ageing (17_thermal_and_ageing R371 to R376): service hours, the needs of the domains, and the re-plan.
-/
namespace Sys2Proof.Machine

/-! ### Sets of numbers as bits -/

/-- The mask of the numbers below `n` with `p`. -/
def maskOf (p : Nat → Bool) (n : Nat) : Nat := sumNat (((upFrom 0 n).filter p).map fun d => 2 ^ d)

theorem maskOf_succ (p : Nat → Bool) (n : Nat) : maskOf p (n + 1) = b2n (p n) * 2 ^ n + maskOf p n := by
  have hup : upFrom 0 (n + 1) = upFrom 0 n ++ [n] := by
    rw [upFrom_eq_range', upFrom_eq_range', List.range'_concat]
    simp
  unfold maskOf
  rw [hup, List.filter_append, List.map_append]
  cases h : p n <;> simp [h, sumNat, b2n, add_comm]

theorem maskOf_lt (p : Nat → Bool) (n : Nat) : maskOf p n < 2 ^ n := by
  induction n with
  | zero => exact Nat.one_pos
  | succ n ih =>
    rw [maskOf_succ, pow_succ]
    have hle : b2n (p n) ≤ 1 := by cases p n <;> decide
    have := Nat.mul_le_mul_right (2 ^ n) hle
    omega

theorem bit_maskOf (p : Nat → Bool) (n d : Nat) : bit (maskOf p n) d = (decide (d < n) && p d) := by
  induction n with
  | zero => simp [maskOf, upFrom, sumNat, bit]
  | succ n ih =>
    rw [maskOf_succ, bit_eq_testBit, mul_comm, Nat.testBit_two_pow_mul_add _ (maskOf_lt p n), ← bit_eq_testBit, ih]
    obtain hlt | rfl | hgt := Nat.lt_trichotomy d n
    · simp [hlt, Nat.lt_succ_of_lt hlt]
    · cases p d <;> simp [b2n]
    · obtain ⟨k, hk⟩ : ∃ k, d - n = k + 1 := ⟨d - n - 1, by omega⟩
      have hb : (b2n (p n)).testBit (k + 1) = false := by cases p n <;> simp [b2n, Nat.testBit_succ]
      have hno : ¬ d < n := by omega
      have hno' : ¬ d < n + 1 := by omega
      simp [hk, hb, hno, hno']

/-! ### Service hours (R372) -/

theorem exec_serviceHour_ignored {avg : BitVec 16} {s : State} (h : s.su.ready = false ∨ upNs s < s.age.hourAt + 3600000000000) :
    Ignored (.serviceHour avg) s :=
  if_pos (by simpa using h)

/-- The ageing unit after a whole hour of service. -/
def hourCounted (s : State) (avg : BitVec 16) : Age :=
  { s.age with hours := (s.age.hours + 1) % 2 ^ 32, avg := avg.toInt, hourAt := s.age.hourAt + 3600000000000 }

/-- The ageing unit at a multiple of six hours: the awake domains are to be read now, the others after their wake. -/
def readingDue (s : State) (a : Age) : Age :=
  { a with due := maskOf (fun d => (getDom s d).state == .awake) 24,
           late := maskOf (fun d => !((upFrom 0 24).filter fun d => (getDom s d).state == .awake).contains d) 24, busy := true }

theorem exec_serviceHour {avg : BitVec 16} {s : State} (hready : s.su.ready = true) (hhour : s.age.hourAt + 3600000000000 ≤ upNs s) :
    exec (.serviceHour avg) s =
      if (s.age.hours + 1) % 2 ^ 32 % 6 = 0 then .next { s with age := readingDue s (hourCounted s avg) } else .next { s with age := hourCounted s avg } :=
  if_neg (by simp [hready, not_lt.2 hhour])

/-! ### Needs (R372, R373) -/

theorem foldl_max_bounds (l : List Nat) (b : Nat) :
    b ≤ l.foldl max b ∧ (∀ n ∈ l, n ≤ l.foldl max b) ∧ (l.foldl max b = b ∨ l.foldl max b ∈ l) := by
  induction l generalizing b with
  | nil => simp
  | cons a r ih =>
    obtain ⟨hbase, hall, hfrom⟩ := ih (max b a)
    refine ⟨(le_max_left _ _).trans hbase, fun n hn => ?_, ?_⟩
    · obtain rfl | hn := List.mem_cons.1 hn
      · exact (le_max_right _ _).trans hbase
      · exact hall n hn
    · rw [List.foldl_cons]
      obtain h | h := hfrom
      · rw [h]
        obtain hm | hm := max_choice b a <;> simp [hm]
      · exact Or.inr (List.mem_cons_of_mem _ h)

theorem le_maxNat {l : List Nat} {n : Nat} (h : n ∈ l) : n ≤ maxNat l := (foldl_max_bounds l 0).2.1 n h

theorem maxNat_mem {l : List Nat} (h : l ≠ []) : maxNat l ∈ l := by
  obtain ⟨a, ha⟩ := List.exists_mem_of_ne_nil l h
  obtain hzero | hmem := (foldl_max_bounds l 0).2.2
  · have ha0 : a = maxNat l := le_antisymm (le_maxNat ha) (hzero.le.trans (Nat.zero_le a))
    exact ha0 ▸ ha
  · exact hmem

theorem lget_map_upFrom_four {α : Type} (f : Nat → α) (d : α) {l : Nat} (h : l < 4) : lget ((upFrom 0 4).map f) d l = f l := by
  interval_cases l <;> rfl

theorem needFor_of_monitors {s : State} {d : Nat} (h : monsOf s d ≠ []) : needFor s d = if bit s.age.due d then some (monNeed s d) else none :=
  if_pos (by simpa [List.isEmpty_iff] using h)

theorem lget_monNeed (s : State) (d : Nat) {l : Nat} (h : l < 4) :
    lget (monNeed s d) 0 l = maxNat ((monsOf s d).map fun m => Config.slackNeed m l (getMon s m).slack) := lget_map_upFrom_four _ _ h

/-! ### A re-plan moves offsets up only (R373, R374) -/

theorem getDom_raiseMod (s : State) (code w2 w3 d : Nat) : getDom (raiseMod s code w2 w3) d = getDom s d :=
  getDom_of_told (told_raiseMod (told_refl s) _ _ _) d

theorem ofs_exhaust (s : State) (d l : Nat) : (getDom (exhaust s d l) d).ofs = (getDom s d).ofs := by
  unfold exhaust
  dsimp only
  split
  · rfl
  · rw [getDom_raiseMod, getDom_setDom_same]

theorem ofs_noteOther (s : State) (d code : Nat) (t : Option Nat) : (getDom (noteOther s d code t) d).ofs = (getDom s d).ofs :=
  (congrArg Dom.ofs (getDom_updDom_same (takeFree s 2).2 d _)).trans rfl

theorem ofs_startLevel (s : State) (d l : Nat) (h : Option Nat) : (getDom (startLevel s d l h) d).ofs = (getDom s d).ofs :=
  (congrArg Dom.ofs (getDom_updDom_same s d _)).trans rfl

theorem ofs_leaveLevel (s : State) (d : Nat) : (getDom (leaveLevel s d) d).ofs = (getDom s d).ofs := by
  have hset : ∀ x : Dom, x.ofs = (getDom s d).ofs → (getDom (setDom s d x) d).ofs = (getDom s d).ofs := fun x hx => by
    rw [getDom_setDom_same, hx]
  unfold leaveLevel
  extract_lets x aim
  clear_value aim
  split
  · rfl
  split
  · rfl
  split
  · rfl
  split
  · exact hset _ rfl
  split
  · split
    · rw [getDom_of_told (told_replyLater (told_bump (told_refl _) _ _) _ _ _), ofs_noteOther]
      exact hset _ rfl
    · exact hset _ rfl
  · exact ofs_startLevel _ _ _ _

theorem ofs_takeOut (s : State) (d : Nat) : (getDom (takeOut s d) d).ofs = (getDom s d).ofs := by
  have hfold : ∀ (l : List Nat) (u : State), (getDom (l.foldl (fun u k => exhaust u d k) u) d).ofs = (getDom u d).ofs := by
    intro l
    induction l with
    | nil => exact fun _ => rfl
    | cons k r ih => exact fun u => (ih (exhaust u d k)).trans (ofs_exhaust u d k)
  unfold takeOut
  dsimp only
  split
  · rw [getDom_raiseMod, hfold]
  · rw [ofs_leaveLevel, hfold]

theorem ofs_reserveLow (s : State) (d : Nat) : (getDom (reserveLow s d) d).ofs = (getDom s d).ofs := by
  unfold reserveLow
  dsimp only
  split
  · rw [getDom_raiseMod, getDom_setDom_same]
  · rfl

theorem lt_four_of_mem_levelsOf {d l : Nat} (h : l ∈ levelsOf d) : l < 4 := by
  unfold levelsOf at h
  split at h <;> simp at h <;> omega

/-- The offset of a level after a re-plan: as many steps of 2.5 mV as cover the need, no fewer than before and 24 at the most. -/
theorem ofs_replanDom {s : State} {d l : Nat} (n : List Nat) (h : l ∈ levelsOf d) :
    lget (getDom (replanDom s d n) d).ofs 0 l = min 24 (max (lget (getDom s d).ofs 0 l) ((lget n 0 l + 24) / 25)) := by
  unfold replanDom
  rw [ofs_reserveLow, ofs_takeOut, takeNeeds, getDom_updDom_same]
  dsimp only
  rw [lget_map_upFrom_four _ _ (lt_four_of_mem_levelsOf h), if_pos (List.contains_iff_mem.2 h)]

/-! ### What a re-plan stores (R375, R296) -/

theorem lget_movePoint {p a : List Int} {i : Nat} (h : i < a.length) : lget (movePoint p a) 0 i = lget p 0 i + Int.tdiv (lget a 0 i - lget p 0 i) 4 := by
  have hzip : (List.zip (upFrom 0 a.length) a)[i]? = some (i, a[i]) := by
    rw [upFrom_eq_range', List.getElem?_zip_eq_some]
    simp [h]
  unfold movePoint
  simp [lget, List.getD_eq_getElem?_getD, hzip, h]

/-- The moves of MEM_DLY that a re-plan stores leave the ageing unit as it is. -/
theorem age_storeMoves (g : MemCh → List (Fin 5) → MemCh) (l : List (Fin 16 × List (Fin 5))) (s : State) :
    (l.foldl (fun s e => updCh s e.1 fun x => g x e.2) s).age = s.age := by
  induction l generalizing s with
  | nil => rfl
  | cons e r ih => exact ih _

/-- The ageing unit after a re-plan is stored: points and latencies move, nothing else. -/
theorem age_storePlan (s : State) (moves : List (Fin 16 × List (Fin 5))) (adapted : List (Fin 160 × List Int)) (lats : List (Fin 4 × BitVec 32)) :
    (storePlan s moves adapted lats).age = { s.age with
      points := (adapted.filter fun e => bit s.age.used e.1).foldl (fun t e => tset t e.1.val (movePoint (tget t [] e.1) e.2)) s.age.points
      lats := lats.foldl (fun t e => tset t e.1.val e.2.toNat) s.age.lats } := by
  unfold storePlan
  dsimp only
  rw [age_storeMoves fun x l => { x with
    dlyDue := true, dlyFlash := (List.zip (upFrom 0 x.dlyFlash.length) x.dlyFlash).map fun v => v.2 + ((lget l 2 v.1).val : Int) - 2 }]

/-- Settles O56: the hour, the needs, the offsets by the re-plan's one formula, and what is stored. -/
theorem ageingIsReplanned : Obligations.AgeingIsReplanned := by
  intro s
  refine ⟨fun avg h => exec_serviceHour_ignored h, fun avg hready hhour => ?_, fun m mv ad la ok hidle => if_pos (by simp [hidle]),
    fun m mv ad la ok hbusy => ?_, fun d hmon hdue => ?_, fun d n hmon hneed => ?_, fun mv n a => ⟨fun hu => ?_, fun hu => ?_⟩,
    fun mv ad => ?_, fun mv ad n v => ?_, fun d n l hd hl hle => ?_, fun d l h => ?_, fun d l hexh hneed => ?_, fun p a i hi hp => lget_movePoint hi⟩
  · rw [Runs, exec_serviceHour hready hhour]
    split_ifs with hsix
    · refine ⟨_, rfl, rfl, rfl, rfl, by rw [decide_eq_true hsix, Bool.or_true]; rfl, rfl, rfl, fun _ d hd => ⟨?_, ?_⟩, fun hne => absurd hsix hne⟩
      · exact Bool.eq_iff_iff.2 (by simp [readingDue, bit_maskOf, hd])
      · simp [readingDue, bit_maskOf, hd, mem_upFrom, List.contains_eq_mem]
    · exact ⟨_, rfl, rfl, rfl, rfl, by rw [decide_eq_false hsix, Bool.or_false]; rfl, rfl, rfl, fun h => absurd h hsix, fun _ => ⟨rfl, rfl⟩⟩
  · exact if_neg (by simp [hbusy])
  · rw [needFor_of_monitors hmon, hdue]
    rfl
  · rw [needFor_of_monitors hmon] at hneed
    split at hneed
    · cases hneed
      refine ⟨fun m l hm hl => ?_, fun l hl => ?_⟩
      · rw [lget_monNeed s d hl]
        exact le_maxNat (List.mem_map_of_mem hm)
      · rw [lget_monNeed s d hl]
        obtain ⟨m, hm, he⟩ := List.mem_map.1 (maxNat_mem (l := (monsOf s d).map fun m => Config.slackNeed m l (getMon s m).slack) (by simpa using hmon))
        exact ⟨m, hm, he.symm⟩
    · exact nomatch hneed
  · simp [age_storePlan, hu]
  · simp [age_storePlan, hu]
  · simp [age_storePlan]
  · simp [age_storePlan]
  · rw [ofs_replanDom n hl]
    omega
  · exact if_pos h
  · exact if_neg (by simp [hexh, hneed])

end Sys2Proof.Machine
end

section
/-!
SUPPORT. Folds whose steps each see to one element of the list, and tables whose every listed value changes.
-/
namespace Sys2Proof.Machine

/-! ### Folds -/

/-- Steps that each establish `P` of their element and keep it of every other establish it of every element of the list. -/
theorem foldl_establishes {α : Type} {g : State → α → State} {P : State → α → Prop} (hown : ∀ s a, P (g s a) a)
    (hkeep : ∀ s a b, P s b → P (g s a) b) {l : List α} {a : α} (ha : a ∈ l) (s : State) : P (l.foldl g s) a := by
  have hfold : ∀ (r : List α) (u : State), P u a → P (r.foldl g u) a := by
    intro r
    induction r with
    | nil => exact fun _ h => h
    | cons b r ih => exact fun u h => ih (g u b) (hkeep u b a h)
  induction l generalizing s with
  | nil => exact absurd ha List.not_mem_nil
  | cons b r ih =>
    obtain rfl | hr := List.mem_cons.1 ha
    · exact hfold r _ (hown s a)
    · exact ih hr (g s b)

theorem foldl_keeps {α : Type} {g : State → α → State} {P : State → Prop} (hg : ∀ s a, P s → P (g s a)) {s : State} (h : P s) (l : List α) : P (l.foldl g s) := by
  induction l generalizing s with
  | nil => exact h
  | cons a r ih => exact ih (hg s a h)

/-! ### Tables whose every value changes -/

theorem tget_map {α : Type} (t : Tab α) (g : α → α) (d : α) (k : Nat) : tget (t.map fun e => (e.1, g e.2)) d k = if thas t k then g (tget t d k) else d := by
  induction t with
  | nil => rfl
  | cons e r ih =>
    by_cases h : e.1 = k
    · simp [tget, thas, h]
    · have hthas : thas (e :: r) k = thas r k := by
        unfold thas
        rw [List.any_cons, beq_eq_false_iff_ne.2 h, Bool.false_or]
      simpa [tget, h, hthas] using ih

theorem tget_of_not_thas {α : Type} {t : Tab α} {k : Nat} (h : thas t k = false) (d : α) : tget t d k = d := by
  induction t with
  | nil => rfl
  | cons e r ih =>
    simp only [thas, List.any_cons, Bool.or_eq_false_iff, beq_eq_false_iff_ne] at h
    simpa [tget, h.1] using ih h.2

/-- A change of every listed value that leaves a part of a value alone leaves that part of every value alone. -/
theorem proj_tget_map {α β : Type} (f : α → β) {g : α → α} (hg : ∀ x, f (g x) = f x) (t : Tab α) (d : α) (k : Nat) :
    f (tget (t.map fun e => (e.1, g e.2)) d k) = f (tget t d k) := by
  rw [tget_map]
  split
  · exact hg _
  next h => rw [tget_of_not_thas (by simpa using h)]

end Sys2Proof.Machine
end

section
/-!
THEOREMS. Cores and DMA engines that fail and are tested (18_faults_and_ordering R390 to R393, R337).
-/
namespace Sys2Proof.Machine

/-! ### A wake leaves the fault unit and the channels alone -/

theorem flt_wakeReq (s : State) (d : Nat) (deep : Bool) (code : Nat) : fltBesides (wakeReq s d deep code).flt = fltBesides s.flt := by
  have hset : fltBesides (withdrawSet s d code).flt = fltBesides s.flt := by
    unfold withdrawSet
    split
    · rfl
    · exact (told_replyLater (told_refl _) _ _ _).flt
  unfold wakeReq
  dsimp only
  split
  · rfl
  · split
    · rfl
    · rfl
    · split <;> rfl
    · split <;> rfl
    · exact hset
    · rfl

theorem flt_signalCore (s : State) (c : Nat) : fltBesides (signalCore s c).flt = fltBesides s.flt := by
  unfold signalCore
  split
  · split
    · exact flt_wakeReq _ _ _ _
    · rfl
  · rfl

theorem flt_haltDma (s : State) (k : Nat) : fltBesides (haltDma s k).flt = fltBesides s.flt := by
  unfold haltDma signalDma
  dsimp only
  split
  · exact flt_signalCore _ _
  · rfl

theorem dma_haltDma (s : State) (k : Nat) :
    (haltDma s k).dma = tset s.dma k { getDma s k with state := .halted, done := true, haltNext := false, stop := false } := by
  unfold haltDma signalDma
  dsimp only
  split
  · exact away_dma (away_signalCore _ _ (away_refl _))
  · rfl

theorem getDma_setDma (s : State) (k j : Nat) (x : DmaCh) : getDma (setDma s k x) j = if j = k then x else getDma s j := tget_tset _ _ _ _ _

theorem getDma_haltDma (s : State) (k j : Nat) : getDma (haltDma s k) j =
    if j = k then { getDma s k with state := .halted, done := true, haltNext := false, stop := false } else getDma s j := by
  unfold getDma
  rw [dma_haltDma]
  exact tget_tset _ _ _ _ _

/-! ### Cores (R390 to R392) -/

/-- Can a fault of this cause happen at a core in this state? -/
def faultLive (s : State) (c : Fin 112) (k : Fin 4) : Bool :=
  match (getCore s c).run with
  | .stopped => k == 0
  | .running => k != 0
  | .waiting => k != 0
  | .held => k == 2
  | .testing => false

theorem faultLive_iff (s : State) (c : Fin 112) (k : Fin 4) : faultLive s c k = true ↔ CanFault s c k.val := by
  unfold faultLive CanFault
  cases (getCore s c).run <;> (revert k; decide)

theorem exec_coreFault (s : State) (c : Fin 112) (k : Fin 4) : exec (.coreFault c k) s =
    if (!faultLive s c k) = true then .next s
    else
      let v := settleRunning s c
      let w := itemsWord v c
      let recent := recentRestarts v c
      let u : State := { v with flt := { v.flt with
        restarts := tset v.flt.restarts c (recent ++ [v.age.hours]), coreCause := tset v.flt.coreCause c (k.val + 1) } }
      if 3 ≤ recent.length then .next (outCore { u with flt := { u.flt with coreOut := setBit u.flt.coreOut c true } } c (k.val + 1) w)
      else .next (fltCore (setCoreState (updCore (stopCore u c) c fun x => { x with run := .testing, weightPend := some 0 }) c 0) c (k.val + 1) 0 w) := rfl

theorem testResult_eq (s : State) (c : Nat) (r : CoreTest) : testResult s c r =
    if bit s.flt.coreOut c = true ∨ ∃ d, coreDom c = some d ∧ (getDom s d).state = .failed then .bad else r := by
  unfold testResult coreBarred
  cases coreDom c <;> simp

theorem getCore_resetCore (s : State) (c k : Nat) : getCore (resetCore s c) k =
    if k = c then ({ narrow := (getCore s c).narrow, weight := (getCore s c).weight, weightPend := (getCore s c).weightPend, run := if (getCore s c).run = .testing then .testing else .held } : Core) else getCore s k := getCore_setCore _ _ _ _

/-! ### DMA engines (R393) -/

/-- The failure of an engine, as one of its channels shows it. -/
def engineHalts (e : Nat) (s : State) (c : Nat) : State :=
  haltDma (updDma s (dmaNo e c) fun x =>
    { x with errAddr := x.desc, errStat := 4, errKind := 3, errV := true, errDesc := x.desc, pause := false, pendDb := false }) (dmaNo e c)

/-- The channel shows that its engine has failed. -/
def EngineHalted (e : Nat) (s : State) (c : Nat) : Prop :=
  (getDma s (dmaNo e c)).done = true ∧ (getDma s (dmaNo e c)).errV = true ∧ (getDma s (dmaNo e c)).errKind = 3 ∧ (getDma s (dmaNo e c)).errStat = 4

theorem engineHalts_own (e : Nat) (s : State) (c : Nat) : EngineHalted e (engineHalts e s c) c := by
  unfold EngineHalted engineHalts updDma
  simp only [getDma_haltDma, getDma_setDma, if_pos, and_self]

theorem engineHalts_keeps (e : Nat) (s : State) (a b : Nat) (h : EngineHalted e s b) : EngineHalted e (engineHalts e s a) b := by
  by_cases hab : b = a
  · subst hab
    exact engineHalts_own e s b
  · have hne : dmaNo e b ≠ dmaNo e a := fun h => hab (by unfold dmaNo at h; omega)
    have heq : getDma (engineHalts e s a) (dmaNo e b) = getDma s (dmaNo e b) := by
      rw [engineHalts, getDma_haltDma, if_neg hne, updDma, getDma_setDma, if_neg hne]
    unfold EngineHalted
    rw [heq]
    exact h

theorem flt_enginesHalt (e : Nat) (l : List Nat) (s : State) : fltBesides (l.foldl (engineHalts e) s).flt = fltBesides s.flt := by
  induction l generalizing s with
  | nil => rfl
  | cons c r ih => exact (ih _).trans (flt_haltDma _ _)

/-- The channels `l` of the engine show its failure, and the engine is under test. -/
def engineStopped (s : State) (e : Nat) (l : List Nat) : State :=
  let u := l.foldl (engineHalts e) s
  { u with flt := { u.flt with engTest := u.flt.engTest ++ [e] } }

theorem engineStopped_halted (s : State) {e c : Nat} {l : List Nat} (hc : c ∈ l) : EngineHalted e (engineStopped s e l) c :=
  foldl_establishes (P := EngineHalted e) (engineHalts_own e) (engineHalts_keeps e) hc s

theorem engTest_engineStopped (s : State) (e : Nat) (l : List Nat) : (engineStopped s e l).flt.engTest = s.flt.engTest ++ [e] := by
  have h := congrArg Flt.engTest (flt_enginesHalt e l s)
  exact congrArg (· ++ [e]) h

theorem told_fltEngine (s : State) (e st : Nat) : Told s (fltEngine s e st) := told_raiseOwner (told_refl s) _ _ _ _

theorem fltEngine_engineStopped (s : State) (e st : Nat) (l : List Nat) :
    (fltEngine (engineStopped s e l) e st).flt.engTest = s.flt.engTest ++ [e] ∧ ∀ c ∈ l, EngineHalted e (fltEngine (engineStopped s e l) e st) c := by
  refine ⟨?_, fun c hc => ?_⟩
  · have h := congrArg Flt.engTest (told_fltEngine (engineStopped s e l) e st).flt
    exact Eq.trans h (engTest_engineStopped s e l)
  · have hall := engineStopped_halted s (e := e) hc
    unfold EngineHalted getDma at hall ⊢
    rw [away_dma (told_fltEngine (engineStopped s e l) e st).away]
    exact hall

theorem exec_dmaEngineFault (s : State) (e : Fin 24) : exec (.dmaEngineFault e) s =
    if s.flt.engTest.contains e.val ∨ bit s.flt.clOut e then .next s else .next (fltEngine (engineStopped s e (upFrom 0 16)) e 0) := by
  show execDmaEngineFault e s = _
  unfold execDmaEngineFault
  generalize upFrom 0 16 = l
  rfl

theorem dmaEngineFault_halts {s : State} {e : Fin 24} (htest : s.flt.engTest.contains e.val = false) (hin : bit s.flt.clOut e = false) :
    Runs (.dmaEngineFault e) s fun t => t.flt.engTest = s.flt.engTest ++ [e.val] ∧ ∀ c, c < 16 → EngineHalted e t c := by
  have hno : ¬ (s.flt.engTest.contains e.val = true ∨ bit s.flt.clOut e = true) := by simp only [htest, hin, Bool.false_eq_true, or_self, not_false_iff]
  obtain ⟨htests, hhalted⟩ := fltEngine_engineStopped s e 0 (upFrom 0 16)
  exact ⟨_, (exec_dmaEngineFault s e).trans (if_neg hno), htests, fun c hc => hhalted c (mem_upFrom.2 ⟨Nat.zero_le c, by omega⟩)⟩

theorem coresAndEnginesFail : Parts.CoresAndEnginesFail := by
  intro s
  refine ⟨fun c k h => ?_, fun c k h => ?_, fun c r h => if_neg h, fun c r h => ?_, fun c r => ⟨fun h => ?_, fun d hd h => ?_, fun h hd => ?_⟩,
    fun c => ?_, fun c hc => ⟨?_, fun k hk => ?_⟩, fun e h => if_pos ?_, fun e => dmaEngineFault_halts, fun e ok h => if_neg (by simpa using h), fun e ok h => ?_⟩
  · rw [Ignored, exec_coreFault, if_pos (by simpa using (faultLive_iff s c k).not.2 h)]
  · have hlive : ¬ (!faultLive s c k) = true := by simp [(faultLive_iff s c k).2 h]
    refine ⟨fun hmany => ?_, fun hfew => ?_⟩
    · rw [Gives, exec_coreFault, if_neg hlive]
      exact if_pos hmany
    · rw [Gives, exec_coreFault, if_neg hlive]
      exact if_neg (not_le.2 hfew)
  · exact if_pos h
  · rw [testResult_eq, if_pos (Or.inl h)]
  · rw [testResult_eq, if_pos (Or.inr ⟨d, hd, h⟩)]
  · rw [testResult_eq, if_neg]
    rintro (hout | ⟨d, hdom, hfail⟩)
    · exact absurd (h.symm.trans hout) (by decide)
    · exact hd d hdom hfail
  · simp +contextual [testWeight, testState]
  · rw [getCore_resetCore, if_pos rfl]
  · rw [getCore_resetCore, if_neg hk]
  · exact h
  · have hin : exec (.dmaEngineTestDone e ok) s = if ok = true then .next (fltEngine { s with flt := { s.flt with engTest := s.flt.engTest.filter fun i => i != e.val } } e 1)
        else .next (outCluster (fltEngine { s with flt := { s.flt with engTest := s.flt.engTest.filter fun i => i != e.val } } e 3) e) := if_pos h
    exact ⟨fun hok => hin.trans (if_pos hok), fun hok => hin.trans (if_neg (by simp [hok]))⟩

end Sys2Proof.Machine
end

section
/-!
SUPPORT. What the operations that clear a lost die leave alone: sending packets touches the fabric only, and an item that leaves its flow touches
what an event may touch, and the deadline windows.
-/
namespace Sys2Proof.Machine

/-! ### Sending packets -/

/-- `s` is `A` but for the fabric. -/
def NocOnly (A s : State) : Prop := { s with noc := A.noc } = A

section
variable {A s : State}

theorem nocOnly_refl (s : State) : NocOnly s s := rfl
theorem nocOnly_setNoc (h : NocOnly A s) (x : Noc) : NocOnly A { s with noc := x } := h
theorem nocOnly_setPort (h : NocOnly A s) (q : Nat) (x : NocPort) : NocOnly A (setPort s q x) := h
theorem nocOnly_launch (h : NocOnly A s) (q : Nat) (p : Pkt) : NocOnly A (launch s q p) := h
theorem nocOnly_dropPkt (h : NocOnly A s) (p : Pkt) : NocOnly A (dropPkt s p) := h

theorem nocOnly_pumpCls (h : NocOnly A s) (q cls n : Nat) : NocOnly A (pumpCls s q cls n) := by
  induction n generalizing s with
  | zero => exact h
  | succ n ih =>
    unfold pumpCls
    split
    · exact h
    · split
      · exact ih (nocOnly_launch h q _)
      · dsimp only
        split
        · exact nocOnly_setPort h q _
        · exact h

theorem nocOnly_pump (h : NocOnly A s) (q : Nat) : NocOnly A (pump s q) :=
  foldl_keeps (P := NocOnly A) (fun _ c hu => nocOnly_pumpCls hu q c _) (nocOnly_setPort h q _) _

theorem nocOnly_sendPkt (h : NocOnly A s) (q : Nat) (p : Pkt) : NocOnly A (sendPkt s q p) := by
  unfold sendPkt
  dsimp only
  split
  · exact nocOnly_pump (nocOnly_setPort h q _) q
  · exact nocOnly_pump (nocOnly_setPort h q _) q

theorem nocOnly_refusePkt (h : NocOnly A s) (p : Pkt) (st : Nat) : NocOnly A (refusePkt s p st) := by
  unfold refusePkt sendRsp
  exact nocOnly_sendPkt h _ _

theorem nocOnly_dropDiePkts (h : NocOnly A s) (d : Nat) : NocOnly A (dropDiePkts s d) := by
  have hstep : ∀ (u : State) (p : Pkt), NocOnly A u →
      NocOnly A (if portDie p.src != d && (p.cls == 0 || p.cls == 2) then refusePkt (dropPkt u p) p 4 else dropPkt u p) := by
    intro u p hu
    split
    · exact nocOnly_refusePkt (nocOnly_dropPkt hu p) _ _
    · exact nocOnly_dropPkt hu p
  exact foldl_keeps hstep (nocOnly_setNoc h _) _

end

/-! ### Items that leave their flow -/

/-- `s` is `A` but for the parts that an event may touch, and the deadline windows. -/
def Released (A s : State) : Prop := Told { A with parts := s.parts } s

section
variable {A s : State}

theorem released_refl (s : State) : Released s s := told_refl s

theorem released_of_told {t : State} (h : Released A s) (k : Told s t) : Released A t := by
  have hparts : t.parts = s.parts := away_parts k.away
  unfold Released
  rw [hparts]
  exact h.trans k

theorem told_updItem (h : Told A s) (i : Nat) (f : Item → Item) : Told A (updItem s i f) := ⟨h.away, h.doms, h.csets, h.flt⟩
theorem told_updFlow (h : Told A s) (f : Nat) (g : Flow → Flow) : Told A (updFlow s f g) := ⟨h.away, h.doms, h.csets, h.flt⟩

theorem told_dropItem (h : Told A s) (it : Item) : Told A (dropItem s it) := by
  unfold dropItem
  dsimp only
  split
  · split
    · split <;> exact ⟨h.away, h.doms, h.csets, h.flt⟩
    · exact ⟨h.away, h.doms, h.csets, h.flt⟩
  · exact ⟨h.away, h.doms, h.csets, h.flt⟩

theorem told_countOut (h : Told A s) (it : Item) : Told A (countOut s it) := by
  unfold countOut
  dsimp only
  split
  · split
    · exact told_bump (told_updFlow h _ _) _ _
    · exact told_updFlow h _ _
  · exact told_updFlow h _ _

theorem told_addItem (h : Told A s) (n : NewItem) (slot : Option Nat) (place : Place) : Told A (addItem s n slot place).1 := by
  cases slot <;> exact ⟨h.away, h.doms, h.csets, h.flt⟩

theorem told_countRefusal (h : Told A s) (p f : Nat) : Told A (countRefusal s p f) := by
  unfold countRefusal
  dsimp only
  split
  · exact told_bump (told_updFlow h _ _) _ _
  · exact told_bump h _ _

theorem told_lossEvt (h : Told A s) (p f kind reason : Nat) : Told A (lossEvt s p f kind reason) :=
  told_toEventFlow (told_postHost h _ _) _ _ _ _

theorem told_leave (h : Told A s) (it : Item) : Told A (leave s it).2 := by
  have hout : Told A (countOut (dropItem s it) it) := told_countOut (told_dropItem h it) it
  unfold leave
  dsimp only
  split
  · exact hout
  · split
    · exact hout
    · split
      · exact told_addItem hout _ _ _
      · split
        · split
          · exact told_updItem (told_countRefusal h _ _) _ _
          · exact told_updItem (told_bump (told_countRefusal h _ _) _ _) _ _
        · exact told_lossEvt (told_bump (told_countOut (told_dropItem (told_countRefusal h _ _) it) it) _ _) _ _ _ _

theorem told_drainOrdered (h : Told A s) (f n : Nat) : Told A (drainOrdered s f n) := by
  induction n generalizing s with
  | zero => exact h
  | succ n ih =>
    unfold drainOrdered
    dsimp only
    split
    · exact h
    next it _ =>
      have hl := told_leave h it
      split
      next e =>
        rw [e] at hl
        exact ih (told_updFlow hl _ _)
      next e =>
        rw [e] at hl
        exact hl

theorem released_dropWins (h : Released A s) (i : Nat) : Released A (dropWins s i) :=
  have haway : Away { A with parts := (dropWins s i).parts } (dropWins s i) := by
    obtain ⟨h0, h1, h2, h3, _, h5, h6, h7, h8, h9, h10, h11, h12, h13, h14, h15, h16, h17, h18, h19, h20, h21, h22, h23⟩ := h.away
    exact ⟨h0, h1, h2, h3, rfl, h5, h6, h7, h8, h9, h10, h11, h12, h13, h14, h15, h16, h17, h18, h19, h20, h21, h22, h23⟩
  ⟨haway, h.doms, h.csets, h.flt⟩

theorem released_releaseItem (h : Released A s) (it : Item) : Released A (releaseItem s it) := by
  have hw := released_dropWins h it.id
  unfold releaseItem
  dsimp only
  split
  · exact released_of_told hw (told_drainOrdered (told_updItem (told_refl _) _ _) _ _)
  · exact released_of_told hw (told_leave (told_updItem (told_refl _) _ _) _)

theorem released_tombReserved (h : Released A s) (j : JgJob) (i : Nat) : Released A (tombReserved s j i) := by
  unfold tombReserved
  split
  · exact h
  · exact released_releaseItem h _

end

/-! ### A die without flows -/

/-- No flow of die `d` is configured, and no item stands in one. -/
def NoFlows (d : Nat) (s : State) : Prop := (∀ it ∈ s.dv.items, flowDie it.flow ≠ d) ∧ ∀ f, flowDie f = d → getFlow s f = {}

section
variable {d : Nat} {s : State}

theorem flowDie_of_valid (h : NoFlows d s) {f : Nat} (hv : (getFlow s f).valid = true) : flowDie f ≠ d := fun hd => by
  rw [h.2 f hd] at hv
  cases hv

theorem valid_of_refusal {p f : Nat} {b : Bool} (h : refusal s p f b = 0) : (getFlow s f).valid = true := by
  unfold refusal at h
  cases hv : (getFlow s f).valid
  · simp only [hv] at h
    split at h
    · cases h
    · cases h
  · rfl

theorem noFlows_of_dv {t : State} (h : NoFlows d s) (e : t.dv = s.dv) : NoFlows d t := by
  unfold NoFlows getFlow
  rw [e]
  exact h

theorem noFlows_bump (h : NoFlows d s) (k : Counter) (b : Nat) : NoFlows d (bump s k b) := noFlows_of_dv h rfl

theorem noFlows_updFlow (h : NoFlows d s) {f : Nat} (hf : flowDie f ≠ d) (g : Flow → Flow) : NoFlows d (updFlow s f g) :=
  
  ⟨h.1, fun k hk => (getFlow_updFlow_ne s g fun e => hf (by rw [← hk, e])).trans (h.2 k hk)⟩

theorem noFlows_updItem (h : NoFlows d s) (i : Nat) {g : Item → Item} (hg : ∀ it ∈ s.dv.items, flowDie (g it).flow ≠ d) : NoFlows d (updItem s i g) := by
  refine ⟨fun it hit => ?_, h.2⟩
  obtain ⟨x, hx, rfl⟩ := List.mem_map.1 hit
  split
  · exact hg x hx
  · exact h.1 x hx

theorem noFlows_dropItem (h : NoFlows d s) (it : Item) : NoFlows d (dropItem s it) := by
  have hdrop : NoFlows d (setItems s (s.dv.items.filter fun x => x.id != it.id)) := ⟨fun x hx => h.1 x (List.mem_filter.1 hx).1, h.2⟩
  unfold dropItem
  dsimp only
  split
  · split
    · split
      · exact noFlows_updItem hdrop _ hdrop.1
      · exact hdrop
    · exact hdrop
  · exact hdrop

theorem noFlows_countOut (h : NoFlows d s) {it : Item} (hit : flowDie it.flow ≠ d) : NoFlows d (countOut s it) := by
  have hup := fun g => noFlows_updFlow h hit g
  unfold countOut
  dsimp only
  split
  · split
    · exact noFlows_bump (hup _) _ _
    · exact hup _
  · exact hup _

theorem noFlows_addItem (h : NoFlows d s) {n : NewItem} (hn : flowDie n.flow ≠ d) (slot : Option Nat) (place : Place) : NoFlows d (addItem s n slot place).1 := by
  have hadd : ∀ u : State, ∀ l : List Item, ∀ x, u.dv.flows = tset s.dv.flows n.flow x → u.dv.items = s.dv.items ++ l → (∀ it ∈ l, it.flow = n.flow) → NoFlows d u := by
    intro u l x hflows hitems hl
    refine ⟨fun it hit => ?_, fun f hf => ?_⟩
    · rw [hitems] at hit
      obtain hold | hnew := List.mem_append.1 hit
      · exact h.1 it hold
      · rw [hl it hnew]
        exact hn
    · unfold getFlow
      rw [hflows, tget_tset_ne _ _ _ fun e => hn (by rw [← hf, e])]
      exact h.2 f hf
  cases slot
  · exact hadd _ [_] _ rfl rfl (by simp)
  · exact hadd _ [_] _ rfl rfl (by simp)

theorem noFlows_countRefusal (h : NoFlows d s) (p f : Nat) : NoFlows d (countRefusal s p f) := by
  unfold countRefusal
  dsimp only
  split
  next hv => exact noFlows_bump (noFlows_updFlow h (flowDie_of_valid h hv) _) _ _
  · exact noFlows_bump h _ _

theorem dv_postHost (s : State) (k : Nat) (e : Evt) : (postHost s k e).dv = s.dv := by
  unfold postHost
  dsimp only
  repeat' split
  all_goals rfl

theorem noFlows_enqueue (h : NoFlows d s) (p : Nat) (n : NewItem) : NoFlows d (enqueue s p n).2.1 := by
  unfold enqueue
  dsimp only
  split
  next hr => exact noFlows_addItem h (n := n) (flowDie_of_valid h (valid_of_refusal hr)) none .queued
  · exact noFlows_countRefusal h _ _

theorem noFlows_toEventFlow (h : NoFlows d s) (p code w2 w3 : Nat) : NoFlows d (toEventFlow s p code w2 w3) := by
  have henq := noFlows_enqueue h p
  unfold toEventFlow
  dsimp only
  split
  · exact noFlows_of_dv h rfl
  split
  · split
    next e => exact (congrArg (fun r : Nat × State × Option Item => NoFlows d r.2.1) e).mp (henq _)
    next e => exact noFlows_of_dv ((congrArg (fun r : Nat × State × Option Item => NoFlows d r.2.1) e).mp (henq _)) (dv_postHost _ _ _)
  · exact h

theorem noFlows_setHeld (h : NoFlows d s) {it : Item} (hit : flowDie it.flow ≠ d) : NoFlows d (updItem s it.id fun _ => { it with place := .held }) :=
  noFlows_updItem h _ fun _ _ => hit

theorem noFlows_lossEvt (h : NoFlows d s) (p f kind reason : Nat) : NoFlows d (lossEvt s p f kind reason) :=
  noFlows_toEventFlow (noFlows_of_dv h (dv_postHost _ _ _)) _ _ _ _

theorem noFlows_leave (h : NoFlows d s) {it : Item} (hit : flowDie it.flow ≠ d) : NoFlows d (leave s it).2 := by
  have hout : NoFlows d (countOut (dropItem s it) it) := noFlows_countOut (noFlows_dropItem h it) hit
  unfold leave
  dsimp only
  split
  · exact hout
  · split
    · exact hout
    next p _ =>
      have href := noFlows_countRefusal h p (getFlow s it.flow).next
      split
      next hr =>
        have hnext : flowDie (getFlow s it.flow).next ≠ d := flowDie_of_valid h (valid_of_refusal hr)
        exact noFlows_addItem (n := { flow := (getFlow s it.flow).next, kind := it.kind, tomb := it.tomb, tag := it.tag, arg0 := it.arg0, arg1 := it.arg1 }) hout hnext _ _
      · split
        · split
          · exact noFlows_setHeld href hit
          · exact noFlows_setHeld (noFlows_bump href _ _) hit
        · exact noFlows_lossEvt (noFlows_bump (noFlows_countOut (noFlows_dropItem href it) hit) _ _) _ _ _ _

theorem noFlows_drainOrdered (h : NoFlows d s) {f : Nat} (hf : flowDie f ≠ d) (n : Nat) : NoFlows d (drainOrdered s f n) := by
  induction n generalizing s with
  | zero => exact h
  | succ n ih =>
    unfold drainOrdered
    dsimp only
    split
    · exact h
    next it hfind =>
      have hl := noFlows_leave h (h.1 it (List.mem_filter.1 (List.mem_of_find?_eq_some hfind)).1)
      split
      next e =>
        rw [e] at hl
        exact ih (noFlows_updFlow hl hf _)
      next e =>
        rw [e] at hl
        exact hl

theorem noFlows_drainFlow (h : NoFlows d s) {f : Nat} (hf : flowDie f ≠ d) : NoFlows d (drainFlow s f) := noFlows_drainOrdered h hf _

theorem noFlows_releaseItem (h : NoFlows d s) {it : Item} (hit : flowDie it.flow ≠ d) : NoFlows d (releaseItem s it) := by
  have hw : NoFlows d (dropWins s it.id) := noFlows_of_dv h rfl
  unfold releaseItem
  dsimp only
  split
  · exact noFlows_drainFlow (noFlows_updItem hw it.id (g := fun _ => { it with place := .complete }) fun _ _ => hit) hit
  · exact noFlows_leave (noFlows_updItem hw it.id (g := fun _ => it) fun _ _ => hit) hit

theorem noFlows_tombReserved (h : NoFlows d s) (j : JgJob) (i : Nat) : NoFlows d (tombReserved s j i) := by
  unfold tombReserved
  split
  · exact h
  next it hfind => exact noFlows_releaseItem h (h.1 it (List.mem_of_find?_eq_some hfind))

end

end Sys2Proof.Machine
end

section
/-!
SUPPORT. A lost die (Faults, R399): what `clearDie` leaves of it, and what `loseDie` records.
-/
namespace Sys2Proof.Machine

/-! ### Bits that are set one after another -/

theorem bit_setBit_of_bit {n i j : Nat} (h : bit n j = true) : bit (setBit n i true) j = true := by
  by_cases hji : j = i
  · rw [hji]
    exact bit_setBit_same n i
  cases hi : bit n i
  · have hback : setBit (setBit n i true) i false = n := by
      have hset := bit_setBit_same n i
      unfold setBit at hset ⊢
      simp only [hi, if_true, if_false, Bool.false_eq_true] at hset ⊢
      simp [hset]
    rw [← bit_setBit_false_of_ne hji, hback]
    exact h
  · simpa [setBit, hi] using h

theorem bit_foldl_setBit_of_bit {l : List Nat} {n i : Nat} (h : bit n i = true) : bit (l.foldl (fun m i => setBit m i true) n) i = true := by
  induction l generalizing n with
  | nil => exact h
  | cons a r ih => exact ih (bit_setBit_of_bit h)

theorem bit_foldl_setBit {l : List Nat} {i : Nat} (hi : i ∈ l) (n : Nat) : bit (l.foldl (fun m i => setBit m i true) n) i = true := by
  induction l generalizing n with
  | nil => exact absurd hi List.not_mem_nil
  | cons a r ih =>
    obtain rfl | hr := List.mem_cons.1 hi
    · exact bit_foldl_setBit_of_bit (l := r) (bit_setBit_same n i)
    · exact ih hr _

theorem tget_foldl_tset {l : List Nat} {k v : Nat} (hk : k ∈ l) (t : Tab Nat) : tget (l.foldl (fun t c => tset t c v) t) 0 k = v := by
  have hkeep : ∀ (r : List Nat) (u : Tab Nat), tget u 0 k = v → tget (r.foldl (fun t c => tset t c v) u) 0 k = v := by
    intro r
    induction r with
    | nil => exact fun _ h => h
    | cons c r ih => exact fun u h => ih _ (by rw [tget_tset]; split <;> first | rfl | exact h)
  induction l generalizing t with
  | nil => exact absurd hk List.not_mem_nil
  | cons a r ih =>
    obtain rfl | hr := List.mem_cons.1 hk
    · exact hkeep r _ (tget_tset_same _ _ _ _)
    · exact ih hr _

/-! ### The parts of a die, cleared one after another -/

/-- The jobs of die `d`, queued or running. -/
def jobsOfDie (s : State) (d : Nat) : List JgJob := (s.jig.queue ++ s.jig.running.map fun r => r.job).filter fun j => j.die == d

/-- The packets of die `d` dropped, and its ports emptied. -/
def portsCleared (s : State) (d : Nat) : State :=
  (diePorts d).foldl (fun s q => setPort s q { getPort s q with out := [], wait := [] }) (dropDiePkts s d)

/-- The deadline windows of the items in flows of die `d` dropped. -/
def winsCleared (s : State) (d : Nat) : State := (s.dv.items.filter fun it => flowDie it.flow == d).foldl (fun s it => dropWins s it.id) s

/-- The items, flows, consumer sets, jobs, Rasps and DMA channels of die `d` taken out of their tables. -/
def tablesCleared (s : State) (d : Nat) : State :=
  { s with
    dv := { s.dv with
      items := s.dv.items.filter fun it => flowDie it.flow != d
      flows := s.dv.flows.filter fun e => flowDie e.1 != d
      csets := s.dv.csets.filter fun e => e.1 / 64 != d }
    jig := { s.jig with
      queue := s.jig.queue.filter fun j => j.die != d
      running := s.jig.running.filter fun r => r.job.die != d
      inst := tset s.jig.inst d 0 }
    rasps := s.rasps.filter fun e => e.1 / 12 != d
    dma := s.dma.filter fun e => e.1 / 16 ≥ 24 || e.1 / 16 / 12 != d }

/-- The cores of die `d` at their reset values but for their weights. -/
def coresCleared (s : State) (d : Nat) : State :=
  ((upFrom 0 112).filter fun c => coreDie c == d).foldl (fun s c => setCore s c { weight := (getCore s c).weight, weightPend := some 0 }) s

/-- The domains of die `d` FAILED, with nothing recorded for them. -/
def domsFailed (s : State) (d : Nat) : State :=
  (upFrom (9 * d) 9).foldl (fun s i => updDom s i fun x =>
    { x with state := .failed, plTo := none, plHeld := none, plRec := none, reqVote := false, reqSet := none, wakePend := false }) s

/-- The items that the jobs of `l` reserved answered with tombstones. -/
def jobsTombed (s : State) (l : List JgJob) : State :=
  l.foldl (fun s j => match j.evt with
    | some i => tombReserved s j i
    | none => s) s

theorem clearDie_eq (s : State) (d : Nat) :
    clearDie s d = jobsTombed (domsFailed (coresCleared (tablesCleared (winsCleared (portsCleared s d) d) d) d) d) (jobsOfDie s d) := rfl

section
variable (s : State) (d : Nat)

theorem portsCleared_eq : { portsCleared s d with noc := s.noc } = s :=
  foldl_keeps (P := NocOnly s) (fun _ q h => nocOnly_setPort h q _) (nocOnly_dropDiePkts (nocOnly_refl s) d) _

theorem winsCleared_eq : { winsCleared s d with parts := s.parts } = s :=
  foldl_keeps (P := fun u => { u with parts := s.parts } = s) (g := fun u (it : Item) => dropWins u it.id) (fun _ _ h => h) rfl _

theorem coresCleared_eq : { coresCleared s d with cores := s.cores } = s :=
  foldl_keeps (P := fun u => { u with cores := s.cores } = s)
    (g := fun s c => setCore s c { weight := (getCore s c).weight, weightPend := some 0 }) (fun _ _ h => h) rfl _

theorem domsFailed_eq : { domsFailed s d with doms := s.doms } = s :=
  foldl_keeps (P := fun u => { u with doms := s.doms } = s) (g := fun s i => updDom s i fun x =>
    { x with state := .failed, plTo := none, plHeld := none, plRec := none, reqVote := false, reqSet := none, wakePend := false }) (fun _ _ h => h) rfl _

theorem portsCleared_cores : (portsCleared s d).cores = s.cores := (congrArg State.cores (portsCleared_eq s d) :)
theorem winsCleared_cores : (winsCleared s d).cores = s.cores := (congrArg State.cores (winsCleared_eq s d) :)
theorem coresCleared_dv : (coresCleared s d).dv = s.dv := (congrArg State.dv (coresCleared_eq s d) :)
theorem coresCleared_jig : (coresCleared s d).jig = s.jig := (congrArg State.jig (coresCleared_eq s d) :)
theorem coresCleared_dma : (coresCleared s d).dma = s.dma := (congrArg State.dma (coresCleared_eq s d) :)
theorem domsFailed_cores : (domsFailed s d).cores = s.cores := (congrArg State.cores (domsFailed_eq s d) :)
theorem domsFailed_dv : (domsFailed s d).dv = s.dv := (congrArg State.dv (domsFailed_eq s d) :)
theorem domsFailed_jig : (domsFailed s d).jig = s.jig := (congrArg State.jig (domsFailed_eq s d) :)
theorem domsFailed_dma : (domsFailed s d).dma = s.dma := (congrArg State.dma (domsFailed_eq s d) :)

theorem getCore_coresCleared {c : Nat} (hc : c < 112) (hd : coreDie c = d) : getCore (coresCleared s d) c = { weight := (getCore s c).weight, weightPend := some 0 } := by
  have hmem : c ∈ (upFrom 0 112).filter fun c => coreDie c == d := List.mem_filter.2 ⟨mem_upFrom.2 (by omega), by simpa using hd⟩
  have hweight : (getCore (coresCleared s d) c).weight = (getCore s c).weight := by
    refine foldl_keeps (P := fun u => (getCore u c).weight = (getCore s c).weight) (fun u k h => ?_) rfl _
    rw [getCore_setCore]
    split
    next e => rw [← e]; exact h
    · exact h
  have hcleared : getCore (coresCleared s d) c = { weight := (getCore (coresCleared s d) c).weight, weightPend := some 0 } := by
    refine foldl_establishes (P := fun u k => getCore u k = { weight := (getCore u k).weight, weightPend := some 0 }) (fun u k => ?_) (fun u k j h => ?_) hmem s
    · rw [getCore_setCore_same]
    · rw [getCore_setCore]
      split
      · rfl
      · exact h
  rw [hcleared, hweight]

theorem getDom_domsFailed {i : Nat} (hlo : 9 * d ≤ i) (hhi : i < 9 * d + 9) : (getDom (domsFailed s d) i).state = .failed := by
  refine foldl_establishes (P := fun u k => (getDom u k).state = .failed) (fun u k => ?_) (fun u k j h => ?_) (mem_upFrom.2 ⟨hlo, hhi⟩) s
  · rw [getDom_updDom_same]
  · unfold updDom
    rw [getDom_setDom]
    split
    · rfl
    · exact h

theorem noFlows_tablesCleared : NoFlows d (tablesCleared s d) := by
  refine ⟨fun it hit => by simpa using (List.mem_filter.1 hit).2, fun f hf => ?_⟩
  refine tget_of_not_thas ?_ _
  simp only [thas, tablesCleared, List.any_eq_false, List.mem_filter]
  rintro e ⟨_, he⟩ hef
  simp at he hef
  exact he (hef ▸ hf)

theorem released_jobsTombed (l : List JgJob) : Released s (jobsTombed s l) := by
  have hstep : ∀ (u : State) (j : JgJob), Released s u → Released s (match j.evt with | some i => tombReserved u j i | none => u) := by
    intro u j h
    split
    · exact released_tombReserved h j _
    · exact h
  exact foldl_keeps hstep (released_refl s) l

theorem noFlows_jobsTombed {s : State} {d : Nat} (h : NoFlows d s) (l : List JgJob) : NoFlows d (jobsTombed s l) := by
  have hstep : ∀ (u : State) (j : JgJob), NoFlows d u → NoFlows d (match j.evt with | some i => tombReserved u j i | none => u) := by
    intro u j h
    split
    · exact noFlows_tombReserved h j _
    · exact h
  exact foldl_keeps hstep h l

/-- The die with everything cleared but the items that its jobs reserved. -/
def dieCleared : State := domsFailed (coresCleared (tablesCleared (winsCleared (portsCleared s d) d) d) d) d

theorem released_clearDie : Released (dieCleared s d) (clearDie s d) := released_jobsTombed _ _

/-- `p` is a part of the state that clearing the parts of a die does not change. -/
theorem proj_dieCleared {α : Type} (p : State → α) (hparts : ∀ (u : State) x, p { u with parts := x } = p u) (hnoc : ∀ (u : State) x, p { u with noc := x } = p u)
    (hcores : ∀ (u : State) x, p { u with cores := x } = p u) (hdoms : ∀ (u : State) x, p { u with doms := x } = p u)
    (htables : ∀ u : State, p (tablesCleared u d) = p u) : p (dieCleared s d) = p s := by
  have h1 := congrArg p (portsCleared_eq s d)
  have h2 := congrArg p (winsCleared_eq (portsCleared s d) d)
  have h3 := congrArg p (coresCleared_eq (tablesCleared (winsCleared (portsCleared s d) d) d) d)
  have h4 := congrArg p (domsFailed_eq (coresCleared (tablesCleared (winsCleared (portsCleared s d) d) d) d) d)
  rw [hnoc] at h1
  rw [hparts] at h2
  rw [hcores, htables] at h3
  rw [hdoms] at h4
  exact h4.trans (h3.trans (h2.trans h1))

theorem flt_clearDie : fltBesides (clearDie s d).flt = fltBesides s.flt :=
  (released_clearDie s d).flt.trans (congrArg fltBesides (proj_dieCleared s d State.flt (fun _ _ => rfl) (fun _ _ => rfl) (fun _ _ => rfl) (fun _ _ => rfl) fun _ => rfl))

theorem su_clearDie : (clearDie s d).su = s.su :=
  (away_su (released_clearDie s d).away).trans (proj_dieCleared s d State.su (fun _ _ => rfl) (fun _ _ => rfl) (fun _ _ => rfl) (fun _ _ => rfl) fun _ => rfl)

/-! ### What is left of the die -/

theorem getFlow_clearDie {f : Nat} (hf : flowDie f = d) : getFlow (clearDie s d) f = {} := by
  have htables : NoFlows d (tablesCleared (winsCleared (portsCleared s d) d) d) := noFlows_tablesCleared _ d
  have hleft : NoFlows d (dieCleared s d) := noFlows_of_dv htables ((domsFailed_dv _ d).trans (coresCleared_dv _ d))
  exact (noFlows_jobsTombed hleft (jobsOfDie s d)).2 f hf

theorem getCore_clearDie {c : Nat} (hc : c < 112) (hd : coreDie c = d) : getCore (clearDie s d) c = { weight := (getCore s c).weight, weightPend := some 0 } := by
  have hcores : (clearDie s d).cores = (coresCleared (tablesCleared (winsCleared (portsCleared s d) d) d) d).cores :=
    (away_cores (released_clearDie s d).away).trans (domsFailed_cores _ d)
  have htables : (tablesCleared (winsCleared (portsCleared s d) d) d).cores = s.cores := (winsCleared_cores _ d).trans (portsCleared_cores s d)
  have hcleared := getCore_coresCleared (tablesCleared (winsCleared (portsCleared s d) d) d) d hc hd
  unfold getCore at hcleared ⊢
  rw [hcores, hcleared, htables]

theorem getDom_clearDie {i : Nat} (hlo : 9 * d ≤ i) (hhi : i < 9 * d + 9) : (getDom (clearDie s d) i).state = .failed := by
  rw [getDom_of_told (released_clearDie s d)]
  exact getDom_domsFailed _ d hlo hhi

theorem jig_clearDie : (clearDie s d).jig = (tablesCleared (winsCleared (portsCleared s d) d) d).jig :=
  (away_jig (released_clearDie s d).away).trans ((domsFailed_jig _ d).trans (coresCleared_jig _ d))

theorem dma_clearDie : (clearDie s d).dma = (tablesCleared (winsCleared (portsCleared s d) d) d).dma :=
  (away_dma (released_clearDie s d).away).trans ((domsFailed_dma _ d).trans (coresCleared_dma _ d))

theorem die_of_mem_running {r : JgRun} (h : r ∈ (clearDie s d).jig.running) : r.job.die ≠ d := by
  rw [jig_clearDie] at h
  simpa using (List.mem_filter.1 h).2

theorem die_of_mem_queue {j : JgJob} (h : j ∈ (clearDie s d).jig.queue) : j.die ≠ d := by
  rw [jig_clearDie] at h
  simpa using (List.mem_filter.1 h).2

theorem getDma_clearDie {e c : Nat} (hd : e / 12 = d) (he : e < 24) (hc : c < 16) : getDma (clearDie s d) (dmaNo e c) = {} := by
  have hengine : dmaNo e c / 16 = e := by unfold dmaNo; omega
  unfold getDma
  rw [dma_clearDie]
  refine tget_of_not_thas ?_ _
  simp only [thas, tablesCleared, List.any_eq_false, List.mem_filter]
  rintro x ⟨_, hx⟩ hk
  simp only [Bool.or_eq_true, decide_eq_true_eq, bne_iff_ne, beq_iff_eq] at hx hk
  rw [hk, hengine] at hx
  omega

end

/-! ### What a lost die records -/

/-- The state of a lost die before the event: the parts cleared, the domains' events raised, the marks set. -/
def dieMarked (s : State) (d : Nat) (old : List (Nat × Nat)) : State :=
  let u := old.foldl (fun s e => pwrState s e.1 e.2 6) (clearDie s d)
  markLost (noteDeg { u with flt := { u.flt with dieLost := setBit u.flt.dieLost d true } }) d

section
variable (s : State) (d : Nat)

theorem told_pwrStates {A u : State} (h : Told A u) (old : List (Nat × Nat)) : Told A (old.foldl (fun s e => pwrState s e.1 e.2 6) u) :=
  told_foldl _ (fun _ _ hv => told_raiseDom hv _ _ _ _ _) _ h

theorem updSu_su (s : State) (f : Su → Su) : (updSu s f).su = f s.su := by unfold updSu; dsimp only; split <;> rfl
theorem updSu_flt (s : State) (f : Su → Su) : (updSu s f).flt = s.flt := by unfold updSu; dsimp only; split <;> rfl

theorem loseDie_keeps {α : Type} (p : State → α) (hdom : ∀ (u : State) x, p { u with doms := x } = p u)
    (htold : ∀ A u, Told A u → p u = p A) (cause : Nat) : ∃ old, p (loseDie s d cause) = p (dieMarked s d old) := by
  refine ⟨(upFrom (9 * d) 9).filterMap fun i => (stableCode (getDom s i)).map fun c => (i, c), ?_⟩
  generalize hm : dieMarked s d ((upFrom (9 * d) 9).filterMap fun i => (stableCode (getDom s i)).map fun c => (i, c)) = m
  have hfold : p ((upFrom (9 * d) 9).foldl (fun s i => updDom s i fun x => { x with entryHost := none, wakeHost := none, plHost := none }) m) = p m :=
    foldl_keeps (P := fun u => p u = p m) (fun u _ h => (hdom u _).trans h) rfl _
  have hraise := fun u => htold u _ (told_raiseMod (told_refl u) 0x0B07 d cause)
  have hreply : ∀ (u : State) (l : List Nat), p (l.foldl (fun s h => replyLater s h 0x09 (one 9)) u) = p u :=
    fun u l => htold u _ (told_foldl _ (fun _ _ hv => told_replyLater hv _ _ _) l (told_refl u))
  unfold loseDie
  dsimp only
  rw [hreply, hraise]
  unfold dieMarked at hm
  dsimp only at hm
  rw [hm]
  exact hfold

theorem su_loseDie (cause : Nat) : (loseDie s d cause).su = { s.su with deg := true } := by
  obtain ⟨old, h⟩ := loseDie_keeps s d State.su (fun _ _ => rfl) (fun A u h => away_su h.away) cause
  have hpwr := away_su (told_pwrStates (told_refl (clearDie s d)) old).away
  rw [h]
  unfold dieMarked markLost noteDeg
  rw [updSu_su]
  dsimp only
  rw [hpwr, su_clearDie]

theorem flt_loseDie (cause : Nat) : ∃ u, fltBesides u = fltBesides s.flt ∧
    fltBesides (loseDie s d cause).flt = fltBesides (markLost { s with flt := { u with dieLost := setBit u.dieLost d true } } d).flt := by
  obtain ⟨old, h⟩ := loseDie_keeps s d (fun t => fltBesides t.flt) (fun _ _ => rfl) (fun A u h => h.flt) cause
  have hpwr := (told_pwrStates (told_refl (clearDie s d)) old).flt
  refine ⟨_, hpwr.trans (flt_clearDie s d), h.trans ?_⟩
  unfold dieMarked markLost noteDeg
  dsimp only
  rw [updSu_flt]

end

end Sys2Proof.Machine
end

section
/-!
THEOREMS. Lost dies, the stopped module and the old epoch that does not retire (Faults, R397, R399, R400).
-/
namespace Sys2Proof.Machine

/-! ### The records of a lost die -/

section
variable (s : State) (d cause : Nat)

theorem dieLost_loseDie : (loseDie s d cause).flt.dieLost = setBit s.flt.dieLost d true := by
  obtain ⟨u, hu, h⟩ := flt_loseDie s d cause
  have hlost : u.dieLost = s.flt.dieLost := (congrArg Flt.dieLost hu :)
  rw [← hlost]
  exact (congrArg Flt.dieLost h :)

theorem bit_dieLost_loseDie : bit (loseDie s d cause).flt.dieLost d = true := by
  rw [dieLost_loseDie]
  exact bit_setBit_same _ _

theorem dieOut_loseDie : dieOut (loseDie s d cause) d = true := by
  unfold dieOut
  rw [bit_dieLost_loseDie, Bool.true_or]

theorem dieOut_loseDie_of_dieOut {k : Nat} (h : dieOut s k = true) : dieOut (loseDie s d cause) k = true := by
  unfold dieOut at h ⊢
  rw [dieLost_loseDie, su_loseDie]
  obtain hlost | hgone := Bool.or_eq_true_iff.1 h
  · rw [bit_setBit_of_bit hlost, Bool.true_or]
  · rw [hgone, Bool.or_true]

theorem chOut_loseDie {e : Nat} (he : e < 8) : bit (loseDie s d cause).flt.chOut (8 * d + e) = true := by
  obtain ⟨u, _, h⟩ := flt_loseDie s d cause
  have hmark : (loseDie s d cause).flt.chOut = _ := (congrArg Flt.chOut h :)
  rw [hmark]
  exact bit_foldl_setBit (mem_upFrom.2 ⟨by omega, by omega⟩) _

theorem clOut_loseDie {e : Nat} (he : e < 12) : bit (loseDie s d cause).flt.clOut (12 * d + e) = true := by
  obtain ⟨u, _, h⟩ := flt_loseDie s d cause
  have hmark : (loseDie s d cause).flt.clOut = _ := (congrArg Flt.clOut h :)
  rw [hmark]
  exact bit_foldl_setBit (mem_upFrom.2 ⟨by omega, by omega⟩) _

theorem coreState_loseDie {k : Nat} (hk : k < 112) (hd : coreDie k = d) : tget (loseDie s d cause).flt.coreState 0 k = 3 := by
  obtain ⟨u, _, h⟩ := flt_loseDie s d cause
  have hmark : (loseDie s d cause).flt.coreState = _ := (congrArg Flt.coreState h :)
  rw [hmark]
  exact tget_foldl_tset (List.mem_filter.2 ⟨mem_upFrom.2 (by omega), by simpa using hd⟩) _

theorem dieOkBits_of_dieOut_zero (h : dieOut s 0 = true) : dieOkBits s % 2 = 0 := by
  unfold dieOkBits
  rw [h]
  cases dieOut s 1 <;> split <;> rfl

theorem dieOkBits_of_dieOut_one (h : dieOut s 1 = true) : dieOkBits s / 2 = 0 := by
  unfold dieOkBits
  rw [h]
  cases dieOut s 0 <;> split <;> rfl

end

/-! ### A stopped module -/

theorem getTick_moduleStop (s : State) (p : Nat) : (getTick (moduleStop s) p).run = false ∧ (getTick (moduleStop s) p).pend = none := by
  have hpart : getPart (moduleStop s) p = if thas s.parts p then
      { getPart s p with tick := { (getPart s p).tick with run := false, pend := none, stopping := false } } else {} :=
    tget_map s.parts (fun x => { x with tick := { x.tick with run := false, pend := none, stopping := false } }) {} p
  unfold getTick
  rw [hpart]
  split
  · exact ⟨rfl, rfl⟩
  · exact ⟨rfl, rfl⟩

theorem txState_moduleStop (s : State) {n : Nat} (hn : n < 80) : (getLane (moduleStop s) n).txState = 2 := by
  have hlane : getLane (moduleStop s) n = { getLane s n with txState := 2 } :=
    tget_map_upFrom (a := 0) (n := 80) (i := n) (fun n => ({ getLane s n with txState := 2 } : Lane)) ({} : Lane) (by omega)
  rw [hlane]

theorem dieOut_moduleStop (s : State) (d : Nat) : dieOut (moduleStop s) d = dieOut s d := rfl

/-! ### Epochs that do not retire -/

/-- The bitmap of the dies that hold old packets. -/
def oldMap (s : State) : Nat := b2n (oldOn s 0) + 2 * b2n (oldOn s 1) + 4 * b2n (oldOn s 2)

theorem bit_b2n_sum (a b c : Bool) : bit (b2n a + 2 * b2n b + 4 * b2n c) 0 = a ∧ bit (b2n a + 2 * b2n b + 4 * b2n c) 1 = b ∧ bit (b2n a + 2 * b2n b + 4 * b2n c) 2 = c := by
  cases a <;> cases b <;> cases c <;> decide

theorem bit_oldMap (s : State) {d : Nat} (hd : d < 3) : bit (oldMap s) d = oldOn s d := by
  obtain ⟨h0, h1, h2⟩ := bit_b2n_sum (oldOn s 0) (oldOn s 1) (oldOn s 2)
  match d, hd with
  | 0, _ => exact h0
  | 1, _ => exact h1
  | 2, _ => exact h2

theorem oldMap_eq_zero {s : State} (h0 : oldOn s 0 = false) (h1 : oldOn s 1 = false) (h2 : oldOn s 2 = false) : oldMap s = 0 := by
  unfold oldMap
  rw [h0, h1, h2]
  rfl

theorem oldMap_ne_zero {s : State} (h : oldOn s 0 = true ∨ oldOn s 1 = true ∨ oldOn s 2 = true) : oldMap s ≠ 0 := by
  unfold oldMap
  obtain h | h | h := h <;> rw [h] <;> simp [b2n]

theorem le_sinceGo {s : State} {d : Nat} (hd : d < 3) (hbusy : (getNocDie s d).busy = true) : upNs s - (getNocDie s d).goAt ≤ sinceGo s :=
  le_maxNat (List.mem_map.2 ⟨d, List.mem_filter.2 ⟨mem_upFrom.2 (by omega), hbusy⟩, rfl⟩)

theorem sinceGo_lt {s : State} {n : Nat} (hn : 0 < n) (h : ∀ d, d < 3 → (getNocDie s d).busy = true → upNs s < (getNocDie s d).goAt + n) : sinceGo s < n := by
  obtain hzero | hmem := (foldl_max_bounds (((upFrom 0 3).filter fun d => (getNocDie s d).busy).map fun d => upNs s - (getNocDie s d).goAt) 0).2.2
  · exact hzero.trans_lt hn
  · obtain ⟨d, hd, hmax⟩ := List.mem_map.1 hmem
    obtain ⟨hlist, hbusy⟩ := List.mem_filter.1 hd
    have hlate := h d (mem_upFrom.1 hlist).2 hbusy
    have hsince : upNs s - (getNocDie s d).goAt = sinceGo s := hmax
    omega

theorem execEpochStuck_of_not {s : State} (h : ¬ (10000000 ≤ sinceGo s ∧ oldMap s ≠ 0)) : execEpochStuck s = .next s := if_neg h

/-- The compute dies that hold old packets of `s`, lost one after another. -/
def oldDiesLost (s v : State) : State := (upFrom 0 2).foldl (fun x d => if oldOn s d = true ∧ dieOut x d = false then loseDie x d 4 else x) v

theorem execEpochStuck_of {s : State} (h : 10000000 ≤ sinceGo s ∧ oldMap s ≠ 0) :
    let w := oldDiesLost s (raiseMod s 0x0B06 (oldMap s) (sinceGo s / 1000))
    execEpochStuck s = .next (if oldOn s 2 then moduleStop w else w) := by
  have hfold : ∀ v, (upFrom 0 2).foldl (fun x d => if bit (oldMap s) d && !dieOut x d then loseDie x d 4 else x) v = oldDiesLost s v := by
    intro v
    refine List.foldl_ext _ _ _ fun x d hd => ?_
    rw [bit_oldMap s (by have := mem_upFrom.1 hd; omega)]
    simp only [Bool.and_eq_true, Bool.not_eq_true']
  dsimp only
  rw [← hfold, ← bit_oldMap s (d := 2) (by omega)]
  exact if_pos h

theorem dieOut_oldDiesLost {s : State} {d : Nat} (hd : d < 2) (hold : oldOn s d = true) (v : State) : dieOut (oldDiesLost s v) d = true := by
  refine foldl_establishes (P := fun u k => oldOn s k = true → dieOut u k = true) (fun u k hk => ?_) (fun u k j h hj => ?_) (mem_upFrom.2 (by omega)) v hold
  · split
    · exact dieOut_loseDie u k 4
    next hnot => simpa [hk] using hnot
  · split
    · exact dieOut_loseDie_of_dieOut u k 4 (h hj)
    · exact h hj

/-! ### The obligations -/

theorem diesAreLost : Parts.DiesAreLost := by
  unfold Parts.DiesAreLost
  intro s
  refine ⟨?_, ?_, ?_, ?_, ?_, ?_, rfl, ?_⟩
  · intro d k h
    refine if_pos (h.imp_right fun ⟨hk, b, hlo, hhi, hb⟩ => ⟨hk, List.any_eq_true.2 ⟨b, mem_upFrom.2 ⟨hlo, hhi⟩, hb⟩⟩)
  · intro d k hin hdown
    refine if_neg ?_
    rintro (hout | ⟨hk, hup⟩)
    · rw [hin] at hout
      cases hout
    · obtain ⟨b, hb, hup⟩ := List.any_eq_true.1 hup
      obtain ⟨hlo, hhi⟩ := mem_upFrom.1 hb
      rw [hdown hk b hlo hhi] at hup
      cases hup
  · intro d
    exact ⟨fun f hf => getFlow_clearDie s d hf, fun c hc hd => getCore_clearDie s d hc hd, fun r hr => die_of_mem_running s d hr,
      fun j hj => die_of_mem_queue s d hj, fun i hlo hhi => getDom_clearDie s d hlo hhi, fun e c hd he hc => getDma_clearDie s d hd he hc⟩
  · intro h
    exact execEpochStuck_of_not fun ⟨hlong, _⟩ => absurd (sinceGo_lt (by omega) h) (by omega)
  · intro h0 h1 h2
    exact execEpochStuck_of_not fun ⟨_, hold⟩ => hold (oldMap_eq_zero h0 h1 h2)
  · intro d c
    refine ⟨dieLost_loseDie s d c, congrArg Su.deg (su_loseDie s d c), fun hd => ?_, fun hd => ?_, fun e he => chOut_loseDie s d c he,
      fun e he => clOut_loseDie s d c he, fun k hk hd => coreState_loseDie s d c hk hd⟩
    · exact dieOkBits_of_dieOut_zero _ (hd ▸ dieOut_loseDie s d c)
    · exact dieOkBits_of_dieOut_one _ (hd ▸ dieOut_loseDie s d c)
  · exact ⟨rfl, rfl, rfl, rfl, getTick_moduleStop s, fun n hn => txState_moduleStop s hn, rfl, rfl, rfl, rfl⟩

/-- Settles O57: cores and engines case by case of their commands; a lost die by the stages of `clearDie`. -/
theorem coresEnginesAndDiesFail : Obligations.CoresEnginesAndDiesFail := ⟨coresAndEnginesFail, diesAreLost⟩

/-- Settles O59: the fold over the compute dies loses each that holds old packets, and a later loss or the stop leaves it lost. -/
theorem stuckEpochLosesItsDies : Obligations.StuckEpochLosesItsDies := by
  unfold Obligations.StuckEpochLosesItsDies
  rintro s ⟨d, hd, hbusy, hgo⟩ hold
  have hsince := le_sinceGo hd hbusy
  refine ⟨_, execEpochStuck_of ⟨by omega, oldMap_ne_zero hold⟩, ⟨_, _, rfl, rfl, rfl⟩, fun k hk holdk => ?_, fun hiod => ?_, fun k hk hb => le_sinceGo hk hb⟩
  · have hout := dieOut_oldDiesLost hk holdk (raiseMod s 0x0B06 (oldMap s) (sinceGo s / 1000))
    split
    · exact hout
    · exact hout
  · rw [hiod]
    exact ⟨rfl, rfl, rfl, rfl⟩

end Sys2Proof.Machine
end

section
/-!
THEOREMS. The event log (Faults, R384 to R386).
-/
namespace Sys2Proof.Machine

section
variable (s : State) (r : LogRec)

theorem execLogWrite_nil {ok : Bool} (h : s.flt.queue = []) : execLogWrite ok s = .next s := by
  unfold execLogWrite
  rw [h]

theorem execLogWrite_mcDown {ok : Bool} (h : s.flt.mcDown ≠ none) : execLogWrite ok s = .next s := by
  unfold execLogWrite
  split
  · rfl
  · exact if_pos (Option.isSome_iff_ne_none.2 h)

/-- With the MC up, the record in front leaves the queue and is written, behind FLT_LOG_GAP where some were lost, or counted as lost. -/
theorem execLogWrite_cons {q : List LogRec} {ok : Bool} (hq : s.flt.queue = r :: q) (hmc : s.flt.mcDown = none) :
    let u : State := { s with flt := { s.flt with queue := q } }
    execLogWrite ok s = .next (if ok then
        writeRecord (if s.flt.gap = 0 then u
          else writeRecord { u with flt := { u.flt with gap := 0 } } { r with code := 0x0B0F, sev := 0, mod := true, part := 0, d0 := s.flt.gap, d1 := 0, cont := [] }) r
      else
        let v := if r.code = 0x0A13 then { u with th := { u.th with armed := u.th.armedWas } } else u
        bump { v with flt := { v.flt with gap := v.flt.gap + 1 } } .fltLogFail 0) := by
  unfold execLogWrite
  rw [hq, hmc]
  cases ok <;> rfl

/-! ### The ring -/

theorem mem_log_appendLog {x : LogRec} : x ∈ (appendLog s r).flt.log ↔
    (x ∈ s.flt.log ∨ x = { r with index := s.flt.nextIndex }) ∧ (appendLog s r).flt.nextIndex ≤ x.index + x.cont.length + 262144 := by
  unfold appendLog
  dsimp only
  rw [List.mem_filter, List.mem_append, List.mem_singleton, decide_eq_true_iff]

theorem writeRecord_eq : writeRecord s r = faultLine (appendLog s r) { r with index := s.flt.nextIndex } := rfl

/-! ### The bytes of a record -/

theorem length_recordBytes : (recordBytes r).length = 64 := by
  simp [recordBytes, length_leBytes]

theorem drop_recordBytes : (recordBytes r).drop 60 = leBytes (crc32 ((recordBytes r).take 60)) 4 := by
  unfold recordBytes
  dsimp only
  generalize hbs : leBytes r.index 4 ++ leBytes r.code 2 ++ leBytes (r.sev + b2n r.mod * 4 + r.part * 8) 1 ++ leBytes r.cont.length 1 ++
    leBytes r.time 8 ++ leBytes r.tick 4 ++ leBytes r.hours 4 ++ leBytes r.d0 8 ++ leBytes r.d1 8 ++ leBytes 0 20 = bs
  have hlen : bs.length = 60 := by
    rw [← hbs]
    simp [length_leBytes]
  rw [← hlen, List.drop_left, List.take_left]

theorem length_recordsOf : (recordsOf r).length = 1 + r.cont.length := by
  simp [recordsOf, upFrom_eq_range', Nat.add_comm]

theorem length_contBytes (i : Nat) (d : List Byte) : (contBytes i d).length = 64 := by
  simp [contBytes, length_leBytes]

end

/-- Settles O60: each arm of the write by cases of the queue, the MC, the gap and flash; the ring by membership in its filter. -/
theorem eventsAreLogged : Obligations.EventsAreLogged := by
  unfold Obligations.EventsAreLogged
  intro s
  refine ⟨?_, ?_, ?_, ?_, ?_, length_contBytes, ?_⟩
  · rintro ok (hq | hmc)
    · exact execLogWrite_nil s hq
    · exact execLogWrite_mcDown s hmc
  · intro r q hq hmc
    have hexec := fun ok => execLogWrite_cons s r (ok := ok) hq hmc
    refine ⟨fun hcode => ?_, fun hcode => ?_, fun hgap => ?_, fun hgap => ?_⟩
    · refine (hexec false).trans ?_
      simp only [if_neg hcode, Bool.false_eq_true, if_false]
    · refine (hexec false).trans ?_
      simp only [if_pos hcode, Bool.false_eq_true, if_false]
    · refine (hexec true).trans ?_
      rw [if_pos rfl, if_pos hgap]
    · refine (hexec true).trans ?_
      rw [if_pos rfl, if_neg hgap]
  · intro r
    refine ⟨fun h => ?_, fun hcode hboot hup => ?_⟩
    · refine if_neg fun hline => ?_
      simp only [Bool.and_eq_true, Bool.or_eq_true, beq_iff_eq, bne_iff_ne] at hline
      obtain ⟨⟨hup, hcode⟩, hboot⟩ := hline
      obtain h | h | ⟨hready, hstop⟩ := h
      · exact h hcode
      · exact hboot h
      · obtain hr | ⟨⟨hs, _⟩, _⟩ := hup
        · exact absurd (hready.symm.trans hr) (by decide)
        · exact absurd (hstop.symm.trans hs) (by decide)
    · refine if_pos ?_
      simp only [Bool.and_eq_true, Bool.or_eq_true, beq_iff_eq, bne_iff_ne]
      refine ⟨⟨hup.imp_right fun ⟨hstop, hstage, hfail⟩ => ⟨⟨hstop, hstage⟩, ?_⟩, hcode⟩, hboot⟩
      exact Option.isNone_iff_eq_none.2 hfail
  · intro r
    refine ⟨rfl, (mem_log_appendLog s r).2 ⟨.inr rfl, ?_⟩, fun x hx => ((mem_log_appendLog s r).1 hx).2, fun x hx hlast => (mem_log_appendLog s r).2 ⟨.inl hx, hlast⟩⟩
    change s.flt.nextIndex + 1 + r.cont.length ≤ s.flt.nextIndex + r.cont.length + 262144
    omega
  · exact fun r => ⟨length_recordBytes r, drop_recordBytes r, length_recordsOf r⟩
  · exact fun code sev mod p d0 d1 l => ⟨rfl, rfl, _, rfl, rfl, rfl, rfl, rfl, rfl, rfl⟩

end Sys2Proof.Machine
end

section
/-!
THEOREMS. Table reloads, restarts of the MC, and panic (Faults, Panic, R394, R395, R270).
-/
namespace Sys2Proof.Machine

/-! ### Events with the MC down -/

/-- The MC is down by cause `c`, and the host ports are `l`. -/
def HostsWithMcDown (c : Nat) (l : Tab HostPort) (s : State) : Prop := s.flt.mcDown = some c ∧ s.hosts = l

section
variable {c : Nat} {l : Tab HostPort} {s : State}

theorem postHost_of_mcDown (h : s.flt.mcDown ≠ none) (k : Nat) (e : Evt) : postHost s k e = { s with flt := { s.flt with held := s.flt.held ++ [(k, e)] } } := by
  unfold postHost
  exact if_pos (Option.isSome_iff_ne_none.2 h)

theorem toEventFlow_of_mcDown (h : s.flt.mcDown ≠ none) (p code w2 w3 : Nat) :
    toEventFlow s p code w2 w3 = { s with flt := { s.flt with heldFlow := s.flt.heldFlow ++ [{ part := p, code := code, w2 := w2, w3 := w3 }] } } := by
  unfold toEventFlow
  exact if_pos (Option.isSome_iff_ne_none.2 h)

theorem HostsWithMcDown.down (h : HostsWithMcDown c l s) : s.flt.mcDown ≠ none := fun e => absurd (e.symm.trans h.1) (by simp)

theorem hostsWithMcDown_postHost (h : HostsWithMcDown c l s) (k : Nat) (e : Evt) : HostsWithMcDown c l (postHost s k e) := by
  rw [postHost_of_mcDown h.down]
  exact h

theorem hostsWithMcDown_toEventFlow (h : HostsWithMcDown c l s) (p code w2 w3 : Nat) : HostsWithMcDown c l (toEventFlow s p code w2 w3) := by
  rw [toEventFlow_of_mcDown h.down]
  exact h

theorem hostsWithMcDown_raiseMod (h : HostsWithMcDown c l s) (code w2 w3 : Nat) : HostsWithMcDown c l (raiseMod s code w2 w3) := by
  have htell : HostsWithMcDown c l (tellAll s code w2 w3) :=
    foldl_keeps (P := HostsWithMcDown c l) (g := fun s h => toEventFlow (postHost s h { code := code, part := 0, mod := true, time := s.now, w2 := w2, w3 := w3 }) h code w2 w3)
      (fun _ _ hu => hostsWithMcDown_toEventFlow (hostsWithMcDown_postHost hu _ _) _ _ _ _) h _
  unfold raiseMod
  dsimp only
  split
  · exact htell
  · exact htell

end

/-! ### The watchdog -/

/-- The session of port `h` ended, with what the MC has begun for it dropped. -/
def portDropped (s : State) (h : Nat) : State :=
  updHost (endSession s h) h fun x => { x with begun := none, still := none, asm := [], marks := [], cmd := x.cmd.drop x.committed, committed := 0 }

/-- The state of a watchdog hit but for the time unit. -/
def mcStopped (s : State) (cause : Nat) : State :=
  let u := (upFrom 0 4).foldl portDropped s
  { u with
    doms := u.doms.map fun e =>
      (e.1, { e.2 with reqSet := none, entryHost := none, wakeHost := none, plHost := none, plHeld := e.2.plHeld.map fun q => (q.1, none) })
    parts := u.parts.map fun e => (e.1, { e.2 with st := if e.2.st = .restarting then .defined else e.2.st })
    flt := { u.flt with mcDown := some (cause + 1) } }

theorem execMcWatchdog_of_up {s : State} (hmc : s.flt.mcDown = none) (hstage : 5 ≤ s.su.stage) (cause : Fin 2) :
    execMcWatchdog cause s = .next (if (mcStopped s cause).tm.st = 1 ∨ (mcStopped s cause).tm.st = 2 then holdTime (mcStopped s cause) else mcStopped s cause) := by
  refine if_neg ?_
  rw [hmc]
  simpa using hstage

section
variable (s : State)

theorem getHost_endSession (h k : Nat) : getHost (endSession s h) k = if k = h then { getHost s h with session := false } else getHost s k := by
  have hupd : getHost (updHost s h fun x => { x with session := false }) k = if k = h then { getHost s h with session := false } else getHost s k :=
    tget_tset _ _ _ _ _
  unfold endSession
  dsimp only
  split
  · exact hupd
  · exact hupd

theorem getHost_portDropped (h k : Nat) : getHost (portDropped s h) k = if k = h then
    { getHost s h with session := false, begun := none, still := none, asm := [], marks := [], cmd := (getHost s h).cmd.drop (getHost s h).committed, committed := 0 }
    else getHost s k := by
  unfold portDropped updHost
  rw [getHost_setHost, getHost_endSession, getHost_endSession, if_pos rfl]
  split <;> rfl

theorem manager_portDropped (h : Nat) : (portDropped s h).mc.manager = if s.mc.manager = some h then none else s.mc.manager := by
  unfold portDropped endSession
  dsimp only
  split
  next hm => exact (if_pos hm).symm
  next hm => exact (if_neg hm).symm

theorem portsDropped_eq : let u := (upFrom 0 4).foldl portDropped s
    { u with hosts := s.hosts, mc := s.mc } = s := by
  refine foldl_keeps (P := fun u => { u with hosts := s.hosts, mc := s.mc } = s) (fun u h hu => ?_) rfl _
  unfold portDropped endSession
  dsimp only
  split
  · exact hu
  · exact hu

/-- What is kept of every port: its events, and the words behind the packets that the MC has taken. -/
theorem words_portsDropped (k : Nat) : let u := (upFrom 0 4).foldl portDropped s
    (getHost u k).cmd.drop (getHost u k).committed = (getHost s k).cmd.drop (getHost s k).committed ∧ (getHost u k).evts = (getHost s k).evts := by
  refine foldl_keeps (P := fun u => (getHost u k).cmd.drop (getHost u k).committed = (getHost s k).cmd.drop (getHost s k).committed ∧ (getHost u k).evts = (getHost s k).evts)
    (fun u h hu => ?_) ⟨rfl, rfl⟩ _
  rw [getHost_portDropped]
  split
  next e =>
    subst e
    exact hu
  · exact hu

theorem ports_portsDropped {k : Nat} (hk : k < 4) : let u := (upFrom 0 4).foldl portDropped s
    ((getHost u k).session = false ∧ (getHost u k).begun = none ∧ (getHost u k).asm = [] ∧ (getHost u k).committed = 0) ∧ u.mc.manager ≠ some k := by
  refine foldl_establishes (P := fun u k => ((getHost u k).session = false ∧ (getHost u k).begun = none ∧ (getHost u k).asm = [] ∧ (getHost u k).committed = 0) ∧ u.mc.manager ≠ some k)
    (fun u h => ?_) (fun u h j hj => ?_) (mem_upFrom.2 (by omega)) s
  · rw [getHost_portDropped, if_pos rfl, manager_portDropped]
    refine ⟨⟨rfl, rfl, rfl, rfl⟩, ?_⟩
    split
    · exact fun e => nomatch e
    · assumption
  · rw [getHost_portDropped, manager_portDropped]
    refine ⟨?_, ?_⟩
    · split
      · exact ⟨rfl, rfl, rfl, rfl⟩
      · exact hj.1
    · split
      · exact fun e => nomatch e
      · exact hj.2

end

theorem mcTurn_of_mcDown {s : State} (h : s.flt.mcDown ≠ none) : mcTurn s = none := by
  refine if_pos (.inl ?_)
  unfold mcUp
  rw [Option.isNone_eq_false_iff.2 (Option.isSome_iff_ne_none.2 h)]
  simp

/-- The time unit enters state `st` silently where it is in it, and reports the change otherwise. -/
theorem tmState_cases (s : State) (st src : Nat) : ∃ x : Tm, x.st = st ∧ (tmState s st src = setTm s x ∨ ∃ old, tmState s st src = raiseMod (setTm s x) 0x0904 old st) := by
  unfold tmState
  dsimp only
  generalize rebase s _ = x
  by_cases hst : x.st = st
  · rw [if_pos hst]
    exact ⟨{ x with src := src, lowAt := if x.src = src then x.lowAt else upNs s }, hst, .inl rfl⟩
  · rw [if_neg hst]
    exact ⟨_, rfl, .inr ⟨_, rfl⟩⟩

theorem tmState_st (s : State) (st src : Nat) : (tmState s st src).tm.st = st := by
  obtain ⟨x, hx, h | ⟨old, h⟩⟩ := tmState_cases s st src
  · rw [h]
    exact hx
  · rw [h, away_tm (told_raiseMod (told_refl _) _ _ _).away]
    exact hx

theorem holdTime_st (s : State) : (holdTime s).tm.st = 3 := tmState_st _ _ _

/-- What a change of the time unit's state leaves alone while the MC is down. -/
theorem tmState_keeps {c : Nat} {s : State} (h : s.flt.mcDown = some c) (st src : Nat) : let t := tmState s st src
    HostsWithMcDown c s.hosts t ∧ t.mc = s.mc ∧ t.mem = s.mem ∧ t.cores = s.cores ∧ t.parts = s.parts := by
  obtain ⟨x, -, e | ⟨old, e⟩⟩ := tmState_cases s st src
  · rw [e]
    exact ⟨⟨h, rfl⟩, rfl, rfl, rfl, rfl⟩
  · have hx : HostsWithMcDown c s.hosts (setTm s x) := ⟨h, rfl⟩
    have htold := told_raiseMod (told_refl (setTm s x)) 0x0904 old st
    rw [e]
    exact ⟨hostsWithMcDown_raiseMod hx _ _ _, (away_mc htold.away :), (away_mem htold.away :), (away_cores htold.away :), (away_parts htold.away :)⟩

theorem holdTime_keeps {c : Nat} {s : State} (h : s.flt.mcDown = some c) : let t := holdTime s
    HostsWithMcDown c s.hosts t ∧ t.mc = s.mc ∧ t.mem = s.mem ∧ t.cores = s.cores ∧ t.parts = s.parts :=
  tmState_keeps (s := setTm s { s.tm with ptpOk := false, ptpErr := none, extErr := none }) h 3 s.tm.src

/-- What a watchdog hit does to all but the time unit: `t` is `mcStopped s cause` there. -/
structure StopsMc (s : State) (cause : Nat) (t : State) : Prop where
  hosts : HostsWithMcDown (cause + 1) (mcStopped s cause).hosts t
  mc : t.mc = (mcStopped s cause).mc
  mem : t.mem = s.mem
  cores : t.cores = s.cores
  parts : t.parts = (mcStopped s cause).parts

/-! ### Panic: the conditions of raising and lifting -/

theorem next_if_true {b : Bool} {t s : State} (h : b = true) : (Host.Outcome.next (if b then t else s) : Res) = .next t := by
  rw [h]
  rfl

theorem next_if_false {b : Bool} {t s : State} (h : b = false) : (Host.Outcome.next (if b then t else s) : Res) = .next s := by
  rw [h]
  rfl

theorem enabledBeyond {b : Bool} {i j : Nat} (hb : b = true) (hij : i ≤ j) : (b && decide (i ≤ j)) = true := by
  rw [hb, decide_eq_true hij]
  rfl

theorem not_enabledBeyond {b : Bool} {i j : Nat} (h : b = false ∨ j < i) : (b && decide (i ≤ j)) = false := by
  obtain hb | hij := h
  · rw [hb, Bool.false_and]
  · rw [decide_eq_false (by omega), Bool.and_false]

theorem disabledOrBelow {b : Bool} {i j : Nat} (h : b = false ∨ i ≤ j) : (!b || decide (i ≤ j)) = true := by
  obtain hb | hij := h
  · rw [hb]
    rfl
  · rw [decide_eq_true hij, Bool.or_true]

theorem not_disabledOrBelow {b : Bool} {i j : Nat} (hb : b = true) (hij : j < i) : (!b || decide (i ≤ j)) = false := by
  rw [hb, decide_eq_false (by omega)]
  rfl

/-! ### The obligation -/

theorem getPart_mcStopped (s : State) (cause p : Nat) : getPart (mcStopped s cause) p =
    { getPart s p with st := if (getPart s p).st = .restarting then .defined else (getPart s p).st } := by
  have hparts : ((upFrom 0 4).foldl portDropped s).parts = s.parts := (congrArg State.parts (portsDropped_eq s) :)
  have hmap : getPart (mcStopped s cause) p = _ :=
    tget_map ((upFrom 0 4).foldl portDropped s).parts (fun x => ({ x with st := if x.st = .restarting then .defined else x.st } : Part)) {} p
  rw [hmap, hparts]
  split
  · rfl
  next hno =>
    unfold getPart
    rw [tget_of_not_thas (by simpa using hno)]
    rfl

theorem stopsMc_mcStopped (s : State) (cause : Nat) : StopsMc s cause (mcStopped s cause) :=
  ⟨⟨rfl, rfl⟩, rfl, (congrArg State.mem (portsDropped_eq s) :), (congrArg State.cores (portsDropped_eq s) :), rfl⟩

theorem stopsMc_holdTime (s : State) (cause : Nat) : StopsMc s cause (holdTime (mcStopped s cause)) := by
  obtain ⟨⟨_, _⟩, _, hmem, hcores, _⟩ := stopsMc_mcStopped s cause
  obtain ⟨hdown, hmc, hmem', hcores', hparts⟩ := holdTime_keeps (s := mcStopped s cause) (c := cause + 1) rfl
  exact ⟨hdown, hmc, hmem'.trans hmem, hcores'.trans hcores, hparts⟩

theorem tm_mcStopped (s : State) (cause : Nat) : (mcStopped s cause).tm = s.tm := (congrArg State.tm (portsDropped_eq s) :)

theorem StopsMc.getHost {s t : State} {cause : Nat} (h : StopsMc s cause t) (k : Nat) : getHost t k = getHost ((upFrom 0 4).foldl portDropped s) k :=
  congrArg (fun l : Tab HostPort => tget l {} k) h.hosts.2

theorem StopsMc.manager {s t : State} {cause : Nat} (h : StopsMc s cause t) : t.mc.manager = ((upFrom 0 4).foldl portDropped s).mc.manager :=
  congrArg Mc.manager h.mc

theorem StopsMc.getPart {s t : State} {cause : Nat} (h : StopsMc s cause t) (p : Nat) :
    getPart t p = { Machine.getPart s p with st := if (Machine.getPart s p).st = .restarting then .defined else (Machine.getPart s p).st } :=
  (congrArg (fun l : Tab Part => tget l {} p) h.parts).trans (getPart_mcStopped s cause p)

/-- A watchdog hit stops the MC and takes the time unit from ACQUIRING or LOCKED to HOLDOVER. -/
theorem execMcWatchdog_stopsMc {s : State} (hmc : s.flt.mcDown = none) (hstage : 5 ≤ s.su.stage) (cause : Fin 2) :
    ∃ t, execMcWatchdog cause s = .next t ∧ StopsMc s cause t ∧ (s.tm.st = 1 ∨ s.tm.st = 2 → t.tm.st = 3) ∧ (s.tm.st = 0 ∨ s.tm.st = 3 → t.tm = s.tm) := by
  refine ⟨_, execMcWatchdog_of_up hmc hstage cause, ?_⟩
  rw [tm_mcStopped]
  split
  next hst => exact ⟨stopsMc_holdTime s cause, fun _ => holdTime_st _, fun h => by omega⟩
  next hst => exact ⟨stopsMc_mcStopped s cause, fun h => absurd h hst, fun _ => tm_mcStopped s cause⟩

theorem tablesMcAndPanic : Parts.TablesMcAndPanic := by
  unfold Parts.TablesMcAndPanic
  intro s
  refine ⟨?_, ?_, ?_, ?_, ?_, ?_, ?_, ?_, ?_⟩
  · exact fun port table n part lost trig => ⟨_, rfl, _, rfl⟩
  · intro cause h
    exact if_pos (h.imp_left Option.isSome_iff_ne_none.2)
  · intro cause hmc hstage
    obtain ⟨t, hexec, hstop, hlocked, hfree⟩ := execMcWatchdog_stopsMc hmc hstage cause
    refine ⟨t, hexec, hstop.hosts.1, fun h hh => ?_, fun h hh => ?_, hstop.mem, hstop.cores, hstop.getPart, hlocked, hfree⟩
    · obtain ⟨⟨hsession, hbegun, hasm, hcommitted⟩, -⟩ := ports_portsDropped s hh
      obtain ⟨hcmd, hevts⟩ := words_portsDropped s h
      rw [hcommitted, List.drop_zero] at hcmd
      rw [hstop.getHost, mcTurn_of_mcDown hstop.hosts.down]
      exact ⟨hsession, hbegun, hasm, hcmd, fun e => (nomatch e), hevts⟩
    · rw [hstop.manager]
      exact (ports_portsDropped s hh).2
  · intro h
    change execMcRestartDone s = .next s
    unfold execMcRestartDone
    rw [h]
  · exact fun h e hmc => postHost_of_mcDown hmc h e
  · intro k hk
    change execMcRestartDone s = _
    unfold execMcRestartDone
    rw [hk]
  · intro m k
    have hlift : (getFh s m).en = false ∨ (pncFh s m).en = false ∨ (pncFh s m).off ≤ (getFh s m).eg.length →
        (!(getFh s m).en || !(pncFh s m).en || decide ((pncFh s m).off ≤ (getFh s m).eg.length)) = true := by
      rintro (h | h)
      · rw [h]
        rfl
      · rw [Bool.or_assoc, disabledOrBelow h, Bool.or_true]
    have hstay : (getFh s m).en = true → (pncFh s m).en = true → (getFh s m).eg.length < (pncFh s m).off →
        (!(getFh s m).en || !(pncFh s m).en || decide ((pncFh s m).off ≤ (getFh s m).eg.length)) = false := by
      intro hen hpnc hfill
      rw [hen]
      exact not_disabledOrBelow hpnc hfill
    exact ⟨fun h => next_if_true h, fun h => next_if_false h, fun h => next_if_true (hlift h), fun hen hpnc hfill => next_if_false (hstay hen hpnc hfill)⟩
  · exact fun e k => ⟨fun hen hfill => next_if_true (enabledBeyond hen hfill), fun h => next_if_false (not_enabledBeyond h),
      fun h => next_if_true (disabledOrBelow h), fun hen hfill => next_if_false (not_disabledOrBelow hen hfill)⟩
  · exact fun n k => ⟨fun hen hfill => next_if_true (enabledBeyond hen hfill), fun h => next_if_false (not_enabledBeyond h),
      fun h => next_if_true (disabledOrBelow h), fun hen hfill => next_if_false (not_disabledOrBelow hen hfill)⟩

end Sys2Proof.Machine
end

section
/-!
THEOREMS. The module's own contacts: I2C and boundary scan (Module, R416, R420, R422, R424).
-/
namespace Sys2Proof.Machine

/-! ### The I2C map -/

theorem length_i2cMap (s : State) : (i2cMap s).length = 48 := by
  simp [i2cMap, length_leBytes, upFrom_eq_range']

theorem take_i2cMap (s : State) : (i2cMap s).take 7 = [0x4F, 0x47, 0x4D, 0x39, 0x36, 0x2D, 0x41] := by
  unfold i2cMap
  simp only [List.append_assoc]
  rfl

theorem progress_i2cMap (s : State) : ((i2cMap s).drop 0x20).take 2 = leBytes (progress s.su) 2 := by
  unfold i2cMap
  simp only [List.append_assoc]
  rw [← List.append_assoc _ (List.replicate 9 0), ← List.append_assoc _ ((upFrom 0 16).map Config.serial)]
  rw [List.drop_left' (by simp [upFrom_eq_range']), List.take_left' (length_leBytes _ _)]

theorem hours_i2cMap (s : State) : ((i2cMap s).drop 0x2C).take 4 = leBytes s.age.hours 4 := by
  unfold i2cMap
  rw [List.drop_left' (by simp [upFrom_eq_range', length_leBytes])]
  exact List.take_of_length_le (length_leBytes _ _).le

/-- A read stores the bytes of the map from the offset, and latches the last field whose first byte was among them. -/
theorem execI2cRead_of_up {s : State} (h : i2cUp s = true) (n : Fin 257) (a b c : BitVec 16) :
    let u : State := { s with pins := { s.pins with vin10 := a.toNat, pin100 := b.toNat, tbase := c.toInt } }
    ∃ at_ l, execI2cRead n a b c s = .next { u with pins := { u.pins with read := (upFrom s.pins.ofs n).map fun i => lget (i2cMap u) 0 i, latchAt := at_, latch := l } } := by
  unfold execI2cRead
  rw [if_pos h]
  dsimp only
  split
  · exact ⟨_, _, rfl⟩
  · exact ⟨_, _, rfl⟩

theorem lget_map_upFrom {α : Type} (f : Nat → α) (d : α) (a : Nat) {n i : Nat} (h : i < n) : lget ((upFrom a n).map f) d i = f (a + i) := by
  unfold lget
  rw [upFrom_eq_range', List.getD_eq_getElem _ _ (by simpa using h)]
  simp

/-! ### Places at the connectors -/

theorem lanePos_injective {n m : Nat} (hn : n < 80) (hm : m < 80) (h : lanePos n = lanePos m) : n = m := by
  unfold lanePos at h
  split at h <;> split at h <;> simp only [Prod.mk.injEq] at h <;> omega

theorem lanePos_snd_lt (n : Nat) : (lanePos n).2 < 8 := by
  unfold lanePos
  split <;> dsimp only <;> omega

/-! ### Output contacts under EXTEST -/

theorem pinsUnderExtest {t : State} (he : t.pins.extest = true) (hvin : t.su.vin = true) : readyPin t = bit t.pins.scan (Config.scanCell 0) ∧
    faultPin t = bit t.pins.scan (Config.scanCell 1) ∧ tripPin t = bit t.pins.scan (Config.scanCell 2) ∧ ∀ h, alertPin t h = bit t.pins.scan (Config.scanCell (8 + h)) := by
  simp [readyPin, faultPin, tripPin, alertPin, pinOut, he, hvin]

/-! ### The obligation -/

theorem contactsAnswer : Parts.ContactsAnswer := by
  unfold Parts.ContactsAnswer
  intro s
  refine ⟨fun o d h => if_pos h, fun o d h => if_neg (by simp [h]), fun n a b c h => if_neg (by simp [h]), ?_, ?_, take_i2cMap s, progress_i2cMap s, hours_i2cMap s,
    fun n m hn hm h => lanePos_injective hn hm h, ?_, ?_, rfl, rfl, ?_, ?_⟩
  · intro n a b c h
    obtain ⟨at_, l, hexec⟩ := execI2cRead_of_up h n a b c
    refine ⟨_, hexec, ?_, fun i hi => lget_map_upFrom _ _ _ hi, rfl, rfl, rfl, rfl, rfl⟩
    simp [upFrom_eq_range']
  · rw [length_i2cMap]
    decide
  · intro n _
    have hpos := lanePos_snd_lt n
    unfold txFibre rxFibre
    omega
  · decide
  · exact ⟨_, rfl, rfl, rfl, ⟨_, rfl⟩, fun i own => rfl⟩
  · intro d
    refine ⟨_, rfl, rfl, rfl, ⟨_, rfl⟩, fun hvin => pinsUnderExtest rfl hvin⟩

/-- Settles O58: reloads, watchdog hits and panic by the conditions of their commands; the contacts by the layout of the map and the scan. -/
theorem tablesMcPanicAndContacts : Obligations.TablesMcPanicAndContacts := ⟨tablesMcAndPanic, contactsAnswer⟩

end Sys2Proof.Machine
end

section
/-!
SUPPORT. How a command of the host protocol runs: in its turn its body answers at once or goes on, and its words are checked for bits it does not use.
-/
namespace Sys2Proof.Machine

section
variable {s t : State} {h opc : Nat} {c : HostCmd} {body : State → HostCmd → Reply × State}

theorem runCmd_of_turn (ht : Turn s h opc c) : runCmd s h opc body = match body (served s h) c with
    | (.now st pay, t) => finish t h c st pay
    | (.later, t) => updHost t h fun x => { x with begun := x.begun.map fun b => { b with running := true, took := if b.running then b.took else upNs t } } := by
  obtain ⟨hbegun, hopc, hrun⟩ := ht
  unfold runCmd
  rw [hbegun]
  exact if_pos ⟨hopc, hrun⟩

theorem runCmd_now {st : Nat} {pay : List Word} (ht : Turn s h opc c) (hb : body (served s h) c = (.now st pay, t)) : runCmd s h opc body = finish t h c st pay := by
  rw [runCmd_of_turn ht, hb]

theorem runCmd_later (ht : Turn s h opc c) (hb : body (served s h) c = (.later, t)) : runCmd s h opc body =
    updHost t h fun x => { x with begun := x.begun.map fun b => { b with running := true, took := if b.running then b.took else upNs t } } := by
  rw [runCmd_of_turn ht, hb]

theorem runCmd_not_begun (hb : (getHost s h).begun = none) : runCmd s h opc body = s := by
  unfold runCmd
  rw [hb]

theorem runCmd_not_turn (hb : (getHost s h).begun = some c) (hn : ¬ (c.opc = opc ∧ mayRun s h c = true)) : runCmd s h opc body = s := by
  unfold runCmd
  rw [hb]
  exact if_neg hn

/-! ### Bits that a command does not use -/

variable {ms : List (Nat × Nat)} {f : Unit → Reply × State}

theorem checked_of_used (hu : unusedBits c ms = none) : checked s c ms f = f () := by
  unfold checked
  rw [hu]

theorem checked_of_unused {i : Nat} (hu : unusedBits c ms = some i) : checked s c ms f = refuse s 0x04 i := by
  unfold checked
  rw [hu]

theorem unusedBits_nil (c : HostCmd) : unusedBits c [] = none := rfl

theorem unusedBits_cons_of_used {i m : Nat} (hw : arg c i &&& m = arg c i) : unusedBits c ((i, m) :: ms) = unusedBits c ms := if_pos hw

theorem unusedBits_single {i m : Nat} (hw : arg c i &&& m = arg c i) : unusedBits c [(i, m)] = none := if_pos hw

theorem and_mask_of_lt {a n : Nat} (h : a < 2 ^ n) : a &&& (2 ^ n - 1) = a := by
  rw [Nat.and_two_pow_sub_one_eq_mod, Nat.mod_eq_of_lt h]

theorem unusedBits_slot (hw : arg c 0 ≤ 1) : unusedBits c [(0, 1)] = none := unusedBits_single (and_mask_of_lt (n := 1) (by omega))

end

end Sys2Proof.Machine
end

section
/-!
THEOREMS. Host commands on tick plans (Plans, R18 to R23, R318).
-/
namespace Sys2Proof.Machine

/-! ### A due switch, and the tick grid -/

theorem tu_planIdx (s : State) (p : Nat) : (planIdx s p).tu = s.tu := by
  unfold planIdx
  dsimp only
  split <;> rfl

theorem tu_capCheck (s : State) (p : Nat) : (capCheck s p).tu = s.tu := by
  unfold capCheck
  dsimp only
  split
  · rfl
  · split
    · exact (away_tu (told_raisePart (told_refl _) _ _ _ _).away :)
    · split
      · exact (away_tu (told_raisePart (told_refl _) _ _ _ _).away :)
      · rfl

theorem tu_settleSwitch (s : State) (p : Nat) : (settleSwitch s p).tu = s.tu := by
  unfold settleSwitch
  dsimp only
  split
  · rfl
  · split
    · rw [tu_capCheck, away_tu (told_raisePart (told_refl _) _ _ _ _).away, tu_planIdx]
      rfl
    · rfl

theorem absTick_of_tu {s t : State} (h : t.tu = s.tu) : absTick t = absTick s := by
  unfold absTick
  rw [h]

theorem ticksTo_of_tu {s t : State} (h : t.tu = s.tu) (l : Nat) : ticksTo t l = ticksTo s l := by
  unfold ticksTo
  rw [absTick_of_tu h]

theorem tickIn_of_tu {s t : State} (h : t.tu = s.tu) (d : Nat) : tickIn t d = tickIn s d := by
  unfold tickIn
  rw [absTick_of_tu h, h]

/-- The next multiple of `l` that is eight or more ticks ahead (R22). -/
theorem ticksTo_spec (s : State) {l : Nat} (hl : 0 < l) : (absTick s + ticksTo s l) % l = 0 ∧ 8 ≤ ticksTo s l ∧ ticksTo s l < 8 + l := by
  unfold ticksTo
  generalize absTick s = a
  have hdiv := Nat.div_add_mod (a + 8 + l - 1) l
  have hmod := Nat.mod_lt (a + 8 + l - 1) hl
  rw [Nat.mul_comm] at hdiv
  generalize hq : (a + 8 + l - 1) / l * l = q at *
  have hsum : a + (q - a) = q := by omega
  refine ⟨?_, by omega, by omega⟩
  rw [hsum, ← hq]
  exact Nat.mul_mod_left _ _

/-! ### The check of a plan -/

theorem headerReason_len {s : State} {ws : List Word} (h : headerReason s ws = 0) :
    fld (lget ws 0 0).toNat 48 16 ≠ 0 ∧ fld (lget ws 0 0).toNat 48 16 ≤ 2560 := by
  unfold headerReason at h
  dsimp only at h
  split at h
  · cases h
  split at h
  · cases h
  split at h
  · cases h
  split at h
  · cases h
  split at h
  · cases h
  split at h
  · cases h
  next hlen => omega

theorem checkPlan_ok {s : State} {p : Nat} {ws : List Word} {pl : Plan} (h : checkPlan s p ws = .ok pl) :
    headerReason s ws = 0 ∧ pl.len = fld (lget ws 0 0).toNat 48 16 ∧ pl.need = planNeed pl.entries ∧ pl.need ≤ fullCapacity s p := by
  unfold checkPlan at h
  split at h
  next hheader =>
    dsimp only at h
    split at h
    · cases h
    · split at h
      · cases h
      next hcap =>
        cases h
        exact ⟨hheader, rfl, rfl, by dsimp only; omega⟩
  · cases h

/-! ### Requests -/

theorem requestSwitch_some {s : State} {p : Nat} {pa pb : Plan} (hrun : (getTick s p).run = true) (hpend : (getTick s p).pend = none)
    (ha : activePlan (getTick s p) = some pa) (hb : standbyPlan (getTick s p) = some pb) : let d := ticksTo s (Nat.lcm pa.len pb.len)
    requestSwitch s p = some (tickIn s d, setTick s p { getTick s p with pend := some { slot := !(getTick s p).active, start := false, atCount := s.tu.count + d, n := tickIn s d } }) := by
  unfold requestSwitch
  dsimp only
  rw [hrun, hpend, ha, hb]

theorem requestSwitch_of_not_run {s : State} {p : Nat} (hrun : (getTick s p).run = false) : requestSwitch s p = none := by
  unfold requestSwitch
  dsimp only
  rw [hrun]

/-- Settles O49: each command's body in its turn, on the state in which a due switch has taken effect. -/
theorem planCommands : Obligations.PlanCommands := by
  unfold Obligations.PlanCommands
  intro h s c
  dsimp only
  have htu : (settleSwitch (served s h) h).tu = s.tu := tu_settleSwitch _ _
  refine ⟨?_, ?_, ?_, ?_, ?_, ?_, ?_, fun l hl => ticksTo_spec s hl, ?_⟩
  · intro ht hslot
    have hbits := unusedBits_slot hslot
    refine ⟨fun hbusy => ?_, fun r i hfree he => ?_, fun pl hfree he => ?_⟩
    · exact congrArg Host.Outcome.next (runCmd_now ht ((checked_of_used hbits).trans (if_pos hbusy)))
    · exact congrArg Host.Outcome.next (runCmd_now ht ((checked_of_used hbits).trans ((if_neg (by rw [argSlot]; simp [hfree])).trans (by rw [he]))))
    · exact congrArg Host.Outcome.next (runCmd_now ht ((checked_of_used hbits).trans ((if_neg (by rw [argSlot]; simp [hfree])).trans (by rw [he]; rfl))))
  · intro pl ht hslot hrun hpend hpl
    refine congrArg Host.Outcome.next (runCmd_now ht ((checked_of_used (unusedBits_slot hslot)).trans ?_))
    dsimp only [argSlot]
    rw [hrun, hpend, hpl]
    dsimp only
    rw [ticksTo_of_tu htu, tickIn_of_tu htu, htu]
    rfl
  · intro pa pb ht hrun hpend ha hb
    refine congrArg Host.Outcome.next (runCmd_now ht ?_)
    dsimp only
    rw [requestSwitch_some hrun hpend ha hb, ticksTo_of_tu htu, tickIn_of_tu htu, htu]
    rfl
  · intro ht hrun
    refine congrArg Host.Outcome.next (runCmd_now ht ?_)
    dsimp only
    rw [requestSwitch_of_not_run hrun]
  · intro ht hrun
    refine congrArg Host.Outcome.next (runCmd_now ht ((if_pos hrun).trans ?_))
    rw [absTick_of_tu htu]
    rfl
  · intro ht hrun hpend
    exact congrArg Host.Outcome.next (runCmd_now ht ((if_neg (by simp [hrun])).trans (if_neg (by simp [hpend]))))
  · intro ht hslot hfree
    exact congrArg Host.Outcome.next (runCmd_now ht ((checked_of_used (unusedBits_slot hslot)).trans (if_neg (by rw [argSlot]; simp [hfree]))))
  · intro p ws pl hok
    obtain ⟨hheader, hlen, hneed, hcap⟩ := checkPlan_ok hok
    obtain ⟨hpos, hmax⟩ := headerReason_len hheader
    exact ⟨hheader, hneed, hcap, by omega, by omega⟩

end Sys2Proof.Machine
end

section
/-!
SUPPORT. What an access to memory leaves of the host ports: all but the event records that it posts (MemOps, HostQ).
-/
namespace Sys2Proof.Machine

/-- A host port without its event records. -/
def portBesides (x : HostPort) : HostPort := { x with evts := [], lostPend := 0 }

/-- The host ports of `s` are those of `A` but for their event records. -/
def PortsKept (A s : State) : Prop := ∀ k, portBesides (getHost s k) = portBesides (getHost A k)

section
variable {A s : State}

theorem portsKept_refl (s : State) : PortsKept s s := fun _ => rfl

theorem portsKept_of_hosts {t : State} (h : PortsKept A s) (e : t.hosts = s.hosts) : PortsKept A t := fun k => by
  rw [← h k]
  unfold getHost
  rw [e]

theorem portsKept_setHost (h : PortsKept A s) {k : Nat} {x : HostPort} (hx : portBesides x = portBesides (getHost s k)) : PortsKept A (setHost s k x) := fun j => by
  rw [getHost_setHost]
  split
  next e => rw [hx, e, h k]
  · exact h j

/-! ### Events -/

theorem portsKept_postHost (h : PortsKept A s) (k : Nat) (e : Evt) : PortsKept A (postHost s k e) := by
  unfold postHost
  dsimp only
  split
  · exact h
  split
  · exact h
  split
  · split
    · exact portsKept_setHost h rfl
    · exact portsKept_of_hosts (portsKept_setHost h (k := k) (x := { getHost s k with lostPend := 1 }) rfl) rfl
  · split
    · exact portsKept_setHost h rfl
    · exact portsKept_of_hosts (portsKept_setHost h (k := k) (x := { getHost s k with lostPend := (getHost s k).lostPend + 1 }) rfl) rfl

theorem hosts_countRefusal (s : State) (p f : Nat) : (countRefusal s p f).hosts = s.hosts := by
  unfold countRefusal
  dsimp only
  split <;> rfl

theorem hosts_enqueue (s : State) (p : Nat) (n : NewItem) : (enqueue s p n).2.1.hosts = s.hosts := by
  unfold enqueue
  dsimp only
  split
  · rfl
  · exact hosts_countRefusal _ _ _

theorem portsKept_toEventFlow (h : PortsKept A s) (p code w2 w3 : Nat) : PortsKept A (toEventFlow s p code w2 w3) := by
  have henq := fun n => portsKept_of_hosts h (hosts_enqueue s p n)
  unfold toEventFlow
  dsimp only
  split
  · exact h
  split
  · split
    next e => exact (congrArg (fun r : Nat × State × Option Item => PortsKept A r.2.1) e).mp (henq _)
    next e => exact portsKept_postHost ((congrArg (fun r : Nat × State × Option Item => PortsKept A r.2.1) e).mp (henq _)) _ _
  · exact h

theorem portsKept_deliver (h : PortsKept A s) (p code w2 w3 : Nat) : PortsKept A (deliver s p code w2 w3) :=
  portsKept_toEventFlow (portsKept_postHost h _ _) _ _ _ _

theorem portsKept_raiseHolders (h : PortsKept A s) (f : Nat → Bool) (code w2 w3 : Nat) : PortsKept A (raiseHolders s f code w2 w3) := by
  have hstep : ∀ (u : State) (p : Nat), PortsKept A u → PortsKept A (if f p then deliver u p code w2 w3 else u) := by
    intro u p hu
    split
    · exact portsKept_deliver hu _ _ _ _
    · exact hu
  exact portsKept_of_hosts (foldl_keeps hstep h _) rfl

/-! ### Words of SRAM -/

theorem hosts_repairRow (s : State) (i w : Nat) : (repairRow s i w).hosts = s.hosts := by
  unfold repairRow
  dsimp only
  split <;> rfl

theorem hosts_correctWord (s : State) (w : Nat) : (correctWord s w).hosts = s.hosts := by
  unfold correctWord
  generalize srOfWord w = i
  generalize srIndex w = n
  dsimp only
  generalize trkNote _ _ _ = r
  obtain ⟨l, hard, ovf⟩ := r
  cases hard
  · cases ovf <;> rfl
  · cases ovf
    · exact hosts_repairRow _ _ _
    · exact hosts_repairRow _ _ _

theorem portsKept_wordUnc (h : PortsKept A s) (w by_ : Nat) : PortsKept A (wordUnc s w by_) := by
  unfold wordUnc
  dsimp only
  refine portsKept_raiseHolders ?_ _ _ _ _
  generalize srOfWord w = i
  exact h

theorem portsKept_readWords (h : PortsKept A s) (l : List Nat) : PortsKept A (readWords s l).2 := by
  induction l generalizing s with
  | nil => exact h
  | cons w r ih =>
    unfold readWords
    split
    · exact ih h
    · split
      · exact ih (portsKept_of_hosts h (hosts_correctWord s w))
      · exact portsKept_wordUnc h _ _

theorem portsKept_writeSram (h : PortsKept A s) (a : Nat) (bs : List Byte) : PortsKept A (writeSram s a bs).2 := by
  have hr := portsKept_readWords h (partWords a bs.length)
  unfold writeSram
  split
  next e => exact portsKept_of_hosts ((congrArg (fun r : Nat × State => PortsKept A r.2) e).mp hr) rfl
  next e => exact (congrArg (fun r : Nat × State => PortsKept A r.2) e).mp hr

/-! ### Pages -/

theorem hosts_showFlips (s : State) (ch page : Nat) : (showFlips s ch page).hosts = s.hosts := by
  unfold showFlips
  dsimp only
  split <;> rfl

theorem hosts_unstage (s : State) (ch : Nat) (e : Staged) : (unstage s ch e).hosts = s.hosts := by
  unfold unstage
  dsimp only
  split
  · rfl
  · exact hosts_showFlips s ch e.page

theorem hosts_stage (s : State) (ch page : Nat) (dirty : Bool) : (stage s ch page dirty).hosts = s.hosts := by
  unfold stage
  dsimp only
  split
  · rfl
  · split
    · exact hosts_unstage _ _ _
    · rfl

theorem hosts_retirePage (s : State) (ch page : Nat) : (retirePage s ch page).hosts = s.hosts := by
  unfold retirePage
  dsimp only
  split <;> rfl

theorem hosts_notePage (s : State) (ch page : Nat) : (notePage s ch page).hosts = s.hosts := by
  unfold notePage
  dsimp only
  generalize trkNote _ _ _ = r
  obtain ⟨l, hard, ovf⟩ := r
  cases hard
  · cases ovf <;> rfl
  · cases ovf
    · exact hosts_retirePage _ _ _
    · exact hosts_retirePage _ _ _

theorem portsKept_pageUnc (h : PortsKept A s) (ch page : Nat) (tag : Bool) : PortsKept A (pageUnc s ch page tag) := by
  unfold pageUnc
  dsimp only
  refine portsKept_raiseHolders (portsKept_of_hosts h ?_) _ _ _ _
  split <;> rfl

theorem portsKept_fetchPage (h : PortsKept A s) (ch page : Nat) (alloc : Bool) : PortsKept A (fetchPage s ch page alloc).2 := by
  unfold fetchPage
  dsimp only
  split
  · exact portsKept_of_hosts h (hosts_stage _ _ _ _)
  · split
    · split
      · exact portsKept_of_hosts h (hosts_stage _ _ _ _)
      · exact h
    · exact portsKept_of_hosts h ((hosts_notePage _ _ _).trans (hosts_stage _ _ _ _))
    · exact h
    · exact portsKept_pageUnc (s := (takeFree (bump s .memStgMiss ch) 1).2) h _ _ _

theorem hosts_upsetPage (s : State) (ch page : Nat) (bits : List Nat) (staged : Bool) : (upsetPage s ch page bits staged).hosts = s.hosts := by
  unfold upsetPage
  dsimp only
  split
  · rfl
  · exact hosts_showFlips _ _ _

theorem hosts_writeWholePage (s : State) (ch page : Nat) (bs : List Byte) : (writeWholePage s ch page bs).hosts = s.hosts :=
  hosts_upsetPage _ ch page _ false

theorem portsKept_writePartPage (h : PortsKept A s) (ch page a : Nat) (bs : List Byte) : PortsKept A (writePartPage s ch page a bs).2 := by
  have hf := portsKept_fetchPage h ch page true
  unfold writePartPage
  split
  next e => exact portsKept_of_hosts ((congrArg (fun r : Nat × State => PortsKept A r.2) e).mp hf) (hosts_stage _ _ _ _)
  next e => exact portsKept_of_hosts ((congrArg (fun r : Nat × State => PortsKept A r.2) e).mp hf) rfl

/-! ### Accesses -/

theorem hosts_noteRefused (s : State) (a st : Nat) : (noteRefused s a st).hosts = s.hosts := by
  unfold noteRefused noteGate
  split
  · split <;> rfl
  · rfl

theorem portsKept_writePiece (h : PortsKept A s) (who : Option Nat) (a : Nat) (bs : List Byte) : PortsKept A (writePiece s who a bs).2 := by
  unfold writePiece
  dsimp only
  split
  · exact portsKept_of_hosts h (hosts_noteRefused _ _ _)
  · split
    · split
      · exact portsKept_of_hosts h (hosts_writeWholePage _ _ _ _)
      · exact portsKept_writePartPage h _ _ _ _
    · exact portsKept_writeSram h _ _

theorem portsKept_writePieces (h : PortsKept A s) (who : Option Nat) (bs : List Byte) (l : List (Nat × Nat)) : PortsKept A (writePieces s who bs l).2.2 := by
  induction l generalizing s bs with
  | nil => exact h
  | cons e r ih =>
    obtain ⟨a, n⟩ := e
    have hw := portsKept_writePiece h who a (bs.take n)
    unfold writePieces
    split
    next e =>
      exact ih ((congrArg (fun r : Nat × State => PortsKept A r.2) e).mp hw) _
    next e => exact (congrArg (fun r : Nat × State => PortsKept A r.2) e).mp hw

theorem portsKept_memWrite (h : PortsKept A s) (who : Option Nat) (a : Nat) (bs : List Byte) : PortsKept A (memWrite s who a bs).2.2 := portsKept_writePieces h _ _ _

theorem portsKept_fillPages (h : PortsKept A s) (k pat a n : Nat) : PortsKept A (fillPages s k pat a n).2.2 := by
  induction n generalizing s a with
  | zero => exact h
  | succ n ih =>
    have hw := portsKept_writePiece h (some k) a (fillBytes pat a 2048)
    unfold fillPages
    split
    next e => exact ih ((congrArg (fun r : Nat × State => PortsKept A r.2) e).mp hw) _
    next e => exact (congrArg (fun r : Nat × State => PortsKept A r.2) e).mp hw

theorem portsKept_partDone (h : PortsKept A s) (k : Nat) (c : HostCmd) : PortsKept A (partDone s k c) := by
  unfold partDone
  dsimp only
  split
  · exact portsKept_memWrite (s := (takeFree s 20).2) h _ _ _
  · split
    · exact portsKept_fillPages (s := (takeFree s 48).2) h _ _ _ _
    · exact h

end

end Sys2Proof.Machine
end

section
/-!
THEOREMS. The host window: apertures, doorbells, ABORT, PERST and the bounds of packets and commands (HostWin, R306 to R320).
-/
namespace Sys2Proof.Machine

/-! ### Packets that are not yet whole -/

theorem parseOne_of_short {s : State} {h : Nat} (hs : (stream (getHost s h)).length < 2) : parseOne s h = none := by
  unfold parseOne
  exact if_pos (by simp [hs])

theorem parseAll_of_short {s : State} {h : Nat} (hs : (stream (getHost s h)).length < 2) : parseAll s h = takeCommitted s h := by
  unfold parseAll parse
  rw [parseOne_of_short hs]

/-- Committed words move to the MC; nothing else of the port changes. -/
theorem getHost_takeCommitted (s : State) (h : Nat) : ∃ a l n, getHost (takeCommitted s h) h = { getHost s h with asm := a, cmd := l, committed := n } := by
  unfold takeCommitted
  dsimp only
  split
  · exact ⟨_, _, _, getHost_setHost_same _ _ _⟩
  · exact ⟨_, _, _, rfl⟩

/-- A begun command whose reply is wanted is answered; with less than a header behind it, the port goes on waiting. -/
theorem getHost_finish {s : State} {h status : Nat} {c b : HostCmd} {pay : List Word} (hb : (getHost s h).begun = some b) (hdrop : b.drop = false)
    (hs : (stream (getHost s h)).length < 2) :
    (getHost (finish s h c status pay) h).begun = none ∧ (getHost (finish s h c status pay) h).rpl = (getHost s h).rpl ++ replyPacket c.opc c.seq status pay := by
  have hport : getHost (pushReply (updHost s h fun x => { x with begun := none }) h c.opc c.seq status pay) h =
      { getHost s h with begun := none, rpl := (getHost s h).rpl ++ replyPacket c.opc c.seq status pay } := by
    unfold pushReply
    rw [getHost_updHost_same, getHost_updHost_same]
  have hfinish : finish s h c status pay = takeCommitted (pushReply (updHost s h fun x => { x with begun := none }) h c.opc c.seq status pay) h := by
    unfold finish
    rw [hb]
    refine Eq.trans ?_ (parseAll_of_short ?_)
    · rw [Option.map_some, Option.getD_some, hdrop]
      rfl
    · rw [hport]
      exact hs
  obtain ⟨a, l, n, htake⟩ := getHost_takeCommitted (pushReply (updHost s h fun x => { x with begun := none }) h c.opc c.seq status pay) h
  rw [hfinish, htake, hport]
  exact ⟨rfl, rfl⟩

/-! ### Apertures -/

section
variable {s : State} {h : Fin 4}

theorem execHostCmdPush_fits (hp : portUp s h = true) {ws : List Word} (hfit : (getHost s h).cmd.length + ws.length ≤ 16384) :
    execHostCmdPush h ws false s = .next (setHost s h { getHost s h with cmd := (getHost s h).cmd ++ ws }) := by
  have hspace : ws.length ≤ cmdSpace (getHost s h) := by
    unfold cmdSpace
    omega
  exact (if_neg (by simp [hp])).trans ((if_neg Bool.false_ne_true).trans (if_pos hspace))

theorem execHostCmdPush_overflows (hp : portUp s h = true) {ws : List Word} (hfull : 16384 < (getHost s h).cmd.length + ws.length) (hcmd : (getHost s h).cmd.length ≤ 16384) :
    execHostCmdPush h ws false s = .next (setHost s h { getHost s h with ovf := true, cmd := [], committed := 0, asm := [], marks := [], flush := true }) := by
  have hspace : ¬ ws.length ≤ cmdSpace (getHost s h) := by
    unfold cmdSpace
    omega
  exact (if_neg (by simp [hp])).trans ((if_neg Bool.false_ne_true).trans (if_neg hspace))

theorem takeWords_of_le {l : List Word} {n : Nat} (hn : n ≤ l.length) : takeWords l n = l.take n := by
  unfold takeWords
  rw [Nat.sub_eq_zero_of_le hn, List.replicate_zero, List.append_nil]

theorem takeWords_of_ge {l : List Word} {n : Nat} (hn : l.length ≤ n) : takeWords l n = l ++ List.replicate (n - l.length) (BitVec.allOnes 64) := by
  unfold takeWords
  rw [List.take_of_length_le hn]
  rfl

theorem execHostRplPop_words (hp : portUp s h = true) (n : Fin 65) : execHostRplPop h n false s = .next (setHost s h { getHost s h with
    rpl := (getHost s h).rpl.drop n, unf := (getHost s h).unf || decide ((getHost s h).rpl.length < n.val), read := takeWords (getHost s h).rpl n }) := by
  unfold execHostRplPop
  rw [hp]
  rfl

theorem execHostEvtPop_words (hp : portUp s h = true) (n : Fin 65) : let x := getHost s h
    execHostEvtPop h n false s = .next (setHost s h { x with
      evts := x.evts.drop ((x.evtPop + min n.val (evtFifo x).length) / 4), eseq := (x.eseq + (x.evtPop + min n.val (evtFifo x).length) / 4) % 2 ^ 32
      evtPop := (x.evtPop + min n.val (evtFifo x).length) % 4, unf := x.unf || decide ((evtFifo x).length < n.val), read := takeWords (evtFifo x) n }) := by
  unfold execHostEvtPop
  rw [hp]
  rfl

/-- The event queue from its first record on. -/
theorem evtFifo_cons {x : HostPort} {e : Evt} {r : List Evt} (he : x.evts = e :: r) (hpop : x.evtPop = 0) : ∃ l, evtFifo x = evtWords e x.eseq ++ l := by
  unfold evtFifo
  rw [he, hpop]
  exact ⟨_, rfl⟩

/-! ### ABORT, PERST and the end of a session -/

theorem getHost_abortHost (s : State) (h k : Nat) : getHost (abortHost s h) k = if k = h then
    { dropReply (flushCmd (getHost s h)) with rpl := [], evts := [], evtPop := 0, session := false } else getHost s k := by
  unfold abortHost
  dsimp only
  rw [getHost_endSession, getHost_updHost_same]
  split
  · rfl
  next hk => rw [getHost_updHost_ne _ _ hk]; rfl

theorem manager_endSession (s : State) (h : Nat) : (endSession s h).mc.manager ≠ some h := by
  unfold endSession
  dsimp only
  split
  · exact fun e => nomatch e
  next hm => exact hm

theorem ctr_endSession (s : State) (h : Nat) : (endSession s h).ctr = s.ctr := by
  unfold endSession
  dsimp only
  split <;> rfl

theorem ctrGet_abortHost (s : State) (h : Nat) : ctrGet (abortHost s h) .hwEvtLost h = min (2 ^ 32 - 1) (ctrGet s .hwEvtLost h + (getHost s h).evts.length) := by
  have hctr : ctrGet (abortHost s h) .hwEvtLost h = ctrGet (bumpBy s .hwEvtLost h (getHost s h).evts.length) .hwEvtLost h :=
    congrArg (fun l : Tab Nat => tget l 0 (ctrKey .hwEvtLost h)) (ctr_endSession _ _)
  rw [hctr, ctrGet_bumpBy_same]
  rfl

/-- Discarding the reply of the begun command changes that command only. -/
theorem dropReply_cases (x : HostPort) : ∃ b c, dropReply x = { x with begun := b, still := c } := by
  unfold dropReply
  split
  · split
    · exact ⟨_, _, rfl⟩
    · exact ⟨_, _, rfl⟩
  · exact ⟨_, _, rfl⟩

/-! ### Bounds -/

theorem execHostPktTimeout_due {s : State} {h : Fin 4} (hmc : mcUp s = true) (hb : (getHost s h).begun = none) (hlen : 2 ≤ (stream (getHost s h)).length)
    (hlate : headAt (getHost s h) + 100000000 ≤ upNs s) : let w0 := (lget (stream (getHost s h)) 0 0).toNat
    execHostPktTimeout h s = .next (pushReply (setHost s h (flushCmd (getHost s h))) h (fld w0 16 16) (fld w0 32 16) 0x01 []) :=
  if_pos (by simp [hmc, hb, hlen, hlate])

theorem execHostPktTimeout_early {s : State} {h : Fin 4} (hlate : upNs s < headAt (getHost s h) + 100000000) : execHostPktTimeout h s = .next s :=
  if_neg (by simp [Nat.not_le.2 hlate])

/-- The state of a command that has run past its bound, before it is answered. -/
def timedOut (s : State) (h : Fin 4) (c : HostCmd) : State :=
  let u := partDone s h c
  let u := { u with doms := u.doms.map fun e => (e.1, forgetHost h e.2) }
  logRec (alertMc (takeFree u 16).2 (.cmdTimeout h c.opc)) (takeFree u 16).1 0 false h c.opc c.seq []

theorem execCmdTimeout_due {s : State} {h : Fin 4} {c : HostCmd} (hb : (getHost s h).begun = some c) (hlate : c.took + cmdBound c < upNs s) :
    execCmdTimeout h s = .next (finish (timedOut s h c) h c 0x0E []) := by
  unfold execCmdTimeout
  rw [hb]
  exact if_neg (by omega)

theorem execCmdTimeout_early {s : State} {h : Fin 4} {c : HostCmd} (hb : (getHost s h).begun = some c) (hlate : upNs s ≤ c.took + cmdBound c) :
    execCmdTimeout h s = .next s := by
  unfold execCmdTimeout
  rw [hb]
  exact if_pos hlate

theorem port_timedOut (s : State) (h : Fin 4) (c : HostCmd) : portBesides (getHost (timedOut s h c) h) = portBesides (getHost s h) :=
  portsKept_partDone (portsKept_refl s) h c h

theorem mem_finish (s : State) (h : Nat) (c : HostCmd) (status : Nat) (pay : List Word) : (finish s h c status pay).mem = s.mem :=
  away_mem (away_finish s h c status pay (away_refl s))

theorem partDone_of_other (s : State) (h : Nat) {c : HostCmd} (hw : c.opc ≠ 0x0300) (hf : c.opc ≠ 0x0302) : partDone s h c = s :=
  (if_neg fun e => hw e.1).trans (if_neg fun e => hf e.1)

theorem partDone_of_memWrite (s : State) (h : Nat) {c : HostCmd} (hw : c.opc = 0x0300) (ha : arg c 0 < 2 ^ 48)
    (ho : ownsRange s h (arg c 0) (bytesOfWords (c.args.drop 1)).length = true) :
    ∃ k, partDone s h c = (memWrite { s with fresh := s.fresh + 1 } (some h) (arg c 0) ((bytesOfWords (c.args.drop 1)).take k)).2.2 :=
  ⟨_, if_pos ⟨hw, by unfold addrMask; omega, ho⟩⟩

end

/-- Settles O45: each access by the branch of its command, ABORT and PERST by the port they leave, the bounds by the packet or command that passed them. -/
theorem windowAccesses : Obligations.WindowAccesses := by
  unfold Obligations.WindowAccesses
  intro h s
  dsimp only
  refine ⟨?_, ?_, ?_, rfl, ?_, ?_, ?_, ?_, ?_, ?_, ?_⟩
  · intro hp ws b n
    have hdown : ∀ a : Res, (if !portUp s h then .next s else a) = .next s := fun a => if_pos (by simp [hp])
    exact ⟨hdown _, hdown _, hdown _, hdown _, fun k => hdown _⟩
  · intro hp
    have hup : ∀ a : Res, (if !portUp s h then .next s else a) = a := fun a => if_neg (by simp [hp])
    refine ⟨fun ws hfit => execHostCmdPush_fits hp hfit, fun ws hfull hcmd => execHostCmdPush_overflows hp hfull hcmd, fun ws => hup _, fun n hn => ?_, fun n hn => ?_,
      fun n => hup _, fun e r he hpop => ?_, fun k hk => ?_, fun k hk => ?_, ?_⟩
    · have hexec := execHostRplPop_words hp n
      rw [decide_eq_false (by omega), Bool.or_false, takeWords_of_le hn] at hexec
      exact hexec
    · refine ⟨_, execHostRplPop_words hp n, ?_⟩
      dsimp only
      rw [getHost_setHost_same]
      refine ⟨List.drop_of_length_le (by omega), ?_, takeWords_of_ge (by omega)⟩
      simp [hn]
    · obtain ⟨l, hl⟩ := evtFifo_cons he hpop
      have hlen : (evtWords e (getHost s h).eseq).length = 4 := rfl
      have hmin : min 4 (evtFifo (getHost s h)).length = 4 := by
        rw [hl, List.length_append, hlen]
        omega
      have hshort : decide ((evtFifo (getHost s h)).length < 4) = false := by
        rw [hl, List.length_append, hlen]
        exact decide_eq_false (by omega)
      have hread : takeWords (evtFifo (getHost s h)) 4 = evtWords e (getHost s h).eseq := by
        rw [takeWords_of_le (by omega), hl, List.take_left' hlen]
      have hexec := execHostEvtPop_words hp 4
      dsimp only at hexec
      rw [show (4 : Fin 65).val = 4 from rfl, hmin, hshort, hread, hpop, he, Bool.or_false] at hexec
      exact hexec
    · exact (hup _).trans ((if_neg Bool.false_ne_true).trans (if_pos hk))
    · exact (hup _).trans ((if_neg Bool.false_ne_true).trans (if_neg hk))
    · refine ⟨abortHost s h, hup _, ?_⟩
      obtain ⟨b, c, hdrop⟩ := dropReply_cases (flushCmd (getHost s h))
      have hport := getHost_abortHost s h h
      rw [if_pos rfl, hdrop] at hport
      exact ⟨congrArg HostPort.cmd hport, congrArg HostPort.rpl hport, congrArg HostPort.evts hport, congrArg HostPort.session hport, congrArg HostPort.flush hport,
        manager_endSession _ _, ctrGet_abortHost s h, fun k hk => (getHost_abortHost s h k).trans (if_neg hk)⟩
  · have hport := getHost_endSession (updHost s h fun x => { dropReply x with
        cmd := [], committed := 0, asm := [], marks := [], rpl := [], evts := [], evtPop := 0, perst := true, pciCmd := 0, bar0 := 0, pciDev := 0x2810 }) h h
    rw [if_pos rfl, getHost_updHost_same] at hport
    exact ⟨_, rfl, congrArg HostPort.perst hport, congrArg HostPort.pciCmd hport, congrArg HostPort.bar0 hport, congrArg HostPort.cmd hport, congrArg HostPort.rpl hport,
      congrArg HostPort.evts hport, congrArg HostPort.session hport, manager_endSession _ _⟩
  · intro hmc hb hlen hlate
    refine ⟨_, execHostPktTimeout_due hmc hb hlen hlate, ?_⟩
    dsimp only
    unfold pushReply
    rw [getHost_updHost_same, getHost_setHost_same]
    exact ⟨rfl, rfl, rfl⟩
  · exact fun hlate => execHostPktTimeout_early hlate
  · exact fun c hb hlate => execCmdTimeout_early hb hlate
  · intro c hb hdrop hlen hlate
    have hport := port_timedOut s h c
    have hbegun := (congrArg HostPort.begun hport :)
    have hstream : (stream (getHost (timedOut s h c) h)).length < 2 := (congrArg (fun x => (stream x).length) hport :).trans_lt hlen
    obtain ⟨hnone, hrpl⟩ := getHost_finish (status := 0x0E) (c := c) (pay := []) (hbegun.trans hb) hdrop hstream
    have hmem : (finish (timedOut s h c) h c 0x0E []).mem = (partDone s h c).mem := mem_finish _ _ _ _ _
    refine ⟨_, execCmdTimeout_due hb hlate, hnone, ?_, fun hw hf => ?_, fun hw ha ho => ?_⟩
    · rw [hrpl]
      exact congrArg (· ++ replyPacket c.opc c.seq 0x0E []) (congrArg HostPort.rpl hport :)
    · rw [hmem, partDone_of_other s h hw hf]
    · obtain ⟨k, hk⟩ := partDone_of_memWrite s h hw ha ho
      exact ⟨k, by rw [hmem, hk]⟩
  · intro a hsession
    refine (if_pos rfl).trans (congrArg Host.Outcome.next (if_neg ?_))
    rw [getHost_updHost_same]
    change (getHost s h).session ≠ true
    rw [hsession]
    exact Bool.false_ne_true
  · intro a hsession
    refine (if_pos rfl).trans (congrArg Host.Outcome.next ((if_pos ?_).trans ?_))
    · rw [getHost_updHost_same]
      exact hsession
    · rw [getHost_updHost_same]
      rfl
  · exact fun a => (if_neg (fun e => nomatch e) : execPartMsgPost .mc h a s = .next (foreign s))

end Sys2Proof.Machine
end

section
/-!
THEOREMS. Packets: what a reply carries, how a packet is checked and taken, and whose command the MC takes next (HostQ, R311 to R319).
-/
namespace Sys2Proof.Machine

/-! ### CRCs -/

theorem crcMsbBit_lt {w poly r : Nat} (hpoly : poly < 2 ^ w) (b : Bool) : crcMsbBit w poly r b < 2 ^ w := by
  unfold crcMsbBit
  dsimp only
  split
  · exact Nat.xor_lt_two_pow (Nat.mod_lt _ (Nat.two_pow_pos w)) hpoly
  · exact Nat.mod_lt _ (Nat.two_pow_pos w)

theorem foldl_lt {f : Nat → Bool → Nat} {m : Nat} (hf : ∀ r b, r < m → f r b < m) (l : List Bool) {r : Nat} (hr : r < m) : l.foldl f r < m := by
  induction l generalizing r with
  | nil => exact hr
  | cons b l ih => exact ih (hf r b hr)

theorem crc16_lt (bs : List Byte) : crc16 bs < 2 ^ 16 := by
  unfold crc16 crcMsb
  exact foldl_lt (fun r b _ => crcMsbBit_lt (by decide) b) _ (by decide)

theorem crcLsbBit_lt {r : Nat} (hr : r < 2 ^ 32) (b : Bool) : crcLsbBit 0xEDB88320 r b < 2 ^ 32 := by
  unfold crcLsbBit
  split
  · exact Nat.xor_lt_two_pow (by omega) (by decide)
  · omega

theorem crc32_lt (bs : List Byte) : crc32 bs < 2 ^ 32 := by
  unfold crc32
  exact Nat.xor_lt_two_pow (foldl_lt (fun r b hr => crcLsbBit_lt hr b) _ (by decide)) (by decide)

/-! ### Replies -/

theorem leBytes_add_high (v m k : Nat) : leBytes (v + m * 256 ^ k) k = leBytes v k := by
  induction k generalizing v with
  | zero => rfl
  | succ k ih =>
    have hsplit : v + m * 256 ^ (k + 1) = v + 256 * (m * 256 ^ k) := by rw [pow_succ]; ring
    have hlow : BitVec.ofNat 8 (v + m * 256 ^ (k + 1)) = BitVec.ofNat 8 v := BitVec.eq_of_toNat_eq (by
      rw [BitVec.toNat_ofNat, BitVec.toNat_ofNat, hsplit]
      omega)
    have hhigh : (v + m * 256 ^ (k + 1)) / 256 = v / 256 + m * 256 ^ k := by rw [hsplit]; omega
    unfold leBytes
    rw [hlow, hhigh, ih]

/-- The first word of a reply packet below its CRC. -/
def replyHead (opc seq status : Nat) : Nat := 1 + status * 2 ^ 8 + opc * 2 ^ 16 + seq * 2 ^ 32

theorem toNat_replyHead {opc seq status : Nat} (ho : opc < 65536) (hs : seq < 65536) (ht : status < 256) (n : Nat) :
    (BitVec.ofNat 64 (replyHead opc seq status + headCrc (replyHead opc seq status) n * 2 ^ 48)).toNat = replyHead opc seq status + headCrc (replyHead opc seq status) n * 2 ^ 48 := by
  have hcrc : headCrc (replyHead opc seq status) n < 2 ^ 16 := crc16_lt _
  have hhead : replyHead opc seq status < 2 ^ 48 := by unfold replyHead; omega
  rw [BitVec.toNat_ofNat]
  exact Nat.mod_eq_of_lt (by omega)

theorem replyPacket_fields {opc seq status : Nat} {pay : List Word} (ho : opc < 65536) (hs : seq < 65536) (ht : status < 256) (hp : pay.length < 2 ^ 17) :
    let w := replyPacket opc seq status pay
    w.length = pay.length + 3 ∧ (w.drop 2).take pay.length = pay ∧ (w.getD 0 0).toNat / 2 ^ 16 % 2 ^ 16 = opc ∧ (w.getD 0 0).toNat / 2 ^ 32 % 2 ^ 16 = seq ∧
    (w.getD 0 0).toNat / 2 ^ 8 % 2 ^ 8 = status ∧ (w.getD 1 0).toNat = pay.length ∧
    (w.getD 0 0).toNat / 2 ^ 48 = crc16 (leBytes (w.getD 0 0).toNat 6 ++ leBytes (w.getD 1 0).toNat 8) ∧
    (w.getD (pay.length + 2) 0).toNat = (if pay = [] then 0 else crc32 (bytesOfWords pay)) + seq * 2 ^ 32 := by
  intro w
  have hpacket : w = BitVec.ofNat 64 (replyHead opc seq status + headCrc (replyHead opc seq status) pay.length * 2 ^ 48) :: BitVec.ofNat 64 pay.length ::
      (pay ++ [BitVec.ofNat 64 ((if pay.length = 0 then 0 else crc32 (bytesOfWords pay)) + seq * 2 ^ 32)]) := rfl
  have hfirst : (w.getD 0 0).toNat = replyHead opc seq status + headCrc (replyHead opc seq status) pay.length * 2 ^ 48 := by
    rw [hpacket]
    exact toNat_replyHead ho hs ht _
  have hsecond : (w.getD 1 0).toNat = pay.length := by
    rw [hpacket]
    exact (BitVec.toNat_ofNat _ _).trans (Nat.mod_eq_of_lt (by omega))
  have hcrc : headCrc (replyHead opc seq status) pay.length < 2 ^ 16 := crc16_lt _
  have hhead : replyHead opc seq status = 1 + status * 2 ^ 8 + opc * 2 ^ 16 + seq * 2 ^ 32 := rfl
  rw [hfirst, hsecond]
  refine ⟨?_, ?_, by omega, by omega, by omega, rfl, ?_, ?_⟩
  · rw [hpacket]
    simp
  · rw [hpacket]
    exact List.take_left
  · have hbytes : leBytes (replyHead opc seq status + headCrc (replyHead opc seq status) pay.length * 2 ^ 48) 6 = leBytes (replyHead opc seq status) 6 := leBytes_add_high _ _ 6
    rw [hbytes]
    have hdiv : (replyHead opc seq status + headCrc (replyHead opc seq status) pay.length * 2 ^ 48) / 2 ^ 48 = headCrc (replyHead opc seq status) pay.length := by omega
    rw [hdiv]
    rfl
  · have htrailer : w.getD (pay.length + 2) 0 = BitVec.ofNat 64 ((if pay.length = 0 then 0 else crc32 (bytesOfWords pay)) + seq * 2 ^ 32) := by
      rw [hpacket]
      simp
    have hpay : crc32 (bytesOfWords pay) < 2 ^ 32 := crc32_lt _
    simp only [htrailer, List.length_eq_zero_iff, BitVec.toNat_ofNat]
    refine Nat.mod_eq_of_lt ?_
    split <;> omega

/-! ### Taking a checked packet -/

section
variable {s : State} {h opc seq : Nat} {args : List Word}

/-- The state in which a packet in sequence is checked: the port expects the next sequence number. -/
def sequenced (s : State) (h opc : Nat) : State := if opc = 1 then s else setHost s h { getHost s h with expSeq := ((getHost s h).expSeq + 1) % 65536 }

theorem sequenced_cases (s : State) (h opc : Nat) : sequenced s h opc = s ∨ ∃ x, sequenced s h opc = setHost s h x := by
  unfold sequenced
  split
  · exact .inl rfl
  · exact .inr ⟨_, rfl⟩

theorem su_sequenced : (sequenced s h opc).su = s.su := by
  obtain e | ⟨x, e⟩ := sequenced_cases s h opc
  · rw [e]
  · rw [e]
    rfl

theorem mc_sequenced : (sequenced s h opc).mc = s.mc := by
  obtain e | ⟨x, e⟩ := sequenced_cases s h opc
  · rw [e]
  · rw [e]
    rfl

theorem getPart_sequenced (p : Nat) : getPart (sequenced s h opc) p = getPart s p := by
  obtain e | ⟨x, e⟩ := sequenced_cases s h opc
  · rw [e]
  · rw [e]
    rfl

theorem upNs_sequenced : upNs (sequenced s h opc) = upNs s := by
  obtain e | ⟨x, e⟩ := sequenced_cases s h opc
  · rw [e]
  · rw [e]
    rfl

theorem takePacket_out_of_sequence (hopc : opc ≠ 1) (hseq : (getHost s h).session = false ∨ seq ≠ (getHost s h).expSeq) :
    takePacket s h opc seq args = pushReply s h opc seq 0x02 [BitVec.ofNat 64 (getHost s h).expSeq] := by
  unfold takePacket
  refine if_pos ?_
  simp only [Bool.and_eq_true, Bool.or_eq_true, bne_iff_ne, Bool.not_eq_true']
  exact ⟨hopc, hseq⟩

/-- The checks that every command shares, on a packet in sequence. -/
theorem takePacket_in_sequence (hin : opc = 1 ∨ ((getHost s h).session = true ∧ seq = (getHost s h).expSeq)) : let u := sequenced s h opc
    takePacket s h opc seq args = match opcodes.find? fun r => r.opc == opc with
      | none => pushReply u h opc seq 0x03 []
      | some r =>
        if args.length < r.lo ∨ r.hi < args.length then pushReply (takeFree u 8).2 h opc seq 0x04 [BitVec.ofNat 64 (takeFree u 8).1]
        else if !u.su.ready && !earlyOpc opc then pushReply u h opc seq 0x0D []
        else if (getPart u h).st = .restarting && !restartOpc opc then pushReply u h opc seq 0x07 []
        else if r.right = .part && (getPart u h).st = .none then pushReply u h opc seq 0x06 []
        else if r.right = .manager && u.mc.manager != some h then pushReply u h opc seq 0x0F []
        else updHost u h fun x => { x with begun := some { opc := opc, seq := seq, args := args, took := upNs u } } := by
  unfold takePacket
  refine if_neg ?_
  simp only [Bool.and_eq_true, Bool.or_eq_true, bne_iff_ne, Bool.not_eq_true']
  rintro ⟨hopc, hseq⟩
  obtain h1 | ⟨hsession, heq⟩ := hin
  · exact hopc h1
  · obtain hno | hne := hseq
    · exact absurd (hno.symm.trans hsession) Bool.false_ne_true
    · exact hne heq

end

/-! ### One packet of the stream -/

section
variable {s : State} {h : Nat}

/-- A header as R311 forms it: its CRC, its type and its rsvd fields. -/
def HeadOk (w0 w1 : Nat) : Prop := w0 / 2 ^ 48 = crc16 (leBytes w0 6 ++ leBytes w1 8) ∧ w0 % 2 ^ 16 = 1 ∧ w1 < 2 ^ 17

theorem headBad_eq_false_iff {w0 w1 : Nat} (h0 : w0 < 2 ^ 64) (h1 : w1 < 2 ^ 64) :
    (fld w0 48 16 != headCrc w0 w1 || fld w0 0 8 != 1 || fld w0 8 8 != 0 || fld w1 17 47 != 0) = false ↔ HeadOk w0 w1 := by
  unfold HeadOk fld headCrc
  simp only [Bool.or_eq_false_iff, bne_eq_false_iff_eq]
  constructor
  · rintro ⟨⟨⟨hcrc, htype⟩, hrsvd⟩, hlen⟩
    refine ⟨?_, by omega, by omega⟩
    rw [← hcrc]
    omega
  · rintro ⟨hcrc, htype, hlen⟩
    refine ⟨⟨⟨?_, by omega⟩, by omega⟩, by omega⟩
    rw [← hcrc]
    omega

theorem trailer_high {tr : Nat} (h : tr < 2 ^ 64) : fld tr 48 16 = tr / 2 ^ 48 := by
  unfold fld
  omega

theorem trailer_low (tr : Nat) : fld tr 0 32 = tr % 2 ^ 32 := by
  unfold fld
  omega

theorem trailer_seq {tr : Nat} (h : tr / 2 ^ 48 = 0) : fld tr 32 16 = tr / 2 ^ 32 := by
  unfold fld
  omega

theorem trailer_split {tr pc seq : Nat} (hpc : pc < 2 ^ 32) (hseq : seq < 2 ^ 16) (h : tr = pc + seq * 2 ^ 32) : tr / 2 ^ 48 = 0 ∧ tr % 2 ^ 32 = pc ∧ fld tr 32 16 = seq := by
  unfold fld
  omega

theorem setHost_setHost (s : State) (k : Nat) (x y : HostPort) : setHost (setHost s k x) k y = setHost s k y := by
  unfold setHost
  dsimp only
  rw [tset_tset_same]

theorem updHost_setHost (s : State) (k : Nat) (x : HostPort) (f : HostPort → HostPort) : updHost (setHost s k x) k f = setHost s k (f x) := by
  unfold updHost
  rw [getHost_setHost_same, setHost_setHost]

/-- The arms of the parse of a packet whose header is committed, while no command is begun. -/
theorem parseOne_of_header (hmc : mcUp s = true) (hb : (getHost s h).begun = none) (hlen : 2 ≤ (stream (getHost s h)).length) :
    let x := getHost s h
    let l := stream x
    let w0 := (l.getD 0 0).toNat
    let w1 := (l.getD 1 0).toNat
    let n := fld w1 0 17
    let tr := (l.getD (n + 2) 0).toNat
    let args := (l.drop 2).take n
    let u := setHost s h (eatWords x (n + 3))
    let pc := if n = 0 then 0 else crc32 (bytesOfWords args)
    parseOne s h =
      if fld w0 48 16 != headCrc w0 w1 || fld w0 0 8 != 1 || fld w0 8 8 != 0 || fld w1 17 47 != 0 then
        some (pushReply (setHost s h (flushCmd x)) h (fld w0 16 16) (fld w0 32 16) 0x01 [])
      else if l.length < n + 3 then none
      else if fld tr 48 16 != 0 then some (pushReply (updHost u h flushCmd) h (fld w0 16 16) (fld w0 32 16) 0x01 [])
      else if fld tr 0 32 != pc || fld tr 32 16 != fld w0 32 16 then some (pushReply u h (fld w0 16 16) (fld w0 32 16) 0x01 [])
      else some (takePacket u h (fld w0 16 16) (fld w0 32 16) args) := by
  unfold parseOne
  exact if_neg (by simp [hmc, hb]; omega)

end

/-! ### Turns -/

theorem shortRun_eq_none_iff {s : State} : shortRun s = none ↔ ∀ k c, k < 4 → (getHost s k).begun = some c → longOpc c.opc = false → c.running = false := by
  unfold shortRun
  rw [List.find?_eq_none]
  constructor
  · intro hnone k c hk hb hshort
    have hc := hnone c (List.mem_filterMap.2 ⟨k, mem_upFrom.2 (by omega), hb⟩)
    simpa [hshort] using hc
  · intro hall c hc hrun
    obtain ⟨k, hk, hb⟩ := List.mem_filterMap.1 hc
    simp only [Bool.and_eq_true, Bool.not_eq_true'] at hrun
    obtain ⟨hrunning, hshort⟩ := hrun
    rw [hall k c (by have := mem_upFrom.1 hk; omega) hb hshort] at hrunning
    cases hrunning

theorem mcTurn_some {s : State} {i : Nat} (hi : mcTurn s = some i) :
    mcUp s = true ∧ i < 4 ∧ (∃ c, (getHost s i).begun = some c ∧ longOpc c.opc = false) ∧ shortRun s = none := by
  unfold mcTurn at hi
  split at hi
  · cases hi
  next hfree =>
    simp only [not_or, Bool.not_eq_true, Bool.not_eq_false', Option.isSome_eq_false_iff, Option.isNone_iff_eq_none] at hfree
    obtain ⟨hmc, hshort⟩ := hfree
    have hfound := List.find?_some hi
    obtain ⟨j, -, hj⟩ := List.mem_map.1 (List.mem_of_find?_eq_some hi)
    refine ⟨hmc, by omega, ?_, hshort⟩
    cases hb : (getHost s i).begun with
    | none =>
      rw [hb] at hfound
      cases hfound
    | some c =>
      rw [hb] at hfound
      exact ⟨c, rfl, by simpa using hfound⟩

theorem mayRun_long {s : State} {h : Nat} {c : HostCmd} (hl : longOpc c.opc = true) (hmc : mcUp s = true) (hshort : shortRun s = none) : mayRun s h c = true := by
  unfold mayRun
  rw [if_pos hl, hmc, hshort]
  rfl

/-- Settles O46: the checks in the order of their branches, the packet's fields from its words, the turns from the round-robin search. -/
theorem packetsAreChecked : Obligations.PacketsAreChecked := by
  unfold Obligations.PacketsAreChecked
  refine ⟨fun s h opc seq args => ⟨fun hopc hseq => takePacket_out_of_sequence hopc hseq, fun hin => ?_⟩, fun opc seq status pay ho hs ht hp => replyPacket_fields ho hs ht hp,
    fun s h => ?_, fun s i hi => ?_, fun s h c hl hmc hshort => mayRun_long hl hmc (shortRun_eq_none_iff.2 hshort)⟩
  · have htake := takePacket_in_sequence (args := args) hin
    have hsu : (sequenced s h opc).su = s.su := su_sequenced
    have hmc : (sequenced s h opc).mc = s.mc := mc_sequenced
    have hpart : getPart (sequenced s h opc) h = getPart s h := getPart_sequenced h
    have hnow : upNs (sequenced s h opc) = upNs s := upNs_sequenced
    dsimp only at htake
    rw [hsu, hmc, hpart, hnow] at htake
    refine ⟨fun hnone => ?_, fun r hr => ?_⟩
    · rw [hnone] at htake
      exact htake
    · rw [hr] at htake
      refine ⟨fun hbad => ⟨_, htake.trans (if_pos hbad)⟩, fun hlo hhi => ?_⟩
      have hfit := htake.trans (if_neg (by omega))
      refine ⟨fun hdown hlate => hfit.trans (if_pos (by simp [hdown, hlate])), fun hready hst hlate => ?_, fun hready hst hright => ?_, fun hready hst hright hman => ?_, fun hready hst hright => ?_⟩
      all_goals have hup := hfit.trans (if_neg (by simp [hready]))
      · exact hup.trans (if_pos (by simp [hst, hlate]))
      · exact hup.trans ((if_neg (by simp [hst])).trans (if_pos (by simp [hst, hright])))
      · exact hup.trans ((if_neg (by simp [hst])).trans ((if_neg (by simp [hright])).trans (if_pos (by simp [hright, hman]))))
      · exact hup.trans ((if_neg (by simp [hst])).trans ((if_neg (by simp [hst])).trans (if_neg (by simp [hright]))))
  · dsimp only
    intro hmc hb hlen
    have hparse := parseOne_of_header hmc hb hlen
    dsimp only at hparse
    rw [updHost_setHost] at hparse
    have h0 : ((stream (getHost s h)).getD 0 0).toNat < 2 ^ 64 := BitVec.isLt _
    have h1 : ((stream (getHost s h)).getD 1 0).toNat < 2 ^ 64 := BitVec.isLt _
    have hgood := fun hg : HeadOk ((stream (getHost s h)).getD 0 0).toNat ((stream (getHost s h)).getD 1 0).toNat =>
      hparse.trans (if_neg (by rw [(headBad_eq_false_iff h0 h1).2 hg]; exact Bool.false_ne_true))
    have hfld : fld ((stream (getHost s h)).getD 1 0).toNat 0 17 = ((stream (getHost s h)).getD 1 0).toNat % 2 ^ 17 := by simp [fld]
    rw [hfld] at hgood
    have htr : ((stream (getHost s h)).getD (((stream (getHost s h)).getD 1 0).toNat % 2 ^ 17 + 2) 0).toNat < 2 ^ 64 := BitVec.isLt _
    refine ⟨fun hbad => hparse.trans (if_pos ?_), fun hg hshort => (hgood hg).trans (if_pos hshort), fun hg hwhole => ?_⟩
    · refine (Bool.eq_false_or_eq_true _).resolve_right fun hfalse => hbad ((headBad_eq_false_iff h0 h1).1 hfalse)
    · have hcommitted := (hgood hg).trans (if_neg (by omega))
      generalize ((stream (getHost s h)).getD (((stream (getHost s h)).getD 1 0).toNat % 2 ^ 17 + 2) 0).toNat = tr at htr hcommitted ⊢
      rw [trailer_high htr] at hcommitted
      refine ⟨fun hrsvd => hcommitted.trans (if_pos (bne_iff_ne.2 hrsvd)), fun hrsvd hbad => ?_, fun htail => ?_⟩
      · refine hcommitted.trans ((if_neg (by rw [hrsvd]; decide)).trans (if_pos ?_))
        rw [trailer_low, trailer_seq hrsvd, Bool.or_eq_true, bne_iff_ne, bne_iff_ne]
        exact hbad
      · obtain ⟨hrsvd, hpc, hseq⟩ := trailer_split (by split; exacts [by decide, crc32_lt _]) (Nat.mod_lt _ (by decide)) htail
        refine hcommitted.trans ((if_neg (by rw [hrsvd]; decide)).trans (if_neg ?_))
        rw [trailer_low, hpc, hseq]
        simp [fld]
  · obtain ⟨hmc, hlt, hbegun, hshort⟩ := mcTurn_some hi
    exact ⟨hmc, hlt, hbegun, shortRun_eq_none_iff.1 hshort⟩

end Sys2Proof.Machine
end

section
/-!
THEOREMS. Received frames: their checks, MACsec's verdict and their flow (Backhaul, R283 to R291).
-/
namespace Sys2Proof.Machine

/-! ### The checks of a frame -/

section
variable {s : State} {n : Fin 4} {bytes : List Byte} {fifoFull : Bool}

theorem execBhFrameRx_dead (hlive : bpLive s n = false) : execBhFrameRx n bytes fifoFull s = .next s := if_pos (by simp [hlive])

theorem execBhFrameRx_bad (hlive : bpLive s n = true) (hbad : bytes.length < 64 ∨ 9216 < bytes.length ∨ bytes.drop (bytes.length - 4) ≠ fcsOf (bytes.take (bytes.length - 4))) :
    execBhFrameRx n bytes fifoFull s = .next (bump s .bhRxErr n) := (if_neg (by simp [hlive])).trans (if_pos hbad)

/-- A frame of a good length and FCS, after it has been counted. -/
theorem execBhFrameRx_good (hlive : bpLive s n = true) (hlo : 64 ≤ bytes.length) (hhi : bytes.length ≤ 9216)
    (hfcs : bytes.drop (bytes.length - 4) = fcsOf (bytes.take (bytes.length - 4))) : let body := bytes.take (bytes.length - 4)
    let r := bump s .bhRxFrm n
    execBhFrameRx n bytes fifoFull s =
      if (etherParse body).1 = 0x8808 then .next (bump r .bhRxCtl n)
      else if fifoFull then .next (bump r .bhRxFifo n)
      else match macsecRx r n body with
        | (some b, u) => .next (bhDeliver u n b ((nsCounter s + 2 ^ 32 - latRx s n) % 2 ^ 32))
        | (none, u) => .next u :=
  (if_neg (by simp [hlive])).trans (if_neg fun hbad => by
    obtain h | h | h := hbad
    · omega
    · omega
    · exact h hfcs)

end

/-! ### MACsec -/

theorem eq_mk_of_fst {α β : Type} {p : α × β} {a : α} (h : p.1 = a) : p = (a, p.2) := by
  rw [← h]

section
variable {s : State} {n : Nat} {bs : List Byte} {t : SecTag} {a : Sa}

theorem macsecRx_off (hen : (getBp s n).msEn = false) : macsecRx s n bs = (some bs, s) := if_pos (by simp [hen])

theorem macsecRx_untagged (hen : (getBp s n).msEn = true) (htag : secTag bs = none) (hclear : inClear (getBp s n) (etherParse bs).1 = false) :
    macsecRx s n bs = (if (getBp s n).validate == 2 then none else some bs, bump s .msRxUntagged n) := by
  unfold macsecRx
  dsimp only
  rw [hen, htag, hclear]
  rfl

theorem macsecRx_no_sa (hen : (getBp s n).msEn = true) (htag : secTag bs = some t) (hsa : rxSa (getBp s n) t = none) :
    macsecRx s n bs = (if (getBp s n).validate == 2 then none else some bs, bump s .msRxNosa n) := by
  unfold macsecRx
  dsimp only
  rw [hen, htag]
  dsimp only
  rw [hsa]
  rfl

/-- A frame with an SA, by the check of its ICV and its PN. -/
theorem macsecRx_sa (hen : (getBp s n).msEn = true) (htag : secTag bs = some t) (hsa : rxSa (getBp s n) t = some a) {icvOk : Bool} {user : List Byte}
    (hopen : openFrame (getBp s n) a t bs = (icvOk, user)) : let x := getBp s n
    macsecRx s n bs =
      if !icvOk then
        if t.conf then (if x.validate == 0 then some user else none, bump s .msRxInvalid n)
        else (if x.validate == 2 then none else some user, bump s .msRxNotvalid n)
      else if x.replay && fullPn a.pn t.pn < a.pn then (if x.validate == 0 then some user else none, bump s .msRxLate n)
      else (some user, bump (setBp s n { x with sas := x.sas.map fun y => if y == a then { a with pn := max a.pn (fullPn a.pn t.pn + 1 - x.window) } else y }) .msRxOk n) := by
  unfold macsecRx
  dsimp only
  rw [hen, htag]
  dsimp only
  rw [hsa]
  dsimp only
  rw [hopen]
  rfl

theorem macsecRx_bad_icv (hen : (getBp s n).msEn = true) (htag : secTag bs = some t) (hsa : rxSa (getBp s n) t = some a) (hstrict : (getBp s n).validate = 2)
    (hicv : (openFrame (getBp s n) a t bs).1 = false) : (macsecRx s n bs).1 = none := by
  rw [macsecRx_sa hen htag hsa (eq_mk_of_fst hicv), hstrict]
  cases t.conf <;> rfl

theorem macsecRx_late (hen : (getBp s n).msEn = true) (htag : secTag bs = some t) (hsa : rxSa (getBp s n) t = some a)
    (hicv : (openFrame (getBp s n) a t bs).1 = true) (hreplay : (getBp s n).replay = true) (hpn : fullPn a.pn t.pn < a.pn) (hval : (getBp s n).validate ≠ 0) :
    macsecRx s n bs = (none, bump s .msRxLate n) := by
  refine (macsecRx_sa hen htag hsa (eq_mk_of_fst hicv)).trans ((if_neg Bool.false_ne_true).trans ((if_pos ?_).trans ?_))
  · simp [hreplay, hpn]
  · rw [if_neg (by simpa using hval)]

theorem macsecRx_ok (hen : (getBp s n).msEn = true) (htag : secTag bs = some t) (hsa : rxSa (getBp s n) t = some a)
    (hicv : (openFrame (getBp s n) a t bs).1 = true) (hpn : a.pn ≤ fullPn a.pn t.pn) : (macsecRx s n bs).1 = some (openFrame (getBp s n) a t bs).2 ∧
      ctrGet (macsecRx s n bs).2 .msRxOk n = min (2 ^ 32 - 1) (ctrGet s .msRxOk n + 1) := by
  have hok := (macsecRx_sa hen htag hsa (eq_mk_of_fst hicv)).trans ((if_neg Bool.false_ne_true).trans (if_neg (by simp [Nat.not_lt.2 hpn])))
  rw [hok]
  exact ⟨rfl, ctrGet_bump_same _ _ _⟩

end

/-! ### Classification -/

section
variable {x : BhPort} {etype : Nat} {tag : Option Nat}

theorem classify_of_rule {e : Nat × Nat} (h : x.rules.find? (fun e => ruleHit e.2 etype tag) = some e) :
    classify x etype tag = some (fld e.2 41 18, if bit e.2 40 then some (fld e.2 36 4) else none) := by
  unfold classify
  rw [h]

theorem classify_of_no_rule (h : x.rules.find? (fun e => ruleHit e.2 etype tag) = none) : classify x etype tag = if x.defEn then some (x.defFlow, none) else none := by
  unfold classify
  rw [h]

end

/-- Settles O43: the frame's checks in order, MACsec's verdict by tag, SA, ICV and PN, and the flow by the first rule that matches. -/
theorem framesAreReceived : Obligations.FramesAreReceived := by
  unfold Obligations.FramesAreReceived
  refine ⟨fun n bytes fifoFull s => ⟨execBhFrameRx_dead, execBhFrameRx_bad, fun hlive hlo hhi hfcs => ?_⟩, fun s n bs => ⟨macsecRx_off, fun hen hval htag hclear => ?_, fun t hen htag hval hsa => ?_, fun t a hen htag hsa => ?_⟩,
    fun x etype tag => ⟨fun e he => classify_of_rule he, fun hno hdef => ?_, fun hno hdef => ?_⟩⟩
  · have hgood := execBhFrameRx_good (fifoFull := fifoFull) hlive hlo hhi hfcs
    dsimp only at hgood ⊢
    refine ⟨fun hctl => hgood.trans (if_pos hctl), fun hctl hfull => hgood.trans ((if_neg hctl).trans (if_pos hfull)), fun hctl hroom => ?_⟩
    have hsec := hgood.trans ((if_neg hctl).trans (if_neg (by simp [hroom])))
    refine ⟨fun b u hb => ?_, fun u hb => ?_⟩
    · rw [hb] at hsec
      exact hsec
    · rw [hb] at hsec
      exact hsec
  · rw [macsecRx_untagged hen htag hclear, hval]
    rfl
  · rw [macsecRx_no_sa hen htag hsa, hval]
    rfl
  · exact ⟨fun hval hicv => macsecRx_bad_icv hen htag hsa hval hicv, fun hicv hreplay hpn hval => macsecRx_late hen htag hsa hicv hreplay hpn hval,
      fun hicv hpn => macsecRx_ok hen htag hsa hicv hpn⟩
  · rw [classify_of_no_rule hno, if_pos hdef]
  · rw [classify_of_no_rule hno, hdef]
    rfl

end Sys2Proof.Machine
end

section
/-!
THEOREMS. Start-up in its stages (Startup, R327 to R341).
-/
namespace Sys2Proof.Machine

/-! ### Time, and the progress of start-up -/

theorem stageMs_spec (s : State) (n : Nat) : n ≤ stageMs s n ∧ upNs s ≤ s.su.began + 1000000 * stageMs s n := by
  unfold stageMs
  omega

theorem upNs_timeTo {s : State} (h : s.stepped ≤ s.now) (a : Nat) : s.now ≤ (timeTo s a).now ∧ upNs (timeTo s a) = max a (upNs s) := by
  unfold upNs timeTo
  dsimp only
  unfold upNs
  omega

theorem su_beginStage (s : State) (n : Nat) : (beginStage s n).su = { s.su with stage := n, step := 0, began := upNs s } := updSu_su _ _

theorem updSu_eq (s : State) (f : Su → Su) : ∃ l, updSu s f = { s with su := f s.su, pins := { s.pins with uart := l } } := by
  unfold updSu
  dsimp only
  split
  · exact ⟨_, rfl⟩
  · exact ⟨s.pins.uart, rfl⟩

/-- `p` is a part of the state that a change of the start-up unit leaves alone. -/
theorem proj_updSu {α : Type} (p : State → α) (hp : ∀ (u : State) x l, p { u with su := x, pins := { u.pins with uart := l } } = p u) (s : State) (f : Su → Su) : p (updSu s f) = p s := by
  obtain ⟨l, h⟩ := updSu_eq s f
  rw [h]
  exact hp s _ l

/-! ### Start-up stops -/

theorem told_logReport (s : State) (sev : Nat) (l : List (Nat × Nat)) (n : Nat) : Told s (logReport s sev l n) ∧
    (logReport s sev l n).flt.sev = (if n = 0 then s.flt.sev else max s.flt.sev sev) ∧ (s.flt.faultN = false → (logReport s sev l n).flt.faultN = false) := by
  induction n generalizing s l with
  | zero => exact ⟨told_refl s, rfl, fun h => h⟩
  | succ n ih =>
    have hlog := told_logRec (told_refl s) 0x0B10 sev true 0 (progress s.su) s.su.report.length (reportConts (l.take 54))
    have hfault : s.flt.faultN = false → (logRec s 0x0B10 sev true 0 (progress s.su) s.su.report.length (reportConts (l.take 54))).flt.faultN = false := by
      intro h
      change (s.flt.faultN && decide (sev < 2)) = false
      rw [h, Bool.false_and]
    unfold logReport
    dsimp only
    split
    · exact ⟨hlog, rfl, hfault⟩
    · obtain ⟨htold, hsev, hfaultN⟩ := ih (logRec s 0x0B10 sev true 0 (progress s.su) s.su.report.length (reportConts (l.take 54))) (l.drop 54)
      refine ⟨hlog.trans htold, ?_, fun h => hfaultN (hfault h)⟩
      rw [hsev, if_neg (Nat.succ_ne_zero n)]
      change (if n = 0 then max s.flt.sev sev else max (max s.flt.sev sev) sev) = max s.flt.sev sev
      split
      · rfl
      · omega

theorem su_report (s : State) : (report s).su = s.su := away_su (told_logReport _ _ _ _).1.away

/-- The start-up unit after a stop with `code`. -/
def suStopped (x : Su) (code : Nat) : Su := { x with fail := some code, stopped := true, recovery := code == 0x40 || code == 0x01 && x.stage == 4 }

/-- The state of a stop before the rails fall and the report is written. -/
def failed (s : State) (code : Nat) : State :=
  let u := updSu s fun x => suStopped x code
  { u with flt := { u.flt with sev := 3, faultN := false } }

theorem su_failed (s : State) (code : Nat) : (failed s code).su = suStopped s.su code := updSu_su _ _

/-- The first `n` domains without power. -/
def domsOff (s : State) (n : Nat) : State := (upFrom 0 n).foldl (fun s d => updDom s d fun x => { x with state := .s3 }) s

theorem domsOff_eq (s : State) (n : Nat) : { domsOff s n with doms := s.doms } = s :=
  foldl_keeps (P := fun u => { u with doms := s.doms } = s) (g := fun s d => updDom s d fun x => { x with state := .s3 }) (fun _ _ h => h) rfl _

theorem su_domsOff (s : State) (n : Nat) : (domsOff s n).su = s.su := (congrArg State.su (domsOff_eq s n) :)
theorem flt_domsOff (s : State) (n : Nat) : (domsOff s n).flt = s.flt := (congrArg State.flt (domsOff_eq s n) :)

theorem stopStartup_eq (s : State) (code : Nat) :
    stopStartup s code = if (failed s code).su.stage < 4 then domsOff (failed s code) 24 else report (domsOff (failed s code) 18) := rfl

theorem su_stopStartup (s : State) (code : Nat) : (stopStartup s code).su = suStopped s.su code := by
  rw [stopStartup_eq]
  split
  · rw [su_domsOff, su_failed]
  · rw [su_report, su_domsOff, su_failed]

theorem flt_report_of_fail {s : State} (hfail : s.su.fail.isSome = true) (hsev : s.flt.sev = 3) (hfault : s.flt.faultN = false) :
    (report s).flt.sev = 3 ∧ (report s).flt.faultN = false := by
  unfold report
  rw [if_pos hfail]
  obtain ⟨-, hsev', hfault'⟩ := told_logReport s 3 s.su.report (s.su.report.length + 1)
  refine ⟨?_, hfault' hfault⟩
  rw [hsev', if_neg (Nat.succ_ne_zero _), hsev]
  rfl

theorem flt_stopStartup (s : State) (code : Nat) : (stopStartup s code).flt.sev = 3 ∧ (stopStartup s code).flt.faultN = false := by
  rw [stopStartup_eq]
  split
  · rw [flt_domsOff]
    exact ⟨rfl, rfl⟩
  · refine flt_report_of_fail ?_ ?_ ?_
    · rw [su_domsOff, su_failed]
      rfl
    · rw [flt_domsOff]
      rfl
    · rw [flt_domsOff]
      rfl

/-! ### Images and the fallback -/

theorem su_fallBack (s : State) : (fallBack s).su = if s.su.fallback then s.su else
    { s.su with fallback := true, step := 1, deg := true, report := s.su.report ++ [(0xA1, b2n (!s.su.sel))] } := by
  unfold fallBack
  split
  · rfl
  · exact updSu_su _ _

theorem fallBack_of_fallback {s : State} (h : s.su.fallback = true) : fallBack s = s := if_pos h

theorem fallback_fallBack (s : State) : (fallBack s).su.fallback = true := by
  rw [su_fallBack]
  split
  next h => exact h
  · rfl

/-- The image slots, the selection, RBC and the watchdog's marks are those of `s`. -/
def ImagesAs (s t : State) : Prop := t.su.slots = s.su.slots ∧ t.su.sel = s.su.sel ∧ t.su.rbc = s.su.rbc ∧ t.su.wd = s.su.wd

theorem imagesAs_fallBack (s : State) : ImagesAs s (fallBack s) := by
  unfold ImagesAs
  rw [su_fallBack]
  split <;> exact ⟨rfl, rfl, rfl, rfl⟩

theorem imagesAs_stopStartup (s : State) (code : Nat) : ImagesAs s (stopStartup s code) := by
  unfold ImagesAs
  rw [su_stopStartup]
  exact ⟨rfl, rfl, rfl, rfl⟩

section
variable {s t : State}

theorem getSlot_of_imagesAs (h : ImagesAs s t) (b : Bool) : getSlot t b = getSlot s b := congrArg (fun l : Tab Slot => tget l {} (b2n b)) h.1

theorem imgVersion_of_imagesAs (h : ImagesAs s t) (b : Bool) : imgVersion t b = imgVersion s b := by
  unfold imgVersion hdrWord
  rw [getSlot_of_imagesAs h]

theorem imgValid_of_imagesAs (h : ImagesAs s t) (b : Bool) (f : ImgFact) : imgValid t b f = imgValid s b f := by
  obtain ⟨_, _, hrbc, _⟩ := id h
  unfold imgValid imgRbc hdrOk bodyCrc hdrWord
  rw [getSlot_of_imagesAs h, hrbc]

theorem nextSlot_of_imagesAs (h : ImagesAs s t) (a b : ImgFact) : nextSlot t a b = nextSlot s a b := by
  obtain ⟨_, hsel, _, hwd⟩ := id h
  unfold nextSlot
  simp only [imgValid_of_imagesAs h, hsel, hwd]

end

end Sys2Proof.Machine
end

section
/-!
THEOREMS. What each stage of start-up finds, and the commands that end a stage (Startup, R327 to R340).
-/
namespace Sys2Proof.Machine

/-! ### A stage ends -/

section
variable {s u : State} {ms : BitVec 12} {f : StageFind}

/-- The time at which a stage that takes `k` milliseconds ends. -/
def stageEnd (s : State) (k : Nat) : State := timeTo s (s.su.began + 1000000 * k)

/-- The next stage begins, unless start-up has stopped or is over. -/
def stageNext (u : State) (n : Nat) : State :=
  if u.su.fail.isSome || u.su.ready || u.th.trip then u else if n = 4 then beginStage (trainLinks u) 5 else beginStage u (n + 1)

theorem execStartupStageDone_none (hb : stageBody (stageEnd s (stageMs s ms.toNat)) f = none) : execStartupStageDone ms f s = .next s := by
  unfold execStartupStageDone
  split
  · rfl
  · change (match stageBody (stageEnd s (stageMs s ms.toNat)) f with | none => _ | some s' => _) = _
    rw [hb]

theorem execStartupStageDone_some (hs : Starting s) (hb : stageBody (stageEnd s (stageMs s ms.toNat)) f = some u) : let k := stageMs s ms.toNat
    execStartupStageDone ms f s = if s.su.stage = 1 ∧ k < 10 then .next s
      else if stageBound s.su.stage < k then .next (stopStartup (stageEnd s (stageBound s.su.stage)) 0x01)
      else .next (stageNext { u with su := { u.su with ms := tset u.su.ms s.su.stage k } } s.su.stage) := by
  obtain ⟨hready, hfail, hhold, hvin, htrip, hstop⟩ := hs
  unfold execStartupStageDone
  rw [if_neg (by simp [hready, hfail, hhold, hvin, htrip, hstop])]
  change (match stageBody (stageEnd s (stageMs s ms.toNat)) f with | none => _ | some s' => _) = _
  rw [hb]
  rfl

theorem execStartupStageDone_short (hs : s.su.stage = 1) (hk : stageMs s ms.toNat < 10) : execStartupStageDone ms f s = .next s := by
  unfold execStartupStageDone
  split
  · rfl
  · dsimp only
    split
    · rfl
    · exact if_pos ⟨hs, hk⟩

/-- A stage within its bound ends with what it found. -/
theorem execStartupStageDone_in_time (hs : Starting s) (hb : stageBody (stageEnd s (stageMs s ms.toNat)) f = some u) (hk : stageMs s ms.toNat ≤ stageBound s.su.stage)
    (h10 : s.su.stage = 1 → 10 ≤ stageMs s ms.toNat) :
    execStartupStageDone ms f s = .next (stageNext { u with su := { u.su with ms := tset u.su.ms s.su.stage (stageMs s ms.toNat) } } s.su.stage) :=
  (execStartupStageDone_some hs hb).trans ((if_neg (by omega)).trans (if_neg (by omega)))

theorem execStartupStageDone_late (hs : Starting s) (hb : stageBody (stageEnd s (stageMs s ms.toNat)) f = some u) (hk : stageBound s.su.stage < stageMs s ms.toNat)
    (h10 : s.su.stage = 1 → 10 ≤ stageMs s ms.toNat) : execStartupStageDone ms f s = .next (stopStartup (stageEnd s (stageBound s.su.stage)) 0x01) :=
  (execStartupStageDone_some hs hb).trans ((if_neg (by omega)).trans (if_pos hk))

theorem stageNext_of_over {n : Nat} (h : u.su.fail.isSome = true ∨ u.su.ready = true) : stageNext u n = u := by
  refine if_pos ?_
  obtain h | h := h <;> simp [h]

/-- Training the links changes the fabric only. -/
theorem trainLinks_eq (s : State) : ∃ x, trainLinks s = { s with noc := x } := by
  refine foldl_keeps (P := fun u => ∃ x, u = { s with noc := x }) ?_ ⟨s.noc, rfl⟩ _
  rintro u d ⟨x, rfl⟩
  exact ⟨_, rfl⟩

/-- What the next stage begins with. -/
theorem stageNext_of_going {n : Nat} (hfail : u.su.fail = none) (hready : u.su.ready = false) (htrip : u.th.trip = false) : let t := stageNext u n
    t.su = { u.su with stage := n + 1, step := 0, began := upNs u } ∧ t.pending = u.pending ∧ t.mem = u.mem ∧ t.cores = u.cores := by
  have hgo : stageNext u n = if n = 4 then beginStage (trainLinks u) 5 else beginStage u (n + 1) := if_neg (by simp [hfail, hready, htrip])
  have hbegin : ∀ (v : State) (k : Nat), (beginStage v k).su = { v.su with stage := k, step := 0, began := upNs v } ∧ (beginStage v k).pending = v.pending ∧ (beginStage v k).mem = v.mem ∧ (beginStage v k).cores = v.cores :=
    fun v k => ⟨su_beginStage v k, proj_updSu State.pending (fun _ _ _ => rfl) v _, proj_updSu State.mem (fun _ _ _ => rfl) v _, proj_updSu State.cores (fun _ _ _ => rfl) v _⟩
  dsimp only
  rw [hgo]
  split
  next hn =>
    obtain ⟨x, hlinks⟩ := trainLinks_eq u
    rw [hlinks, hn]
    exact hbegin _ 5
  · exact hbegin u (n + 1)

end

/-! ### Findings -/

section
variable {s : State}

/-- A start-up image chosen by the ROM. -/
theorem su_bootStage {a b : ImgFact} {x : Bool} (hx : nextSlot s a b = some x) : ∃ r, (bootStage s a b).su =
    { (if x != s.su.sel then fallBack s else s).su with slot := x, fw := imgVersion s x, runRbc := r } := by
  have himg : ImagesAs s (if x != s.su.sel then fallBack s else s) := by
    split
    · exact imagesAs_fallBack s
    · exact ⟨rfl, rfl, rfl, rfl⟩
  unfold bootStage
  rw [hx]
  dsimp only
  rw [updSu_su, imgVersion_of_imagesAs himg]
  exact ⟨_, rfl⟩

theorem bootStage_none {a b : ImgFact} (hx : nextSlot s a b = none) : bootStage s a b = stopStartup (fallBack s) 0x40 := by
  unfold bootStage
  rw [hx]

/-! ### SRAM -/

theorem bytes_degrade (s : State) (code unit : Nat) : (degrade s code unit).mem = s.mem := proj_updSu State.mem (fun _ _ _ => rfl) s _

theorem bytes_clusterGone (s : State) (cl : Nat) : (clusterGone s cl).mem = s.mem := by
  unfold clusterGone
  split
  · rfl
  · exact bytes_degrade _ _ _

theorem mem_dieGone (s : State) (d : Nat) : (dieGone s d).mem = s.mem := by
  have hdoms : ∀ u : State, ((upFrom (9 * d) 9).foldl (fun s i => updDom s i fun x => { x with state := .failed }) u).mem = u.mem :=
    fun u => foldl_keeps (P := fun v => v.mem = u.mem) (g := fun s i => updDom s i fun x => { x with state := .failed }) (fun _ _ h => h) rfl _
  have hmark : ∀ u : State, (markLost u d).mem = u.mem := fun _ => rfl
  unfold dieGone
  split
  · rfl
  · dsimp only
    rw [hdoms, hmark, proj_updSu State.mem (fun _ _ _ => rfl), bytes_degrade]

theorem bytes_channelGone (s : State) (ch : Nat) : (channelGone s ch).mem.bytes = s.mem.bytes := by
  unfold channelGone
  split
  · rfl
  · rw [bytes_degrade]
    rfl

theorem bytes_sramStage (c : List (Fin 24)) (d : List (Fin 2)) (ch : List (Fin 16)) : (sramStage s c d ch true).mem.bytes = [] := by
  have hchannels := fun (u : State) (hu : u.mem.bytes = []) => foldl_keeps (P := fun v => v.mem.bytes = []) (g := fun s (c : Fin 16) => channelGone (updCh s c fun x => { x with chkOk := false }) c)
    (fun v k hv => (bytes_channelGone _ _).trans hv) hu ch
  have hdies := fun (u : State) (hu : u.mem.bytes = []) => foldl_keeps (P := fun v => v.mem.bytes = []) (g := fun s (d : Fin 2) => dieGone (setSr s (24 + d.val) { getSr s (24 + d.val) with chkOk := false }) d)
    (fun v k hv => (congrArg Mem.bytes (mem_dieGone _ _)).trans hv) hu d
  have hclusters := fun (u : State) (hu : u.mem.bytes = []) => foldl_keeps (P := fun v => v.mem.bytes = []) (g := fun s (c : Fin 24) => clusterGone (setSr s c { getSr s c with chkOk := false }) c)
    (fun v k hv => (congrArg Mem.bytes (bytes_clusterGone _ _)).trans hv) hu c
  have hcheckers := fun (u : State) (hu : u.mem.bytes = []) => foldl_keeps (P := fun v => v.mem.bytes = []) (g := fun s ch => updCh s ch fun x => { x with chkOk := true })
    (fun _ _ hv => hv) (foldl_keeps (P := fun v => v.mem.bytes = []) (g := fun s i => setSr s i { getSr s i with chkOk := true }) (fun _ _ hv => hv) hu (upFrom 0 27)) (upFrom 0 16)
  exact hchannels _ (hdies _ (hclusters _ (hcheckers _ rfl)))

/-! ### MOD_READY -/

theorem readyStage_ready (h : dieOut s 0 = false ∨ dieOut s 1 = false) : (readyStage s).su.ready = true ∧ s.su.rbc ≤ (readyStage s).su.rbc ∧ (readyStage s).th.armed = false := by
  have hready : ∃ u : State, readyStage s = report u ∧ u.su = { s.su with ready := true, rbc := max s.su.rbc s.su.runRbc } ∧ u.th.armed = false := by
    refine ⟨_, if_neg ?_, ?_, rfl⟩
    · obtain h | h := h <;> simp [h]
    · exact updSu_su _ _
  obtain ⟨u, hu, hsu, harmed⟩ := hready
  have htold := (told_logReport u (if u.su.fail.isSome then 3 else if u.su.report.isEmpty then 0 else 1) u.su.report (u.su.report.length + 1)).1
  have hth : (report u).th = u.th := away_th htold.away
  rw [hu, su_report, hth, hsu]
  exact ⟨rfl, Nat.le_max_left _ _, harmed⟩

end

/-! ### The image watchdog -/

section
variable {s : State} {a b : ImgFact}

/-- The state after a watchdog hit of the image in slot `x`, before the next one is chosen. -/
def slotFailed (s : State) (x : Bool) : State :=
  fallBack (updSu (timeTo s (s.su.began + 300000000 * (1 + b2n (bit s.su.wd 0) + b2n (bit s.su.wd 1)))) fun y => { y with wd := setBit y.wd (b2n x) true })

theorem execBootWatchdog_some {x : Bool} (hs : Starting s) (hstage : s.su.stage = 4) (hx : nextSlot s a b = some x) :
    execBootWatchdog a b s = .next (if (nextSlot (slotFailed s x) a b).isNone then stopStartup (slotFailed s x) 0x40 else slotFailed s x) := by
  obtain ⟨hready, hfail, hhold, hvin, htrip, hstop⟩ := hs
  unfold execBootWatchdog
  rw [if_pos ⟨hstage, by simp [hfail], hstop⟩, hx]
  rfl

theorem execBootWatchdog_none (hx : nextSlot s a b = none) : execBootWatchdog a b s = .next s := by
  unfold execBootWatchdog
  rw [hx]
  split <;> rfl

theorem su_slotFailed (s : State) (x : Bool) : (slotFailed s x).su = if s.su.fallback then { s.su with wd := setBit s.su.wd (b2n x) true } else
    { s.su with wd := setBit s.su.wd (b2n x) true, fallback := true, step := 1, deg := true, report := s.su.report ++ [(0xA1, b2n (!s.su.sel))] } := by
  unfold slotFailed
  rw [su_fallBack, updSu_su]
  rfl

end

/-- After a hit, either neither image is left and start-up stops in boot recovery, or the other one is next. -/
theorem bootWatchdog_outcome {s : State} {a b : ImgFact} {x : Bool} (hfail : s.su.fail = none) :
    let t := if (nextSlot (slotFailed s x) a b).isNone then stopStartup (slotFailed s x) 0x40 else slotFailed s x
    bit t.su.wd (b2n x) = true ∧ t.su.fallback = true ∧ (s.su.fallback = false → t.su.deg = true ∧ t.su.report = s.su.report ++ [(0xA1, b2n (!s.su.sel))]) ∧
      (t.su.fail = some 0x40 ∧ t.su.recovery = true ∧ nextSlot t a b = none ∨ t.su.fail = none ∧ (nextSlot t a b).isSome = true) := by
  have hsu := su_slotFailed s x
  have hwd : bit (slotFailed s x).su.wd (b2n x) = true := by
    rw [hsu]
    split <;> exact bit_setBit_same _ _
  have hfallback : (slotFailed s x).su.fallback = true := fallback_fallBack _
  have hreport : s.su.fallback = false → (slotFailed s x).su.deg = true ∧ (slotFailed s x).su.report = s.su.report ++ [(0xA1, b2n (!s.su.sel))] := by
    intro h
    rw [hsu, h]
    exact ⟨rfl, rfl⟩
  have hgoing : (slotFailed s x).su.fail = none := by
    rw [hsu]
    split <;> exact hfail
  dsimp only
  split
  next hnone =>
    rw [nextSlot_of_imagesAs (imagesAs_stopStartup _ _), su_stopStartup]
    exact ⟨hwd, hfallback, hreport, .inl ⟨rfl, rfl, Option.isNone_iff_eq_none.1 hnone⟩⟩
  next hsome => exact ⟨hwd, hfallback, hreport, .inr ⟨hgoing, by simpa [Option.isSome_iff_ne_none] using hsome⟩⟩

/-- Settles O50: a stage's end by its duration and what its body leaves; each finding by the body of its stage. -/
theorem startupRunsInStages : Obligations.StartupRunsInStages := by
  unfold Obligations.StartupRunsInStages
  intro s ms f hs
  dsimp only
  obtain ⟨hms, hbegan⟩ := stageMs_spec s ms.toNat
  refine ⟨⟨hms, hbegan, fun a => ⟨rfl, fun h => upNs_timeTo h a⟩⟩, fun hstage hk => execStartupStageDone_short hstage hk, fun u hb hk h10 hfail hready htrip => ?_,
    fun u hb hk h10 => execStartupStageDone_late hs hb hk h10, fun u c hb hk h10 hfail => ?_, fun u hb hk h10 hready => ?_, fun hb => execStartupStageDone_none hb,
    ?_, ?_, ?_, ?_, ?_, fallBack_of_fallback, ?_, ?_, ?_, ?_, ?_, ?_, ?_, ?_, ?_, ?_, ?_, ?_, ?_⟩
  · obtain ⟨hsu, hpending, hmem, hcores⟩ := stageNext_of_going (u := { u with su := { u.su with ms := tset u.su.ms s.su.stage (stageMs s ms.toNat) } }) (n := s.su.stage) hfail hready htrip
    refine ⟨_, execStartupStageDone_in_time hs hb hk h10, ?_⟩
    dsimp only at hsu ⊢
    rw [hsu]
    exact ⟨rfl, rfl, rfl, tget_tset_same _ _ _ _, hpending, hmem, hcores⟩
  · exact (execStartupStageDone_in_time hs hb hk h10).trans (congrArg Host.Outcome.next (stageNext_of_over (.inl (by simp [hfail]))))
  · exact (execStartupStageDone_in_time hs hb hk h10).trans (congrArg Host.Outcome.next (stageNext_of_over (.inr hready)))
  · rintro hstage rfl
    unfold stageBody
    rw [hstage]
    rfl
  · rintro hstage rfl
    unfold stageBody
    rw [hstage]
    rfl
  · rintro a b hstage rfl hx
    unfold stageBody
    rw [hstage]
    exact congrArg some (bootStage_none hx)
  · rintro a b x hstage rfl hx
    obtain ⟨r, hsu⟩ := su_bootStage hx
    refine ⟨bootStage s a b, ?_, ?_⟩
    · unfold stageBody
      rw [hstage]
      rfl
    rw [hsu]
    refine ⟨rfl, ?_, rfl, ?_, ?_⟩
    · cases hsel : x != s.su.sel
      · exact (Bool.or_false _).symm
      · exact (fallback_fallBack s).trans (Bool.or_true _).symm
    · rintro rfl
      rw [bne_self_eq_false]
      exact ⟨rfl, rfl⟩
    · intro hsel
      rw [if_pos (bne_iff_ne.2 hsel)]
  · intro hfresh
    rw [su_fallBack, hfresh]
    exact ⟨rfl, rfl, rfl, rfl⟩
  · rintro se l o hstage rfl
    unfold stageBody
    rw [hstage]
    rfl
  · rintro c d ch hstage rfl
    unfold stageBody
    rw [hstage]
    rfl
  · rintro c d ch u hstage rfl hb
    unfold stageBody at hb
    rw [hstage] at hb
    cases hb
    exact bytes_sramStage c d ch
  · rintro c cl j d hstage rfl
    unfold stageBody
    rw [hstage]
    rfl
  · rintro hstage rfl h0 h1
    unfold stageBody
    rw [hstage]
    exact congrArg some (if_pos (by rw [h0, h1]; rfl))
  · rintro hstage rfl h
    refine ⟨readyStage s, ?_, readyStage_ready h⟩
    unfold stageBody
    rw [hstage]
    rfl
  · intro d hd
    refine foldl_establishes (P := fun u k => (getLink u k).state = 1) (fun u k => ?_) (fun u k j h => ?_) (mem_upFrom.2 (by omega)) s
    · rw [getLink_setLink_same]
    · rw [getLink_setLink]
      split
      · rfl
      · exact h
  · obtain ⟨hready, hfail, hhold, hvin, htrip, hstop⟩ := hs
    exact fun hstage => if_neg (by simp [hready, hfail, hhold, htrip, hstop, hstage])
  · exact fun hstage => if_pos (by simp [hstage])
  · exact fun a b _ hx => execBootWatchdog_none hx
  · exact fun a b x hstage hx => ⟨_, execBootWatchdog_some hs hstage hx, bootWatchdog_outcome hs.2.1⟩
  · exact fun a b hstage => if_neg fun h => hstage h.1
  · intro c
    obtain ⟨hsev, hfault⟩ := flt_stopStartup s c
    rw [su_stopStartup]
    exact ⟨rfl, rfl, hfault, hsev, rfl⟩

end Sys2Proof.Machine
end

section
/-!
THEOREMS. Reset, input power, and the commands on flash (Startup, Flash, R329 to R333, R388, R410, R411).
-/
namespace Sys2Proof.Machine

/-! ### Reset -/

/-- Completing a shut-down record changes the log and its queue only. -/
theorem writeShutRecord_eq (s : State) (n : Nat) : ∃ x, writeShutRecord s n = { s with flt := x } ∧ s.flt.nextIndex ≤ x.nextIndex ∧ (s.flt.queue = [] → x = s.flt) := by
  induction n generalizing s with
  | zero => exact ⟨s.flt, rfl, le_refl _, fun _ => rfl⟩
  | succ n ih =>
    unfold writeShutRecord
    split
    · exact ⟨s.flt, rfl, le_refl _, fun _ => rfl⟩
    next r rest hq =>
      split
      · obtain ⟨x, hx, hle, _⟩ := ih (appendLog { s with flt := { s.flt with queue := rest } } r)
        have hstep : s.flt.nextIndex ≤ (appendLog { s with flt := { s.flt with queue := rest } } r).flt.nextIndex := by
          change s.flt.nextIndex ≤ s.flt.nextIndex + 1 + r.cont.length
          omega
        exact ⟨x, hx, hstep.trans hle, fun hnil => absurd (hq.symm.trans hnil) (List.cons_ne_nil _ _)⟩
      · exact ⟨s.flt, rfl, le_refl _, fun _ => rfl⟩

theorem execModResetAssert_eq (s : State) : ∃ x, execModResetAssert s = .next (resetModule { s with flt := x, su := { s.su with hold := true } }) ∧
    s.flt.nextIndex ≤ x.nextIndex ∧ (s.flt.queue = [] → x = s.flt) := by
  obtain ⟨x, hx, hle, hnil⟩ := writeShutRecord_eq s s.flt.queue.length
  refine ⟨x, ?_, hle, hnil⟩
  unfold execModResetAssert
  dsimp only
  rw [hx]

theorem resetAndInputPower : Parts.ResetAndInputPower := by
  unfold Parts.ResetAndInputPower
  intro s
  refine ⟨?_, ⟨_, rfl, rfl, rfl, rfl, rfl, rfl, rfl, rfl, rfl, rfl, rfl⟩, fun hhold hvin => ?_, fun hhold hvin => ?_, fun hhold => ?_, fun hvin hhold => ?_, fun hvin hhold => ?_, fun hvin => ?_, ?_⟩
  · obtain ⟨x, hexec, hle, hnil⟩ := execModResetAssert_eq s
    exact ⟨_, hexec, rfl, rfl, rfl, rfl, rfl, rfl, rfl, rfl, rfl, rfl, rfl, rfl, rfl, rfl, rfl, rfl, fun h => by rw [← hnil h]; exact ⟨rfl, rfl⟩, hle⟩
  · exact (if_pos hhold).trans (congrArg Host.Outcome.next (if_pos hvin))
  · exact (if_pos hhold).trans (congrArg Host.Outcome.next (if_neg (by simp [hvin])))
  · exact if_neg (by simp [hhold])
  · exact (if_neg (by simp [hvin])).trans (congrArg Host.Outcome.next (if_neg (by simp [hhold])))
  · exact (if_neg (by simp [hvin])).trans (congrArg Host.Outcome.next (if_pos hhold))
  · exact if_pos hvin
  · rw [su_beginStage]
    exact ⟨rfl, rfl⟩

/-! ### Sessions while packets are taken -/

/-- Every port of `s` is in a session where it is in `A`. -/
def SessionsAs (A s : State) : Prop := ∀ k, (getHost s k).session = (getHost A k).session

section
variable {A s : State}

theorem sessionsAs_setHost (h : SessionsAs A s) {k : Nat} {x : HostPort} (hx : x.session = (getHost s k).session) : SessionsAs A (setHost s k x) := fun j => by
  rw [getHost_setHost]
  split
  next e => rw [hx, e, h k]
  · exact h j

theorem sessionsAs_pushReply (h : SessionsAs A s) (k opc seq status : Nat) (pay : List Word) : SessionsAs A (pushReply s k opc seq status pay) := sessionsAs_setHost h rfl

theorem sessionsAs_takePacket (h : SessionsAs A s) (k opc seq : Nat) (args : List Word) : SessionsAs A (takePacket s k opc seq args) := by
  unfold takePacket
  dsimp only
  split
  · exact sessionsAs_pushReply h _ _ _ _ _
  · have hs : SessionsAs A (if opc = 1 then s else setHost s k { getHost s k with expSeq := ((getHost s k).expSeq + 1) % 65536 }) := by
      split
      · exact h
      · exact sessionsAs_setHost h rfl
    generalize (if opc = 1 then s else setHost s k { getHost s k with expSeq := ((getHost s k).expSeq + 1) % 65536 }) = u at hs ⊢
    split
    · exact sessionsAs_pushReply hs _ _ _ _ _
    · split
      · exact sessionsAs_pushReply (s := (takeFree u 8).2) hs _ _ _ _ _
      split
      · exact sessionsAs_pushReply hs _ _ _ _ _
      split
      · exact sessionsAs_pushReply hs _ _ _ _ _
      split
      · exact sessionsAs_pushReply hs _ _ _ _ _
      split
      · exact sessionsAs_pushReply hs _ _ _ _ _
      · exact sessionsAs_setHost hs rfl

theorem sessionsAs_flush (h : SessionsAs A s) (k : Nat) : SessionsAs A (updHost s k flushCmd) := sessionsAs_setHost h rfl

theorem sessionsAs_parseOne {t : State} {k : Nat} (h : SessionsAs A s) (ht : parseOne s k = some t) : SessionsAs A t := by
  unfold parseOne at ht
  dsimp only at ht
  split at ht
  · cases ht
  split at ht
  · cases ht
    exact sessionsAs_pushReply (sessionsAs_flush h k) _ _ _ _ _
  split at ht
  · cases ht
  have heat : SessionsAs A (setHost s k (eatWords (getHost s k) (fld (lget (stream (getHost s k)) 0 1).toNat 0 17 + 3))) := sessionsAs_setHost h rfl
  split at ht
  · cases ht
    exact sessionsAs_pushReply (sessionsAs_flush heat k) _ _ _ _ _
  generalize (if (_ : Nat) = 0 then (0 : Nat) else crc32 _) = pc at ht
  split at ht
  · cases ht
    exact sessionsAs_pushReply heat _ _ _ _ _
  · cases ht
    exact sessionsAs_takePacket heat _ _ _ _

theorem sessionsAs_parse (h : SessionsAs A s) (k n : Nat) : SessionsAs A (parse s k n) := by
  induction n generalizing s with
  | zero => exact h
  | succ n ih =>
    unfold parse
    split
    · exact h
    next t ht => exact ih (sessionsAs_parseOne h ht)

theorem sessionsAs_parseAll (h : SessionsAs A s) (k : Nat) : SessionsAs A (parseAll s k) := by
  unfold parseAll takeCommitted
  dsimp only
  split
  · exact sessionsAs_setHost (sessionsAs_parse h _ _) rfl
  · exact sessionsAs_parse h _ _

theorem sessionsAs_finish (h : SessionsAs A s) (k : Nat) (c : HostCmd) (status : Nat) (pay : List Word) : SessionsAs A (finish s k c status pay) := by
  have hupd : SessionsAs A (updHost s k fun x => { x with begun := none }) := sessionsAs_setHost h rfl
  unfold finish
  dsimp only
  split
  · exact sessionsAs_parseAll hupd _
  · exact sessionsAs_parseAll (sessionsAs_pushReply hupd _ _ _ _ _) _

end

/-! ### Boot recovery -/

/-- Every session ended, and the domains of the dies that are left awake again. -/
def recovered (s : State) : State :=
  (upFrom 0 18).foldl (fun s d => if dieOut s (d / 9) then s else updDom s d fun x => { x with state := .awake }) ((upFrom 0 4).foldl endSession s)

theorem recovered_eq (s : State) : { recovered s with hosts := s.hosts, mc := s.mc, doms := s.doms } = s := by
  have hend : ∀ (u : State) (h : Nat), { u with hosts := s.hosts, mc := s.mc, doms := s.doms } = s → { endSession u h with hosts := s.hosts, mc := s.mc, doms := s.doms } = s := by
    intro u h hu
    unfold endSession
    dsimp only
    split
    · exact hu
    · exact hu
  have hwake : ∀ (u : State) (d : Nat), { u with hosts := s.hosts, mc := s.mc, doms := s.doms } = s →
      { (if dieOut u (d / 9) then u else updDom u d fun x => { x with state := .awake }) with hosts := s.hosts, mc := s.mc, doms := s.doms } = s := by
    intro u d hu
    split
    · exact hu
    · exact hu
  exact foldl_keeps (P := fun u => { u with hosts := s.hosts, mc := s.mc, doms := s.doms } = s) hwake
    (foldl_keeps (P := fun u => { u with hosts := s.hosts, mc := s.mc, doms := s.doms } = s) hend rfl _) _

theorem session_recovered (s : State) {k : Nat} (hk : k < 4) : (getHost (recovered s) k).session = false := by
  have hend : (getHost ((upFrom 0 4).foldl endSession s) k).session = false := by
    refine foldl_establishes (P := fun u k => (getHost u k).session = false) (fun u j => ?_) (fun u j i h => ?_) (mem_upFrom.2 (by omega)) s
    · rw [getHost_endSession, if_pos rfl]
    · rw [getHost_endSession]
      split
      · rfl
      · exact h
  have hwake : ∀ (u : State) (d : Nat), (getHost u k).session = false → (getHost (if dieOut u (d / 9) then u else updDom u d fun x => { x with state := .awake }) k).session = false := by
    intro u d hu
    split
    · exact hu
    · exact hu
  exact foldl_keeps (P := fun u => (getHost u k).session = false) hwake hend _

/-- Start-up back at stage 4 with slot `b` selected. -/
def backToBoot (s : State) (b : Bool) : State :=
  beginStage (updSu (recovered { s with su := { s.su with sel := b } }) fun x => { x with fail := none, stopped := false, recovery := false, wd := 0, fallback := false }) 4

theorem su_backToBoot (s : State) (b : Bool) : (backToBoot s b).su.sel = b ∧ (backToBoot s b).su.stage = 4 ∧ (backToBoot s b).su.fail = none ∧ (backToBoot s b).su.recovery = false := by
  have hsu : (recovered { s with su := { s.su with sel := b } }).su = { s.su with sel := b } := (congrArg State.su (recovered_eq _) :)
  unfold backToBoot
  rw [su_beginStage, updSu_su, hsu]
  exact ⟨rfl, rfl, rfl, rfl⟩

theorem session_backToBoot (s : State) (b : Bool) {k : Nat} (hk : k < 4) : (getHost (backToBoot s b) k).session = false := by
  have hupd := proj_updSu (fun u => (getHost u k).session) (fun _ _ _ => rfl)
  unfold backToBoot beginStage
  rw [hupd, hupd]
  exact session_recovered _ hk

/-! ### The log -/

/-- The records of a read that meets a bad region after the first ones, or none. -/
def readable (r : List (Nat × List Byte)) (bad : Option (Fin 1024)) : Nat × List (Nat × List Byte) :=
  match bad with
  | some k => if k.val < r.length then (0x0B, r.take k.val) else (0, r)
  | none => (0, r)

theorem execLogRead_run {h : Fin 4} {s : State} {c : HostCmd} {bad : Option (Fin 1024)} {x y : Nat × List Byte} (ht : Turn s h 0x0403 c) (hlo : 1 ≤ arg c 1) (hhi : arg c 1 ≤ 1024)
    (hx : (logRecords s).head? = some x) (hy : (logRecords s).getLast? = some y) : let r := readable (((logRecords s).filter fun e => arg c 0 ≤ e.1).take (arg c 1)) bad
    execLogRead h bad s = .next (finish (served s h) h c r.1 (BitVec.ofNat 64 x.1 :: BitVec.ofNat 64 y.1 :: r.2.flatMap fun e => wordsOfBytes e.2)) := by
  have hxu : (logRecords (served s h)).head? = some x := hx
  have hyu : (logRecords (served s h)).getLast? = some y := hy
  refine congrArg Host.Outcome.next (runCmd_now ht ((if_neg (by omega)).trans ?_))
  dsimp only
  rw [hxu, hyu]
  rfl

theorem flashCommands : Parts.FlashCommands := by
  unfold Parts.FlashCommands
  intro h s c
  dsimp only
  refine ⟨fun ok ht hw => ?_, fun ok sig ht hw hcrc => ?_, fun ok img ht hw => ?_, fun bad ht => ?_⟩
  · have hbits := unusedBits_single hw
    refine ⟨fun hlong => ?_, fun hfit hok => ?_, fun hfit hok => ?_⟩
    · exact congrArg Host.Outcome.next (runCmd_now ht ((checked_of_used hbits).trans (if_pos hlong)))
    · exact congrArg Host.Outcome.next (runCmd_now ht ((checked_of_used hbits).trans ((if_neg (Nat.not_lt.2 hfit)).trans (if_pos (by simp [hok])))))
    · exact congrArg Host.Outcome.next (runCmd_now ht ((checked_of_used hbits).trans ((if_neg (Nat.not_lt.2 hfit)).trans (if_neg (by simp [hok])))))
  · have hbits : unusedBits c [(0, 0xFFFFFFFF00000001), (1, 0xFFFFFFFF)] = none :=
      (unusedBits_cons_of_used hw).trans (unusedBits_single (and_mask_of_lt (n := 32) hcrc))
    refine ⟨fun hruns => ?_, fun hruns hok => ?_, fun hruns hok hbad => ?_, fun hruns hok hgood hhdr hform hlen => ⟨fun hsig => ?_, fun hsig hrbc => ?_, fun hsig hrbc => ?_⟩⟩
    · exact congrArg Host.Outcome.next (runCmd_now ht ((checked_of_used hbits).trans (if_pos hruns)))
    · exact congrArg Host.Outcome.next (runCmd_now ht ((checked_of_used hbits).trans ((if_neg (ne_true_of_eq_false hruns)).trans (if_pos (by simp [hok])))))
    · exact congrArg Host.Outcome.next (runCmd_now ht ((checked_of_used hbits).trans ((if_neg (ne_true_of_eq_false hruns)).trans
        ((if_neg (by simp [hok])).trans (if_pos (.inl hbad))))))
    all_goals
      have hcrcs : ¬ (bodyCrc s (bit (arg c 0) 0) (arg c 0 / 2 ^ 32 % 2 ^ 32 - 256) ≠ arg c 1 ∨
          bodyCrc s (bit (arg c 0) 0) (arg c 0 / 2 ^ 32 % 2 ^ 32 - 256) ≠ hdrWord s (bit (arg c 0) 0) 3) := fun e => e.elim (fun e => e hgood) fun e => e hhdr
    · exact congrArg Host.Outcome.next (runCmd_now ht ((checked_of_used hbits).trans ((if_neg (ne_true_of_eq_false hruns)).trans
        ((if_neg (by simp [hok])).trans ((if_neg hcrcs).trans (if_pos (.inl (by simp [hsig]))))))))
    all_goals
      have hsigned : ¬ ((!sig) = true ∨ hdrOk s (bit (arg c 0) 0) = false ∨ hdrWord s (bit (arg c 0) 0) 2 ≠ arg c 0 / 2 ^ 32 % 2 ^ 32 - 256) := by
        rw [hsig, hform]
        simpa using hlen
    · exact congrArg Host.Outcome.next (runCmd_now ht ((checked_of_used hbits).trans ((if_neg (ne_true_of_eq_false hruns)).trans
        ((if_neg (by simp [hok])).trans ((if_neg hcrcs).trans ((if_neg hsigned).trans (if_pos hrbc)))))))
    · exact congrArg Host.Outcome.next (runCmd_now ht ((checked_of_used hbits).trans ((if_neg (ne_true_of_eq_false hruns)).trans
        ((if_neg (by simp [hok])).trans ((if_neg hcrcs).trans ((if_neg hsigned).trans (if_neg (Nat.not_lt.2 hrbc))))))))
  · have hbits := unusedBits_slot hw
    refine ⟨fun hbad => ?_, fun hvalid hok => ?_, fun hvalid hok hnorm => ?_, fun hvalid hok hrec => ?_⟩
    · exact congrArg Host.Outcome.next (runCmd_now ht ((checked_of_used hbits).trans (if_pos (congrArg not hbad))))
    all_goals have hgood : ¬ (!imgValid (served s h) (bit (arg c 0) 0) img) = true := ne_true_of_eq_false (congrArg not hvalid)
    · exact congrArg Host.Outcome.next (runCmd_now ht ((checked_of_used hbits).trans ((if_neg hgood).trans (if_pos (by simp [hok])))))
    · exact congrArg Host.Outcome.next (runCmd_now ht ((checked_of_used hbits).trans ((if_neg hgood).trans ((if_neg (by simp [hok])).trans (if_neg (ne_true_of_eq_false hnorm))))))
    · have hrun : execFwSelect h ok img s = .next (finish (backToBoot (served s h) (bit (arg c 0) 0)) h c 0 []) :=
        congrArg Host.Outcome.next (runCmd_now ht ((checked_of_used hbits).trans ((if_neg hgood).trans ((if_neg (by simp [hok])).trans (if_pos hrec)))))
      have hsu : (finish (backToBoot (served s h) (bit (arg c 0) 0)) h c 0 []).su = (backToBoot (served s h) (bit (arg c 0) 0)).su := away_su (away_finish _ _ _ _ _ (away_refl _))
      obtain ⟨hsel, hstage, hfail, hrecovery⟩ := su_backToBoot (served s h) (bit (arg c 0) 0)
      refine ⟨_, hrun, ?_⟩
      dsimp only
      rw [hsu]
      exact ⟨hsel, hstage, hfail, hrecovery, fun k hk => (sessionsAs_finish (fun _ => rfl) _ _ _ _ k).trans (session_backToBoot _ _ hk)⟩
  · refine ⟨fun hcount => congrArg Host.Outcome.next (runCmd_now ht (if_pos hcount)), fun x y hlo hhi hx hy => ⟨?_, ?_⟩⟩
    · rintro rfl
      exact execLogRead_run (bad := none) ht hlo hhi hx hy
    · rintro k rfl hk
      have hrun := execLogRead_run (bad := some k) ht hlo hhi hx hy
      unfold readable at hrun
      dsimp only at hrun
      rw [if_pos hk] at hrun
      exact hrun

/-- Settles O51: reset by the state that `resetModule` writes out, the flash commands by the checks of their bodies. -/
theorem resetPowerAndFlash : Obligations.ResetPowerAndFlash := ⟨resetAndInputPower, flashCommands⟩

end Sys2Proof.Machine
end

section
/-!
SUPPORT. The rules of the power states: refusers and votes, what an accepted, an aborted and a finished entry leave of the domain, and a memory
channel that goes to self-refresh (16_power_states R350 to R353, R235, R274).
-/
namespace Sys2Proof.Machine

variable {s : State} {d : Nat}

/-! ### Refusers and votes -/

theorem refuserOf_eq_one {t : Nat} {set : Bool} : refuserOf s d t set = some 1 ↔ set = true ∧ (groupCores d).any (busyCore s t) = true := by
  rw [← Bool.and_eq_true]
  unfold refuserOf
  split_ifs <;> simp_all

theorem refuserOf_eq_five {t : Nat} {set : Bool} :
    refuserOf s d t set = some 5 ↔ (set && (groupCores d).any (busyCore s t)) = false ∧ (groupCores d).any (holdsLock s) = true := by
  unfold refuserOf
  split_ifs <;> simp_all

theorem refuserOf_code {t k : Nat} {set : Bool} (h : refuserOf s d t set = some k) : k = 1 ∨ 3 ≤ k ∧ k ≤ 7 := by
  unfold refuserOf at h
  split_ifs at h <;> cases h <;> omega

theorem plTo_of_refuserOf {t : Nat} {set : Bool} (h : refuserOf s d t set = none) : (getDom s d).plTo = none := by
  by_contra hne
  have hsome : ((getDom s d).plTo.isSome || (getDom s d).thrAt == some (upNs s)) = true := by
    rw [Option.isSome_iff_ne_none.2 hne, Bool.true_or]
  unfold refuserOf at h
  split_ifs at h

theorem unitInUse_of_refuserOf {t : Nat} {set : Bool} (h : refuserOf s d t set = none) : unitInUse s d = false := by
  unfold refuserOf at h
  split_ifs at h with h1 h2 h3 h4 h5 h6
  simpa using h6

/-- A fold of minima over the elements that `p` picks is at most its start and at most the value of each of them. -/
theorem foldl_min_le {p : Nat → Prop} [DecidablePred p] (f : Nat → Nat) (l : List Nat) (b : Nat) :
    l.foldl (fun t c => if p c then min t (f c) else t) b ≤ b ∧ ∀ c ∈ l, p c → l.foldl (fun t c => if p c then min t (f c) else t) b ≤ f c := by
  induction l generalizing b with
  | nil => exact ⟨Nat.le_refl b, fun _ h => absurd h List.not_mem_nil⟩
  | cons a r ih =>
    obtain ⟨hb, hr⟩ := ih (if p a then min b (f a) else b)
    have hstep : (if p a then min b (f a) else b) ≤ b ∧ (p a → (if p a then min b (f a) else b) ≤ f a) := by
      split
      next h => exact ⟨Nat.min_le_left _ _, fun _ => Nat.min_le_right _ _⟩
      next h => exact ⟨Nat.le_refl b, fun hp => absurd hp h⟩
    refine ⟨hb.trans hstep.1, fun c hc hp => ?_⟩
    obtain rfl | hc := List.mem_cons.1 hc
    · exact hb.trans (hstep.2 hp)
    · exact hr c hc hp

theorem votedState_le : votedState s d ≤ 3 ∧ ∀ c ∈ groupCores d, (getCore s c).run = .waiting → votedState s d ≤ (getCore s c).waitMode :=
  foldl_min_le (p := fun c => (getCore s c).run = .waiting) _ _ _

/-! ### The drain -/

theorem nocDrained_eq_false_iff : nocDrained s d = false ↔
    ∃ q, q < 160 ∧ (portDom q = some d ∧ (getPort s q).out ≠ [] ∨ ∃ o ∈ (getPort s q).out, o.jigDom = some d) := by
  have hport : ∀ q, ¬((portDom q != some d || (getPort s q).out.isEmpty) && (getPort s q).out.all fun o => o.jigDom != some d) = true ↔
      portDom q = some d ∧ (getPort s q).out ≠ [] ∨ ∃ o ∈ (getPort s q).out, o.jigDom = some d := by
    intro q
    rw [Bool.and_eq_true, not_and_or, Bool.or_eq_true, not_or, List.all_eq_true]
    simp
  rw [Bool.eq_false_iff, nocDrained, Ne, List.all_eq_true]
  simp only [not_forall, hport, mem_upFrom, exists_prop]
  simp

/-! ### The domain after an entry -/

theorem getDom_acceptEntry (t : Nat) (h : Option Nat) :
    getDom (acceptEntry s d t h) d = { getDom s d with
      state := .entering, target := t, drained := false, wakePend := false, reqVote := false, reqSet := none, entryHost := h, since := upNs s } :=
  getDom_updDom_same _ _ _

theorem getDom_acceptEntry_ne {e : Nat} (he : e ≠ d) (t : Nat) (h : Option Nat) : getDom (acceptEntry s d t h) e = getDom s e :=
  getDom_updDom_ne _ _ he

/-- What an entry leaves before its domain falls asleep: its memory controllers in self-refresh, and what S3 leaves of it. -/
def entryLosses (s : State) (d t : Nat) : State :=
  let u := if isMemGroup d then (upFrom (8 * (d / 9)) 8).foldl sleepChannel s else s
  let u := if t = 3 then dropGroup u d else u
  if t = 3 then dropIod u d else u

/-- The entry's end: the domain in its target, PWR_STATE raised and the host answered. -/
def asleep (u : State) (d t : Nat) (h : Option Nat) : State :=
  let v := pwrState (updDom u d fun y => { y with state := sleepState t, entryHost := none }) d 0 t
  match h with
  | some h => replyLater v h 0x00 (one 0)
  | none => v

theorem exec_pwrEntryDone {d : Fin 24} (hst : (getDom s d).state = .entering) (hdr : (getDom s d).drained = true) :
    exec (.pwrEntryDone d) s = .next (
      let v := asleep (entryLosses s d (getDom s d).target) d (getDom s d).target (getDom s d).entryHost
      if (getDom v d).wakePend then startWake v d else v) := by
  refine (if_pos ?_).trans rfl
  rw [hst, hdr]
  rfl

theorem told_asleep (u : State) (d t : Nat) (h : Option Nat) :
    Told (updDom u d fun y => { y with state := sleepState t, entryHost := none }) (asleep u d t h) := by
  have hstate := told_raiseDom (told_refl (updDom u d fun y => { y with state := sleepState t, entryHost := none })) d 0x0A00 (d + 0 * 2 ^ 8 + t * 2 ^ 12) 0 0
  cases h with
  | none => exact hstate
  | some h => exact told_replyLater hstate _ _ _

theorem getDom_asleep (u : State) (d t : Nat) (h : Option Nat) :
    getDom (asleep u d t h) d = { getDom u d with state := sleepState t, entryHost := none } :=
  (getDom_of_told (told_asleep u d t h) d).trans (getDom_updDom_same _ _ _)

theorem runs_pwrEntryDone {d : Fin 24} (hst : (getDom s d).state = .entering) (hdr : (getDom s d).drained = true) :
    Runs (.pwrEntryDone d) s fun t => (getDom t d).state = sleepState (getDom s d).target ∨ (getDom t d).state = .waking := by
  refine ⟨_, exec_pwrEntryDone hst hdr, ?_⟩
  dsimp only
  split
  · exact .inr (congrArg Dom.state (getDom_updDom_same _ _ _))
  · exact .inl (congrArg Dom.state (getDom_asleep _ _ _ _))

theorem entryLosses_of_light {t : Nat} (hm : isMemGroup d = false) (ht : t ≠ 3) : entryLosses s d t = s := by
  unfold entryLosses
  rw [hm, if_neg ht, if_neg ht]
  rfl

/-! ### Memory channels -/

theorem getCh_sleepChannel {ch : Nat} (h : (getCh s ch).state = 1) :
    (getCh (sleepChannel s ch) ch).state = 2 ∧ (getCh (sleepChannel s ch) ch).staged = [] ∧ (getCh (sleepChannel s ch) ch).debt = 0 := by
  unfold sleepChannel
  rw [if_pos h, updCh, getCh_setCh_same]
  exact ⟨rfl, rfl, rfl⟩

end Sys2Proof.Machine
end

section
/-!
THEOREMS. How domains fall asleep.
-/
namespace Sys2Proof.Machine

variable {s : State} {d : Fin 24}

theorem exec_pwrEntryRequest_set {t h : Nat} (hst : (getDom s d).state = .awake) (hset : (getDom s d).reqSet = some (t, h)) :
    exec (.pwrEntryRequest d) s =
      if (groupCores d).any (fun c => (getCore s c).run == .waiting && wakeCond s c) then .next (withdrawSet s d 1)
      else match refuserOf s d t true with
        | some code => .next (replyLater (noteRefusal (updDom s d fun x => { x with reqSet := none }) d code false t) h 0x09 (one code))
        | none => .next (acceptEntry s d t (some h)) := by
  refine (if_neg (not_not.2 hst)).trans ?_
  rw [hset] <;> rfl

theorem exec_pwrEntryRequest_votes (hst : (getDom s d).state = .awake) (hset : (getDom s d).reqSet = none) :
    exec (.pwrEntryRequest d) s =
      if (getDom s d).reqVote && votesStand s d then
        match refuserOf s d (votedState s d) false with
        | some code => .next (endWaits (noteRefusal (updDom s d fun x => { x with reqVote := false }) d code false (votedState s d)) d 3 code)
        | none => .next (acceptEntry s d (votedState s d) none)
      else .next (updDom s d fun x => { x with reqVote := false }) := by
  refine (if_neg (not_not.2 hst)).trans ?_
  rw [hset] <;> rfl

/-- The domain of an aborted entry: awake again, its recorded level started. -/
def reopened (s : State) (d : Nat) : State :=
  let x := getDom s d
  let b := ageAwake (setDom s d { x with state := .awake, wakePend := false, entryHost := none, wakeHost := none, plRec := none, ofsNow := x.ofs }) d
  match x.plRec with
  | some l => if l = x.pl then b else startLevel b d l none
  | none => b

theorem exec_nocDrainTimeout (hst : (getDom s d).state = .entering) (hdr : (getDom s d).drained = false) (hwake : (getDom s d).wakeHost = none)
    (hlim : (getDom s d).since + (getNocDie s (if d.val < 18 then d.val / 9 else 2)).drainLim ≤ upNs s) :
    exec (.nocDrainTimeout d) s = .next (
      let u := endWaits (noteRefusal (reopened s d) d 2 true (getDom s d).target) d 4 2
      match (getDom s d).entryHost with
      | some h => replyLater u h 0x09 (one 18)
      | none => u) := by
  refine (if_pos ?_).trans ?_
  · rw [hst, hdr]
    exact decide_eq_true hlim
  · rw [hwake]
    rfl

/-- Settles O52, by the rules of the entry, of its refusers and of its end. -/
theorem domainsFallAsleep : Obligations.DomainsFallAsleep := by
  intro d s x wakes
  refine ⟨fun h => if_pos h, fun t h hst hset => ?_, fun hst hset hvote hstand => ?_, fun hst hset hno => ?_, fun t set => ?_, votedState_le, fun t h => ?_, ?_, ?_,
    nocDrained_eq_false_iff, ?_, fun u => ⟨rfl, rfl⟩, fun h => ?_, fun h => ?_, ?_, ?_, ?_, fun ch => getCh_sleepChannel⟩
  · have hexec := exec_pwrEntryRequest_set hst hset
    refine ⟨fun hw => hexec.trans (if_pos hw), fun hw hr => hexec.trans ((if_neg (ne_true_of_eq_false hw)).trans ?_),
      fun k hw hr => hexec.trans ((if_neg (ne_true_of_eq_false hw)).trans ?_)⟩
    · rw [hr]
    · rw [hr]
      rfl
  · have hexec := (exec_pwrEntryRequest_votes hst hset).trans (if_pos (Bool.and_eq_true_iff.2 ⟨hvote, hstand⟩))
    refine ⟨fun hr => hexec.trans ?_, fun k hr => hexec.trans ?_⟩
    · rw [hr]
    · rw [hr]
  · refine (exec_pwrEntryRequest_votes hst hset).trans (if_neg ?_)
    rw [Bool.and_eq_true_iff, not_and_or]
    exact hno.imp ne_true_of_eq_false ne_true_of_eq_false
  · exact ⟨refuserOf_eq_one, refuserOf_eq_five, fun k => refuserOf_code, fun hpl hr => hpl (plTo_of_refuserOf hr),
      fun huse hr => absurd huse (ne_true_of_eq_false (unitInUse_of_refuserOf hr))⟩
  · have hdom := getDom_acceptEntry (s := s) (d := d) t h
    exact ⟨congrArg Dom.state hdom, congrArg Dom.target hdom, congrArg Dom.drained hdom, fun e he => getDom_acceptEntry_ne he t h⟩
  · exact fun hst hdr => if_pos ⟨hst, hdr⟩
  · exact fun h => if_neg fun hand => h.elim (fun hne => hne hand.1) fun hdr => absurd hand.2 (ne_true_of_eq_false hdr)
  · intro b u hst hdr hwake hlim
    have hexec := exec_nocDrainTimeout hst hdr hwake hlim
    have hu : u = endWaits (noteRefusal (reopened s d) d 2 true x.target) d 4 2 := rfl
    refine ⟨fun hhost => hexec.trans ?_, fun h hhost => hexec.trans ?_⟩
    · rw [hhost, hu]
    · rw [hhost, hu]
      rfl
  · refine if_neg ?_
    simp only [Bool.and_eq_true, Bool.not_eq_true', decide_eq_true_eq]
    rintro ⟨⟨hst, hdr⟩, hlim⟩
    obtain hne | hd | hlt := h
    · exact hne hst
    · exact absurd hd (ne_true_of_eq_false hdr)
    · exact absurd hlim (Nat.not_le_of_lt hlt)
  · refine if_neg ?_
    rw [Bool.and_eq_true_iff, decide_eq_true_iff]
    exact fun hand => h.elim (fun hne => hne hand.1) fun hdr => absurd hand.2 (ne_true_of_eq_false hdr)
  · intro u hst hdr hm ht hhost
    have hexec := exec_pwrEntryDone hst hdr
    have hu : asleep (entryLosses s d x.target) d x.target x.entryHost = u := by
      rw [entryLosses_of_light hm ht, hhost]
      rfl
    rw [hu] at hexec
    exact ⟨fun hp => hexec.trans (congrArg Host.Outcome.next (if_neg (ne_true_of_eq_false hp))), fun hp => hexec.trans (congrArg Host.Outcome.next (if_pos hp))⟩
  · exact fun hst hdr _ => runs_pwrEntryDone hst hdr
  · exact fun hst hdr _ => runs_pwrEntryDone hst hdr

end Sys2Proof.Machine
end

section
/-!
SUPPORT. The wake of a domain: the steps that keep its units, what a wake from S3 and the sentinel check leave in memory, and the end of the wake
(16_power_states R354 to R358).
-/
namespace Sys2Proof.Machine

variable {s : State} {d : Nat}

/-! ### Memory, DMA channels and Rasps kept -/

/-- `s` has the memory, the DMA channels and the Rasps of `A`. -/
def UnitsAs (A s : State) : Prop := s.mem = A.mem ∧ s.dma = A.dma ∧ s.rasps = A.rasps

theorem UnitsAs.trans {A s t : State} (h : UnitsAs A s) (k : UnitsAs s t) : UnitsAs A t :=
  ⟨k.1.trans h.1, k.2.1.trans h.2.1, k.2.2.trans h.2.2⟩

theorem unitsAs_of_away {A s : State} (h : Away A s) : UnitsAs A s := ⟨away_mem h, away_dma h, away_rasps h⟩

theorem unitsAs_sigPwr (s : State) (d : Nat) : UnitsAs s (sigPwr s d) :=
  foldl_keeps (g := fun s c => setIp s c 6) (P := UnitsAs s)
    (fun u c h => UnitsAs.trans (s := updCore u c fun x => { x with ip := setBit x.ip 6 true }) h (unitsAs_of_away (away_signalCore _ _ (away_refl _)))) ⟨rfl, rfl, rfl⟩ _

theorem unitsAs_wakeLevel (s : State) (d : Nat) : UnitsAs s (wakeLevel s d) := by
  unfold wakeLevel
  dsimp only
  split
  · split
    · exact ⟨rfl, rfl, rfl⟩
    · refine UnitsAs.trans ?_ (unitsAs_sigPwr _ _)
      exact unitsAs_of_away (told_raiseDom (told_refl (setDom s d _)) _ _ _ _ _).away
  · exact ⟨rfl, rfl, rfl⟩

theorem unitsAs_endWaits (s : State) (d result refuser : Nat) : UnitsAs s (endWaits s d result refuser) :=
  foldl_keeps (P := UnitsAs s) (fun u c h => by dsimp only; split; exacts [h, h]) ⟨rfl, rfl, rfl⟩ _

/-! ### An awake domain stays awake -/

theorem getDom_wakeReq_ne {e : Nat} (h : d ≠ e) (deep : Bool) (code : Nat) : getDom (wakeReq s e deep code) d = getDom s d := by
  have hset : ∀ x, getDom (setDom s e x) d = getDom s d := fun x => getDom_setDom_ne _ _ h
  unfold wakeReq
  dsimp only
  split
  · rfl
  cases (getDom s e).state with
  | waking | failed => rfl
  | s1 | s2 => exact hset _
  | s3 | entering =>
    dsimp only
    split
    all_goals first | rfl | exact hset _
  | awake =>
    obtain he | ⟨x, -, he⟩ := withdrawSet_eq s e code
    · exact congrArg (getDom · d) he
    · have hdoms := (congrArg (getDom · d) he :)
      exact hdoms.trans (getDom_setDom_ne _ _ h)

theorem awake_of_told {t : State} (h : (getDom s d).state = .awake) (k : Told s t) : (getDom t d).state = .awake :=
  (congrArg Dom.state (getDom_of_told k d)).trans h

theorem awake_signalCore (h : (getDom s d).state = .awake) (c : Nat) : (getDom (signalCore s c) d).state = .awake := by
  unfold signalCore
  split
  · split
    next e he =>
      by_cases hed : e = d
      · exact hed ▸ getDom_wakeReq_awake (hed ▸ h) _ _
      · rw [getDom_wakeReq_ne (Ne.symm hed)]
        exact h
    · exact h
  · exact h

theorem awake_sigPwr (h : (getDom s d).state = .awake) (e : Nat) : (getDom (sigPwr s e) d).state = .awake :=
  foldl_keeps (P := fun u => (getDom u d).state = .awake) (fun _ c hu => awake_signalCore (s := updCore _ c _) hu c) h _

theorem awake_wakeLevel (h : (getDom s d).state = .awake) : (getDom (wakeLevel s d) d).state = .awake := by
  have hset : (getDom (setDom s d { getDom s d with pl := (getDom s d).plRec.getD (getDom s d).pl, plRec := none, ofsNow := (getDom s d).ofs }) d).state = .awake :=
    (congrArg Dom.state (getDom_setDom_same _ _ _)).trans h
  unfold wakeLevel
  dsimp only
  split
  · split
    · exact hset
    · exact awake_sigPwr (awake_of_told hset (told_raiseDom (told_refl _) _ _ _ _ _)) _
  · exact hset

theorem doms_endWaits (s : State) (d result refuser : Nat) : (endWaits s d result refuser).doms = s.doms :=
  foldl_keeps (P := fun u => u.doms = s.doms) (fun u c h => by dsimp only; split; exacts [h, h]) rfl _

/-! ### The end of a wake -/

/-- What a wake from target `t` finds: memories, Rasps and memory channels, with the banks of `m` lost. -/
def wakeLosses (s : State) (d t m : Nat) : State :=
  let u := if t = 3 then wakeEmpty s d else s
  let u := if t = 2 then (groupClusters d).foldl (fun s cl => scrambleK s cl) u else u
  let u := loseBanks u d m
  if isMemGroup d then (upFrom (8 * (d / 9)) 8).foldl (fun s ch => wakeChannel s ch t) u else u

/-- The domain awake again, at its level, with its waits ended; `m` names the banks lost. -/
def upAgain (u : State) (d m : Nat) : State :=
  let v := updDom u d fun x =>
    { x with state := .awake, retLost := x.retLost || m != 0, retBanks := x.retBanks ||| m, retry1 := false, retry3 := false, wakeHost := none, wakePend := false }
  endWaits (ageAwake (wakeLevel v d) d) d (if m = 0 then 2 else 5) 0

/-- The wake's end: its events raised and the host answered. -/
def awakened (u : State) (d t m : Nat) (h : Option Nat) : State :=
  let v := pwrState (bump (upAgain u d m) .pwrWake d) d t 0
  let v := if m = 0 then v else raiseDom v d 0x0A02 d m 0
  match h with
  | some h => replyLater v h 0x00 (one 0)
  | none => v

theorem awake_upAgain (u : State) (d m : Nat) : (getDom (upAgain u d m) d).state = .awake := by
  refine (congrArg (fun t : Tab Dom => (tget t {} d).state) (doms_endWaits _ _ _ _)).trans ?_
  exact awake_wakeLevel (congrArg Dom.state (getDom_updDom_same _ _ _))

theorem unitsAs_upAgain (u : State) (d m : Nat) : UnitsAs u (upAgain u d m) :=
  UnitsAs.trans (unitsAs_wakeLevel (updDom u d _) d) (unitsAs_endWaits (ageAwake _ d) _ _ _)

theorem told_awakened (u : State) (d t m : Nat) (h : Option Nat) : Told (upAgain u d m) (awakened u d t m h) := by
  have hstate : Told (upAgain u d m) (pwrState (bump (upAgain u d m) .pwrWake d) d t 0) := told_raiseDom (told_bump (told_refl _) _ _) _ _ _ _ _
  have hlost : Told (upAgain u d m) (if m = 0 then pwrState (bump (upAgain u d m) .pwrWake d) d t 0
      else raiseDom (pwrState (bump (upAgain u d m) .pwrWake d) d t 0) d 0x0A02 d m 0) := by
    split
    · exact hstate
    · exact told_raiseDom hstate _ _ _ _ _
  cases h with
  | none => exact hlost
  | some h => exact told_replyLater hlost _ _ _

theorem awake_awakened (u : State) (d t m : Nat) (h : Option Nat) : (getDom (awakened u d t m h) d).state = .awake :=
  awake_of_told (awake_upAgain u d m) (told_awakened u d t m h)

theorem unitsAs_awakened (u : State) (d t m : Nat) (h : Option Nat) : UnitsAs u (awakened u d t m h) :=
  (unitsAs_upAgain u d m).trans (unitsAs_of_away (told_awakened u d t m h).away)

theorem exec_pwrWakeDone {d : Fin 24} {lost : Word} (hst : (getDom s d).state = .waking) (hfix : (getDom s d).since + wakeFixed (getDom s d) d ≤ upNs s) :
    exec (.pwrWakeDone d lost) s = .next (
      let t := (getDom s d).target
      let m := if t = 2 then lost.toNat % 2 ^ bankCount d else 0
      awakened (wakeLosses s d t m) d t m (getDom s d).wakeHost) := by
  refine (if_pos ⟨hst, hfix⟩).trans ?_
  unfold awakened
  dsimp only
  cases (getDom s d).wakeHost <;> rfl

/-! ### What a wake finds -/

theorem loseBanks_zero (s : State) (d : Nat) : loseBanks s d 0 = s := by
  have hnone : ((upFrom 0 (bankCount d)).filter fun b => bit 0 b) = [] := by
    rw [List.filter_eq_nil_iff]
    simp [bit]
  unfold loseBanks
  rw [hnone, List.foldl_nil]

theorem rasps_wakeChannel (s : State) (ch t : Nat) : (wakeChannel s ch t).rasps = s.rasps := by
  unfold wakeChannel
  dsimp only
  split
  · split
    · exact foldl_keeps (g := fun s c => ctrSet s c ch 0) (P := fun u => u.rasps = s.rasps) (fun _ _ h => h) rfl memCtrs
    · rfl
  · rfl

theorem wakeLosses_of_light (hm : isMemGroup d = false) : wakeLosses s d 1 0 = s := by
  unfold wakeLosses
  dsimp only
  rw [if_neg (by decide : ¬(1 = 3)), if_neg (by decide : ¬(1 = 2)), loseBanks_zero, hm]
  rfl

theorem rasps_wakeLosses_empty : (wakeLosses s d 3 0).rasps = (wakeEmpty s d).rasps := by
  unfold wakeLosses
  dsimp only
  rw [if_pos rfl, if_neg (by decide : ¬(3 = 2)), loseBanks_zero]
  split
  · exact foldl_keeps (P := fun u => u.rasps = (wakeEmpty s d).rasps) (fun u ch h => (rasps_wakeChannel u ch 3).trans h) rfl _
  · rfl

/-! ### Zeroed memories -/

theorem cellGet_zeroSram (s : State) (a n x : Nat) :
    cellGet (zeroSram s a n).mem.bytes x = if a ≤ x ∧ x < a + n then memDefault else cellGet s.mem.bytes x := cellGet_cellsZero _ _ _ _

theorem default_zeroSram {x : Nat} (h : cellGet s.mem.bytes x = memDefault) (a n : Nat) : cellGet (zeroSram s a n).mem.bytes x = memDefault := by
  rw [cellGet_zeroSram]
  split
  · rfl
  · exact h

/-- A cluster after S3: its memory zeroed, its DMA channels and its Rasp at reset. -/
def emptyCluster (s : State) (cl : Nat) : State :=
  setRasp ((upFrom 0 16).foldl (fun s c => setDma s (dmaNo cl c) {}) (zeroSram s (clusterBase cl) 0x400000)) cl {}

theorem wakeEmpty_eq (s : State) (d : Nat) : wakeEmpty s d =
    let u := (groupClusters d).foldl emptyCluster ((groupCores d).foldl (fun s c => zeroSram s (tileBase c) 0x80000) s)
    if isMemGroup d then zeroSram u (storeBase (d / 9)) 0x4000000 else u := rfl

theorem bytes_emptyCluster (s : State) (cl : Nat) : (emptyCluster s cl).mem.bytes = (zeroSram s (clusterBase cl) 0x400000).mem.bytes :=
  foldl_keeps (g := fun s c => setDma s (dmaNo cl c) {}) (P := fun u => u.mem.bytes = (zeroSram s (clusterBase cl) 0x400000).mem.bytes) (fun _ _ h => h) rfl _

theorem default_tile {c x : Nat} (hc : c ∈ groupCores d) (hlo : tileBase c ≤ x) (hhi : x < tileBase c + 0x80000) :
    cellGet (wakeEmpty s d).mem.bytes x = memDefault := by
  have hcores : cellGet ((groupCores d).foldl (fun s c => zeroSram s (tileBase c) 0x80000) s).mem.bytes x = memDefault :=
    foldl_establishes (g := fun s c => zeroSram s (tileBase c) 0x80000)
      (P := fun u c => tileBase c ≤ x ∧ x < tileBase c + 0x80000 → cellGet u.mem.bytes x = memDefault)
      (fun u c h => by rw [cellGet_zeroSram, if_pos h]) (fun u c b h hb => default_zeroSram (h hb) _ _) hc s ⟨hlo, hhi⟩
  have hclusters := foldl_keeps (g := emptyCluster) (P := fun u => cellGet u.mem.bytes x = memDefault)
    (fun u cl h => (congrArg (cellGet · x) (bytes_emptyCluster u cl)).trans (default_zeroSram h _ _)) hcores (groupClusters d)
  rw [wakeEmpty_eq]
  dsimp only
  split
  · exact default_zeroSram hclusters _ _
  · exact hclusters

theorem cellsRead_one (m : List Host.Cell) (a : Nat) : cellsRead m a 1 = [cellGet m a] := rfl

/-! ### Rasps and DMA channels at reset -/

/-- The Rasp and the DMA channels of cluster `cl` are at reset. -/
def ClusterAtReset (s : State) (cl : Nat) : Prop := getRasp s cl = {} ∧ ∀ c, c < 16 → getDma s (dmaNo cl c) = {}

/-- A Rasp put at reset keeps every cluster that is at reset, and completes its own whose channels are. -/
theorem clusterAtReset_setRasp {cl k : Nat} (hrasp : k ≠ cl → getRasp s k = {}) (hdma : ∀ c, c < 16 → getDma s (dmaNo k c) = {}) :
    ClusterAtReset (setRasp s cl {}) k := by
  refine ⟨?_, hdma⟩
  rw [getRasp_setRasp]
  split
  · rfl
  next h => exact hrasp h

theorem getDma_setDma_same (s : State) (k : Nat) (x : DmaCh) : getDma (setDma s k x) k = x := (getDma_setDma s k k x).trans (if_pos rfl)

theorem getDma_reset {k : Nat} (h : getDma s k = {}) (j : Nat) : getDma (setDma s j {}) k = {} := by
  rw [getDma_setDma]
  split
  · rfl
  · exact h

theorem clusterChannels_own {cl c : Nat} {l : List Nat} (hc : c ∈ l) : getDma (l.foldl (fun s c => setDma s (dmaNo cl c) {}) s) (dmaNo cl c) = {} :=
  foldl_establishes (g := fun s c => setDma s (dmaNo cl c) {}) (P := fun u c => getDma u (dmaNo cl c) = {})
    (fun u c => getDma_setDma_same u (dmaNo cl c) {}) (fun _ a _ h => getDma_reset h (dmaNo cl a)) hc s

theorem clusterAtReset_emptyCluster_own (s : State) (cl : Nat) : ClusterAtReset (emptyCluster s cl) cl :=
  clusterAtReset_setRasp (fun h => absurd rfl h) fun _ hc => clusterChannels_own (mem_upFrom.2 ⟨Nat.zero_le _, by omega⟩)

theorem clusterAtReset_emptyCluster {k : Nat} (h : ClusterAtReset s k) (cl : Nat) : ClusterAtReset (emptyCluster s cl) k := by
  obtain ⟨hrasp, hdma⟩ := foldl_keeps (g := fun s c => setDma s (dmaNo cl c) {}) (P := fun u => ClusterAtReset u k)
    (fun _ _ hu => ⟨hu.1, fun j hj => getDma_reset (hu.2 j hj) _⟩) (s := zeroSram s (clusterBase cl) 0x400000) h (upFrom 0 16)
  exact clusterAtReset_setRasp (fun _ => hrasp) hdma

theorem clusterAtReset_wakeEmpty {cl : Nat} (h : cl ∈ groupClusters d) : ClusterAtReset (wakeEmpty s d) cl := by
  have hcl : ClusterAtReset ((groupClusters d).foldl emptyCluster ((groupCores d).foldl (fun s c => zeroSram s (tileBase c) 0x80000) s)) cl :=
    foldl_establishes clusterAtReset_emptyCluster_own (fun _ a _ hb => clusterAtReset_emptyCluster hb a) h _
  rw [wakeEmpty_eq]
  dsimp only
  split
  · exact hcl
  · exact hcl

/-! ### Banks that lose their contents -/

theorem cellGet_loseBank {a n x : Nat} (h : x < a ∨ a + n ≤ x) : cellGet (loseBank s a n).mem.bytes x = cellGet s.mem.bytes x := by
  have hlen : (freeBytes s n).1.length = n := by simp [freeBytes, upFrom_length]
  exact byteAt_writeBytes_outside (freeBytes s n).2 a x (freeBytes s n).1 (by rw [hlen]; exact h)

/-- A fold of steps that each leave `f` alone leaves it alone. -/
theorem foldl_leaves {α β : Type} (f : State → β) {g : State → α → State} {l : List α} (hg : ∀ a ∈ l, ∀ s, f (g s a) = f s) (s : State) : f (l.foldl g s) = f s := by
  induction l generalizing s with
  | nil => rfl
  | cons a r ih => exact (ih (fun b hb => hg b (List.mem_cons_of_mem a hb)) _).trans (hg a List.mem_cons_self s)

theorem cellGet_loseBanks {m x : Nat} (h : ∀ b r, b < bankCount d → bit m b = true → r ∈ bankRanges d b → x < r.1 ∨ r.1 + r.2 ≤ x) :
    cellGet (loseBanks s d m).mem.bytes x = cellGet s.mem.bytes x := by
  refine foldl_leaves (fun u => cellGet u.mem.bytes x) (fun b hb u => ?_) s
  obtain ⟨hrange, hbit⟩ := List.mem_filter.1 hb
  have hlt : b < bankCount d := by simpa [mem_upFrom] using hrange
  exact foldl_leaves (fun u => cellGet u.mem.bytes x) (fun r hr _ => cellGet_loseBank (h b r hlt hbit hr)) u

end Sys2Proof.Machine
end

section
/-!
THEOREMS. How domains wake and change their performance level.
-/
namespace Sys2Proof.Machine

variable {s : State} {d : Nat}

/-! ### A request to wake -/

theorem wakeReq_of_stopped (h : s.th.trip = true ∨ s.su.fail.isSome = true) (deep : Bool) (code : Nat) : wakeReq s d deep code = s :=
  if_pos (Bool.or_eq_true_iff.2 h)

/-- A request to wake, while nothing has stopped the module, acts by the state of the domain. -/
theorem wakeReq_of_running (htrip : s.th.trip = false) (hfail : s.su.fail = none) (deep : Bool) (code : Nat) : wakeReq s d deep code =
    match (getDom s d).state with
    | .s1 => setDom s d { getDom s d with state := .waking, since := upNs s }
    | .s2 => setDom s d { getDom s d with state := .waking, since := upNs s }
    | .s3 => if deep then setDom s d { getDom s d with state := .waking, since := upNs s } else s
    | .entering => if (getDom s d).target = 3 ∧ deep = false then s else setDom s d { getDom s d with wakePend := true }
    | .awake => withdrawSet s d code
    | _ => s := by
  refine (if_neg ?_).trans rfl
  rw [htrip, hfail]
  exact Bool.false_ne_true

/-! ### The timeouts of a wake -/

theorem exec_pwrWakeTimeout_due {d : Fin 24} (pll osc : Bool) (hst : (getDom s d).state = .waking) (ht : 2 ≤ (getDom s d).target)
    (hdue : (getDom s d).since + (if pll then 50000 else 100000) ≤ upNs s) : exec (.pwrWakeTimeout d pll osc) s =
      if !(if pll then (getDom s d).retry3 else (getDom s d).retry1) then
        let u := setDom s d (if pll then { getDom s d with retry3 := true, since := upNs s } else { getDom s d with retry1 := true, since := upNs s })
        .next (if pll && osc then failOsc u u.tm.osc else u)
      else
        let u := raiseDom (pwrState (failDomain s d) d (getDom s d).target 6) d 0x0A01 d 0 (if cellDepends s d then 2 else 1)
        match (getDom s d).wakeHost with
        | some h => .next (replyLater (noteOther u d 8 none) h 0x09 (one 8))
        | none => .next u := by
  refine (if_neg ?_).trans rfl
  rintro (hne | hlt | hlt)
  · exact hne hst
  · exact absurd ht (Nat.not_le_of_lt hlt)
  · exact absurd hdue (Nat.not_le_of_lt hlt)

theorem wakeFixed_light {x : Dom} (ht : x.target = 1) (hm : isMemGroup d = false) : wakeFixed x d = 0 := by
  unfold wakeFixed
  rw [ht, hm]
  rfl

theorem wakeFixed_retained {x : Dom} (ht : x.target = 2) (hr : x.retry3 = false) : wakeFixed x d = if isMemGroup d then 17000 else 15000 := by
  unfold wakeFixed
  rw [ht, hr]
  cases isMemGroup d <;> rfl

theorem domainsWake : Parts.DomainsWake := by
  intro d s x
  refine ⟨rfl, fun p hp => ?_, fun p hp => ?_, fun deep k h => wakeReq_of_stopped h deep k, fun htrip hfail k => ?_, fun pll osc h => if_pos h,
    fun osc hst ht hdue => ?_, fun lost h => if_neg ?_, wakeFixed_light, wakeFixed_retained, fun lost hst ht hm hdue => ?_,
    fun lost hst hdue => ⟨_, exec_pwrWakeDone hst hdue, awake_awakened _ _ _ _ _⟩, fun lost hst ht hdue => ⟨_, exec_pwrWakeDone hst hdue, ?_⟩,
    fun c hc a hlo hhi => ?_, fun cl hcl => clusterAtReset_wakeEmpty hcl, fun m a h => ?_⟩
  · exact congrArg Host.Outcome.next (if_pos hp)
  · exact congrArg Host.Outcome.next (if_neg (ne_true_of_eq_false hp))
  · have hreq := fun deep => wakeReq_of_running (d := d) htrip hfail deep k
    refine ⟨fun h => ?_, fun h => ?_, fun h => ?_, fun deep h => ?_⟩
    · rw [hreq]
      obtain h | h | h := h
      · rw [h]
      · rw [h]
      · rw [h]
        rfl
    · rw [hreq, h]
      rfl
    · have hentering := hreq true
      rw [h] at hentering
      exact hentering.trans (if_neg (not_and_of_not_right _ (by decide)))
    · rw [hreq]
      obtain h | h := h <;> rw [h]
  · have hdues : ∀ pll : Bool, x.since + (if pll then 50000 else 100000) ≤ upNs s := fun pll =>
      (Nat.add_le_add_left (by cases pll <;> decide) _).trans hdue
    have hexec := fun pll => exec_pwrWakeTimeout_due pll osc hst ht (hdues pll)
    refine ⟨fun hr => ?_, fun hr hosc => ?_, fun hr hosc => ?_, fun pll hr => ?_⟩
    · exact (hexec false).trans (if_pos (congrArg not hr))
    · exact (hexec true).trans ((if_pos (congrArg not hr)).trans (congrArg Host.Outcome.next (if_neg (ne_true_of_eq_false hosc))))
    · exact (hexec true).trans ((if_pos (congrArg not hr)).trans (congrArg Host.Outcome.next (if_pos hosc)))
    · have hfail := (hexec pll).trans (if_neg (ne_true_of_eq_false (congrArg not hr)))
      intro u
      refine ⟨fun hhost => hfail.trans ?_, fun h hhost => hfail.trans ?_⟩
      · rw [hhost]
      · rw [hhost]
        rfl
  · rintro ⟨hst, hdue⟩
    exact h.elim (fun hne => hne hst) fun hlt => absurd hdue (Nat.not_le_of_lt hlt)
  · have hdone : x.since + wakeFixed x d ≤ upNs s := by
      rw [wakeFixed_light ht hm]
      exact hdue
    refine ⟨_, exec_pwrWakeDone hst hdone, ?_⟩
    have hlight : wakeLosses s d 1 0 = s := wakeLosses_of_light hm
    dsimp only
    rw [show (getDom s d).target = 1 from ht, if_neg (by decide : ¬(1 = 2)), hlight]
    obtain ⟨hmem, hdma, hrasps⟩ := unitsAs_awakened s d 1 0 (getDom s d).wakeHost
    exact ⟨congrArg Mem.sramErr hmem, hdma, hrasps⟩
  · dsimp only
    rw [show (getDom s d).target = 3 from ht, if_neg (by decide : ¬(3 = 2))]
    intro cl hcl
    have hrasps := (unitsAs_awakened (wakeLosses s d 3 0) d 3 0 (getDom s d).wakeHost).2.2.trans rasps_wakeLosses_empty
    exact (congrArg (fun t : Tab Rasp => tget t {} cl) hrasps).trans (clusterAtReset_wakeEmpty hcl).1
  · rw [cellsRead_one, default_tile hc hlo hhi]
    rfl
  · rw [cellsRead_one, cellsRead_one, cellGet_loseBanks h]

/-! ### Levels -/

theorem getDom_startLevel (l : Nat) (h : Option Nat) :
    getDom (startLevel s d l h) d = { getDom s d with plTo := some (l, if l < (getDom s d).pl then .rampUp else .waitTick), plHost := h } :=
  getDom_updDom_same _ _ _

theorem dom_plHost_none {x : Dom} (h : x.plHost = none) (l : Nat) (p : Option (Nat × PlPhase)) :
    { x with pl := l, plHost := none, plTo := p } = { x with pl := l, plTo := p } := by
  cases x
  cases h
  rfl

theorem dom_plTo_self {x : Dom} {p : Option (Nat × PlPhase)} (h : x.plTo = p) (l : Nat) : { x with pl := l, plTo := p } = { x with pl := l } := by
  cases h
  rfl

theorem levelsChange : Parts.LevelsChange := by
  intro d s x
  have hvolt : exec (.pwrVoltSettled d) s = match x.plTo with
    | some (l, .rampUp) => .next (updDom s d fun x => { x with plTo := some (l, .waitTick) })
    | _ => .next s := rfl
  have hramp : exec (.voltageRampDownDone d) s = match x.plTo with
    | some (_, .rampDown) => .next (levelDone s d)
    | _ => .next s := rfl
  refine ⟨fun l h => ?_, fun h => ?_, fun l h => ?_, fun h => ?_, fun l h => getDom_startLevel l h, ⟨fun h => ?_, fun k h => ?_, fun l k h hl => ?_⟩,
    fun l h hhost => ?_, fun h => ?_⟩
  · refine hvolt.trans ?_
    rw [h]
    rfl
  · refine hvolt.trans ?_
    split
    next l hl => exact absurd hl (h l)
    · rfl
  · refine hramp.trans ?_
    rw [h]
  · refine hramp.trans ?_
    split
    next l hl => exact absurd hl (h l)
    · rfl
  · unfold levelDone
    dsimp only
    rw [show (getDom s d).plHeld = none from h]
  · unfold levelDone
    dsimp only
    rw [show (getDom s d).plHeld = some (x.pl, some k) from h]
    exact if_pos rfl
  · unfold levelDone
    dsimp only
    rw [show (getDom s d).plHeld = some (l, k) from h]
    exact if_neg hl
  · have hswitch : freqSwitch s d =
        let v := sigPwr (setDom s d { x with pl := l, plTo := if decide (l < x.pl) then some (l, .waitTick) else some (l, .rampDown) }) d
        if decide (l < x.pl) then levelDone v d else v := by
      unfold freqSwitch
      dsimp only
      rw [show (getDom s d).plTo = some (l, .waitTick) from h]
      dsimp only
      rw [show (getDom s d).plHost = none from hhost, dom_plHost_none hhost]
    refine ⟨fun hl => ?_, fun hl => ?_⟩
    · rw [hswitch, decide_eq_true hl]
      exact congrArg (fun y => levelDone (sigPwr (setDom s d y) d) d) (dom_plTo_self h l)
    · rw [hswitch, decide_eq_false (Nat.not_lt_of_le hl)]
      rfl
  · unfold freqSwitch
    dsimp only
    split
    next l hl => exact absurd hl (h l)
    · rfl

/-- Settles O53, from the wake of domains and their changes of level. -/
theorem domainsWakeAndChangeLevel : Obligations.DomainsWakeAndChangeLevel := ⟨domainsWake, levelsChange⟩

end Sys2Proof.Machine
end

section
/-!
SUPPORT. What an access to memory leaves alone: all but memory itself, counters, free values, items, host ports and the fault unit (MemOps).
-/
namespace Sys2Proof.Machine

/-- `s` is `A` but for memory and for what events, answers and counters change. -/
def Reached (A s : State) : Prop := Away A { s with mem := A.mem } ∧ s.doms = A.doms

variable {A s : State}

theorem reached_refl (s : State) : Reached s s := ⟨away_refl s, rfl⟩

theorem reached_of_away {t : State} (h : Reached A s) (k : Away s t) (hdoms : t.doms = s.doms) : Reached A t := by
  have haway : Away A { { t with ctr := s.ctr, fresh := s.fresh, dv := s.dv, hosts := s.hosts, doms := s.doms, flt := s.flt } with mem := A.mem } := by
    rw [away_eq k]
    exact h.1
  exact ⟨haway, hdoms.trans h.2⟩

theorem reached_of_told {t : State} (h : Reached A s) (k : Told s t) : Reached A t := reached_of_away h k.away k.doms

theorem Reached.dma (h : Reached A s) : s.dma = A.dma := (away_dma h.1 :)
theorem Reached.cores (h : Reached A s) : s.cores = A.cores := (away_cores h.1 :)
theorem Reached.noc (h : Reached A s) : s.noc = A.noc := (away_noc h.1 :)
theorem Reached.now (h : Reached A s) : s.now = A.now := (away_now h.1 :)
theorem Reached.tu (h : Reached A s) : s.tu = A.tu := (away_tu h.1 :)
theorem Reached.su (h : Reached A s) : s.su = A.su := (away_su h.1 :)
theorem Reached.bh (h : Reached A s) : s.bh = A.bh := (away_bh h.1 :)
theorem Reached.tm (h : Reached A s) : s.tm = A.tm := (away_tm h.1 :)

theorem reached_fst {α : Type} {r : α × State} {a : α} {t : State} (e : r = (a, t)) (h : Reached A r.2) : Reached A t := by subst e; exact h

theorem reached_snd {α β : Type} {r : α × β × State} {a : α} {b : β} {t : State} (e : r = (a, b, t)) (h : Reached A r.2.2) : Reached A t := by
  subst e; exact h

theorem reached_raiseHolders (h : Reached A s) (f : Nat → Bool) (code w2 w3 : Nat) : Reached A (raiseHolders s f code w2 w3) :=
  reached_of_told h (told_raiseHolders (told_refl s) f code w2 w3)

/-! ### Pages -/

theorem reached_showFlips (h : Reached A s) (ch page : Nat) : Reached A (showFlips s ch page) := by
  unfold showFlips
  dsimp only
  split
  · exact h
  · exact h

theorem reached_unstage (h : Reached A s) (ch : Nat) (e : Staged) : Reached A (unstage s ch e) := by
  unfold unstage
  dsimp only
  split
  · exact h
  · exact reached_showFlips h ch e.page

theorem reached_stage (h : Reached A s) (ch page : Nat) (dirty : Bool) : Reached A (stage s ch page dirty) := by
  unfold stage
  dsimp only
  split
  · exact h
  · split
    next e _ => exact reached_unstage (s := updCh s ch _) h ch e
    · exact h

theorem reached_retirePage (h : Reached A s) (ch page : Nat) : Reached A (retirePage s ch page) := by
  unfold retirePage
  dsimp only
  split
  · exact h
  · exact h

theorem reached_notePage (h : Reached A s) (ch page : Nat) : Reached A (notePage s ch page) := by
  unfold notePage
  dsimp only
  generalize trkNote _ _ _ = r
  obtain ⟨l, hard, ovf⟩ := r
  cases hard
  · cases ovf
    · exact h
    · exact h
  · refine reached_retirePage ?_ ch page
    cases ovf
    · exact h
    · exact h

theorem reached_pageUnc (h : Reached A s) (ch page : Nat) (tag : Bool) : Reached A (pageUnc s ch page tag) := by
  unfold pageUnc
  cases tag
  · exact reached_raiseHolders (s := noteUnc (bump s .memUnc ch) ch _) h _ _ _ _
  · exact reached_raiseHolders (s := noteUnc (bump (bump s .memUnc ch) .memTagErr ch) ch _) h _ _ _ _

theorem reached_fetchPage (h : Reached A s) (ch page : Nat) (alloc : Bool) : Reached A (fetchPage s ch page alloc).2 := by
  unfold fetchPage
  dsimp only
  split
  next e _ => exact reached_stage (s := bump s .memStgHit ch) h ch page e.dirty
  · split
    · split
      · exact reached_stage (s := (takeFree (bump s .memStgMiss ch) 1).2) h ch page false
      · exact h
    · exact reached_notePage (reached_stage (s := bump (takeFree (bump s .memStgMiss ch) 1).2 .memCorr ch) h ch page true) ch page
    · exact h
    · exact reached_pageUnc (s := (takeFree (bump s .memStgMiss ch) 1).2) h ch page _

theorem reached_writeWholePage (h : Reached A s) (ch page : Nat) (bs : List Byte) : Reached A (writeWholePage s ch page bs) := by
  have hupset : Reached A (upsetPage (encodePage (writeBytes s (pageAddr ch page) bs) ch page) ch page (injBits (getCh s ch)) false) :=
    reached_showFlips (s := setPage (encodePage (writeBytes s (pageAddr ch page) bs) ch page) ch page _) h ch page
  exact hupset

theorem reached_writePartPage (h : Reached A s) (ch page a : Nat) (bs : List Byte) : Reached A (writePartPage s ch page a bs).2 := by
  unfold writePartPage
  split
  next t e =>
    have ht : Reached A t := reached_fst e (reached_fetchPage h ch page true)
    exact reached_stage (s := writeBytes t a bs) ht ch page true
  next st t _ e =>
    have ht : Reached A t := reached_fst e (reached_fetchPage h ch page true)
    exact ht

/-! ### Words of SRAM -/

theorem reached_repairRow (h : Reached A s) (i w : Nat) : Reached A (repairRow s i w) := by
  unfold repairRow
  dsimp only
  split
  · exact h
  · exact h

theorem reached_correctWord (h : Reached A s) (w : Nat) : Reached A (correctWord s w) := by
  unfold correctWord
  generalize srOfWord w = i
  generalize srIndex w = n
  dsimp only
  generalize trkNote _ _ _ = r
  obtain ⟨l, hard, ovf⟩ := r
  cases hard
  · cases ovf
    · exact h
    · exact h
  · refine reached_repairRow ?_ i w
    cases ovf
    · exact h
    · exact h

theorem reached_wordUnc (h : Reached A s) (w by_ : Nat) : Reached A (wordUnc s w by_) := by
  unfold wordUnc
  dsimp only
  refine reached_raiseHolders ?_ _ _ _ _
  generalize srOfWord w = i
  exact h

theorem reached_readWords (h : Reached A s) (l : List Nat) : Reached A (readWords s l).2 := by
  induction l generalizing s with
  | nil => exact h
  | cons w r ih =>
    unfold readWords
    split
    · exact ih h
    · split
      · exact ih (reached_correctWord h w)
      · exact reached_wordUnc h w _

theorem reached_writeSram (h : Reached A s) (a : Nat) (bs : List Byte) : Reached A (writeSram s a bs).2 := by
  unfold writeSram
  split
  next t e => exact (reached_fst e (reached_readWords h _) : Reached A t)
  next e => exact reached_fst e (reached_readWords h _)

/-! ### Accesses -/

theorem reached_noteRefused (h : Reached A s) (a st : Nat) : Reached A (noteRefused s a st) := by
  unfold noteRefused noteGate
  split
  · split
    · exact h
    · exact h
  · exact h

theorem reached_readPiece (h : Reached A s) (who : Option Nat) (a n : Nat) : Reached A (readPiece s who a n).2.2 := by
  unfold readPiece
  dsimp only
  split
  · exact reached_noteRefused h a _
  · split
    · split
      next e => exact reached_fst e (reached_fetchPage h _ _ _)
      next e => exact reached_fst e (reached_fetchPage h _ _ _)
    · split
      next e => exact reached_fst e (reached_readWords h _)
      next e => exact reached_fst e (reached_readWords h _)

theorem reached_writePiece (h : Reached A s) (who : Option Nat) (a : Nat) (bs : List Byte) : Reached A (writePiece s who a bs).2 := by
  unfold writePiece
  dsimp only
  split
  · exact reached_noteRefused h a _
  · split
    · split
      · exact reached_writeWholePage h _ _ bs
      · exact reached_writePartPage h _ _ a bs
    · exact reached_writeSram h a bs

theorem reached_readPieces (h : Reached A s) (who : Option Nat) (l : List (Nat × Nat)) : Reached A (readPieces s who l).2.2 := by
  induction l generalizing s with
  | nil => exact h
  | cons p r ih =>
    obtain ⟨a, n⟩ := p
    unfold readPieces
    split
    next e => exact ih (reached_snd e (reached_readPiece h who a n))
    next e => exact reached_snd e (reached_readPiece h who a n)

theorem reached_writePieces (h : Reached A s) (who : Option Nat) (bs : List Byte) (l : List (Nat × Nat)) : Reached A (writePieces s who bs l).2.2 := by
  induction l generalizing s bs with
  | nil => exact h
  | cons p r ih =>
    obtain ⟨a, n⟩ := p
    unfold writePieces
    split
    next e => exact ih (reached_fst e (reached_writePiece h who a (bs.take n))) _
    next e => exact reached_fst e (reached_writePiece h who a (bs.take n))

theorem reached_memRead (h : Reached A s) (who : Option Nat) (a n : Nat) : Reached A (memRead s who a n).2.2 := reached_readPieces h who _

theorem reached_memWrite (h : Reached A s) (who : Option Nat) (a : Nat) (bs : List Byte) : Reached A (memWrite s who a bs).2.2 :=
  reached_writePieces h who bs _

end Sys2Proof.Machine
end

section
/-!
SUPPORT. A channel of a DMA engine through the requests that its engine makes: the copy of one packet, and the end of a descriptor (11_dma R248 to
R254).
-/
namespace Sys2Proof.Machine

variable {s : State} {k : Nat}

theorem getDma_of_dma {t : State} (h : t.dma = s.dma) (k : Nat) : getDma t k = getDma s k := congrArg (fun d : Tab DmaCh => tget d {} k) h

/-! ### The end of a descriptor -/

theorem dma_dmaWrite (s : State) (k a : Nat) (bs : List Byte) : (dmaWrite s k a bs).dma = s.dma := by
  have hwrite : (memWrite (takeSeq s (dmaPort k)) (some (dmaPart (takeSeq s (dmaPort k)) k)) a bs).2.2.dma = s.dma :=
    (reached_memWrite (reached_refl (takeSeq s (dmaPort k))) _ a bs).dma
  unfold dmaWrite
  dsimp only
  cases destOf a with
  | none => exact hwrite
  | some d =>
    dsimp only
    split
    · rfl
    · exact hwrite

theorem dma_signalDma (s : State) (k : Nat) : (signalDma s k).dma = s.dma := by
  unfold signalDma
  dsimp only
  split
  · exact away_dma (away_signalCore _ _ (away_refl s))
  · rfl

theorem getDma_dmaSignals (s : State) (k : Nat) : getDma (dmaSignals s k) k =
    { getDma s k with ccnt := ((getDma s k).ccnt + 1) % 65536, done := (getDma s k).done || bit (ddCtl (getDma s k).cur) 9 } := by
  refine Eq.trans ?_ (getDma_setDma_same s k _)
  refine getDma_of_dma ?_ k
  have hdone : ∀ (b : Bool) (u : State), (if b then signalDma u k else u).dma = u.dma := by
    intro b u
    cases b
    · rfl
    · exact dma_signalDma u k
  unfold dmaSignals
  dsimp only
  split
  · exact (away_dma (away_enqueueExt _ _ _ (away_refl _))).trans (hdone _ _)
  · exact hdone _ _

/-- The channel as its completed descriptor leaves it, before it goes on (R252). -/
def completed (x : DmaCh) : DmaCh :=
  { x with
    ccnt := (x.ccnt + 1) % 65536, done := x.done || bit (ddCtl x.cur) 9, seqs := [], endCode := 0
    gone := (x.gone.filter fun e => !x.seqs.contains e.1) ++ x.seqs.map fun n => (n, x.desc) }

theorem completeDesc_of_running (hn : (getDma s k).haltNext = false) (hs : (getDma s k).stop = false) (code fstat : Nat) (land : Bool) :
    ∃ u, getDma u k = completed (getDma s k) ∧ completeDesc s k code fstat land false =
      if ddEnd (getDma s k).cur then park u k true
      else setDma u k (if (getDma s k).pause then { completed (getDma s k) with desc := ddNext (getDma s k).cur, linkOnly := false, state := .paused, back := .fetch, pos := 0 }
        else { completed (getDma s k) with desc := ddNext (getDma s k).cur, linkOnly := false, state := .fetch }) := by
  obtain ⟨w, hw⟩ : ∃ w, w = dmaWrite (dmaWrite s k ((getDma s k).desc + 32)
    (leBytes (dmaStatus code fstat ((getDma s k).late && code != 2) land) 4)) k (getDma s k).desc (leBytes (ddCtl (getDma s k).cur % 2 ^ 31) 4) := ⟨_, rfl⟩
  have hx : getDma w k = getDma s k := getDma_of_dma (hw ▸ (dma_dmaWrite _ _ _ _).trans (dma_dmaWrite _ _ _ _)) k
  have hsig := getDma_dmaSignals w k
  rw [hx] at hsig
  refine ⟨setDma (dmaSignals w k) k (completed (getDma s k)), getDma_setDma_same _ _ _, ?_⟩
  unfold completeDesc
  dsimp only
  rw [← hw, hsig]
  dsimp only
  exact (if_neg (by rw [hn]; decide)).trans ((if_neg (ne_true_of_eq_false hs)).trans rfl)

theorem park_getDma {u : State} {x : DmaCh} (h : getDma u k = x) (hp : x.pause = false) (link : Bool) :
    getDma (park u k link) k = { x with pendDb := false, linkOnly := link, state := if x.pendDb then .fetch else .parked } := by
  unfold park
  dsimp only
  rw [h, hp]
  exact getDma_setDma_same _ _ _

/-! ### The copy of one packet -/

theorem wrapPieces_one {a n : Nat} (hn : 0 < n) (hpage : n ≤ 4096 - a % 2 ^ 48 % 4096) : wrapPieces a 0 0 n (n + 1) = [(a % 2 ^ 48, n)] := by
  have haddr : wrapAddr a 0 0 = a % 2 ^ 48 := rfl
  obtain ⟨m, rfl⟩ : ∃ m, n = m + 1 := ⟨n - 1, by omega⟩
  rw [wrapPieces, if_neg (by omega)]
  dsimp only
  rw [haddr, if_pos rfl, Nat.min_eq_right hpage, Nat.sub_self, wrapPieces, if_pos rfl]

/-- Where no byte is hit, the bytes are as they were read. -/
theorem blur_of_clear {hit : Nat → Nat → Bool} {a n : Nat} {bs : List Byte} (hlen : bs.length = n) (hclear : ∀ i, i < n → hit i (a + i) = false) :
    blur s hit (upFrom a n) bs = (bs, { s with fresh := s.fresh + n }) := by
  unfold blur
  rw [hlen]
  refine congrArg (·, _) (List.ext_getElem (by simp [upFrom_length, hlen]) fun i _ hi => ?_)
  have hbyte := hclear i (hlen ▸ hi)
  simp [upFrom_eq_range', hbyte]

theorem crossing_setPort (q : Nat) (y : NocPort) (epoch : Bool) (src dest die x v f : Nat) :
    crossing (setPort s q y) epoch src dest die x v f = crossing s epoch src dest die x v f := by
  induction f generalizing x v with
  | zero => rfl
  | succ f ih =>
    have hroute : routeOf (setPort s q y) epoch die x v dest = routeOf s epoch die x v dest := rfl
    rw [crossing, crossing, hroute]
    split
    · exact ih _ _
    · exact ih _ _
    · exact ih _ _
    · exact ih _ _
    · rfl

theorem pathDown_takeSeq (q src dest : Nat) : pathDown (takeSeq s q) src dest = pathDown s src dest := by
  have hepoch : (getPort (takeSeq s q) src).epoch = (getPort s src).epoch := by
    unfold takeSeq
    rw [getPort_setPort]
    split
    next h => rw [h]
    · rfl
  unfold pathDown
  rw [hepoch, takeSeq, crossing_setPort]
  rfl

theorem dmaCut_takeSeq (q a : Nat) : dmaCut (takeSeq s q) k a = dmaCut s k a := by
  unfold dmaCut
  split
  · rw [pathDown_takeSeq, pathDown_takeSeq]
  · rfl

theorem dmaRead_one {a n : Nat} {bs : List Byte} {u : State} (hspace : targetOf a ≠ .regs) (hcut : dmaCut s k a = false)
    (hread : memRead (takeSeq s (dmaPort k)) (some (dmaPart s k)) a n = (0, bs, u)) : dmaRead s k [(a, n)] = ((bs, 0, 0), u) := by
  have hcut' : dmaCut (takeSeq s (dmaPort k)) k a = false := (dmaCut_takeSeq _ a).trans hcut
  unfold dmaRead
  dsimp only
  rw [if_neg (ne_true_of_eq_false hcut'), if_neg hspace, hread]
  dsimp only
  rw [if_neg (by decide), dmaRead, List.append_nil]

theorem dmaPieces_one {m b : Nat} {bs : List Byte} (hm : bs.length ≤ m) (f : Nat) : dmaPieces s k m bs [(b, bs.length)] (f + 1) = dmaSend s k b bs := by
  rw [dmaPieces, if_pos hm, List.take_length]
  cases f <;> rfl

/-- A copy of one packet: what it reads is sent to its destination. -/
theorem moveUnits_copy_one {n a b : Nat} {bs : List Byte} {u : State} (hmode : ddMode (getDma s k).cur = 0) (hsw : ddSwrap (getDma s k).cur = 0)
    (hdw : ddDwrap (getDma s k).cur = 0) (hpos : (getDma s k).pos = 0) (hwrote : (getDma s k).wrote = []) (ha : a = (getDma s k).src0 % 2 ^ 48)
    (hb : b = (getDma s k).dst0 % 2 ^ 48) (hn : 0 < n) (hsp : n ≤ 4096 - a % 4096) (hdp : n ≤ 4096 - b % 4096) (hmax : n ≤ 64 * 2 ^ (getDma s k).wmax)
    (hover : a < b → a + n ≤ b) (hspace : targetOf a ≠ .regs) (hcut : dmaCut s k a = false)
    (hread : memRead (takeSeq s (dmaPort k)) (some (dmaPart s k)) a n = (0, bs, u)) (hlen : bs.length = n) :
    moveUnits s k n (n + 1) =
      updDma (updDma (dmaSend { u with fresh := u.fresh + n } k b bs) k fun y => { y with wroteO := y.wroteO ++ [(0, n)] }) k fun y => { y with pos := n } := by
  have hdma : getDma { u with fresh := u.fresh + n } k = getDma s k :=
    getDma_of_dma (reached_snd hread (reached_memRead (reached_refl (takeSeq s (dmaPort k))) _ a n)).dma k
  have haddr : wrapAddr (getDma s k).dst0 0 0 = b := hb.symm
  have hget : dmaGet s k (fun i t => b ≤ t && t < b + i) [(0, n)] = ((bs, 0, 0), { u with fresh := u.fresh + n }) := by
    have hps : wrapPieces (getDma s k).src0 0 0 n (n + 1) = [(a, n)] := ha ▸ wrapPieces_one hn (ha ▸ hsp)
    have hblur : blur u (fun i t => (b ≤ t && t < b + i) || (getDma s k).wrote.any fun w => w.1 ≤ t && t < w.1 + w.2) (upFrom a n) bs =
        (bs, { u with fresh := u.fresh + n }) := by
      refine blur_of_clear hlen fun i hi => ?_
      rw [hwrote, List.any_nil, Bool.or_false, Bool.and_eq_false_iff, decide_eq_false_iff_not, decide_eq_false_iff_not]
      omega
    unfold dmaGet
    dsimp only
    rw [hsw, List.flatMap_singleton, hps, dmaRead_one hspace hcut hread, List.flatMap_singleton]
    dsimp only
    rw [hblur]
  have hput : dmaPut { u with fresh := u.fresh + n } k 0 bs =
      updDma (dmaSend { u with fresh := u.fresh + n } k b bs) k fun y => { y with wroteO := y.wroteO ++ [(0, n)] } := by
    have hover : ((upFrom 0 n).any (overwritten (getDma s k))) = false := by
      refine List.any_eq_false.2 fun o _ => ?_
      unfold overwritten
      rw [hdw]
      exact Bool.false_ne_true
    have hps : wrapPieces (getDma s k).dst0 0 0 n (n + 1) = [(b, n)] := hb ▸ wrapPieces_one hn (hb ▸ hdp)
    unfold dmaPut
    dsimp only
    rw [hdma, hlen, if_neg (ne_true_of_eq_false hover), hdw, hps, ← hlen, dmaPieces_one (hlen ▸ hmax)]
  have hstep : ∀ f, moveUnits (updDma (dmaPut { u with fresh := u.fresh + n } k 0 bs) k fun y => { y with pos := n }) k n f =
      updDma (dmaPut { u with fresh := u.fresh + n } k 0 bs) k fun y => { y with pos := n } := by
    intro f
    cases f with
    | zero => rfl
    | succ f =>
      have hat : (getDma (updDma (dmaPut { u with fresh := u.fresh + n } k 0 bs) k fun y => { y with pos := n }) k).pos = n :=
        congrArg DmaCh.pos (getDma_setDma_same _ _ _)
      rw [moveUnits]
      exact if_pos (Nat.le_of_eq hat.symm)
  have hne : bs.isEmpty = false := by
    cases bs with
    | nil => exact absurd hlen (Nat.ne_of_lt hn)
    | cons _ _ => rfl
  have hsize : min (min (n - 0) (4096 - b % 4096)) (min (64 * 2 ^ (getDma s k).wmax) (n - 0)) = n := by
    rw [Nat.sub_zero, Nat.min_eq_left hdp, Nat.min_eq_right hmax, Nat.min_self]
  rw [moveUnits]
  dsimp only
  rw [hpos, if_neg (by omega), hmode, if_pos (.inl rfl), if_neg (by decide : ¬(0 = 6)), hdw, haddr, if_pos rfl, hsize, hget]
  dsimp only
  rw [if_neg (by decide), hne, if_neg Bool.false_ne_true, hlen, Nat.zero_add, hstep, hput]

end Sys2Proof.Machine
end

section
/-!
THEOREMS. The descriptors of the DMA engines: how they move their units and complete.
-/
namespace Sys2Proof.Machine

theorem finishDesc_of_awaiting {u : State} {k : Nat} (h : dmaAwaits (pump u (dmaPort k)) k = true) :
    finishDesc u k = updDma (pump u (dmaPort k)) k fun x => { x with state := .completing } := by
  unfold finishDesc
  exact if_pos h

theorem finishDesc_of_landed {u : State} {k : Nat} (h : dmaAwaits (pump u (dmaPort k)) k = false) : finishDesc u k =
    let w := setCurs (pump u (dmaPort k)) k
    let x := getDma w k
    if x.endCode ≠ 0 then completeDesc w k x.endCode x.fstat (ddLand x.cur) false
    else if x.rdErr ≠ 0 then completeDesc w k 0x20 x.fstat (ddLand x.cur) true
    else if x.wrErr ≠ 0 then completeDesc w k 0x21 x.fstat (ddLand x.cur) true
    else completeDesc w k 0x01 0 (ddLand x.cur) false := by
  unfold finishDesc
  exact if_neg (ne_true_of_eq_false h)

theorem finishDesc_ends (i : Instr) (s u : State) (k : Nat) (h : exec i s = .next (finishDesc u k)) : Parts.DescriptorEnds i s u k := by
  unfold Parts.DescriptorEnds
  intro v w x
  refine ⟨fun hd => h.trans (congrArg Host.Outcome.next (finishDesc_of_awaiting hd)), fun hd => ?_⟩
  have hend := h.trans (congrArg Host.Outcome.next (finishDesc_of_landed hd))
  refine ⟨fun he => ?_, fun he hr => ?_, fun he hr hw => ?_, fun he hr hw => ?_⟩
  · exact hend.trans (congrArg Host.Outcome.next (if_pos he))
  · exact hend.trans (congrArg Host.Outcome.next ((if_neg (not_not.2 he)).trans (if_pos hr)))
  · exact hend.trans (congrArg Host.Outcome.next ((if_neg (not_not.2 he)).trans ((if_neg (not_not.2 hr)).trans (if_pos hw))))
  · exact hend.trans (congrArg Host.Outcome.next ((if_neg (not_not.2 he)).trans ((if_neg (not_not.2 hr)).trans (if_neg (not_not.2 hw)))))

theorem exec_dmaDescComplete (e : Fin 28) (c : Fin 16) (s : State) : exec (.dmaDescComplete e c) s =
    if dmaGate s (dmaNo e c) != 0 then .next s
    else if (getDma s (dmaNo e c)).state = .active then
      .next (finishDesc (moveUnits s (dmaNo e c) (unitsOf (getDma s (dmaNo e c)).cur) (unitsOf (getDma s (dmaNo e c)).cur + 1)) (dmaNo e c))
    else if (getDma s (dmaNo e c)).state = .completing then .next (finishDesc s (dmaNo e c))
    else .next s := rfl

theorem dmaSend_of_nowhere {s : State} {k a : Nat} {bs : List Byte} (h : destOf a = none) : dmaSend s k a bs = setDma s k (writeErr (getDma s k) a 4) := by
  unfold dmaSend
  rw [h]

theorem unitWrites_modes (d : List Byte) (u : Nat) (bs : List Byte) :
    (ddMode d = 1 → unitWrites d u bs = [((u % ddP d * ddA d + u / ddP d) * ddR d, bs)]) ∧
    (ddMode d = 2 → unitWrites d u bs = [((u % ddA d * ddP d + u / ddA d) * ddR d, bs)]) ∧
    (ddMode d = 5 → unitWrites d u bs = [(u, bs.take 1), (ddPlane d + ddM d * u, (bs.drop 1).take (ddM d))]) := by
  unfold unitWrites
  refine ⟨fun h => ?_, fun h => ?_, fun h => ?_⟩
  · rw [h]
    rfl
  · rw [h]
    rfl
  · rw [h]
    rfl

/-- Where a completed descriptor leaves its channel: fetching the next, or parked at END. -/
theorem completeDesc_goes_on (s : State) (k code fstat : Nat) (land : Bool) (hn : (getDma s k).haltNext = false) (hs : (getDma s k).stop = false)
    (hp : (getDma s k).pause = false) :
    let x := getDma s k
    let t := completeDesc s k code fstat land false
    (ddEnd x.cur = false → (getDma t k).state = .fetch ∧ (getDma t k).desc = ddNext x.cur) ∧
    (ddEnd x.cur = true → x.pendDb = false → (getDma t k).state = .parked ∧ (getDma t k).desc = x.desc) ∧
    ((getDma t k).ccnt = (x.ccnt + 1) % 65536) ∧ ((getDma t k).done = (x.done || bit (ddCtl x.cur) 9)) := by
  obtain ⟨u, hu, ht⟩ := completeDesc_of_running hn hs code fstat land
  intro x t
  have hgo : ddEnd x.cur = false → getDma t k = { completed x with desc := ddNext x.cur, linkOnly := false, state := .fetch } := by
    intro he
    have hset := ht.trans (if_neg (ne_true_of_eq_false he))
    rw [hp] at hset
    exact (congrArg (getDma · k) hset).trans (getDma_setDma_same _ _ _)
  have hpark : ddEnd x.cur = true → getDma t k = { completed x with pendDb := false, linkOnly := true, state := if x.pendDb then .fetch else .parked } := by
    intro he
    exact (congrArg (getDma · k) (ht.trans (if_pos he))).trans (park_getDma hu hp true)
  refine ⟨fun he => ?_, fun he hdb => ?_, ?_, ?_⟩
  · rw [hgo he]
    exact ⟨rfl, rfl⟩
  · rw [hpark he, hdb]
    exact ⟨rfl, rfl⟩
  · cases he : ddEnd x.cur with
    | false => exact congrArg DmaCh.ccnt (hgo he)
    | true => exact congrArg DmaCh.ccnt (hpark he)
  · cases he : ddEnd x.cur with
    | false => exact congrArg DmaCh.done (hgo he)
    | true => exact congrArg DmaCh.done (hpark he)

theorem exec_dmaPauseDone {e : Fin 28} {c : Fin 16} {s : State} (units : BitVec 24) (hst : (getDma s (dmaNo e c)).state = .pausing) :
    exec (.dmaPauseDone e c units) s =
      let k := dmaNo e c
      let x := getDma s k
      if x.back = .active then
        let u := moveUnits s k (min units.toNat (unitsOf x.cur)) (min units.toNat (unitsOf x.cur) + 1)
        let y := getDma u k
        if y.rdErr ≠ 0 then .next (finishDesc u k)
        else if y.stop then .next (finishDesc (setDma u k { y with endCode := 0x30 }) k)
        else .next (setDma u k { y with state := .paused, scur := (curAddrs y).1, dcur := (curAddrs y).2 })
      else if x.stop then .next (setDma s k { x with state := .idle, stop := false })
      else .next (setDma s k { x with state := .paused }) :=
  if_neg (by rw [hst]; decide)

theorem channelsDrain (e : Fin 28) (c : Fin 16) (units : BitVec 24) (s : State) :
    let k := dmaNo e c
    let x := getDma s k
    (x.state ≠ .pausing → Ignored (.dmaPauseDone e c units) s) ∧
    (x.state = .pausing → x.back = .fetch → x.stop = false → Gives (.dmaPauseDone e c units) s (setDma s k { x with state := .paused })) ∧
    (x.state = .pausing → x.back = .active → ∀ u, moveUnits s k (min units.toNat (unitsOf x.cur)) (min units.toNat (unitsOf x.cur) + 1) = u →
      (getDma u k).rdErr = 0 → (getDma u k).stop = false → Gives (.dmaPauseDone e c units) s
        (setDma u k { getDma u k with state := .paused, scur := (curAddrs (getDma u k)).1, dcur := (curAddrs (getDma u k)).2 })) ∧
    (x.state = .pausing → x.back = .fetch → x.stop = true → Gives (.dmaPauseDone e c units) s (setDma s k { x with state := .idle, stop := false })) := by
  intro k x
  have hback : x.back = .fetch → ¬(x.back = .active) := fun hb => by
    rw [hb]
    decide
  refine ⟨fun h => if_pos (bne_iff_ne.2 h), fun hst hb hs => ?_, fun hst hb u hu hr hs => ?_, fun hst hb hs => ?_⟩
  · exact (exec_dmaPauseDone units hst).trans ((if_neg (hback hb)).trans (if_neg (ne_true_of_eq_false hs)))
  · subst hu
    exact (exec_dmaPauseDone units hst).trans ((if_pos hb).trans ((if_neg (not_not.2 hr)).trans (if_neg (ne_true_of_eq_false hs))))
  · exact (exec_dmaPauseDone units hst).trans ((if_neg (hback hb)).trans (if_pos hs))

/-- Settles O40, by the rules of the moved units and of the completed descriptor. -/
theorem descriptorsMoveAndComplete : Obligations.DescriptorsMoveAndComplete := by
  refine ⟨fun e c s => ?_, ?_, fun _ _ _ _ => dmaSend_of_nowhere, unitWrites_modes, completeDesc_goes_on, channelsDrain⟩
  rotate_left
  · intro s k n a b bs u x d
    exact moveUnits_copy_one
  have hexec := exec_dmaDescComplete e c s
  intro k x
  have hopen : dmaGate s k = 0 → ¬((dmaGate s k != 0) = true) := fun hg => by
    rw [hg]
    decide
  refine ⟨fun h => ?_, fun hst hg => finishDesc_ends _ _ _ _ (hexec.trans ((if_neg (hopen hg)).trans (if_pos hst))), fun hst hg => ?_⟩
  · refine hexec.trans ?_
    split
    · rfl
    next hg =>
      obtain hgate | ⟨hact, hcomp⟩ := h
      · exact absurd (bne_iff_ne.2 hgate) hg
      · exact (if_neg hact).trans (if_neg hcomp)
  · exact finishDesc_ends _ _ _ _ (hexec.trans ((if_neg (hopen hg)).trans ((if_neg (by rw [hst]; decide)).trans (if_pos hst))))

end Sys2Proof.Machine
end

section
/-!
THEOREMS. The DMA channels: their commands, their fetches and their triggers.
-/
namespace Sys2Proof.Machine

variable {s : State} {who : Agent} {k : Nat}

/-! ### Commands to a channel -/

theorem dmaReg_of_lost (h : k / 16 < 24 ∧ dieOut s (k / 192) = true) (f : State → State) : dmaReg s who k f = answer s 4 0 := if_pos h

theorem dmaReg_of_foreign (h : ¬(k / 16 < 24 ∧ dieOut s (k / 192) = true)) (hwho : mayTouch who (some (dmaPart s k)) = false) (f : State → State) :
    dmaReg s who k f = foreign s := (if_neg h).trans (if_pos (congrArg not hwho))

theorem dmaReg_of_gate (h : ¬(k / 16 < 24 ∧ dieOut s (k / 192) = true)) (hwho : mayTouch who (some (dmaPart s k)) = true) (hgate : dmaGate s k ≠ 0)
    (f : State → State) : dmaReg s who k f = answer (noteGate s (corePort (4 * (k / 16))) (dmaGate s k)) (dmaGate s k) 0 :=
  (if_neg h).trans ((if_neg (ne_true_of_eq_false (congrArg not hwho))).trans (if_pos (bne_iff_ne.2 hgate)))

/-- At an open gate the channel's die is in service. -/
theorem not_lost_of_dmaGate (h : dmaGate s k = 0) : ¬(k / 16 < 24 ∧ dieOut s (k / 192) = true) := by
  rintro ⟨hk, hout⟩
  unfold dmaGate at h
  rw [if_pos hk, portGate_eq_zero] at h
  have hdie : portDie (corePort (4 * (k / 16))) = k / 192 := by
    unfold portDie corePort
    rw [if_pos (by omega : 4 * (k / 16) < 96)]
    split_ifs <;> omega
  rw [hdie, hout] at h
  exact Bool.noConfusion h.1

theorem dmaReg_of_open (hwho : mayTouch who (some (dmaPart s k)) = true) (hgate : dmaGate s k = 0) (f : State → State) :
    dmaReg s who k f = f (done s) :=
  (if_neg (not_lost_of_dmaGate hgate)).trans ((if_neg (ne_true_of_eq_false (congrArg not hwho))).trans
    (if_neg (by rw [hgate]; decide)))

theorem channelCommands : Parts.ChannelCommands := by
  intro who e c s k x put out
  refine ⟨fun h => congrArg Host.Outcome.next (dmaReg_of_lost h _), fun h hwho => congrArg Host.Outcome.next (dmaReg_of_foreign h hwho _),
    fun h hwho hgate => congrArg Host.Outcome.next (dmaReg_of_gate h hwho hgate _), fun hwho hgate => ?_⟩
  have hopen : ∀ f u, f (done s) = u → Host.Outcome.next (dmaReg s who k f) = (Host.Outcome.next u : Res) := fun f u hf =>
    congrArg Host.Outcome.next ((dmaReg_of_open hwho hgate f).trans hf)
  have hx : getDma (done s) k = x := rfl
  refine ⟨fun h => hopen _ _ (if_pos h), fun hi hh => hopen _ _ (if_neg (not_or.2 ⟨hi, hh⟩)), fun h => hopen _ _ ?_, fun h => hopen _ _ ?_,
    fun h => hopen _ _ ?_, fun h => hopen _ _ ?_, fun h hb => hopen _ _ ?_, fun h hb => hopen _ _ ?_, fun h => hopen _ _ ?_, fun h => hopen _ _ ?_,
    fun h => hopen _ _ (if_pos h), fun h => hopen _ _ (if_neg h), fun v h => ⟨hopen _ _ ?_, hopen _ _ ?_⟩, fun v t h => hopen _ _ ?_⟩
  · dsimp only
    rw [hx, h]
  · dsimp only
    rw [hx, h]
    rfl
  · dsimp only
    rw [hx, h]
  · dsimp only
    rw [hx, h]
  · dsimp only
    rw [hx, if_pos (.inl h), hb]
    rfl
  · dsimp only
    rw [hx, if_pos (.inl h)]
    exact if_pos hb
  · dsimp only
    rw [hx, h]
  · dsimp only
    rw [hx]
    obtain h | h | h := h
    · rw [h]
    · rw [h]
    · rw [h]
  · exact if_pos h
  · exact if_pos h
  · refine if_neg ?_
    rw [hx]
    obtain h | h | h | h | h := h <;> rw [h] <;> decide

/-! ### Fetches and triggers -/

theorem getDma_haltDma_same (s : State) (k : Nat) :
    getDma (haltDma s k) k = { getDma s k with state := .halted, done := true, haltNext := false, stop := false } :=
  (getDma_haltDma s k k).trans (if_pos rfl)

theorem noteErr_of_clear {x : DmaCh} (h : x.errV = false) (a st kind : Nat) :
    noteErr x a st kind = { x with errAddr := a, errStat := st, errKind := kind, errV := true, errDesc := x.desc } :=
  if_neg (ne_true_of_eq_false h)

theorem getDma_fetchFailed (u : State) (k a st : Nat) :
    getDma (fetchFailed u k a st) k = { noteErr (getDma u k) a st 3 with state := .halted, done := true, haltNext := false, stop := false } := by
  unfold fetchFailed
  rw [getDma_haltDma_same, updDma, getDma_setDma_same]

/-- A failed fetch halts the channel and, where no error stood, notes it with KIND 3. -/
theorem fetchFailed_halts (u : State) (k a st : Nat) : (getDma (fetchFailed u k a st) k).state = .halted ∧ (getDma (fetchFailed u k a st) k).done = true ∧
    ((getDma u k).errV = false → (getDma (fetchFailed u k a st) k).errKind = 3 ∧ (getDma (fetchFailed u k a st) k).errStat = st ∧
      (getDma (fetchFailed u k a st) k).errAddr = a ∧ (getDma (fetchFailed u k a st) k).errV = true) := by
  rw [getDma_fetchFailed]
  refine ⟨rfl, rfl, fun h => ?_⟩
  rw [noteErr_of_clear h]
  exact ⟨rfl, rfl, rfl, rfl⟩

theorem noc_signalDma (s : State) (k : Nat) : (signalDma s k).noc = s.noc := by
  unfold signalDma
  dsimp only
  split
  · exact away_noc (away_signalCore _ _ (away_refl s))
  · rfl

theorem noc_haltDma (s : State) (k : Nat) : (haltDma s k).noc = s.noc := by
  unfold haltDma
  exact noc_signalDma (updDma s k _) k

theorem seq_fetchFailed_takeSeq (s : State) (k q a st : Nat) :
    tget (getPort (fetchFailed (takeSeq s q) k a st) q).seq 0 0 = (tget (getPort s q).seq 0 0 + 1) % 4096 := by
  have hport : getPort (fetchFailed (takeSeq s q) k a st) q = getPort (takeSeq s q) q :=
    congrArg (fun n : Noc => tget n.ports {} q) (noc_haltDma (updDma (takeSeq s q) k fun x => noteErr x a st 3) k)
  rw [hport, takeSeq, getPort_setPort_same]
  exact tget_tset_same _ _ _ _

/-- The channel with a fetched descriptor (R246). -/
def fetched (x : DmaCh) (bs : List Byte) : DmaCh :=
  { x with cur := bs, late := false, pos := 0, wrErr := 0, rdErr := 0, fstat := 0, wrote := [], wroteO := [], seqs := [], endCode := 0 }

section
variable {e : Fin 28} {c : Fin 16}

theorem fetch_ready (hst : (getDma s k).state = .fetch) (hgate : dmaGate s k = 0) : ¬(((getDma s k).state != .fetch || dmaGate s k != 0) = true) := by
  rw [hst, hgate]
  decide

theorem exec_dmaDescFetch_cut (hst : (getDma s (dmaNo e c)).state = .fetch) (hgate : dmaGate s (dmaNo e c) = 0)
    (hlink : (getDma s (dmaNo e c)).linkOnly = false) (hcut : dmaCut s (dmaNo e c) (getDma s (dmaNo e c)).desc = true) :
    exec (.dmaDescFetch e c) s = .next (fetchFailed (takeSeq s (dmaPort (dmaNo e c))) (dmaNo e c) (getDma s (dmaNo e c)).desc 4) := by
  refine (if_neg (fetch_ready hst hgate)).trans ((if_pos hcut).trans ?_)
  rw [if_neg (ne_true_of_eq_false hlink)]

theorem exec_dmaDescFetch (hst : (getDma s (dmaNo e c)).state = .fetch) (hgate : dmaGate s (dmaNo e c) = 0)
    (hlink : (getDma s (dmaNo e c)).linkOnly = false) (hcut : dmaCut s (dmaNo e c) (getDma s (dmaNo e c)).desc = false) :
    exec (.dmaDescFetch e c) s =
      let k := dmaNo e c
      let x := getDma s k
      match memRead (takeSeq s (dmaPort k)) (some (dmaPart s k)) x.desc 64 with
      | (0, bs, u) =>
        let v := setDma u k (fetched x bs)
        if !ddOwn bs then .next (park v k false)
        else if !ddOk v k (fetched x bs) then .next (completeDesc (badCurs v k) k 0x10 0 (ddLand bs) true)
        else .next (testTrigger v k)
      | (st, _, u) => .next (fetchFailed u k x.desc st) :=
  (if_neg (fetch_ready hst hgate)).trans ((if_neg (ne_true_of_eq_false hcut)).trans ((if_neg (ne_true_of_eq_false hlink)).trans rfl))

theorem exec_dmaDescFetch_read {bs : List Byte} {u : State} (hst : (getDma s (dmaNo e c)).state = .fetch) (hgate : dmaGate s (dmaNo e c) = 0)
    (hlink : (getDma s (dmaNo e c)).linkOnly = false) (hcut : dmaCut s (dmaNo e c) (getDma s (dmaNo e c)).desc = false)
    (hread : memRead (takeSeq s (dmaPort (dmaNo e c))) (some (dmaPart s (dmaNo e c))) (getDma s (dmaNo e c)).desc 64 = (0, bs, u)) :
    exec (.dmaDescFetch e c) s =
      let k := dmaNo e c
      let y := fetched (getDma s k) bs
      if !ddOwn bs then .next (park (setDma u k y) k false)
      else if !ddOk (setDma u k y) k y then .next (completeDesc (badCurs (setDma u k y) k) k 0x10 0 (ddLand bs) true)
      else .next (testTrigger (setDma u k y) k) := by
  rw [exec_dmaDescFetch hst hgate hlink hcut]
  dsimp only
  rw [hread]
  rfl

theorem exec_dmaDescFetch_failed {st : Nat} {bs : List Byte} {u : State} (hst : (getDma s (dmaNo e c)).state = .fetch)
    (hgate : dmaGate s (dmaNo e c) = 0) (hlink : (getDma s (dmaNo e c)).linkOnly = false)
    (hcut : dmaCut s (dmaNo e c) (getDma s (dmaNo e c)).desc = false) (h0 : st ≠ 0)
    (hread : memRead (takeSeq s (dmaPort (dmaNo e c))) (some (dmaPart s (dmaNo e c))) (getDma s (dmaNo e c)).desc 64 = (st, bs, u)) :
    exec (.dmaDescFetch e c) s = .next (fetchFailed u (dmaNo e c) (getDma s (dmaNo e c)).desc st) := by
  rw [exec_dmaDescFetch hst hgate hlink hcut]
  dsimp only
  rw [hread]
  cases st with
  | zero => exact absurd rfl h0
  | succ n => rfl

theorem exec_dmaTrigger (hst : (getDma s (dmaNo e c)).state = .waitTrig) (hgate : dmaGate s (dmaNo e c) = 0)
    (htrig : ddTrig (getDma s (dmaNo e c)).cur = 0 ∨ ddTrig (getDma s (dmaNo e c)).cur = 3)
    (hdue : ((getDma s (dmaNo e c)).late || isDue s (dmaNo e c) (getDma s (dmaNo e c))) = true) : exec (.dmaTrigger e c) s =
      let k := dmaNo e c
      let x := getDma s k
      let u := if x.late then bump s .dmaLate k else s
      if x.late && bit (ddCtl x.cur) 7 then
        .next (completeDesc (setCurs (setDma u k { x with src0 := startSrc x, dst0 := startDst x }) k) k 0x02 0 (ddLand x.cur) false)
      else .next (setDma u k { x with state := .active, pos := 0, src0 := startSrc x, dst0 := startDst x, scur := startSrc x, dcur := startDst x }) := by
  have hticked : ¬(ddTrig (getDma s (dmaNo e c)).cur = 1 ∨ ddTrig (getDma s (dmaNo e c)).cur = 2) := by omega
  have hready : ¬(((getDma s (dmaNo e c)).state != .waitTrig || !((getDma s (dmaNo e c)).late || isDue s (dmaNo e c) (getDma s (dmaNo e c))) ||
      dmaGate s (dmaNo e c) != 0) = true) := by
    rw [hst, hgate, hdue]
    decide
  refine (if_neg hready).trans ?_
  rw [if_neg hticked]

theorem descriptorsAreFetchedAndTriggered : Parts.DescriptorsAreFetchedAndTriggered := by
  intro e c s k x
  refine ⟨fun h => if_pos ?_, fun hst hgate hlink hcut st bs u hread => ?_, fun hst hgate hlink hcut => ?_, fun u => ?_, fun hst hgate htrig => ?_⟩
  · rw [Bool.or_eq_true]
    exact .inl (bne_iff_ne.2 h)
  · intro y v
    refine ⟨fun h0 hown => ?_, fun h0 hown hok => ?_, fun h0 hown hok => ?_, fun h0 =>
      ⟨_, exec_dmaDescFetch_failed hst hgate hlink hcut h0 hread, fetchFailed_halts u k x.desc st⟩⟩
    all_goals
      subst h0
      have hexec := exec_dmaDescFetch_read hst hgate hlink hcut hread
    · exact hexec.trans (if_pos (congrArg not hown))
    · exact hexec.trans ((if_neg (ne_true_of_eq_false (congrArg not hown))).trans (if_pos (congrArg not hok)))
    · exact hexec.trans ((if_neg (ne_true_of_eq_false (congrArg not hown))).trans (if_neg (ne_true_of_eq_false (congrArg not hok))))
  · refine ⟨_, exec_dmaDescFetch_cut hst hgate hlink hcut, ?_⟩
    obtain ⟨hhalt, hdone, herr⟩ := fetchFailed_halts (takeSeq s (dmaPort k)) k x.desc 4
    exact ⟨hhalt, hdone, seq_fetchFailed_takeSeq s k (dmaPort k) x.desc 4, fun hv => ⟨(herr hv).1, (herr hv).2.1, (herr hv).2.2.1⟩⟩
  · have htest : getDma (testTrigger u k) k = { getDma u k with
        state := .waitTrig, late := isLateNow u (getDma u k) (trigTick u (getDma u k)), trigN := trigTick u (getDma u k) } := getDma_setDma_same _ _ _
    rw [htest]
    exact ⟨rfl, rfl, rfl, rfl⟩
  · have hexec := fun hdue => exec_dmaTrigger hst hgate htrig (Bool.or_eq_true_iff.2 hdue)
    refine ⟨fun hl hd => ?_, fun hl hd => if_pos ?_, fun hl hs => ?_, fun hl hs => ?_⟩
    · refine (hexec (.inr hd)).trans ((if_neg (fun h => ne_true_of_eq_false hl (Bool.and_eq_true_iff.1 h).1)).trans ?_)
      rw [if_neg (ne_true_of_eq_false hl)]
    · rw [show (getDma s (dmaNo e c)).late = false from hl, show isDue s (dmaNo e c) (getDma s (dmaNo e c)) = false from hd, Bool.or_eq_true, Bool.or_eq_true]
      exact .inl (.inr rfl)
    · refine (hexec (.inl hl)).trans ((if_pos (Bool.and_eq_true_iff.2 ⟨hl, hs⟩)).trans ?_)
      rw [if_pos hl]
    · refine (hexec (.inl hl)).trans ((if_neg (fun h => ne_true_of_eq_false hs (Bool.and_eq_true_iff.1 h).2)).trans ?_)
      rw [if_pos hl]

end

/-- Settles O39, from the commands of the channels and from their fetches and triggers. -/
theorem channelsFetchAndTrigger : Obligations.ChannelsFetchAndTrigger := ⟨channelCommands, descriptorsAreFetchedAndTriggered⟩

end Sys2Proof.Machine
end

section
/-!
THEOREMS. What a memory controller does by itself.
-/
namespace Sys2Proof.Machine

variable {s : State} {ch : Nat}

/-! ### Faults of channels and their reports -/

theorem ctrGet_raiseHolders {c : Counter} (hlost : c.ctorIdx ≠ Counter.hwEvtLost.ctorIdx) (hrej : c.ctorIdx ≠ Counter.dvEnqRej.ctorIdx)
    (s : State) (f : Nat → Bool) (code w2 w3 b : Nat) : ctrGet (raiseHolders s f code w2 w3) c b = ctrGet s c b := by
  refine foldl_leaves (g := fun s p => if f p then deliver s p code w2 w3 else s) (fun u => ctrGet u c b) (fun p _ u => ?_) s
  split
  · exact ctrGet_deliver hlost hrej ..
  · rfl

theorem mem_fltChannel (s : State) (ch cause st : Nat) : (fltChannel s ch cause st).mem = s.mem :=
  away_mem (told_raiseHolders (told_refl s) _ _ _ _).away

theorem mem_noteDeg (s : State) : (noteDeg s).mem = s.mem := by
  obtain ⟨x, hx⟩ := noteDeg_eq s
  rw [hx]

theorem getCh_of_mem {t : State} (h : t.mem = s.mem) (ch : Nat) : getCh t ch = getCh s ch := congrArg (fun m : Mem => tget m.chs {} ch) h

theorem getPage_of_mem {t : State} (h : t.mem = s.mem) (ch pg : Nat) : getPage t ch pg = getPage s ch pg :=
  congrArg (fun m : Mem => tget m.pages {} (pageKey ch pg)) h

theorem mem_faultChannel (s : State) (ch : Nat) : (faultChannel s ch).mem = (updCh s ch fun x => { x with state := 4, alertRun := 0 }).mem := by
  unfold faultChannel
  dsimp only
  split
  · exact mem_fltChannel _ _ _ _
  · exact (mem_fltChannel _ _ _ _).trans (mem_noteDeg _)

theorem ctrGet_faultChannel {c : Counter} (hlost : c.ctorIdx ≠ Counter.hwEvtLost.ctorIdx) (hrej : c.ctorIdx ≠ Counter.dvEnqRej.ctorIdx)
    (s : State) (ch b : Nat) : ctrGet (faultChannel s ch) c b = ctrGet s c b := by
  unfold faultChannel
  dsimp only
  split
  · exact ctrGet_raiseHolders hlost hrej ..
  · exact (ctrGet_raiseHolders hlost hrej ..).trans (ctrGet_noteDeg ..)

/-! ### The controllers' events -/

section
variable {ch : Fin 16} (hact : chActive s ch = true)
include hact

theorem exec_memDirtyAgeExpire_due {page : BitVec 22}
    (h : (getCh s ch).staged.any (fun e => e.page == page.toNat && e.dirty && e.since + (getCh s ch).age ≤ upNs s) = true) :
    exec (.memDirtyAgeExpire ch page) s = .next (updCh (encodePage s ch page.toNat) ch fun x =>
      { x with staged := x.staged.map fun e => if e.page == page.toNat then { e with dirty := false } else e }) :=
  if_pos (Bool.and_eq_true_iff.2 ⟨hact, h⟩)

theorem exec_memRefresh (how : Fin 3) : exec (.memRefresh ch how) s = .next (setCh s ch { getCh s ch with debt :=
      if how = 1 then (if (getCh s ch).debt < 8 && !panicOn s then (getCh s ch).debt + 1 else (getCh s ch).debt)
      else if how = 2 then (if panicOn s then (getCh s ch).debt else (getCh s ch).debt - 1)
      else (getCh s ch).debt }) := if_pos hact

theorem exec_memCaAlert_replay {n : Fin 33} {again : Bool} (h : (if again then (getCh s ch).alertRun + 1 else 1) < 3) :
    exec (.memCaAlert ch n again) s = .next (
      let u := (takeFree (bumpBy (bump s .memCaAlert ch) .memCaReplay ch n) 9).2
      setCh u ch { getCh s ch with
        alertRun := if again then (getCh s ch).alertRun + 1 else 1
        replayEnd := upNs s + min (takeFree (bumpBy (bump s .memCaAlert ch) .memCaReplay ch n) 9).1 400 }) :=
  (if_pos hact).trans ((if_neg (Nat.not_le_of_lt h)).trans rfl)

theorem exec_memCaAlert_fault {n : Fin 33} (h : 2 ≤ (getCh s ch).alertRun) :
    exec (.memCaAlert ch n true) s = .next (faultChannel (bump s .memCaAlert ch) ch) :=
  (if_pos hact).trans (if_pos (Nat.succ_le_succ h))

end

theorem exec_memScrubSlow_page {ch : Fin 16} : exec (.memScrubSlow (.page ch)) s =
    if (getCh s ch).lapMax != 0 && !(getCh s ch).slowRaised && decide ((getCh s ch).lapStart + 60000000000 * (getCh s ch).lapMax ≤ upNs s) then
      .next (alertMc (setCh s ch { getCh s ch with slowRaised := true }) (.memScrubSlow ch))
    else .next s := rfl

theorem memoryControllersKeepTheirPages : Parts.MemoryControllersKeepTheirPages := by
  intro ch s hact x
  have hrefresh := exec_memRefresh hact
  refine ⟨fun page h => ⟨_, exec_memDirtyAgeExpire_due hact h, ?_⟩, fun page h => if_neg ?_, hrefresh 0, fun hp => ⟨(hrefresh 1).trans ?_, (hrefresh 2).trans ?_⟩,
    fun hp => ⟨(hrefresh 1).trans ?_, (hrefresh 2).trans ?_⟩, fun h => if_pos (Bool.and_eq_true_iff.2 ⟨hact, h⟩), fun h => if_neg ?_,
    fun n again h => ⟨_, exec_memCaAlert_replay hact h, ?_, ?_, _, Nat.min_le_right _ _, getCh_setCh_same _ _ _⟩,
    fun n h => ⟨_, exec_memCaAlert_fault hact h, ?_, ?_, ?_⟩, fun h => if_pos h, fun hmax hraised hdue => if_pos ?_, fun h => if_neg ?_⟩
  · exact ⟨getPage_encodePage s ch page.toNat, congrArg MemCh.staged (getCh_updCh_same _ _ _), rfl⟩
  · exact fun hand => ne_true_of_eq_false h (Bool.and_eq_true_iff.1 hand).2
  · simp [hp, x]
  · simp [hp, x]
  · simp [hp, x]
  · simp [hp, x]
  · exact fun hand => ne_true_of_eq_false h (Bool.and_eq_true_iff.1 hand).2
  · refine (ctrGet_bumpBy_of_kind_ne (bump s .memCaAlert ch) (c := .memCaReplay) (c' := .memCaAlert) ch ch n (by decide)).trans ?_
    exact ctrGet_bump_same _ _ _
  · refine (ctrGet_bumpBy_same (bump s .memCaAlert ch) .memCaReplay ch n).trans ?_
    rw [show ctrGet (bump s .memCaAlert ch) .memCaReplay ch = ctrGet s .memCaReplay ch from ctrGet_bumpBy_of_kind_ne _ _ _ _ (by decide)]
    rfl
  · exact (congrArg MemCh.state (getCh_of_mem (mem_faultChannel _ _) ch)).trans (congrArg MemCh.state (getCh_updCh_same _ _ _))
  · exact (ctrGet_faultChannel (by decide) (by decide) _ _ _).trans (ctrGet_bumpBy_of_kind_ne _ _ _ _ (by decide))
  · exact (congrArg Mem.bytes (mem_faultChannel _ _)).trans rfl
  · rw [Bool.and_eq_true, Bool.and_eq_true]
    exact ⟨⟨bne_iff_ne.2 hmax, congrArg not hraised⟩, decide_eq_true hdue⟩
  · rw [Bool.and_eq_true, Bool.and_eq_true]
    rintro ⟨⟨hmax, hraised⟩, hdue⟩
    obtain h | h | h := h
    · exact bne_iff_ne.1 hmax h
    · rw [show (getCh s ch).slowRaised = true from h] at hraised
      exact absurd hraised (by decide)
    · exact absurd (of_decide_eq_true hdue) (Nat.not_le_of_lt h)

end Sys2Proof.Machine
end

section
/-!
SUPPORT. The positions of the scrubbers, and what a scrubber's read leaves of a page and of a word (12_memory R264, R275 to R277).
-/
namespace Sys2Proof.Machine

/-! ### Tables without an entry -/

theorem tget_filter_of_neg {α : Type} {p : Nat × α → Bool} {k : Nat} (h : ∀ v, p (k, v) = false) (t : Tab α) (d : α) : tget (t.filter p) d k = d := by
  refine tget_of_not_thas ?_ d
  unfold thas
  refine List.any_eq_false.2 fun e he => ?_
  rw [beq_iff_eq]
  rintro rfl
  exact ne_true_of_eq_false (h e.2) (List.mem_filter.1 he).2

theorem tget_tdel_same {α : Type} (t : Tab α) (d : α) (k : Nat) : tget (tdel t k) d k = d := tget_filter_of_neg (fun _ => bne_self_eq_false k) t d

/-! ### The words of a scrubber (R276) -/

theorem targetOf_tile {c o : Nat} (hc : c < 96) (ho : o < 0x80000) : targetOf (tileBase c + o) = .tile c := by
  have hlow : ¬(tileBase c + o < 0x002000000000) := by unfold tileBase; omega
  have hrange : 0x004000000000 ≤ tileBase c + o ∧ tileBase c + o < 0x004100000000 := by unfold tileBase; omega
  have hdiv : (tileBase c + o - 0x004000000000) / 0x100000 = c := by unfold tileBase; omega
  have hmod : (tileBase c + o - 0x004000000000) % 0x100000 = o := by unfold tileBase; omega
  unfold targetOf
  rw [if_neg hlow, if_pos hrange]
  dsimp only
  rw [hdiv, hmod, if_pos ⟨hc, ho⟩]

theorem targetOf_cluster {cl o : Nat} (hcl : cl < 24) (ho : o < 0x400000) : targetOf (clusterBase cl + o) = .cluster cl := by
  have hlow : ¬(clusterBase cl + o < 0x002000000000) := by unfold clusterBase; omega
  have htile : ¬(0x004000000000 ≤ clusterBase cl + o ∧ clusterBase cl + o < 0x004100000000) := by unfold clusterBase; omega
  have hrange : 0x004100000000 ≤ clusterBase cl + o ∧ clusterBase cl + o < 0x004200000000 := by unfold clusterBase; omega
  have hdiv : (clusterBase cl + o - 0x004100000000) / 0x1000000 = cl := by unfold clusterBase; omega
  have hmod : (clusterBase cl + o - 0x004100000000) % 0x1000000 = o := by unfold clusterBase; omega
  unfold targetOf
  rw [if_neg hlow, if_neg htile, if_pos hrange]
  dsimp only
  rw [hdiv, hmod, if_pos ⟨hcl, ho⟩]

theorem targetOf_store {d o : Nat} (hd : d < 2) (ho : o < 0x4000000) : targetOf (storeBase d + o) = .store d (o / 4096 % 8) := by
  have hlow : ¬(storeBase d + o < 0x002000000000) := by unfold storeBase; omega
  have htile : ¬(0x004000000000 ≤ storeBase d + o ∧ storeBase d + o < 0x004100000000) := by unfold storeBase; omega
  have hcluster : ¬(0x004100000000 ≤ storeBase d + o ∧ storeBase d + o < 0x004200000000) := by unfold storeBase; omega
  have hrange : 0x004200000000 ≤ storeBase d + o ∧ storeBase d + o < 0x005000000000 := by unfold storeBase; omega
  have hdiv : (storeBase d + o - 0x004200000000) / 0x10000000 = d := by unfold storeBase; omega
  have hmod : (storeBase d + o - 0x004200000000) % 0x10000000 = o := by unfold storeBase; omega
  unfold targetOf
  rw [if_neg hlow, if_neg htile, if_neg hcluster, if_pos hrange]
  dsimp only
  rw [hdiv, hmod, if_pos ⟨hd, ho⟩]

/-- The index of a word of an SRAM in its scrubber's memories. -/
def placeIn (t : Target) (w : Nat) : Nat :=
  match t with
  | .tile c => c % 4 * 65536 + (w - tileBase c / 8)
  | .cluster cl => 262144 + (w - clusterBase cl / 8)
  | .store d _ => w - storeBase d / 8
  | _ => 0

theorem srPlace_of_target {w : Nat} {t : Target} (hw : w < 2 ^ 45) (ht : targetOf (8 * w) = t) : srOfWord w = srOf t ∧ srIndex w = placeIn t w := by
  unfold srOfWord srIndex
  rw [if_pos hw, if_neg (Nat.not_le_of_lt hw), ht]
  exact ⟨rfl, rfl⟩

theorem srPlace_tile {i pos : Nat} (hi : i < 24) (hpos : pos < 262144) : srOfWord (srWordAt i pos) = i ∧ srIndex (srWordAt i pos) = pos := by
  have hword : srWordAt i pos = tileBase (4 * i + pos / 65536) / 8 + pos % 65536 := if_pos ⟨hi, hpos⟩
  have haddr : 8 * (tileBase (4 * i + pos / 65536) / 8 + pos % 65536) = tileBase (4 * i + pos / 65536) + 8 * (pos % 65536) := by unfold tileBase; omega
  have ht : targetOf (8 * (tileBase (4 * i + pos / 65536) / 8 + pos % 65536)) = .tile (4 * i + pos / 65536) := by
    rw [haddr]
    exact targetOf_tile (by omega) (by omega)
  obtain ⟨hsr, hindex⟩ := srPlace_of_target (by unfold tileBase; omega) ht
  rw [hword, hsr, hindex]
  dsimp only [srOf, placeIn]
  unfold coreCluster
  omega

theorem srPlace_cluster {i pos : Nat} (hi : i < 24) (hlo : 262144 ≤ pos) (hpos : pos < 786432) :
    srOfWord (srWordAt i pos) = i ∧ srIndex (srWordAt i pos) = pos := by
  have hword : srWordAt i pos = clusterBase i / 8 + (pos - 262144) := (if_neg (by omega)).trans (if_pos ⟨hi, hpos⟩)
  have haddr : 8 * (clusterBase i / 8 + (pos - 262144)) = clusterBase i + 8 * (pos - 262144) := by unfold clusterBase; omega
  have ht : targetOf (8 * (clusterBase i / 8 + (pos - 262144))) = .cluster i := by
    rw [haddr]
    exact targetOf_cluster hi (by omega)
  obtain ⟨hsr, hindex⟩ := srPlace_of_target (by unfold clusterBase; omega) ht
  rw [hword, hsr, hindex]
  dsimp only [srOf, placeIn]
  omega

theorem srPlace_store {i pos : Nat} (hi : i = 24 ∨ i = 25) (hpos : pos < 8388608) :
    srOfWord (srWordAt i pos) = i ∧ srIndex (srWordAt i pos) = pos := by
  have hword : srWordAt i pos = storeBase (i - 24) / 8 + pos := (if_neg (by omega)).trans ((if_neg (by omega)).trans (if_pos ⟨hi, hpos⟩))
  have haddr : 8 * (storeBase (i - 24) / 8 + pos) = storeBase (i - 24) + 8 * pos := by unfold storeBase; omega
  have ht : targetOf (8 * (storeBase (i - 24) / 8 + pos)) = .store (i - 24) (8 * pos / 4096 % 8) := by
    rw [haddr]
    exact targetOf_store (by omega) (by omega)
  obtain ⟨hsr, hindex⟩ := srPlace_of_target (by unfold storeBase; omega) ht
  rw [hword, hsr, hindex]
  dsimp only [srOf, placeIn]
  omega

/-- The words outside the address space: k registers, flow stores and Bench caches. -/
theorem srPlace_outside {i pos : Nat} (hword : srWordAt i pos = 2 ^ 45 + i * 2 ^ 24 + pos) (hpos : pos < 2 ^ 24) :
    srOfWord (srWordAt i pos) = i ∧ srIndex (srWordAt i pos) = pos := by
  rw [hword]
  unfold srOfWord srIndex
  rw [if_neg (by omega), if_pos (by omega)]
  omega

theorem srPlace {i pos : Nat} (hi : i < 26) (hpos : pos < srTotal i) : srOfWord (srWordAt i pos) = i ∧ srIndex (srWordAt i pos) = pos := by
  unfold srTotal at hpos
  by_cases h24 : i < 24
  · rw [if_pos h24] at hpos
    by_cases htile : pos < 262144
    · exact srPlace_tile h24 htile
    by_cases hcluster : pos < 786432
    · exact srPlace_cluster h24 (by omega) hcluster
    · exact srPlace_outside ((if_neg (by omega)).trans ((if_neg (by omega)).trans (if_neg (by omega)))) (by omega)
  · rw [if_neg h24, if_pos hi] at hpos
    by_cases hstore : pos < 8388608
    · exact srPlace_store (by omega) hstore
    · exact srPlace_outside ((if_neg (by omega)).trans ((if_neg (by omega)).trans (if_neg (by omega)))) (by omega)

end Sys2Proof.Machine
end

section
/-!
THEOREMS. What the scrubbers correct, and how channels recover.
-/
namespace Sys2Proof.Machine

variable {s : State}

/-! ### The page scrubber -/

/-- What the page scrubber does with a page that it has read (R276, R277). -/
def afterRead (u : State) (ch page : Nat) (r : PageRead) : State :=
  match r with
  | .clean => u
  | .unwritten => u
  | .corrected => notePage (encodePage (bump u .memCorr ch) ch page) ch page
  | .uncorrectable tag => pageUnc u ch page tag

/-- The page at the scrubber's position read, with further bits of its frame failed. -/
def pageScrubbed (s : State) (ch : Nat) (upset : List Nat) : State :=
  let x := getCh s ch
  let page := x.scrubPos
  if x.staged.any (fun e => e.page == page && e.dirty) then s
  else
    let r := takeFree (upsetPage s ch page upset (x.staged.any fun e => e.page == page)) 1
    afterRead r.2 ch page (readFrame (getPage r.2 ch page) (tCodeAt r.2 (pageAddr ch page)) (r.1 == 1))

/-- The page scrubber may read: its channel is active and does not replay, the scrubber is on, there is no panic and its gap is over. -/
def scrubTurn (s : State) (ch : Nat) : Bool :=
  chActive s ch && chState s ch != 3 && (getCh s ch).scrubEn && !panicOn s && gapOver s (getCh s ch).scrubAt (getCh s ch).gap

theorem exec_memScrubRead_turn {ch : Fin 16} (h : scrubTurn s ch = true) (upset : List Nat) :
    exec (.memScrubRead ch upset) s = .next (scrubNext (pageScrubbed s ch upset) ch) := if_pos h

theorem exec_memScrubRead_idle {ch : Fin 16} (h : scrubTurn s ch = false) (upset : List Nat) : exec (.memScrubRead ch upset) s = .next s :=
  if_neg (ne_true_of_eq_false h)

theorem upsetPage_of_coded {ch page : Nat} (h : (getPage s ch page).t ≠ 0) (bits : List Nat) (staged : Bool) : upsetPage s ch page bits staged =
    setPage s ch page { getPage s ch page with
      flips := (bits.filter fun i => i < 16896).foldl (fun l i => if l.contains i then l.erase i else l ++ [i]) (getPage s ch page).flips } := by
  unfold upsetPage
  dsimp only
  cases staged
  · refine (if_neg Bool.false_ne_true).trans (if_neg ?_)
    have hpage : ∀ m : PageMeta, getPage (setPage s ch page m) ch page = m := fun m => tget_tset_same _ _ _ _
    rw [hpage]
    exact h
  · rfl

theorem pageScrubbed_of_dirty {ch : Nat} (h : (getCh s ch).staged.any (fun e => e.page == (getCh s ch).scrubPos && e.dirty) = true) (upset : List Nat) :
    pageScrubbed s ch upset = s := if_pos h

theorem getPage_setPage_same (s : State) (ch page : Nat) (m : PageMeta) : getPage (setPage s ch page m) ch page = m := tget_tset_same _ _ _ _

/-- A page's condition with further failed bits of its frame. -/
def failing (m : PageMeta) (upset : List Nat) : PageMeta :=
  { m with flips := (upset.filter fun i => i < 16896).foldl (fun l i => if l.contains i then l.erase i else l ++ [i]) m.flips }

section
variable {ch : Nat} {upset : List Nat} (hdirty : (getCh s ch).staged.any (fun e => e.page == (getCh s ch).scrubPos && e.dirty) = false)
  (ht : (getPage s ch (getCh s ch).scrubPos).t ≠ 0)
include hdirty ht

/-- The scrubber's read of a page that is not staged dirty and whose bits do not show in its bytes. -/
theorem pageScrubbed_of_read {r : PageRead}
    (hread : ∀ tag, readFrame (failing (getPage s ch (getCh s ch).scrubPos) upset) (tCodeAt s (pageAddr ch (getCh s ch).scrubPos)) tag = r) :
    pageScrubbed s ch upset =
      afterRead (takeFree (setPage s ch (getCh s ch).scrubPos (failing (getPage s ch (getCh s ch).scrubPos) upset)) 1).2 ch (getCh s ch).scrubPos r := by
  have hpage : ∀ m, getPage (takeFree (setPage s ch (getCh s ch).scrubPos m) 1).2 ch (getCh s ch).scrubPos = m := fun m => getPage_setPage_same s _ _ m
  have hcode : ∀ m, tCodeAt (takeFree (setPage s ch (getCh s ch).scrubPos m) 1).2 (pageAddr ch (getCh s ch).scrubPos) =
      tCodeAt s (pageAddr ch (getCh s ch).scrubPos) := fun m => rfl
  refine (if_neg (ne_true_of_eq_false hdirty)).trans ?_
  rw [upsetPage_of_coded ht]
  dsimp only
  rw [hpage, hcode, ← failing, hread]

end

/-- A correction that does not class its page as a hard fault changes the tracker, and counts an entry replaced. -/
theorem notePage_soft {ch page : Nat} (h : (trkNote (getCh s ch).trk page (getCh s ch).lapNo).2.1 = false) :
    ∃ y, notePage s ch page = setCh s ch y ∨ notePage s ch page = bump (setCh s ch y) .memTrkOvf ch := by
  refine ⟨{ getCh s ch with trk := (trkNote (getCh s ch).trk page (getCh s ch).lapNo).1 }, ?_⟩
  unfold notePage
  dsimp only
  rw [h, if_neg Bool.false_ne_true]
  cases (trkNote (getCh s ch).trk page (getCh s ch).lapNo).2.2
  · exact .inl rfl
  · exact .inr rfl

theorem pageScrub (ch : Fin 16) (s : State) (hturn : scrubTurn s ch = true) :
    let x := getCh s ch
    let m := getPage s ch x.scrubPos
    (x.staged.any (fun e => e.page == x.scrubPos && e.dirty) = false → m.written = false → m.t ≠ 0 → m.flips = [] → x.scrubPos + 1 < 4063104 →
      Runs (.memScrubRead ch []) s fun t => (getCh t ch).scrubPos = x.scrubPos + 1 ∧ getPage t ch x.scrubPos = m ∧ t.mem.bytes = s.mem.bytes) ∧
    (x.staged.any (fun e => e.page == x.scrubPos && e.dirty) = false → m.written = true → m.t = 4 → m.flips = [] → tCodeAt s (pageAddr ch x.scrubPos) = 4 →
      (trkNote x.trk x.scrubPos x.lapNo).2.1 = false → Runs (.memScrubRead ch [0]) s fun t =>
        getPage t ch x.scrubPos = { written := true, t := 4, flips := [] } ∧ ctrGet t .memCorr ch = min (2 ^ 32 - 1) (ctrGet s .memCorr ch + 1) ∧ t.mem.bytes = s.mem.bytes) ∧
    (x.staged.any (fun e => e.page == x.scrubPos && e.dirty) = true → ∀ upset, Runs (.memScrubRead ch upset) s fun t =>
      getPage t ch x.scrubPos = m ∧ t.mem.bytes = s.mem.bytes ∧ t.ctr = s.ctr) ∧
    (x.scrubPos + 1 = 4063104 → x.staged.any (fun e => e.page == x.scrubPos && e.dirty) = true → Runs (.memScrubRead ch []) s fun t =>
      (getCh t ch).scrubPos = 0 ∧ (getCh t ch).lapNo = (x.lapNo + 1) % 65536 ∧ (getCh t ch).lapStart = upNs s) := by
  intro x m
  have hexec := exec_memScrubRead_turn hturn
  refine ⟨fun hdirty hw ht _ hpos => ⟨_, hexec [], ?_⟩, fun hdirty hw ht hf hcode htrk => ⟨_, hexec [0], ?_⟩, fun hdirty upset => ⟨_, hexec upset, ?_⟩,
    fun hpos hdirty => ⟨_, hexec [], ?_⟩⟩
  · have hread : ∀ tag, readFrame (failing m []) (tCodeAt s (pageAddr ch x.scrubPos)) tag = .unwritten := fun tag => by simp [readFrame, failing, hw]
    rw [pageScrubbed_of_read hdirty ht hread]
    refine ⟨(congrArg MemCh.scrubPos (getCh_updCh_same _ _ _)).trans ?_, getPage_setPage_same s ch x.scrubPos (failing m []), rfl⟩
    exact congrArg MemCh.scrubPos (if_pos hpos)
  · have hm : failing m [0] = { written := true, t := 4, flips := [0] } := by
      unfold failing
      rw [hw, ht, hf]
      rfl
    have hread : ∀ tag, readFrame (failing m [0]) (tCodeAt s (pageAddr ch x.scrubPos)) tag = .corrected := fun tag => by
      rw [hm, hcode]
      rfl
    rw [pageScrubbed_of_read hdirty (by rw [show (getPage s ch (getCh s ch).scrubPos).t = 4 from ht]; decide) hread]
    generalize hu : (takeFree (setPage s ch (getCh s ch).scrubPos (failing (getPage s ch (getCh s ch).scrubPos) [0])) 1).2 = u
    have hch : getCh u ch = x := hu ▸ rfl
    have hcodeu : tCodeAt u (pageAddr ch x.scrubPos) = 4 := hu ▸ hcode
    have hctr : ctrGet u .memCorr ch = ctrGet s .memCorr ch := hu ▸ rfl
    have hbytes : u.mem.bytes = s.mem.bytes := hu ▸ rfl
    obtain ⟨y, hy⟩ := notePage_soft (s := encodePage (bump u .memCorr ch) ch x.scrubPos) (ch := ch) (page := x.scrubPos) (by
      rw [show getCh (encodePage (bump u .memCorr ch) ch x.scrubPos) ch = x from hch]
      exact htrk)
    have hpage := (getPage_encodePage (bump u .memCorr ch) ch x.scrubPos).trans (congrArg (fun t => (⟨true, t, []⟩ : PageMeta)) hcodeu)
    have hcount : ctrGet (encodePage (bump u .memCorr ch) ch x.scrubPos) .memCorr ch = min (2 ^ 32 - 1) (ctrGet s .memCorr ch + 1) :=
      (ctrGet_bump_same u .memCorr ch).trans (congrArg (fun n => min (2 ^ 32 - 1) (n + 1)) hctr)
    have hread' : afterRead u ch (getCh s ch).scrubPos .corrected = notePage (encodePage (bump u .memCorr ch) ch x.scrubPos) ch x.scrubPos := rfl
    rw [hread']
    obtain hy | hy := hy
    · rw [hy]
      exact ⟨hpage, hcount, hbytes⟩
    · rw [hy]
      exact ⟨hpage, (ctrGet_bumpBy_of_kind_ne _ _ _ _ (by decide)).trans hcount, hbytes⟩
  · rw [pageScrubbed_of_dirty hdirty]
    exact ⟨rfl, rfl, rfl⟩
  · rw [pageScrubbed_of_dirty hdirty]
    have hnext : getCh (scrubNext s ch) ch = _ := (getCh_updCh_same _ _ _).trans (if_neg (Nat.not_lt_of_le (Nat.le_of_eq hpos.symm)))
    dsimp only
    rw [hnext]
    exact ⟨rfl, rfl, rfl⟩

theorem scrubTurn_of {ch : Nat} (hact : chActive s ch = true) (hen : (getCh s ch).scrubEn = true) (hp : panicOn s = false) (hst : chState s ch ≠ 3)
    (hgap : gapOver s (getCh s ch).scrubAt (getCh s ch).gap = true) : scrubTurn s ch = true := by
  unfold scrubTurn
  rw [hact, hen, hp, hgap, bne_iff_ne.2 hst]
  rfl

theorem scrubTurn_of_idle {ch : Nat} (h : chActive s ch = false ∨ (getCh s ch).scrubEn = false ∨ panicOn s = true ∨ chState s ch = 3 ∨
    gapOver s (getCh s ch).scrubAt (getCh s ch).gap = false) : scrubTurn s ch = false := by
  unfold scrubTurn
  obtain h | h | h | h | h := h <;> simp [h]

/-! ### The SRAM scrubbers -/

/-- A word with further errors. -/
def wordFailed (s : State) (w n : Nat) : State := { s with mem := { s.mem with sramErr := tset s.mem.sramErr w n } }

theorem wordErr_wordFailed (s : State) (w n : Nat) : wordErr (wordFailed s w n) w = n := tget_tset_same _ _ _ _

/-- The word at a scrubber's position, read with `n` errors (R275). -/
def wordRead (s : State) (w i n : Nat) : State :=
  let u := if n = 0 then s else wordFailed s w n
  if n = 1 then correctWord u w else if n = 2 then cacheUnc u w i else u

section
variable {i : Fin 27} {bits : Fin 3} (hgap : gapOver s (getSr s i).scrubAt (getSr s i).gap = true)
  (hstore : 24 ≤ i.val → i.val < 26 → srWordAt i (getSr s i).scrubPos < 2 ^ 45 → panicOn s = false)
include hgap hstore

theorem srScrub_turn : ¬((((24 ≤ i.val && i.val < 26 && srWordAt i (getSr s i).scrubPos < 2 ^ 45) && panicOn s) ||
    !gapOver s (getSr s i).scrubAt (getSr s i).gap) = true) := by
  rw [hgap, Bool.or_eq_true, Bool.and_eq_true, Bool.and_eq_true, Bool.and_eq_true, decide_eq_true_iff, decide_eq_true_iff, decide_eq_true_iff]
  rintro (⟨⟨⟨h24, h26⟩, hw⟩, hp⟩ | h)
  · exact ne_true_of_eq_false (hstore h24 h26 hw) hp
  · exact Bool.noConfusion h

theorem exec_srScrubRead_passed (hgate : gateStatus s (wordDom (srWordAt i (getSr s i).scrubPos)) ≠ 0) :
    exec (.srScrubRead i bits) s = .next (srNext s i) := (if_neg (srScrub_turn hgap hstore)).trans (if_pos hgate)

theorem exec_srScrubRead (hgate : gateStatus s (wordDom (srWordAt i (getSr s i).scrubPos)) = 0) (herr : wordErr s (srWordAt i (getSr s i).scrubPos) = 0) :
    exec (.srScrubRead i bits) s = .next (srNext (wordRead s (srWordAt i (getSr s i).scrubPos) i (min 2 bits)) i) := by
  refine (if_neg (srScrub_turn hgap hstore)).trans ((if_neg (not_not.2 hgate)).trans ?_)
  rw [herr, Nat.zero_add]
  rfl

end

theorem sramErr_correctWord {w : Nat} (h : (trkNote (getSr s (srOfWord w)).trk (srIndex w) (getSr s (srOfWord w)).lapNo).2.1 = false) :
    (correctWord s w).mem.sramErr = tdel s.mem.sramErr w ∧ (correctWord s w).mem.bytes = s.mem.bytes := by
  unfold correctWord
  generalize srOfWord w = i at h ⊢
  generalize srIndex w = n at h ⊢
  have hsr : getSr (bump { s with mem := { s.mem with sramErr := tdel s.mem.sramErr w } } .srCorr i) i = getSr s i := rfl
  dsimp only
  rw [hsr, h, if_neg Bool.false_ne_true]
  split
  · exact ⟨rfl, rfl⟩
  · exact ⟨rfl, rfl⟩

theorem ctrGet_wordUnc {w i : Nat} (hi : srOfWord w = i) (by_ : Nat) : ctrGet (wordUnc s w by_) .srUnc i = min (2 ^ 32 - 1) (ctrGet s .srUnc i + 1) := by
  unfold wordUnc
  rw [hi]
  dsimp only
  rw [ctrGet_raiseHolders (by decide) (by decide)]
  exact ctrGet_bump_same (takeFree s 48).2 .srUnc i

theorem cacheUnc_of_memory {w by_ : Nat} (h : ¬(24 ≤ srOfWord w ∧ srOfWord w < 26 ∧ 9437184 ≤ srIndex w)) : cacheUnc s w by_ = wordUnc s w by_ := if_neg h

/-- A double error in a place of a Bench cache that holds no dirty line. -/
theorem cacheUnc_of_clean {w i by_ : Nat} {e : Option (Nat × CLine)} (hi : srOfWord w = i) (h24 : 24 ≤ i) (h26 : i < 26) (hw : 9437184 ≤ srIndex w)
    (he : (if (srIndex w - 9437184) % 147456 < 16384 then none
      else benchLine s (96 + 8 * (i - 24) + (srIndex w - 9437184) / 147456) (((srIndex w - 9437184) % 147456 - 16384) / 8)) = e)
    (hclean : (e.any fun x => x.2.dirty) = false) : cacheUnc s w by_ =
      bump { s with
        benchCache := s.benchCache.filter fun x => e.all fun l => l.1 != x.1
        mem := { s.mem with sramErr := tdel s.mem.sramErr w } } .srCorr i := by
  unfold cacheUnc
  dsimp only
  rw [hi, if_pos ⟨h24, h26, hw⟩, he, hclean]
  rfl

end Sys2Proof.Machine
end

section
/-!
THEOREMS. SRAM scrubbers and the reinitialisation of memory channels.
-/
namespace Sys2Proof.Machine

variable {s : State}

/-! ### The SRAM scrubbers -/

theorem srNext_eq (s : State) (i : Nat) : ∃ x, srNext s i = setSr s i x ∧ x.lastUnc = (getSr s i).lastUnc ∧ x.lastUncV = (getSr s i).lastUncV := by
  unfold srNext
  dsimp only
  split
  · exact ⟨_, rfl, rfl, rfl⟩
  · exact ⟨_, rfl, rfl, rfl⟩

theorem srNext_goes_on (i : Nat) (s : State) :
    let x := getSr s i
    (x.scrubPos + 1 < srTotal i → srNext s i = setSr s i { x with scrubPos := x.scrubPos + 1, scrubAt := some (upNs s) }) ∧
    (srTotal i ≤ x.scrubPos + 1 → (getSr (srNext s i) i).scrubPos = 0 ∧ (getSr (srNext s i) i).lapNo = (x.lapNo + 1) % 65536 ∧
      (getSr (srNext s i) i).lapStart = upNs s) := by
  refine ⟨fun h => congrArg (setSr s i) (if_pos h), fun h => ?_⟩
  have hnext : getSr (srNext s i) i = _ := (getSr_setSr_same _ _ _).trans (if_neg (Nat.not_lt_of_le h))
  rw [hnext]
  exact ⟨rfl, rfl, rfl⟩

theorem srScrub (i : Fin 27) (bits : Fin 3) (s : State) :
    let x := getSr s i
    let w := srWordAt i x.scrubPos
    (gapOver s x.scrubAt x.gap = false → Ignored (.srScrubRead i bits) s) ∧
    (24 ≤ i.val → i.val < 26 → w < 2 ^ 45 → panicOn s = true → Ignored (.srScrubRead i bits) s) ∧
    (gapOver s x.scrubAt x.gap = true → (24 ≤ i.val → i.val < 26 → w < 2 ^ 45 → panicOn s = false) →
      (gateStatus s (wordDom w) ≠ 0 → Gives (.srScrubRead i bits) s (srNext s i)) ∧
      (gateStatus s (wordDom w) = 0 → wordErr s w = 0 → srOfWord w = i.val →
        (bits = 0 → Gives (.srScrubRead i bits) s (srNext s i)) ∧
        (bits = 1 → (trkNote x.trk (srIndex w) x.lapNo).2.1 = false → Runs (.srScrubRead i bits) s fun t =>
          wordErr t w = 0 ∧ ctrGet t .srCorr i = min (2 ^ 32 - 1) (ctrGet s .srCorr i + 1) ∧ t.mem.bytes = s.mem.bytes) ∧
        (bits = 2 → w < 2 ^ 45 → (24 ≤ i.val → srIndex w < 9437184) → Runs (.srScrubRead i bits) s fun t =>
          wordErr t w = 2 ∧ ctrGet t .srUnc i = min (2 ^ 32 - 1) (ctrGet s .srUnc i + 1) ∧ (getSr t i).lastUnc = 8 * w ∧ (getSr t i).lastUncV = true) ∧
        (bits = 2 → 24 ≤ i.val → i.val < 26 → 9437184 ≤ srIndex w →
          let k := (srIndex w - 9437184) % 147456
          let held := if k < 16384 then none else benchLine s (96 + 8 * (i.val - 24) + (srIndex w - 9437184) / 147456) ((k - 16384) / 8)
          let kept := Runs (.srScrubRead i bits) s fun t => wordErr t w = 0 ∧ ctrGet t .srCorr i = min (2 ^ 32 - 1) (ctrGet s .srCorr i + 1) ∧
            ctrGet t .srUnc i = ctrGet s .srUnc i ∧ t.benchCache = s.benchCache.filter (fun e => held.all fun h => e.1 != h.1)
          (held = none → kept) ∧ (∀ a l, held = some (a, l) → l.dirty = false → kept)))) := by
  intro x w
  refine ⟨fun h => if_pos ?_, fun h24 h26 hw hp => if_pos ?_, fun hgap hstore => ⟨exec_srScrubRead_passed hgap hstore, fun hgate herr hi => ?_⟩⟩
  · rw [Bool.or_eq_true]
    exact .inr (congrArg not h)
  · rw [Bool.or_eq_true, Bool.and_eq_true, Bool.and_eq_true, Bool.and_eq_true]
    exact .inl ⟨⟨⟨decide_eq_true h24, decide_eq_true h26⟩, decide_eq_true hw⟩, hp⟩
  have hexec := exec_srScrubRead (bits := bits) hgap hstore hgate herr
  refine ⟨fun hb => ?_, fun hb htrk => ?_, fun hb hw hindex => ?_, fun hb h24 h26 hindex => ?_⟩
  · subst hb
    exact hexec
  · subst hb
    obtain ⟨y, hy, -, -⟩ := srNext_eq (correctWord (wordFailed s w 1) w) i
    refine ⟨_, hexec.trans (congrArg Host.Outcome.next hy), ?_⟩
    obtain ⟨herrs, hbytes⟩ := sramErr_correctWord (s := wordFailed s w 1) (w := w) (by
      rw [hi]
      exact htrk)
    have hcount := ctrGet_correctWord (wordFailed s w 1) w
    rw [hi] at hcount
    exact ⟨(congrArg (fun t : Tab Nat => tget t 0 w) herrs).trans (tget_tdel_same _ _ _), hcount, hbytes⟩
  · subst hb
    have hread : wordRead s w i 2 = wordUnc (wordFailed s w 2) w i := cacheUnc_of_memory (by omega)
    obtain ⟨y, hy, hunc, huncV⟩ := srNext_eq (wordUnc (wordFailed s w 2) w i) i
    refine ⟨_, hexec.trans (congrArg Host.Outcome.next ((congrArg (srNext · i) hread).trans hy)), ?_⟩
    have hmem := wordUnc_mem (s := wordFailed s w 2) hw i
    rw [hi] at hmem
    have hsr : getSr (wordUnc (wordFailed s w 2) w i) i = _ := (congrArg (fun m : Mem => tget m.srs {} i) hmem).trans (getSr_setSr_same _ _ _)
    rw [hsr] at hunc huncV
    refine ⟨?_, ctrGet_wordUnc (s := wordFailed s w 2) hi i, ?_, ?_⟩
    · exact (congrArg (fun m : Mem => tget m.sramErr 0 w) hmem).trans (wordErr_wordFailed s w 2)
    · exact (congrArg Sr.lastUnc (getSr_setSr_same _ _ _)).trans hunc
    · exact (congrArg Sr.lastUncV (getSr_setSr_same _ _ _)).trans huncV
  · intro k held kept
    subst hb
    have hkept : (held.any fun l => l.2.dirty) = false → kept := by
      intro hclean
      have hread := cacheUnc_of_clean (s := wordFailed s w 2) (by_ := i) hi h24 h26 hindex (e := held) rfl hclean
      obtain ⟨y, hy, -, -⟩ := srNext_eq (cacheUnc (wordFailed s w 2) w i) i
      refine ⟨_, hexec.trans (congrArg Host.Outcome.next hy), ?_⟩
      dsimp only
      rw [hread]
      refine ⟨tget_tdel_same _ _ _, ctrGet_bump_same (wordFailed s w 2) .srCorr i, ctrGet_bumpBy_of_kind_ne (wordFailed s w 2) _ _ _ (by decide), ?_⟩
      exact List.filter_congr fun e _ => congrArg (Option.all · held) (funext fun l => bne_comm)
    refine ⟨fun hnone => hkept ?_, fun a l hsome hl => hkept ?_⟩
    · rw [hnone]
      rfl
    · rw [hsome]
      exact hl

/-! ### Reinitialisation (R398) -/

/-- A channel whose devices have lost their contents, with the remap table of the flash. -/
def channelEmptied (s : State) (ch : Nat) : State :=
  updCh (losePages s ch) ch fun x => { x with remap := x.remapFlash, spareBad := x.badFlash, remapUnsaved := false }

theorem getCh_channelEmptied (s : State) (ch : Nat) : getCh (channelEmptied s ch) ch =
    { getCh s ch with staged := [], remap := (getCh s ch).remapFlash, spareBad := (getCh s ch).badFlash, remapUnsaved := false } := by
  unfold channelEmptied losePages
  rw [getCh_updCh_same, getCh_updCh_same]
  rfl

theorem getPage_channelEmptied (s : State) (ch pg : Nat) (h : pg < 2 ^ 22) : getPage (channelEmptied s ch) ch pg = {} := by
  have hkey : pageKey ch pg / 2 ^ 22 = ch := by
    unfold pageKey
    omega
  refine tget_filter_of_neg (fun v => ?_) s.mem.pages {}
  rw [hkey]
  exact bne_self_eq_false ch

section
variable {ch : Fin 16} (hst : (getCh s ch).state = 4) (hout : bit s.flt.chOut ch = false)
include hst hout

theorem exec_memChReinitDone_ok : exec (.memChReinitDone ch true) s = .next (fltChannel (updCh (channelEmptied s ch) ch fun x =>
    { x with state := 1, trk := [], scrubPos := 0, scrubEn := true, lapStart := upNs s }) ch 1 1) := if_pos ⟨hst, hout⟩

theorem exec_memChReinitDone_failed : exec (.memChReinitDone ch false) s = .next (fltChannel (noteDeg { channelEmptied s ch with
    flt := { s.flt with chOut := setBit s.flt.chOut ch true } }) ch 1 2) := if_pos ⟨hst, hout⟩

end

theorem channelReinit (ch : Fin 16) (s : State) (hst : (getCh s ch).state = 4) (hout : bit s.flt.chOut ch = false) :
    (Runs (.memChReinitDone ch true) s fun t => (getCh t ch).state = 1 ∧ (getCh t ch).staged = [] ∧ (getCh t ch).remap = (getCh s ch).remapFlash ∧ (getCh t ch).spareBad = (getCh s ch).badFlash ∧
      (getCh t ch).trk = [] ∧ (getCh t ch).scrubPos = 0 ∧ (getCh t ch).scrubEn = true ∧ (∀ pg : Nat, pg < 2 ^ 22 → getPage t ch pg = {})) ∧
    (Runs (.memChReinitDone ch false) s fun t => (getCh t ch).state = 4 ∧ bit t.flt.chOut ch = true) := by
  refine ⟨⟨_, exec_memChReinitDone_ok hst hout, ?_⟩, ⟨_, exec_memChReinitDone_failed hst hout, ?_, ?_⟩⟩
  · dsimp only
    rw [getCh_of_mem (mem_fltChannel _ _ _ _), getCh_updCh_same, getCh_channelEmptied]
    exact ⟨rfl, rfl, rfl, rfl, rfl, rfl, rfl, fun pg hpg => (getPage_of_mem (mem_fltChannel _ _ _ _) _ _).trans (getPage_channelEmptied s ch pg hpg)⟩
  · dsimp only
    rw [getCh_of_mem ((mem_fltChannel _ _ _ _).trans (mem_noteDeg _))]
    exact (congrArg MemCh.state (getCh_channelEmptied s ch)).trans hst
  · have hflt : ∀ u : State, (fltChannel u ch 1 2).flt.chOut = u.flt.chOut := fun u =>
      (congrArg Flt.chOut (told_raiseHolders (told_refl u) (fun p => holdsLpddr u p (ch / 8)) 0x0B04 (ch + 1 * 256) 2).flt :)
    have hdeg : ∀ u : State, (noteDeg u).flt = u.flt := fun u => by
      obtain ⟨x, hx⟩ := noteDeg_eq u
      rw [hx]
    dsimp only
    rw [hflt, hdeg]
    exact bit_setBit_same _ _

theorem scrubbersCorrectAndChannelsRecover : Parts.ScrubbersCorrectAndChannelsRecover :=
  ⟨fun _ _ hact hen hp hst hgap => pageScrub _ _ (scrubTurn_of hact hen hp hst hgap), fun _ upset _ h => exec_memScrubRead_idle (scrubTurn_of_idle h) upset,
    fun _ _ => srPlace, srScrub, srNext_goes_on, channelReinit⟩

/-- Settles O42, from the events of the controllers, of the scrubbers and of the channels in FAULT. -/
theorem memoryIsKept : Obligations.MemoryIsKept := ⟨memoryControllersKeepTheirPages, scrubbersCorrectAndChannelsRecover⟩

end Sys2Proof.Machine
end

section
/-!
THEOREMS. What a backhaul port sends, and its registers.
-/
namespace Sys2Proof.Machine

variable {s : State}

/-! ### Descriptors -/

section
variable {n : Fin 4}

theorem exec_bhTxFrame_ptp {o : PktOut} {r : List PktOut} (hlive : bpLive s n = true) (hptp : (getBp s n).ptpOut = o :: r) :
    exec (.bhTxFrame n) s = .next (sendPtpFrame (setBp s n { getBp s n with ptpOut := r }) n o) := by
  refine (if_neg (ne_true_of_eq_false (congrArg not hlive))).trans ?_
  rw [hptp]

theorem exec_bhTxFrame_ring (hlive : bpLive s n = true) (hptp : (getBp s n).ptpOut = []) : exec (.bhTxFrame n) s =
    if (getBp s n).head = (getBp s n).tail % 2 ^ (getBp s n).tsz then .next s
    else
      let p := (bpOwner s n).getD 4
      let a := (getBp s n).txAddr + 32 * (getBp s n).head
      match memRead s (some p) a 32 with
      | (0, d, u) => .next (txComplete (txStatus u n p d).2.2 n p a d (txStatus u n p d).1 (txStatus u n p d).2.1)
      | (_, _, u) => .next (txComplete u n p a (leBytes 0 32) 0x20 0) := by
  refine (if_neg (ne_true_of_eq_false (congrArg not hlive))).trans ?_
  rw [hptp] <;> rfl

theorem exec_bhTxFrame_sent {d : List Byte} {u v : State} {st ts : Nat} (hlive : bpLive s n = true) (hptp : (getBp s n).ptpOut = [])
    (hne : (getBp s n).head ≠ (getBp s n).tail % 2 ^ (getBp s n).tsz)
    (hread : memRead s (some ((bpOwner s n).getD 4)) ((getBp s n).txAddr + 32 * (getBp s n).head) 32 = (0, d, u))
    (hstat : txStatus u n ((bpOwner s n).getD 4) d = (st, ts, v)) :
    exec (.bhTxFrame n) s = .next (txComplete v n ((bpOwner s n).getD 4) ((getBp s n).txAddr + 32 * (getBp s n).head) d st ts) := by
  rw [exec_bhTxFrame_ring hlive hptp, if_neg hne]
  dsimp only
  generalize ((getBp s n).txAddr + 32 * (getBp s n).head) = a at hread ⊢
  generalize (bpOwner s n).getD 4 = p at hread hstat ⊢
  rw [hread]
  refine Eq.trans (b := Host.Outcome.next (txComplete (txStatus u n p d).2.2 n p a d (txStatus u n p d).1 (txStatus u n p d).2.1)) rfl ?_
  rw [hstat]

end

theorem portSends (n : Fin 4) (s : State) :
    let x := getBp s n
    let p := (bpOwner s n).getD 4
    (bpLive s n = false → Ignored (.bhTxFrame n) s) ∧
    (bpLive s n = true → x.ptpOut = [] → x.head = x.tail % 2 ^ x.tsz → Ignored (.bhTxFrame n) s) ∧
    (∀ o r, bpLive s n = true → x.ptpOut = o :: r → Gives (.bhTxFrame n) s (sendPtpFrame (setBp s n { x with ptpOut := r }) n o)) ∧
    (∀ d u st ts v, bpLive s n = true → x.ptpOut = [] → x.head ≠ x.tail % 2 ^ x.tsz → memRead s (some p) (x.txAddr + 32 * x.head) 32 = (0, d, u) →
      txStatus u n p d = (st, ts, v) → Gives (.bhTxFrame n) s (txComplete v n p (x.txAddr + 32 * x.head) d st ts)) := by
  refine ⟨fun h => if_pos (congrArg not h), fun h hp he => (exec_bhTxFrame_ring h hp).trans (if_pos he), fun o r h hp => exec_bhTxFrame_ptp h hp,
    fun d u st ts v h hp he hread hstat => exec_bhTxFrame_sent h hp he hread hstat⟩

/-- A descriptor that breaks R287 is answered 0x10. -/
theorem txStatus_of_broken {n p : Nat} {d : List Byte} (h : (!bit (ofLe ((d.drop 8).take 1)) 0 || fld (ofLe ((d.drop 8).take 1)) 6 2 != 0 ||
    ofLe ((d.drop 9).take 7) != 0 || ofLe ((d.drop 6).take 2) < 60 || 9212 < ofLe ((d.drop 6).take 2)) = true) : txStatus s n p d = (0x10, 0, s) := if_pos h

theorem txStatus_of_plain {n p : Nat} {d bs : List Byte} {u : State} (h : (!bit (ofLe ((d.drop 8).take 1)) 0 || fld (ofLe ((d.drop 8).take 1)) 6 2 != 0 ||
    ofLe ((d.drop 9).take 7) != 0 || ofLe ((d.drop 6).take 2) < 60 || 9212 < ofLe ((d.drop 6).take 2)) = false)
    (hprot : bit (ofLe ((d.drop 8).take 1)) 2 = false) (hread : memRead s (some p) (ofLe ((d.drop 0).take 6)) (ofLe ((d.drop 6).take 2)) = (0, bs, u)) :
    txStatus s n p d = (1, (nsCounter u + latTx u n) % 2 ^ 32, sendFrame u n bs) := by
  refine (if_neg (ne_true_of_eq_false h)).trans ?_
  rw [hread]
  dsimp only
  rw [hprot]
  rfl

theorem descriptorStatus (s : State) (n p : Nat) (d : List Byte) :
    let len := ofLe ((d.drop 6).take 2)
    let ctl := ofLe ((d.drop 8).take 1)
    (len < 60 ∨ 9212 < len ∨ bit ctl 0 = false → (txStatus s n p d).1 = 0x10 ∧ (txStatus s n p d).2.2 = s) ∧
    (∀ bs u, bit ctl 0 = true → fld ctl 6 2 = 0 → ofLe ((d.drop 9).take 7) = 0 → 60 ≤ len → len ≤ 9212 → bit ctl 2 = false →
      memRead s (some p) (ofLe ((d.drop 0).take 6)) len = (0, bs, u) → txStatus s n p d = (1, (nsCounter u + latTx u n) % 2 ^ 32, sendFrame u n bs)) := by
  intro len ctl
  refine ⟨fun h => ?_, fun bs u hown hf hr hlo hhi hprot hread => txStatus_of_plain ?_ hprot hread⟩
  · have hbroken : txStatus s n p d = (0x10, 0, s) := by
      refine txStatus_of_broken ?_
      simp only [Bool.or_eq_true, Bool.not_eq_true', decide_eq_true_eq]
      obtain h | h | h := h
      · exact .inl (.inr h)
      · exact .inr h
      · exact .inl (.inl (.inl (.inl h)))
    rw [hbroken]
    exact ⟨rfl, rfl⟩
  · simp only [Bool.or_eq_false_iff, Bool.not_eq_false', bne_eq_false_iff_eq, decide_eq_false_iff_not]
    exact ⟨⟨⟨⟨hown, hf⟩, hr⟩, Nat.not_lt_of_le hlo⟩, Nat.not_lt_of_le hhi⟩

/-! ### Frames and their protection -/

theorem getBp_updBp_same (s : State) (n : Nat) (f : BhPort → BhPort) : getBp (updBp s n f) n = f (getBp s n) := tget_tset_same _ _ _ _

theorem getBp_bump_updBp (s : State) (n : Nat) (f : BhPort → BhPort) (k : Counter) (b : Nat) : getBp (bump (updBp s n f) k b) n = f (getBp s n) :=
  getBp_updBp_same s n f

theorem getBp_sendFrame (s : State) (n : Nat) (bs : List Byte) : getBp (sendFrame s n bs) n = { getBp s n with txLast := bs ++ fcsOf bs } :=
  getBp_bump_updBp s n (fun x => { x with txLast := bs ++ fcsOf bs }) _ _

theorem sendPtpFrame_of_clear {n : Nat} {o : PktOut} {w : List Byte} {u : State} (hemit : emitPtp s o (32 + n) (s.now + latTx s n) = (w, u))
    (hclear : (getBp s n).msEn = false ∨ (getBp s n).ptpClear = true) (hlen : 60 ≤ w.length) : sendPtpFrame s n o = sendFrame u n w := by
  have hopen : ((getBp s n).msEn && !inClear (getBp s n) 0x88F7) = false := by
    obtain h | h := hclear
    · rw [h]
      rfl
    · simp [inClear, h]
  have hpad : w ++ leBytes 0 (60 - w.length) = w := by
    rw [Nat.sub_eq_zero_of_le hlen]
    exact List.append_nil w
  unfold sendPtpFrame
  rw [hemit]
  dsimp only
  rw [hopen, hpad]
  rfl

section
variable {n sc : Nat} {bs : List Byte} {a : Sa}

theorem protect_of_no_sa (h : (getBp s n).msEn = false ∨ txSa (getBp s n) sc = none) : protect s n sc bs = (0x23, [], s) := by
  unfold protect
  dsimp only
  split
  · rfl
  next hen =>
    obtain h | h := h
    · exact absurd (congrArg not h) hen
    · rw [h]

theorem protect_of_exhausted (hen : (getBp s n).msEn = true) (hsa : txSa (getBp s n) sc = some a) (hex : a.exhausted = true) :
    protect s n sc bs = (0x22, [], bump s .msTxPnExh n) := by
  refine (if_neg (ne_true_of_eq_false (congrArg not hen))).trans ?_
  rw [hsa]
  exact if_pos hex

/-- What a frame under protection leaves of its SA: the next PN. -/
def nextPn (a : Sa) (e : Bool) : Sa := { a with pn := (a.pn + 1) % 2 ^ 64, exhausted := a.pn == 2 ^ 64 - 1, evt := e }

theorem protect_of_active (hen : (getBp s n).msEn = true) (hsa : txSa (getBp s n) sc = some a) (hex : a.exhausted = false) :
    protect s n sc bs = (1, protectFrame (getBp s n) a (Config.integOnly n sc) a.pn bs,
      let e := a.evt || decide ((getBp s n).pnThr ≤ a.pn)
      bump (updBp (notePn s n sc a) n fun x => { x with sas := x.sas.map fun y => if y == { a with evt := e } then nextPn a e else y }) .msTxProt n) := by
  refine (if_neg (ne_true_of_eq_false (congrArg not hen))).trans ?_
  rw [hsa]
  exact if_neg (ne_true_of_eq_false hex)

/-- While the next PN is below the threshold, or the event has been sent, none is sent. -/
theorem notePn_quiet (h : a.pn < (getBp s n).pnThr ∨ a.evt = true) : notePn s n sc a = s := by
  refine if_neg ?_
  rw [Bool.and_eq_true, decide_eq_true_iff]
  rintro ⟨hpn, hevt⟩
  obtain h | h := h
  · exact absurd h (Nat.not_lt_of_le hpn)
  · rw [h] at hevt
    exact Bool.noConfusion hevt

theorem sas_protect (hen : (getBp s n).msEn = true) (hsa : txSa (getBp s n) sc = some a) (hex : a.exhausted = false)
    (h : a.pn < (getBp s n).pnThr ∨ a.evt = true) : (getBp (protect s n sc bs).2.2 n).sas = (getBp s n).sas.map fun y => if y == a then
      { a with pn := (a.pn + 1) % 2 ^ 64, exhausted := a.pn == 2 ^ 64 - 1 } else y := by
  have he : (a.evt || decide ((getBp s n).pnThr ≤ a.pn)) = a.evt := by
    obtain h | h := h
    · rw [decide_eq_false (Nat.not_le_of_lt h), Bool.or_false]
    · rw [h, Bool.true_or]
  rw [protect_of_active hen hsa hex, notePn_quiet h, he]
  exact congrArg BhPort.sas (getBp_bump_updBp s n (fun x => { x with sas := x.sas.map fun y => if y == a then nextPn a a.evt else y }) _ _)

end

/-! ### Registers of the port -/

section
variable {n : Fin 4} {p : Fin 4}

theorem mayTouch_owner {o : Option Nat} (h : o = some p.val) : mayTouch (.part p) o = true := by
  rw [h]
  exact beq_self_eq_true _

theorem exec_bhRuleWrite (hown : bpOwner s n = some p.val) (i : Fin 64) (v : Word) : exec (.bhRuleWrite (.part p) n i v) s =
    if ownsFlow s p (fld v.toNat 41 18) then .next (done (updBp s n fun x => { x with rules := tset x.rules i (v.toNat &&& 0x7FFFFFF7FFFFFFF) }))
    else .next (done s) := by
  refine (if_neg (ne_true_of_eq_false (congrArg not (mayTouch_owner hown)))).trans ?_
  rw [hown]
  rfl

theorem exec_bhFlowWrite (hown : bpOwner s n = some p.val) (tx : Bool) (v : BitVec 32) : exec (.bhFlowWrite (.part p) n tx v) s =
    if bit v.toNat 31 && !ownsFlow s p (fld v.toNat 0 18) then .next (done s)
    else .next (done (updBp s n fun x => if tx then { x with txFlow := fld v.toNat 0 18, txEn := bit v.toNat 31 }
      else { x with defFlow := fld v.toNat 0 18, defEn := bit v.toNat 31 })) := by
  refine (if_neg (ne_true_of_eq_false (congrArg not (mayTouch_owner hown)))).trans ?_
  rw [hown]
  rfl

end

theorem portRegisters (n : Fin 4) (s : State) (p : Fin 4) (hown : bpOwner s n = some p.val) :
    let x := getBp s n
    (∀ tail : BitVec 12, Gives (.bhTxTailWrite (.part p) n tail) s (done (setBp s n { x with tail := tail.toNat }))) ∧
    (∀ (i : Fin 64) (v : Word), (ownsFlow s p (v.toNat / 2 ^ 41 % 2 ^ 18) = true → Gives (.bhRuleWrite (.part p) n i v) s (done (setBp s n { x with rules := tset x.rules i (v.toNat &&& 0x7FFFFFF7FFFFFFF) }))) ∧
      (ownsFlow s p (v.toNat / 2 ^ 41 % 2 ^ 18) = false → Gives (.bhRuleWrite (.part p) n i v) s (done s))) ∧
    (∀ v : BitVec 32, let f := v.toNat % 2 ^ 18
      (bit v.toNat 31 = true → ownsFlow s p f = false → ∀ tx, Gives (.bhFlowWrite (.part p) n tx v) s (done s)) ∧
      (bit v.toNat 31 = false ∨ ownsFlow s p f = true →
        Gives (.bhFlowWrite (.part p) n true v) s (done (setBp s n { x with txFlow := f, txEn := bit v.toNat 31 })) ∧
        Gives (.bhFlowWrite (.part p) n false v) s (done (setBp s n { x with defFlow := f, defEn := bit v.toNat 31 })))) := by
  intro x
  refine ⟨fun tail => if_neg (ne_true_of_eq_false (congrArg not (mayTouch_owner hown))),
    fun i v => ⟨fun h => (exec_bhRuleWrite hown i v).trans (if_pos h), fun h => (exec_bhRuleWrite hown i v).trans (if_neg (ne_true_of_eq_false h))⟩, fun v => ?_⟩
  intro f
  have hf : fld v.toNat 0 18 = f := by
    unfold fld
    rw [Nat.pow_zero, Nat.div_one]
  have hexec := fun tx => exec_bhFlowWrite hown tx v
  rw [hf] at hexec
  refine ⟨fun hen hf tx => (hexec tx).trans (if_pos (Bool.and_eq_true_iff.2 ⟨hen, congrArg not hf⟩)), fun h => ?_⟩
  have hno : ¬((bit v.toNat 31 && !ownsFlow s p f) = true) := by
    obtain h | h := h
    · rw [h]
      exact Bool.false_ne_true
    · rw [h, Bool.not_true, Bool.and_false]
      exact Bool.false_ne_true
  exact ⟨(hexec true).trans (if_neg hno), (hexec false).trans (if_neg hno)⟩

theorem framesAreSent : Parts.FramesAreSent :=
  ⟨portSends, descriptorStatus, fun s n o bs => ⟨congrArg BhPort.txLast (getBp_sendFrame s n bs), fun _ _ => sendPtpFrame_of_clear⟩,
    fun s n sc bs => ⟨protect_of_no_sa, fun _ => protect_of_exhausted, fun _ hen hsa hex => by
      refine ⟨?_, ?_, sas_protect hen hsa hex⟩
      · rw [protect_of_active hen hsa hex]
      · rw [protect_of_active hen hsa hex]⟩, portRegisters⟩

end Sys2Proof.Machine
end

section
/-!
THEOREMS. PTP messages, Delay_Req and snapshots (TimeUnit, R292, R295, R297 to R299).
-/
namespace Sys2Proof.Machine

variable {s : State}

/-! ### Measured phase errors -/

theorem raiseMod_tm (s : State) (code w2 w3 : Nat) : (raiseMod s code w2 w3).tm = s.tm := away_tm (told_raiseMod (told_refl s) _ _ _).away

theorem setPhase_tm (s : State) (e : Int) : (setPhase s e).tm = { rebase s e with phaseFar := decide (1000000 < e.natAbs) && stepBarred s } := by
  unfold setPhase
  dsimp only
  split
  · exact raiseMod_tm ..
  · rfl

/-- The recorded measurement against a reference. -/
def phaseNoted (s : State) (ext : Bool) (e : Int) : State :=
  setTm s (if ext then { s.tm with extErr := some e } else { s.tm with ptpErr := some e })

theorem phaseMeas_of_followed {ext : Bool} {e : Int} (h : ((phaseNoted s ext e).tm.st = 1 ∨ (phaseNoted s ext e).tm.st = 2) ∧ (phaseNoted s ext e).tm.src = b2n ext) :
    phaseMeas s ext e = setPhase (phaseNoted s ext e) e := if_pos h

theorem phaseMeas_of_unfollowed {ext : Bool} {e : Int} (h : ¬(((phaseNoted s ext e).tm.st = 1 ∨ (phaseNoted s ext e).tm.st = 2) ∧ (phaseNoted s ext e).tm.src = b2n ext)) :
    phaseMeas s ext e = phaseNoted s ext e := if_neg h

theorem phaseMeas_ptp {e : Int} (hst : s.tm.st = 1 ∨ s.tm.st = 2) (hsrc : s.tm.src = 0) :
    (phaseMeas s false e).tm.secondsSet = s.tm.secondsSet ∧ (phaseMeas s false e).tm.phaseErr = e := by
  rw [phaseMeas_of_followed (ext := false) ⟨hst, hsrc⟩, setPhase_tm]
  exact ⟨rfl, rfl⟩

/-! ### The module's own clock -/

/-- With both directions measured, the clock's offset is the phase error against PTP. -/
theorem ownPhase_measures {d p : Int} (hd : s.tm.own.d21 = some d) (hp : s.tm.own.delay = some p) (hst : s.tm.st = 1 ∨ s.tm.st = 2) (hsrc : s.tm.src = 0) :
    (ownPhase s).tm.secondsSet = true ∧ (ownPhase s).tm.phaseErr = (d - p) / 65536 := by
  unfold ownPhase
  rw [hd, hp]
  exact phaseMeas_ptp (s := setTm s { s.tm with secondsSet := true }) hst hsrc

/-- The awaited Sync, recorded by the clock. -/
def syncNoted (s : State) (n tin : Nat) (bs : List Byte) : State :=
  setOwn s { s.tm.own with syncKey := ptpKey bs, t2 := tin, corr := ptpCorr bs + asymOf s (32 + n), await := true }

theorem ownMsg_sync {n tin : Nat} {bs : List Byte} (hty : ptpType bs = 0) (hport : chosenPort s = some n) (hstep : ptpTwoStep bs = false) :
    ownMsg s n tin bs = ownSync (syncNoted s n tin bs) (ptpTime bs 34) (ptpCorr bs + asymOf s (32 + n)) := by
  unfold ownMsg
  dsimp only
  rw [if_neg (by rw [hty]; decide), if_neg (not_not.2 hport), hty, hstep]
  rfl

theorem ownMsg_measures (n tin : Nat) (bs : List Byte) (p : Int) (hty : ptpType bs = 0) (hstep : ptpTwoStep bs = false) (hport : chosenPort s = some n)
    (hdelay : s.tm.own.delay = some p) (hst : s.tm.st = 1 ∨ s.tm.st = 2) (hsrc : s.tm.src = 0) :
    (ownMsg s n tin bs).tm.secondsSet = true ∧
    (ownMsg s n tin bs).tm.phaseErr = (((tin : Int) - ptpTime bs 34) * 65536 - (ptpCorr bs + asymOf s (32 + n)) - p) / 65536 := by
  rw [ownMsg_sync hty hport hstep]
  exact ownPhase_measures (d := ((tin : Int) - ptpTime bs 34) * 65536 - (ptpCorr bs + asymOf s (32 + n))) rfl hdelay hst hsrc

/-! ### Follow_Ups and Delay_Reqs -/

theorem exec_ptpFollowupRelease {h : HeldFu} {x : SyncRes} (hheld : s.tm.held.find? (fun h => (syncFor s h.key h.dest).isSome) = some h)
    (hsync : syncFor s h.key h.dest = some x) : exec .ptpFollowupRelease s =
      .next (sendPtp { s with tm := { s.tm with held := s.tm.held.erase h, syncs := s.tm.syncs.erase x } } h.dest { bytes := addCorr h.bytes x.add }) := by
  change execPtpFollowupRelease s = _
  unfold execPtpFollowupRelease
  rw [hheld]
  dsimp only
  rw [hsync]
  rfl

theorem exec_ptpFollowupRelease_none (hheld : s.tm.held.find? (fun h => (syncFor s h.key h.dest).isSome) = none) : exec .ptpFollowupRelease s = .next s := by
  change execPtpFollowupRelease s = _
  unfold execPtpFollowupRelease
  rw [hheld]

section
variable {h : HeldFu}

theorem exec_followUpNomatch (hheld : s.tm.held.find?
      (fun h => (syncFor s h.key h.dest).isNone && !syncWaits s h.key h.dest && h.arrived + 1000000000 ≤ upNs s) = some h) :
    exec .followUpNomatch s = .next (bump (sendPtp { s with tm := { s.tm with held := s.tm.held.erase h } } h.dest { bytes := h.bytes }) .tmTcNomatch 0) := by
  change execFollowUpNomatch s = _
  unfold execFollowUpNomatch
  rw [hheld]
  rfl

theorem exec_followUpNomatch_none (hheld : s.tm.held.find?
      (fun h => (syncFor s h.key h.dest).isNone && !syncWaits s h.key h.dest && h.arrived + 1000000000 ≤ upNs s) = none) :
    exec .followUpNomatch s = .next s := by
  change execFollowUpNomatch s = _
  unfold execFollowUpNomatch
  rw [hheld]

end

/-- The port on which a Delay_Req is due. -/
def reqPort (s : State) : Option Nat := if s.flt.mcDown.isSome || !reqDue s then none else chosenPort s

theorem exec_delayReqSend {n : Nat} (h : reqPort s = some n) : exec .delayReqSend s =
    .next (updBp (setTm s { s.tm with reqSeq := (s.tm.reqSeq + 1) % 65536, reqAt := some (upNs s) }) n fun x =>
      { x with ptpOut := x.ptpOut ++ [{ bytes := delayReq s n, own := true }] }) := by
  change execDelayReqSend s = _
  unfold execDelayReqSend
  change (match reqPort s with | some n => _ | none => _) = _
  rw [h]

theorem exec_delayReqSend_none (h : reqPort s = none) : exec .delayReqSend s = .next s := by
  change execDelayReqSend s = _
  unfold execDelayReqSend
  change (match reqPort s with | some n => _ | none => _) = _
  rw [h]

theorem reqPort_of_due (hmc : s.flt.mcDown = none) (hdue : reqDue s = true) : reqPort s = chosenPort s := by
  unfold reqPort
  rw [hmc, hdue]
  rfl

theorem reqPort_eq_none (h : chosenPort s = none ∨ s.flt.mcDown.isSome = true ∨ reqDue s = false) : reqPort s = none := by
  unfold reqPort
  obtain h | h | h := h
  · rw [h, ite_self]
  · exact if_pos (by rw [h]; rfl)
  · exact if_pos (by rw [h]; exact Bool.or_true _)

theorem reqDue_iff {t : Nat} (h : s.tm.reqAt = some t) : reqDue s = true ↔ t + 1000000000 * 2 ^ s.tm.cfg.interval / 256 ≤ upNs s := by
  unfold reqDue
  rw [h]
  exact decide_eq_true_iff

theorem exec_ptpMsgRx_idle (h : s.tm.ownRx = none ∨ s.flt.mcDown.isSome = true) : exec .ptpMsgRx s = .next s := by
  change execPtpMsgRx s = _
  unfold execPtpMsgRx
  split
  · rfl
  next he => exact if_pos (h.resolve_left fun e => absurd (e.symm.trans he) (by simp))

theorem exec_ptpMsgRx {n tin : Nat} {bs : List Byte} (h : s.tm.ownRx = some (n, tin, bs)) (hmc : s.flt.mcDown = none) :
    exec .ptpMsgRx s = .next (ownMsg { s with tm := { s.tm with ownRx := none } } n tin bs) := by
  change execPtpMsgRx s = _
  unfold execPtpMsgRx
  rw [h, hmc]
  rfl

theorem ptpAndSnapshots : Parts.PtpAndSnapshots := by
  refine fun s => ⟨exec_ptpMsgRx_idle, fun n tin bs => exec_ptpMsgRx, fun n tin bs => ⟨fun h => if_pos h, fun hty hport => ?_, ownMsg_measures n tin bs⟩,
    fun h x => exec_ptpFollowupRelease, exec_ptpFollowupRelease_none, fun h => exec_followUpNomatch, exec_followUpNomatch_none, fun n hport hmc hdue => ?_,
    fun h => exec_delayReqSend_none (reqPort_eq_none h), fun t => reqDue_iff, fun p => rfl⟩
  · exact (if_neg hty).trans (if_pos hport)
  · exact ⟨_, exec_delayReqSend ((reqPort_of_due hmc hdue).trans hport), congrArg BhPort.ptpOut (getBp_updBp_same ..), rfl, rfl⟩

end Sys2Proof.Machine
end

section
/-!
SUPPORT. The state of the time unit, its references and oscillators (TimeUnit, R293, R300 to R303).
-/
namespace Sys2Proof.Machine

variable {s : State}

/-! ### Slewing -/

theorem slewed_lt {e : Int} {d : Nat} (h : e.natAbs < 100 + d) : (slewed e d).natAbs < 100 := by
  unfold slewed
  split <;> omega

/-- Slewing at `m` ns per second takes at most this long to remove `k` ns. -/
theorem slew_reaches {k m d : Nat} (hm : 0 < m) (h : (k * 1000000000 + m - 1) / m ≤ d) : k ≤ d * m / 1000000000 := by
  refine (Nat.le_div_iff_mul_le (by decide)).2 ?_
  have hceil : k * 1000000000 + m - 1 < (d + 1) * m := (Nat.div_lt_iff_lt_mul hm).1 (Nat.lt_succ_of_le h)
  rw [Nat.succ_mul] at hceil
  omega

theorem phaseNow_lt {d : Nat} (hd : s.tm.phaseErr.natAbs < 100 + d) (h : s.tm.st = 1 ∨ s.tm.st = 2 → d ≤ (upNs s - s.tm.phaseAt) * s.tm.slewMax / 1000000000)
    (hst : ¬(s.tm.st = 1 ∨ s.tm.st = 2) → d = 0) : (phaseNow s).natAbs < 100 := by
  unfold phaseNow
  split
  next hs => exact slewed_lt (Nat.lt_of_lt_of_le hd (Nat.add_le_add_left (h hs) _))
  next hs => rwa [hst hs] at hd

theorem phaseNow_lt_of_lowSince {t : Nat} (h : lowSince s = some t) (ht : t ≤ upNs s) : (phaseNow s).natAbs < 100 := by
  unfold lowSince at h
  split at h
  next hlow => exact phaseNow_lt (d := 0) hlow (fun _ => Nat.zero_le _) fun _ => rfl
  next hlow =>
    split at h
    next hs =>
      obtain ⟨hst, hmax⟩ := hs
      have hslew := slew_reaches (k := s.tm.phaseErr.natAbs - 99) (d := upNs s - s.tm.phaseAt) hmax (Nat.le_sub_of_add_le' ((Option.some.inj h).symm ▸ ht))
      exact phaseNow_lt (d := s.tm.phaseErr.natAbs - 99) (by omega) (fun _ => hslew) fun hn => absurd hst hn
    next => exact absurd h (by simp)

/-! ### Changes of the state -/

/-- The latest measurement against the reference `src`. -/
def refErr (s : State) (src : Nat) : Option Int := if src = 1 then s.tm.extErr else s.tm.ptpErr

theorem tmState_tm {st : Nat} (h : s.tm.st ≠ st) (src : Nat) : (tmState s st src).tm =
    { rebase s (if st = 1 then (refErr s src).getD (phaseNow s) else phaseNow s) with
      st := st, src := src, stAt := upNs s, lowAt := upNs s, hoQual := s.tm.hoQual && st == 2, hoExp := s.tm.hoExp && st == 3 } :=
  (congrArg State.tm (if_neg h)).trans (raiseMod_tm ..)

theorem refLost_ptp (hst : s.tm.st = 2) (hsrc : s.tm.src = 0) : refLost s false =
    if extQual s.tm then tmState (setTm s { s.tm with ptpOk := false, ptpErr := none }) 1 1
    else if s.tm.hoQual then tmState (setTm s { s.tm with ptpOk := false, ptpErr := none }) 3 0
    else tmState (setTm s { s.tm with ptpOk := false, ptpErr := none }) 0 0 := if_pos ⟨hst, hsrc⟩

theorem refLost_ext (hst : s.tm.st = 2) (hsrc : s.tm.src = 1) (hptp : s.tm.ptpOk = true) :
    refLost s true = tmState (setTm s { s.tm with extErr := none }) 1 0 := (if_pos ⟨hst, hsrc⟩).trans (if_pos hptp)

/-- What becomes of a LOCKED time unit that goes on to ACQUIRING with PTP. -/
theorem refLost_ext_tm (hst : s.tm.st = 2) (hsrc : s.tm.src = 1) (hptp : s.tm.ptpOk = true) :
    (refLost s true).tm.st = 1 ∧ (refLost s true).tm.src = 0 ∧ (refLost s true).tm.ppsOk = s.tm.ppsOk ∧ (refLost s true).tm.freqOk = s.tm.freqOk := by
  rw [refLost_ext hst hsrc hptp, tmState_tm (s := setTm s { s.tm with extErr := none }) (fun e => absurd (hst.symm.trans e) (by decide))]
  exact ⟨rfl, rfl, rfl, rfl⟩

/-! ### Oscillators -/

theorem ctrGet_tellAll {c : Counter} (hlost : c.ctorIdx ≠ Counter.hwEvtLost.ctorIdx) (hrej : c.ctorIdx ≠ Counter.dvEnqRej.ctorIdx)
    (s : State) (code w2 w3 b : Nat) : ctrGet (tellAll s code w2 w3) c b = ctrGet s c b :=
  foldl_keeps (P := fun u => ctrGet u c b = ctrGet s c b)
    (g := fun s h => toEventFlow (postHost s h { code := code, part := 0, mod := true, time := s.now, w2 := w2, w3 := w3 }) h code w2 w3)
    (fun _ _ h => (ctrGet_toEventFlow hlost hrej ..).trans ((ctrGet_postHost hlost ..).trans h)) rfl _

theorem ctrGet_raiseMod {c : Counter} (hlost : c.ctorIdx ≠ Counter.hwEvtLost.ctorIdx) (hrej : c.ctorIdx ≠ Counter.dvEnqRej.ctorIdx)
    (s : State) (code w2 w3 b : Nat) : ctrGet (raiseMod s code w2 w3) c b = ctrGet s c b := by
  unfold raiseMod
  dsimp only
  split
  · exact (ctrGet_logRec ..).trans (ctrGet_tellAll hlost hrej ..)
  · exact ctrGet_tellAll hlost hrej ..

/-- The state after oscillator `o` has failed with the other one in service: degraded, with the time unit `x` and the other oscillator active. -/
def oscReplaced (s : State) (x : Tm) (o : Nat) : State :=
  let sw := x.osc == o
  let s := setTm (noteDeg s) { x with osc := if sw then 1 - o else x.osc }
  if sw then bump s .tmOscSw 0 else s

/-- The failure of oscillator `o` told and logged. -/
def oscTold (s : State) (o : Nat) : State :=
  let s := raiseMod s 0x0902 o s.tm.osc
  logRec s 0x0902 0 true 0 o s.tm.osc []

theorem oscTold_keeps (s : State) (o : Nat) : (oscTold s o).tm = s.tm ∧ ctrGet (oscTold s o) .tmOscSw 0 = ctrGet s .tmOscSw 0 :=
  ⟨raiseMod_tm .., (ctrGet_logRec ..).trans (ctrGet_raiseMod (by decide) (by decide) ..)⟩

theorem oscReplaced_of_active {x : Tm} {o : Nat} (h : (x.osc == o) = true) :
    oscReplaced s x o = bump (setTm (noteDeg s) { x with osc := 1 - o }) .tmOscSw 0 := by
  unfold oscReplaced
  rw [h]
  rfl

theorem oscReplaced_of_spare {x : Tm} {o : Nat} (h : (x.osc == o) = false) : oscReplaced s x o = setTm (noteDeg s) x := by
  unfold oscReplaced
  rw [h]
  rfl

theorem failOsc_active (ha : s.tm.aOk = true) (hb : s.tm.bOk = true) (ho : s.tm.osc = 0) :
    (failOsc s 0).tm = { s.tm with aOk := false, osc := 1 } ∧ ctrGet (failOsc s 0) .tmOscSw 0 = min (2 ^ 32 - 1) (ctrGet s .tmOscSw 0 + 1) := by
  have hfail : failOsc s 0 = oscTold (oscReplaced s { s.tm with aOk := false } 0) 0 :=
    (if_neg (ne_true_of_eq_false (congrArg not ha))).trans (if_pos hb)
  rw [hfail, oscReplaced_of_active (x := { s.tm with aOk := false }) (beq_iff_eq.2 ho)]
  obtain ⟨htm, hctr⟩ := oscTold_keeps (bump (setTm (noteDeg s) { s.tm with aOk := false, osc := 1 - 0 }) .tmOscSw 0) 0
  exact ⟨htm, hctr.trans ((ctrGet_bump_same ..).trans (congrArg (fun k => min (2 ^ 32 - 1) (k + 1)) (ctrGet_noteDeg ..)))⟩

theorem failOsc_spare (ha : s.tm.aOk = true) (hb : s.tm.bOk = true) (ho : s.tm.osc = 0) :
    (failOsc s 1).tm = { s.tm with bOk := false } ∧ ctrGet (failOsc s 1) .tmOscSw 0 = ctrGet s .tmOscSw 0 := by
  have hfail : failOsc s 1 = oscTold (oscReplaced s { s.tm with bOk := false } 1) 1 :=
    (if_neg (ne_true_of_eq_false (congrArg not hb))).trans (if_pos ha)
  have hspare : (s.tm.osc == 1) = false := by
    rw [ho]
    rfl
  rw [hfail, oscReplaced_of_spare (x := { s.tm with bOk := false }) hspare]
  obtain ⟨htm, hctr⟩ := oscTold_keeps (setTm (noteDeg s) { s.tm with bOk := false }) 1
  exact ⟨htm, hctr.trans (ctrGet_noteDeg ..)⟩

end Sys2Proof.Machine
end

section
/-!
THEOREMS. References, oscillators and outputs keep time (TimeUnit, R300 to R303). Every clause of `Parts.ReferencesAndOscillators` but one holds of every
state. PPS_OUT rises at an advanced second boundary where OUT_ADV is within a second, as its 16-bit field keeps it; a state that holds more refutes O44.
-/
namespace Sys2Proof.Machine

variable {s : State}

/-! ### Oscillators -/

/-- A reference against which the oscillators are measured. -/
def timeRef (s : State) : Bool := s.tm.ptpOk || extQual s.tm

theorem oscillators (s : State) :
    (∀ (a b : Int) (d : Nat), timeRef s = true → a.natAbs ≤ s.tm.oscThr → b.natAbs ≤ s.tm.oscThr → Ignored (.oscCheck a b d) s) ∧
    (∀ (a b : Int) (d : Nat), timeRef s = false → d ≤ s.tm.oscThr ∨ s.tm.aOk = false ∨ s.tm.bOk = false → Ignored (.oscCheck a b d) s) ∧
    (∀ (a b : Int) (d : Nat), timeRef s = false → s.tm.oscThr < d → s.tm.aOk = true → s.tm.bOk = true →
      Runs (.oscCheck a b d) s fun t => t.tm = { s.tm with disagree := true }) := by
  refine ⟨fun a b d href ha hb => ?_, fun a b d href h => ?_, fun a b d href hd ha hb => ?_⟩
  · exact (if_pos href).trans ((if_neg fun h => absurd h.1 (Nat.not_lt_of_le ha)).trans (if_neg fun h => absurd h.1 (Nat.not_lt_of_le hb)))
  · refine (if_neg (ne_true_of_eq_false href)).trans (if_neg ?_)
    rw [Bool.and_eq_true, Bool.and_eq_true, decide_eq_true_iff]
    rintro ⟨⟨hd, ha⟩, hb⟩
    exact h.elim (Nat.not_le_of_lt hd) (Or.rec (ne_false_of_eq_true ha) (ne_false_of_eq_true hb))
  · refine ⟨_, (if_neg (ne_true_of_eq_false href)).trans (if_pos ?_), raiseMod_tm ..⟩
    rw [Bool.and_eq_true, Bool.and_eq_true, decide_eq_true_iff]
    exact ⟨⟨hd, ha⟩, hb⟩

theorem oscillatorsFail (ha : s.tm.aOk = true) (hb : s.tm.bOk = true) (ho : s.tm.osc = 0) :
    (∀ (a b : Int) (d : Nat), timeRef s = true → s.tm.oscThr < a.natAbs → 2 * b.natAbs < s.tm.oscThr →
      Runs (.oscCheck a b d) s fun t => t.tm.aOk = false ∧ t.tm.osc = 1) ∧
    Runs (.oscEdgeLoss 0) s (fun t => t.tm = { s.tm with aOk := false, osc := 1 } ∧ ctrGet t .tmOscSw 0 = min (2 ^ 32 - 1) (ctrGet s .tmOscSw 0 + 1)) ∧
    Runs (.oscEdgeLoss 1) s (fun t => t.tm = { s.tm with bOk := false } ∧ ctrGet t .tmOscSw 0 = ctrGet s .tmOscSw 0) := by
  have hfail := failOsc_active ha hb ho
  refine ⟨fun a b d href hda hdb => ⟨failOsc s 0, (if_pos href).trans (if_pos ⟨hda, hdb⟩), ?_⟩, ⟨_, rfl, hfail⟩, ⟨_, rfl, failOsc_spare ha hb ho⟩⟩
  exact ⟨congrArg Tm.aOk hfail.1, congrArg Tm.osc hfail.1⟩

/-! ### A reference qualifies -/

section
variable {ext : Bool}

/-- The reference that the time unit follows from FREERUN and HOLDOVER. -/
def refSrc (x : Tm) : Nat := if extQual x && (x.prefExt || !x.ptpOk) then 1 else 0

/-- The state in which the reference counts as qualified. -/
def refNoted (s : State) (ext : Bool) : State := if ext then s else setTm s { s.tm with ptpOk := true }

theorem exec_refQualify_ignored (h : s.flt.mcDown.isSome = true ∨ ext = true ∧ extQual s.tm = false ∨ ext = false ∧ chosenPort s = none) :
    exec (.refQualify ext) s = .next s := by
  refine if_pos ?_
  obtain h | ⟨rfl, h⟩ | ⟨rfl, h⟩ := h <;> simp [h]

theorem exec_refQualify (h : (s.flt.mcDown.isSome || (ext && !extQual s.tm) || (!ext && (chosenPort s).isNone)) = false) : exec (.refQualify ext) s =
    if (refNoted s ext).tm.st = 0 ∨ (refNoted s ext).tm.st = 3 then .next (tmState (refNoted s ext) 1 (refSrc (refNoted s ext).tm))
    else .next (refNoted s ext) := if_neg (ne_true_of_eq_false h)

theorem tmState_acquiring {u : State} (h : u.tm.st = 0 ∨ u.tm.st = 3) (src : Nat) :
    (tmState u 1 src).tm.st = 1 ∧ (tmState u 1 src).tm.ptpOk = u.tm.ptpOk ∧ (tmState u 1 src).tm.src = src := by
  rw [tmState_tm (fun e => by omega)]
  exact ⟨rfl, rfl, rfl⟩

theorem refQualify_ptp (hmc : s.flt.mcDown = none) (hport : (chosenPort s).isSome = true) :
    (s.tm.st = 0 ∨ s.tm.st = 3 → Runs (.refQualify false) s fun t => t.tm.st = 1 ∧ t.tm.ptpOk = true ∧ t.tm.src = if extQual s.tm && s.tm.prefExt then 1 else 0) ∧
    (s.tm.st = 1 ∨ s.tm.st = 2 → Gives (.refQualify false) s { s with tm := { s.tm with ptpOk := true } }) := by
  have hexec := exec_refQualify (s := s) (ext := false) (by rw [hmc, Option.isNone_eq_false_iff.2 hport]; rfl)
  refine ⟨fun hst => ⟨_, hexec.trans (if_pos hst), ?_⟩, fun hst => hexec.trans (if_neg (?_ : ¬(s.tm.st = 0 ∨ s.tm.st = 3)))⟩
  · have hsrc : refSrc (refNoted s false).tm = if extQual s.tm && s.tm.prefExt then 1 else 0 :=
      congrArg (fun b => if extQual s.tm && b then 1 else 0) (Bool.or_false s.tm.prefExt)
    rw [hsrc]
    exact tmState_acquiring (u := refNoted s false) hst _
  · omega

theorem refQualify_ext (hmc : s.flt.mcDown = none) (hq : extQual s.tm = true) (hst : s.tm.st = 0 ∨ s.tm.st = 3) :
    Runs (.refQualify true) s fun t => t.tm.st = 1 ∧ t.tm.src = if s.tm.prefExt || !s.tm.ptpOk then 1 else 0 := by
  have hexec := exec_refQualify (s := s) (ext := true) (by rw [hmc, hq]; rfl)
  have hsrc : refSrc s.tm = if s.tm.prefExt || !s.tm.ptpOk then 1 else 0 := by
    unfold refSrc
    rw [hq]
    rfl
  obtain ⟨hs, -, hr⟩ := tmState_acquiring hst (refSrc s.tm)
  exact ⟨_, hexec.trans (if_pos hst), hs, hr.trans hsrc⟩

end

/-! ### LOCKED and HOLDOVER -/

/-- Has the phase error been below 100 ns for 60 s? -/
def lowFor60 (s : State) : Bool := match lowSince s with
  | some t => decide (t + 60000000000 ≤ upNs s)
  | none => false

theorem lowFor60_iff : lowFor60 s = true ↔ ∃ t, lowSince s = some t ∧ t + 60000000000 ≤ upNs s := by
  unfold lowFor60
  cases lowSince s with
  | none => simp
  | some t => simp

theorem exec_tmLock : exec .tmLock s =
    if s.tm.st = 1 ∧ (refErr s s.tm.src).isSome ∧ lowFor60 s = true then .next (tmState s 2 s.tm.src) else .next s := rfl

theorem tmLock_runs (hst : s.tm.st = 1) (herr : (refErr s s.tm.src).isSome = true) (hlow : ∃ t, lowSince s = some t ∧ t + 60000000000 ≤ upNs s) :
    Runs .tmLock s fun t => t.tm = { s.tm with st := 2, hoExp := false, phaseErr := phaseNow s, phaseAt := upNs s, stAt := upNs s, lowAt := upNs s } := by
  refine ⟨_, exec_tmLock.trans (if_pos ⟨hst, herr, lowFor60_iff.2 hlow⟩), ?_⟩
  refine (tmState_tm (fun e => absurd (hst.symm.trans e) (by decide)) _).trans ?_
  rw [show (s.tm.hoQual && 2 == 2) = s.tm.hoQual from Bool.and_true _,
    show (s.tm.hoExp && 2 == 3) = false from Bool.and_false _]
  rfl

theorem tmLock_ignored (h : s.tm.st ≠ 1 ∨ refErr s s.tm.src = none ∨ lowSince s = none ∨ ∃ t, lowSince s = some t ∧ upNs s < t + 60000000000) :
    Ignored .tmLock s := by
  refine exec_tmLock.trans (if_neg ?_)
  rintro ⟨hst, herr, hlow⟩
  obtain ⟨t, ht, hle⟩ := lowFor60_iff.1 hlow
  obtain h | h | h | ⟨t', ht', hlt⟩ := h
  · exact h hst
  · rw [h] at herr
    exact Bool.noConfusion herr
  · exact absurd (h.symm.trans ht) (by simp)
  · rw [Option.some.inj (ht'.symm.trans ht)] at hlt
    exact Nat.not_le_of_lt hlt hle

theorem holdover (s : State) :
    (s.tm.st = 2 → s.tm.stAt + 900000000000 ≤ upNs s → Gives .hoQualSet s { s with tm := { s.tm with hoQual := true } }) ∧
    (s.tm.st ≠ 2 ∨ upNs s < s.tm.stAt + 900000000000 → Ignored .hoQualSet s) ∧
    (s.tm.st = 3 → s.tm.hoExp = false → s.tm.stAt + 7200000000000 ≤ upNs s → Runs .tmHoEvt s fun t => t.tm = { s.tm with hoExp := true }) ∧
    (s.tm.st ≠ 3 ∨ upNs s < s.tm.stAt + 7200000000000 → Ignored .tmHoEvt s) :=
  ⟨fun hst hle => if_pos ⟨hst, hle⟩, fun h => if_neg fun hn => h.elim (· hn.1) (Nat.not_lt_of_le hn.2),
    fun hst hexp hle => ⟨_, if_pos ⟨hst, hexp, hle⟩, raiseMod_tm ..⟩, fun h => if_neg fun hn => h.elim (· hn.1) (Nat.not_lt_of_le hn.2.2)⟩

/-! ### A reference is lost -/

theorem ptpLost (hst : s.tm.st = 2) (hsrc : s.tm.src = 0) :
    (extQual s.tm = false → s.tm.hoQual = true → Runs (.refLost false) s fun t => t.tm.st = 3 ∧ t.tm.ptpOk = false ∧ t.tm.hoQual = false) ∧
    (extQual s.tm = false → s.tm.hoQual = false → Runs (.refLost false) s fun t => t.tm.st = 0) ∧
    (extQual s.tm = true → Runs (.refLost false) s fun t => t.tm.st = 1 ∧ t.tm.src = 1) := by
  have hlost : ∀ st src, st ≠ 2 → (tmState (setTm s { s.tm with ptpOk := false, ptpErr := none }) st src).tm.st = st ∧
      (tmState (setTm s { s.tm with ptpOk := false, ptpErr := none }) st src).tm.src = src ∧
      (tmState (setTm s { s.tm with ptpOk := false, ptpErr := none }) st src).tm.ptpOk = false ∧
      (tmState (setTm s { s.tm with ptpOk := false, ptpErr := none }) st src).tm.hoQual = (s.tm.hoQual && st == 2) := fun st src hne => by
    rw [tmState_tm (s := setTm s { s.tm with ptpOk := false, ptpErr := none }) (fun e => hne (e.symm.trans hst))]
    exact ⟨rfl, rfl, rfl, rfl⟩
  have hrefLost := refLost_ptp hst hsrc
  refine ⟨fun hq hho => ⟨_, congrArg Host.Outcome.next (hrefLost.trans ((if_neg (ne_true_of_eq_false hq)).trans (if_pos hho))), ?_⟩,
    fun hq hho => ⟨_, congrArg Host.Outcome.next (hrefLost.trans ((if_neg (ne_true_of_eq_false hq)).trans (if_neg (ne_true_of_eq_false hho)))), ?_⟩,
    fun hq => ⟨_, congrArg Host.Outcome.next (hrefLost.trans (if_pos hq)), ?_⟩⟩
  · obtain ⟨h1, -, h3, h4⟩ := hlost 3 0 (by decide)
    exact ⟨h1, h3, h4.trans (Bool.and_false _)⟩
  · exact (hlost 0 0 (by decide)).1
  · obtain ⟨h1, h2, -, -⟩ := hlost 1 1 (by decide)
    exact ⟨h1, h2⟩

theorem exec_ppsInLost {t0 : Nat} (hlast : s.tm.ppsLast = some t0) : exec .ppsInLost s =
    if upNs s < t0 + 2000000000 then .next s
    else .next (refLost (setTm s { s.tm with ppsOk := false, ppsRun := 0, ppsLast := none }) true) := by
  change execPpsInLost s = _
  unfold execPpsInLost
  rw [hlast]

theorem extLost (hst : s.tm.st = 2) (hsrc : s.tm.src = 1) (hptp : s.tm.ptpOk = true) :
    (∀ t0, s.tm.ppsLast = some t0 → t0 + 2000000000 ≤ upNs s → Runs .ppsInLost s fun t => t.tm.st = 1 ∧ t.tm.src = 0 ∧ t.tm.ppsOk = false) ∧
    Runs (.freqInChange false) s fun t => t.tm.st = 1 ∧ t.tm.src = 0 ∧ t.tm.freqOk = false := by
  refine ⟨fun t0 hlast hle => ⟨_, (exec_ppsInLost hlast).trans (if_neg (Nat.not_lt_of_le hle)), ?_⟩, ⟨_, rfl, ?_⟩⟩
  · obtain ⟨h1, h2, h3, -⟩ := refLost_ext_tm (s := setTm s { s.tm with ppsOk := false, ppsRun := 0, ppsLast := none }) hst hsrc hptp
    exact ⟨h1, h2, h3⟩
  · obtain ⟨h1, h2, -, h4⟩ := refLost_ext_tm (s := setTm s { s.tm with freqOk := false }) hst hsrc hptp
    exact ⟨h1, h2, h4⟩

/-! ### Edges of PPS_IN and PPS_OUT -/

/-- The run of edges a second apart that an edge of PPS_IN extends or begins. -/
def edgeRun (s : State) : Nat := match s.tm.ppsLast with
  | some t => if 999999000 ≤ upNs s - t ∧ upNs s - t ≤ 1000001000 then s.tm.ppsRun + 1 else 1
  | none => 1

theorem exec_ppsInEdge {run : Nat} {ok : Bool} (hrun : edgeRun s = run) (hok : (s.tm.ppsOk || run ≥ 3) = ok) : exec .ppsInEdge s =
    .next (phaseMeas { s with tm := { s.tm with ppsRun := run, ppsLast := some (upNs s), ppsOk := ok } } true (fromSecond ((s.now : Int) - s.tm.ppsIn))) := by
  subst hrun hok
  rfl

theorem ppsInEdges (s : State) :
    let e := fromSecond ((s.now : Int) - s.tm.ppsIn)
    (∀ t0, s.tm.ppsLast = some t0 → 999999000 ≤ upNs s - t0 → upNs s - t0 ≤ 1000001000 → s.tm.ppsRun = 2 →
      Gives .ppsInEdge s (phaseMeas { s with tm := { s.tm with ppsRun := 3, ppsLast := some (upNs s), ppsOk := true } } true e)) ∧
    (s.tm.ppsLast = none → Gives .ppsInEdge s (phaseMeas { s with tm := { s.tm with ppsRun := 1, ppsLast := some (upNs s) } } true e)) := by
  refine ⟨fun t0 hlast hlow hhigh hrun => exec_ppsInEdge ?_ (Bool.or_true _), fun hlast => exec_ppsInEdge ?_ (Bool.or_false _)⟩
  · unfold edgeRun
    rw [hlast]
    exact (if_pos ⟨hlow, hhigh⟩).trans (congrArg (· + 1) hrun)
  · unfold edgeRun
    rw [hlast]

theorem extPhase {e : Int} (hst : s.tm.st = 1 ∨ s.tm.st = 2) (hsrc : s.tm.src = 1) (he : e.natAbs ≤ 1000000) : phaseMeas s true e =
    { s with tm := { s.tm with extErr := some e, phaseErr := e, phaseAt := upNs s, lowAt := min ((lowSince s).getD (upNs s)) (upNs s), phaseFar := false } } := by
  rw [phaseMeas_of_followed (ext := true) ⟨hst, hsrc⟩]
  have hfar : (decide (1000000 < e.natAbs) && stepBarred (phaseNoted s true e)) = false := by
    rw [decide_eq_false (Nat.not_lt_of_le he)]
    rfl
  unfold setPhase
  rw [hfar]
  rfl

theorem extPhase_unfollowed {e : Int} (hsrc : s.tm.src ≠ 1) : phaseMeas s true e = { s with tm := { s.tm with extErr := some e } } :=
  phaseMeas_of_unfollowed (ext := true) fun h => hsrc h.2

theorem ppsOutRises (hadv : s.tm.ppsOut < 2 ^ 16) :
    let r := (s.now + s.tm.ppsOut) / 1000000000 * 1000000000 - s.tm.ppsOut
    (s.tm.ppsRise ≠ some r → Gives .ppsOutSecond s { s with tm := { s.tm with outOn := s.tm.st != 0 || s.tm.ppsFreerun, ppsRise := some r } }) ∧
    (s.tm.ppsRise = some r → Ignored .ppsOutSecond s) ∧ r ≤ s.now ∧
    (1000000000 ≤ s.now + s.tm.ppsOut → (r + s.tm.ppsOut) % 1000000000 = 0 ∧ s.now < r + 1000000000) := by
  refine ⟨fun h => if_neg h, fun h => if_pos h, ?_, fun hle => ?_⟩
  · omega
  · omega

theorem ppsOut_iff {r : Nat} (hrise : s.tm.ppsRise = some r) (hon : s.tm.outOn = true) : ppsOut s = true ↔ r ≤ s.now ∧ s.now < r + 1000000 := by
  unfold ppsOut
  rw [hrise]
  simp [hon]

/-- A second after the epoch's start has not passed, and OUT_ADV stands at one and a half. -/
def outAdvPastSecond : State := { State.reset with now := 0, tm := { ppsOut := 1500000000 } }

/-- Refutes O44: where OUT_ADV exceeds a second, which the model's state may hold though its 16-bit field may not, the rise of PPS_OUT before the first
second is cut off at time 0 and is then no advanced second boundary. -/
theorem not_framesAreSentAndTimeIsKept : ¬ Obligations.FramesAreSentAndTimeIsKept := by
  rintro ⟨-, -, href⟩
  obtain ⟨-, -, -, -, -, -, -, -, -, -, -, -, -, -, -, -, -, -, -, -, -, -, -, -, -, -, ⟨-, -, -, hrise⟩, -⟩ := href outAdvPastSecond
  exact absurd (hrise (by decide)).1 (by decide)

end Sys2Proof.Machine
end

section
/-!
THEOREMS. Commands on partitions (Corward, R324): a plan that runs is stopped in the record of its partition.
-/
namespace Sys2Proof.Machine

/-- A PART_DESTROY without payload. -/
def destroyCmd : HostCmd := { opc := 0x0101, seq := 7, args := [] }

/-- The MC has begun a PART_DESTROY of partition 0, whose plan runs. -/
def destroyRunning : State :=
  { setTick (setHost State.reset 0 { session := true, begun := some destroyCmd }) 0 { run := true } with su := { State.reset.su with stage := 10 } }

/-- Refutes O47: PART_DESTROY of a partition whose plan runs marks the plan as stopping, and the mark stands in the partition's own record, which the
statement also keeps as it was. -/
theorem not_commandsOnPartitionsAndCores : ¬ Obligations.CommandsOnPartitionsAndCores := by
  rintro ⟨hparts, -⟩
  obtain ⟨-, -, -, -, -, -, -, ⟨hdestroy, -⟩, -⟩ := hparts 0 destroyRunning destroyCmd
  obtain ⟨hruns, -⟩ := hdestroy ⟨rfl, rfl, by decide⟩ rfl
  obtain ⟨t, -, ⟨hstopping, -⟩, hkept⟩ := hruns (by decide)
  have hbefore : (getTick destroyRunning 0).stopping = false := by decide
  exact absurd (hbefore.symm.trans ((congrArg (fun x => x.tick.stopping) hkept).symm.trans hstopping)) (by decide)

end Sys2Proof.Machine
end

section
/-!
THEOREMS. Commands on memory (HostMem, R249, R263, R281, R318).
-/
namespace Sys2Proof.Machine

theorem fld_zero (v n : Nat) : fld v 0 n = v % 2 ^ n := congrArg (· % 2 ^ n) (Nat.div_one v)

variable {h : Fin 4} {s : State} {c : HostCmd}

theorem address_used {a : Nat} (ha : a < 2 ^ 48) : a &&& addrMask = a := and_mask_of_lt ha

section
variable (ha : arg c 0 < 2 ^ 48)
include ha

theorem memWrite_answers (ht : Turn s h 0x0300 c) : let u := served s h
    let bs := bytesOfWords (c.args.drop 1)
    (ownsRange u h (arg c 0) bs.length = false → Gives (.memWrite h) s (finish u h c 0x05 [0])) ∧
    (∀ n v, ownsRange u h (arg c 0) bs.length = true → memWrite u (some h) (arg c 0) bs = (0, n, v) → Gives (.memWrite h) s (finish v h c 0 [])) ∧
    (∀ st n v, st ≠ 0 → ownsRange u h (arg c 0) bs.length = true → memWrite u (some h) (arg c 0) bs = (st, n, v) →
      Gives (.memWrite h) s (finish v h c 0x0A [BitVec.ofNat 64 n, BitVec.ofNat 64 st])) := by
  intro u bs
  have hbits := unusedBits_single (address_used ha)
  refine ⟨fun hown => ?_, fun n v hown hw => ?_, fun st n v hst hown hw => ?_⟩
  · exact congrArg Host.Outcome.next (runCmd_now ht ((checked_of_used hbits).trans (if_pos (congrArg not hown))))
  · exact congrArg Host.Outcome.next (runCmd_now ht ((checked_of_used hbits).trans ((if_neg (ne_true_of_eq_false (congrArg not hown))).trans (by
      rw [hw]
      rfl))))
  · exact congrArg Host.Outcome.next (runCmd_now ht ((checked_of_used hbits).trans ((if_neg (ne_true_of_eq_false (congrArg not hown))).trans (by
      rw [hw]
      cases st with
      | zero => exact absurd rfl hst
      | succ k => rfl))))

theorem memRead_answers (ht : Turn s h 0x0301 c) : let u := served s h
    (arg c 1 = 0 ∨ 524288 < arg c 1 → Gives (.memRead h) s (finish u h c 0x04 [1])) ∧
    (∀ bs v, 1 ≤ arg c 1 → arg c 1 ≤ 524288 → ownsRange u h (arg c 0) (arg c 1) = true → memRead u (some h) (arg c 0) (arg c 1) = (0, bs, v) →
      Gives (.memRead h) s (finish v h c 0 (wordsOfBytes bs))) := by
  intro u
  have hbits := unusedBits_single (address_used ha)
  refine ⟨fun hlen => ?_, fun bs v hlo hhi hown hr => ?_⟩
  · exact congrArg Host.Outcome.next (runCmd_now ht ((checked_of_used hbits).trans (if_pos hlen)))
  · exact congrArg Host.Outcome.next (runCmd_now ht ((checked_of_used hbits).trans ((if_neg (by omega)).trans
      ((if_neg (ne_true_of_eq_false (congrArg not hown))).trans (by
        rw [hr]
        rfl)))))

theorem memFill_answers (ht : Turn s h 0x0302 c) : let u := served s h
    (arg c 0 % 2048 ≠ 0 → Gives (.memFill h) s (finish u h c 0x04 [0])) ∧
    (arg c 0 % 2048 = 0 → arg c 1 % 2048 ≠ 0 → Gives (.memFill h) s (finish u h c 0x04 [1])) ∧
    (∀ k v, arg c 0 % 2048 = 0 → arg c 1 % 2048 = 0 → ownsRange u h (arg c 0) (arg c 1) = true →
      fillPages u h (arg c 2) (arg c 0) (arg c 1 / 2048) = (0, k, v) → Gives (.memFill h) s (finish v h c 0 [BitVec.ofNat 64 k])) := by
  intro u
  have hbits := unusedBits_single (address_used ha)
  refine ⟨fun hbase => ?_, fun hbase hlen => ?_, fun k v hbase hlen hown hfill => ?_⟩
  · exact congrArg Host.Outcome.next (runCmd_now ht ((checked_of_used hbits).trans (if_pos hbase)))
  · exact congrArg Host.Outcome.next (runCmd_now ht ((checked_of_used hbits).trans ((if_neg (not_not.2 hbase)).trans (if_pos hlen))))
  · exact congrArg Host.Outcome.next (runCmd_now ht ((checked_of_used hbits).trans ((if_neg (not_not.2 hbase)).trans ((if_neg (not_not.2 hlen)).trans
      ((if_neg (ne_true_of_eq_false (congrArg not hown))).trans (by
        rw [hfill]
        rfl))))))

theorem memInject_answers (ch pg : Nat) (v : State) (ht : Turn s h 0x0304 c) (hpos : arg c 1 &&& 0xF7FFF = arg c 1) (htgt : targetOf (arg c 0) = .lpddr ch pg)
    (hpage : arg c 0 % 2048 = 0) (hbit : arg c 1 % 2 ^ 15 ≤ 16895) (hown : ownsMem s h (arg c 0) = true)
    (hw : writePiece (updCh (served s h) ch fun x => { x with injPos := arg c 1 % 2 ^ 15, injCnt := arg c 1 / 2 ^ 16 % 16, injArm := true }) (some h) (arg c 0)
      (bytesOfWords (c.args.drop 2)) = (0, v)) : Gives (.memInject h) s (finish v h c 0 []) := by
  have hbits : unusedBits c [(0, addrMask), (1, 0xF7FFF)] = none := (unusedBits_cons_of_used (address_used ha)).trans (unusedBits_single hpos)
  refine congrArg Host.Outcome.next (runCmd_now ht ((checked_of_used hbits).trans ?_))
  dsimp only
  rw [htgt]
  refine (if_neg (not_not.2 hpage)).trans ((if_neg ?_).trans ((if_neg (ne_true_of_eq_false (congrArg not hown))).trans ?_))
  · rw [fld_zero]
    exact Nat.not_lt_of_le hbit
  · rw [fld_zero, show fld (arg c 1) 16 4 = arg c 1 / 2 ^ 16 % 16 from rfl, hw]
    rfl

end

theorem memRegion_bits (ha : arg c 0 < 512) (hb : arg c 1 < 2 ^ 17) (hl : arg c 2 < 2 ^ 17) :
    unusedBits c [(0, 2 ^ 9 - 1), (1, 2 ^ 17 - 1), (2, 2 ^ 17 - 1)] = none :=
  (unusedBits_cons_of_used (and_mask_of_lt ha)).trans ((unusedBits_cons_of_used (and_mask_of_lt hb)).trans (unusedBits_single (and_mask_of_lt hl)))

section
variable (ht : Turn s h 0x0303 c) (ha : arg c 0 < 512) (hb : arg c 1 < 2 ^ 17) (hl : arg c 2 < 2 ^ 17)
include ht ha hb hl

theorem memRegion_default (hdef : bit (arg c 0) 3 = true) : let u := served s h
    (s.mc.manager ≠ some h.val → Gives (.memRegion h) s (finish u h c 0x0F [])) ∧
    (s.mc.manager = some h.val → arg c 0 / 16 % 8 ≠ 7 →
      Gives (.memRegion h) s (finish { u with mem := { s.mem with rgnDefT := arg c 0 / 16 % 8 } } h c 0 [])) := by
  intro u
  have hbits := memRegion_bits ha hb hl
  refine ⟨fun hman => ?_, fun hman ht7 => ?_⟩
  · exact congrArg Host.Outcome.next (runCmd_now ht ((checked_of_used hbits).trans ((if_pos hdef).trans (if_pos (bne_iff_ne.2 hman)))))
  · exact congrArg Host.Outcome.next (runCmd_now ht ((checked_of_used hbits).trans ((if_pos hdef).trans
      ((if_neg (by rw [bne_iff_ne, not_not]; exact hman)).trans (if_neg ht7)))))

theorem memRegion_sets (hdef : bit (arg c 0) 3 = false) (hpart : (getPart s h).st ≠ .none) (ht7 : arg c 0 / 16 % 8 ≠ 7) (hv : bit (arg c 0) 7 = true)
    (hfree : (getRgn s (arg c 0 % 8)).valid = false) (hle : arg c 1 ≤ arg c 2)
    (hown : ((upFrom (arg c 1) (arg c 2 + 1 - arg c 1)).all fun m => ownsMem (served s h) h (m * 0x100000)) = true) :
    Gives (.memRegion h) s (finish { served s h with mem := { s.mem with
      rgn := tset s.mem.rgn (arg c 0 % 8) { base := arg c 1, limit := arg c 2, valid := true, t := arg c 0 / 16 % 8 } } } h c 0 []) := by
  refine congrArg Host.Outcome.next (runCmd_now ht ((checked_of_used (memRegion_bits ha hb hl)).trans ((if_neg (ne_true_of_eq_false hdef)).trans
    ((if_neg hpart).trans ((if_neg ht7).trans ?_)))))
  dsimp only
  rw [hv, hown, fld_zero, show getRgn (served s h) (arg c 0 % 2 ^ 3) = getRgn s (arg c 0 % 8) from rfl, hfree, decide_eq_false (Nat.not_lt_of_le hle)]
  rfl

end

theorem memoryCommands : Parts.MemoryCommands := by
  refine fun h s c ha => ⟨memWrite_answers ha, memRead_answers ha, memFill_answers ha, fun ht hw hb hl => ⟨fun hdef => (memRegion_default ht hw hb hl hdef).1,
    fun hdef => (memRegion_default ht hw hb hl hdef).2, memRegion_sets ht hw hb hl⟩, fun ch pg v => memInject_answers ha ch pg v⟩

end Sys2Proof.Machine
end

section
/-!
THEOREMS. Commands on keys, time, thermal limits and ageing (Manage, R289, R290, R293, R294, R298, R299, R304, R325, R364, R378, R379).
-/
namespace Sys2Proof.Machine

variable {h : Fin 4} {s : State} {c : HostCmd}

/-! ### MACsec keys -/

theorem saPort_eq (w : Nat) : saPort w = w % 4 := fld_zero w 2

theorem saKept {w : Nat} (h : saTx w = false ∨ saSc w ≤ 7) : ¬(saTx w && decide (7 < saSc w)) = true := by
  rw [Bool.and_eq_true, decide_eq_true_iff]
  rintro ⟨htx, hsc⟩
  exact h.elim (ne_false_of_eq_true htx) (Nat.not_le_of_lt hsc)

/-- The SA that MS_SA_INSTALL carries. -/
def saOf (c : HostCmd) : Sa :=
  { tx := saTx (arg c 0), sc := saSc (arg c 0), sci := arg c 1, an := saAn (arg c 0), ssci := arg c 0 / 2 ^ 32 % 2 ^ 32, pn := arg c 2
    salt := arg c 3 + arg c 4 * 2 ^ 64, key := ofLe (bytesOfWords (c.args.drop 5)) }

theorem saInstall (ht : Turn s h 0x0500 c) (hw : arg c 0 &&& 0xFFFFFFFF000003FF = arg c 0) (h4 : arg c 4 < 2 ^ 32) : let u := served s h
    let port := arg c 0 % 4
    (saTx (arg c 0) = true → 7 < saSc (arg c 0) → Gives (.msSaInstall h) s (finish u h c 0x04 [0])) ∧
    ((saTx (arg c 0) = false ∨ saSc (arg c 0) ≤ 7) → ownsBp s h port = false → Gives (.msSaInstall h) s (finish u h c 0x05 [0])) ∧
    ((saTx (arg c 0) = false ∨ saSc (arg c 0) ≤ 7) → ownsBp s h port = true → Gives (.msSaInstall h) s (finish (setBp u port { getBp s port with
      sas := ((getBp s port).sas.filter fun y => !saNamed (arg c 0) y) ++ [saOf c] }) h c 0 [])) := by
  intro u port
  have hbits : unusedBits c [(0, 0xFFFFFFFF000003FF), (4, 0xFFFFFFFF)] = none :=
    (unusedBits_cons_of_used hw).trans (unusedBits_single (and_mask_of_lt (n := 32) h4))
  have hport : saPort (arg c 0) = port := saPort_eq _
  refine ⟨fun htx hsc => ?_, fun hsa hown => ?_, fun hsa hown => ?_⟩
  · exact congrArg Host.Outcome.next (runCmd_now ht ((checked_of_used hbits).trans (if_pos (by rw [htx, decide_eq_true hsc]; rfl))))
  · exact congrArg Host.Outcome.next (runCmd_now ht ((checked_of_used hbits).trans ((if_neg (saKept hsa)).trans (if_pos (by
      rw [hport]
      exact congrArg not hown)))))
  · refine congrArg Host.Outcome.next (runCmd_now ht ((checked_of_used hbits).trans ((if_neg (saKept hsa)).trans ((if_neg ?_).trans ?_))))
    · rw [hport]
      exact ne_true_of_eq_false (congrArg not hown)
    · rw [hport]
      rfl

theorem saActivate (ht : Turn s h 0x0501 c) (hw : arg c 0 &&& 0x31F = arg c 0) (hown : ownsBp s h (arg c 0 % 4) = true) : let port := arg c 0 % 4
    let v := setBp (served s h) port { getBp s port with active := tset (getBp s port).active (arg c 0 / 4 % 8) (arg c 0 / 256 % 4) }
    (txSa (getBp v port) (arg c 0 / 4 % 8) = none → Gives (.msSaActivate h) s (finish v h c 0 [])) ∧
    (∀ a, txSa (getBp v port) (arg c 0 / 4 % 8) = some a → Gives (.msSaActivate h) s (finish (notePn v port (arg c 0 / 4 % 8) a) h c 0 [])) := by
  intro port v
  have hport : fld (arg c 0) 0 2 = port := fld_zero _ 2
  have hactive : updBp (served s h) port (fun b => { b with active := tset b.active (fld (arg c 0) 2 3) (fld (arg c 0) 8 2) }) = v := rfl
  refine ⟨fun hsa => ?_, fun a hsa => ?_⟩
  all_goals
    refine congrArg Host.Outcome.next (runCmd_now ht ((checked_of_used (unusedBits_single hw)).trans ((if_neg ?_).trans ?_)))
    · rw [hport]
      exact ne_true_of_eq_false (congrArg not hown)
    · dsimp only
      rw [hport, hactive, show fld (arg c 0) 2 3 = arg c 0 / 4 % 8 from rfl, hsa]
      rfl

theorem saDelete (ht : Turn s h 0x0502 c) (hw : arg c 0 &&& 0xFFFFFFFF000003FF = arg c 0) (hsa : saTx (arg c 0) = false ∨ saSc (arg c 0) ≤ 7)
    (hown : ownsBp s h (arg c 0 % 4) = true) : Gives (.msSaDelete h) s (finish (setBp (served s h) (arg c 0 % 4)
      { getBp s (arg c 0 % 4) with sas := (getBp s (arg c 0 % 4)).sas.filter fun y => !saNamed (arg c 0) y }) h c 0 []) := by
  refine congrArg Host.Outcome.next (runCmd_now ht ((checked_of_used (unusedBits_single hw)).trans ((if_neg (saKept hsa)).trans ((if_neg ?_).trans ?_))))
  · rw [saPort_eq]
    exact ne_true_of_eq_false (congrArg not hown)
  · rw [saPort_eq]
    rfl

/-! ### Time -/

theorem tcMapped (ht : Turn s h 0x0503 c) (hw : arg c 0 &&& 0x8000031F = arg c 0) (hfh : ownsFh s h (arg c 0 % 32) = true)
    (hbp : ownsBp s h (arg c 0 / 256 % 4) = true) : Gives (.tcMap h) s (finish { served s h with tm := { s.tm with
      tcMap := tset s.tm.tcMap (arg c 0 % 32) (arg c 0 / 256 % 4 + b2n (bit (arg c 0) 31) * 2 ^ 31) } } h c 0 []) := by
  have hlow : fld (arg c 0) 0 5 = arg c 0 % 32 := fld_zero _ 5
  refine congrArg Host.Outcome.next (runCmd_now ht ((checked_of_used (unusedBits_single hw)).trans ((if_neg ?_).trans ?_)))
  · rw [hlow]
    exact not_or.2 ⟨ne_true_of_eq_false (congrArg not hfh), ne_false_of_eq_true hbp⟩
  · rw [hlow]
    rfl

theorem ptpConfigured (ht : Turn s h 0x0504 c) (hw : arg c 0 < 2 ^ 48) :
    (24 ≤ arg c 0 % 256 → arg c 0 % 256 ≤ 43 → Gives (.ptpCfg h) s (finish { served s h with tm := { s.tm with ptpPorts := arg c 0 / 2 ^ 8 % 16, cfg :=
      { domain := arg c 0 % 256, ports := arg c 0 / 2 ^ 8 % 16, interval := arg c 0 / 2 ^ 12 % 16, prios := arg c 0 / 2 ^ 16 % 2 ^ 32 } } } h c 0 [])) ∧
    (arg c 0 % 256 < 24 ∨ 43 < arg c 0 % 256 → Gives (.ptpCfg h) s (finish (served s h) h c 0x04 [0])) := by
  have hbits : unusedBits c [(0, 2 ^ 48 - 1)] = none := unusedBits_single (and_mask_of_lt hw)
  have hdom : fld (arg c 0) 0 8 = arg c 0 % 256 := fld_zero _ 8
  refine ⟨fun hlo hhi => ?_, fun hout => ?_⟩
  · refine congrArg Host.Outcome.next (runCmd_now ht ((checked_of_used hbits).trans ((if_neg ?_).trans ?_)))
    · rw [hdom]
      omega
    · rw [hdom]
      rfl
  · refine congrArg Host.Outcome.next (runCmd_now ht ((checked_of_used hbits).trans (if_pos ?_)))
    rw [hdom]
    exact hout

theorem timeSteps_barred (hbar : stepBarred s = true) :
    (Turn s h 0x0505 c → arg c 0 < 2 ^ 48 → Gives (.timeSet h) s (finish (served s h) h c 0x07 [])) ∧
    (Turn s h 0x0506 c → Gives (.timeStep h) s (finish (served s h) h c 0x07 [])) :=
  ⟨fun ht hw => congrArg Host.Outcome.next (runCmd_now ht ((checked_of_used (unusedBits_single (and_mask_of_lt hw))).trans (if_pos hbar))),
    fun ht => congrArg Host.Outcome.next (runCmd_now ht (if_pos hbar))⟩

theorem timeSteps_free (hfree : stepBarred s = false) :
    (Turn s h 0x0505 c → arg c 0 < 2 ^ 48 →
      Gives (.timeSet h) s (finish (stepTime (served s h) (arg c 0 * 1000000000 + s.now % 1000000000)) h c 0 [])) ∧
    (Turn s h 0x0506 c → Gives (.timeStep h) s (finish (stepTime (served s h) (arg c 0)) h c 0 [])) :=
  ⟨fun ht hw => congrArg Host.Outcome.next (runCmd_now ht ((checked_of_used (unusedBits_single (and_mask_of_lt hw))).trans (if_neg (ne_true_of_eq_false hfree)))),
    fun ht => congrArg Host.Outcome.next (runCmd_now ht (if_neg (ne_true_of_eq_false hfree)))⟩

/-- The state that a step of time is told from. -/
def steppedTo (s : State) (t : Nat) : State :=
  placeGrid (setTm { s with now := t, stepped := s.stepped + ((t : Int) - s.now) }
    { rebase s (phaseNow s + ((t : Int) - s.now)) with
      secondsSet := true, ptpErr := none, extErr := none }) s.tu.mu

theorem stepTime_eq (s : State) (t : Nat) : stepTime s t = raiseMod (steppedTo s t) 0x0900 s.now t := rfl

theorem stepTime_steps (s : State) (t : Nat) : (stepTime s t).now = t ∧ (stepTime s t).tm.secondsSet = true := by
  rw [stepTime_eq, raiseMod_tm]
  exact ⟨away_now (told_raiseMod (told_refl (steppedTo s t)) _ _ _).away, rfl⟩

theorem timeConfigured (ht : Turn s h 0x0507 c) (hw : arg c 0 < 128) (h1 : 1 ≤ arg c 1) (h1' : arg c 1 ≤ 5000) (h2 : arg c 2 < 2 ^ 32) (h3 : 10 ≤ arg c 3)
    (h3' : arg c 3 ≤ 5000) (h4 : arg c 4 < 2 ^ 48) (h5 : arg c 5 < 2 ^ 32) (h6 : arg c 6 = 0) :
    Gives (.timeCfg h) s (finish { served s h with tm := { rebase s (phaseNow s) with
      ptpPorts := arg c 0 % 16, extEn := bit (arg c 0) 4, prefExt := bit (arg c 0) 5, ppsFreerun := bit (arg c 0) 6, slewMax := arg c 1
      ppsIn := arg c 2 % 2 ^ 16, ppsOut := arg c 2 / 2 ^ 16 % 2 ^ 16, oscThr := arg c 3 } } h c 0 []) := by
  have hbits : unusedBits c [(0, 0x7F), (1, 0x1FFF), (2, 0xFFFFFFFF), (3, 0x1FFF), (4, 2 ^ 48 - 1), (5, 0xFFFFFFFF), (6, 1)] = none := by
    refine (unusedBits_cons_of_used (and_mask_of_lt (n := 7) hw)).trans ((unusedBits_cons_of_used (and_mask_of_lt (n := 13) (by omega))).trans
      ((unusedBits_cons_of_used (and_mask_of_lt (n := 32) h2)).trans ((unusedBits_cons_of_used (and_mask_of_lt (n := 13) (by omega))).trans
      ((unusedBits_cons_of_used (and_mask_of_lt h4)).trans ((unusedBits_cons_of_used (and_mask_of_lt (n := 32) h5)).trans (unusedBits_single ?_))))))
    rw [h6]
    rfl
  refine congrArg Host.Outcome.next (runCmd_now ht ((checked_of_used hbits).trans ((if_neg (by omega)).trans ((if_neg (by omega)).trans ?_))))
  rw [h6]
  dsimp only
  rw [fld_zero, fld_zero]
  rfl

/-! ### Thermal limits and ageing -/

theorem thermConfigured (ht : Turn s h 0x0600 c) (hw : arg c 0 < 2 ^ 36) (h1 : arg c 1 &&& 0xFFFF1FFF = arg c 1) (h2 : arg c 2 < 2 ^ 16) :
    (∀ i, thCfgBad (thCfgOf c) = some i → Gives (.thermCfg h) s (finish (served s h) h c 0x04 [BitVec.ofNat 64 i])) ∧
    (thCfgBad (thCfgOf c) = none → Gives (.thermCfg h) s (finish { served s h with th := { s.th with pend := some (thCfgOf c) } } h c 0 [])) := by
  have hbits : unusedBits c [(0, 2 ^ 36 - 1), (1, 0xFFFF1FFF), (2, 0xFFFF)] = none :=
    (unusedBits_cons_of_used (and_mask_of_lt hw)).trans ((unusedBits_cons_of_used h1).trans (unusedBits_single (and_mask_of_lt (n := 16) h2)))
  refine ⟨fun i hbad => ?_, fun hok => ?_⟩
  · refine congrArg Host.Outcome.next (runCmd_now ht ((checked_of_used hbits).trans ?_))
    rw [hbad]
    rfl
  · refine congrArg Host.Outcome.next (runCmd_now ht ((checked_of_used hbits).trans ?_))
    rw [hok]
    rfl

/-- The monitors in service, as AGE_STATUS counts them, and the state after a free value that it may take. -/
def monCount (s : State) : Nat × State :=
  if ((upFrom 0 128).filter fun m => !(getMon s m).oos).length = 128 then takeFree s 7
  else (((upFrom 0 128).filter fun m => !(getMon s m).oos).length, s)

theorem monCount_keeps (s : State) : { (monCount s).2 with fresh := s.fresh } = s := by
  unfold monCount
  split
  · rfl
  · rfl

theorem ageStatus_answers (ht : Turn s h 0x0601 c) : Runs (.ageStatus h) s fun t => ∃ v pay, t = finish v h c 0 pay ∧
    ({ v with fresh := s.fresh } : State) = served s h ∧ pay.length = 26 ∧ ∀ d, d < 24 → pay.getD (2 + d) 0 = BitVec.ofNat 64 (ageWord s d) := by
  have hbody : ∀ a b : Nat, ∃ pay, pay = (BitVec.ofNat 64 a :: BitVec.ofNat 64 b :: (upFrom 0 24).map fun d => BitVec.ofNat 64 (ageWord s d)) ∧
      pay.length = 26 ∧ ∀ d, d < 24 → pay.getD (2 + d) (0 : Word) = BitVec.ofNat 64 (ageWord s d) := fun a b => by
    refine ⟨_, rfl, ?_, fun d hd => ?_⟩
    · rw [List.length_cons, List.length_cons, List.length_map, upFrom_length]
    · rw [Nat.add_comm, List.getD_cons_succ, List.getD_cons_succ]
      exact (lget_map_upFrom _ _ 0 hd).trans (congrArg (fun k => BitVec.ofNat 64 (ageWord s k)) (Nat.zero_add d))
  obtain ⟨pay, hpay, hlen, hword⟩ := hbody
    (s.age.hours % 2 ^ 32 + min 65535 s.age.replans * 2 ^ 32 + (lowestReserve (served s h)).1 % 32 * 2 ^ 48 +
      (lowestReserve (served s h)).2.1 % 32 * 2 ^ 56 + (lowestReserve (served s h)).2.2 % 4 * 2 ^ 62)
    (((upFrom 0 24).map fun d => domLife s d).foldl min 0xFFFF + ofInt s.age.avg 16 * 2 ^ 16 + (monCount (served s h)).1 * 2 ^ 32)
  refine ⟨finish (monCount (served s h)).2 h c 0 pay, congrArg Host.Outcome.next (runCmd_now ht ?_), _, pay, rfl, monCount_keeps (served s h), hlen, hword⟩
  rw [hpay]
  dsimp only
  generalize lowestReserve (served s h) = low
  obtain ⟨r, d, l⟩ := low
  dsimp only
  unfold monCount
  split
  · rfl
  · rfl

theorem managementCommands : Parts.ManagementCommands := by
  refine fun h s c => ⟨saInstall, saActivate, saDelete, tcMapped, fun ht hw => (ptpConfigured ht hw).1, fun ht hw => (ptpConfigured ht hw).2,
    timeSteps_barred, timeSteps_free, stepTime_steps s, timeConfigured, thermConfigured, ageStatus_answers⟩

/-- Settles O48, from the commands on memory and those on keys, time, thermal limits and ageing. -/
theorem commandsOnMemoryKeysAndTime : Obligations.CommandsOnMemoryKeysAndTime := ⟨memoryCommands, managementCommands⟩

end Sys2Proof.Machine
end
